-- ==== Sys2Proof/Word.lean ====
section
/-! DEFINITION. The word types of the TX9: registers, descriptors and command entries are made of 64-bit words, and
every multi-byte value is little-endian (R8). -/

namespace Sys2Proof

/-- One byte of a memory, a tile store or a register. -/
abbrev Byte := BitVec 8

/-- A 64-bit register, entry word or instruction word. -/
abbrev Word := BitVec 64

/-- An FP32 value as its 32 bits (format code 0x01, R130). -/
abbrev F32 := BitVec 32

end Sys2Proof
end

