-- ==== Sys2Proof/Machine/Bits.lean ====
section
/-! DEFINITION. Bit fields, byte order, signed reading and checksums shared by every layer (R7, R8). -/

namespace Sys2Proof.Machine

/-- Bits [hi:lo] of a word as a number (R7: both ends included). -/
def bits (w : Word) (hi lo : Nat) : Nat := (w.toNat >>> lo) % 2 ^ (hi + 1 - lo)

/-- Bit n of a word. -/
def bit (w : Word) (n : Nat) : Bool := w.toNat.testBit n

/-- Bits [hi:lo] of a number. -/
def nbits (w hi lo : Nat) : Nat := (w >>> lo) % 2 ^ (hi + 1 - lo)

/-- A number placed at bit lo, cut to the width of [hi:lo]. -/
def put (v hi lo : Nat) : Nat := (v % 2 ^ (hi + 1 - lo)) <<< lo

/-- A Bool as the bit n. -/
def putB (b : Bool) (n : Nat) : Nat := if b then 2 ^ n else 0

/-- A word from a number, modulo 2^64. -/
def word (n : Nat) : Word := BitVec.ofNat 64 n

/-- Field [hi:lo] of a word replaced. -/
def setBits (w : Word) (hi lo v : Nat) : Word :=
  word (w.toNat - (bits w hi lo <<< lo) + put v hi lo)

/-- A number below 2^n read as a signed one. -/
def signedOf (n v : Nat) : Int := if v < 2 ^ (n - 1) then (v : Int) else (v : Int) - 2 ^ n

/-- A signed number as its n-bit two's complement. -/
def unsignedOf (n : Nat) (v : Int) : Nat := (v % (2 ^ n : Int)).toNat

/-- Little-endian value of bytes (R8): the byte at the lowest address holds bits [7:0]. -/
def leValue : List Byte → Nat
  | [] => 0
  | b :: r => b.toNat + 256 * leValue r

/-- The n lowest bytes of a value, lowest address first (R8). -/
def leBytes : Nat → Nat → List Byte
  | 0, _ => []
  | n + 1, v => BitVec.ofNat 8 v :: leBytes n (v / 256)

/-- ceil(a / b) for a positive b. -/
def ceilDiv (a b : Nat) : Nat := (a + b - 1) / b

/-- v clamped to lo..hi. -/
def clamp (lo hi v : Nat) : Nat := max lo (min hi v)

/-- One byte of a reflected CRC-32C, eight shift steps. -/
def crcShift : Nat → Nat → Nat
  | 0, c => c
  | n + 1, c => crcShift n (if c % 2 = 1 then (c / 2) ^^^ 0x82F63B78 else c / 2)

/-- CRC-32C state after some bytes. -/
def crcRun : Nat → List Byte → Nat
  | c, [] => c
  | c, b :: r => crcRun (crcShift 8 (c ^^^ b.toNat)) r

/-- CRC-32C of a byte string (the Castagnoli polynomial 0x1EDC6F41, reflected, start and final inversion). -/
def crc32c (bs : List Byte) : Nat := crcRun 0xFFFFFFFF bs ^^^ 0xFFFFFFFF

/-- The n-th element of a list, or a given value. -/
def nth {α : Type} (d : α) (l : List α) (n : Nat) : α := l.getD n d

/-- A list with its n-th element replaced; unchanged when it is shorter. -/
def setNth {α : Type} (l : List α) (n : Nat) (v : α) : List α := l.set n v

/-- Lists cut into runs of n (n > 0), the last one perhaps shorter; fuel bounds the number of runs. -/
def chunksOf {α : Type} (n : Nat) : Nat → List α → List (List α)
  | 0, _ => []
  | f + 1, l => if l.isEmpty then [] else l.take n :: chunksOf n f (l.drop n)

/-- floor(sqrt(n)) by bits, from bit k downward. -/
def isqrtBits (n : Nat) : Nat → Nat → Nat
  | 0, r => r
  | k + 1, r =>
    let r' := r + 2 ^ k
    isqrtBits n k (if r' * r' ≤ n then r' else r)

/-- floor(sqrt(n)). -/
def isqrt (n : Nat) : Nat := isqrtBits n (n.log2 / 2 + 1) 0

end Sys2Proof.Machine
end

