-- ==== Sys2Proof/Machine/Num.lean ====
section
/-! DEFINITION. Number formats, exact arithmetic and rounding (spec/05 R130 to R145, R87, R119, R120). A finite value is
kept exactly as a sign, a natural significand and a binary exponent, and every operation is exact until it rounds once. -/

namespace Sys2Proof.Machine

/-- The format codes of Table 5.1. -/
inductive Format where
  | fp32 | bf16 | fp16 | e4m3 | e5m2 | mxe4m3 | mxe5m2 | mxe2m3 | mxe3m2 | mxe2m1
deriving DecidableEq, Repr

/-- The format a code names (R130); none outside Table 5.1. -/
def formatOf : Nat → Option Format
  | 1 => some .fp32 | 2 => some .bf16 | 3 => some .fp16 | 4 => some .e4m3 | 5 => some .e5m2
  | 6 => some .mxe4m3 | 7 => some .mxe5m2 | 8 => some .mxe2m3 | 9 => some .mxe3m2 | 10 => some .mxe2m1
  | _ => none

/-- Bits of one element (Table 5.1). -/
def Format.bits : Format → Nat
  | .fp32 => 32 | .bf16 => 16 | .fp16 => 16 | .e4m3 => 8 | .e5m2 => 8
  | .mxe4m3 => 8 | .mxe5m2 => 8 | .mxe2m3 => 6 | .mxe3m2 => 6 | .mxe2m1 => 4

/-- Whether a 32-element block shares a scale byte (R132). -/
def Format.isMx : Format → Bool
  | .mxe4m3 => true | .mxe5m2 => true | .mxe2m3 => true | .mxe3m2 => true | .mxe2m1 => true
  | _ => false

/-- A plain FP8 format, whose tiles carry one scale byte (R144). -/
def Format.isFp8 : Format → Bool
  | .e4m3 => true | .e5m2 => true | _ => false

/-- Bytes of a standard 64 × 64 tile, MX scales included (R79, Table 2.10). -/
def Format.tileBytes (f : Format) : Nat := 512 * f.bits + (if f.isMx then 128 else 0)

/-- Mantissa bits m (Table 5.2). -/
def Format.mant : Format → Nat
  | .fp32 => 23 | .bf16 => 7 | .fp16 => 10 | .e4m3 => 3 | .e5m2 => 2
  | .mxe4m3 => 3 | .mxe5m2 => 2 | .mxe2m3 => 3 | .mxe3m2 => 2 | .mxe2m1 => 1

/-- Exponent bias (Table 5.2). -/
def Format.bias : Format → Nat
  | .fp32 => 127 | .bf16 => 127 | .fp16 => 15 | .e4m3 => 7 | .e5m2 => 15
  | .mxe4m3 => 7 | .mxe5m2 => 15 | .mxe2m3 => 1 | .mxe3m2 => 3 | .mxe2m1 => 1

/-- Magnitude bits of the largest finite value (Table 5.2). -/
def Format.maxBits : Format → Nat
  | .fp32 => 0x7F7FFFFF | .bf16 => 0x7F7F | .fp16 => 0x7BFF | .e4m3 => 0x7E | .e5m2 => 0x7B
  | .mxe4m3 => 0x7E | .mxe5m2 => 0x7B | .mxe2m3 => 0x1F | .mxe3m2 => 0x1F | .mxe2m1 => 0x7

/-- The NaN the module writes (Table 5.2); the MX element formats E2M3, E3M2 and E2M1 have none. -/
def Format.nan : Format → Nat
  | .fp32 => 0x7FC00000 | .bf16 => 0x7FC0 | .fp16 => 0x7E00 | .e4m3 => 0x7F | .e5m2 => 0x7E
  | .mxe4m3 => 0x7F | .mxe5m2 => 0x7E | _ => 0

/-- Magnitude bits of infinity, for the formats that have one (Table 5.2). -/
def Format.inf : Format → Option Nat
  | .fp32 => some 0x7F800000 | .bf16 => some 0x7F80 | .fp16 => some 0x7C00
  | .e5m2 => some 0x7C | .mxe5m2 => some 0x7C | _ => none

/-- Exponent of the smallest subnormal: the value is 2 to this power. -/
def Format.emin (f : Format) : Int := 1 - (f.bias : Int) - (f.mant : Int)

/-- An exact value: NaN, an infinity, or (-1)^neg × m × 2^e. -/
inductive Fv where
  | nan
  | inf (neg : Bool)
  | fin (neg : Bool) (m : Nat) (e : Int)
deriving DecidableEq, Repr

/-- The value of an element's bits, unscaled (R132, R133). -/
def Format.value (f : Format) (b : Nat) : Fv :=
  let w := f.bits
  let neg := b.testBit (w - 1)
  let mag := b % 2 ^ (w - 1)
  if mag ≤ f.maxBits then
    let ex := mag / 2 ^ f.mant
    let fr := mag % 2 ^ f.mant
    if ex = 0 then .fin neg fr f.emin else .fin neg (2 ^ f.mant + fr) (f.emin + (ex : Int) - 1)
  else if f.inf = some mag then .inf neg
  else .nan

/-- m × 2^e cut to at most p significant bits at spacing 2^emin or more, to nearest even: the pair (n, q) with the
result n × 2^q. -/
def roundNear (p : Nat) (emin : Int) (m : Nat) (e : Int) : Nat × Int :=
  if m = 0 then (0, emin) else
  let q := max emin (e + (m.log2 : Int) - ((p : Int) - 1))
  if q ≤ e then (m * 2 ^ (e - q).toNat, q)
  else
    let s := (q - e).toNat
    let n := m / 2 ^ s
    let r := m % 2 ^ s
    let half := 2 ^ (s - 1)
    if half < r ∨ (r = half ∧ n % 2 = 1) then (n + 1, q) else (n, q)

/-- Magnitude bits in format f of m × 2^e rounded to nearest even, before any overflow rule. -/
def Format.roundBits (f : Format) (m : Nat) (e : Int) : Nat :=
  let r := roundNear (f.mant + 1) f.emin m e
  (r.2 - f.emin).toNat * 2 ^ f.mant + r.1

/-- The sign bit of a format. -/
def Format.sign (f : Format) (neg : Bool) : Nat := if neg then 2 ^ (f.bits - 1) else 0

/-- Whether m × 2^e exceeds the largest finite value of f (R134). -/
def Format.beyond (f : Format) (m : Nat) (e : Int) : Bool :=
  match f.value f.maxBits with
  | .fin _ M eM => if e ≤ eM then decide (M * 2 ^ (eM - e).toNat < m) else decide (M < m * 2 ^ (e - eM).toNat)
  | _ => false

/-- An exact value as FP32, rounded once to nearest even; every NaN is 0x7FC0_0000 (R87, R120). -/
def toF32 : Fv → F32
  | .nan => 0x7FC00000
  | .inf neg => if neg then 0xFF800000 else 0x7F800000
  | .fin neg m e =>
    let b := Format.fp32.roundBits m e
    BitVec.ofNat 32 ((if b ≤ 0x7F7FFFFF then b else 0x7F800000) + Format.fp32.sign neg)

/-- The exact value of FP32 bits. -/
def ofF32 (x : F32) : Fv := Format.fp32.value x.toNat

/-- The exact value times a power of two. -/
def Fv.scale (v : Fv) (k : Int) : Fv :=
  match v with
  | .fin n m e => .fin n m (e + k)
  | x => x

def Fv.neg : Fv → Fv
  | .nan => .nan
  | .inf n => .inf (!n)
  | .fin n m e => .fin (!n) m e

def Fv.abs : Fv → Fv
  | .nan => .nan
  | .inf _ => .inf false
  | .fin _ m e => .fin false m e

def Fv.isNan : Fv → Bool
  | .nan => true | _ => false

def Fv.isInf : Fv → Bool
  | .inf _ => true | _ => false

def Fv.isZero : Fv → Bool
  | .fin _ 0 _ => true | _ => false

/-- The exact sum. A sum of zero is +0 unless both terms are negative (R87: +0.0 plus −0.0 is +0.0). -/
def Fv.add : Fv → Fv → Fv
  | .nan, _ => .nan
  | _, .nan => .nan
  | .inf a, .inf b => if a = b then .inf a else .nan
  | .inf a, _ => .inf a
  | _, .inf b => .inf b
  | .fin n1 m1 e1, .fin n2 m2 e2 =>
    let e := min e1 e2
    let a : Int := (m1 : Int) * 2 ^ (e1 - e).toNat
    let b : Int := (m2 : Int) * 2 ^ (e2 - e).toNat
    let s : Int := (if n1 then -a else a) + (if n2 then -b else b)
    if s = 0 then .fin (n1 && n2) 0 e else .fin (decide (s < 0)) s.natAbs e

/-- The exact product. -/
def Fv.mul : Fv → Fv → Fv
  | .nan, _ => .nan
  | _, .nan => .nan
  | .inf a, .inf b => .inf (xor a b)
  | .inf a, .fin n m _ => if m = 0 then .nan else .inf (xor a n)
  | .fin n m _, .inf b => if m = 0 then .nan else .inf (xor n b)
  | .fin n1 m1 e1, .fin n2 m2 e2 => .fin (xor n1 n2) (m1 * m2) (e1 + e2)

/-- An exact positive quotient N / D × 2^k, with a trailing sticky bit where it is not exact; enough bits to round once. -/
def ratio (neg : Bool) (N D : Nat) (k : Int) : Fv :=
  if D = 0 then .inf neg else
  let s := 320 + D.log2
  let q := N * 2 ^ s / D
  let exact := decide (q * D = N * 2 ^ s)
  .fin neg (2 * q + (if exact then 0 else 1)) (k - (s : Int) - 1)

/-- The quotient, exact up to a sticky bit below every rounding point. -/
def Fv.div : Fv → Fv → Fv
  | .nan, _ => .nan
  | _, .nan => .nan
  | .inf _, .inf _ => .nan
  | .inf a, .fin n _ _ => .inf (xor a n)
  | .fin n _ _, .inf b => .fin (xor n b) 0 0
  | .fin n1 m1 e1, .fin n2 m2 e2 =>
    if m2 = 0 then (if m1 = 0 then .nan else .inf (xor n1 n2))
    else ratio (xor n1 n2) m1 m2 (e1 - e2)

/-- The square root of a positive value m × 2^e, exact up to a sticky bit. -/
def sqrtFin (m : Nat) (e : Int) : Fv :=
  let odd := decide (e % 2 ≠ 0)
  let m' := if odd then 2 * m else m
  let e' := if odd then e - 1 else e
  let M := m' * 2 ^ 400
  let r := isqrt M
  .fin false (2 * r + (if r * r = M then 0 else 1)) (e' / 2 - 200 - 1)

/-- The square root; −0 gives −0, a negative value gives NaN (Table 4.8). -/
def Fv.sqrt : Fv → Fv
  | .nan => .nan
  | .inf n => if n then .nan else .inf false
  | .fin n m e => if m = 0 then .fin n 0 e else if n then .nan else sqrtFin m e

/-- a < b as exact values; false where either is NaN. -/
def Fv.lt : Fv → Fv → Bool
  | .nan, _ => false
  | _, .nan => false
  | .inf a, .inf b => a && !b
  | .inf a, _ => a
  | _, .inf b => !b
  | .fin n1 m1 e1, .fin n2 m2 e2 =>
    let e := min e1 e2
    let a : Int := (m1 : Int) * 2 ^ (e1 - e).toNat
    let b : Int := (m2 : Int) * 2 ^ (e2 - e).toNat
    decide ((if n1 then -a else a) < (if n2 then -b else b))

/-- a = b as exact values; false where either is NaN, and +0 equals −0. -/
def Fv.eqv (a b : Fv) : Bool := !a.isNan && !b.isNan && !a.lt b && !b.lt a

/-! FP32 operations, each rounded once to nearest even. -/

def fAdd (a b : F32) : F32 := toF32 ((ofF32 a).add (ofF32 b))
def fSub (a b : F32) : F32 := toF32 ((ofF32 a).add (ofF32 b).neg)
def fMul (a b : F32) : F32 := toF32 ((ofF32 a).mul (ofF32 b))
/-- a × b + c rounded once. -/
def fFma (a b c : F32) : F32 := toF32 (((ofF32 a).mul (ofF32 b)).add (ofF32 c))
def fDiv (a b : F32) : F32 := toF32 ((ofF32 a).div (ofF32 b))
def fSqrt (a : F32) : F32 := toF32 (ofF32 a).sqrt
/-- A product with 2^k. -/
def fScale (a : F32) (k : Int) : F32 := toF32 ((ofF32 a).scale k)
def fNeg (a : F32) : F32 := toF32 (ofF32 a).neg
def fAbs (a : F32) : F32 := toF32 (ofF32 a).abs

/-- The larger; NaN if either is NaN; max(+0, −0) = +0 (Table 4.4). -/
def fMax (a b : F32) : F32 :=
  let x := ofF32 a; let y := ofF32 b
  if x.isNan || y.isNan then 0x7FC00000
  else if x.lt y then b else if y.lt x then a
  else if x.isZero then a &&& b else a

/-- The smaller; NaN if either is NaN; min(+0, −0) = −0 (Table 4.4). -/
def fMin (a b : F32) : F32 :=
  let x := ofF32 a; let y := ofF32 b
  if x.isNan || y.isNan then 0x7FC00000
  else if x.lt y then a else if y.lt x then b
  else if x.isZero then a ||| b else a

def f32IsNan (a : F32) : Bool := (ofF32 a).isNan
def f32IsInf (a : F32) : Bool := (ofF32 a).isInf
def f32IsFinite (a : F32) : Bool := !(f32IsNan a) && !(f32IsInf a)

/-- A signed integer as FP32, to nearest even (SCVTF, Table 4.5). -/
def f32OfInt (v : Int) : F32 := toF32 (.fin (decide (v < 0)) v.natAbs 0)

/-- FP32 to a signed 64-bit integer, truncated toward zero and saturated; NaN gives 0 (SCVTI, Table 4.5). -/
def f32ToInt (a : F32) : Int :=
  match ofF32 a with
  | .nan => 0
  | .inf n => if n then -(2 ^ 63) else 2 ^ 63 - 1
  | .fin n m e =>
    let t : Nat := if 0 ≤ e then m * 2 ^ (min e.toNat 64) else m / 2 ^ (-e).toNat
    if n then max (-(2 ^ 63)) (-(t : Int)) else min (2 ^ 63 - 1) (t : Int)

/-! Narrowing and widening (R133 to R137). -/

/-- The bits of a narrowed value and whether it saturated under R134. -/
structure Narrowed where
  bits : Nat
  sat  : Bool
deriving DecidableEq, Repr

/-- Narrowing to nearest even of an exact value into an element format (R134, R135). In an MX format the element of a
NaN or infinite source is +0 (its block's scale byte becomes 0xFF, Table 5.3). -/
def narrowNear (f : Format) (v : Fv) : Narrowed :=
  match v with
  | .nan => ⟨if f.isMx then 0 else f.nan, false⟩
  | .inf n =>
    if f.isMx then ⟨0, false⟩ else
    match f.inf with
    | some i => ⟨i + f.sign n, false⟩
    | none => ⟨f.nan, false⟩
  | .fin n m e =>
    if f = .fp32 ∨ f = .bf16 ∨ f = .fp16 then
      let b := f.roundBits m e
      ⟨(if b ≤ f.maxBits then b else (f.inf.getD 0)) + f.sign n, false⟩
    else if f.beyond m e then ⟨f.maxBits + f.sign n, true⟩
    else ⟨f.roundBits m e + f.sign n, false⟩

/-- Stochastic rounding with a 24-bit draw (R137). -/
def narrowStoch (f : Format) (v : Fv) (r : Nat) : Narrowed :=
  match v with
  | .fin n m e =>
    if f.beyond m e then narrowNear f v else
    -- u = 2^q is the spacing of the format at |x|
    let q := if m = 0 then f.emin else max f.emin (e + (m.log2 : Int) - (f.mant : Int))
    let num := if q ≤ e then m * 2 ^ (e - q).toNat else m
    let s := if q ≤ e then 0 else (q - e).toNat
    let k := num / 2 ^ s
    let phi := (num % 2 ^ s) * 2 ^ 24 / 2 ^ s
    let k' := if r < phi then k + 1 else k
    ⟨(q - f.emin).toNat * 2 ^ f.mant + k' + f.sign n, false⟩
  | x => narrowNear f x

/-- The value of an element under a scale byte (R136): scaled for an MX format, rounded to FP32. -/
def widen (f : Format) (b : Nat) (s : Nat) : F32 :=
  if f.isMx then
    if s = 255 then 0x7FC00000 else toF32 ((f.value b).scale ((s : Int) - 127))
  else toF32 (f.value b)

/-- FP32 narrowed to BF16 bits, to nearest even (R134). -/
def bf16Of (a : F32) : Nat := (narrowNear .bf16 (ofF32 a)).bits

/-- BF16 bits as FP32. -/
def f32OfBf16 (b : Nat) : F32 := BitVec.ofNat 32 ((b % 65536) * 65536)

/-! Deterministic stochastic rounding draws (R138 to R140). -/

/-- fold of R138, modulo 2^64. -/
def srFold (h v : Word) : Word :=
  let z := (h ^^^ v) + 0x9E3779B97F4A7C15
  let z := (z ^^^ (z >>> 32)) * 0xD1B54A32D192ED03
  let z := (z ^^^ (z >>> 29)) * 0xAEF17502108EF2D9
  z ^^^ (z >>> 32)

/-- sr_draw of R138: a 24-bit draw from the keys of R139. -/
def srDraw (seed step tensor tileKey element ext : Word) : Nat :=
  let h := srFold 0x6A3D2E91C45B07F3 seed
  let h := srFold h step
  let h := srFold h ((ext <<< 44) ||| (tensor <<< 12) ||| element)
  let h := srFold h tileKey
  (h >>> 40).toNat

/-- A tile key in the layout of Table 5.4. -/
def tileKey (microbatch rowBlock colBlock round domain : Nat) : Word :=
  word (put microbatch 15 0 + put rowBlock 33 16 + put colBlock 51 34 + put round 59 52 + put domain 63 60)

/-! Scales (R141). -/

/-- scale_byte(amax, fmt): the smallest scale at which amax does not saturate (R141). -/
def scaleByte (amax : F32) (f : Format) : Nat :=
  match ofF32 amax with
  | .nan => 255
  | .inf _ => 255
  | .fin _ m e =>
    if m = 0 then 127 else
    match f.value f.maxBits with
    | .fin _ M eM =>
      let ea : Int := e + m.log2
      let em : Int := eM + M.log2
      -- A > M as significands of one binade: compare at one width
      let wide := max m.log2 M.log2
      let A := m * 2 ^ (wide - m.log2)
      let B := M * 2 ^ (wide - M.log2)
      let ex := ea - em + (if B < A then 1 else 0)
      (min (max (ex + 127) 0) 254).toNat
    | _ => 127

/-- The largest magnitude, each step by VMAX, as RAMAX computes it (R141). -/
def amaxOf (xs : List F32) : F32 := xs.foldl (fun a x => fMax a (fAbs x)) 0

/-- The spacing u of a format at |x| as a power of two (R137 step 2). -/
def spacingExp (f : Format) (v : Fv) : Int :=
  match v with
  | .fin _ m e => if m = 0 then f.emin else max f.emin (e + (m.log2 : Int) - (f.mant : Int))
  | _ => f.emin

/-! Packed elements (R79, R108): elements of 4, 6, 8, 16 or 32 bits, one little-endian bit string. -/

/-- n elements of w bits from a byte string. -/
def unpackElems (w n : Nat) (bs : List Byte) : List Nat :=
  if w = 8 then (List.range n).map (fun i => (nth 0 bs i).toNat)
  else if w = 16 then (List.range n).map (fun i => (nth 0 bs (2 * i)).toNat + 256 * (nth 0 bs (2 * i + 1)).toNat)
  else if w = 32 then (chunksOf 4 n bs).map leValue
  else
    let v := leValue bs
    (List.range n).map (fun i => (v >>> (w * i)) % 2 ^ w)

/-- Elements of w bits as bytes. -/
def packElems (w : Nat) (es : List Nat) : List Byte :=
  if w = 8 then es.map (BitVec.ofNat 8)
  else if w = 16 then es.flatMap (leBytes 2)
  else if w = 32 then es.flatMap (leBytes 4)
  else leBytes (ceilDiv (w * es.length) 8) ((es.foldr (fun e a => e % 2 ^ w + 2 ^ w * a) 0))

end Sys2Proof.Machine
end

