-- ==== Sys2Proof/Machine/SMap.lean ====
section
/-! DEFINITION. Sparse maps in one canonical form: keys strictly rising, no entry equal to what an unlisted key reads as.
Memory, tile store, registers and every numbered unit of the module are held in one. -/

namespace Sys2Proof.Machine

/-- A sparse map: (key, value) pairs. What an unlisted key reads as is given beside the map as a function d. -/
abbrev SMap (α : Type) := List (Nat × α)

/-- The value at a key. -/
def smGet {α : Type} (d : Nat → α) : SMap α → Nat → α
  | [], k => d k
  | (k', v) :: r, k => if k' = k then v else smGet d r k

/-- A pair put at its place by key. -/
def smInsert {α : Type} (k : Nat) (v : α) : SMap α → SMap α
  | [] => [(k, v)]
  | (k', v') :: r =>
    if k' = k then (k, v) :: r
    else if k < k' then (k, v) :: (k', v') :: r
    else (k', v') :: smInsert k v r

/-- A key made unlisted. -/
def smErase {α : Type} (k : Nat) (m : SMap α) : SMap α := m.filter (fun p => p.1 != k)

/-- A value written: an entry equal to the default is not listed. -/
def smSet {α : Type} [DecidableEq α] (d : Nat → α) (m : SMap α) (k : Nat) (v : α) : SMap α :=
  if v = d k then smErase k m else smInsert k v m

/-- A value replaced by a function of it. -/
def smModify {α : Type} [DecidableEq α] (d : Nat → α) (m : SMap α) (k : Nat) (f : α → α) : SMap α :=
  smSet d m k (f (smGet d m k))

/-- Keys rise strictly. -/
def smSorted {α : Type} : SMap α → Bool
  | [] => true
  | p :: r => r.all (fun q => decide (p.1 < q.1)) && smSorted r

/-- The canonical form: keys strictly rising, no entry equal to the default of its key. -/
def smWf {α : Type} [DecidableEq α] (d : Nat → α) (m : SMap α) : Bool :=
  smSorted m && m.all (fun p => decide (p.2 ≠ d p.1))

/-- The entries of a run of values that differ from the default. -/
def smRunEntries {α : Type} [DecidableEq α] (d : Nat → α) : Nat → List α → SMap α
  | _, [] => []
  | k, v :: r => if v = d k then smRunEntries d (k + 1) r else (k, v) :: smRunEntries d (k + 1) r

/-- A run of values written at rising keys from k. -/
def smWriteRun {α : Type} [DecidableEq α] (d : Nat → α) (m : SMap α) (k : Nat) (vs : List α) : SMap α :=
  m.filter (fun p => decide (p.1 < k)) ++ smRunEntries d k vs ++ m.filter (fun p => decide (k + vs.length ≤ p.1))

/-- n values read from key k upward. -/
def smReadRun {α : Type} (d : Nat → α) (m : SMap α) (k n : Nat) : List α :=
  let sub := m.filter (fun p => decide (k ≤ p.1) && decide (p.1 < k + n))
  (List.range n).map (fun i => smGet d sub (k + i))

/-- Every key of k .. k+n-1 made unlisted. -/
def smClearRun {α : Type} (m : SMap α) (k n : Nat) : SMap α :=
  m.filter (fun p => decide (p.1 < k) || decide (k + n ≤ p.1))

/-- What an unlisted byte of memory or of tile store reads as. -/
def zeroByte : Nat → Byte := fun _ => 0

end Sys2Proof.Machine
end

