-- ==== Sys2Proof/Machine/UnitsTiller.lean ====
section
/-! DEFINITION. The state of a tiller as plain data: stage graphs and configuration banks (spec/02), array (spec/03),
sequencer contexts, vector queue and finished-tile queue (spec/04), memory request unit (spec/02, spec/06). Every default
value is the value after reset. -/

namespace Sys2Proof.Machine

/-- A dependence mark DEPn of a stage (Table 2.3, R53). -/
structure Dep where
  token : Nat := 0
  mbAt  : Nat := 0
  valid : Bool := false
deriving DecidableEq, Repr

/-- A stage descriptor (Table 2.3), with its tiller list read from the list area. -/
structure StageDesc where
  stageId : Nat := 0
  kind : Nat := 0
  form : Nat := 0
  power : Nat := 0
  defer : Bool := false
  earlyPf : Bool := false
  rowGroups : Nat := 0
  colGroups : Nat := 0
  tillers : List Nat := []
  queueDepth : Nat := 0
  tagLimit : Nat := 0
  fmtIn : Nat := 0
  fmtW : Nat := 0
  fmtOut : Nat := 0
  scaleMode : Nat := 0
  sr : Bool := false
  rows : Nat := 0
  cols : Nat := 0
  depth : Nat := 0
  microbatches : Nat := 0
  relaySlots : Nat := 0
  progressMs : Nat := 0
  weightObj : Nat := 0
  tensorId : Nat := 0
  weightOffset : Nat := 0
  progObj : Nat := 0
  progWords : Nat := 0
  progOffset : Nat := 0
  imms : List Nat := []
  tsIn : Nat := 0
  tsW : Nat := 0
  tsOut : Nat := 0
  tsScratch : Nat := 0
  tsBase : Nat := 0
  deps : List Dep := []
deriving DecidableEq, Repr

/-- An edge descriptor (Table 2.5); stage 255 is memory. -/
structure Edge where
  srcStage : Nat := 0
  srcPort : Nat := 0
  dstStage : Nat := 0
  dstPort : Nat := 0
  dist : Nat := 0
  fmt : Nat := 0
  memObj : Nat := 0
  memOffset : Nat := 0
deriving DecidableEq, Repr

/-- A chain descriptor with its members, head first (R30). -/
structure Chain where
  chainId : Nat := 0
  stageId : Nat := 0
  members : List Nat := []
deriving DecidableEq, Repr

/-- A stage graph as loaded (R25, R26). -/
structure Graph where
  layerTag : Nat := 0
  stages : List StageDesc := []
  edges : List Edge := []
  chains : List Chain := []
deriving DecidableEq, Repr

/-- A slot of an input queue (R36) or a weight slot (R39). -/
structure Slot where
  port : Nat := 0
  /-- Producer tiller, or 255 for memory. -/
  producer : Nat := 0
  /-- STAGE_ID of the producer, or 255 for memory. -/
  stage : Nat := 255
  addr : Nat := 0
  /-- Tile bytes it holds. -/
  size : Nat := 0
  /-- 0 free, 1 awaited from memory, 2 holds a tile, 3 handed to the program, 4 released and not yet forwarded (R39). -/
  st : Nat := 0
  mb : Nat := 0
  rb : Nat := 0
  cb : Nat := 0
  scale : Nat := 0
  /-- Order in which the slots of a weight stream were filled (R39). -/
  seq : Nat := 0
  /-- Weight slots of a chain member: forwarded to the next member (R39). -/
  forwarded : Bool := false
deriving DecidableEq, Repr

/-- One configuration bank of a tiller: a stage of a graph with its program (R23, R42, R95). -/
structure Cfg where
  valid : Bool := false
  /-- All PROG_WORDS words are present (R95). -/
  complete : Bool := false
  chan : Nat := 0
  graph : Graph := {}
  stage : StageDesc := {}
  /-- Position in TILLER_LIST (R28). -/
  pos : Nat := 0
  /-- The form fixed at STAGE_LOAD (R64): 1 normal, 2 wide-shallow. -/
  form : Nat := 0
  prog : List Word := []
  /-- The count in the ring of the STAGE_LOAD that loaded the graph. -/
  loadPos : Nat := 0
  /-- The step of that command (R16). -/
  step : Nat := 0
  /-- Input queue slots (R36) and weight slots (R39, R541). -/
  inSlots : List Slot := []
  wSlots : List Slot := []
  wSeq : Nat := 0
  /-- (port, producer tiller, its STAGE_ID) from which END has arrived; (port, 255, 255) is a memory input fetched to its end
  (R37, R52). -/
  ends : List (Nat × Nat × Nat) := []
  /-- Credits held: (consumer, its input port, count) (R36). -/
  credits : List (Nat × Nat × Nat) := []
  /-- (port, mb, rb, cb) of the last prefetch of each memory input, 4 for weights. -/
  pfLast : List (Nat × Nat × Nat × Nat) := []
  /-- The mark that holds prefetch (R53). -/
  pfMark : Option Nat := none
deriving DecidableEq, Repr

/-- One sequencer context (R96): its program counter, S0–S31, and where it stands. -/
structure Ctx where
  pc : Nat := 0
  sregs : List Word := List.replicate 32 0
  /-- WAIT code of Table 4.11 of the instruction at pc; 0 while none waits. -/
  wait : Nat := 0
  /-- STAGE_END has been executed. -/
  ended : Bool := false
  /-- Narrowing VCPYs since the swap (R159). -/
  vcpys : Nat := 0
  /-- END has been signalled on the edges or to the barrier (R44). -/
  endSent : Bool := false
deriving DecidableEq, Repr

/-- A vector instruction in the queue with what it read at issue (R115). -/
structure VqEntry where
  w : Word := 0
  /-- 0 active, 1 deferred. -/
  ctx : Nat := 0
  pc : Nat := 0
  /-- S0–S31 at issue. -/
  sregs : List Word := []
  /-- Beats issued. -/
  beat : Nat := 0
  /-- Read offset in the head tile, for operand 0x08 (R123). -/
  ftqOff : Nat := 0
  /-- Number that the next memory request took at its issue (R114). -/
  rid : Nat := 0
  /-- Lane partial results of a reduction; none before a lane's first element (R124). -/
  lanes : List (Option F32) := []
  /-- The winnowing check samples this VCPY (R159). -/
  sampled : Bool := false
  /-- A TILE_END follows it: V4–V7 are unspecified once it has left the queue (R99). -/
  thenFree : Bool := false
  /-- (narrowed value read back, source, bound exceeded, not checked) per element of a sampled VCPY (R160). -/
  pairs : List (F32 × F32 × Bool × Bool) := []
deriving DecidableEq, Repr

/-- A range of bytes or entries that holds unspecified values where none is listed: by the draw of an instruction (owner 0) or by
the stop of a tiller (owner its index plus 1) that left it so (R74, R113). -/
structure FreeRange where
  lo : Nat := 0
  hi : Nat := 0
  owner : Nat := 0
  draw : Nat := 0
deriving DecidableEq, Repr

/-- A slot of the finished-tile queue (R121): 0 FREE, 1 CLAIMED, 2 READY. -/
structure FtqSlot where
  st : Nat := 0
  rows : Nat := 0
  data : List F32 := []
deriving DecidableEq, Repr

/-- An array command as accepted: the word, and S6 and S7 taken with it (R83). -/
structure ArrCmd where
  w : Word := 0
  ctx : Nat := 0
  s6 : Word := 0
  s7 : Word := 0
  /-- Number that the next memory request took when it was accepted (R71, R114). -/
  rid : Nat := 0
deriving DecidableEq, Repr

/-- The stationary operand loaded: its elements and scales by K index and column (R69, R70). -/
structure Stationary where
  ctx : Nat := 0
  stageId : Nat := 0
  elems : List (List Nat) := []
  scales : List (List Nat) := []
deriving DecidableEq, Repr

/-- A bank of the accumulator file in flush (R89): the column tile to push next and the rows it holds. -/
structure WsFlush where
  bank : Nat := 0
  tile : Nat := 0
  rows : Nat := 0
  n0 : Nat := 0
  ctx : Nat := 0
deriving DecidableEq, Repr

/-- The dot-product array (spec/03). -/
structure ArrayUnit where
  queue : List ArrCmd := []
  /-- The pass in flight and its next 64-row block. -/
  pass : Option (ArrCmd × Nat) := none
  stat : Option Stationary := none
  /-- Accumulator file: bank × 16,384 + row × 256 + column (R89). -/
  acc : SMap F32 := []
  /-- Ranges of it that an abandoned pass left unspecified (R74). -/
  accFree : List FreeRange := []
  wsBank : Nat := 0
  /-- Slabs that passes have been given to write since the last WAITA: (first byte, end) (R113). -/
  slabs : List (Nat × Nat) := []
  /-- Banks in flush, the first to finish first. -/
  flush : List WsFlush := []
  holdInput : Bool := false
  holdFtq : Bool := false
  holdPort : Bool := false
deriving DecidableEq, Repr

/-- One part of a request: the bytes it touches at one home (R178). Homes 0–15 are stacks, 16–47 controllers. -/
structure Part where
  home : Nat := 0
  lead : Nat := 0
  /-- (position in the tile, key of the first byte, length). -/
  runs : List (Nat × Nat × Nat) := []
  /-- Local blocks it touches, with the object offset each holds. -/
  blocks : List (Nat × Nat) := []
  /-- 0 not sent, 1 admitted at its home, 2 answered, 3 returned unapplied (R193). -/
  st : Nat := 0
  poison : Bool := false
  cause : Nat := 0
  data : List (Nat × List Byte) := []
deriving DecidableEq, Repr

/-- A request of the memory request unit, kept until its tile is consumed or its write acknowledged. -/
structure MemReq where
  rid : Nat := 0
  /-- 0 tile read (MREQ), 1 WRITE, 2 STORE, 3 ACCUM, 4 prefetch of a memory edge, 5 prefetch of a weight tile. -/
  kind : Nat := 0
  /-- Which stage asks: 0 active, 1 deferred, 2 shadow; 3 and above a stage that has left its bank, the last to leave first. -/
  who : Nat := 0
  /-- Effective TAG_LIMIT of that stage (R59), and its channel. -/
  limit : Nat := 48
  ch : Nat := 0
  /-- A write that waits for its granule to move has been counted (R237). -/
  heldOnce : Bool := false
  /-- It has waited for a tag (R60). -/
  starved : Bool := false
  d0 : Word := 0
  d1 : Word := 0
  d2 : Word := 0
  d3 : Word := 0
  obj : Nat := 0
  fmt : Nat := 0
  mb : Nat := 0
  /-- (position in the tile, object byte, length) of its lines, and of its scale byte at the position after the tile. -/
  runs : List (Nat × Nat × Nat) := []
  /-- Object bytes from the first source byte to the one after the last (R54). -/
  lo : Nat := 0
  hi : Nat := 0
  /-- Tile-store byte of the tile and of its scale byte. -/
  dst : Nat := 0
  scaleDst : Option Nat := none
  /-- Bytes a write carries, by position. -/
  src : List Byte := []
  /-- Of an ACCUM: the sheaf and the source. -/
  sheaf : Nat := 0
  source : Nat := 0
  /-- The slot a prefetch fills: (port or 4 for weights, index in the slot list). -/
  slot : Nat × Nat := (0, 0)
  parts : List Part := []
  sent : Bool := false
  landed : Bool := false
  stale : Bool := false
  poisoned : Bool := false
  cause : Nat := 0
  /-- The eighth refetch, ordered at the home (R55). -/
  ordered : Bool := false
  /-- Fetches sent so far. -/
  fetches : Nat := 0
  /-- The second copy has been tried (R187). -/
  retried : Bool := false
  /-- Husk blocks of it that failed and may be served again from the other copy: (home, cause, tag) (R260, R261). -/
  fails : List (Nat × Nat × Nat) := []
  /-- The replica was the copy served. -/
  fromRepl : Bool := false
  /-- Generation of the homes when sent (R440). -/
  gen : Nat := 0
  /-- Where the instruction stood, for cause POISON (R187). -/
  pc : Nat := 0
  word : Word := 0
deriving DecidableEq, Repr

/-- A SEND in progress: the tile and the consumers it has not yet left for (R36). -/
structure Send where
  port : Nat := 0
  mb : Nat := 0
  rb : Nat := 0
  cb : Nat := 0
  scale : Nat := 0
  data : List Byte := []
  /-- (consumer, its input port). -/
  targets : List (Nat × Nat) := []
deriving DecidableEq, Repr

/-- One tiller. -/
structure Tiller where
  act : Cfg := {}
  shadow : Cfg := {}
  dfr : Cfg := {}
  /-- TLR_STATE.STATE: 0 IDLE, 1 SWAPPED, 2 RUNNING, 3 DRAINED, 4 DEFERRED, 5 FENCED. -/
  st : Nat := 0
  admitted : Bool := false
  /-- GO has been raised and the shadow was not complete (R45). -/
  goWait : Bool := false
  ctxA : Ctx := {}
  ctxD : Ctx := {}
  /-- The running context: 0 active, 1 deferred. -/
  cur : Nat := 0
  /-- A TILE_END asked for a context switch that waits for the engines (R98). -/
  switching : Bool := false
  vq : List VqEntry := []
  /-- V0–V7, 16 KiB each, byte v × 16,384 + b. -/
  vregs : SMap Byte := []
  /-- Tile store, 6 MiB. -/
  ts : SMap Byte := []
  ftq : List FtqSlot := List.replicate 8 {}
  ftqHead : Nat := 0
  ftqNext : Nat := 0
  ftqOff : Nat := 0
  arr : ArrayUnit := {}
  reqs : List MemReq := []
  nextRid : Nat := 0
  send : Option Send := none
  /-- Ranges of tile store that hold unspecified bytes where no byte is listed (R74, R113). -/
  tsFree : List FreeRange := []
  /-- Stops so far (R74). -/
  stops : Nat := 0
  /-- The draw whose bytes V4–V7 hold where no byte is listed, since a TILE_END (R99). -/
  vFree : Option Nat := none
deriving DecidableEq, Repr

end Sys2Proof.Machine
end

