-- ==== Sys2Proof/Machine/UnitsChan.lean ====
section
/-! DEFINITION. The state of mailboxes, channels, rings and tokens (spec/12), of placement and memory units (spec/06,
spec/07) and of recovery (spec/13), as plain data. Every default value is the value after reset. -/

namespace Sys2Proof.Machine

/-- A command entry: 64 bytes as eight words (Table 12.4): w0 and w1 hold offsets 0x00–0x0F, a0–a5 follow. -/
structure Entry where
  w0 : Word := 0
  user : Word := 0
  a0 : Word := 0
  a1 : Word := 0
  a2 : Word := 0
  a3 : Word := 0
  a4 : Word := 0
  a5 : Word := 0
deriving DecidableEq, Repr

/-- Where a command came from: a mailbox, the ring of a channel, or SMBus. -/
inductive CmdSrc where
  | mbx (m : Nat)
  | ring (ch : Nat)
  | smb
deriving DecidableEq, Repr

/-- A completion record (R423) without its PHASE, which its slot gives. -/
structure CplRec where
  opcode : Nat := 0
  /-- Table 12.6. -/
  kind : Nat := 0
  status : Nat := 0
  handle : Nat := 0
  user : Word := 0
  ringPos : Nat := 0xFFFFFFFF
  r0 : Word := 0
  r1 : Word := 0
  r2 : Word := 0
  r3 : Word := 0
  r4 : Word := 0
deriving DecidableEq, Repr

/-- A record owed to a channel's completion ring, with what its writing does. -/
structure CplOwed where
  r : CplRec := {}
  /-- IRQ of the entry, or a record written without a command (R425). -/
  irq : Bool := false
  /-- Count of the command that completes with it; none for the other kinds. -/
  pos : Option Nat := none
deriving DecidableEq, Repr

/-- A fetched ring command (R415, R418). -/
structure RingCmd where
  pos : Nat := 0
  e : Entry := {}
  /-- 0 fetched, 1 started, 2 finished with its record owed. -/
  st : Nat := 0
  /-- The step the command belongs to by its position (R16). -/
  step : Nat := 0
  /-- When it started, µs (R433). -/
  startUs : Nat := 0
  /-- The watchdog has fired and the engine has not released it (R433). -/
  abandoned : Bool := false
deriving DecidableEq, Repr

/-- A host window of a channel (R375). -/
structure HostWindow where
  rd : Bool := false
  wr : Bool := false
  base : Nat := 0
  len : Nat := 0
deriving DecidableEq, Repr

/-- A mailbox (Tables 12.1, 12.2). -/
structure Mbx where
  /-- The command running: its entry and the SEQ of its GO. -/
  run : Option (Entry × Nat) := none
  /-- 0 IDLE, 1 BUSY, 2 DONE, 3 PENDING. -/
  st : Nat := 0
  status : Nat := 0
  seq : Nat := 0
  ticket : Nat := 0
  result : CplRec := {}
  /-- Records written to the result ring, by count; slot k mod 64 (R403). -/
  ring : List (Nat × CplRec) := []
  resTail : Nat := 0
  /-- Commands acknowledged PENDING and still running: (count of the record owed, entry). -/
  owed : List (Nat × Entry) := []
  /-- Their records finished and not yet written (R403). -/
  fin : List (Nat × CplRec) := []
  owedTotal : Nat := 0
deriving DecidableEq, Repr

/-- The registers and queues of a channel's rings (R412 to R425). -/
structure Rings where
  set : Bool := false
  cmdBase : Nat := 0
  cmdN : Nat := 0
  cmdDev : Bool := false
  cplBase : Nat := 0
  cplN : Nat := 0
  cplDev : Bool := false
  vector : Nat := 0
  irqEn : Bool := false
  coalRecords : Nat := 0
  coalUs : Nat := 0
  /-- Entries accepted, TAIL in force, records written, records released. -/
  cmdHead : Nat := 0
  cmdTail : Nat := 0
  cplTail : Nat := 0
  cplHead : Nat := 0
  /-- Stale reads of the entry at cmdHead (R416). -/
  stale : Nat := 0
  /-- A re-read of the stale entry has been issued. -/
  reread : Bool := false
  stallPos : Nat := 0
  cmds : List RingCmd := []
  owed : List CplOwed := []
  /-- Records written to the completion ring in their slots: (slot, record, phase). -/
  written : List (Nat × CplRec × Bool) := []
  cplFull : Bool := false
  /-- Records since the last message (R425). -/
  unsignalled : Nat := 0
  /-- Unreleased holds: (token, count of its TOKEN_HOLD), oldest first (R420). -/
  holds : List (Nat × Nat) := []
  /-- Failed signallers: (token, count) (R419). -/
  failed : List (Nat × Nat) := []
  /-- Commands and holds below this count are before the last abort (R457). -/
  abortPos : Nat := 0
deriving DecidableEq, Repr

/-- The recovery state of a channel (spec/13). -/
structure ChanRcv where
  /-- CHN_RCV_STATUS.STATE: 0 NONE, 1 VOIDING, 2 HELD, 3 FINISHING. -/
  st : Nat := 0
  /-- Status with which fetched entries are voided (R455). -/
  voidStatus : Nat := 0
  /-- Count written to CHN_RCV_RESUME: entries below it are voided (R456). -/
  resume : Nat := 0
  resumed : Bool := true
  /-- The domain whose reset aborted the attempt, or 0xFF. -/
  cause : Nat := 0xFF
deriving DecidableEq, Repr

/-- Placement table entry (Table 7.3). -/
structure Obj where
  valid : Bool := false
  mode : Nat := 0
  homeTier : Nat := 0
  homeLocal : Bool := false
  homeField : Nat := 0
  replTier : Nat := 0
  replLocal : Bool := false
  replField : Nat := 0
  compress : Bool := false
  enc : Bool := false
  migrating : Bool := false
  mixed : Bool := false
  orphan : Bool := false
  shared : Bool := false
  owner : Nat := 0
  group : Nat := 0
  keySlot : Nat := 0
  baseDa : Nat := 0
  size : Nat := 0
  dataBytes : Nat := 0
  version : Nat := 0
  mapIndex : Nat := 0
  dirtyCount : Nat := 0
  replCount : Nat := 0
deriving DecidableEq, Repr

/-- Granule record (Table 7.4). -/
structure Granule where
  home : Nat := 0
  repl : Nat := 0
  homeTier : Nat := 0
  replTier : Nat := 0
  replValid : Bool := false
  dirty : Bool := false
  busy : Bool := false
deriving DecidableEq, Repr

/-- A share group: its holder (none once destroyed) and members (R230, R540). -/
structure ShareGroup where
  holder : Option Nat := none
  members : List Nat := []
deriving DecidableEq, Repr

/-- A granule move in flight (R237). -/
structure Move where
  obj : Nat := 0
  granule : Nat := 0
  /-- 0 migrate home, 1 migrate replica, 2 replicate, 3 flush, 4 drop (flush, then free the replica). -/
  kind : Nat := 0
  targetTier : Nat := 0
  target : Nat := 0
  /-- 0 invalidating, 1 copied, 2 record written and the second invalidation out, 3 abandoned and waiting to retry. -/
  phase : Nat := 0
  /-- Requesters of R221 that have not acknowledged the invalidation. -/
  waiting : List Nat := []
  aborts : Nat := 0
  startUs : Nat := 0
deriving DecidableEq, Repr

/-- An asynchronous placement command (R236). -/
structure MigCmd where
  ch : Nat := 0
  pos : Nat := 0
  obj : Nat := 0
  kind : Nat := 0
  /-- Its granules; it has started, when no command before it names the object (R236). -/
  first : Nat := 0
  count : Nat := 0
  started : Bool := false
  /-- Granules still to start, with the target frames allocated for them. -/
  todo : List (Nat × Nat) := []
  moves : List Move := []
  targetTier : Nat := 0
  targetLocal : Bool := false
  targetField : Nat := 0
  /-- The command covers every granule of the object. -/
  whole : Bool := false
  leftInPlace : Nat := 0
  /-- Status of a block that failed on the way (Table 8.6). -/
  status : Nat := 0
deriving DecidableEq, Repr

/-- An entry of an engine queue (R182): a requester's access to one home. -/
structure EngEntry where
  /-- 0–5 copy engines H2D0–H2D5, 6–11 D2H0–D2H5, 12–17 the collective slices of the ports, 18 the migration engine, 19 the CXL
  port, 20 the rachis. -/
  who : Nat := 0
  ch : Option Nat := none
  write : Bool := false
  /-- The object, offset and length of the access. -/
  acc : Nat × Nat × Nat := (0, 0, 0)
  /-- (key, length) of what it touches. -/
  runs : List (Nat × Nat) := []
  /-- The pool entries admitted before it that touch a codeword of it (R183). -/
  ahead : List (Nat × Nat) := []
  /-- Completed poisoned by a silent bank (R186). -/
  poison : Bool := false
deriving DecidableEq, Repr

/-- A contribution part held in a base die (R193). -/
structure HeldAccum where
  sheaf : Nat := 0
  tile : Nat := 0
  ch : Nat := 0
  mb : Nat := 0
  source : Nat := 0
  tiller : Nat := 0
  rid : Nat := 0
  /-- (position in the tile, key, length) of the part. -/
  runs : List (Nat × Nat × Nat) := []
  /-- The contribution, by element. -/
  src : List F32 := []
deriving DecidableEq, Repr

/-- An update work item (Table 6.6), with object references split. -/
structure UpdItem where
  opt : Nat := 0
  pingpong : Bool := false
  parity : Nat := 0
  workScale : Nat := 0
  ch : Nat := 0
  clip : F32 := 0
  step : Nat := 0
  elems : Nat := 0
  lsExp : Int := 0
  workFmt : Nat := 0
  momFmt : Nat := 0
  master : Nat × Nat := (0, 0)
  m1 : Nat × Nat := (0, 0)
  m2 : Nat × Nat := (0, 0)
  grad : Nat × Nat := (0, 0)
  work : Nat × Nat := (0, 0)
  hyper : Nat × Nat := (0, 0)
  tensor : Nat := 0
  set : Nat := 0
  idx : Nat := 0
deriving DecidableEq, Repr

/-- An item as the rachis writes it into an update queue: its 96 bytes, with the set and tensor whose progress record it keeps. -/
structure QueuedItem where
  bytes : List Byte := []
  set : Nat := 0
  idx : Nat := 0
deriving DecidableEq, Repr

/-- A work item in execution: its granule phases (R199, R294). -/
structure UpdRun where
  item : UpdItem := {}
  granule : Nat := 0
  /-- What the unit does next (R199, R200, R294): 0 pre-image, 1 moments, 2 masters, 3 waits for narrowing, 4 narrows. -/
  phase : Nat := 0
  /-- The scale byte returned by the rachis; the largest magnitude has been reported (R275). -/
  scale : Option Nat := none
  reported : Bool := false
  /-- It waits for a free staging slot (R295). -/
  waits : Bool := false
  /-- CRC register over the working copy bytes written so far (R278). -/
  crc : Nat := 0xFFFFFFFF
deriving DecidableEq, Repr

/-- A Yente stack (spec/06). -/
structure Stack where
  /-- 0 RUN, 1 THROTTLED, 2 FLAGGED, 3 RESETTING. -/
  st : Nat := 0
  refresh2x : Bool := false
  tempMax : Nat := 0
  hotDie : Nat := 0
  thermal : Bool := false
  /-- Request pool in admission order: (tiller, rid). -/
  pool : List (Nat × Nat) := []
  /-- Engine queue, and the translation-miss reads that wait, by requester of R221 (R182). -/
  engine : List EngEntry := []
  misses : List Nat := []
  holdBuf : List HeldAccum := []
  updQueue : List QueuedItem := []
  /-- Items that the rachis holds while the queue is full. -/
  updWait : List QueuedItem := []
  run : Option UpdRun := none
  /-- Symbol corrections attributed to each die in the scrub period (R206). -/
  dieCe : SMap Nat := []
  /-- Next codeword of the patrol scrub (R209). -/
  scrubPos : Nat := 0
  /-- Refreshes owed by a bank (R210). -/
  refreshDebt : SMap Nat := []
  /-- Symbol errors (position, error) that stand in the cells of a codeword, by local codeword (R205). -/
  cells : SMap (List (Nat × Nat)) := []
  /-- Banks whose present silence has raised BANK_SLOW (R185). -/
  slow : List Nat := []
deriving DecidableEq, Repr

/-- A deep-tier controller (spec/07). -/
structure Deep where
  st : Nat := 0
  temp : Nat := 0
  thermal : Bool := false
  pool : List (Nat × Nat) := []
  engine : List EngEntry := []
  scrubPos : Nat := 0
  refreshDebt : SMap Nat := []
  cells : SMap (List (Nat × Nat)) := []
  slow : List Nat := []
deriving DecidableEq, Repr

/-- A reset sequence (R448): the step it stands at, and what started it. -/
structure ResetSeq where
  step : Nat := 0
  trigger : Nat := 0
  startUs : Nat := 0
  /-- µs it had taken when a cold reset returned MON_UPTIME_US to zero. -/
  spent : Nat := 0
  stook : Nat := 0
  /-- Handle of the channel whose detector fired, or 0. -/
  channel : Nat := 0
deriving DecidableEq, Repr

/-- A reset domain (Table 13.3). -/
structure Domain where
  gen : Nat := 0
  flagged : Bool := false
  fenced : Bool := false
  retired : Bool := false
  seq : Option ResetSeq := none
  /-- When the domain was reset, µs, within the last hour (R452). -/
  resets : List Nat := []
  /-- A log record of this reset has been written (R436). -/
  logged : Bool := false
deriving DecidableEq, Repr

/-- An error log record without its SEQ, GEN and CRC (Table 13.10). -/
structure LogRec where
  source : Nat := 0
  cause : Nat := 0
  severity : Nat := 0
  domain : Nat := 0xFF
  gen : Nat := 0
  status : Nat := 0
  time : Nat := 0
  channel : Nat := 0
  stook : Nat := 0
  step : Nat := 0
  detail : Nat := 0
deriving DecidableEq, Repr

/-- A stook: the header fields of Table 13.4 and the sections captured, (type, unit, content). -/
structure Stook where
  id : Nat := 0
  truncated : Bool := false
  time : Nat := 0
  domain : Nat := 0
  trigger : Nat := 0
  gen : Nat := 0
  bytes : Nat := 0
  channel : Nat := 0
  step : Nat := 0
  sections : List (Nat × Nat × List Word) := []
  inHost : Bool := false
  inFlash : Bool := false
deriving DecidableEq, Repr

end Sys2Proof.Machine
end

