-- ==== Sys2Proof/Machine/UnitsTrain.lean ====
section
/-! DEFINITION. The training state of a channel (spec/01, spec/05, spec/09) as plain data: shard sets, sheaves, versions,
variants, steps, commits and the state delta stream. Every default value is the value after reset. -/

namespace Sys2Proof.Machine

/-- A tensor of a parameter group (Table 9.2). -/
structure TensorDesc where
  key : Nat := 0
  rowBlocks : Nat := 0
  colBlocks : Nat := 0
  opt : Nat := 0
deriving DecidableEq, Repr

/-- Static optimizer fields of a tensor (Table 9.4), and what its next first update carries. -/
structure HyperFields where
  lr : F32 := 0
  beta1 : F32 := 0
  beta2 : F32 := 0
  eps : F32 := 0
  wd : F32 := 0
  rmsD : F32 := 0
  flags : Nat := 0
  /-- HYPER_SET with RESET has been given and no update has committed since (R316). -/
  tReset : Bool := false
  /-- Committed updates since creation or reset, and the powers of the last committed block (R289). -/
  t : Nat := 0
  b1pow : F32 := 0x3F800000
  b2pow : F32 := 0x3F800000
deriving DecidableEq, Repr

/-- A shard set (R269 to R276). -/
structure ShardSet where
  valid : Bool := false
  tensors : List TensorDesc := []
  p : Nat := 1
  c : Nat := 0
  momFmt : Nat := 1
  workFmt : Nat := 1
  workScale : Nat := 0
  pingpong : Bool := false
  deltaEn : Bool := false
  hostRes : Bool := false
  hostBase : Nat := 0
  hostLen : Nat := 0
  master : Nat := 0
  m1 : Nat := 0
  m2 : Nat := 0
  grad : Nat := 0
  work : Nat := 0
  hyperObj : Nat := 0
  progress : Nat := 0
  staging : Nat := 0
  /-- Version of each tensor (R278): step of the set's last commit and SUM. -/
  shardStep : Nat := 0
  sums : List Nat := []
  hyper : List HyperFields := []
  /-- HYPER_SET changes for a step not yet started: (step, first tensor, count, reset, fields). -/
  hyperNext : List (Nat × Nat × Nat × Bool × HyperFields) := []
  /-- Staging slots in use: (stack, tensor, granule) (R295). -/
  staged : List (Nat × Nat × Nat) := []
deriving DecidableEq, Repr

/-- A sheaf registered in an attempt (Table 9.3, R281). -/
structure Sheaf where
  num : Nat := 0
  bf16 : Bool := false
  ns : Nat := 1
  set : Nat := 0
  firstTile : Nat := 0
  tiles : Nat := 0
  accObj : Nat := 0
  accOffset : Nat := 0
  firstMb : Nat := 0
  mbCount : Nat := 0
  step : Nat := 0
  /-- Cursor of each tile's part in each stack: key tile × 16 + stack, counted in contributions applied (R192). -/
  cursors : SMap Nat := []
  /-- Contributions applied out of order with DET = 0: (tile × 16 + stack, microbatch, source). -/
  applied : List (Nat × Nat × Nat) := []
  /-- 0 accumulating, 1 reducing, 2 reduced. -/
  st : Nat := 0
  /-- Tiles whose reduction is complete on this module. -/
  reduced : List Nat := []
  sumSq : F32 := 0
deriving DecidableEq, Repr

/-- A gather's version recorded in an attempt (R279). -/
structure GatherVer where
  id : Nat := 0
  step : Nat := 0
  sum : Nat := 0
  retained : Bool := false
  dest : Nat := 0
  offset : Nat := 0
deriving DecidableEq, Repr

/-- A variant table entry (Table 9.9). -/
structure Variant where
  valid : Bool := false
  train : Bool := false
  rank : Nat := 0
  scale : F32 := 0
  set : Nat := 0
  tensorA : Nat := 0
  tensorB : Nat := 0
deriving DecidableEq, Repr

/-- A deferred stage queued (R308): its configuration per tiller still to finish. -/
structure Deferred where
  stageId : Nat := 0
  graph : Graph := {}
  stage : StageDesc := {}
  progs : List Word := []
  /-- Tillers that have not executed its STAGE_END. -/
  left : List Nat := []
  loadPos : Nat := 0
  step : Nat := 0
deriving DecidableEq, Repr

/-- A record whose export is due (R314), with what its segment's header gives (Table 9.10). -/
structure ExportDue where
  step : Nat := 0
  skip : Bool := false
  lsExp : Int := 0
  clean : Nat := 0
  norm : F32 := 0
  clip : F32 := 0
  /-- Tensors that the step updated: (set, tensor, T_RESET, M1 written). -/
  tensors : List (Nat × Nat × Bool × Bool) := []
deriving DecidableEq, Repr

/-- A state delta segment formed and not yet visible at its sink (R314, R315). -/
structure DeltaSeg where
  step : Nat := 0
  bytes : List Byte := []
  resync : Bool := false
  /-- Tensors whose ranges it reads, (set, tensor): held until its place in the sink is taken (R20). -/
  tensors : List (Nat × Nat) := []
  /-- Offset in the sink and bytes already sent and acknowledged, once its writing has started. -/
  at_ : Option Nat := none
  acked : Nat := 0
deriving DecidableEq, Repr

/-- Where delta segments go (R314). -/
structure DeltaSink where
  set : Bool := false
  peer : Bool := false
  group : Nat := 0
  peerId : Nat := 0
  base : Nat := 0
  size : Nat := 0
  len : Nat := 0
deriving DecidableEq, Repr

/-- The numeric settings a step uses, fixed at its start (R164: writes take effect at a step not yet started). -/
structure StepNum where
  step : Nat := 0
  ctrl : Word := 0
  wnwThreshold : F32 := 0
  clipMax : F32 := 0
  trnCtrl : Word := 0
  /-- A write of LS_LOAD before the step's start: L of the step is LS_INIT (R164). -/
  load : Bool := false
deriving DecidableEq, Repr

/-- Steps, sheaves, shard sets and exports of a channel. -/
structure Trn where
  /-- Highest step that has started (CHN_STEP_CURRENT) and last committed step. -/
  stepCur : Nat := 0
  committed : Nat := 0
  /-- Last step with a commit or skip record (R459). -/
  recorded : Nat := 0
  /-- Step to which the next fetched command belongs (R16). -/
  stepFetch : Nat := 1
  /-- (step, count of its first entry) of the steps fetched and not recorded (R16, R456). -/
  firsts : List (Nat × Nat) := []
  /-- CHN_TRN_STATUS.PHASE. -/
  phase : Nat := 0
  sets : List ShardSet := List.replicate 16 {}
  sheaves : List Sheaf := []
  /-- STEP_CLOSE has been received: its step, mask, count in the ring. -/
  close : Option (Nat × Nat × Nat) := none
  /-- Steps whose attempt has OVF set (R150). -/
  ovf : List Nat := []
  vers : List GatherVer := []
  /-- Loss-scale exponent in force and clean count (R152), and whether L has been loaded. -/
  lsExp : Int := 0
  clean : Nat := 0
  consecSkips : Nat := 0
  lsLoad : Bool := true
  /-- Norm, clip factor and OVF of the last norm, and its step (R287, R459). -/
  norm : F32 := 0
  clip : F32 := 0
  normOvf : Bool := false
  normStep : Nat := 0
  normLs : Int := 0
  /-- The module's own sum of squares has entered the norm reduction. -/
  normIn : Bool := false
  /-- Update items queued or running that have not set WORK_DONE. -/
  itemsLeft : Nat := 0
  /-- Largest master magnitude reported per tensor: (set, tensor, reports, amax) (R275). -/
  scaleReports : List (Nat × Nat × Nat × F32) := []
  /-- Activation tokens counted in each step's attempt (R307): (step, tokens). -/
  actCount : List (Nat × Nat) := []
  deferred : List Deferred := []
  /-- Deferred stages of the loaded graph, which enter the queue at its swap (R308). -/
  deferNext : List Deferred := []
  /-- Those of a swapped graph that the queue of 64 has had no room for (R308). -/
  deferRest : List Deferred := []
  variants : SMap Variant := []
  /-- VARIANT_SET entries for a step not yet started: (step, index, entry). -/
  variantNext : List (Nat × Nat × Variant) := []
  sink : DeltaSink := {}
  exports : List ExportDue := []
  segs : List DeltaSeg := []
  /-- Bytes of the sink written and not released: (start, end), oldest first (R314). -/
  deltaLive : List (Nat × Nat) := []
  deltaHead : Nat := 0
  deltaTail : Nat := 0
  deltaBroken : Bool := false
  resync : Bool := false
  /-- HOST_COMMIT waits for COMMIT_ACK of this step (R304). -/
  ackStep : Nat := 0
  /-- Last step whose COMMIT_ACK has arrived. -/
  acked : Nat := 0
  /-- GRAD granules still to reach host memory before the NORM record: (set, granule) (R303). -/
  gradOut : List (Nat × Nat) := []
  /-- A HOST_COMMIT in progress: its count, its step, and the 64 KiB pieces still to come: (set, granule, host address) (R303). -/
  hostCommit : Option (Nat × Nat × List (Nat × Nat × Nat)) := none
  seed : Word := 0
  nums : List StepNum := []
  /-- Tensors that the running update writes: (set, tensor). -/
  updated : List (Nat × Nat) := []
  /-- Arrays of a mapping that a re-shard has replaced, freed at the next commit (R357). -/
  oldObjs : List Nat := []
deriving DecidableEq, Repr

end Sys2Proof.Machine
end

