-- ==== Sys2Proof/Machine/UnitsLink.lean ====
section
/-! DEFINITION. The state of the six link ports, the routing layer and the collective engine (spec/10) as plain data.
Every default value is the value after reset. -/

namespace Sys2Proof.Machine

/-- A message (Tables 10.5, 10.6) with its data. -/
structure Msg where
  dst : Nat := 0
  src : Nat := 0
  kind : Nat := 0
  husk : Bool := false
  last : Bool := false
  gen : Nat := 0
  group : Nat := 0
  epoch : Nat := 0
  tag : Nat := 0
  offset : Nat := 0
  obj : Nat := 0
  length : Nat := 0
  data : List Byte := []
  /-- The status that the port gives a message of which a block failed twice, 0 for a good one; it is not part of the message (R261). -/
  fail : Nat := 0
deriving DecidableEq, Repr

/-- The place that a received message holds at the port slice it came through (R330, R346): its flits still in the receive buffer of a
VC × 2 + class. A CHUNK also holds one of the 128 slots of the slice. -/
structure RxPlace where
  port : Nat := 0
  idx : Nat := 0
  flits : Nat := 0
deriving DecidableEq, Repr

/-- A message assembled for this module. -/
structure InMsg where
  m : Msg := {}
  place : Option RxPlace := none
deriving DecidableEq, Repr

/-- A flit (Table 10.3), its RSV fields and CRC apart. -/
structure Flit where
  vc : Nat := 0
  cls : Nat := 0
  sof : Bool := false
  eof : Bool := false
  idle : Bool := false
  nak : Bool := false
  seq : Nat := 0
  ack : Nat := 0
  crVc : Nat := 0
  crCount : Nat := 0
  len16 : Nat := 0
  payload : List Byte := []
deriving DecidableEq, Repr

/-- A training record (Table 10.2), its RSV fields and CRC apart. -/
structure TrainRec where
  format : Nat := 0
  port : Nat := 0
  huskRx : Bool := false
  lanes : Nat := 0
  deviceId : Nat := 0
  gen : Nat := 0
  dims : Nat := 0
deriving DecidableEq, Repr

/-- A message in a port's queue of one VC and class, with the flits already sent (R331). -/
structure TxMsg where
  m : Msg := {}
  vc : Nat := 0
  cls : Nat := 0
  /-- Flits sent, and the bytes on the wire once the first one is (R251, R327). -/
  sent : Nat := 0
  wire : List Byte := []
  /-- A block sent again, plain (R261). -/
  plain : Bool := false
  /-- The port and class it came in by, when it is forwarded (R333), and what it holds at the slice it came through. -/
  inPort : Option Nat := none
  inCls : Nat := 0
  place : Option RxPlace := none
deriving DecidableEq, Repr

/-- A flit held for replay and how often it has been replayed (R328, R329). -/
structure Retry where
  f : Flit := {}
  replays : Nat := 0
  /-- The channel whose re-shard sends a quad in it (R357). -/
  quad : Option Nat := none
deriving DecidableEq, Repr

/-- A received message that waits for a block to come again, or behind one of the same VC and source that does (R261, R335): its failed
blocks as (position, cause). -/
structure WaitMsg where
  m : Msg := {}
  cls : Nat := 0
  blocks : List (Nat × Nat) := []
  place : Option RxPlace := none
deriving DecidableEq, Repr

/-- One link port. -/
structure Port where
  cable : Bool := false
  /-- ABL_PORT_STATUS.STATE: 0 DOWN, 1 TRAINING, 2 ACTIVE8, 3 ACTIVE4, 4 MISWIRED, 5 HELD. -/
  st : Nat := 0
  /-- Training step: 0 none, 1 SIGNAL, 2 ALIGN, 3 EXCHANGE. -/
  train : Nat := 0
  retraining : Bool := false
  /-- Lanes in use, one bit per lane. -/
  lanes : Nat := 0
  /-- Lanes known good, one bit per lane. -/
  good : Nat := 0xFF
  degraded : Bool := false
  huskPeer : Bool := false
  peerId : Nat := 0
  peerValid : Bool := false
  wrap : Bool := false
  /-- The record last received and how many identical good copies have come (R322). -/
  rxRec : TrainRec := {}
  rxCopies : Nat := 0
  recsSent : Nat := 0
  /-- Next SEQ to send; last SEQ acknowledged by the peer; next SEQ expected from it. -/
  txSeq : Nat := 0
  rxSeq : Nat := 0
  nakSent : Bool := false
  /-- A NAK to send for a gap, and a replay asked for by the peer. -/
  nakDue : Bool := false
  retry : List Retry := []
  /-- The next held flit to send again, by its place in the retry buffer. -/
  replayFrom : Option Nat := none
  /-- Credits held, by VC × 2 + class, and credits to return. -/
  credits : List Nat := [32, 32, 256, 256, 256, 256, 768, 768]
  owedCr : List Nat := List.replicate 8 0
  txq : List TxMsg := []
  /-- Payloads and number of the flits of the messages being assembled, by VC × 2 + class. -/
  rxAsm : List (List Byte) := List.replicate 8 []
  rxFlits : List Nat := List.replicate 8 0
  /-- Turns left of VC1–VC3 in the weighted round robin (R331). -/
  wrr : List Nat := [0, 0, 0]
  /-- Times of retrains within 10 s, µs (R329). -/
  retrains : List Nat := []
  /-- The retrain under way is the third, after which the port goes DOWN (R329). -/
  lastRetrain : Bool := false
  /-- The last 128 messages sent as husk blocks, for HUSK_RESEND (R261). -/
  huskSent : List TxMsg := []
  huskWait : List WaitMsg := []
  /-- What the port has last put on the link: the 256 bytes of a flit, and the 16 of a training record. -/
  out : List Byte := []
  outRec : List Byte := []
deriving DecidableEq, Repr

/-- A collective in progress on a group (Table 10.10). -/
structure Coll where
  /-- 0 gather, 1 reduce-scatter, 2 norm, 3 broadcast, 4 send, 5 receive, 6 barrier, 7 permutation, 8 delta export. -/
  kind : Nat := 0
  ch : Nat := 0
  /-- Count of its ring command, if a command started it. -/
  pos : Option Nat := none
  step : Nat := 0
  /-- Sheaf, gather id, set or tag. -/
  id : Nat := 0
  obj : Nat := 0
  offset : Nat := 0
  len : Nat := 0
  root : Nat := 0
  set : Nat := 0
  first : Nat := 0
  count : Nat := 0
  flags : Nat := 0
  /-- Members or pieces that have arrived, with what they carried. -/
  got : List (Nat × Nat × Nat) := []
  /-- Bytes received so far of a transfer. -/
  bytes : Nat := 0
  /-- Data gathered and not yet written (nothing is written before the version is accepted, R279). -/
  data : List (Nat × List Byte) := []
deriving DecidableEq, Repr

/-- A collective group (Table 10.9). -/
structure Group where
  live : Bool := false
  ch : Nat := 0
  role : Nat := 0
  axis : Nat := 0
  ring : Bool := false
  extent : Nat := 0
  index : Nat := 0
  origin : Nat := 0
  timeoutMs : Nat := 0
  /-- NORM: device ID and CONTRIB by rank; other roles: device IDs by index. -/
  members : List (Nat × Bool) := []
  rank : Nat := 0
  epoch : Nat := 0
  aborted : Bool := false
  /-- A REJOIN has arrived since the group became ABORTED: its VC3 messages are no longer discarded (R351). -/
  rejoined : Bool := false
  fenced : Bool := false
  colls : List Coll := []
  /-- Rejoin: this module is initiator, the step offered, and the answers in: (member, words of Table 13.9). -/
  rejoining : Bool := false
  acks : List (Nat × List Word) := []
  /-- The decision applied to this attempt: (attempt). -/
  decided : Nat := 0
deriving DecidableEq, Repr

/-- The cut of a group along an axis (R343): axis, extent, member 0. -/
structure Cut where
  axis : Nat := 0
  extent : Nat := 0
  origin : Nat := 0
deriving DecidableEq, Repr

/-- A re-shard of a channel (R356, R357). -/
structure Reshard where
  active : Bool := false
  pos : Nat := 0
  step : Nat := 0
  set : Nat := 0
  leave : Bool := false
  newGroup : Nat := 0
  /-- The old DP group, with its device IDs by index; none for a single copy. -/
  oldGroup : Option Nat := none
  /-- The members of the old group and of the new one, each with the group that messages to it name. -/
  members : List (Nat × Nat) := []
  /-- The new cut, which a leaving member learns from a PLAN. -/
  cut : Option Cut := none
  space : Bool := true
  planSent : Bool := false
  /-- Plans of the other members: (device, CRC, it has space); devices whose READY is in. -/
  plans : List (Nat × Nat × Bool) := []
  ready : List Nat := []
  /-- The plans have agreed and this member's quads have been sent. -/
  agreed : Bool := false
  /-- This member's index in the new mapping, and its new MASTER, M1, M2, GRAD, WORK, HYPER, PROGRESS and STAGING. -/
  newC : Nat := 0
  newObjs : List Nat := []
  /-- (array, quad) still to come from peers. -/
  toCome : List (Nat × Nat) := []
  /-- A quad of this member was lost with a link, so that it is never acknowledged. -/
  lost : Bool := false
  sentReady : Bool := false
  /-- This member has switched. -/
  switched : Bool := false
deriving DecidableEq, Repr

/-- A remote request in flight (R336, R337): its tag, group and port, and the channel and step whose segment it carries. -/
structure Remote where
  tag : Nat := 0
  group : Nat := 0
  port : Nat := 0
  ch : Nat := 0
  step : Nat := 0
deriving DecidableEq, Repr

/-- The routing layer and the collective engine. -/
structure Links where
  deviceId : Nat := 0
  dims : Nat := 0
  assigned : Bool := false
  routes : SMap (BitVec 32) := []
  ports : List Port := List.replicate 6 {}
  /-- Messages assembled for this module and not yet served. -/
  inbox : List InMsg := []
  groups : SMap Group := []
  remote : List Remote := []
  nextTag : Nat := 0
  /-- The re-shards, by channel. -/
  reshards : SMap Reshard := []
deriving DecidableEq, Repr

end Sys2Proof.Machine
end

