-- ==== Sys2Proof/Machine/UnitsHost.lean ====
section
/-! DEFINITION. The state of the CXL port, copy engines and regions (spec/11) as plain data. Every default value is the
value after reset. -/

namespace Sys2Proof.Machine

/-- A region table entry (Table 11.7). -/
structure Region where
  valid : Bool := false
  rd : Bool := false
  wr : Bool := false
  pasidReq : Bool := false
  ch : Nat := 0
  obj : Nat := 0
  offset : Nat := 0
  len : Nat := 0
  reqId : Nat := 0
  reqMask : Nat := 0
  pasid : Nat := 0
deriving DecidableEq, Repr

/-- A copy command at an engine (Table 11.4). -/
structure Copy where
  ch : Nat := 0
  /-- Count of its ring command; none for copies the module makes itself (R303, R314). -/
  pos : Option Nat := none
  host : Nat := 0
  obj : Nat := 0
  offset : Nat := 0
  len : Nat := 0
  husk : Bool := false
  capacity : Nat := 0
  /-- Bytes moved so far; the stream length of a husk copy to the host. -/
  done : Nat := 0
  streamLen : Nat := 0
  /-- Of a husk copy: the header and index table read, or the index table to write. -/
  head : List Byte := []
  /-- Of a husk copy to the host: 0 blocks, 1 the table is written, 2 the header is written. -/
  stage : Nat := 0
  status : Nat := 0
  /-- Data that host memory has returned and device memory has not yet taken (R182, R237). -/
  data : Option (List Byte) := none
  /-- Host accesses outstanding: reads still to return, writes without GO. -/
  reads : Nat := 0
  writes : Nat := 0
  /-- Every byte has been moved or the copy has stopped. -/
  ended : Bool := false
deriving DecidableEq, Repr

/-- One copy engine: 0–5 H2D0–H2D5, 6–11 D2H0–D2H5 (R377). -/
structure CopyEngine where
  queue : List Copy := []
  inflight : List Copy := []
  /-- Channel after which round-robin continues. -/
  lastCh : Nat := 0
deriving DecidableEq, Repr

/-- A host read of the module (R374): who asked and for what. -/
structure HostRead where
  id : Nat := 0
  /-- 0 ring fetch of a channel, 1 copy engine, 2 HOST_COMMIT copy-in. -/
  who : Nat := 0
  unit : Nat := 0
  pos : Nat := 0
  addr : Nat := 0
  len : Nat := 0
deriving DecidableEq, Repr

/-- A host write of the module without its GO (R374). -/
structure HostWrite where
  id : Nat := 0
  /-- 0 completion record of a channel, 1 copy engine, 2 delta segment, 3 GRAD copy-out, 4 stook. -/
  who : Nat := 0
  unit : Nat := 0
  pos : Nat := 0
  addr : Nat := 0
  data : List Byte := []
  /-- The vector that follows its GO (R388). -/
  msi : Option Nat := none
deriving DecidableEq, Repr

/-- A host write held at the CXL port while its granule moves (R237, R372, R387). -/
structure HeldWrite where
  obj : Nat := 0
  offset : Nat := 0
  data : List (Nat × Byte) := []
  /-- Requester through BAR4, or none for CXL.mem. -/
  req : Option Nat := none
deriving DecidableEq, Repr

/-- The CXL port. -/
structure Cxl where
  perst : Bool := false
  /-- CXP_STATUS fields. -/
  mode : Nat := 0
  width : Nat := 0
  rate : Nat := 0
  attach : Nat := 2
  ideIo : Bool := false
  ideCm : Bool := false
  hdm : Option (Nat × Nat) := none
  detachCause : Nat := 0
  /-- When CXP_HOST_WD was last written, µs, while the watchdog runs (R391). -/
  wdUs : Nat := 0
  regions : SMap Region := []
  engines : List CopyEngine := List.replicate 12 {}
  reads : List HostRead := []
  writes : List HostWrite := []
  nextId : Nat := 0
  held : List HeldWrite := []
  /-- Answers given: CXL.mem data (none is poison), BAR4 reads (0 data, 1 Unsupported Request, 2 poisoned), BAR0 reads,
  DOE responses. -/
  memOut : List (Option (List Byte)) := []
  bar4Out : List (Nat × List Byte) := []
  bar0Out : List Word := []
  doeOut : List (List Byte) := []
  msix : List Nat := []
  /-- BAR4 size, by Resizable BAR (Table 11.2). -/
  bar4Gib : Nat := 1024
deriving DecidableEq, Repr

end Sys2Proof.Machine
end

