-- ==== Sys2Proof/Machine/UnitsPower.lean ====
section
/-! DEFINITION. The state of power, clocks and monitors (spec/14), of boot, settings and identity (spec/15), of the
module's pins and rails (spec/16) and of the rachis and recovery (spec/13) as plain data. Every default value is the
value after reset. -/

namespace Sys2Proof.Machine

/-- The power manager and the sensors. -/
structure Power where
  capLevel : Nat := 0
  /-- Consecutive averages below CAP_W − 50 W, and above CAP_W with CAP_LEVEL at 4 (R476). -/
  capBelow : Nat := 0
  capAbove : Nat := 0
  thermLevel : Nat := 0
  tjMax : Nat := 0
  /-- Level that clocks the A-clock (R474): it changes at a boundary of a group of 8 pulses. -/
  applied : Nat := 0
  stretch : Bool := false
  hold : Bool := false
  holdEnd : Nat := 0
  /-- Times of the dips of the last second, µs (R482). -/
  dips : List Nat := []
  admitPaused : Bool := false
  /-- Lowest site now and since the last MIN_RESET, 0.1 mV units (log entry 3). -/
  vcoreNow : Nat := 7500
  vcoreMin : Nat := 7500
  inputMw : Nat := 0
  vinMv : Nat := 0
  dieTemp : List Nat := List.replicate 40 0
  regTemp : List Nat := List.replicate 8 0
  /-- Process ring oscillators of the quads, MHz, written at start. -/
  proc : List Nat := List.replicate 32 0
  /-- A cold reset held: 2 by a thermal shutdown, 3 by clock loss (R472, R477). -/
  held : Option Nat := none
  /-- DETAIL of the RAIL_RESET record that the next start writes (R472, R477, R484). -/
  railRec : Option Nat := none
  /-- µJ of input energy not yet a whole mJ. -/
  energyUj : Nat := 0
deriving DecidableEq, Repr

/-- Pins, input and rails. -/
structure Physical where
  pwrEn : Bool := true
  pwrGood : Bool := true
  /-- The 54 V input is above 36 V: rails 10 and 11 and the retention SRAM live. -/
  aon : Bool := true
  undervolt : Bool := false
  overvolt : Bool := false
  /-- Rails 0–12 out of their regulation band. -/
  railsOut : List Nat := []
  /-- MOD_RST# is held low past 5 s: the cold reset completes after its rising edge. -/
  modRstHeld : Bool := false
  /-- ADDR as sampled at the last rising edge of PWR_EN. -/
  smbAddr : Nat := 0
deriving DecidableEq, Repr

/-- A directory copy (R496). -/
structure DirCopy where
  good : Bool := false
  seq : Nat := 0
  active : Nat := 0
  staging : Nat := 0
  version : Nat := 0
  svn : Nat := 0
  starts : Nat := 0
  pages : Nat := 0
deriving DecidableEq, Repr

/-- A settings copy (R511), as its items. -/
structure SetCopy where
  valid : Bool := false
  format : Nat := 2
  seq : Nat := 0
  retired : Nat := 0
  ideRequired : Bool := false
  liveUpdate : Bool := true
deriving DecidableEq, Repr

/-- A firmware slot of the flash: the bytes of its image, or the image shipped with the module (R537). -/
structure FwSlot where
  shipped : Bool := false
  len : Nat := 0
  bytes : SMap Byte := []
  /-- 4,096-byte blocks written, by index. -/
  blocks : List Nat := []
deriving DecidableEq, Repr

/-- An operation of the flash that has not ended (R497), in the order of its priorities. -/
structure FlashOp where
  /-- 0 directory, 1 settings, 2 error log, 3 stook, 4 staging. -/
  prio : Nat := 0
  /-- 0 directory write, 1 settings write, 2 log record, 3 stook save, 4 erase of the staging slot, 5 program a block. -/
  kind : Nat := 0
  /-- Block index, log SEQ or stook id. -/
  arg : Nat := 0
  /-- 4 KiB pages it programs. -/
  pages : Nat := 0
deriving DecidableEq, Repr

/-- A key slot (R519): keys and the owner channel's handle. -/
structure KeySlot where
  filled : Bool := false
  owner : Nat := 0
  key : List Byte := []
deriving DecidableEq, Repr

/-- Boot, settings, firmware, identity. -/
structure Boot where
  stage : Nat := 0
  mixed : Bool := false
  identityOk : Bool := false
  settingsDefault : Bool := false
  fromStaging : Bool := false
  /-- Slot states as the directory in use gives them; zero before the ROM has read it. -/
  activeSt : Nat := 0
  stagingSt : Nat := 0
  stagingVersion : Nat := 0
  stagingSvn : Nat := 0
  fuseSvn : Nat := 0
  imageSvn : Nat := 0
  /-- VERSION of the running rachis firmware and of the components loaded at the last start. -/
  fwVersion : Nat := 0
  /-- SETTINGS_FORMAT of the running firmware. -/
  fwFormat : Nat := 2
  settings : SetCopy := {}
  setA : SetCopy := { valid := true, seq := 1 }
  setB : SetCopy := {}
  dirA : DirCopy := { good := true, seq := 1, active := 1 }
  dirB : DirCopy := {}
  active : FwSlot := { shipped := true }
  staging : FwSlot := {}
  shippedVersion : Nat := 0
  shippedSvn : Nat := 0
  /-- Flash operations not yet ended. -/
  ops : List FlashOp := []
  /-- Recovery mode: VERIFY waits for the program queue (R515). -/
  rcvVerify : Bool := false
  /-- A live handover whose standby core loads (R506). -/
  handover : Bool := false
  /-- The commit copy of R508 is due or running. -/
  commitDue : Bool := false
  /-- Recovery mode (R515): STATE, REASON. -/
  rcvState : Nat := 0
  rcvReason : Nat := 0
  dlBuffer : List Byte := List.replicate 4096 0
  keys : SMap KeySlot := []
  serial : Word := 0
  /-- Open SPDM sessions, by id (R517). -/
  sessions : List Nat := []
  /-- SHA-256 of each component as loaded, by type 1–6; empty for the shipped image, whose bytes the spec does not give
  (R518). -/
  digests : List (List Byte) := List.replicate 6 []
  /-- Log records and the stook in flash. -/
  logFlash : SMap LogRec := []
  stookFlash : Option Stook := none
  /-- The ROM is to run the staged image as a cold start without looking at the strap (R515). -/
  ignoreStrap : Bool := false
deriving DecidableEq, Repr

/-- A tag or engine request that has timed out and the probe of its home (R432). -/
structure Probe where
  /-- 0 tiller, 1 copy engine, 2 collective engine, 3 migration engine. -/
  who : Nat := 0
  unit : Nat := 0
  home : Nat := 0
  us : Nat := 0
deriving DecidableEq, Repr

/-- The rachis, detectors, reset domains, log and stooks. -/
structure Recov where
  activeCore : Nat := 0
  standby : Bool := false
  heartbeat : Nat := 0
  /-- When the heartbeat last advanced, µs. -/
  beatUs : Nat := 0
  /-- The active core has stopped with no standby ready (R438). -/
  stopped : Bool := false
  lastCold : Bool := true
  domains : SMap Domain := []
  log : SMap LogRec := []
  logTail : Nat := 0
  stooks : List Stook := []
  nextStook : Nat := 1
  lastSaved : Option Stook := none
  probes : List Probe := []
  /-- Commands whose engine has been told to abandon them: (channel, count, engine's domain, time) (R433). -/
  abandoned : List (Nat × Nat × Nat × Nat) := []
deriving DecidableEq, Repr

/-- The remaining state of a channel. -/
structure Chan where
  gen : Nat := 0
  live : Bool := false
  /-- What CHN_STATE.STATE shows (Table 12.10). -/
  fenced : Bool := false
  stalled : Bool := false
  destroying : Bool := false
  det : Bool := false
  grant : List Nat := []
  /-- Frame quotas and frames in use: (stacked, deep). -/
  quota : Nat × Nat := (0, 0)
  used : Nat × Nat := (0, 0)
  detachLog : Nat := 0
  logRecs : Nat := 0
  windows : SMap HostWindow := []
  token : Word := 0
  /-- Wrong tokens in a row, and when a lock ends, µs (R397). -/
  wrong : Nat := 0
  lockUs : Nat := 0
  attached : Bool := true
  /-- Records written to the detach log since the detach (R394). -/
  logged : Nat := 0
  logFull : Bool := false
  rings : Rings := {}
  rcv : ChanRcv := {}
  trn : Trn := {}
  /-- Layer barrier: tillers whose END it holds (R44). -/
  barrier : List Nat := []
  /-- A swap waits for room in the deferred work queue (R309). -/
  goHeld : Bool := false
  /-- Counts of the STAGE_LOADs whose records are written when their graphs become active, each with its LAYER_TAG. -/
  loading : List (Nat × Nat) := []
  /-- Admission waves not yet open, each a list of tillers (R48). -/
  waves : List (List Nat) := []
deriving DecidableEq, Repr

/-- What comes about at a deep-tier controller while it serves a part: symbol errors in its codewords (key divided by 64), and local
blocks at whose husk map bits a parity error stands (R265). -/
structure PartErrs where
  syms : List (Nat × List (Nat × Nat)) := []
  map : List Nat := []
deriving DecidableEq, Repr

/-- What a port receives at a time: the bytes of a flit, and the FEC codewords corrected and not correctable since the last (R321). -/
structure RxFlit where
  bytes : List Byte := []
  corr : Nat := 0
  uncorr : Nat := 0
deriving DecidableEq, Repr

/-- A register write: its data, and the event bits that hardware sets in the register in the same C-cycle (R12). -/
structure RegData where
  w : Word := 0
  ev : Word := 0
deriving DecidableEq, Repr

end Sys2Proof.Machine
end

