-- ==== Sys2Proof/Syntax.lean ====
section
/-! DEFINITION. The commands of the module: one constructor per row of the table of operations and events
(spec/opcode_table.json), with what the surroundings give the step: the unit it happens at, the data that arrives, the
reading that is taken. -/

namespace Sys2Proof

open Sys2Proof.Machine

/-- A command or event of the module. -/
inductive Instr where
  /-- CHAN_CREATE (R407). Creates a channel: takes the lowest free index, grants tillers, sets quotas, creates the detach log, loads the seed and draws an attach token. -/
  | chanCreate (src : CmdSrc) (e : Entry)
  /-- CHAN_DESTROY (R411). Makes the handle stale, fences the channel, waits for running commands, frees its resources and writes the final record. -/
  | chanDestroy (src : CmdSrc) (e : Entry)
  /-- CHAN_GRANT (R408). Replaces the channel's tiller mask and frame quotas, or fails and changes nothing. -/
  | chanGrant (src : CmdSrc) (e : Entry)
  /-- CHAN_FENCE (R410). Fences a channel from a mailbox or SMBus: stops its stages and copies, aborts its attempt and holds fetch. -/
  | chanFence (src : CmdSrc) (e : Entry)
  /-- CHAN_UNFENCE (R410). Lifts a channel fence, and fetch continues from the recorded doorbells. -/
  | chanUnfence (src : CmdSrc) (e : Entry)
  /-- CHAN_REATTACH (R396). Checks the attach token and reattaches a detached channel with new ring addresses, keeping or clearing host windows. -/
  | chanReattach (src : CmdSrc) (e : Entry)
  /-- RING_SET (R412). Places the command and completion rings of a channel and zeroes their counts. -/
  | ringSet (src : CmdSrc) (e : Entry)
  /-- HOST_WINDOW_SET (R375). Writes or clears one of the channel's 16 host windows from the privileged mailbox. -/
  | hostWindowSet (src : CmdSrc) (e : Entry)
  /-- CHAN_QUERY (R422). Returns a channel's state, command head, completion tail and last committed step. -/
  | chanQuery (src : CmdSrc) (e : Entry)
  /-- TORUS_SET (R339). Writes the module's device ID, torus dimensions and wrap marks into the always-on link domain. -/
  | torusSet (src : CmdSrc) (e : Entry)
  /-- ROUTE_SET (R339). Fills routing table entries with dimension-ordered routes or from a table in an object. -/
  | routeSet (src : CmdSrc) (e : Entry)
  /-- TOKEN_HOLD (R420). Places one unreleased hold on a channel token. -/
  | tokenHold (src : CmdSrc) (e : Entry)
  /-- NOP (R422). A ring command that does nothing and completes. -/
  | nop (src : CmdSrc) (e : Entry)
  /-- OBJ_CREATE (R235). Checks quota and space, then allocates an object's device range, placement entry, granule records and zeroed home frames. -/
  | objCreate (src : CmdSrc) (e : Entry)
  /-- OBJ_FREE (R234). Frees an object, its records and its frames unless it is in use. -/
  | objFree (src : CmdSrc) (e : Entry)
  /-- OBJ_SET_MODE (R223). Changes an object's consistency mode if the mode and replica combination is allowed. -/
  | objSetMode (src : CmdSrc) (e : Entry)
  /-- OBJ_SHARE (R540). Shares a read-only object into a share group, or adds a member channel to the group. -/
  | objShare (src : CmdSrc) (e : Entry)
  /-- OBJ_UNSHARE (R540). Clears SHARED of an object or removes a member from a share group. -/
  | objUnshare (src : CmdSrc) (e : Entry)
  /-- OBJ_QUERY (R233). Returns a placement entry and optionally one granule record of a readable object. -/
  | objQuery (src : CmdSrc) (e : Entry)
  /-- OBJ_REPLICATE (R236). Allocates replica frames and starts copying the named granules. -/
  | objReplicate (src : CmdSrc) (e : Entry)
  /-- OBJ_REPLICA_DROP (R225). Flushes dirty granules home and then frees an object's replica frames. -/
  | objReplicaDrop (src : CmdSrc) (e : Entry)
  /-- OBJ_FLUSH (R225). Copies dirty write-back granules to their home frames and clears DIRTY. -/
  | objFlush (src : CmdSrc) (e : Entry)
  /-- OBJ_MIGRATE (R236). Allocates target frames and starts moving granules of the home or replica to another tier or interleave. -/
  | objMigrate (src : CmdSrc) (e : Entry)
  /-- STAGE_LOAD (R42). Checks a stage graph and writes each stage's descriptor, immediates and program into its tillers' shadow configuration. -/
  | stageLoad (src : CmdSrc) (e : Entry) (late : List Nat)
  /-- COPY_H2D (R376). Queues a copy from host memory into an object on an H2D engine after the checks of R378. -/
  | copyH2d (src : CmdSrc) (e : Entry)
  /-- COPY_D2H (R380). Queues a copy from an object to host memory, optionally compressed into a husk stream. -/
  | copyD2h (src : CmdSrc) (e : Entry)
  /-- REGION_REGISTER (R385). Registers a BAR4 region window on an owned object in the lowest free entry. -/
  | regionRegister (src : CmdSrc) (e : Entry)
  /-- REGION_RELEASE (R386). Completes after all accepted window requests are applied and then refuses the window. -/
  | regionRelease (src : CmdSrc) (e : Entry)
  /-- SHARD_CREATE (R271). Reads the tensor table and creates the arrays of a shard set with aligned stacked homes. -/
  | shardCreate (src : CmdSrc) (e : Entry)
  /-- SHARD_FREE (R274). Frees every array of a shard set unless it is in use. -/
  | shardFree (src : CmdSrc) (e : Entry)
  /-- HYPER_SET (R289). Sets optimizer static fields or resets t and the powers from the first step not yet started. -/
  | hyperSet (src : CmdSrc) (e : Entry)
  /-- GATHER (R277). Starts an all-gather of working-copy portions over the DP group into a destination, recording or checking the shard version. -/
  | gather (src : CmdSrc) (e : Entry)
  /-- SHEAF_REGISTER (R281). Registers a sheaf for the attempt in its stacks, after the previous step's record exists. -/
  | sheafRegister (src : CmdSrc) (e : Entry)
  /-- STEP_CLOSE (R286). Ends sheaf registration for the attempt, names the update mask and completes with the norm record. -/
  | stepClose (src : CmdSrc) (e : Entry)
  /-- HOST_COMMIT (R303). Copies a host-written working copy into its WORK slot, computes SUM and commits the step. -/
  | hostCommit (src : CmdSrc) (e : Entry)
  /-- COMMIT_ACK (R304). Records that the host's state of a step is durable, allowing the next HOST_COMMIT copy-in. -/
  | commitAck (src : CmdSrc) (e : Entry)
  /-- VARIANT_SET (R310). Writes adapter variant table entries from the first step not yet started. -/
  | variantSet (src : CmdSrc) (e : Entry)
  /-- DELTA_SINK (R314). Names the host ring or peer to which state delta segments are exported. -/
  | deltaSink (src : CmdSrc) (e : Entry)
  /-- COLL_GROUP_CREATE (R343). Reads a group descriptor and creates a collective group under its number. -/
  | collGroupCreate (src : CmdSrc) (e : Entry)
  /-- COLL_GROUP_FREE (R422). Frees a collective group unless a collective of it runs. -/
  | collGroupFree (src : CmdSrc) (e : Entry)
  /-- COLL_BCAST (R346). Starts a broadcast of an object range from the root index over a group. -/
  | collBcast (src : CmdSrc) (e : Entry)
  /-- COLL_SEND (R350). Waits for the receiver's CTS and sends a range as chunks. -/
  | collSend (src : CmdSrc) (e : Entry)
  /-- COLL_RECV (R350). Posts a receive range and sends CTS to the sender. -/
  | collRecv (src : CmdSrc) (e : Entry)
  /-- COLL_BARRIER (R346). Starts a barrier over a collective group. -/
  | collBarrier (src : CmdSrc) (e : Entry)
  /-- RESHARD (R356). After the last started step's record, exchanges plans and re-shards a set onto a new DP group or leaves. -/
  | reshard (src : CmdSrc) (e : Entry)
  /-- LINK_FENCE (R338). Sends FENCE or UNFENCE for a collective group. -/
  | linkFence (src : CmdSrc) (e : Entry)
  /-- FW_BEGIN (R502). Sets the staging slot WRITING and erases its sectors for a new download. -/
  | fwBegin (src : CmdSrc) (e : Entry)
  /-- FW_BLOCK (R503). Takes one 4 KiB block from the download buffer into the program queue after checks. -/
  | fwBlock (src : CmdSrc) (e : Entry)
  /-- FW_VERIFY (R504). Waits for programming and verifies the staged image, marking it VERIFIED or reporting the reason. -/
  | fwVerify (src : CmdSrc) (e : Entry)
  /-- FW_ACTIVATE (R505). Marks the verified staged image PENDING_COMMIT and, with LIVE, starts a live handover. -/
  | fwActivate (src : CmdSrc) (e : Entry)
  /-- FW_ABORT (R509). Sets a WRITING or VERIFIED staging slot EMPTY. -/
  | fwAbort (src : CmdSrc) (e : Entry)
  /-- FW_STATUS (R520). Returns BOOT_STATUS, the staging version and the count of blocks written. -/
  | fwStatus (src : CmdSrc) (e : Entry)
  /-- SETTINGS_GET (R512). Returns the persistent settings items and their SEQ. -/
  | settingsGet (src : CmdSrc) (e : Entry)
  /-- SETTINGS_SET (R512). Writes changed settings to the lower-SEQ copy, effective at the next start. -/
  | settingsSet (src : CmdSrc) (e : Entry)
  /-- KEY_LOAD (R519). Loads an XTS key pair from the download buffer into a key slot for an owner channel and zeroes the buffer. -/
  | keyLoad (src : CmdSrc) (e : Entry)
  /-- KEY_CLEAR (R519). Clears a key slot that no live object names. -/
  | keyClear (src : CmdSrc) (e : Entry)
  /-- SMB_TELEMETRY (R492). SMBus request returning a telemetry page. -/
  | smbTelemetry (sq page : Nat)
  /-- SMB_HEARTBEAT (R428). SMBus request returning the heartbeat count and the active rachis core. -/
  | smbHeartbeat (sq : Nat)
  /-- SMB_RECOVER (R434). SMBus request that flags the named reset domain. -/
  | smbRecover (sq code : Nat)
  /-- SMB_DETACH (R391). SMBus request that detaches the host with cause 6. -/
  | smbDetach (sq : Nat)
  /-- SMB_LOG_READ (R466). SMBus request returning one error log record by SEQ. -/
  | smbLogRead (sq idx : Nat)
  /-- MBX_GO (R401). A write of MBX_GO copies the entry, sets BUSY and starts the mailbox command, or sets OVERRUN if busy. -/
  | mbxGo (m : Nat) (w : Word)
  /-- MBX_RESULT_RECORD (R403). A command acknowledged PENDING finishes and writes its record to its result ring slot. -/
  | mbxResultRecord (m : Nat)
  /-- DB_CMD_TAIL (R414). A doorbell write replaces the channel's TAIL, or is discarded with RING_OVERRUN. -/
  | dbCmdTail (c : Nat) (w : Word)
  /-- DB_TOKEN_RELEASE (R420). Releases the oldest unreleased hold on a token, or sets TOKEN_UNDERFLOW. -/
  | dbTokenRelease (c : Nat) (w : Word)
  /-- DB_CPL_HEAD (R424). A write of the completion head, by doorbell or CHN_CPL_HEAD, releases records and lets waiting records be written. -/
  | dbCplHead (c : Nat) (w : Word)
  /-- RING_FETCH (R415). A ring read returns and the channel accepts each current entry in order, advancing CHN_CMD_HEAD. -/
  | ringFetch (c : Nat) (es : List Entry)
  /-- STALE_REREAD (R416). A re-read of a stale entry issues after 156 C-cycles; after 64 stale reads the channel enters STALLED. -/
  | staleReread (c : Nat) (e : Entry)
  /-- CPL_RECORD_WRITE (R424). A completion record is written once the ring has room and its data is visible, satisfying its tokens. -/
  | cplRecordWrite (c : Nat)
  /-- MSIX_COALESCE_TIMER (R425). COAL_US after the first unsignalled record the channel sends its vector. -/
  | msixCoalesceTimer (c : Nat)
  /-- LAYER_BARRIER_GO (R44). 8 A-cycles after every stage of a layer has sent END, the barrier raises GO at every tiller of the channel. -/
  | layerBarrierGo (c : Nat)
  /-- LATE_SWAP (R45). A tiller whose shadow completes after GO swaps in the next A-cycle. -/
  | lateSwap (t : Nat)
  /-- DEFERRED_SWAP_RESUME (R309). A swap held by a full deferred queue proceeds when a stage leaves the queue. -/
  | deferredSwapResume (c : Nat)
  /-- ADMIT_WAVE_OPEN (R48). A wave of stages is admitted PWR_ADMIT_GAP A-cycles after the previous wave. -/
  | admitWaveOpen (c : Nat)
  /-- STREAM_TILE_ARRIVE (R37). A stream tile lands in a consumer input queue slot. -/
  | streamTileArrive (dst src port : Nat)
  /-- STREAM_END_ARRIVE (R37). END from a producer tiller arrives at a consumer tiller. -/
  | streamEndArrive (dst src port : Nat)
  /-- STREAM_CREDIT_RETURN (R36). A credit returned over CTL lets a producer send a stalled tile copy. -/
  | streamCreditReturn (dst src port : Nat)
  /-- RELAY_FORWARD (R39). A chain member forwards a relay tile once the next member has a free slot. -/
  | relayForward (t : Nat)
  /-- RELAY_STALL (R41). A relay tile held 1 ms without a free slot at the next member sets RELAY_STALL. -/
  | relayStall (t : Nat)
  /-- PREFETCH_ISSUE (R52). A stage issues its next prefetch in consumption order when no stop condition holds. -/
  | prefetchIssue (t who port mb rb cb off : Nat) (last : Bool)
  /-- MEM_REQUEST_SEND (R180). The memory request unit sends the oldest admissible queued request, reserving a tag. -/
  | memRequestSend (t rid : Nat)
  /-- STALE_NOTICE (R54). A write notice over CTL marks a prefetched tile stale in the prefetch tracker. -/
  | staleNotice (t rid : Nat)
  /-- TILE_LAND (R178). The last part of a tile request lands in tile store and its tag is released. -/
  | tileLand (t rid : Nat)
  /-- WRITE_ACK (R189). A write acknowledgement returns to the requester once every byte is visible at its bank. -/
  | writeAck (t rid : Nat)
  /-- ARRAY_PASS (R69). The array begins the next accepted pass: stationary load, then streaming of its input rows. -/
  | arrayPass (t : Nat)
  /-- ARRAY_SYNC (R67). A SYNC command completes when every earlier pass has written all its sums. -/
  | arraySync (t : Nat)
  /-- ARRAY_BANK_FLUSH (R89). After a final wide-shallow pass, the accumulator bank flushes up to four tiles to the finished-tile queue. -/
  | arrayBankFlush (t : Nat)
  /-- CONTEXT_SWITCH (R98). After array and vector engine drain, the sequencer switches between active and deferred contexts. -/
  | contextSwitch (t : Nat)
  /-- VECTOR_BEAT (R110). A vector instruction beat issues once its unit, ports and dependences allow. -/
  | vectorBeat (t : Nat)
  /-- VADD (R105). Elementwise A + B. -/
  | vadd (t : Nat) (w : Word)
  /-- VSUB (R105). Elementwise A − B. -/
  | vsub (t : Nat) (w : Word)
  /-- VMUL (R105). Elementwise A × B. -/
  | vmul (t : Nat) (w : Word)
  /-- VFMA (R105). Elementwise A × B + C rounded once. -/
  | vfma (t : Nat) (w : Word)
  /-- VMAX (R105). Elementwise larger of A and B. -/
  | vmax (t : Nat) (w : Word)
  /-- VMIN (R105). Elementwise smaller of A and B. -/
  | vmin (t : Nat) (w : Word)
  /-- VABS (R105). Elementwise absolute value. -/
  | vabs (t : Nat) (w : Word)
  /-- VNEG (R105). Elementwise negation. -/
  | vneg (t : Nat) (w : Word)
  /-- VCMP (R105). Elementwise comparison giving +1.0 or +0.0 under the SRCC condition. -/
  | vcmp (t : Nat) (w : Word)
  /-- VSEL (R105). Elementwise select of B or C by A being non-zero. -/
  | vsel (t : Nat) (w : Word)
  /-- VCPY (R116). Converts A to the destination format, with optional stochastic rounding and MX scales. -/
  | vcpy (t : Nat) (w : Word)
  /-- VEXP2 (R126). Elementwise 2^x correctly rounded. -/
  | vexp2 (t : Nat) (w : Word)
  /-- VEXP (R126). Elementwise e^x correctly rounded. -/
  | vexp (t : Nat) (w : Word)
  /-- VLOG2 (R126). Elementwise log2 x correctly rounded. -/
  | vlog2 (t : Nat) (w : Word)
  /-- VRCP (R126). Elementwise reciprocal correctly rounded. -/
  | vrcp (t : Nat) (w : Word)
  /-- VRSQRT (R126). Elementwise reciprocal square root correctly rounded. -/
  | vrsqrt (t : Nat) (w : Word)
  /-- VSQRT (R126). Elementwise square root correctly rounded. -/
  | vsqrt (t : Nat) (w : Word)
  /-- VTANH (R126). Elementwise tanh correctly rounded. -/
  | vtanh (t : Nat) (w : Word)
  /-- VSIGM (R126). Elementwise logistic sigmoid correctly rounded. -/
  | vsigm (t : Nat) (w : Word)
  /-- VERF (R126). Elementwise erf correctly rounded. -/
  | verf (t : Nat) (w : Word)
  /-- RSUM (R124). Reduces A to its sum in a scalar by the fixed lane and tree order. -/
  | rsum (t : Nat) (w : Word)
  /-- RSSQ (R124). Reduces A to its sum of squares in a scalar. -/
  | rssq (t : Nat) (w : Word)
  /-- RMAX (R124). Reduces A to its largest element. -/
  | rmax (t : Nat) (w : Word)
  /-- RMIN (R124). Reduces A to its smallest element. -/
  | rmin (t : Nat) (w : Word)
  /-- RAMAX (R124). Reduces A to its largest magnitude. -/
  | ramax (t : Nat) (w : Word)
  /-- RROWSUM (R125). Sums each 64-element row. -/
  | rrowsum (t : Nat) (w : Word)
  /-- RROWSSQ (R125). Sums the squares of each 64-element row. -/
  | rrowssq (t : Nat) (w : Word)
  /-- RROWMAX (R125). Takes the largest element of each 64-element row. -/
  | rrowmax (t : Nat) (w : Word)
  /-- SADD (R105). SD ← SA + SB + IMM. -/
  | sadd (t : Nat) (w : Word)
  /-- SSUB (R105). SD ← SA − SB. -/
  | ssub (t : Nat) (w : Word)
  /-- SMUL (R105). SD ← low 64 bits of SA × SB. -/
  | smul (t : Nat) (w : Word)
  /-- SAND (R105). SD ← SA AND SB. -/
  | sand (t : Nat) (w : Word)
  /-- SOR (R105). SD ← SA OR SB. -/
  | sor (t : Nat) (w : Word)
  /-- SXOR (R105). SD ← SA XOR SB. -/
  | sxor (t : Nat) (w : Word)
  /-- SSHL (R105). SD ← SA shifted left. -/
  | sshl (t : Nat) (w : Word)
  /-- SSHR (R105). SD ← SA shifted right logically. -/
  | sshr (t : Nat) (w : Word)
  /-- SLIH (R105). Loads IMM into the high half of SD. -/
  | slih (t : Nat) (w : Word)
  /-- SFADD (R105). FP32 scalar addition. -/
  | sfadd (t : Nat) (w : Word)
  /-- SFMUL (R105). FP32 scalar multiplication. -/
  | sfmul (t : Nat) (w : Word)
  /-- SFMA (R105). FP32 scalar fused multiply-add. -/
  | sfma (t : Nat) (w : Word)
  /-- SCVTF (R105). Converts a signed integer to FP32. -/
  | scvtf (t : Nat) (w : Word)
  /-- SCVTI (R105). Converts FP32 to a saturated signed integer. -/
  | scvti (t : Nat) (w : Word)
  /-- SLD (R105). Loads 8 bytes of tile store into a scalar register. -/
  | sld (t : Nat) (w : Word)
  /-- SST (R105). Stores a scalar register into 8 bytes of tile store. -/
  | sst (t : Nat) (w : Word)
  /-- ARR (R67). Passes an array command word to the array, waiting while 8 are held. -/
  | arr (t : Nat) (w : Word)
  /-- WAITA (R113). Waits until the array is idle and every pass has written its sums. -/
  | waita (t : Nat) (w : Word)
  /-- MREQ (R173). Checks a tile request descriptor and queues the request. -/
  | mreq (t : Nat) (w : Word)
  /-- WAITM (R105). Waits until a requested tile has landed and is not stale, consuming it. -/
  | waitm (t : Nat) (w : Word)
  /-- MWRITE (R188). Checks and issues a write, store or accumulate request. -/
  | mwrite (t : Nat) (w : Word)
  /-- SEND (R36). Sends a tile on an output port to each consumer as credits allow. -/
  | send (t : Nat) (w : Word)
  /-- WAITIN (R37). Returns the address of the next input tile in coordinate order, or all-ones after END. -/
  | waitin (t : Nat) (w : Word)
  /-- RELIN (R36). Frees an input slot and returns its credit. -/
  | relin (t : Nat) (w : Word)
  /-- WAITW (R105). Returns the address of the next weight tile in consumption order. -/
  | waitw (t : Nat) (w : Word)
  /-- RELW (R39). Releases a weight slot. -/
  | relw (t : Nat) (w : Word)
  /-- FTQ_WAIT (R122). Waits for a READY head tile and returns its valid rows. -/
  | ftqWait (t : Nat) (w : Word)
  /-- FTQ_POP (R122). Frees the finished-tile queue head slot. -/
  | ftqPop (t : Nat) (w : Word)
  /-- BR (R105). Branches when the condition on SA and SB holds. -/
  | br (t : Nat) (w : Word)
  /-- TILE_END (R98). Marks a tile boundary where a context switch may begin. -/
  | tileEnd (t : Nat) (w : Word)
  /-- STAGE_END (R44). Waits for idle engines and sent tiles, then signals END on the stage's edges or to the barrier. -/
  | stageEnd (t : Nat) (w : Word)
  /-- WAITV (R105). Waits until every earlier vector instruction has written all results. -/
  | waitv (t : Nat) (w : Word)
  /-- SEQ_NOP (R105). The sequencer NOP instruction does nothing. -/
  | seqNop (t : Nat) (w : Word)
  /-- STACK_PART_SERVE (R183). A bank serves an admitted read or write part in codeword admission order. -/
  | stackPartServe (i t rid sec : Nat) (errs : List (Nat × List (Nat × Nat)))
  /-- BANK_SLOW (R185). A bank silent for 20 µs with a pending request sets BANK_SLOW. -/
  | bankSlow (i ch bank us : Nat)
  /-- BANK_TIMEOUT (R186). After 2 ms of silence pending requests complete poisoned and the stack's domain is flagged. -/
  | bankTimeout (i ch bank us : Nat)
  /-- DT_BANK_TIMEOUT (R247). A deep-tier bank silent for 2 ms flags its group, whose controllers then answer poisoned. -/
  | dtBankTimeout (d sub rank bank us : Nat)
  /-- ACCUM_ARRIVE (R192). A sheaf contribution part arrives and is applied, held, returned or discarded against its cursor. -/
  | accumArrive (i t rid : Nat)
  /-- ACCUM_REOFFER (R193). A returned contribution part is offered again 2 µs later. -/
  | accumReoffer (i t rid : Nat)
  /-- SHEAF_COMPLETE (R285). A sheaf complete in every stack starts its reduce-scatter. -/
  | sheafComplete (c n : Nat)
  /-- UPDATE_ITEM_START (R196). The update unit takes a work item from its queue, or rejects it. -/
  | updateItemStart (i : Nat)
  /-- UPDATE_PHASE_DONE (R294). A granule phase's writes are acknowledged, its mark is written and the next phase starts. -/
  | updatePhaseDone (i : Nat)
  /-- SCALE_REPORT (R275). The rachis receives an item's largest master magnitude and, when all 16 are in, returns the scale byte. -/
  | scaleReport (c sset tensor : Nat)
  /-- WORK_NARROW_START (R200). After all masters of the segment are written, and the scale byte is known, working-copy narrowing starts. -/
  | workNarrowStart (i : Nat)
  /-- DIE_AUTO_ERASE (R206). More than 4,096 corrections attributed to one die in a scrub period mark the die for erasure. -/
  | dieAutoErase (i die : Nat)
  /-- SCRUB_READ (R209). Patrol scrub reads the next codeword at its even rate. -/
  | scrubRead (i sec : Nat) (err : List (Nat × Nat))
  /-- BANK_REFRESH (R210). A bank receives its per-bank refresh at the interval. -/
  | bankRefresh (i ch bank : Nat)
  /-- REFRESH_FORCE (R210). A refresh postponed 8 intervals is forced. -/
  | refreshForce (i ch bank : Nat)
  /-- STACK_TEMP_SAMPLE (R211). Every 10 µs the base die reads die temperatures and sets the band. -/
  | stackTempSample (i : Nat) (temps : List Nat)
  /-- STACK_THERM_EXIT (R211). A stack leaves the thermal-limit band after 1 ms below 93 °C. -/
  | stackThermExit (i : Nat)
  /-- DT_PART_SERVE (R264). A deep-tier controller serves a read or write of a plain or husk slot. -/
  | dtPartServe (d t rid : Nat) (errs : PartErrs)
  /-- DT_TEMP_SAMPLE (R248). Every 10 µs a controller reads the package temperature and sets its band. -/
  | dtTempSample (d temp : Nat)
  /-- DT_THERM_EXIT (R248). A controller leaves the band above 95 °C after 1 ms below 93 °C. -/
  | dtThermExit (d : Nat)
  /-- XLAT_MISS_FILL (R221). A translation miss read returns a granule record and the request may be sent. -/
  | xlatMissFill (t obj granule : Nat)
  /-- CXL_MEM_READ (R372). A host CXL.mem read of a 64-byte line is served or refused. -/
  | cxlMemRead (h : Nat)
  /-- CXL_MEM_WRITE (R372). A host CXL.mem write is applied, merged, held or refused. -/
  | cxlMemWrite (h : Nat) (data : List (Nat × Byte))
  /-- MIGRATE_INVALIDATE (R237). A requester receives a record invalidation, holds new writes and acknowledges after its writes drain. -/
  | migrateInvalidate (obj granule who : Nat)
  /-- MIGRATE_COPY_START (R237). With all acknowledgements in, the migration engine reads the source blocks and writes the target. -/
  | migrateCopyStart (obj granule : Nat)
  /-- MIGRATE_RECORD_WRITE (R237). With target writes acknowledged, the engine writes the new record, broadcasts a stale notice and releases held writes. -/
  | migrateRecordWrite (obj granule : Nat)
  /-- MIGRATE_FREE_SOURCE (R237). After the second invalidation is acknowledged the source frame is freed. -/
  | migrateFreeSource (obj granule : Nat)
  /-- MIGRATE_HOLD_TIMEOUT (R239). A move held longer than MIG_HOLD_US is abandoned. -/
  | migrateHoldTimeout (obj granule : Nat)
  /-- MIGRATE_RETRY (R239). An abandoned granule move is retried 1 ms later. -/
  | migrateRetry (obj granule : Nat)
  /-- TRAINING_RECORD_RX (R322). A training record is received; after three good copies it is accepted and checked. -/
  | trainingRecordRx (p : Nat) (bs : List Byte)
  /-- TRAINING_STEP_TIMEOUT (R322). A training step exceeding its limit ends the attempt. -/
  | trainingStepTimeout (p : Nat)
  /-- TRAINING_RESTART (R322). One second after a failed attempt, a DOWN or MISWIRED port restarts training. -/
  | trainingRestart (p : Nat)
  /-- LANE_FAIL (R325). A lane losing lock or exceeding its FEC rate fails and the port retrains on four lanes. -/
  | laneFail (p lane : Nat)
  /-- PORT_RETRAIN_DONE (R325). A retrain with ALIGN and EXCHANGE ends and held flits are replayed. -/
  | portRetrainDone (p : Nat)
  /-- PORT_RETRAIN_WRITE (R325). A write of RETRAIN in ABL_PORT_CTRL starts full training. -/
  | portRetrainWrite (p : Nat)
  /-- CABLE_PRESENT (R527). A link cable appearing lets its port begin training. -/
  | cablePresent (p : Nat)
  /-- FLIT_RX (R328). A flit is received, checked, acknowledged, credited and forwarded or consumed. -/
  | flitRx (p : Nat) (x : RxFlit)
  /-- FLIT_TX (R331). A port sends the next flit when credits and arbitration allow. -/
  | flitTx (p : Nat)
  /-- FENCE (R338). A FENCE message fences a group at the destination. -/
  | fence (m : Msg)
  /-- UNFENCE (R338). An UNFENCE message lifts a group fence. -/
  | unfence (m : Msg)
  /-- STEP_ABORT (R354). A STEP_ABORT message aborts the named step for replay and raises the epoch. -/
  | stepAbort (m : Msg)
  /-- REJOIN (R460). A REJOIN message raises the epoch and, with a decision, is applied by the member. -/
  | rejoin (m : Msg)
  /-- REJOIN_ACK (R460). A REJOIN_ACK reaches the initiator, which decides when all members have answered. -/
  | rejoinAck (m : Msg)
  /-- HUSK_RESEND (R261). A request to resend a failed husk block plain. -/
  | huskResend (m : Msg)
  /-- PLAN (R356). A re-shard PLAN is received and compared with the others. -/
  | plan (m : Msg)
  /-- RESHARD_READY (R357). A READY is received; with READY from all members the module switches to the new mapping. -/
  | reshardReady (m : Msg)
  /-- RD_REQ (R336). A remote read request is served or answered with ERR. -/
  | rdReq (m : Msg)
  /-- WR_REQ (R336). A remote write request is applied and acknowledged, or answered with ERR. -/
  | wrReq (m : Msg)
  /-- RD_RESP (R337). A read response arrives, discarded if its generation is stale. -/
  | rdResp (m : Msg)
  /-- WR_ACK (R336). A write acknowledgement arrives from a peer. -/
  | wrAck (m : Msg)
  /-- ERR (R336). An error response arrives carrying its status. -/
  | err (m : Msg)
  /-- CHUNK (R346). A collective chunk arrives and is added, placed or forwarded in the collective's order. -/
  | chunk (m : Msg)
  /-- CTS (R350). A clear-to-send arrives, releasing a point-to-point send. -/
  | cts (m : Msg)
  /-- BARRIER (R346). A barrier message of a group arrives. -/
  | barrier (m : Msg)
  /-- NORM_START (R286). With every sheaf reduced and STEP_CLOSE received, the module sums its squares and enters the norm reduction. -/
  | normStart (c : Nat)
  /-- STEP_COMMIT (R297). When every item has WORK_DONE, the committed step is written to retention SRAM and the commit record follows. -/
  | stepCommit (c : Nat)
  /-- DELTA_EXPORT_START (R314). After a record the module forms the step's delta segment for export. -/
  | deltaExportStart (c : Nat)
  /-- DELTA_SEGMENT_WRITE (R314). A segment is written once the sink has released enough space. -/
  | deltaSegmentWrite (c : Nat)
  /-- DELTA_WAIT_TIMEOUT (R317). After DELTA_WAIT_MS unwritten segments are abandoned and DELTA_BROKEN is set. -/
  | deltaWaitTimeout (c : Nat)
  /-- DELTA_HEAD_WRITE (R314). A write of CHN_DELTA_HEAD releases ring bytes to the module. -/
  | deltaHeadWrite (c : Nat) (w : Word)
  /-- COLL_TIMEOUT (R351). A collective with no progress for TIMEOUT_MS fails and aborts the step attempt. -/
  | collTimeout (g i : Nat)
  /-- REJOIN_WAIT_EXPIRE (R352). After REJOIN_WAIT_S without a REJOIN the module sends REJOIN itself. -/
  | rejoinWaitExpire (g : Nat)
  /-- REJOIN_ACK_TIMEOUT (R460). With an ACK still missing after TIMEOUT_MS the initiator repeats REJOIN. -/
  | rejoinAckTimeout (g : Nat)
  /-- CXL_LINK_UP (R395). The host link returns and the port reads LINK_UP_UNATTACHED. -/
  | cxlLinkUp (mode width rate : Nat) (ideIo ideCm : Bool)
  /-- CXL_LINK_DOWN (R391). The data link goes down and the module detaches. -/
  | cxlLinkDown
  /-- PERST_ASSERT (R392). PERST# resets the CXL port domain and detaches. -/
  | perstAssert
  /-- CXL_HOT_RESET (R392). A hot reset resets the CXL port domain and detaches. -/
  | cxlHotReset
  /-- CXL_FLR (R392). A function level reset resets the CXL port domain and detaches. -/
  | cxlFlr
  /-- IDE_INTEGRITY_FAIL (R365). An IDE integrity failure is treated as loss of the link. -/
  | ideIntegrityFail
  /-- HOST_WD_EXPIRE (R391). No write to CXP_HOST_WD for HOST_WD_MS detaches the host. -/
  | hostWdExpire
  /-- HOST_WD_WRITE (R391). A write to CXP_HOST_WD restarts the host watchdog. -/
  | hostWdWrite (w : Word)
  /-- CXP_ATTACH (R395). A write of ATTACH in CXP_CTRL moves the port to ATTACHED. -/
  | cxpAttach
  /-- CXP_DETACH (R391). A write of DETACH in CXP_CTRL detaches with cause 6. -/
  | cxpDetach
  /-- HDM_COMMIT (R370). Host software commits the HDM decoder, which is accepted or fails. -/
  | hdmCommit (base size : Nat)
  /-- BAR0_BAD_ACCESS (R368). A BAR0 access of a wrong size or alignment returns ones or is discarded and sets BAR_SIZE. -/
  | bar0BadAccess (write : Bool)
  /-- BAR4_READ (R387). A read through a region window is checked and served after earlier writes of its requester. -/
  | bar4Read (off len reqId pasid : Nat) (hasPasid : Bool)
  /-- BAR4_WRITE (R384). A write through a region window is checked and applied, or refused. -/
  | bar4Write (off reqId pasid : Nat) (hasPasid : Bool) (data : List Byte)
  /-- COPY_ENGINE_START (R377). An engine starts its next queued copy in channel round-robin when a slot is free. -/
  | copyEngineStart (n : Nat)
  /-- COPY_COMPLETE (R388). A copy finishes and its completion record is written after its data is visible. -/
  | copyComplete (n : Nat)
  /-- HOST_READ_RETURN (R374). A host memory read by the module returns its data. -/
  | hostReadReturn (id : Nat) (data : List Byte)
  /-- HOST_WRITE_GO (R374). A GO for a host write arrives, making the write visible. -/
  | hostWriteGo (id : Nat)
  /-- SPDM_REQUEST (R517). An SPDM request over DOE is answered by the responder. -/
  | spdmRequest (msg : List Byte)
  /-- CMD_WATCHDOG (R433). A command not completed within CMD_WD_MS completes with ST_WATCHDOG and aborts the attempt. -/
  | cmdWatchdog (c pos : Nat)
  /-- WATCHDOG_RELEASE_TIMEOUT (R433). An engine not releasing an abandoned command within 10 ms has its domain flagged. -/
  | watchdogReleaseTimeout (c pos : Nat)
  /-- PROGRESS_TIMEOUT (R430). A stage with input but no progress for its limit fires and flags its quad. -/
  | progressTimeout (t ctx : Nat)
  /-- TAG_TIMEOUT (R432). A tag or engine request held for TAG_TIMEOUT_MS completes poisoned and a probe read is sent. -/
  | tagTimeout (who unit rid : Nat)
  /-- TAG_PROBE_RETURN (R432). The probe read returns within 1 ms and the requester's domain is flagged. -/
  | tagProbeReturn (who unit home : Nat)
  /-- TAG_PROBE_TIMEOUT (R432). The probe read does not return within 1 ms and the home is flagged. -/
  | tagProbeTimeout (who unit home : Nat)
  /-- HEARTBEAT_ADVANCE (R437). The active rachis core advances the heartbeat every 1 ms. -/
  | heartbeatAdvance
  /-- RACHIS_TAKEOVER (R437). On a stalled heartbeat, a mailbox busy 2 ms or code 0x48, the standby core takes over. -/
  | rachisTakeover
  /-- STANDBY_RELOAD_DONE (R437). The failed core is reloaded as standby, or NO_STANDBY is set. -/
  | standbyReloadDone (ok : Bool)
  /-- MON_RCV_REQ (R439). A write of MON_RCV_REQ requests the reset of a domain code. -/
  | monRcvReq (w : Word)
  /-- RESET_STEP_DONE (R448). A step of a reset sequence ends and the next step begins, up to the unfence. -/
  | resetStepDone (code : Nat) (pass : Bool)
  /-- FENCE_DRAIN_TIMEOUT (R441). After FENCE_DRAIN_MS outstanding requests complete with ST_RESET or poisoned. -/
  | fenceDrainTimeout (code : Nat)
  /-- STOOK_SAVE_DONE (R446). A stook save to host memory or flash completes. -/
  | stookSaveDone (id : Nat)
  /-- CHN_RCV_RESUME (R456). A write of CHN_RCV_RESUME ends voiding and marks the first entry of the replay. -/
  | chnRcvResume (c : Nat) (w : Word)
  /-- LS_LOAD (R164). A write of LS_LOAD loads LS_INIT into L and clears the clean count at the next step. -/
  | lsLoad (c : Nat) (w : Word)
  /-- POWER_AVERAGE (R476). Every 1 ms the power manager averages input power and adjusts CAP_LEVEL. -/
  | powerAverage (mw mv : Nat)
  /-- DIE_TEMP_SAMPLE (R477). A sample of TJ_MAX sets the die temperature band. -/
  | dieTempSample (temps regs : List Nat)
  /-- THERM_LEVEL_STEP (R477). THERM_LEVEL rises every 1 ms or falls every 10 ms as the band requires. -/
  | thermLevelStep
  /-- THERMAL_SHUTDOWN (R477). TJ_MAX at 115 °C for 1 ms starts a held cold reset. -/
  | thermalShutdown (sensor : Nat)
  /-- THROTTLE_APPLY (R474). A new throttle level takes effect at the next 8-pulse boundary. -/
  | throttleApply
  /-- VCORE_DIP (R481). VDD_CORE below 0.7125 V stretches the A-clock and pauses admission. -/
  | vcoreDip (site mv : Nat)
  /-- STRETCH_END (R481). After 10 µs above 0.7275 V at every site the stretch and pause end. -/
  | stretchEnd
  /-- DIP_HOLD_END (R482). The half-rate hold ends 1 s after the last dip. -/
  | dipHoldEnd
  /-- VCORE_RESET_LEVEL (R483). A site below 0.6750 V flags the domains of that site. -/
  | vcoreResetLevel (site mv : Nat)
  /-- RAIL_RESET_OTHER (R484). Another rail below its reset level starts a cold reset. -/
  | railResetOther (rail mv : Nat)
  /-- CLOCK_LOSS (R472). Reference out of range or PLL unlock starts a held cold reset. -/
  | clockLoss
  /-- CLOCK_RESTORED (R472). The reference returns and the PLL relocks, releasing the held cold reset. -/
  | clockRestored
  /-- VCORE_MIN_RESET (R493). A write of MIN_RESET sets VCORE_MIN to VCORE_NOW. -/
  | vcoreMinReset (w : Word)
  /-- COUNTER_CLEAR (R487). A write of zero clears a counter, and any other value is ignored. -/
  | counterClear (addr size : Nat) (w : Word) (inc : Nat)
  /-- REGISTER_WRITE (R10). A write to a register without a row of its own acts by the access codes of its fields. -/
  | registerWrite (addr size : Nat) (x : RegData)
  /-- BOOT_CHAIN (R500). After a cold start or warm device reset the ROM chooses, verifies and loads an image and firmware loads the rest. -/
  | bootChain (strap activeBad stagingBad identityBad : Bool)
  /-- FLASH_OP_DONE (R497). A flash erase, program or page operation completes and the next queued one begins. -/
  | flashOpDone
  /-- FW_COMMIT_COPY (R508). After READY on a PENDING_COMMIT start, the staged image is copied into the active slot and committed. -/
  | fwCommitCopy
  /-- HANDOVER_STANDBY_READY (R506). The standby core reports ready and the freeze and handover to the new firmware follow. -/
  | handoverStandbyReady
  /-- HANDOVER_TIMEOUT (R506). No ready report within 2 s reloads the standby and fails FW_ACTIVATE with reason 7. -/
  | handoverTimeout
  /-- RCV_BEGIN (R515). Recovery-mode BEGIN acts as FW_BEGIN. -/
  | rcvBegin (w : Word)
  /-- RCV_BLOCK (R515). Recovery-mode BLOCK acts as FW_BLOCK. -/
  | rcvBlock (w : Word)
  /-- RCV_VERIFY (R515). Recovery-mode VERIFY acts as FW_VERIFY. -/
  | rcvVerify (w : Word)
  /-- RCV_START (R515). Recovery-mode START marks the staged image PENDING_COMMIT and runs the boot chain as a cold start. -/
  | rcvStart (w : Word)
  /-- MOD_RST_PULSE (R533). A MOD_RST# low of 1 µs to 5 s starts a warm device reset at the rising edge. -/
  | modRstPulse (us : Nat)
  /-- MOD_RST_LONG (R533). MOD_RST# held low 5 s starts a cold reset. -/
  | modRstLong (released : Bool)
  /-- PWR_EN_RISE (R532). PWR_EN rising ramps the working rails, samples ADDR and leads to a cold start. -/
  | pwrEnRise (addr : Nat)
  /-- PWR_EN_FALL (R534). PWR_EN falling brings the working rails down and loses every domain but retention SRAM and flash. -/
  | pwrEnFall
  /-- INPUT_UNDERVOLT (R529). Input below 44 V for 1 ms is treated as PWR_EN low. -/
  | inputUndervolt
  /-- INPUT_OVERVOLT (R529). Input above 63 V disconnects the input and holds every rail off. -/
  | inputOvervolt
  /-- INPUT_RESTORED (R529). Input returning below 60 V releases the rails. -/
  | inputRestored
  /-- AON_LOSS (R529). Input below 36 V drops the standby rails and retention SRAM is lost. -/
  | aonLoss
  /-- ILLEGAL_OP (R102). The sequencer issues an instruction word whose OP is 0x00 or not listed in Tables 4.4 or 4.5, and faults with cause ILLEGAL_OP. -/
  | illegalOp (t : Nat) (w : Word)
  /-- UNKNOWN_OPCODE (R422). A fetched ring command entry with an unknown opcode, or one not allowed on the ring path, starts and completes with ST_BAD_COMMAND. -/
  | unknownOpcode (src : CmdSrc) (e : Entry)
  /-- LANE_LOCK (R322). During training the receivers lock and equalise every lane (SIGNAL), or deskew and reach FEC codeword lock (ALIGN), and the port moves to its next training step. -/
  | laneLock (p : Nat)
  /-- TRAINING_RECORD_SEND (R322). During EXCHANGE each side sends its training record every 1 µs. -/
  | trainingRecordSend (p : Nat)
  /-- RAIL_OUT_OF_BAND (R531). A rail of 1–12 or the VDD_CORE regulator output leaves or re-enters its regulation band, and PWR_GOOD falls within 10 µs or rises. -/
  | railOutOfBand (rail : Nat) (out : Bool)
  /-- INPUT_APPLIED (R532). The 54 V input rises above 36 V and into its operating range, and the standby rails 10 and 11 come into regulation within 20 ms. -/
  | inputApplied
  /-- UNDERVOLT_END (R529). The input returns above 44 V after an under-voltage, and PWR_EN is no longer treated as low. -/
  | undervoltEnd
  /-- PERST_DEASSERT (R525). The host deasserts PERST#, which releases the CXL port domain from reset so that the link can train. -/
  | perstDeassert
deriving DecidableEq, Repr

end Sys2Proof
end

