-- ==== Sys2Proof/Machine/Fun.lean ====
section
/-! DEFINITION. The functions of Table 4.8 (R126, R127): the exact value rounded once. The algebraic ones are computed
exactly. The transcendental ones are computed in integers at 256 fraction bits or more with a trailing sticky bit; that this
decides every rounding of an FP32 input is PRESUMED (log entry 4). -/

namespace Sys2Proof.Machine

/-- Fraction bits of the fixed-point computations. -/
def fxP : Nat := 256

/-- floor(ln 2 × 2^256). -/
def fxLn2 : Nat := 80260960185991308862233904206310070533990667611589946606122867505419956976171

/-- floor(2 ÷ √π × 2^256). -/
def fx2SqrtPi : Nat := 130657381209852114387528029350014196574164286124850014242073919076264802271585

/-- Σ r^n ÷ n! from the term t = r^i ÷ i!, fuel terms, r and t at 256 fraction bits. -/
def fxExpSum (r : Nat) : Nat → Nat → Nat → Nat
  | 0, _, _ => 0
  | f + 1, i, t => t + fxExpSum r f (i + 1) (t * r / 2 ^ fxP / (i + 1))

/-- e^r for 0 ≤ r < 1, at 256 fraction bits. -/
def fxExp (r : Nat) : Nat := fxExpSum r 70 0 (2 ^ fxP)

/-- An FP32-sized exact value as a fixed-point integer at 256 fraction bits (its exponent is −149 or more: no bit lost). -/
def toFx (n : Bool) (m : Nat) (e : Int) : Int :=
  let a : Int := (m : Int) * 2 ^ (e + 256).toNat
  if n then -a else a

/-- e^x as E × 2^(k − 256) with 1 ≤ E × 2^−256 < 2, from fixed-point x: the pair (E, k). -/
def expParts (x : Int) : Nat × Int :=
  let k := x / (fxLn2 : Int)
  (fxExp (x - k * (fxLn2 : Int)).toNat, k)

/-- A value known below every rounding point, marked inexact. -/
def sticky (neg : Bool) (m : Nat) (e : Int) : Fv := .fin neg (2 * m + 1) (e - 1)

/-- The result beyond the largest finite value, which rounds to infinity. -/
def huge : Fv := .fin false 1 200

/-- A positive result below every non-zero rounding point, which rounds to +0. -/
def tiny : Fv := .fin false 1 (-400)

def Fv.exp : Fv → Fv
  | .nan => .nan
  | .inf n => if n then .fin false 0 0 else .inf false
  | .fin n m e =>
    if m = 0 then .fin false 1 0
    else if (Fv.fin false 1 7).lt (.fin false m e) then (if n then tiny else huge)
    else let p := expParts (toFx n m e); sticky false p.1 (p.2 - 256)

def Fv.exp2 : Fv → Fv
  | .nan => .nan
  | .inf n => if n then .fin false 0 0 else .inf false
  | .fin n m e =>
    if (Fv.fin false 1 8).lt (.fin false m e) then (if n then tiny else huge)
    else
      let x := toFx n m e
      let k := x / 2 ^ fxP
      let f := (x % 2 ^ fxP).toNat
      if f = 0 then .fin false 1 k
      else sticky false (fxExp (f * fxLn2 / 2 ^ fxP)) (k - 256)

/-- Σ z^(2i+1) ÷ (2i+1) from the power t = z^(2i+1). -/
def fxAtanhSum (z2 : Nat) : Nat → Nat → Nat → Nat
  | 0, _, _ => 0
  | f + 1, i, t => t / (2 * i + 1) + fxAtanhSum z2 f (i + 1) (t * z2 / 2 ^ fxP)

def Fv.log2 : Fv → Fv
  | .nan => .nan
  | .inf n => if n then .nan else .inf false
  | .fin n m e =>
    if m = 0 then .inf true else if n then .nan else
    let l := m.log2
    let c : Int := e + l
    -- significand m ÷ 2^l = 1 + d ÷ 2^l, ln by the atanh series of z = d ÷ (m + 2^l)
    let d := m - 2 ^ l
    if d = 0 then .fin (decide (c < 0)) c.natAbs 0 else
    let z := d * 2 ^ fxP / (m + 2 ^ l)
    let ln := 2 * fxAtanhSum (z * z / 2 ^ fxP) 90 0 z
    let r : Int := c * 2 ^ fxP + (ln * 2 ^ fxP / fxLn2 : Nat)
    sticky (decide (r < 0)) (if r < 0 then r.natAbs - 1 else r.natAbs) (-256)

def Fv.rcp : Fv → Fv := fun v => (Fv.fin false 1 0).div v

def Fv.rsqrt : Fv → Fv
  | .nan => .nan
  | .inf n => if n then .nan else .fin false 0 0
  | .fin n m e =>
    if m = 0 then .inf n else if n then .nan else
    let odd := decide (e % 2 ≠ 0)
    let m' := if odd then 2 * m else m
    let e' := if odd then e - 1 else e
    let M := 2 ^ 600 / m'
    let r := isqrt M
    .fin false (2 * r + (if r * r * m' = 2 ^ 600 then 0 else 1)) (-(e' / 2) - 300 - 1)

def Fv.tanh : Fv → Fv
  | .nan => .nan
  | .inf n => .fin n 1 0
  | .fin n m e =>
    if (Fv.fin false m e).lt (.fin false 1 (-12)) then .fin n m e      -- |x| < 2^−12: x (Table 4.8)
    else if (Fv.fin false 10 0).lt (.fin false m e) then .fin n 1 0
    else
      let p := expParts (toFx false m (e + 1))
      let v := p.1 * 2 ^ p.2.toNat
      ratio n (v - 2 ^ fxP) (v + 2 ^ fxP) 0

def Fv.sigm : Fv → Fv
  | .nan => .nan
  | .inf n => if n then .fin false 0 0 else .fin false 1 0
  | .fin n m e =>
    if m = 0 then .fin false 1 (-1)
    else if (Fv.fin false 1 7).lt (.fin false m e) then (if n then tiny else .fin false 1 0)
    else
      let p := expParts (toFx false m e)
      let v := p.1 * 2 ^ p.2.toNat
      if n then ratio false (2 ^ fxP) (v + 2 ^ fxP) 0 else ratio false v (v + 2 ^ fxP) 0

/-- Σ (−1)^i y^i ÷ (i! (2i+1)) from the term t = y^i ÷ i!. -/
def fxErfSum (y : Nat) : Nat → Nat → Nat → Int
  | 0, _, _ => 0
  | f + 1, i, t =>
    let a : Int := (t / (2 * i + 1) : Nat)
    (if i % 2 = 0 then a else -a) + fxErfSum y f (i + 1) (t * y / 2 ^ fxP / (i + 1))

def Fv.erf : Fv → Fv
  | .nan => .nan
  | .inf n => .fin n 1 0
  | .fin n m e =>
    if m = 0 then .fin n 0 e
    else if (Fv.fin false m e).lt (.fin false 4 0) then
      let x2 : Nat := if 0 ≤ 2 * e + 256 then m * m * 2 ^ (2 * e + 256).toNat else m * m / 2 ^ (-(2 * e + 256)).toNat
      let S := (fxErfSum x2 180 0 (2 ^ fxP)).toNat
      sticky n (m * S * fx2SqrtPi) (e - 512)
    else .fin n 1 0

/-- Whether an input lies outside the function's domain and gives NaN with DOMAIN (Table 4.8): x < 0. -/
def negativeInput : Fv → Bool
  | .inf n => n
  | .fin n m _ => n && decide (m ≠ 0)
  | .nan => false

end Sys2Proof.Machine
end

