-- ==== Sys2Proof/Machine/Crypto.lean ====
section
/-! DEFINITION. SHA-256 (FIPS 180-4) and RSASSA-PSS verification with MGF1 over SHA-256 and a salt of 32 bytes (RFC 8017), as
the image checks of R499 use them; AES-256 (FIPS 197) in XTS mode (IEEE 1619) as R228 uses it. -/

namespace Sys2Proof.Machine

open Sys2Proof

/-- The round constants of SHA-256. -/
def shaK : List Nat := [
  0x428A2F98, 0x71374491, 0xB5C0FBCF, 0xE9B5DBA5, 0x3956C25B, 0x59F111F1, 0x923F82A4, 0xAB1C5ED5,
  0xD807AA98, 0x12835B01, 0x243185BE, 0x550C7DC3, 0x72BE5D74, 0x80DEB1FE, 0x9BDC06A7, 0xC19BF174,
  0xE49B69C1, 0xEFBE4786, 0x0FC19DC6, 0x240CA1CC, 0x2DE92C6F, 0x4A7484AA, 0x5CB0A9DC, 0x76F988DA,
  0x983E5152, 0xA831C66D, 0xB00327C8, 0xBF597FC7, 0xC6E00BF3, 0xD5A79147, 0x06CA6351, 0x14292967,
  0x27B70A85, 0x2E1B2138, 0x4D2C6DFC, 0x53380D13, 0x650A7354, 0x766A0ABB, 0x81C2C92E, 0x92722C85,
  0xA2BFE8A1, 0xA81A664B, 0xC24B8B70, 0xC76C51A3, 0xD192E819, 0xD6990624, 0xF40E3585, 0x106AA070,
  0x19A4C116, 0x1E376C08, 0x2748774C, 0x34B0BCB5, 0x391C0CB3, 0x4ED8AA4A, 0x5B9CCA4F, 0x682E6FF3,
  0x748F82EE, 0x78A5636F, 0x84C87814, 0x8CC70208, 0x90BEFFFA, 0xA4506CEB, 0xBEF9A3F7, 0xC67178F2]

/-- The starting hash value. -/
def shaH0 : List Nat :=
  [0x6A09E667, 0xBB67AE85, 0x3C6EF372, 0xA54FF53A, 0x510E527F, 0x9B05688C, 0x1F83D9AB, 0x5BE0CD19]

def rotr32 (x n : Nat) : Nat := (x >>> n) ||| ((x <<< (32 - n)) % 2 ^ 32)

/-- Value of bytes, the most significant first. -/
def beValue (bs : List Byte) : Nat := bs.foldl (fun a b => a * 256 + b.toNat) 0
/-- n bytes of a value, the most significant first. -/
def beBytes (n v : Nat) : List Byte := (leBytes n v).reverse

/-- The message schedule, the latest word first. -/
def shaSchedule : Nat → List Nat → List Nat
  | 0, w => w
  | n + 1, w =>
    let x := w.getD 14 0
    let y := w.getD 1 0
    let s0 := rotr32 x 7 ^^^ rotr32 x 18 ^^^ (x >>> 3)
    let s1 := rotr32 y 17 ^^^ rotr32 y 19 ^^^ (y >>> 10)
    shaSchedule n (((w.getD 15 0 + s0 + w.getD 6 0 + s1) % 2 ^ 32) :: w)

/-- One round. -/
def shaRound (h : List Nat) (kw : Nat × Nat) : List Nat :=
  match h with
  | [a, b, c, d, e, f, g, x] =>
    let s1 := rotr32 e 6 ^^^ rotr32 e 11 ^^^ rotr32 e 25
    let ch := (e &&& f) ^^^ ((2 ^ 32 - 1 - e) &&& g)
    let t1 := x + s1 + ch + kw.1 + kw.2
    let s0 := rotr32 a 2 ^^^ rotr32 a 13 ^^^ rotr32 a 22
    let maj := (a &&& b) ^^^ (a &&& c) ^^^ (b &&& c)
    [(t1 + s0 + maj) % 2 ^ 32, a, b, c, (d + t1) % 2 ^ 32, e, f, g]
  | _ => h

/-- One block. -/
def shaBlock (h : List Nat) (block : List Byte) : List Nat :=
  let w := (chunksOf 4 16 block).map beValue
  let ws := (shaSchedule 48 w.reverse).reverse
  let r := (shaK.zip ws).foldl shaRound h
  (h.zip r).map (fun p => (p.1 + p.2) % 2 ^ 32)

/-- SHA-256 of a byte string. -/
def sha256 (m : List Byte) : List Byte :=
  let n := m.length
  let z := (119 - n % 64) % 64
  let p := m ++ [0x80] ++ List.replicate z 0 ++ beBytes 8 (8 * n)
  ((chunksOf 64 (p.length / 64 + 1) p).foldl shaBlock shaH0).flatMap (beBytes 4)

/-- base to the power 65,537 modulo n. -/
def pow65537 (base n : Nat) : Nat :=
  ((List.range 16).foldl (fun x _ => x * x % n) (base % n)) * base % n

/-- MGF1 with SHA-256. -/
def mgf1 (seed : List Byte) (len : Nat) : List Byte :=
  ((List.range (len / 32 + 1)).flatMap (fun i => sha256 (seed ++ beBytes 4 i))).take len

def xorBytes (a b : List Byte) : List Byte := (a.zip b).map (fun p => p.1 ^^^ p.2)

/-- RSASSA-PSS verification of a 384-byte signature over a digest, with a 3,072-bit modulus and the exponent 65,537. -/
def pssVerify (n : Nat) (sig digest : List Byte) : Bool :=
  let s := beValue sig
  if n ≤ s ∨ sig.length ≠ 384 then false
  else
    let em := beBytes 384 (pow65537 s n)
    let masked := em.take 351
    let h := (em.drop 351).take 32
    let db0 := xorBytes masked (mgf1 h 351)
    let db := match db0 with | [] => [] | b :: r => (b &&& 0x7F) :: r
    let salt := db.drop 319
    em.getD 383 0 == 0xBC && (masked.getD 0 0 &&& 0x80) == 0 && (db.take 318).all (· == 0) && db.getD 318 0 == 0x01 &&
      sha256 (List.replicate 8 0 ++ digest ++ salt) == h

/-! ### AES-256 in XTS mode (R228, R519) -/

/-- A product in GF(2^8) modulo x^8 + x^4 + x^3 + x + 1; fuel bounds the bits of b. -/
def gfMul : Nat → Nat → Nat → Nat
  | 0, _, _ => 0
  | fuel + 1, a, b =>
    let d := if a < 128 then 2 * a else (2 * a) % 256 ^^^ 0x1B
    (if b % 2 = 1 then a else 0) ^^^ gfMul fuel d (b / 2)
def gf (a b : Nat) : Nat := gfMul 8 a b

/-- x^254 in GF(2^8): the inverse, 0 for 0. -/
def gfInv (x : Nat) : Nat :=
  let x2 := gf x x
  let x4 := gf x2 x2
  let x8 := gf x4 x4
  let x16 := gf x8 x8
  let x32 := gf x16 x16
  let x64 := gf x32 x32
  gf (gf (gf (gf x2 x4) (gf x8 x16)) (gf x32 x64)) (gf x64 x64)

/-- A byte rotated left by n bits. -/
def rotl8 (x n : Nat) : Nat := (x * 2 ^ n) % 256 + x / 2 ^ (8 - n)
/-- The S-box and its inverse. -/
def aesSub (x : Nat) : Nat :=
  let y := gfInv x
  y ^^^ rotl8 y 1 ^^^ rotl8 y 2 ^^^ rotl8 y 3 ^^^ rotl8 y 4 ^^^ 0x63
def aesInvSub (x : Nat) : Nat := gfInv (rotl8 x 1 ^^^ rotl8 x 3 ^^^ rotl8 x 6 ^^^ 0x05)

/-- The next word of the key schedule, from the words so far, the latest first. -/
def aesKeyWord (ws : List (List Nat)) : List Nat :=
  let i := ws.length
  let t := ws.headD []
  let t := if i % 8 = 0 then
      (match (t.drop 1 ++ t.take 1).map aesSub with | a :: r => (a ^^^ 2 ^ (i / 8 - 1)) :: r | [] => [])
    else if i % 8 = 4 then t.map aesSub else t
  List.zipWith (· ^^^ ·) (ws.getD 7 []) t
def aesSchedule : Nat → List (List Nat) → List (List Nat)
  | 0, ws => ws
  | n + 1, ws => aesSchedule n (aesKeyWord ws :: ws)
/-- The 15 round keys of a 32-byte key, 16 bytes each. -/
def aesKeys (key : List Byte) : List (List Nat) :=
  chunksOf 16 15 (aesSchedule 52 (chunksOf 4 8 (key.map (·.toNat))).reverse).reverse.flatten

/-- ShiftRows and its inverse: byte i stands in row i mod 4 of column i div 4. -/
def aesShift (l : List Nat) : List Nat := (List.range 16).map (fun i => l.getD ((i + 4 * (i % 4)) % 16) 0)
def aesInvShift (l : List Nat) : List Nat := (List.range 16).map (fun i => l.getD ((i + 16 - 4 * (i % 4)) % 16) 0)
/-- MixColumns with the coefficients of a row, in each column. -/
def aesMix (a b c d : Nat) (l : List Nat) : List Nat :=
  (List.range 16).map (fun i =>
    let at_ (k : Nat) : Nat := l.getD (i / 4 * 4 + (i + k) % 4) 0
    gf (at_ 0) a ^^^ gf (at_ 1) b ^^^ gf (at_ 2) c ^^^ gf (at_ 3) d)
def xorNats (a b : List Nat) : List Nat := List.zipWith (· ^^^ ·) a b

/-- One 16-byte block encrypted and decrypted under round keys. -/
def aesEncrypt (ks : List (List Nat)) (x : List Nat) : List Nat :=
  let r := ((ks.drop 1).take 13).foldl (fun x k => xorNats (aesMix 2 3 1 1 (aesShift (x.map aesSub))) k) (xorNats x (ks.headD []))
  xorNats (aesShift (r.map aesSub)) (ks.getD 14 [])
def aesDecrypt (ks : List (List Nat)) (x : List Nat) : List Nat :=
  let r := ((ks.drop 1).take 13).reverse.foldl (fun x k => aesMix 14 11 13 9 (xorNats ((aesInvShift x).map aesInvSub) k))
    (xorNats x (ks.getD 14 []))
  xorNats ((aesInvShift r).map aesInvSub) (ks.headD [])

/-- A tweak multiplied by α, byte 0 the lowest. -/
def xtsAlpha (t : Nat) : Nat := if t < 2 ^ 127 then 2 * t else (2 * t) % 2 ^ 128 ^^^ 0x87
def xtsTweak : Nat → Nat → Nat
  | 0, t => t
  | n + 1, t => xtsTweak n (xtsAlpha t)

/-- Whole 16-byte pieces of a data unit, from piece j on, encrypted or decrypted under the 64 bytes of a key slot: the first 32 the data
key, the last 32 the tweak key. -/
def xtsRun (key : List Byte) (enc : Bool) (unit j : Nat) (bs : List Byte) : List Byte :=
  let k1 := aesKeys (key.take 32)
  let t0 := leValue ((aesEncrypt (aesKeys (key.drop 32)) ((leBytes 16 unit).map (·.toNat))).map (fun v => BitVec.ofNat 8 v))
  (chunksOf 16 (bs.length / 16 + 1) bs).zipIdx.flatMap (fun p =>
    let t := (leBytes 16 (xtsTweak (j + p.2) t0)).map (·.toNat)
    let x := xorNats (p.1.map (·.toNat)) t
    (xorNats (if enc then aesEncrypt k1 x else aesDecrypt k1 x) t).map (fun v => BitVec.ofNat 8 v))

end Sys2Proof.Machine
end

