-- ==== Sys2Proof/Config.lean ====
section
/-! DEFINITION. What the spec leaves open: values without a body, of which nothing can be proved (log entries 5 and 6). -/

namespace Sys2Proof.Config

/-- A fresh free value: the n-th value that the spec leaves open in a run (log entry 5). -/
opaque freeWord : Nat → Word

/-- Byte a of the n-th range of bytes that the spec leaves unspecified (log entry 5). -/
opaque freeByte : Nat → Nat → Byte

/-- Byte k of what the n-th stop of a tiller leaves unspecified (log entry 5). -/
opaque abandonByte : Nat → Nat → Nat → Byte

/-- The position, in tiles, of the tile (microbatch, row block, column block) of a stream that goes to memory, by the numbers that
name the stream (log entry 30). -/
opaque tilePos : List Nat → Nat → Nat → Nat → Nat

/-- The clip factor shown and exported for a step whose norm has OVF, of which the module forms no c, by the step and the total (R21,
R287, log entry 5). -/
opaque noClip : Nat → BitVec 32 → BitVec 32

/-- The next prefetch of an input is of a later microbatch than its last one (log entry 111). -/
opaque prefetchMoves : Nat → Nat → Nat → Nat → Bool

/-- ROOT_KEY_HASH, the fuse that holds the SHA-256 of the Vumoty root public key, which the spec does not give (R494, log
entry 6). -/
opaque rootKeyHash : Nat

end Sys2Proof.Config
end

