-- ==== Sys2Proof/Machine/RegTable.lean ====
section
/-! DEFINITION. The register tables of BAR0: offsets, access masks, reset values and counters of every register that
stores its own bits, by block (R10, R360, R429, R467, R486, R493, R520 and the register tables of spec/02 to spec/15).
A register absent from a table is read-only and read from the state it shows. -/

namespace Sys2Proof.Machine

/-- A register: its offset in its block, the bits that a write sets, the bits that a write of 1 clears, its reset value.
A counter gives its width, its saturation register and bit, and the event register and bit of CNT_SAT (R486 to R488). -/
structure RegDef where
  off : Nat
  rw : Nat := 0
  w1c : Nat := 0
  reset : Nat := 0
  cnt : Nat := 0
  satOff : Nat := 0
  satBit : Nat := 0
  evOff : Nat := 0
  evBit : Nat := 0
deriving DecidableEq, Repr

/-- A register block with its unit (Table 11.3). -/
inductive Blk where
  | mbx (m : Nat)
  | cxp
  | pwr
  | mon
  | boot
  | plc
  | hsk (e : Nat)
  | yst (i : Nat)
  | dtr (d : Nat)
  | tlr (t : Nat)
  | abl
  | ablPort (p : Nat)
  | chn (c : Nat)
deriving DecidableEq, Repr

namespace Reg

/-- Offset of TLR_ID. -/
def TLR_ID : Nat := 0x0
/-- Offset of TLR_STATE. -/
def TLR_STATE : Nat := 0x8
/-- Offset of TLR_TAGS. -/
def TLR_TAGS : Nat := 0x10
/-- Offset of TLR_PREFETCH. -/
def TLR_PREFETCH : Nat := 0x18
/-- Offset of TLR_EVENT. -/
def TLR_EVENT : Nat := 0x20
/-- Offset of TLR_EVENT_EN. -/
def TLR_EVENT_EN : Nat := 0x28
/-- Offset of TLR_CNT_TILES. -/
def TLR_CNT_TILES : Nat := 0x100
/-- Offset of TLR_CNT_ARRAY_BUSY. -/
def TLR_CNT_ARRAY_BUSY : Nat := 0x108
/-- Offset of TLR_CNT_TAG_WAIT. -/
def TLR_CNT_TAG_WAIT : Nat := 0x110
/-- Offset of TLR_CNT_ADMIT_WAIT. -/
def TLR_CNT_ADMIT_WAIT : Nat := 0x118
/-- Offset of TLR_CNT_REFETCH. -/
def TLR_CNT_REFETCH : Nat := 0x120
/-- Offset of TLR_CNT_RELAY_STALL. -/
def TLR_CNT_RELAY_STALL : Nat := 0x128
/-- Offset of TLR_CNT_SAT. -/
def TLR_CNT_SAT : Nat := 0x130
/-- Offset of TLR_ARR_STATUS. -/
def TLR_ARR_STATUS : Nat := 0x200
/-- Offset of TLR_ARR_EVENT. -/
def TLR_ARR_EVENT : Nat := 0x208
/-- Offset of TLR_ARR_EVENT_EN. -/
def TLR_ARR_EVENT_EN : Nat := 0x210
/-- Offset of TLR_ARR_LAST_CMD. -/
def TLR_ARR_LAST_CMD : Nat := 0x218
/-- Offset of TLR_CNT_ARR_PASSES. -/
def TLR_CNT_ARR_PASSES : Nat := 0x240
/-- Offset of TLR_CNT_ARR_LOAD. -/
def TLR_CNT_ARR_LOAD : Nat := 0x248
/-- Offset of TLR_CNT_ARR_INPUT_WAIT. -/
def TLR_CNT_ARR_INPUT_WAIT : Nat := 0x250
/-- Offset of TLR_CNT_ARR_FTQ_HOLD. -/
def TLR_CNT_ARR_FTQ_HOLD : Nat := 0x258
/-- Offset of TLR_CNT_ARR_PORT_HOLD. -/
def TLR_CNT_ARR_PORT_HOLD : Nat := 0x260
/-- Offset of TLR_CNT_ARR_NONFINITE. -/
def TLR_CNT_ARR_NONFINITE : Nat := 0x268
/-- Offset of TLR_ARR_CNT_SAT. -/
def TLR_ARR_CNT_SAT : Nat := 0x270
/-- Offset of TLR_SEQ_STATUS. -/
def TLR_SEQ_STATUS : Nat := 0x300
/-- Offset of TLR_SEQ_FAULT. -/
def TLR_SEQ_FAULT : Nat := 0x308
/-- Offset of TLR_SEQ_FAULT_WORD. -/
def TLR_SEQ_FAULT_WORD : Nat := 0x310
/-- Offset of TLR_FTQ_STATUS. -/
def TLR_FTQ_STATUS : Nat := 0x318
/-- Offset of TLR_VEC_EVENT. -/
def TLR_VEC_EVENT : Nat := 0x320
/-- Offset of TLR_VEC_EVENT_EN. -/
def TLR_VEC_EVENT_EN : Nat := 0x328
/-- Offset of TLR_CNT_SEQ_INSTR. -/
def TLR_CNT_SEQ_INSTR : Nat := 0x340
/-- Offset of TLR_CNT_VEC_BEATS. -/
def TLR_CNT_VEC_BEATS : Nat := 0x348
/-- Offset of TLR_CNT_VEC_PORT_WAIT. -/
def TLR_CNT_VEC_PORT_WAIT : Nat := 0x350
/-- Offset of TLR_CNT_FTQ_WAIT. -/
def TLR_CNT_FTQ_WAIT : Nat := 0x358
/-- Offset of TLR_CNT_VEC_NONFINITE. -/
def TLR_CNT_VEC_NONFINITE : Nat := 0x360
/-- Offset of TLR_VEC_CNT_SAT. -/
def TLR_VEC_CNT_SAT : Nat := 0x368
/-- Offset of CHN_NUM_CTRL. -/
def CHN_NUM_CTRL : Nat := 0x400
/-- Offset of CHN_NUM_STATUS. -/
def CHN_NUM_STATUS : Nat := 0x408
/-- Offset of CHN_SR_SEED. -/
def CHN_SR_SEED : Nat := 0x410
/-- Offset of CHN_WNW_THRESHOLD. -/
def CHN_WNW_THRESHOLD : Nat := 0x418
/-- Offset of CHN_NUM_EVENT. -/
def CHN_NUM_EVENT : Nat := 0x420
/-- Offset of CHN_NUM_EVENT_EN. -/
def CHN_NUM_EVENT_EN : Nat := 0x428
/-- Offset of CHN_WNW_LAST. -/
def CHN_WNW_LAST : Nat := 0x430
/-- Offset of CHN_WNW_LAST_SRC. -/
def CHN_WNW_LAST_SRC : Nat := 0x438
/-- Offset of CHN_CNT_STEPS_SKIPPED. -/
def CHN_CNT_STEPS_SKIPPED : Nat := 0x440
/-- Offset of CHN_CNT_NARROW_SAT. -/
def CHN_CNT_NARROW_SAT : Nat := 0x448
/-- Offset of CHN_CNT_WNW_TILES. -/
def CHN_CNT_WNW_TILES : Nat := 0x450
/-- Offset of CHN_CNT_WNW_OVER. -/
def CHN_CNT_WNW_OVER : Nat := 0x458
/-- Offset of CHN_CNT_WNW_HARD. -/
def CHN_CNT_WNW_HARD : Nat := 0x460
/-- Offset of CHN_NUM_CNT_SAT. -/
def CHN_NUM_CNT_SAT : Nat := 0x468
/-- Offset of CHN_TRN_CTRL. -/
def CHN_TRN_CTRL : Nat := 0x500
/-- Offset of CHN_CLIP_MAX. -/
def CHN_CLIP_MAX : Nat := 0x508
/-- Offset of CHN_STEP_CURRENT. -/
def CHN_STEP_CURRENT : Nat := 0x510
/-- Offset of CHN_STEP_COMMITTED. -/
def CHN_STEP_COMMITTED : Nat := 0x518
/-- Offset of CHN_NORM_LAST. -/
def CHN_NORM_LAST : Nat := 0x520
/-- Offset of CHN_TRN_STATUS. -/
def CHN_TRN_STATUS : Nat := 0x528
/-- Offset of CHN_TRN_EVENT. -/
def CHN_TRN_EVENT : Nat := 0x530
/-- Offset of CHN_TRN_EVENT_EN. -/
def CHN_TRN_EVENT_EN : Nat := 0x538
/-- Offset of CHN_DELTA_HEAD. -/
def CHN_DELTA_HEAD : Nat := 0x540
/-- Offset of CHN_DELTA_TAIL. -/
def CHN_DELTA_TAIL : Nat := 0x548
/-- Offset of CHN_CNT_COMMITS. -/
def CHN_CNT_COMMITS : Nat := 0x580
/-- Offset of CHN_CNT_ROLLFWD. -/
def CHN_CNT_ROLLFWD : Nat := 0x588
/-- Offset of CHN_CNT_VERSION_ABORT. -/
def CHN_CNT_VERSION_ABORT : Nat := 0x590
/-- Offset of CHN_CNT_DEFER_RUNS. -/
def CHN_CNT_DEFER_RUNS : Nat := 0x598
/-- Offset of CHN_CNT_STAGE_WAIT. -/
def CHN_CNT_STAGE_WAIT : Nat := 0x5A0
/-- Offset of CHN_CNT_DELTA_BYTES. -/
def CHN_CNT_DELTA_BYTES : Nat := 0x5A8
/-- Offset of CHN_TRN_CNT_SAT. -/
def CHN_TRN_CNT_SAT : Nat := 0x5B0
/-- Offset of CHN_HANDLE. -/
def CHN_HANDLE : Nat := 0x0
/-- Offset of CHN_STATE. -/
def CHN_STATE : Nat := 0x8
/-- Offset of CHN_CMD_BASE. -/
def CHN_CMD_BASE : Nat := 0x10
/-- Offset of CHN_CPL_BASE. -/
def CHN_CPL_BASE : Nat := 0x18
/-- Offset of CHN_RING_CFG. -/
def CHN_RING_CFG : Nat := 0x20
/-- Offset of CHN_CMD_HEAD. -/
def CHN_CMD_HEAD : Nat := 0x28
/-- Offset of CHN_CMD_TAIL. -/
def CHN_CMD_TAIL : Nat := 0x30
/-- Offset of CHN_CPL_TAIL. -/
def CHN_CPL_TAIL : Nat := 0x38
/-- Offset of CHN_CPL_HEAD. -/
def CHN_CPL_HEAD : Nat := 0x40
/-- Offset of CHN_GRANT_LO. -/
def CHN_GRANT_LO : Nat := 0x48
/-- Offset of CHN_GRANT_HI. -/
def CHN_GRANT_HI : Nat := 0x50
/-- Offset of CHN_QUOTA. -/
def CHN_QUOTA : Nat := 0x58
/-- Offset of CHN_LOG. -/
def CHN_LOG : Nat := 0x60
/-- Offset of CHN_EVENT. -/
def CHN_EVENT : Nat := 0x68
/-- Offset of CHN_EVENT_EN. -/
def CHN_EVENT_EN : Nat := 0x70
/-- Offset of CHN_CNT_CMDS. -/
def CHN_CNT_CMDS : Nat := 0x100
/-- Offset of CHN_CNT_STALE_RETRY. -/
def CHN_CNT_STALE_RETRY : Nat := 0x108
/-- Offset of CHN_CNT_DOORBELL_STALL. -/
def CHN_CNT_DOORBELL_STALL : Nat := 0x110
/-- Offset of CHN_CNT_CPL_WAIT. -/
def CHN_CNT_CPL_WAIT : Nat := 0x118
/-- Offset of CHN_CNT_SAT. -/
def CHN_CNT_SAT : Nat := 0x120
/-- Offset of CHN_RCV_CTRL. -/
def CHN_RCV_CTRL : Nat := 0x600
/-- Offset of CHN_RCV_STATUS. -/
def CHN_RCV_STATUS : Nat := 0x608
/-- Offset of CHN_RCV_EVENT. -/
def CHN_RCV_EVENT : Nat := 0x610
/-- Offset of CHN_RCV_EVENT_EN. -/
def CHN_RCV_EVENT_EN : Nat := 0x618
/-- Offset of CHN_RCV_RESUME. -/
def CHN_RCV_RESUME : Nat := 0x620
/-- Offset of CHN_RCV_LAST. -/
def CHN_RCV_LAST : Nat := 0x628
/-- Offset of CHN_CNT_ABORTS. -/
def CHN_CNT_ABORTS : Nat := 0x680
/-- Offset of CHN_CNT_WATCHDOG. -/
def CHN_CNT_WATCHDOG : Nat := 0x688
/-- Offset of CHN_CNT_PROGRESS. -/
def CHN_CNT_PROGRESS : Nat := 0x690
/-- Offset of CHN_CNT_REJOIN. -/
def CHN_CNT_REJOIN : Nat := 0x698
/-- Offset of CHN_RCV_CNT_SAT. -/
def CHN_RCV_CNT_SAT : Nat := 0x6A0
/-- Offset of YST_ID. -/
def YST_ID : Nat := 0x0
/-- Offset of YST_STATUS. -/
def YST_STATUS : Nat := 0x8
/-- Offset of YST_CTRL. -/
def YST_CTRL : Nat := 0x10
/-- Offset of YST_DIE_ERASE. -/
def YST_DIE_ERASE : Nat := 0x18
/-- Offset of YST_EVENT. -/
def YST_EVENT : Nat := 0x20
/-- Offset of YST_EVENT_EN. -/
def YST_EVENT_EN : Nat := 0x28
/-- Offset of YST_BANK_HEALTH. -/
def YST_BANK_HEALTH : Nat := 0x30
/-- Offset of YST_ECC_LAST. -/
def YST_ECC_LAST : Nat := 0x38
/-- Offset of YST_CNT_READ_PARTS. -/
def YST_CNT_READ_PARTS : Nat := 0x100
/-- Offset of YST_CNT_WRITE_PARTS. -/
def YST_CNT_WRITE_PARTS : Nat := 0x108
/-- Offset of YST_CNT_ACCUM. -/
def YST_CNT_ACCUM : Nat := 0x110
/-- Offset of YST_CNT_ACC_RETURN. -/
def YST_CNT_ACC_RETURN : Nat := 0x118
/-- Offset of YST_CNT_UPD_ELEMS. -/
def YST_CNT_UPD_ELEMS : Nat := 0x120
/-- Offset of YST_CNT_CE_DIE. -/
def YST_CNT_CE_DIE : Nat := 0x128
/-- Offset of YST_CNT_CE_SYM. -/
def YST_CNT_CE_SYM : Nat := 0x130
/-- Offset of YST_CNT_UE. -/
def YST_CNT_UE : Nat := 0x138
/-- Offset of YST_CNT_SCRUB_PASSES. -/
def YST_CNT_SCRUB_PASSES : Nat := 0x140
/-- Offset of YST_CNT_THROTTLE. -/
def YST_CNT_THROTTLE : Nat := 0x148
/-- Offset of YST_CNT_SAT. -/
def YST_CNT_SAT : Nat := 0x150
/-- Offset of PLC_STATUS. -/
def PLC_STATUS : Nat := 0x0
/-- Offset of PLC_CTRL. -/
def PLC_CTRL : Nat := 0x8
/-- Offset of PLC_EVENT. -/
def PLC_EVENT : Nat := 0x10
/-- Offset of PLC_EVENT_EN. -/
def PLC_EVENT_EN : Nat := 0x18
/-- Offset of PLC_FAULT_DA. -/
def PLC_FAULT_DA : Nat := 0x20
/-- Offset of PLC_FAULT_SRC. -/
def PLC_FAULT_SRC : Nat := 0x28
/-- Offset of PLC_FREE_STACK. -/
def PLC_FREE_STACK : Nat := 0x30
/-- Offset of PLC_FREE_DEEP. -/
def PLC_FREE_DEEP : Nat := 0x38
/-- Offset of PLC_CNT_MIG_GRANULES. -/
def PLC_CNT_MIG_GRANULES : Nat := 0x100
/-- Offset of PLC_CNT_MIG_ABORT. -/
def PLC_CNT_MIG_ABORT : Nat := 0x108
/-- Offset of PLC_CNT_FLUSH_GRANULES. -/
def PLC_CNT_FLUSH_GRANULES : Nat := 0x110
/-- Offset of PLC_CNT_HELD_WRITES. -/
def PLC_CNT_HELD_WRITES : Nat := 0x118
/-- Offset of PLC_CNT_XLAT_MISS. -/
def PLC_CNT_XLAT_MISS : Nat := 0x120
/-- Offset of PLC_CNT_RO_WRITE. -/
def PLC_CNT_RO_WRITE : Nat := 0x128
/-- Offset of PLC_CNT_UNMAPPED. -/
def PLC_CNT_UNMAPPED : Nat := 0x130
/-- Offset of PLC_CNT_SAT. -/
def PLC_CNT_SAT : Nat := 0x138
/-- Offset of DTR_ID. -/
def DTR_ID : Nat := 0x0
/-- Offset of DTR_STATUS. -/
def DTR_STATUS : Nat := 0x8
/-- Offset of DTR_CTRL. -/
def DTR_CTRL : Nat := 0x10
/-- Offset of DTR_EVENT. -/
def DTR_EVENT : Nat := 0x20
/-- Offset of DTR_EVENT_EN. -/
def DTR_EVENT_EN : Nat := 0x28
/-- Offset of DTR_BANK_HEALTH. -/
def DTR_BANK_HEALTH : Nat := 0x30
/-- Offset of DTR_ECC_LAST. -/
def DTR_ECC_LAST : Nat := 0x38
/-- Offset of DTR_CNT_READ_PARTS. -/
def DTR_CNT_READ_PARTS : Nat := 0x100
/-- Offset of DTR_CNT_WRITE_PARTS. -/
def DTR_CNT_WRITE_PARTS : Nat := 0x108
/-- Offset of DTR_CNT_HUSK_RMW. -/
def DTR_CNT_HUSK_RMW : Nat := 0x110
/-- Offset of DTR_CNT_CE. -/
def DTR_CNT_CE : Nat := 0x118
/-- Offset of DTR_CNT_UE. -/
def DTR_CNT_UE : Nat := 0x120
/-- Offset of DTR_CNT_THROTTLE. -/
def DTR_CNT_THROTTLE : Nat := 0x128
/-- Offset of DTR_CNT_SAT. -/
def DTR_CNT_SAT : Nat := 0x130
/-- Offset of HSK_EDGE_CTRL. -/
def HSK_EDGE_CTRL : Nat := 0x0
/-- Offset of HSK_EDGE_EVENT. -/
def HSK_EDGE_EVENT : Nat := 0x8
/-- Offset of HSK_EDGE_EVENT_EN. -/
def HSK_EDGE_EVENT_EN : Nat := 0x10
/-- Offset of HSK_EDGE_LAST. -/
def HSK_EDGE_LAST : Nat := 0x18
/-- Offset of HSK_CNT_COMP_IN. -/
def HSK_CNT_COMP_IN : Nat := 0x40
/-- Offset of HSK_CNT_COMP_OUT. -/
def HSK_CNT_COMP_OUT : Nat := 0x48
/-- Offset of HSK_CNT_EXP_IN. -/
def HSK_CNT_EXP_IN : Nat := 0x50
/-- Offset of HSK_CNT_EXP_OUT. -/
def HSK_CNT_EXP_OUT : Nat := 0x58
/-- Offset of HSK_CNT_PLAIN. -/
def HSK_CNT_PLAIN : Nat := 0x60
/-- Offset of HSK_CNT_ZERO. -/
def HSK_CNT_ZERO : Nat := 0x68
/-- Offset of HSK_CNT_FAIL. -/
def HSK_CNT_FAIL : Nat := 0x70
/-- Offset of HSK_CNT_REFETCH. -/
def HSK_CNT_REFETCH : Nat := 0x78
/-- Offset of HSK_CNT_SAT. -/
def HSK_CNT_SAT : Nat := 0x80
/-- Offset of ABL_TORUS. -/
def ABL_TORUS : Nat := 0x0
/-- Offset of ABL_CTRL. -/
def ABL_CTRL : Nat := 0x8
/-- Offset of ABL_EVENT. -/
def ABL_EVENT : Nat := 0x10
/-- Offset of ABL_EVENT_EN. -/
def ABL_EVENT_EN : Nat := 0x18
/-- Offset of ABL_CNT_COLL_BYTES. -/
def ABL_CNT_COLL_BYTES : Nat := 0x100
/-- Offset of ABL_CNT_COLL_TIMEOUT. -/
def ABL_CNT_COLL_TIMEOUT : Nat := 0x108
/-- Offset of ABL_CNT_STALE_DROP. -/
def ABL_CNT_STALE_DROP : Nat := 0x110
/-- Offset of ABL_CNT_UNREACHABLE. -/
def ABL_CNT_UNREACHABLE : Nat := 0x118
/-- Offset of ABL_CNT_SAT. -/
def ABL_CNT_SAT : Nat := 0x120
/-- Offset of ABL_ROUTE. -/
def ABL_ROUTE : Nat := 0x10000
/-- Offset of ABL_PORT_STATUS. -/
def ABL_PORT_STATUS : Nat := 0x0
/-- Offset of ABL_PORT_CTRL. -/
def ABL_PORT_CTRL : Nat := 0x8
/-- Offset of ABL_PORT_EVENT. -/
def ABL_PORT_EVENT : Nat := 0x10
/-- Offset of ABL_PORT_EVENT_EN. -/
def ABL_PORT_EVENT_EN : Nat := 0x18
/-- Offset of ABL_CNT_TX_FLITS. -/
def ABL_CNT_TX_FLITS : Nat := 0x100
/-- Offset of ABL_CNT_RX_FLITS. -/
def ABL_CNT_RX_FLITS : Nat := 0x108
/-- Offset of ABL_CNT_REPLAY. -/
def ABL_CNT_REPLAY : Nat := 0x110
/-- Offset of ABL_CNT_FEC_CORR. -/
def ABL_CNT_FEC_CORR : Nat := 0x118
/-- Offset of ABL_CNT_FEC_UNCORR. -/
def ABL_CNT_FEC_UNCORR : Nat := 0x120
/-- Offset of ABL_CNT_CREDIT_STALL. -/
def ABL_CNT_CREDIT_STALL : Nat := 0x128
/-- Offset of ABL_CNT_RETRAIN. -/
def ABL_CNT_RETRAIN : Nat := 0x130
/-- Offset of ABL_PORT_CNT_SAT. -/
def ABL_PORT_CNT_SAT : Nat := 0x138
/-- Offset of CXP_STATUS. -/
def CXP_STATUS : Nat := 0x0
/-- Offset of CXP_CTRL. -/
def CXP_CTRL : Nat := 0x8
/-- Offset of CXP_EVENT. -/
def CXP_EVENT : Nat := 0x10
/-- Offset of CXP_EVENT_EN. -/
def CXP_EVENT_EN : Nat := 0x18
/-- Offset of CXP_HOST_WD. -/
def CXP_HOST_WD : Nat := 0x20
/-- Offset of CXP_REGION_LAST. -/
def CXP_REGION_LAST : Nat := 0x28
/-- Offset of CXP_CNT_H2D_BYTES. -/
def CXP_CNT_H2D_BYTES : Nat := 0x100
/-- Offset of CXP_CNT_D2H_BYTES. -/
def CXP_CNT_D2H_BYTES : Nat := 0x108
/-- Offset of CXP_CNT_MEM_RD. -/
def CXP_CNT_MEM_RD : Nat := 0x110
/-- Offset of CXP_CNT_MEM_WR. -/
def CXP_CNT_MEM_WR : Nat := 0x118
/-- Offset of CXP_CNT_REGION_DENY. -/
def CXP_CNT_REGION_DENY : Nat := 0x120
/-- Offset of CXP_CNT_DETACH. -/
def CXP_CNT_DETACH : Nat := 0x128
/-- Offset of CXP_CNT_ATTACH_DENIED. -/
def CXP_CNT_ATTACH_DENIED : Nat := 0x130
/-- Offset of CXP_CNT_SAT. -/
def CXP_CNT_SAT : Nat := 0x138
/-- Offset of CXP_REGION_TABLE. -/
def CXP_REGION_TABLE : Nat := 0x8000
/-- Offset of MBX_CMD0. -/
def MBX_CMD0 : Nat := 0x0
/-- Offset of MBX_CMD1. -/
def MBX_CMD1 : Nat := 0x8
/-- Offset of MBX_CMD2. -/
def MBX_CMD2 : Nat := 0x10
/-- Offset of MBX_CMD3. -/
def MBX_CMD3 : Nat := 0x18
/-- Offset of MBX_CMD4. -/
def MBX_CMD4 : Nat := 0x20
/-- Offset of MBX_CMD5. -/
def MBX_CMD5 : Nat := 0x28
/-- Offset of MBX_CMD6. -/
def MBX_CMD6 : Nat := 0x30
/-- Offset of MBX_CMD7. -/
def MBX_CMD7 : Nat := 0x38
/-- Offset of MBX_GO. -/
def MBX_GO : Nat := 0x40
/-- Offset of MBX_STATUS. -/
def MBX_STATUS : Nat := 0x48
/-- Offset of MBX_CTRL. -/
def MBX_CTRL : Nat := 0x50
/-- Offset of MBX_EVENT. -/
def MBX_EVENT : Nat := 0x58
/-- Offset of MBX_EVENT_EN. -/
def MBX_EVENT_EN : Nat := 0x60
/-- Offset of MBX_RES_TAIL. -/
def MBX_RES_TAIL : Nat := 0x100
/-- Offset of MBX_RES_HEAD. -/
def MBX_RES_HEAD : Nat := 0x108
/-- Offset of MBX_CNT_CMDS. -/
def MBX_CNT_CMDS : Nat := 0x200
/-- Offset of MBX_CNT_PENDING. -/
def MBX_CNT_PENDING : Nat := 0x208
/-- Offset of MBX_CNT_SAT. -/
def MBX_CNT_SAT : Nat := 0x210
/-- Offset of MON_RCV_STATUS. -/
def MON_RCV_STATUS : Nat := 0x8000
/-- Offset of MON_RCV_CTRL. -/
def MON_RCV_CTRL : Nat := 0x8008
/-- Offset of MON_RCV_EVENT. -/
def MON_RCV_EVENT : Nat := 0x8010
/-- Offset of MON_RCV_EVENT_EN. -/
def MON_RCV_EVENT_EN : Nat := 0x8018
/-- Offset of MON_RCV_REQ. -/
def MON_RCV_REQ : Nat := 0x8020
/-- Offset of MON_RCV_HEARTBEAT. -/
def MON_RCV_HEARTBEAT : Nat := 0x8028
/-- Offset of MON_RCV_STOOK_BASE. -/
def MON_RCV_STOOK_BASE : Nat := 0x8030
/-- Offset of MON_RCV_STOOK_LEN. -/
def MON_RCV_STOOK_LEN : Nat := 0x8038
/-- Offset of MON_RCV_STOOK_LAST. -/
def MON_RCV_STOOK_LAST : Nat := 0x8040
/-- Offset of MON_RCV_LOG_TAIL. -/
def MON_RCV_LOG_TAIL : Nat := 0x8048
/-- Offset of MON_RCV_LOG_SEL. -/
def MON_RCV_LOG_SEL : Nat := 0x8050
/-- Offset of MON_RCV_LOG_DATA. -/
def MON_RCV_LOG_DATA : Nat := 0x8080
/-- Offset of MON_RCV_DOMAIN. -/
def MON_RCV_DOMAIN : Nat := 0x8100
/-- Offset of MON_CNT_RESETS_QUAD. -/
def MON_CNT_RESETS_QUAD : Nat := 0x8500
/-- Offset of MON_CNT_RESETS_STACK. -/
def MON_CNT_RESETS_STACK : Nat := 0x8508
/-- Offset of MON_CNT_RESETS_DEEP. -/
def MON_CNT_RESETS_DEEP : Nat := 0x8510
/-- Offset of MON_CNT_RESETS_PORT. -/
def MON_CNT_RESETS_PORT : Nat := 0x8518
/-- Offset of MON_CNT_RESETS_CXL. -/
def MON_CNT_RESETS_CXL : Nat := 0x8520
/-- Offset of MON_CNT_RESETS_DEVICE. -/
def MON_CNT_RESETS_DEVICE : Nat := 0x8528
/-- Offset of MON_CNT_TAKEOVER. -/
def MON_CNT_TAKEOVER : Nat := 0x8530
/-- Offset of MON_CNT_TAG_TIMEOUT. -/
def MON_CNT_TAG_TIMEOUT : Nat := 0x8538
/-- Offset of MON_CNT_STALE_GEN. -/
def MON_CNT_STALE_GEN : Nat := 0x8540
/-- Offset of MON_CNT_STOOK_TRUNC. -/
def MON_CNT_STOOK_TRUNC : Nat := 0x8548
/-- Offset of MON_RCV_CNT_SAT. -/
def MON_RCV_CNT_SAT : Nat := 0x8550
/-- Offset of MON_UPTIME_US. -/
def MON_UPTIME_US : Nat := 0x0
/-- Offset of MON_TEMP_REG. -/
def MON_TEMP_REG : Nat := 0x128
/-- Offset of PWR_STATUS. -/
def PWR_STATUS : Nat := 0x0
/-- Offset of PWR_CTRL. -/
def PWR_CTRL : Nat := 0x8
/-- Offset of PWR_ADMIT_UNITS. -/
def PWR_ADMIT_UNITS : Nat := 0x10
/-- Offset of PWR_ADMIT_GAP. -/
def PWR_ADMIT_GAP : Nat := 0x18
/-- Offset of PWR_EVENT. -/
def PWR_EVENT : Nat := 0x20
/-- Offset of PWR_EVENT_EN. -/
def PWR_EVENT_EN : Nat := 0x28
/-- Offset of PWR_INPUT. -/
def PWR_INPUT : Nat := 0x30
/-- Offset of PWR_VCORE. -/
def PWR_VCORE : Nat := 0x38
/-- Offset of PWR_CNT_A_CYCLES. -/
def PWR_CNT_A_CYCLES : Nat := 0x100
/-- Offset of PWR_CNT_ENERGY_MJ. -/
def PWR_CNT_ENERGY_MJ : Nat := 0x108
/-- Offset of PWR_CNT_DIPS. -/
def PWR_CNT_DIPS : Nat := 0x110
/-- Offset of PWR_CNT_HOLDS. -/
def PWR_CNT_HOLDS : Nat := 0x118
/-- Offset of PWR_CNT_STRETCH. -/
def PWR_CNT_STRETCH : Nat := 0x120
/-- Offset of PWR_CNT_LEVEL1. -/
def PWR_CNT_LEVEL1 : Nat := 0x128
/-- Offset of PWR_CNT_LEVEL2. -/
def PWR_CNT_LEVEL2 : Nat := 0x130
/-- Offset of PWR_CNT_LEVEL3. -/
def PWR_CNT_LEVEL3 : Nat := 0x138
/-- Offset of PWR_CNT_LEVEL4. -/
def PWR_CNT_LEVEL4 : Nat := 0x140
/-- Offset of PWR_CNT_SAT. -/
def PWR_CNT_SAT : Nat := 0x148
/-- Offset of BOOT_ID. -/
def BOOT_ID : Nat := 0x0
/-- Offset of BOOT_SERIAL. -/
def BOOT_SERIAL : Nat := 0x8
/-- Offset of BOOT_STATUS. -/
def BOOT_STATUS : Nat := 0x10
/-- Offset of BOOT_FW_VERSION. -/
def BOOT_FW_VERSION : Nat := 0x18
/-- Offset of BOOT_EVENT. -/
def BOOT_EVENT : Nat := 0x20
/-- Offset of BOOT_EVENT_EN. -/
def BOOT_EVENT_EN : Nat := 0x28
/-- Offset of BOOT_RCV_CMD. -/
def BOOT_RCV_CMD : Nat := 0x30
/-- Offset of BOOT_RCV_STATUS. -/
def BOOT_RCV_STATUS : Nat := 0x38
/-- Offset of BOOT_CNT_STARTS. -/
def BOOT_CNT_STARTS : Nat := 0x100
/-- Offset of BOOT_CNT_HANDOVERS. -/
def BOOT_CNT_HANDOVERS : Nat := 0x108
/-- Offset of BOOT_CNT_VERIFY_FAIL. -/
def BOOT_CNT_VERIFY_FAIL : Nat := 0x110
/-- Offset of BOOT_CNT_FLASH_PAGES. -/
def BOOT_CNT_FLASH_PAGES : Nat := 0x118
/-- Offset of BOOT_CNT_SAT. -/
def BOOT_CNT_SAT : Nat := 0x120
/-- Offset of BOOT_DL_BUFFER. -/
def BOOT_DL_BUFFER : Nat := 0x1000

end Reg

namespace Bit

/-- Bit GRAPH_REJECT of TLR_EVENT. -/
def TLR_EVENT_GRAPH_REJECT : Nat := 0
/-- Bit STAGE_FAULT of TLR_EVENT. -/
def TLR_EVENT_STAGE_FAULT : Nat := 1
/-- Bit REFETCH_ORDERED of TLR_EVENT. -/
def TLR_EVENT_REFETCH_ORDERED : Nat := 2
/-- Bit RELAY_STALL of TLR_EVENT. -/
def TLR_EVENT_RELAY_STALL : Nat := 3
/-- Bit CNT_SAT of TLR_EVENT. -/
def TLR_EVENT_CNT_SAT : Nat := 4
/-- Bit NAN_OUT of TLR_ARR_EVENT. -/
def TLR_ARR_EVENT_NAN_OUT : Nat := 0
/-- Bit INF_OUT of TLR_ARR_EVENT. -/
def TLR_ARR_EVENT_INF_OUT : Nat := 1
/-- Bit SCALE_NAN of TLR_ARR_EVENT. -/
def TLR_ARR_EVENT_SCALE_NAN : Nat := 2
/-- Bit CMD_FAULT of TLR_ARR_EVENT. -/
def TLR_ARR_EVENT_CMD_FAULT : Nat := 3
/-- Bit NAN_OUT of TLR_VEC_EVENT. -/
def TLR_VEC_EVENT_NAN_OUT : Nat := 0
/-- Bit INF_OUT of TLR_VEC_EVENT. -/
def TLR_VEC_EVENT_INF_OUT : Nat := 1
/-- Bit SEQ_FAULT of TLR_VEC_EVENT. -/
def TLR_VEC_EVENT_SEQ_FAULT : Nat := 2
/-- Bit DOMAIN of TLR_VEC_EVENT. -/
def TLR_VEC_EVENT_DOMAIN : Nat := 3
/-- Bit SKIP of CHN_NUM_EVENT. -/
def CHN_NUM_EVENT_SKIP : Nat := 0
/-- Bit LS_FLOOR of CHN_NUM_EVENT. -/
def CHN_NUM_EVENT_LS_FLOOR : Nat := 1
/-- Bit LS_CEIL of CHN_NUM_EVENT. -/
def CHN_NUM_EVENT_LS_CEIL : Nat := 2
/-- Bit WNW_OVER of CHN_NUM_EVENT. -/
def CHN_NUM_EVENT_WNW_OVER : Nat := 3
/-- Bit WNW_HARD of CHN_NUM_EVENT. -/
def CHN_NUM_EVENT_WNW_HARD : Nat := 4
/-- Bit NARROW_SAT of CHN_NUM_EVENT. -/
def CHN_NUM_EVENT_NARROW_SAT : Nat := 5
/-- Bit CNT_SAT of CHN_NUM_EVENT. -/
def CHN_NUM_EVENT_CNT_SAT : Nat := 6
/-- Bit BANK_SLOW of YST_EVENT. -/
def YST_EVENT_BANK_SLOW : Nat := 0
/-- Bit BANK_TIMEOUT of YST_EVENT. -/
def YST_EVENT_BANK_TIMEOUT : Nat := 1
/-- Bit CE of YST_EVENT. -/
def YST_EVENT_CE : Nat := 2
/-- Bit UE of YST_EVENT. -/
def YST_EVENT_UE : Nat := 3
/-- Bit DIE_ERASED of YST_EVENT. -/
def YST_EVENT_DIE_ERASED : Nat := 4
/-- Bit THERM_LIMIT of YST_EVENT. -/
def YST_EVENT_THERM_LIMIT : Nat := 5
/-- Bit THERM_TRIP of YST_EVENT. -/
def YST_EVENT_THERM_TRIP : Nat := 6
/-- Bit FLAGGED of YST_EVENT. -/
def YST_EVENT_FLAGGED : Nat := 7
/-- Bit SHEAF_EXTRA of YST_EVENT. -/
def YST_EVENT_SHEAF_EXTRA : Nat := 8
/-- Bit UPD_REJECT of YST_EVENT. -/
def YST_EVENT_UPD_REJECT : Nat := 9
/-- Bit CNT_SAT of YST_EVENT. -/
def YST_EVENT_CNT_SAT : Nat := 10
/-- Bit RO_WRITE of PLC_EVENT. -/
def PLC_EVENT_RO_WRITE : Nat := 0
/-- Bit UNMAPPED of PLC_EVENT. -/
def PLC_EVENT_UNMAPPED : Nat := 1
/-- Bit MIG_ABORT of PLC_EVENT. -/
def PLC_EVENT_MIG_ABORT : Nat := 2
/-- Bit CNT_SAT of PLC_EVENT. -/
def PLC_EVENT_CNT_SAT : Nat := 3
/-- Bit NO_ACCESS of PLC_EVENT. -/
def PLC_EVENT_NO_ACCESS : Nat := 4
/-- Bit BANK_SLOW of DTR_EVENT. -/
def DTR_EVENT_BANK_SLOW : Nat := 0
/-- Bit BANK_TIMEOUT of DTR_EVENT. -/
def DTR_EVENT_BANK_TIMEOUT : Nat := 1
/-- Bit CE of DTR_EVENT. -/
def DTR_EVENT_CE : Nat := 2
/-- Bit UE of DTR_EVENT. -/
def DTR_EVENT_UE : Nat := 3
/-- Bit THERM_LIMIT of DTR_EVENT. -/
def DTR_EVENT_THERM_LIMIT : Nat := 4
/-- Bit THERM_TRIP of DTR_EVENT. -/
def DTR_EVENT_THERM_TRIP : Nat := 5
/-- Bit FLAGGED of DTR_EVENT. -/
def DTR_EVENT_FLAGGED : Nat := 6
/-- Bit CNT_SAT of DTR_EVENT. -/
def DTR_EVENT_CNT_SAT : Nat := 7
/-- Bit SIZE_OVER of HSK_EDGE_EVENT. -/
def HSK_EDGE_EVENT_SIZE_OVER : Nat := 0
/-- Bit SIZE_UNDER of HSK_EDGE_EVENT. -/
def HSK_EDGE_EVENT_SIZE_UNDER : Nat := 1
/-- Bit CRC of HSK_EDGE_EVENT. -/
def HSK_EDGE_EVENT_CRC : Nat := 2
/-- Bit FORMAT of HSK_EDGE_EVENT. -/
def HSK_EDGE_EVENT_FORMAT : Nat := 3
/-- Bit TAG of HSK_EDGE_EVENT. -/
def HSK_EDGE_EVENT_TAG : Nat := 4
/-- Bit MAP_PARITY of HSK_EDGE_EVENT. -/
def HSK_EDGE_EVENT_MAP_PARITY : Nat := 5
/-- Bit CNT_SAT of HSK_EDGE_EVENT. -/
def HSK_EDGE_EVENT_CNT_SAT : Nat := 6
/-- Bit VERSION_ABORT of CHN_TRN_EVENT. -/
def CHN_TRN_EVENT_VERSION_ABORT : Nat := 0
/-- Bit ROLLFWD of CHN_TRN_EVENT. -/
def CHN_TRN_EVENT_ROLLFWD : Nat := 1
/-- Bit INEXACT of CHN_TRN_EVENT. -/
def CHN_TRN_EVENT_INEXACT : Nat := 2
/-- Bit DELTA_BROKEN of CHN_TRN_EVENT. -/
def CHN_TRN_EVENT_DELTA_BROKEN : Nat := 3
/-- Bit STAGE_WAIT of CHN_TRN_EVENT. -/
def CHN_TRN_EVENT_STAGE_WAIT : Nat := 4
/-- Bit CNT_SAT of CHN_TRN_EVENT. -/
def CHN_TRN_EVENT_CNT_SAT : Nat := 5
/-- Bit DELTA_SIZE of CHN_TRN_EVENT. -/
def CHN_TRN_EVENT_DELTA_SIZE : Nat := 6
/-- Bit COLL_TIMEOUT of ABL_EVENT. -/
def ABL_EVENT_COLL_TIMEOUT : Nat := 0
/-- Bit STEP_ABORT_RX of ABL_EVENT. -/
def ABL_EVENT_STEP_ABORT_RX : Nat := 1
/-- Bit REJOIN_RX of ABL_EVENT. -/
def ABL_EVENT_REJOIN_RX : Nat := 2
/-- Bit STALE_DROP of ABL_EVENT. -/
def ABL_EVENT_STALE_DROP : Nat := 3
/-- Bit UNREACHABLE of ABL_EVENT. -/
def ABL_EVENT_UNREACHABLE : Nat := 4
/-- Bit RESHARD_FAIL of ABL_EVENT. -/
def ABL_EVENT_RESHARD_FAIL : Nat := 5
/-- Bit CNT_SAT of ABL_EVENT. -/
def ABL_EVENT_CNT_SAT : Nat := 6
/-- Bit LANE_FAIL of ABL_PORT_EVENT. -/
def ABL_PORT_EVENT_LANE_FAIL : Nat := 0
/-- Bit DEGRADED of ABL_PORT_EVENT. -/
def ABL_PORT_EVENT_DEGRADED : Nat := 1
/-- Bit PORT_DOWN of ABL_PORT_EVENT. -/
def ABL_PORT_EVENT_PORT_DOWN : Nat := 2
/-- Bit MISWIRED of ABL_PORT_EVENT. -/
def ABL_PORT_EVENT_MISWIRED : Nat := 3
/-- Bit REPLAY of ABL_PORT_EVENT. -/
def ABL_PORT_EVENT_REPLAY : Nat := 4
/-- Bit RETRAIN of ABL_PORT_EVENT. -/
def ABL_PORT_EVENT_RETRAIN : Nat := 5
/-- Bit CNT_SAT of ABL_PORT_EVENT. -/
def ABL_PORT_EVENT_CNT_SAT : Nat := 6
/-- Bit DETACH of CXP_EVENT. -/
def CXP_EVENT_DETACH : Nat := 0
/-- Bit ATTACH of CXP_EVENT. -/
def CXP_EVENT_ATTACH : Nat := 1
/-- Bit REGION_DENY of CXP_EVENT. -/
def CXP_EVENT_REGION_DENY : Nat := 2
/-- Bit BAR_SIZE of CXP_EVENT. -/
def CXP_EVENT_BAR_SIZE : Nat := 3
/-- Bit IDE_FAIL of CXP_EVENT. -/
def CXP_EVENT_IDE_FAIL : Nat := 4
/-- Bit ATTACH_DENIED of CXP_EVENT. -/
def CXP_EVENT_ATTACH_DENIED : Nat := 5
/-- Bit LOG_FULL of CXP_EVENT. -/
def CXP_EVENT_LOG_FULL : Nat := 6
/-- Bit CNT_SAT of CXP_EVENT. -/
def CXP_EVENT_CNT_SAT : Nat := 7
/-- Bit STALL_DOORBELL of CHN_EVENT. -/
def CHN_EVENT_STALL_DOORBELL : Nat := 0
/-- Bit RING_OVERRUN of CHN_EVENT. -/
def CHN_EVENT_RING_OVERRUN : Nat := 1
/-- Bit CPL_FULL of CHN_EVENT. -/
def CHN_EVENT_CPL_FULL : Nat := 2
/-- Bit LOG_FULL of CHN_EVENT. -/
def CHN_EVENT_LOG_FULL : Nat := 3
/-- Bit TOKEN_UNDERFLOW of CHN_EVENT. -/
def CHN_EVENT_TOKEN_UNDERFLOW : Nat := 4
/-- Bit DEP_FAILED of CHN_EVENT. -/
def CHN_EVENT_DEP_FAILED : Nat := 5
/-- Bit FENCED of CHN_EVENT. -/
def CHN_EVENT_FENCED : Nat := 6
/-- Bit CNT_SAT of CHN_EVENT. -/
def CHN_EVENT_CNT_SAT : Nat := 7
/-- Bit ABORT of CHN_RCV_EVENT. -/
def CHN_RCV_EVENT_ABORT : Nat := 0
/-- Bit WATCHDOG of CHN_RCV_EVENT. -/
def CHN_RCV_EVENT_WATCHDOG : Nat := 1
/-- Bit PROGRESS of CHN_RCV_EVENT. -/
def CHN_RCV_EVENT_PROGRESS : Nat := 2
/-- Bit REJOIN of CHN_RCV_EVENT. -/
def CHN_RCV_EVENT_REJOIN : Nat := 3
/-- Bit GRANT_LOST of CHN_RCV_EVENT. -/
def CHN_RCV_EVENT_GRANT_LOST : Nat := 4
/-- Bit CNT_SAT of CHN_RCV_EVENT. -/
def CHN_RCV_EVENT_CNT_SAT : Nat := 5
/-- Bit TAKEOVER of MON_RCV_EVENT. -/
def MON_RCV_EVENT_TAKEOVER : Nat := 0
/-- Bit NO_STANDBY of MON_RCV_EVENT. -/
def MON_RCV_EVENT_NO_STANDBY : Nat := 1
/-- Bit TAG_TIMEOUT of MON_RCV_EVENT. -/
def MON_RCV_EVENT_TAG_TIMEOUT : Nat := 2
/-- Bit DOMAIN_RESET of MON_RCV_EVENT. -/
def MON_RCV_EVENT_DOMAIN_RESET : Nat := 3
/-- Bit QUAD_RETIRED of MON_RCV_EVENT. -/
def MON_RCV_EVENT_QUAD_RETIRED : Nat := 4
/-- Bit STOOK_TRUNC of MON_RCV_EVENT. -/
def MON_RCV_EVENT_STOOK_TRUNC : Nat := 5
/-- Bit STOOK_SAVED of MON_RCV_EVENT. -/
def MON_RCV_EVENT_STOOK_SAVED : Nat := 6
/-- Bit CNT_SAT of MON_RCV_EVENT. -/
def MON_RCV_EVENT_CNT_SAT : Nat := 7
/-- Bit DIP of PWR_EVENT. -/
def PWR_EVENT_DIP : Nat := 0
/-- Bit HOLD of PWR_EVENT. -/
def PWR_EVENT_HOLD : Nat := 1
/-- Bit CAP of PWR_EVENT. -/
def PWR_EVENT_CAP : Nat := 2
/-- Bit CAP_FAIL of PWR_EVENT. -/
def PWR_EVENT_CAP_FAIL : Nat := 3
/-- Bit THERM of PWR_EVENT. -/
def PWR_EVENT_THERM : Nat := 4
/-- Bit THERM_HI of PWR_EVENT. -/
def PWR_EVENT_THERM_HI : Nat := 5
/-- Bit STACK_HOT of PWR_EVENT. -/
def PWR_EVENT_STACK_HOT : Nat := 6
/-- Bit DEEP_HOT of PWR_EVENT. -/
def PWR_EVENT_DEEP_HOT : Nat := 7
/-- Bit RAIL_RESET of PWR_EVENT. -/
def PWR_EVENT_RAIL_RESET : Nat := 8
/-- Bit CNT_SAT of PWR_EVENT. -/
def PWR_EVENT_CNT_SAT : Nat := 9
/-- Bit VERIFY_FAIL of BOOT_EVENT. -/
def BOOT_EVENT_VERIFY_FAIL : Nat := 0
/-- Bit SLOT_FALLBACK of BOOT_EVENT. -/
def BOOT_EVENT_SLOT_FALLBACK : Nat := 1
/-- Bit HANDOVER of BOOT_EVENT. -/
def BOOT_EVENT_HANDOVER : Nat := 2
/-- Bit HANDOVER_FAIL of BOOT_EVENT. -/
def BOOT_EVENT_HANDOVER_FAIL : Nat := 3
/-- Bit COMMIT_DONE of BOOT_EVENT. -/
def BOOT_EVENT_COMMIT_DONE : Nat := 4
/-- Bit SVN_ADVANCED of BOOT_EVENT. -/
def BOOT_EVENT_SVN_ADVANCED : Nat := 5
/-- Bit SETTINGS_MIGRATED of BOOT_EVENT. -/
def BOOT_EVENT_SETTINGS_MIGRATED : Nat := 6
/-- Bit SETTINGS_DEFAULT of BOOT_EVENT. -/
def BOOT_EVENT_SETTINGS_DEFAULT : Nat := 7
/-- Bit IDENTITY_FAIL of BOOT_EVENT. -/
def BOOT_EVENT_IDENTITY_FAIL : Nat := 8
/-- Bit CNT_SAT of BOOT_EVENT. -/
def BOOT_EVENT_CNT_SAT : Nat := 9
/-- Bit OVERRUN of MBX_EVENT. -/
def MBX_EVENT_OVERRUN : Nat := 0

end Bit

/-- Stored registers of the tlr block. -/
def tlrRegs : List RegDef := [
  { off := Reg.TLR_EVENT, w1c := 0x1F },
  { off := Reg.TLR_EVENT_EN, rw := 0x1F },
  { off := Reg.TLR_CNT_TILES, cnt := 64, satOff := 0x130, satBit := 0, evOff := 0x20, evBit := 4 },
  { off := Reg.TLR_CNT_ARRAY_BUSY, cnt := 64, satOff := 0x130, satBit := 1, evOff := 0x20, evBit := 4 },
  { off := Reg.TLR_CNT_TAG_WAIT, cnt := 64, satOff := 0x130, satBit := 2, evOff := 0x20, evBit := 4 },
  { off := Reg.TLR_CNT_ADMIT_WAIT, cnt := 64, satOff := 0x130, satBit := 3, evOff := 0x20, evBit := 4 },
  { off := Reg.TLR_CNT_REFETCH, cnt := 32, satOff := 0x130, satBit := 4, evOff := 0x20, evBit := 4 },
  { off := Reg.TLR_CNT_RELAY_STALL, cnt := 64, satOff := 0x130, satBit := 5, evOff := 0x20, evBit := 4 },
  { off := Reg.TLR_CNT_SAT, w1c := 0x3F },
  { off := Reg.TLR_ARR_EVENT, w1c := 0xF },
  { off := Reg.TLR_ARR_EVENT_EN, rw := 0xF },
  { off := Reg.TLR_CNT_ARR_PASSES, cnt := 64, satOff := 0x270, satBit := 0, evOff := 0x20, evBit := 4 },
  { off := Reg.TLR_CNT_ARR_LOAD, cnt := 64, satOff := 0x270, satBit := 1, evOff := 0x20, evBit := 4 },
  { off := Reg.TLR_CNT_ARR_INPUT_WAIT, cnt := 64, satOff := 0x270, satBit := 2, evOff := 0x20, evBit := 4 },
  { off := Reg.TLR_CNT_ARR_FTQ_HOLD, cnt := 64, satOff := 0x270, satBit := 3, evOff := 0x20, evBit := 4 },
  { off := Reg.TLR_CNT_ARR_PORT_HOLD, cnt := 64, satOff := 0x270, satBit := 4, evOff := 0x20, evBit := 4 },
  { off := Reg.TLR_CNT_ARR_NONFINITE, cnt := 32, satOff := 0x270, satBit := 5, evOff := 0x20, evBit := 4 },
  { off := Reg.TLR_ARR_CNT_SAT, w1c := 0x3F },
  { off := Reg.TLR_VEC_EVENT, w1c := 0xF },
  { off := Reg.TLR_VEC_EVENT_EN, rw := 0xF },
  { off := Reg.TLR_CNT_SEQ_INSTR, cnt := 64, satOff := 0x368, satBit := 0, evOff := 0x20, evBit := 4 },
  { off := Reg.TLR_CNT_VEC_BEATS, cnt := 64, satOff := 0x368, satBit := 1, evOff := 0x20, evBit := 4 },
  { off := Reg.TLR_CNT_VEC_PORT_WAIT, cnt := 64, satOff := 0x368, satBit := 2, evOff := 0x20, evBit := 4 },
  { off := Reg.TLR_CNT_FTQ_WAIT, cnt := 64, satOff := 0x368, satBit := 3, evOff := 0x20, evBit := 4 },
  { off := Reg.TLR_CNT_VEC_NONFINITE, cnt := 32, satOff := 0x368, satBit := 4, evOff := 0x20, evBit := 4 },
  { off := Reg.TLR_VEC_CNT_SAT, w1c := 0x1F }]

/-- Stored registers of the chn block. -/
def chnRegs : List RegDef := [
  { off := Reg.CHN_EVENT, w1c := 0xFF },
  { off := Reg.CHN_EVENT_EN, rw := 0xFF },
  { off := Reg.CHN_CNT_CMDS, cnt := 64, satOff := 0x120, satBit := 0, evOff := 0x68, evBit := 7 },
  { off := Reg.CHN_CNT_STALE_RETRY, cnt := 64, satOff := 0x120, satBit := 1, evOff := 0x68, evBit := 7 },
  { off := Reg.CHN_CNT_DOORBELL_STALL, cnt := 32, satOff := 0x120, satBit := 2, evOff := 0x68, evBit := 7 },
  { off := Reg.CHN_CNT_CPL_WAIT, cnt := 64, satOff := 0x120, satBit := 3, evOff := 0x68, evBit := 7 },
  { off := Reg.CHN_CNT_SAT, w1c := 0xF },
  { off := Reg.CHN_NUM_CTRL, rw := 0xFFFFF00FF01F3, reset := 0x7D0001000A3 },
  { off := Reg.CHN_WNW_THRESHOLD, rw := 0xFFFFFFFF, reset := 0x3B800000 },
  { off := Reg.CHN_NUM_EVENT, w1c := 0x7F },
  { off := Reg.CHN_NUM_EVENT_EN, rw := 0x7F },
  { off := Reg.CHN_CNT_STEPS_SKIPPED, cnt := 64, satOff := 0x468, satBit := 0, evOff := 0x420, evBit := 6 },
  { off := Reg.CHN_CNT_NARROW_SAT, cnt := 64, satOff := 0x468, satBit := 1, evOff := 0x420, evBit := 6 },
  { off := Reg.CHN_CNT_WNW_TILES, cnt := 64, satOff := 0x468, satBit := 2, evOff := 0x420, evBit := 6 },
  { off := Reg.CHN_CNT_WNW_OVER, cnt := 32, satOff := 0x468, satBit := 3, evOff := 0x420, evBit := 6 },
  { off := Reg.CHN_CNT_WNW_HARD, cnt := 32, satOff := 0x468, satBit := 4, evOff := 0x420, evBit := 6 },
  { off := Reg.CHN_NUM_CNT_SAT, w1c := 0x1F },
  { off := Reg.CHN_TRN_CTRL, rw := 0xFFFF, reset := 0x7D0 },
  { off := Reg.CHN_CLIP_MAX, rw := 0xFFFFFFFF },
  { off := Reg.CHN_TRN_EVENT, w1c := 0x7F },
  { off := Reg.CHN_TRN_EVENT_EN, rw := 0x7F },
  { off := Reg.CHN_DELTA_HEAD, rw := 0xFFFFFFFFFFFFFFFF },
  { off := Reg.CHN_CNT_COMMITS, cnt := 64, satOff := 0x5B0, satBit := 0, evOff := 0x530, evBit := 5 },
  { off := Reg.CHN_CNT_ROLLFWD, cnt := 32, satOff := 0x5B0, satBit := 1, evOff := 0x530, evBit := 5 },
  { off := Reg.CHN_CNT_VERSION_ABORT, cnt := 32, satOff := 0x5B0, satBit := 2, evOff := 0x530, evBit := 5 },
  { off := Reg.CHN_CNT_DEFER_RUNS, cnt := 64, satOff := 0x5B0, satBit := 3, evOff := 0x530, evBit := 5 },
  { off := Reg.CHN_CNT_STAGE_WAIT, cnt := 64, satOff := 0x5B0, satBit := 4, evOff := 0x530, evBit := 5 },
  { off := Reg.CHN_CNT_DELTA_BYTES, cnt := 64, satOff := 0x5B0, satBit := 5, evOff := 0x530, evBit := 5 },
  { off := Reg.CHN_TRN_CNT_SAT, w1c := 0x3F },
  { off := Reg.CHN_RCV_CTRL, rw := 0xFFFFFFFF00000FFF, reset := 0x753000000064 },
  { off := Reg.CHN_RCV_EVENT, w1c := 0x3F },
  { off := Reg.CHN_RCV_EVENT_EN, rw := 0x3F },
  { off := Reg.CHN_CNT_ABORTS, cnt := 64, satOff := 0x6A0, satBit := 0, evOff := 0x610, evBit := 5 },
  { off := Reg.CHN_CNT_WATCHDOG, cnt := 32, satOff := 0x6A0, satBit := 1, evOff := 0x610, evBit := 5 },
  { off := Reg.CHN_CNT_PROGRESS, cnt := 32, satOff := 0x6A0, satBit := 2, evOff := 0x610, evBit := 5 },
  { off := Reg.CHN_CNT_REJOIN, cnt := 32, satOff := 0x6A0, satBit := 3, evOff := 0x610, evBit := 5 },
  { off := Reg.CHN_RCV_CNT_SAT, w1c := 0xF }]

/-- Stored registers of the yst block. -/
def ystRegs : List RegDef := [
  { off := Reg.YST_CTRL, rw := 0x1FFF, reset := 0x1418 },
  { off := Reg.YST_DIE_ERASE, rw := 0xFFFF },
  { off := Reg.YST_EVENT, w1c := 0x7FF },
  { off := Reg.YST_EVENT_EN, rw := 0x7FF },
  { off := Reg.YST_CNT_READ_PARTS, cnt := 64, satOff := 0x150, satBit := 0, evOff := 0x20, evBit := 10 },
  { off := Reg.YST_CNT_WRITE_PARTS, cnt := 64, satOff := 0x150, satBit := 1, evOff := 0x20, evBit := 10 },
  { off := Reg.YST_CNT_ACCUM, cnt := 64, satOff := 0x150, satBit := 2, evOff := 0x20, evBit := 10 },
  { off := Reg.YST_CNT_ACC_RETURN, cnt := 64, satOff := 0x150, satBit := 3, evOff := 0x20, evBit := 10 },
  { off := Reg.YST_CNT_UPD_ELEMS, cnt := 64, satOff := 0x150, satBit := 4, evOff := 0x20, evBit := 10 },
  { off := Reg.YST_CNT_CE_DIE, cnt := 64, satOff := 0x150, satBit := 5, evOff := 0x20, evBit := 10 },
  { off := Reg.YST_CNT_CE_SYM, cnt := 64, satOff := 0x150, satBit := 6, evOff := 0x20, evBit := 10 },
  { off := Reg.YST_CNT_UE, cnt := 32, satOff := 0x150, satBit := 7, evOff := 0x20, evBit := 10 },
  { off := Reg.YST_CNT_SCRUB_PASSES, cnt := 32, satOff := 0x150, satBit := 8, evOff := 0x20, evBit := 10 },
  { off := Reg.YST_CNT_THROTTLE, cnt := 64, satOff := 0x150, satBit := 9, evOff := 0x20, evBit := 10 },
  { off := Reg.YST_CNT_SAT, w1c := 0x3FF }]

/-- Stored registers of the plc block. -/
def plcRegs : List RegDef := [
  { off := Reg.PLC_CTRL, rw := 0xFFFFFFFF, reset := 0x640040 },
  { off := Reg.PLC_EVENT, w1c := 0x1F },
  { off := Reg.PLC_EVENT_EN, rw := 0x1F },
  { off := Reg.PLC_CNT_MIG_GRANULES, cnt := 64, satOff := 0x138, satBit := 0, evOff := 0x10, evBit := 3 },
  { off := Reg.PLC_CNT_MIG_ABORT, cnt := 32, satOff := 0x138, satBit := 1, evOff := 0x10, evBit := 3 },
  { off := Reg.PLC_CNT_FLUSH_GRANULES, cnt := 64, satOff := 0x138, satBit := 2, evOff := 0x10, evBit := 3 },
  { off := Reg.PLC_CNT_HELD_WRITES, cnt := 64, satOff := 0x138, satBit := 3, evOff := 0x10, evBit := 3 },
  { off := Reg.PLC_CNT_XLAT_MISS, cnt := 64, satOff := 0x138, satBit := 4, evOff := 0x10, evBit := 3 },
  { off := Reg.PLC_CNT_RO_WRITE, cnt := 32, satOff := 0x138, satBit := 5, evOff := 0x10, evBit := 3 },
  { off := Reg.PLC_CNT_UNMAPPED, cnt := 32, satOff := 0x138, satBit := 6, evOff := 0x10, evBit := 3 },
  { off := Reg.PLC_CNT_SAT, w1c := 0x7F }]

/-- Stored registers of the dtr block. -/
def dtrRegs : List RegDef := [
  { off := Reg.DTR_CTRL, rw := 0xFF, reset := 0x18 },
  { off := Reg.DTR_EVENT, w1c := 0xFF },
  { off := Reg.DTR_EVENT_EN, rw := 0xFF },
  { off := Reg.DTR_CNT_READ_PARTS, cnt := 64, satOff := 0x130, satBit := 0, evOff := 0x20, evBit := 7 },
  { off := Reg.DTR_CNT_WRITE_PARTS, cnt := 64, satOff := 0x130, satBit := 1, evOff := 0x20, evBit := 7 },
  { off := Reg.DTR_CNT_HUSK_RMW, cnt := 64, satOff := 0x130, satBit := 2, evOff := 0x20, evBit := 7 },
  { off := Reg.DTR_CNT_CE, cnt := 64, satOff := 0x130, satBit := 3, evOff := 0x20, evBit := 7 },
  { off := Reg.DTR_CNT_UE, cnt := 32, satOff := 0x130, satBit := 4, evOff := 0x20, evBit := 7 },
  { off := Reg.DTR_CNT_THROTTLE, cnt := 64, satOff := 0x130, satBit := 5, evOff := 0x20, evBit := 7 },
  { off := Reg.DTR_CNT_SAT, w1c := 0x3F }]

/-- Stored registers of the hsk block. -/
def hskRegs : List RegDef := [
  { off := Reg.HSK_EDGE_CTRL, rw := 0x1, reset := 0x1 },
  { off := Reg.HSK_EDGE_EVENT, w1c := 0x7F },
  { off := Reg.HSK_EDGE_EVENT_EN, rw := 0x7F },
  { off := Reg.HSK_CNT_COMP_IN, cnt := 64, satOff := 0x80, satBit := 0, evOff := 0x8, evBit := 6 },
  { off := Reg.HSK_CNT_COMP_OUT, cnt := 64, satOff := 0x80, satBit := 1, evOff := 0x8, evBit := 6 },
  { off := Reg.HSK_CNT_EXP_IN, cnt := 64, satOff := 0x80, satBit := 2, evOff := 0x8, evBit := 6 },
  { off := Reg.HSK_CNT_EXP_OUT, cnt := 64, satOff := 0x80, satBit := 3, evOff := 0x8, evBit := 6 },
  { off := Reg.HSK_CNT_PLAIN, cnt := 64, satOff := 0x80, satBit := 4, evOff := 0x8, evBit := 6 },
  { off := Reg.HSK_CNT_ZERO, cnt := 64, satOff := 0x80, satBit := 5, evOff := 0x8, evBit := 6 },
  { off := Reg.HSK_CNT_FAIL, cnt := 32, satOff := 0x80, satBit := 6, evOff := 0x8, evBit := 6 },
  { off := Reg.HSK_CNT_REFETCH, cnt := 32, satOff := 0x80, satBit := 7, evOff := 0x8, evBit := 6 },
  { off := Reg.HSK_CNT_SAT, w1c := 0xFF }]

/-- Stored registers of the abl block. -/
def ablRegs : List RegDef := [
  { off := Reg.ABL_CTRL, rw := 0xFFFFFFF, reset := 0xA00FA },
  { off := Reg.ABL_EVENT, w1c := 0x7F },
  { off := Reg.ABL_EVENT_EN, rw := 0x7F },
  { off := Reg.ABL_CNT_COLL_BYTES, cnt := 64, satOff := 0x120, satBit := 0, evOff := 0x10, evBit := 6 },
  { off := Reg.ABL_CNT_COLL_TIMEOUT, cnt := 32, satOff := 0x120, satBit := 1, evOff := 0x10, evBit := 6 },
  { off := Reg.ABL_CNT_STALE_DROP, cnt := 64, satOff := 0x120, satBit := 2, evOff := 0x10, evBit := 6 },
  { off := Reg.ABL_CNT_UNREACHABLE, cnt := 32, satOff := 0x120, satBit := 3, evOff := 0x10, evBit := 6 },
  { off := Reg.ABL_CNT_SAT, w1c := 0xF }]

/-- Stored registers of the ablPort block. -/
def ablPortRegs : List RegDef := [
  { off := Reg.ABL_PORT_CTRL, rw := 0x7772, reset := 0x4210 },
  { off := Reg.ABL_PORT_EVENT, w1c := 0x7F },
  { off := Reg.ABL_PORT_EVENT_EN, rw := 0x7F },
  { off := Reg.ABL_CNT_TX_FLITS, cnt := 64, satOff := 0x138, satBit := 0, evOff := 0x10, evBit := 6 },
  { off := Reg.ABL_CNT_RX_FLITS, cnt := 64, satOff := 0x138, satBit := 1, evOff := 0x10, evBit := 6 },
  { off := Reg.ABL_CNT_REPLAY, cnt := 64, satOff := 0x138, satBit := 2, evOff := 0x10, evBit := 6 },
  { off := Reg.ABL_CNT_FEC_CORR, cnt := 64, satOff := 0x138, satBit := 3, evOff := 0x10, evBit := 6 },
  { off := Reg.ABL_CNT_FEC_UNCORR, cnt := 64, satOff := 0x138, satBit := 4, evOff := 0x10, evBit := 6 },
  { off := Reg.ABL_CNT_CREDIT_STALL, cnt := 64, satOff := 0x138, satBit := 5, evOff := 0x10, evBit := 6 },
  { off := Reg.ABL_CNT_RETRAIN, cnt := 32, satOff := 0x138, satBit := 6, evOff := 0x10, evBit := 6 },
  { off := Reg.ABL_PORT_CNT_SAT, w1c := 0x7F }]

/-- Stored registers of the cxp block. -/
def cxpRegs : List RegDef := [
  { off := Reg.CXP_CTRL, rw := 0xFFFF },
  { off := Reg.CXP_EVENT, w1c := 0xFF },
  { off := Reg.CXP_EVENT_EN, rw := 0xFF },
  { off := Reg.CXP_CNT_H2D_BYTES, cnt := 64, satOff := 0x138, satBit := 0, evOff := 0x10, evBit := 7 },
  { off := Reg.CXP_CNT_D2H_BYTES, cnt := 64, satOff := 0x138, satBit := 1, evOff := 0x10, evBit := 7 },
  { off := Reg.CXP_CNT_MEM_RD, cnt := 64, satOff := 0x138, satBit := 2, evOff := 0x10, evBit := 7 },
  { off := Reg.CXP_CNT_MEM_WR, cnt := 64, satOff := 0x138, satBit := 3, evOff := 0x10, evBit := 7 },
  { off := Reg.CXP_CNT_REGION_DENY, cnt := 32, satOff := 0x138, satBit := 4, evOff := 0x10, evBit := 7 },
  { off := Reg.CXP_CNT_DETACH, cnt := 32, satOff := 0x138, satBit := 5, evOff := 0x10, evBit := 7 },
  { off := Reg.CXP_CNT_ATTACH_DENIED, cnt := 32, satOff := 0x138, satBit := 6, evOff := 0x10, evBit := 7 },
  { off := Reg.CXP_CNT_SAT, w1c := 0x7F }]

/-- Stored registers of the mbx block. -/
def mbxRegs : List RegDef := [
  { off := Reg.MBX_CMD0, rw := 0xFFFFFFFFFFFFFFFF },
  { off := Reg.MBX_CMD1, rw := 0xFFFFFFFFFFFFFFFF },
  { off := Reg.MBX_CMD2, rw := 0xFFFFFFFFFFFFFFFF },
  { off := Reg.MBX_CMD3, rw := 0xFFFFFFFFFFFFFFFF },
  { off := Reg.MBX_CMD4, rw := 0xFFFFFFFFFFFFFFFF },
  { off := Reg.MBX_CMD5, rw := 0xFFFFFFFFFFFFFFFF },
  { off := Reg.MBX_CMD6, rw := 0xFFFFFFFFFFFFFFFF },
  { off := Reg.MBX_CMD7, rw := 0xFFFFFFFFFFFFFFFF },
  { off := Reg.MBX_CTRL, rw := 0xFFF },
  { off := Reg.MBX_EVENT, w1c := 0x3 },
  { off := Reg.MBX_EVENT_EN, rw := 0x3 },
  { off := Reg.MBX_RES_HEAD, rw := 0xFFFFFFFF },
  { off := Reg.MBX_CNT_CMDS, cnt := 64, satOff := 0x210, satBit := 0, evOff := 0x58, evBit := 1 },
  { off := Reg.MBX_CNT_PENDING, cnt := 64, satOff := 0x210, satBit := 1, evOff := 0x58, evBit := 1 },
  { off := Reg.MBX_CNT_SAT, w1c := 0x3 }]

/-- Stored registers of the mon block. -/
def monRegs : List RegDef := [
  { off := Reg.MON_RCV_CTRL, rw := 0xF03FF03FF0003, reset := 0x3000A00050003 },
  { off := Reg.MON_RCV_EVENT, w1c := 0xFF },
  { off := Reg.MON_RCV_EVENT_EN, rw := 0xFF },
  { off := Reg.MON_RCV_STOOK_BASE, rw := 0xFFFFFFFFFFFFFFFF },
  { off := Reg.MON_RCV_STOOK_LEN, rw := 0xFFFFFFFFFFFFFFFF },
  { off := Reg.MON_RCV_LOG_SEL, rw := 0xFFFFFFFFFFFFFFFF },
  { off := Reg.MON_CNT_RESETS_QUAD, cnt := 32, satOff := 0x8550, satBit := 0, evOff := 0x8010, evBit := 7 },
  { off := Reg.MON_CNT_RESETS_STACK, cnt := 32, satOff := 0x8550, satBit := 1, evOff := 0x8010, evBit := 7 },
  { off := Reg.MON_CNT_RESETS_DEEP, cnt := 32, satOff := 0x8550, satBit := 2, evOff := 0x8010, evBit := 7 },
  { off := Reg.MON_CNT_RESETS_PORT, cnt := 32, satOff := 0x8550, satBit := 3, evOff := 0x8010, evBit := 7 },
  { off := Reg.MON_CNT_RESETS_CXL, cnt := 32, satOff := 0x8550, satBit := 4, evOff := 0x8010, evBit := 7 },
  { off := Reg.MON_CNT_RESETS_DEVICE, cnt := 32, satOff := 0x8550, satBit := 5, evOff := 0x8010, evBit := 7 },
  { off := Reg.MON_CNT_TAKEOVER, cnt := 32, satOff := 0x8550, satBit := 6, evOff := 0x8010, evBit := 7 },
  { off := Reg.MON_CNT_TAG_TIMEOUT, cnt := 64, satOff := 0x8550, satBit := 7, evOff := 0x8010, evBit := 7 },
  { off := Reg.MON_CNT_STALE_GEN, cnt := 64, satOff := 0x8550, satBit := 8, evOff := 0x8010, evBit := 7 },
  { off := Reg.MON_CNT_STOOK_TRUNC, cnt := 32, satOff := 0x8550, satBit := 9, evOff := 0x8010, evBit := 7 },
  { off := Reg.MON_RCV_CNT_SAT, w1c := 0x3FF }]

/-- Stored registers of the pwr block. -/
def pwrRegs : List RegDef := [
  { off := Reg.PWR_CTRL, rw := 0x3FFF, reset := 0x5DC },
  { off := Reg.PWR_ADMIT_UNITS, rw := 0x3FF, reset := 0x40 },
  { off := Reg.PWR_ADMIT_GAP, rw := 0xFFFF, reset := 0x100 },
  { off := Reg.PWR_EVENT, w1c := 0x3FF },
  { off := Reg.PWR_EVENT_EN, rw := 0x3FF },
  { off := Reg.PWR_CNT_A_CYCLES, cnt := 64, satOff := 0x148, satBit := 0, evOff := 0x20, evBit := 9 },
  { off := Reg.PWR_CNT_ENERGY_MJ, cnt := 64, satOff := 0x148, satBit := 1, evOff := 0x20, evBit := 9 },
  { off := Reg.PWR_CNT_DIPS, cnt := 64, satOff := 0x148, satBit := 2, evOff := 0x20, evBit := 9 },
  { off := Reg.PWR_CNT_HOLDS, cnt := 32, satOff := 0x148, satBit := 3, evOff := 0x20, evBit := 9 },
  { off := Reg.PWR_CNT_STRETCH, cnt := 64, satOff := 0x148, satBit := 4, evOff := 0x20, evBit := 9 },
  { off := Reg.PWR_CNT_LEVEL1, cnt := 64, satOff := 0x148, satBit := 5, evOff := 0x20, evBit := 9 },
  { off := Reg.PWR_CNT_LEVEL2, cnt := 64, satOff := 0x148, satBit := 6, evOff := 0x20, evBit := 9 },
  { off := Reg.PWR_CNT_LEVEL3, cnt := 64, satOff := 0x148, satBit := 7, evOff := 0x20, evBit := 9 },
  { off := Reg.PWR_CNT_LEVEL4, cnt := 64, satOff := 0x148, satBit := 8, evOff := 0x20, evBit := 9 },
  { off := Reg.PWR_CNT_SAT, w1c := 0x1FF }]

/-- Stored registers of the boot block. -/
def bootRegs : List RegDef := [
  { off := Reg.BOOT_EVENT, w1c := 0x3FF },
  { off := Reg.BOOT_EVENT_EN, rw := 0x3FF },
  { off := Reg.BOOT_CNT_STARTS, cnt := 64, satOff := 0x120, satBit := 0, evOff := 0x20, evBit := 9 },
  { off := Reg.BOOT_CNT_HANDOVERS, cnt := 32, satOff := 0x120, satBit := 1, evOff := 0x20, evBit := 9 },
  { off := Reg.BOOT_CNT_VERIFY_FAIL, cnt := 32, satOff := 0x120, satBit := 2, evOff := 0x20, evBit := 9 },
  { off := Reg.BOOT_CNT_FLASH_PAGES, cnt := 64, satOff := 0x120, satBit := 3, evOff := 0x20, evBit := 9 },
  { off := Reg.BOOT_CNT_SAT, w1c := 0xF }]

/-- The register table of a block. -/
def blkRegs : Blk → List RegDef
  | .mbx _ => mbxRegs | .cxp => cxpRegs | .pwr => pwrRegs | .mon => monRegs | .boot => bootRegs | .plc => plcRegs
  | .hsk _ => hskRegs | .yst _ => ystRegs | .dtr _ => dtrRegs | .tlr _ => tlrRegs | .abl => ablRegs
  | .ablPort _ => ablPortRegs | .chn _ => chnRegs

/-- The BAR0 offset of a block (Table 11.3). -/
def blkBase : Blk → Nat
  | .mbx m => m * 0x4000 | .cxp => 0x100000 | .pwr => 0x110000 | .mon => 0x120000 | .boot => 0x130000
  | .plc => 0x140000 | .hsk e => 0x151000 + e * 0x100 | .yst i => 0x160000 + i * 0x1000 | .dtr d => 0x180000 + d * 0x1000
  | .tlr t => 0x200000 + t * 0x1000 | .abl => 0x280000 | .ablPort p => 0x281000 + p * 0x1000
  | .chn c => 0x1000000 + c * 0x1000

/-- The block and the offset in it of a BAR0 offset; none outside every block. -/
def blkOf (a : Nat) : Option (Blk × Nat) :=
  if a < 0x100000 then some (.mbx (a / 0x4000), a % 0x4000)
  else if a < 0x110000 then some (.cxp, a - 0x100000)
  else if a < 0x120000 then some (.pwr, a - 0x110000)
  else if a < 0x130000 then some (.mon, a - 0x120000)
  else if a < 0x140000 then some (.boot, a - 0x130000)
  else if a < 0x150000 then some (.plc, a - 0x140000)
  else if a < 0x151000 then none
  else if a < 0x153800 then (if (a - 0x151000) / 0x100 = 7 then none else some (.hsk ((a - 0x151000) / 0x100), a % 0x100))
  else if a < 0x160000 then none
  else if a < 0x170000 then some (.yst ((a - 0x160000) / 0x1000), a % 0x1000)
  else if a < 0x180000 then none
  else if a < 0x1A0000 then some (.dtr ((a - 0x180000) / 0x1000), a % 0x1000)
  else if a < 0x200000 then none
  else if a < 0x280000 then some (.tlr ((a - 0x200000) / 0x1000), a % 0x1000)
  else if a < 0x281000 then some (.abl, a - 0x280000)
  else if a < 0x287000 then some (.ablPort ((a - 0x281000) / 0x1000), a % 0x1000)
  else if a < 0x1000000 then none
  else if a < 0x2000000 then some (.chn ((a - 0x1000000) / 0x1000), a % 0x1000)
  else none

/-- The stored register at an offset of a block. -/
def regDef (b : Blk) (off : Nat) : Option RegDef := (blkRegs b).find? (fun r => r.off == off)

/-- What a register that no entry lists holds: its reset value, zero where nothing is stored. -/
def regDefault (a : Nat) : Word :=
  match blkOf a with
  | some (b, off) => match regDef b off with | some r => word r.reset | none => 0
  | none => 0

end Sys2Proof.Machine
end

