-- ==== Sys2Proof/Machine/State.lean ====
section
/-! DEFINITION. The state of the module as plain data, its faults and refusals, and the state after reset. -/

namespace Sys2Proof.Machine

open Sys2Proof

/-- Something on its way across the mesh between tillers (R33 to R41): 0 a stream tile, 1 END, 2 a credit, 3 a relay tile. -/
structure Flight where
  kind : Nat := 0
  src : Nat := 0
  dst : Nat := 0
  /-- Input port at the consumer. -/
  port : Nat := 0
  addr : Nat := 0
  mb : Nat := 0
  rb : Nat := 0
  cb : Nat := 0
  scale : Nat := 0
  ch : Nat := 0
  /-- The count in the ring of the STAGE_LOAD of its graph, and the STAGE_ID of the producer. -/
  tag : Nat := 0
  stage : Nat := 0
  data : List Byte := []
deriving DecidableEq, Repr

/-- The module. -/
structure State where
  /-- Commands and events waiting, first in, first out. -/
  pending : List Instr := []
  /-- MON_UPTIME_US (R471): ticks since the last cold start. -/
  us : Nat := 0
  /-- The model's own counter of free values drawn (log entry 5). -/
  freeCtr : Nat := 0
  /-- Stored registers of BAR0 by offset (RegTable). -/
  regs : SMap Word := []
  tillers : SMap Tiller := []
  stackMap : SMap Stack := []
  deeps : SMap Deep := []
  /-- DRAM: byte at (home × 2^25 + local block) × 4,096 + byte; homes 0–15 are stacks, 16–47 controllers. -/
  dram : SMap Byte := []
  /-- Poisoned codewords: key of their first byte divided by 64. -/
  poison : SMap Bool := []
  /-- Husk maps (R262): slots that hold a husk block, by home × 2^25 + local block. -/
  husk : SMap Bool := []
  /-- Slots whose husk map bits have failed their parity and have not been rewritten (R265). -/
  huskBad : SMap Bool := []
  objs : SMap Obj := []
  /-- Granule records by record index (R220). -/
  grans : SMap Granule := []
  shareGroups : SMap ShareGroup := []
  /-- Local blocks that frames use, by group × 2^25 + local block: groups 0–3 are the stacks of fields F0–F3, 4–7 the
  deep-tier groups (R172, R218). -/
  used : SMap Bool := []
  migs : List MigCmd := []
  /-- Writes of engines that wait for a granule to move: (requester of the engine queue, object, offset, length) (R237). -/
  heldBy : List (Nat × Nat × Nat × Nat) := []
  /-- Translation caches (R221): granule records held by each requester, most recently used first. Requesters 0–127 are
  the tillers, 128–139 the copy engines, 140 the collective engine, 141 the CXL port, 142–147 the link ports. -/
  xlat : SMap (List Nat) := []
  mbxs : SMap Mbx := []
  chans : SMap Chan := []
  links : Links := {}
  cxl : Cxl := {}
  power : Power := {}
  phys : Physical := {}
  boot : Boot := {}
  rcv : Recov := {}
  flights : List Flight := []
  /-- Stale notices on their way: (tiller, rid) (R54). -/
  notices : List (Nat × Nat) := []
  /-- SMBus responses given: code, sequence, status, data (R428). -/
  smbOut : List (Nat × Nat × Nat × List Byte) := []
deriving DecidableEq, Repr

/-- Why the model stops with a fault. -/
inductive Fault where
  /-- Raised by an event row at a unit number that Table 0.4 does not give the TX9: no such event can happen. Safe. -/
  | noSuchUnit
deriving DecidableEq, Repr

/-- Why the model refuses a command. -/
inductive Refusal where
  /-- Raised by an arm of exec whose command has no meaning yet. Safe: the run stops. -/
  | notModelled (mnemonic : String)
deriving DecidableEq, Repr

/-- The module right after reset: power is applied, the cold start stands at step 6 of Table 13.7, where the mask ROM runs,
every register holds its reset value, and the flash is as the module left manufacture (R500, R537; log entries 2, 3, 7). -/
def State.reset : State :=
  { rcv := { domains := [(0x7F, { seq := some { step := 6, trigger := 0xB4 } })] } }

end Sys2Proof.Machine
end

