-- ==== Sys2Proof/Machine/Status.lean ====
section
/-! DEFINITION. Status codes (R426, Table 12.7). -/

namespace Sys2Proof.Machine

/-- Success. -/
def ST_OK : Nat := 0x0000
/-- Acknowledged; the result follows (R402). -/
def ST_PENDING : Nat := 0x0001
/-- R420, R422. -/
def ST_BAD_COMMAND : Nat := 0x0100
/-- R400. -/
def ST_NOT_PRIVILEGED : Nat := 0x0101
/-- R406. -/
def ST_STALE_HANDLE : Nat := 0x0102
/-- R3. -/
def ST_BAD_UNIT : Nat := 0x0103
/-- R416. -/
def ST_STALL_DOORBELL : Nat := 0x0104
/-- R414. -/
def ST_RING_OVERRUN : Nat := 0x0105
/-- R403. -/
def ST_MBX_BUSY : Nat := 0x0106
/-- R419. -/
def ST_DEP_FAILED : Nat := 0x0107
/-- R407. -/
def ST_NO_CHANNEL : Nat := 0x0108
/-- R407, R408. -/
def ST_GRANT_CONFLICT : Nat := 0x0109
/-- Object, region, grant or ring in use. -/
def ST_BUSY : Nat := 0x010A
/-- Access or window check failed. -/
def ST_NO_ACCESS : Nat := 0x0200
/-- Write to a READ_ONLY object. -/
def ST_RO_WRITE : Nat := 0x0201
/-- Tiller outside the grant (R31). -/
def ST_NOT_GRANTED : Nat := 0x0202
/-- Channel, group or domain fenced. -/
def ST_FENCED : Nat := 0x0203
/-- R397. -/
def ST_ATTACH_DENIED : Nat := 0x0204
/-- R393, R396. -/
def ST_DETACHED : Nat := 0x0205
/-- R359. -/
def ST_PINNED : Nat := 0x0206
/-- R31. -/
def ST_GRAPH_INVALID : Nat := 0x0300
/-- R24, R179. -/
def ST_STAGE_FAULT : Nat := 0x0301
/-- R187. -/
def ST_MEM_POISON : Nat := 0x0302
/-- Size failure of a husk block. -/
def ST_HUSK_SIZE : Nat := 0x0303
/-- Other husk failure. -/
def ST_HUSK_CRC : Nat := 0x0304
/-- R223. -/
def ST_PLACE_INVALID : Nat := 0x0305
/-- R230. -/
def ST_SHARED : Nat := 0x0306
/-- R235, R408. -/
def ST_QUOTA : Nat := 0x0307
/-- No free frames or space. -/
def ST_NO_SPACE : Nat := 0x0308
/-- R235. -/
def ST_NO_RANGE : Nat := 0x0309
/-- R239, R241. -/
def ST_MIG_ABORTED : Nat := 0x030A
/-- R378. -/
def ST_COPY_INVALID : Nat := 0x030B
/-- R385. -/
def ST_REGION_INVALID : Nat := 0x030C
/-- R307. -/
def ST_ACT_FULL : Nat := 0x030D
/-- Shard set arguments. -/
def ST_SHARD_INVALID : Nat := 0x0400
/-- R279. -/
def ST_SHARD_VERSION : Nat := 0x0401
/-- R281. -/
def ST_SHEAF_INVALID : Nat := 0x0402
/-- R194. -/
def ST_SHEAF_ORDER : Nat := 0x0403
/-- R197. -/
def ST_UPD_INVALID : Nat := 0x0404
/-- R304. -/
def ST_BAD_STEP : Nat := 0x0405
/-- R318. -/
def ST_DELTA_SIZE : Nat := 0x0406
/-- Group checks. -/
def ST_COLL_INVALID : Nat := 0x0500
/-- R351. -/
def ST_COLL_TIMEOUT : Nat := 0x0501
/-- R341. -/
def ST_UNREACHABLE : Nat := 0x0502
/-- R356. -/
def ST_RESHARD_MISMATCH : Nat := 0x0503
/-- Recovered state not guaranteed reachable. -/
def ST_RECOVERY_INEXACT : Nat := 0x0600
/-- Work lost to a reset of a domain it used. -/
def ST_RESET : Nat := 0x0601
/-- A command watchdog expired. -/
def ST_WATCHDOG : Nat := 0x0602

end Sys2Proof.Machine
end

