-- ==== Sys2Proof/Machine/Ops.lean ====
section
/-! DEFINITION. The named operations over the state: units, registers, events, counters, interrupts, the error log, and the
answering of commands by mailboxes, rings and SMBus. -/

namespace Sys2Proof.Machine

open Sys2Proof

/-- A condition that, unmet, leaves the state as it was: the event does not occur (log entry 8). -/
def onlyIf (b : Bool) (s : State) (f : State → State) : Host.Outcome State Fault Refusal :=
  .next (if b then f s else s)

/-- An event at unit n of a kind that has k units. -/
def atUnit (n k : Nat) (o : Host.Outcome State Fault Refusal) : Host.Outcome State Fault Refusal :=
  if n < k then o else .fault .noSuchUnit

/-! ### Units -/

def tillerAt (s : State) (t : Nat) : Tiller := smGet (fun _ => {}) s.tillers t
def setTiller (s : State) (t : Nat) (v : Tiller) : State := { s with tillers := smSet (fun _ => {}) s.tillers t v }
def modTiller (s : State) (t : Nat) (f : Tiller → Tiller) : State := setTiller s t (f (tillerAt s t))

def stackAt (s : State) (i : Nat) : Stack := smGet (fun _ => {}) s.stackMap i
def setStack (s : State) (i : Nat) (v : Stack) : State := { s with stackMap := smSet (fun _ => {}) s.stackMap i v }
def modStack (s : State) (i : Nat) (f : Stack → Stack) : State := setStack s i (f (stackAt s i))

def deepAt (s : State) (d : Nat) : Deep := smGet (fun _ => {}) s.deeps d
def setDeep (s : State) (d : Nat) (v : Deep) : State := { s with deeps := smSet (fun _ => {}) s.deeps d v }
def modDeep (s : State) (d : Nat) (f : Deep → Deep) : State := setDeep s d (f (deepAt s d))

def mbxAt (s : State) (m : Nat) : Mbx := smGet (fun _ => {}) s.mbxs m
def setMbx (s : State) (m : Nat) (v : Mbx) : State := { s with mbxs := smSet (fun _ => {}) s.mbxs m v }
def modMbx (s : State) (m : Nat) (f : Mbx → Mbx) : State := setMbx s m (f (mbxAt s m))

def chanAt (s : State) (c : Nat) : Chan := smGet (fun _ => {}) s.chans c
def setChan (s : State) (c : Nat) (v : Chan) : State := { s with chans := smSet (fun _ => {}) s.chans c v }
def modChan (s : State) (c : Nat) (f : Chan → Chan) : State := setChan s c (f (chanAt s c))
def modRings (s : State) (c : Nat) (f : Rings → Rings) : State :=
  modChan s c (fun k => { k with rings := f k.rings })
def modTrn (s : State) (c : Nat) (f : Trn → Trn) : State :=
  modChan s c (fun k => { k with trn := f k.trn })
def modChanRcv (s : State) (c : Nat) (f : ChanRcv → ChanRcv) : State :=
  modChan s c (fun k => { k with rcv := f k.rcv })

def objAt (s : State) (o : Nat) : Obj := smGet (fun _ => {}) s.objs o
def setObj (s : State) (o : Nat) (v : Obj) : State := { s with objs := smSet (fun _ => {}) s.objs o v }
def modObj (s : State) (o : Nat) (f : Obj → Obj) : State := setObj s o (f (objAt s o))

def domainAt (s : State) (d : Nat) : Domain := smGet (fun _ => {}) s.rcv.domains d
def modRcv (s : State) (f : Recov → Recov) : State := { s with rcv := f s.rcv }
def modDomain (s : State) (d : Nat) (f : Domain → Domain) : State :=
  modRcv s (fun r => { r with domains := smModify (fun _ => {}) r.domains d f })

def modPower (s : State) (f : Power → Power) : State := { s with power := f s.power }
def modPhys (s : State) (f : Physical → Physical) : State := { s with phys := f s.phys }
def modBoot (s : State) (f : Boot → Boot) : State := { s with boot := f s.boot }
def modCxl (s : State) (f : Cxl → Cxl) : State := { s with cxl := f s.cxl }
def modLinks (s : State) (f : Links → Links) : State := { s with links := f s.links }

def portAt (s : State) (p : Nat) : Port := s.links.ports.getD p {}
def setPort (s : State) (p : Nat) (v : Port) : State :=
  modLinks s (fun l => { l with ports := l.ports.set p v })
def modPort (s : State) (p : Nat) (f : Port → Port) : State := setPort s p (f (portAt s p))

def groupAt (s : State) (g : Nat) : Group := smGet (fun _ => {}) s.links.groups g
def modGroup (s : State) (g : Nat) (f : Group → Group) : State :=
  modLinks s (fun l => { l with groups := smModify (fun _ => {}) l.groups g f })

/-- The re-shard of a channel. -/
def resh (c : Nat) (s : State) : Reshard := smGet (fun _ => {}) s.links.reshards c
def modResh (c : Nat) (f : Reshard → Reshard) (s : State) : State :=
  modLinks s (fun l => { l with reshards := smModify (fun _ => {}) l.reshards c f })

/-- The channels that are live, by rising index. -/
def liveChans (s : State) : List Nat := (s.chans.filter (fun p => p.2.live)).map (·.1)

/-- A channel's handle (R405). -/
def handleOf (s : State) (c : Nat) : Nat := c + (chanAt s c).gen * 4096

/-- A fresh free value, and the state that has drawn it (log entry 5). -/
def drawFree (s : State) : Word × State := (Config.freeWord s.freeCtr, { s with freeCtr := s.freeCtr + 1 })

/-! ### Unit numbering (R13, Table 0.4) -/

/-- Column, row, field and quad of a tiller. -/
def tillerCol (t : Nat) : Nat := t % 16
def tillerRow (t : Nat) : Nat := t / 16
def tillerField (t : Nat) : Nat := tillerCol t / 4
def tillerQuad (t : Nat) : Nat := tillerRow t / 2 * 8 + tillerCol t / 2
/-- The tillers of a quad. -/
def quadTillers (q : Nat) : List Nat := (List.range 128).filter (fun t => tillerQuad t == q)

/-- A product stage: one that uses the array (R541). -/
def isProduct (kind : Nat) : Bool := [1, 2, 6, 7].contains kind

/-! ### Registers (R10) -/

def rdAddr (s : State) (a : Nat) : Word := smGet regDefault s.regs a
def wrAddr (s : State) (a : Nat) (w : Word) : State := { s with regs := smSet regDefault s.regs a w }
/-- A stored register read. -/
def rd (s : State) (b : Blk) (off : Nat) : Word := rdAddr s (blkBase b + off)
/-- A stored register written whole by the module. -/
def wr (s : State) (b : Blk) (off : Nat) (w : Word) : State := wrAddr s (blkBase b + off) w
/-- A field of a stored register. -/
def rdField (s : State) (b : Blk) (off hi lo : Nat) : Nat := bits (rd s b off) hi lo
/-- Every stored register of a block returned to its reset value (R441). -/
def resetBlock (s : State) (b : Blk) (size : Nat) : State :=
  { s with regs := smClearRun s.regs (blkBase b) size }

/-! ### Interrupts, records and events -/

/-- An MSI-X message, while a host can receive one (R393, R514). -/
def sendMsi (v : Nat) (s : State) : State :=
  if s.boot.stage = 4 ∨ s.cxl.attach ≠ 0 then s else modCxl s (fun c => { c with msix := c.msix ++ [v] })

/-- A record owed to a channel's completion ring (R423, R424). -/
def owe (c : Nat) (r : CplRec) (irq : Bool) (pos : Option Nat) (s : State) : State :=
  modRings s c (fun g => { g with owed := g.owed ++ [{ r := r, irq := irq, pos := pos }] })

/-- A record written without a command (Table 12.6), which counts as IRQ set (R425). -/
def oweKind (c kind status : Nat) (r0 r1 r2 : Nat) (s : State) : State :=
  owe c { kind := kind, status := status, handle := handleOf s c, r0 := word r0, r1 := word r1, r2 := word r2 } true none s

/-- A W1C event bit set by the module: its interrupt goes out when the bit is newly set and enabled (R404, R423, R425). -/
def setEv (b : Blk) (ev n : Nat) (s : State) : State :=
  let old := rd s b ev
  if bit old n then s
  else
    let s1 := wr s b ev (old ||| word (2 ^ n))
    if bit (rd s b (ev + 8)) n then
      match b with
      | .chn c => oweKind c 7 0 ev (2 ^ n) 0 s1
      | .mbx _ => if bit (rd s b Reg.MBX_CTRL) 11 then sendMsi (rdField s b Reg.MBX_CTRL 10 0) s1 else s1
      | _ => sendMsi 0 s1
    else s1

/-- A counter's increment by n: it stops at all-ones and sets its saturation bit, and CNT_SAT when that bit was clear
(R486, R488). -/
def cntAdd (b : Blk) (off n : Nat) (s : State) : State :=
  match regDef b off with
  | none => s
  | some r =>
    if r.cnt = 0 ∨ n = 0 then s
    else
      let v := (rd s b off).toNat + n
      if v < 2 ^ r.cnt - 1 then wr s b off (word v)
      else
        let s1 := wr s b off (word (2 ^ r.cnt - 1))
        let sat := rd s1 b r.satOff
        if bit sat r.satBit then s1
        else setEv b r.evOff r.evBit (wr s1 b r.satOff (sat ||| word (2 ^ r.satBit)))

/-- A counter's increment by one. -/
def cntInc (b : Blk) (off : Nat) (s : State) : State := cntAdd b off 1 s

/-- A stored field that saturates at all-ones without a saturation bit (R490). -/
def satAdd (w v n : Nat) : Nat := min (2 ^ w - 1) (v + n)

/-- An error log record (R465, R466): SEQ, TIME and GEN are the module's own; the flash log takes it next. -/
def logRec (r : LogRec) (s : State) : State :=
  let seq := s.rcv.logTail
  let r := { r with time := s.us, gen := if r.domain = 0xFF then 0 else (domainAt s r.domain).gen }
  let s := modRcv s (fun v =>
    { v with log := smErase (seq - 16384) (smInsert seq r v.log) |> (fun l => if seq < 16384 then smInsert seq r v.log else l),
             logTail := seq + 1 })
  modBoot s (fun b => { b with ops := b.ops ++ [{ prio := 2, kind := 2, arg := seq, pages := 1 }] })

/-! ### Entries and tokens (R422, R413) -/

def Entry.opcode (e : Entry) : Nat := bits e.w0 7 0
def Entry.phase (e : Entry) : Bool := bit e.w0 8
def Entry.order (e : Entry) : Bool := bit e.w0 9
def Entry.irq (e : Entry) : Bool := bit e.w0 10
def Entry.signal (e : Entry) : Option Nat := if bit e.w0 28 then some (bits e.w0 27 16) else none
def Entry.handle (e : Entry) : Nat := bits e.w0 63 32
/-- The tokens an entry of a ring waits on. -/
def Entry.waits (e : Entry) : List Nat :=
  (if bit e.w0 44 then [bits e.w0 43 32] else []) ++ (if bit e.w0 60 then [bits e.w0 59 48] else [])

/-- PHASE of count p in a ring of 2^n entries (R413). -/
def phaseOf (p n : Nat) : Bool := p / 2 ^ n % 2 == 0

/-- A wait on token t by the command at count p is satisfied (R419, R457): every earlier signaller has completed and every
earlier hold has been released. -/
def tokenDone (g : Rings) (t p : Nat) : Bool :=
  g.cmds.all (fun x => !(decide (x.pos < p) && decide (g.abortPos ≤ x.pos) && x.e.signal == some t)) &&
  g.holds.all (fun h => !(h.1 == t && decide (h.2 < p)))

/-- Some earlier signaller of t completed with a status other than ST_OK (R419). -/
def tokenFailed (g : Rings) (t p : Nat) : Bool :=
  g.failed.any (fun f => f.1 == t && decide (f.2 < p) && decide (g.abortPos ≤ f.2))

/-! ### The command set (Table 12.5) -/

/-- A command of the set: the paths that take it, whether it is synchronous, whether a mailbox entry names a channel, and
the bits that lie in a field of each argument word. -/
structure CmdSpec where
  op : Nat
  ring : Bool := false
  mbx : Bool := false
  priv : Bool := false
  smb : Bool := false
  sync : Bool := true
  named : Bool := false
  args : List Nat := []
deriving DecidableEq, Repr

/-- All bits of a word. -/
def allBits : Nat := 2 ^ 64 - 1

/-- The command set. -/
def cmdSet : List CmdSpec := [
  { op := 0x01, priv := true, args := [allBits, allBits, allBits, allBits, 0x3FFFF] },
  { op := 0x02, priv := true, sync := false, named := true },
  { op := 0x03, priv := true, named := true, args := [allBits, allBits, allBits] },
  { op := 0x04, priv := true, smb := true, named := true },
  { op := 0x05, priv := true, smb := true, named := true },
  { op := 0x06, mbx := true, smb := true, named := true, args := [allBits, 1, allBits, 0x3F, allBits, 0x3F] },
  { op := 0x07, mbx := true, named := true, args := [allBits, 0x3F, allBits, 0x3F, 0xFFFFFFFFF] },
  { op := 0x08, priv := true, named := true, args := [0x3F, allBits, allBits] },
  { op := 0x09, mbx := true, named := true },
  { op := 0x0A, priv := true, args := [0x3FFFFFFFFF] },
  { op := 0x0B, priv := true, args := [1, 0x1FFFF, allBits, 0x1FFFFFFFF] },
  { op := 0x0C, ring := true, args := [0xFFF] },
  { op := 0x0D, ring := true },
  { op := 0x10, ring := true, mbx := true, named := true, args := [allBits, allBits, 0x1FFFF] },
  { op := 0x11, ring := true, mbx := true, named := true, args := [0x1FFFF] },
  { op := 0x12, ring := true, mbx := true, named := true, args := [0x7FFFF] },
  { op := 0x13, ring := true, mbx := true, named := true, args := [0xFFFFFFF, 0xFFFFFFFF] },
  { op := 0x14, ring := true, mbx := true, named := true, args := [0xFFFFFFF, 0xFFFFFFFF] },
  { op := 0x15, ring := true, mbx := true, named := true, args := [0x3FFFF, allBits] },
  { op := 0x16, ring := true, sync := false, args := [0x3FFFFF, allBits, allBits] },
  { op := 0x17, ring := true, sync := false, args := [0x1FFFF] },
  { op := 0x18, ring := true, sync := false, args := [0x1FFFF, allBits, allBits] },
  { op := 0x19, ring := true, sync := false, args := [0x7FFFFF, allBits, allBits] },
  { op := 0x20, ring := true, sync := false, args := [0x1FFFF, allBits] },
  { op := 0x21, ring := true, sync := false, args := [allBits, 0x1FFFFF, allBits, allBits] },
  { op := 0x22, ring := true, sync := false, args := [allBits, 0x1FFFFF, allBits, allBits, allBits] },
  { op := 0x23, ring := true, args := [0xFFFFF, allBits, 0xFFFFFFFF, 0xFFFFFFFFFFFFF] },
  { op := 0x24, ring := true, sync := false, args := [0x3FF] },
  { op := 0x30, ring := true, args := [0x3FFFFFFFFFFFFFFF, allBits, allBits, allBits] },
  { op := 0x31, ring := true, args := [0xF] },
  { op := 0x32, ring := true, args := [0x3FFFFFF, allBits, allBits, allBits, 7] },
  { op := 0x33, ring := true, sync := false, args := [0x3FFFFFFFFF, 0x1FFFF, allBits] },
  { op := 0x34, ring := true, args := [0x1FFFF, allBits] },
  { op := 0x35, ring := true, sync := false, args := [0x1FFFF, allBits] },
  { op := 0x36, ring := true, sync := false, args := [allBits, allBits, allBits] },
  { op := 0x37, ring := true, args := [allBits] },
  { op := 0x38, ring := true, args := [0x1FFFF, allBits, 0x3FFF] },
  { op := 0x39, ring := true, args := [0xFFFF03FF0001, allBits, allBits, allBits] },
  { op := 0x40, ring := true, args := [0x1FFFF, allBits] },
  { op := 0x41, ring := true, args := [0x3FF] },
  { op := 0x42, ring := true, sync := false, args := [0x1FFFFFFFF, allBits, allBits] },
  { op := 0x43, ring := true, sync := false, args := [0xFFFFFFFF0000FFFF, 0x1FFFF, allBits, allBits] },
  { op := 0x44, ring := true, sync := false, args := [0xFFFFFFFF0000FFFF, 0x1FFFF, allBits, allBits] },
  { op := 0x45, ring := true, sync := false, args := [0x3FF] },
  { op := 0x46, ring := true, sync := false, args := [0x7FFF] },
  { op := 0x47, ring := true, priv := true, smb := true, args := [0x7FF] },
  { op := 0x60, priv := true, sync := false, args := [0xFFFFFFFF] },
  { op := 0x61, priv := true, args := [allBits, 0xFFFFFFFF] },
  { op := 0x62, priv := true, sync := false },
  { op := 0x63, priv := true, sync := false, args := [1] },
  { op := 0x64, priv := true },
  { op := 0x65, priv := true },
  { op := 0x68, priv := true },
  { op := 0x69, priv := true, args := [0x300000000] },
  { op := 0x6C, priv := true, named := true, args := [0xFF] },
  { op := 0x6D, priv := true, args := [0xFF] }]

/-- The specification of an opcode. -/
def cmdSpec (op : Nat) : Option CmdSpec := cmdSet.find? (fun c => c.op == op)

/-- Argument n of an entry. -/
def Entry.arg (e : Entry) : Nat → Word
  | 0 => e.a0 | 1 => e.a1 | 2 => e.a2 | 3 => e.a3 | 4 => e.a4 | _ => e.a5

/-- No argument word holds a bit outside its fields; an unused word is zero (R422, R536). -/
def argsOk (c : CmdSpec) (e : Entry) : Bool :=
  (List.range 6).all (fun k => (e.arg k).toNat &&& (allBits - c.args.getD k 0) == 0)

/-- The RSV bits of words 0x00 and 0x04 are zero for the path (R422). -/
def headOk (src : CmdSrc) (c : CmdSpec) (e : Entry) : Bool :=
  match src with
  | .ring _ => bits e.w0 15 11 == 0 && bits e.w0 31 29 == 0 && bits e.w0 47 45 == 0 && bits e.w0 63 61 == 0
  | .mbx _ => bits e.w0 31 8 == 0 && (c.named || e.handle == 0)
  | .smb => true

/-- The path takes the command: none, or the status that refuses it. -/
def pathStatus (src : CmdSrc) (c : CmdSpec) : Option Nat :=
  match src with
  | .ring _ => if c.ring then none else some ST_BAD_COMMAND
  | .mbx m =>
    if c.mbx ∨ (c.priv ∧ m = 0) then none
    else if c.priv then some ST_NOT_PRIVILEGED else some ST_BAD_COMMAND
  | .smb => if c.smb then none else some ST_BAD_COMMAND

/-- A command being served: where it came from, its entry, its channel and its count. -/
structure Cmd where
  src : CmdSrc
  e : Entry
  ch : Nat := 0
  pos : Nat := 0
  seq : Nat := 0
deriving DecidableEq, Repr

/-! ### Answering -/

/-- A completion record of a command. -/
def cmdRec (x : Cmd) (handle kind status pos : Nat) (rs : List Word) : CplRec :=
  { opcode := x.e.opcode, kind := kind, status := status, handle := handle, user := x.e.user, ringPos := pos,
    r0 := rs.getD 0 0, r1 := rs.getD 1 0, r2 := rs.getD 2 0, r3 := rs.getD 3 0, r4 := rs.getD 4 0 }

/-- The vector of a mailbox, when IRQ_EN is 1 (R404). -/
def mbxIrq (m : Nat) (s : State) : State :=
  if bit (rd s (.mbx m) Reg.MBX_CTRL) 11 then sendMsi (rdField s (.mbx m) Reg.MBX_CTRL 10 0) s else s

/-- A mailbox acknowledgement DONE with its completion record (R402). -/
def mbxDone (m : Nat) (seq : Nat) (r : CplRec) (s : State) : State :=
  mbxIrq m (modMbx s m (fun b => { b with run := none, result := r, st := 2, status := r.status, seq := seq }))

/-- A mailbox acknowledgement PENDING: the record is owed to the next result ring slot (R402, R403). -/
def mbxPending (m : Nat) (x : Cmd) (s : State) : State :=
  let k := (mbxAt s m).owedTotal
  let s := modMbx s m (fun b => { b with run := none, st := 3, status := ST_PENDING, seq := x.seq, ticket := k % 64,
                                         owed := b.owed ++ [(k, x.e)], owedTotal := k + 1 })
  mbxIrq m (cntInc (.mbx m) Reg.MBX_CNT_PENDING s)

/-- 64 records of a mailbox are unreleased or owed (R403). -/
def mbxFull (s : State) (m : Nat) : Bool :=
  decide (64 ≤ ((mbxAt s m).owedTotal + 2 ^ 32 - rdField s (.mbx m) Reg.MBX_RES_HEAD 31 0) % 2 ^ 32)

/-- The SMBus request code of a command (Table 12.8). -/
def smbCode (op : Nat) : Nat :=
  if op = 0x04 then 3 else if op = 0x05 then 4 else if op = 0x47 then 5 else 7

/-- A ring command finished: its record is owed, and it stays incomplete until the record is written (R424). -/
def ringFinish (c pos kind status : Nat) (x : Cmd) (rs : List Word) (s : State) : State :=
  let s := modRings s c (fun g =>
    { g with cmds := g.cmds.map (fun y => if y.pos = pos then { y with st := 2 } else y) })
  let s := owe c (cmdRec x (handleOf s c) kind status (pos % 2 ^ 32) rs) x.e.irq (some pos) s
  if status = ST_DEP_FAILED then setEv (.chn c) Reg.CHN_EVENT Bit.CHN_EVENT_DEP_FAILED s else s

/-- A command answered with a record of a kind (R402, R423, R428). The record names the channel that a mailbox command names, or
the one that CHAN_CREATE has made. -/
def answerK (kind : Nat) (x : Cmd) (status : Nat) (rs : List Word) (s : State) : State :=
  match x.src with
  | .ring c => ringFinish c x.pos kind status x rs s
  | .mbx m =>
    let h := if (cmdSpec x.e.opcode).any (·.named) ∨ (x.e.opcode = 0x01 ∧ status = ST_OK) then x.e.handle else 0
    mbxDone m x.seq (cmdRec x h kind status 0xFFFFFFFF rs) s
  | .smb => { s with smbOut := s.smbOut ++ [(smbCode x.e.opcode, x.e.user.toNat % 256, status,
      rs.flatMap (fun w => leBytes 8 w.toNat))] }

/-- A command answered with its COMMAND record. -/
def answer (x : Cmd) (status : Nat) (rs : List Word) (s : State) : State := answerK 0 x status rs s

/-- A command of a mailbox that has been acknowledged PENDING finishes: its record waits for its slot (R403). -/
def mbxFinish (m k status : Nat) (rs : List Word) (s : State) : State :=
  match (mbxAt s m).owed.find? (fun p => p.1 == k) with
  | none => s
  | some (_, e) =>
    let x : Cmd := { src := .mbx m, e := e }
    let h := if (cmdSpec e.opcode).any (·.named) then e.handle else 0
    modMbx s m (fun b => { b with owed := b.owed.filter (fun p => p.1 != k),
                                  fin := b.fin ++ [(k, cmdRec x h 0 status (k % 64) rs)] })

/-- Every running mailbox command with an opcode finishes (only one can run for the boot commands). -/
def mbxFinishOp (op status : Nat) (rs : List Word) (s : State) : State :=
  s.mbxs.foldl (fun s p => ((mbxAt s p.1).owed.filter (fun q => q.2.opcode == op)).foldl
    (fun s q => mbxFinish p.1 q.1 status rs s) s) s

/-! ### Starting a command (R418) -/

/-- A ring command that may start now: the oldest one not started, with those before it started, a synchronous one before
it completed, its ORDER and its waits satisfied. -/
def ringNext (g : Rings) : Option RingCmd :=
  match g.cmds.find? (fun x => x.st == 0) with
  | none => none
  | some x =>
    let before := g.cmds.filter (fun y => decide (y.pos < x.pos))
    let prevSync := before.any (fun y => y.pos + 1 == x.pos && (match cmdSpec y.e.opcode with | some c => c.sync | none => true))
    if prevSync || (x.e.order && !before.isEmpty) || x.e.waits.any (fun t => !tokenDone g t x.pos) then none else some x

/-- The rachis serves mailboxes, rings and SMBus: the module is READY and an active core runs (R438, R500, R514). -/
def rachisServes (s : State) : Bool :=
  s.boot.stage == 3 && !s.rcv.stopped && !(domainAt s 0x7E).fenced && !(domainAt s 0x7F).fenced

/-- A command is at the point where it may start: the entry its mailbox runs, or the ring entry next to start of a channel
that starts commands, or an SMBus request while SMBus is served. -/
def cmdReady (s : State) (src : CmdSrc) (e : Entry) : Bool :=
  match src with
  | .mbx m => decide (m < 64) && (mbxAt s m).run.any (fun r => r.1 == e) && rachisServes s
  | .ring c =>
    let k := chanAt s c
    k.live && !k.fenced && !k.destroying && k.rcv.st != 2 && rachisServes s && (ringNext k.rings).any (fun x => x.e == e)
  | .smb => s.phys.pwrGood && rachisServes s

/-- The command a source gives, with its channel and count. -/
def cmdOf (s : State) (src : CmdSrc) (e : Entry) : Cmd :=
  match src with
  | .mbx m => { src := src, e := e, ch := e.handle % 4096,
                seq := match (mbxAt s m).run with | some r => r.2 | none => 0 }
  | .ring c => { src := src, e := e, ch := c, pos := match ringNext (chanAt s c).rings with | some x => x.pos | none => 0 }
  | .smb => { src := src, e := e, ch := e.handle % 4096 }

/-- LS_INIT of a control word, as the exponent (R164). -/
def lsInit (ctrl : Word) : Int := signedOf 8 (bits ctrl 23 16)

/-- L of a step as its settings and L before it give it (R152, R153, R164). -/
def beginLs (ctrl : Word) (load : Bool) (l : Int) : Int := if !bit ctrl 0 then 0 else if load then lsInit ctrl else l

/-- Step n of a channel starts with its first command (R16): the settings that take effect at a step not yet started are
fixed for it, and a pending LS_LOAD loads LS_INIT (R164), at once when every earlier step has its record. -/
def startStep (c n : Nat) (s : State) : State :=
  let t := (chanAt s c).trn
  if n ≤ t.stepCur then s
  else
    let ctrl := rd s (.chn c) Reg.CHN_NUM_CTRL
    let num : StepNum := {
      step := n, ctrl := ctrl, wnwThreshold := BitVec.ofNat 32 (rd s (.chn c) Reg.CHN_WNW_THRESHOLD).toNat,
      clipMax := BitVec.ofNat 32 (rd s (.chn c) Reg.CHN_CLIP_MAX).toNat, trnCtrl := rd s (.chn c) Reg.CHN_TRN_CTRL,
      load := t.lsLoad }
    let now := decide (n ≤ t.recorded + 1)
    modTrn s c (fun t => { t with
      stepCur := n, nums := (t.nums.filter (fun q => decide (t.recorded ≤ q.step))) ++ [num],
      lsExp := if now then beginLs ctrl t.lsLoad t.lsExp else t.lsExp, clean := if now && t.lsLoad then 0 else t.clean, lsLoad := false })

/-- The settings of a step: those fixed at its start. -/
def numOf (s : State) (c n : Nat) : StepNum :=
  match (chanAt s c).trn.nums.find? (fun q => q.step == n) with
  | some q => q
  | none => {
      step := n, ctrl := rd s (.chn c) Reg.CHN_NUM_CTRL, wnwThreshold := BitVec.ofNat 32 (rd s (.chn c) Reg.CHN_WNW_THRESHOLD).toNat,
      clipMax := BitVec.ofNat 32 (rd s (.chn c) Reg.CHN_CLIP_MAX).toNat, trnCtrl := rd s (.chn c) Reg.CHN_TRN_CTRL }

/-- A ring command marked started (R418, R433); it may be the first of its step. -/
def markStarted (x : Cmd) (s : State) : State :=
  match x.src with
  | .ring c =>
    let s1 := modRings s c (fun g =>
      { g with cmds := g.cmds.map (fun y => if y.pos = x.pos then { y with st := 1, startUs := s.us } else y) })
    match (chanAt s c).rings.cmds.find? (fun y => y.pos == x.pos) with
    | some y => startStep c y.step s1
    | none => s1
  | _ => s

/-- The checks every command passes first (R400, R406, R410, R419, R422): none, or the status it completes with. -/
def cmdCheck (s : State) (x : Cmd) : Option Nat :=
  match cmdSpec x.e.opcode with
  | none => some ST_BAD_COMMAND
  | some c =>
    match pathStatus x.src c with
    | some st => some st
    | none =>
      if !(argsOk c x.e && headOk x.src c x.e) then some ST_BAD_COMMAND
      else match x.src with
        | .ring k => if x.e.waits.any (fun t => tokenFailed (chanAt s k).rings t x.pos) then some ST_DEP_FAILED else none
        | _ =>
          if c.named then
            let k := chanAt s x.ch
            if !(k.live && k.gen == x.e.handle / 4096 && !k.destroying) then some ST_STALE_HANDLE
            else if k.fenced && !([0x02, 0x04, 0x05, 0x06, 0x09].contains c.op) then some ST_FENCED
            else none
          else none

/-- One command served: started, checked, and then its own effect; nothing happens when it is not its turn (log entry 8). -/
def serve (op : Nat) (src : CmdSrc) (e : Entry) (s : State) (f : Cmd → State → State) :
    Host.Outcome State Fault Refusal :=
  if cmdReady s src e && e.opcode == op then
    let x := cmdOf s src e
    let s1 := markStarted x s
    .next (match cmdCheck s x with
      | some st => answer x st [] s1
      | none => f x s1)
  else .next s

/-- A command is served when it is offered: it is its turn, and it passes the checks made of every command. -/
def served (op : Nat) (src : CmdSrc) (e : Entry) (s : State) : Bool :=
  cmdReady s src e && e.opcode == op && (cmdCheck s (cmdOf s src e)).isNone

/-- A command acknowledged PENDING by its mailbox and left running; with no room for its record it is refused with
ST_MBX_BUSY and nothing is done (R403). A ring command simply runs on. -/
def servePending (x : Cmd) (s : State) (f : State → State) : State :=
  match x.src with
  | .mbx m => if mbxFull s m then answer x ST_MBX_BUSY [] s else f (mbxPending m x s)
  | _ => f s

/-- An asynchronous command finishes: by its mailbox's result ring when it was acknowledged PENDING, else by its ring. -/
def finishAsync (x : Cmd) (status : Nat) (rs : List Word) (s : State) : State :=
  match x.src with
  | .mbx m =>
    match (mbxAt s m).owed.find? (fun p => p.2 == x.e) with
    | some (k, _) => mbxFinish m k status rs s
    | none => s
  | _ => answer x status rs s

/-- A running ring command of a channel, by its count. -/
def ringCmd (s : State) (c pos : Nat) : Option RingCmd :=
  (chanAt s c).rings.cmds.find? (fun y => y.pos == pos && y.st == 1)

/-- A running ring command finished by its count with a record of a kind; nothing when it no longer runs. -/
def finishRingK (c pos kind status : Nat) (rs : List Word) (s : State) : State :=
  match ringCmd s c pos with
  | none => s
  | some y => ringFinish c pos kind status { src := .ring c, e := y.e, ch := c, pos := pos } rs s

/-- A running ring command finished with its COMMAND record. -/
def finishRing (c pos status : Nat) (rs : List Word) (s : State) : State := finishRingK c pos 0 status rs s

end Sys2Proof.Machine
end

