-- ==== Sys2Proof/Machine/Place.lean ====
section
/-! DEFINITION. Frames, granule records, objects and the bytes of device memory (spec/06 "Where an address lives", spec/07).
Reads and writes of object bytes by the engines of the module are here; the tiller's requests go through parts. -/

namespace Sys2Proof.Machine

open Sys2Proof

/-! ### Frames (R169, R170, R218) -/

/-- A frame address: BASE, FIELD or GROUP (or HALF for a spread deep-tier frame), LOCAL. -/
def frameAddr (tier base field half : Nat) (loc : Bool) : Nat :=
  if tier = 1 then base + (if loc then field * 2 ^ 25 + 2 ^ 31 else 0)
  else base + (if loc then field * 2 ^ 25 + 2 ^ 31 else half * 2 ^ 24)

/-- Home and local block of block k of a frame. Homes 0–15 are stacks, 16–47 controllers. -/
def frameBlock (tier f k : Nat) : Nat × Nat :=
  let loc := f.testBit 31
  if tier = 1 then
    let base := nbits f 24 0
    let field := nbits f 26 25
    if loc then (4 * field + (k + base / 4) % 4, base + k / 4)
    else (k ^^^ (base % 16), base)
  else
    let base := nbits f 23 0
    let group := nbits f 26 25
    if loc then (16 + 8 * group + (k + base / 2) % 8, base + k / 8)
    else (16 + 16 * nbits f 24 24 + ((base % 16) ^^^ k), base)

/-- Occupancy keys of a frame: (group of four stacks or of eight controllers, local block). -/
def frameUses (tier f : Nat) : List Nat :=
  let loc := f.testBit 31
  if tier = 1 then
    let base := nbits f 24 0
    if loc then (List.range 4).map (fun i => nbits f 26 25 * 2 ^ 25 + base + i)
    else (List.range 4).map (fun g => g * 2 ^ 25 + base)
  else
    let base := nbits f 23 0
    if loc then (List.range 2).map (fun i => (4 + nbits f 26 25) * 2 ^ 25 + base + i)
    else (List.range 2).map (fun i => (4 + 2 * nbits f 24 24 + i) * 2 ^ 25 + base)

/-- Stacked local blocks below the system region (R215), and deep-tier local blocks. -/
def stackBlocks : Nat := 25149440
def deepBlocks : Nat := 16777216

/-- Frames of a tier in use, and in all (R215, R235). -/
def framesUsed (s : State) (tier : Nat) : Nat :=
  let n := (s.used.filter (fun p => decide (p.1 / 2 ^ 25 < 4) == (tier == 1))).length
  if tier = 1 then n / 4 else n / 2
def framesTotal (tier : Nat) : Nat := if tier = 1 then stackBlocks else 2 * deepBlocks
def framesFree (s : State) (tier : Nat) : Nat := framesTotal tier - framesUsed s tier

/-- The n-th candidate frame of a tier and interleave, by rising base (log entry 9: the lowest free frames are taken). -/
def candFrame (tier field : Nat) (loc : Bool) (n : Nat) : Option Nat :=
  if tier = 1 then
    if loc then (if 4 * n < stackBlocks then some (frameAddr 1 (4 * n) field 0 true) else none)
    else if n < stackBlocks then some (frameAddr 1 n 0 0 false) else none
  else if loc then (if 2 * n < deepBlocks then some (frameAddr 2 (2 * n) field 0 true) else none)
  else if n < deepBlocks then some (frameAddr 2 n 0 0 false)
  else if n < 2 * deepBlocks then some (frameAddr 2 (n - deepBlocks) 0 1 false) else none

/-- n free frames from candidate c on, with the occupancy that holds them; none when they run out. -/
def takeFrames (tier field : Nat) (loc : Bool) : Nat → Nat → Nat → SMap Bool → Option (List Nat × SMap Bool)
  | _, 0, _, used => some ([], used)
  | 0, _ + 1, _, _ => none
  | fuel + 1, n + 1, c, used =>
    match candFrame tier field loc c with
    | none => none
    | some f =>
      let ks := frameUses tier f
      if ks.any (fun k => smGet (fun _ => false) used k) then takeFrames tier field loc fuel (n + 1) (c + 1) used
      else
        let used' := ks.foldl (fun u k => smInsert k true u) used
        match takeFrames tier field loc fuel n (c + 1) used' with
        | none => none
        | some (fs, u) => some (f :: fs, u)

/-- n frames of a tier and interleave taken. -/
def allocFrames (s : State) (tier field : Nat) (loc : Bool) (n : Nat) : Option (List Nat × State) :=
  match takeFrames tier field loc (2 ^ 26) n 0 s.used with
  | none => none
  | some (fs, u) => some (fs, { s with used := u })

/-- A frame freed. -/
def freeFrame (s : State) (tier f : Nat) : State :=
  { s with used := (frameUses tier f).foldl (fun u k => smErase k u) s.used }

/-! ### Bytes of DRAM -/

/-- Key of byte b of a local block of a home. -/
def physKey (home l b : Nat) : Nat := (home * 2 ^ 25 + l) * 4096 + b
/-- The home, local block and codeword of a byte key. -/
def keyHome (k : Nat) : Nat := k / 4096 / 2 ^ 25
def keyBlock (k : Nat) : Nat := k / 4096 % 2 ^ 25
def keyCodeword (k : Nat) : Nat := k % 4096 / 64

def isPoison (s : State) (cw : Nat) : Bool := smGet (fun _ => false) s.poison cw
def setPoison (s : State) (cw : Nat) (b : Bool) : State :=
  { s with poison := smSet (fun _ => false) s.poison cw b }

/-- A local block cleared: its bytes zero, nothing poisoned, its slot plain. -/
def clearBlock (s : State) (home l : Nat) : State :=
  { s with dram := smClearRun s.dram (physKey home l 0) 4096,
           poison := smClearRun s.poison (physKey home l 0 / 64) 64,
           stackMap := if home < 16 then smModify (fun _ => {}) s.stackMap home (fun x => { x with cells := smClearRun x.cells (l * 64) 64 })
                       else s.stackMap,
           deeps := if home < 16 then s.deeps
                    else smModify (fun _ => {}) s.deeps (home - 16) (fun x => { x with cells := smClearRun x.cells (l * 64) 64 }),
           husk := smErase (home * 2 ^ 25 + l) s.husk, huskBad := smErase (home * 2 ^ 25 + l) s.huskBad }
/-- A frame cleared. -/
def clearFrame (s : State) (tier f : Nat) : State :=
  (List.range 16).foldl (fun s k => let p := frameBlock tier f k; clearBlock s p.1 p.2) s

/-! ### Objects, records and the copy an access takes -/

/-- Granules of an object. -/
def objGranules (o : Obj) : Nat := o.size / 65536
def granAt (s : State) (o : Obj) (g : Nat) : Granule := smGet (fun _ => {}) s.grans (o.mapIndex + g)
def setGran (s : State) (o : Obj) (g : Nat) (v : Granule) : State :=
  { s with grans := smSet (fun _ => {}) s.grans (o.mapIndex + g) v }

/-- VERSION after a change of the entry or of a frame (R222, R490). -/
def bumpVersion (o : Obj) : Obj := { o with version := satAdd 32 o.version 1 }

/-- The channel may read the object (R229). -/
def mayRead (s : State) (c : Nat) (o : Obj) : Bool :=
  o.valid && ((o.owner == c && !o.orphan) ||
    (o.shared && (smGet (fun _ => {}) s.shareGroups o.group).members.contains c))
/-- The channel owns the object. -/
def ownsObj (c : Nat) (o : Obj) : Bool := o.valid && o.owner == c && !o.orphan
/-- The channel may write the object (R229). -/
def mayWrite (c : Nat) (o : Obj) : Bool := ownsObj c o && o.mode != 1

/-- Why a channel's read or write of an object is refused (R229, R232): its status, and the cause of Table 7.13. A member's write to a
READ_ONLY object gets ST_RO_WRITE as its owner's does. -/
def refusal (s : State) (c : Nat) (wrt : Bool) (o : Obj) : Option (Nat × Nat) :=
  if !mayRead s c o then some (ST_NO_ACCESS, 2)
  else if wrt && o.mode == 1 then some (ST_RO_WRITE, 1)
  else if wrt && !mayWrite c o then some (ST_NO_ACCESS, 2) else none

/-- A frame is local to a requester's field: a field-local stacked frame, or a group-local deep-tier frame, of that field. -/
def localTo (tier f fld : Nat) : Bool := f.testBit 31 && nbits f 26 25 == fld && (tier == 1 || tier == 2)

/-- The copy a read of a granule is served from: (tier, frame, it is the replica) (R223, R224). -/
def readCopy (o : Obj) (r : Granule) (fld : Nat) : Nat × Nat × Bool :=
  let home := (r.homeTier, r.home, false)
  let repl := (r.replTier, r.repl, true)
  if o.mode = 2 then (if r.replValid then repl else home)
  else if o.mode = 1 ∧ r.replValid then
    if (r.replTier = 1 ∧ r.homeTier = 2) ∨ (localTo r.replTier r.repl fld ∧ !localTo r.homeTier r.home fld) then repl
    else home
  else home

/-- The copy a write goes to (Table 7.5). -/
def writeCopy (o : Obj) (r : Granule) : Nat × Nat × Bool :=
  if o.mode = 2 ∧ r.replValid then (r.replTier, r.repl, true) else (r.homeTier, r.home, false)

/-- Key of byte b of a granule in the copy given. -/
def granKey (tier f b : Nat) : Nat :=
  let p := frameBlock tier f (b / 4096)
  physKey p.1 p.2 (b % 4096)

/-- A run of object bytes cut at block boundaries: (offset, length). -/
def cutBlocks : Nat → Nat → Nat → List (Nat × Nat)
  | 0, _, _ => []
  | fuel + 1, off, n =>
    if n = 0 then []
    else
      let k := min n (4096 - off % 4096)
      (off, k) :: cutBlocks fuel (off + k) (n - k)

/-- The keys of a run of an object's bytes as a reader of a field sees them: (first key, length, granule, it is the
replica). -/
def readRuns (s : State) (o : Obj) (fld off n : Nat) : List (Nat × Nat × Nat × Bool) :=
  (cutBlocks (n / 4096 + 2) off n).map (fun p =>
    let g := p.1 / 65536
    let c := readCopy o (granAt s o g) fld
    (granKey c.1 c.2.1 (p.1 % 65536), p.2, g, c.2.2))

/-- DIRTY set by a write to a clean write-back granule (R225). -/
def markDirty (s : State) (oi g : Nat) : State :=
  let o := objAt s oi
  let r := granAt s o g
  if o.mode = 2 ∧ r.replValid ∧ !r.dirty then
    modObj (setGran s o g { r with dirty := true }) oi (fun o => { o with dirtyCount := o.dirtyCount + 1 })
  else s

/-- The keys of a run of object bytes as a writer sees them. -/
def writeRuns (s : State) (o : Obj) (off n : Nat) : List (Nat × Nat × Nat) :=
  (cutBlocks (n / 4096 + 2) off n).map (fun p =>
    let c := writeCopy o (granAt s o (p.1 / 65536))
    (granKey c.1 c.2.1 (p.1 % 65536), p.1 - off, p.2))

/-- The granules a run of an object's bytes touches. -/
def granulesOf (off n : Nat) : List Nat := (List.range ((off + n + 65535) / 65536 - off / 65536)).map (· + off / 65536)

/-- A field of an entry recorded in PLC_FAULT_DA and PLC_FAULT_SRC, with the event and count of its cause (R217, R232,
R538): 1 RO_WRITE, 2 NO_ACCESS, 3 UNMAPPED, 4 ENC_REFUSED, 5 SYSTEM_REGION. -/
def plcFault (src unit : Nat) (write : Bool) (cause ch : Nat) (oi : Option Nat) (da : Nat) (s : State) : State :=
  let w := put src 3 0 + put unit 10 4 + putB write 11 + put cause 14 12 +
    (if src ≤ 2 then put ch 27 16 else 0) + (match oi with | some o => put o 48 32 + putB true 49 | none => 0)
  let s := wr (wr s .plc Reg.PLC_FAULT_DA (word da)) .plc Reg.PLC_FAULT_SRC (word w)
  if cause = 1 then cntInc .plc Reg.PLC_CNT_RO_WRITE (setEv .plc Reg.PLC_EVENT Bit.PLC_EVENT_RO_WRITE s)
  else if cause = 2 then setEv .plc Reg.PLC_EVENT Bit.PLC_EVENT_NO_ACCESS s
  else cntInc .plc Reg.PLC_CNT_UNMAPPED (setEv .plc Reg.PLC_EVENT Bit.PLC_EVENT_UNMAPPED s)

/-- The live object that holds a device address. -/
def objOfDa (s : State) (da : Nat) : Option (Nat × Obj) :=
  s.objs.find? (fun p => p.2.valid && decide (p.2.baseDa ≤ da) && decide (da < p.2.baseDa + p.2.size))

/-- First device address of the system region, and the end of the range (R215). -/
def systemDa : Nat := 0x37FC0000000
def endDa : Nat := 0x38000000000

/-! ### Allocation -/

/-- Intervals (start, length) sorted by start. -/
def insertIv (x : Nat × Nat) : List (Nat × Nat) → List (Nat × Nat)
  | [] => [x]
  | y :: r => if x.1 ≤ y.1 then x :: y :: r else y :: insertIv x r
def sortIv (l : List (Nat × Nat)) : List (Nat × Nat) := l.foldr insertIv []

/-- The lowest gap of a length between sorted intervals, below a limit. -/
def lowestGap (len limit : Nat) : Nat → List (Nat × Nat) → Option Nat
  | at_, [] => if at_ + len ≤ limit then some at_ else none
  | at_, (a, n) :: r => if at_ + len ≤ a then some at_ else lowestGap len limit (max at_ (a + n)) r

/-- Live objects. -/
def liveObjs (s : State) : List (Nat × Obj) := s.objs.filter (fun p => p.2.valid)

/-- The lowest free object index below 131,072 (log entry 9). -/
def freeObj (s : State) : Option Nat :=
  lowestGap 1 131072 0 (sortIv ((liveObjs s).map (fun p => (p.1, 1))))

/-- Granule records in all (R220). -/
def maxRecords : Nat := 58703872

/-- Frames counted against a channel's quota. -/
def modUsed (s : State) (c tier : Nat) (f : Nat → Nat) : State :=
  modChan s c (fun k => { k with used := if tier = 1 then (f k.used.1, k.used.2) else (k.used.1, f k.used.2) })
def quotaOk (s : State) (c tier n : Nat) : Bool :=
  let k := chanAt s c
  if tier = 1 then k.used.1 + n ≤ k.quota.1 else k.used.2 + n ≤ k.quota.2

/-- What an object is created with. -/
structure NewObj where
  size : Nat
  dataBytes : Nat
  mode : Nat := 0
  tier : Nat := 1
  loc : Bool := false
  field : Nat := 0
  compress : Bool := false
  enc : Bool := false
  keySlot : Nat := 0

/-- An object created for a channel in the frames that an allocation gives, in the order of R235: its index and base, or the
failing status. -/
def createObjBy (alloc : State → Nat → Option (List Nat × State)) (s : State) (c : Nat) (n : NewObj) :
    Except Nat (Nat × Nat × State) :=
  let g := n.size / 65536
  if !quotaOk s c n.tier g then .error ST_QUOTA
  else match freeObj s, lowestGap g maxRecords 0 (sortIv ((liveObjs s).map (fun p => (p.2.mapIndex, objGranules p.2)))) with
    | some oi, some mi =>
      match alloc s g with
      | none => .error ST_NO_SPACE
      | some (fs, s1) =>
        match lowestGap n.size systemDa 0 (sortIv ((liveObjs s).map (fun p => (p.2.baseDa, p.2.size)))) with
        | none => .error ST_NO_RANGE
        | some da =>
          let o : Obj := { valid := true, mode := n.mode, homeTier := n.tier, homeLocal := n.loc, homeField := n.field,
                           compress := n.compress, enc := n.enc, keySlot := n.keySlot, owner := c, baseDa := da,
                           size := n.size, dataBytes := n.dataBytes, mapIndex := mi }
          let s2 := fs.foldl (fun s f => clearFrame s n.tier f) s1
          let s3 := { s2 with grans := smWriteRun (fun _ => {}) s2.grans mi
                                (fs.map (fun f => ({ home := f, homeTier := n.tier } : Granule))) }
          .ok (oi, da, modUsed (setObj s3 oi o) c n.tier (· + g))
    | _, _ => .error ST_NO_SPACE

/-- An object created in the lowest free frames. -/
def createObj (s : State) (c : Nat) (n : NewObj) : Except Nat (Nat × Nat × State) :=
  createObjBy (fun s g => allocFrames s n.tier n.field n.loc g) s c n

/-- The arrays that a live shard set has (Table 9.1, R302): M1 with an optimizer that uses it, no masters, moments or staging in
host-resident mode, no staging in ping-pong mode. -/
def hasM1 (ts : List TensorDesc) : Bool := ts.any (fun d => d.opt != 0)
def setArrays (x : ShardSet) : List Nat :=
  if !x.valid then []
  else [x.grad, x.work, x.hyperObj, x.progress] ++
    (if x.hostRes then [] else x.master :: (if hasM1 x.tensors then [x.m1] else []) ++ x.m2 ::
      (if x.pingpong then [] else [x.staging]))
/-- An object is an array of a live shard set, or of a mapping that a re-shard makes or replaces (R274, R357). -/
def isArray (s : State) (oi : Nat) : Bool :=
  s.links.reshards.any (fun p => p.2.newObjs.contains oi) ||
  s.chans.any (fun p => p.2.trn.oldObjs.contains oi || p.2.trn.sets.any (fun x => (setArrays x).contains oi))

/-- A share group that no live object is shared in is held by no channel (R540). -/
def freeShare (g : Nat) (s : State) : State :=
  if (liveObjs s).any (fun p => p.2.shared && p.2.group == g) then s
  else { s with shareGroups := smModify (fun _ => {}) s.shareGroups g (fun r => { r with holder := none }) }

/-- The frames of an object freed, its records cleared, its entry free; its owner's quota is credited unless orphaned. -/
def releaseObj (s : State) (oi : Nat) : State :=
  let o := objAt s oi
  let n := objGranules o
  let credit (s : State) (tier : Nat) : State := if o.orphan then s else modUsed s o.owner tier (· - 1)
  let s := (List.range n).foldl (fun s g =>
    let r := granAt s o g
    let s := credit (freeFrame s r.homeTier r.home) r.homeTier
    if r.replTier ≠ 0 then credit (freeFrame s r.replTier r.repl) r.replTier else s) s
  let s := setObj { s with grans := smClearRun s.grans o.mapIndex n } oi {}
  if o.shared then freeShare o.group s else s

end Sys2Proof.Machine
end

