-- ==== Sys2Proof/Machine/Ecc.lean ====
section
/-! DEFINITION. Banks and error correction of the stacks and the deep tier, and the bytes of DRAM as they are read and written through it
(R171, R190, R205 to R208, R243, R246). A home is numbered 0–15 for stacks and 16–47 for controllers. -/

namespace Sys2Proof.Machine

open Sys2Proof

/-! ### Homes and banks -/

/-- The register window of a home. -/
def homeBlk (h : Nat) : Blk := if h < 16 then .yst h else .dtr (h - 16)
/-- Requests admitted at a home. -/
def poolOf (s : State) (h : Nat) : List (Nat × Nat) := if h < 16 then (stackAt s h).pool else (deepAt s (h - 16)).pool
/-- Position of a home's record in DETAIL: its window's number at bit 64 (Table 13.11). -/
def homeDetail (h : Nat) (w : Word) : Nat := w.toNat + (if h < 16 then h else h - 16) * 2 ^ 64
/-- SOURCE of a home (Table 13.11). -/
def homeSource (h : Nat) : Nat := if h < 16 then 2 else 3

/-- The reset domain of a home (Table 13.3). -/
def homeDomain (h : Nat) : Nat := if h < 16 then 0x20 + h else 0x30 + (h - 16) / 8

/-- A home answers poisoned and applies no write: its domain is flagged, fenced or in reset (R186, R247, R441). -/
def homeDown (s : State) (h : Nat) : Bool :=
  let d := domainAt s (homeDomain h)
  d.flagged || d.fenced

/-- Bank of a local block: a stack's channel and bank (R171), a controller's sub-channel, rank and bank (R243). -/
def stackBank (l : Nat) : Nat × Nat :=
  (nbits l 4 0 ^^^ nbits l 14 10 ^^^ nbits l 24 20, nbits l 9 5 ^^^ nbits l 19 15)
def deepBank (l : Nat) : Nat × Nat × Nat := (nbits l 1 0 ^^^ nbits l 9 8, nbits l 2 2 ^^^ nbits l 10 10, nbits l 6 3 ^^^ nbits l 14 11)
/-- A bank of a home as one number. -/
def bankNo (home l : Nat) : Nat :=
  if home < 16 then (stackBank l).1 * 32 + (stackBank l).2
  else (deepBank l).1 * 32 + (deepBank l).2.1 * 16 + (deepBank l).2.2


/-! ### Error correction (R205 to R208, R246) -/

/-- A codeword's place in its ECC_LAST register: of key k of its first byte. -/
def eccPlace (h k : Nat) : Nat :=
  let l := keyBlock k
  if h < 16 then put (stackBank l).1 4 0 + put (stackBank l).2 9 5 + put (l / 1024) 24 10 + put (keyCodeword k) 30 25
  else put (deepBank l).1 1 0 + put (deepBank l).2.1 2 2 + put (deepBank l).2.2 6 3 + put (2 * (l / 128)) 24 7 + put (keyCodeword k) 30 25

/-- The die of a stack that holds a symbol of a codeword of a channel (R205). -/
def dieOf (channel sym : Nat) : Nat := channel / 16 * 8 + (if sym < 64 then sym / 8 else (sym - 64) / 2)

/-- Erased dies in the group of eight that holds a codeword of a stack (R205). -/
def erasedDies (s : State) (h k : Nat) : Nat :=
  let ch := (stackBank (keyBlock k)).1
  ((List.range 8).filter (fun i => bit (rd s (.yst h) Reg.YST_DIE_ERASE) (ch / 16 * 8 + i))).length

/-- The symbol errors outside erased dies can be corrected (R205, R246). -/
def correctable (s : State) (h k : Nat) (es : List Nat) : Bool :=
  if 16 ≤ h then decide (es.length ≤ 4)
  else
    let ch := (stackBank (keyBlock k)).1
    let erased (d : Nat) : Bool := bit (rd s (.yst h) Reg.YST_DIE_ERASE) d
    decide (10 * erasedDies s h k + 2 * (es.filter (fun y => !erased (dieOf ch y))).length ≤ 16)

/-- Symbol errors that stand in the cells of the codeword of a number (its key divided by 64). -/
def cellErrs (s : State) (cw : Nat) : List (Nat × Nat) :=
  let h := cw / 2 ^ 31
  smGet (fun _ => []) (if h < 16 then (stackAt s h).cells else (deepAt s (h - 16)).cells) (cw % 2 ^ 31)
def setCells (s : State) (cw : Nat) (es : List (Nat × Nat)) : State :=
  let h := cw / 2 ^ 31
  if h < 16 then modStack s h (fun x => { x with cells := smSet (fun _ => []) x.cells (cw % 2 ^ 31) es })
  else modDeep s (h - 16) (fun x => { x with cells := smSet (fun _ => []) x.cells (cw % 2 ^ 31) es })

/-- Symbol errors that come about in cells of a home (log entry 124). A position past the code, or an error of zero, is none. -/
def plantErrs (h : Nat) (errs : List (Nat × List (Nat × Nat))) (s : State) : State :=
  let n := if h < 16 then 80 else 72
  (errs.filter (fun e => e.1 / 2 ^ 31 == h)).foldl (fun s e =>
    let es := e.2.filter (fun x => decide (x.1 < n) && decide (x.2 % 256 ≠ 0))
    if es.isEmpty then s else setCells s e.1 (cellErrs s e.1 ++ es)) s

/-- A codeword read, of key k of its first byte: its symbol errors are corrected, counted, attributed and written back, or it is
poisoned and logged (R206 to R208). A codeword that already holds the poison pattern stays so. DOMAIN of the log record is 0xFF, none
(log entry 125). -/
def eccRead (h k : Nat) (s : State) : State :=
  let es := ((cellErrs s (k / 64)).map (·.1)).eraseDups
  let b := homeBlk h
  let last := if h < 16 then Reg.YST_ECC_LAST else Reg.DTR_ECC_LAST
  if isPoison s (k / 64) then s
  else if correctable s h k es then
    if es.isEmpty then s
    else
      let s := setCells s (k / 64) []
      if h < 16 then
        let dies := es.map (dieOf (stackBank (keyBlock k)).1)
        let one := dies.eraseDups.length == 1
        let s := wr s b last (word (eccPlace h k + (if one then put (dies.headD 0) 35 32 + 2 ^ 36 else 0)))
        let s := modStack s h (fun x => { x with dieCe := dies.foldl (fun m d => smModify (fun _ => 0) m d (· + 1)) x.dieCe })
        cntInc b Reg.YST_CNT_CE_SYM (setEv b Reg.YST_EVENT Bit.YST_EVENT_CE s)
      else cntInc b Reg.DTR_CNT_CE (setEv b Reg.DTR_EVENT Bit.DTR_EVENT_CE (wr s b last (word (eccPlace h k))))
  else
    let w := word (eccPlace h k + 2 ^ 31)
    let s := wr (setPoison (setCells s (k / 64) []) (k / 64) true) b last w
    let s := if h < 16 then cntInc b Reg.YST_CNT_UE (setEv b Reg.YST_EVENT Bit.YST_EVENT_UE s)
             else cntInc b Reg.DTR_CNT_UE (setEv b Reg.DTR_EVENT Bit.DTR_EVENT_UE s)
    logRec { source := homeSource h, cause := 1, severity := 2, detail := homeDetail h w } s

/-- The code can do nothing for a codeword of a stack even without an error: two of its dies are erased (R205). -/
def eccLost (s : State) (cw : Nat) : Bool := decide (cw / 2 ^ 31 < 16) && decide (2 ≤ erasedDies s (cw / 2 ^ 31) (cw * 64))

/-- The codewords of n bytes at a key read through the code. -/
def eccScan (k n : Nat) (s : State) : State :=
  (((List.range ((k + n + 63) / 64 - k / 64)).map (· + k / 64)).filter (fun cw => !(cellErrs s cw).isEmpty || eccLost s cw)).foldl
    (fun s cw => eccRead (cw / 2 ^ 31) (cw * 64) s) s

/-! ### Reads and writes of bytes (R190, R208) -/

/-- A piece of a write or read: the key of its first byte and its bytes, inside one codeword. -/
abbrev Piece := Nat × List Byte

/-- A run of bytes cut at codeword boundaries. -/
def cutPieces : Nat → Nat → List Byte → List Piece
  | 0, _, _ => []
  | fuel + 1, k, bs =>
    if bs.isEmpty then []
    else
      let n := 64 - k % 64
      (k, bs.take n) :: cutPieces fuel (k + n) (bs.drop n)

/-- Bytes of a codeword that the pieces of a write cover. -/
def cwCover (ps : List Piece) (cw : Nat) : Nat :=
  ((ps.filter (fun p => p.1 / 64 == cw)).flatMap (fun p => (List.range p.2.length).map (fun i => p.1 + i))).eraseDups.length

/-- A write applied codeword by codeword (R190, R208): one covered only in part is read first, and where it is poisoned it is not
applied and the write is acknowledged poisoned; one covered in full is written and reads clean. -/
def writePieces (s : State) (ps : List Piece) : State × Bool :=
  let s := (ps.filter (fun p => decide (cwCover ps (p.1 / 64) < 64))).foldl (fun s p => eccScan p.1 p.2.length s) s
  ps.foldl (fun a p =>
    let cw := p.1 / 64
    if isPoison s cw && decide (cwCover ps cw < 64) then (a.1, true)
    else
      let s1 := if isPoison a.1 cw then setPoison a.1 cw false else a.1
      let s1 := if (cellErrs s1 cw).isEmpty then s1 else setCells s1 cw []
      ({ s1 with dram := smWriteRun zeroByte s1.dram p.1 p.2 }, a.2)) (s, false)

/-- n bytes read at a key inside one local block, and whether a codeword of them is poisoned. -/
def readKeys (s : State) (k n : Nat) : List Byte × Bool :=
  (smReadRun zeroByte s.dram k n, (List.range ((k + n + 63) / 64 - k / 64)).any (fun i => isPoison s (k / 64 + i)))

/-- The same read through the code, with what it corrects or finds uncorrectable (R207, R208). -/
def readCells (k n : Nat) (s : State) : State × List Byte × Bool := let s := eccScan k n s; (s, readKeys s k n)

end Sys2Proof.Machine
end

