-- ==== Sys2Proof/Machine/Husk.lean ====
section
/-! DEFINITION. Husk compression (spec/08): the block format, the compressor and the expander, husk streams, and the slots of
the deep-tier edge. -/

namespace Sys2Proof.Machine

open Sys2Proof

/-! ### Compressor (R253 to R256) -/

/-- The plane string of w planes, zero-padded. -/
def huskPlanes (data : List Byte) (w : Nat) : List Byte :=
  let q := ceilDiv data.length w
  (List.range w).flatMap (fun p => (List.range q).map (fun i => data.getD (w * i + p) 0))

/-- Bytes equal to b at the start of a list, at most n. -/
def runOf (b : Byte) : Nat → List Byte → Nat
  | 0, _ => 0
  | _, [] => 0
  | n + 1, x :: r => if x = b then runOf b n r + 1 else 0

/-- Zero bytes, and equal bytes, at the start of a list, at most 64. -/
def zerosAt (l : List Byte) : Nat := runOf 0 64 l
def equalsAt : List Byte → Nat
  | [] => 0
  | x :: r => runOf x 63 r + 1

/-- Bytes of a literal: from the second on, those at which no run begins, at most n. -/
def literalLen : Nat → List Byte → Nat
  | 0, _ => 0
  | _, [] => 0
  | n + 1, x :: r => if zerosAt (x :: r) < 2 ∧ equalsAt (x :: r) < 3 then literalLen n r + 1 else 0

/-- encode of R256; fuel bounds the tokens. -/
def huskEncode : Nat → List Byte → List Byte
  | 0, _ => []
  | _, [] => []
  | fuel + 1, x :: r =>
    let z := zerosAt (x :: r)
    let e := equalsAt (x :: r)
    if 2 ≤ z then BitVec.ofNat 8 (0x40 + (z - 1)) :: huskEncode fuel ((x :: r).drop z)
    else if 3 ≤ e then BitVec.ofNat 8 (0x80 + (e - 1)) :: x :: huskEncode fuel ((x :: r).drop e)
    else
      let n := literalLen 63 r + 1
      BitVec.ofNat 8 (n - 1) :: (x :: r).take n ++ huskEncode fuel ((x :: r).drop n)

/-- A husk block header (Table 8.2). -/
def huskHeader (method width n payload crc tag : Nat) : List Byte :=
  leBytes 4 (put method 1 0 + put width 3 2 + put 1 7 4 + put n 20 8) ++ leBytes 4 (put payload 12 0) ++ leBytes 4 crc ++
    leBytes 4 tag

/-- husk_compress of R256: METHOD and the stored bytes of the block. -/
def huskCompress (data : List Byte) (tag : Nat) : Nat × List Byte :=
  let n := data.length
  let crc := crc32c data
  if data.all (fun b => b == 0) then (1, huskHeader 1 0 n 0 crc tag)
  else
    let t1 := huskEncode n (huskPlanes data 1)
    let t2 := huskEncode (n + 2) (huskPlanes data 2)
    let t4 := huskEncode (n + 4) (huskPlanes data 4)
    let b := if t2.length < t1.length then (1, t2) else (0, t1)
    let b := if t4.length < b.2.length then (2, t4) else b
    if n ≤ b.2.length + 16 then (0, huskHeader 0 0 n n crc tag ++ data)
    else (2, huskHeader 2 b.1 n b.2.length crc tag ++ b.2)

/-! ### Expander (R253, R259, R260) -/

/-- Tokens decoded: the bytes appended, a token of kind 11 was met, a token's bytes ran past the end. -/
def huskDecode : Nat → List Byte → List Byte × Bool × Bool
  | 0, _ => ([], false, false)
  | _, [] => ([], false, false)
  | fuel + 1, c :: r =>
    let n := c.toNat % 64 + 1
    match c.toNat / 64 with
    | 0 =>
      if r.length < n then (r, false, true)
      else let x := huskDecode fuel (r.drop n); (r.take n ++ x.1, x.2)
    | 1 => let x := huskDecode fuel r; (List.replicate n 0 ++ x.1, x.2)
    | 2 =>
      match r with
      | [] => ([], false, true)
      | b :: r' => let x := huskDecode fuel r'; (List.replicate n b ++ x.1, x.2)
    | _ => let x := huskDecode fuel r; (x.1, true, x.2.2)

/-- A list brought to a length by dropping or by zero bytes. -/
def fitTo (n : Nat) (l : List Byte) : List Byte := l.take n ++ List.replicate (n - l.length) 0

/-- Expanded bytes from a plane string (R253). -/
def unplanes (s : List Byte) (w n : Nat) : List Byte :=
  let q := ceilDiv n w
  (List.range n).map (fun i => s.getD (i % w * q + i / w) 0)

/-- A block expanded from the bytes that carry it, with the length and tag its position requires and its LEN16 in a stream:
the bytes delivered and the cause of HSK_EDGE_LAST, 0 for none. -/
def huskExpand (carry : List Byte) (req tag : Nat) (len16 : Option Nat) : List Byte × Nat :=
  let w0 := leValue (carry.take 4)
  let w1 := leValue ((carry.drop 4).take 4)
  let method := nbits w0 1 0
  let width := nbits w0 3 2
  let el := nbits w0 20 8
  let plen := nbits w1 12 0
  let w := 2 ^ width
  let lp := w * ceilDiv el w
  let payload := (carry.drop 16).take plen
  let ended := decide (carry.length < 16 + plen)
  let dec := huskDecode (plen + 1) payload
  let format := nbits w0 7 4 != 1 || method == 3 || (if method == 2 then width == 3 else width != 0) || el == 0 ||
    decide (4096 < el) || nbits w0 31 21 != 0 || nbits w1 31 13 != 0 || (method == 2 && dec.2.1) ||
    len16.any (fun l => l != ceilDiv (16 + plen) 16) || el != req
  if format then (List.replicate req 0, 4)
  else
    let isOver := ended || (method == 2 && decide (lp < dec.1.length)) || (method == 0 && decide (el < plen)) ||
      (method == 1 && plen != 0)
    let under := (method == 2 && (decide (dec.1.length < lp) || dec.2.2)) || (method == 0 && decide (plen < el))
    let out := if method == 2 then unplanes (fitTo lp dec.1) w el else if method == 0 then fitTo el payload
               else List.replicate el 0
    if isOver then (out, 1)
    else if under then (out, 2)
    else if leValue ((carry.drop 12).take 4) ≠ tag then (out, 5)
    else if crc32c out ≠ leValue ((carry.drop 8).take 4) then (out, 3)
    else (out, 0)

/-- The status that a failed block gives its consumer (R261). -/
def huskStatus (cause : Nat) : Nat := if cause = 1 ∨ cause = 2 then ST_HUSK_SIZE else ST_HUSK_CRC

/-! ### Streams (R258) -/

/-- Bytes of data cut into blocks of 4,096. -/
def huskBlocksOf (data : List Byte) : List (List Byte) := chunksOf 4096 (data.length / 4096 + 1) data

/-- The header and index table of a stream are sound (R258). -/
def huskStreamOk (st : List Byte) : Bool :=
  let n := leValue ((st.drop 8).take 8)
  let exp := leValue ((st.drop 16).take 8)
  let off := leValue ((st.drop 24).take 8)
  decide (64 ≤ st.length) && leValue (st.take 4) == 0x4B535548 && leValue ((st.drop 4).take 4) == 1 &&
  n == ceilDiv exp 4096 && decide (off % 16 = 0) && decide (64 + 8 * n ≤ off) && decide (64 + 8 * n ≤ st.length) &&
  ((st.drop 0x28).take 20).all (fun b => b == 0) &&
  crc32c (st.take 60 ++ [0, 0, 0, 0] ++ (st.drop 64).take (8 * n)) == leValue ((st.drop 60).take 4) &&
  (List.range n).all (fun j => nbits (leValue ((st.drop (64 + 8 * j)).take 8)) 63 49 == 0)

/-- EXP_BYTES of a stream. -/
def huskStreamBytes (st : List Byte) : Nat := leValue ((st.drop 16).take 8)

/-! ### Events and counters of an edge (R260, R268) -/

/-- The edge of a controller's home (R268). -/
def edgeOfHome (h : Nat) : Nat := h - 16 + 8

/-- HSK_EDGE_LAST of a failed block (Table 8.10); ch is the consumer's channel, if it has one. -/
def huskWord (cause tag : Nat) (ch : Option Nat) (recovered : Bool) : Nat :=
  put cause 2 0 + putB recovered 3 + (match ch with | some c => put c 15 4 + putB true 16 | none => 0) + put tag 63 32

/-- A failed block counted and recorded at an edge (R260). -/
def huskFail (edge cause tag : Nat) (ch : Option Nat) (s : State) : State :=
  let b := Blk.hsk edge
  let bitn := if cause = 1 then Bit.HSK_EDGE_EVENT_SIZE_OVER else if cause = 2 then Bit.HSK_EDGE_EVENT_SIZE_UNDER
    else if cause = 3 then Bit.HSK_EDGE_EVENT_CRC else if cause = 4 then Bit.HSK_EDGE_EVENT_FORMAT
    else if cause = 5 then Bit.HSK_EDGE_EVENT_TAG else Bit.HSK_EDGE_EVENT_MAP_PARITY
  cntInc b Reg.HSK_CNT_FAIL (setEv b Reg.HSK_EDGE_EVENT bitn (wr s b Reg.HSK_EDGE_LAST (word (huskWord cause tag ch false))))

/-- The error log record of a failed block (R260, Table 13.11), written once it is known whether the block is served again (R261): then it
is counted as such, and HSK_EDGE_LAST says so while it still names the block. -/
def huskLog (edge cause tag : Nat) (ch : Option Nat) (recovered : Bool) (s : State) : State :=
  let b := Blk.hsk edge
  let s := if !recovered then s
    else
      let s := if rd s b Reg.HSK_EDGE_LAST = word (huskWord cause tag ch false) then wr s b Reg.HSK_EDGE_LAST (word (huskWord cause tag ch true)) else s
      cntInc b Reg.HSK_CNT_REFETCH s
  logRec { source := 4, cause := cause, severity := if recovered then 1 else 2,
           channel := match ch with | some c => handleOf s c | none => 0, detail := huskWord cause tag ch recovered + edge * 2 ^ 64 } s

/-- A block passed through a compressor: METHOD and stored bytes, with the edge's counters; with COMP_EN 0 it goes plain. -/
def edgeCompress (edge : Nat) (data : List Byte) (tag : Nat) (s : State) : State × Nat × List Byte :=
  let b := Blk.hsk edge
  let r := if bit (rd s b Reg.HSK_EDGE_CTRL) 0 then huskCompress data tag else (0, data)
  let s := cntAdd b Reg.HSK_CNT_COMP_IN data.length s
  let s := cntAdd b Reg.HSK_CNT_COMP_OUT (if r.1 = 0 then data.length else r.2.length) s
  let s := if r.1 = 0 then cntInc b Reg.HSK_CNT_PLAIN s else if r.1 = 1 then cntInc b Reg.HSK_CNT_ZERO s else s
  (s, r.1, r.2)

/-! ### Encrypted deep-tier blocks (R228, R263) -/

/-- The keys under which the blocks of an object at a home are encrypted; none in the stacks and where ENC is 0. -/
def encKey (s : State) (o : Obj) (h : Nat) : Option (List Byte) :=
  if o.enc && decide (16 ≤ h) then some (smGet (fun _ => {}) s.boot.keys o.keySlot).key else none

/-- n bytes at a key inside one block, decrypted: unit is the block's device address divided by 4,096. -/
def unitRead (key : Option (List Byte)) (unit k n : Nat) (s : State) : State × List Byte × Bool :=
  match key with
  | none => readCells k n s
  | some y =>
    let a := k - k % 16
    let r := readCells a ((k + n + 15) / 16 * 16 - a) s
    (r.1, ((xtsRun y false unit (a % 4096 / 16) r.2.1).drop (k % 16)).take n, r.2.2)

/-- A codeword of an encrypted block as it stands after the pieces of a write, encrypted again. -/
def mergeUnit (y : List Byte) (unit cw : Nat) (ps : List Piece) (s : State) : Piece :=
  let j := cw % 64 * 4
  let old := xtsRun y false unit j (readKeys s (cw * 64) 64).1
  let new := (ps.filter (fun p => p.1 / 64 == cw)).foldl (fun l p => l.take (p.1 % 64) ++ p.2 ++ l.drop (p.1 % 64 + p.2.length)) old
  (cw * 64, xtsRun y true unit j new)

/-- The pieces of a write, encrypted codeword by codeword; unit gives the data unit of a codeword. A poisoned codeword that the write
covers in part is left to R208. -/
def unitWrite (key : Option (List Byte)) (unit : Nat → Nat) (ps : List Piece) (s : State) : State × Bool :=
  match key with
  | none => writePieces s ps
  | some y =>
    let cws := (ps.map (fun p => p.1 / 64)).eraseDups
    let s := (cws.filter (fun cw => decide (cwCover ps cw < 64))).foldl (fun s cw => eccScan (cw * 64) 64 s) s
    let lost (cw : Nat) : Bool := isPoison s cw && decide (cwCover ps cw < 64)
    writePieces s (ps.filter (fun p => lost (p.1 / 64)) ++ (cws.filter (fun cw => !lost cw)).map (fun cw => mergeUnit y (unit cw) cw ps s))

/-! ### The deep-tier slot (R227, R262 to R265) -/

/-- BLOCK_TAG of a slot (R257). -/
def slotTag (o : Obj) (off : Nat) : Nat := (o.baseDa + off) / 4096 % 2 ^ 32

/-- The husk map bit of a slot. -/
def slotHusk (s : State) (h l : Nat) : Bool := smGet (fun _ => false) s.husk (h * 2 ^ 25 + l)
def slotBad (s : State) (h l : Nat) : Bool := smGet (fun _ => false) s.huskBad (h * 2 ^ 25 + l)
def setSlot (s : State) (h l : Nat) (b : Bool) : State :=
  { s with husk := smSet (fun _ => false) s.husk (h * 2 ^ 25 + l) b, huskBad := smErase (h * 2 ^ 25 + l) s.huskBad }

/-- A parity error of the husk map (R265) at a controller's home: the 32 bits with that of a local block cover 32 blocks, which are poisoned
until each is written whole. -/
def mapParity (h l : Nat) (s : State) : State :=
  (List.range 32).foldl (fun s i => { s with huskBad := smSet (fun _ => false) s.huskBad (h * 2 ^ 25 + l / 32 * 32 + i) true }) s

/-- Causes a read of device memory can end with: 0 none, 1–6 those of HSK_EDGE_LAST, 8 a poisoned codeword (UE), 9 a home
that answers poisoned, 12 a silent bank. -/
abbrev RdCause := Nat

/-- A slot read whole (R263): decrypted (its data unit is its tag), expanded; its cause, and the controller's edge counters. The log record
of a failure is its consumer's to ask for. -/
def slotRead (key : Option (List Byte)) (h l tag : Nat) (ch : Option Nat) (s : State) : State × List Byte × RdCause :=
  let k := physKey h l 0
  if slotBad s h l then (huskFail (edgeOfHome h) 6 tag ch s, List.replicate 4096 0, 6)
  else if slotHusk s h l then
    let hd := unitRead key tag k 16 s
    let plen := nbits (leValue ((hd.2.1.drop 4).take 4)) 12 0
    let cws := min 64 (ceilDiv (16 + plen) 64)
    let r := unitRead key tag k (cws * 64) hd.1
    let s := r.1
    if r.2.2 then (s, List.replicate 4096 0, 8)
    else
      let x := huskExpand r.2.1 4096 tag none
      let b := Blk.hsk (edgeOfHome h)
      let s := cntAdd b Reg.HSK_CNT_EXP_OUT x.1.length (cntAdd b Reg.HSK_CNT_EXP_IN (min (16 + plen) 4096) s)
      if x.2 = 0 then (s, x.1, 0) else (huskFail (edgeOfHome h) x.2 tag ch s, x.1, x.2)
  else
    let r := unitRead key tag k 4096 s
    (r.1, r.2.1, if r.2.2 then 8 else 0)

/-- A slot written whole (R262): stored as a husk block or plain, and encrypted after (R263). -/
def slotWrite (key : Option (List Byte)) (h l tag : Nat) (data : List Byte) (s : State) : State :=
  let c := edgeCompress (edgeOfHome h) data tag s
  let stored := if c.2.1 = 0 then data else c.2.2 ++ List.replicate (ceilDiv c.2.2.length 64 * 64 - c.2.2.length) 0
  let w := unitWrite key (fun _ => tag) (cutPieces 65 (physKey h l 0) stored) c.1
  setSlot w.1 h l (c.2.1 != 0)

/-! ### Object bytes as engines read and write them -/

/-- Who reads or writes device memory: its field (R224), its channel if it has one, and whether a write of it raises stale
notices (R184). -/
structure Agent where
  fld : Nat := 0
  ch : Option Nat := none
  engine : Bool := true
  /-- Homes whose silent bank has ended its request poisoned (R186). -/
  dead : List Nat := []
  /-- Its translation cache (R221); 148 for the rachis and the base dies, which hold none. -/
  req : Nat := 148

/-- A granule record looked up by a requester: a miss is counted and the record takes the place of the least recently used
of 64 (R221). -/
def xlatTouch (req idx : Nat) (s : State) : State :=
  if 148 ≤ req then s
  else
    let l := smGet (fun _ => []) s.xlat req
    let s := if l.contains idx then s else cntInc .plc Reg.PLC_CNT_XLAT_MISS s
    { s with xlat := smSet (fun _ => []) s.xlat req ((idx :: l.filter (· != idx)).take 64) }

/-- A run inside one block of a frame read: bytes and cause. -/
def runRead (a : Agent) (o : Obj) (off tier f b n : Nat) (s : State) : State × List Byte × RdCause :=
  let p := frameBlock tier f (b / 4096)
  if homeDown s p.1 then (s, List.replicate n 0, 9)
  else if a.dead.contains p.1 then (s, List.replicate n 0, 12)
  else if o.compress && tier == 2 then
    let r := slotRead (encKey s o p.1) p.1 p.2 (slotTag o (off - off % 4096)) a.ch s
    (r.1, (r.2.1.drop (b % 4096)).take n, r.2.2)
  else
    let r := unitRead (encKey s o p.1) (slotTag o off) (physKey p.1 p.2 (b % 4096)) n s
    (r.1, r.2.1, if r.2.2 then 8 else 0)

/-- The record of a block of an object that failed to expand at a frame (R260): a cause of 1–6. -/
def huskRecord (a : Agent) (o : Obj) (off tier f : Nat) (cause : RdCause) (recovered : Bool) (s : State) : State :=
  if cause = 0 ∨ 6 < cause then s
  else huskLog (edgeOfHome (frameBlock tier f (off % 65536 / 4096)).1) cause (slotTag o (off - off % 4096)) a.ch recovered s

/-- A run of one block of an object read by an engine, from the other copy when the first fails and R226 allows it. -/
def blkRead (a : Agent) (o : Obj) (off n : Nat) (s : State) : State × List Byte × RdCause :=
  let r := granAt s o (off / 65536)
  let c := readCopy o r a.fld
  let x := runRead a o off c.1 c.2.1 (off % 65536) n s
  if x.2.2 ≠ 0 ∧ r.replValid ∧ (o.mode = 1 ∨ (o.mode = 2 ∧ !r.dirty)) then
    let f := if c.2.2 then (r.homeTier, r.home) else (r.replTier, r.repl)
    let y := runRead a o off f.1 f.2 (off % 65536) n x.1
    if y.2.2 = 0 then (huskRecord a o off c.1 c.2.1 x.2.2 true y.1, y.2.1, 0)
    else (huskRecord a o off f.1 f.2 y.2.2 false (huskRecord a o off c.1 c.2.1 x.2.2 false y.1), y.2.1, x.2.2)
  else (huskRecord a o off c.1 c.2.1 x.2.2 false x.1, x.2)

/-- Object bytes read by an engine: the bytes and the cause of the first failing block, 0 for none. -/
def objRead (a : Agent) (oi off n : Nat) (s : State) : State × List Byte × RdCause :=
  let o := objAt s oi
  (cutBlocks (n / 4096 + 2) off n).foldl (fun acc p =>
    let r := blkRead a o p.1 p.2 (xlatTouch a.req (o.mapIndex + p.1 / 65536) acc.1)
    (r.1, acc.2.1 ++ r.2.1, if acc.2.2 = 0 then r.2.2 else acc.2.2)) (s, [], 0)

/-- The status of a failed read of device memory. -/
def rdStatus (c : RdCause) : Nat :=
  if c = 0 then ST_OK else if c ≤ 6 then huskStatus c else if c = 9 then ST_FENCED else ST_MEM_POISON

/-- Object bytes as the rachis reads a table, a graph or a ring. -/
def objBytes (s : State) (oi off n : Nat) : List Byte := (objRead {} oi off n s).2.1

/-- A request with an entry in the prefetch tracker: a tile asked for and not yet consumed (R54). -/
def tracked (q : MemReq) : Bool := q.kind == 0 || q.kind == 4 || q.kind == 5

/-- The reader table of home h holds a range of a tracked request that n bytes at an offset of the object at a device address meet: its
part there is served, and they meet the range of the tile's source bytes, or a scale byte that the part delivered (R54, R184, R245). -/
def holdsRange (s : State) (q : MemReq) (h da off n : Nat) : Bool :=
  tracked q && (objAt s q.obj).baseDa == da && q.parts.any (fun p => p.home == h && p.st == 2 &&
    ((decide (q.lo < off + n) && decide (off < q.hi)) ||
     q.runs.any (fun r => (decide (r.2.1 < q.lo) || decide (q.hi ≤ r.2.1)) && decide (r.2.1 < off + n) && decide (off < r.2.1 + r.2.2) &&
       p.runs.any (fun x => x.1 == r.1))))

/-- Stale notices sent to the trackers that hold a range of home h that an engine writes (R54, R184, R245). -/
def notify (h : Nat) (o : Obj) (off n : Nat) (s : State) : State :=
  { s with notices := s.notices ++ s.tillers.flatMap (fun p =>
      (p.2.reqs.filter (fun q => holdsRange s q h o.baseDa off n)).map (fun q => (p.1, q.rid))) }

/-- A stale notice broadcast for a range of an object: every tracker entry in it is named (R237 step 5). -/
def noticeAll (o : Obj) (off n : Nat) (s : State) : State :=
  { s with notices := s.notices ++ s.tillers.flatMap (fun p =>
      (p.2.reqs.filter (fun q => tracked q && (objAt s q.obj).baseDa == o.baseDa &&
        ((0, q.lo, q.hi - q.lo) :: q.runs).any (fun r => decide (r.2.1 < off + n) && decide (off < r.2.1 + r.2.2)))).map (fun q => (p.1, q.rid))) }

/-- The object offset of a key of a part. -/
def partOff (p : Part) (k : Nat) : Nat :=
  match p.blocks.find? (fun b => b.1 == keyBlock k) with | some b => b.2 + k % 4096 | none => 0

/-- The bytes of l from object offset a on, with those that a write of bs at an offset covers replaced. -/
def overlay (a : Nat) (l : List Byte) (off : Nat) (bs : List Byte) : List Byte :=
  l.zipIdx.map (fun x => if off ≤ a + x.2 ∧ a + x.2 < off + bs.length then bs.getD (a + x.2 - off) 0 else x.1)

/-- A write that no base die detects, at a home: a tile of which that home has answered its part and another has not holds the written
bytes too, so that it never holds part of them (R56). -/
def patchTiles (h : Nat) (o : Obj) (off : Nat) (bs : List Byte) (s : State) : State :=
  { s with tillers := s.tillers.map (fun p => (p.1, { p.2 with reqs := p.2.reqs.map (fun q =>
      if tracked q && (objAt s q.obj).baseDa == o.baseDa && q.parts.any (fun p => p.st != 2) then
        { q with parts := q.parts.map (fun p => if p.home == h && p.st == 2 then
            { p with data := p.data.map (fun d => match p.runs.find? (fun x => x.1 == d.1) with
                | some x => (d.1, overlay (partOff p x.2.1) d.2 off bs) | none => d) } else p) }
      else q) })) }

/-- A run inside one block written by an engine: applied, or discarded by a home that is down or whose bank is silent; the Bool is a
poisoned acknowledgement (R186, R208, R227). -/
def runWrite (a : Agent) (o : Obj) (off tier f b : Nat) (bs : List Byte) (s : State) : State × Bool :=
  let p := frameBlock tier f (b / 4096)
  if homeDown s p.1 || a.dead.contains p.1 then (s, true)
  else
    let husk := o.compress && tier == 2
    let s := if !a.engine then s else if husk then notify p.1 o (off - off % 4096) 4096 s
             else notify p.1 o off bs.length s
    if husk then
      let tag := slotTag o (off - off % 4096)
      let key := encKey s o p.1
      if bs.length = 4096 then (slotWrite key p.1 p.2 tag bs s, false)
      else
        let r := slotRead key p.1 p.2 tag a.ch s
        let s := cntInc (.dtr (p.1 - 16)) Reg.DTR_CNT_HUSK_RMW r.1
        if r.2.2 ≠ 0 then (huskRecord a o off tier f r.2.2 false s, true)
        else
          let i := b % 4096
          (slotWrite key p.1 p.2 tag (r.2.1.take i ++ bs ++ r.2.1.drop (i + bs.length)) s, false)
    else unitWrite (encKey s o p.1) (fun _ => slotTag o off) (cutPieces 65 (physKey p.1 p.2 (b % 4096)) bs) s

/-- Object bytes written by an engine; the Bool is a poisoned acknowledgement. DIRTY is set first (R225). -/
def objWrite (a : Agent) (oi off : Nat) (bs : List Byte) (s : State) : State × Bool :=
  (cutBlocks (bs.length / 4096 + 2) off bs.length).foldl (fun acc p =>
    let g := p.1 / 65536
    let s := markDirty (xlatTouch a.req ((objAt acc.1 oi).mapIndex + g) acc.1) oi g
    let o := objAt s oi
    let c := writeCopy o (granAt s o g)
    let part := (bs.drop (p.1 - off)).take p.2
    let r := runWrite a o p.1 c.1 c.2.1 (p.1 % 65536) part s
    (if a.engine || r.2 then r.1 else patchTiles (frameBlock c.1 c.2.1 (p.1 % 65536 / 4096)).1 o p.1 part r.1, acc.2 || r.2)) (s, false)

/-- The same, when only the state matters. -/
def objStore (a : Agent) (oi off : Nat) (bs : List Byte) (s : State) : State := (objWrite a oi off bs s).1

end Sys2Proof.Machine
end

