-- ==== Sys2Proof/Machine/Items.lean ====
section
/-! DEFINITION. Update work items as the 96 bytes of Table 6.6 (R196). -/

namespace Sys2Proof.Machine

open Sys2Proof

/-- An object reference: OBJ in [16:0], OFFSET in [59:24]. -/
def refWord (r : Nat × Nat) : Nat := put r.1 16 0 + put r.2 59 24
def refOf (w : Nat) : Nat × Nat := (nbits w 16 0, nbits w 59 24)

/-- The bytes of a work item. -/
def itemBytes (i : UpdItem) : List Byte :=
  leBytes 4 (put i.opt 7 0 + putB i.pingpong 8 + put i.parity 9 9 + put i.workScale 11 10 + put i.ch 23 12) ++
  leBytes 4 i.clip.toNat ++ leBytes 8 i.step ++
  leBytes 8 (put i.elems 39 0 + put (unsignedOf 8 i.lsExp) 47 40 + put i.workFmt 55 48 + put i.momFmt 63 56) ++
  [i.master, i.m1, i.m2, i.grad, i.work, i.hyper].flatMap (fun r => leBytes 8 (refWord r)) ++
  leBytes 4 i.tensor ++ List.replicate 20 0

/-- n bytes of an item's image from an offset on, as a number. -/
def itemField (b : List Byte) (off n : Nat) : Nat := leValue ((b.drop off).take n)

/-- The channel that a queued item names. -/
def itemChan (q : QueuedItem) : Nat := nbits (itemField q.bytes 0 4) 23 12

/-- A queued item read. -/
def itemRead (q : QueuedItem) : UpdItem :=
  let b := q.bytes
  let w := itemField b 0 4
  let e := itemField b 0x10 8
  let r (k : Nat) : Nat × Nat := refOf (itemField b (0x18 + 8 * k) 8)
  { opt := nbits w 7 0, pingpong := w.testBit 8, parity := nbits w 9 9, workScale := nbits w 11 10, ch := nbits w 23 12,
    clip := BitVec.ofNat 32 (itemField b 4 4), step := itemField b 8 8, elems := nbits e 39 0, lsExp := signedOf 8 (nbits e 47 40),
    workFmt := nbits e 55 48, momFmt := nbits e 63 56, master := r 0, m1 := r 1, m2 := r 2, grad := r 3, work := r 4, hyper := r 5,
    tensor := itemField b 0x48 4, set := q.set, idx := q.idx }

/-- The reserved bits of an item are zero. -/
def itemRsvOk (b : List Byte) : Bool :=
  nbits (itemField b 0 4) 31 24 == 0 && itemField b 0x4C 20 == 0 &&
  (List.range 6).all (fun k => let w := itemField b (0x18 + 8 * k) 8; w == refWord (refOf w))

/-- An object reference of a queued or running item names an object. -/
def itemNames (i : UpdItem) (oi : Nat) : Bool := [i.master, i.m1, i.m2, i.grad, i.work, i.hyper].any (fun r => r.1 == oi)

/-- The items of a stack: queued, held by the rachis while the queue is full, and running. -/
def itemsOf (x : Stack) : List UpdItem := (x.updQueue ++ x.updWait).map itemRead ++ (x.run.map (·.item)).toList

/-- An item written into a stack's update queue, which holds 64 (R168); the rachis keeps the rest back. -/
def queueItem (st : Nat) (i : UpdItem) (s : State) : State :=
  let q : QueuedItem := { bytes := itemBytes i, set := i.set, idx := i.idx }
  modStack s st (fun x => if x.updQueue.length < 64 ∧ x.updWait.isEmpty then { x with updQueue := x.updQueue ++ [q] }
    else { x with updWait := x.updWait ++ [q] })

/-- The first item taken out of a queue, which an item that waits fills up. -/
def takeItem (x : Stack) : Stack :=
  { x with updQueue := x.updQueue.drop 1 ++ x.updWait.take 1, updWait := x.updWait.drop 1 }

end Sys2Proof.Machine
end

