-- ==== Sys2Proof/Machine/Engine.lean ====
section
/-! DEFINITION. The request pools and engine queues of the homes (R180 to R183, R215, R221, R244, R264): which accesses of the module's
engines to device memory may go, and which wait. -/

namespace Sys2Proof.Machine

open Sys2Proof

/-! ### Requests of tillers at a home (R178, R181) -/

/-- A request of a tiller replaced by a change of it. -/
def modReq (t rid : Nat) (f : MemReq → MemReq) (s : State) : State :=
  modTiller s t (fun u => { u with reqs := u.reqs.map (fun q => if q.rid == rid then f q else q) })

/-- A home's pool with an entry added. -/
def poolAdd (h t rid : Nat) (s : State) : State :=
  if h < 16 then modStack s h (fun x => { x with pool := x.pool ++ [(t, rid)] })
  else modDeep s (h - 16) (fun x => { x with pool := x.pool ++ [(t, rid)] })
/-- A home's pool with an entry removed. -/
def poolDrop (h t rid : Nat) (s : State) : State :=
  if h < 16 then modStack s h (fun x => { x with pool := x.pool.filter (· != (t, rid)) })
  else modDeep s (h - 16) (fun x => { x with pool := x.pool.filter (· != (t, rid)) })

/-- The part of a request at a home. -/
def partAt (q : MemReq) (h : Nat) : Option Part := q.parts.find? (fun p => p.home == h)

/-- Two lists of runs (key, length) touch a common codeword. -/
def runsMeet (a b : List (Nat × Nat)) : Bool :=
  a.any (fun x => b.any (fun y => decide (x.1 / 64 ≤ (y.1 + y.2 - 1) / 64) && decide (y.1 / 64 ≤ (x.1 + x.2 - 1) / 64)))

/-- What a part touches at its home: its runs, or whole slots where they are husk slots (R264). -/
def partKeys (husk : Bool) (p : Part) : List (Nat × Nat) :=
  if husk then p.blocks.map (fun b => (physKey p.home b.1 0, 4096)) else p.runs.map (fun r => (r.2.1, r.2.2))

/-- Two parts at one home touch a common codeword, or a common husk slot (R183, R264). -/
def partsMeet (husk : Bool) (p q : Part) : Bool := runsMeet (partKeys husk p) (partKeys husk q)

/-- The deep-tier slots of an object are husk slots. -/
def huskAt (o : Obj) (h : Nat) : Bool := o.compress && decide (16 ≤ h)

/-- The requests of a pool, with their parts still to serve, in admission order. -/
def pendingParts (s : State) (h : Nat) : List (Nat × MemReq × Part) :=
  (poolOf s h).filterMap (fun e => match (tillerAt s e.1).reqs.find? (fun q => q.rid == e.2) with
    | none => none
    | some q => match partAt q h with
      | some p => if p.st = 1 then some (e.1, q, p) else none
      | none => none)

/-! ### Engine queues (R182) -/

/-- The engine queue of a home. -/
def engineOf (s : State) (h : Nat) : List EngEntry := if h < 16 then (stackAt s h).engine else (deepAt s (h - 16)).engine
/-- The engine queue of a home changed. -/
def modEngine (h : Nat) (f : List EngEntry → List EngEntry) (s : State) : State :=
  if h < 16 then modStack s h (fun x => { x with engine := f x.engine }) else modDeep s (h - 16) (fun x => { x with engine := f x.engine })

/-- Entries of a home that a requester of the engine queue owns (R182). -/
def engineShare (who : Nat) : Nat := if who < 12 then 8 else if who < 18 then 24 else if who = 20 then 16 else 128

/-- One access of an engine: n bytes of an object from an offset on, read as a field sees them, or written. -/
structure Access where
  write : Bool := false
  fld : Nat := 0
  obj : Nat := 0
  off : Nat := 0
  n : Nat := 0

/-- The runs (key, length) of an access; a husk slot counts whole (R264). -/
def accessRuns (s : State) (x : Access) : List (Nat × Nat) :=
  let o := objAt s x.obj
  (cutBlocks (x.n / 4096 + 2) x.off x.n).map (fun p =>
    let r := granAt s o (p.1 / 65536)
    let c := if x.write then writeCopy o r else readCopy o r x.fld
    if o.compress && c.1 == 2 then (granKey c.1 c.2.1 (p.1 % 65536 / 4096 * 4096), 4096)
    else (granKey c.1 c.2.1 (p.1 % 65536), p.2))

/-- The parts pending at a home that touch runs. -/
def partsAhead (s : State) (h : Nat) (runs : List (Nat × Nat)) : List (Nat × Nat) :=
  ((pendingParts s h).filter (fun y => runsMeet (partKeys (huskAt (objAt s y.2.1.obj) h) y.2.2) runs)).map (fun y => (y.1, y.2.1.rid))

/-- The requests of an access, one for each home that its runs lie in, as its queue would hold them. -/
def entriesOf (s : State) (who : Nat) (ch : Option Nat) (write : Bool) (acc : Nat × Nat × Nat) (rs : List (Nat × Nat)) :
    List (Nat × EngEntry) :=
  ((rs.map (fun r => keyHome r.1)).eraseDups).map (fun h =>
    let mine := rs.filter (fun r => keyHome r.1 == h)
    (h, { who := who, ch := ch, write := write, acc := acc, runs := mine, ahead := partsAhead s h mine }))
def accessEntries (s : State) (who : Nat) (ch : Option Nat) (x : Access) : List (Nat × EngEntry) :=
  entriesOf s who ch x.write (x.obj, x.off, x.n) (accessRuns s x)

/-- Two entries stand for one request of an engine. -/
def sameEntry (a b : EngEntry) : Bool := a.who == b.who && a.ch == b.ch && a.write == b.write && a.acc == b.acc

/-- The banks of a home that runs (key, length) lie in. -/
def runBanks (h : Nat) (runs : List (Nat × Nat)) : List Nat := (runs.map (fun r => bankNo h (keyBlock r.1))).eraseDups

/-- Banks of a home that have answered: their silence is over (R185). -/
def endSilence (h : Nat) (banks : List Nat) (s : State) : State :=
  let l := if h < 16 then (stackAt s h).slow else (deepAt s (h - 16)).slow
  let keep := l.filter (fun b => !banks.contains b)
  if l == keep then s
  else if h < 16 then modStack s h (fun x => { x with slow := keep }) else modDeep s (h - 16) (fun x => { x with slow := keep })

/-- The lead bank of an engine's request. -/
def leadBank (h : Nat) (e : EngEntry) : Nat := match e.runs with | r :: _ => bankNo h (keyBlock r.1) | [] => 0

/-- The requester holds no free entry of its share, or has 4 requests at the lead bank (R180, R182). -/
def engineFull (s : State) (h : Nat) (e : EngEntry) : Bool :=
  let mine := (engineOf s h).filter (fun x => x.who == e.who)
  decide (engineShare e.who ≤ mine.length) || decide (4 ≤ (mine.filter (fun x => leadBank h x == leadBank h e)).length)

/-- A request waits at a home for what was admitted before it and touches its codewords (R183), or for a free entry (R182). A home that
is down answers at once (R186). -/
def engineWaits (s : State) (h : Nat) (e : EngEntry) : Bool :=
  let q := engineOf s h
  !homeDown s h &&
  match q.find? (sameEntry e) with
  | some x => !x.poison && (x.ahead.any (fun a => (pendingParts s h).any (fun y => (y.1, y.2.1.rid) == a)) ||
      (q.takeWhile (fun y => !sameEntry e y)).any (fun y => runsMeet y.runs x.runs))
  | none => !e.ahead.isEmpty || q.any (fun y => runsMeet y.runs e.runs) || engineFull s h e

/-- A request that waits takes an entry, where its share has one. -/
def engineAdmit (s : State) (p : Nat × EngEntry) : State :=
  if homeDown s p.1 || (engineOf s p.1).any (sameEntry p.2) || engineFull s p.1 p.2 then s
  else modEngine p.1 (· ++ [p.2]) s

/-- A request that is served gives its entry back. -/
def engineLeave (s : State) (p : Nat × EngEntry) : State :=
  let s := endSilence p.1 (runBanks p.1 p.2.runs) s
  if (engineOf s p.1).any (sameEntry p.2) then modEngine p.1 (fun q => q.filter (fun x => !sameEntry p.2 x)) s else s

/-! ### Granule records (R215, R221) -/

/-- The stack that holds granule record i: of 16 bytes each, from the start of the system region on (log entry 126). -/
def recordStack (i : Nat) : Nat := (i * 16 / 4096 % 16) ^^^ ((stackBlocks + i * 16 / 65536) % 16)

/-- A record's stack at which a lookup of a requester waits (R215): the record is not in its cache, and the stack is down. -/
def recordDown (s : State) (req i : Nat) : Option Nat :=
  if (decide (req < 148) && (smGet (fun _ => []) s.xlat req).contains i) || !homeDown s (recordStack i) then none else some (recordStack i)

/-- The first stack that holds up the translation of an access. -/
def accessStuck (s : State) (req : Nat) (x : Access) : Option Nat :=
  (granulesOf x.off x.n).findSome? (fun g => recordDown s req ((objAt s x.obj).mapIndex + g))

/-- A miss read that waits at a stack: one for each requester, 256 in all (R182). -/
def noteMiss (req h : Nat) (s : State) : State :=
  modStack s h (fun x => if x.misses.contains req || decide (256 ≤ x.misses.length) then x else { x with misses := x.misses ++ [req] })

/-! ### Accesses of engines (R182, R183, R215, R237) -/

/-- A granule of a range is being moved, so its writers wait (R237). -/
def rangeBusy (s : State) (oi off n : Nat) : Bool := (granulesOf off n).any (fun g => (granAt s (objAt s oi) g).busy)

/-- A write as the list of held writes names it. -/
def heldName (who : Nat) (x : Access) : Nat × Nat × Nat × Nat := (who, x.obj, x.off, x.n)

/-- A write that its requester holds while a granule moves, counted once (R237). -/
def noteHeld (who : Nat) (s : State) (x : Access) : State :=
  if x.write && rangeBusy s x.obj x.off x.n && !s.heldBy.contains (heldName who x) then
    cntInc .plc Reg.PLC_CNT_HELD_WRITES { s with heldBy := s.heldBy ++ [heldName who x] }
  else s

/-- Requests of an engine at their homes: they wait for a free entry and for what was admitted before them (R182, R183), or they go: k
gets the homes whose bank has been silent for 2 ms, which answer poisoned and apply no write (R186). -/
def gatedAt {α : Type} (wait : State → α) (es : List (Nat × EngEntry)) (k : List Nat → State → α) (s : State) : α :=
  if es.any (fun e => engineWaits s e.1 e.2) then wait (es.foldl engineAdmit s)
  else
    let dead := es.filter (fun e => (engineOf s e.1).any (fun x => sameEntry e.2 x && x.poison))
    k (dead.map (·.1)) (es.foldl engineLeave s)

/-- Accesses of an engine to device memory: they wait for their translation (R215), a write not yet sent for its granule to move (R237),
and then as `gatedAt` states. -/
def gatedBy {α : Type} (wait : State → α) (who : Nat) (ch : Option Nat) (req : Nat) (l : List Access) (k : List Nat → State → α)
    (s : State) : α :=
  match l.findSome? (accessStuck s req) with
  | some h => wait (noteMiss req h s)
  | none =>
    let es := l.flatMap (accessEntries s who ch)
    if l.any (fun x => x.write && rangeBusy s x.obj x.off x.n) && !es.any (fun e => (engineOf s e.1).any (sameEntry e.2)) then
      wait (l.foldl (noteHeld who) s)
    else gatedAt wait es k (if s.heldBy.isEmpty then s else { s with heldBy := s.heldBy.filter (fun y => !(l.map (heldName who)).contains y) })

/-- Accesses of an engine within an event. -/
def gated (who : Nat) (ch : Option Nat) (req : Nat) (l : List Access) (k : List Nat → State → State) (s : State) : State :=
  gatedBy id who ch req l k s

end Sys2Proof.Machine
end

