-- ==== Sys2Proof/Machine/Migrate.lean ====
section
/-! DEFINITION. The migration engine (R223, R225, R235 to R242): commands that wait their turn, the moves they start, and how a move or
a command is given up. -/

namespace Sys2Proof.Machine

open Sys2Proof

/-- MODE and REPL_TIER may stand together (Table 7.5). -/
def modeOk (mode repl : Nat) : Bool :=
  (mode == 0 && repl == 0) || (mode == 1 && repl ≤ 2) || (mode == 2 && repl == 1)

/-- Every requester of R221. -/
def requesters : List Nat := List.range 148

/-- Granules in flight, at most 8 (R242). -/
def migInflight (s : State) : Nat := (s.migs.flatMap (fun m => m.moves.filter (fun v => v.phase ≤ 2))).length

/-- A granule is named by a registered sheaf of the attempt or by a queued or running update item (R240). -/
def granHeld (s : State) (oi g : Nat) : Bool :=
  let touch (off n : Nat) : Bool := decide (off / 65536 ≤ g) && decide (g ≤ (off + n - 1) / 65536)
  s.chans.any (fun p => p.2.trn.sheaves.any (fun f => f.accObj == oi && touch f.accOffset (f.tiles * (if f.bf16 then 8192 else 16384)))) ||
  s.stackMap.any (fun p => (itemsOf p.2).any (fun i =>
    [i.master, i.m1, i.m2, i.grad, i.work].any (fun r => r.1 == oi && decide (r.2 / 4096 ≤ g) && decide (g < (r.2 + i.elems * 8) / 4096))))

/-- A migration command is the one of a channel and count. -/
def isMig (ch pos : Nat) (m : MigCmd) : Bool := m.ch == ch && m.pos == pos

/-- A migration command is the first of its object (R236). -/
def migFirst (s : State) (m : MigCmd) : Bool :=
  match s.migs.find? (fun x => x.obj == m.obj) with | some x => isMig m.ch m.pos x | none => false

/-- A migration command replaced by its change. -/
def modMig (s : State) (ch pos : Nat) (f : MigCmd → MigCmd) : State :=
  { s with migs := s.migs.map (fun m => if isMig ch pos m then f m else m) }

/-- A migration command taken off the list: the entry stays MIGRATING while another names its object (R236), and VERSION takes a step
(R222). -/
def removeMig (m : MigCmd) (s : State) : State :=
  let s := { s with migs := s.migs.filter (fun x => !isMig m.ch m.pos x), heldBy := s.heldBy.filter (fun w => w.2.1 != m.obj) }
  modObj s m.obj (fun o => bumpVersion { o with migrating := s.migs.any (fun x => x.obj == m.obj) })

/-- Frames of a command that hold nothing freed, and credited to the owner (R235). -/
def giveBack (m : MigCmd) (tier f : Nat) (s : State) : State := modUsed (freeFrame s tier f) m.ch tier (· - 1)

/-- The target frames of granules still to start. -/
def freeTodo (m : MigCmd) (s : State) : State :=
  if m.kind ≤ 2 then m.todo.foldl (fun s x => giveBack m m.targetTier x.2 s) s else s

/-- Entry names and MIXED when a command ends (R219, R239). An object in WRITE_BACK mode whose replica is dropped becomes READ_WRITE, as
Table 7.5 allows no other mode (log entry 128). -/
def settleEntry (m : MigCmd) (s : State) : State :=
  let o := objAt s m.obj
  let o := if m.kind = 0 ∧ m.whole ∧ m.leftInPlace = 0 then
      { o with homeTier := m.targetTier, homeLocal := m.targetLocal, homeField := m.targetField } else o
  let o := if m.kind = 1 ∧ m.whole ∧ m.leftInPlace = 0 then
      { o with replTier := m.targetTier, replLocal := m.targetLocal, replField := m.targetField } else o
  let o := if m.kind = 4 ∧ m.leftInPlace = 0 then
      { o with replTier := 0, replLocal := false, replField := 0, mode := if o.mode = 2 then 0 else o.mode } else o
  let off (tier f nt : Nat) (nl : Bool) (nf : Nat) : Bool := tier != nt || f.testBit 31 != nl || (nl && nbits f 26 25 != nf)
  let mixed := (List.range (objGranules o)).any (fun g =>
    let r := granAt s o g
    off r.homeTier r.home o.homeTier o.homeLocal o.homeField ||
    (r.replTier != 0 && off r.replTier r.repl o.replTier o.replLocal o.replField))
  setObj s m.obj { o with mixed := mixed }

/-- A migration command with nothing left to do completes (R239, Table 8.6). -/
def migEnd (m : MigCmd) (s : State) : State :=
  let st := if m.status ≠ 0 then m.status else if m.leftInPlace ≠ 0 then ST_MIG_ABORTED else ST_OK
  finishRing m.ch m.pos st (if m.kind ≤ 1 then [word m.leftInPlace] else []) (removeMig m (settleEntry m s))

/-- One granule's move begins (R237 step 1). -/
def startMove (m : MigCmd) (g tgt aborts : Nat) (s : State) : State :=
  let o := objAt s m.obj
  let s := setGran s o g { granAt s o g with busy := true }
  modMig s m.ch m.pos (fun x => { x with
    todo := x.todo.filter (fun t => t.1 != g),
    moves := x.moves.filter (fun v => v.granule != g) ++ [{
      obj := m.obj, granule := g, kind := m.kind, targetTier := m.targetTier, target := tgt, waiting := requesters, aborts := aborts, startUs := s.us }] })

/-- The granules of a range that a kind of command acts on (Table 7.7). -/
def migGranules (s : State) (o : Obj) (kind first count : Nat) : List Nat :=
  ((List.range count).map (· + first)).filter (fun g =>
    let r := granAt s o g
    if kind = 1 then r.replValid else if kind = 2 then !r.replValid else if kind = 3 then r.dirty else if kind = 4 then r.replTier != 0
    else true)

/-- A command whose turn it is allocates every target frame before it moves any granule (R235, R236): quota, then space. One that cannot
fails and changes nothing further. -/
def migStart (m : MigCmd) (s : State) : State :=
  let o := objAt s m.obj
  let gs := migGranules s o m.kind m.first m.count
  let needs := if m.kind ≤ 2 then gs.length else 0
  let fail (st : Nat) : State := finishRing m.ch m.pos st [] (removeMig m s)
  if (m.kind == 1 || m.kind == 2) && !modeOk o.mode m.targetTier then fail ST_PLACE_INVALID
  else if !quotaOk s m.ch m.targetTier needs then fail ST_QUOTA
  else match allocFrames s m.targetTier m.targetField m.targetLocal needs with
    | none => fail ST_NO_SPACE
    | some (fs, s) =>
      let s := modUsed s m.ch m.targetTier (· + needs)
      let s := modObj s m.obj (fun o => bumpVersion (if m.kind = 2 then
        { o with replTier := m.targetTier, replLocal := m.targetLocal, replField := m.targetField, migrating := true }
        else { o with migrating := true }))
      modMig s m.ch m.pos (fun m => { m with started := true, todo := if m.kind ≤ 2 then gs.zip fs else gs.map (·, 0) })

/-- Commands start in their turn, moves begin while fewer than 8 are in flight, and commands that are done complete (R236, R240, R242);
fuel bounds what one event sets off. -/
def migPump : Nat → State → State
  | 0, s => s
  | fuel + 1, s =>
    match s.migs.find? (fun m => migFirst s m && !m.started) with
    | some m => migPump fuel (migStart m s)
    | none =>
      match s.migs.find? (fun m => migFirst s m && m.todo.isEmpty && m.moves.isEmpty) with
      | some m => migPump fuel (migEnd m s)
      | none =>
        if 8 ≤ migInflight s then s
        else match s.migs.findSome? (fun m => if migFirst s m then
            (m.todo.find? (fun t => !granHeld s m.obj t.1)).map (fun t => (m, t)) else none) with
          | none => s
          | some (m, t) => migPump fuel (startMove m t.1 t.2 0 s)

/-- The move of a granule in flight. -/
def moveOf (s : State) (oi g : Nat) : Option (MigCmd × Move) :=
  s.migs.findSome? (fun m => (m.moves.find? (fun v => v.obj == oi && v.granule == g)).map (fun v => (m, v)))

/-- A move replaced by its change. -/
def modMove (s : State) (oi g : Nat) (f : Move → Move) : State :=
  { s with migs := s.migs.map (fun m => { m with moves := m.moves.map (fun v => if v.obj == oi && v.granule == g then f v else v) }) }

/-- A held write can be applied: no granule it touches is being moved. -/
def heldReady (s : State) (w : HeldWrite) : Bool :=
  (granulesOf w.offset (w.data.length + 63)).all (fun g => !(granAt s (objAt s w.obj) g).busy)

/-- Host writes held for an object whose granules no longer move are applied in their order (R237 step 6). -/
def releaseHeld (obj : Nat) (s : State) : State :=
  let ok (w : HeldWrite) : Bool := w.obj == obj && heldReady s w
  let ws := s.cxl.held.filter ok
  let s := modCxl s (fun x => { x with held := x.held.filter (fun w => !ok w) })
  ws.foldl (fun s w => w.data.foldl (fun s b => objStore { engine := false, req := 141 } obj (w.offset + b.1) [b.2] s) s) s

/-- What a move that is abandoned before its record is written leaves: BUSY cleared, held writes released, the target frame freed, and
the abandoned move counted and logged (R239). -/
def undoMove (m : MigCmd) (v : Move) (s : State) : State :=
  let o := objAt s v.obj
  let s := setGran s o v.granule { granAt s o v.granule with busy := false }
  let s := if v.kind ≤ 2 then giveBack m m.targetTier v.target s else s
  let s := releaseHeld v.obj s
  let s := cntInc .plc Reg.PLC_CNT_MIG_ABORT (setEv .plc Reg.PLC_EVENT Bit.PLC_EVENT_MIG_ABORT s)
  logRec { source := 7, cause := 1, severity := 2, channel := handleOf s m.ch, detail := v.obj + v.granule * 2 ^ 32 } s

/-- A granule that a command leaves in place. -/
def leaveGranule (m : MigCmd) (g : Nat) (s : State) : State :=
  modMig s m.ch m.pos (fun m => { m with leftInPlace := m.leftInPlace + 1, moves := m.moves.filter (fun x => x.granule != g) })

/-- A move abandoned: it is retried 1 ms later, or its granule stays in place after 8 of them (R239). -/
def abandonMove (m : MigCmd) (v : Move) (s : State) : State :=
  let s := undoMove m v s
  if 8 ≤ v.aborts + 1 then migPump 64 (leaveGranule m v.granule s)
  else modMove s v.obj v.granule (fun v => { v with phase := 3, aborts := v.aborts + 1 })

/-- The frame that a move in its last phase still has to free is freed. -/
def freeSource (m : MigCmd) (v : Move) (s : State) : State :=
  let s := if v.kind = 0 ∨ v.kind = 1 ∨ v.kind = 4 then giveBack m v.targetTier v.target s else s
  let o := objAt s v.obj
  if v.kind = 4 then setGran s o v.granule { granAt s o v.granule with repl := 0, replTier := 0 } else s

/-- A migration command dropped with its channel, its object or the device: what it holds is freed, its granules are not BUSY, and no
record of it is written (R411, R448). -/
def dropMig (m : MigCmd) (s : State) : State :=
  let s := freeTodo m s
  let s := m.moves.foldl (fun s v =>
    if v.phase = 2 then freeSource m v s
    else
      let o := objAt s v.obj
      let s := if v.kind ≤ 2 ∧ v.phase ≤ 1 then giveBack m m.targetTier v.target s else s
      setGran s o v.granule { granAt s o v.granule with busy := false }) s
  removeMig m s

/-- The homes of the blocks of a frame. -/
def frameHomes (tier f : Nat) : List Nat := ((List.range 16).map (fun k => (frameBlock tier f k).1)).eraseDups

/-- A move that has not written its record has its source or its target at a home (R241). -/
def moveTouches (s : State) (m : MigCmd) (v : Move) (h : Nat) : Bool :=
  let r := granAt s (objAt s v.obj) v.granule
  v.phase ≤ 1 && ((frameHomes r.homeTier r.home).contains h || (r.replTier != 0 && (frameHomes r.replTier r.repl).contains h) ||
    (v.kind ≤ 2 && (frameHomes m.targetTier v.target).contains h))

/-- A command one of whose moves touches flagged homes (R241): those moves are abandoned without retry, nothing further of it starts, and
it completes with ST_MIG_ABORTED when its other moves have ended. -/
def abortMig (hs : List Nat) (m : MigCmd) (s : State) : State :=
  let s := freeTodo m s
  let s := modMig s m.ch m.pos (fun x => { x with todo := [], leftInPlace := x.leftInPlace + x.todo.length })
  m.moves.foldl (fun s v =>
    if hs.any (moveTouches s m v) then leaveGranule m v.granule (undoMove m v s)
    else if v.phase = 3 then leaveGranule m v.granule s else s) s

/-- The moves of the flagged homes of a domain abandoned (R241). -/
def abandonMoves (hs : List Nat) (s : State) : State :=
  migPump 64 ((s.migs.filter (fun m => m.moves.any (fun v => hs.any (moveTouches s m v)))).foldl (fun s m => abortMig hs m s) s)

end Sys2Proof.Machine
end

