-- ==== Sys2Proof/Machine/Abort.lean ====
section
/-! DEFINITION. Stopping stages, aborting and voiding step attempts, flagging and fencing reset domains (R24, R74, R128,
R239, R351, R410, R433 to R436, R453 to R455). -/

namespace Sys2Proof.Machine

open Sys2Proof

/-- A tiller has a configuration of a channel in a bank. -/
def cfgOf (c : Nat) (g : Cfg) : Bool := g.valid && g.chan == c

/-- The tillers with an active, shadow or deferred configuration of a channel. -/
def chanTillers (s : State) (c : Nat) : List Nat :=
  (s.tillers.filter (fun p => cfgOf c p.2.act || cfgOf c p.2.shadow || cfgOf c p.2.dfr)).map (·.1)

/-- A context as a stop leaves it: it issues nothing further. -/
def stopCtx (x : Ctx) : Ctx := { x with wait := 0, ended := true, endSent := true }

/-- The pass in flight abandoned: what it would have written, its slab in tile store or its rows of the accumulator file, holds
unspecified values (R74, R88, R89). -/
def abandonPass (t : Nat) (u : Tiller) : Tiller :=
  match u.arr.pass with
  | none => u
  | some (c, _) =>
    let d := if c.ctx = 0 then u.act else u.dfr
    let m := if bits c.w 17 6 = 0 then 4096 else bits c.w 17 6
    let lost (lo hi : Nat) : FreeRange := { lo := lo, hi := hi, owner := t + 1, draw := u.stops }
    if c.ctx = 0 ∧ d.form = 2 then
      let a := u.arr.wsBank * 16384
      let cols := min 256 (d.stage.cols - bits c.s6 63 40)
      { u with arr := { u.arr with
          acc := (List.range m).foldl (fun l r => smClearRun l (a + r * 256) cols) u.arr.acc
          accFree := (List.range m).map (fun r => lost (a + r * 256) (a + r * 256 + cols)) ++ u.arr.accFree } }
    else if bit c.w 3 then u
    else
      let a := bits c.w 62 48 * 256
      let cols := min 64 (d.stage.cols - bits c.s6 63 40)
      { u with ts := (List.range m).foldl (fun l r => smClearRun l (a + r * 256) (cols * 4)) u.ts
               tsFree := (List.range m).map (fun r => lost (a + r * 256) (a + r * 256 + cols * 4)) ++ u.tsFree }

/-- The array as a stop or a fence leaves it (R74): queued commands discarded, the pass in flight abandoned, flushes dropped, finished
tiles that are not complete discarded. -/
def stopArray (t : Nat) (u : Tiller) : Tiller :=
  let u := abandonPass t u
  let claimed := u.ftq.zipIdx.find? (fun p => p.1.st == 1)
  { u with stops := u.stops + 1
           arr := { u.arr with queue := [], pass := none, flush := [], holdInput := false, holdFtq := false, holdPort := false }
           ftq := u.ftq.map (fun q => if q.st = 2 then q else {})
           ftqNext := match claimed with | some p => p.2 | none => u.ftqNext }

/-- A tiller's stage stopped (R24, R74, R128): queued vector instructions, array work, a send in progress and requests not yet sent are
dropped. -/
def stopTiller (t : Nat) (u : Tiller) : Tiller :=
  { stopArray t u with
           vq := []
           ctxA := stopCtx u.ctxA, ctxD := stopCtx u.ctxD, switching := false, send := none,
           reqs := u.reqs.filter (·.sent), goWait := false }

/-- A tiller's finished-tile queue empty, its active context the one that runs (R97). -/
def freshTiller (u : Tiller) : Tiller :=
  { u with ftq := List.replicate 8 {}, ftqHead := 0, ftqNext := 0, ftqOff := 0, cur := 0, switching := false }

/-- A tiller's configurations of a channel cleared (R455). -/
def clearCfgs (c t : Nat) (u : Tiller) : Tiller :=
  let u := if cfgOf c u.act then { freshTiller (stopTiller t u) with act := {}, ctxA := {}, reqs := [], st := 0, admitted := false } else u
  let u := if cfgOf c u.shadow then { u with shadow := {}, goWait := false, reqs := u.reqs.filter (fun q => q.who != 2) } else u
  if cfgOf c u.dfr then { freshTiller (stopTiller t u) with dfr := {}, ctxD := {}, reqs := u.reqs.filter (fun q => q.who != 1), st := 0 } else u

/-- The homes that an outstanding request of a tiller still occupies are freed. -/
def dropPools (ts : List Nat) (s : State) : State :=
  let keep (p : List (Nat × Nat)) : List (Nat × Nat) := p.filter (fun q => !ts.contains q.1)
  { s with stackMap := s.stackMap.map (fun p => (p.1, { p.2 with pool := keep p.2.pool })),
           deeps := s.deeps.map (fun p => (p.1, { p.2 with pool := keep p.2.pool })) }

/-- The engine queue entries that satisfy a condition are given up, at every home. -/
def dropEngine (f : EngEntry → Bool) (s : State) : State :=
  { s with stackMap := s.stackMap.map (fun p => (p.1, { p.2 with engine := p.2.engine.filter (fun e => !f e) })),
           deeps := s.deeps.map (fun p => (p.1, { p.2 with engine := p.2.engine.filter (fun e => !f e) })) }

/-- The migration commands, copies and collectives of a channel dropped. -/
def dropWork (c : Nat) (s : State) : State :=
  let s := (s.migs.filter (fun m => m.ch == c)).foldl (fun s m => dropMig m s) (dropEngine (fun e => e.ch == some c) s)
  let s := modCxl s (fun x => { x with engines := x.engines.map (fun e =>
    { e with queue := e.queue.filter (fun y => y.ch != c), inflight := e.inflight.filter (fun y => y.ch != c) }) })
  modLinks s (fun l => { l with groups := l.groups.map (fun p =>
    (p.1, { p.2 with colls := p.2.colls.filter (fun y => y.ch != c) })) })

/-- The groups of a channel marked ABORTED (R351, R455); a group of one member has nobody to rejoin and leaves ABORTED at
once (R454, log entry 62). -/
def abortGroups (c : Nat) (s : State) : State :=
  modLinks s (fun l => { l with groups := l.groups.map (fun p =>
    (p.1, if p.2.live && p.2.ch == c && !p.2.aborted then
      { p.2 with aborted := decide (1 < p.2.members.length), rejoined := false, colls := [] } else p.2)) })

/-- Every stage of a channel stopped. -/
def stopStages (c : Nat) (s : State) : State :=
  (chanTillers s c).foldl (fun s t => modTiller s t (stopTiller t)) s

/-- Every fetched command of a channel that has not finished completes with a status (R410, R455). -/
def finishAll (c status : Nat) (only : RingCmd → Bool) (s : State) : State :=
  ((chanAt s c).rings.cmds.filter (fun y => y.st != 2 && only y)).foldl (fun s y =>
    ringFinish c y.pos 0 status { src := .ring c, e := y.e, ch := c, pos := y.pos } [] s) s

/-- The step of the current attempt: the lowest step fetched without a record. -/
def attemptOf (k : Chan) : Nat := max (k.trn.recorded + 1) 1

/-- The update items and held contributions of a channel dropped from the stacks. -/
def dropStackWork (c : Nat) (s : State) : State :=
  { s with stackMap := s.stackMap.map (fun p => (p.1, { p.2 with
      holdBuf := p.2.holdBuf.filter (fun h => h.ch != c),
      updQueue := p.2.updQueue.filter (fun q => itemChan q != c),
      updWait := p.2.updWait.filter (fun q => itemChan q != c),
      run := if p.2.run.any (fun r => r.item.ch == c) then none else p.2.run })) }

/-- A recovery of the channel reports ST_RECOVERY_INEXACT whatever it does (R305, R409, R464): it is not deterministic, or its
last committed host-resident step lacks its COMMIT_ACK. -/
def inexactChan (k : Chan) : Bool := !k.det || (k.trn.sets.any (fun v => v.valid && v.hostRes) && decide (k.trn.acked < k.trn.committed))

/-- Count of the first entry of a step (Table 12.6). -/
def firstOf (k : Chan) (n : Nat) : Nat :=
  match k.trn.firsts.find? (fun p => p.1 == n) with | some p => p.2 % 2 ^ 32 | none => k.rings.cmdHead % 2 ^ 32

/-- The new arrays of a re-shard that does not end freed (R356, R358). -/
def dropReshard (c : Nat) (s : State) : State :=
  let s := (resh c s).newObjs.foldl (fun s oi => if (objAt s oi).valid then releaseObj s oi else s) s
  modLinks s (fun l => { l with reshards := smErase c l.reshards })

/-- The norm group of a channel has no other member (R454). -/
def normAlone (s : State) (c : Nat) : Bool :=
  !s.links.groups.any (fun p => p.2.live && p.2.ch == c && p.2.role == 3 && decide (1 < p.2.members.length))

/-- An attempt voided (R455), with the attempts of later steps: the next entry executed opens the replay of its step (R15, R16). A norm of
the voided attempt counts no more (R18). -/
def voidAttempt (c status : Nat) (s : State) : State :=
  let ts := chanTillers s c
  let s := dropPools ts s
  let s := ts.foldl (fun s t => modTiller s t (clearCfgs c t)) s
  let s := { s with flights := s.flights.filter (fun f => f.ch != c) }
  let s := dropStackWork c (dropWork c s)
  let s := finishAll c status (fun _ => true) s
  let k := chanAt s c
  let n := attemptOf k
  let first := firstOf k n
  let s := modChan s c (fun k => { k with barrier := [], waves := [], goHeld := false, loading := [], trn := { k.trn with
    vers := [], sheaves := [], actCount := [], ovf := [], close := none, deferred := [], deferNext := [], deferRest := [], itemsLeft := 0, normIn := false, normStep := if k.trn.normStep = n then 0 else k.trn.normStep,
    scaleReports := [], stepFetch := n, firsts := [], gradOut := [], hostCommit := none, ackStep := 0, phase := 5 } })
  let s := abortGroups c s
  let s := if (resh c s).active && normAlone s c then dropReshard c s else s
  let s := oweKind c 6 (if inexactChan k then ST_RECOVERY_INEXACT else status) n first 0 s
  migPump 64 (modChan s c (fun k => { k with rcv := { k.rcv with st := 1, voidStatus := status, resume := 0, resumed := false },
                                             rings := { k.rings with abortPos := k.rings.cmdHead, holds := [] } }))

/-- ST_RECOVERY_INEXACT reported (R301, R462, R464): the attempt is voided with it, and nothing further of the channel changes until host
software resumes it. -/
def reportInexact (c : Nat) (s : State) : State :=
  voidAttempt c ST_RECOVERY_INEXACT (logRec {
      source := 8, cause := 3, severity := 4, status := ST_RECOVERY_INEXACT, channel := handleOf s c, step := attemptOf (chanAt s c) }
    (setEv (.chn c) Reg.CHN_TRN_EVENT Bit.CHN_TRN_EVENT_INEXACT s))

/-- The attempt of a channel aborts with a status, for a reset of domain dom or 0xFF (R453, R454): it is voided at once
before STEP_CLOSE has been accepted, and held after; a norm group of one member decides at once, to finish a step whose norm
has completed. A channel that is already aborting keeps its first cause (R450). -/
def abortAttempt (c status dom : Nat) (s : State) : State :=
  let k := chanAt s c
  if !k.live || k.rcv.st == 1 || k.rcv.st == 2 then s
  else
    let n := attemptOf k
    let s := cntInc (.chn c) Reg.CHN_CNT_ABORTS (setEv (.chn c) Reg.CHN_RCV_EVENT Bit.CHN_RCV_EVENT_ABORT s)
    let s := wr s (.chn c) Reg.CHN_RCV_LAST (word (put status 15 0 + put dom 23 16 + put n 63 32))
    let s := if !inexactChan k then s else logRec { source := 8, cause := 3, severity := 4, status := ST_RECOVERY_INEXACT, channel := handleOf s c, step := n }
      (setEv (.chn c) Reg.CHN_TRN_EVENT Bit.CHN_TRN_EVENT_INEXACT s)
    let s := logRec { source := 8, cause := 2, severity := 2, domain := dom, status := status, channel := handleOf s c,
                      step := n } s
    let s := modChanRcv s c (fun r => { r with cause := dom })
    let s := stopStages c s
    if k.trn.close.isNone then voidAttempt c status s
    else if normAlone s c then
      if k.trn.normStep = n ∧ !k.trn.sets.any (fun v => v.valid && v.hostRes) then modChanRcv (abortGroups c s) c (fun r => { r with st := 3, voidStatus := status })
      else voidAttempt c status s
    else abortGroups c (modChanRcv s c (fun r => { r with st := 2, voidStatus := status }))

/-- A stage holding a mark whose token names a command that failed stops, and the attempt aborts (R419). -/
def failMarks (c : Nat) (s : State) : State :=
  let bad (g : Cfg) : Bool := cfgOf c g && g.stage.deps.any (fun d => d.valid && tokenFailed (chanAt s c).rings d.token g.loadPos)
  if s.tillers.any (fun p => bad p.2.act || bad p.2.shadow || bad p.2.dfr) then abortAttempt c ST_DEP_FAILED 0xFF s else s

/-! ### Faults of a stage -/

/-- A stage of a channel stopped on a tiller with a status: the channel's attempt aborts (R24, R453). -/
def stageStop (t c status : Nat) (s : State) : State := abortAttempt c status 0xFF (modTiller s t (stopTiller t))

/-- A sequencer fault of a stage of channel c (R128): recorded, its events set, the stage stopped with a status, and logged. -/
def seqFaultOf (t c ctx pc cause : Nat) (w : Word) (status : Nat) (s : State) : State :=
  let f := put cause 3 0 + put pc 17 4 + put ctx 18 18
  let s := wr (wr s (.tlr t) Reg.TLR_SEQ_FAULT (word f)) (.tlr t) Reg.TLR_SEQ_FAULT_WORD w
  let s := setEv (.tlr t) Reg.TLR_EVENT Bit.TLR_EVENT_STAGE_FAULT
    (setEv (.tlr t) Reg.TLR_VEC_EVENT Bit.TLR_VEC_EVENT_SEQ_FAULT s)
  let s := logRec { source := 1, cause := 1, severity := 2, status := status, channel := handleOf s c,
                    step := attemptOf (chanAt s c), detail := f + w.toNat * 2 ^ 64 + t * 2 ^ 128 } s
  stageStop t c status s

/-- A sequencer fault of the stage that runs in a context. -/
def seqFault (t ctx pc cause : Nat) (w : Word) (status : Nat) (s : State) : State :=
  seqFaultOf t (if ctx = 0 then (tillerAt s t).act else (tillerAt s t).dfr).chan ctx pc cause w status s

/-! ### Reset domains (R434 to R436, R439) -/

/-- The codes of Table 13.3. -/
def isDomain (d : Nat) : Bool :=
  d < 0x34 || (0x38 ≤ d && d < 0x3E) || d == 0x40 || d == 0x48 || d == 0x7E || d == 0x7F

/-- The device is in a reset sequence of its own. -/
def deviceReset (s : State) : Bool := (domainAt s 0x7E).seq.isSome || (domainAt s 0x7F).seq.isSome

/-- A tiller request outstanding at a home. -/
def homeHasTiller (s : State) (h t : Nat) : Bool :=
  if h < 16 then (stackAt s h).pool.any (fun q => q.1 == t) else (deepAt s (h - 16)).pool.any (fun q => q.1 == t)

/-- The homes of a domain. -/
def domainHomes (d : Nat) : List Nat :=
  if 0x20 ≤ d ∧ d < 0x30 then [d - 0x20]
  else if 0x30 ≤ d ∧ d < 0x34 then (List.range 8).map (fun i => 16 + 8 * (d - 0x30) + i) else []

/-- The stacks that hold tiles of a sheaf's accumulation area. -/
def sheafStacks (s : State) (f : Sheaf) : List Nat :=
  let o := objAt s f.accObj
  let tb := if f.bf16 then 8192 else 16384
  ((readRuns s o 0 f.accOffset (f.tiles * tb)).map (fun r => keyHome r.1)).eraseDups

/-- The ports that a group's axis uses; all ports for the norm group and routes off the axis (R453). -/
def groupPorts (g : Group) : List Nat := if g.ring ∧ g.axis < 3 then [2 * g.axis, 2 * g.axis + 1] else List.range 6

/-- A channel uses a domain (R453). -/
def usesDomain (s : State) (c d : Nat) : Bool :=
  if d < 0x20 then (quadTillers d).any (fun t => (chanTillers s c).contains t)
  else if d < 0x34 then
    (domainHomes d).any (fun h =>
      (chanTillers s c).any (fun t => homeHasTiller s h t) || (engineOf s h).any (fun e => e.ch == some c) ||
      (chanAt s c).trn.sheaves.any (fun f => (sheafStacks s f).contains h) ||
      (h < 16 && (itemsOf (stackAt s h)).any (fun i => i.ch == c)))
  else if 0x38 ≤ d ∧ d < 0x3E then
    s.links.groups.any (fun p => p.2.live && p.2.ch == c && !p.2.colls.isEmpty && (groupPorts p.2).contains (d - 0x38))
  else d == 0x7E || d == 0x7F

/-- The arrays of a fenced tiller quad discard their commands and abandon their pass (R74). -/
def fenceArrays (d : Nat) (s : State) : State :=
  if d < 0x20 then (quadTillers d).foldl (fun s t => modTiller s t (stopArray t)) s else s

/-- Step 1 of a reset sequence: the domain is fenced and the attempts that use it abort with ST_RESET (R448, R453). -/
def startReset (d trig : Nat) (s : State) : State :=
  if (domainAt s d).seq.isSome || (deviceReset s && d != 0x7F) then s
  else
    let s := fenceArrays d (modDomain s d (fun x => { x with fenced := true, seq := some { step := 1, trigger := trig, startUs := s.us } }))
    (liveChans s).foldl (fun s c => if usesDomain s c d then abortAttempt c ST_RESET d s else s) s

/-- The state field and event of a unit whose domain is flagged and fenced; the arrays of a quad stop (R74). -/
def flagUnits (d : Nat) (s : State) : State :=
  let s := fenceArrays d s
  (domainHomes d).foldl (fun s h =>
    if h < 16 then setEv (.yst h) Reg.YST_EVENT Bit.YST_EVENT_FLAGGED (modStack s h (fun x => { x with st := 2 }))
    else setEv (.dtr (h - 16)) Reg.DTR_EVENT Bit.DTR_EVENT_FLAGGED (modDeep s (h - 16) (fun x => { x with st := 2 }))) s

end Sys2Proof.Machine
end

