-- ==== Sys2Proof/Machine/ChanOps.lean ====
section
/-! DEFINITION. Operations of channels shared by commands: host windows and rings (R375, R412), host writes (R374), fencing
(R382, R410), and the freeing of what a channel holds (R231, R386, R411). -/

namespace Sys2Proof.Machine

open Sys2Proof

/-- CHN_STATE.STATE (Table 12.10). -/
def chanState (k : Chan) : Nat :=
  if !k.live then 0 else if k.destroying then 5 else if k.fenced then 3 else if !k.attached then 4 else if k.stalled then 2 else 1

/-- A channel is pinned (R359). -/
def chanPinned (s : State) (c : Nat) : Bool :=
  (chanAt s c).trn.sets.any (fun x => x.valid && x.hostRes) || (liveObjs s).any (fun p => p.2.owner == c && !p.2.orphan && p.2.enc)

/-- The CHN_STATE register. -/
def chanStateReg (s : State) (c : Nat) : Word :=
  let k := chanAt s c
  word (put (chanState k) 2 0 + putB k.det 3 + putB (chanPinned s c) 4 + putB k.rings.cplFull 5 + putB k.logFull 6 +
    put (k.rings.stallPos % 2 ^ 32) 63 32)

/-- A host range lies wholly in one window of a channel with the needed permission (R375). -/
def inWindow (k : Chan) (wrt : Bool) (base len : Nat) : Bool :=
  k.windows.any (fun p => (if wrt then p.2.wr else p.2.rd) && decide (p.2.base ≤ base) &&
    decide (base + len ≤ p.2.base + p.2.len))

/-- A range of device addresses lies in an object that the channel owns and can write, and in PCIe mode in a region that it
registered (R363, R412). -/
def devRangeOk (s : State) (c base len : Nat) : Bool :=
  match objOfDa s base with
  | none => false
  | some (oi, o) =>
    mayWrite c o && decide (base + len ≤ o.baseDa + o.size) &&
    (s.cxl.mode != 2 || s.cxl.regions.any (fun p => p.2.valid && p.2.ch == c && p.2.obj == oi &&
      decide (o.baseDa + p.2.offset ≤ base) && decide (base + len ≤ o.baseDa + p.2.offset + p.2.len)))

/-- One ring's place is within the limits of R412. -/
def ringOk (s : State) (c : Nat) (wrt : Bool) (base : Nat) (cfg : Word) : Bool :=
  let n := bits cfg 4 0
  decide (6 ≤ n) && decide (n ≤ 16) && base % (64 * 2 ^ n) == 0 &&
  (if bit cfg 5 then devRangeOk s c base (64 * 2 ^ n) else inWindow (chanAt s c) wrt base (64 * 2 ^ n))

/-- Host requests may be issued: the port is ATTACHED and IDE, where required, is active (R364, R393). -/
def hostOpen (s : State) : Bool :=
  s.cxl.attach == 0 && (!s.boot.settings.ideRequired || (s.cxl.ideIo && (s.cxl.ideCm || s.cxl.mode == 2)))

/-- A host write issued: outstanding until its GO (R374). -/
def hostWrite (who unit pos addr : Nat) (data : List Byte) (msi : Option Nat) (s : State) : State :=
  modCxl s (fun x => { x with writes := x.writes ++ [{ id := x.nextId, who := who, unit := unit, pos := pos, addr := addr,
                                                       data := data, msi := msi }], nextId := x.nextId + 1 })

/-- A host read issued: outstanding until it returns (R374). -/
def hostRead (who unit pos addr len : Nat) (s : State) : State :=
  modCxl s (fun x => { x with reads := x.reads ++ [{ id := x.nextId, who := who, unit := unit, pos := pos, addr := addr, len := len }],
                              nextId := x.nextId + 1 })

/-- The copies of a channel stopped: each completes with a status (R382, R393, R396). Bytes already written stay. -/
def stopCopies (c status : Nat) (s : State) : State :=
  let ys := s.cxl.engines.flatMap (fun e => (e.inflight ++ e.queue).filter (fun y => y.ch == c))
  let s := modCxl s (fun x => { x with
    engines := x.engines.map (fun e => { e with queue := e.queue.filter (fun y => y.ch != c),
                                                inflight := e.inflight.filter (fun y => y.ch != c) }) })
  ys.foldl (fun s y => match y.pos with | some p => finishRing c p status [word y.done] s | none => s) s

/-- A channel fenced (R410). -/
def fenceChan (c : Nat) (s : State) : State :=
  let k := chanAt s c
  if !k.live || k.fenced then s
  else
    let s := setEv (.chn c) Reg.CHN_EVENT Bit.CHN_EVENT_FENCED (modChan s c (fun k => { k with fenced := true }))
    let s := stopCopies c ST_FENCED s
    let s := finishAll c ST_FENCED (fun y => y.st == 0) s
    abortAttempt c ST_FENCED 0xFF s

/-- Objects of a destroyed channel freed, or orphaned while another member shares them (R231). -/
def freeChanObjs (c : Nat) (s : State) : State :=
  let s := (liveObjs s).foldl (fun s p =>
    let o := p.2
    if o.owner = c ∧ !o.orphan then
      if o.shared && (smGet (fun _ => {}) s.shareGroups o.group).members.any (fun m => m != c) then
        let n := objGranules o
        let dropQ (s : State) (tier : Nat) : State := modUsed s c tier (· - 1)
        let s := (List.range n).foldl (fun s g =>
          let r := granAt s o g
          let s := dropQ s r.homeTier
          if r.replTier ≠ 0 then dropQ s r.replTier else s) s
        setObj s p.1 { o with orphan := true }
      else releaseObj s p.1
    else s) s
  let s := { s with shareGroups := s.shareGroups.map (fun p =>
    (p.1, { p.2 with holder := if p.2.holder == some c then none else p.2.holder, members := p.2.members.filter (· != c) })) }
  (liveObjs s).foldl (fun s p =>
    if p.2.orphan && (smGet (fun _ => {}) s.shareGroups p.2.group).members.isEmpty then releaseObj s p.1 else s) s

/-- Key slots whose owner no longer lives and that no live object names are cleared (R519). -/
def sweepKeys (s : State) : State :=
  modBoot s (fun b => { b with keys := b.keys.filter (fun p =>
    !p.2.filled || (chanAt s (p.2.owner % 4096)).live && handleOf s (p.2.owner % 4096) == p.2.owner ||
    (liveObjs s).any (fun q => q.2.enc && q.2.keySlot == p.1)) })

/-- Everything a destroyed channel holds freed (R411). -/
def freeChan (c : Nat) (s : State) : State :=
  let s := modCxl s (fun x => { x with regions := x.regions.filter (fun p => p.2.ch != c) })
  let s := modLinks s (fun l => { l with groups := l.groups.filter (fun p => p.2.ch != c)
                                         reshards := smErase c l.reshards })
  freeChanObjs c s

/-- Bytes of a completion record in its slot (R423). -/
def recBytes (r : CplRec) (phase : Bool) : List Byte :=
  leBytes 4 (put r.opcode 7 0 + putB phase 8 + put r.kind 11 9 + put r.status 31 16) ++ leBytes 4 r.handle ++
  leBytes 8 r.user.toNat ++ leBytes 4 r.ringPos ++ leBytes 4 0 ++
  [r.r0, r.r1, r.r2, r.r3, r.r4].flatMap (fun w => leBytes 8 w.toNat)

/-- An entry from its 64 bytes. -/
def entryOf (bs : List Byte) : Entry :=
  let w (k : Nat) : Word := word (leValue ((bs.drop (8 * k)).take 8))
  { w0 := w 0, user := w 1, a0 := w 2, a1 := w 3, a2 := w 4, a3 := w 5, a4 := w 6, a5 := w 7 }

/-- n bytes at a device address, and a write there. -/
def daRead (a : Agent) (da n : Nat) (s : State) : State × List Byte × RdCause :=
  match objOfDa s da with
  | none => (s, List.replicate n 0, 9)
  | some (oi, o) => objRead a oi (da - o.baseDa) n s
def daWrite (a : Agent) (da : Nat) (bs : List Byte) (s : State) : State :=
  match objOfDa s da with
  | none => s
  | some (oi, o) => objStore a oi (da - o.baseDa) bs s

end Sys2Proof.Machine
end

