-- ==== Sys2Proof/Machine/Views.lean ====
section
/-! DEFINITION. What a read of BAR0 returns (R10): stored registers, and the registers that show the state they stand for
(Tables 2.13 to 15.12). The error log record and the module's reset domains are shown here too. -/

namespace Sys2Proof.Machine

open Sys2Proof

/-- A tag limit in force: 0 means 48 (Table 2.3). -/
def effTags (d : StageDesc) : Nat := if d.tagLimit = 0 then 48 else d.tagLimit

/-- A request of a tiller holds a tag (R58). -/
def holdsTag (q : MemReq) : Bool := q.sent && !q.landed


/-- MON_RCV_DOMAIN.STATE (Table 13.15). -/
def domState (x : Domain) : Nat :=
  if x.retired then 4 else if x.seq.isSome then 3 else if x.flagged && !x.fenced then 1 else if x.fenced then 2 else 0

/-- A tiller's quad is fenced, so its state reads FENCED (R441, R452). -/
def quadFenced (s : State) (t : Nat) : Bool :=
  let d := domainAt s (tillerQuad t)
  d.fenced || d.retired || d.seq.isSome

/-- Microbatch of the next prefetch of an active stage (Table 2.16): that of its last one or the one after it, which the tiles the
spec leaves unplaced decide (log entry 111). -/
def nextPrefetchMb (t : Nat) (g : Cfg) : Nat :=
  match g.pfLast with
  | [] => 0
  | p :: _ => p.2.1 + (if Config.prefetchMoves t p.2.1 p.2.2.1 p.2.2.2 then 1 else 0)

/-- The registers of a tiller that show its state (Tables 2.13 to 2.16, 3.7, 4.10, 4.12). TLR_ARR_STATUS.FORM is the active stage's
form, and 0 without one, while a deferred stage runs too (log entry 112). -/
def viewTlr (s : State) (t off : Nat) : Word :=
  let u := tillerAt s t
  let x := if u.cur = 0 then u.ctxA else u.ctxD
  let head := u.ftq.getD u.ftqHead {}
  if off = Reg.TLR_ID then
    word (put (tillerCol t) 3 0 + put (tillerRow t) 6 4 + put (tillerField t) 8 7 + put (tillerQuad t) 13 9 + put t 20 14)
  else if off = Reg.TLR_STATE then
    word (put u.st 2 0 + putB (u.shadow.valid && u.shadow.complete) 3 + putB u.admitted 4 + putB (u.ctxA.wait == 10) 5 +
      put u.act.stage.stageId 15 8 + put u.act.chan 27 16 + put u.act.graph.layerTag 63 32)
  else if off = Reg.TLR_TAGS then
    word (put (u.reqs.filter holdsTag).length 5 0 + (if u.act.valid then put (effTags u.act.stage) 13 8 else 0) +
      put (u.reqs.filter (fun q => !q.sent)).length 24 16 + put (u.reqs.filter tracked).length 34 25)
  else if off = Reg.TLR_PREFETCH then
    word (put (nextPrefetchMb t u.act) 15 0 + put (u.act.pfMark.getD 0) 17 16 + putB u.act.pfMark.isSome 18 +
      putB (u.reqs.any (fun q => q.who == 2)) 19)
  else if off = Reg.TLR_ARR_STATUS then
    word (put (if u.act.valid then u.act.form else 0) 1 0 + putB u.arr.stat.isSome 2 + putB u.arr.pass.isSome 3 +
      putB u.arr.holdInput 4 + putB u.arr.holdFtq 5 + putB u.arr.holdPort 6 + put u.arr.wsBank 7 7 + putB (!u.arr.flush.isEmpty) 8 +
      put u.arr.queue.length 15 12 + put (match u.arr.stat with | some x => x.stageId | none => 0) 23 16)
  else if off = Reg.TLR_SEQ_STATUS then
    word (put x.pc 13 0 + put u.cur 14 14 + put u.vq.length 19 16 + put x.wait 23 20 + putB (u.shadow.valid && u.shadow.complete) 24)
  else if off = Reg.TLR_FTQ_STATUS then
    word ((u.ftq.zipIdx.map (fun p => put p.1.st 1 0 <<< (2 * p.2))).sum + put u.ftqHead 18 16 + put u.ftqNext 21 19 +
      put u.ftqOff 35 23 + put (if head.st = 2 then head.rows else 0) 42 36)
  else rd s (.tlr t) off

def viewYst (s : State) (i off : Nat) : Word :=
  let x := stackAt s i
  if off = Reg.YST_ID then word (put i 3 0 + put (i / 4) 5 4 + put 16 10 6 + put 96 20 11)
  else if off = Reg.YST_STATUS then
    word (put x.st 1 0 + putB x.refresh2x 2 + put x.tempMax 10 3 + put x.hotDie 14 11 + put x.pool.length 28 16 +
      put x.holdBuf.length 38 29 + put x.updQueue.length 45 39 + put x.engine.length 55 46)
  else rd s (.yst i) off

def viewDtr (s : State) (d off : Nat) : Word :=
  let x := deepAt s d
  if off = Reg.DTR_ID then word (put d 4 0 + put (d / 8) 6 5 + put 64 13 7)
  else if off = Reg.DTR_STATUS then word (put x.st 1 0 + put x.temp 9 2 + put x.pool.length 22 10 + put x.engine.length 32 23)
  else rd s (.dtr d) off

def viewPlc (s : State) (off : Nat) : Word :=
  if off = Reg.PLC_STATUS then
    word (put (liveObjs s).length 17 0 + put (s.migs.flatMap (fun m => m.moves.filter (fun v => v.phase ≤ 2))).length 21 18)
  else if off = Reg.PLC_FREE_STACK then word (framesFree s 1)
  else if off = Reg.PLC_FREE_DEEP then word (framesFree s 2)
  else rd s .plc off

/-- Word k of a byte string. -/
def leWord (bs : List Byte) (k : Nat) : Word := word (leValue ((bs.drop (8 * k)).take 8))

/-- A route entry (Table 10.7) of the routing layer. -/
def routeAt (s : State) (n : Nat) : BitVec 32 := smGet (fun _ => 0) s.links.routes n

def viewPort (s : State) (p off : Nat) : Word :=
  let x := portAt s p
  if off = Reg.ABL_PORT_STATUS then
    word (put x.st 2 0 + put x.lanes 10 3 + putB x.huskPeer 11 + put x.peerId 27 12 + putB x.peerValid 28 + putB x.retraining 29 +
      put (domainAt s (0x38 + p)).gen 47 32)
  else if off = Reg.ABL_PORT_CTRL then rd s (.ablPort p) off ||| word (putB x.wrap 2)
  else rd s (.ablPort p) off

/-- A region table entry (Table 11.7) as its bytes. -/
def regionBytes (r : Region) : List Byte :=
  leBytes 4 (putB r.valid 0 + putB r.rd 1 + putB r.wr 2 + putB r.pasidReq 3 + put r.ch 27 16) ++ leBytes 4 (put r.obj 16 0) ++
  leBytes 8 r.offset ++ leBytes 4 r.len ++ leBytes 4 (put r.reqId 15 0 + put r.reqMask 31 16) ++ leBytes 4 (put r.pasid 19 0) ++
  leBytes 4 0

def viewCxp (s : State) (off : Nat) : Word :=
  let x := s.cxl
  if off = Reg.CXP_STATUS then
    word (put x.mode 1 0 + put x.width 6 2 + put x.rate 9 7 + put x.attach 11 10 + putB x.ideIo 12 + putB x.ideCm 13 +
      putB x.hdm.isSome 14 + putB s.boot.settings.ideRequired 15 + put x.detachCause 19 16)
  else if 0x40 ≤ off ∧ off < 0xA0 then
    let e := x.engines.getD ((off - 0x40) / 8) {}
    word (put e.queue.length 8 0 + put e.inflight.length 11 9 + put (match e.inflight with | y :: _ => y.ch | [] => 0) 23 12)
  else if 0x8000 ≤ off then
    leWord (regionBytes (smGet (fun _ => {}) x.regions ((off - 0x8000) / 32))) ((off - 0x8000) % 32 / 8)
  else rd s .cxp off

def viewMbx (s : State) (m off : Nat) : Word :=
  let b := mbxAt s m
  if off = Reg.MBX_STATUS then word (put b.st 1 0 + put b.status 31 16 + put b.seq 47 32 + put b.ticket 53 48)
  else if 0x80 ≤ off ∧ off < 0xC0 then leWord (recBytes b.result false) ((off - 0x80) / 8)
  else if off = Reg.MBX_CTRL then rd s (.mbx m) off ||| word (putB (m == 0) 12)
  else if off = Reg.MBX_RES_TAIL then word (b.resTail % 2 ^ 32)
  else if 0x1000 ≤ off ∧ off < 0x2000 then
    let k := (off - 0x1000) / 64
    match b.ring.find? (fun p => p.1 == k) with
    | some p => leWord (recBytes p.2 (phaseOf p.2.ringPos 6)) (off % 64 / 8)
    | none => 0
  else rd s (.mbx m) off

/-- A mask of tillers, from tiller lo upward. -/
def tillerMask (ts : List Nat) (lo : Nat) : Word :=
  word ((List.range 64).map (fun i => putB (ts.contains (lo + i)) i)).sum

def viewChn (s : State) (c off : Nat) : Word :=
  let k := chanAt s c
  let g := k.rings
  let t := k.trn
  if !k.live then 0
  else if off = Reg.CHN_HANDLE then word (handleOf s c)
  else if off = Reg.CHN_STATE then chanStateReg s c
  else if off = Reg.CHN_CMD_BASE then word g.cmdBase
  else if off = Reg.CHN_CPL_BASE then word g.cplBase
  else if off = Reg.CHN_RING_CFG then
    word (put g.cmdN 4 0 + putB g.cmdDev 5 + put g.cplN 12 8 + putB g.cplDev 13 + put g.vector 26 16 + putB g.irqEn 27 +
      put g.coalRecords 35 28 + put g.coalUs 51 36)
  else if off = Reg.CHN_CMD_HEAD then word (g.cmdHead % 2 ^ 32)
  else if off = Reg.CHN_CMD_TAIL then word (g.cmdTail % 2 ^ 32)
  else if off = Reg.CHN_CPL_TAIL then word (g.cplTail % 2 ^ 32)
  else if off = Reg.CHN_CPL_HEAD then word g.cplHead
  else if off = Reg.CHN_GRANT_LO then tillerMask k.grant 0
  else if off = Reg.CHN_GRANT_HI then tillerMask k.grant 64
  else if off = Reg.CHN_QUOTA then word (put k.quota.1 31 0 + put k.quota.2 63 32)
  else if off = Reg.CHN_LOG then word (put k.detachLog 16 0 + put k.logRecs 33 17 + put k.logged 50 34)
  else if off = Reg.CHN_NUM_STATUS then
    word (put (unsignedOf 8 t.lsExp) 7 0 + put t.clean 27 8 + putB (t.ovf.contains t.stepCur) 28 + put t.consecSkips 63 32)
  else if off = Reg.CHN_SR_SEED then t.seed
  else if off = Reg.CHN_STEP_CURRENT then word t.stepCur
  else if off = Reg.CHN_STEP_COMMITTED then word t.committed
  else if off = Reg.CHN_NORM_LAST then word (t.norm.toNat + t.clip.toNat * 2 ^ 32)
  else if off = Reg.CHN_TRN_STATUS then
    word (put t.phase 2 0 + put t.sheaves.length 13 3 + put t.deferred.length 20 14 + putB t.deltaBroken 21 + putB (t.ackStep != 0) 22)
  else if off = Reg.CHN_DELTA_HEAD then word t.deltaHead
  else if off = Reg.CHN_DELTA_TAIL then word t.deltaTail
  else if off = Reg.CHN_RCV_STATUS then word (put k.rcv.st 1 0)
  else rd s (.chn c) off

/-- An error log record as its 64 bytes (Table 13.10). -/
def logBytes (seq : Nat) (r : LogRec) : List Byte :=
  let b := leBytes 4 (put r.source 7 0 + put r.cause 15 8 + put r.severity 18 16 + put r.domain 31 24) ++
    leBytes 4 (put r.gen 15 0 + put r.status 31 16) ++ leBytes 8 seq ++ leBytes 8 r.time ++ leBytes 4 r.channel ++
    leBytes 4 r.stook ++ leBytes 8 r.step ++ leBytes 20 r.detail
  b ++ leBytes 4 (crc32c b)

/-- A log record held: in retention SRAM, or in the flash log (R466). -/
def logAt (s : State) (seq : Nat) : Option LogRec :=
  match s.rcv.log.find? (fun p => p.1 == seq) with
  | some p => some p.2
  | none => (s.boot.logFlash.find? (fun p => p.1 == seq)).map (·.2)

/-- Domains in a reset sequence. -/
def resettingCount (s : State) : Nat := (s.rcv.domains.filter (fun p => p.2.seq.isSome)).length

def viewMon (s : State) (off : Nat) : Word :=
  let bytesOf (l : List Nat) (k : Nat) : Word := word (leValue (((l.drop (8 * k)).take 8).map (fun v => BitVec.ofNat 8 v)))
  if off = Reg.MON_UPTIME_US then word s.us
  else if 0x100 ≤ off ∧ off < 0x128 then bytesOf s.power.dieTemp ((off - 0x100) / 8)
  else if off = 0x128 then bytesOf s.power.regTemp 0
  else if 0x200 ≤ off ∧ off < 0x240 then
    word ((List.range 4).map (fun j => put (s.power.proc.getD ((off - 0x200) / 8 * 4 + j) 0) 15 0 <<< (16 * j))).sum
  else if off = Reg.MON_RCV_STATUS then
    word (put s.rcv.activeCore 0 0 + putB s.rcv.standby 1 +
      putB (s.rcv.domains.any (fun p => p.2.seq.any (fun q => q.step == 2))) 2 + put (resettingCount s) 8 3 + putB s.rcv.lastCold 9)
  else if off = Reg.MON_RCV_HEARTBEAT then word s.rcv.heartbeat
  else if off = Reg.MON_RCV_STOOK_LAST then
    match s.rcv.lastSaved with
    | none => 0
    | some k => word (put k.id 31 0 + put k.domain 39 32 + putB k.inHost 40 + putB k.inFlash 41 + putB k.truncated 42 + putB true 43)
  else if off = Reg.MON_RCV_LOG_TAIL then word s.rcv.logTail
  else if 0x8080 ≤ off ∧ off < 0x80C0 then
    let seq := (rd s .mon Reg.MON_RCV_LOG_SEL).toNat
    match logAt s seq with | some r => leWord (logBytes seq r) ((off - 0x8080) / 8) | none => 0
  else if 0x8100 ≤ off ∧ off < 0x8500 then
    let n := (off - 0x8100) / 8
    if isDomain n then
      let x := domainAt s n
      word (put (domState x) 2 0 + put x.gen 31 16 + put (match x.seq with | some q => q.step | none => 0) 35 32)
    else 0
  else rd s .mon off

/-- The throttle level in force (R475). -/
def levelOf (s : State) : Nat :=
  max (max s.power.capLevel s.power.thermLevel) (bits (rd s .pwr Reg.PWR_CTRL) 13 11)

def viewPwr (s : State) (off : Nat) : Word :=
  let p := s.power
  if off = Reg.PWR_STATUS then
    word (put p.applied 2 0 + putB p.stretch 3 + putB p.hold 4 + putB p.admitPaused 5 + put p.capLevel 8 6 + put p.thermLevel 11 9 +
      put p.tjMax 19 12 + ((List.range 16).map (fun i => putB (stackAt s i).thermal (32 + i))).sum +
      ((List.range 4).map (fun g => putB ((List.range 8).any (fun i => (deepAt s (8 * g + i)).thermal)) (48 + g))).sum)
  else if off = Reg.PWR_INPUT then word (put p.inputMw 31 0 + put p.vinMv 47 32)
  else if off = Reg.PWR_VCORE then word (put p.vcoreNow 15 0 + put p.vcoreMin 31 16)
  else rd s .pwr off

/-- BOOT_ID of a TX9 (Table 15.12). -/
def bootId : Nat := put 0x09 7 0 + put 0x3042 23 8 + put 128 31 24 + put 32 39 32 + put 16 44 40 + put 32 50 45 + put 6 53 51 + put 12 57 54

def viewBoot (s : State) (off : Nat) : Word :=
  let b := s.boot
  if off = Reg.BOOT_ID then word bootId
  else if off = Reg.BOOT_SERIAL then b.serial
  else if off = Reg.BOOT_STATUS then
    word (put b.stage 2 0 + putB b.mixed 3 + putB b.identityOk 4 + putB b.settingsDefault 5 + putB b.fromStaging 6 + put b.activeSt 9 8 +
      put b.stagingSt 12 10 + put b.fuseSvn 20 13 + put b.imageSvn 28 21 + put b.settings.format 47 32)
  else if off = Reg.BOOT_FW_VERSION then word b.fwVersion
  else if off = Reg.BOOT_RCV_STATUS then word (put b.rcvState 1 0 + put b.rcvReason 7 4 + put b.staging.blocks.length 20 8)
  else if 0x1000 ≤ off ∧ off < 0x2000 then 0
  else rd s .boot off

/-- The reset domain of a register block's window, if it has one (Table 13.3). -/
def blkDomain : Blk → Option Nat
  | .tlr t => some (tillerQuad t) | .yst i => some (0x20 + i) | .dtr d => some (0x30 + d / 8) | .ablPort p => some (0x38 + p)
  | .hsk e => if 8 ≤ e ∧ e < 40 then some (0x30 + (e - 8) / 8) else if e < 6 then some (0x38 + e) else if e = 6 then some 0x40 else none
  | _ => none

/-- A window is fenced: its registers read zero and take no write, except its state field (R441). -/
def blkFenced (s : State) (b : Blk) : Bool :=
  match blkDomain b with | some d => (domainAt s d).fenced || (domainAt s d).retired | none => false

/-- A register as BAR0 shows it, by block and offset. -/
def viewBlk (s : State) (b : Blk) (off : Nat) : Word :=
  if blkFenced s b then
    match b with
    | .tlr _ => if off = Reg.TLR_STATE then 5 else 0
    | .yst _ => if off = Reg.YST_STATUS then 3 else 0
    | .dtr _ => if off = Reg.DTR_STATUS then 3 else 0
    | _ => 0
  else match b with
    | .mbx m => viewMbx s m off | .cxp => viewCxp s off | .pwr => viewPwr s off | .mon => viewMon s off | .boot => viewBoot s off
    | .plc => viewPlc s off | .yst i => viewYst s i off | .dtr d => viewDtr s d off | .tlr t => viewTlr s t off
    | .ablPort p => viewPort s p off | .chn c => viewChn s c off
    | .abl => if off = Reg.ABL_TORUS then
        word (put s.links.deviceId 15 0 + put s.links.dims 31 16 + putB s.links.assigned 32) else rd s .abl off
    | .hsk e => rd s (.hsk e) off

/-- The 64 bits at a BAR0 offset that is a multiple of 8 (R10): write-only registers, and offsets of no register, read
zero. -/
def readReg (s : State) (a : Nat) : Word :=
  if 0x290000 ≤ a ∧ a < 0x2D0000 then
    let n := (a - 0x290000) / 4
    word ((routeAt s n).toNat + (routeAt s (n + 1)).toNat * 2 ^ 32)
  else match blkOf a with
    | some (b, off) => viewBlk s b off
    | none => 0

end Sys2Proof.Machine
end

