-- ==== Sys2Proof/Machine/Tile.lean ====
section
/-! DEFINITION. What every instruction of a tiller shares: the running context, the scalar registers, tile store and its
regions, the hazards between units of one tiller (R112 to R115), and the issue of an instruction (R97, R128). -/

namespace Sys2Proof.Machine

open Sys2Proof

/-! ### The running context -/

/-- Configuration and context that run (R96): the active or the deferred ones. -/
def curCfg (u : Tiller) : Cfg := if u.cur = 0 then u.act else u.dfr
def curCtx (u : Tiller) : Ctx := if u.cur = 0 then u.ctxA else u.ctxD
def setCtx (u : Tiller) (x : Ctx) : Tiller := if u.cur = 0 then { u with ctxA := x } else { u with ctxD := x }
def setCfg (u : Tiller) (g : Cfg) : Tiller := if u.cur = 0 then { u with act := g } else { u with dfr := g }
def modCtx (t : Nat) (f : Ctx → Ctx) (s : State) : State := modTiller s t (fun u => setCtx u (f (curCtx u)))
def modCfg (t : Nat) (f : Cfg → Cfg) (s : State) : State := modTiller s t (fun u => setCfg u (f (curCfg u)))

/-- A configuration by the number of the stage that asks: 0 active, 1 deferred, 2 shadow. -/
def cfgBy (u : Tiller) (who : Nat) : Cfg := if who = 0 then u.act else if who = 1 then u.dfr else u.shadow
def modCfgBy (who t : Nat) (f : Cfg → Cfg) (s : State) : State :=
  modTiller s t (fun u => if who = 0 then { u with act := f u.act } else if who = 1 then { u with dfr := f u.dfr }
    else { u with shadow := f u.shadow })

/-- A scalar register; S0 reads as zero (Table 4.1). -/
def sregOf (l : List Word) (n : Nat) : Word := if n = 0 then 0 else l.getD n 0
/-- A scalar register written; S0 ignores it (Table 4.1). -/
def setSregs (l : List Word) (n : Nat) (v : Word) : List Word := if n = 0 then l else l.set n v
def sreg (u : Tiller) (n : Nat) : Word := sregOf (curCtx u).sregs n
def setSreg (t n : Nat) (v : Word) (s : State) : State := modCtx t (fun x => { x with sregs := setSregs x.sregs n v }) s

/-- The channel of the running stage. -/
def tillerChan (u : Tiller) : Nat := (curCfg u).chan

/-! ### Regions (R24) -/

/-- First byte of the regions of a stage, and the byte after them. -/
def tsFirst (d : StageDesc) : Nat := d.tsBase * 1024
def tsEnd (d : StageDesc) : Nat := (d.tsBase + d.tsIn + d.tsW + d.tsOut + d.tsScratch) * 1024
/-- n bytes at a lie in the four regions of the stage. -/
def inRegions (d : StageDesc) (a n : Nat) : Bool := decide (tsFirst d ≤ a) && decide (a + n ≤ tsEnd d)
/-- n bytes at a lie in the input region, in the weight region, in the output or scratch regions. -/
def inInput (d : StageDesc) (a n : Nat) : Bool := decide (tsFirst d ≤ a) && decide (a + n ≤ tsFirst d + d.tsIn * 1024)
def inWeights (d : StageDesc) (a n : Nat) : Bool :=
  decide (tsFirst d + d.tsIn * 1024 ≤ a) && decide (a + n ≤ tsFirst d + (d.tsIn + d.tsW) * 1024)
def inOutScratch (d : StageDesc) (a n : Nat) : Bool :=
  (decide (tsFirst d + (d.tsIn + d.tsW) * 1024 ≤ a) && decide (a + n ≤ tsFirst d + (d.tsIn + d.tsW + d.tsOut) * 1024)) ||
  (decide (tsFirst d + (d.tsIn + d.tsW + d.tsOut) * 1024 ≤ a) && decide (a + n ≤ tsEnd d))

/-- Bytes of a slot that holds a tile of a format: rounded up to a multiple of 256 (R24). -/
def slotBytesOf (f : Format) : Nat := ceilDiv f.tileBytes 256 * 256
/-- The same by code; 0 for no format. -/
def slotSize (code : Nat) : Nat := match formatOf code with | some f => slotBytesOf f | none => 0
/-- Tile bytes by code. -/
def tileSize (code : Nat) : Nat := match formatOf code with | some f => f.tileBytes | none => 0

/-! ### Tile store -/

/-- Two byte ranges (first, end) meet. -/
def overlap (x y : Nat × Nat) : Bool := decide (x.1 < y.2) && decide (y.1 < x.2)
def meets (x : Nat × Nat) (l : List (Nat × Nat)) : Bool := l.any (overlap x)

/-- Byte k of a range left unspecified. -/
def freeIn (r : FreeRange) (k : Nat) : Byte := if r.owner = 0 then Config.freeByte r.draw k else Config.abandonByte r.owner r.draw k
/-- The latest range that holds k. -/
def freeAt (l : List FreeRange) (k : Nat) : Option FreeRange := l.find? (fun r => decide (r.lo ≤ k) && decide (k < r.hi))

/-- What an unlisted byte of tile store reads as: an unspecified byte in a range left unspecified, else zero. -/
def tsDefault (u : Tiller) (k : Nat) : Byte := match freeAt u.tsFree k with | some r => freeIn r k | none => 0

def tsRaw (u : Tiller) (a n : Nat) : List Byte := smReadRun (tsDefault u) u.ts a n
def tsWrite (t a : Nat) (bs : List Byte) (s : State) : State :=
  modTiller s t (fun u => { u with ts := smWriteRun (tsDefault u) u.ts a bs })

/-- A range of tile store whose bytes become unspecified. -/
def tsForget (t a b : Nat) (s : State) : State :=
  if b ≤ a then s
  else
    let n := s.freeCtr
    modTiller { s with freeCtr := n + 1 } t (fun u => { u with ts := smClearRun u.ts a (b - a), tsFree := { lo := a, hi := b, draw := n } :: u.tsFree })

/-- The bytes of a request's tile and of its scale byte. -/
def reqRanges (q : MemReq) : List (Nat × Nat) :=
  (q.dst, q.dst + tileSize q.fmt) :: (match q.scaleDst with | some a => [(a, a + 1)] | none => [])

/-- Ranges that a program may not read yet (R113): slabs before WAITA, requested tiles before WAITM, arrived tiles before
WAITIN or WAITW. -/
def unwaited (u : Tiller) : List (Nat × Nat) :=
  u.arr.slabs ++ (u.reqs.filter (fun q => q.kind == 0)).flatMap reqRanges ++
  ([u.act, u.dfr].flatMap (fun g => ((g.inSlots ++ g.wSlots).filter (fun q => q.st == 1 || q.st == 2)).map
    (fun q => (q.addr, q.addr + q.size))))

/-- Bytes of tile store as an instruction of the program reads them: unspecified where they are read too early (R113). -/
def tsRead (t a n : Nat) (s : State) : List Byte × State :=
  let u := tillerAt s t
  let bs := tsRaw u a n
  let l := (unwaited u).filter (overlap (a, a + n))
  if l.isEmpty then (bs, s)
  else (bs.zipIdx.map (fun p => if meets (a + p.2, a + p.2 + 1) l then Config.freeByte s.freeCtr p.2 else p.1),
        { s with freeCtr := s.freeCtr + 1 })

/-! ### Operand codes of a vector word (Tables 4.2 and 4.3) -/

def vOp (w : Word) : Nat := bits w 7 0
/-- COUNT: 0 stands for 4,096. -/
def vCount (w : Word) : Nat := if bits w 19 8 = 0 then 4096 else bits w 19 8
def vDst (w : Word) : Nat := bits w 25 20
def vA (w : Word) : Nat := bits w 31 26
def vB (w : Word) : Nat := bits w 37 32
def vC (w : Word) : Nat := bits w 43 38
def vFmt (w : Word) : Nat := bits w 51 44
def vPk (w : Word) : Bool := bit w 52
def vSr (w : Word) : Bool := bit w 53
def vInc (w : Word) : Bool := bit w 54
def vSub (w : Word) (n : Nat) : Bool := bit w (56 + n)

/-- Kinds of operand code. -/
def isV (c : Nat) : Bool := decide (c < 8)
def isTs (c : Nat) : Bool := decide (16 ≤ c) && decide (c < 32)
def isScalar (c : Nat) : Bool := decide (32 ≤ c)

/-- A reduction to a scalar, a row reduction, a function (Table 4.4). -/
def isReduction (op : Nat) : Bool := decide (0x20 ≤ op) && decide (op ≤ 0x24)
def isRowReduction (op : Nat) : Bool := decide (0x28 ≤ op) && decide (op ≤ 0x2A)
def isFunction (op : Nat) : Bool := decide (0x10 ≤ op) && decide (op ≤ 0x18)
/-- The opcode uses B, and uses C as an operand. VCPY uses B for the scale bytes of an MX format only. -/
def usesB (w : Word) : Bool :=
  [1, 2, 3, 4, 5, 6, 9, 10].contains (vOp w) || (vOp w == 11 && (formatOf (vFmt w)).any (·.isMx))
def usesC (w : Word) : Bool := [4, 10].contains (vOp w)

/-- Tile-store address of an operand code, from the scalar registers at issue (Table 4.3). -/
def tsAddr (sr : List Word) (c : Nat) : Nat := bits (sregOf sr c) 22 0

/-- Elements an operand supplies over COUNT elements, with its broadcast bits (R118). -/
def spanOf (n : Nat) (row col : Bool) : Nat := if row then ceilDiv n 64 else if col then min n 64 else n

/-- Bytes of n elements of the instruction's format. -/
def fmtSpan (w : Word) (n : Nat) : Nat := match formatOf (vFmt w) with | some f => ceilDiv (n * f.bits) 8 | none => 0

/-- Elements that the destination receives. -/
def dstCount (w : Word) : Nat := if isRowReduction (vOp w) then vCount w / 64 else vCount w

/-- Tile-store ranges that a vector instruction reads, its MX scale bytes among them. -/
def vReads (sr : List Word) (w : Word) : List (Nat × Nat) :=
  let one (c n : Nat) : List (Nat × Nat) :=
    if isTs c then [(tsAddr sr c, tsAddr sr c + fmtSpan w n)] else []
  one (vA w) (vCount w) ++
  (if vOp w = 11 then (if usesB w && isTs (vA w) then [(tsAddr sr (vB w), tsAddr sr (vB w) + vCount w / 32)] else [])
   else if usesB w then one (vB w) (spanOf (vCount w) (vSub w 0) (vSub w 1)) else []) ++
  (if usesC w then one (vC w) (spanOf (vCount w) (vSub w 2) (vSub w 3)) else [])

/-- Tile-store ranges that a vector instruction writes. -/
def vWrites (sr : List Word) (w : Word) : List (Nat × Nat) :=
  if isTs (vDst w) && !isReduction (vOp w) then
    (tsAddr sr (vDst w), tsAddr sr (vDst w) + fmtSpan w (dstCount w)) ::
      (if vOp w = 11 && usesB w then [(tsAddr sr (vB w), tsAddr sr (vB w) + vCount w / 32)] else [])
  else []

/-- The scalar register a queued vector instruction has still to write (R115). -/
def vScalarDst (w : Word) : Option Nat := if isScalar (vDst w) then some (vDst w - 32) else none

/-- The instruction reads the head of the finished-tile queue (R122). -/
def readsFtq (w : Word) : Bool := vA w == 8 || (usesB w && vB w == 8) || (usesC w && vC w == 8)

/-! ### Array command words (R67, R83, R542) -/

def aRows (w : Word) : Nat := if bits w 17 6 = 0 then 4096 else bits w 17 6
def aK0 (s6 : Word) : Nat := bits s6 39 16
def aN0 (s6 : Word) : Nat := bits s6 63 40
/-- Both formats are MXFP4: 128 K indices a pass in normal form (Table 3.4, R77). -/
def bothFp4 (d : StageDesc) : Bool := d.fmtIn == 10 && d.fmtW == 10
/-- K of a pass in a form. -/
def passK (d : StageDesc) (form : Nat) : Nat := (if bothFp4 d then 128 else 64) / (if form = 2 then 4 else 1)
/-- Streamed and stationary tiles of a row block and of a pass. -/
def tilesIn (d : StageDesc) (form : Nat) : Nat := if form = 1 && bothFp4 d then 2 else 1
def tilesW (d : StageDesc) (form : Nat) : Nat := if form = 2 then 4 else if bothFp4 d then 2 else 1
/-- A pass with SAME_W keeps the stationary operand of its own stage (R70); `prev` says that such a one is loaded. -/
def aKeeps (w : Word) (prev : Bool) : Bool := bit w 4 && prev

/-- Bytes of the streamed rows that a pass reads, from its address: whole tiles, and of the last row block the rows below M
with their scales (R542). -/
def inSpan (d : StageDesc) (form m : Nat) : Nat :=
  match formatOf d.fmtIn with
  | none => 0
  | some f =>
    let k := tilesIn d form
    let last := m - (m - 1) / 64 * 64
    ((m - 1) / 64 * k + (k - 1)) * slotBytesOf f + (if f.isMx then 512 * f.bits + 2 * last else last * 8 * f.bits)

/-- Ranges of the stationary operand that a pass reads (R542): whole tiles in normal form; in wide-shallow form, of each of the four
column tiles, the lines of its K range and the MX scales of the block that holds it. -/
def statReads (d : StageDesc) (form : Nat) (c : ArrCmd) : List (Nat × Nat) :=
  let wa := bits c.w 32 18 * 256
  match formatOf d.fmtW with
  | none => []
  | some f =>
    if form = 2 then
      let off := aK0 c.s6 % 64
      (List.range 4).flatMap (fun i =>
        let b := wa + i * slotBytesOf f
        (b + off * 8 * f.bits, b + (off + passK d form) * 8 * f.bits) ::
          (if f.isMx then [(b + 512 * f.bits + 64 * (off / 32), b + 512 * f.bits + 64 * (off / 32) + 64)] else []))
    else (List.range (tilesW d form)).map (fun i => (wa + i * slotBytesOf f, wa + i * slotBytesOf f + f.tileBytes))

/-- Ranges that row block i of a pass of h rows reads from what memory delivers: the stationary operand where the block loads it, its
input rows and its byte of the scale line (R71, R542). -/
def blockReads (d : StageDesc) (form : Nat) (c : ArrCmd) (keeps : Bool) (i : Nat) : List (Nat × Nat) :=
  let n := match formatOf d.fmtIn with | some f => slotBytesOf f | none => 0
  let ia := bits c.w 47 33 * 256 + i * tilesIn d form * n
  let sa := bits c.s6 14 0 * 256 + i
  (if keeps then [] else statReads d form c) ++ [(ia, ia + inSpan d form (min 64 (aRows c.w - 64 * i)))] ++
  (if d.scaleMode = 2 then [] else [(sa, sa + 1)])

/-- Ranges a pass reads: stationary operand, input rows, input scale line, slab. -/
def passReads (d : StageDesc) (form : Nat) (c : ArrCmd) (keeps : Bool) : List (Nat × Nat) :=
  let m := aRows c.w
  let ia := bits c.w 47 33 * 256
  let sa := bits c.s6 14 0 * 256
  let acc := bits c.w 62 48 * 256
  (if keeps then [] else statReads d form c) ++ [(ia, ia + inSpan d form m)] ++
  (if d.scaleMode = 2 then [] else [(sa, sa + ceilDiv m 64)]) ++
  (if form = 1 && !bit c.w 2 then [(acc, acc + m * 256)] else [])
/-- The slab a pass writes. -/
def passWrites (form : Nat) (c : ArrCmd) : List (Nat × Nat) :=
  let acc := bits c.w 62 48 * 256
  if form = 1 && !bit c.w 3 then [(acc, acc + aRows c.w * 256)] else []

/-- Configuration and form of a context's stage as the array uses it: deferred stages run in normal form (R92). -/
def ctxStage (u : Tiller) (ctx : Nat) : StageDesc × Nat := if ctx = 0 then (u.act.stage, u.act.form) else (u.dfr.stage, u.dfr.form)

/-- Passes accepted and not finished. -/
def accepted (u : Tiller) : List ArrCmd := (match u.arr.pass with | some p => [p.1] | none => []) ++ u.arr.queue.filter (fun c => bits c.w 1 0 == 0)

/-! ### Hazards within a tiller (R112, R114, R115) -/

/-- Ranges that the vector engine has still to write, and still to read. -/
def vqWrites (u : Tiller) : List (Nat × Nat) := u.vq.flatMap (fun e => vWrites e.sregs e.w)
def vqReads (u : Tiller) : List (Nat × Nat) := u.vq.flatMap (fun e => vReads e.sregs e.w)
/-- Ranges that the array has still to read. -/
def arrReads (u : Tiller) : List (Nat × Nat) :=
  (accepted u).flatMap (fun c => let p := ctxStage u c.ctx; passReads p.1 p.2 c false)
/-- Ranges that instructions issued before a memory request have still to read or, in the vector engine, to write: its tile does not
overtake them, and what was issued after it waits for the tile or reads unspecified bytes (R113, R114). -/
def landHazard (u : Tiller) (rid : Nat) (l : List (Nat × Nat)) : Bool :=
  let vs := u.vq.filter (fun e => decide (e.rid ≤ rid))
  let as := (accepted u).filter (fun c => decide (c.rid ≤ rid))
  l.any (fun r => vs.any (fun e => meets r (vWrites e.sregs e.w) || meets r (vReads e.sregs e.w)) ||
    as.any (fun c => let p := ctxStage u c.ctx; meets r (passReads p.1 p.2 c false)))
/-- Scalar registers that queued vector instructions have still to write. -/
def pendingRegs (u : Tiller) : List Nat := u.vq.filterMap (fun e => vScalarDst e.w)

/-- A read of ranges must wait for an earlier write of the vector engine (R112). -/
def readHazard (u : Tiller) (l : List (Nat × Nat)) : Bool := l.any (fun r => meets r (vqWrites u))
/-- A write of ranges must wait for earlier reads and writes of the vector engine and reads of the array (R112, R114). -/
def writeHazard (u : Tiller) (l : List (Nat × Nat)) : Bool :=
  l.any (fun r => meets r (vqWrites u) || meets r (vqReads u) || meets r (arrReads u))

/-! ### Issue -/

/-- WAIT of the running context set (Table 4.11). -/
def waitAt (t code : Nat) (s : State) : State := modCtx t (fun x => { x with wait := code }) s

/-- A sequencer fault of the running context at its instruction (R128). -/
def faultAt (t cause status : Nat) (s : State) : State :=
  let u := tillerAt s t
  let x := curCtx u
  seqFault t u.cur x.pc cause ((curCfg u).prog.getD x.pc 0) status s

/-- The program counter moved; at PROG_WORDS or beyond it faults, where no instruction word stands (cause PC_RANGE). -/
def gotoPc (t : Nat) (pc : Int) (s : State) : State :=
  let u := tillerAt s t
  let n := (pc % 16384).toNat
  if pc < 0 ∨ ((curCfg u).stage.progWords : Int) ≤ pc then
    let f := drawFree s
    seqFault t u.cur n 6 f.1 ST_STAGE_FAULT f.2
  else modCtx t (fun x => { x with pc := n, wait := 0 }) s

/-- An instruction issued: counted, and the program counter at the next word. -/
def issued (t : Nat) (s : State) : State :=
  let pc := (curCtx (tillerAt s t)).pc
  gotoPc t (pc + 1 : Nat) (cntInc (.tlr t) Reg.TLR_CNT_SEQ_INSTR s)

/-- The running context stands at a word and can issue it: a stage that has not ended, no switch pending, no SEND in
progress, its quad not fenced, its channel neither voiding nor held. -/
def canIssue (s : State) (t : Nat) (w : Word) : Bool :=
  let u := tillerAt s t
  let g := curCfg u
  let x := curCtx u
  g.valid && !x.ended && !u.switching && u.send.isNone && !quadFenced s t && g.prog[x.pc]? == some w

/-- A scalar, array, memory, stream or control word of an opcode at issue (R105): RSV bits and a COND outside BR are an
ILLEGAL_OP fault; registers that a queued reduction has still to write hold it (R115). -/
def instr (op : Nat) (reads : Word → List Nat) (t : Nat) (w : Word) (s : State) (f : Tiller → State → State) :
    Host.Outcome State Fault Refusal :=
  atUnit t 128 <| onlyIf (canIssue s t w && bits w 7 0 == op) s fun s =>
    let u := tillerAt s t
    if bits w 31 26 ≠ 0 ∨ (op ≠ 0x70 ∧ bits w 25 23 ≠ 0) then faultAt t 1 ST_STAGE_FAULT s
    else if (reads w).any (fun r => (pendingRegs u).contains r) then waitAt t 11 s
    else f u s

/-- Register fields and the immediate of a scalar word (R105). -/
def iSD (w : Word) : Nat := bits w 12 8
def iSA (w : Word) : Nat := bits w 17 13
def iSB (w : Word) : Nat := bits w 22 18
def iImm (w : Word) : Word := word (unsignedOf 64 (signedOf 32 (bits w 63 32)))

/-! ### Marks (R53) -/

/-- A dependence mark of a stage holds tiles of a microbatch: the index of the first such mark. -/
def heldByMark (s : State) (g : Cfg) (mb : Nat) : Option Nat :=
  (g.stage.deps.zipIdx.find? (fun p => p.1.valid && decide (p.1.mbAt ≤ mb) &&
    !tokenDone (chanAt s g.chan).rings p.1.token g.loadPos)).map (·.2)

/-! ### OVF (R150) -/

/-- OVF of the attempt a stage belongs to, set by what IGRAD and WGRAD stages raise. -/
def raiseOvf (g : Cfg) (s : State) : State :=
  if g.stage.kind = 6 ∨ g.stage.kind = 7 then
    modTrn s g.chan (fun x => { x with ovf := if x.ovf.contains g.step then x.ovf else x.ovf ++ [g.step] })
  else s

end Sys2Proof.Machine
end

