-- ==== Sys2Proof/Machine/Operands.lean ====
section
/-! DEFINITION. Operand forms of the vector engine: which codes an instruction may name (R103, R104, R107 to R109, R117 to
R119, R123, Table 4.9), how a source element is read and widened, and how a result element is written (R116). -/

namespace Sys2Proof.Machine

open Sys2Proof

/-! ### What an instruction may name -/

/-- The opcodes of Table 4.4. -/
def vectorOps : List Nat :=
  [1, 2, 3, 4, 5, 6, 7, 8, 9, 10, 11, 0x10, 0x11, 0x12, 0x13, 0x14, 0x15, 0x16, 0x17, 0x18, 0x20, 0x21, 0x22, 0x23, 0x24, 0x28, 0x29, 0x2A]

/-- VCPY with SR = 1 in a stage with SR = 1 draws, and SRCC names the register of the tile key (R116). -/
def vDraws (d : StageDesc) (w : Word) : Bool := vOp w == 11 && vSr w && d.sr

/-- RSV bits of a vector word: bit 55, bits [63:60], and SUB bits [59:57] of a reduction (Table 4.2). -/
def vRsvOk (w : Word) : Bool :=
  !bit w 55 && bits w 63 60 == 0 && (!(isReduction (vOp w) || isRowReduction (vOp w)) || bits w 59 57 == 0)

/-- A source code is one of Table 4.3, and allowed in the running context (R99) and lane mode. -/
def srcOk (ctx : Nat) (pk : Bool) (c : Nat) : Bool :=
  (isV c && (ctx == 0 || decide (4 ≤ c))) || (c == 8 && !pk) || isTs c || isScalar c

/-- The destination code is allowed (Tables 4.3 and 4.4). -/
def dstOk (ctx : Nat) (w : Word) : Bool :=
  let c := vDst w
  if isReduction (vOp w) then isScalar c
  else (isV c && (ctx == 0 || decide (4 ≤ c))) || isTs c || (isScalar c && !isRowReduction (vOp w) && vCount w == 1)

/-- Sources beyond A: the codes and SUB bits that the opcode uses are legal, and those that it does not use are zero (R103).
ACC on a row reduction, to which the spec gives no meaning, counts as one that it does not use (log entry 117). -/
def bcOk (d : StageDesc) (ctx : Nat) (w : Word) : Bool :=
  let op := vOp w
  let red := isReduction op || isRowReduction op
  let subB := vSub w 0 || vSub w 1
  let subC := vSub w 2 || vSub w 3
  if op = 11 then
    (if usesB w then isTs (vB w) else vB w == 0) && !subB && !subC &&
    (if vDraws d w then isScalar (vC w) else if vSr w then vC w == 0 || isScalar (vC w) else vC w == 0)
  else if op = 9 then
    srcOk ctx (vPk w) (vB w) && !(vSub w 0 && vSub w 1) && decide (vC w < 6) && !subC
  else
    (if usesB w then srcOk ctx (vPk w) (vB w) && !(vSub w 0 && vSub w 1) else vB w == 0 && (red || !subB)) &&
    (if usesC w then srcOk ctx (vPk w) (vC w) && !(vSub w 2 && vSub w 3) else vC w == 0 && (red || !subC)) &&
    (!isRowReduction op || !vSub w 0)

/-- Operands and formats are legal; otherwise the fault is BAD_OPERAND (Table 4.9). -/
def operandsOk (d : StageDesc) (ctx : Nat) (w : Word) : Bool :=
  match formatOf (vFmt w) with
  | none => false
  | some f =>
    srcOk ctx (vPk w) (vA w) && dstOk ctx w && bcOk d ctx w &&
    (!vSr w || vOp w == 11) &&
    (!isRowReduction (vOp w) || vCount w % 64 == 0) &&
    -- PK = 1 takes MFMT BF16 only (Table 4.9)
    (!vPk w || f == .bf16) &&
    -- MX: only a VCPY, from or to tile store and not both, in whole blocks
    (!f.isMx || (vOp w == 11 && (isTs (vA w) != isTs (vDst w)) && vCount w % 32 == 0))

/-- Every tile-store operand is aligned to its element (cause ALIGN). -/
def alignedOk (sr : List Word) (w : Word) : Bool :=
  match formatOf (vFmt w) with
  | none => true
  | some f =>
    let ok (c : Nat) : Bool := !isTs c || f.bits < 16 || tsAddr sr c % (f.bits / 8) == 0
    ok (vDst w) && ok (vA w) && (vOp w == 11 || !usesB w || ok (vB w)) && (!usesC w || ok (vC w))

/-- COUNTs of the queued instructions that read the head: the next one reads after them (R123). -/
def ftqQueued (u : Tiller) : Nat := ((u.vq.filter (fun e => readsFtq e.w)).map (fun e => vCount e.w)).sum
def ftqOffNext (u : Tiller) : Nat := u.ftqOff + ftqQueued u

/-- The cause of the fault of a vector word at issue (Table 4.9), or none; where several hold, the lowest (log entry 116). -/
def vectorFault (u : Tiller) (w : Word) : Option Nat :=
  let d := (curCfg u).stage
  let sr := (curCtx u).sregs
  if !vRsvOk w then some 1
  else if !operandsOk d u.cur w then some 2
  else if (vReads sr w ++ vWrites sr w).any (fun r => !inRegions d r.1 (r.2 - r.1)) then some 3
  else if !alignedOk sr w then some 4
  else if readsFtq w && decide (4096 < ftqOffNext u + vCount w) then some 5
  else none

/-- The address registers after an instruction with INC (R109): each advances once, by the span of the first operand in
the order DST, A, B, C that names it without a broadcast. -/
def incSregs (w : Word) (sr : List Word) : List Word :=
  if !vInc w then sr
  else
    let n := vCount w
    let scaleSpan := ceilDiv n 32
    let named : List (Nat × Nat) :=
      (if isTs (vDst w) then [(vDst w, fmtSpan w (dstCount w))] else []) ++
      (if isTs (vA w) then [(vA w, fmtSpan w n)] else []) ++
      (if usesB w && isTs (vB w) && !vSub w 0 && !vSub w 1 then [(vB w, if vOp w = 11 then scaleSpan else fmtSpan w n)] else []) ++
      (if usesC w && isTs (vC w) && !vSub w 2 && !vSub w 3 then [(vC w, fmtSpan w n)] else [])
    (List.range 16).foldl (fun l i =>
      match named.find? (fun p => p.1 == 16 + i) with
      | some p => setSregs l (16 + i) (sregOf l (16 + i) + word p.2)
      | none => l) sr

/-! ### Reading -/

/-- What an unlisted byte of a vector register reads as: unspecified in V4–V7 after a TILE_END, else zero. -/
def vDefault (u : Tiller) (k : Nat) : Byte :=
  match u.vFree with
  | some n => if 65536 ≤ k then Config.freeByte n k else 0
  | none => 0

/-- Elements of a vector register from element j: FP32, or BF16 with PK = 1 (Table 4.3). -/
def vRegRead (u : Tiller) (pk : Bool) (v j n : Nat) : List F32 :=
  let es := if pk then 2 else 4
  let bs := smReadRun (vDefault u) u.vregs (v * 16384 + es * j) (es * n)
  if pk then (unpackElems 16 n bs).map f32OfBf16 else (unpackElems 32 n bs).map (BitVec.ofNat 32)

/-- A scalar operand as an element: FP32 in [31:0], or BF16 in [15:0] with PK = 1. -/
def scalarElem (pk : Bool) (w : Word) : F32 := if pk then f32OfBf16 w.toNat else BitVec.ofNat 32 w.toNat

/-- n elements of a tile-store operand from element j, widened to FP32 (R116, R133, R136); MX elements with the scales at
`scale`. The instruction reads unspecified bytes where it reads too early. -/
def tsElems (t : Nat) (f : Format) (a scale j n : Nat) (s : State) : List F32 × State :=
  let b0 := j * f.bits / 8
  let r := tsRead t (a + b0) (ceilDiv (n * f.bits) 8) s
  let es := unpackElems f.bits n r.1
  if f.isMx then
    let q := tsRead t (scale + j / 32) (ceilDiv n 32) r.2
    (es.zipIdx.map (fun p => widen f p.1 (nth 0 q.1 (p.2 / 32)).toNat), q.2)
  else (es.map (fun e => widen f e 127), r.2)

/-- n elements of an operand code from element j, without broadcast. -/
def elemsOf (t : Nat) (e : VqEntry) (c j n : Nat) (s : State) : List F32 × State :=
  let u := tillerAt s t
  if isV c then (vRegRead u (vPk e.w) c j n, s)
  else if c = 8 then
    let d := (u.ftq.getD u.ftqHead {}).data
    ((List.range n).map (fun i => d.getD (e.ftqOff + j + i) 0), s)
  else if isTs c then
    match formatOf (vFmt e.w) with
    | some f => tsElems t f (tsAddr e.sregs c) (tsAddr e.sregs (vB e.w)) j n s
    | none => ([], s)
  else (List.replicate n (scalarElem (vPk e.w) (sregOf e.sregs (c - 32))), s)

/-- Elements j .. j+n-1 that an operand supplies, with its broadcast (R118). -/
def operand (t : Nat) (e : VqEntry) (c : Nat) (row col : Bool) (j n : Nat) (s : State) : List F32 × State :=
  if row then
    let i0 := j / 64
    let r := elemsOf t e c i0 ((j + n - 1) / 64 + 1 - i0) s
    ((List.range n).map (fun k => nth 0 r.1 ((j + k) / 64 - i0)), r.2)
  else if col then
    let m := min 64 (vCount e.w)
    let r := elemsOf t e c 0 m s
    ((List.range n).map (fun k => nth 0 r.1 ((j + k) % 64)), r.2)
  else elemsOf t e c j n s

/-! ### Writing -/

/-- Elements written to a vector register from element j: FP32, or BF16 bits with PK = 1. -/
def vRegWrite (t : Nat) (pk : Bool) (v j : Nat) (es : List Nat) (s : State) : State :=
  let a := v * 16384 + (if pk then 2 else 4) * j
  modTiller s t (fun u => { u with vregs := smWriteRun (vDefault u) u.vregs a (packElems (if pk then 16 else 32) es) })

/-- A scalar result as its register holds it: FP32 in [31:0], BF16 in [15:0] with PK = 1, the rest zero. -/
def scalarOf (pk : Bool) (x : F32) : Word := if pk then word (bf16Of x) else word x.toNat

/-- Elements of a plain format narrowed to nearest even, or with the draws of their indices (R134, R137). -/
def narrowPlain (f : Format) (draw : Option (Nat → Nat)) (j : Nat) (xs : List F32) : List Narrowed :=
  xs.zipIdx.map (fun p =>
    match draw with
    | some r => narrowStoch f (ofF32 p.1) (r (j + p.2))
    | none => narrowNear f (ofF32 p.1))

/-- A block of 32 elements narrowed into an MX format: its scale byte by R141, and its elements; a NaN or infinity makes
the byte 0xFF and every element +0 (R117, R135, R141). -/
def narrowBlock (f : Format) (draw : Option (Nat → Nat)) (j : Nat) (xs : List F32) : Nat × List Narrowed :=
  let sb := scaleByte (amaxOf xs) f
  if sb = 255 then (255, xs.map (fun _ => ⟨0, false⟩))
  else (sb, xs.zipIdx.map (fun p =>
    let v := (ofF32 p.1).scale (127 - (sb : Int))
    match draw with
    | some r => narrowStoch f v (r (j + p.2))
    | none => narrowNear f v))

end Sys2Proof.Machine
end

