-- ==== Sys2Proof/Machine/Reduce.lean ====
section
/-! DEFINITION. The fixed orders of sums and maxima: pairwise trees (R81, R124, R125), the lane rule of reductions (R124). -/

namespace Sys2Proof.Machine

/-- One level of a pairwise tree: (0,1), (2,3) and so on; an odd last element stands. -/
def treeLevel (f : F32 → F32 → F32) : List F32 → List F32
  | a :: b :: r => f a b :: treeLevel f r
  | l => l

/-- A pairwise tree of k levels over 2^k elements. -/
def tree (f : F32 → F32 → F32) : Nat → List F32 → F32
  | 0, l => l.headD 0
  | k + 1, l => tree f k (treeLevel f l)

/-- The step of a lane of a reduction by opcode (R124): the partial result, none before the first element, and an element. -/
def laneStep (op : Nat) (acc : Option F32) (x : F32) : F32 :=
  match op, acc with
  | 0x20, none => x
  | 0x20, some a => fAdd a x
  | 0x21, none => fFma x x 0
  | 0x21, some a => fFma x x a
  | 0x22, none => x
  | 0x22, some a => fMax a x
  | 0x23, none => x
  | 0x23, some a => fMin a x
  | _, none => fAbs x
  | _, some a => fMax a (fAbs x)

/-- The combination of lane results by opcode. -/
def laneTree (op : Nat) : F32 → F32 → F32 := if op = 0x20 ∨ op = 0x21 then fAdd else if op = 0x23 then fMin else fMax

/-- Up to 128 elements of a beat, or of one row of lanes, taken into the 128 lanes. -/
def lanesAdd (op : Nat) (lanes : List (Option F32)) (xs : List F32) : List (Option F32) :=
  lanes.zipIdx.map (fun p => match xs[p.2]? with | some x => some (laneStep op p.1 x) | none => p.1)

/-- The tree of seven levels over the lanes; a lane without an element holds +0.0. -/
def lanesTree (op : Nat) (lanes : List (Option F32)) : F32 := tree (laneTree op) 7 (lanes.map (·.getD 0))

/-- A reduction of a list by the lane rule, elements counted from its start (R124); fuel bounds the rows of lanes. -/
def lanesRun (op : Nat) : Nat → List (Option F32) → List F32 → List (Option F32)
  | 0, lanes, _ => lanes
  | f + 1, lanes, xs => if xs.isEmpty then lanes else lanesRun op f (lanesAdd op lanes (xs.take 128)) (xs.drop 128)
def reduce (op : Nat) (xs : List F32) : F32 := lanesTree op (lanesRun op (xs.length / 128 + 1) (List.replicate 128 none) xs)

/-- The sum of squares of the elements present, each at its own index (R160). -/
def rssqSome (xs : List (Option F32)) : F32 :=
  let add (lanes : List (Option F32)) (l : List (Option F32)) : List (Option F32) :=
    lanes.zipIdx.map (fun p => match l[p.2]? with | some (some x) => some (laneStep 0x21 p.1 x) | _ => p.1)
  lanesTree 0x21 ((chunksOf 128 (xs.length / 128 + 1) xs).foldl add (List.replicate 128 none))

/-- A row of 64 elements reduced by a tree of six levels (R125). -/
def rowReduce (op : Nat) (xs : List F32) : F32 :=
  if op = 0x28 then tree fAdd 6 xs
  else if op = 0x29 then tree fAdd 6 (xs.map (fun x => fMul x x))
  else tree fMax 6 xs

end Sys2Proof.Machine
end

