-- ==== Sys2Proof/Machine/Flags.lean ====
section
/-! DEFINITION. Flags and counts of results: NaN and infinite results (R87, R120), saturation (R134), functions outside their
domain (Table 4.8), what of these raises OVF (R150), and the winnowing check (R159 to R163). -/

namespace Sys2Proof.Machine

open Sys2Proof

/-- NaN or infinite results written by the vector engine, read back as FP32 (R120). -/
def vectorFlags (t : Nat) (g : Cfg) (xs : List F32) (s : State) : State :=
  let nan := xs.any f32IsNan
  let inf := xs.any f32IsInf
  let n := (xs.filter (fun x => !f32IsFinite x)).length
  if n = 0 then s
  else
    let s := if nan then setEv (.tlr t) Reg.TLR_VEC_EVENT Bit.TLR_VEC_EVENT_NAN_OUT s else s
    let s := if inf then setEv (.tlr t) Reg.TLR_VEC_EVENT Bit.TLR_VEC_EVENT_INF_OUT s else s
    raiseOvf g (cntAdd (.tlr t) Reg.TLR_CNT_VEC_NONFINITE n s)

/-- NaN or infinite finished sums of the array (R87). -/
def arrayFlags (t : Nat) (g : Cfg) (xs : List F32) (s : State) : State :=
  let nan := xs.any f32IsNan
  let inf := xs.any f32IsInf
  let n := (xs.filter (fun x => !f32IsFinite x)).length
  if n = 0 then s
  else
    let s := if nan then setEv (.tlr t) Reg.TLR_ARR_EVENT Bit.TLR_ARR_EVENT_NAN_OUT s else s
    let s := if inf then setEv (.tlr t) Reg.TLR_ARR_EVENT Bit.TLR_ARR_EVENT_INF_OUT s else s
    raiseOvf g (cntAdd (.tlr t) Reg.TLR_CNT_ARR_NONFINITE n s)

/-- Elements saturated on narrowing in a stage (R134, R150). -/
def satFlags (g : Cfg) (n : Nat) (s : State) : State :=
  if n = 0 then s
  else raiseOvf g (cntAdd (.chn g.chan) Reg.CHN_CNT_NARROW_SAT n
    (setEv (.chn g.chan) Reg.CHN_NUM_EVENT Bit.CHN_NUM_EVENT_NARROW_SAT s))

/-- DOMAIN of a function whose input lies outside its domain (Table 4.8). -/
def domainFlag (t op : Nat) (xs : List F32) (s : State) : State :=
  if [0x12, 0x14, 0x15].contains op && xs.any (fun x => negativeInput (ofF32 x)) then
    setEv (.tlr t) Reg.TLR_VEC_EVENT Bit.TLR_VEC_EVENT_DOMAIN s
  else s

/-! ### The winnowing check -/

/-- The numeric settings that a step of a channel uses (R164). -/
def stepNum (s : State) (c n : Nat) : StepNum :=
  match (chanAt s c).trn.nums.find? (fun q => q.step == n) with
  | some q => q
  | none => { step := n, ctrl := rd s (.chn c) Reg.CHN_NUM_CTRL,
              wnwThreshold := BitVec.ofNat 32 (rd s (.chn c) Reg.CHN_WNW_THRESHOLD).toNat,
              clipMax := BitVec.ofNat 32 (rd s (.chn c) Reg.CHN_CLIP_MAX).toNat, trnCtrl := rd s (.chn c) Reg.CHN_TRN_CTRL }

/-- Position i is sampled in step n: (i + n) mod 2^WNW_K = 0 with WNW_EN 1 (R159). -/
def sampledAt (q : StepNum) (i n : Nat) : Bool := bit q.ctrl 1 && (i + n) % 2 ^ bits q.ctrl 8 4 == 0

/-- Whether FP32 value a exceeds 2^k in magnitude. -/
def exceeds2 (a : F32) (k : Int) : Bool := (Fv.fin false 1 k).lt (ofF32 a).abs

/-- What the check keeps of an element: read back, its source, whether the bound is exceeded, and whether it is out of the
check because its source is not finite or saturated (R160). sb is its block's scale byte, or 127. -/
def checkPair (f : Format) (stoch : Bool) (sb : Nat) (x : F32) (r : Narrowed) : F32 × F32 × Bool × Bool :=
  let q := widen f r.bits sb
  let u := spacingExp f ((ofF32 x).scale (127 - (sb : Int))) + ((sb : Int) - 127)
  (q, x, exceeds2 (fSub q x) (if stoch then u else u - 1), !f32IsFinite x || r.sat)

/-- The outcome of a check: E and P by the RSSQ rule, and whether it is hard-failed (R160). -/
def checkSums (l : List (F32 × F32 × Bool × Bool)) : F32 × F32 × Bool :=
  (rssqSome (l.map (fun p => if p.2.2.2 then none else some (fSub p.1 p.2.1))),
   rssqSome (l.map (fun p => if p.2.2.2 then none else some p.2.1)),
   l.any (fun p => !p.2.2.2 && p.2.2.1))

/-- A check of a sampled VCPY recorded (R161). -/
def winnow (t : Nat) (g : Cfg) (l : List (F32 × F32 × Bool × Bool)) (s : State) : State :=
  let c := g.chan
  let r := checkSums l
  let src := put t 6 0 + put g.stage.stageId 19 12 + put g.step 63 32
  let s := cntInc (.chn c) Reg.CHN_CNT_WNW_TILES s
  let isOver := (ofF32 (fMul (stepNum s c g.step).wnwThreshold r.2.1)).lt (ofF32 r.1)
  let s := if isOver then
      let ratio := if (ofF32 r.2.1).isZero then 0x7F800000 else (fDiv r.1 r.2.1).toNat
      let s := wr s (.chn c) Reg.CHN_WNW_LAST (word (ratio + put g.stage.tensorId 63 32))
      let s := wr s (.chn c) Reg.CHN_WNW_LAST_SRC (word (src + putB r.2.2 20))
      cntInc (.chn c) Reg.CHN_CNT_WNW_OVER (setEv (.chn c) Reg.CHN_NUM_EVENT Bit.CHN_NUM_EVENT_WNW_OVER s)
    else s
  if r.2.2 then
    let s := wr s (.chn c) Reg.CHN_WNW_LAST_SRC (word (src + putB true 20))
    let s := cntInc (.chn c) Reg.CHN_CNT_WNW_HARD (setEv (.chn c) Reg.CHN_NUM_EVENT Bit.CHN_NUM_EVENT_WNW_HARD s)
    logRec { source := 1, cause := 4, severity := 2, channel := handleOf s c, step := g.step,
             detail := src + putB true 20 + t * 2 ^ 128 } s
  else s

end Sys2Proof.Machine
end

