-- ==== Sys2Proof/Machine/Scalar.lean ====
section
/-! DEFINITION. Scalar and control instructions (Table 4.5): arithmetic on S0–S31, loads and stores of tile store, branches,
tile boundaries, the end of a stage and the switch between contexts (R44, R97 to R102, R308). -/

namespace Sys2Proof.Machine

open Sys2Proof

/-- Registers that a scalar word with destination SD and sources SA and SB touches. -/
def regsDAB (w : Word) : List Nat := [iSD w, iSA w, iSB w]
def regsDA (w : Word) : List Nat := [iSD w, iSA w]
def regsAB (w : Word) : List Nat := [iSA w, iSB w]
def regsNone (_w : Word) : List Nat := []

/-- A scalar instruction: SD takes a function of SA, SB, the old SD and IMM. -/
def scalar (op t : Nat) (w : Word) (s : State) (f : Word → Word → Word → Word → Word) : Host.Outcome State Fault Refusal :=
  instr op regsDAB t w s fun u s =>
    issued t (setSreg t (iSD w) (f (sreg u (iSA w)) (sreg u (iSB w)) (sreg u (iSD w)) (iImm w)) s)

/-- The FP32 value that a scalar register holds in [31:0]. -/
def lowF32 (w : Word) : F32 := BitVec.ofNat 32 w.toNat
/-- An FP32 value in [31:0], [63:32] zero. -/
def ofLowF32 (x : F32) : Word := word x.toNat

/-- SADD (Table 4.5): SA + SB + IMM. -/
def execSadd (t : Nat) (w : Word) (s : State) : Host.Outcome State Fault Refusal :=
  scalar 0x40 t w s fun a b _d i => a + b + i

/-- SSUB (Table 4.5): SA − SB. -/
def execSsub (t : Nat) (w : Word) (s : State) : Host.Outcome State Fault Refusal :=
  scalar 0x41 t w s fun a b _d _i => a - b

/-- SMUL (Table 4.5): the low 64 bits of SA × SB. -/
def execSmul (t : Nat) (w : Word) (s : State) : Host.Outcome State Fault Refusal :=
  scalar 0x42 t w s fun a b _d _i => a * b

/-- SAND (Table 4.5): SA AND SB. -/
def execSand (t : Nat) (w : Word) (s : State) : Host.Outcome State Fault Refusal :=
  scalar 0x43 t w s fun a b _d _i => a &&& b

/-- SOR (Table 4.5): SA OR SB. -/
def execSor (t : Nat) (w : Word) (s : State) : Host.Outcome State Fault Refusal :=
  scalar 0x44 t w s fun a b _d _i => a ||| b

/-- SXOR (Table 4.5): SA XOR SB. -/
def execSxor (t : Nat) (w : Word) (s : State) : Host.Outcome State Fault Refusal :=
  scalar 0x45 t w s fun a b _d _i => a ^^^ b

/-- SSHL (Table 4.5): SA shifted left by (SB + IMM) mod 64. -/
def execSshl (t : Nat) (w : Word) (s : State) : Host.Outcome State Fault Refusal :=
  scalar 0x46 t w s fun a b _d i => a <<< ((b + i).toNat % 64)

/-- SSHR (Table 4.5): SA shifted right logically by (SB + IMM) mod 64. -/
def execSshr (t : Nat) (w : Word) (s : State) : Host.Outcome State Fault Refusal :=
  scalar 0x47 t w s fun a b _d i => a >>> ((b + i).toNat % 64)

/-- SLIH (Table 4.5): IMM in [63:32], SA [31:0] below. -/
def execSlih (t : Nat) (w : Word) (s : State) : Host.Outcome State Fault Refusal :=
  scalar 0x48 t w s fun a _b _d _i => word (a.toNat % 2 ^ 32 + bits w 63 32 * 2 ^ 32)

/-- SFADD (Table 4.5): SA + SB in FP32. -/
def execSfadd (t : Nat) (w : Word) (s : State) : Host.Outcome State Fault Refusal :=
  scalar 0x49 t w s fun a b _d _i => ofLowF32 (fAdd (lowF32 a) (lowF32 b))

/-- SFMUL (Table 4.5): SA × SB in FP32. -/
def execSfmul (t : Nat) (w : Word) (s : State) : Host.Outcome State Fault Refusal :=
  scalar 0x4A t w s fun a b _d _i => ofLowF32 (fMul (lowF32 a) (lowF32 b))

/-- SFMA (Table 4.5): SA × SB + SD in FP32, rounded once. -/
def execSfma (t : Nat) (w : Word) (s : State) : Host.Outcome State Fault Refusal :=
  scalar 0x4B t w s fun a b d _i => ofLowF32 (fFma (lowF32 a) (lowF32 b) (lowF32 d))

/-- SCVTF (Table 4.5): signed SA as FP32. -/
def execScvtf (t : Nat) (w : Word) (s : State) : Host.Outcome State Fault Refusal :=
  scalar 0x4C t w s fun a _b _d _i => ofLowF32 (f32OfInt a.toInt)

/-- SCVTI (Table 4.5): FP32 SA as a signed integer, truncated and saturated. -/
def execScvti (t : Nat) (w : Word) (s : State) : Host.Outcome State Fault Refusal :=
  scalar 0x4D t w s fun a _b _d _i => word (unsignedOf 64 (f32ToInt (lowF32 a)))

/-- Tile-store address of SLD and SST. -/
def ldAddr (u : Tiller) (w : Word) : Nat := (sreg u (iSA w) + iImm w).toNat

/-- SLD (Table 4.5): 8 bytes of tile store. Misaligned is ALIGN, outside the regions REGION (Table 4.9); where both hold, ALIGN is the
cause recorded (log entry 116). -/
def execSld (t : Nat) (w : Word) (s : State) : Host.Outcome State Fault Refusal :=
  instr 0x4E regsDAB t w s fun u s =>
    let a := ldAddr u w
    if a % 8 ≠ 0 then faultAt t 4 ST_STAGE_FAULT s
    else if !inRegions (curCfg u).stage a 8 then faultAt t 3 ST_STAGE_FAULT s
    else if readHazard u [(a, a + 8)] then waitAt t 11 s
    else
      let r := tsRead t a 8 s
      issued t (setSreg t (iSD w) (word (leValue r.1)) r.2)

/-- SST (Table 4.5): SB to 8 bytes of tile store. -/
def execSst (t : Nat) (w : Word) (s : State) : Host.Outcome State Fault Refusal :=
  instr 0x4F regsDAB t w s fun u s =>
    let a := ldAddr u w
    if a % 8 ≠ 0 then faultAt t 4 ST_STAGE_FAULT s
    else if !inRegions (curCfg u).stage a 8 then faultAt t 3 ST_STAGE_FAULT s
    else if writeHazard u [(a, a + 8)] then waitAt t 11 s
    else issued t (tsWrite t a (leBytes 8 (sreg u (iSB w)).toNat) s)

/-! ### Control -/

/-- COND of BR on SA and SB (Table 4.5); 7 is a fault. -/
def brHolds (cond : Nat) (a b : Word) : Bool :=
  match cond with
  | 0 => true
  | 1 => a == b
  | 2 => a != b
  | 3 => decide (a.toInt < b.toInt)
  | 4 => decide (b.toInt ≤ a.toInt)
  | 5 => decide (a.toNat < b.toNat)
  | _ => decide (b.toNat ≤ a.toNat)

/-- BR (Table 4.5): to PC + IMM words when the condition holds. -/
def execBr (t : Nat) (w : Word) (s : State) : Host.Outcome State Fault Refusal :=
  instr 0x70 regsAB t w s fun u s =>
    let c := bits w 25 23
    if c = 7 then faultAt t 1 ST_STAGE_FAULT s
    else if brHolds c (sreg u (iSA w)) (sreg u (iSB w)) then
      gotoPc t ((curCtx u).pc + signedOf 32 (bits w 63 32)) (cntInc (.tlr t) Reg.TLR_CNT_SEQ_INSTR s)
    else issued t s

/-- NOP (Table 4.5). -/
def execSeqNop (t : Nat) (w : Word) (s : State) : Host.Outcome State Fault Refusal :=
  instr 0x7F regsNone t w s fun _ s => issued t s

/-- WAITV (Table 4.5): until every earlier vector instruction has written all its results; WAIT shows 11 meanwhile (log entry 115). -/
def execWaitv (t : Nat) (w : Word) (s : State) : Host.Outcome State Fault Refusal :=
  instr 0x73 regsNone t w s fun u s => if u.vq.isEmpty then issued t s else waitAt t 11 s

/-- The array holds no command and every accepted pass has written all its sums. -/
def arrayIdle (u : Tiller) : Bool := u.arr.queue.isEmpty && u.arr.pass.isNone && u.arr.flush.isEmpty

/-- An input tile of the active stage is available (R47): one has arrived or landed, or one of its weights has. -/
def activeHasInput (u : Tiller) : Bool := !u.ctxA.ended && u.act.valid && u.act.inSlots.any (fun q => q.st == 2)

/-- The finished-tile queue holds no tile. -/
def ftqEmpty (u : Tiller) : Bool := u.ftq.all (fun q => q.st == 0)

/-- The tiller has a deferred stage to run. -/
def hasDeferred (u : Tiller) : Bool := u.dfr.valid && u.dfr.complete && !u.ctxD.ended

/-- A tile boundary asks for the other context (R47, R98). -/
def wantsSwitch (u : Tiller) : Bool :=
  if u.cur = 0 then hasDeferred u && !activeHasInput u && ftqEmpty u
  else activeHasInput u && ftqEmpty u

/-- V4–V7 unspecified after this point of the program: after the vector instructions queued before it. -/
def forgetVLater (t : Nat) (s : State) : State :=
  let u := tillerAt s t
  match u.vq.reverse with
  | [] =>
    let n := s.freeCtr
    modTiller { s with freeCtr := n + 1 } t (fun u => { u with vregs := smClearRun u.vregs 65536 65536, vFree := some n })
  | e :: r => modTiller s t (fun u => { u with vq := r.reverse ++ [{ e with thenFree := true }] })

/-- TILE_END (R98, R99). -/
def execTileEnd (t : Nat) (w : Word) (s : State) : Host.Outcome State Fault Refusal :=
  instr 0x71 regsNone t w s fun u s =>
    let s := issued t (forgetVLater t s)
    if wantsSwitch u && !(curCtx (tillerAt s t)).ended then modTiller s t (fun u => { u with switching := true }) else s

/-- TLR_STATE.STATE of a tiller from what runs (Table 2.14). -/
def stateOf (u : Tiller) : Nat :=
  if u.cur = 1 && hasDeferred u then 4
  else if !u.act.valid then 0
  else if u.ctxA.ended then 3
  else if u.admitted then 2 else 1

/-- STATE brought up to date. -/
def setStateField (t : Nat) (s : State) : State := modTiller s t (fun u => { u with st := stateOf u })

/-- CONTEXT_SWITCH (R76, R98): once the array has completed every accepted pass and the vector engine every instruction. A
tiller whose active stage has ended, or that has none, takes up its deferred stage in the same way (R47, R309). -/
def execContextSwitch (t : Nat) (s : State) : Host.Outcome State Fault Refusal :=
  atUnit t 128 <|
    let u := tillerAt s t
    let idle := arrayIdle u && u.vq.isEmpty && u.send.isNone && !quadFenced s t
    let idleActive := u.cur == 0 && (u.ctxA.ended || !u.act.valid) && hasDeferred u && ftqEmpty u
    onlyIf (idle && (u.switching || idleActive)) s fun s =>
      setStateField t (modTiller s t (fun u => { u with cur := 1 - u.cur, switching := false }))

/-! ### The end of a stage (R44, R100, R308) -/

/-- Scalar registers at the start of a stage (Table 4.1). -/
def startRegs (g : Cfg) (deferred : Bool) : List Word :=
  let d := g.stage
  let nb := ceilDiv d.rows 64
  let nc := ceilDiv d.cols 64
  let rg := g.pos / max 1 d.colGroups
  let cg := g.pos % max 1 d.colGroups
  let span (n k i : Nat) : Nat := put (i * n / max 1 k) 23 0 + put ((i + 1) * n / max 1 k - i * n / max 1 k) 47 24
  [0, word (put g.pos 7 0 + put rg 15 8 + put cg 23 16), word (span nb d.rowGroups rg), word (span nc d.colGroups cg),
   word (put d.microbatches 15 0), word (put g.form 1 0 + putB deferred 2 + put d.stageId 15 8), 0, 0] ++
  (List.range 8).map (fun i => word (d.imms.getD i 0)) ++ List.replicate 16 0

/-- Producers of the edges into an input port of a stage: the tillers that feed a consumer at a position (R36). -/
def stageOf (g : Graph) (id : Nat) : Option StageDesc := g.stages.find? (fun d => d.stageId == id)
/-- First block and number of blocks of group i of k over n blocks (R28). -/
def groupSpan (n k i : Nat) : Nat × Nat := (i * n / max 1 k, (i + 1) * n / max 1 k - i * n / max 1 k)
/-- Row blocks and column blocks of the tiller at a position of a stage (R28). -/
def rowSpan (d : StageDesc) (pos : Nat) : Nat × Nat := groupSpan (ceilDiv d.rows 64) d.rowGroups (pos / max 1 d.colGroups)
def colSpan (d : StageDesc) (pos : Nat) : Nat × Nat := groupSpan (ceilDiv d.cols 64) d.colGroups (pos % max 1 d.colGroups)
/-- Two spans share a block. -/
def spansMeet (a b : Nat × Nat) : Bool := decide (max a.1 b.1 < min (a.1 + a.2) (b.1 + b.2))
/-- Block i lies in a span. -/
def inSpanOf (i : Nat) (a : Nat × Nat) : Bool := decide (a.1 ≤ i) && decide (i < a.1 + a.2)

/-- A producer at position p feeds a consumer at position q over an edge (R36). -/
def feeds (e : Edge) (p : StageDesc) (pp : Nat) (q : StageDesc) (qp : Nat) : Bool :=
  e.dist == 2 || (spansMeet (rowSpan p pp) (rowSpan q qp) && (e.dist == 0 || spansMeet (colSpan p pp) (colSpan q qp)))

/-- The edges out of a stage to stages, and to memory; into a stage. -/
def outEdges (g : Cfg) : List Edge := g.graph.edges.filter (fun e => e.srcStage == g.stage.stageId)
def inEdges (g : Cfg) : List Edge := g.graph.edges.filter (fun e => e.dstStage == g.stage.stageId)

/-- Consumers, as (tiller, input port), that a tiller of a configuration feeds over its edges out of a port, or out of all. -/
def consumersOf (g : Cfg) (port : Option Nat) : List (Nat × Nat × Edge) :=
  ((outEdges g).filter (fun e => e.dstStage != 255 && (port.isNone || port == some e.srcPort))).flatMap (fun e =>
    match stageOf g.graph e.dstStage with
    | none => []
    | some q => (q.tillers.zipIdx.filter (fun p => feeds e g.stage g.pos q p.2)).map (fun p => (p.1, e.dstPort, e)))

/-- A tile from memory or from tiller p takes which producers of a port: all that feed the tiller of a configuration. -/
def producersOf (g : Cfg) (port : Nat) : List (Nat × Edge) :=
  ((inEdges g).filter (fun e => e.dstPort == port)).flatMap (fun e =>
    if e.srcStage = 255 then [(255, e)]
    else match stageOf g.graph e.srcStage with
      | none => []
      | some p => (p.tillers.zipIdx.filter (fun x => feeds e p x.2 g.stage g.pos)).map (fun x => (x.1, e)))

/-- Producers in ascending tiller index, memory last (R24). -/
def sortProducers (l : List (Nat × Edge)) : List (Nat × Edge) :=
  l.foldr (fun x acc => acc.takeWhile (fun y => decide (y.1 < x.1)) ++ x :: acc.dropWhile (fun y => decide (y.1 < x.1))) []

/-- One queue for each producer (R36): a tiller that feeds the port as a member of two stages has one for each of them (log
entry 113). -/
def oneEach (l : List (Nat × Edge)) : List (Nat × Edge) :=
  l.foldl (fun acc x => if acc.any (fun y => y.1 == x.1 && y.2.srcStage == x.2.srcStage) then acc else acc ++ [x]) []

/-- The slots of a configuration placed in its regions (R24, R36, R541), and the credits its producer side holds (R36). -/
def placeSlots (g : Cfg) : Cfg :=
  let d := g.stage
  let ins := (List.range 4).flatMap (fun port =>
    (oneEach (sortProducers (producersOf g port))).flatMap (fun p => List.replicate d.queueDepth (port, p.1, p.2)))
  let place := ins.foldl (fun (a : Nat × List Slot) x =>
    (a.1 + slotSize x.2.2.fmt, a.2 ++ [{ port := x.1, producer := x.2.1, stage := x.2.2.srcStage, addr := a.1,
                                         size := slotSize x.2.2.fmt }])) (tsFirst d, [])
  let w0 := tsFirst d + d.tsIn * 1024
  let ws := if isProduct d.kind then
      (List.range d.relaySlots).map (fun i => ({ port := 4, addr := w0 + i * slotSize d.fmtW, size := slotSize d.fmtW } : Slot))
    else []
  { g with inSlots := place.2, wSlots := ws,
           credits := ((consumersOf g none).map (fun c => (c.1, c.2.1,
             match stageOf g.graph c.2.2.dstStage with | some q => q.queueDepth | none => 0))).eraseDups }

/-- END sent by a tiller (R44): on each of its output edges, or to the layer barrier. -/
def sendEnd (t : Nat) (g : Cfg) (s : State) : State :=
  let fl := (consumersOf g none).map (fun c => ({ kind := 1, src := t, dst := c.1, port := c.2.1, ch := g.chan,
                                                   tag := g.loadPos, stage := g.stage.stageId } : Flight))
  let s := { s with flights := s.flights ++ fl }
  if (outEdges g).isEmpty then modChan s g.chan (fun k => { k with barrier := k.barrier ++ [t] }) else s

/-- What a tiller keeps of a stage that leaves a bank: requests of it still open come to stand apart from those of the stage that
follows (R59), and the stationary operand is no longer one of the stage in the bank (R70). -/
def leaveBank (who : Nat) (u : Tiller) : Tiller :=
  { u with reqs := u.reqs.map (fun q => if q.who = who then { q with who := 3 } else if 3 ≤ q.who then { q with who := q.who + 1 } else q)
           arr := { u.arr with stat := u.arr.stat.map (fun x => if x.ctx = who then { x with ctx := 2 } else x) } }

/-- The next deferred stage of a tiller: the oldest queued one that lists it and whose STAGE_END it has not executed. Its bank
and registers are loaded (R95, R100, R308). -/
def loadDeferred (t c : Nat) (s : State) : State :=
  match (chanAt s c).trn.deferred.find? (fun d => d.left.contains t) with
  | none => modTiller s t (fun u => { leaveBank 1 u with dfr := {}, ctxD := {} })
  | some d =>
    let pos := (d.stage.tillers.zipIdx.find? (fun p => p.1 == t)).elim 0 (·.2)
    let g : Cfg := { valid := true, complete := true, chan := c, graph := d.graph, stage := d.stage, pos := pos, form := 1,
                     prog := d.progs, loadPos := d.loadPos, step := d.step }
    modTiller s t (fun u => { leaveBank 1 u with dfr := placeSlots g, ctxD := { sregs := startRegs g true } })

/-- DEFER stages of the swapped graph enter the queue of 64 in their order while it has room, and idle deferred banks take them up (R95,
R308). -/
def deferEnter (c : Nat) (s : State) : State :=
  let t := (chanAt s c).trn
  let n := 64 - t.deferred.length
  let new := t.deferRest.take n
  let s := modTrn s c (fun r => { r with deferred := r.deferred ++ new, deferRest := r.deferRest.drop n })
  ((new.flatMap (·.left)).eraseDups).foldl (fun s t => if (tillerAt s t).dfr.valid then s else setStateField t (loadDeferred t c s)) s

/-- A deferred stage has ended on a tiller (R308): it leaves the queue with its last tiller, and the tiller moves on to its next one;
where it has none, the active context runs again at once (log entry 114). -/
def deferredEnd (t c : Nat) (s : State) : State :=
  let ds := (chanAt s c).trn.deferred
  match ds.find? (fun d => d.left.contains t) with
  | none => s
  | some d =>
    let d' := { d with left := d.left.filter (· != t) }
    let gone := d'.left.isEmpty
    let upd := ds.filterMap (fun x => if x = d then (if gone then none else some d') else some x)
    let s := modTrn s c (fun x => { x with deferred := upd })
    let s := if gone then cntInc (.chn c) Reg.CHN_CNT_DEFER_RUNS s else s
    let s := setStateField t (loadDeferred t c (modTiller s t (fun u => { u with cur := if (loadNext upd t) then u.cur else 0 })))
    if gone then deferEnter c s else s
where
  /-- A further queued stage lists the tiller. -/
  loadNext (l : List Deferred) (t : Nat) : Bool := l.any (fun d => d.left.contains t)

/-- STAGE_END (R44, Table 4.9): waits for idle engines and for earlier SENDs, then END; the program stands there. The WAIT code shown
while it waits is that of the array, 7 (log entry 115). -/
def execStageEnd (t : Nat) (w : Word) (s : State) : Host.Outcome State Fault Refusal :=
  instr 0x72 regsNone t w s fun u s =>
    let g := curCfg u
    if !(arrayIdle u && u.vq.isEmpty) then waitAt t 7 s
    else if !ftqEmpty u then faultAt t 7 ST_STAGE_FAULT s
    else
      let s := cntInc (.tlr t) Reg.TLR_CNT_SEQ_INSTR s
      let s := modCtx t (fun x => { x with wait := 0, ended := true, endSent := true }) s
      let s := sendEnd t g s
      if u.cur = 1 then deferredEnd t g.chan s else setStateField t s

/-- An OP of Tables 4.4 or 4.5. -/
def listedOp (op : Nat) : Bool :=
  vectorOps.contains op || (decide (0x40 ≤ op) && decide (op ≤ 0x4F)) || (decide (0x60 ≤ op) && decide (op ≤ 0x6B)) ||
  (decide (0x70 ≤ op) && decide (op ≤ 0x73)) || op == 0x7F

/-- ILLEGAL_OP (R102, R128): OP 0x00 or an OP that neither table lists. -/
def execIllegalOp (t : Nat) (w : Word) (s : State) : Host.Outcome State Fault Refusal :=
  atUnit t 128 <| onlyIf (canIssue s t w && !listedOp (bits w 7 0)) s fun s => faultAt t 1 ST_STAGE_FAULT s

end Sys2Proof.Machine
end

