-- ==== Sys2Proof/Machine/Array.lean ====
section
/-! DEFINITION. The dot-product array (R62 to R94): array commands, passes, the accumulator file, the finished-tile queue. A
pass advances by one row block of 64 rows at a time. -/

namespace Sys2Proof.Machine

open Sys2Proof

/-! ### Accepting a command -/

/-- The stationary operand that a further pass of a context will find is one of its own stage (R70). -/
def prevStat (u : Tiller) (ctx : Nat) : Bool :=
  match (accepted u).reverse with
  | c :: _ => c.ctx == ctx
  | [] => match u.arr.stat with
    | some x => x.ctx == ctx && x.stageId == (ctxStage u ctx).1.stageId
    | none => false

/-- A command is faulty (R73). Of a SYNC, which reads and writes nothing, only OP and the RSV bits are checked (log entry 122). -/
def arrFaulty (u : Tiller) (c : ArrCmd) : Bool :=
  let p := ctxStage u c.ctx
  let d := p.1
  let form := p.2
  let op := bits c.w 1 0
  if 2 ≤ op ∨ bit c.w 5 ∨ bit c.w 63 then true
  else if op = 1 then false
  else
    let m := aRows c.w
    let wa := bits c.w 32 18
    let ia := bits c.w 47 33
    let acc := bits c.w 62 48
    let sa := bits c.s6 14 0
    let cols := if form = 2 then 256 else 64
    let keeps := aKeeps c.w (prevStat u c.ctx)
    (form == 2 && decide (64 < m)) || decide (24576 ≤ wa) || decide (24576 ≤ ia) || (form == 1 && decide (24576 ≤ acc)) ||
    (!keeps && !(statReads d form c).all (fun r => inWeights d r.1 (r.2 - r.1))) ||
    !inInput d (ia * 256) (inSpan d form m) ||
    (form == 1 && !(bit c.w 2 && bit c.w 3) && !inOutScratch d (acc * 256) (m * 256)) ||
    (d.scaleMode != 2 && !inRegions d (sa * 256) (ceilDiv m 64)) ||
    aK0 c.s6 % passK d form != 0 || aN0 c.s6 % cols != 0 || decide (d.depth ≤ aK0 c.s6) || decide (d.cols ≤ aN0 c.s6) ||
    bit c.s6 15

/-- A faulty array command (R73, R128): CMD_FAULT, and the stage stops. -/
def arrFault (t : Nat) (s : State) : State :=
  let u := tillerAt s t
  let c := tillerChan u
  let s := setEv (.tlr t) Reg.TLR_EVENT Bit.TLR_EVENT_STAGE_FAULT
    (setEv (.tlr t) Reg.TLR_ARR_EVENT Bit.TLR_ARR_EVENT_CMD_FAULT s)
  let s := logRec { source := 1, cause := 1, severity := 2, status := ST_STAGE_FAULT, channel := handleOf s c,
                    step := attemptOf (chanAt s c), detail := t * 2 ^ 128 } s
  stageStop t c ST_STAGE_FAULT s

/-- ARR (R67, R68, R83, R97): waits for admission, for room, for queued vector writes of what the pass reads. -/
def execArr (t : Nat) (w : Word) (s : State) : Host.Outcome State Fault Refusal :=
  instr 0x60 (fun w => [iSA w, 6, 7]) t w s fun u s =>
    let c : ArrCmd := { w := sreg u (iSA w), ctx := u.cur, s6 := sreg u 6, s7 := sreg u 7, rid := u.nextRid }
    let p := ctxStage u u.cur
    if u.cur = 0 && !u.admitted then waitAt t 1 s
    else if arrFaulty u c then arrFault t s
    else if 8 ≤ u.arr.queue.length then waitAt t 11 s
    else
      let pass := bits c.w 1 0 = 0
      let rds := if pass then passReads p.1 p.2 c false else []
      let wrs := if pass then passWrites p.2 c else []
      if readHazard u rds || wrs.any (fun r => meets r (vqWrites u) || meets r (vqReads u)) then waitAt t 11 s
      else
        let s := wr s (.tlr t) Reg.TLR_ARR_LAST_CMD c.w
        issued t (modTiller s t (fun u => { u with arr := { u.arr with queue := u.arr.queue ++ [c], slabs := u.arr.slabs ++ wrs } }))

/-- WAITA (R113): the array holds no command and every accepted pass has written all its sums. -/
def execWaita (t : Nat) (w : Word) (s : State) : Host.Outcome State Fault Refusal :=
  instr 0x61 regsNone t w s fun u s =>
    if u.arr.queue.isEmpty && u.arr.pass.isNone then
      issued t (modTiller s t (fun u => { u with arr := { u.arr with slabs := [] } }))
    else waitAt t 7 s

/-! ### The arithmetic of a pass (R79 to R87, R542) -/

/-- The product of two elements in FP32 (R80). -/
def laneProduct (f g : Format) (a b : Nat) : F32 := toF32 ((f.value a).mul (g.value b))

/-- A scaled group sum (R82): byte 0xFF gives NaN. -/
def scaleSum (g : F32) (sa sw : Nat) : F32 :=
  if sa = 255 ∨ sw = 255 then 0x7FC00000 else fScale g ((sa : Int) - 127 + ((sw : Int) - 127))

/-- What the sums of a pass are made from: formats, first K index and depth, and the scale bytes of row r and unit n for
the 32-element block of a K position. -/
structure PassData where
  fIn : Format
  fW : Format
  k0 : Nat
  depth : Nat
  k : Nat
  rows : List (List Nat)
  rowScale : Nat → Nat → Nat
  unitScale : Nat → Nat → Nat
  stat : List (List Nat)

/-- The sum of row r and unit n added to an accumulator, group by group in ascending K (R81, R82, R84, R86). -/
def sumInto (p : PassData) (r n : Nat) (acc : F32) : F32 :=
  let row := nth [] p.rows r
  (List.range (p.k / 16)).foldl (fun acc g =>
    let prods := (List.range 16).map (fun i =>
      let k := 16 * g + i
      if p.depth ≤ p.k0 + k then 0 else laneProduct p.fIn p.fW (nth 0 row k) (nth 0 (nth [] p.stat k) n))
    fAdd acc (scaleSum (tree fAdd 4 prods) (p.rowScale r (16 * g)) (p.unitScale n (16 * g)))) acc

/-- A tile in tile store at an address: its elements line by line, and its MX scale bytes (R79). -/
def tileLines (f : Format) (bs : List Byte) : List (List Nat) := chunksOf 64 64 (unpackElems f.bits 4096 bs)
def tileScales (f : Format) (bs : List Byte) : List Nat := ((bs.drop (512 * f.bits)).take 128).map (·.toNat)

/-- The stationary operand read from W_ADDR (R69, R542): elements by K position and column, MX scales by tile. -/
def loadStat (t : Nat) (d : StageDesc) (form : Nat) (c : ArrCmd) (s : State) : Stationary × State :=
  match formatOf d.fmtW with
  | none => ({ ctx := c.ctx, stageId := d.stageId }, s)
  | some f =>
    let wa := bits c.w 32 18 * 256
    let r := (List.range (tilesW d form)).foldl (fun (a : List (List Byte) × State) i =>
      let x := tsRead t (wa + i * slotBytesOf f) f.tileBytes a.2
      (a.1 ++ [x.1], x.2)) ([], s)
    let tiles := r.1.map (tileLines f)
    let scales := r.1.map (tileScales f)
    let k := passK d form
    let off := aK0 c.s6 % 64
    let elems := if form = 2 then (List.range k).map (fun i => tiles.flatMap (fun x => nth [] x (off + i)))
      else tiles.flatMap (fun x => x)
    ({ ctx := c.ctx, stageId := d.stageId, elems := elems, scales := scales }, r.2)

/-- Rows of row block i of the pass (R542): elements by K position, and MX scales by row and tile. -/
def loadRows (t : Nat) (d : StageDesc) (form : Nat) (c : ArrCmd) (i h : Nat) (s : State) :
    List (List Nat) × List (List Nat) × State :=
  match formatOf d.fmtIn with
  | none => ([], [], s)
  | some f =>
    let n := tilesIn d form
    let base := bits c.w 47 33 * 256 + i * n * slotBytesOf f
    let r := (List.range n).foldl (fun (a : List (List Nat) × List (List Nat) × State) j =>
      let b := base + j * slotBytesOf f
      let x := tsRead t b (h * 8 * f.bits) a.2.2
      let rows := chunksOf 64 h (unpackElems f.bits (64 * h) x.1)
      let y := if f.isMx then tsRead t (b + 512 * f.bits) (2 * h) x.2 else ([], x.2)
      let sc := (List.range h).map (fun q => [(nth 0 y.1 (2 * q)).toNat, (nth 0 y.1 (2 * q + 1)).toNat])
      (if j = 0 then rows else (a.1.zip rows).map (fun p => p.1 ++ p.2),
       if j = 0 then sc else (a.2.1.zip sc).map (fun p => p.1 ++ p.2), y.2)) ([], [], s)
    let off := aK0 c.s6 % 64
    (if form = 2 then r.1.map (fun row => (row.drop off).take (passK d form)) else r.1, r.2.1, r.2.2)

/-- The data of row block i of a pass. -/
def passData (t : Nat) (d : StageDesc) (form : Nat) (c : ArrCmd) (x : Stationary) (i h : Nat) (s : State) : PassData × State :=
  let rows := loadRows t d form c i h s
  let off := if form = 2 then aK0 c.s6 % 64 else 0
  let line := if d.scaleMode = 2 then ([], rows.2.2) else tsRead t (bits c.s6 14 0 * 256 + i) 1 rows.2.2
  let ta := (nth 0 line.1 0).toNat
  ({ fIn := (formatOf d.fmtIn).getD .fp32, fW := (formatOf d.fmtW).getD .fp32, k0 := aK0 c.s6, depth := d.depth, k := passK d form,
     rows := rows.1, stat := x.elems,
     rowScale := fun r k => if d.scaleMode = 2 then nth 255 (nth [] rows.2.1 r) ((off + k) / 32) else ta
     unitScale := fun n k =>
       if d.scaleMode = 2 then
         if form = 2 then nth 255 (nth [] x.scales (n / 64)) (64 * ((off + k) / 32) + n % 64)
         else nth 255 (nth [] x.scales (k / 64)) (64 * (k % 64 / 32) + n)
       else bits c.s7 (8 * (n / 64) + 7) (8 * (n / 64)) }, line.2)

/-- A scale byte of 0xFF is met by the sums of a row block (Table 3.8). -/
def meetsNanScale (p : PassData) (h cols : Nat) : Bool :=
  (List.range (p.k / 16)).any (fun g => (List.range h).any (fun r => p.rowScale r (16 * g) == 255) ||
    (List.range cols).any (fun n => p.unitScale n (16 * g) == 255))

/-! ### Finished tiles (R90, R121) -/

/-- The next slot in ring order can take a tile of the array: it is FREE, or the array has CLAIMED it. -/
def ftqFree (u : Tiller) : Bool := (u.ftq.getD u.ftqNext {}).st != 2

/-- The next slot taken: with no other in use it is the head (R122, R123). -/
def ftqTake (q : FtqSlot) (u : Tiller) : Tiller :=
  let n := u.ftqNext
  let empty := u.ftq.all (fun q => q.st == 0)
  { u with ftq := u.ftq.set n q, ftqHead := if empty then n else u.ftqHead, ftqOff := if empty then 0 else u.ftqOff }

/-- The array claims the next slot, where it is FREE, before it writes the tile's first value (R90, R121). -/
def ftqClaim (t : Nat) (s : State) : State :=
  modTiller s t (fun u => if (u.ftq.getD u.ftqNext {}).st = 0 then ftqTake { st := 1 } u else u)

/-- A finished tile of h valid rows in the slot claimed for it, READY after its last write. -/
def ftqPush (t h : Nat) (data : List F32) (s : State) : State :=
  modTiller (ftqClaim t s) t (fun u => { ftqTake { st := 2, rows := h, data := data } u with ftqNext := (u.ftqNext + 1) % 8 })

/-- Row sums of h rows padded to a 64 × 64 tile with +0.0. -/
def padTile (rows : List (List F32)) : List F32 :=
  (rows.map (fun r => r ++ List.replicate (64 - r.length) 0)).flatten ++ List.replicate (4096 - 64 * rows.length) 0

/-! ### Passes -/

/-- Rates: A-cycles per row, 2 for BF16 and FP16 (R69, R91). -/
def rowCycles (d : StageDesc) : Nat := if [2, 3].contains d.fmtIn || [2, 3].contains d.fmtW then 2 else 1

def modArr (t : Nat) (f : ArrayUnit → ArrayUnit) (s : State) : State := modTiller s t (fun u => { u with arr := f u.arr })

/-- An operand that a pass reads next is not yet present (R71): a tile requested before the pass was accepted is still to land there. -/
def operandMissing (u : Tiller) (c : ArrCmd) (l : List (Nat × Nat)) : Bool :=
  u.reqs.any (fun q => tracked q && !q.landed && decide (q.rid < c.rid) && (reqRanges q).any (fun r => meets r l))

/-- What an unlisted entry of the accumulator file holds: an unspecified value where an abandoned pass left it so (R74), else +0. -/
def accDefault (a : ArrayUnit) (k : Nat) : F32 :=
  match freeAt a.accFree k with
  | some r => BitVec.ofNat 32 (leValue ((List.range 4).map (fun i => freeIn r (4 * k + i))))
  | none => 0

/-- A pass ends with its last row block. -/
def endPass (t : Nat) (s : State) : State := cntInc (.tlr t) Reg.TLR_CNT_ARR_PASSES (modArr t (fun a => { a with pass := none }) s)

/-- Row block i of a pass of h rows (R69, R84 to R90). -/
def passBlock (t : Nat) (c : ArrCmd) (x : Stationary) (i : Nat) (s : State) : State :=
  let u := tillerAt s t
  let p := ctxStage u c.ctx
  let d := p.1
  let form := p.2
  let g := if c.ctx = 0 then u.act else u.dfr
  let m := aRows c.w
  let h := min 64 (m - 64 * i)
  let final := bit c.w 3
  let init := bit c.w 2
  let width := if form = 2 then 256 else 64
  let cols := min width (d.cols - aN0 c.s6)
  let pd := passData t d form c x i h s
  let s := pd.2
  let acc0 (r n : Nat) : F32 :=
    if init then 0
    else if form = 2 then smGet (accDefault u.arr) u.arr.acc (u.arr.wsBank * 16384 + r * 256 + n)
    else BitVec.ofNat 32 (leValue (tsRaw u (bits c.w 62 48 * 256 + (64 * (64 * i + r) + n) * 4) 4))
  let sums := (List.range h).map (fun r => (List.range cols).map (fun n => sumInto pd.1 r n (acc0 r n)))
  let s := cntAdd (.tlr t) Reg.TLR_CNT_ARRAY_BUSY (h * rowCycles d) s
  let s := if meetsNanScale pd.1 h cols then setEv (.tlr t) Reg.TLR_ARR_EVENT Bit.TLR_ARR_EVENT_SCALE_NAN s else s
  let s := if final then arrayFlags t g sums.flatten s else s
  let s :=
    if form = 2 then
      let s := modArr t (fun a => { a with acc := sums.zipIdx.foldl (fun m r =>
        smWriteRun (accDefault a) m (a.wsBank * 16384 + r.2 * 256) r.1) a.acc }) s
      if final then
        ftqClaim t (modArr t (fun a => { a with flush := a.flush ++ [{ bank := a.wsBank, rows := h, n0 := aN0 c.s6, ctx := c.ctx }]
                                                wsBank := 1 - a.wsBank }) s)
      else s
    else if final then
      let s := ftqPush t h (padTile sums) s
      if 64 * (i + 1) < m then ftqClaim t s else s
    else sums.zipIdx.foldl (fun s r =>
      tsWrite t (bits c.w 62 48 * 256 + 256 * (64 * i + r.2)) (r.1.flatMap (fun y => leBytes 4 y.toNat)) s) s
  if 64 * (i + 1) < m then modArr t (fun a => { a with pass := some (c, i + 1) }) s else endPass t s

/-- ARRAY_PASS (R69 to R71): the next accepted pass loads its stationary operand, or keeps it, and streams its next row
block; it holds while an operand is missing, the next finished-tile slot is in use, or its bank is still flushing. The slot of the
next tile is claimed with the end of the tile before (log entry 123). -/
def execArrayPass (t : Nat) (s : State) : Host.Outcome State Fault Refusal :=
  atUnit t 128 <| .next <|
    let u := tillerAt s t
    if quadFenced s t then s
    else
      match (match u.arr.pass with
        | some p => some p
        | none => match u.arr.queue with | c :: _ => if bits c.w 1 0 = 0 then some (c, 0) else none | [] => none) with
      | none => s
      | some (c, i) =>
        let p := ctxStage u c.ctx
        let own := match u.arr.stat with | some x => x.ctx == c.ctx && x.stageId == p.1.stageId | none => false
        let keeps := (u.arr.pass.isSome && i != 0) || aKeeps c.w own
        if operandMissing u c (blockReads p.1 p.2 c keeps i) then modArr t (fun a => { a with holdInput := true }) s
        else if (p.2 = 1 && bit c.w 3 && !ftqFree u) || (p.2 = 2 && u.arr.flush.any (fun f => f.bank == u.arr.wsBank)) then
          modArr t (fun a => { a with holdFtq := true, holdInput := false }) s
        else
          let s := modArr t (fun a => { a with
            queue := if a.pass.isSome then a.queue else a.queue.drop 1, pass := some (c, i), holdInput := false, holdFtq := false }) s
          if keeps then passBlock t c (u.arr.stat.getD {}) i s
          else
            let r := loadStat t p.1 p.2 c s
            let s := cntAdd (.tlr t) Reg.TLR_CNT_ARR_LOAD (if p.2 = 2 then 16 else 64) (modArr t (fun a => { a with stat := some r.1 }) r.2)
            passBlock t c r.1 i s

/-- ARRAY_SYNC (R67): a SYNC at the head completes once no pass is in flight. -/
def execArraySync (t : Nat) (s : State) : Host.Outcome State Fault Refusal :=
  atUnit t 128 <|
    let u := tillerAt s t
    onlyIf (u.arr.pass.isNone && u.arr.queue.head?.any (fun c => bits c.w 1 0 == 1) && !quadFenced s t) s fun s =>
      modArr t (fun a => { a with queue := a.queue.drop 1 }) s

/-- ARRAY_BANK_FLUSH (R86, R89): the next column tile of a flushing bank goes to the finished-tile queue. -/
def execArrayBankFlush (t : Nat) (s : State) : Host.Outcome State Fault Refusal :=
  atUnit t 128 <| .next <|
    let u := tillerAt s t
    match u.arr.flush with
    | [] => s
    | f :: rest =>
      if quadFenced s t then s
      else if !ftqFree u then modArr t (fun a => { a with holdFtq := true }) s
      else
        let left := (ctxStage u f.ctx).1.cols - (f.n0 + 64 * f.tile)
        let rows := (List.range f.rows).map (fun r => (List.range (min 64 left)).map (fun n =>
          smGet (accDefault u.arr) u.arr.acc (f.bank * 16384 + r * 256 + 64 * f.tile + n)))
        let fl := if f.tile < 3 ∧ 64 < left then { f with tile := f.tile + 1 } :: rest else rest
        let s := ftqPush t f.rows (padTile rows) s
        let s := if fl.isEmpty then s else ftqClaim t s
        modArr t (fun a => { a with holdFtq := false, flush := fl }) s

/-! ### The finished-tile queue and the program (R122) -/

/-- FTQ_WAIT: SD takes the valid rows of the head once it is READY. -/
def execFtqWait (t : Nat) (w : Word) (s : State) : Host.Outcome State Fault Refusal :=
  instr 0x6A regsDAB t w s fun u s =>
    let h := u.ftq.getD u.ftqHead {}
    if h.st ≠ 2 then waitAt t 6 s else issued t (setSreg t (iSD w) (word h.rows) s)

/-- FTQ_POP: the head is freed once every earlier vector instruction that reads it has read its last beat. -/
def execFtqPop (t : Nat) (w : Word) (s : State) : Host.Outcome State Fault Refusal :=
  instr 0x6B regsNone t w s fun u s =>
    if (u.ftq.getD u.ftqHead {}).st ≠ 2 then waitAt t 6 s
    else if u.vq.any (fun e => readsFtq e.w) then waitAt t 11 s
    else issued t (modTiller s t (fun u => { u with
      ftq := u.ftq.set u.ftqHead {}, ftqHead := (u.ftqHead + 1) % 8, ftqOff := 0 }))

end Sys2Proof.Machine
end

