-- ==== Sys2Proof/Machine/Copy.lean ====
section
/-! DEFINITION. Copy engines and region windows (R374, R376 to R386): the copy commands, the pieces a copy moves, and the
region table. -/

namespace Sys2Proof.Machine

open Sys2Proof

/-- A copy of an engine replaced by its change. -/
def modCopy (n ch : Nat) (pos : Option Nat) (f : Copy → Copy) (s : State) : State :=
  modCxl s (fun x => { x with engines := x.engines.modify n (fun e =>
    { e with inflight := e.inflight.map (fun y => if y.ch == ch && y.pos == pos && !y.ended then f y else y) }) })

/-- A copy stops with a status: it moves nothing further, and completes in its turn (R377). -/
def copyFail (n : Nat) (y : Copy) (status : Nat) (s : State) : State :=
  modCopy n y.ch y.pos (fun y => { y with status := status, ended := true }) s

/-- The next 64 KiB piece of a copy, up to its boundary (R382). -/
def copyPiece (y : Copy) : Nat := min (y.len - y.done) (65536 - (y.offset + y.done) % 65536)

/-- 64-byte lines of host reads outstanding, at most 4,096 (R374). -/
def readLines (s : State) : Nat := (s.cxl.reads.map (fun r => ceilDiv r.len 64)).sum

/-- A copy may use host memory now (R364, R393). -/
def copyOpen (s : State) (c : Nat) : Bool := hostOpen s && (chanAt s c).attached && !(chanAt s c).fenced

/-- Who a copy engine is when it reads or writes device memory (R54, R221, R224). -/
def copyAgent (n c : Nat) (dead : List Nat) : Agent := { fld := 0, ch := some c, req := 128 + n, dead := dead }

/-- DATA_OFFSET of a stream of b blocks (R380). -/
def dataOffset (b : Nat) : Nat := ceilDiv (64 + 8 * b) 16 * 16

/-- SOURCE_TAG of a copy's stream (R380). -/
def copyTag (y : Copy) : Nat := put y.obj 16 0 + put (y.offset / 4096) 63 24

/-- A block for a stream, compressed or RAW with its header, with the counters of its edge (R256, R258, R268). -/
def streamBlock (edge : Nat) (data : List Byte) (tag : Nat) (s : State) : State × List Byte :=
  let b := Blk.hsk edge
  let n := data.length
  let r := if bit (rd s b Reg.HSK_EDGE_CTRL) 0 then huskCompress data tag
    else (0, huskHeader 0 0 n n (crc32c data) tag ++ data)
  let s := cntAdd b Reg.HSK_CNT_COMP_OUT r.2.length (cntAdd b Reg.HSK_CNT_COMP_IN n s)
  let s := if r.1 = 0 then cntInc b Reg.HSK_CNT_PLAIN s else if r.1 = 1 then cntInc b Reg.HSK_CNT_ZERO s else s
  (s, r.2 ++ List.replicate (ceilDiv r.2.length 16 * 16 - r.2.length) 0)

/-- A block expanded at an edge, with its counters and its failure counted; the bytes that entered are the block's own (R258 to R260,
R268). -/
def expandBlock (edge : Nat) (carry : List Byte) (req tag : Nat) (len16 : Option Nat) (ch : Option Nat) (s : State) :
    State × List Byte × Nat :=
  let x := huskExpand carry req tag len16
  let b := Blk.hsk edge
  let n := min carry.length (16 + nbits (leValue ((carry.drop 4).take 4)) 12 0)
  let s := cntAdd b Reg.HSK_CNT_EXP_OUT x.1.length (cntAdd b Reg.HSK_CNT_EXP_IN n s)
  (if x.2 = 0 then s else huskFail edge x.2 tag ch s, x.1, x.2)

/-- A block of a stream in host memory that a copy reads: there is no second reading of it (R261). -/
def streamIn (carry : List Byte) (req tag len16 ch : Nat) (s : State) : State × List Byte × Nat :=
  let x := expandBlock 6 carry req tag (some len16) (some ch) s
  (if x.2.2 = 0 then x.1 else huskLog 6 x.2.2 tag (some ch) false x.1, x.2)

/-- A host write of a copy. -/
def copyWrite (n : Nat) (y : Copy) (addr : Nat) (bs : List Byte) (s : State) : State :=
  hostWrite 1 n (y.pos.getD 0) addr bs none (cntAdd .cxp Reg.CXP_CNT_D2H_BYTES bs.length
    (modCopy n y.ch y.pos (fun y => { y with writes := y.writes + 1 }) s))

/-- A host read of a copy. -/
def copyRead (n : Nat) (y : Copy) (addr len : Nat) (s : State) : State :=
  hostRead 1 n (y.pos.getD 0) addr len (modCopy n y.ch y.pos (fun y => { y with reads := y.reads + 1 }) s)

/-- The next thing an H2D copy does: its next host read (R374, R381). -/
def stepH2d (n : Nat) (y : Copy) (s : State) : State :=
  if y.len ≤ y.done then modCopy n y.ch y.pos (fun y => { y with ended := true }) s
  else if y.husk && y.head.isEmpty then
    copyRead n y y.host (64 + 8 * ceilDiv y.len 4096) s
  else if y.husk then
    let j := y.done / 4096
    let e := leValue ((y.head.drop (64 + 8 * j)).take 8)
    let at_ := y.host + leValue ((y.head.drop 24).take 8) + nbits e 39 0 * 16
    let n16 := nbits e 48 40
    if rangeBusy s y.obj (y.offset + y.done) 1 then s
    else if n16 = 0 then
      let x := streamIn [] (min 4096 (y.len - y.done)) j 0 y.ch s
      copyFail n y (huskStatus x.2.2) x.1
    else if !inWindow (chanAt s y.ch) false at_ (n16 * 16) then copyFail n y ST_NO_ACCESS s
    else copyRead n y at_ (n16 * 16) s
  else
    let k := copyPiece y
    if rangeBusy s y.obj (y.offset + y.done) k || decide (4096 < readLines s + ceilDiv k 64) then s
    else copyRead n y (y.host + y.done) k s

/-- The next thing a D2H copy does: its next piece read from device memory and written to the host (R378, R380). -/
def stepD2h (n : Nat) (y : Copy) (s : State) : State :=
  let b := ceilDiv y.len 4096
  if y.done < y.len then
    let k := if y.husk then min 4096 (y.len - y.done) else copyPiece y
    gated n (some y.ch) (128 + n) [{ obj := y.obj, off := y.offset + y.done, n := k }] (fun dead s =>
      let r := objRead (copyAgent n y.ch dead) y.obj (y.offset + y.done) k s
      if r.2.2 ≠ 0 then copyFail n y (rdStatus r.2.2) r.1
      else if y.husk then
        let x := streamBlock 6 r.2.1 (y.done / 4096) r.1
        let s := modCopy n y.ch y.pos (fun y => { y with
          done := y.done + k, streamLen := y.streamLen + x.2.length,
          head := y.head ++ leBytes 8 (put (y.streamLen / 16) 39 0 + put (x.2.length / 16) 48 40) }) x.1
        copyWrite n y (y.host + dataOffset b + y.streamLen) x.2 s
      else copyWrite n y (y.host + y.done) r.2.1 (modCopy n y.ch y.pos (fun y => { y with done := y.done + k }) r.1)) s
  else if y.husk && y.stage == 0 then
    copyWrite n y (y.host + 64) (y.head ++ List.replicate (dataOffset b - 64 - 8 * b) 0)
      (modCopy n y.ch y.pos (fun y => { y with stage := 1 }) s)
  else if y.husk && y.stage == 1 then
    let h := leBytes 4 0x4B535548 ++ leBytes 4 1 ++ leBytes 8 b ++ leBytes 8 y.len ++ leBytes 8 (dataOffset b) ++
      leBytes 8 (copyTag y) ++ List.replicate 20 0
    copyWrite n y y.host (h ++ leBytes 4 (crc32c (h ++ [0, 0, 0, 0] ++ y.head)))
      (modCopy n y.ch y.pos (fun y => { y with stage := 2 }) s)
  else modCopy n y.ch y.pos (fun y => { y with ended := true }) s

/-- Data that an H2D copy has received is written to device memory, and the copy goes on. -/
def putData (n : Nat) (y : Copy) (bs : List Byte) (s : State) : State :=
  gated n (some y.ch) (128 + n) [{ write := true, obj := y.obj, off := y.offset + y.done, n := bs.length }] (fun dead s =>
    let r := objWrite (copyAgent n y.ch dead) y.obj (y.offset + y.done) bs s
    if r.2 then copyFail n y ST_MEM_POISON r.1
    else stepH2d n { y with data := none, done := y.done + bs.length } (modCopy n y.ch y.pos (fun y => { y with
      data := none, done := y.done + bs.length }) (cntAdd .cxp Reg.CXP_CNT_H2D_BYTES bs.length r.1))) s

/-- A copy in flight goes on when nothing of it is outstanding. -/
def copyStep (n : Nat) (y : Copy) (s : State) : State :=
  if y.ended || y.reads != 0 || y.writes != 0 || !copyOpen s y.ch then s
  else match y.data with
    | some bs => putData n y bs s
    | none => if n < 6 then stepH2d n y s else stepD2h n y s

/-- Every copy in flight goes on as far as host reads and busy granules let it (R374, R377). -/
def copyPump (s : State) : State :=
  (List.range 12).foldl (fun s n =>
    ((s.cxl.engines.getD n {}).inflight).foldl (fun s y => copyStep n y s) s) s

/-- The data of a host read that a copy made arrives (R374, R381): it is written, or it is a stream's header and table. -/
def copyData (n pos : Nat) (data : List Byte) (s : State) : State :=
  match (s.cxl.engines.getD n {}).inflight.find? (fun y => y.pos.getD 0 == pos && !y.ended && y.reads != 0) with
  | none => s
  | some y =>
    let s := modCopy n y.ch y.pos (fun y => { y with reads := y.reads - 1 }) s
    let w (bs : List Byte) (s : State) : State := modCopy n y.ch y.pos (fun y => { y with data := some bs }) s
    copyPump (if !y.husk then w data s
      else if y.head.isEmpty then
        if huskStreamBytes data ≠ y.len then copyFail n y ST_HUSK_SIZE s
        else if !huskStreamOk data then copyFail n y ST_HUSK_CRC s
        else modCopy n y.ch y.pos (fun y => { y with head := data }) s
      else
        let x := streamIn data (min 4096 (y.len - y.done)) (y.done / 4096) (data.length / 16) y.ch s
        if x.2.2 = 0 then w x.2.1 x.1 else copyFail n y (huskStatus x.2.2) x.1)

/-- The GO of a host write that a copy made. -/
def copyGo (n pos : Nat) (s : State) : State :=
  copyPump (modCxl s (fun x => { x with engines := x.engines.modify n (fun e => { e with inflight := e.inflight.map (fun y =>
    if y.pos.getD 0 == pos && y.writes != 0 then { y with writes := y.writes - 1 } else y) }) }))

/-! ### Commands -/

/-- Bytes queued at an engine. -/
def engineBytes (e : CopyEngine) : Nat := ((e.queue ++ e.inflight).map (fun y => y.len - y.done)).sum

/-- The engine of a command: the one named, or the one of its direction with the fewest queued bytes, the lowest first
(R376, log entry 9). -/
def copyEngine (s : State) (named base : Nat) : Nat :=
  if named < 6 then base + named
  else (List.range 6).foldl (fun b i =>
    if engineBytes (s.cxl.engines.getD (base + i) {}) < engineBytes (s.cxl.engines.getD b {}) then base + i else b) base

/-- The copy of an entry (Table 11.4). -/
def copyOf (x : Cmd) (d2h : Bool) : Copy :=
  { ch := x.ch, pos := some x.pos, host := x.e.a0.toNat, obj := bits x.e.a1 16 0, offset := x.e.a2.toNat, len := x.e.a3.toNat,
    husk := bit x.e.a1 20, capacity := if d2h then x.e.a4.toNat else 0 }

/-- The first check of R378 that a copy fails: (status, cause of a refused access). -/
def copyCheck (s : State) (y : Copy) (engine : Nat) (d2h : Bool) : Option (Nat × Nat) :=
  let o := objAt s y.obj
  let b := ceilDiv y.len 4096
  let hostLen := if y.husk then (if d2h then y.capacity else 64 + 8 * b) else y.len
  if engine = 6 ∨ y.len = 0 ∨ 2 ^ 36 < y.len ∨ (o.valid ∧ o.size < y.offset + y.len) ∨ (y.husk ∧ y.offset % 4096 ≠ 0) ∨
      (d2h ∧ y.husk ∧ y.capacity < dataOffset b + 4112 * b) ∨ (d2h ∧ !y.husk ∧ y.capacity ≠ 0) then
    some (ST_COPY_INVALID, 0)
  else if !inWindow (chanAt s y.ch) d2h y.host hostLen then some (ST_NO_ACCESS, 0)
  else refusal s y.ch (!d2h) o

/-- A copy command (R376 to R378): checked, and queued at its engine. While its engine's 256 places are full, or its channel
cannot reach host memory, it does not start (R377, R393). -/
def copyCommand (op : Nat) (d2h : Bool) (src : CmdSrc) (e : Entry) (s : State) : Host.Outcome State Fault Refusal :=
  let c := (cmdOf s src e).ch
  let n := copyEngine s (bits e.a1 19 17) (if d2h then 6 else 0)
  if !copyOpen s c || decide (256 ≤ (s.cxl.engines.getD n {}).queue.length) then .next s
  else serve op src e s fun x s =>
    let y := copyOf x d2h
    match copyCheck s y (bits e.a1 19 17) d2h with
    | some (st, cause) =>
      answer x st [] (if cause = 0 then s
        else plcFault 1 n (!d2h) cause x.ch (if (objAt s y.obj).valid then some y.obj else none) ((objAt s y.obj).baseDa + y.offset) s)
    | none => modCxl s (fun v => { v with engines := v.engines.modify n (fun g => { g with queue := g.queue ++ [y] }) })

/-- COPY_H2D (R376 to R378). -/
def execCopyH2d (src : CmdSrc) (e : Entry) (s : State) : Host.Outcome State Fault Refusal := copyCommand 0x21 false src e s
/-- COPY_D2H (R376 to R378, R380). -/
def execCopyD2h (src : CmdSrc) (e : Entry) (s : State) : Host.Outcome State Fault Refusal := copyCommand 0x22 true src e s

/-- The channel whose copy an engine starts next: round-robin by rising index after the last (R377). -/
def nextCopyChan (s : State) (e : CopyEngine) : Option Nat :=
  let cs := (e.queue.map (·.ch)).filter (fun c => copyOpen s c)
  let best (l : List Nat) : Option Nat := l.foldl (fun b c => match b with | none => some c | some v => some (min v c)) none
  match best (cs.filter (fun c => decide (e.lastCh < c))) with
  | some c => some c
  | none => best cs

/-- The next GRAD granule of a host-resident set that no write carries goes to host memory (R303). -/
def gradPump (n : Nat) (s : State) : State :=
  match (liveChans s).findSome? (fun c => if !copyOpen s c then none else
      ((chanAt s c).trn.gradOut.find? (fun g => !s.cxl.writes.any (fun w => w.who == 3 && w.unit == c && w.pos == g.1 * 2 ^ 32 + g.2))).map (c, ·)) with
  | none => s
  | some (c, i, g) =>
    let v := (chanAt s c).trn.sets.getD i {}
    gated n (some c) (128 + n) [{ obj := v.grad, off := g * 65536, n := 65536 }] (fun dead s =>
      let r := objRead (copyAgent n c dead) v.grad (g * 65536) 65536 s
      if r.2.2 ≠ 0 then abortAttempt c (rdStatus r.2.2) 0xFF r.1
      else hostWrite 3 c (i * 2 ^ 32 + g) (v.hostBase + g * 65536) r.2.1 none (cntAdd .cxp Reg.CXP_CNT_D2H_BYTES 65536 r.1)) s

/-- The next piece of a HOST_COMMIT that no read asks for is read from host memory, once COMMIT_ACK has come (R303, R304). -/
def commitPump (s : State) : State :=
  match (liveChans s).findSome? (fun c =>
      let t := (chanAt s c).trn
      match t.hostCommit with
      | none => none
      | some (_, _, es) =>
        if !copyOpen s c ∨ t.ackStep ≠ 0 ∨ 4096 < readLines s + 1024 then none
        else (es.find? (fun e => !s.cxl.reads.any (fun r => r.who == 2 && r.unit == c && r.addr == e.2.2))).map (fun e => (c, e.1 * 2 ^ 32 + e.2.1, e.2.2))) with
  | none => s
  | some (c, p, a) => hostRead 2 c p a 65536 s

/-- COPY_ENGINE_START (R303, R377): an engine with fewer than 4 copies in flight starts its next one. -/
def execCopyEngineStart (n : Nat) (s : State) : Host.Outcome State Fault Refusal :=
  atUnit n 12 <|
    let g := s.cxl.engines.getD n {}
    match (if g.inflight.length < 4 && hostOpen s then nextCopyChan s g else none) with
    | none => .next (copyPump (if n < 6 then commitPump s else gradPump n s))
    | some c =>
      match g.queue.find? (fun y => y.ch == c) with
      | none => .next s
      | some y => .next <| copyPump (modCxl s (fun v => { v with engines := v.engines.modify n (fun g =>
          { g with queue := g.queue.filter (fun z => !(z.ch == c && z.pos == y.pos)), inflight := g.inflight ++ [y], lastCh := c }) }))

/-- COPY_COMPLETE (R377, R388): the copy that an engine started first completes once all its data is visible. -/
def execCopyComplete (n : Nat) (s : State) : Host.Outcome State Fault Refusal :=
  atUnit n 12 <| .next <|
    match (s.cxl.engines.getD n {}).inflight with
    | [] => s
    | y :: rest =>
      if !y.ended || y.reads != 0 || y.writes != 0 then s
      else
        let s := modCxl s (fun v => { v with engines := v.engines.modify n (fun g => { g with inflight := rest }) })
        let r := if 6 ≤ n ∧ y.husk ∧ y.status = 0 then dataOffset (ceilDiv y.len 4096) + y.streamLen else y.done
        match y.pos with
        | some p => finishRing y.ch p y.status [word r] s
        | none => s

/-! ### Regions -/

/-- REGION_REGISTER (R385): the lowest free entry. -/
def execRegionRegister (src : CmdSrc) (e : Entry) (s : State) : Host.Outcome State Fault Refusal :=
  serve 0x23 src e s fun x s =>
    let oi := bits e.a0 16 0
    let o := objAt s oi
    let off := e.a1.toNat
    let len := bits e.a2 31 0
    if off % 4096 ≠ 0 ∨ len % 4096 ≠ 0 ∨ len = 0 ∨ 2 ^ 30 < len then answer x ST_BAD_COMMAND [] s
    else match lowestGap 1 1024 0 (s.cxl.regions.map (fun p => (p.1, 1))) with
      | none => answer x ST_REGION_INVALID [] s
      | some r =>
        if !ownsObj x.ch o ∨ o.size < off + len ∨ (bit e.a0 18 ∧ !mayWrite x.ch o) ∨ o.enc then answer x ST_REGION_INVALID [] s
        else
          let g : Region := {
            valid := true, rd := bit e.a0 17, wr := bit e.a0 18, pasidReq := bit e.a0 19, ch := x.ch, obj := oi, offset := off,
            len := len, reqId := bits e.a3 15 0, reqMask := bits e.a3 31 16, pasid := bits e.a3 51 32 }
          answer x ST_OK [word r] (modCxl s (fun v => { v with regions := smInsert r g v.regions }))

/-- REGION_RELEASE (R386): it completes once every write accepted through the window has been applied. -/
def execRegionRelease (src : CmdSrc) (e : Entry) (s : State) : Host.Outcome State Fault Refusal :=
  let g := smGet (fun _ => ({} : Region)) s.cxl.regions (bits e.a0 9 0)
  if g.valid && s.cxl.held.any (fun h => h.req.isSome && h.obj == g.obj) then .next s
  else serve 0x24 src e s fun x s =>
    if !(g.valid && g.ch == x.ch) then answer x ST_REGION_INVALID [] s
    else answer x ST_OK [] (modCxl s (fun v => { v with regions := smErase (bits e.a0 9 0) v.regions }))

end Sys2Proof.Machine
end

