-- ==== Sys2Proof/Machine/Placement.lean ====
section
/-! DEFINITION. Placement commands (R233 to R236, R539, R540) and the procedure that moves granules (R237 to R242), with the
host's CXL.mem accesses (R217, R228, R232, R237, R372). -/

namespace Sys2Proof.Machine

open Sys2Proof

/-- Entry bytes 0x00–0x07 of an object (Table 7.3). -/
def objWord (o : Obj) : Word :=
  word (putB o.valid 0 + put o.mode 2 1 + put o.homeTier 4 3 + putB o.homeLocal 5 + put o.homeField 7 6 + put o.replTier 9 8 +
    putB o.replLocal 10 + put o.replField 12 11 + putB o.compress 13 + putB o.enc 14 + putB o.migrating 15 + putB o.mixed 16 +
    putB o.orphan 17 + putB o.shared 18 + put o.owner 31 20 + put o.group 41 32 + put o.keySlot 55 48)

/-- Record bytes 0x00–0x07, and bits [6:0] of its second word (Table 7.4). -/
def granWord (r : Granule) : Word := word (put r.home 31 0 + put r.repl 63 32)
def granBits (r : Granule) : Nat :=
  put r.homeTier 1 0 + put r.replTier 3 2 + putB r.replValid 4 + putB r.dirty 5 + putB r.busy 6

/-- A share group. -/
def shareAt (s : State) (g : Nat) : ShareGroup := smGet (fun _ => {}) s.shareGroups g
def modShare (s : State) (g : Nat) (f : ShareGroup → ShareGroup) : State :=
  { s with shareGroups := smModify (fun _ => {}) s.shareGroups g f }

/-- The deep-tier frames of an encrypted object hold zeros (Table 7.7): every block is the encryption of zeros (R228). -/
def zeroEnc (oi : Nat) (s : State) : State :=
  let o := objAt s oi
  if !o.enc || o.homeTier != 2 then s
  else (List.range (o.size / 4096)).foldl (fun s b =>
    let p := frameBlock 2 (granAt s o (b / 16)).home (b % 16)
    (unitWrite (encKey s o p.1) (fun _ => slotTag o (b * 4096)) (cutPieces 65 (physKey p.1 p.2 0) (List.replicate 4096 0)) s).1) s

/-- OBJ_CREATE (R216, R223, R235, R519, R539). -/
def execObjCreate (src : CmdSrc) (e : Entry) (s : State) : Host.Outcome State Fault Refusal :=
  serve 0x10 src e s fun x s =>
    let size := e.a0.toNat
    let mode := bits e.a2 1 0
    let tier := bits e.a2 3 2
    let enc := bit e.a2 8
    let slot := bits e.a2 16 9
    if size % 65536 ≠ 0 ∨ size = 0 ∨ 2 ^ 36 < size ∨ size < e.a1.toNat ∨ mode = 3 ∨ tier = 0 ∨ tier = 3 ∨ (!enc ∧ slot ≠ 0) then
      answer x ST_BAD_COMMAND [] s
    else if !modeOk mode 0 then answer x ST_PLACE_INVALID [] s
    else if enc && !(let k := smGet (fun _ => {}) s.boot.keys slot
                     k.filled && k.owner == handleOf s x.ch) then answer x ST_NO_ACCESS [] s
    else match createObj s x.ch { size := size, dataBytes := e.a1.toNat, mode := mode, tier := tier, loc := bit e.a2 4,
                                  field := bits e.a2 6 5, compress := bit e.a2 7, enc := enc, keySlot := slot } with
      | .error st => answer x st [] s
      | .ok (oi, da, s1) => answer x ST_OK [word oi, word da] (zeroEnc oi s1)

/-- An object is named by a loaded stage graph, a registered sheaf, a queued update work item, or a queued copy or
collective (R234). -/
def objBusy (s : State) (oi : Nat) : Bool :=
  let inGraph (g : Cfg) : Bool := g.valid && (g.graph.stages.any (fun d => d.progObj == oi || (isProduct d.kind && d.weightObj == oi)) ||
    g.graph.edges.any (fun d => (d.srcStage == 255 || d.dstStage == 255) && d.memObj == oi))
  s.tillers.any (fun p => inGraph p.2.act || inGraph p.2.shadow) ||
  s.chans.any (fun p => p.2.trn.sheaves.any (fun f => f.accObj == oi)) ||
  s.stackMap.any (fun p => (itemsOf p.2).any (fun i => itemNames i oi)) ||
  s.cxl.engines.any (fun g => (g.queue ++ g.inflight).any (fun y => y.obj == oi)) ||
  s.links.groups.any (fun p => p.2.colls.any (fun y => (y.kind == 3 || y.kind == 4 || y.kind == 5 || y.kind == 0) && y.obj == oi))

/-- OBJ_FREE (R234, R274, R385). -/
def execObjFree (src : CmdSrc) (e : Entry) (s : State) : Host.Outcome State Fault Refusal :=
  serve 0x11 src e s fun x s =>
    let oi := bits e.a0 16 0
    if !ownsObj x.ch (objAt s oi) then answer x ST_NO_ACCESS [] s
    else if isArray s oi || objBusy s oi || s.cxl.regions.any (fun p => p.2.valid && p.2.obj == oi) then answer x ST_BUSY [] s
    else
      let s := (s.migs.filter (fun m => m.obj == oi)).foldl (fun s m =>
        finishRing m.ch m.pos ST_MIG_ABORTED [] (dropMig m s)) s
      answer x ST_OK [] (sweepKeys (releaseObj s oi))

/-- OBJ_SET_MODE (R223, R230, R274, R385). WRITE_BACK is left only with every granule clean, since the home is current in every other
mode (Table 7.5; log entry 128). -/
def execObjSetMode (src : CmdSrc) (e : Entry) (s : State) : Host.Outcome State Fault Refusal :=
  serve 0x12 src e s fun x s =>
    let oi := bits e.a0 16 0
    let o := objAt s oi
    let mode := bits e.a0 18 17
    if !ownsObj x.ch o then answer x ST_NO_ACCESS [] s
    else if isArray s oi then answer x ST_BUSY [] s
    else if o.shared ∧ mode ≠ 1 then answer x ST_SHARED [] s
    else if !modeOk mode o.replTier || (mode != 2 && decide (0 < o.dirtyCount)) then answer x ST_PLACE_INVALID [] s
    else if s.cxl.regions.any (fun p => p.2.valid && p.2.obj == oi && p.2.wr) then
      answer x ST_BUSY [] s
    else answer x ST_OK [] (setObj s oi (bumpVersion { o with mode := mode }))

/-- OBJ_SHARE (R230, R540). -/
def execObjShare (src : CmdSrc) (e : Entry) (s : State) : Host.Outcome State Fault Refusal :=
  serve 0x13 src e s fun x s =>
    let oi := bits e.a0 16 0
    let g := bits e.a0 26 17
    let o := objAt s oi
    let h := bits e.a1 31 0
    if !ownsObj x.ch o || ((shareAt s g).holder.any (fun c => c != x.ch)) then answer x ST_NO_ACCESS [] s
    else if bit e.a0 27 then
      if !(o.shared && o.group == g) then answer x ST_NO_ACCESS [] s
      else if !((chanAt s (h % 4096)).live && handleOf s (h % 4096) == h && !(chanAt s (h % 4096)).destroying) then
        answer x ST_STALE_HANDLE [] s
      else answer x ST_OK [] (modShare s g (fun r => { r with
        members := if r.members.contains (h % 4096) then r.members else insertIv (h % 4096, 0) (r.members.map (·, 0)) |>.map (·.1) }))
    else if o.mode ≠ 1 then answer x ST_PLACE_INVALID [] s
    else if o.shared then answer x ST_SHARED [] s
    else answer x ST_OK [] (setObj (modShare s g (fun r => { r with holder := some x.ch })) oi
      (bumpVersion { o with shared := true, group := g }))

/-- OBJ_UNSHARE (R540). -/
def execObjUnshare (src : CmdSrc) (e : Entry) (s : State) : Host.Outcome State Fault Refusal :=
  serve 0x14 src e s fun x s =>
    let oi := bits e.a0 16 0
    let g := bits e.a0 26 17
    let o := objAt s oi
    let h := bits e.a1 31 0
    if !ownsObj x.ch o || !(o.shared && o.group == g) || ((shareAt s g).holder.any (fun c => c != x.ch)) then
      answer x ST_NO_ACCESS [] s
    else if bit e.a0 27 then
      if !((chanAt s (h % 4096)).live && handleOf s (h % 4096) == h) then answer x ST_STALE_HANDLE [] s
      else
        let s := modShare s g (fun r => { r with members := r.members.filter (· != h % 4096) })
        let s := (liveObjs s).foldl (fun s p =>
          if p.2.orphan && p.2.group == g && (shareAt s g).members.isEmpty then releaseObj s p.1 else s) s
        answer x ST_OK [] s
    else
      answer x ST_OK [] (freeShare g (setObj s oi (bumpVersion { o with shared := false })))

/-- OBJ_QUERY (R233, R539). -/
def execObjQuery (src : CmdSrc) (e : Entry) (s : State) : Host.Outcome State Fault Refusal :=
  serve 0x15 src e s fun x s =>
    let oi := bits e.a0 16 0
    let o := objAt s oi
    let gr := bit e.a0 17
    if !mayRead s x.ch o then answer x ST_NO_ACCESS [] s
    else if gr ∧ objGranules o ≤ e.a1.toNat then answer x ST_BAD_COMMAND [] s
    else
      let r := granAt s o e.a1.toNat
      answer x ST_OK [objWord o, word o.baseDa, word o.size, if gr then granWord r else word o.dataBytes,
        word (put o.version 31 0 + (if gr then put (granBits r) 38 32 else 0))] s

/-! ### Moving granules -/

/-- An asynchronous placement command takes its place behind those that name its object (R236). -/
def migBegin (x : Cmd) (kind oi tier : Nat) (loc : Bool) (fld first count : Nat) (s : State) : State :=
  let m : MigCmd := {
    ch := x.ch, pos := x.pos, obj := oi, kind := kind, first := first, count := count, targetTier := tier, targetLocal := loc,
    targetField := fld, whole := first == 0 && count == objGranules (objAt s oi) }
  migPump 64 { s with migs := s.migs ++ [m] }

/-- The granule range of a command is inside the object (R539). -/
def rangeOk (o : Obj) (first count : Nat) : Bool := decide (1 ≤ count) && decide (first + count ≤ objGranules o)

/-- OBJ_REPLICATE (R223, R235, R236, R274, R539). -/
def execObjReplicate (src : CmdSrc) (e : Entry) (s : State) : Host.Outcome State Fault Refusal :=
  serve 0x16 src e s fun x s =>
    let oi := bits e.a0 16 0
    let o := objAt s oi
    let tier := bits e.a0 18 17
    if !ownsObj x.ch o then answer x ST_NO_ACCESS [] s
    else if tier = 0 ∨ tier = 3 ∨ !rangeOk o e.a1.toNat e.a2.toNat then answer x ST_BAD_COMMAND [] s
    else if isArray s oi then answer x ST_BUSY [] s
    else if !modeOk o.mode tier then answer x ST_PLACE_INVALID [] s
    else migBegin x 2 oi tier (bit e.a0 19) (bits e.a0 21 20) e.a1.toNat e.a2.toNat s

/-- OBJ_REPLICA_DROP (Table 7.7): every granule with a replica frame. -/
def execObjReplicaDrop (src : CmdSrc) (e : Entry) (s : State) : Host.Outcome State Fault Refusal :=
  serve 0x17 src e s fun x s =>
    let oi := bits e.a0 16 0
    let o := objAt s oi
    if !ownsObj x.ch o then answer x ST_NO_ACCESS [] s
    else migBegin x 4 oi 1 false 0 0 (objGranules o) s

/-- OBJ_FLUSH (R225, R539). -/
def execObjFlush (src : CmdSrc) (e : Entry) (s : State) : Host.Outcome State Fault Refusal :=
  serve 0x18 src e s fun x s =>
    let oi := bits e.a0 16 0
    let o := objAt s oi
    if !ownsObj x.ch o then answer x ST_NO_ACCESS [] s
    else if !rangeOk o e.a1.toNat e.a2.toNat then answer x ST_BAD_COMMAND [] s
    else migBegin x 3 oi 1 false 0 e.a1.toNat e.a2.toNat s

/-- OBJ_MIGRATE (R235, R236, R274, R539): COPY 0 moves homes, 1 replicas. -/
def execObjMigrate (src : CmdSrc) (e : Entry) (s : State) : Host.Outcome State Fault Refusal :=
  serve 0x19 src e s fun x s =>
    let oi := bits e.a0 16 0
    let o := objAt s oi
    let tier := bits e.a0 19 18
    let kind := if bit e.a0 17 then 1 else 0
    if !ownsObj x.ch o then answer x ST_NO_ACCESS [] s
    else if tier = 0 ∨ tier = 3 ∨ !rangeOk o e.a1.toNat e.a2.toNat then answer x ST_BAD_COMMAND [] s
    else if isArray s oi then answer x ST_BUSY [] s
    else if kind = 1 ∧ !modeOk o.mode tier then answer x ST_PLACE_INVALID [] s
    else migBegin x kind oi tier (bit e.a0 20) (bits e.a0 22 21) e.a1.toNat e.a2.toNat s

/-- A requester of R221 as the engine queues number it: (first, last); none for a tiller. -/
def engineWho (who : Nat) : Nat × Nat :=
  if who < 140 then (who - 128, who - 128) else if who = 140 then (12, 17) else if who = 141 then (19, 19) else (who - 130, who - 130)

/-- A requester has writes, or reads, of a granule that it has sent and that are not answered (R237): a tiller's parts, an engine's
entries in the queues of the homes. -/
def sentTo (s : State) (who oi g : Nat) (write : Bool) : Bool :=
  if who < 128 then (tillerAt s who).reqs.any (fun q => q.obj == oi && (q.kind == 1 || q.kind == 2 || q.kind == 3) == write && q.sent &&
    q.parts.any (fun p => (write || p.st == 1) && p.blocks.any (fun b => b.2 / 65536 == g)))
  else (List.range 48).any (fun h => (engineOf s h).any (fun e =>
    decide ((engineWho who).1 ≤ e.who) && decide (e.who ≤ (engineWho who).2) && e.write == write && e.acc.1 == oi &&
      (granulesOf e.acc.2.1 e.acc.2.2).contains g))

/-- MIGRATE_INVALIDATE (R237 steps 1, 2 and 7): the requester drops the record, and acknowledges once its writes to the granule have been
acknowledged, the second time once its reads of the source frame have been answered. -/
def execMigrateInvalidate (obj granule who : Nat) (s : State) : Host.Outcome State Fault Refusal :=
  .next <| match moveOf s obj granule with
    | none => s
    | some (_, v) =>
      if !v.waiting.contains who then s
      else
        let s := { s with xlat := smModify (fun _ => []) s.xlat who (·.filter (· != (objAt s obj).mapIndex + granule)) }
        if sentTo s who obj granule (v.phase == 0) then s
        else modMove s obj granule (fun v => { v with waiting := v.waiting.filter (· != who) })

/-- The other copy of a granule than the one at a place, when it is valid. -/
def otherCopy (o : Obj) (r : Granule) (src : Nat × Nat) : Option (Nat × Nat) :=
  if !(r.replValid && (o.mode == 1 || (o.mode == 2 && !r.dirty))) then none
  else if src = (r.homeTier, r.home) then some (r.replTier, r.repl) else some (r.homeTier, r.home)

/-- One block read by the migration engine: a block that fails to expand is read from the other copy of its granule, when that is valid
(Table 8.6). -/
def moveRead (a : Agent) (o : Obj) (r : Granule) (off : Nat) (src : Nat × Nat) (s : State) : State × List Byte × RdCause :=
  let k := off % 65536
  let x := runRead a o off src.1 src.2 k 4096 s
  if x.2.2 = 0 ∨ 6 < x.2.2 then x
  else match otherCopy o r src with
    | none => (huskRecord a o off src.1 src.2 x.2.2 false x.1, x.2)
    | some t =>
      let y := runRead a o off t.1 t.2 k 4096 x.1
      if y.2.2 = 0 then (huskRecord a o off src.1 src.2 x.2.2 true y.1, y.2)
      else (huskRecord a o off t.1 t.2 y.2.2 false (huskRecord a o off src.1 src.2 x.2.2 false y.1), x.2)

/-- One block copied from the source of a move to its target (R238, Table 8.6): poisoned codewords stay poisoned; a block
that no copy gives is written with the poison pattern and its status kept. -/
def copyBlock (dead : List Nat) (o : Obj) (r : Granule) (off : Nat) (src dst : Nat × Nat) (s : State) : State × Nat :=
  let k := off % 65536 / 4096
  let a : Agent := { engine := false, dead := dead }
  let x := moveRead a o r off src s
  let d := frameBlock dst.1 dst.2 k
  let husked := o.compress && src.1 == 2
  if x.2.2 = 0 then ((runWrite a o off dst.1 dst.2 (k * 4096) x.2.1 x.1).1, 0)
  else
    let sp := frameBlock src.1 src.2 k
    let s := (runWrite a o off dst.1 dst.2 (k * 4096) x.2.1 x.1).1
    let s := (List.range 64).foldl (fun s i =>
      if husked || x.2.2 != 8 || isPoison s (physKey sp.1 sp.2 0 / 64 + i) then setPoison s (physKey d.1 d.2 0 / 64 + i) true else s) s
    (s, if husked && x.2.2 ≤ 6 then huskStatus x.2.2 else 0)

/-- Where a move reads and where it writes: (tier, frame) each (R225, R237). -/
def moveEnds (m : MigCmd) (v : Move) (r : Granule) : (Nat × Nat) × (Nat × Nat) :=
  let home := (r.homeTier, r.home)
  let repl := (r.replTier, r.repl)
  if v.kind = 0 then (if r.dirty then repl else home, (m.targetTier, v.target))
  else if v.kind = 1 then (repl, (m.targetTier, v.target))
  else if v.kind = 2 then (home, (m.targetTier, v.target))
  else (repl, home)

/-- The blocks of a frame (key, length). -/
def frameRuns (e : Nat × Nat) : List (Nat × Nat) := (List.range 16).map (fun k => (granKey e.1 e.2 (k * 4096), 4096))

/-- The blocks of a granule copied from the source of a move to its target, by the migration engine. -/
def copyGranule (m : MigCmd) (v : Move) (dead : List Nat) (s : State) : State :=
  let o := objAt s v.obj
  let r := granAt s o v.granule
  let e := moveEnds m v r
  let x := if v.kind = 4 ∧ !r.dirty then (s, 0)
    else (List.range 16).foldl (fun (a : State × Nat) k =>
      let y := copyBlock dead o r (v.granule * 65536 + k * 4096) e.1 e.2 a.1
      (y.1, if a.2 = 0 then y.2 else a.2)) (if v.kind ≤ 2 then clearFrame s m.targetTier v.target else s, 0)
  let s := modMove x.1 v.obj v.granule (fun v => { v with phase := 1 })
  if x.2 = 0 then s else modMig s m.ch m.pos (fun m => { m with status := x.2 })

/-- MIGRATE_COPY_START (R237 step 3): with every acknowledgement in, the source blocks are read and written to the target, as requests of
the migration engine at their homes (R182). -/
def execMigrateCopyStart (obj granule : Nat) (s : State) : Host.Outcome State Fault Refusal :=
  .next <| match moveOf s obj granule with
    | none => s
    | some (m, v) =>
      if v.phase ≠ 0 || !v.waiting.isEmpty then s
      else
        let r := granAt s (objAt s obj) granule
        let e := moveEnds m v r
        let ask (write : Bool) (e : Nat × Nat) : List (Nat × EngEntry) :=
          entriesOf s 18 (some m.ch) write (obj, granule * 65536, 65536) (frameRuns e)
        gatedAt id (if v.kind = 4 ∧ !r.dirty then [] else ask false e.1 ++ ask true e.2) (copyGranule m v) s

/-- The granule record after a move (R225, R237). -/
def movedRecord (m : MigCmd) (v : Move) (r : Granule) : Granule :=
  if v.kind = 0 then { r with home := v.target, homeTier := m.targetTier, dirty := false, busy := false }
  else if v.kind = 1 then { r with repl := v.target, replTier := m.targetTier, busy := false }
  else if v.kind = 2 then { r with repl := v.target, replTier := m.targetTier, replValid := true, busy := false }
  else if v.kind = 3 then { r with dirty := false, busy := false }
  else { r with replValid := false, dirty := false, busy := false }

/-- MIGRATE_RECORD_WRITE (R237 steps 4 to 6): the new record, the stale notice, the held writes, the second invalidation. -/
def execMigrateRecordWrite (obj granule : Nat) (s : State) : Host.Outcome State Fault Refusal :=
  .next <| match moveOf s obj granule with
    | none => s
    | some (m, v) =>
      if v.phase ≠ 1 then s
      else
        let o := objAt s obj
        let r := granAt s o granule
        let s := noticeAll o (granule * 65536) 65536 s
        let r' := movedRecord m v r
        let s := setGran s o granule r'
        let s := modObj s obj (fun o => bumpVersion { o with
          dirtyCount := if r.dirty ∧ !r'.dirty then o.dirtyCount - 1 else o.dirtyCount,
          replCount := if r'.replValid ∧ !r.replValid then o.replCount + 1
            else if r.replValid ∧ !r'.replValid then o.replCount - 1 else o.replCount })
        let s := if r.dirty ∧ !r'.dirty then cntInc .plc Reg.PLC_CNT_FLUSH_GRANULES s else s
        let s := releaseHeld obj s
        -- the source frame travels in target until it is freed
        copyPump (modMove s obj granule (fun v => { v with
          phase := 2, waiting := requesters,
          target := if v.kind = 0 then r.home else if v.kind = 1 then r.repl else if v.kind = 4 then r.repl else v.target,
          targetTier := if v.kind = 0 then r.homeTier else if v.kind = 1 ∨ v.kind = 4 then r.replTier else v.targetTier }))

/-- MIGRATE_FREE_SOURCE (R237 step 7): with the second invalidation acknowledged the source frame is freed, and the engine
goes on. -/
def execMigrateFreeSource (obj granule : Nat) (s : State) : Host.Outcome State Fault Refusal :=
  .next <| match moveOf s obj granule with
    | none => s
    | some (m, v) =>
      if v.phase ≠ 2 || !v.waiting.isEmpty then s
      else
        let s := cntInc .plc Reg.PLC_CNT_MIG_GRANULES (freeSource m v s)
        let s := modMig s m.ch m.pos (fun m => { m with moves := m.moves.filter (fun v => v.granule != granule) })
        migPump 64 s

/-- MIGRATE_HOLD_TIMEOUT (R239): the time from step 1 to step 6 has exceeded MIG_HOLD_US. -/
def execMigrateHoldTimeout (obj granule : Nat) (s : State) : Host.Outcome State Fault Refusal :=
  .next <| match moveOf s obj granule with
    | none => s
    | some (m, v) => if 2 ≤ v.phase then s else copyPump (abandonMove m v s)

/-- MIGRATE_RETRY (R239): the granule is tried again with a fresh target frame. -/
def execMigrateRetry (obj granule : Nat) (s : State) : Host.Outcome State Fault Refusal :=
  .next <| match moveOf s obj granule with
    | none => s
    | some (m, v) =>
      if v.phase ≠ 3 ∨ 8 ≤ migInflight s then s
      else if 2 < v.kind then startMove m granule 0 v.aborts s
      else match (if quotaOk s m.ch m.targetTier 1 then allocFrames s m.targetTier m.targetField m.targetLocal 1 else none) with
        | some ([f], s) => startMove m granule f v.aborts (modUsed s m.ch m.targetTier (· + 1))
        | _ => migPump 64 (leaveGranule m granule s)

/-- XLAT_MISS_FILL (R221): the miss read returns the record to a requester's cache; a fenced stack's blocks of the system
region wait (R215). -/
def execXlatMissFill (t obj granule : Nat) (s : State) : Host.Outcome State Fault Refusal :=
  atUnit t 148 <|
    let o := objAt s obj
    let h := recordStack (o.mapIndex + granule)
    onlyIf (o.valid && decide (granule < objGranules o) && !homeDown s h &&
      !(smGet (fun _ => []) s.xlat t).contains (o.mapIndex + granule)) s fun s =>
      xlatTouch t (o.mapIndex + granule) (if (stackAt s h).misses.contains t then
        modStack s h (fun x => { x with misses := x.misses.filter (· != t) }) else s)

/-! ### CXL.mem (R370, R372) -/

/-- The device address that a host physical address reaches (R370). -/
def hdmAddr (s : State) (h : Nat) : Option Nat :=
  match s.cxl.hdm with
  | some (base, size) => if base ≤ h ∧ h < base + size then some (h - base) else none
  | none => none

/-- CXL.mem requests are taken: CXL mode, and IDE active where required (R363, R364). -/
def cxlMemOpen (s : State) : Bool :=
  s.cxl.mode == 1 && s.cxl.attach != 1 && !s.cxl.perst && (!s.boot.settings.ideRequired || (s.cxl.ideIo && s.cxl.ideCm)) &&
  s.boot.stage == 3

/-- Why a CXL.mem access is refused: (cause, object) (R217, R228, R232). -/
def memRefuse (s : State) (da : Nat) (wrt : Bool) : Option (Nat × Option Nat) :=
  if systemDa ≤ da then some (5, none)
  else match objOfDa s da with
    | none => some (3, none)
    | some (oi, o) => if o.enc then some (4, some oi) else if wrt ∧ o.mode = 1 then some (1, some oi) else none

/-- CXL_MEM_READ (R217, R228, R372): a 64-byte line; poison where it is refused or cannot be read. -/
def execCxlMemRead (h : Nat) (s : State) : Host.Outcome State Fault Refusal :=
  .next <| match (if cxlMemOpen s then hdmAddr s (h / 64 * 64) else none) with
    | none => s
    | some da =>
      let out (v : Option (List Byte)) (s : State) : State := modCxl s (fun x => { x with memOut := x.memOut ++ [v] })
      match memRefuse s da false, objOfDa s da with
      | some (cause, oi), _ => out none (plcFault 3 0 false cause 0 oi da s)
      | none, some (oi, o) =>
        gated 19 none 141 [{ obj := oi, off := da - o.baseDa, n := 64 }] (fun dead s =>
          let r := objRead { req := 141, dead := dead } oi (da - o.baseDa) 64 s
          out (if r.2.2 = 0 then some r.2.1 else none) (cntInc .cxp Reg.CXP_CNT_MEM_RD r.1)) s
      | none, none => s

/-- CXL_MEM_WRITE (R190, R217, R232, R237, R372): the enabled bytes of a line, by their place in it. -/
def execCxlMemWrite (h : Nat) (data : List (Nat × Byte)) (s : State) : Host.Outcome State Fault Refusal :=
  .next <| match (if cxlMemOpen s && data.all (fun b => b.1 < 64) then hdmAddr s (h / 64 * 64) else none) with
    | none => s
    | some da =>
      match memRefuse s da true, objOfDa s da with
      | some (cause, oi), _ => plcFault 3 0 true cause 0 oi da s
      | none, some (oi, o) =>
        let off := da - o.baseDa
        if 64 ≤ s.cxl.held.length then s
        else if (granAt s o (off / 65536)).busy then
          cntInc .plc Reg.PLC_CNT_HELD_WRITES
            (modCxl s (fun x => { x with held := x.held ++ [{ obj := oi, offset := off, data := data }] }))
        else gated 19 none 141 [{ write := true, obj := oi, off := off, n := 64 }] (fun dead s =>
          let a : Agent := { engine := false, req := 141, dead := dead }
          let s := cntInc .cxp Reg.CXP_CNT_MEM_WR s
          if data.length = 64 then
            objStore a oi off ((List.range 64).map (fun i => ((data.find? (fun b => b.1 == i)).map (·.2)).getD 0)) s
          else data.foldl (fun s b => objStore a oi (off + b.1) [b.2] s) s) s
      | none, none => s

end Sys2Proof.Machine
end

