-- ==== Sys2Proof/Machine/Detach.lean ====
section
/-! DEFINITION. Losing the host (R365, R391 to R395, R398): the detach, the reset of the CXL port domain, and the flagging
and starting of reset domains (R434 to R436, R439, R450). -/

namespace Sys2Proof.Machine

open Sys2Proof

/-- A copy in flight stops at its boundary and completes with ST_DETACHED (R393). -/
def detachCopies (s : State) : State :=
  let ys := s.cxl.engines.flatMap (·.inflight)
  let s := modCxl (dropEngine (fun e => decide (e.who < 12)) s) (fun x => { x with engines := x.engines.map (fun e => { e with inflight := [] }) })
  ys.foldl (fun s y => match y.pos with | some p => finishRing y.ch p ST_DETACHED [word y.done] s | none => s) s

/-- A channel detached (R394): records whose writes have no GO are not visible, so they are owed again, in their order. -/
def detachChan (c : Nat) (s : State) : State :=
  let k := chanAt s c
  let lost := (s.cxl.writes.filter (fun w => w.who == 0 && w.unit == c)).map (·.pos)
  let back := lost.filterMap (fun p =>
    (k.rings.written.find? (fun w => w.1 == p % 2 ^ k.rings.cplN)).map (fun w => ({ r := w.2.1 } : CplOwed)))
  modChan s c (fun k => { k with
    attached := false, logged := 0, logFull := false,
    rings := { k.rings with owed := back ++ k.rings.owed, cplTail := k.rings.cplTail - back.length, cplFull := false } })

/-- The module detaches (R391, R393): only while it is attached; the port then waits for its link, or for ATTACH. -/
def detach (cause : Nat) (s : State) : State :=
  let at_ := if s.cxl.mode = 0 then 1 else 2
  if s.cxl.attach ≠ 0 then modCxl s (fun x => { x with attach := at_ })
  else
    let s := modCxl s (fun x => { x with attach := at_, detachCause := cause })
    let s := cntInc .cxp Reg.CXP_CNT_DETACH (setEv .cxp Reg.CXP_EVENT Bit.CXP_EVENT_DETACH s)
    let s := logRec { source := 6, cause := 1, severity := 2, detail := cause } s
    let s := (liveChans s).foldl (fun s c => detachChan c s) s
    detachCopies (modCxl s (fun x => { x with reads := [], writes := [] }))

/-- The link goes down. -/
def linkDown (s : State) : State :=
  modCxl s (fun x => { x with mode := 0, width := 0, rate := 0, ideIo := false, ideCm := false })

/-- A device reset fences every domain of Table 13.3. -/
def fenceAll (s : State) : State :=
  ((List.range 0x41).filter isDomain).foldl (fun s d => modDomain s d (fun x => { x with fenced := true })) s

/-- Step 1 of a domain's reset: a device reset takes every domain with it; for the CXL port its link drops and the host detaches
(R393, R439, R448, R453). -/
def beginReset (d trig ch : Nat) (s : State) : State :=
  if (domainAt s d).seq.isSome || (deviceReset s && d != 0x7F) then s
  else
    let s := startReset d trig s
    let s := if d = 0x7E ∨ d = 0x7F then fenceAll s else s
    let s := modDomain s d (fun x => { x with seq := x.seq.map (fun q => { q with channel := ch }) })
    let s := (domainHomes d).foldl (fun s h =>
      if h < 16 then modStack s h (fun x => { x with st := 3 }) else modDeep s (h - 16) (fun x => { x with st := 3 })) s
    if d = 0x40 ∨ d = 0x7E ∨ d = 0x7F then detach 1 (linkDown s) else s

/-- A running domain flagged and fenced at once; its reset starts when AUTO_RESET is 1 (R435). -/
def fenceDomain (d trig ch : Nat) (s : State) : State :=
  let s := abandonMoves (domainHomes d) (modDomain (flagUnits d s) d (fun x => { x with flagged := true, fenced := true }))
  if bit (rd s .mon Reg.MON_RCV_CTRL) 0 then beginReset d trig ch s else s

/-- A domain is retired, flagged, fenced or resetting, so a further cause changes nothing (R436, R452). -/
def domainDown (s : State) (d : Nat) : Bool :=
  let x := domainAt s d
  x.retired || x.flagged || x.fenced || x.seq.isSome

/-- The domain is flagged by an event that its log record describes (R434 to R436). One already flagged, fenced or
resetting changes nothing further; the first such event of a reset is logged. -/
def flagDomain (d : Nat) (r : LogRec) (s : State) : State :=
  let x := domainAt s d
  if x.retired then s
  else if domainDown s d then
    if x.logged then s else logRec { r with domain := d } (modDomain s d (fun x => { x with logged := true }))
  else fenceDomain d (r.source * 16 + r.cause) r.channel (logRec { r with domain := d } s)

/-- The kind of a domain's reset as MON_CNT_RESETS counts it. -/
def resetCounter (d : Nat) : Nat :=
  if d < 0x20 then Reg.MON_CNT_RESETS_QUAD else if d < 0x30 then Reg.MON_CNT_RESETS_STACK
  else if d < 0x34 then Reg.MON_CNT_RESETS_DEEP else if d < 0x3E then Reg.MON_CNT_RESETS_PORT
  else if d = 0x40 then Reg.MON_CNT_RESETS_CXL else Reg.MON_CNT_RESETS_DEVICE

/-- A reset request that names a domain (R434, R435, R439, R450, R452): it joins a running reset, starts the sequence of a
fenced domain, and flags one that runs. -/
def requestReset (d : Nat) (s : State) : State :=
  if (domainAt s d).seq.isSome then s
  else if (domainAt s d).flagged || (domainAt s d).retired then beginReset d 0xB1 0 s
  else
    let s := abandonMoves (domainHomes d) (modDomain (flagUnits d s) d (fun x => { x with flagged := true, fenced := true }))
    beginReset d 0xB1 0 s

end Sys2Proof.Machine
end

