-- ==== Sys2Proof/Machine/Stook.lean ====
section
/-! DEFINITION. The stook (R442 to R447): what a capture records before a reset or a takeover, and where it is saved. Only
entries in use are recorded, each list in its own order (log entry 10). -/

namespace Sys2Proof.Machine

open Sys2Proof

/-- The first n 64-bit registers of a window, as the capture engine reads them. -/
def windowWords (f : Nat → Word) (n : Nat) : List Word := (List.range n).map (fun k => f (8 * k))

/-- A section: TYPE, UNIT and its content (Table 13.5). -/
abbrev Section := Nat × Nat × List Word

def ctxWords (x : Ctx) : List Word := word x.pc :: x.sregs

def secTiller (s : State) (t : Nat) : Section :=
  let u := tillerAt s t
  (1, t, windowWords (viewTlr s t) 128 ++ ctxWords u.ctxA ++ ctxWords u.ctxD ++
    (u.reqs.filter (fun q => !q.sent)).flatMap (fun q => [q.d0, q.d1, q.d2, q.d3, word q.mb]) ++
    (u.reqs.filter tracked).flatMap (fun q => [word q.obj, word q.mb]) ++
    [viewTlr s t Reg.TLR_FTQ_STATUS])

/-- Pool entries of 32 bytes. -/
def poolWords (l : List (Nat × Nat)) : List Word := l.flatMap (fun p => [word p.1, word p.2, 0, 0])

/-- Engine queue entries of 32 bytes. -/
def engineWords (l : List EngEntry) : List Word :=
  l.flatMap (fun e => [word e.who, word e.acc.1, word e.acc.2.1, word (put e.acc.2.2 62 0 + putB e.write 63)])

def secStack (s : State) (i : Nat) : Section :=
  let x := stackAt s i
  (2, i, windowWords (viewYst s i) 512 ++ poolWords x.pool ++ engineWords x.engine ++
    x.holdBuf.flatMap (fun h => [word (put h.sheaf 31 0 + put h.tile 63 32), word (put h.mb 31 0 + put h.source 63 32)]) ++
    x.updQueue.flatMap (fun u => (List.range 12).map (fun k => word (itemField u.bytes (8 * k) 8))))

def secDeep (s : State) (d : Nat) : Section :=
  (3, d, windowWords (viewDtr s d) 512 ++ poolWords (deepAt s d).pool ++ engineWords (deepAt s d).engine)

def secPort (s : State) (p : Nat) : Section :=
  let x := portAt s p
  (4, p, windowWords (viewPort s p) 512 ++ [word x.txSeq, word x.rxSeq] ++ x.credits.map word ++ [word x.retry.length])

def secColl (s : State) : Section :=
  (5, 0, (s.links.groups.filter (fun g => g.2.live)).flatMap (fun g =>
    [word (put g.1 9 0 + put g.2.role 15 10 + putB g.2.aborted 16 + put g.2.epoch 63 32)] ++
    g.2.colls.flatMap (fun c => [word (put c.kind 7 0 + put c.bytes 63 8), word c.id])))

def secCopy (s : State) (n : Nat) : Section :=
  (6, n, viewCxp s (0x40 + 8 * n) :: (s.cxl.engines.getD n {}).queue.flatMap (fun y =>
    [word y.ch, word (y.pos.getD 0), word y.host, word y.obj, word y.offset, word y.len, word y.capacity, word y.done]))

def secChan (s : State) (c : Nat) : Section :=
  let k := chanAt s c
  (7, c, windowWords (viewChn s c) 224 ++ (k.rings.holds.take 256).map (fun h => word (put h.1 11 0 + put h.2 63 32)) ++
    k.barrier.map word ++ k.trn.deferred.map (fun d => word d.stageId))

def secRachis (s : State) : Section :=
  (8, 0, (List.range 64).map (fun m => viewMbx s m Reg.MBX_STATUS))

def secMig (s : State) : Section :=
  (9, 0, s.migs.flatMap (fun m => m.moves.map (fun v => word (put v.obj 16 0 + put v.granule 63 32))))

/-- Channels that the reset of a domain aborts. -/
def abortedBy (s : State) (d : Nat) : List Nat :=
  (liveChans s).filter (fun c => (chanAt s c).rcv.st != 0 && (chanAt s c).rcv.cause == d)

/-- The sections that a domain's reset, or a takeover, captures (R437, R444). -/
def stookSections (s : State) (d : Nat) : List Section :=
  let ch := (abortedBy s d).map (secChan s)
  if d < 0x20 then (quadTillers d).map (secTiller s) ++ ch
  else if d < 0x30 then secStack s (d - 0x20) :: ch ++ [secMig s]
  else if d < 0x34 then (List.range 8).map (fun i => secDeep s (8 * (d - 0x30) + i)) ++ ch ++ [secMig s]
  else if d < 0x3E then secPort s (d - 0x38) :: secColl s :: ch
  else if d = 0x40 then (List.range 12).map (secCopy s) ++ ch
  else if d = 0x48 then [secRachis s]
  else (List.range 128).map (secTiller s) ++ (List.range 16).map (secStack s) ++ (List.range 32).map (secDeep s) ++
    (List.range 6).map (secPort s) ++ [secColl s] ++ (List.range 12).map (secCopy s) ++ ch ++ [secRachis s, secMig s]

/-- Bytes of a section in a stook: its content and its CRC, up to the next 64-byte boundary (R443). -/
def sectionBytes (x : Section) : Nat := ceilDiv (8 * x.2.2.length + 4) 64 * 64

/-- The stook area (Table 13.6). -/
def stookArea : Nat := 30 * 2 ^ 20

/-- Sections in their order for as long as each one fits (R445). -/
def fitSections : Nat → List Section → List Section
  | _, [] => []
  | room, x :: r => if sectionBytes x ≤ room then x :: fitSections (room - sectionBytes x) r else []

/-- A capture (R442 to R445): the stook of a domain's reset by a trigger. -/
def capture (d trig ch : Nat) (s : State) : State :=
  let all := stookSections s d
  let used := (s.rcv.stooks.map (·.bytes)).sum
  let head := ceilDiv (64 + 16 * all.length) 64 * 64
  let kept := fitSections (stookArea - used - head) all
  let cut := kept.length != all.length
  let c := ch % 4096
  let k : Stook := {
    id := s.rcv.nextStook, truncated := cut, time := s.us, domain := d, trigger := trig, gen := (domainAt s d).gen,
    bytes := head + (kept.map sectionBytes).sum, channel := ch,
    step := if ch = 0 then 0 else attemptOf (chanAt s c), sections := kept }
  let s := modRcv s (fun r => { r with stooks := r.stooks ++ [k], nextStook := r.nextStook + 1 })
  let s := modDomain s d (fun x => { x with seq := x.seq.map (fun q => { q with stook := k.id }) })
  if cut then
    logRec { source := 0xB, cause := 3, domain := d, stook := k.id, detail := trig }
      (cntInc .mon Reg.MON_CNT_STOOK_TRUNC (setEv .mon Reg.MON_RCV_EVENT Bit.MON_RCV_EVENT_STOOK_TRUNC s))
  else s

/-- A section as its bytes: its content and the CRC at its end (R443). -/
def sectionData (x : Section) : List Byte :=
  let c := x.2.2.flatMap (fun w => leBytes 8 w.toNat)
  let c := c ++ List.replicate (sectionBytes x - 4 - c.length) 0
  c ++ leBytes 4 (crc32c c)

/-- A stook as its bytes (R443, Table 13.4). -/
def stookBytes (k : Stook) : List Byte :=
  let n := k.sections.length
  let dir := (k.sections.foldl (fun (a : Nat × List Byte) x =>
    (a.1 + sectionBytes x, a.2 ++ leBytes 4 (put x.1 7 0 + put x.2.1 31 16) ++ leBytes 4 (sectionBytes x) ++ leBytes 8 a.1))
    (ceilDiv (64 + 16 * n) 64 * 64, [])).2
  let h := leBytes 4 0x4B4F5453 ++ leBytes 4 (put 1 15 0 + putB k.truncated 16) ++ leBytes 8 k.id ++ leBytes 8 k.time ++
    leBytes 4 (put k.domain 7 0 + put k.trigger 15 8 + put k.gen 31 16) ++ leBytes 4 n ++ leBytes 8 k.bytes ++
    leBytes 4 k.channel ++ leBytes 4 0 ++ leBytes 8 k.step ++ leBytes 4 0
  let crc := crc32c (h ++ [0, 0, 0, 0] ++ dir)
  h ++ leBytes 4 crc ++ dir ++ List.replicate (ceilDiv (64 + 16 * n) 64 * 64 - 64 - 16 * n) 0 ++ k.sections.flatMap sectionData

/-- The oldest unsaved stook goes to its one destination (R446): to host memory while the port is ATTACHED and the area is
long enough, else to the flash when STOOK_FLASH is 1. -/
def startSave (s : State) : State :=
  match s.rcv.stooks with
  | [] => s
  | k :: _ =>
    if s.cxl.writes.any (fun w => w.who == 4) || s.boot.ops.any (fun o => o.kind == 3) then s
    else if hostOpen s && decide (k.bytes ≤ (rd s .mon Reg.MON_RCV_STOOK_LEN).toNat) then
      hostWrite 4 0 k.id (rd s .mon Reg.MON_RCV_STOOK_BASE).toNat (stookBytes k) none s
    else if bit (rd s .mon Reg.MON_RCV_CTRL) 1 then
      modBoot s (fun b => { b with ops := b.ops ++ [{ prio := 3, kind := 3, arg := k.id, pages := ceilDiv k.bytes 4096 }] })
    else s

/-- A stook saved: its space may be used again, and the next unsaved one follows (R445, R446). -/
def stookSaved (id : Nat) (host : Bool) (s : State) : State :=
  match s.rcv.stooks.find? (fun k => k.id == id) with
  | none => s
  | some k =>
    let k := { k with inHost := host, inFlash := !host }
    let s := modRcv s (fun r => { r with stooks := r.stooks.eraseP (fun x => x.id == id), lastSaved := some k })
    let s := if host then s else cntAdd .boot Reg.BOOT_CNT_FLASH_PAGES (ceilDiv k.bytes 4096) (modBoot s (fun b => { b with stookFlash := some k }))
    startSave (setEv .mon Reg.MON_RCV_EVENT Bit.MON_RCV_EVENT_STOOK_SAVED s)

end Sys2Proof.Machine
end

