-- ==== Sys2Proof/Machine/Detect.lean ====
section
/-! DEFINITION. Hang detectors and the rachis heartbeat (R430 to R439), and the SMBus requests of the board controller
(R391, R428, R466). -/

namespace Sys2Proof.Machine

open Sys2Proof

/-- An SMBus response (R428). -/
def smbAnswer (code sq status : Nat) (data : List Byte) (s : State) : State :=
  { s with smbOut := s.smbOut ++ [(code, sq % 256, status, data)] }

/-- SMBus is served (R428, R438, R514). -/
def smbServed (s : State) : Bool := s.phys.pwrGood && rachisServes s

/-! ### The rachis (R437, R438) -/

/-- A mailbox BUSY at a takeover is acknowledged DONE with ST_RESET (R437 step 2). -/
def resetMailboxes (s : State) : State :=
  s.mbxs.foldl (fun s p =>
    match (mbxAt s p.1).run with
    | some (e, q) => if (mbxAt s p.1).st = 1 then answer { src := .mbx p.1, e := e, ch := e.handle % 4096, seq := q } ST_RESET [] s else s
    | none => s) s

/-- The standby core takes over (R437); with none ready the heartbeat stops (R438). -/
def takeover (trig : Nat) (s : State) : State :=
  if !s.rcv.standby then modRcv s (fun r => { r with stopped := true })
  else
    let s := capture 0x48 trig 0 s
    let s := modRcv s (fun r => { r with activeCore := 1 - r.activeCore, standby := false, stopped := false, beatUs := s.us })
    let s := modDomain s 0x48 (fun x => { x with gen := (x.gen + 1) % 2 ^ 16 })
    let s := resetMailboxes s
    let s := cntInc .mon Reg.MON_CNT_TAKEOVER (setEv .mon Reg.MON_RCV_EVENT Bit.MON_RCV_EVENT_TAKEOVER s)
    startSave (logRec { source := 9, cause := 1, severity := 2, domain := 0x48, detail := s.rcv.activeCore } s)

/-- HEARTBEAT_ADVANCE (R437). -/
def execHeartbeatAdvance (s : State) : Host.Outcome State Fault Refusal :=
  onlyIf (rachisServes s) s fun s => modRcv s (fun r => { r with heartbeat := (r.heartbeat + 1) % 2 ^ 64, beatUs := s.us })

/-- RACHIS_TAKEOVER (R437): the heartbeat has stalled, or a mailbox has stayed BUSY for 2 ms. -/
def execRachisTakeover (s : State) : Host.Outcome State Fault Refusal :=
  onlyIf (s.boot.stage == 3) s fun s => takeover 0x91 s

/-- STANDBY_RELOAD_DONE (R437 step 4): the failed core is the standby, or NO_STANDBY is set. -/
def execStandbyReloadDone (ok : Bool) (s : State) : Host.Outcome State Fault Refusal :=
  onlyIf (s.boot.stage == 3 && !s.rcv.standby) s fun s =>
    if ok then modRcv s (fun r => { r with standby := true })
    else logRec { source := 9, cause := 2, severity := 2, domain := 0x48, detail := s.rcv.activeCore }
      (setEv .mon Reg.MON_RCV_EVENT Bit.MON_RCV_EVENT_NO_STANDBY s)

/-! ### Reset requests (R434, R439) -/

/-- A request that names a domain of Table 13.3. -/
def requestDomain (d : Nat) (s : State) : State := if d = 0x48 then takeover 0xB1 s else requestReset d s

/-- MON_RCV_REQ (R439): a code outside the table changes nothing; the write has no record to fail (log entry 11). -/
def execMonRcvReq (w : Word) (s : State) : Host.Outcome State Fault Refusal :=
  onlyIf (isDomain (bits w 7 0)) s fun s => requestDomain (bits w 7 0) s

/-- SMB_RECOVER (R434, R439). -/
def execSmbRecover (sq code : Nat) (s : State) : Host.Outcome State Fault Refusal :=
  onlyIf (smbServed s) s fun s =>
    if isDomain code then requestDomain code (smbAnswer 6 sq ST_OK [] s) else smbAnswer 6 sq ST_BAD_UNIT [] s

/-- SMB_HEARTBEAT (R428, Table 12.8). -/
def execSmbHeartbeat (sq : Nat) (s : State) : Host.Outcome State Fault Refusal :=
  onlyIf (smbServed s) s fun s => smbAnswer 2 sq ST_OK (leBytes 8 s.rcv.heartbeat ++ leBytes 1 s.rcv.activeCore) s

/-- SMB_DETACH (R391, Table 12.8): cause 6. -/
def execSmbDetach (sq : Nat) (s : State) : Host.Outcome State Fault Refusal :=
  onlyIf (smbServed s) s fun s => detach 6 (smbAnswer 8 sq ST_OK [] s)

/-- SMB_LOG_READ (R466). -/
def execSmbLogRead (sq idx : Nat) (s : State) : Host.Outcome State Fault Refusal :=
  onlyIf (smbServed s) s fun s =>
    match logAt s idx with
    | some r => smbAnswer 9 sq ST_OK (logBytes idx r) s
    | none => smbAnswer 9 sq ST_BAD_COMMAND [] s

/-! ### The command watchdog (R433) -/

/-- The domain of the engine that runs a command: none for a migration; 0x48 when the rachis alone serves it. -/
def engineDomain (s : State) (e : Entry) : Option Nat :=
  let port (g : Nat) : Nat := 0x38 + (groupPorts (groupAt s g)).headD 0
  match e.opcode with
  | 0x16 | 0x17 | 0x18 | 0x19 => none
  | 0x21 | 0x22 | 0x24 | 0x36 => some 0x40
  | 0x33 | 0x35 | 0x46 => some 0x38
  | 0x42 | 0x43 | 0x44 | 0x45 => some (port (bits e.a0 9 0))
  | _ => some 0x48

/-- CMD_WATCHDOG (R430, R433): a started command has not completed within CMD_WD_MS. -/
def execCmdWatchdog (c pos : Nat) (s : State) : Host.Outcome State Fault Refusal :=
  atUnit c 4096 <| .next <|
    match ringCmd s c pos with
    | none => s
    | some y =>
      if bits (rd s (.chn c) Reg.CHN_RCV_CTRL) 63 32 = 0 then s
      else
        let s := cntInc (.chn c) Reg.CHN_CNT_WATCHDOG (setEv (.chn c) Reg.CHN_RCV_EVENT Bit.CHN_RCV_EVENT_WATCHDOG s)
        let s := logRec { source := 8, cause := 1, severity := 2, status := ST_WATCHDOG, channel := handleOf s c,
                          step := attemptOf (chanAt s c), detail := put y.e.opcode 7 0 + put pos 39 8 } s
        let d := engineDomain s y.e
        let s := abortAttempt c ST_WATCHDOG 0xFF (finishRing c pos ST_WATCHDOG [] s)
        match d with
        | none => s
        | some 0x48 => takeover 0x91 s
        | some d => modRcv s (fun r => { r with abandoned := r.abandoned ++ [(c, pos, d, s.us)] })

/-- WATCHDOG_RELEASE_TIMEOUT (R433): the engine has not released an abandoned command within 10 ms. -/
def execWatchdogReleaseTimeout (c pos : Nat) (s : State) : Host.Outcome State Fault Refusal :=
  atUnit c 4096 <| .next <|
    match s.rcv.abandoned.find? (fun a => a.1 == c && a.2.1 == pos) with
    | none => s
    | some a =>
      flagDomain a.2.2.1 { source := 8, cause := 1, severity := 2, status := ST_WATCHDOG, channel := handleOf s c, detail := put pos 39 8 }
        (modRcv s (fun r => { r with abandoned := r.abandoned.filter (fun x => !(x.1 == c && x.2.1 == pos)) }))

/-! ### The progress monitor (R430, R431) -/

/-- A stage has input (R431). -/
def stageHasInput (u : Tiller) : Bool :=
  u.act.inSlots.any (fun q => q.st == 2) || u.act.wSlots.any (fun q => q.st == 2) || u.ftq.any (fun q => q.st == 2)

/-- PROGRESS_TIMEOUT (R430, R431): a running stage with input that does not wait for admission, WAITM, a credit or a mark
has made no progress for its limit. Its tiller's quad is flagged. -/
def execProgressTimeout (t ctx : Nat) (s : State) : Host.Outcome State Fault Refusal :=
  atUnit t 128 <|
    let u := tillerAt s t
    let g := if ctx = 0 then u.act else u.dfr
    let x := if ctx = 0 then u.ctxA else u.ctxD
    onlyIf (g.valid && u.admitted && !x.ended && stageHasInput u && !([1, 3, 9, 10].contains x.wait)) s fun s =>
      let c := g.chan
      let s := cntInc (.chn c) Reg.CHN_CNT_PROGRESS (setEv (.chn c) Reg.CHN_RCV_EVENT Bit.CHN_RCV_EVENT_PROGRESS s)
      flagDomain (tillerQuad t) {
        source := 1, cause := 2, severity := 3, channel := handleOf s c, step := attemptOf (chanAt s c),
        detail := (rd s (.tlr t) Reg.TLR_SEQ_FAULT).toNat + (rd s (.tlr t) Reg.TLR_SEQ_FAULT_WORD).toNat * 2 ^ 64 + t * 2 ^ 128 } s

/-! ### Tag timeouts (R432) -/

/-- Cause TAG_TIMEOUT of a request that completes poisoned. -/
def causeTagTimeout : Nat := 10

/-- A request's unanswered parts answered poisoned, and its place at their homes freed. -/
def poisonReq (t rid cause : Nat) (s : State) : State :=
  let s := modTiller s t (fun u => { u with reqs := u.reqs.map (fun q => if q.rid == rid then
    { q with cause := cause, poisoned := true, parts := q.parts.map (fun p => if p.st ≤ 1 then { p with st := 2, poison := true, cause := cause } else p) }
    else q) })
  { s with stackMap := s.stackMap.map (fun p => (p.1, { p.2 with pool := p.2.pool.filter (· != (t, rid)) })),
           deeps := s.deeps.map (fun p => (p.1, { p.2 with pool := p.2.pool.filter (· != (t, rid)) })) }

/-- A timeout counted, and its home's probe read sent. -/
def sendProbe (who unit home : Nat) (s : State) : State :=
  let s := cntInc .mon Reg.MON_CNT_TAG_TIMEOUT (setEv .mon Reg.MON_RCV_EVENT Bit.MON_RCV_EVENT_TAG_TIMEOUT s)
  modRcv s (fun r => { r with probes := r.probes ++ [{ who := who, unit := unit, home := home, us := s.us }] })

/-- The home of a byte of an object's own copy. -/
def homeOf (s : State) (oi off : Nat) : Nat :=
  let r := granAt s (objAt s oi) (off / 65536)
  (frameBlock r.homeTier r.home (off % 65536 / 4096)).1

/-- TAG_TIMEOUT (R432): who is 0 a tiller (rid its request), 1 a copy engine, 2 the collective engine slice of a port (rid a
group), 3 the migration engine (unit an object, rid a granule). -/
def execTagTimeout (who unit rid : Nat) (s : State) : Host.Outcome State Fault Refusal :=
  match who with
  | 0 => atUnit unit 128 <| .next <|
    match (tillerAt s unit).reqs.find? (fun q => q.rid == rid && holdsTag q) with
    | none => s
    | some q =>
      match q.parts.find? (fun p => p.st ≤ 1) with
      | none => s
      | some p => sendProbe 0 unit p.home (poisonReq unit rid causeTagTimeout s)
  | 1 => atUnit unit 12 <| .next <|
    match (s.cxl.engines.getD unit {}).inflight.find? (fun y => !y.ended) with
    | none => s
    | some y => sendProbe 1 unit (homeOf s y.obj (y.offset + y.done)) (copyFail unit y ST_MEM_POISON s)
  | 2 => atUnit unit 6 <| .next <|
    match (groupAt s rid).colls with
    | [] => s
    | y :: _ => sendProbe 2 unit (homeOf s y.obj y.offset) (abortAttempt y.ch ST_MEM_POISON 0xFF s)
  | _ => .next <|
    match moveOf s unit rid with
    | none => s
    | some (_, v) =>
      if v.phase = 0 ∨ v.phase = 1 then sendProbe 3 unit (homeOf s unit (rid * 65536)) s else s

/-- A probe of the list taken. -/
def takeProbe (who unit home : Nat) (s : State) (f : State → State) : State :=
  if s.rcv.probes.any (fun p => p.who == who && p.unit == unit && p.home == home) then
    f (modRcv s (fun r => { r with probes := dropFirstProbe r.probes }))
  else s
where
  dropFirstProbe : List Probe → List Probe
    | [] => []
    | p :: r => if p.who == who && p.unit == unit && p.home == home then r else p :: dropFirstProbe r

/-- A TAG_TIMEOUT's log record (Table 13.11). -/
def tagRec (s : State) (who unit sev : Nat) : LogRec :=
  if who = 0 then
    { source := 1, cause := 3, severity := sev, detail := (rd s (.tlr unit) Reg.TLR_SEQ_FAULT).toNat +
        (rd s (.tlr unit) Reg.TLR_SEQ_FAULT_WORD).toNat * 2 ^ 64 + unit * 2 ^ 128 }
  else { source := 1, cause := 3, severity := sev }

/-- TAG_PROBE_RETURN (R432): the home answers, so the requester is at fault. -/
def execTagProbeReturn (who unit home : Nat) (s : State) : Host.Outcome State Fault Refusal :=
  .next <| takeProbe who unit home s fun s =>
    match who with
    | 0 => flagDomain (tillerQuad unit) (tagRec s 0 unit 3) s
    | 1 => flagDomain 0x40 (tagRec s 1 unit 3) s
    | 2 => flagDomain (0x38 + unit) (tagRec s 2 unit 3) s
    | _ =>
      let s := logRec (tagRec s 3 unit 2) s
      match s.migs.findSome? (fun m => (m.moves.find? (fun v => v.obj == unit && v.phase ≤ 1)).map (fun v => (m, v))) with
      | some (m, v) => abandonMove m v s
      | none => s

/-- TAG_PROBE_TIMEOUT (R432): the home does not answer within 1 ms, and is flagged. -/
def execTagProbeTimeout (who unit home : Nat) (s : State) : Host.Outcome State Fault Refusal :=
  .next <| takeProbe who unit home s fun s => flagDomain (homeDomain home) (tagRec s who unit 3) s

/-- STOOK_SAVE_DONE (R446): the save of the oldest unsaved stook to host memory or to the flash has ended. -/
def execStookSaveDone (id : Nat) (s : State) : Host.Outcome State Fault Refusal :=
  .next <|
    if s.cxl.writes.any (fun w => w.who == 4 && w.pos == id) then
      stookSaved id true (modCxl s (fun x => { x with writes := x.writes.filter (fun w => !(w.who == 4 && w.pos == id)) }))
    else if s.boot.ops.any (fun o => o.kind == 3 && o.arg == id) then
      stookSaved id false (modBoot s (fun b => { b with ops := b.ops.filter (fun o => !(o.kind == 3 && o.arg == id)) }))
    else s

end Sys2Proof.Machine
end

