-- ==== Sys2Proof/Machine/Ports.lean ====
section
/-! DEFINITION. The link ports (R321 to R335, R339 to R342): device IDs and routes, training and lanes, flits with link-level
retry and credits, and the sending and forwarding of messages. -/

namespace Sys2Proof.Machine

open Sys2Proof

/-! ### Device IDs (R339) and neighbours (R324) -/

/-- A coordinate of a device ID, by axis: 0 X, 1 Y, 2 Z. -/
def coord (id axis : Nat) : Nat := if axis = 0 then nbits id 15 10 else if axis = 1 then nbits id 9 5 else nbits id 4 0
/-- A device ID with one coordinate replaced. -/
def withCoord (id axis v : Nat) : Nat :=
  let c (a : Nat) : Nat := if a = axis then v else coord id a
  put (c 0) 15 10 + put (c 1) 9 5 + put (c 2) 4 0
/-- The dimension of an axis. -/
def dimOf (dims axis : Nat) : Nat := coord dims axis + 1
/-- The neighbour that port p leads to: P ports are even, N ports odd. -/
def neighbour (s : State) (p : Nat) : Nat :=
  let l := s.links
  let d := dimOf l.dims (p / 2)
  let v := coord l.deviceId (p / 2)
  withCoord l.deviceId (p / 2) (if p % 2 = 0 then (v + 1) % d else (v + d - 1) % d)
/-- The link of port p is a wrap link (R333). -/
def wrapLink (id dims p : Nat) : Bool :=
  let v := coord id (p / 2)
  if p % 2 = 0 then v + 1 == dimOf dims (p / 2) else v == 0

/-! ### Training (R322 to R326) -/

/-- A port is switched off by DISABLE. -/
def portDisabled (s : State) (p : Nat) : Bool := bit (rd s (.ablPort p) Reg.ABL_PORT_CTRL) 1
/-- A port carries flits. -/
def portActive (s : State) (p : Nat) : Bool := ((portAt s p).st == 2 || (portAt s p).st == 3) && !portDisabled s p
/-- A port is usable for routing (R340). -/
def portUsable (s : State) (p : Nat) : Bool :=
  let x := portAt s p
  !portDisabled s p && (x.st == 2 || x.st == 3 || (x.st == 1 && x.retraining))

/-- The lanes that a port uses (R325): all 8, or the lower or the upper half. -/
def lanesOf (good : Nat) : Nat :=
  if good &&& 0xFF = 0xFF then 0xFF else if good &&& 0x0F = 0x0F then 0x0F else if good &&& 0xF0 = 0xF0 then 0xF0 else 0

/-- The flit layer of a port as ACTIVE starts it: sequence numbers and credits at their initial values (Table 10.1). -/
def freshFlits (x : Port) : Port :=
  { x with txSeq := 0, rxSeq := 0, nakSent := false, nakDue := false, retry := [], replayFrom := none, lastRetrain := false,
           credits := [32, 32, 256, 256, 256, 256, 768, 768], owedCr := List.replicate 8 0, rxAsm := List.replicate 8 [],
           rxFlits := List.replicate 8 0, wrr := [0, 0, 0], txq := x.txq.filter (fun q => q.sent == 0) }

/-- Full training starts at SIGNAL with every lane (R322, R325). -/
def startTraining (x : Port) : Port :=
  { x with st := 1, train := 1, retraining := false, good := 0xFF, lanes := 0, degraded := false, peerValid := false,
           rxCopies := 0, rxRec := {}, recsSent := 0, retry := [], replayFrom := none, lastRetrain := false }

/-- The record that a port sends (Table 10.2). -/
def trainRecOf (s : State) (p : Nat) : TrainRec :=
  { format := 1, port := p, huskRx := true, lanes := (portAt s p).lanes, deviceId := s.links.deviceId,
    gen := (domainAt s (0x38 + p)).gen, dims := s.links.dims }

/-- The 16 bytes of a training record, and the record in them when their CRC is good (Table 10.2). Bits of RSV fields are not looked at. -/
def trainImage (r : TrainRec) : List Byte :=
  let b := leBytes 4 (put r.format 7 0 + put r.port 10 8 + putB r.huskRx 11 + put r.lanes 19 12) ++
    leBytes 4 (put r.deviceId 15 0 + put r.gen 31 16) ++ leBytes 4 (put r.dims 15 0)
  b ++ leBytes 4 (crc32c b)
def trainOf (bs : List Byte) : Option TrainRec :=
  let w (k : Nat) : Nat := leValue ((bs.drop (4 * k)).take 4)
  if bs.length ≠ 16 ∨ crc32c (bs.take 12) ≠ w 3 then none
  else some { format := nbits (w 0) 7 0, port := nbits (w 0) 10 8, huskRx := (w 0).testBit 11, lanes := nbits (w 0) 19 12,
              deviceId := nbits (w 1) 15 0, gen := nbits (w 1) 31 16, dims := nbits (w 2) 15 0 }

/-! ### Messages and routes (R333, R334, R337, R340, R341) -/

/-- The virtual channel of a message kind (Table 10.6). -/
def kindVc (k : Nat) : Nat := if k < 0x10 then 0 else if k < 0x20 then 1 else if k < 0x30 then 2 else 3

/-- A member's device ID. -/
def memberId (g : Group) (i : Nat) : Nat := (g.members.getD i (0, false)).1

/-- The port a message to a device takes: 6 for this module, none when no usable port leads there. -/
def routeOf (s : State) (dst : Nat) : Option Nat :=
  if dst = s.links.deviceId then some 6
  else
    let e := (routeAt s dst).toNat
    let p := nbits e 2 0
    let a := nbits e 5 3
    if p = 6 then some 6
    else if p < 6 ∧ portUsable s p then some p
    else if p < 6 ∧ e.testBit 6 ∧ a < 6 ∧ portUsable s a then some a
    else none

/-- The port of the step of a reduce-scatter from the last index of a chain to index 0, which goes in the descending direction (R348). -/
def wrapStep (s : State) (m : Msg) : Option Nat :=
  let g := groupAt s m.group
  if kindVc m.kind = 3 ∧ m.kind = 0x30 ∧ m.obj = 1 ∧ g.live ∧ g.role = 0 ∧ !g.ring ∧ 2 ≤ g.members.length ∧ m.dst = memberId g 0 ∧
    m.src = memberId g (g.members.length - 1) ∧ m.dst ≠ s.links.deviceId ∧ portUsable s (2 * g.axis + 1) then some (2 * g.axis + 1)
  else none

/-- The port that a message takes: that of its chain's wrap step (R348), else its route's (R340). -/
def msgRoute (s : State) (m : Msg) : Option Nat :=
  match wrapStep s m with | some p => some p | none => routeOf s m.dst

/-- The class of a message on its way out (R333): 0 at its source and on another axis, 1 after a wrap link. -/
def outClass (s : State) (inPort : Option Nat) (cls out : Nat) : Nat :=
  match inPort with
  | none => 0
  | some p => if p / 2 = out / 2 then (if (portAt s p).wrap then 1 else cls) else 0

/-- A message that leaves the place it held: its flits have left the receive buffer, and their credits are owed (R330). -/
def leavePlace (q : Option RxPlace) (s : State) : State :=
  match q with
  | none => s
  | some r => modPort s r.port (fun x => { x with owedCr := x.owedCr.set r.idx (x.owedCr.getD r.idx 0 + r.flits) })

/-- A message put into the queue of a port. -/
def enqueueMsg (p : Nat) (t : TxMsg) (s : State) : State := modPort s p (fun x => { x with txq := x.txq ++ [t] })

/-- A message without a usable port discarded (R341). -/
def unreachable (s : State) : State :=
  cntInc .abl Reg.ABL_CNT_UNREACHABLE (setEv .abl Reg.ABL_EVENT Bit.ABL_EVENT_UNREACHABLE s)

/-- A message routed (R340), from a port or from this module, with the place that it holds: into the inbox, into a port's queue, or
discarded. -/
def routeOne (inPort : Option Nat) (cls : Nat) (pl : Option RxPlace) (m : Msg) (s : State) : State :=
  match msgRoute s m with
  | some 6 => modLinks s (fun l => { l with inbox := l.inbox ++ [{ m := m, place := pl }] })
  | some p => enqueueMsg p { m := m, vc := kindVc m.kind, cls := outClass s inPort cls p, inPort := inPort, inCls := cls, place := pl } s
  | none => leavePlace pl (unreachable s)

/-- A message routed (R340, R341): a VC1 request that has no port is answered with ERR ST_UNREACHABLE, when a route to its source
exists. -/
def routeMsg (inPort : Option Nat) (cls : Nat) (pl : Option RxPlace) (m : Msg) (s : State) : State :=
  let s' := routeOne inPort cls pl m s
  if kindVc m.kind = 1 && (msgRoute s m).isNone && (routeOf s m.src).isSome then
    let e : Msg := {
      dst := m.src, src := s.links.deviceId, kind := 0x22, gen := m.gen, group := m.group, epoch := m.epoch, tag := m.tag,
      offset := ST_UNREACHABLE }
    routeOne none 0 none e s'
  else s'

/-- The generation of the slice of a port (R337); 0 for this module itself. -/
def sliceGen (s : State) (p : Option Nat) : Nat :=
  match p with | some p => if p < 6 then (domainAt s (0x38 + p)).gen else 0 | none => 0

/-- A message originated by this module: it carries the generation of the port slice that sends it (R337). A chunk that travels on keeps the
place of the one that it comes from (R346). -/
def sendFrom (pl : Option RxPlace) (m : Msg) (s : State) : State :=
  let m := { m with src := s.links.deviceId }
  let m := { m with gen := sliceGen s (msgRoute s m) }
  let s := if kindVc m.kind = 3 then cntAdd .abl Reg.ABL_CNT_COLL_BYTES m.data.length s else s
  routeMsg none 0 pl m s
def sendMsg (m : Msg) (s : State) : State := sendFrom none m s

/-- A response to a message: it carries the request's GEN, group, epoch and tag (R337). -/
def respond (q : Msg) (kind offset : Nat) (data : List Byte) (s : State) : State :=
  routeMsg none 0 none { dst := q.src, src := s.links.deviceId, kind := kind, gen := q.gen, group := q.group, epoch := q.epoch,
                         tag := q.tag, offset := offset, obj := q.obj, length := data.length, data := data } s

/-- The re-shards whose quads are lost with messages and flits. -/
def loseQuads (l : List TxMsg) (fs : List Retry) (s : State) : State :=
  let cs := fs.filterMap (·.quad) ++ l.filterMap (fun t => if t.m.kind = 0x30 ∧ t.m.obj = 7 ∧ t.m.src = s.links.deviceId then some (groupAt s t.m.group).ch else none)
  cs.foldl (fun s c => modResh c (fun r => { r with lost := r.active }) s) s

/-- The queued messages of an unusable port that have not begun take their other route, from the port and in the class in which they came
(R333, R340); the rest are lost (R326), and blocks sent again go with the message they belong to. -/
def rerouteAll (p : Nat) (s : State) : State :=
  let q := (portAt s p).txq
  let go (t : TxMsg) : Bool := t.sent == 0 && !t.plain
  let s := loseQuads (q.filter (fun t => !go t)) [] (modPort s p (fun x => { x with txq := [] }))
  let s := (q.filter (fun t => !go t)).foldl (fun s t => leavePlace t.place s) s
  (q.filter go).foldl (fun s t => routeMsg t.inPort t.inCls t.place t.m s) s

/-! #### Received messages in their order (R335) -/

/-- A complete message handed on: to this module's inbox, or to the next port (R332, R340). One of which a block failed twice ends here with
its status; this module's own consumer sees that (R261). -/
def deliver (p cls : Nat) (pl : Option RxPlace) (m : Msg) (s : State) : State :=
  if m.fail ≠ 0 ∧ m.dst ≠ s.links.deviceId then leavePlace pl s else routeMsg (some p) cls pl m s

/-- Two messages of one VC from one source. -/
def sameFlow (a b : Msg) : Bool := kindVc a.kind == kindVc b.kind && a.src == b.src

/-- The messages of a list that wait for a block, or behind one of their flow that does; and the others, in their order. -/
def splitWaits : List WaitMsg → List WaitMsg → List WaitMsg × List WaitMsg
  | [], held => (held, [])
  | w :: l, held =>
    if w.blocks.isEmpty && !held.any (fun h => sameFlow h.m w.m) then
      let r := splitWaits l held
      (r.1, w :: r.2)
    else splitWaits l (held ++ [w])

/-- What no longer has to wait at a port goes on. -/
def releaseWaits (p : Nat) (s : State) : State :=
  let r := splitWaits (portAt s p).huskWait []
  r.2.foldl (fun s w => deliver p w.cls w.place w.m s) (modPort s p (fun x => { x with huskWait := r.1 }))

/-- The channel whose group a message belongs to here, when this module is its destination. -/
def msgChan (s : State) (m : Msg) : Option Nat :=
  let g := groupAt s m.group
  if m.dst = s.links.deviceId ∧ g.live then some g.ch else none

/-- The failed blocks of a message put on record, served again or not (R260). -/
def blocksOver (p : Nat) (w : WaitMsg) (bs : List (Nat × Nat)) (recovered : Bool) (s : State) : State :=
  bs.foldl (fun s b => huskLog p b.2 b.1 (msgChan s w.m) recovered s) s

/-- The status of a message whose failed blocks do not come again: that of the first (R261). -/
def failWait (w : WaitMsg) : WaitMsg :=
  { w with m := { w.m with fail := huskStatus ((w.blocks.head?.map (·.2)).getD 3) }, blocks := [] }

/-- The resends that a port waits for are lost with its link: the transfers of those messages fail (R261). -/
def failWaits (p : Nat) (s : State) : State :=
  let ws := (portAt s p).huskWait
  let s := ws.foldl (fun s w => blocksOver p w w.blocks false s) s
  releaseWaits p (modPort s p (fun x => { x with huskWait := x.huskWait.map (fun w => if w.blocks.isEmpty then w else failWait w) }))

/-! #### The states of a port (R322 to R326, R329) -/

/-- What a port's link has in flight is given up: held flits, messages begun, and the flits received of messages that stay; those messages no
longer hold a part of the receive buffer, whose credits start anew (Table 10.1). -/
def cutLink (p : Nat) (s : State) : State :=
  let x := portAt s p
  let free (q : Option RxPlace) : Option RxPlace := q.map (fun r => if r.port = p then { r with flits := 0 } else r)
  let s := loseQuads (x.txq.filter (fun t => t.sent != 0)) x.retry s
  let s := (x.txq.filter (fun t => t.sent != 0)).foldl (fun s t => leavePlace t.place s) s
  modLinks s (fun l => { l with
    inbox := l.inbox.map (fun y => { y with place := free y.place })
    ports := l.ports.map (fun x => { x with
      txq := x.txq.map (fun t => { t with place := free t.place })
      huskWait := x.huskWait.map (fun w => { w with place := free w.place }) }) })

/-- The port goes DOWN (R326): its held flits are discarded and its messages rerouted. -/
def portDown (p : Nat) (s : State) : State :=
  let s := modPort (cutLink p s) p (fun x => { freshFlits x with st := 0, train := 0, retraining := false, lanes := 0 })
  rerouteAll p (failWaits p (logRec { source := 5, cause := 1, severity := 2, detail := put p 34 32 }
    (setEv (.ablPort p) Reg.ABL_PORT_EVENT Bit.ABL_PORT_EVENT_PORT_DOWN s)))

/-- Full training of a port that is wired and not switched off (R322, R325). -/
def fullTraining (p : Nat) (s : State) : State :=
  if (portAt s p).cable && !portDisabled s p then
    rerouteAll p (failWaits p (modPort (cutLink p s) p (fun x => startTraining (freshFlits x))))
  else s

/-- A port on four lanes (R325). -/
def degrade (p : Nat) (s : State) : State :=
  setEv (.ablPort p) Reg.ABL_PORT_EVENT Bit.ABL_PORT_EVENT_DEGRADED (modPort s p (fun x => { x with degraded := true }))

/-- A port that has accepted its peer's record becomes ACTIVE, HELD or MISWIRED (R322, R324). A retrain waits for its end. -/
def acceptPeer (p : Nat) (s : State) : State :=
  let x := portAt s p
  let r := x.rxRec
  if !s.links.assigned then modPort s p (fun x => { x with st := 5, train := 0, retraining := false })
  else if r.port = (if p % 2 = 0 then p + 1 else p - 1) ∧ r.deviceId = neighbour s p ∧ r.dims = s.links.dims then
    if x.retraining then s
    else
      let s := modPort (cutLink p s) p (fun x => { freshFlits x with st := if x.lanes = 0xFF then 2 else 3, train := 0 })
      if x.lanes = 0xFF then s else degrade p s
  else
    let s := modPort (cutLink p s) p (fun x => { freshFlits x with st := 4, train := 0 })
    rerouteAll p (failWaits p (logRec { source := 5, cause := 3, severity := 0, detail := put p 34 32 }
      (setEv (.ablPort p) Reg.ABL_PORT_EVENT Bit.ABL_PORT_EVENT_MISWIRED (modPort s p (fun x => { x with retraining := false })))))

/-- CABLE_PRESENT (R527): the port begins training. -/
def execCablePresent (p : Nat) (s : State) : Host.Outcome State Fault Refusal :=
  atUnit p 6 <| onlyIf (!(portAt s p).cable) s fun s =>
    modPort s p (fun x => { (if portDisabled s p then x else startTraining x) with cable := true })

/-- LANE_LOCK (R322, R325): SIGNAL ends with the good lanes locked, ALIGN with deskew and codeword lock; without four good lanes of one
half the port goes DOWN. -/
def execLaneLock (p : Nat) (s : State) : Host.Outcome State Fault Refusal :=
  atUnit p 6 <| onlyIf ((portAt s p).st == 1 && (portAt s p).train != 3) s fun s =>
    if (portAt s p).train = 1 ∧ lanesOf (portAt s p).good = 0 then portDown p s
    else modPort s p (fun x =>
      if x.train = 1 then { x with train := 2, lanes := lanesOf x.good }
      else { x with train := 3, rxCopies := 0, recsSent := 0 })

/-- TRAINING_RECORD_SEND (R322, R323): one more record sent. -/
def execTrainingRecordSend (p : Nat) (s : State) : Host.Outcome State Fault Refusal :=
  atUnit p 6 <| onlyIf ((portAt s p).st == 1 && (portAt s p).train == 3) s fun s =>
    modPort s p (fun x => { x with recsSent := x.recsSent + 1, outRec := trainImage (trainRecOf s p) })

/-- TRAINING_RECORD_RX (R322 to R324): the third identical copy with a good CRC is accepted. -/
def execTrainingRecordRx (p : Nat) (bs : List Byte) (s : State) : Host.Outcome State Fault Refusal :=
  atUnit p 6 <| onlyIf ((portAt s p).st == 1 && (portAt s p).train == 3) s fun s =>
    match (trainOf bs).filter (fun r => r.format == 1) with
    | none => modPort s p (fun x => { x with rxCopies := 0 })
    | some tr =>
      let n := if (portAt s p).rxRec = tr then (portAt s p).rxCopies + 1 else 1
      let s := modPort s p (fun x => { x with rxRec := tr, rxCopies := n })
      if n = 3 then
        acceptPeer p (modPort s p (fun x => { x with peerId := tr.deviceId, peerValid := true, huskPeer := tr.huskRx }))
      else s

/-- A retrain with ALIGN and EXCHANGE only on the lanes given; the retry buffer stays (R325, R329). -/
def retrain (p lanes : Nat) (s : State) : State :=
  let s := modPort s p (fun x => { x with st := 1, train := 2, retraining := true, lanes := lanes, rxCopies := 0, recsSent := 0 })
  cntInc (.ablPort p) Reg.ABL_CNT_RETRAIN (setEv (.ablPort p) Reg.ABL_PORT_EVENT Bit.ABL_PORT_EVENT_RETRAIN s)

/-- TRAINING_STEP_TIMEOUT (R322): the attempt ends. -/
def execTrainingStepTimeout (p : Nat) (s : State) : Host.Outcome State Fault Refusal :=
  atUnit p 6 <| onlyIf ((portAt s p).st == 1) s fun s => portDown p s

/-- TRAINING_RESTART (R322, R324, R326): a DOWN or MISWIRED port trains again. -/
def execTrainingRestart (p : Nat) (s : State) : Host.Outcome State Fault Refusal :=
  atUnit p 6 <| onlyIf ((portAt s p).cable && ((portAt s p).st == 0 || (portAt s p).st == 4) && !portDisabled s p) s fun s =>
    modPort s p startTraining

/-- LANE_FAIL (R325): the port goes on with four good lanes, or goes DOWN. A port that carries flits or holds retrains; one in training goes
on with the lanes left. -/
def execLaneFail (p lane : Nat) (s : State) : Host.Outcome State Fault Refusal :=
  atUnit p 6 <| onlyIf (decide (lane < 8) && (portAt s p).st != 0) s fun s =>
    let x := portAt s p
    let good := if x.good.testBit lane then x.good - 2 ^ lane else x.good
    let s := setEv (.ablPort p) Reg.ABL_PORT_EVENT Bit.ABL_PORT_EVENT_LANE_FAIL (modPort s p (fun x => { x with good := good }))
    if !x.lanes.testBit lane then s
    else if lanesOf good = 0 then portDown p s
    else if x.st = 1 ∧ !x.retraining then modPort s p (fun x => { x with lanes := lanesOf good })
    else if x.st = 4 then s
    else if x.st = 5 then modPort (retrain p (lanesOf good) (degrade p s)) p (fun x => { x with retraining := false })
    else retrain p (lanesOf good) (degrade p s)

/-- PORT_RETRAIN_DONE (R325, R328, R329): the port is active again and the held flits are replayed; after a third retrain it goes DOWN. -/
def execPortRetrainDone (p : Nat) (s : State) : Host.Outcome State Fault Refusal :=
  atUnit p 6 <| onlyIf ((portAt s p).st == 1 && (portAt s p).retraining && (portAt s p).train == 3 && decide (3 ≤ (portAt s p).rxCopies)) s
    fun s =>
      if (portAt s p).lastRetrain then portDown p s
      else modPort s p (fun x => { x with
        st := if x.lanes = 0xFF then 2 else 3, train := 0, retraining := false, nakSent := false,
        retry := x.retry.map (fun r => { r with replays := 0 }), replayFrom := if x.retry.isEmpty then none else some 0 })

/-- PORT_RETRAIN_WRITE (R325): full training. -/
def execPortRetrainWrite (p : Nat) (s : State) : Host.Outcome State Fault Refusal :=
  atUnit p 6 <| .next (fullTraining p s)

/-! ### Message bytes (Table 10.5) and husk blocks on a link (R251, R257, R261) -/

/-- A message header and the data that follows it. -/
def msgBytes (m : Msg) (husk : Bool) (wire : List Byte) : List Byte :=
  leBytes 4 (put m.dst 15 0 + put m.src 31 16) ++ leBytes 4 (put m.kind 7 0 + putB husk 8 + putB m.last 9 + put m.gen 31 16) ++
  leBytes 4 (put m.group 9 0 + put m.epoch 31 16) ++ leBytes 4 m.tag ++ leBytes 8 m.offset ++ leBytes 4 (put m.obj 16 0) ++
  leBytes 4 (put m.length 16 0) ++ wire

/-- The header of a message as received, and the bytes that carry its data. -/
def msgOf (bs : List Byte) : Msg × List Byte :=
  let w (o n : Nat) : Nat := leValue ((bs.drop o).take n)
  ({ dst := w 0 2, src := w 2 2, kind := w 4 1, husk := (w 4 2).testBit 8, last := (w 4 2).testBit 9, gen := w 6 2,
     group := w 8 2 % 1024, epoch := w 10 2, tag := w 12 4, offset := w 16 8, obj := w 24 4 % 2 ^ 17, length := w 28 4 % 2 ^ 17 },
   bs.drop 32)

/-- Position in its transfer of a message's first block (R257; log entry 50): the chunks of a gather, a broadcast and a send carry the byte
position in their transfer, and every other message is a transfer of its own. -/
def firstBlock (m : Msg) : Nat := if m.kind = 0x30 ∧ (m.obj = 0 ∨ m.obj = 3 ∨ m.obj = 4) then m.offset / 4096 else 0

/-- A payload that a port compresses (Table 8.1). -/
def compresses (s : State) (p : Nat) (t : TxMsg) : Bool :=
  !t.plain && t.vc != 0 && decide (64 ≤ t.m.data.length) && (portAt s p).huskPeer && bit (rd s (.hsk p) Reg.HSK_EDGE_CTRL) 0

/-- The bytes of a message on the wire: its data in husk blocks of 4 KiB, or plain. A message with a block that husk_compress gives back as
RAW goes plain whole, since HUSK speaks of all its data (R256; log entry 133). -/
def wireOf (p : Nat) (t : TxMsg) (s : State) : State × List Byte :=
  if !compresses s p t then (s, msgBytes t.m false t.m.data)
  else
    let bs := huskBlocksOf t.m.data
    if bs.zipIdx.any (fun b => (huskCompress b.1 (firstBlock t.m + b.2)).1 == 0) then
      let s := cntAdd (.hsk p) Reg.HSK_CNT_COMP_OUT t.m.data.length (cntAdd (.hsk p) Reg.HSK_CNT_COMP_IN t.m.data.length s)
      (cntAdd (.hsk p) Reg.HSK_CNT_PLAIN bs.length s, msgBytes t.m false t.m.data)
    else
      let r := bs.zipIdx.foldl (fun (a : State × List Byte) b =>
        let x := streamBlock p b.1 (firstBlock t.m + b.2) a.1
        (x.1, a.2 ++ x.2)) (s, [])
      (modPort r.1 p (fun x => { x with huskSent := (x.huskSent ++ [t]).drop (x.huskSent.length - 127) }), msgBytes t.m true r.2)

/-- The blocks of a received husk message expanded: the data, and the positions that failed with their causes. -/
def expandMsg (p : Nat) (m : Msg) : Nat → Nat → List Byte → State → State × List Byte × List (Nat × Nat)
  | 0, _, _, s => (s, [], [])
  | fuel + 1, i, bs, s =>
    if m.length ≤ 4096 * i then (s, [], [])
    else
      let plen := nbits (leValue ((bs.drop 4).take 4)) 12 0
      let r := expandBlock p bs (min 4096 (m.length - 4096 * i)) (firstBlock m + i) none (msgChan s m) s
      let y := expandMsg p m fuel (i + 1) (bs.drop (ceilDiv (16 + plen) 16 * 16)) r.1
      (y.1, r.2.1 ++ y.2.1, if r.2.2 = 0 then y.2.2 else (firstBlock m + i, r.2.2) :: y.2.2)

/-- A block that was sent again arrives for a message that waits for it: the message with the block put in. -/
def patchMsg (w m : Msg) : Msg :=
  let o := m.offset - w.offset
  { w with data := w.data.take o ++ m.data ++ w.data.drop (o + m.data.length) }

/-- The position in its transfer of a block sent again that a waiting message asks for. -/
def asksFor (w : WaitMsg) (m : Msg) : Option Nat :=
  let k := firstBlock w.m + (m.offset - w.m.offset) / 4096
  if w.m.tag = m.tag ∧ w.m.kind = m.kind ∧ w.m.src = m.src ∧ w.m.dst = m.dst ∧ w.m.group = m.group ∧ w.m.obj = m.obj ∧
    w.m.offset ≤ m.offset ∧ w.blocks.any (fun b => b.1 == k) then some k else none

/-- A good message in its order (R335): behind one of its flow that waits, or handed on. -/
def arrive (p cls : Nat) (pl : RxPlace) (m : Msg) (s : State) : State :=
  if (portAt s p).huskWait.any (fun w => sameFlow w.m m) then
    modPort s p (fun x => { x with huskWait := x.huskWait ++ [{ m := m, cls := cls, place := some pl }] })
  else deliver p cls (some pl) m s

/-- The requests for the blocks of a message that failed, to the peer (R261). -/
def askBlocks (p : Nat) (m : Msg) (bs : List (Nat × Nat)) (s : State) : State :=
  bs.foldl (fun s b =>
    let q : Msg := {
      dst := (portAt s p).peerId, src := s.links.deviceId, kind := 0x06, gen := (domainAt s (0x38 + p)).gen,
      group := m.group, epoch := m.epoch, tag := m.tag, offset := m.offset, obj := m.obj, length := 4, data := leBytes 4 b.1 }
    enqueueMsg p { m := q } s) s

/-- A message assembled at a port (R260, R261): its blocks are expanded, and one resend is asked for of each that fails. A block that comes
again in its length takes its place; another one fails its transfer. -/
def receiveMsg (p cls : Nat) (pl : RxPlace) (bs : List Byte) (s : State) : State :=
  let h := msgOf bs
  let m := h.1
  if m.husk then
    let r := expandMsg p m 17 0 h.2 s
    let m := { m with husk := false, data := r.2.1 }
    if r.2.2.isEmpty then arrive p cls pl m r.1
    else askBlocks p m r.2.2 (modPort r.1 p (fun x => { x with
      huskWait := x.huskWait ++ [{ m := m, cls := cls, blocks := r.2.2, place := some pl }] }))
  else
    let m := { m with data := h.2.take m.length }
    match (portAt s p).huskWait.find? (fun w => (asksFor w m).isSome) with
    | none => arrive p cls pl m s
    | some w =>
      let k := (asksFor w m).getD 0
      let s := leavePlace (some pl) s
      let good := decide (m.data.length = min 4096 (w.m.length - (m.offset - w.m.offset)))
      let w' := if good then { w with m := patchMsg w.m m, blocks := w.blocks.filter (fun b => b.1 != k) } else failWait w
      let s := blocksOver p w (if good then w.blocks.filter (fun b => b.1 == k) else w.blocks) good s
      releaseWaits p (modPort s p (fun x => { x with huskWait := x.huskWait.map (fun y => if y = w then w' else y) }))

/-! ### Flits (R327 to R331) -/

/-- The weights of VC1–VC3. -/
def weights (s : State) (p : Nat) : List Nat :=
  let c := rd s (.ablPort p) Reg.ABL_PORT_CTRL
  [bits c 6 4, bits c 10 8, bits c 14 12]

/-- The first message of a VC and class in a port's queue. -/
def headMsg (x : Port) (i : Nat) : Option TxMsg := x.txq.find? (fun t => t.vc * 2 + t.cls == i)
/-- A VC and class has a flit ready and a credit. -/
def readyVc (x : Port) (i : Nat) : Bool := (headMsg x i).isSome && decide (0 < x.credits.getD i 0)

/-- The VC and class of the next flit, with the turns left (R331): VC0 first, then VC1–VC3 in the ratio of their weights. -/
def arbitrate (x : Port) (ws : List Nat) : Option (Nat × List Nat) :=
  let pick (i : Nat) : Option Nat := if readyVc x (2 * i + 1) then some (2 * i + 1) else if readyVc x (2 * i) then some (2 * i) else none
  let turn (t : List Nat) : Option (Nat × List Nat) :=
    ([1, 2, 3].filterMap (fun v => match pick v with
      | some i => if 0 < t.getD (v - 1) 0 then some (i, t.set (v - 1) (t.getD (v - 1) 0 - 1)) else none
      | none => none)).head?
  match pick 0 with
  | some i => some (i, x.wrr)
  | none => match turn x.wrr with | some r => some r | none => turn ws

/-- The bytes of a flit (Table 10.3), and the flit in them when their CRC is good. Bits of RSV fields are not looked at. -/
def flitImage (f : Flit) : List Byte :=
  let b := leBytes 4 (put f.vc 1 0 + put f.cls 2 2 + putB f.sof 3 + putB f.eof 4 + putB f.idle 5 + putB f.nak 6 + put f.seq 19 8 +
      put f.ack 31 20) ++ leBytes 4 (put f.crVc 2 0 + put f.crCount 15 4 + put f.len16 19 16) ++ fitTo 240 f.payload ++ [0, 0, 0, 0]
  b ++ leBytes 4 (crc32c b)
def flitOf (bs : List Byte) : Option Flit :=
  let w (k : Nat) : Nat := leValue ((bs.drop (4 * k)).take 4)
  if bs.length ≠ 256 ∨ crc32c (bs.take 252) ≠ w 63 then none
  else some { vc := nbits (w 0) 1 0, cls := nbits (w 0) 2 2, sof := (w 0).testBit 3, eof := (w 0).testBit 4, idle := (w 0).testBit 5,
              nak := (w 0).testBit 6, seq := nbits (w 0) 19 8, ack := nbits (w 0) 31 20, crVc := nbits (w 1) 2 0, crCount := nbits (w 1) 15 4,
              len16 := nbits (w 1) 19 16, payload := ((bs.drop 8).take 240).take (16 * nbits (w 1) 19 16) }

/-- A message is a CHUNK that holds a slot of the slice of a port (R346). -/
def holdsSlot (p : Nat) (pl : Option RxPlace) (m : Msg) : Bool := m.kind == 0x30 && pl.any (fun r => r.port == p)

/-- Chunks that the slice of a port holds: those being assembled there, and those not yet added, written or sent on (R346). -/
def slotsUsed (s : State) (p : Nat) : Nat :=
  let x := portAt s p
  ([6, 7].filter (fun i => x.rxFlits.getD i 0 != 0)).length + (x.huskWait.filter (fun w => holdsSlot p w.place w.m)).length +
  (s.links.inbox.filter (fun y => holdsSlot p y.place y.m)).length +
  (s.links.ports.map (fun y => (y.txq.filter (fun t => holdsSlot p t.place t.m)).length)).sum

/-- The VC and class whose credits the next flit returns; those of VC3 are granted only into free slots (R346). -/
def creditsDue (s : State) (p : Nat) : Option Nat :=
  (List.range 8).find? (fun i => decide (0 < (portAt s p).owedCr.getD i 0) && (decide (i < 6) || decide (slotsUsed s p < 128)))

/-- A flit's ACK and returned credits, as it leaves. -/
def stamp (s : State) (p : Nat) (f : Flit) : Flit × Port :=
  let x := portAt s p
  let f := { f with ack := (x.rxSeq + 4095) % 4096, nak := x.nakDue }
  let x := { x with nakDue := false }
  match creditsDue s p with
  | none => (f, x)
  | some i =>
    let n := min 4095 (x.owedCr.getD i 0)
    ({ f with crVc := i, crCount := n }, { x with owedCr := x.owedCr.set i (x.owedCr.getD i 0 - n) })

/-- The channel whose re-shard a message carries a quad of. -/
def quadOf (s : State) (m : Msg) : Option Nat :=
  if m.kind = 0x30 ∧ m.obj = 7 ∧ m.src = s.links.deviceId then some (groupAt s m.group).ch else none

/-- A forwarded message with one more flit sent: a flit of it leaves the buffer it came into, and with its last flit all of them. -/
def flitLeaves (eof : Bool) (t : TxMsg) (s : State) : State × TxMsg :=
  match t.place with
  | none => (s, t)
  | some r =>
    let n := if eof then r.flits else min 1 r.flits
    (leavePlace (some { r with flits := n }) s, { t with place := some { r with flits := r.flits - n } })

/-- The flits before a place in a message carry 208 bytes of data, or a header and 208, and then 240 each. -/
def flitAt (wire : List Byte) (n : Nat) : List Byte := (wire.drop (240 * n)).take 240

/-- FLIT_TX (R327 to R331): a flit of a replay, else the next flit by arbitration, else an idle flit when something is owed. -/
def execFlitTx (p : Nat) (s : State) : Host.Outcome State Fault Refusal :=
  atUnit p 6 <| onlyIf (portActive s p) s fun s =>
    let x := portAt s p
    match x.replayFrom with
    | some i =>
      cntInc (.ablPort p) Reg.ABL_CNT_REPLAY (modPort s p (fun x => { x with
        retry := x.retry.modify i (fun r => { r with replays := r.replays + 1 }),
        out := flitImage (x.retry.getD i {}).f,
        replayFrom := if i + 1 < x.retry.length then some (i + 1) else none }))
    | none =>
      match (if x.retry.length < 1024 then arbitrate x (weights s p) else none) with
      | none =>
        let f := stamp s p { idle := true }
        setPort s p { f.2 with out := flitImage f.1 }
      | some (i, turns) =>
        match headMsg x i with
        | none => s
        | some t =>
          let w := if t.sent = 0 then wireOf p t s else (s, t.wire)
          let pay := flitAt w.2 t.sent
          let eof := decide (w.2.length ≤ 240 * (t.sent + 1))
          let l := flitLeaves eof t w.1
          let s := l.1
          let x := portAt s p
          let f := stamp s p { vc := i / 2, cls := i % 2, sof := t.sent == 0, eof := eof, seq := x.txSeq,
                               len16 := ceilDiv pay.length 16, payload := pay }
          let x := f.2
          let upd (q : List TxMsg) : List TxMsg :=
            if eof then q.erase t else q.map (fun q => if q = t then { l.2 with sent := t.sent + 1, wire := w.2 } else q)
          cntInc (.ablPort p) Reg.ABL_CNT_TX_FLITS (setPort s p { x with
            txSeq := (x.txSeq + 1) % 4096, retry := x.retry ++ [{ f := f.1, quad := quadOf s t.m }], wrr := turns, txq := upd x.txq,
            out := flitImage f.1, credits := x.credits.set i (x.credits.getD i 0 - 1) })

/-- An ACK received: the held flits up to it are acknowledged (R328). -/
def ackFlits (a : Nat) (x : Port) : Port :=
  match x.retry.findIdx? (fun r => r.f.seq == a) with
  | none => x
  | some i => { x with retry := x.retry.drop (i + 1), replayFrom := match x.replayFrom with
      | some k => if i < k then some (k - (i + 1)) else if x.retry.length ≤ i + 1 then none else some 0
      | none => none : Port }

/-- A NAK received (R328, R329): a replay from ACK + 1, or a retrain once a flit has been replayed 8 times; after the third retrain in 10 s
the port goes DOWN. -/
def nakReplay (p : Nat) (s : State) : State :=
  let x := portAt s p
  if x.retry.isEmpty then s
  else if 8 ≤ ((x.retry.head?.map (·.replays)).getD 0) then
    let rs := (x.retrains.filter (fun t => decide (s.us < t + 10000000))) ++ [s.us]
    retrain p x.lanes (modPort s p (fun x => { x with retrains := rs, lastRetrain := decide (3 ≤ rs.length) }))
  else setEv (.ablPort p) Reg.ABL_PORT_EVENT Bit.ABL_PORT_EVENT_REPLAY (modPort s p (fun x => { x with replayFrom := some 0 }))

/-- A flit not taken: one NAK for the gap (R328). -/
def nakGap (p : Nat) (s : State) : State :=
  if (portAt s p).nakSent then s else modPort s p (fun x => { x with nakSent := true, nakDue := true })

/-- Flits of a message of n so far that still lie in the receive buffer of VC1 or VC2: the later ones have gone to its assembly, so that a
message longer than the buffer ends (log entry 134). The control logic takes VC0 flits at once (R332), and VC3 flits lie in a slot. -/
def heldFlits (vc n : Nat) : Nat := if vc = 1 ∨ vc = 2 then min n 128 else 0

/-- A flit taken in order: its payload joins its message, and the credits of what leaves the buffer are owed (R330). -/
def takeFlit (p : Nat) (f : Flit) (s : State) : State :=
  let i := f.vc * 2 + f.cls
  let x := portAt s p
  let old := if f.sof then [] else x.rxAsm.getD i []
  let bs := old ++ f.payload
  let begun := f.sof || !old.isEmpty
  let lost := if f.sof then heldFlits f.vc (x.rxFlits.getD i 0) else 0
  let n := if !begun then 1 else (if f.sof then 0 else x.rxFlits.getD i 0) + 1
  let pl : RxPlace := { port := p, idx := i, flits := heldFlits f.vc n }
  let owe := lost + (if !begun then 1 else n - heldFlits f.vc n - (n - 1 - heldFlits f.vc (n - 1)))
  let s := cntInc (.ablPort p) Reg.ABL_CNT_RX_FLITS (modPort s p (fun x => { x with
    rxSeq := (x.rxSeq + 1) % 4096, nakSent := false, owedCr := x.owedCr.set i (x.owedCr.getD i 0 + owe),
    rxAsm := x.rxAsm.set i (if f.eof || !begun then [] else bs), rxFlits := x.rxFlits.set i (if f.eof || !begun then 0 else n) }))
  if f.eof && begun then receiveMsg p f.cls pl bs s else s

/-- What a flit in order, or an idle one, carries for the sender's side: its ACK and the credits returned (R328, R330). -/
def flitReturns (p : Nat) (f : Flit) (s : State) : State :=
  modPort s p (fun x =>
    let x := ackFlits f.ack x
    { x with credits := x.credits.set f.crVc (x.credits.getD f.crVc 0 + f.crCount) })

/-- The FEC codewords of a port since its last flit (R321, R360). -/
def fecCount (p corr uncorr : Nat) (s : State) : State :=
  cntAdd (.ablPort p) Reg.ABL_CNT_FEC_UNCORR uncorr (cntAdd (.ablPort p) Reg.ABL_CNT_FEC_CORR corr s)

/-! ### Commands (R339) -/

/-- Dimension-ordered route to a device (R339): X, then Y, then Z, each in the shorter direction, ties to the P port. -/
def dorEntry (own dims dst : Nat) : Nat :=
  let dist (a : Nat) : Nat × Nat :=
    let d := dimOf dims a
    ((coord dst a + d - coord own a) % d, (coord own a + d - coord dst a) % d)
  let hops (a : Nat) : Nat := min (dist a).1 (dist a).2
  let inside := (List.range 3).all (fun a => coord dst a < dimOf dims a)
  if !inside then 7
  else if dst = own then 6
  else
    let a := if hops 0 ≠ 0 then 0 else if hops 1 ≠ 0 then 1 else 2
    let p := 2 * a + (if (dist a).1 ≤ (dist a).2 then 0 else 1)
    put p 2 0 + put (2 * a + (1 - p % 2)) 5 3 + putB true 6 + put (hops 0 + hops 1 + hops 2) 15 8

/-- TORUS_SET (R322, R333, R339): the module's ID, dimensions and wrap marks; ports that hold go on. -/
def execTorusSet (src : CmdSrc) (e : Entry) (s : State) : Host.Outcome State Fault Refusal :=
  serve 0x0A src e s fun x s =>
    let id := bits e.a0 15 0
    let dims := bits e.a0 31 16
    if !((List.range 3).all (fun a => coord id a < dimOf dims a)) then answer x ST_BAD_COMMAND [] s
    else
      let s := modLinks s (fun l => { l with
        deviceId := id, dims := dims, assigned := true,
        ports := l.ports.zipIdx.map (fun q => { q.1 with wrap := bit e.a0 (32 + q.2) }) })
      let s := (List.range 6).foldl (fun s p => if (portAt s p).st = 5 then acceptPeer p s else s) s
      answer x ST_OK [] s

/-- ROUTE_SET (R339, R340). -/
def execRouteSet (src : CmdSrc) (e : Entry) (s : State) : Host.Outcome State Fault Refusal :=
  serve 0x0B src e s fun x s =>
    if !bit e.a0 0 then
      answer x ST_OK [] (modLinks s (fun l => { l with
        routes := smWriteRun (fun _ => 0) [] 0 ((List.range 65536).map (fun d => BitVec.ofNat 32 (dorEntry l.deviceId l.dims d))) }))
    else
      let oi := bits e.a1 16 0
      let n := bits e.a3 32 16
      let first := bits e.a3 15 0
      let o := objAt s oi
      if n = 0 ∨ 65536 < n ∨ 65536 < first + n then answer x ST_BAD_COMMAND [] s
      else if !o.valid ∨ o.size < e.a2.toNat + 4 * n then answer x ST_NO_ACCESS [] s
      else
        let r := objRead {} oi e.a2.toNat (4 * n) s
        let es := (chunksOf 4 (n + 1) r.2.1).map leValue
        if r.2.2 ≠ 0 then answer x (rdStatus r.2.2) [] r.1
        else if es.any (fun v => v.testBit 7 || nbits v 31 16 != 0 || (v.testBit 6 && decide (nbits v 2 0 < 6) &&
            nbits v 5 3 != (if nbits v 2 0 % 2 = 0 then nbits v 2 0 + 1 else nbits v 2 0 - 1))) then answer x ST_BAD_COMMAND [] r.1
        else answer x ST_OK [] (modLinks r.1 (fun l => { l with
          routes := smWriteRun (fun _ => 0) l.routes first (es.map (BitVec.ofNat 32)) }))

end Sys2Proof.Machine
end

