-- ==== Sys2Proof/Machine/Power.lean ====
section
/-! DEFINITION. Clocks, power, sensors and counters (R468 to R493), and writes of registers that have no row of their own
(R3, R10, R11, R12, R368). -/

namespace Sys2Proof.Machine

open Sys2Proof

/-- A cold reset starts, or a start under way begins again (R448, R450, R472, R477, R484). -/
def coldReset (trig : Nat) (s : State) : State :=
  if (domainAt s 0x7F).seq.isSome then
    modBoot (modDomain s 0x7F (fun x => { x with seq := x.seq.map (fun q => { q with step := min q.step 5 }) }))
      (fun b => { b with stage := 0 })
  else beginReset 0x7F trig 0 s

/-- The module's die sensors and power manager run: the rails stand. -/
def powered (s : State) : Bool := s.phys.pwrGood

/-- POWER_AVERAGE (R476): the average input power of 1 ms, in mW, and the input voltage, in mV. -/
def execPowerAverage (mw mv : Nat) (s : State) : Host.Outcome State Fault Refusal :=
  onlyIf (powered s) s fun s =>
    let p := s.power
    let uj := p.energyUj + mw
    let s := cntAdd .pwr Reg.PWR_CNT_ENERGY_MJ (uj / 1000)
      (modPower s (fun p => { p with inputMw := mw, vinMv := mv, energyUj := uj % 1000 }))
    let cap := rdField s .pwr Reg.PWR_CTRL 10 0
    if cap * 1000 < mw then
      if p.capLevel < 4 then
        setEv .pwr Reg.PWR_EVENT Bit.PWR_EVENT_CAP
          (modPower s (fun p => { p with capLevel := p.capLevel + 1, capBelow := 0, capAbove := 0 }))
      else
        let s := modPower s (fun p => { p with capAbove := min 100 (p.capAbove + 1), capBelow := 0 })
        if p.capAbove + 1 = 100 then setEv .pwr Reg.PWR_EVENT Bit.PWR_EVENT_CAP_FAIL s else s
    else if mw < (cap - 50) * 1000 then
      if 10 ≤ p.capBelow + 1 then modPower s (fun p => { p with capLevel := p.capLevel - 1, capBelow := 0, capAbove := 0 })
      else modPower s (fun p => { p with capBelow := p.capBelow + 1, capAbove := 0 })
    else modPower s (fun p => { p with capBelow := 0, capAbove := 0 })

/-- DIE_TEMP_SAMPLE (R477, R485): the 40 die sensors, and the 8 regulator sensors when they are sampled with them. -/
def execDieTempSample (temps regs : List Nat) (s : State) : Host.Outcome State Fault Refusal :=
  onlyIf (temps.length == 40 && temps.all (· < 256)) s fun s =>
    let tj := temps.foldl max 0
    let s := modPower s (fun p => { p with
      dieTemp := temps, tjMax := tj, regTemp := if regs.length = 8 then regs.map (min 255) else p.regTemp,
      held := if p.held = some 2 ∧ tj ≤ 85 then none else p.held,
      thermLevel := if 110 ≤ tj then 4 else p.thermLevel })
    let s := if 100 ≤ tj then setEv .pwr Reg.PWR_EVENT Bit.PWR_EVENT_THERM s else s
    if 110 ≤ tj then setEv .pwr Reg.PWR_EVENT Bit.PWR_EVENT_THERM_HI s else s

/-- THERM_LEVEL_STEP (R477, Table 14.4): a 1 ms step up, or a 10 ms step down, as the band of TJ_MAX requires. -/
def execThermLevelStep (s : State) : Host.Outcome State Fault Refusal :=
  .next <|
    let t := s.power.tjMax
    if 100 ≤ t then modPower s (fun p => { p with thermLevel := min 4 (p.thermLevel + 1) })
    else if t ≤ 95 then modPower s (fun p => { p with thermLevel := p.thermLevel - 1 })
    else s

/-- The on-die clocks run: the rails stand and the reference is good (R469, R472). -/
def clocksRun (s : State) : Bool := powered s && s.power.held != some 3

/-- A VC and class of a port has a flit ready and no credit (R331, R360). -/
def creditStall (x : Port) : Bool := (List.range 8).any (fun i => (headMsg x i).isSome && x.credits.getD i 0 == 0)

/-- The counters of A-cycles that a tiller waits (R61, R94, R129), over n of them. -/
def tillerWaits (t : Nat) (u : Tiller) (n : Nat) (s : State) : State :=
  let add (b : Bool) (off : Nat) (s : State) : State := if b then cntAdd (.tlr t) off n s else s
  add (u.reqs.any (fun q => !q.sent && q.starved)) Reg.TLR_CNT_TAG_WAIT <|
  add (u.act.valid && !u.admitted) Reg.TLR_CNT_ADMIT_WAIT <|
  add u.arr.holdInput Reg.TLR_CNT_ARR_INPUT_WAIT <|
  add u.arr.holdFtq Reg.TLR_CNT_ARR_FTQ_HOLD <|
  add ((if u.cur = 0 then u.ctxA else u.ctxD).wait == 6) Reg.TLR_CNT_FTQ_WAIT s

/-- The counters of cycles that something waits (R61, R94, R129, R320, R360, R424): a wait that stands at a tick is counted for all of it
(log entry 109). The C-clock runs at 1 GHz and the P-clock at 800 MHz. -/
def countWaits (aCycles : Nat) (s : State) : State :=
  let s := s.tillers.foldl (fun s p => tillerWaits p.1 p.2 aCycles s) s
  let s := s.stackMap.foldl (fun s p => match p.2.run with
    | some r => if r.waits then cntAdd (.chn r.item.ch) Reg.CHN_CNT_STAGE_WAIT 1000 s else s
    | none => s) s
  let s := (liveChans s).foldl (fun s c => if (chanAt s c).rings.cplFull then cntAdd (.chn c) Reg.CHN_CNT_CPL_WAIT 1000 s else s) s
  (List.range 6).foldl (fun s p => if portActive s p && creditStall (portAt s p) then cntAdd (.ablPort p) Reg.ABL_CNT_CREDIT_STALL 800 s else s) s

/-- One tick of 1 µs: MON_UPTIME_US counts it, and the clock counters count its cycles (R468 to R471, R474, R475, R481, R486; log
entry 2). The C-clock runs 1,000 cycles in a tick, and the A-clock 1,600 at level 0. -/
def tick (s : State) : State :=
  if !clocksRun s then s
  else
    let p := s.power
    let half := p.stretch || p.hold
    let k := if half then max 4 p.applied else p.applied
    let s := cntAdd .pwr Reg.PWR_CNT_A_CYCLES (200 * (8 - k)) { s with us := min (2 ^ 64 - 1) (s.us + 1) }
    let s := if p.stretch then cntAdd .pwr Reg.PWR_CNT_STRETCH 1000 s else s
    let s := if p.applied = 0 then s else cntAdd .pwr (Reg.PWR_CNT_LEVEL1 + 8 * (p.applied - 1)) 1000 s
    -- M-clock 2.0 GHz and P-clock 800 MHz (R211, R213, R248, R250)
    let s := (s.stackMap.filter (fun x => x.2.thermal)).foldl (fun s x => cntAdd (.yst x.1) Reg.YST_CNT_THROTTLE 2000 s) s
    let s := (s.deeps.filter (fun x => x.2.thermal)).foldl (fun s x => cntAdd (.dtr x.1) Reg.DTR_CNT_THROTTLE 800 s) s
    countWaits (200 * (8 - k)) s

/-- The DETAIL of a RAIL_RESET record (Table 14.6). -/
def railDetail (reason site vmin tj : Nat) : Nat := put reason 3 0 + put site 11 4 + put vmin 27 12 + put tj 35 28

/-- THERMAL_SHUTDOWN (R477): a die sensor has read 115 °C or above for 1 ms. -/
def execThermalShutdown (sensor : Nat) (s : State) : Host.Outcome State Fault Refusal :=
  onlyIf (decide (sensor < 40) && decide (115 ≤ s.power.dieTemp.getD sensor 0) && s.power.held.isNone) s fun s =>
    coldReset 0xA1 (modPower s (fun p => { p with held := some 2, railRec := some (railDetail 2 sensor 0 p.tjMax) }))

/-- THROTTLE_APPLY (R474, R475): the level in force clocks the A-clock from a boundary of 8 pulses. -/
def execThrottleApply (s : State) : Host.Outcome State Fault Refusal :=
  .next (modPower s (fun p => { p with applied := levelOf s }))

/-- VDD_CORE at a site below the warning level, in 0.1 mV (R481, R482). -/
def dip (mv : Nat) (s : State) : State :=
  let s := modPower s (fun p => { p with vcoreNow := mv, vcoreMin := min p.vcoreMin mv })
  if s.power.stretch then s
  else
    let ds := (s.power.dips.filter (fun t => decide (s.us < t + 1000000))) ++ [s.us]
    let s := modPower s (fun p => { p with stretch := true, admitPaused := true, dips := ds })
    let s := cntInc .pwr Reg.PWR_CNT_DIPS (setEv .pwr Reg.PWR_EVENT Bit.PWR_EVENT_DIP s)
    if s.power.hold then modPower s (fun p => { p with holdEnd := s.us + 1000000 })
    else if 17 ≤ ds.length then
      cntInc .pwr Reg.PWR_CNT_HOLDS (setEv .pwr Reg.PWR_EVENT Bit.PWR_EVENT_HOLD
        (modPower s (fun p => { p with hold := true, holdEnd := s.us + 1000000 })))
    else s

/-- VCORE_DIP (R480 to R482): a site, and its reading in 0.1 mV. -/
def execVcoreDip (site mv : Nat) (s : State) : Host.Outcome State Fault Refusal :=
  atUnit site 42 <| onlyIf (decide (mv < 7125) && powered s) s fun s => dip mv s

/-- STRETCH_END (R481): 10 µs above 0.7275 V at every site. -/
def execStretchEnd (s : State) : Host.Outcome State Fault Refusal :=
  onlyIf s.power.stretch s fun s => modPower s (fun p => { p with stretch := false, admitPaused := false })

/-- DIP_HOLD_END (R482): 1 s after the last dip of the hold. -/
def execDipHoldEnd (s : State) : Host.Outcome State Fault Refusal :=
  onlyIf s.power.hold s fun s => modPower s (fun p => { p with hold := false })

/-- The domains that a site flags (Table 14.5). -/
def siteDomains (site : Nat) : List Nat :=
  if site < 32 then [site]
  else if site = 40 then [0x7E]
  else if site = 41 then [0x38, 0x3A, 0x3C]
  else
    let f := (site - 32) / 2
    if site % 2 = 0 then [0x20 + 4 * f, 0x21 + 4 * f, 0x30 + f] else [0x22 + 4 * f, 0x23 + 4 * f, 0x30 + f]

/-- VCORE_RESET_LEVEL (R483): a site below 0.6750 V. One record names the site; its dip stretches the clock. -/
def execVcoreResetLevel (site mv : Nat) (s : State) : Host.Outcome State Fault Refusal :=
  atUnit site 42 <| onlyIf (decide (mv < 6750) && powered s) s fun s =>
    let s := dip mv s
    let s := logRec { source := 0xA, cause := 1, severity := 3, domain := (siteDomains site).headD 0xFF,
                      detail := railDetail 0 site mv s.power.tjMax } s
    let s := setEv .pwr Reg.PWR_EVENT Bit.PWR_EVENT_RAIL_RESET s
    (siteDomains site).foldl (fun s d => if domainDown s d then s else fenceDomain d 0xA1 0 s) s

/-- RAIL_RESET_OTHER (R484): a rail other than VDD_CORE below its reset level. -/
def execRailResetOther (rail mv : Nat) (s : State) : Host.Outcome State Fault Refusal :=
  onlyIf (decide (1 ≤ rail) && decide (rail ≤ 12) && powered s) s fun s =>
    coldReset 0xA1 (modPower s (fun p => { p with railRec := some (railDetail 1 rail mv p.tjMax) }))

/-- CLOCK_LOSS (R472): the cold reset stays held. -/
def execClockLoss (s : State) : Host.Outcome State Fault Refusal :=
  onlyIf (s.power.held != some 3) s fun s =>
    coldReset 0xA1 (modPower s (fun p => { p with held := some 3, railRec := some (railDetail 3 0 0 p.tjMax) }))

/-- CLOCK_RESTORED (R472). -/
def execClockRestored (s : State) : Host.Outcome State Fault Refusal :=
  onlyIf (s.power.held == some 3) s fun s => modPower s (fun p => { p with held := none })

/-- BAR0 takes writes: the link is up, and the rachis is ready, or the block is BOOT_, which the ROM also serves (R514). -/
def bar0Writes (s : State) (b : Blk) : Bool := s.cxl.mode != 0 && (s.boot.stage == 3 || b == .boot)

/-- VCORE_MIN_RESET (R493): a write of MIN_RESET. -/
def execVcoreMinReset (w : Word) (s : State) : Host.Outcome State Fault Refusal :=
  onlyIf (bit w 32 && bar0Writes s .pwr) s fun s => modPower s (fun p => { p with vcoreMin := p.vcoreNow })

/-! ### Register writes -/

/-- COUNTER_CLEAR (R487, R489): a write of zero clears a counter, or leaves it at the increment of the same cycle; a 64-bit
counter takes an 8-byte write only. Any other value is ignored. -/
def execCounterClear (addr size : Nat) (w : Word) (inc : Nat) (s : State) : Host.Outcome State Fault Refusal :=
  .next <|
    match blkOf addr with
    | none => s
    | some (b, off) =>
      match regDef b off with
      | none => s
      | some r =>
        if r.cnt = 0 || w != 0 || !(size == 8 || (size == 4 && r.cnt == 32)) || blkFenced s b || !bar0Writes s b then s
        else cntAdd b off inc (wr s b off 0)

/-- A field of a register kept within lo..hi. -/
def clampField (hi lo least most : Nat) (w : Word) : Word := setBits w hi lo (clamp least most (bits w hi lo))

/-- What a register stores of a value written to it: fields outside their range are stored as their tables say. -/
def storeClamp (b : Blk) (off : Nat) (w : Word) : Word :=
  match b with
  | .pwr =>
    if off = Reg.PWR_CTRL then clampField 13 11 0 4 (clampField 10 0 600 1500 w)
    else if off = Reg.PWR_ADMIT_UNITS then clampField 9 0 4 512 w
    else if off = Reg.PWR_ADMIT_GAP then clampField 15 0 16 65535 w
    else w
  | .mon =>
    if off = Reg.MON_RCV_CTRL then clampField 51 48 1 15 (clampField 41 32 1 1000 (clampField 25 16 3 1000 w)) else w
  | .chn _ =>
    if off = Reg.CHN_RCV_CTRL then clampField 11 0 1 4095 w
    else if off = Reg.CHN_NUM_CTRL then
      let l := signedOf 8 (bits w 23 16)
      clampField 8 4 0 16 (setBits w 23 16 (unsignedOf 8 (max (-24) (min 24 l))))
    else w
  | .dtr _ => if off = Reg.DTR_CTRL then clampField 7 0 0 168 w else w
  | .yst _ => if off = Reg.YST_CTRL then clampField 11 8 1 15 (clampField 7 0 0 168 w) else w
  | .plc => if off = Reg.PLC_CTRL then clampField 31 16 10 10000 (clampField 15 0 1 512 w) else w
  | .cxp => if off = Reg.CXP_CTRL then clampField 15 0 0 60000 w else w
  | .abl => if off = Reg.ABL_CTRL then clampField 27 16 1 3600 (clampField 15 0 10 60000 w) else w
  | .ablPort _ =>
    if off = Reg.ABL_PORT_CTRL then clampField 14 12 1 7 (clampField 10 8 1 7 (clampField 6 4 1 7 w)) else w
  | _ => w

/-- A register with one 64-bit field changes only with an 8-byte write (R368). -/
def spanning (b : Blk) (r : RegDef) : Bool :=
  r.rw == 2 ^ 64 - 1 && (match b with | .mbx _ => r.off != Reg.MBX_CMD0 | _ => true)

/-- A write by the access codes of a register's fields (R10, R12, R368): RW bits are set, W1C bits written 1 are cleared, the rest
is ignored. `ev` holds the W1C bits that events set in the same C-cycle: they end set. -/
def regWrite (b : Blk) (r : RegDef) (mask data ev : Nat) (s : State) : State :=
  let old := (rd s b r.off).toNat
  let m := r.rw &&& mask
  let v := (old &&& (allBits - m)) ||| (data &&& m)
  let v := (v &&& (allBits - (data &&& mask &&& r.w1c))) ||| (ev &&& r.w1c)
  wr s b r.off (storeClamp b r.off (word v))

/-- A write to a stored register at an offset of a block, with 4 or 8 bytes. -/
def regWriteAt (b : Blk) (off mask data size ev : Nat) (s : State) : State :=
  match regDef b off with
  | some r => if r.cnt ≠ 0 || (spanning b r && size != 8) then s else regWrite b r mask data ev s
  | none => s

/-- LS_INIT is loaded into L at the next step (R164). -/
def lsLoadNow (c : Nat) (s : State) : State := modTrn s c (fun t => { t with lsLoad := true })

/-- What a write starts beside what it stores: LS_LOAD of CHN_NUM_CTRL (R164), RETRAIN of ABL_PORT_CTRL (R325), and the other route of the
messages that wait at a port which DISABLE switches off (R340). -/
def regActs (b : Blk) (off data : Nat) (s : State) : State :=
  match b with
  | .chn c => if off = Reg.CHN_NUM_CTRL ∧ data.testBit 24 then lsLoadNow c s else s
  | .ablPort p =>
    if off ≠ Reg.ABL_PORT_CTRL then s
    else if portDisabled s p then rerouteAll p s
    else if data.testBit 0 then fullTraining p s
    else s
  | _ => s

/-- Bytes written into BOOT_DL_BUFFER. -/
def dlWrite (off : Nat) (bs : List Byte) (s : State) : State :=
  modBoot s (fun b => { b with dlBuffer := b.dlBuffer.take off ++ bs ++ b.dlBuffer.drop (off + bs.length) })

/-- LS_LOAD (R164): a write of CHN_NUM_CTRL with LS_LOAD = 1; the word's other fields are stored by the same write. -/
def execLsLoad (c : Nat) (w : Word) (s : State) : Host.Outcome State Fault Refusal :=
  atUnit c 4096 <| onlyIf (bit w 24 && (chanAt s c).live && bar0Writes s (.chn c)) s fun s =>
    lsLoadNow c (regWriteAt (.chn c) Reg.CHN_NUM_CTRL allBits w.toNat 8 0 s)

/-- REGISTER_WRITE (R3, R10 to R12, R368): a naturally aligned write of 4 or 8 bytes to a register without a row of its own, with the event
bits that hardware sets in it in the same C-cycle. A counter has COUNTER_CLEAR, CHN_CPL_HEAD acts as its doorbell, and the MSI-X table
stores what is written. -/
def execRegisterWrite (addr size : Nat) (x : RegData) (s : State) : Host.Outcome State Fault Refusal :=
  .next <|
    if !((size == 8 || size == 4) && addr % size == 0) then s
    else
      let data := if size = 8 then x.w.toNat else (x.w.toNat % 2 ^ 32) <<< (addr % 8 * 8)
      let mask := if size = 8 then allBits else (2 ^ 32 - 1) <<< (addr % 8 * 8)
      let a := addr / 8 * 8
      if 0x170000 ≤ a ∧ a < 0x178000 then
        if s.cxl.mode = 0 then s else wrAddr s a (word (((rdAddr s a).toNat &&& (allBits - mask)) ||| (data &&& mask)))
      else match blkOf a with
        | none => s
        | some (b, off) =>
          if blkFenced s b || !bar0Writes s b then s
          else if b == .boot && decide (0x1000 ≤ off) && decide (off < 0x2000) then
            dlWrite (addr - 0x131000) (leBytes size x.w.toNat) s
          else match b with
            | .chn c =>
              if !(chanAt s c).live then s
              else if off = Reg.CHN_CPL_HEAD then
                if addr % 8 = 0 then modRings s c (fun g => { g with cplHead := x.w.toNat % 2 ^ 32 }) else s
              else regActs b off (data &&& mask) (regWriteAt b off mask data size x.ev.toNat s)
            | _ => regActs b off (data &&& mask) (regWriteAt b off mask data size x.ev.toNat s)

/-! ### Telemetry (R492) -/

/-- Bytes of a telemetry page (Tables 14.9 and 14.10). -/
def telemetry (s : State) (page : Nat) : List Byte :=
  let p := s.power
  let stackMap := (List.range 16).map (fun i => (stackAt s i).tempMax)
  let deeps := (List.range 32).map (fun d => (deepAt s d).temp)
  match page with
  | 0 =>
    leBytes 4 p.inputMw ++ leBytes 4 (put p.vinMv 15 0 + put p.vcoreNow 31 16) ++
    leBytes 4 (put p.tjMax 7 0 + put (stackMap.foldl max 0) 15 8 + put (deeps.foldl max 0) 23 16 + put (p.regTemp.foldl max 0) 31 24) ++
    leBytes 4 (viewPwr s Reg.PWR_STATUS).toNat ++ page0Rest s
  | 1 => ((List.range 5).map (fun k => 0x100 + 8 * k) ++ [0x128]).flatMap (fun o => leBytes 8 (viewMon s o).toNat)
  | 2 => (stackMap ++ deeps).flatMap (leBytes 1)
  | _ => (List.range 9).flatMap (fun k => leBytes 8 (rd s .pwr (0x100 + 8 * k)).toNat)
where
  page0Rest (s : State) : List Byte :=
    leBytes 4 (rd s .pwr Reg.PWR_EVENT).toNat ++ leBytes 4 s.rcv.heartbeat ++ leBytes 8 s.us ++
    leBytes 8 (rd s .pwr Reg.PWR_CNT_ENERGY_MJ).toNat ++ leBytes 8 (rd s .pwr Reg.PWR_CNT_DIPS).toNat ++ List.replicate 16 0

/-- SMB_TELEMETRY (R492). -/
def execSmbTelemetry (sq page : Nat) (s : State) : Host.Outcome State Fault Refusal :=
  onlyIf (smbServed s) s fun s =>
    if page ≤ 3 then smbAnswer 1 sq ST_OK (telemetry s page) s else smbAnswer 1 sq ST_BAD_COMMAND [] s

end Sys2Proof.Machine
end

