-- ==== Sys2Proof/Machine/Boot.lean ====
section
/-! DEFINITION. Boot, firmware images, settings, flash, recovery mode, identity and key slots (R494 to R520, R537). A write
of a directory or settings copy is in force when it is issued; its flash operation counts its page (log entry 12). -/

namespace Sys2Proof.Machine

open Sys2Proof

/-! ### The directory (R496) -/

/-- The copy in use: a good one with the higher SEQ; with neither good both states read EMPTY and both counts zero. -/
def dirInUse (b : Boot) : DirCopy :=
  if b.dirA.good ∧ (!b.dirB.good ∨ b.dirB.seq < b.dirA.seq) then b.dirA else if b.dirB.good then b.dirB else {}

/-- A directory write with the current slot states and counts into the copy not in use. -/
def writeDir (s : State) : State :=
  let d := dirInUse s.boot
  let n : DirCopy := {
    good := true, seq := d.seq + 1, active := s.boot.activeSt, staging := s.boot.stagingSt, version := s.boot.stagingVersion,
    svn := s.boot.stagingSvn, starts := (rd s .boot Reg.BOOT_CNT_STARTS).toNat, pages := (rd s .boot Reg.BOOT_CNT_FLASH_PAGES).toNat }
  let s := modBoot s (fun b =>
    if b.dirA.good ∧ d = b.dirA then { b with dirB := n } else { b with dirA := n })
  modBoot s (fun b => { b with ops := b.ops ++ [{ prio := 0, kind := 0, pages := 1 }] })

/-! ### Images (R498, R499) -/

/-- n bytes of a slot. -/
def slotBytes (f : FwSlot) (off n : Nat) : List Byte := smReadRun zeroByte f.bytes off n
/-- A little-endian field of a slot's image. -/
def imgField (f : FwSlot) (off n : Nat) : Nat := leValue (slotBytes f off n)

/-- A component of an image: (type, offset, length). -/
def imgComponent (f : FwSlot) (k : Nat) : Nat × Nat × Nat :=
  (imgField f (0x20 + 16 * k) 1, imgField f (0x24 + 16 * k) 4, imgField f (0x28 + 16 * k) 4)

/-- Reason 1, FORMAT. -/
def imgFormat (f : FwSlot) : Bool :=
  let n := imgField f 8 4
  let cs := (List.range (imgField f 0xD 1)).map (imgComponent f)
  imgField f 0 4 == 0x4D495854 && imgField f 4 2 == 1 && imgField f 6 2 == 0 && n % 4096 == 0 && n != 0 && decide (n ≤ 25165824) &&
  n == f.len && decide (imgField f 0xC 1 ≤ 128) && imgField f 0xE 2 == 0 && imgField f 0x18 4 / 2 ^ 19 == 0 && imgField f 0x1E 2 == 0 &&
  imgField f 0x2A4 92 == 0 && imgField f 0x480 2944 == 0 &&
  cs.all (fun c => decide (1 ≤ c.1) && decide (c.1 ≤ 6) && c.2.1 % 4096 == 0 && decide (4096 ≤ c.2.1) && decide (c.2.1 + c.2.2 ≤ n)) &&
  (List.range cs.length).all (fun k => imgField f (0x21 + 16 * k) 3 == 0 && imgField f (0x2C + 16 * k) 4 == 0) &&
  (List.range 6).all (fun t => (cs.filter (fun c => c.1 == t + 1)).length == 1)

/-- The digest that the signature covers: the image with SIGNATURE taken as zero. -/
def imgDigest (f : FwSlot) : List Byte :=
  sha256 (slotBytes f 0 0x300 ++ List.replicate 384 0 ++ slotBytes f 0x480 (f.len - 0x480))

/-- The reason of Table 15.6 that an image fails with, 0 when it verifies. The image shipped with the module verifies. -/
def verifyImage (s : State) (f : FwSlot) : Nat :=
  if f.shipped then 0
  else if f.blocks.length * 4096 ≠ f.len ∨ f.len = 0 then 6
  else if !imgFormat f then 1
  else if imgField f 0x18 2 ≠ 0x3042 ∨ !(imgField f 0x18 4).testBit 18 then 2
  else if beValue (sha256 (slotBytes f 0x120 0x180 ++ slotBytes f 0x2A0 4)) ≠ Config.rootKeyHash then 3
  else if !(imgField f 0x2A0 4 == 65537 && pssVerify (beValue (slotBytes f 0x120 0x180)) (slotBytes f 0x300 384) (imgDigest f)) then 4
  else if imgField f 0xC 1 < s.boot.fuseSvn then 5
  else 0

/-- VERSION, SVN and SETTINGS_FORMAT of a slot's image. -/
def imgVersion (s : State) (f : FwSlot) : Nat := if f.shipped then s.boot.shippedVersion else imgField f 0x10 8
def imgSvn (s : State) (f : FwSlot) : Nat := if f.shipped then s.boot.shippedSvn else imgField f 0xC 1
def imgSetFormat (f : FwSlot) : Nat := if f.shipped then 2 else imgField f 0x1C 2

/-- The digest of each component type as loaded (R518). -/
def imgDigests (f : FwSlot) : List (List Byte) :=
  if f.shipped then List.replicate 6 []
  else (List.range 6).map (fun t =>
    match ((List.range (imgField f 0xD 1)).map (imgComponent f)).find? (fun c => c.1 == t + 1) with
    | some c => sha256 (slotBytes f c.2.1 c.2.2)
    | none => [])

/-- A failed verification counted (R501, R504). -/
def verifyFailed (s : State) : State := cntInc .boot Reg.BOOT_CNT_VERIFY_FAIL s

/-! ### Settings (R511 to R513) -/

/-- The newest valid settings copy of a format that the firmware knows. -/
def newestSettings (b : Boot) : Option SetCopy :=
  let ok (c : SetCopy) : Bool := c.valid && decide (1 ≤ c.format) && decide (c.format ≤ b.fwFormat)
  if ok b.setA && (!ok b.setB || decide (b.setB.seq < b.setA.seq)) then some b.setA
  else if ok b.setB then some b.setB else none

/-- A settings copy written over the copy with the lower SEQ (R512). Without the identity key nothing is written (R513). -/
def writeSettings (c : SetCopy) (s : State) : State :=
  if !s.boot.identityOk then s
  else
    let n := { c with valid := true, format := s.boot.fwFormat, seq := max s.boot.setA.seq s.boot.setB.seq + 1 }
    modBoot s (fun b =>
      let b := if b.setA.valid ∧ (!b.setB.valid ∨ b.setB.seq ≤ b.setA.seq) then { b with setB := n } else { b with setA := n }
      { b with ops := b.ops ++ [{ prio := 1, kind := 1, pages := 1 }] })

/-- Settings taken at a start or a handover (R512, R513). -/
def loadSettings (s : State) : State :=
  match (if s.boot.identityOk then newestSettings s.boot else none) with
  | none =>
    setEv .boot Reg.BOOT_EVENT Bit.BOOT_EVENT_SETTINGS_DEFAULT
      (modBoot s (fun b => { b with settings := { format := b.fwFormat }, settingsDefault := true }))
  | some c =>
    let s := modBoot s (fun b => { b with settings := c, settingsDefault := false })
    if c.format < s.boot.fwFormat then
      let c' := { c with format := s.boot.fwFormat, liveUpdate := if c.format < 2 then true else c.liveUpdate, seq := c.seq + 1 }
      setEv .boot Reg.BOOT_EVENT Bit.BOOT_EVENT_SETTINGS_MIGRATED
        (modBoot (writeSettings c' s) (fun b => { b with settings := c' }))
    else s

/-- The quads that the settings retire stay fenced (R452, R511). -/
def applyRetired (s : State) : State :=
  (List.range 32).foldl (fun s q =>
    if s.boot.settings.retired.testBit q then modDomain s q (fun x => { x with retired := true, fenced := true }) else s) s

/-! ### What a cold reset leaves (Table 13.8) -/

/-- The slot written by a download without the blocks that the program queue still held. -/
def dropProgram (b : Boot) : Boot :=
  let ks := (b.ops.filter (fun o => o.kind == 5)).map (·.arg)
  { b with
    staging := { b.staging with blocks := b.staging.blocks.filter (fun k => !ks.contains k)
                                bytes := ks.foldl (fun m k => smClearRun m (4096 * k) 4096) b.staging.bytes }
    ops := b.ops.filter (fun o => o.kind != 4 && o.kind != 5) }

/-- BAR0 offsets of the two counts that the directory keeps (R520). -/
def bootCounts : List Nat := [blkBase .boot + Reg.BOOT_CNT_STARTS, blkBase .boot + Reg.BOOT_CNT_FLASH_PAGES]

/-- What a cold reset leaves: the answers already given, the pins, retention SRAM, fuses and flash. Each port keeps its cable. -/
def loseCold (s : State) : State :=
  let b := dropProgram s.boot
  { ({} : State) with
    pending := s.pending
    freeCtr := s.freeCtr
    phys := s.phys
    smbOut := s.smbOut
    regs := s.regs.filter (fun p => bootCounts.contains p.1)
    power := { held := s.power.held, railRec := s.power.railRec }
    links := { ports := s.links.ports.map (fun x => { cable := x.cable }) }
    cxl := { perst := s.cxl.perst, memOut := s.cxl.memOut, bar4Out := s.cxl.bar4Out, bar0Out := s.cxl.bar0Out, doeOut := s.cxl.doeOut,
             msix := s.cxl.msix }
    boot := { fuseSvn := b.fuseSvn, setA := b.setA, setB := b.setB, dirA := b.dirA, dirB := b.dirB, active := b.active,
              staging := b.staging, shippedVersion := b.shippedVersion, shippedSvn := b.shippedSvn, ops := b.ops, serial := b.serial,
              logFlash := b.logFlash, stookFlash := b.stookFlash, ignoreStrap := b.ignoreStrap }
    rcv := { log := s.rcv.log, logTail := s.rcv.logTail, stooks := s.rcv.stooks
             domains := s.rcv.domains.map (fun p => (p.1, { gen := p.2.gen, seq := if p.1 = 0x7F then p.2.seq else none } )) } }

/-! ### The boot chain (R500, R501) -/

/-- An image started: the firmware runs from a slot, loads settings and identity, measures, and training follows. -/
def startImage (f : FwSlot) (fromStaging identityBad : Bool) (d : Nat) (s : State) : State :=
  let s := modBoot s (fun b => { b with
    stage := 2, mixed := false, fromStaging := fromStaging, imageSvn := imgSvn s f, fwVersion := imgVersion s f,
    fwFormat := imgSetFormat f, digests := imgDigests f, identityOk := !identityBad, ignoreStrap := false, rcvState := 0, rcvReason := 0 })
  let s := if identityBad then
      logRec { source := 9, cause := 0, severity := 0 } (setEv .boot Reg.BOOT_EVENT Bit.BOOT_EVENT_IDENTITY_FAIL s) else s
  let s := applyRetired (loadSettings s)
  let s := cntInc .boot Reg.BOOT_CNT_STARTS s
  let s := modRcv s (fun r => { r with activeCore := 0, standby := true, stopped := false })
  let s := modDomain s d (fun x => { x with seq := x.seq.map (fun q => { q with step := 7 }) })
  writeDir s

/-- Recovery mode entered (R514): nothing but the CXL port and the BOOT_ block is served, and no channel exists. After a warm device reset
the DRAM, the routing table, the device ID and the training state of the ports are kept (Table 13.8). -/
def enterRecovery (d : Nat) (s : State) : State :=
  let s := if d = 0x7E then
      { s with chans := [], mbxs := [], links := { s.links with groups := [], inbox := [], remote := [], reshards := [] } } else s
  modBoot (modDomain s d (fun x => { x with seq := none, fenced := false, flagged := false }))
    (fun b => { b with stage := 4, rcvState := 0, rcvReason := 0, ignoreStrap := false })

/-- The domain whose sequence stands at the boot chain: a cold start, else a warm device reset. -/
def bootDomain (s : State) : Option Nat :=
  [0x7F, 0x7E].find? (fun d => (domainAt s d).seq.any (fun q => q.step == 6))

/-- BOOT_CHAIN (R500, R501): the strap, and the slots and the identity key that the ROM finds damaged. -/
def execBootChain (strap activeBad stagingBad identityBad : Bool) (s : State) : Host.Outcome State Fault Refusal :=
  .next <| match (if s.boot.stage = 0 then bootDomain s else none) with
  | none => s
  | some d =>
    let dir := dirInUse s.boot
    let s := modBoot s (fun b => { b with activeSt := dir.active, stagingSt := dir.staging, stagingVersion := dir.version, stagingSvn := dir.svn })
    if strap && !s.boot.ignoreStrap then enterRecovery d s
    else
      let b := s.boot
      let stagingOk := !stagingBad && verifyImage s b.staging == 0
      let activeOk := b.activeSt == 1 && !activeBad && verifyImage s b.active == 0
      if b.stagingSt = 3 ∧ stagingOk then startImage b.staging true identityBad d s
      else
        let s := if b.stagingSt = 3 then verifyFailed s else s
        if activeOk then startImage b.active false identityBad d s
        else
          let s := if b.activeSt = 1 ∨ b.activeSt = 2 then
              verifyFailed (setEv .boot Reg.BOOT_EVENT Bit.BOOT_EVENT_SLOT_FALLBACK s) else s
          if b.stagingSt = 2 ∧ stagingOk then
            startImage b.staging true identityBad d (modBoot s (fun b => { b with stagingSt := 3 }))
          else enterRecovery d s

/-! ### Updates (R502 to R509) -/

/-- A slot state changed, and the directory written (R496). -/
def setStaging (st : Nat) (s : State) : State := writeDir (modBoot s (fun b => { b with stagingSt := st }))

/-- IMAGE_BYTES is as R498 states. -/
def imgBytesOk (n : Nat) : Bool := n % 4096 == 0 && n != 0 && decide (n ≤ 25165824)

/-- Step 1 and 2 of R502: WRITING, the map cleared, the erase under way. -/
def beginDownload (n : Nat) (s : State) : State :=
  setStaging 1 (modBoot s (fun b => { b with
    staging := { len := n }, stagingVersion := 0, stagingSvn := 0,
    ops := b.ops.filter (fun o => o.kind != 4 && o.kind != 5) ++ [{ prio := 4, kind := 4, arg := ceilDiv n 65536 }] }))

/-- FW_BEGIN (R502). -/
def execFwBegin (src : CmdSrc) (e : Entry) (s : State) : Host.Outcome State Fault Refusal :=
  serve 0x60 src e s fun x s =>
    let n := bits e.a0 31 0
    if !imgBytesOk n then answer x ST_BAD_COMMAND [] s
    else if s.boot.stagingSt = 3 ∨ s.boot.activeSt = 2 then answer x ST_BUSY [] s
    else servePending x s fun s => beginDownload n s

/-- A block offered to the program queue (R503): the status, and the state after it. -/
def offerBlock (off crc : Nat) (s : State) : Nat × State :=
  let b := s.boot
  let k := off / 4096
  if b.stagingSt ≠ 1 ∨ off % 4096 ≠ 0 ∨ b.staging.len ≤ off ∨ crc32c b.dlBuffer ≠ crc then (ST_BAD_COMMAND, s)
  else if b.staging.blocks.contains k then
    if slotBytes b.staging off 4096 = b.dlBuffer then (ST_OK, s) else (ST_BAD_COMMAND, s)
  else if 64 ≤ (b.ops.filter (fun o => o.kind == 5)).length then (ST_BUSY, s)
  else (ST_OK, modBoot s (fun b => { b with
    staging := { b.staging with blocks := b.staging.blocks ++ [k], bytes := smWriteRun zeroByte b.staging.bytes off b.dlBuffer },
    ops := b.ops ++ [{ prio := 4, kind := 5, arg := k, pages := 1 }] }))

/-- FW_BLOCK (R503). -/
def execFwBlock (src : CmdSrc) (e : Entry) (s : State) : Host.Outcome State Fault Refusal :=
  serve 0x61 src e s fun x s =>
    let r := offerBlock e.a0.toNat (bits e.a1 31 0) s
    answer x r.1 [] r.2

/-- The program queue is not empty. -/
def programming (s : State) : Bool := s.boot.ops.any (fun o => o.kind == 4 || o.kind == 5)

/-- The staging slot verified (R504): the reason, and the state after it. -/
def verifyStaging (s : State) : Nat × State :=
  let r := verifyImage s s.boot.staging
  if r = 0 then
    (0, if s.boot.stagingSt = 1 then setStaging 2 (modBoot s (fun b => { b with
          stagingVersion := imgVersion s b.staging, stagingSvn := imgSvn s b.staging })) else s)
  else (r, verifyFailed (setEv .boot Reg.BOOT_EVENT Bit.BOOT_EVENT_VERIFY_FAIL s))

/-- Every FW_VERIFY, or recovery VERIFY, that waits for the program queue runs once it is empty (R504, R515). -/
def runVerify (s : State) : State :=
  if programming s then s
  else
    let waits := s.mbxs.any (fun p => p.2.owed.any (fun q => q.2.opcode == 0x62))
    let s := if waits then
        let r := verifyStaging s
        mbxFinishOp 0x62 (if r.1 = 0 then ST_OK else ST_NO_ACCESS)
          [word r.1, word r.2.boot.stagingVersion, word r.2.boot.stagingSvn] r.2
      else s
    if s.boot.rcvVerify then
      let r := verifyStaging s
      modBoot r.2 (fun b => { b with rcvVerify := false, rcvState := if r.1 = 0 then 2 else 3, rcvReason := r.1 })
    else s

/-- FW_VERIFY (R504). -/
def execFwVerify (src : CmdSrc) (e : Entry) (s : State) : Host.Outcome State Fault Refusal :=
  serve 0x62 src e s fun x s => servePending x s runVerify

/-- FW_ACTIVATE (R505). -/
def execFwActivate (src : CmdSrc) (e : Entry) (s : State) : Host.Outcome State Fault Refusal :=
  serve 0x63 src e s fun x s =>
    let live := bit e.a0 0
    if s.boot.stagingSt ≠ 2 then answer x ST_BUSY [] s
    else servePending x s fun s =>
      let r := verifyStaging s
      if r.1 ≠ 0 then finishAsync x ST_NO_ACCESS [word r.1, word r.2.boot.fwVersion] r.2
      else if live && !s.boot.settings.liveUpdate then finishAsync x ST_NO_ACCESS [7, word s.boot.fwVersion] s
      else
        let s := setStaging 3 s
        if live then modRcv (modBoot s (fun b => { b with handover := true })) (fun r => { r with standby := false })
        else finishAsync x ST_OK [0, word s.boot.fwVersion] s

/-- FW_ABORT (R509). -/
def execFwAbort (src : CmdSrc) (e : Entry) (s : State) : Host.Outcome State Fault Refusal :=
  serve 0x64 src e s fun x s =>
    if s.boot.stagingSt = 3 then answer x ST_BUSY [] s
    else if s.boot.stagingSt = 0 then answer x ST_OK [] s
    else answer x ST_OK [] (runVerify (setStaging 0 (modBoot s (fun b => { b with
      staging := {}, stagingVersion := 0, stagingSvn := 0, ops := b.ops.filter (fun o => o.kind != 5) }))))

/-- FW_STATUS (Table 15.7). -/
def execFwStatus (src : CmdSrc) (e : Entry) (s : State) : Host.Outcome State Fault Refusal :=
  serve 0x65 src e s fun x s =>
    answer x ST_OK [viewBoot s Reg.BOOT_STATUS, word s.boot.stagingVersion, word s.boot.staging.blocks.length] s

/-- SETTINGS_GET (Table 15.7): the persistent items, and the SEQ of their copy. -/
def execSettingsGet (src : CmdSrc) (e : Entry) (s : State) : Host.Outcome State Fault Refusal :=
  serve 0x68 src e s fun x s =>
    let c := (newestSettings s.boot).getD s.boot.settings
    answer x ST_OK [word (put c.retired 31 0 + putB c.ideRequired 32 + putB c.liveUpdate 33), word c.seq] s

/-- SETTINGS_SET (R512): effective at the next start. -/
def execSettingsSet (src : CmdSrc) (e : Entry) (s : State) : Host.Outcome State Fault Refusal :=
  serve 0x69 src e s fun x s =>
    let c := (newestSettings s.boot).getD s.boot.settings
    answer x ST_OK [] (writeSettings { c with ideRequired := bit e.a0 32, liveUpdate := bit e.a0 33 } s)

/-- A live object names a key slot. -/
def keyNamed (s : State) (k : Nat) : Bool := (liveObjs s).any (fun p => p.2.enc && p.2.keySlot == k)

/-- KEY_LOAD (R519). -/
def execKeyLoad (src : CmdSrc) (e : Entry) (s : State) : Host.Outcome State Fault Refusal :=
  serve 0x6C src e s fun x s =>
    let k := bits e.a0 7 0
    if !s.cxl.ideIo then answer x ST_NO_ACCESS [] s
    else if keyNamed s k then answer x ST_BUSY [] s
    else answer x ST_OK [] (modBoot s (fun b => { b with
      keys := smInsert k { filled := true, owner := e.handle, key := b.dlBuffer.take 64 } b.keys, dlBuffer := List.replicate 4096 0 }))

/-- KEY_CLEAR (R519). -/
def execKeyClear (src : CmdSrc) (e : Entry) (s : State) : Host.Outcome State Fault Refusal :=
  serve 0x6D src e s fun x s =>
    let k := bits e.a0 7 0
    if keyNamed s k then answer x ST_BUSY [] s
    else answer x ST_OK [] (modBoot s (fun b => { b with keys := smErase k b.keys }))

/-! ### Flash operations, the commit copy and the handover -/

/-- The flash operation served next (R497); stook saves end by STOOK_SAVE_DONE. -/
def nextFlashOp (b : Boot) : Option FlashOp :=
  (List.range 5).findSome? (fun p => b.ops.find? (fun o => o.prio == p && o.kind != 3))

/-- A list with the first element equal to x removed. -/
def eraseOp (x : FlashOp) : List FlashOp → List FlashOp
  | [] => []
  | o :: r => if o = x then r else o :: eraseOp x r

/-- FLASH_OP_DONE (R496, R497, R502, R504, R515). -/
def execFlashOpDone (s : State) : Host.Outcome State Fault Refusal :=
  .next <| match nextFlashOp s.boot with
  | none => s
  | some o =>
    let s := modBoot s (fun b => { b with ops := eraseOp o b.ops })
    let s := cntAdd .boot Reg.BOOT_CNT_FLASH_PAGES o.pages s
    match o.kind with
    | 2 =>
      match s.rcv.log.find? (fun p => p.1 == o.arg) with
      | some p =>
        let keep (m : SMap LogRec) : SMap LogRec := if 16384 ≤ o.arg then smErase (o.arg - 16384) m else m
        modBoot s (fun b => { b with logFlash := smInsert o.arg p.2 (keep b.logFlash) })
      | none => s
    | 4 =>
      let s := mbxFinishOp 0x60 ST_OK [] s
      let s := if s.boot.stage = 4 ∧ s.boot.rcvState = 1 ∧ !s.boot.rcvVerify then modBoot s (fun b => { b with rcvState := 2 }) else s
      runVerify s
    | 5 => runVerify s
    | _ => s

/-- FW_COMMIT_COPY (R508, R510): the copy has ended and is verified; the active slot is VALID, the staging slot EMPTY. -/
def execFwCommitCopy (s : State) : Host.Outcome State Fault Refusal :=
  onlyIf (s.boot.stage == 3 && s.boot.commitDue && verifyImage s s.boot.staging == 0) s fun s =>
    let s := cntAdd .boot Reg.BOOT_CNT_FLASH_PAGES (s.boot.staging.len / 4096) s
    let s := writeDir (modBoot s (fun b => { b with active := b.staging, staging := {}, activeSt := 1, stagingSt := 0,
                                                    stagingVersion := 0, stagingSvn := 0, commitDue := false }))
    let s := setEv .boot Reg.BOOT_EVENT Bit.BOOT_EVENT_COMMIT_DONE s
    if s.boot.fuseSvn < s.boot.imageSvn then
      setEv .boot Reg.BOOT_EVENT Bit.BOOT_EVENT_SVN_ADVANCED (modBoot s (fun b => { b with fuseSvn := b.imageSvn }))
    else s

/-- A reset sequence runs. -/
def anyReset (s : State) : Bool := s.rcv.domains.any (fun p => p.2.seq.isSome)

/-- HANDOVER_STANDBY_READY (R506 steps 1 to 4, R507, R518). -/
def execHandoverStandbyReady (s : State) : Host.Outcome State Fault Refusal :=
  onlyIf (s.boot.handover && !anyReset s && rachisServes s) s fun s =>
    let f := s.boot.staging
    let s := loadSettings (modBoot s (fun b => { b with
      handover := false, mixed := true, fwVersion := imgVersion s f, imageSvn := imgSvn s f, fwFormat := imgSetFormat f,
      digests := (imgDigests f).take 1 ++ b.digests.drop 1 }))
    let s := modRcv s (fun r => { r with activeCore := 1 - r.activeCore, standby := false, beatUs := s.us })
    let s := cntInc .boot Reg.BOOT_CNT_HANDOVERS (setEv .boot Reg.BOOT_EVENT Bit.BOOT_EVENT_HANDOVER s)
    mbxFinishOp 0x63 ST_OK [0, word s.boot.fwVersion] s

/-- HANDOVER_TIMEOUT (R506): the standby core has not reported ready within 2 s. -/
def execHandoverTimeout (s : State) : Host.Outcome State Fault Refusal :=
  onlyIf s.boot.handover s fun s =>
    let s := setStaging 2 (modBoot s (fun b => { b with handover := false }))
    mbxFinishOp 0x63 ST_NO_ACCESS [7, word s.boot.fwVersion]
      (setEv .boot Reg.BOOT_EVENT Bit.BOOT_EVENT_HANDOVER_FAIL s)

/-! ### Recovery mode (R514, R515) -/

/-- A recovery command is taken: recovery mode, the link up, the operation of the row, and STATE not BUSY. -/
def rcvTakes (op : Nat) (w : Word) (s : State) : Bool :=
  s.boot.stage == 4 && s.cxl.mode != 0 && bits w 3 0 == op && s.boot.rcvState != 1

/-- A recovery command's end. -/
def rcvEnd (ok : Bool) (reason : Nat) (s : State) : State :=
  modBoot s (fun b => { b with rcvState := if ok then 2 else 3, rcvReason := reason })

/-- RCV_BEGIN (R502, R515). -/
def execRcvBegin (w : Word) (s : State) : Host.Outcome State Fault Refusal :=
  onlyIf (rcvTakes 1 w s) s fun s =>
    let n := bits w 28 16 * 4096
    if !imgBytesOk n ∨ s.boot.stagingSt = 3 ∨ s.boot.activeSt = 2 then rcvEnd false 0 s
    else beginDownload n (modBoot s (fun b => { b with rcvState := 1, rcvReason := 0 }))

/-- RCV_BLOCK (R503, R515). -/
def execRcvBlock (w : Word) (s : State) : Host.Outcome State Fault Refusal :=
  onlyIf (rcvTakes 2 w s) s fun s =>
    let r := offerBlock (bits w 28 16 * 4096) (bits w 63 32) s
    rcvEnd (r.1 == ST_OK) 0 r.2

/-- RCV_VERIFY (R504, R515). -/
def execRcvVerify (w : Word) (s : State) : Host.Outcome State Fault Refusal :=
  onlyIf (rcvTakes 3 w s) s fun s => runVerify (modBoot s (fun b => { b with rcvState := 1, rcvReason := 0, rcvVerify := true }))

/-- RCV_START (R515): PENDING_COMMIT, and the boot chain as a cold start that ignores the strap; what a cold start loses is lost (Table
13.8). -/
def execRcvStart (w : Word) (s : State) : Host.Outcome State Fault Refusal :=
  onlyIf (rcvTakes 4 w s) s fun s =>
    if s.boot.stagingSt ≠ 2 then rcvEnd false 0 s
    else
      let s := modBoot (loseCold (setStaging 3 s)) (fun b => { b with stage := 0, ignoreStrap := true })
      modDomain s 0x7F (fun x => { x with seq := some { step := 6, trigger := 0xB4, startUs := s.us } })

/-! ### Identity (R516 to R518) -/

/-- SPDM request codes of Table 15.9 (log entry 13). -/
def spdmCodes : List Nat := [0x81, 0x82, 0x83, 0x84, 0xE0, 0xE1, 0xE3, 0xE4, 0xE5, 0xE8, 0xE9, 0xEC, 0xFE]
/-- Requests that need a signature, and requests that need a session (R516). -/
def spdmSigns (code p1 : Nat) : Bool := code == 0x83 || code == 0xE4 || (code == 0xE0 && p1 % 2 == 1)
def spdmSession (code : Nat) : Bool := [0xE5, 0xE8, 0xE9, 0xEC, 0xFE].contains code

/-- A measurement block (Table 15.10): value type and content; none where the spec gives no value. -/
def measurement (s : State) (i : Nat) : Option (Nat × List Byte) :=
  let b := s.boot
  if 2 ≤ i ∧ i ≤ 7 then (match b.digests.getD (i - 2) [] with | [] => none | d => some (1, d))
  else if i = 8 then (if b.settingsDefault then some (3, List.replicate 32 0) else none)
  else if i = 9 then some (6, leBytes 8 b.fwVersion)
  else if i = 10 then some (7, leBytes 1 b.fuseSvn ++ leBytes 1 b.imageSvn)
  else if i = 11 then some (5, leBytes 1 (putB b.mixed 0 + putB b.fromStaging 1 + putB b.settingsDefault 2 + putB true 3))
  else none

/-- The body of an SPDM response: the measurement asked for, or a free value for what the spec does not give (log entry 13). -/
def spdmBody (code p2 : Nat) (s : State) : List Byte × State :=
  match (if code = 0xE0 then measurement s p2 else none) with
  | some (t, c) => (leBytes 1 t ++ leBytes 2 c.length ++ c, s)
  | none => let f := drawFree s; (leBytes 8 f.1.toNat, f.2)

/-- SPDM_REQUEST (R516, R517): version, code, two parameters, then what the code carries. -/
def execSpdmRequest (msg : List Byte) (s : State) : Host.Outcome State Fault Refusal :=
  onlyIf (s.cxl.mode != 0 && rachisServes s && decide (4 ≤ msg.length)) s fun s =>
    let code := leValue ((msg.drop 1).take 1)
    let p1 := leValue ((msg.drop 2).take 1)
    let p2 := leValue ((msg.drop 3).take 1)
    let out (bs : List Byte) (s : State) : State := modCxl s (fun x => { x with doeOut := x.doeOut ++ [bs] })
    let error (e : Nat) (s : State) : State := out (leBytes 1 0x12 ++ leBytes 1 0x7F ++ leBytes 1 e ++ leBytes 1 0) s
    if !spdmCodes.contains code then error 0x07 s
    else if (spdmSigns code p1 || spdmSession code) && !s.boot.identityOk then error 0x05 s
    else if spdmSession code && s.boot.sessions.isEmpty then error 0x0B s
    else if code == 0xE4 && decide (4 ≤ s.boot.sessions.length) then error 0x0A s
    else
      let s := if code = 0xE4 then
          modBoot s (fun b => { b with sessions := b.sessions ++ [b.sessions.foldl (fun m x => max m (x + 1)) 0] })
        else if code = 0xEC then modBoot s (fun b => { b with sessions := b.sessions.drop 1 })
        -- IDE_KM: object 4 sets a stream's keys in force, stream 0 of CXL.io and stream 1 of CXL.cachemem
        else if code = 0xFE ∧ leValue ((msg.drop 4).take 1) = 4 then
          modCxl s (fun x => if leValue ((msg.drop 5).take 1) = 0 then { x with ideIo := true } else { x with ideCm := x.mode == 1 })
        else s
      let r := spdmBody code p2 s
      out (leBytes 1 0x12 ++ leBytes 1 (code - 0x80) ++ leBytes 1 p1 ++ leBytes 1 p2 ++ r.1) r.2

end Sys2Proof.Machine
end

