-- ==== Sys2Proof/Machine/ChanCmds.lean ====
section
/-! DEFINITION. Channel commands (R405 to R412, R375, R396, R397, R420). -/

namespace Sys2Proof.Machine

open Sys2Proof

/-- The tillers of a mask of two words. -/
def maskTillers (lo hi : Word) : List Nat :=
  (List.range 128).filter (fun t => if t < 64 then bit lo t else bit hi (t - 64))

/-- A tiller of a list is granted to another live channel (R407). -/
def grantConflict (s : State) (c : Nat) (ts : List Nat) : Bool :=
  s.chans.any (fun p => p.2.live && p.1 != c && p.2.grant.any (fun t => ts.contains t))

/-- The lowest free channel index (R407). -/
def freeChanIndex (s : State) : Option Nat :=
  lowestGap 1 4096 0 (sortIv ((liveChans s).map (fun c => (c, 1))))

/-- A channel as CHAN_CREATE makes it at an index (R405, R407): the generation after the last one there, the tillers granted, the
quotas, the detach log's length, the attach token and the seed. -/
def newChan (e : Entry) (old : Chan) (token : Word) : Chan :=
  { gen := old.gen % 0xFFFFF + 1, live := true, det := bit e.a4 17, grant := maskTillers e.a2 e.a3,
    quota := (bits e.a1 31 0, bits e.a1 63 32), logRecs := bits e.a4 16 0, token := token, trn := { seed := e.a0 } }

/-- The detach log of a channel (R394): 64 bytes for each record, in whole granules. -/
def detachLogObj (recs : Nat) : NewObj := { size := ceilDiv (recs * 64) 65536 * 65536, dataBytes := recs * 64 }

/-- The answer of CHAN_CREATE for the detach log's creation; the record names the new handle. -/
def chanMade (x : Cmd) (c : Nat) (token : Word) (s : State) : Except Nat (Nat × Nat × State) → State
  | .error st => answer x st [] s
  | .ok (oi, _, s1) =>
    answer { x with e := { x.e with w0 := setBits x.e.w0 63 32 (handleOf s1 c) } } ST_OK [word (handleOf s1 c), token, word oi]
      (modChan s1 c (fun k => { k with detachLog := oi }))

/-- The channel made at a free index, its windows at their reset values, with its detach log. -/
def createChan (x : Cmd) (c : Nat) (s : State) : State :=
  chanMade x c (drawFree s).1 s
    (createObj (setChan (resetBlock (drawFree s).2 (.chn c) 0x1000) c (newChan x.e (chanAt s c) (drawFree s).1)) c
      (detachLogObj (bits x.e.a4 16 0)))

/-- CHAN_CREATE (R407): the lowest free index, the grant, the quotas, the detach log, the seed and the attach token. -/
def execChanCreate (src : CmdSrc) (e : Entry) (s : State) : Host.Outcome State Fault Refusal :=
  serve 0x01 src e s fun x s =>
    if bits e.a4 16 0 < 64 ∨ 65536 < bits e.a4 16 0 then answer x ST_BAD_COMMAND [] s
    else match freeChanIndex s with
      | none => answer x ST_NO_CHANNEL [] s
      | some c => if grantConflict s c (maskTillers e.a2 e.a3) then answer x ST_GRANT_CONFLICT [] s else createChan x c s

/-- CHAN_DESTROY (R411): acknowledged PENDING, the handle stale from then on; the channel is fenced, its work ended and its
resources freed, and its final record waits for its slot. -/
def execChanDestroy (src : CmdSrc) (e : Entry) (s : State) : Host.Outcome State Fault Refusal :=
  serve 0x02 src e s fun x s => servePending x s fun s =>
    let c := x.ch
    let s := modChan s c (fun k => { k with destroying := true })
    let s := stopCopies c ST_FENCED (modChan s c (fun k => { k with fenced := true }))
    let s := voidAttempt c ST_FENCED s
    let s := freeChan c s
    let s := modChan s c (fun k => { k with grant := [], quota := (0, 0), used := (0, 0), windows := [] })
    finishAsync x ST_OK [] s

/-- The configurations of a channel that name a tiller (R408). -/
def tillerNamed (s : State) (c t : Nat) : Bool :=
  (chanTillers s c).contains t || (chanAt s c).trn.deferred.any (fun d => d.left.contains t) ||
  (chanTillers s c).any (fun u => let x := tillerAt s u
    (cfgOf c x.act && x.act.stage.tillers.contains t) || (cfgOf c x.shadow && x.shadow.stage.tillers.contains t) ||
    (cfgOf c x.dfr && x.dfr.stage.tillers.contains t))

/-- CHAN_GRANT (R408). -/
def execChanGrant (src : CmdSrc) (e : Entry) (s : State) : Host.Outcome State Fault Refusal :=
  serve 0x03 src e s fun x s =>
    let k := chanAt s x.ch
    let ts := maskTillers e.a0 e.a1
    let q := (bits e.a2 31 0, bits e.a2 63 32)
    if (k.grant.filter (fun t => !ts.contains t)).any (fun t => tillerNamed s x.ch t) then answer x ST_BUSY [] s
    else if grantConflict s x.ch ts then answer x ST_GRANT_CONFLICT [] s
    else if q.1 < k.used.1 ∨ q.2 < k.used.2 then answer x ST_QUOTA [] s
    else answer x ST_OK [] (modChan s x.ch (fun k => { k with grant := ts, quota := q }))

/-- CHAN_FENCE (R410). -/
def execChanFence (src : CmdSrc) (e : Entry) (s : State) : Host.Outcome State Fault Refusal :=
  serve 0x04 src e s fun x s => answer x ST_OK [] (fenceChan x.ch s)

/-- CHAN_UNFENCE (R410): fetch continues. -/
def execChanUnfence (src : CmdSrc) (e : Entry) (s : State) : Host.Outcome State Fault Refusal :=
  serve 0x05 src e s fun x s => answer x ST_OK [] (modChan s x.ch (fun k => { k with fenced := false }))

/-- A ring's size and alignment, where its place is checked apart from windows (R396, R412). -/
def ringForm (base : Nat) (cfg : Word) : Bool :=
  decide (6 ≤ bits cfg 4 0) && decide (bits cfg 4 0 ≤ 16) && base % (64 * 2 ^ bits cfg 4 0) == 0

/-- An attach token refused (R397): counted; four in a row lock the handle for 1 s. -/
def attachDenied (c : Nat) (locked : Bool) (s : State) : State :=
  let s := cntInc .cxp Reg.CXP_CNT_ATTACH_DENIED (setEv .cxp Reg.CXP_EVENT Bit.CXP_EVENT_ATTACH_DENIED s)
  if locked then s
  else modChan s c (fun k => if k.wrong + 1 = 4 then { k with wrong := 0, lockUs := s.us + 1000000 } else { k with wrong := k.wrong + 1 })

/-- CHAN_REATTACH (R396, R397). -/
def execChanReattach (src : CmdSrc) (e : Entry) (s : State) : Host.Outcome State Fault Refusal :=
  serve 0x06 src e s fun x s =>
    let c := x.ch
    let k := chanAt s c
    if s.us < k.lockUs then answer x ST_ATTACH_DENIED [] (attachDenied c true s)
    else if e.a0 ≠ k.token then answer x ST_ATTACH_DENIED [] (attachDenied c false s)
    else
      let keep := bit e.a1 0
      let ok := if keep then ringOk s c false e.a2.toNat e.a3 && ringOk s c true e.a4.toNat e.a5
                else ringForm e.a2.toNat e.a3 && ringForm e.a4.toNat e.a5
      if !ok then answer x ST_NO_ACCESS [] s
      else
        let fetched := k.rings.cmdHead % 2 ^ 32
        let logged := k.logged
        let f := drawFree s
        let s := modChan f.2 c (fun k => { k with
          token := f.1, wrong := 0, attached := true, logFull := false,
          windows := if keep then k.windows else [],
          rings := { k.rings with set := true, cmdBase := e.a2.toNat, cmdN := bits e.a3 4 0, cmdDev := bit e.a3 5,
                                  cplBase := e.a4.toNat, cplN := bits e.a5 4 0, cplDev := bit e.a5 5 } })
        let s := if keep then s else
          finishAll c ST_DETACHED (fun y => [0x21, 0x22, 0x36].contains y.e.opcode) (stopCopies c ST_DETACHED s)
        answer x ST_OK [f.1, word (put fetched 31 0 + put logged 63 32)] s

/-- RING_SET (R412). A second one of a channel keeps its step number: R16 puts the commands after RING_SET in step 1, which the model takes of
the channel's first one (log entry 137). -/
def execRingSet (src : CmdSrc) (e : Entry) (s : State) : Host.Outcome State Fault Refusal :=
  serve 0x07 src e s fun x s =>
    let c := x.ch
    if !(chanAt s c).rings.cmds.isEmpty then answer x ST_BUSY [] s
    else if !(ringOk s c false e.a0.toNat e.a1 && ringOk s c true e.a2.toNat e.a3) then answer x ST_NO_ACCESS [] s
    else answer x ST_OK [] (modChan s c (fun k => { k with stalled := false, rings :=
      { set := true, cmdBase := e.a0.toNat, cmdN := bits e.a1 4 0, cmdDev := bit e.a1 5, cplBase := e.a2.toNat,
        cplN := bits e.a3 4 0, cplDev := bit e.a3 5, vector := bits e.a4 10 0, irqEn := bit e.a4 11,
        coalRecords := bits e.a4 19 12, coalUs := bits e.a4 35 20, owed := k.rings.owed } }))

/-- HOST_WINDOW_SET (R375). -/
def execHostWindowSet (src : CmdSrc) (e : Entry) (s : State) : Host.Outcome State Fault Refusal :=
  serve 0x08 src e s fun x s =>
    let n := bits e.a0 3 0
    let r := bit e.a0 4
    let w := bit e.a0 5
    if !r && !w then answer x ST_OK [] (modChan s x.ch (fun k => { k with windows := smErase n k.windows }))
    else if e.a1.toNat % 4096 ≠ 0 ∨ e.a2.toNat % 4096 ≠ 0 then answer x ST_BAD_COMMAND [] s
    else answer x ST_OK [] (modChan s x.ch (fun k => { k with
      windows := smSet (fun _ => {}) k.windows n { rd := r, wr := w, base := e.a1.toNat, len := e.a2.toNat } }))

/-- CHAN_QUERY (Table 12.5). -/
def execChanQuery (src : CmdSrc) (e : Entry) (s : State) : Host.Outcome State Fault Refusal :=
  serve 0x09 src e s fun x s =>
    let k := chanAt s x.ch
    answer x ST_OK [chanStateReg s x.ch, word (k.rings.cmdHead % 2 ^ 32), word (k.rings.cplTail % 2 ^ 32), word k.trn.committed] s

/-- TOKEN_HOLD (R420): at most 65,535 unreleased holds on a token. -/
def execTokenHold (src : CmdSrc) (e : Entry) (s : State) : Host.Outcome State Fault Refusal :=
  serve 0x0C src e s fun x s =>
    let t := bits e.a0 11 0
    if 65535 ≤ ((chanAt s x.ch).rings.holds.filter (fun h => h.1 == t)).length then answer x ST_BAD_COMMAND [] s
    else answer x ST_OK [] (modRings s x.ch (fun g => { g with holds := g.holds ++ [(t, x.pos)] }))

/-- NOP (Table 12.5). -/
def execNop (src : CmdSrc) (e : Entry) (s : State) : Host.Outcome State Fault Refusal :=
  serve 0x0D src e s fun x s => answer x ST_OK [] s

/-- UNKNOWN_OPCODE (R422): an entry with an opcode that the set lacks or that its path does not take. -/
def execUnknownOpcode (src : CmdSrc) (e : Entry) (s : State) : Host.Outcome State Fault Refusal :=
  let bad := match cmdSpec e.opcode with | none => true | some c => (pathStatus src c).isSome
  if cmdReady s src e && bad then
    let x := cmdOf s src e
    .next (answer x (match cmdSpec e.opcode with | none => ST_BAD_COMMAND | some c => (pathStatus src c).getD ST_BAD_COMMAND) []
      (markStarted x s))
  else .next s

end Sys2Proof.Machine
end

