-- ==== Sys2Proof/Machine/MemReq.lean ====
section
/-! DEFINITION. The memory request unit of a tiller: descriptors and their checks, the issue queue, tags and parts, landing,
stale tiles and write acknowledgements (R52 to R60, R173 to R180, R187 to R189). -/

namespace Sys2Proof.Machine

open Sys2Proof

/-! ### Descriptors (Table 6.3) -/

/-- A descriptor as four words. -/
abbrev Desc := Word × Word × Word × Word

def dObj (d : Desc) : Nat := bits d.1 16 0
def dFmt (d : Desc) : Nat := bits d.1 24 17
def dTrans (d : Desc) : Bool := bit d.1 25
def dScaleLand (d : Desc) : Bool := bit d.1 26
def dE3 (d : Desc) : Nat := bits d.1 30 27 + 1
def dDst (d : Desc) : Nat := bits d.1 46 32 * 256
def dElems (d : Desc) : Nat := bits d.1 52 47 + 1
def dE1 (d : Desc) : Nat := bits d.1 58 53 + 1
def dE2 (d : Desc) : Nat := bits d.1 62 59 + 1
def dOffset (d : Desc) : Nat := bits d.2.1 35 0
def dScaleIndex (d : Desc) : Nat := bits d.2.1 63 40
def dS1 (d : Desc) : Int := signedOf 32 (bits d.2.2.1 31 0)
def dS2 (d : Desc) : Int := signedOf 32 (bits d.2.2.1 63 32)
def dS3 (d : Desc) : Int := signedOf 32 (bits d.2.2.2 31 0)
def dScaleDst (d : Desc) : Nat := bits d.2.2.2 54 32
def dKind (d : Desc) : Nat := bits d.2.2.2 56 55
/-- SHEAF and SOURCE of an ACCUM (R191). -/
def dSheaf (d : Desc) : Nat := bits d.2.2.1 47 32
def dSource (d : Desc) : Nat := bits d.2.2.1 63 48
def dRsvOk (d : Desc) : Bool :=
  !bit d.1 31 && !bit d.1 63 && bits d.2.1 39 36 == 0 && bits d.2.2.2 63 57 == 0

/-- A descriptor from its 32 bytes. -/
def descOf (bs : List Byte) : Desc :=
  let w (k : Nat) : Word := word (leValue ((bs.drop (8 * k)).take 8))
  (w 0, w 1, w 2, w 3)

/-- Source lines (R174). -/
def dLines (d : Desc) : Nat := dE1 d * dE2 d * dE3 d
/-- Object byte at which line i starts (R174). -/
def dLineStart (d : Desc) (i : Nat) : Int :=
  (dOffset d : Int) + (i % dE1 d : Nat) * dS1 d + (i / dE1 d % dE2 d : Nat) * dS2 d + (i / (dE1 d * dE2 d) : Nat) * dS3 d

/-- Bytes of a line of a tile (R79). -/
def lineBytes (f : Format) : Nat := 8 * f.bits

/-- Tile-contiguous (R176). -/
def dContiguous (d : Desc) (f : Format) : Bool :=
  dE1 d == 64 && dE2 d == 1 && dE3 d == 1 && dElems d == 64 && !dTrans d && dS1 d == (lineBytes f : Int)

/-- The runs of a request in its object: (position in the tile, object byte, length), lines first, then the MX scale bytes,
then the plain scale byte at the position after the tile (R174, R176, R177, R188). -/
def dRuns (d : Desc) (f : Format) (o : Obj) : List (Nat × Int × Nat) :=
  let eb := f.bits / 8
  (List.range (dLines d)).flatMap (fun i =>
    if dTrans d then (List.range (dElems d)).map (fun j => ((j * 64 + i) * eb, dLineStart d i + ((j * eb : Nat) : Int), eb))
    else [(i * lineBytes f, dLineStart d i, dElems d * f.bits / 8)]) ++
  (if f.isMx then [(512 * f.bits, (dOffset d : Int) + 64 * dS1 d, 128)] else []) ++
  (if dScaleLand d then [(f.tileBytes, ((o.dataBytes + dScaleIndex d : Nat) : Int), 1)] else [])

/-- The checks on the descriptor and the stage (R179 step 1). -/
def dShapeOk (st : StageDesc) (d : Desc) (write : Bool) : Bool :=
  match formatOf (dFmt d) with
  | none => false
  | some f =>
    let accum := write && dKind d == 2
    dRsvOk d && decide (dLines d ≤ 64) && (if write then dKind d != 3 else dKind d == 0) &&
    inRegions st (dDst d) f.tileBytes &&
    (if accum then
      (f == .fp32 || f == .bf16) && dE1 d == 1 && dE2 d == 1 && dE3 d == 1 && dElems d == 1 && !dTrans d && !dScaleLand d &&
      bits d.2.2.1 31 0 == 0 && bits d.2.2.2 31 0 == 0 && decide (dOffset d % 8192 = 0)
    else
      (!dScaleLand d || (inRegions st (dScaleDst d) 1 && f.isFp8)) &&
      (!(f.isMx || (write && dKind d == 1)) || dContiguous d f) &&
      (!dTrans d || decide (8 ≤ f.bits ∧ !f.isMx)) && decide (dElems d * f.bits % 8 = 0))

/-- The granules that a request's object bytes touch. -/
def runGranules (l : List (Nat × Nat × Nat)) : List Nat := (l.flatMap (fun r => granulesOf r.2.1 r.2.2)).eraseDups

/-- A write that R227 refuses: an ACCUM into the deep tier, or a WRITE into a compressed frame. -/
def deepRefused (s : State) (o : Obj) (kind : Nat) (l : List (Nat × Nat × Nat)) : Bool :=
  (kind == 2 || (kind == 0 && o.compress)) && (runGranules l).any (fun g => (writeCopy o (granAt s o g)).1 == 2)

/-- Bytes of an ACCUM's tile, and of a request's tile, at the object: the checks on the object (R179 step 3). -/
def dInObject (d : Desc) (f : Format) (o : Obj) (accum : Bool) : Bool :=
  if accum then decide (dOffset d + 8192 ≤ o.size)
  else (dRuns d f o).all (fun r => decide (0 ≤ r.2.1) && decide (r.2.1 + r.2.2 ≤ o.size))

/-- The status of a rejected descriptor, with the record of a refused access (R179, R232, R538); none when it is accepted. -/
def dCheck (t : Nat) (d : Desc) (write : Bool) (s : State) : Option Nat × State :=
  let u := tillerAt s t
  let g := curCfg u
  let o := objAt s (dObj d)
  let accum := write && dKind d == 2
  let known := if o.valid then some (dObj d) else none
  if !dShapeOk g.stage d write then (some ST_STAGE_FAULT, s)
  else match refusal s g.chan write o, formatOf (dFmt d) with
    | some r, _ => (some r.1, plcFault 0 t write r.2 g.chan known (o.baseDa + dOffset d) s)
    | none, none => (some ST_STAGE_FAULT, s)
    | none, some f =>
      let l := (dRuns d f o).map (fun r => (r.1, r.2.1.toNat, r.2.2))
      if !dInObject d f o accum then (some ST_STAGE_FAULT, s)
      else if write && deepRefused s o (dKind d) (if accum then [(0, dOffset d, 8192)] else l) then (some ST_STAGE_FAULT, s)
      else (none, s)

/-! ### The issue queue (R59) -/

/-- Requests in the issue queue. -/
def queued (u : Tiller) : Nat := (u.reqs.filter (fun q => !q.sent)).length
/-- The prefetch tracker's entries in use (R54). -/
def trackerUsed (u : Tiller) : Nat := (u.reqs.filter tracked).length

/-- Tags held in all, and by the requests of one stage. -/
def tagsHeld (u : Tiller) : Nat := (u.reqs.filter holdsTag).length
def tagsOf (u : Tiller) (who : Nat) : Nat := (u.reqs.filter (fun q => holdsTag q && q.who == who)).length
/-- Every tag is taken, so that a queued request waits for one (R60). -/
def noTag (u : Tiller) : Bool := decide (48 ≤ tagsHeld u)

/-- A request put at the end of the issue queue under the next number, with the TAG_LIMIT and the channel of its stage. -/
def enqueue (t : Nat) (q : MemReq) (s : State) : State :=
  modTiller s t (fun u => { u with
    reqs := u.reqs ++ [{ q with rid := u.nextRid, limit := effTags (cfgBy u q.who).stage, ch := (cfgBy u q.who).chan, starved := noTag u }]
    nextRid := u.nextRid + 1 })

/-- A request that goes back to the end of the issue queue. -/
def requeue (t rid : Nat) (f : MemReq → MemReq) (s : State) : State :=
  modTiller s t (fun u => match u.reqs.find? (fun q => q.rid == rid) with
    | none => u
    | some q => { u with reqs := u.reqs.filter (fun x => x.rid != rid) ++
                                 [{ f q with sent := false, landed := false, stale := false, starved := noTag u }] })

/-- A request removed. -/
def dropReq (t rid : Nat) (s : State) : State := modTiller s t (fun u => { u with reqs := u.reqs.filter (fun q => q.rid != rid) })

/-- Range of a tile's source bytes, from the first to the one after the last (R54): the scale byte of R177 lies apart. -/
def rangeOf (tileBytes : Nat) (l : List (Nat × Nat × Nat)) : Nat × Nat :=
  let l := l.filter (fun r => decide (r.1 < tileBytes))
  match l with
  | [] => (0, 0)
  | r :: rest => rest.foldl (fun a x => (min a.1 x.2.1, max a.2 (x.2.1 + x.2.2))) (r.2.1, r.2.1 + r.2.2)

/-- A tile read as MREQ issues it. -/
def readReq (u : Tiller) (d : Desc) (mb : Nat) (w : Word) (o : Obj) : MemReq :=
  match formatOf (dFmt d) with
  | none => {}
  | some f =>
    let l := (dRuns d f o).map (fun r => (r.1, r.2.1.toNat, r.2.2))
    let r := rangeOf f.tileBytes l
    { who := u.cur, d0 := d.1, d1 := d.2.1, d2 := d.2.2.1, d3 := d.2.2.2, obj := dObj d, fmt := dFmt d, mb := mb, runs := l,
      lo := r.1, hi := r.2, dst := dDst d, scaleDst := if dScaleLand d then some (dScaleDst d) else none,
      pc := (curCtx u).pc, word := w }

/-- MREQ (R173 to R179): the descriptor at SA is checked and the request queued. -/
def execMreq (t : Nat) (w : Word) (s : State) : Host.Outcome State Fault Refusal :=
  instr 0x62 regsAB t w s fun u s =>
    let a := bits (sreg u (iSA w)) 22 0
    if !inRegions (curCfg u).stage a 32 then faultAt t 3 ST_STAGE_FAULT s
    else if readHazard u [(a, a + 32)] then waitAt t 11 s
    else
      let r := tsRead t a 32 s
      let d := descOf r.1
      let c := dCheck t d false r.2
      match c.1 with
      | some status => faultAt t 8 status c.2
      | none =>
        if 256 ≤ queued u ∨ 512 ≤ trackerUsed u then waitAt t 8 s
        else issued t (enqueue t (readReq u d (bits (sreg u (iSB w)) 15 0) w (objAt s (dObj d))) c.2)

/-- A write as MWRITE issues it, with the source bytes of its tile. -/
def writeReq (u : Tiller) (d : Desc) (mb : Nat) (w : Word) (o : Obj) (src : List Byte) : MemReq :=
  let q := readReq u d mb w o
  if dKind d = 2 then { q with kind := 3, src := src, scaleDst := none, runs := [], lo := 0, hi := 0,
                               sheaf := dSheaf d, source := dSource d }
  else { q with kind := dKind d + 1, src := src, scaleDst := none }

/-- MWRITE (R188, R191): the descriptor at SA is checked, the tile read (R112, R114) and the request queued. -/
def execMwrite (t : Nat) (w : Word) (s : State) : Host.Outcome State Fault Refusal :=
  instr 0x64 regsAB t w s fun u s =>
    let a := bits (sreg u (iSA w)) 22 0
    if !inRegions (curCfg u).stage a 32 then faultAt t 3 ST_STAGE_FAULT s
    else if readHazard u [(a, a + 32)] then waitAt t 11 s
    else
      let r := tsRead t a 32 s
      let d := descOf r.1
      let c := dCheck t d true r.2
      match c.1 with
      | some status => faultAt t 8 status c.2
      | none =>
        let n := tileSize (dFmt d)
        let sc := dScaleLand d && dKind d != 2
        if 256 ≤ queued u then waitAt t 8 s
        else if readHazard u ((dDst d, dDst d + n) :: (if sc then [(dScaleDst d, dScaleDst d + 1)] else [])) then waitAt t 11 s
        else
          let x := tsRead t (dDst d) n c.2
          let y := if sc then tsRead t (dScaleDst d) 1 x.2 else ([], x.2)
          let q := writeReq u d (bits (sreg u (iSB w)) 15 0) w (objAt s (dObj d)) (x.1 ++ y.1)
          issued t (cntInc (.tlr t) Reg.TLR_CNT_TILES (enqueue t q y.2))

/-! ### Marks and tags (R53, R58, R60) -/

/-- The index of a mark of a configuration that holds a microbatch (R53). -/
def markOf (s : State) (g : Cfg) (mb : Nat) : Option Nat :=
  (g.stage.deps.zipIdx.find? (fun p => p.1.valid && decide (p.1.mbAt ≤ mb) &&
    !tokenDone (chanAt s g.chan).rings p.1.token g.loadPos)).map (·.2)

/-- Effective TAG_LIMIT of the stage that asks (R59); of a stage that has left its bank, the one its requests carry. -/
def limitOf (u : Tiller) (who : Nat) : Nat :=
  if who ≤ 2 then effTags (cfgBy u who).stage
  else match u.reqs.find? (fun q => q.who == who) with | some q => q.limit | none => 48

/-- The share of the active stage (R60): its TAG_LIMIT until its last request has been issued, then what it holds. Which request is the
last is settled when the program ends (log entry 119). -/
def activeShare (u : Tiller) : Nat :=
  if !u.act.valid then 0
  else if u.ctxA.ended && !(u.reqs.any (fun q => q.who == 0 && !q.sent)) then tagsOf u 0 else effTags u.act.stage

/-- A tag may go to a request of a stage (R58, R60). -/
def tagFor (u : Tiller) (who : Nat) : Bool :=
  decide (tagsHeld u < 48) && decide (tagsOf u who < limitOf u who) &&
  (who == 0 || decide (activeShare u - tagsOf u 0 ≤ 48 - (tagsHeld u + 1)))

/-! ### Parts (R178) -/

/-- Bytes of an ACCUM's tile at its object: those of the sheaf as registered (R191). -/
def accumRuns (s : State) (c : Nat) (q : MemReq) : List (Nat × Nat × Nat) :=
  let d : Desc := (q.d0, q.d1, q.d2, q.d3)
  match (chanAt s c).trn.sheaves.find? (fun f => f.num == q.sheaf) with
  | some f => [(0, dOffset d, if f.bf16 then 8192 else 16384)]
  | none => [(0, dOffset d, 8192)]

/-- The pieces of a request at its homes: (position, key, length, object byte). `alt` asks for the other copy where R226 allows
it. -/
def reqPieces (s : State) (fld : Nat) (o : Obj) (write alt : Bool) (l : List (Nat × Nat × Nat)) : List (Nat × Nat × Nat × Nat) :=
  l.flatMap (fun r => (cutBlocks (r.2.2 / 4096 + 2) r.2.1 r.2.2).map (fun p =>
    let gr := granAt s o (p.1 / 65536)
    let c := if write then writeCopy o gr else readCopy o gr fld
    let c := if alt && gr.replValid && (o.mode == 1 || (o.mode == 2 && !gr.dirty)) then
        (if c.2.2 then (gr.homeTier, gr.home, false) else (gr.replTier, gr.repl, true)) else c
    (r.1 + (p.1 - r.2.1), granKey c.1 c.2.1 (p.1 % 65536), p.2, p.1)))

/-- The parts of a request, one for each home (R178). -/
def buildParts (s : State) (fld : Nat) (o : Obj) (write alt : Bool) (l : List (Nat × Nat × Nat)) : List Part :=
  let ps := reqPieces s fld o write alt l
  ((ps.map (fun p => keyHome p.2.1)).eraseDups).map (fun h =>
    let mine := ps.filter (fun p => keyHome p.2.1 == h)
    { home := h, lead := match mine with | p :: _ => bankNo h (keyBlock p.2.1) | [] => 0,
      runs := mine.map (fun p => (p.1, p.2.1, p.2.2.1)),
      blocks := (mine.map (fun p => (keyBlock p.2.1, p.2.2.2 - p.2.2.2 % 4096))).eraseDups })

/-- A request writes. -/
def reqWrites (q : MemReq) : Bool := q.kind == 1 || q.kind == 2 || q.kind == 3

/-- The runs of a request at its object. -/
def reqRuns (s : State) (q : MemReq) : List (Nat × Nat × Nat) :=
  if q.kind = 3 then accumRuns s q.ch q else q.runs

/-- The parts that a request sends now: all of them, or those returned (R193). -/
def sendParts (s : State) (t : Nat) (q : MemReq) : List Part :=
  if q.parts.isEmpty then buildParts s (tillerField t) (objAt s q.obj) (reqWrites q) q.fromRepl (reqRuns s q)
  else q.parts

/-- Parts of a tiller admitted at a bank. -/
def partsAtBank (u : Tiller) (home lead : Nat) : Nat :=
  ((u.reqs.flatMap (·.parts)).filter (fun p => p.st == 1 && p.home == home && p.lead == lead)).length

/-- A queued request may be sent now (R53, R180, R215, R237). -/
def sendable (s : State) (t : Nat) (u : Tiller) (q : MemReq) : Bool :=
  !q.sent && tagFor u q.who &&
  (q.kind != 0 || (markOf s (cfgBy u q.who) q.mb).isNone) &&
  (!reqWrites q || (runGranules (reqRuns s q)).all (fun g => !(granAt s (objAt s q.obj) g).busy)) &&
  (runGranules (reqRuns s q)).all (fun g => (recordDown s t ((objAt s q.obj).mapIndex + g)).isNone) &&
  (sendParts s t q).all (fun p => p.st != 0 || decide (partsAtBank u p.home p.lead < 4))

/-- The request that the issue queue serves: the oldest that can go (R59); of those that have waited for a tag, one of the active stage
takes a freed tag first (R60). -/
def nextToSend (s : State) (t : Nat) : Option MemReq :=
  let u := tillerAt s t
  let l := u.reqs.filter (sendable s t u)
  match l.find? (fun q => q.starved && q.who == 0) with
  | some q => some q
  | none => l.head?

/-- Every request still queued waits for a tag once none is free (R60). -/
def starve (u : Tiller) : Tiller :=
  if noTag u then { u with reqs := u.reqs.map (fun q => if q.sent then q else { q with starved := true }) } else u

/-- What a queued request that cannot be sent shows: a write held for its granule is counted once (R237), and a lookup that waits for a
stack is that stack's one miss read of the tiller (R182, R215). -/
def waitingReq (t rid : Nat) (s : State) : State :=
  match (tillerAt s t).reqs.find? (fun q => q.rid == rid && !q.sent) with
  | none => s
  | some q =>
    let o := objAt s q.obj
    let gs := runGranules (reqRuns s q)
    let s := if reqWrites q && !q.heldOnce && gs.any (fun g => (granAt s o g).busy) then
        cntInc .plc Reg.PLC_CNT_HELD_WRITES (modReq t rid (fun q => { q with heldOnce := true }) s) else s
    match gs.findSome? (fun g => recordDown s t (o.mapIndex + g)) with
    | some h => noteMiss t h s
    | none => s

/-- MEM_REQUEST_SEND (R58 to R60, R180, R186): the request takes a tag and its parts go to their homes; a home that is down
answers at once, poisoned. -/
def execMemRequestSend (t rid : Nat) (s : State) : Host.Outcome State Fault Refusal :=
  atUnit t 128 <| .next <|
    match nextToSend s t with
    | none => waitingReq t rid s
    | some q =>
      if q.rid ≠ rid ∨ quadFenced s t then waitingReq t rid s
      else
        let o := objAt s q.obj
        let parts := sendParts s t q
        let gs := runGranules (reqRuns s q)
        let s := gs.foldl (fun s g => let s := xlatTouch t (o.mapIndex + g) s; if reqWrites q then markDirty s q.obj g else s) s
        let down := homeDown s
        let parts' := parts.map (fun p =>
          if p.st ≠ 0 then p else if down p.home then { p with st := 2, poison := true, cause := 9 } else { p with st := 1 })
        let s := (parts.filter (fun p => p.st == 0 && !down p.home)).foldl (fun s p => poolAdd p.home t rid s) s
        let s := modReq t rid (fun q => { q with sent := true, landed := false, parts := parts', fetches := q.fetches + (if q.retried then 0 else 1) }) s
        modTiller s t starve

/-! ### Landing (R175, R178, R187, R226) -/

/-- A part has its answer. -/
def answered (p : Part) : Bool := p.st == 2 || p.st == 3

/-- Every granule that a poisoned part touches has a second copy to read (R187, R226). -/
def secondCopy (s : State) (q : MemReq) : Bool :=
  let o := objAt s q.obj
  (q.parts.filter (·.poison)).all (fun p => p.blocks.all (fun b =>
    let r := granAt s o (b.2 / 65536)
    r.replValid && (o.mode == 1 || (o.mode == 2 && !r.dirty))))

/-- The tile's bytes from what its parts delivered; the rest is +0 (R175). -/
def tileOf (q : MemReq) (n : Nat) : List Byte :=
  (q.parts.flatMap (·.data)).foldl (fun l d => l.take d.1 ++ d.2 ++ l.drop (d.1 + d.2.length)) (List.replicate n 0)

/-- The scale byte that a tile carries: its own in E4M3 and E5M2, 127 in FP32, BF16 and FP16 (R143, R144); an MX tile holds its own. -/
def tileByte (fmt scale : Nat) : Nat :=
  match formatOf fmt with
  | some f => if f.isFp8 then scale else if f.isMx then 0 else 127
  | none => 0

/-- A slot of a prefetch filled (R36, R39). -/
def fillSlot (t : Nat) (q : MemReq) (scale : Nat) (s : State) : State :=
  let put_ (l : List Slot) (seq : Nat) : List Slot := l.zipIdx.map (fun p =>
    if p.2 = q.slot.2 then { p.1 with st := 2, scale := scale, seq := seq } else p.1)
  modCfgBy q.who t (fun g => if q.kind = 4 then { g with inSlots := put_ g.inSlots 0 }
    else { g with wSlots := put_ g.wSlots ((g.wSlots.getD q.slot.2 {}).seq) }) s

/-- The husk blocks of a request whose second reading has come, well or not, are put on record (R260, R261, Table 8.6). -/
def failsOver (t : Nat) (q : MemReq) (recovered : Bool) (s : State) : State :=
  modReq t q.rid (fun q => { q with fails := [] })
    (q.fails.foldl (fun s f => huskLog (edgeOfHome f.1) f.2.1 f.2.2 (some q.ch) recovered s) s)

/-- TILE_LAND (R178): the last part has landed and the tag is released. A poisoned tile is fetched once more from the other
copy where there is one; the counts of a husk block's refetch are those of Table 8.6. -/
def execTileLand (t rid : Nat) (s : State) : Host.Outcome State Fault Refusal :=
  atUnit t 128 <| .next <|
    let u := tillerAt s t
    match u.reqs.find? (fun q => q.rid == rid) with
    | none => s
    | some q =>
      if !(tracked q && q.sent && !q.landed && q.parts.all answered) || landHazard u rid (reqRanges q) || quadFenced s t then s
      else
        let n := tileSize q.fmt
        let bad := q.parts.find? (·.poison)
        match bad with
        | some p =>
          if !q.retried && secondCopy s q && decide (256 ≤ queued u) then s
          else if !q.retried && secondCopy s q then
            requeue t rid (fun q => { q with retried := true, fromRepl := true, poisoned := false, parts := [] }) s
          else
            let s := tsForget t q.dst (q.dst + n) (failsOver t q false s)
            let s := if q.kind = 4 ∨ q.kind = 5 then fillSlot t q 0 s else s
            modReq t rid (fun q => { q with landed := true, poisoned := true, cause := p.cause }) s
        | none =>
          let bs := tileOf q (n + 1)
          let sc := tileByte q.fmt (bs.getD n 0).toNat
          let s := tsWrite t q.dst (bs.take n) (failsOver t q true s)
          let s := match q.scaleDst with | some a => tsWrite t a [bs.getD n 0] s | none => s
          let s := if q.kind = 4 ∨ q.kind = 5 then fillSlot t q sc s else s
          modReq t rid (fun q => { q with landed := true }) s

/-- The status of a poisoned request (R187, R194, Table 8.6). -/
def poisonStatus (cause : Nat) : Nat :=
  if 1 ≤ cause ∧ cause ≤ 6 then huskStatus cause else if cause = 11 then ST_SHEAF_ORDER else ST_MEM_POISON

/-- A fault with cause POISON at the instruction that the request names (R187). -/
def poisonFault (t : Nat) (q : MemReq) (s : State) : State :=
  seqFaultOf t q.ch (if q.who = 1 then 1 else 0) q.pc 10 q.word (poisonStatus q.cause) s

/-- WRITE_ACK (R187, R189, R193): every part is answered and the tag is released; a poisoned acknowledgement stops the stage;
returned parts wait to be offered again. -/
def execWriteAck (t rid : Nat) (s : State) : Host.Outcome State Fault Refusal :=
  atUnit t 128 <| .next <|
    match (tillerAt s t).reqs.find? (fun q => q.rid == rid) with
    | none => s
    | some q =>
      if !(reqWrites q && q.sent && !q.landed && q.parts.all answered) then s
      else match q.parts.find? (·.poison) with
        | some p => poisonFault t { q with cause := p.cause } (dropReq t rid s)
        | none =>
          if q.parts.any (fun p => p.st == 3) then modReq t rid (fun q => { q with landed := true }) s
          else dropReq t rid s

/-! ### Stale tiles (R54, R55) -/

/-- STALE_NOTICE: the tracker marks the tile stale; an ordered fetch is consumed as returned. -/
def execStaleNotice (t rid : Nat) (s : State) : Host.Outcome State Fault Refusal :=
  atUnit t 128 <| onlyIf (s.notices.contains (t, rid)) s fun s =>
    modReq t rid (fun q => { q with stale := !q.ordered })
      { s with notices := s.notices.erase (t, rid) }

/-- A stale tile fetched again; the ninth fetch is ordered (R55). -/
def refetch (t : Nat) (q : MemReq) (s : State) : State :=
  let s := cntInc (.tlr t) Reg.TLR_CNT_REFETCH s
  let s := if q.fetches = 8 then setEv (.tlr t) Reg.TLR_EVENT Bit.TLR_EVENT_REFETCH_ORDERED s else s
  let s := if q.kind = 4 ∨ q.kind = 5 then
      modCfgBy q.who t (fun g =>
        let wait (l : List Slot) : List Slot := l.zipIdx.map (fun p => if p.2 = q.slot.2 then { p.1 with st := 1 } else p.1)
        if q.kind = 4 then { g with inSlots := wait g.inSlots } else { g with wSlots := wait g.wSlots }) s
    else s
  requeue t q.rid (fun q => { q with parts := [], ordered := q.ordered || q.fetches == 8, retried := false, fromRepl := false }) s

/-- The sequencer refetches a stale tile before it consumes it (R54); with 256 requests queued it issues no memory work (R59). -/
def refetchAt (t wait : Nat) (q : MemReq) (s : State) : State :=
  if 256 ≤ queued (tillerAt s t) then waitAt t 8 s else waitAt t wait (refetch t q s)

/-- WAITM (R53, R54, R187): the point of consumption of the tile requested to SA. -/
def execWaitm (t : Nat) (w : Word) (s : State) : Host.Outcome State Fault Refusal :=
  instr 0x63 regsAB t w s fun u s =>
    let a := bits (sreg u (iSA w)) 22 0
    let rs := u.reqs.filter (fun q => q.kind == 0 && q.who == u.cur && q.dst == a)
    match rs with
    | [] => faultAt t 9 ST_STAGE_FAULT s
    | q :: _ =>
      if rs.any (fun q => (markOf s (curCfg u) q.mb).isSome) then waitAt t 10 s
      else if rs.any (fun q => !q.landed) then waitAt t 3 s
      else match rs.find? (·.stale), rs.find? (·.poisoned) with
        | some x, _ => refetchAt t 3 x s
        | none, some x => faultAt t 10 (poisonStatus x.cause) s
        | none, none => issued t (rs.foldl (fun s x => dropReq t x.rid s) (dropReq t q.rid s))

/-! ### Prefetch (R46, R52) -/

/-- A shadow stage may prefetch before GO (R46): EARLY_PF, and its input and weight regions apart from the active stage's. -/
def earlyOk (u : Tiller) : Bool :=
  let d := u.shadow.stage
  d.earlyPf && (!u.act.valid ||
    !overlap (tsFirst d, tsFirst d + (d.tsIn + d.tsW) * 1024) (tsFirst u.act.stage, tsEnd u.act.stage))

/-- The memory edge into an input port: the first, where a graph names several, which the spec does not forbid (log entry 120). -/
def memEdge (g : Cfg) (port : Nat) : Option Edge := (inEdges g).find? (fun e => e.dstPort == port && e.srcStage == 255)

/-- The tiller's chain, when it is a member of one (R38). -/
def chainOf (g : Cfg) (t : Nat) : Option Chain := g.graph.chains.find? (fun c => c.stageId == g.stage.stageId && c.members.contains t)
/-- A tiller of a product stage fetches its own weights: it is in no chain, or a chain's head (R38, R39). -/
def fetchesWeights (g : Cfg) (t : Nat) : Bool :=
  isProduct g.stage.kind && (match chainOf g t with | some c => c.members.head? == some t | none => true)

/-- Order of coordinates. -/
def coordLt (a b : Nat × Nat × Nat) : Bool :=
  decide (a.1 < b.1) || (a.1 == b.1 && (decide (a.2.1 < b.2.1) || (a.2.1 == b.2.1 && decide (a.2.2 < b.2.2))))

/-- A prefetch of a tile at an object offset, into a slot. -/
def prefetchReq (who kind : Nat) (o : Obj) (oi fmt off mb : Nat) (slot : Slot) (idx : Nat) : MemReq :=
  let n := tileSize fmt
  let fp8 := (formatOf fmt).any (·.isFp8)
  { kind := kind, who := who, obj := oi, fmt := fmt, mb := mb,
    runs := (0, off, n) :: (if fp8 then [(n, o.dataBytes + off / n, 1)] else []),
    lo := off, hi := off + n, dst := slot.addr, slot := (slot.port, idx) }

/-- PREFETCH_ISSUE (R46, R50, R52): the next tile of a memory input (port 0–3) or of the weight stream (port 4), in consumption
order. The event gives the tile's coordinates, its byte offset from MEM_OFFSET or WEIGHT_OFFSET and whether it is the input's
last, since the spec gives no layout of them (log entry 30). -/
def execPrefetchIssue (t who port mb rb cb off : Nat) (last : Bool) (s : State) : Host.Outcome State Fault Refusal :=
  atUnit t 128 <| .next <|
    let u := tillerAt s t
    let g := cfgBy u who
    let src := if port = 4 then (if fetchesWeights g t then some (g.stage.weightObj, g.stage.weightOffset, g.stage.fmtW) else none)
      else (memEdge g port).map (fun e => (e.memObj, e.memOffset, e.fmt))
    let slots := (if port = 4 then g.wSlots else g.inSlots).zipIdx.filter (fun p => p.1.st == 0 && (port == 4 || (p.1.port == port && p.1.producer == 255)))
    let before := g.pfLast.find? (fun p => p.1 == port)
    let ordered := match before with | some p => coordLt p.2 (mb, rb, cb) || (port == 4 && !coordLt (mb, rb, cb) p.2) || port == 4 | none => true
    let running := if who = 0 then g.valid && !u.ctxA.ended else if who = 1 then g.valid && !u.ctxD.ended else g.valid && g.complete && earlyOk u
    match src, slots with
    | some (oi, base, fmt), (slot, idx) :: _ =>
      let o := objAt s oi
      if !running || quadFenced s t || decide (512 ≤ trackerUsed u) || decide (256 ≤ queued u) || decide (2 < who) || decide (4 < port) ||
         decide (limitOf u who ≤ (u.reqs.filter (fun q => q.who == who && (holdsTag q || !q.sent))).length) ||
         g.ends.contains (port, 255, 255) || !ordered || decide (g.stage.microbatches ≤ mb) || decide (o.size < base + off + tileSize fmt) then s
      else match markOf s g mb with
        | some m => modCfgBy who t (fun g => { g with pfMark := some m }) s
        | none =>
          let q := prefetchReq who (if port = 4 then 5 else 4) o oi fmt (base + off) mb slot idx
          let fill (l : List Slot) (seq : Nat) : List Slot := l.zipIdx.map (fun p =>
            if p.2 = idx then { p.1 with st := 1, mb := mb, rb := rb, cb := cb, scale := 0, seq := seq, forwarded := false } else p.1)
          let s := modCfgBy who t (fun g => { g with
            inSlots := if port = 4 then g.inSlots else fill g.inSlots 0
            wSlots := if port = 4 then fill g.wSlots g.wSeq else g.wSlots
            wSeq := if port = 4 then g.wSeq + 1 else g.wSeq
            pfLast := (port, mb, rb, cb) :: g.pfLast.filter (fun p => p.1 != port)
            pfMark := none
            ends := if last then g.ends ++ [(port, 255, 255)] else g.ends }) s
          enqueue t q s
    | _, _ => s

end Sys2Proof.Machine
end

