-- ==== Sys2Proof/Machine/Streams.lean ====
section
/-! DEFINITION. Streams between tillers and weight relay chains: SEND and its copies, input queues, credits and END, weight
slots and their forwarding (R36 to R41). -/

namespace Sys2Proof.Machine

open Sys2Proof

/-- The bank of a tiller that holds a stage of the graph loaded by the STAGE_LOAD at a count: 0 active, 1 deferred, 2 shadow. -/
def whoOf (u : Tiller) (c pos stage : Nat) : Option Nat :=
  [0, 1, 2].find? (fun w => let g := cfgBy u w; g.valid && g.chan == c && g.loadPos == pos && g.stage.stageId == stage)
/-- The bank of a tiller whose stage of that graph takes streams: the one stage that is not a DEFER stage, whose inputs come from
memory (R309). -/
def takerOf (u : Tiller) (c pos : Nat) : Option Nat :=
  [0, 2].find? (fun w => let g := cfgBy u w; g.valid && g.chan == c && g.loadPos == pos)

/-! ### SEND (R36) -/

/-- The consumers that a tile at (rb, cb) goes to over the edges out of a port: (tiller, input port) (Table 2.5). -/
def targetsOf (g : Cfg) (port rb cb : Nat) : List (Nat × Nat) :=
  (((outEdges g).filter (fun e => e.srcPort == port && e.dstStage != 255)).flatMap (fun e =>
    match stageOf g.graph e.dstStage with
    | none => []
    | some q => (q.tillers.zipIdx.filter (fun p => e.dist == 2 || (inSpanOf rb (rowSpan q p.2) &&
        (e.dist == 0 || inSpanOf cb (colSpan q p.2))))).map (fun p => (p.1, e.dstPort)))).eraseDups

/-- Credits held for a consumer's queue. -/
def creditsFor (g : Cfg) (x : Nat × Nat) : Nat := match g.credits.find? (fun c => c.1 == x.1 && c.2.1 == x.2) with | some c => c.2.2 | none => 0
/-- One credit taken, or given back. -/
def takeCredit (x : Nat × Nat) (g : Cfg) : Cfg :=
  { g with credits := g.credits.map (fun c => if c.1 == x.1 && c.2.1 == x.2 then (c.1, c.2.1, c.2.2 - 1) else c) }
def giveCredit (x : Nat × Nat) (g : Cfg) : Cfg :=
  { g with credits := g.credits.map (fun c => if c.1 == x.1 && c.2.1 == x.2 then (c.1, c.2.1, c.2.2 + 1) else c) }

/-- Copies of a SEND leave for every target with a credit; when none is left the SEND completes, is counted and the program
goes on, else it waits for a credit. -/
def sendCopies (t : Nat) (x : Send) (s : State) : State :=
  let g := curCfg (tillerAt s t)
  let go := x.targets.filter (fun y => decide (0 < creditsFor g y))
  let rest := x.targets.filter (fun y => !decide (0 < creditsFor g y))
  let s := modCfg t (fun g => go.foldl (fun g y => takeCredit y g) g) s
  let fl := go.map (fun y => ({ kind := 0, src := t, dst := y.1, port := y.2, mb := x.mb, rb := x.rb, cb := x.cb,
                                scale := x.scale, ch := g.chan, tag := g.loadPos, stage := g.stage.stageId, data := x.data } : Flight))
  let s := { s with flights := s.flights ++ fl }
  if rest.isEmpty then issued t (cntInc (.tlr t) Reg.TLR_CNT_TILES (modTiller s t (fun u => { u with send := none })))
  else waitAt t 9 (modTiller s t (fun u => { u with send := some { x with targets := rest } }))

/-- The position of a tile of a stream to memory from MEM_OFFSET on, in tiles: a function of the stream and of the tile's coordinates
that the spec does not give (log entry 30). -/
def memTile (d : StageDesc) (e : Edge) (mb rb cb : Nat) : Nat :=
  Config.tilePos [d.stageId, d.rows, d.cols, d.microbatches, d.rowGroups, d.colGroups, e.srcPort, e.fmt, e.memObj, e.memOffset] mb rb cb

/-- The write of a tile sent to memory, at its position from MEM_OFFSET on (log entry 30). -/
def memSend (t : Nat) (e : Edge) (bs : List Byte) (scale mb rb cb : Nat) (w : Word) (s : State) : State :=
  let u := tillerAt s t
  let n := tileSize e.fmt
  let o := objAt s e.memObj
  let off := e.memOffset + memTile (curCfg u).stage e mb rb cb % max 1 ((o.size - e.memOffset) / n) * n
  let fp8 := (formatOf e.fmt).any (·.isFp8)
  enqueue t { kind := 2, who := u.cur, obj := e.memObj, fmt := e.fmt, mb := mb, lo := off, hi := off + n,
              runs := (0, off, n) :: (if fp8 then [(n, o.dataBytes + off / n, 1)] else []),
              src := bs ++ [BitVec.ofNat 8 scale], pc := (curCtx u).pc, word := w } s

/-- SEND (R36, R37, R144): the tile at SA goes to the consumers of the port. -/
def execSend (t : Nat) (w : Word) (s : State) : Host.Outcome State Fault Refusal :=
  instr 0x65 regsAB t w s fun u s =>
    let g := curCfg u
    let port := bits (iImm w) 1 0
    let b := sreg u (iSB w)
    let a := bits (sreg u (iSA w)) 22 0
    match (outEdges g).filter (fun e => e.srcPort == port) with
    | [] => faultAt t 2 ST_STAGE_FAULT s
    | e :: es =>
      let n := tileSize e.fmt
      let mems := (e :: es).filter (fun e => e.dstStage == 255)
      if !inRegions g.stage a n then faultAt t 3 ST_STAGE_FAULT s
      else if mems.any (fun e => decide ((objAt s e.memObj).size < e.memOffset + tileSize e.fmt)) then faultAt t 8 ST_STAGE_FAULT s
      else if readHazard u [(a, a + n)] then waitAt t 11 s
      else if !mems.isEmpty && decide (256 < queued u + mems.length) then waitAt t 8 s
      else
        let r := tsRead t a n s
        let scale := tileByte e.fmt (bits b 63 56)
        let s := mems.foldl (fun s e => memSend t e r.1 scale (bits b 15 0) (bits b 33 16) (bits b 51 34) w s) r.2
        sendCopies t { port := port, mb := bits b 15 0, rb := bits b 33 16, cb := bits b 51 34, scale := scale, data := r.1,
                       targets := targetsOf g port (bits b 33 16) (bits b 51 34) } s

/-! ### Arrival (R36, R37) -/

/-- The list without the first element that satisfies a test. -/
def removeFirst {α : Type} (p : α → Bool) : List α → List α
  | [] => []
  | x :: r => if p x then r else x :: removeFirst p r

/-- What travels to a tiller from another: the oldest of its kind. -/
def isFlight (kind dst src port : Nat) (f : Flight) : Bool := f.kind == kind && f.dst == dst && f.src == src && f.port == port

/-- STREAM_TILE_ARRIVE: a tile lands in a free slot of its producer's queue; a write to bytes still to be read waits (R114). -/
def execStreamTileArrive (dst src port : Nat) (s : State) : Host.Outcome State Fault Refusal :=
  atUnit dst 128 <| .next <|
    match s.flights.find? (isFlight 0 dst src port) with
    | none => s
    | some f =>
      let u := tillerAt s dst
      let s' := { s with flights := removeFirst (isFlight 0 dst src port) s.flights }
      match takerOf u f.ch f.tag with
      | none => s'
      | some who =>
        let g := cfgBy u who
        match g.inSlots.zipIdx.find? (fun p => p.1.st == 0 && p.1.port == port && p.1.producer == src && p.1.stage == f.stage) with
        | none => s
        | some (slot, i) =>
          if quadFenced s dst || writeHazard u [(slot.addr, slot.addr + slot.size)] then s
          else
            let s := tsWrite dst slot.addr f.data s'
            modCfgBy who dst (fun g => { g with
              inSlots := g.inSlots.set i { slot with st := 2, mb := f.mb, rb := f.rb, cb := f.cb, scale := f.scale } }) s

/-- STREAM_END_ARRIVE: END of a producer, behind its tiles. -/
def execStreamEndArrive (dst src port : Nat) (s : State) : Host.Outcome State Fault Refusal :=
  atUnit dst 128 <| .next <|
    match s.flights.find? (isFlight 1 dst src port) with
    | none => s
    | some f =>
      if s.flights.any (fun x => isFlight 0 dst src port x && x.stage == f.stage) || quadFenced s dst then s
      else
        let s := { s with flights := removeFirst (isFlight 1 dst src port) s.flights }
        match takerOf (tillerAt s dst) f.ch f.tag with
        | none => s
        | some who => modCfgBy who dst (fun g => { g with ends := g.ends ++ [(port, src, f.stage)] }) s

/-- STREAM_CREDIT_RETURN: a credit comes back to producer dst from input port `port` of consumer src; a stalled copy leaves. -/
def execStreamCreditReturn (dst src port : Nat) (s : State) : Host.Outcome State Fault Refusal :=
  atUnit dst 128 <| .next <|
    match s.flights.find? (isFlight 2 dst src port) with
    | none => s
    | some f =>
      if quadFenced s dst then s
      else
        let s := { s with flights := removeFirst (isFlight 2 dst src port) s.flights }
        match whoOf (tillerAt s dst) f.ch f.tag f.stage with
        | none => s
        | some who =>
          let s := modCfgBy who dst (giveCredit (src, port)) s
          let u := tillerAt s dst
          match u.send with
          | some x => if who == u.cur && x.targets.contains (src, port) then sendCopies dst x s else s
          | none => s

/-! ### WAITIN and RELIN (R36, R37) -/

/-- A producer of a port has a tile present, or has sent END and nothing of it is awaited. -/
def producerReady (g : Cfg) (port : Nat) (p : Nat × Nat) : Bool :=
  g.inSlots.any (fun q => q.port == port && q.producer == p.1 && q.stage == p.2 && q.st == 2) ||
  (g.ends.contains (port, p) && !g.inSlots.any (fun q => q.port == port && q.producer == p.1 && q.stage == p.2 && q.st == 1))

/-- The lowest tile in the queues of a port, present or awaited from memory: a tile that is fetched again keeps its place. -/
def lowestTile (g : Cfg) (port : Nat) : Option (Slot × Nat) :=
  (g.inSlots.zipIdx.filter (fun p => p.1.port == port && (p.1.st == 1 || p.1.st == 2))).foldl (fun best p =>
    match best with
    | none => some p
    | some b => if coordLt (p.1.mb, p.1.rb, p.1.cb) (b.1.mb, b.1.rb, b.1.cb) then some p else best) none

/-- The request that fills a slot of a bank. -/
def slotReq (u : Tiller) (who kind idx : Nat) : Option MemReq :=
  u.reqs.find? (fun q => q.who == who && q.kind == kind && q.slot.2 == idx)

/-- A landed tile consumed: refetched when stale, a fault when poisoned (R54, R187), held by its mark (R53); else its tracker
entry is cleared and `k` goes on. -/
def consume (t kind idx mb wait : Nat) (s : State) (k : State → State) : State :=
  let u := tillerAt s t
  if (markOf s (curCfg u) mb).isSome then waitAt t 10 s
  else match slotReq u u.cur kind idx with
    | none => k s
    | some q =>
      if q.stale then refetchAt t wait q s
      else if q.poisoned then faultAt t 10 (poisonStatus q.cause) s
      else k (dropReq t q.rid s)

/-- The address that WAITIN and WAITW return, with the scale byte that the tile carries (R143, R144). -/
def slotWord (q : Slot) (fmt : Nat) : Word := word (q.addr + tileByte fmt q.scale * 2 ^ 56)

/-- WAITIN (R37): the next tile of the input port. -/
def execWaitin (t : Nat) (w : Word) (s : State) : Host.Outcome State Fault Refusal :=
  instr 0x66 regsDAB t w s fun u s =>
    let g := curCfg u
    let port := bits (iImm w) 1 0
    let ps := (producersOf g port).map (fun p => (p.1, p.2.srcStage))
    match (inEdges g).find? (fun e => e.dstPort == port) with
    | none => faultAt t 2 ST_STAGE_FAULT s
    | some e =>
      if !ps.all (producerReady g port) then waitAt t 4 s
      else match lowestTile g port with
        | none => issued t (setSreg t (iSD w) (word (2 ^ 64 - 1)) s)
        | some (q, i) =>
          if q.st = 1 then waitAt t 4 s
          else consume t 4 i q.mb 4 s fun s =>
            let s := modCfg t (fun g => { g with inSlots := g.inSlots.set i { q with st := 3 } }) s
            issued t (setSreg t (iSD w) (slotWord q e.fmt) s)

/-- RELIN (R36): the slot at SA is free and its credit goes back. -/
def execRelin (t : Nat) (w : Word) (s : State) : Host.Outcome State Fault Refusal :=
  instr 0x67 regsAB t w s fun u s =>
    let g := curCfg u
    let port := bits (iImm w) 1 0
    let a := bits (sreg u (iSA w)) 22 0
    if !(inEdges g).any (fun e => e.dstPort == port) then faultAt t 2 ST_STAGE_FAULT s
    else match g.inSlots.zipIdx.find? (fun p => p.1.port == port && p.1.addr == a && decide (2 ≤ p.1.st)) with
      | none => faultAt t 9 ST_STAGE_FAULT s
      | some (q, i) =>
        let s := match slotReq u u.cur 4 i with | some x => if q.st = 2 then dropReq t x.rid s else s | none => s
        let s := modCfg t (fun g => { g with inSlots := g.inSlots.set i { q with st := 0 } }) s
        let s := if q.producer = 255 then s else
          { s with flights := s.flights ++ [{ kind := 2, src := t, dst := q.producer, port := port, ch := g.chan, tag := g.loadPos, stage := q.stage }] }
        issued t s

/-! ### Weight slots (R39) -/

/-- The weight slot in use next in the order in which the slots were filled. -/
def nextWeight (g : Cfg) : Option (Slot × Nat) :=
  (g.wSlots.zipIdx.filter (fun p => p.1.st == 1 || p.1.st == 2)).foldl (fun best p =>
    match best with
    | none => some p
    | some b => if p.1.seq < b.1.seq then some p else best) none

/-- WAITW: the next weight tile in consumption order. -/
def execWaitw (t : Nat) (w : Word) (s : State) : Host.Outcome State Fault Refusal :=
  instr 0x68 regsDAB t w s fun u s =>
    let g := curCfg u
    match nextWeight g with
    | none => waitAt t 5 s
    | some (q, i) =>
      if q.st = 1 then waitAt t 5 s
      else consume t 5 i q.mb 5 s fun s =>
        let s := modCfg t (fun g => { g with wSlots := g.wSlots.modify i (fun q => { q with st := 3 }) }) s
        issued t (setSreg t (iSD w) (slotWord q g.stage.fmtW) s)

/-- The member that follows a tiller in its chain. -/
def nextMember (g : Cfg) (t : Nat) : Option Nat :=
  match chainOf g t with
  | none => none
  | some c => (c.members.dropWhile (· != t)).drop 1 |>.head?

/-- RELW: the slot at SA is released, and free once it need not be forwarded. -/
def execRelw (t : Nat) (w : Word) (s : State) : Host.Outcome State Fault Refusal :=
  instr 0x69 regsAB t w s fun u s =>
    let g := curCfg u
    let a := bits (sreg u (iSA w)) 22 0
    match g.wSlots.zipIdx.find? (fun p => p.1.addr == a && (p.1.st == 2 || p.1.st == 3)) with
    | none => faultAt t 9 ST_STAGE_FAULT s
    | some (q, i) =>
      let s := match slotReq u u.cur 5 i with | some x => if q.st = 2 then dropReq t x.rid s else s | none => s
      let st := if (nextMember g t).isNone || q.forwarded then 0 else 4
      issued t (modCfg t (fun g => { g with wSlots := g.wSlots.set i { q with st := st } }) s)

/-- The oldest tile of a bank that waits to be forwarded. -/
def toForward (u : Tiller) (who : Nat) : Option (Slot × Nat) :=
  let g := cfgBy u who
  (g.wSlots.zipIdx.filter (fun p => decide (2 ≤ p.1.st) && !p.1.forwarded &&
    !(slotReq u who 5 p.2).any (fun q => q.stale || q.poisoned))).foldl (fun best p =>
      match best with
      | none => some p
      | some b => if p.1.seq < b.1.seq then some p else best) none

/-- What a member can forward of each of its banks: the bank, the slot, the next member with its bank of the same stage and its free
slot, if it has one. -/
def relaysOf (s : State) (t : Nat) : List (Nat × Slot × Nat × Nat × Nat × Option (Slot × Nat)) :=
  let u := tillerAt s t
  [0, 1, 2].filterMap (fun who =>
    let g := cfgBy u who
    if !g.valid then none
    else match nextMember g t, toForward u who with
      | some n, some (q, i) =>
        let v := tillerAt s n
        match whoOf v g.chan g.loadPos g.stage.stageId with
        | none => none
        | some w =>
          if w = 2 ∧ !earlyOk v then none
          else some (who, q, i, n, w, (cfgBy v w).wSlots.zipIdx.find? (fun p => p.1.st == 0))
      | _, _ => none)

/-- A relay has a slot at the next member that may be written now. -/
def relayOpen (s : State) (t : Nat) (r : Nat × Slot × Nat × Nat × Nat × Option (Slot × Nat)) : Bool :=
  match r with
  | (_, _, _, n, _, some (f, _)) => !(quadFenced s t || quadFenced s n || writeHazard (tillerAt s n) [(f.addr, f.addr + f.size)])
  | _ => false

/-- RELAY_FORWARD (R39): a tile goes on to a free slot of the next member; a released one then leaves its own slot. -/
def execRelayForward (t : Nat) (s : State) : Host.Outcome State Fault Refusal :=
  atUnit t 128 <| .next <|
    match (relaysOf s t).find? (relayOpen s t) with
    | some (who, q, i, n, w, some (f, j)) =>
        let bs := tsRaw (tillerAt s t) q.addr (tileSize (cfgBy (tillerAt s t) who).stage.fmtW)
        let s := tsWrite n f.addr bs s
        let s := modCfgBy w n (fun g => { g with
          wSlots := g.wSlots.set j { f with st := 2, mb := q.mb, rb := q.rb, cb := q.cb, scale := q.scale, seq := g.wSeq, forwarded := false }
          wSeq := g.wSeq + 1 }) s
        modCfgBy who t (fun g => { g with wSlots := g.wSlots.set i { q with forwarded := true, st := if q.st = 4 then 0 else q.st } }) s
    | _ => s

/-- RELAY_STALL (R41): a relay tile has been held for 1 ms without a free slot at the next member. -/
def execRelayStall (t : Nat) (s : State) : Host.Outcome State Fault Refusal :=
  atUnit t 128 <| .next <|
    if (relaysOf s t).any (fun r => r.2.2.2.2.2.isNone) then setEv (.tlr t) Reg.TLR_EVENT Bit.TLR_EVENT_RELAY_STALL s else s

end Sys2Proof.Machine
end

