-- ==== Sys2Proof/Machine/Graph.lean ====
section
/-! DEFINITION. Stage graphs: their layout and checks, STAGE_LOAD, the layer barrier and the swap, deferred stages and admission
(R25 to R31, R42 to R51, R91, R92, R307 to R309, R541). -/

namespace Sys2Proof.Machine

open Sys2Proof

/-- n little-endian bytes at an offset. -/
def leAt (bs : List Byte) (off n : Nat) : Nat := leValue ((bs.drop off).take n)

/-! ### Layout (Tables 2.2, 2.3, 2.5) -/

/-- A stage descriptor as it stands at an offset, with its list. -/
def stageAt (bs : List Byte) (off list : Nat) : StageDesc :=
  let w (k : Nat) : Nat := leAt bs (off + k) 4
  let dw (k : Nat) : Nat := leAt bs (off + k) 8
  { stageId := nbits (w 0) 7 0, kind := nbits (w 0) 15 8, form := nbits (w 0) 17 16, power := nbits (w 0) 19 18,
    defer := (w 0).testBit 20, earlyPf := (w 0).testBit 21,
    rowGroups := nbits (w 4) 15 8, colGroups := nbits (w 4) 23 16,
    tillers := ((bs.drop (list + nbits (w 8) 15 0)).take (nbits (w 4) 7 0)).map (·.toNat),
    queueDepth := nbits (w 8) 23 16, tagLimit := nbits (w 8) 29 24,
    fmtIn := nbits (w 0xC) 7 0, fmtW := nbits (w 0xC) 15 8, fmtOut := nbits (w 0xC) 23 16,
    scaleMode := nbits (w 0xC) 25 24, sr := (w 0xC).testBit 26,
    rows := nbits (w 0x10) 23 0, cols := nbits (w 0x14) 23 0, depth := nbits (w 0x18) 23 0,
    microbatches := nbits (w 0x1C) 15 0, relaySlots := nbits (w 0x1C) 19 16, progressMs := nbits (w 0x1C) 31 20,
    weightObj := nbits (w 0x20) 16 0, tensorId := w 0x24, weightOffset := dw 0x28,
    progObj := nbits (w 0x30) 16 0, progWords := nbits (w 0x34) 15 0, progOffset := dw 0x38,
    imms := (List.range 8).map (fun i => w (0x40 + 4 * i)),
    tsIn := nbits (w 0x60) 15 0, tsW := nbits (w 0x60) 31 16, tsOut := nbits (w 0x64) 15 0, tsScratch := nbits (w 0x64) 31 16,
    tsBase := nbits (w 0x68) 12 0,
    deps := (List.range 4).map (fun i => let x := w (0x70 + 4 * i)
      { token := nbits x 11 0, mbAt := nbits x 27 12, valid := x.testBit 28 }) }

/-- The RSV bits of a stage descriptor are zero (R536), and its TILLER_COUNT is in range. -/
def stageRsvOk (bs : List Byte) (off : Nat) : Bool :=
  let w (k : Nat) : Nat := leAt bs (off + k) 4
  nbits (w 0) 31 22 == 0 && nbits (w 4) 31 24 == 0 && nbits (w 8) 31 30 == 0 && nbits (w 0xC) 31 27 == 0 &&
  nbits (w 0x10) 31 24 == 0 && nbits (w 0x14) 31 24 == 0 && nbits (w 0x18) 31 24 == 0 && nbits (w 0x20) 31 17 == 0 &&
  nbits (w 0x30) 31 17 == 0 && nbits (w 0x34) 31 16 == 0 && nbits (w 0x68) 31 13 == 0 && w 0x6C == 0 &&
  (List.range 4).all (fun i => nbits (w (0x70 + 4 * i)) 31 29 == 0) &&
  decide (1 ≤ nbits (w 4) 7 0 ∧ nbits (w 4) 7 0 ≤ 128)

/-- An edge descriptor. -/
def edgeAt (bs : List Byte) (off : Nat) : Edge :=
  let a := leAt bs off 4
  { srcStage := nbits a 7 0, srcPort := nbits a 9 8, dstStage := nbits a 23 16, dstPort := nbits a 25 24, dist := nbits a 27 26,
    fmt := nbits (leAt bs (off + 4) 4) 7 0, memObj := nbits (leAt bs (off + 8) 8) 16 0, memOffset := leAt bs (off + 0x10) 8 }
def edgeRsvOk (bs : List Byte) (off : Nat) : Bool :=
  let a := leAt bs off 4
  nbits a 15 10 == 0 && nbits a 31 28 == 0 && nbits (leAt bs (off + 4) 4) 31 8 == 0 && nbits (leAt bs (off + 8) 8) 63 17 == 0 &&
  leAt bs (off + 0x18) 8 == 0

/-- A chain descriptor with its members (R30). -/
def chainAt (bs : List Byte) (off list : Nat) : Chain :=
  let a := leAt bs off 4
  { chainId := nbits a 7 0, stageId := nbits a 15 8,
    members := ((bs.drop (list + leAt bs (off + 4) 2)).take (nbits a 23 16)).map (·.toNat) }
def chainRsvOk (bs : List Byte) (off : Nat) : Bool := nbits (leAt bs off 4) 31 24 == 0 && leAt bs (off + 6) 2 == 0

/-- Counts and offsets of a graph's header: stages, edges, chains; their offsets, the list area's and GRAPH_BYTES. -/
def graphCounts (bs : List Byte) : Nat × Nat × Nat := (leAt bs 2 2, leAt bs 4 2, leAt bs 6 1)
def graphOffsets (bs : List Byte) : Nat × Nat × Nat × Nat := (leAt bs 0x10 4, leAt bs 0x14 4, leAt bs 0x18 4, leAt bs 0x1C 4)
def graphBytes (bs : List Byte) : Nat := leAt bs 0x20 4

/-- The parts of a graph that occupy bytes: (start, end). -/
def graphParts (bs : List Byte) : List (Nat × Nat) :=
  let n := graphCounts bs
  let o := graphOffsets bs
  ([(o.1, n.1 * 128), (o.2.1, n.2.1 * 32), (o.2.2.1, n.2.2 * 8)].filter (fun p => p.2 != 0)).map (fun p => (p.1, p.1 + p.2))
/-- The end of the list area (R25). -/
def listEnd (bs : List Byte) : Nat :=
  let l := (graphOffsets bs).2.2.2
  ((graphParts bs).filter (fun p => decide (l ≤ p.1))).foldl (fun m p => min m p.1) (graphBytes bs)

/-- The graph as its descriptors give it. -/
def graphOf (bs : List Byte) : Graph :=
  let n := graphCounts bs
  let o := graphOffsets bs
  { layerTag := leAt bs 8 8,
    stages := (List.range n.1).map (fun i => stageAt bs (o.1 + 128 * i) o.2.2.2),
    edges := (List.range n.2.1).map (fun i => edgeAt bs (o.2.1 + 32 * i)),
    chains := (List.range n.2.2).map (fun i => chainAt bs (o.2.2.1 + 8 * i) o.2.2.2) }

/-- A list run lies in the list area (R25). -/
def runInList (bs : List Byte) (off n : Nat) : Bool := decide ((graphOffsets bs).2.2.2 + off + n ≤ listEnd bs)

/-- The header, parts and lists are sound, and the CRC matches (R25, R26, Table 2.6). -/
def headerOk (bs : List Byte) : Bool :=
  let n := graphCounts bs
  let o := graphOffsets bs
  let g := graphBytes bs
  let ps := graphParts bs
  let la := (o.2.2.2, listEnd bs)
  leAt bs 0 2 == 1 && decide (1 ≤ n.1 ∧ n.1 ≤ 128) && decide (n.2.1 ≤ 512) && decide (n.2.2 ≤ 32) && leAt bs 7 1 == 0 &&
  decide (o.1 % 8 = 0) && decide (o.2.1 % 8 = 0) && decide (o.2.2.1 % 8 = 0) && leAt bs 0x24 24 == 0 &&
  decide (64 ≤ g ∧ g ≤ 65536) && g == bs.length &&
  ps.all (fun p => decide (64 ≤ p.1) && decide (p.2 ≤ g)) &&
  ps.zipIdx.all (fun p => ps.zipIdx.all (fun q => p.2 == q.2 || !overlap p.1 q.1)) &&
  (decide (la.2 ≤ la.1) || (decide (64 ≤ la.1) && ps.all (fun p => !overlap p la))) &&
  crc32c (bs.take 0x3C ++ [0, 0, 0, 0] ++ bs.drop 0x40) == leAt bs 0x3C 4

/-! ### Checks of stages, edges and chains (Table 2.6, R77, R78, R92, R309, R541) -/

/-- A format code of Table 5.1, and an MX one. -/
def fmtOk (c : Nat) : Bool := (formatOf c).isSome
def fmtMx (c : Nat) : Bool := (formatOf c).any (·.isMx)

/-- The weight region holds four stationary tiles. -/
def holdsFour (d : StageDesc) : Bool := fmtOk d.fmtW && decide (4 * slotSize d.fmtW ≤ d.tsW * 1024)

/-- The fields of a stage descriptor are in range. A tiller index of 128 or more is a field out of range (log entry 121). -/
def stageOk (d : StageDesc) : Bool :=
  let prod := isProduct d.kind
  let named := if prod then [d.fmtIn, d.fmtW, d.fmtOut] else [d.fmtIn, d.fmtOut]
  decide (d.stageId ≤ 127) && decide (1 ≤ d.kind ∧ d.kind ≤ 8) && d.tillers.all (fun t => decide (t < 128)) &&
  d.rowGroups * d.colGroups == d.tillers.length && decide (1 ≤ d.queueDepth ∧ d.queueDepth ≤ 16) && decide (d.tagLimit ≤ 48) &&
  named.all fmtOk && d.scaleMode != 3 && decide (1 ≤ d.rows) && decide (1 ≤ d.cols) && decide (1 ≤ d.microbatches) &&
  decide (1 ≤ d.progWords ∧ d.progWords ≤ 16384) && decide (d.progOffset % 8 = 0) &&
  decide (d.tsBase ≤ 6143) && decide (d.tsBase + d.tsIn + d.tsW + d.tsOut + d.tsScratch ≤ 6144) &&
  (d.scaleMode != 2 || (fmtMx d.fmtIn && (!prod || fmtMx d.fmtW))) && (d.scaleMode == 2 || named.all (fun c => !fmtMx c)) &&
  d.tillers.eraseDups.length == d.tillers.length &&
  (if prod then
    decide (1 ≤ d.depth) && d.fmtIn != 1 && d.fmtW != 1 && decide (2 ≤ d.relaySlots ∧ d.relaySlots ≤ 8) && d.form != 3 &&
    (d.form != 2 || (!d.defer && holdsFour d))
  else d.depth == 0)

/-- An edge is in range and names stages of the graph (Table 2.6); a DEFER stage takes its inputs from memory (R309). -/
def edgeOk (g : Graph) (e : Edge) : Bool :=
  let known (n : Nat) : Bool := n == 255 || g.stages.any (fun d => d.stageId == n)
  e.dist != 3 && fmtOk e.fmt && known e.srcStage && known e.dstStage && !(e.srcStage == 255 && e.dstStage == 255) &&
  (e.srcStage == 255 || !g.stages.any (fun d => d.stageId == e.dstStage && d.defer))

/-- Two tillers are mesh neighbours. -/
def neighbours (a b : Nat) : Bool :=
  let dc := max (tillerCol a) (tillerCol b) - min (tillerCol a) (tillerCol b)
  let dr := max (tillerRow a) (tillerRow b) - min (tillerRow a) (tillerRow b)
  dc + dr == 1

/-- A chain keeps R38. -/
def chainOk (g : Graph) (c : Chain) : Bool :=
  match stageOf g c.stageId with
  | none => false
  | some d =>
    let cg (t : Nat) : Option Nat := (d.tillers.zipIdx.find? (fun p => p.1 == t)).map (fun p => p.2 % max 1 d.colGroups)
    isProduct d.kind && decide (2 ≤ c.members.length ∧ c.members.length ≤ 32) &&
    c.members.all (fun t => (cg t).isSome && cg t == cg (c.members.headD 0)) &&
    (c.members.zip (c.members.drop 1)).all (fun p => neighbours p.1 p.2)

/-- Every condition of Table 2.6 and its companions that gives ST_GRAPH_INVALID is absent. -/
def graphOk (bs : List Byte) : Bool :=
  headerOk bs &&
  (let g := graphOf bs
   let n := graphCounts bs
   let o := graphOffsets bs
   let act := (g.stages.filter (fun d => !d.defer)).flatMap (·.tillers)
   let mem := g.chains.flatMap (·.members)
   (List.range n.1).all (fun i => stageRsvOk bs (o.1 + 128 * i) &&
      runInList bs (leAt bs (o.1 + 128 * i + 8) 2) (leAt bs (o.1 + 128 * i + 4) 1)) &&
   (List.range n.2.1).all (fun i => edgeRsvOk bs (o.2.1 + 32 * i)) &&
   (List.range n.2.2).all (fun i => chainRsvOk bs (o.2.2.1 + 8 * i) &&
      runInList bs (leAt bs (o.2.2.1 + 8 * i + 4) 2) (leAt bs (o.2.2.1 + 8 * i + 2) 1)) &&
   g.stages.all stageOk && g.edges.all (edgeOk g) && g.chains.all (chainOk g) &&
   (g.stages.map (·.stageId)).eraseDups.length == g.stages.length && act.eraseDups.length == act.length &&
   mem.eraseDups.length == mem.length)

/-! ### Choosing the form (R91, R92) -/

/-- The largest span of n blocks split in k groups, in rows, at most `most`. -/
def largestSpan (n k most : Nat) : Nat := min most ((List.range k).foldl (fun m i => max m ((groupSpan n k i).2 * 64)) 0)

/-- The form of a stage: 1 normal, 2 wide-shallow. -/
def formOf (d : StageDesc) : Nat :=
  if d.defer ∨ !isProduct d.kind then 1
  else if d.form ≠ 0 then d.form
  else
    let slow (c : Nat) : Bool := formatOf c == some .bf16 || formatOf c == some .fp16
    let rc := if slow d.fmtIn || slow d.fmtW then 2 else 1
    let kn := if bothFp4 d then 128 else 64
    let kw := kn / 4
    let mg := largestSpan (ceilDiv d.rows 64) d.rowGroups d.rows
    let ng := largestSpan (ceilDiv d.cols 64) d.colGroups d.cols
    let normal := ceilDiv ng 64 * ceilDiv d.depth kn * (64 + rc * mg)
    let wide := ((List.range (ceilDiv mg 64)).map (fun i => ceilDiv ng 256 * ceilDiv d.depth kw * (16 + rc * min 64 (mg - 64 * i)))).sum
    if wide < normal ∧ holdsFour d then 2 else 1

/-! ### STAGE_LOAD (R31, R42, R43) -/

/-- Stored-activation tokens of a graph (R307): the largest ROWS × MICROBATCHES of its ACT_STORE stages. -/
def actTokens (g : Graph) : Nat :=
  (g.stages.filter (fun d => d.kind == 5)).foldl (fun m d => max m (d.rows * d.microbatches)) 0

/-- The tokens that a channel counts in a step's attempt, and those of every other attempt (R307). -/
def actOf (k : Chan) (step : Nat) : Nat := match k.trn.actCount.find? (fun a => a.1 == step) with | some a => a.2 | none => 0
def actOthers (s : State) (c step : Nat) : Nat :=
  ((liveChans s).map (fun d => (((chanAt s d).trn.actCount.filter (fun a => !(d == c && a.1 == step))).map (·.2)).sum)).sum
/-- The step of the ring command at a count. -/
def stepAt (s : State) (c pos : Nat) : Nat :=
  match (chanAt s c).rings.cmds.find? (fun y => y.pos == pos) with | some y => y.step | none => 0

/-- The tillers that a graph lists. -/
def graphTillers (g : Graph) : List Nat := (g.stages.flatMap (·.tillers)).eraseDups

/-- The status that refuses a sound graph, in the order of R31; then a fenced quad (R441); none when it can be loaded. -/
def graphRefusal (s : State) (c step : Nat) (g : Graph) : Option Nat :=
  let k := chanAt s c
  let readable (oi : Nat) : Bool := mayRead s c (objAt s oi)
  let mems := g.edges.filter (fun e => e.srcStage == 255 || e.dstStage == 255)
  if (graphTillers g).any (fun t => !k.grant.contains t || (domainAt s (tillerQuad t)).retired) then some ST_NOT_GRANTED
  else if g.stages.any (fun d => !readable d.progObj || (isProduct d.kind && !readable d.weightObj)) || mems.any (fun e => !readable e.memObj) then
    some ST_NO_ACCESS
  else if mems.any (fun e => e.dstStage == 255 && (objAt s e.memObj).mode == 1) then some ST_RO_WRITE
  else if 4194304 < actOthers s c step + max (actOf k step) (actTokens g) then some ST_ACT_FULL
  else if (graphTillers g).any (quadFenced s) then some ST_FENCED
  else none

/-- The graph's bytes, read by the loader: the bytes and the status of a failed read or of a graph outside its object. -/
def readGraph (s : State) (c oi off : Nat) : List Byte × Nat :=
  let o := objAt s oi
  if !mayRead s c o then ([], ST_NO_ACCESS)
  else if o.size < off + 64 then ([], ST_GRAPH_INVALID)
  else
    let a : Agent := { ch := some c }
    let h := objRead a oi off 64 s
    if h.2.2 ≠ 0 then ([], rdStatus h.2.2)
    else
      let n := graphBytes h.2.1
      if n < 64 ∨ 65536 < n ∨ o.size < off + n then (h.2.1, ST_GRAPH_INVALID)
      else
        let r := objRead a oi off n s
        (r.2.1, rdStatus r.2.2)

/-- The programs of a graph's stages, by stage, or the status of the first that cannot be read. -/
def readPrograms (s : State) (c : Nat) : List StageDesc → Except Nat (List (List Word))
  | [] => .ok []
  | d :: rest =>
    if (objAt s d.progObj).size < d.progOffset + d.progWords * 8 then .error ST_GRAPH_INVALID
    else
      let r := objRead { ch := some c } d.progObj d.progOffset (d.progWords * 8) s
      if r.2.2 ≠ 0 then .error (rdStatus r.2.2)
      else match readPrograms s c rest with
        | .error e => .error e
        | .ok ps => .ok ((chunksOf 8 d.progWords r.2.1).map (fun b => word (leValue b)) :: ps)

/-- GRAPH_REJECT on the tillers that a rejected graph names (Table 2.17). -/
def rejectGraph (bs : List Byte) (s : State) : State :=
  if bs.length < 64 ∨ 128 < (graphCounts bs).1 then s
  else ((graphTillers (graphOf bs)).filter (fun t => decide (t < 128))).foldl
    (fun s t => setEv (.tlr t) Reg.TLR_EVENT Bit.TLR_EVENT_GRAPH_REJECT s) s

/-- The configuration that a tiller's shadow takes of a stage. -/
def cfgFor (c : Nat) (g : Graph) (d : StageDesc) (pos : Nat) (prog : List Word) (load step : Nat) (complete : Bool) : Cfg :=
  placeSlots { valid := true, complete := complete, chan := c, graph := g, stage := d, pos := pos, form := formOf d, prog := prog,
               loadPos := load, step := step }

/-- A graph written into the shadows of its tillers; the tillers of `late` have their program still to come (R45, R95). -/
def loadGraph (x : Cmd) (g : Graph) (progs : List (List Word)) (late : List Nat) (s : State) : State :=
  let step := stepAt s x.ch x.pos
  let s := (g.stages.zip progs).foldl (fun s p =>
    if p.1.defer then
      modTrn s x.ch (fun r => { r with deferNext := r.deferNext ++ [{ stageId := p.1.stageId, graph := g, stage := p.1, progs := p.2,
                                                                      left := p.1.tillers, loadPos := x.pos, step := step }] })
    else p.1.tillers.zipIdx.foldl (fun s q =>
      modTiller s q.1 (fun u => { u with shadow := cfgFor x.ch g p.1 q.2 p.2 x.pos step (!late.contains q.1) })) s) s
  let s := modTrn s x.ch (fun r => { r with
    actCount := if actTokens g = 0 then r.actCount
                else r.actCount.filter (fun a => a.1 != step) ++ [(step, max (actOf (chanAt s x.ch) step) (actTokens g))] })
  modChan s x.ch (fun k => { k with loading := k.loading ++ [(x.pos, g.layerTag)] })

/-- A graph must wait (R43): a tiller it names holds a shadow that has not become active, or stages of the channel wait to
enter the deferred queue with the next swap. -/
def graphWaits (s : State) (c : Nat) (g : Graph) : Bool :=
  (graphTillers g).any (fun t => (tillerAt s t).shadow.valid) ||
  (g.stages.any (·.defer) && !(chanAt s c).trn.deferNext.isEmpty)

/-- STAGE_LOAD (R31, R42, R43): `late` names the tillers whose program is not yet all present (log entry 31). -/
def execStageLoad (src : CmdSrc) (e : Entry) (late : List Nat) (s : State) : Host.Outcome State Fault Refusal :=
  let c := (cmdOf s src e).ch
  let r := readGraph s c (bits e.a0 16 0) e.a1.toNat
  if r.2 = ST_OK ∧ graphOk r.1 ∧ (graphRefusal s c (stepAt s c (cmdOf s src e).pos) (graphOf r.1)).isNone ∧ graphWaits s c (graphOf r.1) then .next s
  else serve 0x20 src e s fun x s =>
    if r.2 ≠ ST_OK then answer x r.2 [] (rejectGraph r.1 s)
    else if !graphOk r.1 then answer x ST_GRAPH_INVALID [] (rejectGraph r.1 s)
    else match graphRefusal s c (stepAt s c x.pos) (graphOf r.1) with
      | some st => answer x st [] (rejectGraph r.1 s)
      | none =>
        match readPrograms s c (graphOf r.1).stages with
        | .error st => answer x st [] (rejectGraph r.1 s)
        | .ok ps => loadGraph x (graphOf r.1) ps late s

/-! ### The swap (R44, R45, R309) -/

/-- Admission units of a stage (R49). -/
def admitUnits (d : StageDesc) : Nat := d.tillers.length * (d.power + 1)

/-- Stages in ascending STAGE_ID. -/
def byId (l : List StageDesc) : List StageDesc :=
  l.foldr (fun x acc => acc.takeWhile (fun y => decide (y.stageId < x.stageId)) ++ x :: acc.dropWhile (fun y => decide (y.stageId < x.stageId))) []

/-- Waves of stages (R48): the units of the wave being collected, its tillers, and the stages left. -/
def wavesOf (limit : Nat) : Nat → List Nat → List StageDesc → List (List Nat)
  | _, acc, [] => if acc.isEmpty then [] else [acc]
  | n, acc, d :: r =>
    if acc.isEmpty ∨ n + admitUnits d ≤ limit then wavesOf limit (n + admitUnits d) (acc ++ d.tillers) r
    else acc :: wavesOf limit (admitUnits d) d.tillers r

/-- A tiller makes its shadow active (R45, R93, R100, R129). -/
def swapTiller (t : Nat) (s : State) : State :=
  let s := wr (wr s (.tlr t) Reg.TLR_SEQ_FAULT 0) (.tlr t) Reg.TLR_SEQ_FAULT_WORD 0
  setStateField t (modTiller s t (fun u => { u with
    act := u.shadow, shadow := {}, goWait := false, admitted := false,
    ctxA := { sregs := startRegs u.shadow false },
    arr := { (leaveBank 0 u).arr with slabs := [] },
    reqs := (leaveBank 0 u).reqs.map (fun q => if q.who = 2 then { q with who := 0 } else q) }))

/-- STAGE_LOAD's record is written when its graph has become active on every tiller. -/
def loadsDone (c : Nat) (s : State) : State :=
  let held (p : Nat) : Bool := s.tillers.any (fun x => x.2.shadow.valid && x.2.shadow.chan == c && x.2.shadow.loadPos == p)
  let done := (chanAt s c).loading.filter (fun p => !held p.1)
  let s := modChan s c (fun k => { k with loading := k.loading.filter (fun p => held p.1) })
  done.foldl (fun s p => finishRing c p.1 ST_OK [word p.2] s) s

/-- The DEFER stages of the loaded graphs enter the queue, and idle deferred banks take them up (R95, R308). -/
def enterDeferred (c : Nat) (s : State) : State :=
  deferEnter c (modTrn s c (fun r => { r with deferRest := r.deferRest ++ r.deferNext, deferNext := [] }))

/-- The deferred work queue has room for the stages that enter with the next swap (R309); of a graph with more than 64 of them the first 64
enter, and the others as stages leave (log entry 32). -/
def deferRoom (k : Chan) : Bool :=
  k.trn.deferNext.isEmpty || (k.trn.deferRest.isEmpty && decide (k.trn.deferred.length + min 64 k.trn.deferNext.length ≤ 64))

/-- The swap of a layer: complete shadows become active, the others wait for their program, the waves are formed. -/
def swapLayer (c : Nat) (s : State) : State :=
  let ts := (s.tillers.filter (fun p => cfgOf c p.2.shadow)).map (·.1)
  let stages := byId ((ts.map (fun t => (tillerAt s t).shadow.stage)).eraseDups)
  let s := ts.foldl (fun s t =>
    if (tillerAt s t).shadow.complete then swapTiller t s else modTiller s t (fun u => { u with goWait := true })) s
  let s := modChan s c (fun k => { k with barrier := [], goHeld := false,
                                          waves := wavesOf (bits (rd s .pwr Reg.PWR_ADMIT_UNITS) 9 0) 0 [] stages })
  failMarks c (loadsDone c (enterDeferred c s))

/-- Every stage of the channel's layer has sent END, and the next layer's graph is loaded. -/
def layerDrained (s : State) (c : Nat) : Bool :=
  let k := chanAt s c
  k.live && !k.fenced && k.rcv.st != 1 && !k.loading.isEmpty && !k.goHeld &&
  (s.tillers.filter (fun p => cfgOf c p.2.act)).all (fun p => p.2.ctxA.endSent) &&
  !s.tillers.any (fun p => cfgOf c p.2.shadow && p.2.goWait) &&
  (s.tillers.filter (fun p => cfgOf c p.2.shadow || cfgOf c p.2.act)).all (fun p => !quadFenced s p.1)

/-- LAYER_BARRIER_GO (R44, R45): GO at every tiller of the channel; the swap waits for room in the deferred queue (R309). -/
def execLayerBarrierGo (c : Nat) (s : State) : Host.Outcome State Fault Refusal :=
  atUnit c 4096 <| onlyIf (layerDrained s c) s fun s =>
    if deferRoom (chanAt s c) then swapLayer c s else modChan s c (fun k => { k with goHeld := true })

/-- DEFERRED_SWAP_RESUME (R309): a stage has left the deferred queue and the held swap is made. -/
def execDeferredSwapResume (c : Nat) (s : State) : Host.Outcome State Fault Refusal :=
  atUnit c 4096 <| onlyIf ((chanAt s c).goHeld && deferRoom (chanAt s c)) s fun s => swapLayer c s

/-- LATE_SWAP (R45, R95): the shadow's program is complete; when GO has been raised the tiller makes its swap. -/
def execLateSwap (t : Nat) (s : State) : Host.Outcome State Fault Refusal :=
  atUnit t 128 <|
    let u := tillerAt s t
    onlyIf (u.shadow.valid && !u.shadow.complete && !quadFenced s t) s fun s =>
      let s := modTiller s t (fun u => { u with shadow := { u.shadow with complete := true } })
      if !u.goWait then s
      else
        let c := u.shadow.chan
        let opened := !(chanAt s c).waves.any (fun w => w.contains t)
        let s := swapTiller t s
        let s := setStateField t (modTiller s t (fun u => { u with admitted := opened }))
        failMarks c (loadsDone c s)

/-- ADMIT_WAVE_OPEN (R48, R51): the next wave opens unless admission is paused; its tillers that have made the swap are
admitted. -/
def execAdmitWaveOpen (c : Nat) (s : State) : Host.Outcome State Fault Refusal :=
  atUnit c 4096 <| .next <|
    match (chanAt s c).waves with
    | [] => s
    | w :: rest =>
      if s.power.admitPaused then s
      else
        let s := modChan s c (fun k => { k with waves := rest })
        w.foldl (fun s t => if (tillerAt s t).goWait then s
          else setStateField t (modTiller s t (fun u => { u with admitted := true }))) s

end Sys2Proof.Machine
end

