-- ==== Sys2Proof/Machine/Stacks.lean ====
section
/-! DEFINITION. Stacks and deep-tier controllers: serving of parts, error correction, accumulation into sheaves, bank health,
scrub, refresh and temperature (R183 to R195, R204 to R211, R243 to R248). A home is numbered 0–15 for stacks and 16–47 for
controllers. -/

namespace Sys2Proof.Machine

open Sys2Proof

/-! ### Serving parts (R183, R184, R208, R245, R263, R264) -/

/-- A part may be served: nothing admitted before it touches its codewords, neither a part nor a request of an engine (R183), and for an
ordered fetch (R55) no write that waits touches them. -/
def mayServe (s : State) (h t rid : Nat) : Bool :=
  let l := pendingParts s h
  match l.find? (fun x => x.1 == t && x.2.1.rid == rid) with
  | none => false
  | some (_, q, p) =>
    let hk := huskAt (objAt s q.obj) h
    let before := l.takeWhile (fun x => !(x.1 == t && x.2.1.rid == rid))
    before.all (fun x => !partsMeet (hk || huskAt (objAt s x.2.1.obj) h) p x.2.2) &&
    (engineOf s h).all (fun e => e.poison || e.ahead.contains (t, rid) || !runsMeet (partKeys hk p) e.runs) &&
    (!q.ordered || l.all (fun x => !reqWrites x.2.1 || !partsMeet hk p x.2.2))

/-- A part answered: its banks are no longer silent. -/
def answerPart (t rid h : Nat) (f : Part → Part) (s : State) : State :=
  let s := match (tillerAt s t).reqs.find? (fun q => q.rid == rid) with
    | some q => (match partAt q h with | some p => endSilence h (p.blocks.map (fun b => bankNo h b.1)) s | none => s)
    | none => s
  poolDrop h t rid (modReq t rid (fun q => { q with parts := q.parts.map (fun p => if p.home = h then { f p with st := 2 } else p) }) s)

/-- A block of a request that failed to expand at a home (R260, R261): it may be served again from the other copy of its granule once, and
else its record is written now. -/
def partFail (t rid c h : Nat) (o : Obj) (off cause : Nat) (s : State) : State :=
  if cause = 0 ∨ 6 < cause then s
  else
    let r := granAt s o (off / 65536)
    if (tillerAt s t).reqs.any (fun q => q.rid == rid && !q.retried) && r.replValid && (o.mode == 1 || (o.mode == 2 && !r.dirty)) then
      modReq t rid (fun q => { q with fails := q.fails ++ [(h, cause, slotTag o off)] }) s
    else huskLog (edgeOfHome h) cause (slotTag o off) (some c) false s

/-- What a read part delivers: its runs and the cause of a failure, 0 for none. A husk slot is expanded whole. -/
def partRead (t rid c : Nat) (o : Obj) (h : Nat) (p : Part) (s : State) : State × List (Nat × List Byte) × Nat :=
  if huskAt o h then
    let r := p.blocks.foldl (fun (a : State × List (Nat × List Byte) × Nat) b =>
      let x := slotRead (encKey s o h) h b.1 (slotTag o b.2) (some c) a.1
      (partFail t rid c h o b.2 x.2.2 x.1, a.2.1 ++ [(b.1, x.2.1)], if a.2.2 = 0 then x.2.2 else a.2.2)) (s, [], 0)
    (r.1, p.runs.map (fun x => (x.1, match r.2.1.find? (fun b => b.1 == keyBlock x.2.1) with
      | some b => (b.2.drop (x.2.1 % 4096)).take x.2.2 | none => [])), r.2.2)
  else
    p.runs.foldl (fun (a : State × List (Nat × List Byte) × Nat) x =>
      let r := unitRead (encKey s o h) (slotTag o (partOff p x.2.1)) x.2.1 x.2.2 a.1
      (r.1, a.2.1 ++ [(x.1, r.2.1)], if r.2.2 then 8 else a.2.2)) (s, [], 0)

/-- A write part applied: the Bool is a poisoned acknowledgement. -/
def partWrite (c : Nat) (o : Obj) (h : Nat) (p : Part) (src : List Byte) (s : State) : State × Bool :=
  let hk := huskAt o h
  let key := encKey s o h
  let s := if hk then p.blocks.foldl (fun s b => notify h o b.2 4096 s) s
           else p.runs.foldl (fun s x => notify h o (partOff p x.2.1) x.2.2 s) s
  if hk then
    p.blocks.foldl (fun (a : State × Bool) b =>
      let mine := p.runs.filter (fun x => keyBlock x.2.1 == b.1)
      let tag := slotTag o b.2
      let merge (old : List Byte) : List Byte := mine.foldl (fun l x =>
        let i := x.2.1 % 4096
        l.take i ++ (src.drop x.1).take x.2.2 ++ l.drop (i + x.2.2)) old
      if (mine.map (fun x => x.2.2)).sum = 4096 then (slotWrite key h b.1 tag (merge (List.replicate 4096 0)) a.1, a.2)
      else
        let r := slotRead key h b.1 tag (some c) a.1
        let s := cntInc (.dtr (h - 16)) Reg.DTR_CNT_HUSK_RMW r.1
        if r.2.2 ≠ 0 then (if r.2.2 ≤ 6 then huskLog (edgeOfHome h) r.2.2 tag (some c) false s else s, true) else (slotWrite key h b.1 tag (merge r.2.1) s, a.2)) (s, false)
  else unitWrite key (fun cw => slotTag o (partOff p (cw * 64))) (p.runs.flatMap (fun x => cutPieces 65 x.2.1 ((src.drop x.1).take x.2.2))) s

/-- A tiller's read or write part served at a home. -/
def servePart (h t rid : Nat) (s : State) : State :=
  let u := tillerAt s t
  match u.reqs.find? (fun q => q.rid == rid) with
  | none => s
  | some q =>
    match partAt q h with
    | none => s
    | some p =>
      let o := objAt s q.obj
      let c := q.ch
      let b := homeBlk h
      if reqWrites q then
        let r := partWrite c o h p q.src s
        let s := cntInc b (if h < 16 then Reg.YST_CNT_WRITE_PARTS else Reg.DTR_CNT_WRITE_PARTS) r.1
        answerPart t rid h (fun p => { p with poison := r.2, cause := if r.2 then 8 else 0 }) s
      else
        let r := partRead t rid c o h p s
        let s := cntInc b (if h < 16 then Reg.YST_CNT_READ_PARTS else Reg.DTR_CNT_READ_PARTS) r.1
        answerPart t rid h (fun p => { p with poison := r.2.2 != 0, cause := r.2.2, data := r.2.1 }) s

/-- A request's part at a home is an accumulation. -/
def isAccum (s : State) (t rid : Nat) : Bool := (tillerAt s t).reqs.any (fun q => q.rid == rid && q.kind == 3)

/-- STACK_PART_SERVE (R183, R204 to R208): a bank serves an admitted part. `sec` counts the on-die corrections that the dies of the stack
have reported since the last such event, whoever read (R204), and `errs` gives symbol errors that have come about in its codewords (key
divided by 64): they stand in the cells until a read or a write meets them (log entry 124). -/
def execStackPartServe (i t rid sec : Nat) (errs : List (Nat × List (Nat × Nat))) (s : State) : Host.Outcome State Fault Refusal :=
  atUnit i 16 <| .next <|
    let s := plantErrs i errs (cntAdd (.yst i) Reg.YST_CNT_CE_DIE sec s)
    if mayServe s i t rid && !isAccum s t rid then copyPump (servePart i t rid s) else s

/-- DT_PART_SERVE (R227, R246, R263 to R265): a controller serves an admitted part of a plain or husk slot. `errs` gives what
comes about meanwhile (log entry 124). -/
def execDtPartServe (d t rid : Nat) (errs : PartErrs) (s : State) : Host.Outcome State Fault Refusal :=
  atUnit d 32 <| .next <|
    let s := errs.map.foldl (fun s l => mapParity (16 + d) l s) (plantErrs (16 + d) errs.syms s)
    if mayServe s (16 + d) t rid && !isAccum s t rid then copyPump (servePart (16 + d) t rid s) else s

/-! ### Accumulation (R191 to R195, R147, R282, R283, R409) -/

/-- Tiles of a tensor in its group, padded to a multiple of 4 (R269). -/
def tensorTiles (x : TensorDesc) : Nat := ceilDiv (x.rowBlocks * x.colBlocks) 4 * 4
/-- A group tile's tensor index, row block and column block; none for padding and beyond the group (R269, R282). -/
def groupTile : List TensorDesc → Nat → Nat → Option (Nat × Nat × Nat)
  | [], _, _ => none
  | x :: r, i, n =>
    if n < tensorTiles x then
      (if n < x.rowBlocks * x.colBlocks then some (i, n / x.colBlocks, n % x.colBlocks) else none)
    else groupTile r (i + 1) (n - tensorTiles x)

/-- Tile bytes of a sheaf (R282). -/
def sheafBytes (f : Sheaf) : Nat := if f.bf16 then 8192 else 16384

/-- One element's fold (R147). -/
def foldElem (f : Sheaf) (seed : Word) (key : Nat) (mb source rb cb e : Nat) (old c : F32) : F32 :=
  let t := fAdd old c
  if !f.bf16 then t
  else
    let r := srDraw seed (word f.step) (word key) (tileKey mb rb cb (source % 256) 2) (word e) (word (source / 256))
    f32OfBf16 (narrowStoch .bf16 (ofF32 t) r).bits

/-- A contribution's part applied in a stack: the runs of the part, from +0.0 when it is the tile's first there. Gives whether
a poisoned codeword stood in its way and whether an element became NaN or infinite (R150, R208). -/
def applyAccum (c h : Nat) (f : Sheaf) (tile mb source : Nat) (first : Bool) (runs : List (Nat × Nat × Nat)) (src : List F32)
    (s : State) : State × Bool × Bool :=
  let eb := if f.bf16 then 2 else 4
  let k := chanAt s c
  let set := k.trn.sets.getD f.set {}
  let g := (groupTile set.tensors 0 (f.firstTile + tile)).getD (0, 0, 0)
  let key := (set.tensors.getD g.1 {}).key
  let o := objAt s f.accObj
  let r := runs.foldl (fun (a : State × Bool × Bool) x =>
    let n := x.2.2 / eb
    let e0 := x.1 / eb
    let rd := if first then (a.1, [], false) else readCells x.2.1 x.2.2 a.1
    let old := rd.2
    let vals := (List.range n).map (fun i =>
      let b := leValue ((old.1.drop (i * eb)).take eb)
      let v : F32 := if first then 0 else if f.bf16 then f32OfBf16 b else BitVec.ofNat 32 b
      foldElem f k.trn.seed key mb source g.2.1 g.2.2 (e0 + i) v (src.getD (e0 + i) 0))
    let bytes := vals.flatMap (fun v => if f.bf16 then leBytes 2 (v.toNat / 65536) else leBytes 4 v.toNat)
    let bad := !first && old.2
    let ok := cutPieces 65 x.2.1 bytes |>.filter (fun p => first || !isPoison rd.1 (p.1 / 64))
    let s := notify h o (f.accOffset + tile * sheafBytes f + x.1) x.2.2 rd.1
    ((writePieces s ok).1, a.2.1 || bad, a.2.2 || vals.any (fun v => !f32IsFinite v))) (s, false, false)
  let s := cntInc (.yst h) Reg.YST_CNT_WRITE_PARTS (cntInc (.yst h) Reg.YST_CNT_ACCUM r.1)
  (if r.2.2 then modTrn s c (fun t => { t with ovf := if t.ovf.contains f.step then t.ovf else t.ovf ++ [f.step] }) else s, r.2.1, r.2.2)

/-- A sheaf of a channel changed. -/
def modSheaf (c num : Nat) (g : Sheaf → Sheaf) (s : State) : State :=
  modTrn s c (fun t => { t with sheaves := t.sheaves.map (fun f => if f.num = num then g f else f) })
def sheafOf (s : State) (c num : Nat) : Option Sheaf := (chanAt s c).trn.sheaves.find? (fun f => f.num == num)

/-- The cursor of a sheaf tile's part in a stack: contributions applied. -/
def cursorOf (f : Sheaf) (tile h : Nat) : Nat := smGet (fun _ => 0) f.cursors (tile * 16 + h)
def bumpCursor (tile h : Nat) (f : Sheaf) : Sheaf := { f with cursors := smModify (fun _ => 0) f.cursors (tile * 16 + h) (· + 1) }

/-- Held contributions that match the cursor applied one after another (R192). -/
def drainHeld (c h num tile : Nat) : Nat → State → State
  | 0, s => s
  | fuel + 1, s =>
    match sheafOf s c num with
    | none => s
    | some f =>
      let n := cursorOf f tile h
      match (stackAt s h).holdBuf.find? (fun x => x.ch == c && x.sheaf == num && x.tile == tile &&
          (x.mb - f.firstMb) * f.ns + x.source == n) with
      | none => s
      | some x =>
        let s := modStack s h (fun k => { k with holdBuf := k.holdBuf.erase x })
        let s := (applyAccum c h f tile x.mb x.source (n == 0) x.runs x.src s).1
        drainHeld c h num tile fuel (modSheaf c num (bumpCursor tile h) s)

/-- A contribution discarded (R194): cause SHEAF_EXTRA. -/
def extraAccum (h t rid : Nat) (s : State) : State :=
  answerPart t rid h (fun p => { p with poison := true, cause := 11 }) (setEv (.yst h) Reg.YST_EVENT Bit.YST_EVENT_SHEAF_EXTRA s)

/-- The elements that an ACCUM carries, widened to FP32 (R191). -/
def accumElems (q : MemReq) : List F32 :=
  if q.fmt = 2 then (chunksOf 2 4096 q.src).map (fun b => f32OfBf16 (leValue b))
  else (chunksOf 4 4096 q.src).map (fun b => BitVec.ofNat 32 (leValue b))

/-- ACCUM_ARRIVE: a contribution part is applied at its cursor, held, returned, or discarded. -/
def execAccumArrive (i t rid : Nat) (s : State) : Host.Outcome State Fault Refusal :=
  atUnit i 16 <| .next <|
    let u := tillerAt s t
    match u.reqs.find? (fun q => q.rid == rid && q.kind == 3) with
    | none => s
    | some q =>
      match partAt q i with
      | none => s
      | some p =>
        if p.st ≠ 1 || !mayServe s i t rid then s
        else
          let c := q.ch
          let off := dOffset (q.d0, q.d1, q.d2, q.d3)
          match sheafOf s c q.sheaf with
          | none => extraAccum i t rid s
          | some f =>
            let tb := sheafBytes f
            let tile := (off - f.accOffset) / tb
            let set := (chanAt s c).trn.sets.getD f.set {}
            if q.obj ≠ f.accObj ∨ off < f.accOffset ∨ off % tb ≠ 0 ∨ f.tiles ≤ tile ∨
               (groupTile set.tensors 0 (f.firstTile + tile)).isNone ∨ q.mb < f.firstMb ∨ f.firstMb + f.mbCount ≤ q.mb ∨ f.ns ≤ q.source then
              extraAccum i t rid s
            else
              let n := cursorOf f tile i
              let pos := (q.mb - f.firstMb) * f.ns + q.source
              let src := accumElems q
              if (chanAt s c).det then
                let held := (stackAt s i).holdBuf.any (fun x => x.ch == c && x.sheaf == f.num && x.tile == tile && x.mb == q.mb && x.source == q.source)
                if pos < n ∨ held then extraAccum i t rid s
                else if pos = n then
                  let r := applyAccum c i f tile q.mb q.source (n == 0) p.runs src s
                  let s := answerPart t rid i (fun p => { p with poison := r.2.1, cause := if r.2.1 then 8 else 0 }) r.1
                  drainHeld c i f.num tile 512 (modSheaf c f.num (bumpCursor tile i) s)
                else if (stackAt s i).holdBuf.length < 512 then
                  answerPart t rid i (fun p => p) (modStack s i (fun x => { x with holdBuf := x.holdBuf ++ [{
                    sheaf := f.num, tile := tile, ch := c, mb := q.mb, source := q.source, tiller := t, rid := rid, runs := p.runs, src := src }] }))
                else
                  let s := cntInc (.yst i) Reg.YST_CNT_ACC_RETURN (poolDrop i t rid s)
                  modReq t rid (fun q => { q with parts := q.parts.map (fun p => if p.home = i then { p with st := 3 } else p) }) s
              else if f.applied.contains (tile * 16 + i, q.mb, q.source) then extraAccum i t rid s
              else
                let r := applyAccum c i f tile q.mb q.source (n == 0) p.runs src s
                let s := answerPart t rid i (fun p => { p with poison := r.2.1, cause := if r.2.1 then 8 else 0 }) r.1
                modSheaf c f.num (fun f => { bumpCursor tile i f with applied := f.applied ++ [(tile * 16 + i, q.mb, q.source)] }) s

/-- ACCUM_REOFFER (R193): 2 µs after a return the returned part enters the issue queue again. -/
def execAccumReoffer (i t rid : Nat) (s : State) : Host.Outcome State Fault Refusal :=
  atUnit i 16 <| onlyIf ((tillerAt s t).reqs.any (fun q => q.rid == rid && q.landed && q.parts.any (fun p => p.home == i && p.st == 3))) s fun s =>
    requeue t rid (fun q => { q with parts := q.parts.map (fun p => if p.st = 3 then { p with st := 0 } else p) }) s

/-! ### Bank health (R185, R186, R247) -/

/-- The bank that an event names: at a stack channel ch and bank, at a controller sub-channel ch, rank bank div 16, bank mod 16. -/
def bankOf (ch bank : Nat) : Nat := ch * 32 + bank

/-- The requests pending at a bank of a home. -/
def pendingAtBank (s : State) (h n : Nat) : List (Nat × MemReq × Part) :=
  (pendingParts s h).filter (fun x => x.2.2.blocks.any (fun b => bankNo h b.1 == n))

/-- The engines' requests that wait at a bank of a home. -/
def enginesAtBank (s : State) (h n : Nat) : List EngEntry := (engineOf s h).filter (fun e => !e.poison && (runBanks h e.runs).contains n)
/-- Requests pending at a bank. -/
def pendingCount (s : State) (h n : Nat) : Nat := (pendingAtBank s h n).length + (enginesAtBank s h n).length
/-- The bank's present silence has raised BANK_SLOW already. -/
def slowRaised (s : State) (h n : Nat) : Bool := (if h < 16 then (stackAt s h).slow else (deepAt s (h - 16)).slow).contains n
def raiseSlow (h n : Nat) (s : State) : State :=
  if h < 16 then modStack s h (fun x => { x with slow := x.slow ++ [n] }) else modDeep s (h - 16) (fun x => { x with slow := x.slow ++ [n] })

/-- BANK_HEALTH recorded. -/
def recordBank (h ch bank n us : Nat) (s : State) : State :=
  if h < 16 then wr s (.yst h) Reg.YST_BANK_HEALTH (word (put ch 4 0 + put bank 9 5 + 2 ^ 10 + put n 23 11 + put (min us (2 ^ 32 - 1)) 63 32))
  else wr s (.dtr (h - 16)) Reg.DTR_BANK_HEALTH
    (word (put ch 1 0 + put (bank / 16) 2 2 + put (bank % 16) 6 3 + 2 ^ 7 + put n 20 8 + put (min us (2 ^ 32 - 1)) 63 32))

/-- The home serves at full rate: the timers run outside the thermal band only (R211). -/
def timersRun (s : State) (h : Nat) : Bool := if h < 16 then !(stackAt s h).thermal else true

/-- BANK_SLOW (R185, R247): a bank with a pending request has been silent for 20 µs; once for each period of silence. i is a home. -/
def execBankSlow (i ch bank us : Nat) (s : State) : Host.Outcome State Fault Refusal :=
  atUnit i 48 <|
    let n := bankOf ch bank
    onlyIf (decide (0 < pendingCount s i n) && timersRun s i && !slowRaised s i n) s fun s =>
      let s := raiseSlow i n (recordBank i ch bank (pendingCount s i n) us s)
      if i < 16 then setEv (.yst i) Reg.YST_EVENT Bit.YST_EVENT_BANK_SLOW s
      else setEv (.dtr (i - 16)) Reg.DTR_EVENT Bit.DTR_EVENT_BANK_SLOW s

/-- Silence of 2 ms at a bank: its pending requests complete poisoned and the domain is flagged (R186). -/
def bankTimeout (h ch bank us : Nat) (s : State) : State :=
  let n := bankOf ch bank
  let l := pendingAtBank s h n
  let s := recordBank h ch bank (pendingCount s h n) us s
  let s := l.foldl (fun s x => answerPart x.1 x.2.1.rid h (fun p => { p with poison := true, cause := 12 }) s) s
  let s := endSilence h [n] (modEngine h (·.map (fun e => if (runBanks h e.runs).contains n then { e with poison := true } else e)) s)
  let s := if h < 16 then setEv (.yst h) Reg.YST_EVENT Bit.YST_EVENT_BANK_TIMEOUT s
           else setEv (.dtr (h - 16)) Reg.DTR_EVENT Bit.DTR_EVENT_BANK_TIMEOUT s
  let w := if h < 16 then rd s (.yst h) Reg.YST_BANK_HEALTH else rd s (.dtr (h - 16)) Reg.DTR_BANK_HEALTH
  flagDomain (homeDomain h) { source := homeSource h, cause := 2, severity := 3, detail := homeDetail h w } s

/-- BANK_TIMEOUT (R186). -/
def execBankTimeout (i ch bank us : Nat) (s : State) : Host.Outcome State Fault Refusal :=
  atUnit i 16 <| onlyIf (decide (0 < pendingCount s i (bankOf ch bank)) && timersRun s i) s fun s => copyPump (bankTimeout i ch bank us s)

/-- DT_BANK_TIMEOUT (R247). -/
def execDtBankTimeout (d sub rank bank us : Nat) (s : State) : Host.Outcome State Fault Refusal :=
  atUnit d 32 <| onlyIf (decide (0 < pendingCount s (16 + d) (bankOf sub (rank * 16 + bank)))) s fun s =>
    copyPump (bankTimeout (16 + d) sub (rank * 16 + bank) us s)

/-! ### Scrub, erasure, refresh (R206, R209, R210) -/

/-- Codewords of a home. -/
def homeCodewords (h : Nat) : Nat := if h < 16 then 25165824 * 64 else 16777216 * 64

/-- SCRUB_READ (R209, R246): patrol scrub reads the next codeword of home i, whose symbol errors the event gives. A completed pass is
counted and ends the period of R206. A home that is flagged, fenced or in reset does not scrub (log entry 127). -/
def execScrubRead (i sec : Nat) (err : List (Nat × Nat)) (s : State) : Host.Outcome State Fault Refusal :=
  atUnit i 48 <|
    let hours := if i < 16 then bits (rd s (.yst i) Reg.YST_CTRL) 7 0 else bits (rd s (.dtr (i - 16)) Reg.DTR_CTRL) 7 0
    onlyIf (decide (hours ≠ 0) && !homeDown s i) s fun s =>
      let n := if i < 16 then (stackAt s i).scrubPos else (deepAt s (i - 16)).scrubPos
      let k := physKey i (n / 64) (n % 64 * 64)
      let s := eccScan k 64 (plantErrs i [(k / 64, err)] s)
      let done := n + 1 == homeCodewords i
      let next := if done then 0 else n + 1
      if i < 16 then
        let s := cntAdd (.yst i) Reg.YST_CNT_CE_DIE sec s
        let s := modStack s i (fun x => { x with scrubPos := next, dieCe := if done then [] else x.dieCe })
        if done then cntInc (.yst i) Reg.YST_CNT_SCRUB_PASSES s else s
      else modDeep s (i - 16) (fun x => { x with scrubPos := next })

/-- DIE_AUTO_ERASE (R206). -/
def execDieAutoErase (i die : Nat) (s : State) : Host.Outcome State Fault Refusal :=
  atUnit i 16 <|
    let e := rd s (.yst i) Reg.YST_DIE_ERASE
    onlyIf (decide (die < 16) && bit (rd s (.yst i) Reg.YST_CTRL) 12 && decide (4096 < smGet (fun _ => 0) (stackAt s i).dieCe die) && !bit e die) s fun s =>
      setEv (.yst i) Reg.YST_EVENT Bit.YST_EVENT_DIE_ERASED (wr s (.yst i) Reg.YST_DIE_ERASE (e ||| word (2 ^ die)))

/-- Refreshes that a bank of a home owes. -/
def refreshDebt (s : State) (h n : Nat) : Nat :=
  smGet (fun _ => 0) (if h < 16 then (stackAt s h).refreshDebt else (deepAt s (h - 16)).refreshDebt) n
def setDebt (h n v : Nat) (s : State) : State :=
  if h < 16 then modStack s h (fun x => { x with refreshDebt := smSet (fun _ => 0) x.refreshDebt n v })
  else modDeep s (h - 16) (fun x => { x with refreshDebt := smSet (fun _ => 0) x.refreshDebt n v })

/-- BANK_REFRESH (R210, R248): a bank's refresh is due; it is postponed while requests wait there, by at most 8 intervals. -/
def execBankRefresh (i ch bank : Nat) (s : State) : Host.Outcome State Fault Refusal :=
  atUnit i 48 <| .next <|
    let n := bankOf ch bank
    if decide (0 < pendingCount s i n) && decide (refreshDebt s i n < 8) then setDebt i n (refreshDebt s i n + 1) s
    else setDebt i n 0 s

/-- REFRESH_FORCE (R210): a refresh postponed 8 intervals is forced. -/
def execRefreshForce (i ch bank : Nat) (s : State) : Host.Outcome State Fault Refusal :=
  atUnit i 48 <| onlyIf (decide (8 ≤ refreshDebt s i (bankOf ch bank))) s fun s => setDebt i (bankOf ch bank) 0 s

/-! ### Temperature (R211, R248, R478) -/

/-- STACK_TEMP_SAMPLE (R211): the temperatures of the 16 dies. -/
def execStackTempSample (i : Nat) (temps : List Nat) (s : State) : Host.Outcome State Fault Refusal :=
  atUnit i 16 <| onlyIf (temps.length == 16) s fun s =>
    let hot := temps.zipIdx.foldl (fun (b : Nat × Nat) p => if b.1 < p.1 then p else b) (temps.headD 0, 0)
    let m := hot.1
    let entered := decide (95 ≤ m) && !(stackAt s i).thermal
    let s := modStack s i (fun x => { x with
      tempMax := min m 255, hotDie := hot.2, refresh2x := decide (85 < m), thermal := x.thermal || decide (95 ≤ m),
      st := if 95 ≤ m ∧ x.st = 0 then 1 else x.st })
    let s := if entered then setEv .pwr Reg.PWR_EVENT Bit.PWR_EVENT_STACK_HOT (setEv (.yst i) Reg.YST_EVENT Bit.YST_EVENT_THERM_LIMIT s) else s
    if 100 ≤ m then
      flagDomain (0x20 + i) { source := 2, cause := 3, severity := 3, detail := homeDetail i (rd s (.yst i) Reg.YST_BANK_HEALTH) }
        (setEv (.yst i) Reg.YST_EVENT Bit.YST_EVENT_THERM_TRIP s)
    else s

/-- STACK_THERM_EXIT (R211): the hottest die has stayed below 93 °C for 1 ms. -/
def execStackThermExit (i : Nat) (s : State) : Host.Outcome State Fault Refusal :=
  atUnit i 16 <| onlyIf ((stackAt s i).thermal && decide ((stackAt s i).tempMax < 93)) s fun s =>
    modStack s i (fun x => { x with thermal := false, st := if x.st = 1 then 0 else x.st })

/-- DT_TEMP_SAMPLE (R248): the package temperature of a controller. -/
def execDtTempSample (d temp : Nat) (s : State) : Host.Outcome State Fault Refusal :=
  atUnit d 32 <| .next <|
    let entered := decide (95 < temp) && !(deepAt s d).thermal
    let s := modDeep s d (fun x => { x with
      temp := min temp 255, thermal := x.thermal || decide (95 < temp), st := if 95 < temp ∧ x.st = 0 then 1 else x.st })
    let s := if entered then setEv .pwr Reg.PWR_EVENT Bit.PWR_EVENT_DEEP_HOT (setEv (.dtr d) Reg.DTR_EVENT Bit.DTR_EVENT_THERM_LIMIT s) else s
    if 105 ≤ temp then
      flagDomain (0x30 + d / 8) { source := 3, cause := 3, severity := 3, detail := homeDetail (16 + d) (rd s (.dtr d) Reg.DTR_BANK_HEALTH) }
        (setEv (.dtr d) Reg.DTR_EVENT Bit.DTR_EVENT_THERM_TRIP s)
    else s

/-- DT_THERM_EXIT (R248). -/
def execDtThermExit (d : Nat) (s : State) : Host.Outcome State Fault Refusal :=
  atUnit d 32 <| onlyIf ((deepAt s d).thermal && decide ((deepAt s d).temp < 93)) s fun s =>
    modDeep s d (fun x => { x with thermal := false, st := if x.st = 1 then 0 else x.st })

end Sys2Proof.Machine
end

