-- ==== Sys2Proof/Machine/Shards.lean ====
section
/-! DEFINITION. Shard sets (R269 to R276): which quads a copy owns, where they lie in the arrays and the stack views, and the
commands that create, free and set up the training state of a channel. -/

namespace Sys2Proof.Machine

open Sys2Proof

/-! ### Quads (R269) -/

/-- Quads of a tensor, of a list of tensors, and before tensor i of a group. -/
def tensorQuads (x : TensorDesc) : Nat := tensorTiles x / 4
def groupQuads (ts : List TensorDesc) : Nat := (ts.map tensorQuads).sum
def quadsBefore (ts : List TensorDesc) (i : Nat) : Nat := groupQuads (ts.take i)

/-- The quads that copy c of p owns: the first, and one past the last. -/
def ownRange (ts : List TensorDesc) (p c : Nat) : Nat × Nat := (c * groupQuads ts / p, (c + 1) * groupQuads ts / p)

/-- The portion of tensor i on copy c of p: its first quad in the group, and its quads. -/
def portion (ts : List TensorDesc) (p c i : Nat) : Nat × Nat :=
  let r := ownRange ts p c
  let a := quadsBefore ts i
  let lo := max r.1 a
  (lo, min r.2 (a + tensorQuads (ts.getD i {})) - lo)

/-- The copy that owns a quad. -/
def quadOwner (ts : List TensorDesc) (p q : Nat) : Nat :=
  match (List.range p).find? (fun c => decide ((ownRange ts p c).1 ≤ q) && decide (q < (ownRange ts p c).2)) with
  | some c => c
  | none => 0

/-- The tensor of a quad of the group, and its number within the tensor. -/
def quadTensor : List TensorDesc → Nat → Nat → Nat × Nat
  | [], i, q => (i, q)
  | x :: r, i, q => if q < tensorQuads x then (i, q) else quadTensor r (i + 1) (q - tensorQuads x)

/-! ### Arrays (R271 to R273, R298; array codes: 0 MASTER, 1 M1, 2 M2, 3 GRAD, 4 WORK) -/

/-- Slots of an array (Table 9.1). -/
def arraySlots (x : ShardSet) (a : Nat) : Nat :=
  if a ≤ 2 then (if x.pingpong then 2 else 1) else if a = 4 ∧ x.hostRes then 2 else 1

/-- The object of an array. -/
def arrayObj (x : ShardSet) (a : Nat) : Nat :=
  match a with | 0 => x.master | 1 => x.m1 | 2 => x.m2 | 3 => x.grad | _ => x.work

/-- The granule of an array that holds quad j of tensor i's portion in a slot: slot 1 of a tensor's portion follows slot 0
(R198). -/
def quadGranule (x : ShardSet) (a i slot j : Nat) : Nat :=
  let pt := portion x.tensors x.p x.c i
  arraySlots x a * (pt.1 - (ownRange x.tensors x.p x.c).1) + slot * pt.2 + j

/-- The granule of an array that holds a quad of the group owned here. -/
def granuleOf (x : ShardSet) (a slot q : Nat) : Nat :=
  let t := (quadTensor x.tensors 0 q).1
  quadGranule x a t slot (q - (portion x.tensors x.p x.c t).1)

/-- The object offset of byte v of the stack view of an object in a stack (R273, R170). -/
def viewAt (s : State) (oi st v : Nat) : Nat :=
  v / 4096 * 65536 + (st ^^^ (nbits (granAt s (objAt s oi) (v / 4096)).home 24 0 % 16)) * 4096 + v % 4096

/-- n bytes at a stack view offset, inside one block; and bytes written there. -/
def viewRead (oi st v n : Nat) (s : State) : State × List Byte × RdCause := objRead {} oi (viewAt s oi st v) n s
def viewWrite (oi st v : Nat) (bs : List Byte) (s : State) : State × Bool := objWrite {} oi (viewAt s oi st v) bs s

/-- Update granules of a portion of n quads: 4,194,304 parameters of a stack view each (R199). -/
def updGranules (n : Nat) : Nat := ceilDiv n 4096

/-- STAGING of a set (R295): quads of a view that the largest update granule holds, 0 with no tensor to update; slots of each
stack; a slot's blocks. -/
def stageQuads (ts : List TensorDesc) (p c : Nat) : Nat :=
  (List.range ts.length).foldl (fun m i => if (ts.getD i {}).opt = 0 then m else max m (min 4096 (portion ts p c i).2)) 0
def stageSlots (ts : List TensorDesc) (p c : Nat) (deltaEn : Bool) : Nat :=
  if deltaEn then ((List.range ts.length).map (fun i => if (ts.getD i {}).opt = 0 then 0 else updGranules (portion ts p c i).2)).sum
  else 2
def stageBlocks (ts : List TensorDesc) (p c : Nat) : Nat :=
  (2 + (if hasM1 ts then 1 else 0)) * stageQuads ts p c

/-- The staging slot of an update granule of a tensor. -/
def stageSlot (x : ShardSet) (i granule : Nat) : Nat :=
  if x.deltaEn then
    ((List.range i).map (fun k => if (x.tensors.getD k {}).opt = 0 then 0 else updGranules (portion x.tensors x.p x.c k).2)).sum + granule
  else granule % 2

/-- Staging view offset of the block that holds array a (0 to 2) of the k-th quad of a slot. -/
def stagingAt (x : ShardSet) (slot a k : Nat) : Nat :=
  let before := if a = 2 ∧ !hasM1 x.tensors then 1 else a
  (slot * stageBlocks x.tensors x.p x.c + before * stageQuads x.tensors x.p x.c + k) * 4096

/-! ### Allocation of aligned arrays (R271) -/

/-- The lowest free frame under hash interleave with base n, n + 16 and so on. -/
def nextAligned (used : SMap Bool) : Nat → Nat → Option Nat
  | 0, _ => none
  | fuel + 1, n =>
    if stackBlocks ≤ n then none
    else if (frameUses 1 (frameAddr 1 n 0 0 false)).any (fun k => smGet (fun _ => false) used k) then nextAligned used fuel (n + 16)
    else some n

/-- Frames for granules g, g + 1 and so on, each with the base residue that res gives it. -/
def takeAligned (res : Nat → Nat) : Nat → Nat → List Nat → SMap Bool → Option (List Nat × SMap Bool)
  | 0, _, _, used => some ([], used)
  | n + 1, g, cur, used =>
    let r := res g % 16
    match nextAligned used (2 ^ 21) (cur.getD r r) with
    | none => none
    | some b =>
      let f := frameAddr 1 b 0 0 false
      match takeAligned res n (g + 1) (cur.set r (b + 16)) ((frameUses 1 f).foldl (fun u k => smInsert k true u) used) with
      | none => none
      | some (fs, u) => some (f :: fs, u)

/-- Frames of an aligned array. -/
def allocAligned (res : Nat → Nat) (s : State) (n : Nat) : Option (List Nat × State) :=
  match takeAligned res n 0 (List.range 16) s.used with
  | none => none
  | some (fs, u) => some (fs, { s with used := u })

/-- Objects created for a list of arrays, given by their granules (0: absent, object 0): the first five are parameter arrays. -/
def createArrays (c : Nat) (res : Nat → Nat) : Nat → List Nat → State → Except Nat (List Nat × State)
  | _, [], s => .ok ([], s)
  | k, n :: r, s =>
    if n = 0 then
      match createArrays c res (k + 1) r s with
      | .error e => .error e
      | .ok (os, s) => .ok (0 :: os, s)
    else
      let o : NewObj := { size := n * 65536, dataBytes := n * 65536 }
      match createObjBy (fun s g => if k < 5 then allocAligned res s g else allocFrames s 1 0 false g) s c o with
      | .error e => .error e
      | .ok (oi, _, s) =>
        match createArrays c res (k + 1) r s with
        | .error e => .error e
        | .ok (os, s) => .ok (oi :: os, s)

/-- Frames under hash interleave still free with each base residue. -/
def freeResidues (s : State) : List Nat :=
  let taken := (s.used.map (fun p => p.1)).filter (fun k => decide (k < 2 ^ 27))
  let bases := (taken.map (· % 2 ^ 25)).eraseDups
  (List.range 16).map (fun r => stackBlocks / 16 - (bases.filter (fun b => decide (b < stackBlocks) && b % 16 == r)).length)

/-- The granule whose residue granule g of a set's arrays shares: with two slots in MASTER, M1 and M2, granule 2b + j and granule
2b + n + j of those hold quad j of the tensor whose n quads begin at granule b of the other arrays (R198, R273), and these three lie
in one stack block by block, as an item needs (R197); fuel bounds the tensors. -/
def rootGranule (ts : List TensorDesc) (p c : Nat) : Nat → Nat → Nat
  | 0, g => g
  | fuel + 1, g =>
    let lo := (ownRange ts p c).1
    match (List.range ts.length).find? (fun i => let pt := portion ts p c i; decide (2 * (pt.1 - lo) ≤ g) && decide (g < 2 * (pt.1 - lo + pt.2))) with
    | none => g
    | some i =>
      let pt := portion ts p c i
      let x := pt.1 - lo + (g - 2 * (pt.1 - lo)) % pt.2
      if x < g then rootGranule ts p c fuel x else g

/-- The residue of each granule 0 to n of a set's parameter arrays: g mod 16 where that residue has frames for every granule that
shares it, else the first that has (log entry 9). -/
def pickResidues (root : Nat → Nat) (counts : List Nat) (n : Nat) (free : List Nat) : List Nat :=
  ((List.range n).foldl (fun (a : List Nat × List Nat) g =>
    if root g ≠ g then (a.1 ++ [a.1.getD (root g) 0], a.2)
    else
      let need := (counts.map (fun m => ((List.range m).filter (fun y => root y == g)).length)).sum
      let fits (r : Nat) : Bool := decide (need ≤ a.2.getD r 0)
      let r := if fits (g % 16) then g % 16 else ((List.range 16).find? fits).getD (g % 16)
      (a.1 ++ [r], a.2.modify r (· - need))) ([], free)).1

/-- The arrays of a set: granule g of every parameter array has one residue (R271). -/
def createSet (s : State) (c : Nat) (root : Nat → Nat) (counts : List Nat) : Except Nat (List Nat × State) :=
  let par := counts.take 5
  let rs := pickResidues root par (par.foldl max 0) (freeResidues s)
  createArrays c (fun g => rs.getD g (g % 16)) 0 counts s

/-- `rootGranule` of a set in ping-pong mode; in the others every granule stands for itself. -/
def setRoot (ts : List TensorDesc) (p c : Nat) (pingpong : Bool) : Nat → Nat :=
  if pingpong then rootGranule ts p c (ts.length + 1) else id

/-- Granules of the arrays of a set in the order of Table 9.1. -/
def setCounts (ts : List TensorDesc) (p c : Nat) (pingpong deltaEn hostRes : Bool) : List Nat :=
  let r := ownRange ts p c
  let own := max 1 (r.2 - r.1)
  let par := (if pingpong then 2 else 1) * own
  let rows := ceilDiv (128 * ts.length) 4096
  [if hostRes then 0 else par, if hostRes ∨ !hasM1 ts then 0 else par, if hostRes then 0 else par, own,
   if hostRes then 2 * own else own, rows, rows,
   if hostRes ∨ pingpong then 0 else stageSlots ts p c deltaEn * stageBlocks ts p c]

/-! ### Commands -/

/-- A shard set of a channel. -/
def setAt (s : State) (c i : Nat) : ShardSet := (chanAt s c).trn.sets.getD i {}
def modSet (c i : Nat) (f : ShardSet → ShardSet) (s : State) : State := modTrn s c (fun t => { t with sets := t.sets.modify i f })

/-- The live group of a channel with a role. -/
def roleGroup (s : State) (c role : Nat) : Option (Nat × Group) :=
  s.links.groups.find? (fun p => p.2.live && p.2.ch == c && p.2.role == role)

/-- The copy count and index of a channel (R344): those of its DP group, or one copy. -/
def copyCount (s : State) (c : Nat) : Nat × Nat := match roleGroup s c 0 with | some g => (g.2.extent, g.2.index) | none => (1, 0)

/-- A tensor table entry (Table 9.2), and whether it is in range. -/
def tensorOf (b : List Byte) : TensorDesc :=
  let w (o n : Nat) : Nat := leValue ((b.drop o).take n)
  { key := w 0 4, rowBlocks := w 4 2, colBlocks := w 6 2, opt := w 8 1 }
def tensorOk (b : List Byte) : Bool :=
  let d := tensorOf b
  d.rowBlocks != 0 && d.colBlocks != 0 && d.opt ≤ 3 && leValue ((b.drop 9).take 7) == 0

/-- Bytes of an object that a channel may read, as a command's table: none where the channel may not, where they lie outside it
or where they cannot be read. -/
def tableBytes (s : State) (c oi off n : Nat) : Option (List Byte) :=
  let o := objAt s oi
  if !mayRead s c o ∨ o.size < off + n then none
  else
    let r := objRead { ch := some c } oi off n s
    if r.2.2 = 0 then some r.2.1 else none

/-- The formats of a set (R272, R275, R296, R302): MOM_FMT FP32 or BF16, WORK_FMT a format, WORK_SCALE 0 or 2, FP32 moments in ping-pong
mode. An MX format is narrowed with its block scales, so WORK_SCALE is 2 with it, and an FP8 format with the byte of its portion, so it
is 0 (log entry 130). -/
def setFormatsOk (mom work scale : Nat) (pingpong hostRes : Bool) : Bool :=
  (mom == 1 || mom == 2) && !(pingpong && (mom != 1 || hostRes)) &&
  (match formatOf work with | some f => (scale == 0 && !f.isMx) || (scale == 2 && !f.isFp8) | none => false)

/-- SHARD_CREATE (R269 to R276, R302, R344): a set created, or nothing. -/
def execShardCreate (src : CmdSrc) (e : Entry) (s : State) : Host.Outcome State Fault Refusal :=
  serve 0x30 src e s fun x s =>
    let n := bits e.a0 27 17
    let p := bits e.a0 34 28
    let c := bits e.a0 40 35
    let mom := bits e.a0 48 41
    let work := bits e.a0 56 49
    let pingpong := bit e.a0 59
    let deltaEn := bit e.a0 60
    let hostRes := bit e.a0 61
    let bad (s : State) : State := answer x ST_SHARD_INVALID [] s
    match (chanAt s x.ch).trn.sets.findIdx? (fun q => !q.valid) with
    | none => bad s
    | some si =>
      if n = 0 ∨ 1024 < n ∨ p = 0 ∨ 64 < p ∨ p ≤ c ∨ copyCount s x.ch ≠ (p, c) ∨
          !setFormatsOk mom work (bits e.a0 58 57) pingpong hostRes then bad s
      else match tableBytes s x.ch (bits e.a0 16 0) e.a1.toNat (16 * n) with
        | none => answer x ST_NO_ACCESS [] s
        | some bs =>
          let rows := chunksOf 16 n bs
          let ts := rows.map tensorOf
          let own := (ownRange ts p c).2 - (ownRange ts p c).1
          if !rows.all tensorOk ∨ (List.range n).any (fun i => 256 < updGranules (portion ts p c i).2) then bad s
          else if hostRes ∧ e.a3.toNat < 65536 * own then bad s
          else if hostRes ∧ !inWindow (chanAt s x.ch) true e.a2.toNat e.a3.toNat then answer x ST_NO_ACCESS [] s
          else match createSet s x.ch (setRoot ts p c pingpong) (setCounts ts p c pingpong deltaEn hostRes) with
            | .error st => answer x st [] s
            | .ok (os, s) =>
              let o (k : Nat) : Nat := os.getD k 0
              let v : ShardSet := {
                valid := true, tensors := ts, p := p, c := c, momFmt := mom, workFmt := work, workScale := bits e.a0 58 57,
                pingpong := pingpong, deltaEn := deltaEn, hostRes := hostRes, hostBase := e.a2.toNat, hostLen := e.a3.toNat,
                master := o 0, m1 := o 1, m2 := o 2, grad := o 3, work := o 4, hyperObj := o 5, progress := o 6, staging := o 7,
                sums := List.replicate n 0, hyper := List.replicate n {} }
              answer x ST_OK [word si, word (put (o 0) 16 0 + put (o 1) 33 17 + put (o 2) 50 34),
                word (put (o 3) 16 0 + put (o 4) 33 17 + put (o 5) 50 34), word (put (o 6) 16 0 + put (o 7) 33 17)]
                (modSet x.ch si (fun _ => v) s)

/-- A set is in use (R274, R234): a sheaf is registered over it, or an array is named by a queued item, copy or collective. -/
def setBusy (s : State) (c i : Nat) : Bool :=
  (chanAt s c).trn.sheaves.any (fun f => f.set == i) || (setArrays (setAt s c i)).any (objBusy s) ||
  s.links.groups.any (fun p => p.2.colls.any (fun y => y.ch == c && y.kind ≤ 1 && y.set == i)) ||
  s.cxl.regions.any (fun p => p.2.valid && (setArrays (setAt s c i)).contains p.2.obj)

/-- Every array of a set freed. -/
def freeSet (c i : Nat) (s : State) : State :=
  modSet c i (fun _ => {}) ((setArrays (setAt s c i)).foldl (fun s oi => releaseObj s oi) s)

/-- SHARD_FREE (R274). -/
def execShardFree (src : CmdSrc) (e : Entry) (s : State) : Host.Outcome State Fault Refusal :=
  serve 0x31 src e s fun x s =>
    let i := bits e.a0 3 0
    if !(setAt s x.ch i).valid then answer x ST_SHARD_INVALID [] s
    else if setBusy s x.ch i then answer x ST_BUSY [] s
    else answer x ST_OK [] (freeSet x.ch i s)

/-- A run of tensors lies in a live set. -/
def runOk (x : ShardSet) (first count : Nat) : Bool := x.valid && decide (1 ≤ count) && decide (first + count ≤ x.tensors.length)

/-- HYPER_SET (R289, R316): the fields wait for the first step not yet started. -/
def execHyperSet (src : CmdSrc) (e : Entry) (s : State) : Host.Outcome State Fault Refusal :=
  serve 0x32 src e s fun x s =>
    let i := bits e.a0 3 0
    let first := bits e.a0 13 4
    let count := bits e.a0 24 14
    let lo (w : Word) : F32 := BitVec.ofNat 32 w.toNat
    let hi (w : Word) : F32 := BitVec.ofNat 32 (w.toNat / 2 ^ 32)
    let h : HyperFields := {
      lr := lo e.a1, beta1 := hi e.a1, beta2 := lo e.a2, eps := hi e.a2, wd := lo e.a3, rmsD := hi e.a3, flags := bits e.a4 2 0 }
    if !runOk (setAt s x.ch i) first count then answer x ST_SHARD_INVALID [] s
    else
      let n := (chanAt s x.ch).trn.stepCur + 1
      answer x ST_OK [] (modSet x.ch i (fun v => { v with hyperNext := v.hyperNext ++ [(n, first, count, bit e.a0 25, h)] }) s)

/-- A variant table entry (Table 9.9): its index and content, or none when a field lies outside its range. -/
def variantOf (b : List Byte) : Option (Nat × Variant) :=
  let w (o n : Nat) : Nat := leValue ((b.drop o).take n)
  let v : Variant := {
    valid := (w 0 4).testBit 13, train := (w 0 4).testBit 14, rank := nbits (w 0 4) 24 16, scale := BitVec.ofNat 32 (w 4 4),
    set := nbits (w 8 4) 3 0, tensorA := nbits (w 8 4) 13 4, tensorB := nbits (w 8 4) 23 14 }
  if (w 0 4).testBit 15 ∨ nbits (w 0 4) 31 25 ≠ 0 ∨ nbits (w 8 4) 31 24 ≠ 0 ∨ w 12 52 ≠ 0 ∨ (v.valid ∧ (v.rank = 0 ∨ 256 < v.rank)) then none
  else some (nbits (w 0 4) 12 0, v)

/-- VARIANT_SET (R310): the entries wait for the first step not yet started. -/
def execVariantSet (src : CmdSrc) (e : Entry) (s : State) : Host.Outcome State Fault Refusal :=
  serve 0x38 src e s fun x s =>
    let n := bits e.a2 13 0
    if n = 0 ∨ 8192 < n then answer x ST_BAD_COMMAND [] s
    else match tableBytes s x.ch (bits e.a0 16 0) e.a1.toNat (64 * n) with
      | none => answer x ST_NO_ACCESS [] s
      | some bs =>
        match (chunksOf 64 n bs).mapM variantOf with
        | none => answer x ST_BAD_COMMAND [] s
        | some vs => answer x ST_OK [] (modTrn s x.ch (fun t => { t with
            variantNext := t.variantNext ++ vs.map (fun v => (t.stepCur + 1, v.1, v.2)) }))

/-- COMMIT_ACK (R304): the host's state of the last committed step is durable. -/
def execCommitAck (src : CmdSrc) (e : Entry) (s : State) : Host.Outcome State Fault Refusal :=
  serve 0x37 src e s fun x s =>
    let t := (chanAt s x.ch).trn
    if e.a0.toNat ≠ t.committed ∨ t.committed ≤ t.acked ∨ !t.sets.any (fun v => v.valid && v.hostRes) then answer x ST_BAD_STEP [] s
    else answer x ST_OK [] (modTrn s x.ch (fun t => { t with acked := t.committed, ackStep := 0 }))

end Sys2Proof.Machine
end

