-- ==== Sys2Proof/Machine/Update.lean ====
section
/-! DEFINITION. The update units of the base dies (R196 to R202, R289 to R296, R299, R300): work items, their granule phases,
the optimizers, the progress records and the working copies. -/

namespace Sys2Proof.Machine

open Sys2Proof

/-! ### Blocks of elements (R272) -/

/-- 1,024 FP32 elements of a block, and a block of them. -/
def f32sOf (bs : List Byte) : List F32 := (chunksOf 4 (bs.length / 4 + 1) bs).map (fun b => BitVec.ofNat 32 (leValue b))
def bytesOfF32s (xs : List F32) : List Byte := xs.flatMap (fun v => leBytes 4 v.toNat)

/-- A block of an array of FP32 (code 1) or BF16 elements as FP32 values, and back to its bytes. -/
def momElems (fmt : Nat) (bs : List Byte) : List F32 :=
  if fmt = 1 then f32sOf bs else (chunksOf 2 1024 (bs.take 2048)).map (fun b => f32OfBf16 (leValue b))
def momBytes (fmt : Nat) (xs : List F32) : List Byte :=
  if fmt = 1 then bytesOfF32s xs else xs.flatMap (fun v => leBytes 2 (v.toNat / 65536)) ++ List.replicate 2048 0

/-! ### Hyperparameter blocks and progress records (Tables 9.4, 9.6) -/

/-- A hyperparameter block as its 64 bytes, and from them. -/
def hyperBytes (h : HyperFields) : List Byte :=
  [h.lr, h.beta1, h.beta2, h.eps, h.wd, h.rmsD].flatMap (fun v => leBytes 4 v.toNat) ++ leBytes 8 h.t ++ leBytes 4 h.b1pow.toNat ++
    leBytes 4 h.b2pow.toNat ++ leBytes 4 h.flags ++ List.replicate 20 0
def hyperOf (b : List Byte) : HyperFields :=
  let w (o n : Nat) : Nat := leValue ((b.drop o).take n)
  let f (o : Nat) : F32 := BitVec.ofNat 32 (w o 4)
  { lr := f 0, beta1 := f 4, beta2 := f 8, eps := f 12, wd := f 16, rmsD := f 20, t := w 24 8, b1pow := f 32, b2pow := f 36,
    flags := nbits (w 40 4) 2 0 }

/-- A field of a number replaced. -/
def setNat (v hi lo x : Nat) : Nat := v - nbits v hi lo * 2 ^ lo + x % 2 ^ (hi + 1 - lo) * 2 ^ lo

/-- A progress record as one number, bit 8·o + b for bit b of byte o; and one written. -/
def progRead (x : ShardSet) (i st : Nat) (s : State) : State × Nat × RdCause :=
  let r := viewRead x.progress st (128 * i) 128 s
  (r.1, leValue r.2.1, r.2.2)
def progWrite (x : ShardSet) (i st v : Nat) (s : State) : State := (viewWrite x.progress st (128 * i) (leBytes 128 v) s).1
/-- The record without its state change. -/
def progAt (s : State) (x : ShardSet) (i st : Nat) : Nat := (progRead x i st s).2.1

def progStep (v : Nat) : Nat := nbits v 63 0
def progClip (v : Nat) : F32 := BitVec.ofNat 32 (nbits v 95 64)
def progLs (v : Nat) : Int := signedOf 8 (nbits v 103 96)
def progValid (v : Nat) : Bool := v.testBit 105
def progScale (v : Nat) : Nat := nbits v 119 112
def progSum (v : Nat) : Nat := nbits v 159 128
def progDone (v : Nat) : Bool := v.testBit 169
/-- MAP of granule k: 0 NONE, 1 SAVED, 2 MOMENTS_DONE, 3 MASTER_DONE. -/
def progMark (v k : Nat) : Nat := nbits v (512 + 2 * k + 1) (512 + 2 * k)
def setMark (v k m : Nat) : Nat := setNat v (512 + 2 * k + 1) (512 + 2 * k) m

/-- The header of a progress record with a clear MAP, as the rachis writes it before it queues the items (R293). -/
def progHeader (step : Nat) (clip : F32) (ls : Int) (granules : Nat) : Nat :=
  put step 63 0 + put clip.toNat 95 64 + put (unsignedOf 8 ls) 103 96 + put (step % 2) 104 104 + putB true 105 + put granules 168 160

/-! ### Optimizers (R288, R290 to R292) -/

/-- The scaled gradient (R288). -/
def scaledGrad (ls : Int) (c g : F32) : F32 := fMul (fScale g (-ls)) c

/-- A left fold of FP32 additions from +0.0. -/
def foldAdd (xs : List F32) : F32 := xs.foldl fAdd 0

/-- The new moments of a block by OPT 0x01 and 0x02, before they are narrowed. -/
def newM1 (opt : Nat) (h : HyperFields) (m g : List F32) : List F32 :=
  if opt = 1 then List.zipWith (fun b x => fFma h.beta1 b x) m g
  else List.zipWith (fun a x => fFma h.beta1 a (fMul (fSub 0x3F800000 h.beta1) x)) m g
def newM2 (h : HyperFields) (v g : List F32) : List F32 :=
  List.zipWith (fun a x => fFma h.beta2 a (fMul (fSub 0x3F800000 h.beta2) (fMul x x))) v g

/-- Row and column statistics of a block of 16 columns by 64 K indices (R292 steps 1 to 3): R by k, C by j. -/
def factorStats (h : HyperFields) (old g : List F32) : List F32 :=
  let sq := g.map (fun x => fFma x x h.eps)
  let at_ (j k : Nat) : F32 := sq.getD (64 * j + k) 0
  let a2 := fSub 0x3F800000 h.beta2
  let rs := (List.range 64).map (fun k =>
    fFma h.beta2 (old.getD k 0) (fMul a2 (fScale (foldAdd ((List.range 16).map (fun j => at_ j k))) (-4))))
  let cs := (List.range 16).map (fun j =>
    fFma h.beta2 (old.getD (64 + j) 0) (fMul a2 (fScale (foldAdd ((List.range 64).map (fun k => at_ j k))) (-6))))
  rs ++ cs

/-- The normalised, clipped gradient u of a block from its statistics (R292 steps 4 to 6). -/
def factorU (h : HyperFields) (st g : List F32) : List F32 :=
  let sum := fScale (foldAdd (st.take 64)) (-6)
  let u := g.zipIdx.map (fun p => fDiv p.1 (fSqrt (fDiv (fMul (st.getD (p.2 % 64) 0) (st.getD (64 + p.2 / 64) 0)) sum)))
  let rho := fSqrt (fScale (u.foldl (fun a x => fFma x x a) 0) (-10))
  let gt (a b : F32) : Bool := (ofF32 b).lt (ofF32 a)
  if gt h.rmsD 0 && gt rho h.rmsD then let d := fDiv rho h.rmsD; u.map (fun x => fDiv x d) else u

/-- The statistics in an M2 block: R0–R63 at bytes 4k, C0–C15 at bytes 256 + 4j. -/
def statsOf (bs : List Byte) : List F32 := (f32sOf bs).take 80
def statsBlock (xs : List F32) : List Byte := bytesOfF32s xs ++ List.replicate (4096 - 320) 0

/-- The new masters of a block from the new moments as stored, the old masters and the scaled gradient (Table 9.5, R291). -/
def newMasters (opt : Nat) (h : HyperFields) (w m1 m2 g : List F32) : List F32 :=
  let lw := fMul h.lr h.wd
  let dec (w : F32) : F32 := fFma (fNeg lw) w w
  let out (w d : F32) : F32 := fFma (fNeg h.lr) d (dec w)
  if opt = 1 then
    let d := if h.flags.testBit 0 then List.zipWith (fun b x => fFma h.beta1 b x) m1 g else m1
    List.zipWith out w d
  else if opt = 2 then
    let one : F32 := 0x3F800000
    let k1 := if h.flags.testBit 1 then fDiv one (fSub one h.b1pow) else one
    let k2 := if h.flags.testBit 1 then fDiv one (fSub one h.b2pow) else one
    let d := List.zipWith (fun m v => fDiv (fMul m k1) (fAdd (fSqrt (fMul v k2)) h.eps)) m1 m2
    List.zipWith out w d
  else List.zipWith out w (if h.flags.testBit 2 then m1 else factorU h m2 g)

/-- New first moments of OPT 0x03 with FIRST_MOMENT. -/
def factorM1 (h : HyperFields) (m u : List F32) : List F32 :=
  List.zipWith (fun a x => fFma h.beta1 a (fMul (fSub 0x3F800000 h.beta1) x)) m u

/-- Moments narrowed to BF16 (R201): e0 is the place of the block's first element in the segment. -/
def narrowMoments (seed : Word) (step tensor e0 : Nat) (xs : List F32) : List F32 :=
  xs.zipIdx.map (fun p =>
    let e := e0 + p.2
    let r := srDraw seed (word step) (word tensor) (tileKey 0 (e / 4096 % 2 ^ 18) (e / 4096 / 2 ^ 18) 0 4) (word (e % 4096)) 0
    f32OfBf16 (narrowStoch .bf16 (ofF32 p.1) r).bits)

/-! ### Working copies (R136, R141 to R143, R156, R272) -/

/-- Elements of a list narrowed to an element format under a scale byte. -/
def narrowScaled (f : Format) (sc : Nat) (xs : List F32) : List Narrowed :=
  xs.map (fun v => narrowNear f ((ofF32 v).scale (127 - (sc : Int))))

/-- A block's working copy: its used bytes, and the elements that saturated (R134, R135). -/
def workBlock (f : Format) (sc : Nat) (w : List F32) : List Byte × Nat :=
  if f.isMx then
    let gs := (chunksOf 32 32 w).map (narrowBlock f none 0)
    (packElems f.bits (gs.flatMap (fun g => g.2.map (·.bits))) ++ gs.map (fun g => BitVec.ofNat 8 g.1),
     (gs.flatMap (fun g => g.2.filter (·.sat))).length)
  else
    let ns := narrowScaled f (if f.isFp8 then sc else 127) w
    (packElems f.bits (ns.map (·.bits)), (ns.filter (·.sat)).length)

/-! ### Items -/

/-- The set and the quads of an item. -/
def itemSet (s : State) (i : UpdItem) : ShardSet := setAt s i.ch i.set
def itemQuads (i : UpdItem) : Nat := i.elems / 1024
/-- Quads of update granule g of an item. -/
def granQuads (i : UpdItem) (g : Nat) : Nat := min 4096 (itemQuads i - 4096 * g)

/-- View offset of quad k of a granule in an array of an item, in a slot. -/
def itemAt (i : UpdItem) (ref : Nat × Nat) (slot g k : Nat) : Nat := ref.2 + (slot * itemQuads i + 4096 * g + k) * 4096

/-- Where old masters and moments are read, and new ones written: (object, view offset) of array a. -/
def oldRef (s : State) (i : UpdItem) (a g k : Nat) : Nat × Nat :=
  let r := if a = 0 then i.master else if a = 1 then i.m1 else i.m2
  if i.pingpong then (r.1, itemAt i r (1 - i.parity) g k)
  else let x := itemSet s i; (x.staging, stagingAt x (stageSlot x i.idx g) a k)
def newRef (i : UpdItem) (a g k : Nat) : Nat × Nat :=
  let r := if a = 0 then i.master else if a = 1 then i.m1 else i.m2
  (r.1, itemAt i r (if i.pingpong then i.parity else 0) g k)

/-- The item writes M1, and M2. -/
def itemM1 (i : UpdItem) (h : HyperFields) : Bool := i.opt == 1 || i.opt == 2 || (i.opt == 3 && h.flags.testBit 2)
def itemM2 (i : UpdItem) : Bool := i.opt == 2 || i.opt == 3

/-- An object's stack views hold n bytes from a view offset on, in a stack: a live object of the item's channel with stacked homes under
hash interleave. -/
def viewHolds (s : State) (i : UpdItem) (r : Nat × Nat) (unit n : Nat) : Bool :=
  let o := objAt s r.1
  ownsObj i.ch o && o.homeTier == 1 && !o.homeLocal && r.2 % unit == 0 && decide ((r.2 + n + 4095) / 4096 * 65536 ≤ o.size)

/-- The references that an item writes, with their slots. -/
def itemWrites (i : UpdItem) : List (Nat × Nat) :=
  [i.master, i.m1] ++ (if itemM2 i then [i.m2] else []) ++ [i.work]

/-- An item's references lie in the executing stack, what it writes may be written, and its fields and reserved bits are in their ranges
(R196, R197). -/
def itemOk (s : State) (i : UpdItem) (rsv : Bool) : Bool :=
  let n := 4 * i.elems
  let slots := if i.pingpong then 2 * n else n
  rsv && decide (1 ≤ i.opt) && decide (i.opt ≤ 3) && decide (0 < i.elems) && decide (i.elems ≤ 2 ^ 30) && i.elems % 1024 == 0 &&
  (i.momFmt == 1 || i.momFmt == 2) && (formatOf i.workFmt).isSome && (i.workScale == 0 || i.workScale == 2) &&
  viewHolds s i i.master 4096 slots && viewHolds s i i.m1 4096 slots && (if itemM2 i then viewHolds s i i.m2 4096 slots else i.m2 == (0, 0)) &&
  viewHolds s i i.grad 4096 n && viewHolds s i i.work 4096 n && viewHolds s i i.hyper 64 64 &&
  (itemWrites i).all (fun r => (objAt s r.1).mode != 1)

/-- A run of an item changed. -/
def modRun (st : Nat) (f : UpdRun → UpdRun) (s : State) : State := modStack s st (fun x => { x with run := x.run.map f })

/-- Where a granule's phases begin, from its mark (Table 9.7, R300): 5 for a granule whose masters are done. -/
def phaseOfMark (i : UpdItem) (m : Nat) : Nat :=
  if m = 3 then 5 else if m = 2 then 2 else if i.pingpong then 1 else m

/-- A read that the update needs is uncorrectable (R202): the stack is flagged. During a roll-forward nothing further changes
and the channel reports ST_RECOVERY_INEXACT (R301, R464). -/
def updUe (st : Nat) (i : UpdItem) (s : State) : State :=
  let s := if (chanAt s i.ch).rcv.st = 3 then reportInexact i.ch s else s
  flagDomain (0x20 + st) { source := 2, cause := 4, severity := 3, channel := handleOf s i.ch, step := i.step,
                           detail := homeDetail st (rd s (.yst st) Reg.YST_ECC_LAST) }
    s

/-- The run enters a granule: at its first phase, or past a granule whose masters are done. fuel bounds the granules. -/
def enterGranule (st : Nat) : Nat → State → State
  | 0, s => s
  | fuel + 1, s =>
    match (stackAt s st).run with
    | none => s
    | some r =>
      let i := r.item
      if updGranules (itemQuads i) ≤ r.granule then
        if i.workScale = 2 then s else modRun st (fun r => { r with phase := 3, granule := 0 }) s
      else
        let v := progRead (itemSet s i) i.idx st s
        let s := v.1
        let ph := phaseOfMark i (progMark v.2.1 r.granule)
        if v.2.2 ≠ 0 then updUe st i s
        else if ph = 5 then
          if i.workScale = 2 then modRun st (fun r => { r with phase := 4 }) s
          else enterGranule st fuel (modRun st (fun r => { r with granule := r.granule + 1 }) s)
        else modRun st (fun r => { r with phase := ph }) s

/-- A block read by the update unit; a failed read is remembered. -/
def updRead (st : Nat) (ref : Nat × Nat) (a : State × Bool) : State × Bool × List Byte :=
  let r := viewRead ref.1 st ref.2 4096 a.1
  (r.1, a.2 && r.2.2 == 0, r.2.1)

/-- Phase 0: the granule's masters and moments are copied into its staging slot (R294). -/
def preImage (st : Nat) (i : UpdItem) (h : HyperFields) (g : Nat) (s : State) : State × Bool :=
  let as := 0 :: (if itemM1 i h then [1] else []) ++ (if itemM2 i then [2] else [])
  (List.range (granQuads i g)).foldl (fun acc k => as.foldl (fun (acc : State × Bool) a =>
    if !acc.2 then acc
    else
      let r := updRead st (newRef i a g k) acc
      let d := oldRef r.1 i a g k
      (if r.2.1 then (viewWrite d.1 st d.2 r.2.2 r.1).1 else r.1, r.2.1)) acc) (s, true)

/-- The scaled gradient of a block. -/
def gradBlock (st : Nat) (i : UpdItem) (g k : Nat) (a : State × Bool) : State × Bool × List F32 :=
  let r := updRead st (i.grad.1, itemAt i i.grad 0 g k) a
  (r.1, r.2.1, (f32sOf r.2.2).map (scaledGrad i.lsExp i.clip))

/-- A moment block as it is stored: narrowed when MOM_FMT is BF16. -/
def momBlock (s : State) (i : UpdItem) (which g k : Nat) (xs : List F32) : List Byte :=
  if i.momFmt = 1 then bytesOfF32s xs
  else momBytes 2 (narrowMoments (chanAt s i.ch).trn.seed i.step (i.tensor + which) ((4096 * g + k) * 1024) xs)

/-- Phase 1: the granule's new moments (R294, Table 9.5). -/
def momentPhase (st : Nat) (i : UpdItem) (h : HyperFields) (g : Nat) (s : State) : State × Bool :=
  (List.range (granQuads i g)).foldl (fun (acc : State × Bool) k =>
    if !acc.2 then acc
    else
      let gr := gradBlock st i g k acc
      let o1 := if itemM1 i h then updRead st (oldRef gr.1 i 1 g k) (gr.1, gr.2.1) else (gr.1, gr.2.1, [])
      let o2 := if itemM2 i then updRead st (oldRef o1.1 i 2 g k) (o1.1, o1.2.1) else (o1.1, o1.2.1, [])
      let s := o2.1
      if !o2.2.1 then (s, false)
      else
        let stats := factorStats h (statsOf o2.2.2) gr.2.2
        let m1 := if i.opt = 3 then factorM1 h (momElems i.momFmt o1.2.2) (factorU h stats gr.2.2)
                  else newM1 i.opt h (momElems i.momFmt o1.2.2) gr.2.2
        let s := if itemM1 i h then let d := newRef i 1 g k; (viewWrite d.1 st d.2 (momBlock s i 0 g k m1) s).1 else s
        let m2 := if i.opt = 3 then statsBlock stats else momBlock s i 1 g k (newM2 h (momElems i.momFmt o2.2.2) gr.2.2)
        let s := if itemM2 i then let d := newRef i 2 g k; (viewWrite d.1 st d.2 m2 s).1 else s
        (s, true)) (s, true)

/-- Phase 2: the granule's new masters, from the new moments as stored (R291, R294). -/
def masterPhase (st : Nat) (i : UpdItem) (h : HyperFields) (g : Nat) (s : State) : State × Bool :=
  (List.range (granQuads i g)).foldl (fun (acc : State × Bool) k =>
    if !acc.2 then acc
    else
      let gr := gradBlock st i g k acc
      let w := updRead st (oldRef gr.1 i 0 g k) (gr.1, gr.2.1)
      let m1 := if itemM1 i h then updRead st (newRef i 1 g k) (w.1, w.2.1) else (w.1, w.2.1, [])
      let m2 := if itemM2 i then updRead st (newRef i 2 g k) (m1.1, m1.2.1) else (m1.1, m1.2.1, [])
      if !m2.2.1 then (m2.1, false)
      else
        let v2 := if i.opt = 3 then statsOf m2.2.2 else momElems i.momFmt m2.2.2
        let d := newRef i 0 g k
        ((viewWrite d.1 st d.2 (bytesOfF32s (newMasters i.opt h (f32sOf w.2.2) (momElems i.momFmt m1.2.2) v2 gr.2.2)) m2.1).1, true))
    (s, true)

/-- The source of a check by the update unit (Table 5.10). -/
def wnwStack (st : Nat) (i : UpdItem) : Nat := putB true 7 + put st 11 8 + putB true 20 + put i.step 63 32

/-- The log record of a failed check: its severity is 1 when the rewrite reads back equal, 3 when the stack is flagged (Table 13.11). -/
def wnwRec (s : State) (st : Nat) (i : UpdItem) (severity : Nat) : LogRec :=
  { source := 2, cause := 5, severity := severity, channel := handleOf s i.ch, step := i.step, detail := wnwStack st i + st * 2 ^ 64 }

/-- A block of a sampled working-copy tile read back and compared with its regeneration (R162): a difference is a hard-failed check, and
the block is rewritten and read back once more. 0 equal in the end, 1 a read failed, 2 the second read-back differs too. -/
def checkBlock (st : Nat) (i : UpdItem) (ref : Nat × Nat) (bs : List Byte) (s : State) : State × Nat :=
  let r := updRead st ref (s, true)
  if !r.2.1 then (r.1, 1)
  else if r.2.2 = bs then (r.1, 0)
  else
    let s := wr r.1 (.chn i.ch) Reg.CHN_WNW_LAST_SRC (word (wnwStack st i))
    let s := cntInc (.chn i.ch) Reg.CHN_CNT_WNW_HARD (setEv (.chn i.ch) Reg.CHN_NUM_EVENT Bit.CHN_NUM_EVENT_WNW_HARD s)
    let r := updRead st ref ((viewWrite ref.1 st ref.2 bs s).1, true)
    if !r.2.1 then (r.1, 1) else if r.2.2 = bs then (logRec (wnwRec r.1 st i 1) r.1, 0) else (r.1, 2)

/-- The winnowing check of a quad's block in a stack (R159, R162): it lies in tile t of the quad, and the stack with a tile's first block
counts the tile. -/
def sampleTile (st : Nat) (i : UpdItem) (g k : Nat) (ref : Nat × Nat) (bs : List Byte) (s : State) : State × Nat :=
  let x := itemSet s i
  let pt := portion x.tensors x.p x.c i.idx
  let q := pt.1 - (ownRange x.tensors x.p x.c).1 + 4096 * g + k
  let res := nbits (granAt s (objAt s i.work.1) (quadGranule x 4 i.idx 0 (4096 * g + k))).home 24 0 % 16
  let t := (st ^^^ res) / 4
  if !sampledAt (stepNum s i.ch i.step) (4 * q + t) i.step then (s, 0)
  else checkBlock st i ref bs (if (st ^^^ res) % 4 = 0 then cntInc (.chn i.ch) Reg.CHN_CNT_WNW_TILES s else s)

/-- Phase 4: the granule's working copies (R156, R200), with the outcome of `checkBlock`. -/
def narrowPhase (st : Nat) (r : UpdRun) (s : State) : State × Nat × Nat :=
  let i := r.item
  match formatOf i.workFmt with
  | none => (s, 0, r.crc)
  | some f =>
    (List.range (granQuads i r.granule)).foldl (fun (acc : State × Nat × Nat) k =>
      if acc.2.1 ≠ 0 then acc
      else
        let w := updRead st (newRef i 0 r.granule k) (acc.1, true)
        if !w.2.1 then (w.1, 1, acc.2.2)
        else
          let b := workBlock f (r.scale.getD 127) (f32sOf w.2.2)
          let ref := (i.work.1, itemAt i i.work 0 r.granule k)
          let bs := b.1 ++ List.replicate (4096 - b.1.length) 0
          let s := (viewWrite ref.1 st ref.2 bs w.1).1
          let s := if b.2 = 0 then s else cntAdd (.chn i.ch) Reg.CHN_CNT_NARROW_SAT b.2
            (setEv (.chn i.ch) Reg.CHN_NUM_EVENT Bit.CHN_NUM_EVENT_NARROW_SAT s)
          let c := sampleTile st i r.granule k ref bs s
          (c.1, c.2, crcRun acc.2.2 b.1)) (s, 0, r.crc)

/-! ### Events -/

/-- An export of an earlier step has still to read the ranges of the item's tensor (R20). -/
def exportHolds (s : State) (i : UpdItem) : Bool :=
  let t := (chanAt s i.ch).trn
  (itemSet s i).deltaEn && (t.exports.any (fun d => d.tensors.any (fun e => e.1 == i.set && e.2.1 == i.idx)) ||
    t.segs.any (fun g => g.at_.isNone && g.tensors.contains (i.set, i.idx)))

/-- The update of a channel goes on in a stack: not held (R454), and the stack serves. -/
def updRuns (s : State) (st : Nat) (i : UpdItem) : Bool := !homeDown s st && (chanAt s i.ch).rcv.st != 2

/-- A rejected item (R197, R453): nothing is written, and the rachis aborts the attempt. A write that it would make to a READ_ONLY object
is recorded (R232, R538; UNIT 0, log entry 131). -/
def updReject (st : Nat) (i : UpdItem) (s : State) : State :=
  let s := match (itemWrites i).find? (fun r => (objAt s r.1).valid && (objAt s r.1).mode == 1) with
    | some r => plcFault 5 0 true 1 i.ch (some r.1) ((objAt s r.1).baseDa + viewAt s r.1 st r.2) s
    | none => s
  abortAttempt i.ch ST_UPD_INVALID 0xFF (setEv (.yst st) Reg.YST_EVENT Bit.YST_EVENT_UPD_REJECT s)

/-- UPDATE_ITEM_START (R196, R197): the unit takes the next item of its queue. -/
def execUpdateItemStart (i : Nat) (s : State) : Host.Outcome State Fault Refusal :=
  atUnit i 16 <| .next <|
    match (stackAt s i).run, (stackAt s i).updQueue with
    | none, q :: _ =>
      let it := itemRead q
      if !updRuns s i it then s
      else
        let s := modStack s i takeItem
        if !itemOk s it (itemRsvOk q.bytes) then updReject i it s
        else enterGranule i 257 (modStack s i (fun x => { x with run := some { item := it } }))
    | _, _ => s

/-- The hyperparameter block of an item. -/
def itemHyper (st : Nat) (i : UpdItem) (s : State) : State × Bool × HyperFields :=
  let r := viewRead i.hyper.1 st i.hyper.2 64 s
  (r.1, r.2.2 == 0, hyperOf r.2.1)

/-- The mark of a granule written, after which the run goes on; an uncorrectable record stops the item (R202). -/
def markGranule (st : Nat) (i : UpdItem) (g m : Nat) (next : State → State) (s : State) : State :=
  let x := itemSet s i
  let v := progRead x i.idx st s
  if v.2.2 ≠ 0 then updUe st i v.1 else next (progWrite x i.idx st (setMark v.2.1 g m) v.1)

/-- The staging slot of a granule is free for it (R295). -/
def slotFree (s : State) (st : Nat) (i : UpdItem) (g : Nat) : Bool :=
  let x := itemSet s i
  !x.staged.any (fun e => e.1 == st && stageSlot x e.2.1 e.2.2 == stageSlot x i.idx g)
def takeSlot (st : Nat) (i : UpdItem) (g : Nat) (s : State) : State :=
  modSet i.ch i.set (fun x => { x with staged := x.staged ++ [(st, i.idx, g)] }) s
def freeSlot (st : Nat) (i : UpdItem) (g : Nat) (s : State) : State :=
  modSet i.ch i.set (fun x => { x with staged := if x.deltaEn then x.staged else x.staged.filter (fun e => e != (st, i.idx, g)) }) s

/-- The working copy of an item is complete: SUM, SCALE_BYTE and WORK_DONE are written, and the item leaves the unit. -/
def finishItem (st crc : Nat) (s : State) : State :=
  match (stackAt s st).run with
  | none => s
  | some r =>
    let i := r.item
    let x := itemSet s i
    let v := progRead x i.idx st s
    if v.2.2 ≠ 0 then updUe st i v.1
    else
      let w := setNat (setNat (setNat v.2.1 159 128 (crc ^^^ 0xFFFFFFFF)) 119 112 (r.scale.getD 127)) 169 169 1
      migPump 64 (modTrn (modStack (progWrite x i.idx st w v.1) st (fun y => { y with run := none })) i.ch
        (fun t => { t with itemsLeft := t.itemsLeft - 1 }))

/-- The run's phase done in a stack, with its mark, and the next one entered. The unit writes no range that an export has still to read
(R20), and takes no staging slot that is not free (R295). -/
def updPhase (st : Nat) (r : UpdRun) (s : State) : State :=
  let i := r.item
  let g := r.granule
  let hy := itemHyper st i s
  let h := hy.2.2
  let s := hy.1
  if !hy.2.1 then updUe st i s
  else match r.phase with
    | 0 =>
      if !slotFree s st i g then
        setEv (.chn i.ch) Reg.CHN_TRN_EVENT Bit.CHN_TRN_EVENT_STAGE_WAIT (modRun st (fun r => { r with waits := true }) s)
      else
        let p := preImage st i h g (modRun st (fun r => { r with waits := false }) s)
        if !p.2 then updUe st i p.1 else markGranule st i g 1 (modRun st (fun r => { r with phase := 1 })) (takeSlot st i g p.1)
    | 1 =>
      let p := momentPhase st i h g s
      if exportHolds s i then s
      else if !p.2 then updUe st i p.1 else markGranule st i g 2 (modRun st (fun r => { r with phase := 2 })) p.1
    | 2 =>
      let p := masterPhase st i h g s
      if exportHolds s i then s
      else if !p.2 then updUe st i p.1
      else markGranule st i g 3 (fun s =>
        let s := cntAdd (.yst st) Reg.YST_CNT_UPD_ELEMS (granQuads i g * 1024) (freeSlot st i g s)
        if i.workScale = 2 then modRun st (fun r => { r with phase := 4 }) s
        else enterGranule st 257 (modRun st (fun r => { r with granule := g + 1 }) s)) p.1
    | 4 =>
      let p := narrowPhase st r s
      if p.2.1 = 1 then updUe st i p.1
      else if p.2.1 = 2 then flagDomain (0x20 + st) (wnwRec p.1 st i 3) p.1
      else if updGranules (itemQuads i) ≤ g + 1 then finishItem st p.2.2 p.1
      else
        let s := modRun st (fun r => { r with granule := g + 1, crc := p.2.2 }) p.1
        if i.workScale = 2 then enterGranule st 257 s else s
    | _ => s

/-- UPDATE_PHASE_DONE (R199, R200, R294, R296): the writes of the running phase are acknowledged, its mark is written and the next
phase begins. -/
def execUpdatePhaseDone (i : Nat) (s : State) : Host.Outcome State Fault Refusal :=
  atUnit i 16 <| .next <|
    match (stackAt s i).run with
    | none => s
    | some r => if updRuns s i r.item then updPhase i r s else s

/-- The largest magnitude of the masters that an item has written. -/
def itemAmax (st : Nat) (i : UpdItem) (s : State) : State × Bool × F32 :=
  (List.range (itemQuads i)).foldl (fun (a : State × Bool × F32) k =>
    let w := updRead st (newRef i 0 0 k) (a.1, a.2.1)
    (w.1, w.2.1, fMax a.2.2 (amaxOf (f32sOf w.2.2)))) (s, true, 0)

/-- The scale byte of a tensor's portion, returned to its 16 items (R141, R275). -/
def returnScale (c set i : Nat) (amax : F32) (s : State) : State :=
  let x := setAt s c set
  let b := match formatOf x.workFmt with | some f => if f.isFp8 then scaleByte amax f else 127 | none => 127
  (List.range 16).foldl (fun s st => modStack s st (fun y => { y with run := y.run.map (fun r =>
    if r.item.ch = c ∧ r.item.set = set ∧ r.item.idx = i then { r with scale := some b } else r) })) s

/-- SCALE_REPORT (R275): the next item of the tensor that has written every master reports to the rachis. -/
def execScaleReport (c sset tensor : Nat) (s : State) : Host.Outcome State Fault Refusal :=
  atUnit c 4096 <| .next <|
    let due (st : Nat) : Bool := (stackAt s st).run.any (fun r =>
      r.item.ch == c && r.item.set == sset && r.item.idx == tensor && r.phase == 3 && !r.reported && updRuns s st r.item)
    match (List.range 16).find? due with
    | none => s
    | some st =>
      match (stackAt s st).run with
      | none => s
      | some r =>
        let a := itemAmax st r.item s
        if !a.2.1 then updUe st r.item a.1
        else
          let s := modRun st (fun r => { r with reported := true }) a.1
          let old := (chanAt s c).trn.scaleReports.find? (fun e => e.1 == sset && e.2.1 == tensor)
          let n := (match old with | some e => e.2.2.1 | none => 0) + 1
          let m := fMax (match old with | some e => e.2.2.2 | none => 0) a.2.2
          let keep := (chanAt s c).trn.scaleReports.filter (fun e => !(e.1 == sset && e.2.1 == tensor))
          if n = 16 then returnScale c sset tensor m (modTrn s c (fun t => { t with scaleReports := keep }))
          else modTrn s c (fun t => { t with scaleReports := keep ++ [(sset, tensor, n, m)] })

/-- WORK_NARROW_START (R200, R275): every master of the segment is written and the scale byte is known. -/
def execWorkNarrowStart (i : Nat) (s : State) : Host.Outcome State Fault Refusal :=
  atUnit i 16 <| onlyIf ((stackAt s i).run.any (fun r => r.phase == 3 && r.scale.isSome && updRuns s i r.item)) s fun s =>
    modRun i (fun r => { r with phase := 4, granule := 0 }) s

end Sys2Proof.Machine
end

