-- ==== Sys2Proof/Machine/Groups.lean ====
section
/-! DEFINITION. Collective groups (R343 to R346), fences of groups (R338), broadcasts, point-to-point transfers and barriers
(R346, R350), and the serving of remote reads and writes (R336). -/

namespace Sys2Proof.Machine

open Sys2Proof

/-! ### Messages that have arrived -/

/-- The place that a message of the inbox holds. -/
def placeOf (s : State) (m : Msg) : Option RxPlace := (s.links.inbox.find? (fun y => y.m == m)).bind (·.place)

/-- A message taken from the inbox, where the flits of this module have assembled it; an event can also bring it at once. Its flits leave
the receive buffer (R330). -/
def takeMsg (m : Msg) (s : State) : State :=
  leavePlace (placeOf s m) (modLinks s (fun l => { l with inbox := match l.inbox.find? (fun y => y.m == m) with
    | some y => l.inbox.erase y | none => l.inbox }))

/-- A message that cannot be used yet waits in the inbox (R346, R350). -/
def keepMsg (m : Msg) (s : State) : State :=
  modLinks s (fun l => { l with inbox := if l.inbox.any (fun y => y.m == m) then l.inbox else l.inbox ++ [{ m := m }] })

/-- A request or a response is served in the order in which those of its VC and source have arrived (R335). -/
def msgTurn (s : State) (m : Msg) : Bool :=
  !(kindVc m.kind == 1 || kindVc m.kind == 2) ||
  match s.links.inbox.find? (fun y => sameFlow y.m m) with | some y => y.m == m | none => true

/-- The event of a message of a kind. -/
def onMsg (kind : Nat) (m : Msg) (s : State) (f : State → State) : Host.Outcome State Fault Refusal :=
  onlyIf (m.kind == kind && msgTurn s m) s f

/-- A message of VC3 (R338, R351, R353): one with another epoch is discarded and counted, one for a fenced group, or for an ABORTED one to
which no REJOIN has come yet, is discarded. -/
def onVc3 (m : Msg) (f : State → State) (s : State) : State :=
  let g := groupAt s m.group
  if !g.live then takeMsg m s
  else if g.epoch ≠ m.epoch then
    cntInc .abl Reg.ABL_CNT_STALE_DROP (setEv .abl Reg.ABL_EVENT Bit.ABL_EVENT_STALE_DROP (takeMsg m s))
  else if (g.aborted && !g.rejoined) || g.fenced then takeMsg m s
  else f s

/-! ### Members -/

/-- This module's place in a group, and the places of the others. -/
def selfIndex (g : Group) : Nat := if g.role = 3 then g.rank else g.index
def otherMembers (g : Group) : List Nat := (List.range g.members.length).filter (fun i => i != selfIndex g)

/-- A message of a group sent to a device, with the place that it keeps. -/
def sendGroupFrom (pl : Option RxPlace) (gn dst : Nat) (m : Msg) (s : State) : State :=
  sendFrom pl { m with dst := dst, group := gn, epoch := (groupAt s gn).epoch } s
def sendGroup (gn dst : Nat) (m : Msg) (s : State) : State := sendGroupFrom none gn dst m s
/-- A message sent to every other member. -/
def sendMembers (gn : Nat) (m : Msg) (s : State) : State :=
  (otherMembers (groupAt s gn)).foldl (fun s i => sendGroup gn (memberId (groupAt s gn) i) m s) s

/-- The tag of a transfer to the member at an index, where several members are sent the same: tags name one transfer each (R334). -/
def tagTo (id i : Nat) : Nat := id + i * 65536
/-- The chunks of a transfer: its kind and id, pieces of at most 64 KiB, LAST on the last one (log entry 50). -/
def sendChunks (gn dst kind id : Nat) (data : List Byte) (s : State) : State :=
  let n := max 1 (ceilDiv data.length 65536)
  (List.range n).foldl (fun s k =>
    let b := (data.drop (65536 * k)).take 65536
    sendGroup gn dst { kind := 0x30, tag := id, obj := kind, offset := 65536 * k, last := k + 1 == n, length := b.length, data := b } s) s

/-- A collective added to a group, changed, or ended. -/
def addColl (gn : Nat) (y : Coll) (s : State) : State :=
  modGroup s gn (fun g => { g with colls := g.colls ++ [y] })
def modColl (gn : Nat) (old new : Coll) (s : State) : State :=
  modGroup s gn (fun g => { g with colls := g.colls.map (fun y => if y = old then new else y) })
def endColl (gn : Nat) (y : Coll) (status : Nat) (rs : List Word) (s : State) : State :=
  let s := modGroup s gn (fun g => { g with colls := g.colls.erase y })
  match y.pos with | some p => finishRing y.ch p status rs s | none => s

/-! ### Commands on groups -/

/-- The fields of a group descriptor (Table 10.9). -/
def descGroup (b : List Byte) : Group × Nat × Nat × Nat × Nat :=
  let w (o n : Nat) : Nat := leValue ((b.drop o).take n)
  ({ live := true, role := nbits (w 0 4) 12 10, axis := nbits (w 0 4) 14 13, ring := (w 0 4).testBit 15, extent := nbits (w 4 4) 6 0,
     index := nbits (w 4 4) 13 8, origin := w 8 2, timeoutMs := w 12 4, rank := w 32 2 },
   nbits (w 0 4) 9 0, nbits (w 16 4) 16 0, nbits (w 20 4) 16 0, w 24 8)

/-- The RSV fields of a group descriptor are zero. -/
def descRsv (b : List Byte) : Bool :=
  let w (o n : Nat) : Nat := leValue ((b.drop o).take n)
  w 2 2 == 0 && !(w 4 4).testBit 7 && nbits (w 4 4) 31 14 == 0 && w 10 2 == 0 && nbits (w 16 4) 31 17 == 0 && nbits (w 20 4) 31 17 == 0 &&
    w 34 30 == 0

/-- The members of an axis group (R343). -/
def axisMembers (dims : Nat) (g : Group) : List (Nat × Bool) :=
  (List.range g.extent).map (fun i =>
    (withCoord g.origin g.axis ((coord g.origin g.axis + i) % dimOf dims g.axis), true))

/-- The fields of a descriptor are in range, this module is its member (R343), and the DP, PP and SP groups of a channel lie on different axes
(R344; its failure takes the status of R343, log entry 135). -/
def descOk (s : State) (c gn members : Nat) (g : Group) : Bool :=
  let d := dimOf s.links.dims g.axis
  let axisFree := !decide (g.role ≤ 2) || s.links.groups.all (fun p => !(p.2.live && p.2.ch == c && decide (p.2.role ≤ 2) && p.2.axis == g.axis))
  axisFree &&
  decide (g.role ≤ 4) && (g.timeoutMs == 0 || (decide (10 ≤ g.timeoutMs) && decide (g.timeoutMs ≤ 60000))) &&
  !(groupAt s gn).live && !(decide (g.role ≤ 3) && (roleGroup s c g.role).isSome) &&
  (if g.role = 3 then decide (1 ≤ members) && decide (members ≤ 65536) && decide (g.rank < members)
   else decide (g.axis ≤ 2) && decide (1 ≤ g.extent) && decide (g.extent ≤ 64) && decide (g.extent ≤ d) && decide (g.index < g.extent) &&
     (!g.ring || g.extent == d) && memberId { g with members := axisMembers s.links.dims g } g.index == s.links.deviceId)

/-- The member list of a NORM group (R345): none when an entry holds a bit outside its fields. -/
def normMembers (n : Nat) (bs : List Byte) : Option (List (Nat × Bool)) :=
  (chunksOf 4 n bs).mapM (fun b =>
    let v := leValue b
    if nbits v 31 17 = 0 then some (nbits v 15 0, v.testBit 16) else none)

/-- COLL_GROUP_CREATE (R343 to R345). -/
def execCollGroupCreate (src : CmdSrc) (e : Entry) (s : State) : Host.Outcome State Fault Refusal :=
  serve 0x40 src e s fun x s =>
    match tableBytes s x.ch (bits e.a0 16 0) e.a1.toNat 64 with
    | none => answer x ST_NO_ACCESS [] s
    | some b =>
      let d := descGroup b
      let g := d.1
      let gn := d.2.1
      let n := d.2.2.2.1
      if !descRsv b || !descOk s x.ch gn n g then answer x ST_COLL_INVALID [] s
      else
        let make (ms : List (Nat × Bool)) (s : State) : State :=
          answer x ST_OK [] (modGroup s gn (fun _ => { g with ch := x.ch, members := ms }))
        if g.role ≠ 3 then make (axisMembers s.links.dims g) s
        else match tableBytes s x.ch d.2.2.1 d.2.2.2.2 (4 * n) with
          | none => answer x ST_NO_ACCESS [] s
          | some l => match normMembers n l with
            | none => answer x ST_COLL_INVALID [] s
            | some ms => if (ms.getD g.rank (0, false)).1 = s.links.deviceId then make ms s else answer x ST_COLL_INVALID [] s

/-- A live group of a channel. -/
def ownGroup (s : State) (c gn : Nat) : Bool := (groupAt s gn).live && (groupAt s gn).ch == c

/-- COLL_GROUP_FREE (Table 12.5). -/
def execCollGroupFree (src : CmdSrc) (e : Entry) (s : State) : Host.Outcome State Fault Refusal :=
  serve 0x41 src e s fun x s =>
    let gn := bits e.a0 9 0
    if !ownGroup s x.ch gn then answer x ST_COLL_INVALID [] s
    else if !(groupAt s gn).colls.isEmpty then answer x ST_BUSY [] s
    else answer x ST_OK [] (modLinks s (fun l => { l with groups := smErase gn l.groups }))

/-- LINK_FENCE (R338): FENCE or UNFENCE sent to every other member. -/
def execLinkFence (src : CmdSrc) (e : Entry) (s : State) : Host.Outcome State Fault Refusal :=
  serve 0x47 src e s fun x s =>
    let gn := bits e.a0 9 0
    let ring := match x.src with | .ring _ => true | _ => false
    if !(groupAt s gn).live || (ring && !ownGroup s x.ch gn) then answer x ST_COLL_INVALID [] s
    else answer x ST_OK [] (sendMembers gn { kind := if bit e.a0 10 then 2 else 1 } s)

/-- A collective command on a group: it waits while the group is ABORTED, and fails on another channel's group or a fenced one. -/
def collServe (op : Nat) (src : CmdSrc) (e : Entry) (s : State) (f : Cmd → Nat → State → State) : Host.Outcome State Fault Refusal :=
  let gn := bits e.a0 9 0
  if ownGroup s (cmdOf s src e).ch gn && (groupAt s gn).aborted then .next s
  else serve op src e s fun x s =>
    if !ownGroup s x.ch gn then answer x ST_COLL_INVALID [] s
    else if (groupAt s gn).fenced then answer x ST_FENCED [] s
    else f x gn s

/-- Why a channel's use of a range, read or written, is refused: the status, and the cause of Table 7.13, 0 for a range beyond the
object, which no rule records. -/
def rangeStatus (s : State) (c : Nat) (wrt : Bool) (oi off n : Nat) : Option (Nat × Nat) :=
  let o := objAt s oi
  match refusal s c wrt o with
  | some r => some r
  | none => if o.size < off + n then some (ST_NO_ACCESS, 0) else none

/-- A refused range recorded as the collective engine's (R232, R538). -/
def collFault (c : Nat) (wrt : Bool) (oi off cause : Nat) (s : State) : State :=
  let o := objAt s oi
  if cause = 0 then s else plcFault 2 0 wrt cause c (if o.valid then some oi else none) (o.baseDa + off) s

/-- The collective engine as it reads and writes device memory. -/
def collAgent (c : Nat) (dead : List Nat) : Agent := { ch := some c, req := 140, dead := dead }

/-- The collective engine's slice that a message from a device came to, or that serves a peer: its number among the requesters of the
engine queues (R182). -/
def sliceOf (s : State) (dev : Nat) : Nat := 12 + (routeOf s dev).getD 0 % 6

/-- Accesses of the collective engine for a channel (R182, R183, R215, R237). -/
def collGated (s0 : State) (dev c : Nat) (l : List Access) (k : List Nat → State → State) (s : State) : State :=
  gated (sliceOf s0 dev) (some c) 140 l k s

/-- COLL_BCAST (R346): the root sends its range to every member; a member waits for it. -/
def execCollBcast (src : CmdSrc) (e : Entry) (s : State) : Host.Outcome State Fault Refusal :=
  let x0 := cmdOf s src e
  let g0 := groupAt s (bits e.a0 9 0)
  let a : Access := { obj := bits e.a0 32 16, off := e.a1.toNat, n := e.a2.toNat }
  let l := if served 0x42 src e s && ownGroup s x0.ch (bits e.a0 9 0) && !g0.aborted && !g0.fenced && bits e.a0 15 10 == selfIndex g0 &&
      decide (bits e.a0 15 10 < g0.members.length) && !(otherMembers g0).isEmpty && (rangeStatus s x0.ch false a.obj a.off a.n).isNone then [a] else []
  gatedBy .next (sliceOf s (memberId g0 ((otherMembers g0).headD 0))) (some x0.ch) 140 l (fun dead s =>
  collServe 0x42 src e s fun x gn s =>
    let g := groupAt s gn
    let root := bits e.a0 15 10
    let oi := bits e.a0 32 16
    let off := e.a1.toNat
    let n := e.a2.toNat
    let own := root == selfIndex g
    if g.members.length ≤ root then answer x ST_COLL_INVALID [] s
    else match rangeStatus s x.ch (!own) oi off n with
      | some st => answer x st.1 [] (collFault x.ch (!own) oi off st.2 s)
      | none =>
        if n = 0 ∨ (otherMembers g).isEmpty then answer x ST_OK [] s
        else if own then
          let r := objRead (collAgent x.ch dead) oi off n s
          if r.2.2 ≠ 0 then answer x (rdStatus r.2.2) [] r.1
          else answer x ST_OK [] ((otherMembers g).foldl (fun s i => sendChunks gn (memberId g i) 3 (tagTo 0 i) r.2.1 s) r.1)
        else addColl gn { kind := 3, ch := x.ch, pos := some x.pos, obj := oi, offset := off, len := n, root := root } s) s

/-- The checks of a point-to-point command: the status that refuses it, with the cause recorded. -/
def p2pStatus (s : State) (c gn peer : Nat) (wrt : Bool) (oi off n : Nat) : Option (Nat × Nat) :=
  let g := groupAt s gn
  if !([1, 2, 4].contains g.role) ∨ g.members.length ≤ peer ∨ (peer = selfIndex g ∧ 1 < g.members.length) then some (ST_COLL_INVALID, 0)
  else rangeStatus s c wrt oi off n

/-- A point-to-point command of either side (R350): SEND waits for CTS, RECV sends it. -/
def collP2p (op : Nat) (recv : Bool) (src : CmdSrc) (e : Entry) (s : State) : Host.Outcome State Fault Refusal :=
  collServe op src e s fun x gn s =>
    let peer := bits e.a0 15 10
    let tag := bits e.a0 63 32
    let oi := bits e.a1 16 0
    let off := e.a2.toNat
    let n := e.a3.toNat
    match p2pStatus s x.ch gn peer recv oi off n with
    | some st => answer x st.1 [] (collFault x.ch recv oi off st.2 s)
    | none =>
      if (otherMembers (groupAt s gn)).isEmpty then answer x ST_OK [] s
      else
        let y : Coll := {
          kind := if recv then 5 else 4, ch := x.ch, pos := some x.pos, id := tag, obj := oi, offset := off, len := n, root := peer }
        let s := addColl gn y s
        if recv then sendGroup gn (memberId (groupAt s gn) peer) { kind := 0x31, tag := tag } s else s

/-- COLL_SEND (R350). -/
def execCollSend (src : CmdSrc) (e : Entry) (s : State) : Host.Outcome State Fault Refusal := collP2p 0x43 false src e s
/-- COLL_RECV (R350). -/
def execCollRecv (src : CmdSrc) (e : Entry) (s : State) : Host.Outcome State Fault Refusal := collP2p 0x44 true src e s

/-- COLL_BARRIER (R346): a BARRIER to every member. -/
def execCollBarrier (src : CmdSrc) (e : Entry) (s : State) : Host.Outcome State Fault Refusal :=
  collServe 0x45 src e s fun x gn s =>
    if (otherMembers (groupAt s gn)).isEmpty then answer x ST_OK [] s
    else sendMembers gn { kind := 0x32 } (addColl gn { kind := 6, ch := x.ch, pos := some x.pos } s)

/-! ### Messages of collectives -/

/-- The place of a device in a group. -/
def indexOfDev (g : Group) (dev : Nat) : Option Nat := g.members.findIdx? (fun m => m.1 == dev)

/-- CTS (R350): the send that waits for it sends its range; before that command the CTS waits. -/
def execCts (m : Msg) (s : State) : Host.Outcome State Fault Refusal :=
  onMsg 0x31 m s <| onVc3 m fun s =>
    let g := groupAt s m.group
    match g.colls.find? (fun y => y.kind == 4 && y.id == m.tag && memberId g y.root == m.src) with
    | none => keepMsg m s
    | some y =>
      collGated s m.src y.ch [{ obj := y.obj, off := y.offset, n := y.len }] (fun dead s =>
        let r := objRead (collAgent y.ch dead) y.obj y.offset y.len (takeMsg m s)
        if r.2.2 ≠ 0 then endColl m.group y (rdStatus r.2.2) [] r.1
        else endColl m.group y ST_OK [] (sendChunks m.group m.src 4 m.tag r.2.1 r.1)) (keepMsg m s)

/-- BARRIER (R346): the barrier ends when every other member's message is in. -/
def execBarrier (m : Msg) (s : State) : Host.Outcome State Fault Refusal :=
  onMsg 0x32 m s <| onVc3 m fun s =>
    let g := groupAt s m.group
    match indexOfDev g m.src, g.colls.find? (fun y => y.kind == 6 && !y.got.any (fun e => some e.1 == indexOfDev g m.src)) with
    | some i, some y =>
      let s := takeMsg m s
      let new := { y with got := y.got ++ [(i, 0, 0)] }
      if (otherMembers g).all (fun k => new.got.any (fun e => e.1 == k)) then endColl m.group y ST_OK [] s
      else modColl m.group y new s
    | none, _ => takeMsg m s
    | _, none => keepMsg m s

/-- A chunk of a broadcast or of a receive, written in its order; LAST or the range's end completes the command. -/
def rangeChunk (m : Msg) (s : State) : State :=
  let g := groupAt s m.group
  let mine (y : Coll) : Bool :=
    memberId g y.root == m.src && (if m.obj = 3 then y.kind == 3 else y.kind == 5 && y.id == m.tag)
  match g.colls.find? mine with
  | none => keepMsg m s
  | some y =>
    if m.fail ≠ 0 then endColl m.group y m.fail [] (takeMsg m s)
    else if y.bytes < m.offset then keepMsg m s
    else if m.offset < y.bytes then takeMsg m s
    else if y.len < m.offset + m.data.length then endColl m.group y ST_COLL_INVALID [] (takeMsg m s)
    else collGated s m.src y.ch [{ write := true, obj := y.obj, off := y.offset + m.offset, n := m.data.length }] (fun dead s =>
        let w := objWrite (collAgent y.ch dead) y.obj (y.offset + m.offset) m.data (takeMsg m s)
        if w.2 then endColl m.group y ST_MEM_POISON [] w.1
        else
          let n := y.bytes + m.data.length
          if m.last ∨ y.len ≤ n then endColl m.group y (if n = y.len then ST_OK else ST_COLL_INVALID) [] w.1
          else modColl m.group y { y with bytes := n } w.1) (keepMsg m s)

/-! ### Remote access (R336) -/

/-- Why a remote request is refused: the status, and the cause of Table 7.13, 0 for one that is not recorded (R538). An object that the
group's channel may read as a member counts as lying in that channel (log entry 129). -/
def remoteStatus (s : State) (m : Msg) (wrt : Bool) (n : Nat) : Option (Nat × Nat) :=
  let g := groupAt s m.group
  if !g.live then some (ST_COLL_INVALID, 0)
  else if g.fenced then some (ST_FENCED, 0)
  else rangeStatus s g.ch wrt m.obj m.offset n

/-- ERR answered, with the refused access recorded as the link port's when it has a cause. -/
def remoteErr (m : Msg) (wrt : Bool) (status cause : Nat) (s : State) : State :=
  let o := objAt s m.obj
  let s := if cause = 0 then s else
      plcFault 4 ((routeOf s m.src).getD 0) wrt cause 0 (if o.valid then some m.obj else none) (o.baseDa + m.offset) s
  respond m 0x22 status [] s

/-- A link port as it reads and writes for a group's channel: XN, YN and ZN count as F0, XP, YP and ZP as F3 (R224). Its writes are not
detected (R56). -/
def portAgent (s : State) (m : Msg) (dead : List Nat) : Agent :=
  let p := (routeOf s m.src).getD 0 % 6
  { fld := if p % 2 = 0 then 3 else 0, ch := some (groupAt s m.group).ch, req := 142 + p, engine := false, dead := dead }

/-- The one access of a remote request, by the slice of the port that it came through (R182). -/
def remoteGated (m : Msg) (wrt : Bool) (n : Nat) (k : List Nat → State → State) (s : State) : State :=
  let a := portAgent s m []
  gated (a.req - 130) a.ch a.req [{ write := wrt, fld := a.fld, obj := m.obj, off := m.offset, n := n }] k s

/-- RD_REQ (R336). -/
def execRdReq (m : Msg) (s : State) : Host.Outcome State Fault Refusal :=
  onMsg 0x10 m s fun s =>
    match remoteStatus s m false m.length with
    | some st => remoteErr m false st.1 st.2 (takeMsg m s)
    | none => remoteGated m false m.length (fun dead s =>
        let r := objRead (portAgent s m dead) m.obj m.offset m.length (takeMsg m s)
        if r.2.2 ≠ 0 then remoteErr m false (rdStatus r.2.2) 0 r.1 else respond m 0x20 m.offset r.2.1 r.1) (keepMsg m s)

/-- WR_REQ (R56, R237, R336): applied and acknowledged, or answered with ERR; it waits while its granule moves. -/
def execWrReq (m : Msg) (s : State) : Host.Outcome State Fault Refusal :=
  onMsg 0x11 m s fun s =>
    match remoteStatus s m true m.data.length with
    | some st => remoteErr m true st.1 st.2 (takeMsg m s)
    | none => if m.fail ≠ 0 then remoteErr m true m.fail 0 (takeMsg m s) else remoteGated m true m.data.length (fun dead s =>
        let down := (writeRuns s (objAt s m.obj) m.offset m.data.length).any (fun r => homeDown s (keyHome r.1))
        let s := takeMsg m s
        if down then remoteErr m true ST_FENCED 0 s
        else
          let w := objWrite (portAgent s m dead) m.obj m.offset m.data s
          if w.2 then remoteErr m true ST_MEM_POISON 0 w.1 else respond m 0x21 m.offset [] w.1) (keepMsg m s)

/-- FENCE (R338): the group's requests that wait are answered with ERR ST_FENCED, and its VC3 messages are discarded. -/
def execFence (m : Msg) (s : State) : Host.Outcome State Fault Refusal :=
  onMsg 0x01 m s fun s =>
    let s := takeMsg m s
    if !(groupAt s m.group).live then s
    else
      let s := modGroup s m.group (fun g => { g with fenced := true })
      let mine := (s.links.inbox.map (·.m)).filter (fun q => q.group == m.group && (kindVc q.kind == 1 || kindVc q.kind == 3))
      mine.foldl (fun s q => let s := takeMsg q s; if kindVc q.kind = 1 then respond q 0x22 ST_FENCED [] s else s) s

/-- UNFENCE (R338). -/
def execUnfence (m : Msg) (s : State) : Host.Outcome State Fault Refusal :=
  onMsg 0x02 m s fun s => modGroup (takeMsg m s) m.group (fun g => if g.live then { g with fenced := false } else g)

/-- HUSK_RESEND (R261): the block at a position of a transfer sent as a husk message is sent again, plain, through the port that leads to the
module which asks. Beside TAG it carries the message's OFFSET and OBJ (log entry 50). -/
def execHuskResend (m : Msg) (s : State) : Host.Outcome State Fault Refusal :=
  onMsg 0x06 m s fun s =>
    let s := takeMsg m s
    let pos := leValue (m.data.take 4)
    let hit (t : TxMsg) : Bool := t.m.tag == m.tag && t.m.group == m.group && t.m.epoch == m.epoch && t.m.offset == m.offset && t.m.obj == m.obj &&
      decide (firstBlock t.m ≤ pos) && decide (4096 * (pos - firstBlock t.m) < t.m.data.length)
    match (List.range 6).findSome? (fun p => if (portAt s p).peerId = m.src then
        ((portAt s p).huskSent.reverse.find? hit).map (fun q => (p, q)) else none) with
    | none => s
    | some (p, t) =>
      let i := pos - firstBlock t.m
      let b := (t.m.data.drop (4096 * i)).take 4096
      enqueueMsg p { m := { t.m with offset := t.m.offset + 4096 * i, length := b.length, data := b }, vc := t.vc, cls := t.cls, plain := true } s

/-- RD_RESP (R337): this module sends no RD_REQ, so no response belongs to a request of it; one whose GEN is not that of the slice of the port
that leads to its source is counted. -/
def execRdResp (m : Msg) (s : State) : Host.Outcome State Fault Refusal :=
  onMsg 0x20 m s fun s =>
    let s := takeMsg m s
    if m.gen = sliceGen s (routeOf s m.src) then s
    else cntInc .abl Reg.ABL_CNT_STALE_DROP (setEv .abl Reg.ABL_EVENT Bit.ABL_EVENT_STALE_DROP s)

end Sys2Proof.Machine
end

