-- ==== Sys2Proof/Machine/Gather.lean ====
section
/-! DEFINITION. Gathers and shard versions (R19, R144, R270, R272, R277 to R280): what a copy sends of its working copies, how a
tensor is put together from every copy, and the abort of an attempt whose versions differ. -/

namespace Sys2Proof.Machine

open Sys2Proof

/-- Bytes that a WORK block uses (R272). -/
def workBytes (f : Format) : Nat := 128 * f.bits + (if f.isMx then 32 else 0)

/-- The slot of WORK that holds the committed working copy (R302, R303). -/
def workSlot (x : ShardSet) : Nat := if x.hostRes then x.shardStep % 2 else 0

/-- The working format of a set. -/
def workFormat (x : ShardSet) : Format := (formatOf x.workFmt).getD .bf16

/-- The quads of a portion. -/
def portionQuads (x : ShardSet) (c i : Nat) : List Nat :=
  let p := portion x.tensors x.p c i
  (List.range p.2).map (· + p.1)

/-- A read by the collective engine joined to what has been read; a failure is remembered. -/
def gatherRead (c : Nat) (dead : List Nat) (oi off n : Nat) (a : State × List Byte × RdCause) : State × List Byte × RdCause :=
  let r := objRead (collAgent c dead) oi off n a.1
  (r.1, a.2.1 ++ r.2.1, if a.2.2 = 0 then r.2.2 else a.2.2)

/-- What this copy gives to a gather of a run of tensors: its step and SUM, then for each tensor the scale byte of its portion and
the used bytes of the blocks of its quads. -/
def gatherOwn (c : Nat) (dead : List Nat) (si first count n : Nat) (s : State) : State × List Byte × RdCause :=
  let x := setAt s c si
  let u := workBytes (workFormat x)
  let sum := (List.range count).foldl (fun a k => a ^^^ x.sums.getD (first + k) 0) 0
  (List.range count).foldl (fun a k =>
    let i := first + k
    let b := progScale (progAt s x i 0)
    let a : State × List Byte × RdCause := (a.1, a.2.1 ++ [BitVec.ofNat 8 b], a.2.2)
    (portionQuads x x.c i).foldl (fun a q =>
      (List.range 16).foldl (fun a b => gatherRead c dead x.work (granuleOf x 4 (workSlot x) q * 65536 + 4096 * b) u a) a) a)
    (s, leBytes 8 n ++ leBytes 8 x.shardStep ++ leBytes 4 sum, 0)

/-- One copy's part as it is received: step, SHARD_STEP, SUM, and the rest. -/
def partStep (b : List Byte) : Nat := leValue (b.take 8)
def partShardStep (b : List Byte) : Nat := leValue ((b.drop 8).take 8)
def partSum (b : List Byte) : Nat := leValue ((b.drop 16).take 4)

/-- A standard tile of WORK in the native stationary layout, from the used bytes of its four blocks in shard order (R79, R270). -/
def nativeTile (f : Format) (bs : List Byte) : List Byte :=
  let u := workBytes f
  let blk (k : Nat) : List Byte := (bs.drop (u * k)).take u
  let es := (List.range 4).flatMap (fun k => unpackElems f.bits 1024 (blk k))
  let sc := (List.range 4).flatMap (fun k => (blk k).drop (128 * f.bits))
  packElems f.bits ((List.range 4096).map (fun i => es.getD (64 * (i % 64) + i / 64) 0)) ++
    (if f.isMx then (List.range 128).map (fun i => sc.getD (2 * (i % 64) + i / 64) 0) else [])

/-- What follows the version in the part of copy c, in its order: for each tensor of a run (k) its scale byte, and then each tile of the
portion, padding among them. -/
def partItems (x : ShardSet) (c first count : Nat) : List (Nat × Option Nat) :=
  (List.range count).flatMap (fun k => (k, none) :: (portionQuads x c (first + k)).flatMap (fun q =>
    (List.range 4).map (fun j => (k, some (4 * (q - quadsBefore x.tensors (first + k)) + j)))))

/-- The items that are whole at the front of some bytes, each with its bytes; the bytes that are left. -/
def cutItems (f : Format) : List (Nat × Option Nat) → List Byte → List ((Nat × Option Nat) × List Byte) × List Byte
  | [], bs => ([], bs)
  | it :: l, bs =>
    let n := if it.2.isNone then 1 else 4 * workBytes f
    if bs.length < n then ([], bs)
    else
      let r := cutItems f l (bs.drop n)
      ((it, bs.take n) :: r.1, r.2)

/-- Tiles and bytes that a gather of a run writes. -/
def runTiles (x : ShardSet) (first count : Nat) : Nat :=
  ((List.range count).map (fun k => let d := x.tensors.getD (first + k) {}; d.rowBlocks * d.colBlocks)).sum

/-- The attempt aborts on a version (R279): the norm group is told, with an epoch of one more. -/
def versionAbort (c : Nat) (s : State) : State :=
  let n := attemptOf (chanAt s c)
  let s := cntInc (.chn c) Reg.CHN_CNT_VERSION_ABORT (setEv (.chn c) Reg.CHN_TRN_EVENT Bit.CHN_TRN_EVENT_VERSION_ABORT s)
  let s := match roleGroup s c 3 with
    | none => s
    | some (gn, g) =>
      let s := modGroup s gn (fun g => { g with epoch := (g.epoch + 1) % 65536 })
      (otherMembers g).foldl (fun s i => sendGroup gn (memberId g i)
        { kind := 3, length := 10, data := leBytes 8 n ++ leBytes 2 ST_SHARD_VERSION } s) s
  abortAttempt c ST_SHARD_VERSION 0xFF s

/-- What an item of copy c writes into the destination: (object offset, bytes). Padding tiles are left out; a scale byte goes to every tile
of the copy's portion (R277). -/
def partWrites (s : State) (x : ShardSet) (y : Coll) (c : Nat) (e : (Nat × Option Nat) × List Byte) : List (Nat × List Byte) :=
  let f := workFormat x
  let i := y.first + e.1.1
  let before := runTiles x y.first e.1.1
  let n := runTiles x i 1
  match e.1.2 with
  | some t => if t < n then [(y.offset + (before + t) * f.tileBytes, nativeTile f e.2)] else []
  | none =>
    let ts := (portionQuads x c i).flatMap (fun q => (List.range 4).map (fun j => 4 * (q - quadsBefore x.tensors i) + j))
    if !f.isFp8 then []
    else (ts.filter (fun t => decide (t < n))).map (fun t => ((objAt s y.obj).dataBytes + y.offset / f.tileBytes + before + t, e.2))

/-- The version of a gather from those of every copy (R278); none when it fails (R279). -/
def gatherVersion (c : Nat) (y : Coll) (hs : List (List Byte)) (s : State) : Option (Nat × Nat) :=
  let step := partShardStep (hs.getD 0 [])
  let sum := hs.foldl (fun a b => a ^^^ partSum b) 0
  let old := (chanAt s c).trn.vers.find? (fun v => v.id == y.id)
  if hs.all (fun b => partShardStep b == step) && (!y.flags.testBit 0 || old.any (fun v => v.step == step && v.sum == sum)) then some (step, sum)
  else none

/-- A forward gather's version recorded (R279). -/
def recordVersion (c : Nat) (y : Coll) (v : Nat × Nat) (s : State) : State :=
  if y.flags.testBit 0 then s
  else modTrn s c (fun t => { t with vers := t.vers.filter (fun q => q.id != y.id) ++
    [{ id := y.id, step := v.1, sum := v.2, retained := y.flags.testBit 1, dest := y.obj, offset := y.offset }] })

/-- Writes into the destination of a gather; the Bool is a poisoned acknowledgement. -/
def putItems (c : Nat) (dead : List Nat) (oi : Nat) (l : List (Nat × List Byte)) (s : State) : State × Bool :=
  l.foldl (fun a w => let r := objWrite (collAgent c dead) oi w.1 w.2 a.1; (r.1, a.2 || r.2)) (s, false)

/-- The writes of a list as accesses of the collective engine. -/
def itemAccess (oi : Nat) (l : List (Nat × List Byte)) : List Access :=
  l.map (fun w => { write := true, obj := oi, off := w.1, n := w.2.length })

/-- The destination of a gather refused: its status and the cause recorded. -/
def gatherStatus (s : State) (c : Nat) (x : ShardSet) (y : Coll) : Option (Nat × Nat) :=
  let f := workFormat x
  let n := runTiles x y.first y.count
  match rangeStatus s c true y.obj y.offset (n * f.tileBytes) with
  | some st => some st
  | none => if f.isFp8 ∧ (objAt s y.obj).size < (objAt s y.obj).dataBytes + y.offset / f.tileBytes + n then some (ST_NO_ACCESS, 0) else none

/-- A re-shard of the channel runs (R356). -/
def resharding (s : State) (c : Nat) : Bool := (resh c s).active

/-- What a gather reads of this copy's working copies. -/
def gatherReads (x : ShardSet) (y : Coll) : List Access :=
  ((List.range y.count).filter (fun k => (portion x.tensors x.p x.c (y.first + k)).2 != 0)).map (fun k =>
    { obj := x.work, off := quadGranule x 4 (y.first + k) (workSlot x) 0 * 65536, n := (portion x.tensors x.p x.c (y.first + k)).2 * 65536 })

/-- The record of the step before step n has been written (R19, R284): it is formed, and none is owed. -/
def recordIn (s : State) (c n : Nat) : Bool :=
  let k := chanAt s c
  decide (n ≤ k.trn.recorded + 1) && !k.rings.owed.any (fun o => o.r.kind == 1 || o.r.kind == 2)

/-- The gather of a single copy: its version is accepted and its tensors are written, or the attempt aborts. -/
def gatherAlone (x : Cmd) (dead : List Nat) (y : Coll) (own : List Byte) (s : State) : State :=
  let v := setAt s x.ch y.set
  match gatherVersion x.ch y [own] s with
  | none => versionAbort x.ch s
  | some g =>
    let s := recordVersion x.ch y g s
    let w := putItems x.ch dead y.obj ((cutItems (workFormat v) (partItems v v.c y.first y.count) (own.drop 20)).1.flatMap (partWrites s v y v.c)) s
    if w.2 then answer x ST_MEM_POISON [] w.1 else answer x ST_OK [word g.1, word g.2] w.1

/-- GATHER (R19, R277 to R280): it waits for the record of the previous step, then every copy sends its version and its portion to every
other. A backward gather with REUSE moves no data and completes at once. -/
def execGather (src : CmdSrc) (e : Entry) (s : State) : Host.Outcome State Fault Refusal :=
  let x0 := cmdOf s src e
  let c := x0.ch
  let si := bits e.a0 3 0
  let y : Coll := {
    kind := 0, ch := c, pos := some x0.pos, step := stepAt s c x0.pos, id := bits e.a0 34 25, obj := bits e.a1 16 0,
    offset := e.a2.toNat, set := si, first := bits e.a0 13 4, count := bits e.a0 24 14,
    flags := putB (bit e.a0 35) 0 + putB (bit e.a0 36) 1 }
  let v := setAt s c si
  let grp := roleGroup s c 0
  let reuse := bit e.a0 35 && bit e.a0 37
  let moves := served 0x33 src e s && !reuse && runOk v y.first y.count && (gatherStatus s c v y).isNone
  let peer := match grp with | some g => memberId g.2 ((otherMembers g.2).headD 0) | none => 0
  let f := workFormat v
  let n := runTiles v y.first y.count
  let whole : List Access := { write := true, obj := y.obj, off := y.offset, n := n * f.tileBytes } ::
    (if f.isFp8 then [{ write := true, obj := y.obj, off := (objAt s y.obj).dataBytes + y.offset / f.tileBytes, n := n }] else [])
  if !recordIn s c y.step || resharding s c || (!reuse && v.p != 1 && grp.any (fun g => g.2.aborted)) then .next s
  else gatedBy .next (sliceOf s peer) (some c) 140
    (if moves then gatherReads v y ++ (if v.p = 1 then whole else []) else []) (fun dead s => serve 0x33 src e s fun x s =>
    let v := setAt s x.ch si
    if !runOk v y.first y.count then answer x ST_SHARD_INVALID [] s
    else if reuse then
      match (chanAt s x.ch).trn.vers.find? (fun q => q.id == y.id) with
      | some q => answer x ST_OK [word q.step, word q.sum] s
      | none =>
        let a := drawFree s
        let b := drawFree a.2
        answer x ST_OK [a.1, word (b.1.toNat % 2 ^ 32)] b.2
    else match gatherStatus s x.ch v y with
      | some st => answer x st.1 [] (collFault x.ch true y.obj y.offset st.2 s)
      | none =>
        let own := gatherOwn x.ch dead si y.first y.count y.step s
        if own.2.2 ≠ 0 then answer x (rdStatus own.2.2) [] own.1
        else if v.p = 1 then gatherAlone x dead y own.2.1 own.1
        else match grp with
          | none => answer x ST_COLL_INVALID [] own.1
          | some (gn, g) =>
            if g.extent ≠ v.p then answer x ST_COLL_INVALID [] own.1
            else if g.fenced then answer x ST_FENCED [] own.1
            else
              let tag := y.id + 1024 * bits e.a0 35 35 + 2048 * si
              let s := addColl gn { y with data := [(v.c, own.2.1)], root := tag } own.1
              let s := (otherMembers g).foldl (fun s i => sendChunks gn (memberId g i) 5 (tagTo tag i) (own.2.1.take 20) s) s
              (otherMembers g).foldl (fun s i => sendChunks gn (memberId g i) 0 (tagTo tag i) (own.2.1.drop 20) s) s) s

/-- The collective of a gather that a chunk belongs to, and the index of its sender. -/
def gatherColl (s : State) (m : Msg) : Option (Nat × Coll) :=
  let g := groupAt s m.group
  match indexOfDev g m.src, g.colls.find? (fun y => y.kind == 0 && y.root == m.tag % 65536) with
  | some i, some y => some (i, y)
  | _, _ => none

/-- Every copy's part of a gather has been written: it ends, with its version. -/
def gatherEnd (gn : Nat) (old new : Coll) (s : State) : State :=
  let x := setAt s new.ch new.set
  let s := modColl gn old new s
  if (List.range x.p).all (fun i => new.got.any (fun e => e.1 == i && e.2.1 == (partItems x i new.first new.count).length)) then
    endColl gn new ST_OK [word new.len, word new.bytes] s
  else s

/-- The version of another copy's part of a gather (R278, R279). With those of every copy in, the version is accepted, and this copy's own part
is written; or the attempt aborts and nothing is written. -/
def versionChunk (m : Msg) (s : State) : State :=
  match gatherColl s m with
  | none => if (indexOfDev (groupAt s m.group) m.src).isNone then takeMsg m s else keepMsg m s
  | some (i, y) =>
    let x := setAt s y.ch y.set
    if partStep m.data < y.step then takeMsg m s
    else if partStep m.data ≠ y.step ∨ y.data.any (fun d => d.1 == i) then keepMsg m s
    else
      let new := { y with data := y.data ++ [(i, m.data)] }
      if new.data.length < x.p then modColl m.group y new (takeMsg m s)
      else
        let part (k : Nat) : List Byte := match new.data.find? (fun d => d.1 == k) with | some d => d.2 | none => []
        match gatherVersion y.ch y ((List.range x.p).map part) s with
        | none => versionAbort y.ch (takeMsg m s)
        | some v =>
          let r := cutItems (workFormat x) (partItems x x.c y.first y.count) ((part x.c).drop 20)
          let l := r.1.flatMap (partWrites s x y x.c)
          collGated s m.src y.ch (itemAccess y.obj l) (fun dead s =>
            let w := putItems y.ch dead y.obj l (recordVersion y.ch y v (takeMsg m s))
            if w.2 then endColl m.group y ST_MEM_POISON [] w.1
            else gatherEnd m.group y { y with flags := y.flags + 4, len := v.1, bytes := v.2, data := [], got := [(x.c, r.1.length, 0)] } w.1) (keepMsg m s)

/-- A chunk of another copy's part of a gather (R277, R279, R346): it waits until the version is accepted, and is then written as far as its
tiles are whole. -/
def gatherChunk (m : Msg) (s : State) : State :=
  match gatherColl s m with
  | none => if (indexOfDev (groupAt s m.group) m.src).isNone then takeMsg m s else keepMsg m s
  | some (i, y) =>
    let x := setAt s y.ch y.set
    let e := (y.got.find? (fun e => e.1 == i)).getD (i, 0, 0)
    if m.fail ≠ 0 then endColl m.group y m.fail [] (takeMsg m s)
    else if !y.flags.testBit 2 || m.offset != e.2.2 then keepMsg m s
    else
      let old := match y.data.find? (fun d => d.1 == i) with | some d => d.2 | none => []
      let r := cutItems (workFormat x) ((partItems x i y.first y.count).drop e.2.1) (old ++ m.data)
      let l := r.1.flatMap (partWrites s x y i)
      collGated s m.src y.ch (itemAccess y.obj l) (fun dead s =>
        let w := putItems y.ch dead y.obj l (takeMsg m s)
        if w.2 then endColl m.group y ST_MEM_POISON [] w.1
        else gatherEnd m.group y { y with
          data := y.data.filter (fun d => d.1 != i) ++ [(i, r.2)],
          got := y.got.filter (fun e => e.1 != i) ++ [(i, e.2.1 + r.1.length, m.offset + m.data.length)] } w.1) (keepMsg m s)

end Sys2Proof.Machine
end

