-- ==== Sys2Proof/Machine/Sheaves.lean ====
section
/-! DEFINITION. Sheaves (R281 to R285): their registration, their completion, the reduce-scatter over the data-parallel copies
(R148, R346 to R348) and the sum of squares (R149, R154). -/

namespace Sys2Proof.Machine

open Sys2Proof

/-- A sheaf descriptor (Table 9.3). -/
def sheafDesc (b : List Byte) : Sheaf :=
  let w (o n : Nat) : Nat := leAt b o n
  { num := w 0 2, bf16 := (w 0 4).testBit 16, ns := nbits (w 0 4) 27 18 + 1, set := nbits (w 0 4) 31 28, firstTile := w 4 4,
    tiles := w 8 4, accObj := nbits (w 0xC 4) 16 0, accOffset := w 0x10 8, firstMb := w 0x18 2, mbCount := w 0x1A 2 }

/-- The RSV fields of a sheaf descriptor are zero. -/
def sheafRsv (b : List Byte) : Bool := !(leAt b 0 4).testBit 17 && nbits (leAt b 0xC 4) 31 17 == 0 && leAt b 0x1C 36 == 0

/-- The accumulation area is an object that the channel owns and can write, with stacked homes, and it holds the sheaf. -/
def areaOk (s : State) (c : Nat) (f : Sheaf) : Bool :=
  let o := objAt s f.accObj
  let n := f.tiles * sheafBytes f
  mayWrite c o && o.homeTier == 1 && f.accOffset % 65536 == 0 && decide (f.accOffset + n ≤ o.size) &&
    (granulesOf f.accOffset n).all (fun g => (granAt s o g).homeTier == 1)

/-- The fields of a descriptor are in range (R281). -/
def sheafOk (s : State) (c : Nat) (f : Sheaf) : Bool :=
  let t := (chanAt s c).trn
  let x := setAt s c f.set
  let n := f.tiles * sheafBytes f
  x.valid && decide (2 ^ 20 ≤ n) && decide (n ≤ 2 ^ 29) && decide (f.firstTile + f.tiles ≤ 4 * groupQuads x.tensors) &&
  decide (1 ≤ f.mbCount) && areaOk s c f && decide (t.sheaves.length < 1024) && t.close.isNone &&
  t.sheaves.all (fun g => g.num != f.num &&
    !(g.set == f.set && decide (g.firstTile < f.firstTile + f.tiles) && decide (f.firstTile < g.firstTile + g.tiles)))

/-- A sheaf tile is no padding (R269, R282). -/
def realTile (x : ShardSet) (f : Sheaf) (t : Nat) : Bool := (groupTile x.tensors 0 (f.firstTile + t)).isSome

/-- SHEAF_REGISTER (R195, R281 to R284): it waits for the record of the step before it; padding tiles hold +0.0 from now on. -/
def execSheafRegister (src : CmdSrc) (e : Entry) (s : State) : Host.Outcome State Fault Refusal :=
  let n := stepAt s (cmdOf s src e).ch (cmdOf s src e).pos
  if !recordIn s (cmdOf s src e).ch n then .next s
  else serve 0x34 src e s fun x s =>
    match tableBytes s x.ch (bits e.a0 16 0) e.a1.toNat 64 with
    | none => answer x ST_NO_ACCESS [] s
    | some b =>
      let f := { sheafDesc b with step := n }
      if !sheafRsv b || !sheafOk s x.ch f then answer x ST_SHEAF_INVALID [] s
      else
        let v := setAt s x.ch f.set
        let tb := sheafBytes f
        let s := ((List.range f.tiles).filter (fun t => !realTile v f t)).foldl (fun s t =>
          objStore { ch := some x.ch } f.accObj (f.accOffset + t * tb) (List.replicate tb 0) s) s
        let s := { s with stackMap := s.stackMap.map (fun p =>
          (p.1, { p.2 with holdBuf := p.2.holdBuf.filter (fun h => !(h.ch == x.ch && h.sheaf == f.num)) })) }
        answer x ST_OK [] (modTrn s x.ch (fun t => { t with sheaves := t.sheaves ++ [f], phase := 1 }))

/-! ### The reduction -/

/-- Every tile of a sheaf is complete in every stack that holds a part of it (R283, R285). -/
def sheafComplete (s : State) (c : Nat) (f : Sheaf) : Bool :=
  let x := setAt s c f.set
  let o := objAt s f.accObj
  let tb := sheafBytes f
  (List.range f.tiles).all (fun t => !realTile x f t ||
    (readRuns s o 0 (f.accOffset + t * tb) tb).all (fun r => cursorOf f t (keyHome r.1) == f.ns * f.mbCount))

/-- The quads that a sheaf touches, and the sheaf tiles that lie in one. -/
def sheafQuads (f : Sheaf) : List Nat :=
  (List.range ((f.firstTile + f.tiles + 3) / 4 - f.firstTile / 4)).map (· + f.firstTile / 4)
def quadPiece (f : Sheaf) (q : Nat) : List Nat :=
  (List.range 4).filterMap (fun k =>
    if f.firstTile ≤ 4 * q + k ∧ 4 * q + k < f.firstTile + f.tiles then some (4 * q + k - f.firstTile) else none)

/-- Elements of a sheaf's bytes as FP32 values, and back. -/
def sheafElems (f : Sheaf) (bs : List Byte) : List F32 :=
  if f.bf16 then (chunksOf 2 (bs.length / 2 + 1) bs).map (fun b => f32OfBf16 (leValue b)) else f32sOf bs
def sheafPack (f : Sheaf) (xs : List F32) : List Byte :=
  if f.bf16 then xs.flatMap (fun v => leBytes 2 (v.toNat / 65536)) else bytesOfF32s xs

/-- This copy's partials of a quad's tiles in a sheaf. -/
def readPiece (c : Nat) (dead : List Nat) (f : Sheaf) (q : Nat) (s : State) : State × List F32 × RdCause :=
  let tb := sheafBytes f
  let r := (quadPiece f q).foldl (fun a t => gatherRead c dead f.accObj (f.accOffset + t * tb) tb a) (s, [], 0)
  (r.1, sheafElems f r.2.1, r.2.2)

/-- One addition of the reduce-scatter on a quad's tiles (R148, R347): in BF16 mode rounded stochastically with DOMAIN 3. -/
def addPiece (s : State) (c : Nat) (f : Sheaf) (q round : Nat) (run own : List F32) : List F32 :=
  let x := setAt s c f.set
  (List.zipWith fAdd run own).zipIdx.map (fun p =>
    if !f.bf16 then p.1
    else
      let t := (quadPiece f q).getD (p.2 / 4096) 0
      let g := (groupTile x.tensors 0 (f.firstTile + t)).getD (0, 0, 0)
      let r := srDraw (chanAt s c).trn.seed (word f.step) (word (x.tensors.getD g.1 {}).key) (tileKey 0 g.2.1 g.2.2 round 3)
        (word (p.2 % 4096)) 0
      f32OfBf16 (narrowStoch .bf16 (ofF32 p.1) r).bits)

/-- A tile of a sheaf in shard order (R270). -/
def shardOrder (es : List F32) : List F32 := (List.range 4096).map (fun i => es.getD (64 * (i % 64) + i / 64) 0)

/-- OVF of a step's attempt set (R150). -/
def setOvf (c n : Nat) (s : State) : State := modTrn s c (fun t => { t with ovf := if t.ovf.contains n then t.ovf else t.ovf ++ [n] })

/-- What a reduction of a quad reads and writes of device memory here: the tiles of this copy, and the sums in GRAD on their owner. -/
def pieceAccess (s : State) (c : Nat) (f : Sheaf) (q : Nat) (own : Bool) : List Access :=
  let x := setAt s c f.set
  let tb := sheafBytes f
  (quadPiece f q).flatMap (fun t => { obj := f.accObj, off := f.accOffset + t * tb, n := tb } ::
    (if own then [{ write := true, obj := x.grad, off := granuleOf x 3 0 q * 65536 + (f.firstTile + t) % 4 * 16384, n := 16384 }] else []))

/-- The sums of a quad's tiles written into GRAD of their owner, in shard order, with the check of R150. -/
def writeGrad (c : Nat) (dead : List Nat) (f : Sheaf) (q : Nat) (es : List F32) (s : State) : State × Bool :=
  let x := setAt s c f.set
  let s := if es.any (fun v => !f32IsFinite v) then setOvf c f.step s else s
  ((quadPiece f q).zipIdx).foldl (fun (a : State × Bool) p =>
    let w := objWrite (collAgent c dead) x.grad (granuleOf x 3 0 q * 65536 + (f.firstTile + p.1) % 4 * 16384)
      (bytesOfF32s (shardOrder ((es.drop (4096 * p.2)).take 4096))) a.1
    (w.1, a.2 || w.2)) (s, false)

/-- The sum of squares of the owned tiles of a reduced sheaf, in GRAD order (R149, R154, R285). -/
def sheafSum (c : Nat) (f : Sheaf) (s : State) : State × F32 × RdCause :=
  let x := setAt s c f.set
  let own := (sheafQuads f).filter (fun q => quadOwner x.tensors x.p q == x.c)
  let r := own.foldl (fun a q => (quadPiece f q).foldl (fun a t =>
    gatherRead c [] x.grad (granuleOf x 3 0 q * 65536 + (f.firstTile + t) % 4 * 16384) 16384 a) a) (s, [], 0)
  (r.1, reduce 0x21 ((f32sOf r.2.1).map (fun g => fScale g (-(chanAt s c).trn.lsExp))), r.2.2)

/-- A collective of the reduce-scatter in its group. -/
def rsColl (g : Group) (num : Nat) : Option Coll := g.colls.find? (fun y => y.kind == 1 && y.id == num)

/-- A quad of a sheaf has done its part on this copy; with the last one the sheaf is reduced, and its record is written. -/
def quadDone (c num q : Nat) (s : State) : State :=
  let s := modSheaf c num (fun f => { f with reduced := f.reduced ++ [q] }) s
  match sheafOf s c num with
  | none => s
  | some f =>
    if f.reduced.length < (sheafQuads f).length then s
    else
      let r := sheafSum c f s
      if r.2.2 ≠ 0 then abortAttempt c (rdStatus r.2.2) 0xFF r.1
      else
        let s := modSheaf c num (fun f => { f with st := 2, sumSq := r.2.1 }) r.1
        let s := match roleGroup s c 0 with
          | none => s
          | some (gn, g) => match rsColl g num with | some y => endColl gn y ST_OK [] s | none => s
        oweKind c 4 ST_OK f.step num r.2.1.toNat s

/-- A running sum of a quad sent to the next copy. One that has come from another copy keeps its slot until it is sent (R346). -/
def sendPiece (gn c : Nat) (f : Sheaf) (q : Nat) (es : List F32) (pl : Option RxPlace) (s : State) : State :=
  let x := setAt s c f.set
  let b := sheafPack f es
  sendGroupFrom pl gn (memberId (groupAt s gn) ((x.c + 1) % x.p))
    { kind := 0x30, tag := f.num, obj := 1, offset := (q - f.firstTile / 4) * (4 * sheafBytes f), last := true, length := b.length, data := b } s

/-- A quad's turn begins on this copy: it owns the only partial, or it is the first of the order (R347). -/
def startQuad (c num q : Nat) (s : State) : State :=
  match sheafOf s c num with
  | none => s
  | some f =>
    if f.st ≠ 1 then s
    else
      let x := setAt s c f.set
      let j := quadOwner x.tensors x.p q
      if x.c ≠ (j + 1) % x.p ∨ f.reduced.contains q then s
      else
        let peer := match roleGroup s c 0 with | some g => memberId g.2 ((x.c + 1) % x.p) | none => 0
        collGated s peer c (pieceAccess s c f q (x.p == 1)) (fun dead s =>
          let r := readPiece c dead f q s
          if r.2.2 ≠ 0 then abortAttempt c (rdStatus r.2.2) 0xFF r.1
          else if x.p = 1 then
            let w := writeGrad c dead f q r.2.1 r.1
            if w.2 then abortAttempt c ST_MEM_POISON 0xFF w.1 else quadDone c num q w.1
          else match roleGroup r.1 c 0 with
            | none => r.1
            | some (gn, _) => quadDone c num q (sendPiece gn c f q r.2.1 none r.1)) s

/-- The reduce-scatter of a complete sheaf may start on this copy: its data-parallel group serves it. -/
def canReduce (s : State) (c : Nat) (f : Sheaf) : Bool :=
  (setAt s c f.set).p == 1 || (roleGroup s c 0).any (fun g => g.2.extent == (setAt s c f.set).p && !g.2.aborted && !g.2.fenced)

/-- SHEAF_COMPLETE (R285): a sheaf complete in every stack starts its reduce-scatter. A quad whose first accesses wait (R182, R183)
starts when the row comes again. -/
def execSheafComplete (c n : Nat) (s : State) : Host.Outcome State Fault Refusal :=
  atUnit c 4096 <| .next <|
    match sheafOf s c n with
    | none => s
    | some f =>
      if 2 ≤ f.st ∨ (chanAt s c).rcv.st ≠ 0 ∨ !sheafComplete s c f ∨ !canReduce s c f then s
      else if f.st = 1 then (sheafQuads f).foldl (fun s q => startQuad c n q s) s
      else
        let s := modSheaf c n (fun f => { f with st := 1 }) s
        let s := match roleGroup s c 0 with
          | some (gn, _) => if (setAt s c f.set).p = 1 then s else addColl gn { kind := 1, ch := c, step := f.step, id := n, set := f.set } s
          | none => s
        (sheafQuads f).foldl (fun s q => startQuad c n q s) s

/-- A chunk of a reduce-scatter (R347): added to this copy's partial, and sent on or written. -/
def rsChunk (m : Msg) (s : State) : State :=
  let gr := groupAt s m.group
  let c := gr.ch
  match sheafOf s c m.tag, rsColl gr m.tag with
  | some f, some y =>
    let x := setAt s c f.set
    let q := f.firstTile / 4 + m.offset / (4 * sheafBytes f)
    if m.fail ≠ 0 then abortAttempt c m.fail 0xFF (takeMsg m s)
    else if f.st ≠ 1 ∨ f.reduced.contains q ∨ memberId gr ((x.c + x.p - 1) % x.p) ≠ m.src then keepMsg m s
    else
      let j := quadOwner x.tensors x.p q
      let i := (x.c + x.p - j) % x.p
      let slot := (placeOf s m).map (fun r => { r with flits := 0 })
      collGated s m.src c (pieceAccess s c f q (i == 0)) (fun dead s =>
        let r := readPiece c dead f q (takeMsg m s)
        if r.2.2 ≠ 0 then abortAttempt c (rdStatus r.2.2) 0xFF r.1
        else
          let es := addPiece r.1 c f q ((if i = 0 then x.p else i) - 1) (sheafElems f m.data) r.2.1
          let s := modColl m.group y y r.1
          if i = 0 then
            let w := writeGrad c dead f q es s
            if w.2 then abortAttempt c ST_MEM_POISON 0xFF w.1 else quadDone c m.tag q w.1
          else quadDone c m.tag q (sendPiece m.group c f q es slot s)) (keepMsg m s)
  | _, _ => keepMsg m s

end Sys2Proof.Machine
end

