-- ==== Sys2Proof/Machine/Steps.lean ====
section
/-! DEFINITION. The end of a step (R15 to R18, R22, R149 to R155, R286, R287, R289, R293, R296 to R304, R307, R312): STEP_CLOSE, the
norm reduction, the start of the update, the skip and commit records, and HOST_COMMIT. -/

namespace Sys2Proof.Machine

open Sys2Proof

/-! ### Records -/

/-- R1 of a COMMIT or SKIP record: L(n + 1) and the clean count (Table 12.6). -/
def lsWord (t : Trn) : Nat := put (unsignedOf 8 t.lsExp) 7 0 + put t.clean 27 8

/-- STEP_CLOSE completes with its NORM record (Table 12.6). -/
def normRecord (c : Nat) (s : State) : State :=
  let t := (chanAt s c).trn
  match t.close with
  | none => s
  | some (_, _, pos) =>
    finishRingK c pos 3 ST_OK [word t.normStep, word (t.norm.toNat + t.clip.toNat * 2 ^ 32),
      word (putB t.normOvf 0 + put (unsignedOf 8 t.normLs) 15 8)] s

/-- What the record of step n ends: the attempt's sheaves, versions, OVF and activation count; a load of L that step n + 1 asked
for; the export that is due (R16, R150, R164, R307, R314). A step that recovery finishes completes its STEP_CLOSE now (R462). -/
def closeStep (c n : Nat) (skip : Bool) (tensors : List (Nat × Nat × Bool × Bool)) (s : State) : State :=
  let s := if (chanAt s c).rcv.st = 3 then modChanRcv (normRecord c s) c (fun r => { r with st := 0 }) else s
  migPump 64 (modTrn s c (fun t =>
    let due : ExportDue := {
      step := n, skip := skip, lsExp := t.lsExp, clean := t.clean, norm := t.norm, clip := t.clip, tensors := tensors }
    let load := t.nums.any (fun q => q.step == n + 1 && q.load)
    { t with
      recorded := n, sheaves := [], vers := [], close := none, ovf := t.ovf.filter (· != n), normIn := false, scaleReports := [],
      actCount := t.actCount.filter (fun a => decide (n < a.1)), gradOut := [], hostCommit := none, phase := 0, updated := [],
      itemsLeft := 0, firsts := t.firsts.filter (fun p => decide (n < p.1)), nums := t.nums.filter (fun q => decide (n ≤ q.step) || t.exports.any (fun d => d.step == q.step) || t.segs.any (fun g => g.step == q.step)),
      lsExp := match t.nums.find? (fun q => q.step == n + 1) with | some q => beginLs q.ctrl q.load t.lsExp | none => t.lsExp
      clean := if load then 0 else t.clean
      exports := if t.sets.any (fun x => x.valid && x.deltaEn) then t.exports ++ [due] else t.exports }))

/-- L and the clean count after a skip (R152, R153). -/
def skipScale (c n : Nat) (s : State) : State :=
  let t := (chanAt s c).trn
  let en := bit (numOf s c n).ctrl 0
  let s := if en ∧ t.lsExp ≤ -24 then setEv (.chn c) Reg.CHN_NUM_EVENT Bit.CHN_NUM_EVENT_LS_FLOOR s else s
  modTrn s c (fun t => { t with lsExp := if en then max (t.lsExp - 1) (-24) else t.lsExp, clean := 0 })

/-- L and the clean count after a commit (R152, R153). -/
def commitScale (c n : Nat) (s : State) : State :=
  let t := (chanAt s c).trn
  let ctrl := (numOf s c n).ctrl
  let k := satAdd 20 t.clean 1
  if bit ctrl 0 ∧ bits ctrl 51 32 ≠ 0 ∧ bits ctrl 51 32 ≤ k then
    let s := if 24 ≤ t.lsExp then setEv (.chn c) Reg.CHN_NUM_EVENT Bit.CHN_NUM_EVENT_LS_CEIL s else s
    modTrn s c (fun t => { t with lsExp := min (t.lsExp + 1) 24, clean := 0 })
  else modTrn s c (fun t => { t with clean := k })

/-- A skip record (R15, R18, R155). -/
def skipStep (c n : Nat) (s : State) : State :=
  let s := skipScale c n s
  let s := modTrn s c (fun t => { t with consecSkips := satAdd 32 t.consecSkips 1 })
  let s := cntInc (.chn c) Reg.CHN_CNT_STEPS_SKIPPED (setEv (.chn c) Reg.CHN_NUM_EVENT Bit.CHN_NUM_EVENT_SKIP s)
  closeStep c n true [] (oweKind c 2 ST_OK n (lsWord (chanAt s c).trn) 0 s)

/-! ### The update -/

/-- HYPER_SET's fields on a tensor (R289): the static fields, and with RESET t and both powers as before any update. -/
def setHyper (old f : HyperFields) (reset : Bool) : HyperFields :=
  { f with t := if reset then 0 else old.t, b1pow := if reset then 0x3F800000 else old.b1pow,
           b2pow := if reset then 0x3F800000 else old.b2pow, tReset := reset || old.tReset }

/-- The HYPER_SET changes that step n uses. -/
def applyHyper (n : Nat) (x : ShardSet) : ShardSet :=
  { x with
    hyper := (x.hyperNext.filter (fun e => decide (e.1 ≤ n))).foldl (fun hs e => hs.zipIdx.map (fun p =>
      if e.2.1 ≤ p.2 ∧ p.2 < e.2.1 + e.2.2.1 then setHyper p.1 e.2.2.2.2 e.2.2.2.1 else p.1)) x.hyper
    hyperNext := x.hyperNext.filter (fun e => decide (n < e.1)) }

/-- The changes of HYPER_SET and VARIANT_SET that wait for step n (R289, R310). -/
def applyPending (c n : Nat) (s : State) : State :=
  modTrn s c (fun t => { t with
    sets := t.sets.map (applyHyper n)
    variants := (t.variantNext.filter (fun v => decide (v.1 ≤ n))).foldl (fun m v => smSet (fun _ => {}) m v.2.1 v.2.2) t.variants
    variantNext := t.variantNext.filter (fun v => decide (n < v.1)) })

/-- The block of a tensor's next update (R289). -/
def nextHyper (h : HyperFields) : HyperFields :=
  { h with t := h.t + 1, b1pow := fMul h.b1pow h.beta1, b2pow := fMul h.b2pow h.beta2 }

/-- A step with an update mask updates a tensor (R312): it has an optimizer, and when variants name it, one of them is trained and
named by the mask. -/
def updatesTensor (t : Trn) (mask i j : Nat) : Bool :=
  let named := t.variants.filter (fun v => v.2.valid && v.2.set == i && (v.2.tensorA == j || v.2.tensorB == j))
  (((t.sets.getD i {}).tensors.getD j {}).opt != 0) && (named.isEmpty || named.any (fun v => v.2.train && mask.testBit v.1))

/-- The tensors that a step updates here: those of sets whose masters the module keeps. -/
def updateList (t : Trn) (mask : Nat) : List (Nat × Nat) :=
  t.sets.zipIdx.flatMap (fun p => if !p.1.valid || p.1.hostRes then [] else
    ((List.range p.1.tensors.length).filter (updatesTensor t mask p.2)).map (fun j => (p.2, j)))

/-- The work item of a tensor (Table 6.6, R198, R273, R296). -/
def itemOf (c n i j : Nat) (x : ShardSet) (clip : F32) (ls : Int) : UpdItem :=
  let d := x.tensors.getD j {}
  let at_ (a : Nat) : Nat := quadGranule x a j 0 0 * 4096
  { opt := d.opt, pingpong := x.pingpong, parity := n % 2, workScale := x.workScale,
    ch := c, clip := clip, step := n, elems := (portion x.tensors x.p x.c j).2 * 1024, lsExp := ls, workFmt := x.workFmt,
    momFmt := x.momFmt, master := (x.master, at_ 0), m1 := (x.m1, at_ 1), m2 := if d.opt = 2 ∨ d.opt = 3 then (x.m2, at_ 2) else (0, 0),
    grad := (x.grad, at_ 3), work := (x.work, at_ 4), hyper := (x.hyperObj, 128 * j + 64 * (n % 2)), tensor := d.key, set := i, idx := j }

/-- The 16 items of a tensor queued, one in each stack (R273). -/
def queueTensor (c n i j : Nat) (clip : F32) (ls : Int) (s : State) : State :=
  let x := setAt s c i
  if (portion x.tensors x.p x.c j).2 = 0 then s
  else
    let s := (List.range 16).foldl (fun s st => queueItem st (itemOf c n i j x clip ls) s) s
    modTrn s c (fun t => { t with itemsLeft := t.itemsLeft + 16 })

/-- HYPER block and progress header of a tensor written in every stack view (R289, R293). -/
def writeHeaders (c n i j : Nat) (clip : F32) (ls : Int) (s : State) : State :=
  let x := setAt s c i
  let g := updGranules (portion x.tensors x.p x.c j).2
  (List.range 16).foldl (fun s st =>
    let s := (viewWrite x.hyperObj st (128 * j + 64 * (n % 2)) (hyperBytes (nextHyper (x.hyper.getD j {}))) s).1
    progWrite x j st (progHeader n clip ls g) s) s

/-- The update of step n starts (R289, R293). -/
def updateStart (c n : Nat) (s : State) : State :=
  let s := applyPending c n s
  let t := (chanAt s c).trn
  let mask := match t.close with | some x => x.2.1 | none => 0
  let l := updateList t mask
  let s := modTrn s c (fun t => { t with updated := l, itemsLeft := 0, phase := 3, scaleReports := [] })
  l.foldl (fun s p => queueTensor c n p.1 p.2 t.clip t.normLs (writeHeaders c n p.1 p.2 t.clip t.normLs s)) s

/-! ### The norm -/

/-- The granules of GRAD that the host-resident sets of a channel copy out (R303). -/
def gradList (s : State) (c : Nat) : List (Nat × Nat) :=
  (chanAt s c).trn.sets.zipIdx.flatMap (fun p => if !p.1.valid || !p.1.hostRes then [] else
    (List.range ((ownRange p.1.tensors p.1.p p.1.c).2 - (ownRange p.1.tensors p.1.p p.1.c).1)).map (fun g => (p.2, g)))

/-- The clip factor (R287). -/
def clipFactor (max norm : F32) : F32 := if max = 0 ∨ !(ofF32 max).lt (ofF32 norm) then 0x3F800000 else fDiv max norm

/-- A finished norm acts (R18, R287, R303): a skip, or the update and the copy of GRAD to the host. -/
def actOnNorm (c n : Nat) (s : State) : State :=
  if (chanAt s c).trn.normOvf then skipStep c n (normRecord c s)
  else
    let s := modTrn s c (fun t => { t with gradOut := gradList s c })
    let s := if (chanAt s c).trn.gradOut.isEmpty then normRecord c s else s
    updateStart c n s

/-- The total and OVF of the norm reduction reach this module (R149, R151, R287). With OVF set c has no value; what stands for it depends
on the step and the total alone (R21). -/
def normResult (c n : Nat) (total : F32) (ovf : Bool) (s : State) : State :=
  let ovf := ovf || !f32IsFinite total
  let norm := fSqrt total
  let clip : F32 := if ovf then Config.noClip n total else clipFactor (numOf s c n).clipMax norm
  actOnNorm c n (modTrn s c (fun t => { t with norm := norm, clip := clip, normOvf := ovf, normStep := n, normLs := t.lsExp }))

/-- The collective of a norm reduction in its group. -/
def normColl (g : Group) : Option Coll := g.colls.find? (fun y => y.kind == 2)

/-- A norm message: at offset 0 a member's total, at offset 8 the result. -/
def normMsg (off : Nat) (t : F32) (ovf : Bool) : Msg :=
  { kind := 0x30, obj := 2, offset := off, last := true, length := 8, data := leBytes 4 t.toNat ++ leBytes 4 (putB ovf 0) }

/-- Rank 0 with every member's total (R345, R349): the sum in ascending rank, the OR of OVF, and the result to every member. -/
def normSum (gn c n : Nat) (y : Coll) (s : State) : State :=
  let g := groupAt s gn
  if y.got.length < g.members.length then s
  else
    let part (k : Nat) : Option (Nat × Nat × Nat) := y.got.find? (fun p => p.1 == k)
    let ts := ((List.range g.members.length).filter (fun k => (g.members.getD k (0, false)).2)).filterMap (fun k =>
      (part k).map (fun p => (BitVec.ofNat 32 p.2.1 : F32)))
    let total := match ts with | [] => (0 : F32) | t :: r => r.foldl fAdd t
    let ovf := y.got.any (fun p => p.2.2 != 0)
    let s := endColl gn y ST_OK [] s
    normResult c n total ovf (sendMembers gn (normMsg 8 total ovf) s)

/-- Everything that the norm of a step waits for on this module (R286). -/
def normReady (s : State) (c n : Nat) : Bool :=
  let k := chanAt s c
  k.live && k.rcv.st == 0 && !k.trn.normIn && n == k.trn.recorded + 1 && k.trn.sheaves.all (fun f => f.st == 2) &&
  !(roleGroup s c 3).any (fun g => g.2.aborted || g.2.fenced)

/-- NORM_START (R149, R151, R286, R349): the module's total enters the norm reduction. -/
def execNormStart (c : Nat) (s : State) : Host.Outcome State Fault Refusal :=
  atUnit c 4096 <| .next <|
    let t := (chanAt s c).trn
    match t.close with
    | none => s
    | some (n, _, _) =>
      if !normReady s c n then s
      else
        let nums := (sortIv (t.sheaves.map (fun f => (f.num, f.sumSq.toNat)))).map (fun p => (BitVec.ofNat 32 p.2 : F32))
        let total := match nums with | [] => (0 : F32) | x :: r => r.foldl fAdd x
        let ovf := t.ovf.contains n
        let s := modTrn s c (fun t => { t with normIn := true, phase := 2 })
        match roleGroup s c 3 with
        | none => normResult c n total ovf s
        | some (gn, g) =>
          if g.rank = 0 then
            let s := addColl gn { kind := 2, ch := c, step := n, got := [(0, total.toNat, putB ovf 0)] } s
            match normColl (groupAt s gn) with | some y => normSum gn c n y s | none => s
          else
            sendGroup gn (memberId g 0) (normMsg 0 total ovf) (addColl gn { kind := 2, ch := c, step := n } s)

/-- A chunk of a norm reduction (R349). -/
def normChunk (m : Msg) (s : State) : State :=
  let g := groupAt s m.group
  let t := leValue (m.data.take 4)
  let ovf := leValue (m.data.drop 4) != 0
  match indexOfDev g m.src, normColl g with
  | none, _ => takeMsg m s
  | _, none => keepMsg m s
  | some i, some y =>
    if m.offset = 8 then normResult g.ch y.step (BitVec.ofNat 32 t) ovf (endColl m.group y ST_OK [] (takeMsg m s))
    else if y.got.any (fun p => p.1 == i) then keepMsg m s
    else
      let new := { y with got := y.got ++ [(i, t, putB ovf 0)] }
      normSum m.group g.ch y.step new (modColl m.group y new (takeMsg m s))

/-- STEP_CLOSE (R286, R312): it ends the sheaves of its step with an update mask, and completes with the NORM record. -/
def execStepClose (src : CmdSrc) (e : Entry) (s : State) : Host.Outcome State Fault Refusal :=
  let n := stepAt s (cmdOf s src e).ch (cmdOf s src e).pos
  if (chanAt s (cmdOf s src e).ch).trn.recorded + 1 < n then .next s
  else serve 0x35 src e s fun x s =>
    match tableBytes s x.ch (bits e.a0 16 0) e.a1.toNat 1024 with
    | none => answer x ST_NO_ACCESS [] s
    | some b => modTrn s x.ch (fun t => { t with close := some (n, leValue b, x.pos) })

/-! ### The commit -/

/-- SUM of a tensor of a host-resident set (R278, R303): the CRC of its working copy in each stack, over the used bytes in
stack-view order. -/
def workSum (x : ShardSet) (j slot : Nat) (s : State) : Nat :=
  let q := (portion x.tensors x.p x.c j).2
  let u := workBytes (workFormat x)
  (List.range 16).foldl (fun a st => a ^^^ ((List.range q).foldl (fun c k =>
    crcRun c (viewRead x.work st (quadGranule x 4 j slot k * 4096) u s).2.1) 0xFFFFFFFF ^^^ 0xFFFFFFFF)) 0

/-- SUM of an updated tensor: the XOR of its items' sums (R278). -/
def itemSums (x : ShardSet) (j : Nat) (s : State) : Nat :=
  if (portion x.tensors x.p x.c j).2 = 0 then 0 else (List.range 16).foldl (fun a st => a ^^^ progSum (progAt s x j st)) 0

/-- A set as the commit of step n leaves it (R278, R297): SHARD_STEP, the sums, and the update counts of its updated tensors. -/
def commitSet (s : State) (n i : Nat) (updated : List (Nat × Nat)) (x : ShardSet) : ShardSet :=
  if !x.valid then x
  else
    let up (j : Nat) : Bool := updated.contains (i, j)
    { x with
      shardStep := n
      sums := x.sums.zipIdx.map (fun p => if x.hostRes then workSum x p.2 (n % 2) s else if up p.2 then itemSums x p.2 s else p.1)
      hyper := x.hyper.zipIdx.map (fun p => if up p.2 then
        { nextHyper p.1 with tReset := false } else p.1) }

/-- The tensors that a commit exports: (set, tensor, T_RESET, the step wrote M1), by the fields that the step used (R316). -/
def exportList (t : Trn) : List (Nat × Nat × Bool × Bool) :=
  (t.updated.filter (fun p => let x := t.sets.getD p.1 {}; (portion x.tensors x.p x.c p.2).2 != 0)).map (fun p =>
    let x := t.sets.getD p.1 {}
    let h := x.hyper.getD p.2 {}
    (p.1, p.2, h.tReset, itemM1 { opt := (x.tensors.getD p.2 {}).opt } h))

/-- Step n committed (R297, R299, R357). -/
def commitStep (c n : Nat) (s : State) : State :=
  let k := chanAt s c
  let ex := exportList k.trn
  let sets := k.trn.sets.zipIdx.map (fun p => commitSet s n p.2 k.trn.updated p.1)
  let s := modTrn s c (fun t => { t with sets := sets, committed := n, consecSkips := 0, phase := 4, oldObjs := [] })
  let s := k.trn.oldObjs.foldl releaseObj s
  let s := commitScale c n (cntInc (.chn c) Reg.CHN_CNT_COMMITS s)
  let s := if k.rcv.st = 3 then cntInc (.chn c) Reg.CHN_CNT_ROLLFWD (setEv (.chn c) Reg.CHN_TRN_EVENT Bit.CHN_TRN_EVENT_ROLLFWD s) else s
  let r1 := lsWord (chanAt s c).trn
  let s := match k.trn.hostCommit with
    | some (pos, _, _) => finishRingK c pos 1 ST_OK [word n, word r1] s
    | none => oweKind c 1 ST_OK n r1 0 s
  closeStep c n false ex s

/-- Everything of the running step's update is done (R297, R303). -/
def commitReady (s : State) (c : Nat) : Bool :=
  let k := chanAt s c
  let n := k.trn.recorded + 1
  let host := k.trn.sets.any (fun x => x.valid && x.hostRes)
  k.live && k.trn.phase == 3 && k.trn.itemsLeft == 0 && k.trn.normStep == n && !k.trn.normOvf && (k.rcv.st == 0 || k.rcv.st == 3) &&
  (!host || k.trn.hostCommit.any (fun h => h.2.1 == n && h.2.2.isEmpty))

/-- STEP_COMMIT (R15, R22, R278, R297). -/
def execStepCommit (c : Nat) (s : State) : Host.Outcome State Fault Refusal :=
  atUnit c 4096 <| onlyIf (commitReady s c) s fun s => commitStep c ((chanAt s c).trn.recorded + 1) s

/-- The pieces of a HOST_COMMIT: (set, granule of WORK, host address), sets in order, then tensors, then quads (R303). -/
def commitPieces (s : State) (c n base : Nat) : List (Nat × Nat × Nat) :=
  let l := (chanAt s c).trn.sets.zipIdx.flatMap (fun p => if !p.1.valid || !p.1.hostRes then [] else
    (List.range p.1.tensors.length).flatMap (fun j =>
      (List.range (portion p.1.tensors p.1.p p.1.c j).2).map (fun k => (p.2, quadGranule p.1 4 j (n % 2) k))))
  l.zipIdx.map (fun p => (p.1.1, p.1.2, base + 65536 * p.2))

/-- HOST_COMMIT (R303, R304): the copy-in of the new working copy; it waits for the norm of its step, and for COMMIT_ACK of the
step before. -/
def execHostCommit (src : CmdSrc) (e : Entry) (s : State) : Host.Outcome State Fault Refusal :=
  let c := (cmdOf s src e).ch
  let t := (chanAt s c).trn
  let n := e.a0.toNat
  if n == t.recorded + 1 && t.sets.any (fun x => x.valid && x.hostRes) && (t.normStep != n || !t.gradOut.isEmpty) then .next s
  else serve 0x36 src e s fun x s =>
    let t := (chanAt s x.ch).trn
    if n ≠ t.recorded + 1 ∨ !t.sets.any (fun x => x.valid && x.hostRes) ∨ t.hostCommit.isSome then answer x ST_BAD_STEP [] s
    else
      let ps := commitPieces s x.ch n e.a1.toNat
      if e.a2.toNat ≠ 65536 * ps.length then answer x ST_BAD_COMMAND [] s
      else if !inWindow (chanAt s x.ch) false e.a1.toNat e.a2.toNat then answer x ST_NO_ACCESS [] s
      else modTrn s x.ch (fun t => { t with hostCommit := some (x.pos, n, ps), ackStep := if t.acked < t.committed then n else 0 })

end Sys2Proof.Machine
end

