-- ==== Sys2Proof/Machine/Delta.lean ====
section
/-! DEFINITION. The state delta stream (R20, R155, R314 to R318): segments formed from the committed arrays, written into the sink,
and abandoned. -/

namespace Sys2Proof.Machine

open Sys2Proof

/-! ### Forming a segment (R315, R316) -/

/-- A husk stream of a byte string, compressed at an edge (R258). -/
def edgeStream (edge : Nat) (data : List Byte) (tag : Nat) (s : State) : State × List Byte :=
  let b := ceilDiv data.length 4096
  let r := (List.range b).foldl (fun (a : State × List Byte × List Byte) j =>
    let x := streamBlock edge ((data.drop (4096 * j)).take 4096) j a.1
    (x.1, a.2.1 ++ leBytes 8 (put (a.2.2.length / 16) 39 0 + put (x.2.length / 16) 48 40), a.2.2 ++ x.2)) (s, [], [])
  let off := dataOffset b
  let h := leBytes 4 0x4B535548 ++ leBytes 4 1 ++ leBytes 8 b ++ leBytes 8 data.length ++ leBytes 8 off ++ leBytes 8 tag ++ List.replicate 20 0
  (r.1, h ++ leBytes 4 (crc32c (h ++ [0, 0, 0, 0] ++ r.2.1)) ++ r.2.1 ++ List.replicate (off - 64 - 8 * b) 0 ++ r.2.2)

/-- The arrays that an update of a tensor has written: masters, and the moments that its optimizer keeps. -/
def deltaArrays (x : ShardSet) (j : Nat) (m1 : Bool) : List Nat :=
  0 :: (if m1 then [1] else []) ++ (if itemM2 { opt := (x.tensors.getD j {}).opt } then [2] else [])

/-- The slot that the update of step n wrote (R296, R297). -/
def liveSlot (x : ShardSet) (n : Nat) : Nat := if x.pingpong then n % 2 else 0

/-- The contents before the commit of step n of block b of quad k of an array: from the other slot, or from STAGING (R315). -/
def oldBlock (s : State) (x : ShardSet) (n a j k b : Nat) : List Byte :=
  if x.pingpong then
    (objRead {} (arrayObj x a) (quadGranule x a j (1 - liveSlot x n) k * 65536 + 4096 * b) 4096 s).2.1
  else
    let res := nbits (granAt s (objAt s (arrayObj x a)) (quadGranule x a j 0 k)).home 24 0 % 16
    (viewRead x.staging (b ^^^ res) (stagingAt x (stageSlot x j (k / 4096)) a (k % 4096)) 4096 s).2.1

/-- The XOR of a tensor's portion of an array with its contents before the commit of step n. -/
def deltaRange (s : State) (x : ShardSet) (n a j : Nat) : List Byte :=
  (List.range (portion x.tensors x.p x.c j).2).flatMap (fun k => (List.range 16).flatMap (fun b =>
    List.zipWith (· ^^^ ·)
      (objRead {} (arrayObj x a) (quadGranule x a j (liveSlot x n) k * 65536 + 4096 * b) 4096 s).2.1 (oldBlock s x n a j k b)))

/-- The entries of an export: (set, tensor, array, T_RESET). -/
def deltaEntries (t : Trn) (d : ExportDue) : List (Nat × Nat × Nat × Bool) :=
  (d.tensors.filter (fun e => let x := t.sets.getD e.1 {}; x.valid && x.deltaEn)).flatMap (fun e =>
    (deltaArrays (t.sets.getD e.1 {}) e.2.1 e.2.2.2).map (fun a => (e.1, e.2.1, a, e.2.2.1)))

/-- A directory entry (Table 9.11). -/
def dirEntry (x : ShardSet) (n : Nat) (e : Nat × Nat × Nat × Bool) (stream : Nat) : List Byte :=
  leBytes 4 (put (arrayObj x e.2.2.1) 16 0 + put e.2.2.1 18 17 + put e.2.1 28 19) ++ leBytes 4 (put e.1 3 0 + putB e.2.2.2 4) ++
  leBytes 8 (quadGranule x e.2.2.1 e.2.1 (liveSlot x n) 0 * 65536) ++ leBytes 8 ((portion x.tensors x.p x.c e.2.1).2 * 65536) ++ leBytes 8 stream

/-- The segment of an export (R315, Table 9.10), its streams compressed at an edge. -/
def segmentOf (c edge : Nat) (d : ExportDue) (resync : Bool) (s : State) : State × List Byte :=
  let t := (chanAt s c).trn
  let es := deltaEntries t d
  let start := 64 + 32 * es.length
  let r := es.foldl (fun (a : State × List Byte × List Byte) e =>
    let x := t.sets.getD e.1 {}
    let st := edgeStream edge (deltaRange s x d.step e.2.2.1 e.2.1) d.step a.1
    (st.1, a.2.1 ++ dirEntry x d.step e (start + a.2.2.length), a.2.2 ++ st.2)) (s, [], [])
  let h := leBytes 4 0x41544C44 ++ leBytes 4 (1 + putB d.skip 16 + putB resync 17) ++ leBytes 8 d.step ++ leBytes 4 (handleOf s c) ++
    leBytes 4 (put (unsignedOf 8 d.lsExp) 7 0 + put d.clean 27 8) ++ leBytes 4 es.length ++ leBytes 4 d.norm.toNat ++
    leBytes 8 (start + r.2.2.length) ++ leBytes 4 d.clip.toNat ++ List.replicate 16 0
  (r.1, h ++ leBytes 4 (crc32c (h ++ [0, 0, 0, 0] ++ r.2.1)) ++ r.2.1 ++ r.2.2)

/-- The staging slots of tensors that an export has read, or that one abandoned named, are free (R295): (set, tensor). -/
def freeStaging (c : Nat) (l : List (Nat × Nat)) (s : State) : State :=
  modTrn s c (fun t => { t with sets := t.sets.zipIdx.map (fun p =>
    if p.1.deltaEn then { p.1 with staged := p.1.staged.filter (fun e => !l.contains (p.2, e.2.1)) } else p.1) })

/-- The tensors that an export reads: (set, tensor). -/
def dueTensors (d : ExportDue) : List (Nat × Nat) := d.tensors.map (fun e => (e.1, e.2.1))

/-- Segments are missing from now on (R317, R318): the next one asks for a new base image. -/
def deltaBreak (c : Nat) (s : State) : State :=
  setEv (.chn c) Reg.CHN_TRN_EVENT Bit.CHN_TRN_EVENT_DELTA_BROKEN (modTrn s c (fun t => { t with deltaBroken := true, resync := true }))

/-- Bytes that a sink can ever hold. -/
def sinkRoom (k : DeltaSink) : Nat := if k.peer then k.len else k.size

/-- The edge that a sink's segments leave by. -/
def sinkEdge (s : State) (k : DeltaSink) : Nat := if k.peer then (routeOf s k.peerId).getD 0 % 6 else 6

/-- A segment larger than its sink is abandoned at once (R318): (step, its bytes, its tensors). -/
def abandonLarge (c step n : Nat) (l : List (Nat × Nat)) (s : State) : State :=
  oweKind c 5 ST_DELTA_SIZE step n 0
    (setEv (.chn c) Reg.CHN_TRN_EVENT Bit.CHN_TRN_EVENT_DELTA_SIZE (deltaBreak c (freeStaging c l s)))

/-- DELTA_EXPORT_START (R314 to R316, R318): the oldest export due becomes a segment; one too large for its sink is abandoned. -/
def execDeltaExportStart (c : Nat) (s : State) : Host.Outcome State Fault Refusal :=
  atUnit c 4096 <| .next <|
    let t := (chanAt s c).trn
    match t.exports with
    | [] => s
    | d :: rest =>
      if !(chanAt s c).live || !t.sink.set then s
      else
        let b := segmentOf c (sinkEdge s t.sink) d t.resync s
        let s := modTrn b.1 c (fun t => { t with exports := rest })
        if sinkRoom t.sink < b.2.length then abandonLarge c d.step b.2.length (dueTensors d) s
        else modTrn s c (fun t => { t with resync := false, segs := t.segs ++ [{
          step := d.step, bytes := b.2, resync := t.resync, tensors := dueTensors d }] })

/-! ### Writing a segment (R314) -/

/-- Where a segment of n bytes goes in the sink: after the last one, or at offset 0 when it would pass the end; none while those
bytes are not released. -/
def sinkPlace (t : Trn) (n : Nat) : Option Nat :=
  let off := if t.deltaTail + n ≤ sinkRoom t.sink then t.deltaTail else 0
  if t.deltaLive.any (fun r => decide (r.1 < off + n) && decide (off < r.2)) then none else some off

/-- A segment of a channel has a write without its GO, or a request without its answer. -/
def segBusy (s : State) (c step : Nat) : Bool :=
  s.cxl.writes.any (fun w => w.who == 2 && w.unit == c && w.pos == step) || s.links.remote.any (fun r => r.ch == c && r.step == step)

/-- A segment sent to a peer as write requests of at most 64 KiB. -/
def sendSegment (c off : Nat) (g : DeltaSeg) (s : State) : State :=
  let k := (chanAt s c).trn.sink
  (List.range (ceilDiv g.bytes.length 65536)).foldl (fun s i =>
    let b := (g.bytes.drop (65536 * i)).take 65536
    let tag := s.links.nextTag
    let s := modLinks s (fun l => { l with
      nextTag := (tag + 1) % 2 ^ 32
      remote := l.remote ++ [{ tag := tag, group := k.group, port := (routeOf s k.peerId).getD 6, ch := c, step := g.step }] })
    sendGroup k.group k.peerId
      { kind := 0x11, tag := tag, obj := k.base, offset := k.size + off + 65536 * i, last := 65536 * (i + 1) ≥ g.bytes.length,
        length := b.length, data := b } s) s

/-- A segment of a channel changed. -/
def modSeg (c step : Nat) (f : DeltaSeg → DeltaSeg) (s : State) : State :=
  modTrn s c (fun t => { t with segs := t.segs.map (fun g => if g.step = step then f g else g) })

/-- DELTA_SEGMENT_WRITE (R20, R295, R314): the oldest segment whose writing is not under way goes to the sink; its ranges and its
staging slots are then read. -/
def execDeltaSegmentWrite (c : Nat) (s : State) : Host.Outcome State Fault Refusal :=
  atUnit c 4096 <| .next <|
    let t := (chanAt s c).trn
    match t.segs.find? (fun g => g.at_.isNone || !segBusy s c g.step) with
    | none => s
    | some g =>
      let open_ := if t.sink.peer then (groupAt s t.sink.group).live && !(groupAt s t.sink.group).fenced else copyOpen s c
      let n := g.bytes.length
      let again := g.at_.filter (fun o => decide (o + n ≤ sinkRoom t.sink) && t.deltaLive.contains (o, o + n))
      match (match again with | some o => some o | none => sinkPlace t n) with
      | none => s
      | some off =>
        if !open_ || !t.sink.set || sinkRoom t.sink < n then s
        else
          let s := modSeg c g.step (fun g => { g with at_ := some off }) s
          let s := if again.isSome then s
            else freeStaging c g.tensors (modTrn s c (fun t => { t with deltaTail := off + n, deltaLive := t.deltaLive ++ [(off, off + n)] }))
          if t.sink.peer then sendSegment c off g s else hostWrite 2 c g.step (t.sink.base + off) g.bytes none s

/-- A segment is visible at its sink: its DELTA record (Table 12.6). -/
def deltaDone (c step : Nat) (s : State) : State :=
  match (chanAt s c).trn.segs.find? (fun g => g.step == step) with
  | none => s
  | some g =>
    let s := modTrn s c (fun t => { t with segs := t.segs.filter (fun x => x.step != step), deltaBroken := t.deltaBroken && !g.resync })
    oweKind c 5 ST_OK step g.bytes.length (g.at_.getD 0) (cntAdd (.chn c) Reg.CHN_CNT_DELTA_BYTES g.bytes.length s)

/-- A segment is not yet written: it has no place in the sink, or its write is lost and waits to be made again (R393). -/
def segWaits (s : State) (c : Nat) (g : DeltaSeg) : Bool := g.at_.isNone || !segBusy s c g.step

/-- DELTA_SINK (R314, R318): the new sink starts empty and applies from the next segment; those formed and not written that it can never
hold are abandoned at once. -/
def execDeltaSink (src : CmdSrc) (e : Entry) (s : State) : Host.Outcome State Fault Refusal :=
  serve 0x39 src e s fun x s =>
    let peer := bit e.a0 0
    let size := if peer then e.a3.toNat else e.a2.toNat
    let g := groupAt s (bits e.a0 25 16)
    if size = 0 ∨ size % 16 ≠ 0 ∨ (!peer ∧ e.a1.toNat % 16 ≠ 0) ∨ (peer ∧ (2 ^ 17 ≤ e.a1.toNat ∨ e.a2.toNat % 16 ≠ 0)) then
      answer x ST_BAD_COMMAND [] s
    else if !peer ∧ !inWindow (chanAt s x.ch) true e.a1.toNat size then answer x ST_NO_ACCESS [] s
    else if peer ∧ !(g.live && g.ch == x.ch) then answer x ST_COLL_INVALID [] s
    else
      let k : DeltaSink := {
        set := true, peer := peer, group := bits e.a0 25 16, peerId := bits e.a0 47 32, base := e.a1.toNat,
        size := if peer then e.a2.toNat else size, len := size }
      let large := (chanAt s x.ch).trn.segs.filter (fun g => segWaits s x.ch g && decide (sinkRoom k < g.bytes.length))
      let s := modTrn s x.ch (fun t => { t with
        sink := k, deltaLive := [], deltaHead := 0, deltaTail := 0, segs := t.segs.filter (fun g => !large.contains g) })
      answer x ST_OK [] (large.foldl (fun s g => abandonLarge x.ch g.step g.bytes.length g.tensors s) s)

/-- DELTA_WAIT_TIMEOUT (R317): every segment not yet written is abandoned, and the slots are free. -/
def execDeltaWaitTimeout (c : Nat) (s : State) : Host.Outcome State Fault Refusal :=
  atUnit c 4096 <|
    let t := (chanAt s c).trn
    let first : Option Nat := match t.segs.find? (segWaits s c) with | some g => some g.step | none => (t.exports.map (·.step)).head?
    onlyIf ((chanAt s c).live && first.any (fun n => bits (numOf s c n).trnCtrl 15 0 != 0)) s fun s =>
      let lost := t.segs.filter (segWaits s c)
      deltaBreak c (freeStaging c (t.exports.flatMap dueTensors ++ lost.flatMap (·.tensors)) (modTrn s c (fun t => { t with
        exports := [], segs := t.segs.filter (fun g => !segWaits s c g) })))

/-- The ranges of the sink that remain live when the host has read up to an offset: the segments before the one that holds it are
released, and the bytes of that one before it. -/
def releaseTo (h : Nat) (l : List (Nat × Nat)) : List (Nat × Nat) :=
  match l.dropWhile (fun r => !(decide (r.1 ≤ h) && decide (h < r.2))) with
  | (_, b) :: r => (h, b) :: r
  | [] => if l.any (fun r => r.2 == h) then (l.reverse.takeWhile (fun r => r.2 != h)).reverse else l

/-- DELTA_HEAD_WRITE (R314): the host's read offset releases bytes of the ring. -/
def execDeltaHeadWrite (c : Nat) (w : Word) (s : State) : Host.Outcome State Fault Refusal :=
  atUnit c 4096 <| onlyIf ((chanAt s c).live && s.cxl.mode != 0) s fun s =>
    modTrn s c (fun t => { t with deltaHead := w.toNat, deltaLive := releaseTo w.toNat t.deltaLive })

/-! ### Answers of a peer (R336, R337) -/

/-- The request of this module that a response answers; a response whose GEN is not the present one of the slice that sent the request is
discarded and counted (R337). -/
def peerAnswer (m : Msg) (f : Remote → State → State) (s : State) : State :=
  let s := takeMsg m s
  let r := s.links.remote.find? (fun r => r.tag == m.tag)
  let slice := match r with | some r => some r.port | none => routeOf s m.src
  if m.gen ≠ sliceGen s slice then cntInc .abl Reg.ABL_CNT_STALE_DROP (setEv .abl Reg.ABL_EVENT Bit.ABL_EVENT_STALE_DROP s)
  else match r with
    | none => s
    | some r => f r (modLinks s (fun l => { l with remote := l.remote.filter (fun q => q.tag != m.tag) }))

/-- WR_ACK (R336): a piece of a segment has landed; the segment is visible with the last one. -/
def execWrAck (m : Msg) (s : State) : Host.Outcome State Fault Refusal :=
  onMsg 0x21 m s <| peerAnswer m fun r s => if segBusy s r.ch r.step then s else deltaDone r.ch r.step s

/-- The peer does not take a segment, which is abandoned as one not written (R317). -/
def segLost (r : Remote) (s : State) : State :=
  let s := modLinks s (fun l => { l with remote := l.remote.filter (fun q => !(q.ch == r.ch && q.step == r.step)) })
  deltaBreak r.ch (modTrn s r.ch (fun t => { t with segs := t.segs.filter (fun g => g.step != r.step) }))

/-- ERR (R336): the segment of the request is abandoned. -/
def execErr (m : Msg) (s : State) : Host.Outcome State Fault Refusal :=
  onMsg 0x22 m s <| peerAnswer m segLost

end Sys2Proof.Machine
end

