-- ==== Sys2Proof/Machine/HostIo.lean ====
section
/-! DEFINITION. Host memory answers (R303, R314, R374, R388, R446): the return of a host read, and the GO of a host write with what
it makes visible. -/

namespace Sys2Proof.Machine

open Sys2Proof

/-- A piece of a HOST_COMMIT read from host memory goes to its granule of WORK (R303). -/
def commitData (c p : Nat) (addr : Nat) (data : List Byte) (dead : List Nat) (s : State) : State :=
  let x := setAt s c (p / 2 ^ 32)
  match (chanAt s c).trn.hostCommit with
  | none => s
  | some (pos, n, es) =>
    let w := objWrite (copyAgent 0 c dead) x.work (p % 2 ^ 32 * 65536) data s
    if w.2 then finishRing c pos ST_MEM_POISON [] (modTrn w.1 c (fun t => { t with hostCommit := none, ackStep := 0 }))
    else cntAdd .cxp Reg.CXP_CNT_H2D_BYTES data.length
      (modTrn w.1 c (fun t => { t with hostCommit := some (pos, n, es.filter (fun e => e.2.2 != addr)) }))

/-- HOST_READ_RETURN (R374, R381): the data of an outstanding host read. A piece of a HOST_COMMIT whose write waits (R182, R183, R237)
keeps its read outstanding. -/
def execHostReadReturn (id : Nat) (data : List Byte) (s : State) : Host.Outcome State Fault Refusal :=
  match s.cxl.reads.find? (fun r => r.id == id && r.len == data.length) with
  | none => .next s
  | some r =>
    let drop (s : State) : State := modCxl s (fun x => { x with reads := x.reads.filter (fun q => q.id != id) })
    .next (if r.who = 1 then copyData r.unit r.pos data (drop s)
      else if r.who = 2 then
        gated 0 (some r.unit) 128 [{ write := true, obj := (setAt s r.unit (r.pos / 2 ^ 32)).work, off := r.pos % 2 ^ 32 * 65536, n := data.length }]
          (fun dead s => commitData r.unit r.pos r.addr data dead (drop s)) s
      else drop s)

/-- The last granule of GRAD is visible, so STEP_CLOSE completes (R303). -/
def gradGo (c p : Nat) (s : State) : State :=
  if (chanAt s c).trn.gradOut.isEmpty then s
  else
    let s := modTrn s c (fun t => { t with gradOut := t.gradOut.filter (fun g => g.1 * 2 ^ 32 + g.2 != p) })
    if (chanAt s c).trn.gradOut.isEmpty then normRecord c s else s

/-- HOST_WRITE_GO (R374, R388): a host write is visible, and its vector follows it. -/
def execHostWriteGo (id : Nat) (s : State) : Host.Outcome State Fault Refusal :=
  match s.cxl.writes.find? (fun w => w.id == id) with
  | none => .next s
  | some w =>
    let s := modCxl s (fun x => { x with writes := x.writes.filter (fun q => q.id != id) })
    let s := match w.msi with | some v => sendMsi v s | none => s
    .next (match w.who with
      | 1 => copyGo w.unit w.pos s
      | 2 => deltaDone w.unit w.pos s
      | 3 => gradGo w.unit w.pos s
      | 4 => stookSaved w.pos true s
      | _ => s)

end Sys2Proof.Machine
end

