-- ==== Sys2Proof/Machine/Reshard.lean ====
section
/-! DEFINITION. Re-sharding (R356 to R359): the plans, the permutation of the quads, and the switch; and the dispatch of a chunk to
the collective that it belongs to (R346). -/

namespace Sys2Proof.Machine

open Sys2Proof

/-- The device of index i in a cut (R343). -/
def cutMember (s : State) (k : Cut) (i : Nat) : Nat :=
  withCoord k.origin k.axis ((coord k.origin k.axis + i) % dimOf s.links.dims k.axis)

/-- The other members of a channel's re-shard. -/
def reshOthers (c : Nat) (s : State) : List Nat := ((resh c s).members.map (·.1)).filter (fun d => d != s.links.deviceId)

/-- The set of a re-shard as it is, and as the new mapping has it. -/
def reshSet (c : Nat) (s : State) : ShardSet := setAt s c (resh c s).set
def newSet (c : Nat) (s : State) : ShardSet :=
  let r := resh c s
  let o (k : Nat) : Nat := r.newObjs.getD k 0
  { reshSet c s with
    p := (r.cut.getD {}).extent, c := r.newC, master := o 0, m1 := o 1, m2 := o 2, grad := o 3, work := o 4, hyperObj := o 5,
    progress := o 6, staging := o 7, staged := [] }

/-- The arrays that move (R357): masters, and the moments that the set has. -/
def movedArrays (x : ShardSet) : List Nat := 0 :: (if hasM1 x.tensors then [1] else []) ++ [2]

/-- The CRC of a plan (R356): old P, new P, the step, and the tensor table. -/
def planCrc (c : Nat) (s : State) : Nat :=
  let x := reshSet c s
  crc32c (leBytes 1 x.p ++ leBytes 1 ((resh c s).cut.getD {}).extent ++ leBytes 8 (resh c s).step ++
    x.tensors.flatMap (fun d => leBytes 4 d.key ++ leBytes 2 d.rowBlocks ++ leBytes 2 d.colBlocks ++ leBytes 1 d.opt ++ List.replicate 7 0))

/-- A message of a re-shard to every other member: in the old DP group to its members, in the new one to those that join. -/
def reshSend (c : Nat) (m : Msg) (s : State) : State :=
  ((resh c s).members.filter (fun d => d.1 != s.links.deviceId)).foldl (fun s d => sendGroup d.2 d.1 { m with tag := (resh c s).set } s) s

/-- The collective of a re-shard ends. -/
def reshEnd (c status : Nat) (s : State) : State :=
  let s := modLinks s (fun l => { l with groups := l.groups.map (fun p =>
    (p.1, { p.2 with colls := p.2.colls.filter (fun y => !(y.kind == 7 && y.ch == c)) })) })
  finishRing c (resh c s).pos status [] s

/-- RESHARD fails and nothing changes (R356). -/
def reshFail (c status : Nat) (s : State) : State :=
  dropReshard c (reshEnd c status (setEv .abl Reg.ABL_EVENT Bit.ABL_EVENT_RESHARD_FAIL s))

/-! ### The switch (R357) -/

/-- The working copy of a tensor's portion made afresh from its masters, with its scale byte and SUM (R156, R275, R278). -/
def regenTensor (c i j : Nat) (s : State) : State :=
  let x := setAt s c i
  let f := workFormat x
  let q := (portion x.tensors x.p x.c j).2
  let masters (st k : Nat) (s : State) : List F32 := f32sOf (viewRead x.master st (quadGranule x 0 j (liveSlot x x.shardStep) k * 4096) 4096 s).2.1
  let amax := (List.range 16).foldl (fun a st => (List.range q).foldl (fun a k => fMax a (amaxOf (masters st k s))) a) 0
  let sc := if x.workScale = 0 ∧ f.isFp8 then scaleByte amax f else 127
  let r := (List.range 16).foldl (fun (a : State × Nat) st =>
    let w := (List.range q).foldl (fun (b : State × Nat) k =>
      let bs := (workBlock f sc (masters st k b.1)).1
      ((viewWrite x.work st (quadGranule x 4 j 0 k * 4096) (bs ++ List.replicate (4096 - bs.length) 0) b.1).1, crcRun b.2 bs)) (a.1, 0xFFFFFFFF)
    let sum := w.2 ^^^ 0xFFFFFFFF
    let v := progAt w.1 x j st
    (progWrite x j st (setNat (setNat v 159 128 sum) 119 112 sc) w.1, a.2 ^^^ sum)) (s, 0)
  if q = 0 then s else modSet c i (fun x => { x with sums := x.sums.set j r.2 }) r.1

/-- A member that holds READY from every member switches: the new arrays become the set, the new group the DP group; a leaving
member frees its arrays. The next delta segment asks for a new base image. -/
def reshSwitch (c : Nat) (s : State) : State :=
  let r := resh c s
  let x := reshSet c s
  let s := modTrn s c (fun t => { t with resync := true })
  let s := if r.leave then freeSet c r.set s
    else
      let y := newSet c s
      let s := modTrn s c (fun t => { t with sets := t.sets.set r.set y, oldObjs := t.oldObjs ++ setArrays x })
      let s := match r.oldGroup with | some gn => modGroup s gn (fun g => { g with role := 4 }) | none => s
      let s := modGroup s r.newGroup (fun g => { g with role := 0 })
      (List.range x.tensors.length).foldl (fun s j => regenTensor c r.set j s) s
  modResh c (fun _ => { set := r.set, switched := true }) (reshEnd c ST_OK s)

/-- READY in from every other member and sent: the switch. -/
def trySwitch (c : Nat) (s : State) : State :=
  if (resh c s).sentReady && (reshOthers c s).all (fun d => (resh c s).ready.contains d) then reshSwitch c s else s

/-- Every quad that this member has sent for a channel's re-shard is acknowledged: none of its flits is queued or held for replay
(R328, R357; log entry 136). -/
def quadsGone (c : Nat) (s : State) : Bool :=
  !(resh c s).lost && s.links.ports.all (fun x => x.txq.all (fun t => quadOf s t.m != some c) && x.retry.all (fun r => r.quad != some c))

/-- Every quad of this member has come and gone: READY goes to every member. -/
def tryReady (c : Nat) (s : State) : State :=
  let r := resh c s
  if r.active && r.agreed && r.toCome.isEmpty && !r.sentReady && quadsGone c s then
    trySwitch c (modResh c (fun r => { r with sentReady := true })
      (reshSend c { kind := 8, length := 8, data := leBytes 8 r.step } s))
  else s

/-- Every re-shard looked at again. -/
def readyAll (s : State) : State := s.links.reshards.foldl (fun s p => tryReady p.1 s) s

/-! ### The permutation (R357) -/

/-- One quad of an array to its new owner: copied here, or sent as a chunk of the old group. -/
def moveQuad (c a q : Nat) (acc : State × Bool) : State × Bool :=
  let s := acc.1
  let r := resh c s
  let x := reshSet c s
  let t := (quadTensor x.tensors 0 q).1
  let rdq := objRead (collAgent c []) (arrayObj x a) (granuleOf x a (liveSlot x x.shardStep) q * 65536) 65536 s
  let k := r.cut.getD {}
  let dst := cutMember s k (quadOwner x.tensors k.extent q)
  if rdq.2.2 ≠ 0 then (rdq.1, false)
  else if dst = s.links.deviceId then
    let y := newSet c s
    let w := objWrite (collAgent c []) (arrayObj y a) (granuleOf y a (liveSlot x x.shardStep) q * 65536) rdq.2.1 rdq.1
    (w.1, acc.2 && !w.2)
  else match r.oldGroup with
    | none => (rdq.1, acc.2)
    | some gn => (sendGroup gn dst { kind := 0x30, tag := r.set, obj := 7, offset := 4 * q + a, last := true, length := 65536, data := rdq.2.1 } rdq.1, acc.2)

/-- HYPER and PROGRESS copied to the new arrays. -/
def copyViews (c : Nat) (s : State) : State :=
  let x := reshSet c s
  let y := newSet c s
  (List.range 16).foldl (fun s st => (List.range x.tensors.length).foldl (fun s i =>
    let s := (viewWrite y.hyperObj st (128 * i) (viewRead x.hyperObj st (128 * i) 128 s).2.1 s).1
    progWrite y i st (progAt s x i st) s) s) s

/-- The plans agree: this member's quads go to their new owners. -/
def reshAgree (c : Nat) (s : State) : State :=
  let x := reshSet c s
  let r := resh c s
  let k := r.cut.getD {}
  let own := (List.range ((ownRange x.tensors x.p x.c).2 - (ownRange x.tensors x.p x.c).1)).map (· + (ownRange x.tensors x.p x.c).1)
  let new := ownRange x.tensors k.extent r.newC
  let come := if r.leave then [] else ((List.range (new.2 - new.1)).map (· + new.1)).filter (fun q => !own.contains q)
  let s := if r.leave then s else copyViews c s
  let m := own.foldl (fun a q => (movedArrays x).foldl (fun a i => if a.2 then moveQuad c i q a else a) a) (s, true)
  if !m.2 then reshFail c ST_MEM_POISON m.1
  else tryReady c (modResh c (fun r => { r with agreed := true, toCome := come.flatMap (fun q => (movedArrays x).map (fun i => (i, q))) }) m.1)

/-- Every plan is in: they differ, a member lacks space, or the re-shard goes on (R356). -/
def tryPlans (c : Nat) (s : State) : State :=
  let r := resh c s
  if !r.planSent || r.agreed || !(reshOthers c s).all (fun d => r.plans.any (fun p => p.1 == d)) then s
  else if r.plans.any (fun p => p.2.1 != planCrc c s) then reshFail c ST_RESHARD_MISMATCH s
  else if !r.space || r.plans.any (fun p => !p.2.2) then reshFail c ST_NO_SPACE s
  else reshAgree c s

/-- PLAN sent once the new cut is known. -/
def sendPlan (c : Nat) (s : State) : State :=
  let r := resh c s
  match r.cut with
  | none => s
  | some k =>
    if r.planSent then s
    else modResh c (fun r => { r with planSent := true }) (reshSend c
      { kind := 7, length := 9, data := leBytes 4 (planCrc c s) ++ leBytes 1 (putB r.space 0) ++ leBytes 1 k.axis ++ leBytes 1 k.extent ++ leBytes 2 k.origin } s)

/-- The new arrays of a member that stays (R357). -/
def reshAlloc (c : Nat) (s : State) : State :=
  let r := resh c s
  let x := reshSet c s
  if r.leave then s
  else match createSet s c (setRoot x.tensors (r.cut.getD {}).extent r.newC x.pingpong) (setCounts x.tensors (r.cut.getD {}).extent r.newC x.pingpong x.deltaEn false) with
    | .error _ => modResh c (fun r => { r with space := false }) s
    | .ok (os, s) => modResh c (fun r => { r with newObjs := os }) s

/-- RESHARD (R356, R357, R359): it waits for the record of the last started step. -/
def execReshard (src : CmdSrc) (e : Entry) (s : State) : Host.Outcome State Fault Refusal :=
  let c0 := (cmdOf s src e).ch
  let old0 := roleGroup s c0 0
  if (chanAt s c0).trn.recorded + 1 < stepAt s c0 (cmdOf s src e).pos || (resh c0 s).active || old0.any (fun g => g.2.aborted) then .next s
  else serve 0x46 src e s fun x s =>
    let si := bits e.a0 3 0
    let leave := bit e.a0 4
    let gn := bits e.a0 14 5
    let g := groupAt s gn
    let old := roleGroup s x.ch 0
    let ms0 := match old with | some o => o.2.members.map (fun m => (m.1, o.1)) | none => [(s.links.deviceId, gn)]
    let ms := ms0 ++ (if leave then [] else (g.members.filter (fun m => !ms0.any (fun d => d.1 == m.1))).map (fun m => (m.1, gn)))
    let cut : Cut := { axis := g.axis, extent := g.extent, origin := g.origin }
    if !(setAt s x.ch si).valid then answer x ST_SHARD_INVALID [] s
    else if chanPinned s x.ch then answer x ST_PINNED [] s
    else if (leave && old.isNone) || (!leave && !(ownGroup s x.ch gn && (g.role == 0 || g.role == 4))) then answer x ST_COLL_INVALID [] s
    else if old.any (fun o => o.2.fenced) then answer x ST_FENCED [] s
    else
      let r : Reshard := {
        active := true, pos := x.pos, step := (chanAt s x.ch).trn.recorded, set := si, leave := leave, newGroup := gn,
        oldGroup := old.map (·.1), members := ms, cut := if leave then none else some cut, newC := g.index }
      let s := reshAlloc x.ch (modResh x.ch (fun _ => r) s)
      let s := addColl (match old with | some o => o.1 | none => gn) { kind := 7, ch := x.ch, pos := some x.pos, step := r.step, set := si } s
      tryPlans x.ch (sendPlan x.ch s)

/-- A message of the re-shard that runs here, from one of its other members. -/
def reshMine (m : Msg) (s : State) : Bool :=
  let r := resh (groupAt s m.group).ch s
  r.active && m.tag == r.set && m.src != s.links.deviceId && r.members.contains (m.src, m.group)

/-- PLAN (R356). -/
def execPlan (m : Msg) (s : State) : Host.Outcome State Fault Refusal :=
  onMsg 7 m s fun s =>
    if !(groupAt s m.group).live then takeMsg m s
    else if !reshMine m s then keepMsg m s
    else
      let w (o n : Nat) : Nat := leAt m.data o n
      let c := (groupAt s m.group).ch
      let s := takeMsg m s
      let s := modResh c (fun r => { r with
        plans := if r.plans.any (fun p => p.1 == m.src) then r.plans else r.plans ++ [(m.src, w 0 4, w 4 1 != 0)]
        cut := match r.cut with | some k => some k | none => some { axis := w 5 1, extent := w 6 1, origin := w 7 2 } }) s
      tryPlans c (sendPlan c s)

/-- RESHARD_READY (R357). -/
def execReshardReady (m : Msg) (s : State) : Host.Outcome State Fault Refusal :=
  onMsg 8 m s fun s =>
    if !(groupAt s m.group).live then takeMsg m s
    else if !reshMine m s then keepMsg m s
    else trySwitch (groupAt s m.group).ch (modResh (groupAt s m.group).ch (fun r => { r with ready := if r.ready.contains m.src then r.ready else r.ready ++ [m.src] }) (takeMsg m s))

/-- A chunk of the permutation: one quad of one array. -/
def reshChunk (m : Msg) (s : State) : State :=
  let c := (groupAt s m.group).ch
  let r := resh c s
  if !reshMine m s || !r.agreed then keepMsg m s
  else
    let a := m.offset % 4
    let q := m.offset / 4
    let y := newSet c s
    let off := granuleOf y a (liveSlot y y.shardStep) q * 65536
    if m.fail ≠ 0 then reshFail c m.fail (takeMsg m s)
    else if !r.toCome.contains (a, q) then takeMsg m s
    else collGated s m.src c [{ write := true, obj := arrayObj y a, off := off, n := m.data.length }] (fun dead s =>
      let w := objWrite (collAgent c dead) (arrayObj y a) off m.data (takeMsg m s)
      if w.2 then reshFail c ST_MEM_POISON w.1
      else tryReady c (modResh c (fun r => { r with toCome := r.toCome.filter (fun p => p != (a, q)) }) w.1)) (keepMsg m s)

/-- CHUNK (R346, R353): a chunk goes to its collective (log entry 50): 0 gather, 1 reduce-scatter, 2 norm, 3 broadcast, 4 send,
5 version of a gather, 7 permutation. -/
def execChunk (m : Msg) (s : State) : Host.Outcome State Fault Refusal :=
  onMsg 0x30 m s <| onVc3 m fun s =>
    match m.obj with
    | 0 => gatherChunk m s
    | 1 => rsChunk m s
    | 2 => normChunk m s
    | 3 => rangeChunk m s
    | 4 => rangeChunk m s
    | 5 => versionChunk m s
    | 7 => reshChunk m s
    | _ => takeMsg m s

end Sys2Proof.Machine
end

