-- ==== Sys2Proof/Machine/Flits.lean ====
section
/-! DEFINITION. FLIT_RX (R327, R328, R330, R332): a flit received, with what it lets go on. -/

namespace Sys2Proof.Machine

open Sys2Proof

/-- FLIT_RX (R327, R328, R330, R332): 256 bytes from the link, and the FEC codewords corrected and not correctable since the last ones. A
flit with a bad CRC, or with another SEQ than the expected one, is discarded whole. -/
def execFlitRx (p : Nat) (x : RxFlit) (s : State) : Host.Outcome State Fault Refusal :=
  atUnit p 6 <| onlyIf (portActive s p) s fun s =>
    let s := fecCount p x.corr x.uncorr s
    match flitOf x.bytes with
    | none => nakGap p s
    | some f =>
      if !f.idle && f.seq != (portAt s p).rxSeq then nakGap p s
      else
        let s := flitReturns p f s
        let s := if f.idle then s else takeFlit p f s
        readyAll (if f.nak && portActive s p then nakReplay p s else s)

end Sys2Proof.Machine
end

