-- ==== Sys2Proof/Machine/HostPort.lean ====
section
/-! DEFINITION. Events of the CXL port (R363 to R370, R383, R384, R387, R391 to R395): its link, its resets, attachment,
the decoder, and accesses through BAR0 and BAR4. -/

namespace Sys2Proof.Machine

open Sys2Proof

/-- The port can train: PERST# is released, and no reset of its domain stands before its training step (R392, R448). -/
def portTrains (s : State) : Bool :=
  let ready (d : Nat) : Bool := (domainAt s d).seq.all (fun q => decide (7 ≤ q.step))
  !s.cxl.perst && s.phys.pwrGood && ready 0x40 && ready 0x7E && ready 0x7F

/-- CXL_LINK_UP (R363, R395): the link returns in CXL (1) or PCIe (2) mode, and the port reads LINK_UP_UNATTACHED. -/
def execCxlLinkUp (mode width rate : Nat) (ideIo ideCm : Bool) (s : State) : Host.Outcome State Fault Refusal :=
  onlyIf (portTrains s && s.cxl.mode == 0 && (mode == 1 || mode == 2) && decide (1 ≤ width) && decide (width ≤ 16) &&
      decide (1 ≤ rate) && decide (rate ≤ 6)) s fun s =>
    modCxl s (fun x => { x with mode := mode, width := width, rate := rate, ideIo := ideIo, ideCm := ideCm, attach := 2 })

/-- CXL_LINK_DOWN (R391 cause 1). -/
def execCxlLinkDown (s : State) : Host.Outcome State Fault Refusal :=
  onlyIf (s.cxl.mode != 0) s fun s => detach 1 (linkDown s)

/-- The CXL port domain, configuration space and the HDM decoder reset by the host (R392, R398). -/
def resetPort (s : State) : State :=
  beginReset 0x40 0x61 0 (modCxl s (fun x => { x with hdm := none, bar4Gib := 1024 }))

/-- PERST_ASSERT (R391 cause 2, R392). -/
def execPerstAssert (s : State) : Host.Outcome State Fault Refusal :=
  onlyIf (!s.cxl.perst) s fun s =>
    resetPort (detach 2 (linkDown (modCxl s (fun x => { x with perst := true }))))

/-- CXL_HOT_RESET (R391 cause 2, R392). -/
def execCxlHotReset (s : State) : Host.Outcome State Fault Refusal :=
  onlyIf (s.cxl.mode != 0) s fun s => resetPort (detach 2 (linkDown s))

/-- CXL_FLR (R391 cause 3, R392). -/
def execCxlFlr (s : State) : Host.Outcome State Fault Refusal :=
  onlyIf (s.cxl.mode != 0) s fun s => resetPort (detach 3 s)

/-- IDE_INTEGRITY_FAIL (R365, R391 cause 4). -/
def execIdeIntegrityFail (s : State) : Host.Outcome State Fault Refusal :=
  onlyIf (s.cxl.mode != 0 && (s.cxl.ideIo || s.cxl.ideCm)) s fun s =>
    let s := logRec { source := 6, cause := 2, severity := 2, detail := 4 } (setEv .cxp Reg.CXP_EVENT Bit.CXP_EVENT_IDE_FAIL s)
    detach 4 (linkDown s)

/-- HOST_WD_MS, 0 when the watchdog is off. -/
def hostWdMs (s : State) : Nat := rdField s .cxp Reg.CXP_CTRL 15 0

/-- HOST_WD_EXPIRE (R391 cause 5): no write for HOST_WD_MS while the host is attached. -/
def execHostWdExpire (s : State) : Host.Outcome State Fault Refusal :=
  onlyIf (s.cxl.attach == 0 && hostWdMs s != 0) s fun s => detach 5 s

/-- BAR0 can be reached: a link is up, and the module is past the ROM (R364, R514). -/
def bar0Open (s : State) : Bool := s.cxl.mode != 0

/-- HOST_WD_WRITE (R391). -/
def execHostWdWrite (_w : Word) (s : State) : Host.Outcome State Fault Refusal :=
  onlyIf (bar0Open s) s fun s => modCxl s (fun x => { x with wdUs := s.us })

/-- CXP_ATTACH (R395). -/
def execCxpAttach (s : State) : Host.Outcome State Fault Refusal :=
  onlyIf (bar0Open s && s.cxl.attach == 2) s fun s =>
    setEv .cxp Reg.CXP_EVENT Bit.CXP_EVENT_ATTACH (modCxl s (fun x => { x with attach := 0, wdUs := s.us }))

/-- CXP_DETACH (R391 cause 6). -/
def execCxpDetach (s : State) : Host.Outcome State Fault Refusal :=
  onlyIf (bar0Open s) s fun s => detach 6 s

/-- The decoder accepts a commit (R370). -/
def hdmOk (base size : Nat) : Bool :=
  base % 2 ^ 28 == 0 && size % 2 ^ 28 == 0 && size != 0 && decide (size ≤ 3584 * 2 ^ 30)

/-- HDM_COMMIT (R370). -/
def execHdmCommit (base size : Nat) (s : State) : Host.Outcome State Fault Refusal :=
  onlyIf (s.cxl.mode == 1) s fun s =>
    modCxl s (fun x => { x with hdm := if hdmOk base size then some (base, size) else none })

/-- BAR0_BAD_ACCESS (R368): a read returns all ones, a write is discarded. -/
def execBar0BadAccess (write : Bool) (s : State) : Host.Outcome State Fault Refusal :=
  onlyIf (bar0Open s) s fun s =>
    let s := setEv .cxp Reg.CXP_EVENT Bit.CXP_EVENT_BAR_SIZE s
    if write then s else modCxl s (fun x => { x with bar0Out := x.bar0Out ++ [word (2 ^ 64 - 1)] })

/-! ### BAR4 (R383, R384, R387) -/

/-- BAR4 accepts a request at an offset: the link is up, IDE is active where required (R364), the offset is in the BAR. -/
def bar4Open (s : State) (off : Nat) : Bool :=
  s.cxl.mode != 0 && s.boot.stage == 3 && (!s.boot.settings.ideRequired || (s.cxl.ideIo && (s.cxl.ideCm || s.cxl.mode == 2))) &&
  decide (off < s.cxl.bar4Gib * 2 ^ 30)

def regionAt (s : State) (r : Nat) : Region := smGet (fun _ => {}) s.cxl.regions r

/-- The CAUSE of CXP_REGION_LAST that refuses a request, in the order of R384; none when it is served. -/
def regionCause (g : Region) (write : Bool) (o len reqId pasid : Nat) (hasPasid : Bool) : Option Nat :=
  if !g.valid then some 1
  else if g.len < o + len then some 2
  else if !(if write then g.wr else g.rd) then some 3
  else if reqId &&& g.reqMask ≠ g.reqId &&& g.reqMask then some 4
  else if g.pasidReq && !(hasPasid && pasid == g.pasid) then some 5
  else none

/-- A refusal of R384 counted and recorded. -/
def regionDeny (r : Nat) (write : Bool) (cause reqId pasid : Nat) (hasPasid : Bool) (s : State) : State :=
  let w := put r 9 0 + putB write 10 + putB true 11 + put cause 15 12 + put reqId 31 16 + (if hasPasid then put pasid 51 32 else 0)
  cntInc .cxp Reg.CXP_CNT_REGION_DENY (setEv .cxp Reg.CXP_EVENT Bit.CXP_EVENT_REGION_DENY
    (wr s .cxp Reg.CXP_REGION_LAST (word w)))

/-- An answer to a BAR4 read. -/
def bar4Out (status : Nat) (data : List Byte) (s : State) : State :=
  modCxl s (fun x => { x with bar4Out := x.bar4Out ++ [(status, data)] })

/-- BAR4_READ (R384, R387): refused with Unsupported Request, or served once every earlier write of its requester has been
applied. -/
def execBar4Read (off len reqId pasid : Nat) (hasPasid : Bool) (s : State) : Host.Outcome State Fault Refusal :=
  onlyIf (bar4Open s off && len != 0 && decide (len ≤ 4096) && !s.cxl.held.any (fun h => h.req == some reqId)) s fun s =>
    let r := off / 2 ^ 30
    let g := regionAt s r
    match regionCause g false (off % 2 ^ 30) len reqId pasid hasPasid with
    | some cause => bar4Out 1 [] (regionDeny r false cause reqId pasid hasPasid s)
    | none =>
      gated 19 none 141 [{ obj := g.obj, off := g.offset + off % 2 ^ 30, n := len }] (fun dead s =>
        let x := objRead { req := 141, dead := dead } g.obj (g.offset + off % 2 ^ 30) len s
        if x.2.2 = 0 then bar4Out 0 x.2.1 x.1 else bar4Out 2 [] x.1) s

/-- BAR4_WRITE (R384, R387): applied in arrival order, held while its granule moves; 64 writes are held at most (R237). -/
def execBar4Write (off reqId pasid : Nat) (hasPasid : Bool) (data : List Byte) (s : State) : Host.Outcome State Fault Refusal :=
  onlyIf (bar4Open s off && !data.isEmpty && decide (data.length ≤ 4096)) s fun s =>
    let r := off / 2 ^ 30
    let g := regionAt s r
    match regionCause g true (off % 2 ^ 30) data.length reqId pasid hasPasid with
    | some cause => regionDeny r true cause reqId pasid hasPasid s
    | none =>
      let o := g.offset + off % 2 ^ 30
      if rangeBusy s g.obj o data.length || s.cxl.held.any (fun h => h.req == some reqId && h.obj == g.obj) then
        if s.cxl.held.length < 64 then
          cntInc .plc Reg.PLC_CNT_HELD_WRITES (modCxl s (fun x => { x with held := x.held ++
            [{ obj := g.obj, offset := o, data := data.zipIdx.map (fun p => (p.2, p.1)), req := some reqId }] }))
        else s
      else gated 19 none 141 [{ write := true, obj := g.obj, off := o, n := data.length }]
        (fun dead s => objStore { engine := false, req := 141, dead := dead } g.obj o data s) s

end Sys2Proof.Machine
end

