-- ==== Sys2Proof/Machine/Rejoin.lean ====
section
/-! DEFINITION. Collective timeouts, step aborts of peers, and the rejoin (R298 to R301, R351 to R354, R358, R458 to R464). -/

namespace Sys2Proof.Machine

open Sys2Proof

/-! ### Epochs (R353) -/

/-- An epoch offered is larger than the group's: ahead of it by less than half of the 16-bit range (log entry 70). -/
def epochAhead (offered own : Nat) : Bool :=
  let d := (offered + 65536 - own) % 65536
  decide (0 < d) && decide (d < 32768)

/-- The group takes an epoch offered by a STEP_ABORT or a REJOIN when it is larger; what this module had begun at its own ends. -/
def offerEpoch (gn e : Nat) (s : State) : State :=
  modGroup s gn (fun g => if epochAhead e g.epoch then { g with epoch := e, rejoining := false, acks := [] } else g)

/-! ### Timeouts and step aborts -/

/-- A collective of a group that has timed out ends: (group, its place among them); the remote accesses of the group come after them
(R351, Table 10.10). -/
def endTimedOut (gn i : Nat) (s : State) : Option State :=
  let g := groupAt s gn
  match g.colls[i]? with
  | some y =>
    let s := endColl gn y ST_COLL_TIMEOUT [] s
    some (if y.kind ≠ 7 then s
      else
        let s := setEv .abl Reg.ABL_EVENT Bit.ABL_EVENT_RESHARD_FAIL s
        if normAlone s g.ch then dropReshard g.ch s else s)
  | none => ((s.links.remote.filter (fun r => r.group == gn))[i - g.colls.length]?).map (fun r => segLost r s)

/-- COLL_TIMEOUT (R351, R358, R453): collective i of a group fails, its group becomes ABORTED and the attempt aborts. -/
def execCollTimeout (gn i : Nat) (s : State) : Host.Outcome State Fault Refusal :=
  atUnit gn 1024 <| .next <|
    match endTimedOut gn i s with
    | none => s
    | some s =>
      let g := groupAt s gn
      let s := cntInc .abl Reg.ABL_CNT_COLL_TIMEOUT (setEv .abl Reg.ABL_EVENT Bit.ABL_EVENT_COLL_TIMEOUT s)
      let s := logRec { source := 5, cause := 2, severity := 2, status := ST_COLL_TIMEOUT, channel := handleOf s g.ch,
                        step := attemptOf (chanAt s g.ch), detail := put gn 9 0 + put g.epoch 31 16 } s
      let s := modGroup s gn (fun g => { g with aborted := decide (1 < g.members.length), rejoined := false, colls := [] })
      abortAttempt g.ch ST_COLL_TIMEOUT 0xFF s

/-- STEP_ABORT (R353, R354): the named step's attempt aborts with the status it carries; an older step is ignored, and one that
this member has not reached waits. -/
def execStepAbort (m : Msg) (s : State) : Host.Outcome State Fault Refusal :=
  onMsg 3 m s fun s =>
    let g := groupAt s m.group
    if !g.live || g.role != 3 then takeMsg m s
    else
      let s := offerEpoch m.group m.epoch s
      let n := attemptOf (chanAt s g.ch)
      let step := leAt m.data 0 8
      if n < step then keepMsg m s
      else
        let s := setEv .abl Reg.ABL_EVENT Bit.ABL_EVENT_STEP_ABORT_RX (takeMsg m s)
        if step < n then s else abortAttempt g.ch (leAt m.data 8 2) 0xFF s

/-! ### Reports and decisions (Table 13.9) -/

/-- Fields of the six words of Table 13.9. -/
def rjCommitted (w : List Word) : Nat := (w.getD 0 0).toNat
def rjFlags (w : List Word) : Word := w.getD 2 0
def rjOvf (w : List Word) : Bool := bit (rjFlags w) 0
def rjDecided (w : List Word) : Bool := bit (rjFlags w) 1
def rjInexact (w : List Word) : Bool := bit (rjFlags w) 2
def rjSwitched (w : List Word) : Bool := bit (rjFlags w) 3
def rjSet (w : List Word) : Nat := bits (rjFlags w) 7 4
def rjLs (w : List Word) : Int := signedOf 8 (bits (rjFlags w) 15 8)
def rjNorm (w : List Word) : F32 := BitVec.ofNat 32 (bits (w.getD 3 0) 31 0)
def rjClip (w : List Word) : F32 := BitVec.ofNat 32 (bits (w.getD 3 0) 63 32)
def rjNormStep (w : List Word) : Nat := (w.getD 4 0).toNat
def rjOutcome (w : List Word) : Nat := (w.getD 5 0).toNat

/-- Six words as the 48 bytes of a message, and from them. -/
def rjBytes (w : List Word) : List Byte := w.flatMap (fun x => leBytes 8 x.toNat)
def rjWords (b : List Byte) : List Word := (List.range 6).map (fun k => word (leAt b (8 * k) 8))

/-- The module keeps the masters of some set of a channel at its host (R302). -/
def hostResident (k : Chan) : Bool := k.trn.sets.any (fun x => x.valid && x.hostRes)

/-- A channel has reported ST_RECOVERY_INEXACT and waits for its restore. -/
def isInexact (k : Chan) : Bool := k.rcv.st == 1 && k.rcv.voidStatus == ST_RECOVERY_INEXACT

/-- This module's report on a channel (R459). A host-resident channel ends at its last committed step (R305), so it reports no norm
beyond it. -/
def ownReport (s : State) (c : Nat) : List Word :=
  let k := chanAt s c
  let t := k.trn
  let r := resh c s
  let sw := r.switched
  let ns := if hostResident k ∧ t.recorded < t.normStep then 0 else t.normStep
  [word t.recorded, word (attemptOf k),
   word (putB t.normOvf 0 + putB (isInexact k) 2 + putB sw 3 + put (if sw then r.set else 0) 7 4 + put (unsignedOf 8 t.normLs) 15 8),
   word (t.norm.toNat + t.clip.toNat * 2 ^ 32), word ns, word 0]

/-- The decision from the reports of every member (R461). -/
def formDecision (own : List Word) (rs : List (List Word)) : List Word :=
  let out := rs.foldl (fun a w => max a (max (rjCommitted w) (rjNormStep w))) 0
  let src := rs.find? (fun w => rjNormStep w == out)
  let inexact := rs.any (fun w => rjInexact w || decide (rjCommitted w + 1 < out))
  let sw := rs.find? rjSwitched
  let v := src.getD []
  [own.getD 0 0, own.getD 1 0,
   word (putB (rjOvf v) 0 + putB true 1 + putB inexact 2 + putB sw.isSome 3 + put (rjSet (sw.getD [])) 7 4 +
     put (bits (rjFlags v) 15 8) 15 8),
   v.getD 3 0, word (if src.isSome then out else 0), word out]

/-! ### Finishing a step (R299, R300, R462) -/

/-- The update of step n again from the progress records: in place each granule goes on from its mark, in ping-pong mode every
granule starts over. A record that cannot be read ends the recovery as inexact (R301). -/
def rollForward (c n : Nat) (s : State) : State :=
  let s := dropStackWork c s
  let s := modTrn s c (fun t => { t with itemsLeft := 0, scaleReports := [], phase := 3 })
  let t := (chanAt s c).trn
  let bad := t.updated.any (fun p => (List.range 16).any (fun st => (progRead (setAt s c p.1) p.2 st s).2.2 != 0))
  if bad then reportInexact c s
  else t.updated.foldl (fun s p =>
    let x := setAt s c p.1
    let v := progAt s x p.2 0
    if progValid v ∧ progStep v = n then
      let s := (List.range 16).foldl (fun s st =>
        let w := setNat (progAt s x p.2 st) 169 169 0
        progWrite x p.2 st (if x.pingpong then setNat w 1023 512 0 else w) s) s
      queueTensor c n p.1 p.2 (progClip v) (progLs v) s
    else queueTensor c n p.1 p.2 t.clip t.normLs (writeHeaders c n p.1 p.2 t.clip t.normLs s)) s

/-- ST_RECOVERY_INEXACT reported once, with nothing of the channel going on (R462). -/
def endInexact (c : Nat) (s : State) : State :=
  if isInexact (chanAt s c) then s else reportInexact c s

/-- The norm collective of a channel dropped: its result has come by the decision. -/
def dropNorm (c : Nat) (s : State) : State :=
  modLinks s (fun l => { l with groups := l.groups.map (fun p =>
    (p.1, { p.2 with colls := p.2.colls.filter (fun y => !(y.kind == 2 && y.ch == c)) })) })

/-- Step n, the next of the channel, finished by a decision. -/
def finishStep (c n : Nat) (d : List Word) (s : State) : State :=
  let k := chanAt s c
  let held := k.rcv.st == 2
  if hostResident k || k.rcv.st == 1 || k.trn.close.isNone then endInexact c s
  else if k.trn.normStep = n then
    if held then rollForward c n (modChanRcv s c (fun r => { r with st := 3 })) else s
  else if rjNormStep d ≠ n then endInexact c s
  else
    let s := modTrn (dropNorm c s) c (fun t => { t with
      norm := rjNorm d, clip := rjClip d, normOvf := rjOvf d, normStep := n, normLs := rjLs d, normIn := true })
    if held then
      let s := modChanRcv s c (fun r => { r with st := 3 })
      if rjOvf d then skipStep c n s else updateStart c n s
    else actOnNorm c n s

/-- A later attempt of a channel whose last recorded step is the outcome voided (R455, R462). -/
def voidLater (c : Nat) (s : State) : State :=
  let k := chanAt s c
  if k.rcv.st = 2 then voidAttempt c k.rcv.voidStatus s
  else if k.rcv.st = 0 ∧ !k.trn.firsts.isEmpty then
    let s := abortAttempt c ST_COLL_TIMEOUT 0xFF s
    if (chanAt s c).rcv.st = 2 then voidAttempt c ST_COLL_TIMEOUT s else s
  else s

/-- The re-shard of a channel as a decision leaves it (R358, R461): every member switches when one has, and else none does. -/
def decideReshard (c : Nat) (d : List Word) (s : State) : State :=
  let r := resh c s
  if !r.active then s
  else if rjSwitched d && rjSet d == r.set && r.sentReady then reshSwitch c s
  else reshFail c ST_COLL_TIMEOUT s

/-- Every group of a channel leaves ABORTED. -/
def leaveAborted (c : Nat) (s : State) : State :=
  modChanRcv (modLinks s (fun l => { l with groups := l.groups.map (fun p =>
    (p.1, if p.2.live && p.2.ch == c then { p.2 with aborted := false, rejoined := false, rejoining := false, acks := [] } else p.2)) })) c
    (fun r => { r with cause := 0xFF })

/-- A decision applied to a channel (R462). -/
def applyDecision (c : Nat) (d : List Word) (s : State) : State :=
  let s := cntInc (.chn c) Reg.CHN_CNT_REJOIN (setEv (.chn c) Reg.CHN_RCV_EVENT Bit.CHN_RCV_EVENT_REJOIN s)
  let s := decideReshard c d s
  let k := chanAt s c
  let out := rjOutcome d
  let s := if rjInexact d then endInexact c s
    else if k.trn.recorded = out then voidLater c s
    else if k.trn.recorded + 1 = out then finishStep c out d s
    else s
  leaveAborted c s

/-! ### The rejoin (R460) -/

/-- A domain that the channel uses, or whose reset aborted its attempt, is fenced: the member does not answer yet. -/
def rejoinBlocked (s : State) (c : Nat) : Bool :=
  let cause := (chanAt s c).rcv.cause
  (cause != 0xFF && (domainAt s cause).fenced && !(domainAt s cause).retired) ||
  (List.range 0x80).any (fun d => (domainAt s d).fenced && usesDomain s c d)

/-- The rejoin of a group ends by its answers when its channel has no norm group to decide for it (log entry 71). -/
def endsByAcks (s : State) (g : Group) : Bool := g.role != 3 && normAlone s g.ch

/-- A group leaves ABORTED. -/
def leaveGroup (gn : Nat) (s : State) : State := modGroup s gn (fun g => { g with aborted := false, rejoined := false, rejoining := false, acks := [] })

/-- The initiator with an answer from every member (R460, R461). -/
def tryDecide (gn : Nat) (s : State) : State :=
  let g := groupAt s gn
  if !g.rejoining || !(otherMembers g).all (fun i => g.acks.any (fun a => a.1 == memberId g i)) || rejoinBlocked s g.ch then s
  else if g.role ≠ 3 then
    if endsByAcks s g then leaveGroup gn s else modGroup s gn (fun g => { g with rejoining := false, acks := [] })
  else
    let own := ownReport s g.ch
    let d := formDecision own (own :: g.acks.map (·.2))
    let s := logRec { source := 5, cause := 4, severity := if rjInexact d then 4 else 0, channel := handleOf s g.ch,
                      step := attemptOf (chanAt s g.ch),
                      detail := put gn 9 0 + put g.epoch 31 16 + rjOutcome d * 2 ^ 64 } s
    let s := sendMembers gn { kind := 4, length := 48, data := rjBytes d } s
    applyDecision g.ch d (modGroup s gn (fun g => { g with decided := g.epoch + 1 }))

/-- REJOIN with DECIDED 0 sent for a group, at its epoch as it stands. -/
def sendRejoin (gn : Nat) (s : State) : State :=
  let g := groupAt s gn
  let s := modGroup s gn (fun g => { g with rejoining := true, rejoined := true })
  tryDecide gn (sendMembers gn { kind := 4, length := 48, data := rjBytes (ownReport s g.ch) } s)

/-- This module starts the rejoin of a group: it offers its epoch + 1 (R353, R460). -/
def startRejoin (gn : Nat) (s : State) : State :=
  sendRejoin gn (modGroup s gn (fun g => { g with epoch := (g.epoch + 1) % 65536, acks := [] }))

/-- REJOIN (R352, R353, R460, R462). -/
def execRejoin (m : Msg) (s : State) : Host.Outcome State Fault Refusal :=
  onMsg 4 m s fun s =>
    let w := rjWords m.data
    if !(groupAt s m.group).live then takeMsg m s
    else
      let s := modGroup (offerEpoch m.group m.epoch s) m.group (fun g => { g with rejoined := g.aborted })
      let g := groupAt s m.group
      if m.epoch ≠ g.epoch then takeMsg m s
      else if rjDecided w then
        let s := setEv .abl Reg.ABL_EVENT Bit.ABL_EVENT_REJOIN_RX (takeMsg m s)
        if g.role ≠ 3 ∨ g.decided = g.epoch + 1 then s
        else applyDecision g.ch w (modGroup s m.group (fun g => { g with decided := g.epoch + 1 }))
      else if rejoinBlocked s g.ch then keepMsg m s
      else
        let s := setEv .abl Reg.ABL_EVENT Bit.ABL_EVENT_REJOIN_RX (takeMsg m s)
        let s := sendGroup m.group m.src { kind := 5, length := 48, data := rjBytes (ownReport s g.ch) } s
        if endsByAcks s g && !g.rejoining then leaveGroup m.group s else s

/-- REJOIN_ACK (R460, R461): the initiator collects the answers of its epoch. -/
def execRejoinAck (m : Msg) (s : State) : Host.Outcome State Fault Refusal :=
  onMsg 5 m s fun s =>
    let g := groupAt s m.group
    let s := takeMsg m s
    if !g.live || !g.rejoining || g.epoch != m.epoch then s
    else tryDecide m.group (modGroup s m.group (fun g => { g with
      acks := g.acks.filter (fun a => a.1 != m.src) ++ [(m.src, rjWords m.data)] }))

/-- REJOIN_WAIT_EXPIRE (R352): a member that has waited long enough starts the rejoin itself. -/
def execRejoinWaitExpire (gn : Nat) (s : State) : Host.Outcome State Fault Refusal :=
  atUnit gn 1024 <| onlyIf ((groupAt s gn).live && (groupAt s gn).aborted && !(groupAt s gn).rejoining) s (startRejoin gn)

/-- REJOIN_ACK_TIMEOUT (R460): the initiator repeats its REJOIN with the same epoch. -/
def execRejoinAckTimeout (gn : Nat) (s : State) : Host.Outcome State Fault Refusal :=
  atUnit gn 1024 <| onlyIf ((groupAt s gn).live && (groupAt s gn).rejoining) s (sendRejoin gn)

end Sys2Proof.Machine
end

