-- ==== Sys2Proof/Machine/Reset.lean ====
section
/-! DEFINITION. Reset sequences (R440 to R452, R460, R491, R508): what each step of Table 13.7 does, what each reset keeps and
loses (Table 13.8), and the retirement of quads. -/

namespace Sys2Proof.Machine

open Sys2Proof

/-! ### What a reset loses (Table 13.8, R441, R491) -/

/-- A quad: its four tillers, what is on its way to or from them, and their requests at the homes. -/
def loseQuad (q : Nat) (s : State) : State :=
  let ts := quadTillers q
  let s := dropPools ts s
  let s := { s with
    tillers := s.tillers.filter (fun p => !ts.contains p.1)
    flights := s.flights.filter (fun f => !ts.contains f.src && !ts.contains f.dst)
    notices := s.notices.filter (fun n => !ts.contains n.1) }
  let s := (liveChans s).foldl (fun s c =>
    modTrn s c (fun t => { t with deferred := t.deferred.filter (fun d => !d.left.any ts.contains) })) s
  ts.foldl (fun s t => resetBlock s (.tlr t) 0x1000) s

/-- A stack: base die logic, request pools, hold buffer and update unit; its temperature reads on, and the DRAM keeps its cells. -/
def loseStack (i : Nat) (s : State) : State :=
  resetBlock (modStack s i (fun x => { st := x.st, tempMax := x.tempMax, hotDie := x.hotDie, thermal := x.thermal,
                                       refresh2x := x.refresh2x, cells := x.cells })) (.yst i) 0x1000

/-- A deep-tier controller with its husk edge. -/
def loseDeep (d : Nat) (s : State) : State :=
  resetBlock (resetBlock (modDeep s d (fun x => { st := x.st, temp := x.temp, thermal := x.thermal, cells := x.cells })) (.dtr d) 0x1000) (.hsk (8 + d)) 0x100

/-- The flit layer of a port, with its queues; its training state stays (R342). -/
def losePort (p : Nat) (s : State) : State :=
  let s := modPort (cutLink p s) p (fun x => { freshFlits x with st := 0, train := 0, retraining := false, huskSent := [], huskWait := [] })
  let s := rerouteAll p (modLinks s (fun l => { l with remote := l.remote.filter (fun r => r.port != p) }))
  resetBlock (resetBlock s (.ablPort p) 0x1000) (.hsk p) 0x100

/-- The CXL port with its decoder and the writes it holds; the registers of R398 stay. -/
def loseCxl (s : State) : State :=
  resetBlock (modCxl (dropEngine (fun e => e.who == 19) s) (fun x => { x with hdm := none, bar4Gib := 1024, held := [] })) (.hsk 6) 0x100

/-- Registers that a warm device reset keeps: the channel windows, the PWR_ block, and the counts of the directory (R491, R520). -/
def keptWarm (a : Nat) : Bool := decide (0x1000000 ≤ a) || (decide (0x110000 ≤ a) && decide (a < 0x120000)) || bootCounts.contains a

/-- The generation of every domain advanced (R440). -/
def advanceAll (s : State) : State :=
  ((List.range 0x80).filter isDomain).foldl (fun s d => modDomain s d (fun x => { x with gen := (x.gen + 1) % 65536 })) s

/-- Everything a warm device reset loses. Commands of a migration end with ST_MIG_ABORTED (R239). -/
def loseWarm (s : State) : State :=
  let s := dropEngine (fun _ => true) { s with heldBy := [] }
  let s := s.migs.foldl (fun s m => finishRing m.ch m.pos ST_MIG_ABORTED [word (m.leftInPlace + m.todo.length + m.moves.length)] (dropMig m s)) s
  let s := (List.range 16).foldl (fun s i => loseStack i s) s
  let s := (List.range 32).foldl (fun s d => loseDeep d s) s
  let s := (liveChans s).foldl (fun s c => modChan s c (fun k => { k with
    barrier := [], waves := [], goHeld := false, loading := [], trn := { k.trn with deferred := [], deferNext := [], deferRest := [] } })) s
  let s := modLinks s (fun l => { l with
    ports := l.ports.map (fun x => { freshFlits x with st := 0, train := 0, retraining := false, txq := [], huskSent := [], huskWait := [] })
    inbox := [], remote := [], reshards := []
    groups := l.groups.map (fun p => (p.1, { p.2 with colls := [], rejoining := false, acks := [] })) })
  let s := modCxl s (fun x => { x with
    hdm := none, bar4Gib := 1024, held := [], regions := [], detachCause := 0, wdUs := 0, reads := [], writes := []
    engines := x.engines.map (fun e => { e with inflight := [], lastCh := 0 }) })
  let s := modRcv s (fun r => { r with probes := [], abandoned := [], heartbeat := 0, lastSaved := none })
  let s := modBoot s (fun b => { dropProgram b with
    stage := 0, handover := false, rcvVerify := false, commitDue := false, dlBuffer := List.replicate 4096 0, sessions := [] })
  { s with tillers := [], flights := [], notices := [], xlat := [], mbxs := [], regs := s.regs.filter (fun p => keptWarm p.1) }

/-- The directory written at a reset that the module carries out while power stays (R496); before the ROM has read it there is
nothing to carry. -/
def dirAtReset (s : State) : State := if s.boot.activeSt = 0 ∧ s.boot.stagingSt = 0 then s else writeDir s

/-! ### The steps (R448) -/

/-- The steps that a domain's sequence runs (Table 13.7). A cold reset has no traffic to drain, and a start restores no tables. -/
def seqSteps (d : Nat) : List Nat :=
  if d < 0x20 then [1, 2, 3, 5, 6, 7, 9]
  else if d < 0x34 ∨ d = 0x7E then [1, 2, 3, 4, 5, 6, 7, 8, 9]
  else if d = 0x7F then [1, 2, 5, 6, 7, 9]
  else [1, 2, 3, 5, 7, 9]

/-- The step after one. -/
def stepAfter (d k : Nat) : Nat := ((seqSteps d).find? (fun j => decide (k < j))).getD 9

/-- Requests that a home still holds answered poisoned; contributions it holds are not applied (R441). -/
def drainHome (h : Nat) (s : State) : State :=
  let pool := if h < 16 then (stackAt s h).pool else (deepAt s (h - 16)).pool
  let s := pool.foldl (fun s q => modTiller s q.1 (fun u => { u with reqs := u.reqs.map (fun r => if r.rid = q.2 then
    { r with parts := r.parts.map (fun p => if p.home = h ∧ p.st ≤ 1 then { p with st := 2, poison := true, cause := 9 } else p) } else r) })) s
  if h < 16 then modStack s h (fun x => { x with pool := [], holdBuf := [], engine := [], misses := [] })
  else modDeep s (h - 16) (fun x => { x with pool := [], engine := [] })

/-- The homes that a reset of a domain drains. -/
def drainHomes (d : Nat) : List Nat := if d = 0x7E then List.range 48 else domainHomes d

/-- What is still outstanding at a fenced domain answered (R441). -/
def drain (d : Nat) (s : State) : State := (drainHomes d).foldl (fun s h => drainHome h s) s

/-- FENCE_DRAIN_TIMEOUT (R441): FENCE_DRAIN_MS after the fence. -/
def execFenceDrainTimeout (d : Nat) (s : State) : Host.Outcome State Fault Refusal :=
  onlyIf (isDomain d && (domainAt s d).fenced && ((domainAt s d).seq.all (fun q => decide (q.step ≤ 3)))) s (drain d)

/-- Step 5: reset asserted, the generation advanced, and what the reset loses (R440, R451). -/
def assertReset (d : Nat) (s : State) : State :=
  let s := dirAtReset s
  if d = 0x7F then
    let up := s.us
    modDomain (loseCold (advanceAll s)) 0x7F (fun x => { x with seq := x.seq.map (fun q => { q with startUs := 0, spent := up - q.startUs }) })
  else if d = 0x7E then loseWarm (advanceAll s)
  else
    let s := modDomain s d (fun x => { x with
      gen := (x.gen + 1) % 65536, resets := x.resets.filter (fun t => decide (s.us < t + 3600000000)) ++ [s.us] })
    if d < 0x20 then loseQuad d s
    else if d < 0x30 then loseStack (d - 0x20) s
    else if d < 0x34 then (domainHomes d).foldl (fun s h => loseDeep (h - 16) s) s
    else if d = 0x40 then loseCxl s
    else losePort (d - 0x38) s

/-- A port with a cable begins training: from the training state it kept, or in full when it is degraded or has none (R325,
R448). -/
def trainPort (p : Nat) (s : State) : State :=
  let x := portAt s p
  if !x.cable || portDisabled s p then s
  else modPort s p (fun x => if x.degraded || !x.peerValid then startTraining x
    else { x with st := 1, train := 2, retraining := false, lanes := lanesOf x.good, rxCopies := 0, recsSent := 0 })

/-- Milliseconds that a sequence has taken. -/
def seqMs (s : State) (q : ResetSeq) : Nat := (s.us - q.startUs + q.spent) / 1000
/-- DETAIL of its log record (Table 13.11). -/
def seqDetail (s : State) (q : ResetSeq) : Nat := put q.trigger 7 0 + put (seqMs s q) 39 8

/-! ### Quads that do not return (R452) -/

/-- The persistent retirement of a quad changed (R511, R512). -/
def setRetired (q : Nat) (v : Bool) (s : State) : State :=
  let c := (newestSettings s.boot).getD s.boot.settings
  let r := c.retired - (if c.retired.testBit q then 2 ^ q else 0) + putB v q
  writeSettings { c with retired := r } (modBoot s (fun b => { b with settings := { b.settings with retired := r } }))

/-- A quad retired: it stays fenced and its tillers leave every grant. -/
def retireQuad (q : Nat) (sq : ResetSeq) (s : State) : State :=
  let ts := quadTillers q
  let s := modDomain s q (fun x => { x with retired := true, fenced := true, flagged := false, seq := none, logged := false })
  let s := setEv .mon Reg.MON_RCV_EVENT Bit.MON_RCV_EVENT_QUAD_RETIRED s
  let s := logRec { source := 0xB, cause := 2, severity := 3, domain := q, stook := sq.stook, detail := seqDetail s sq } s
  let s := (liveChans s).foldl (fun s c =>
    if !(chanAt s c).grant.any ts.contains then s
    else
      let s := modChan s c (fun k => { k with grant := k.grant.filter (fun t => !ts.contains t) })
      logRec { source := 8, cause := 4, severity := 2, domain := q, channel := handleOf s c }
        (setEv (.chn c) Reg.CHN_RCV_EVENT Bit.CHN_RCV_EVENT_GRANT_LOST s)) s
  setRetired q true s

/-! ### The end of a sequence -/

/-- The homes of a domain serve again. -/
def serveHomes (d : Nat) (s : State) : State :=
  (if d < 0x7E then domainHomes d else List.range 48).foldl (fun s h =>
    if h < 16 then modStack s h (fun x => { x with st := if x.thermal then 1 else 0 })
    else modDeep s (h - 16) (fun x => { x with st := if x.thermal then 1 else 0 })) s

/-- The channels that a reset aborted recover: a step that is being finished goes on from its progress records after a reset of
its stacks, and every ABORTED group starts its rejoin (R298, R460). -/
def recoverChans (d : Nat) (s : State) : State :=
  (liveChans s).foldl (fun s c =>
    let k := chanAt s c
    if !(if d = 0x7E then k.rcv.cause != 0xFF else k.rcv.cause == d) then s
    else
      let s := if k.rcv.st = 3 ∧ (d = 0x7E ∨ (0x20 ≤ d ∧ d < 0x30)) then rollForward c (attemptOf k) s else s
      ((s.links.groups.filter (fun p => p.2.live && p.2.ch == c && p.2.aborted)).map (·.1)).foldl (fun s g => startRejoin g s) s) s

/-- The record of a rail or clock that led to a cold reset (R472, R477, R484). -/
def railRecord (s : State) : State :=
  match s.power.railRec with
  | none => s
  | some d =>
    modPower (logRec { source := 0xA, cause := 1, severity := 5, domain := 0x7F, detail := d }
      (setEv .pwr Reg.PWR_EVENT Bit.PWR_EVENT_RAIL_RESET s)) (fun p => { p with railRec := none })

/-- READY (R500): every domain serves, and the commit of a staged image begins (R508). -/
def deviceReady (s : State) : State :=
  let s := modRcv s (fun r => { r with domains := r.domains.map (fun p =>
    (p.1, { p.2 with seq := none, flagged := false, logged := false, fenced := p.2.retired })) })
  let s := modBoot (modRcv s (fun r => { r with beatUs := s.us })) (fun b => { b with stage := 3 })
  if s.boot.fromStaging ∧ s.boot.stagingSt = 3 then writeDir (modBoot s (fun b => { b with commitDue := true, activeSt := 2 })) else s

/-- Step 9: the domain is unfenced; the reset is counted and recorded, and recovery follows. -/
def endSequence (d : Nat) (q : ResetSeq) (s : State) : State :=
  let s := modDomain s d (fun x => { x with seq := none, fenced := false, flagged := false, logged := false })
  let s := serveHomes d s
  let s := if 0x7E ≤ d then deviceReady s else s
  if d = 0x7F then
    startSave (railRecord (logRec { source := 0xB, cause := 4, severity := 5, domain := d, stook := q.stook, detail := seqDetail s q }
      (modRcv s (fun r => { r with lastCold := true }))))
  else
    let s := if d = 0x7E then modRcv s (fun r => { r with lastCold := false }) else s
    let s := cntInc .mon (resetCounter d) (setEv .mon Reg.MON_RCV_EVENT Bit.MON_RCV_EVENT_DOMAIN_RESET s)
    startSave (recoverChans d (logRec { source := 0xB, cause := 1, severity := 3, domain := d, stook := q.stook, detail := seqDetail s q } s))

/-- The end of step 7 of a quad: it is retired, or goes on, or a request has brought it back (R452). -/
def quadTested (d : Nat) (q : ResetSeq) (pass : Bool) (s : State) : State :=
  let x := domainAt s d
  let next (s : State) : State := modDomain s d (fun x => { x with seq := some { q with step := 9 } })
  if !pass then retireQuad d q s
  else if x.retired then next (setRetired d false (modDomain s d (fun x => { x with retired := false, resets := [] })))
  else if rdField s .mon Reg.MON_RCV_CTRL 51 48 ≤ x.resets.length then retireQuad d q s
  else next s

/-- The end of a step. -/
def stepEnd (d : Nat) (q : ResetSeq) (pass : Bool) (s : State) : State :=
  let go (s : State) : State := modDomain s d (fun x => { x with seq := x.seq.map (fun r => { r with step := stepAfter d q.step }) })
  match q.step with
  | 2 => go (startSave (capture d q.trigger q.channel s))
  | 3 => go (drain d s)
  | 5 =>
    let s := assertReset d s
    go (if 0x38 ≤ d ∧ d < 0x3E then trainPort (d - 0x38) s else s)
  | 7 =>
    if d < 0x20 then quadTested d q pass s
    else go (if 0x7E ≤ d then (List.range 6).foldl (fun s p => trainPort p s) s else s)
  | 9 => endSequence d q s
  | _ => go s

/-- A sequence may end its step: power is good; the boot chain ends step 6 of a start; a cold reset that is held stays at step 5
(R472, R477, R533); a self-test other than a quad's ends when it passes. -/
def stepMayEnd (s : State) (d : Nat) (q : ResetSeq) (pass : Bool) : Bool :=
  s.phys.pwrGood && !(decide (0x7E ≤ d) && q.step == 6) &&
  !(d == 0x7F && q.step == 5 && (s.power.held.isSome || s.phys.modRstHeld)) && (pass || decide (d < 0x20) || q.step != 7)

/-- RESET_STEP_DONE (R448, R450): a step of a domain's sequence ends; a sequence that a device reset replaces ends here. -/
def execResetStepDone (code : Nat) (pass : Bool) (s : State) : Host.Outcome State Fault Refusal :=
  .next <|
    match (domainAt s code).seq with
    | none => s
    | some q =>
      let isOver := if code = 0x7F then false else if code = 0x7E then (domainAt s 0x7F).seq.isSome else deviceReset s
      if isOver then modDomain s code (fun x => { x with seq := none })
      else if stepMayEnd s code q pass then stepEnd code q pass s
      else s

end Sys2Proof.Machine
end

