-- ==== Sys2Proof/Machine/Rings.lean ====
section
/-! DEFINITION. Mailboxes, doorbells, ring fetch and completion records (R401 to R404, R413 to R420, R424, R425, R455,
R456). -/

namespace Sys2Proof.Machine

open Sys2Proof

/-- The entry that MBX_CMD of a mailbox holds. -/
def mbxEntry (s : State) (m : Nat) : Entry :=
  let w (k : Nat) : Word := rd s (.mbx m) (8 * k)
  { w0 := w 0, user := w 1, a0 := w 2, a1 := w 3, a2 := w 4, a3 := w 5, a4 := w 6, a5 := w 7 }

/-- MBX_GO (R401): the entry is copied and STATE becomes BUSY; a GO while BUSY is discarded and sets OVERRUN. -/
def execMbxGo (m : Nat) (w : Word) (s : State) : Host.Outcome State Fault Refusal :=
  atUnit m 64 <| onlyIf (s.boot.stage == 3) s fun s =>
    if (mbxAt s m).st = 1 then setEv (.mbx m) Reg.MBX_EVENT Bit.MBX_EVENT_OVERRUN s
    else cntInc (.mbx m) Reg.MBX_CNT_CMDS
      (modMbx s m (fun b => { b with run := some (mbxEntry s m, bits w 15 0), st := 1 }))

/-- Result record k of a mailbox has a free slot (R403). -/
def mbxRoom (s : State) (m k : Nat) : Bool :=
  decide ((k + 2 ^ 32 - rdField s (.mbx m) Reg.MBX_RES_HEAD 31 0) % 2 ^ 32 < 64)

/-- MBX_RESULT_RECORD (R403): a finished record goes to its slot; with CHAN_DESTROY's record the index is free again. -/
def execMbxResultRecord (m : Nat) (s : State) : Host.Outcome State Fault Refusal :=
  atUnit m 64 <| .next <|
    match (mbxAt s m).fin.find? (fun p => mbxRoom s m p.1) with
    | none => s
    | some (k, r) =>
      let s := modMbx s m (fun b => { b with fin := b.fin.filter (fun p => p.1 != k), ring := smInsert (k % 64) r b.ring,
                                             resTail := b.resTail + 1 })
      let s := if r.opcode = 0x02 then
          let c := r.handle % 4096
          sweepKeys (resetBlock (setChan s c { gen := (chanAt s c).gen }) (.chn c) 0x1000)
        else s
      mbxIrq m s

/-- DB_CMD_TAIL (R414, R416): TAIL is replaced unless it runs past the ring; a stalled channel reads afresh. -/
def execDbCmdTail (c : Nat) (w : Word) (s : State) : Host.Outcome State Fault Refusal :=
  atUnit c 4096 <| onlyIf ((chanAt s c).live && (chanAt s c).rings.set) s fun s =>
    let g := (chanAt s c).rings
    let d := (bits w 31 0 + 2 ^ 32 - g.cmdHead % 2 ^ 32) % 2 ^ 32
    if 2 ^ g.cmdN < d then
      oweKind c 0 ST_RING_OVERRUN 0 0 0 (setEv (.chn c) Reg.CHN_EVENT Bit.CHN_EVENT_RING_OVERRUN s)
    else modChan s c (fun k => { k with stalled := false, rings := { k.rings with
      cmdTail := g.cmdHead + d,
      stale := if k.stalled then 0 else k.rings.stale, reread := if k.stalled then true else k.rings.reread } })

/-- The list with its first element that satisfies a test removed. -/
def dropFirst {α : Type} (p : α → Bool) : List α → List α
  | [] => []
  | x :: r => if p x then r else x :: dropFirst p r

/-- DB_TOKEN_RELEASE (R420): the oldest unreleased hold on the token is released; with none, TOKEN_UNDERFLOW. -/
def execDbTokenRelease (c : Nat) (w : Word) (s : State) : Host.Outcome State Fault Refusal :=
  atUnit c 4096 <| onlyIf (chanAt s c).live s fun s =>
    let t := bits w 11 0
    if (chanAt s c).rings.holds.any (fun h => h.1 == t) then
      modRings s c (fun g => { g with holds := dropFirst (fun h => h.1 == t) g.holds })
    else setEv (.chn c) Reg.CHN_EVENT Bit.CHN_EVENT_TOKEN_UNDERFLOW s

/-- Room for the next record of a completion ring (R424). -/
def cplRoom (g : Rings) : Bool := decide ((g.cplTail + 2 ^ 32 - g.cplHead) % 2 ^ 32 < 2 ^ g.cplN)

/-- DB_CPL_HEAD (R424): records released. -/
def execDbCplHead (c : Nat) (w : Word) (s : State) : Host.Outcome State Fault Refusal :=
  atUnit c 4096 <| onlyIf (chanAt s c).live s fun s =>
    modRings s c (fun g =>
      let g := { g with cplHead := bits w 31 0 }
      { g with cplFull := g.cplFull && !cplRoom g })

/-- An entry accepted by a channel (R415, R416, R455, R456): it joins the fetched commands with its step, or is voided. -/
def acceptEntry (c : Nat) (e : Entry) (s : State) : State :=
  let k := chanAt s c
  let p := k.rings.cmdHead
  let resume := k.rcv.st == 1 && k.rcv.resumed && decide (k.rcv.resume ≤ p)
  let s := if resume then modChanRcv s c (fun r => { r with st := 0 }) else s
  let voiding := k.rcv.st == 1 && !resume
  let s := modRings s c (fun g => { g with cmdHead := p + 1, stale := 0, reread := false,
                                           cmds := g.cmds ++ [{ pos := p, e := e, step := if voiding then 0 else k.trn.stepFetch }] })
  if voiding then
    ringFinish c p 0 k.rcv.voidStatus { src := .ring c, e := e, ch := c, pos := p } [] s
  else
    modTrn s c (fun t => { t with
      firsts := if t.firsts.any (fun q => q.1 == t.stepFetch) then t.firsts else t.firsts ++ [(t.stepFetch, p)],
      stepFetch := if e.opcode = 0x35 then t.stepFetch + 1 else t.stepFetch })

/-- Entries taken in order up to the first that is not current (R415, R416). -/
def acceptAll (c : Nat) : List Entry → State → State
  | [], s => s
  | e :: r, s =>
    let g := (chanAt s c).rings
    if g.cmdTail ≤ g.cmdHead then s
    else if e.phase = phaseOf g.cmdHead g.cmdN then acceptAll c r (acceptEntry c e s)
    else modRings s c (fun g => { g with reread := true, stale := 0 })

/-- A channel fetches now: it is live, not fenced, stalled or waiting for a re-read, and its ring can be read (R393, R410). -/
def mayFetch (s : State) (c : Nat) : Bool :=
  let k := chanAt s c
  k.live && k.rings.set && !k.fenced && !k.destroying && !k.stalled && rachisServes s &&
  (k.rings.cmdDev || (k.attached && hostOpen s))

/-- The entries at a channel's head in a device ring, or those that the host read returned (at most 8). -/
def ringEntries (s : State) (c : Nat) (es : List Entry) : List Entry :=
  let g := (chanAt s c).rings
  if g.cmdDev then
    (List.range (min 8 (g.cmdTail - g.cmdHead))).map (fun i =>
      entryOf (daRead {} (g.cmdBase + 64 * ((g.cmdHead + i) % 2 ^ g.cmdN)) 64 s).2.1)
  else es.take 8

/-- RING_FETCH (R415): a read of the ring returns; each current entry is accepted in order. -/
def execRingFetch (c : Nat) (es : List Entry) (s : State) : Host.Outcome State Fault Refusal :=
  atUnit c 4096 <| onlyIf (mayFetch s c && !(chanAt s c).rings.reread) s fun s => acceptAll c (ringEntries s c es) s

/-- STALE_REREAD (R416): the entry is read again; after 64 stale reads the channel enters STALLED. -/
def execStaleReread (c : Nat) (e : Entry) (s : State) : Host.Outcome State Fault Refusal :=
  atUnit c 4096 <| onlyIf (mayFetch s c && (chanAt s c).rings.reread) s fun s =>
    let s := cntInc (.chn c) Reg.CHN_CNT_STALE_RETRY s
    let g := (chanAt s c).rings
    match ringEntries s c [e] with
    | [] => s
    | e' :: _ =>
      if e'.phase = phaseOf g.cmdHead g.cmdN then acceptEntry c e' s
      else if g.stale + 1 < 64 then modRings s c (fun g => { g with stale := g.stale + 1 })
      else
        let s := modChan s c (fun k => { k with stalled := true, rings := { k.rings with stale := 64, stallPos := g.cmdHead } })
        let s := cntInc (.chn c) Reg.CHN_CNT_DOORBELL_STALL (setEv (.chn c) Reg.CHN_EVENT Bit.CHN_EVENT_STALL_DOORBELL s)
        owe c { status := ST_STALL_DOORBELL, handle := handleOf s c, ringPos := g.cmdHead % 2 ^ 32 } true none s

/-- What the writing of a record completes: its command, the tokens that it signals, the counter (R419, R424). -/
def recordWritten (c : Nat) (o : CplOwed) (s : State) : State :=
  match o.pos with
  | none => s
  | some p =>
    let sig := match (chanAt s c).rings.cmds.find? (fun y => y.pos == p) with | some y => y.e.signal | none => none
    let s := cntInc (.chn c) Reg.CHN_CNT_CMDS (modRings s c (fun g => { g with
      cmds := g.cmds.filter (fun y => y.pos != p),
      failed := match sig with | some t => if o.r.status = ST_OK then g.failed else g.failed ++ [(t, p)] | none => g.failed }))
    if sig.isSome && o.r.status != ST_OK then failMarks c s else s

/-- The message that a written record causes (R425): its vector, or none; and the count of records since the last one. -/
def recordMsg (g : Rings) (irq : Bool) : Option Nat × Nat :=
  if irq ∨ (g.coalRecords ≠ 0 ∧ g.coalRecords ≤ g.unsignalled + 1) then
    (if g.irqEn then some g.vector else none, 0)
  else (none, g.unsignalled + 1)

/-- CPL_RECORD_WRITE (R394, R424, R425, R427): the oldest record owed goes to the completion ring, or to the detach log
while the channel is detached; without room it waits. -/
def execCplRecordWrite (c : Nat) (s : State) : Host.Outcome State Fault Refusal :=
  atUnit c 4096 <| .next <|
    let k := chanAt s c
    match k.rings.owed with
    | [] => s
    | o :: rest =>
      if !k.live || !k.rings.set then s
      else if !k.attached then
        if k.logged < k.logRecs then
          let s := objStore {} k.detachLog (k.logged * 64) (recBytes o.r true) s
          let s := modChan s c (fun k => { k with logged := k.logged + 1, rings := { k.rings with owed := rest } })
          recordWritten c o s
        else
          setEv .cxp Reg.CXP_EVENT Bit.CXP_EVENT_LOG_FULL (setEv (.chn c) Reg.CHN_EVENT Bit.CHN_EVENT_LOG_FULL
            (modChan s c (fun k => { k with logFull := true })))
      else if !k.rings.cplDev && !hostOpen s then s
      else if cplRoom k.rings then
        let n := k.rings.cplTail
        let slot := n % 2 ^ k.rings.cplN
        let bs := recBytes o.r (phaseOf n k.rings.cplN)
        let m := recordMsg k.rings o.irq
        let s := modRings s c (fun g => { g with owed := rest, cplTail := n + 1, unsignalled := m.2,
                                                 written := smInsert slot (o.r, phaseOf n g.cplN) g.written })
        let s := if k.rings.cplDev then
            let s := daWrite {} (k.rings.cplBase + 64 * slot) bs s
            match m.1 with | some v => sendMsi v s | none => s
          else hostWrite 0 c n (k.rings.cplBase + 64 * slot) bs m.1 s
        recordWritten c o s
      else if k.rings.cplFull then s
      else
        let s := setEv (.chn c) Reg.CHN_EVENT Bit.CHN_EVENT_CPL_FULL (modRings s c (fun g => { g with cplFull := true }))
        if k.rings.irqEn then sendMsi k.rings.vector s else s

/-- MSIX_COALESCE_TIMER (R425): COAL_US after the first unsignalled record the channel sends its vector. -/
def execMsixCoalesceTimer (c : Nat) (s : State) : Host.Outcome State Fault Refusal :=
  atUnit c 4096 <| onlyIf ((chanAt s c).live && (chanAt s c).rings.coalUs != 0 && (chanAt s c).rings.unsignalled != 0) s fun s =>
    let g := (chanAt s c).rings
    let s := modRings s c (fun g => { g with unsignalled := 0 })
    if g.irqEn then sendMsi g.vector s else s

/-- CHN_RCV_RESUME (R456): the voiding ends at the entry named, at once when it has been passed. -/
def execChnRcvResume (c : Nat) (w : Word) (s : State) : Host.Outcome State Fault Refusal :=
  atUnit c 4096 <| onlyIf ((chanAt s c).live && (chanAt s c).rcv.st == 1) s fun s =>
    let h := (chanAt s c).rings.cmdHead
    let d := (bits w 31 0 + 2 ^ 32 - h % 2 ^ 32) % 2 ^ 32
    if d = 0 ∨ 2 ^ 31 ≤ d then modChanRcv s c (fun r => { r with st := 0, resumed := true, resume := h })
    else modChanRcv s c (fun r => { r with resumed := true, resume := h + d })

end Sys2Proof.Machine
end

