-- ==== Sys2Proof/Machine/Supply.lean ====
section
/-! DEFINITION. The module's input, rails and pins (R525, R528 to R534). -/

namespace Sys2Proof.Machine

open Sys2Proof

/-- PWR_EN as the module takes it: the pin is high, the input is above 36 V, and neither under- nor over-voltage stands (R529,
R532). -/
def powerEnabled (p : Physical) : Bool := p.pwrEn && p.aon && !p.undervolt && !p.overvolt

/-- PWR_GOOD (R531). -/
def setGood (s : State) : State := modPhys s (fun p => { p with pwrGood := powerEnabled p && p.railsOut.isEmpty })

/-- The flash operations that a loss of power leaves: records of the error log go to the flash once it runs again; a stook that was
being saved leaves no stook in its slot (R466, R497, R534). -/
def cutFlash (b : Boot) : Boot :=
  let b := dropProgram b
  let saving := b.ops.any (fun o => o.kind == 3) && b.ops.all (fun o => decide (3 ≤ o.prio))
  { b with ops := b.ops.filter (fun o => o.kind == 2), stookFlash := if saving then none else b.stookFlash }

/-- The counts as the directory holds them (R496): pages and starts counted since its last write are lost. -/
def countsFromDir (s : State) : State :=
  let d := dirInUse s.boot
  wr (wr s .boot Reg.BOOT_CNT_STARTS (word d.starts)) .boot Reg.BOOT_CNT_FLASH_PAGES (word d.pages)

/-- The working rails go down: every domain is lost as at a cold reset, and the next power-up is a cold start (R534). -/
def powerDown (s : State) : State :=
  let s := countsFromDir (loseCold (advanceAll (modBoot s cutFlash)))
  modPhys (modDomain (modPower s (fun p => { p with held := none })) 0x7F (fun x => { x with seq := some { step := 5, trigger := 0xB4 } }))
    (fun p => { p with railsOut := [] })

/-- The working rails ramp: the cold start stands at the boot chain (R500, R532). -/
def powerUp (s : State) : State := modDomain s 0x7F (fun x => { x with seq := some { step := 6, trigger := 0xB4 } })

/-- A change of the pins or of the input, and what it does to the working rails. -/
def supply (f : Physical → Physical) (s : State) : State :=
  let was := powerEnabled s.phys
  let s := modPhys s f
  let now := powerEnabled s.phys
  setGood (if was && !now then powerDown s else if !was && now then powerUp s else s)

/-- PWR_EN_RISE (R528, R532): ADDR is sampled; a rise before the standby rails stand is held until they do. -/
def execPwrEnRise (addr : Nat) (s : State) : Host.Outcome State Fault Refusal :=
  onlyIf (!s.phys.pwrEn) s (supply (fun p => { p with pwrEn := true, smbAddr := addr % 8 }))

/-- PWR_EN_FALL (R534). -/
def execPwrEnFall (s : State) : Host.Outcome State Fault Refusal :=
  onlyIf s.phys.pwrEn s (supply (fun p => { p with pwrEn := false }))

/-- INPUT_UNDERVOLT (R529): below 44 V for 1 ms. -/
def execInputUndervolt (s : State) : Host.Outcome State Fault Refusal :=
  onlyIf s.phys.aon s (supply (fun p => { p with undervolt := true }))

/-- UNDERVOLT_END (R529). -/
def execUndervoltEnd (s : State) : Host.Outcome State Fault Refusal :=
  onlyIf (s.phys.aon && s.phys.undervolt) s (supply (fun p => { p with undervolt := false }))

/-- INPUT_OVERVOLT (R529): above 63 V every rail is held off. -/
def execInputOvervolt (s : State) : Host.Outcome State Fault Refusal :=
  onlyIf s.phys.aon s (supply (fun p => { p with overvolt := true }))

/-- INPUT_RESTORED (R529): below 60 V again. -/
def execInputRestored (s : State) : Host.Outcome State Fault Refusal :=
  onlyIf s.phys.overvolt s (supply (fun p => { p with overvolt := false }))

/-- AON_LOSS (R447, R466, R529): below 36 V the retention SRAM loses its contents; the log goes on from the flash. -/
def execAonLoss (s : State) : Host.Outcome State Fault Refusal :=
  onlyIf s.phys.aon s fun s =>
    let s := supply (fun p => { p with aon := false, undervolt := false, overvolt := false }) s
    let l := s.boot.logFlash
    modBoot (modRcv s (fun r => { r with log := l, logTail := l.foldl (fun a p => max a (p.1 + 1)) 0, stooks := [] }))
      (fun b => { b with ops := [] })

/-- INPUT_APPLIED (R529, R532): the standby rails come into regulation; a PWR_EN that is high takes effect. -/
def execInputApplied (s : State) : Host.Outcome State Fault Refusal :=
  onlyIf (!s.phys.aon) s (supply (fun p => { p with aon := true }))

/-- RAIL_OUT_OF_BAND (R531): a rail of Table 16.5, rail 0 by its regulator output, leaves or re-enters its band. -/
def execRailOutOfBand (rail : Nat) (out : Bool) (s : State) : Host.Outcome State Fault Refusal :=
  atUnit rail 13 <| .next <|
    setGood (modPhys s (fun p => { p with railsOut := p.railsOut.filter (· != rail) ++ (if out then [rail] else []) }))

/-- MOD_RST_PULSE (R533): a low level of 1 µs or more and less than 5 s ends, and a warm device reset starts. -/
def execModRstPulse (us : Nat) (s : State) : Host.Outcome State Fault Refusal :=
  onlyIf (powerEnabled s.phys && decide (1 ≤ us) && decide (us < 5000000)) s (requestReset 0x7E)

/-- MOD_RST_LONG (R533): the low level reaches 5 s and a cold reset starts, or it ends and the cold reset may complete. -/
def execModRstLong (released : Bool) (s : State) : Host.Outcome State Fault Refusal :=
  onlyIf (powerEnabled s.phys) s fun s =>
    if released then modPhys s (fun p => { p with modRstHeld := false })
    else coldReset 0xB1 (modPhys s (fun p => { p with modRstHeld := true }))

/-- PERST_DEASSERT (R525, R532): the port's domain is released and its link may train. -/
def execPerstDeassert (s : State) : Host.Outcome State Fault Refusal :=
  onlyIf s.cxl.perst s fun s => modCxl s (fun x => { x with perst := false })

end Sys2Proof.Machine
end

