-- ==== Sys2Proof/Machine/Vector.lean ====
section
/-! DEFINITION. Vector instructions: their issue into the vector queue and their beats (R103 to R127). -/

namespace Sys2Proof.Machine

open Sys2Proof

/-- A NaN as the vector engine writes it (R120). -/
def canon (x : F32) : F32 := if f32IsNan x then 0x7FC00000 else x

/-- VCMP's condition on two elements: a NaN makes every condition false but NE (Table 4.4). -/
def vcmpHolds (cond : Nat) (a b : F32) : Bool :=
  let x := ofF32 a
  let y := ofF32 b
  match cond with
  | 0 => x.eqv y
  | 1 => !x.eqv y
  | 2 => x.lt y
  | 3 => x.lt y || x.eqv y
  | 4 => y.lt x
  | _ => y.lt x || x.eqv y

/-- The exact value of a function of Table 4.8. -/
def funcValue (op : Nat) (v : Fv) : Fv :=
  match op with
  | 0x10 => v.exp2 | 0x11 => v.exp | 0x12 => v.log2 | 0x13 => v.rcp | 0x14 => v.rsqrt | 0x15 => v.sqrt
  | 0x16 => v.tanh | 0x17 => v.sigm | _ => v.erf

/-- An element of an elementwise result in FP32 (Tables 4.4 and 4.8). -/
def elementOf (w : Word) (a b c : F32) : F32 :=
  canon <| match vOp w with
  | 1 => fAdd a b
  | 2 => fSub a b
  | 3 => fMul a b
  | 4 => fFma a b c
  | 5 => fMax a b
  | 6 => fMin a b
  | 7 => fAbs a
  | 8 => fNeg a
  | 9 => if vcmpHolds (vC w) a b then 0x3F800000 else 0
  | 10 => if (ofF32 a).isZero then c else b
  | 11 => a
  | op => toF32 (funcValue op (ofF32 a))

/-- The same with PK = 1: rounded to BF16, VFMA once (R119). -/
def resultOf (w : Word) (a b c : F32) : F32 :=
  if vPk w then
    if vOp w = 4 then f32OfBf16 (narrowNear .bf16 (((ofF32 a).mul (ofF32 b)).add (ofF32 c))).bits
    else f32OfBf16 (bf16Of (elementOf w a b c))
  else elementOf w a b c

/-! ### Issue -/

/-- Scalar registers that a vector word reads at issue (R115): scalar operands, address registers, the tile key, and the old
value of a reduction with ACC. -/
def vectorRegs (w : Word) : List Nat :=
  let one (c : Nat) : List Nat := if isScalar c then [c - 32] else if isTs c then [c] else []
  one (vA w) ++ one (vB w) ++ (if vOp w = 9 then [] else one (vC w)) ++ one (vDst w)

/-- The destination format is not FP32 (R159). -/
def narrowing (w : Word) : Bool := vOp w == 11 && (if isTs (vDst w) then vFmt w != 1 else vPk w)

/-- A vector instruction at issue (R97, R112, R115, R122, R128). -/
def vectorIssue (op t : Nat) (w : Word) (s : State) : Host.Outcome State Fault Refusal :=
  atUnit t 128 <| onlyIf (canIssue s t w && vOp w == op) s fun s =>
    let u := tillerAt s t
    let x := curCtx u
    let g := curCfg u
    if (vectorRegs w).any (fun r => (pendingRegs u).contains r) then waitAt t 11 s
    else match vectorFault u w with
    | some c => faultAt t c ST_STAGE_FAULT s
    | none =>
      if u.cur = 0 && !u.admitted then waitAt t 1 s
      else if 8 ≤ u.vq.length then waitAt t 2 s
      else if readsFtq w && (u.ftq.getD u.ftqHead {}).st != 2 then waitAt t 6 s
      else if (vWrites x.sregs w).any (fun r => meets r (arrReads u)) then waitAt t 11 s
      else
        let e : VqEntry := {
          w := w, ctx := u.cur, pc := x.pc, sregs := x.sregs, ftqOff := ftqOffNext u, rid := u.nextRid,
          lanes := if isReduction op then List.replicate 128 none else [],
          sampled := narrowing w && sampledAt (stepNum s g.chan g.step) x.vcpys g.step }
        let s := modTiller s t (fun u => { u with vq := u.vq ++ [e] })
        issued t (modCtx t (fun x => { x with
          sregs := incSregs w x.sregs, vcpys := if narrowing w then x.vcpys + 1 else x.vcpys }) s)

/-! ### Beats -/

/-- What writing a run of results gives: the state, the results as they read back, the saturated count, the check's pairs. -/
structure Written where
  s : State
  back : List F32 := []
  sat : Nat := 0
  pairs : List (F32 × F32 × Bool × Bool) := []

/-- Results written from element j to the destination of a queued instruction (R116, R117). Every element of an MX block whose byte is
0xFF reads back as NaN and counts as a NaN result (log entry 118). -/
def writeResults (t : Nat) (e : VqEntry) (g : Cfg) (j : Nat) (xs : List F32) (s : State) : Written :=
  let w := e.w
  let c := vDst w
  if isV c then
    let s := vRegWrite t (vPk w) c j (xs.map (fun x => if vPk w then bf16Of x else x.toNat)) s
    { s := s, back := xs, pairs := if e.sampled then xs.map (fun x => checkPair .bf16 false 127 x ⟨bf16Of x, false⟩) else [] }
  else if isTs c then
    match formatOf (vFmt w) with
    | none => { s := s }
    | some f =>
      let seed := (chanAt s g.chan).trn.seed
      let key := sregOf e.sregs (vC w - 32)
      let draw : Option (Nat → Nat) :=
        if vDraws g.stage w then some (fun i => srDraw seed (word g.step) (word g.stage.tensorId) key (word i) 0) else none
      let a := tsAddr e.sregs c
      if f.isMx then
        let sc := tsAddr e.sregs (vB w)
        let bl := (chunksOf 32 (xs.length / 32 + 1) xs).zipIdx.map (fun p => (narrowBlock f draw (j + 32 * p.2) p.1, p.1))
        let s := tsWrite t (a + j * f.bits / 8) (packElems f.bits (bl.flatMap (fun b => b.1.2.map (·.bits)))) s
        let s := tsWrite t (sc + j / 32) (bl.map (fun b => BitVec.ofNat 8 b.1.1)) s
        { s := s, back := bl.flatMap (fun b => b.1.2.map (fun r => widen f r.bits b.1.1)),
          sat := (bl.map (fun b => (b.1.2.filter (·.sat)).length)).sum,
          pairs := if e.sampled then bl.flatMap (fun b =>
            (b.1.2.zip b.2).map (fun p => checkPair f draw.isSome b.1.1 p.2 p.1)) else [] }
      else
        let rs := narrowPlain f draw j xs
        { s := tsWrite t (a + j * f.bits / 8) (packElems f.bits (rs.map (·.bits))) s,
          back := rs.map (fun r => widen f r.bits 127), sat := (rs.filter (·.sat)).length,
          pairs := if e.sampled then (rs.zip xs).map (fun p => checkPair f draw.isSome 127 p.2 p.1) else [] }
  else
    { s := modTiller s t (fun u =>
        let put (x : Ctx) : Ctx := { x with sregs := setSregs x.sregs (c - 32) (scalarOf (vPk w) (xs.headD 0)) }
        if e.ctx = 0 then { u with ctxA := put u.ctxA } else { u with ctxD := put u.ctxD }) }

/-- The result of a reduction with its old value (R124). -/
def withAcc (w : Word) (old x : F32) : F32 :=
  if !vSub w 0 then x
  else if vOp w = 0x20 ∨ vOp w = 0x21 then fAdd old x
  else if vOp w = 0x23 then fMin old x
  else fMax old x

/-- V4–V7 left unspecified (R99). -/
def forgetV (t : Nat) (s : State) : State :=
  let n := s.freeCtr
  modTiller { s with freeCtr := n + 1 } t (fun u => { u with vregs := smClearRun u.vregs 65536 65536, vFree := some n })

/-- The first queued instruction has issued its last beat: it leaves the queue. -/
def leaveQueue (t : Nat) (e : VqEntry) (g : Cfg) (s : State) : State :=
  let s := modTiller s t (fun u => { u with
    vq := u.vq.drop 1, ftqOff := if readsFtq e.w then u.ftqOff + vCount e.w else u.ftqOff })
  let s := if e.sampled then winnow t g e.pairs s else s
  if e.thenFree then forgetV t s else s

/-- A beat of the first queued instruction (R106, R107, R110). -/
def beat (t : Nat) (e : VqEntry) (s : State) : State :=
  let w := e.w
  let op := vOp w
  let n := vCount w
  let L := if vPk w && !isReduction op then 256 else 128
  let j := e.beat * L
  let m := min L (n - j)
  let g := if e.ctx = 0 then (tillerAt s t).act else (tillerAt s t).dfr
  let s := cntInc (.tlr t) Reg.TLR_CNT_VEC_BEATS s
  let a := operand t e (vA w) false false j m s
  let last := decide (n ≤ j + m)
  let again (e' : VqEntry) (s : State) : State :=
    if last then leaveQueue t e' g s
    else modTiller s t (fun u => { u with vq := { e' with beat := e.beat + 1 } :: u.vq.drop 1 })
  if isReduction op then
    let lanes := lanesAdd op e.lanes a.1
    let s := if last then
        let old := scalarElem false (sregOf e.sregs (vDst w - 32))
        (writeResults t { e with w := setBits w 52 52 0 } g 0 [canon (withAcc w old (lanesTree op lanes))] a.2).s
      else a.2
    again { e with lanes := lanes } s
  else if isRowReduction op then
    let xs := (chunksOf 64 (m / 64 + 1) a.1).map (fun r =>
      let x := canon (rowReduce op r)
      if vPk w then f32OfBf16 (bf16Of x) else x)
    let r := writeResults t e g (j / 64) xs a.2
    again e (satFlags g r.sat (vectorFlags t g r.back r.s))
  else
    let b := if usesB w && op != 11 then operand t e (vB w) (vSub w 0) (vSub w 1) j m a.2 else ([], a.2)
    let c := if usesC w then operand t e (vC w) (vSub w 2) (vSub w 3) j m b.2 else ([], b.2)
    let xs := a.1.zipIdx.map (fun p => resultOf w p.1 (b.1.getD p.2 0) (c.1.getD p.2 0))
    let s := domainFlag t op a.1 c.2
    let r := writeResults t e g j xs s
    again { e with pairs := e.pairs ++ r.pairs } (satFlags g r.sat (vectorFlags t g r.back r.s))

/-- VECTOR_BEAT (R110). -/
def execVectorBeat (t : Nat) (s : State) : Host.Outcome State Fault Refusal :=
  atUnit t 128 <| .next <|
    match (tillerAt s t).vq with
    | [] => s
    | e :: _ => if quadFenced s t then s else beat t e s

/-! ### The instructions of Table 4.4 -/

/-- VADD (Table 4.4): A + B. -/
def execVadd (t : Nat) (w : Word) (s : State) : Host.Outcome State Fault Refusal := vectorIssue 0x01 t w s

/-- VSUB (Table 4.4): A − B. -/
def execVsub (t : Nat) (w : Word) (s : State) : Host.Outcome State Fault Refusal := vectorIssue 0x02 t w s

/-- VMUL (Table 4.4): A × B. -/
def execVmul (t : Nat) (w : Word) (s : State) : Host.Outcome State Fault Refusal := vectorIssue 0x03 t w s

/-- VFMA (Table 4.4): A × B + C, rounded once. -/
def execVfma (t : Nat) (w : Word) (s : State) : Host.Outcome State Fault Refusal := vectorIssue 0x04 t w s

/-- VMAX (Table 4.4): the larger of A and B. -/
def execVmax (t : Nat) (w : Word) (s : State) : Host.Outcome State Fault Refusal := vectorIssue 0x05 t w s

/-- VMIN (Table 4.4): the smaller of A and B. -/
def execVmin (t : Nat) (w : Word) (s : State) : Host.Outcome State Fault Refusal := vectorIssue 0x06 t w s

/-- VABS (Table 4.4): |A|. -/
def execVabs (t : Nat) (w : Word) (s : State) : Host.Outcome State Fault Refusal := vectorIssue 0x07 t w s

/-- VNEG (Table 4.4): −A. -/
def execVneg (t : Nat) (w : Word) (s : State) : Host.Outcome State Fault Refusal := vectorIssue 0x08 t w s

/-- VCMP (Table 4.4): +1.0 where A cond B, else +0.0. -/
def execVcmp (t : Nat) (w : Word) (s : State) : Host.Outcome State Fault Refusal := vectorIssue 0x09 t w s

/-- VSEL (Table 4.4): B where A is not a zero, else C. -/
def execVsel (t : Nat) (w : Word) (s : State) : Host.Outcome State Fault Refusal := vectorIssue 0x0A t w s

/-- VCPY (Table 4.4): A converted to the destination's format (R116, R117). -/
def execVcpy (t : Nat) (w : Word) (s : State) : Host.Outcome State Fault Refusal := vectorIssue 0x0B t w s

/-- VEXP2 (Table 4.4, Table 4.8): 2^A. -/
def execVexp2 (t : Nat) (w : Word) (s : State) : Host.Outcome State Fault Refusal := vectorIssue 0x10 t w s

/-- VEXP (Table 4.4, Table 4.8): e^A. -/
def execVexp (t : Nat) (w : Word) (s : State) : Host.Outcome State Fault Refusal := vectorIssue 0x11 t w s

/-- VLOG2 (Table 4.4, Table 4.8): log2 A. -/
def execVlog2 (t : Nat) (w : Word) (s : State) : Host.Outcome State Fault Refusal := vectorIssue 0x12 t w s

/-- VRCP (Table 4.4, Table 4.8): 1 ÷ A. -/
def execVrcp (t : Nat) (w : Word) (s : State) : Host.Outcome State Fault Refusal := vectorIssue 0x13 t w s

/-- VRSQRT (Table 4.4, Table 4.8): 1 ÷ √A. -/
def execVrsqrt (t : Nat) (w : Word) (s : State) : Host.Outcome State Fault Refusal := vectorIssue 0x14 t w s

/-- VSQRT (Table 4.4, Table 4.8): √A. -/
def execVsqrt (t : Nat) (w : Word) (s : State) : Host.Outcome State Fault Refusal := vectorIssue 0x15 t w s

/-- VTANH (Table 4.4, Table 4.8): tanh A. -/
def execVtanh (t : Nat) (w : Word) (s : State) : Host.Outcome State Fault Refusal := vectorIssue 0x16 t w s

/-- VSIGM (Table 4.4, Table 4.8): 1 ÷ (1 + e^−A). -/
def execVsigm (t : Nat) (w : Word) (s : State) : Host.Outcome State Fault Refusal := vectorIssue 0x17 t w s

/-- VERF (Table 4.4, Table 4.8): erf A. -/
def execVerf (t : Nat) (w : Word) (s : State) : Host.Outcome State Fault Refusal := vectorIssue 0x18 t w s

/-- RSUM (Table 4.4, R124): the sum of A. -/
def execRsum (t : Nat) (w : Word) (s : State) : Host.Outcome State Fault Refusal := vectorIssue 0x20 t w s

/-- RSSQ (Table 4.4, R124): the sum of A². -/
def execRssq (t : Nat) (w : Word) (s : State) : Host.Outcome State Fault Refusal := vectorIssue 0x21 t w s

/-- RMAX (Table 4.4, R124): the largest A. -/
def execRmax (t : Nat) (w : Word) (s : State) : Host.Outcome State Fault Refusal := vectorIssue 0x22 t w s

/-- RMIN (Table 4.4, R124): the smallest A. -/
def execRmin (t : Nat) (w : Word) (s : State) : Host.Outcome State Fault Refusal := vectorIssue 0x23 t w s

/-- RAMAX (Table 4.4, R124): the largest |A|. -/
def execRamax (t : Nat) (w : Word) (s : State) : Host.Outcome State Fault Refusal := vectorIssue 0x24 t w s

/-- RROWSUM (Table 4.4, R125): the sum of each row. -/
def execRrowsum (t : Nat) (w : Word) (s : State) : Host.Outcome State Fault Refusal := vectorIssue 0x28 t w s

/-- RROWSSQ (Table 4.4, R125): the sum of squares of each row. -/
def execRrowssq (t : Nat) (w : Word) (s : State) : Host.Outcome State Fault Refusal := vectorIssue 0x29 t w s

/-- RROWMAX (Table 4.4, R125): the largest element of each row. -/
def execRrowmax (t : Nat) (w : Word) (s : State) : Host.Outcome State Fault Refusal := vectorIssue 0x2A t w s

end Sys2Proof.Machine
end

