-- ==== Sys2Proof/Machine/Dispatch.lean ====
section
/-! DEFINITION. The meaning of each command: one direct call per constructor. -/

namespace Sys2Proof.Machine

open Sys2Proof

/-- The effect of a command on everything but the queue. -/
def exec (i : Instr) (s : State) : Host.Outcome State Fault Refusal :=
  match i with
  | .chanCreate src e => Sys2Proof.Machine.execChanCreate src e s
  | .chanDestroy src e => Sys2Proof.Machine.execChanDestroy src e s
  | .chanGrant src e => Sys2Proof.Machine.execChanGrant src e s
  | .chanFence src e => Sys2Proof.Machine.execChanFence src e s
  | .chanUnfence src e => Sys2Proof.Machine.execChanUnfence src e s
  | .chanReattach src e => Sys2Proof.Machine.execChanReattach src e s
  | .ringSet src e => Sys2Proof.Machine.execRingSet src e s
  | .hostWindowSet src e => Sys2Proof.Machine.execHostWindowSet src e s
  | .chanQuery src e => Sys2Proof.Machine.execChanQuery src e s
  | .torusSet src e => Sys2Proof.Machine.execTorusSet src e s
  | .routeSet src e => Sys2Proof.Machine.execRouteSet src e s
  | .tokenHold src e => Sys2Proof.Machine.execTokenHold src e s
  | .nop src e => Sys2Proof.Machine.execNop src e s
  | .objCreate src e => Sys2Proof.Machine.execObjCreate src e s
  | .objFree src e => Sys2Proof.Machine.execObjFree src e s
  | .objSetMode src e => Sys2Proof.Machine.execObjSetMode src e s
  | .objShare src e => Sys2Proof.Machine.execObjShare src e s
  | .objUnshare src e => Sys2Proof.Machine.execObjUnshare src e s
  | .objQuery src e => Sys2Proof.Machine.execObjQuery src e s
  | .objReplicate src e => Sys2Proof.Machine.execObjReplicate src e s
  | .objReplicaDrop src e => Sys2Proof.Machine.execObjReplicaDrop src e s
  | .objFlush src e => Sys2Proof.Machine.execObjFlush src e s
  | .objMigrate src e => Sys2Proof.Machine.execObjMigrate src e s
  | .stageLoad src e late => Sys2Proof.Machine.execStageLoad src e late s
  | .copyH2d src e => Sys2Proof.Machine.execCopyH2d src e s
  | .copyD2h src e => Sys2Proof.Machine.execCopyD2h src e s
  | .regionRegister src e => Sys2Proof.Machine.execRegionRegister src e s
  | .regionRelease src e => Sys2Proof.Machine.execRegionRelease src e s
  | .shardCreate src e => Sys2Proof.Machine.execShardCreate src e s
  | .shardFree src e => Sys2Proof.Machine.execShardFree src e s
  | .hyperSet src e => Sys2Proof.Machine.execHyperSet src e s
  | .gather src e => Sys2Proof.Machine.execGather src e s
  | .sheafRegister src e => Sys2Proof.Machine.execSheafRegister src e s
  | .stepClose src e => Sys2Proof.Machine.execStepClose src e s
  | .hostCommit src e => Sys2Proof.Machine.execHostCommit src e s
  | .commitAck src e => Sys2Proof.Machine.execCommitAck src e s
  | .variantSet src e => Sys2Proof.Machine.execVariantSet src e s
  | .deltaSink src e => Sys2Proof.Machine.execDeltaSink src e s
  | .collGroupCreate src e => Sys2Proof.Machine.execCollGroupCreate src e s
  | .collGroupFree src e => Sys2Proof.Machine.execCollGroupFree src e s
  | .collBcast src e => Sys2Proof.Machine.execCollBcast src e s
  | .collSend src e => Sys2Proof.Machine.execCollSend src e s
  | .collRecv src e => Sys2Proof.Machine.execCollRecv src e s
  | .collBarrier src e => Sys2Proof.Machine.execCollBarrier src e s
  | .reshard src e => Sys2Proof.Machine.execReshard src e s
  | .linkFence src e => Sys2Proof.Machine.execLinkFence src e s
  | .fwBegin src e => Sys2Proof.Machine.execFwBegin src e s
  | .fwBlock src e => Sys2Proof.Machine.execFwBlock src e s
  | .fwVerify src e => Sys2Proof.Machine.execFwVerify src e s
  | .fwActivate src e => Sys2Proof.Machine.execFwActivate src e s
  | .fwAbort src e => Sys2Proof.Machine.execFwAbort src e s
  | .fwStatus src e => Sys2Proof.Machine.execFwStatus src e s
  | .settingsGet src e => Sys2Proof.Machine.execSettingsGet src e s
  | .settingsSet src e => Sys2Proof.Machine.execSettingsSet src e s
  | .keyLoad src e => Sys2Proof.Machine.execKeyLoad src e s
  | .keyClear src e => Sys2Proof.Machine.execKeyClear src e s
  | .smbTelemetry sq page => Sys2Proof.Machine.execSmbTelemetry sq page s
  | .smbHeartbeat sq => Sys2Proof.Machine.execSmbHeartbeat sq s
  | .smbRecover sq code => Sys2Proof.Machine.execSmbRecover sq code s
  | .smbDetach sq => Sys2Proof.Machine.execSmbDetach sq s
  | .smbLogRead sq idx => Sys2Proof.Machine.execSmbLogRead sq idx s
  | .mbxGo m w => Sys2Proof.Machine.execMbxGo m w s
  | .mbxResultRecord m => Sys2Proof.Machine.execMbxResultRecord m s
  | .dbCmdTail c w => Sys2Proof.Machine.execDbCmdTail c w s
  | .dbTokenRelease c w => Sys2Proof.Machine.execDbTokenRelease c w s
  | .dbCplHead c w => Sys2Proof.Machine.execDbCplHead c w s
  | .ringFetch c es => Sys2Proof.Machine.execRingFetch c es s
  | .staleReread c e => Sys2Proof.Machine.execStaleReread c e s
  | .cplRecordWrite c => Sys2Proof.Machine.execCplRecordWrite c s
  | .msixCoalesceTimer c => Sys2Proof.Machine.execMsixCoalesceTimer c s
  | .layerBarrierGo c => Sys2Proof.Machine.execLayerBarrierGo c s
  | .lateSwap t => Sys2Proof.Machine.execLateSwap t s
  | .deferredSwapResume c => Sys2Proof.Machine.execDeferredSwapResume c s
  | .admitWaveOpen c => Sys2Proof.Machine.execAdmitWaveOpen c s
  | .streamTileArrive dst src port => Sys2Proof.Machine.execStreamTileArrive dst src port s
  | .streamEndArrive dst src port => Sys2Proof.Machine.execStreamEndArrive dst src port s
  | .streamCreditReturn dst src port => Sys2Proof.Machine.execStreamCreditReturn dst src port s
  | .relayForward t => Sys2Proof.Machine.execRelayForward t s
  | .relayStall t => Sys2Proof.Machine.execRelayStall t s
  | .prefetchIssue t who port mb rb cb off last => Sys2Proof.Machine.execPrefetchIssue t who port mb rb cb off last s
  | .memRequestSend t rid => Sys2Proof.Machine.execMemRequestSend t rid s
  | .staleNotice t rid => Sys2Proof.Machine.execStaleNotice t rid s
  | .tileLand t rid => Sys2Proof.Machine.execTileLand t rid s
  | .writeAck t rid => Sys2Proof.Machine.execWriteAck t rid s
  | .arrayPass t => Sys2Proof.Machine.execArrayPass t s
  | .arraySync t => Sys2Proof.Machine.execArraySync t s
  | .arrayBankFlush t => Sys2Proof.Machine.execArrayBankFlush t s
  | .contextSwitch t => Sys2Proof.Machine.execContextSwitch t s
  | .vectorBeat t => Sys2Proof.Machine.execVectorBeat t s
  | .vadd t w => Sys2Proof.Machine.execVadd t w s
  | .vsub t w => Sys2Proof.Machine.execVsub t w s
  | .vmul t w => Sys2Proof.Machine.execVmul t w s
  | .vfma t w => Sys2Proof.Machine.execVfma t w s
  | .vmax t w => Sys2Proof.Machine.execVmax t w s
  | .vmin t w => Sys2Proof.Machine.execVmin t w s
  | .vabs t w => Sys2Proof.Machine.execVabs t w s
  | .vneg t w => Sys2Proof.Machine.execVneg t w s
  | .vcmp t w => Sys2Proof.Machine.execVcmp t w s
  | .vsel t w => Sys2Proof.Machine.execVsel t w s
  | .vcpy t w => Sys2Proof.Machine.execVcpy t w s
  | .vexp2 t w => Sys2Proof.Machine.execVexp2 t w s
  | .vexp t w => Sys2Proof.Machine.execVexp t w s
  | .vlog2 t w => Sys2Proof.Machine.execVlog2 t w s
  | .vrcp t w => Sys2Proof.Machine.execVrcp t w s
  | .vrsqrt t w => Sys2Proof.Machine.execVrsqrt t w s
  | .vsqrt t w => Sys2Proof.Machine.execVsqrt t w s
  | .vtanh t w => Sys2Proof.Machine.execVtanh t w s
  | .vsigm t w => Sys2Proof.Machine.execVsigm t w s
  | .verf t w => Sys2Proof.Machine.execVerf t w s
  | .rsum t w => Sys2Proof.Machine.execRsum t w s
  | .rssq t w => Sys2Proof.Machine.execRssq t w s
  | .rmax t w => Sys2Proof.Machine.execRmax t w s
  | .rmin t w => Sys2Proof.Machine.execRmin t w s
  | .ramax t w => Sys2Proof.Machine.execRamax t w s
  | .rrowsum t w => Sys2Proof.Machine.execRrowsum t w s
  | .rrowssq t w => Sys2Proof.Machine.execRrowssq t w s
  | .rrowmax t w => Sys2Proof.Machine.execRrowmax t w s
  | .sadd t w => Sys2Proof.Machine.execSadd t w s
  | .ssub t w => Sys2Proof.Machine.execSsub t w s
  | .smul t w => Sys2Proof.Machine.execSmul t w s
  | .sand t w => Sys2Proof.Machine.execSand t w s
  | .sor t w => Sys2Proof.Machine.execSor t w s
  | .sxor t w => Sys2Proof.Machine.execSxor t w s
  | .sshl t w => Sys2Proof.Machine.execSshl t w s
  | .sshr t w => Sys2Proof.Machine.execSshr t w s
  | .slih t w => Sys2Proof.Machine.execSlih t w s
  | .sfadd t w => Sys2Proof.Machine.execSfadd t w s
  | .sfmul t w => Sys2Proof.Machine.execSfmul t w s
  | .sfma t w => Sys2Proof.Machine.execSfma t w s
  | .scvtf t w => Sys2Proof.Machine.execScvtf t w s
  | .scvti t w => Sys2Proof.Machine.execScvti t w s
  | .sld t w => Sys2Proof.Machine.execSld t w s
  | .sst t w => Sys2Proof.Machine.execSst t w s
  | .arr t w => Sys2Proof.Machine.execArr t w s
  | .waita t w => Sys2Proof.Machine.execWaita t w s
  | .mreq t w => Sys2Proof.Machine.execMreq t w s
  | .waitm t w => Sys2Proof.Machine.execWaitm t w s
  | .mwrite t w => Sys2Proof.Machine.execMwrite t w s
  | .send t w => Sys2Proof.Machine.execSend t w s
  | .waitin t w => Sys2Proof.Machine.execWaitin t w s
  | .relin t w => Sys2Proof.Machine.execRelin t w s
  | .waitw t w => Sys2Proof.Machine.execWaitw t w s
  | .relw t w => Sys2Proof.Machine.execRelw t w s
  | .ftqWait t w => Sys2Proof.Machine.execFtqWait t w s
  | .ftqPop t w => Sys2Proof.Machine.execFtqPop t w s
  | .br t w => Sys2Proof.Machine.execBr t w s
  | .tileEnd t w => Sys2Proof.Machine.execTileEnd t w s
  | .stageEnd t w => Sys2Proof.Machine.execStageEnd t w s
  | .waitv t w => Sys2Proof.Machine.execWaitv t w s
  | .seqNop t w => Sys2Proof.Machine.execSeqNop t w s
  | .stackPartServe n t rid sec errs => Sys2Proof.Machine.execStackPartServe n t rid sec errs s
  | .bankSlow n ch bank us => Sys2Proof.Machine.execBankSlow n ch bank us s
  | .bankTimeout n ch bank us => Sys2Proof.Machine.execBankTimeout n ch bank us s
  | .dtBankTimeout d sub rank bank us => Sys2Proof.Machine.execDtBankTimeout d sub rank bank us s
  | .accumArrive n t rid => Sys2Proof.Machine.execAccumArrive n t rid s
  | .accumReoffer n t rid => Sys2Proof.Machine.execAccumReoffer n t rid s
  | .sheafComplete c n => Sys2Proof.Machine.execSheafComplete c n s
  | .updateItemStart n => Sys2Proof.Machine.execUpdateItemStart n s
  | .updatePhaseDone n => Sys2Proof.Machine.execUpdatePhaseDone n s
  | .scaleReport c sset tensor => Sys2Proof.Machine.execScaleReport c sset tensor s
  | .workNarrowStart n => Sys2Proof.Machine.execWorkNarrowStart n s
  | .dieAutoErase n die => Sys2Proof.Machine.execDieAutoErase n die s
  | .scrubRead n sec err => Sys2Proof.Machine.execScrubRead n sec err s
  | .bankRefresh n ch bank => Sys2Proof.Machine.execBankRefresh n ch bank s
  | .refreshForce n ch bank => Sys2Proof.Machine.execRefreshForce n ch bank s
  | .stackTempSample n temps => Sys2Proof.Machine.execStackTempSample n temps s
  | .stackThermExit n => Sys2Proof.Machine.execStackThermExit n s
  | .dtPartServe d t rid errs => Sys2Proof.Machine.execDtPartServe d t rid errs s
  | .dtTempSample d temp => Sys2Proof.Machine.execDtTempSample d temp s
  | .dtThermExit d => Sys2Proof.Machine.execDtThermExit d s
  | .xlatMissFill t obj granule => Sys2Proof.Machine.execXlatMissFill t obj granule s
  | .cxlMemRead h => Sys2Proof.Machine.execCxlMemRead h s
  | .cxlMemWrite h data => Sys2Proof.Machine.execCxlMemWrite h data s
  | .migrateInvalidate obj granule who => Sys2Proof.Machine.execMigrateInvalidate obj granule who s
  | .migrateCopyStart obj granule => Sys2Proof.Machine.execMigrateCopyStart obj granule s
  | .migrateRecordWrite obj granule => Sys2Proof.Machine.execMigrateRecordWrite obj granule s
  | .migrateFreeSource obj granule => Sys2Proof.Machine.execMigrateFreeSource obj granule s
  | .migrateHoldTimeout obj granule => Sys2Proof.Machine.execMigrateHoldTimeout obj granule s
  | .migrateRetry obj granule => Sys2Proof.Machine.execMigrateRetry obj granule s
  | .trainingRecordRx p bs => Sys2Proof.Machine.execTrainingRecordRx p bs s
  | .trainingStepTimeout p => Sys2Proof.Machine.execTrainingStepTimeout p s
  | .trainingRestart p => Sys2Proof.Machine.execTrainingRestart p s
  | .laneFail p lane => Sys2Proof.Machine.execLaneFail p lane s
  | .portRetrainDone p => Sys2Proof.Machine.execPortRetrainDone p s
  | .portRetrainWrite p => Sys2Proof.Machine.execPortRetrainWrite p s
  | .cablePresent p => Sys2Proof.Machine.execCablePresent p s
  | .flitRx p x => Sys2Proof.Machine.execFlitRx p x s
  | .flitTx p => Sys2Proof.Machine.execFlitTx p s
  | .fence m => Sys2Proof.Machine.execFence m s
  | .unfence m => Sys2Proof.Machine.execUnfence m s
  | .stepAbort m => Sys2Proof.Machine.execStepAbort m s
  | .rejoin m => Sys2Proof.Machine.execRejoin m s
  | .rejoinAck m => Sys2Proof.Machine.execRejoinAck m s
  | .huskResend m => Sys2Proof.Machine.execHuskResend m s
  | .plan m => Sys2Proof.Machine.execPlan m s
  | .reshardReady m => Sys2Proof.Machine.execReshardReady m s
  | .rdReq m => Sys2Proof.Machine.execRdReq m s
  | .wrReq m => Sys2Proof.Machine.execWrReq m s
  | .rdResp m => Sys2Proof.Machine.execRdResp m s
  | .wrAck m => Sys2Proof.Machine.execWrAck m s
  | .err m => Sys2Proof.Machine.execErr m s
  | .chunk m => Sys2Proof.Machine.execChunk m s
  | .cts m => Sys2Proof.Machine.execCts m s
  | .barrier m => Sys2Proof.Machine.execBarrier m s
  | .normStart c => Sys2Proof.Machine.execNormStart c s
  | .stepCommit c => Sys2Proof.Machine.execStepCommit c s
  | .deltaExportStart c => Sys2Proof.Machine.execDeltaExportStart c s
  | .deltaSegmentWrite c => Sys2Proof.Machine.execDeltaSegmentWrite c s
  | .deltaWaitTimeout c => Sys2Proof.Machine.execDeltaWaitTimeout c s
  | .deltaHeadWrite c w => Sys2Proof.Machine.execDeltaHeadWrite c w s
  | .collTimeout g n => Sys2Proof.Machine.execCollTimeout g n s
  | .rejoinWaitExpire g => Sys2Proof.Machine.execRejoinWaitExpire g s
  | .rejoinAckTimeout g => Sys2Proof.Machine.execRejoinAckTimeout g s
  | .cxlLinkUp mode width rate ideIo ideCm => Sys2Proof.Machine.execCxlLinkUp mode width rate ideIo ideCm s
  | .cxlLinkDown => Sys2Proof.Machine.execCxlLinkDown s
  | .perstAssert => Sys2Proof.Machine.execPerstAssert s
  | .cxlHotReset => Sys2Proof.Machine.execCxlHotReset s
  | .cxlFlr => Sys2Proof.Machine.execCxlFlr s
  | .ideIntegrityFail => Sys2Proof.Machine.execIdeIntegrityFail s
  | .hostWdExpire => Sys2Proof.Machine.execHostWdExpire s
  | .hostWdWrite w => Sys2Proof.Machine.execHostWdWrite w s
  | .cxpAttach => Sys2Proof.Machine.execCxpAttach s
  | .cxpDetach => Sys2Proof.Machine.execCxpDetach s
  | .hdmCommit base size => Sys2Proof.Machine.execHdmCommit base size s
  | .bar0BadAccess write => Sys2Proof.Machine.execBar0BadAccess write s
  | .bar4Read off len reqId pasid hasPasid => Sys2Proof.Machine.execBar4Read off len reqId pasid hasPasid s
  | .bar4Write off reqId pasid hasPasid data => Sys2Proof.Machine.execBar4Write off reqId pasid hasPasid data s
  | .copyEngineStart n => Sys2Proof.Machine.execCopyEngineStart n s
  | .copyComplete n => Sys2Proof.Machine.execCopyComplete n s
  | .hostReadReturn id data => Sys2Proof.Machine.execHostReadReturn id data s
  | .hostWriteGo id => Sys2Proof.Machine.execHostWriteGo id s
  | .spdmRequest msg => Sys2Proof.Machine.execSpdmRequest msg s
  | .cmdWatchdog c pos => Sys2Proof.Machine.execCmdWatchdog c pos s
  | .watchdogReleaseTimeout c pos => Sys2Proof.Machine.execWatchdogReleaseTimeout c pos s
  | .progressTimeout t ctx => Sys2Proof.Machine.execProgressTimeout t ctx s
  | .tagTimeout who unit rid => Sys2Proof.Machine.execTagTimeout who unit rid s
  | .tagProbeReturn who unit home => Sys2Proof.Machine.execTagProbeReturn who unit home s
  | .tagProbeTimeout who unit home => Sys2Proof.Machine.execTagProbeTimeout who unit home s
  | .heartbeatAdvance => Sys2Proof.Machine.execHeartbeatAdvance s
  | .rachisTakeover => Sys2Proof.Machine.execRachisTakeover s
  | .standbyReloadDone ok => Sys2Proof.Machine.execStandbyReloadDone ok s
  | .monRcvReq w => Sys2Proof.Machine.execMonRcvReq w s
  | .resetStepDone code pass => Sys2Proof.Machine.execResetStepDone code pass s
  | .fenceDrainTimeout code => Sys2Proof.Machine.execFenceDrainTimeout code s
  | .stookSaveDone id => Sys2Proof.Machine.execStookSaveDone id s
  | .chnRcvResume c w => Sys2Proof.Machine.execChnRcvResume c w s
  | .lsLoad c w => Sys2Proof.Machine.execLsLoad c w s
  | .powerAverage mw mv => Sys2Proof.Machine.execPowerAverage mw mv s
  | .dieTempSample temps regs => Sys2Proof.Machine.execDieTempSample temps regs s
  | .thermLevelStep => Sys2Proof.Machine.execThermLevelStep s
  | .thermalShutdown sensor => Sys2Proof.Machine.execThermalShutdown sensor s
  | .throttleApply => Sys2Proof.Machine.execThrottleApply s
  | .vcoreDip site mv => Sys2Proof.Machine.execVcoreDip site mv s
  | .stretchEnd => Sys2Proof.Machine.execStretchEnd s
  | .dipHoldEnd => Sys2Proof.Machine.execDipHoldEnd s
  | .vcoreResetLevel site mv => Sys2Proof.Machine.execVcoreResetLevel site mv s
  | .railResetOther rail mv => Sys2Proof.Machine.execRailResetOther rail mv s
  | .clockLoss => Sys2Proof.Machine.execClockLoss s
  | .clockRestored => Sys2Proof.Machine.execClockRestored s
  | .vcoreMinReset w => Sys2Proof.Machine.execVcoreMinReset w s
  | .counterClear addr size w inc => Sys2Proof.Machine.execCounterClear addr size w inc s
  | .registerWrite addr size x => Sys2Proof.Machine.execRegisterWrite addr size x s
  | .bootChain strap activeBad stagingBad identityBad => Sys2Proof.Machine.execBootChain strap activeBad stagingBad identityBad s
  | .flashOpDone => Sys2Proof.Machine.execFlashOpDone s
  | .fwCommitCopy => Sys2Proof.Machine.execFwCommitCopy s
  | .handoverStandbyReady => Sys2Proof.Machine.execHandoverStandbyReady s
  | .handoverTimeout => Sys2Proof.Machine.execHandoverTimeout s
  | .rcvBegin w => Sys2Proof.Machine.execRcvBegin w s
  | .rcvBlock w => Sys2Proof.Machine.execRcvBlock w s
  | .rcvVerify w => Sys2Proof.Machine.execRcvVerify w s
  | .rcvStart w => Sys2Proof.Machine.execRcvStart w s
  | .modRstPulse us => Sys2Proof.Machine.execModRstPulse us s
  | .modRstLong released => Sys2Proof.Machine.execModRstLong released s
  | .pwrEnRise addr => Sys2Proof.Machine.execPwrEnRise addr s
  | .pwrEnFall => Sys2Proof.Machine.execPwrEnFall s
  | .inputUndervolt => Sys2Proof.Machine.execInputUndervolt s
  | .inputOvervolt => Sys2Proof.Machine.execInputOvervolt s
  | .inputRestored => Sys2Proof.Machine.execInputRestored s
  | .aonLoss => Sys2Proof.Machine.execAonLoss s
  | .illegalOp t w => Sys2Proof.Machine.execIllegalOp t w s
  | .unknownOpcode src e => Sys2Proof.Machine.execUnknownOpcode src e s
  | .laneLock p => Sys2Proof.Machine.execLaneLock p s
  | .trainingRecordSend p => Sys2Proof.Machine.execTrainingRecordSend p s
  | .railOutOfBand rail out => Sys2Proof.Machine.execRailOutOfBand rail out s
  | .inputApplied => Sys2Proof.Machine.execInputApplied s
  | .undervoltEnd => Sys2Proof.Machine.execUndervoltEnd s
  | .perstDeassert => Sys2Proof.Machine.execPerstDeassert s

end Sys2Proof.Machine
end

