-- ==== Sys2Proof/Safety.lean ====
section
/-! DEFINITION. What counts as a safe run, in the terms the statements use: the canonical form of memory, a step that goes on, and
the parts of the machine that a command may change. -/

namespace Sys2Proof.Machine

open Sys2Proof

/-- The canonical form of a memory of bytes: addresses strictly rising, no entry equal to what an unlisted byte reads as. -/
abbrev Memory.wf (m : SMap Byte) : Bool := smWf zeroByte m

/-- Device memory and what the module keeps beside it are in canonical form: the bytes of DRAM, the poison marks, the husk maps,
the frames in use and the stored registers. -/
structure State.Canonical (s : State) : Prop where
  dram : Memory.wf s.dram = true
  poison : smWf (fun _ => false) s.poison = true
  husk : smWf (fun _ => false) s.husk = true
  huskBad : smWf (fun _ => false) s.huskBad = true
  used : smWf (fun _ => false) s.used = true
  regs : smWf regDefault s.regs = true

/-- A step that goes on. -/
def State.Runs (s : State) : Prop := ∃ t, step s = .next t

/-- Parts of the machine, each true where it may change. -/
structure Touch where
  us : Bool := false
  freeCtr : Bool := false
  regs : Bool := false
  tillers : Bool := false
  stackMap : Bool := false
  deeps : Bool := false
  dram : Bool := false
  poison : Bool := false
  husk : Bool := false
  huskBad : Bool := false
  objs : Bool := false
  grans : Bool := false
  shareGroups : Bool := false
  used : Bool := false
  migs : Bool := false
  heldBy : Bool := false
  xlat : Bool := false
  mbxs : Bool := false
  chans : Bool := false
  links : Bool := false
  cxl : Bool := false
  power : Bool := false
  phys : Bool := false
  boot : Bool := false
  rcv : Bool := false
  flights : Bool := false
  notices : Bool := false
  smbOut : Bool := false
deriving DecidableEq, Repr

/-- From s to t no part of the machine has changed but those that T names. -/
structure Changes (T : Touch) (s t : State) : Prop where
  us : T.us = false → t.us = s.us
  freeCtr : T.freeCtr = false → t.freeCtr = s.freeCtr
  regs : T.regs = false → t.regs = s.regs
  tillers : T.tillers = false → t.tillers = s.tillers
  stackMap : T.stackMap = false → t.stackMap = s.stackMap
  deeps : T.deeps = false → t.deeps = s.deeps
  dram : T.dram = false → t.dram = s.dram
  poison : T.poison = false → t.poison = s.poison
  husk : T.husk = false → t.husk = s.husk
  huskBad : T.huskBad = false → t.huskBad = s.huskBad
  objs : T.objs = false → t.objs = s.objs
  grans : T.grans = false → t.grans = s.grans
  shareGroups : T.shareGroups = false → t.shareGroups = s.shareGroups
  used : T.used = false → t.used = s.used
  migs : T.migs = false → t.migs = s.migs
  heldBy : T.heldBy = false → t.heldBy = s.heldBy
  xlat : T.xlat = false → t.xlat = s.xlat
  mbxs : T.mbxs = false → t.mbxs = s.mbxs
  chans : T.chans = false → t.chans = s.chans
  links : T.links = false → t.links = s.links
  cxl : T.cxl = false → t.cxl = s.cxl
  power : T.power = false → t.power = s.power
  phys : T.phys = false → t.phys = s.phys
  boot : T.boot = false → t.boot = s.boot
  rcv : T.rcv = false → t.rcv = s.rcv
  flights : T.flights = false → t.flights = s.flights
  notices : T.notices = false → t.notices = s.notices
  smbOut : T.smbOut = false → t.smbOut = s.smbOut

/-- The parts of the machine that each command may change, with every consequence that it can have at once: an interrupt or a
record it owes, a stage it stops, an attempt it aborts. -/
def frameOf : Instr → Touch
  | .chanCreate _ _ =>
      { freeCtr := true, regs := true, stackMap := true, deeps := true, dram := true, poison := true, husk := true,
        huskBad := true, objs := true, grans := true, used := true, mbxs := true, chans := true, cxl := true, smbOut := true }
  | .chanDestroy _ _ =>
      { regs := true, tillers := true, stackMap := true, deeps := true, objs := true, grans := true, shareGroups := true,
        used := true, migs := true, heldBy := true, mbxs := true, chans := true, links := true, cxl := true, flights := true,
        smbOut := true }
  | .chanGrant _ _ | .chanUnfence _ _ | .ringSet _ _ | .hostWindowSet _ _ | .chanQuery _ _ | .tokenHold _ _ | .nop _ _
    | .objQuery _ _ | .copyH2d _ _ | .copyD2h _ _ | .regionRegister _ _ | .regionRelease _ _ | .hyperSet _ _ | .stepClose _ _
    | .hostCommit _ _ | .commitAck _ _ | .variantSet _ _ | .deltaSink _ _ | .fwStatus _ _ | .settingsGet _ _
    | .unknownOpcode _ _ =>
      { regs := true, mbxs := true, chans := true, cxl := true, smbOut := true }
  | .chanFence _ _ | .cmdWatchdog _ _ =>
      { regs := true, tillers := true, stackMap := true, deeps := true, objs := true, grans := true, shareGroups := true,
        used := true, migs := true, heldBy := true, mbxs := true, chans := true, links := true, cxl := true, boot := true,
        rcv := true, flights := true, smbOut := true }
  | .chanReattach _ _ =>
      { freeCtr := true, regs := true, mbxs := true, chans := true, cxl := true, smbOut := true }
  | .torusSet _ _ =>
      { regs := true, mbxs := true, chans := true, links := true, cxl := true, boot := true, rcv := true, smbOut := true }
  | .routeSet _ _ =>
      { regs := true, stackMap := true, deeps := true, poison := true, xlat := true, mbxs := true, chans := true, links := true,
        cxl := true, boot := true, rcv := true, smbOut := true }
  | .objCreate _ _ =>
      { regs := true, stackMap := true, deeps := true, dram := true, poison := true, husk := true, huskBad := true,
        objs := true, grans := true, used := true, mbxs := true, chans := true, cxl := true, boot := true, rcv := true,
        smbOut := true }
  | .objFree _ _ =>
      { regs := true, objs := true, grans := true, shareGroups := true, used := true, migs := true, heldBy := true,
        mbxs := true, chans := true, cxl := true, boot := true, smbOut := true }
  | .objSetMode _ _ =>
      { regs := true, objs := true, mbxs := true, chans := true, cxl := true, smbOut := true }
  | .objShare _ _ =>
      { regs := true, objs := true, shareGroups := true, mbxs := true, chans := true, cxl := true, smbOut := true }
  | .objUnshare _ _ | .shardFree _ _ =>
      { regs := true, objs := true, grans := true, shareGroups := true, used := true, mbxs := true, chans := true, cxl := true,
        smbOut := true }
  | .objReplicate _ _ | .objReplicaDrop _ _ | .objFlush _ _ | .objMigrate _ _ =>
      { regs := true, objs := true, grans := true, used := true, migs := true, heldBy := true, mbxs := true, chans := true,
        cxl := true, smbOut := true }
  | .stageLoad _ _ _ =>
      { regs := true, tillers := true, mbxs := true, chans := true, cxl := true, smbOut := true }
  | .shardCreate _ _ =>
      { regs := true, stackMap := true, deeps := true, dram := true, poison := true, husk := true, huskBad := true,
        objs := true, grans := true, used := true, mbxs := true, chans := true, cxl := true, smbOut := true }
  | .gather _ _ =>
      { freeCtr := true, regs := true, tillers := true, stackMap := true, deeps := true, dram := true, poison := true,
        husk := true, huskBad := true, objs := true, grans := true, shareGroups := true, used := true, migs := true,
        heldBy := true, xlat := true, mbxs := true, chans := true, links := true, cxl := true, boot := true, rcv := true,
        flights := true, notices := true, smbOut := true }
  | .sheafRegister _ _ =>
      { regs := true, tillers := true, stackMap := true, deeps := true, dram := true, poison := true, husk := true,
        huskBad := true, objs := true, grans := true, xlat := true, mbxs := true, chans := true, cxl := true, boot := true,
        rcv := true, notices := true, smbOut := true }
  | .collGroupCreate _ _ | .collGroupFree _ _ | .collSend _ _ | .collRecv _ _ | .collBarrier _ _ | .linkFence _ _ =>
      { regs := true, mbxs := true, chans := true, links := true, cxl := true, smbOut := true }
  | .collBcast _ _ =>
      { regs := true, stackMap := true, deeps := true, poison := true, heldBy := true, xlat := true, mbxs := true,
        chans := true, links := true, cxl := true, boot := true, rcv := true, smbOut := true }
  | .reshard _ _ =>
      { regs := true, tillers := true, stackMap := true, deeps := true, dram := true, poison := true, husk := true,
        huskBad := true, objs := true, grans := true, shareGroups := true, used := true, xlat := true, mbxs := true,
        chans := true, links := true, cxl := true, boot := true, rcv := true, notices := true, smbOut := true }
  | .fwBegin _ _ | .fwBlock _ _ | .fwVerify _ _ | .fwAbort _ _ | .settingsSet _ _ | .keyLoad _ _ | .keyClear _ _ =>
      { regs := true, mbxs := true, chans := true, cxl := true, boot := true, smbOut := true }
  | .fwActivate _ _ | .rachisTakeover =>
      { regs := true, mbxs := true, chans := true, cxl := true, boot := true, rcv := true, smbOut := true }
  | .smbTelemetry _ _ | .smbHeartbeat _ | .smbLogRead _ _ =>
      { smbOut := true }
  | .smbRecover _ _ | .monRcvReq _ =>
      { regs := true, tillers := true, stackMap := true, deeps := true, dram := true, poison := true, husk := true,
        huskBad := true, objs := true, grans := true, shareGroups := true, used := true, migs := true, heldBy := true,
        xlat := true, mbxs := true, chans := true, links := true, cxl := true, boot := true, rcv := true, flights := true,
        notices := true, smbOut := true }
  | .smbDetach _ =>
      { regs := true, stackMap := true, deeps := true, chans := true, cxl := true, boot := true, rcv := true, smbOut := true }
  | .mbxGo _ _ =>
      { regs := true, mbxs := true, chans := true, cxl := true }
  | .mbxResultRecord _ | .flashOpDone | .handoverTimeout | .rcvVerify _ =>
      { regs := true, mbxs := true, chans := true, cxl := true, boot := true }
  | .dbCmdTail _ _ | .dbTokenRelease _ _ | .ringFetch _ _ | .staleReread _ _ | .relayStall _ | .dieAutoErase _ _
    | .deltaExportStart _ | .deltaWaitTimeout _ | .cxpAttach | .bar0BadAccess _ | .copyComplete _ | .counterClear _ _ _ _ =>
      { regs := true, chans := true, cxl := true }
  | .dbCplHead _ _ | .deltaHeadWrite _ _ | .chnRcvResume _ _ =>
      { chans := true }
  | .cplRecordWrite _ | .bankTimeout _ _ _ _ | .dtBankTimeout _ _ _ _ _ | .sheafComplete _ _ | .updateItemStart _
    | .updatePhaseDone _ | .scaleReport _ _ _ | .stackTempSample _ _ | .dtTempSample _ _ | .rejoin _ | .rejoinAck _ | .chunk _
    | .rejoinWaitExpire _ | .rejoinAckTimeout _ | .copyEngineStart _ | .watchdogReleaseTimeout _ _ | .progressTimeout _ _
    | .tagProbeReturn _ _ _ | .tagProbeTimeout _ _ _ | .modRstPulse _ =>
      { regs := true, tillers := true, stackMap := true, deeps := true, dram := true, poison := true, husk := true,
        huskBad := true, objs := true, grans := true, shareGroups := true, used := true, migs := true, heldBy := true,
        xlat := true, chans := true, links := true, cxl := true, boot := true, rcv := true, flights := true, notices := true }
  | .msixCoalesceTimer _ =>
      { chans := true, cxl := true }
  | .layerBarrierGo _ | .lateSwap _ | .deferredSwapResume _ | .writeAck _ _ | .stageEnd _ _ | .stepAbort _ | .collTimeout _ _
    | .perstAssert | .cxlHotReset | .cxlFlr | .tagTimeout _ _ _ | .illegalOp _ _ =>
      { regs := true, tillers := true, stackMap := true, deeps := true, objs := true, grans := true, shareGroups := true,
        used := true, migs := true, heldBy := true, chans := true, links := true, cxl := true, boot := true, rcv := true,
        flights := true }
  | .admitWaveOpen _ =>
      { tillers := true, chans := true }
  | .streamTileArrive _ _ _ | .streamEndArrive _ _ _ =>
      { tillers := true, flights := true }
  | .streamCreditReturn _ _ _ | .vadd _ _ | .vsub _ _ | .vmul _ _ | .vfma _ _ | .vmax _ _ | .vmin _ _ | .vabs _ _ | .vneg _ _
    | .vcmp _ _ | .vsel _ _ | .vcpy _ _ | .vexp2 _ _ | .vexp _ _ | .vlog2 _ _ | .vrcp _ _ | .vrsqrt _ _ | .vsqrt _ _
    | .vtanh _ _ | .vsigm _ _ | .verf _ _ | .rsum _ _ | .rssq _ _ | .rmax _ _ | .rmin _ _ | .ramax _ _ | .rrowsum _ _
    | .rrowssq _ _ | .rrowmax _ _ | .sadd _ _ | .ssub _ _ | .smul _ _ | .sand _ _ | .sor _ _ | .sxor _ _ | .sshl _ _ | .sshr _ _
    | .slih _ _ | .sfadd _ _ | .sfmul _ _ | .sfma _ _ | .scvtf _ _ | .scvti _ _ | .sld _ _ | .sst _ _ | .arr _ _ | .waita _ _
    | .mreq _ _ | .waitm _ _ | .mwrite _ _ | .send _ _ | .waitin _ _ | .relin _ _ | .waitw _ _ | .relw _ _ | .ftqWait _ _
    | .ftqPop _ _ | .br _ _ | .tileEnd _ _ | .waitv _ _ | .seqNop _ _ =>
      { freeCtr := true, regs := true, tillers := true, stackMap := true, deeps := true, objs := true, grans := true,
        shareGroups := true, used := true, migs := true, heldBy := true, chans := true, links := true, cxl := true,
        boot := true, rcv := true, flights := true }
  | .relayForward _ | .prefetchIssue _ _ _ _ _ _ _ _ | .arraySync _ | .arrayBankFlush _ | .contextSwitch _ | .accumReoffer _ _ _ =>
      { tillers := true }
  | .memRequestSend _ _ =>
      { regs := true, tillers := true, stackMap := true, deeps := true, objs := true, grans := true, xlat := true,
        chans := true, cxl := true }
  | .staleNotice _ _ =>
      { tillers := true, notices := true }
  | .tileLand _ _ | .vectorBeat _ =>
      { freeCtr := true, regs := true, tillers := true, chans := true, cxl := true, boot := true, rcv := true }
  | .arrayPass _ =>
      { freeCtr := true, regs := true, tillers := true, chans := true, cxl := true }
  | .stackPartServe _ _ _ _ _ | .dtPartServe _ _ _ _ | .cxlMemWrite _ _ | .bar4Write _ _ _ _ _ | .hostReadReturn _ _
    | .hostWriteGo _ =>
      { regs := true, tillers := true, stackMap := true, deeps := true, dram := true, poison := true, husk := true,
        huskBad := true, objs := true, grans := true, heldBy := true, xlat := true, chans := true, cxl := true, boot := true,
        rcv := true, notices := true }
  | .bankSlow _ _ _ _ =>
      { regs := true, stackMap := true, deeps := true, chans := true, cxl := true }
  | .accumArrive _ _ _ =>
      { regs := true, tillers := true, stackMap := true, deeps := true, dram := true, poison := true, chans := true,
        cxl := true, boot := true, rcv := true, notices := true }
  | .workNarrowStart _ | .stackThermExit _ =>
      { stackMap := true }
  | .scrubRead _ _ _ =>
      { regs := true, stackMap := true, deeps := true, poison := true, chans := true, cxl := true, boot := true, rcv := true }
  | .bankRefresh _ _ _ | .refreshForce _ _ _ =>
      { stackMap := true, deeps := true }
  | .dtThermExit _ =>
      { deeps := true }
  | .xlatMissFill _ _ _ =>
      { regs := true, stackMap := true, xlat := true, chans := true, cxl := true }
  | .cxlMemRead _ | .bar4Read _ _ _ _ _ =>
      { regs := true, stackMap := true, deeps := true, poison := true, heldBy := true, xlat := true, chans := true, cxl := true,
        boot := true, rcv := true }
  | .migrateInvalidate _ _ _ =>
      { migs := true, xlat := true }
  | .migrateCopyStart _ _ =>
      { regs := true, stackMap := true, deeps := true, dram := true, poison := true, husk := true, huskBad := true,
        migs := true, chans := true, cxl := true, boot := true, rcv := true, notices := true }
  | .migrateRecordWrite _ _ =>
      { regs := true, tillers := true, stackMap := true, deeps := true, dram := true, poison := true, husk := true,
        huskBad := true, objs := true, grans := true, migs := true, heldBy := true, xlat := true, chans := true, cxl := true,
        boot := true, rcv := true, notices := true }
  | .migrateFreeSource _ _ | .migrateRetry _ _ =>
      { regs := true, objs := true, grans := true, used := true, migs := true, heldBy := true, chans := true, cxl := true }
  | .migrateHoldTimeout _ _ =>
      { regs := true, tillers := true, stackMap := true, deeps := true, dram := true, poison := true, husk := true,
        huskBad := true, objs := true, grans := true, used := true, migs := true, heldBy := true, xlat := true, chans := true,
        cxl := true, boot := true, rcv := true, notices := true }
  | .trainingRecordRx _ _ | .trainingStepTimeout _ | .laneFail _ _ | .portRetrainDone _ | .portRetrainWrite _
    | .registerWrite _ _ _ | .laneLock _ =>
      { regs := true, chans := true, links := true, cxl := true, boot := true, rcv := true }
  | .trainingRestart _ | .cablePresent _ | .unfence _ | .huskResend _ | .trainingRecordSend _ =>
      { links := true }
  | .flitRx _ _ | .plan _ | .reshardReady _ =>
      { regs := true, tillers := true, stackMap := true, deeps := true, dram := true, poison := true, husk := true,
        huskBad := true, objs := true, grans := true, shareGroups := true, used := true, xlat := true, chans := true,
        links := true, cxl := true, boot := true, rcv := true, notices := true }
  | .flitTx _ | .fence _ | .rdResp _ | .wrAck _ | .err _ | .barrier _ | .deltaSegmentWrite _ =>
      { regs := true, chans := true, links := true, cxl := true }
  | .rdReq _ | .cts _ =>
      { regs := true, stackMap := true, deeps := true, poison := true, heldBy := true, xlat := true, chans := true,
        links := true, cxl := true, boot := true, rcv := true }
  | .wrReq _ =>
      { regs := true, tillers := true, stackMap := true, deeps := true, dram := true, poison := true, husk := true,
        huskBad := true, objs := true, grans := true, heldBy := true, xlat := true, chans := true, links := true, cxl := true,
        boot := true, rcv := true, notices := true }
  | .normStart _ =>
      { regs := true, tillers := true, stackMap := true, deeps := true, dram := true, poison := true, husk := true,
        huskBad := true, objs := true, grans := true, used := true, migs := true, heldBy := true, xlat := true, chans := true,
        links := true, cxl := true, boot := true, rcv := true, notices := true }
  | .stepCommit _ =>
      { regs := true, objs := true, grans := true, shareGroups := true, used := true, migs := true, heldBy := true,
        chans := true, cxl := true }
  | .cxlLinkUp _ _ _ _ _ | .hostWdWrite _ | .hdmCommit _ _ | .perstDeassert =>
      { cxl := true }
  | .cxlLinkDown | .ideIntegrityFail | .hostWdExpire | .cxpDetach =>
      { regs := true, stackMap := true, deeps := true, chans := true, cxl := true, boot := true, rcv := true }
  | .spdmRequest _ =>
      { freeCtr := true, cxl := true, boot := true }
  | .heartbeatAdvance =>
      { rcv := true }
  | .standbyReloadDone _ | .stookSaveDone _ =>
      { regs := true, chans := true, cxl := true, boot := true, rcv := true }
  | .resetStepDone _ _ | .rcvStart _ | .pwrEnRise _ | .pwrEnFall | .inputUndervolt | .inputOvervolt | .inputRestored | .aonLoss
    | .inputApplied | .undervoltEnd =>
      { us := true, freeCtr := true, regs := true, tillers := true, stackMap := true, deeps := true, dram := true,
        poison := true, husk := true, huskBad := true, objs := true, grans := true, shareGroups := true, used := true,
        migs := true, heldBy := true, xlat := true, mbxs := true, chans := true, links := true, cxl := true, power := true,
        phys := true, boot := true, rcv := true, flights := true, notices := true, smbOut := true }
  | .fenceDrainTimeout _ =>
      { tillers := true, stackMap := true, deeps := true }
  | .lsLoad _ _ =>
      { regs := true, chans := true }
  | .powerAverage _ _ | .dieTempSample _ _ | .vcoreDip _ _ =>
      { regs := true, chans := true, cxl := true, power := true }
  | .thermLevelStep | .throttleApply | .stretchEnd | .dipHoldEnd | .clockRestored | .vcoreMinReset _ =>
      { power := true }
  | .thermalShutdown _ | .railResetOther _ _ | .clockLoss =>
      { regs := true, tillers := true, stackMap := true, deeps := true, objs := true, grans := true, shareGroups := true,
        used := true, migs := true, heldBy := true, chans := true, links := true, cxl := true, power := true, boot := true,
        rcv := true, flights := true }
  | .vcoreResetLevel _ _ =>
      { regs := true, tillers := true, stackMap := true, deeps := true, dram := true, poison := true, husk := true,
        huskBad := true, objs := true, grans := true, shareGroups := true, used := true, migs := true, heldBy := true,
        xlat := true, chans := true, links := true, cxl := true, power := true, boot := true, rcv := true, flights := true,
        notices := true }
  | .bootChain _ _ _ _ =>
      { regs := true, mbxs := true, chans := true, links := true, cxl := true, boot := true, rcv := true }
  | .fwCommitCopy =>
      { regs := true, chans := true, cxl := true, boot := true }
  | .handoverStandbyReady =>
      { regs := true, mbxs := true, chans := true, cxl := true, boot := true, rcv := true }
  | .rcvBegin _ | .rcvBlock _ =>
      { boot := true }
  | .modRstLong _ =>
      { regs := true, tillers := true, stackMap := true, deeps := true, objs := true, grans := true, shareGroups := true,
        used := true, migs := true, heldBy := true, chans := true, links := true, cxl := true, phys := true, boot := true,
        rcv := true, flights := true }
  | .railOutOfBand _ _ =>
      { phys := true }

end Sys2Proof.Machine
end

