-- ==== Sys2Proof/Certificates/Slice0/Obligations.lean ====
section
/-! DEFINITION. The statements for the provers: what a step, each command and each event of the module do, over every state. -/

open Sys2Proof Sys2Proof.Machine

namespace Sys2Proof.Claim

/-- A host command that is taken: it stands where its source may start it, it has the opcode, and it passes the checks made of
every command before its own. -/
abbrev Taken (op : Nat) (src : CmdSrc) (e : Entry) (s : State) : Prop :=
  cmdReady s src e = true ∧ e.opcode = op ∧ cmdCheck s (cmdOf s src e) = none

/-- The state in which a command that is taken has started. -/
def begun (src : CmdSrc) (e : Entry) (s : State) : State := markStarted (cmdOf s src e) s

/-- The channel that a command acts on. -/
def chOf (s : State) (src : CmdSrc) (e : Entry) : Nat := (cmdOf s src e).ch

/-- A command completes with its record: a status, results, and the state that its effect has left. -/
def Ends (i : Instr) (src : CmdSrc) (e : Entry) (s : State) (status : Nat) (rs : List Word) (t : State) : Prop :=
  exec i s = .next (answer (cmdOf s src e) status rs t)

/-- The requests of an engine's accesses at their homes. -/
def requests (s : State) (who : Nat) (ch : Option Nat) (l : List Access) : List (Nat × EngEntry) := l.flatMap (accessEntries s who ch)

/-- The accesses of an engine go at once: none waits for its translation (R215), a write for a granule that moves (R237), or a request
for its turn at a home (R182, R183). -/
def GoNow (s : State) (who : Nat) (ch : Option Nat) (req : Nat) (l : List Access) : Prop :=
  (∀ x ∈ l, accessStuck s req x = none ∧ (x.write = true → rangeBusy s x.obj x.off x.n = false)) ∧
  ∀ e ∈ requests s who ch l, engineWaits s e.1 e.2 = false

/-- The homes that answer accesses poisoned: the bank has been silent for 2 ms (R186). -/
def silent (s : State) (who : Nat) (ch : Option Nat) (l : List Access) : List Nat :=
  ((requests s who ch l).filter (fun e => (engineOf s e.1).any (fun x => sameEntry e.2 x && x.poison))).map (·.1)

/-- The state in which the requests of accesses have left the queues of their homes. -/
def admitted (s : State) (who : Nat) (ch : Option Nat) (l : List Access) : State :=
  (requests s who ch l).foldl engineLeave
    (if s.heldBy.isEmpty then s else { s with heldBy := s.heldBy.filter (fun y => !(l.map (heldName who)).contains y) })

/-- A command goes on to a next state of which something holds. -/
def Goes (i : Instr) (s : State) (p : State → Prop) : Prop := ∃ t, exec i s = .next t ∧ p t

end Sys2Proof.Claim

open Sys2Proof.Claim

namespace Sys2Proof.Claim

/-- The opcode, the source and the entry of the host commands that never wait once it is their turn. -/
def hostOp : Instr → Option (Nat × CmdSrc × Entry)
  | .chanCreate src e => some (0x01, src, e)
  | .chanDestroy src e => some (0x02, src, e)
  | .chanGrant src e => some (0x03, src, e)
  | .chanFence src e => some (0x04, src, e)
  | .chanUnfence src e => some (0x05, src, e)
  | .chanReattach src e => some (0x06, src, e)
  | .ringSet src e => some (0x07, src, e)
  | .hostWindowSet src e => some (0x08, src, e)
  | .chanQuery src e => some (0x09, src, e)
  | .torusSet src e => some (0x0A, src, e)
  | .routeSet src e => some (0x0B, src, e)
  | .tokenHold src e => some (0x0C, src, e)
  | .nop src e => some (0x0D, src, e)
  | .objCreate src e => some (0x10, src, e)
  | .objFree src e => some (0x11, src, e)
  | .objSetMode src e => some (0x12, src, e)
  | .objShare src e => some (0x13, src, e)
  | .objUnshare src e => some (0x14, src, e)
  | .objQuery src e => some (0x15, src, e)
  | .objReplicate src e => some (0x16, src, e)
  | .objReplicaDrop src e => some (0x17, src, e)
  | .objFlush src e => some (0x18, src, e)
  | .objMigrate src e => some (0x19, src, e)
  | .regionRegister src e => some (0x23, src, e)
  | .shardCreate src e => some (0x30, src, e)
  | .shardFree src e => some (0x31, src, e)
  | .hyperSet src e => some (0x32, src, e)
  | .commitAck src e => some (0x37, src, e)
  | .variantSet src e => some (0x38, src, e)
  | .deltaSink src e => some (0x39, src, e)
  | .collGroupCreate src e => some (0x40, src, e)
  | .collGroupFree src e => some (0x41, src, e)
  | .linkFence src e => some (0x47, src, e)
  | .fwBegin src e => some (0x60, src, e)
  | .fwBlock src e => some (0x61, src, e)
  | .fwVerify src e => some (0x62, src, e)
  | .fwActivate src e => some (0x63, src, e)
  | .fwAbort src e => some (0x64, src, e)
  | .fwStatus src e => some (0x65, src, e)
  | .settingsGet src e => some (0x68, src, e)
  | .settingsSet src e => some (0x69, src, e)
  | .keyLoad src e => some (0x6C, src, e)
  | .keyClear src e => some (0x6D, src, e)
  | _ => none

end Sys2Proof.Claim

/-- A step takes the command at the front of the queue: it is that command's effect on the state with the rest of the queue. -/
def Obligations.StepTakesTheFront : Prop :=
  ∀ (s : State) (c : Instr) (rest : List Instr), s.pending = c :: rest → step s = exec c { s with pending := rest }

/-- With no command waiting a step is one microsecond (log entry 2, the model's choice): while the clocks run MON_UPTIME_US rises by
one unless it is all-ones (R486), and with the clocks stopped nothing changes. -/
def Obligations.IdleStepIsOneMicrosecond : Prop :=
  ∀ s : State, s.pending = [] → ∃ t, step s = .next t ∧
    (clocksRun s = true → t.us = min (2 ^ 64 - 1) (s.us + 1)) ∧ (clocksRun s = false → t = s) ∧
    t.pending = [] ∧ t.tillers = s.tillers ∧ t.objs = s.objs ∧ t.mbxs = s.mbxs ∧ (∀ a, smGet zeroByte t.dram a = smGet zeroByte s.dram a)

/-- What reset leaves: nothing waits, no channel lives, no object is placed, no frame is used, no byte of memory is listed, the CXL
port is detached, the cold start is at the step in which the ROM runs (R500; log entries 3 and 7), and every stored register reads
its reset value. -/
def Obligations.ResetLeavesTheModuleEmpty : Prop :=
  State.reset.pending = [] ∧ (∀ c, (chanAt State.reset c).live = false) ∧ (∀ o, (objAt State.reset o).valid = false) ∧
  State.reset.used = [] ∧ (∀ a, smGet zeroByte State.reset.dram a = 0) ∧ State.reset.cxl.attach = 2 ∧
  (domainAt State.reset 0x7F).seq = some { step := 6, trigger := 0xB4 } ∧
  (∀ (b : Blk) (off : Nat), rd State.reset b off = regDefault (blkBase b + off))

/-- After reset the memory and what the module keeps beside it are in canonical form. -/
def Obligations.ResetIsCanonical : Prop := State.reset.Canonical

/-- Every step keeps the canonical form: the bytes of memory, the poison marks, the husk maps, the frames in use and the stored
registers stay listed by strictly rising keys with no entry equal to its default. -/
def Obligations.StepKeepsCanonicalForm : Prop := ∀ s t : State, s.Canonical → step s = .next t → t.Canonical

/-- A command changes only the parts of the machine that its frame names, and never the queue. -/
def Obligations.CommandsKeepTheirFrame : Prop :=
  ∀ (i : Instr) (s t : State), exec i s = .next t → Changes (frameOf i) s t ∧ t.pending = s.pending

/-- No command is refused, and the only fault is an event at a unit that the module lacks (Table 0.4). -/
def Obligations.NoCommandIsRefused : Prop :=
  ∀ (i : Instr) (s : State), (∃ t, exec i s = .next t) ∨ exec i s = .fault .noSuchUnit

/-- R510: over any step the fuse SVN never falls, the serial number of the fuses (R494) stays, and the free values are drawn
forward. -/
def Obligations.FusesNeverGoBack : Prop :=
  ∀ s t : State, step s = .next t →
    s.boot.fuseSvn ≤ t.boot.fuseSvn ∧ t.boot.serial = s.boot.serial ∧ s.freeCtr ≤ t.freeCtr

/-- R486: every counter is 32 or 64 bits wide; an increment that stays below all-ones adds, and one that would reach or pass it
leaves all-ones and sets the counter's bit in the block's saturation register. No other register changes but, then, the saturation
register and the event register. -/
def Obligations.CountersStopAtAllOnes : Prop :=
  ∀ (b : Blk) (off n : Nat) (r : RegDef) (s : State), regDef b off = some r → r.cnt ≠ 0 → 0 < n →
    (r.cnt = 32 ∨ r.cnt = 64) ∧
    ((rd s b off).toNat + n < 2 ^ r.cnt - 1 →
      (rd (cntAdd b off n s) b off).toNat = (rd s b off).toNat + n ∧
      ∀ a, a ≠ blkBase b + off → rdAddr (cntAdd b off n s) a = rdAddr s a) ∧
    (2 ^ r.cnt - 1 ≤ (rd s b off).toNat + n →
      (rd (cntAdd b off n s) b off).toNat = 2 ^ r.cnt - 1 ∧ bit (rd (cntAdd b off n s) b r.satOff) r.satBit = true ∧
      ∀ a, a ≠ blkBase b + off → a ≠ blkBase b + r.satOff → a ≠ blkBase b + r.evOff → rdAddr (cntAdd b off n s) a = rdAddr s a)

/-- A W1C event bit that the module sets (R404, R425): it is set and no other bit of any register changes; a bit that was set
already causes nothing further, and a bit newly set and enabled owes a channel an EVENT record, or sends a vector for the other
blocks. -/
def Obligations.EventsInterruptOnce : Prop :=
  ∀ (b : Blk) (ev n : Nat) (s : State), n < 64 →
    rd (setEv b ev n s) b ev = rd s b ev ||| word (2 ^ n) ∧
    (∀ a, a ≠ blkBase b + ev → rdAddr (setEv b ev n s) a = rdAddr s a) ∧
    (bit (rd s b ev) n = true → setEv b ev n s = s) ∧
    (bit (rd s b ev) n = false → bit (rd s b (ev + 8)) n = false → (setEv b ev n s).chans = s.chans ∧ (setEv b ev n s).cxl = s.cxl) ∧
    (∀ c, b = .chn c → bit (rd s b ev) n = false → bit (rd s b (ev + 8)) n = true →
      (chanAt (setEv b ev n s) c).rings.owed = (chanAt s c).rings.owed ++
        [{ r := { kind := 7, handle := handleOf s c, r0 := word ev, r1 := word (2 ^ n) }, irq := true }])

/-- A host command that fails a check made of every command completes with that check's status and has no other effect; one that
it is not the turn of leaves the state as it was (R406, R410, R422; log entry 8). -/
def Obligations.FailedChecksOnlyAnswer : Prop :=
  ∀ (i : Instr) (op : Nat) (src : CmdSrc) (e : Entry) (s : State), hostOp i = some (op, src, e) →
    ((cmdReady s src e && e.opcode == op) = false → exec i s = .next s) ∧
    (∀ st, cmdReady s src e = true → e.opcode = op → cmdCheck s (cmdOf s src e) = some st →
      exec i s = .next (answer (cmdOf s src e) st [] (begun src e s)))

/-- No word spells a command: the table gives no row any bits, so a word put at the front of the queue leaves the state as it was. -/
def Obligations.NoWordSpellsACommand : Prop :=
  ∀ (n w : Nat) (s : State), decodeTableWord n w = none ∧ s.withFetchWord n w = s

/-- Mailboxes and doorbells. R401: at GO a mailbox copies its entry and STATE becomes BUSY; a GO while BUSY is discarded and sets
OVERRUN, and the command already running continues. R403: a finished record goes to slot k mod 64 while k − MBX_RES_HEAD is below
64. R414: a tail that runs past the ring is discarded, sets RING_OVERRUN and owes a record. R420: a release ends the oldest hold on
its token. R424: a head written releases records. Nothing else of the machine changes. -/
def Obligations.MailboxesAndDoorbellsTakeCommands : Prop :=
  (∀ (m : Nat) (w : Word) (s : State), m < 64 → s.boot.stage = 3 → (mbxAt s m).st ≠ 1 →
    exec (.mbxGo m w) s = .next (cntInc (.mbx m) Reg.MBX_CNT_CMDS (modMbx s m (fun b => { b with
      run := some ({ w0 := rd s (.mbx m) 0, user := rd s (.mbx m) 8, a0 := rd s (.mbx m) 16, a1 := rd s (.mbx m) 24,
                     a2 := rd s (.mbx m) 32, a3 := rd s (.mbx m) 40, a4 := rd s (.mbx m) 48, a5 := rd s (.mbx m) 56 }, bits w 15 0),
      st := 1 })))) ∧
  (∀ (m : Nat) (w : Word) (s : State), m < 64 → s.boot.stage = 3 → (mbxAt s m).st = 1 →
    Goes (.mbxGo m w) s (fun t => t = setEv (.mbx m) Reg.MBX_EVENT Bit.MBX_EVENT_OVERRUN s ∧ t.mbxs = s.mbxs)) ∧
  (∀ (m k : Nat) (r : CplRec) (s : State), m < 64 →
    (mbxAt s m).fin.find? (fun p => decide ((p.1 + 2 ^ 32 - rdField s (.mbx m) Reg.MBX_RES_HEAD 31 0) % 2 ^ 32 < 64)) = some (k, r) →
    r.opcode ≠ 0x02 →
    exec (.mbxResultRecord m) s = .next (mbxIrq m (modMbx s m (fun b => { b with
      fin := b.fin.filter (fun p => p.1 != k), ring := smInsert (k % 64) r b.ring, resTail := b.resTail + 1 })))) ∧
  (∀ (c : Nat) (w : Word) (s : State), c < 4096 → (chanAt s c).live = true → (chanAt s c).rings.set = true →
    (bits w 31 0 + 2 ^ 32 - (chanAt s c).rings.cmdHead % 2 ^ 32) % 2 ^ 32 ≤ 2 ^ (chanAt s c).rings.cmdN →
    Goes (.dbCmdTail c w) s (fun t =>
      (chanAt t c).rings.cmdTail % 2 ^ 32 = bits w 31 0 ∧ (chanAt t c).rings.cmdHead = (chanAt s c).rings.cmdHead ∧
      (chanAt t c).rings.cmds = (chanAt s c).rings.cmds ∧ (chanAt t c).stalled = false ∧
      (∀ d, d ≠ c → chanAt t d = chanAt s d) ∧ t = { s with chans := t.chans })) ∧
  (∀ (c : Nat) (w : Word) (s : State), c < 4096 → (chanAt s c).live = true → (chanAt s c).rings.set = true →
    2 ^ (chanAt s c).rings.cmdN < (bits w 31 0 + 2 ^ 32 - (chanAt s c).rings.cmdHead % 2 ^ 32) % 2 ^ 32 →
    Goes (.dbCmdTail c w) s (fun t =>
      t = owe c { status := ST_RING_OVERRUN, handle := handleOf s c } true none
            (setEv (.chn c) Reg.CHN_EVENT Bit.CHN_EVENT_RING_OVERRUN s) ∧
      (chanAt t c).rings.cmdTail = (chanAt s c).rings.cmdTail)) ∧
  (∀ (c : Nat) (w : Word) (s : State) (a b : List (Nat × Nat)) (p : Nat), c < 4096 → (chanAt s c).live = true →
    (chanAt s c).rings.holds = a ++ (bits w 11 0, p) :: b → (∀ h ∈ a, h.1 ≠ bits w 11 0) →
    exec (.dbTokenRelease c w) s = .next (modRings s c (fun g => { g with holds := a ++ b }))) ∧
  (∀ (c : Nat) (w : Word) (s : State), c < 4096 → (chanAt s c).live = true →
    (∀ h ∈ (chanAt s c).rings.holds, h.1 ≠ bits w 11 0) →
    exec (.dbTokenRelease c w) s = .next (setEv (.chn c) Reg.CHN_EVENT Bit.CHN_EVENT_TOKEN_UNDERFLOW s)) ∧
  (∀ (c : Nat) (w : Word) (s : State), c < 4096 → (chanAt s c).live = true →
    Goes (.dbCplHead c w) s (fun t =>
      (chanAt t c).rings.cplHead = bits w 31 0 ∧ (chanAt t c).rings.cplTail = (chanAt s c).rings.cplTail ∧
      (chanAt t c).rings.owed = (chanAt s c).rings.owed ∧ (∀ d, d ≠ c → chanAt t d = chanAt s d) ∧
      t = { s with chans := t.chans }))

/-- A ring's entries. R415: a current entry read is accepted, joins the fetched commands at CHN_CMD_HEAD with the step in which it
stands, and the head passes it; the entry after a STEP_CLOSE belongs to the next step (R16). R416: an entry that is not current is
read again; the 64th stale read stalls the channel. R456: CHN_RCV_RESUME ends the voiding at the entry it names, at once when the
head has passed it. -/
def Obligations.RingEntriesAreFetchedInOrder : Prop :=
  (∀ (c : Nat) (es : List Entry) (e : Entry) (s : State), c < 4096 → mayFetch s c = true → (chanAt s c).rings.reread = false →
    (chanAt s c).rcv.st = 0 → ringEntries s c es = [e] → (chanAt s c).rings.cmdHead < (chanAt s c).rings.cmdTail →
    e.phase = ((chanAt s c).rings.cmdHead / 2 ^ (chanAt s c).rings.cmdN % 2 == 0) →
    Goes (.ringFetch c es) s (fun t =>
      (chanAt t c).rings.cmdHead = (chanAt s c).rings.cmdHead + 1 ∧
      (chanAt t c).rings.cmds = (chanAt s c).rings.cmds ++
        [{ pos := (chanAt s c).rings.cmdHead, e := e, step := (chanAt s c).trn.stepFetch }] ∧
      (chanAt t c).trn.stepFetch = (if e.opcode = 0x35 then (chanAt s c).trn.stepFetch + 1 else (chanAt s c).trn.stepFetch) ∧
      (∀ d, d ≠ c → chanAt t d = chanAt s d) ∧ t = { s with chans := t.chans })) ∧
  (∀ (c : Nat) (es : List Entry) (e : Entry) (s : State), c < 4096 → mayFetch s c = true → (chanAt s c).rings.reread = false →
    ringEntries s c es = [e] → (chanAt s c).rings.cmdHead < (chanAt s c).rings.cmdTail →
    e.phase = !((chanAt s c).rings.cmdHead / 2 ^ (chanAt s c).rings.cmdN % 2 == 0) →
    exec (.ringFetch c es) s = .next (modRings s c (fun g => { g with reread := true, stale := 0 }))) ∧
  (∀ (c : Nat) (e f : Entry) (s : State), c < 4096 → mayFetch s c = true → (chanAt s c).rings.reread = true →
    ringEntries s c [e] = [f] → f.phase = !((chanAt s c).rings.cmdHead / 2 ^ (chanAt s c).rings.cmdN % 2 == 0) →
    (chanAt s c).rings.stale + 1 < 64 →
    exec (.staleReread c e) s = .next (modRings (cntInc (.chn c) Reg.CHN_CNT_STALE_RETRY s) c
      (fun g => { g with stale := (chanAt (cntInc (.chn c) Reg.CHN_CNT_STALE_RETRY s) c).rings.stale + 1 }))) ∧
  (∀ (c : Nat) (w : Word) (s : State) (d : Nat), c < 4096 → (chanAt s c).live = true → (chanAt s c).rcv.st = 1 →
    d = (bits w 31 0 + 2 ^ 32 - (chanAt s c).rings.cmdHead % 2 ^ 32) % 2 ^ 32 → d = 0 ∨ 2 ^ 31 ≤ d →
    exec (.chnRcvResume c w) s = .next (modChanRcv s c (fun r => { r with
      st := 0, resumed := true, resume := (chanAt s c).rings.cmdHead }))) ∧
  (∀ (c : Nat) (w : Word) (s : State) (d : Nat), c < 4096 → (chanAt s c).live = true → (chanAt s c).rcv.st = 1 →
    d = (bits w 31 0 + 2 ^ 32 - (chanAt s c).rings.cmdHead % 2 ^ 32) % 2 ^ 32 → 0 < d → d < 2 ^ 31 →
    exec (.chnRcvResume c w) s = .next (modChanRcv s c (fun r => { r with
      resumed := true, resume := (chanAt s c).rings.cmdHead + d })))

/-- Completion records. R424, R425: the oldest record owed goes to slot k mod SIZE of a ring in the host, as a write whose vector
follows it, when k − CHN_CPL_HEAD is below SIZE; a record with IRQ, or the COAL_RECORDS-th since the last message, has the vector.
R394: while the channel is detached the record goes to its detach log. The coalescing timer sends the vector and restarts the
count. -/
def Obligations.RecordsReachTheirRing : Prop :=
  (∀ (c : Nat) (o : CplOwed) (rest : List CplOwed) (s : State), c < 4096 → (chanAt s c).live = true →
    (chanAt s c).rings.set = true → (chanAt s c).attached = true → (chanAt s c).rings.cplDev = false → hostOpen s = true →
    (chanAt s c).rings.owed = o :: rest → o.pos = none →
    ((chanAt s c).rings.cplTail + 2 ^ 32 - (chanAt s c).rings.cplHead) % 2 ^ 32 < 2 ^ (chanAt s c).rings.cplN →
    Goes (.cplRecordWrite c) s (fun t =>
      (chanAt t c).rings.owed = rest ∧ (chanAt t c).rings.cplTail = (chanAt s c).rings.cplTail + 1 ∧
      t.cxl.writes = s.cxl.writes ++ [{
        id := s.cxl.nextId, who := 0, unit := c, pos := (chanAt s c).rings.cplTail,
        addr := (chanAt s c).rings.cplBase + 64 * ((chanAt s c).rings.cplTail % 2 ^ (chanAt s c).rings.cplN),
        data := recBytes o.r ((chanAt s c).rings.cplTail / 2 ^ (chanAt s c).rings.cplN % 2 == 0),
        msi := if o.irq = true ∨ ((chanAt s c).rings.coalRecords ≠ 0 ∧
                  (chanAt s c).rings.coalRecords ≤ (chanAt s c).rings.unsignalled + 1) then
                (if (chanAt s c).rings.irqEn then some (chanAt s c).rings.vector else none) else none }] ∧
      (∀ d, d ≠ c → chanAt t d = chanAt s d) ∧ t = { s with chans := t.chans, cxl := t.cxl })) ∧
  (∀ (c : Nat) (o : CplOwed) (rest : List CplOwed) (s : State), c < 4096 → (chanAt s c).live = true →
    (chanAt s c).rings.set = true → (chanAt s c).attached = false → (chanAt s c).logged < (chanAt s c).logRecs →
    (chanAt s c).rings.owed = o :: rest → o.pos = none →
    exec (.cplRecordWrite c) s = .next (modChan
      (objStore {} (chanAt s c).detachLog ((chanAt s c).logged * 64) (recBytes o.r true) s) c
      (fun k => { k with logged := k.logged + 1, rings := { k.rings with owed := rest } }))) ∧
  (∀ (c : Nat) (s : State), c < 4096 → (chanAt s c).live = true → (chanAt s c).rings.coalUs ≠ 0 →
    (chanAt s c).rings.unsignalled ≠ 0 → (chanAt s c).rings.irqEn = true →
    exec (.msixCoalesceTimer c) s =
      .next (sendMsi (chanAt s c).rings.vector (modRings s c (fun g => { g with unsignalled := 0 }))))

/-- The life of a channel. R407: CHAN_CREATE takes the lowest free index, a new generation, the tillers, the quotas, the seed and a
token drawn at random, and makes the detach log. R408: CHAN_GRANT replaces the mask and the quotas, or fails with ST_BUSY,
ST_GRANT_CONFLICT or ST_QUOTA and changes nothing. R410: a fenced channel stays so until CHAN_UNFENCE. R411: CHAN_DESTROY is
acknowledged PENDING and frees what the channel holds. R396, R397: a reattach with the right token places the rings, draws the next
token and answers with CHN_CMD_HEAD and the records logged. -/
def Obligations.ChannelsLiveAndDie : Prop :=
  (∀ (src : CmdSrc) (e : Entry) (s : State) (c oi da : Nat) (s1 : State), Taken 0x01 src e s →
    64 ≤ bits e.a4 16 0 → bits e.a4 16 0 ≤ 65536 → freeChanIndex (begun src e s) = some c →
    grantConflict (begun src e s) c (maskTillers e.a2 e.a3) = false →
    createObj (setChan (resetBlock (drawFree (begun src e s)).2 (.chn c) 0x1000) c {
        gen := (chanAt (begun src e s) c).gen % 0xFFFFF + 1, live := true, det := bit e.a4 17, grant := maskTillers e.a2 e.a3,
        quota := (bits e.a1 31 0, bits e.a1 63 32), logRecs := bits e.a4 16 0,
        token := Config.freeWord (begun src e s).freeCtr, trn := { seed := e.a0 } }) c
      { size := (bits e.a4 16 0 * 64 + 65535) / 65536 * 65536, dataBytes := bits e.a4 16 0 * 64 } = .ok (oi, da, s1) →
    exec (.chanCreate src e) s = .next (answer
      { cmdOf s src e with e := { e with w0 := setBits e.w0 63 32 (handleOf s1 c) } } ST_OK
      [word (handleOf s1 c), Config.freeWord (begun src e s).freeCtr, word oi] (modChan s1 c (fun k => { k with detachLog := oi })))) ∧
  (∀ (src : CmdSrc) (e : Entry) (s : State) (c : Nat) (k : Chan), Taken 0x03 src e s → c = chOf s src e →
    k = chanAt (begun src e s) c →
    (if ∃ t, t ∈ k.grant ∧ t ∉ maskTillers e.a0 e.a1 ∧ tillerNamed (begun src e s) c t = true then
      Ends (.chanGrant src e) src e s ST_BUSY [] (begun src e s)
    else if grantConflict (begun src e s) c (maskTillers e.a0 e.a1) = true then
      Ends (.chanGrant src e) src e s ST_GRANT_CONFLICT [] (begun src e s)
    else if bits e.a2 31 0 < k.used.1 ∨ bits e.a2 63 32 < k.used.2 then
      Ends (.chanGrant src e) src e s ST_QUOTA [] (begun src e s)
    else Ends (.chanGrant src e) src e s ST_OK [] (modChan (begun src e s) c (fun k => { k with
      grant := maskTillers e.a0 e.a1, quota := (bits e.a2 31 0, bits e.a2 63 32) })))) ∧
  (∀ (m : Nat) (e : Entry) (s : State), Taken 0x02 (.mbx m) e s → mbxFull s m = false →
    Goes (.chanDestroy (.mbx m) e) s (fun t =>
      (chanAt t (e.handle % 4096)).grant = [] ∧ (chanAt t (e.handle % 4096)).windows = [] ∧
      (chanAt t (e.handle % 4096)).quota = (0, 0) ∧ (chanAt t (e.handle % 4096)).used = (0, 0) ∧
      (mbxAt t m).st = 3 ∧ (mbxAt t m).status = ST_PENDING ∧ (mbxAt t m).run = none)) ∧
  (∀ (src : CmdSrc) (e : Entry) (s : State), Taken 0x04 src e s → (chanAt (begun src e s) (chOf s src e)).fenced = true →
    Ends (.chanFence src e) src e s ST_OK [] (begun src e s)) ∧
  (∀ (src : CmdSrc) (e : Entry) (s : State) (c : Nat), Taken 0x04 src e s → c = chOf s src e →
    (chanAt (begun src e s) c).live = true → (chanAt (begun src e s) c).fenced = false →
    Ends (.chanFence src e) src e s ST_OK [] (abortAttempt c ST_FENCED 0xFF (finishAll c ST_FENCED (fun y => y.st == 0)
      (stopCopies c ST_FENCED (setEv (.chn c) Reg.CHN_EVENT Bit.CHN_EVENT_FENCED
        (modChan (begun src e s) c (fun k => { k with fenced := true }))))))) ∧
  (∀ (src : CmdSrc) (e : Entry) (s : State), Taken 0x05 src e s →
    Ends (.chanUnfence src e) src e s ST_OK [] (modChan (begun src e s) (chOf s src e) (fun k => { k with fenced := false }))) ∧
  (∀ (m : Nat) (e : Entry) (s : State) (k : Chan), Taken 0x06 (.mbx m) e s → k = chanAt s (e.handle % 4096) →
    k.lockUs ≤ s.us → e.a0 = k.token → bit e.a1 0 = true → ringOk s (e.handle % 4096) false e.a2.toNat e.a3 = true →
    ringOk s (e.handle % 4096) true e.a4.toNat e.a5 = true →
    Ends (.chanReattach (.mbx m) e) (.mbx m) e s ST_OK
      [Config.freeWord s.freeCtr, word (put (k.rings.cmdHead % 2 ^ 32) 31 0 + put k.logged 63 32)]
      (modChan { s with freeCtr := s.freeCtr + 1 } (e.handle % 4096) (fun k => { k with
        token := Config.freeWord s.freeCtr, wrong := 0, attached := true, logFull := false,
        rings := { k.rings with set := true, cmdBase := e.a2.toNat, cmdN := bits e.a3 4 0, cmdDev := bit e.a3 5,
                                cplBase := e.a4.toNat, cplN := bits e.a5 4 0, cplDev := bit e.a5 5 } }))) ∧
  (∀ (m : Nat) (e : Entry) (s : State), Taken 0x06 (.mbx m) e s → (chanAt s (e.handle % 4096)).lockUs ≤ s.us →
    e.a0 ≠ (chanAt s (e.handle % 4096)).token →
    Ends (.chanReattach (.mbx m) e) (.mbx m) e s ST_ATTACH_DENIED [] (attachDenied (e.handle % 4096) false s))

/-- The settings of a channel and the commands that only read or hold. R412: RING_SET places both rings with their counts at 0 when
no fetched command is incomplete and both places are within bounds. R375: HOST_WINDOW_SET writes a window of multiples of 4 KiB.
CHAN_QUERY answers with the channel's state, its ring counts and its last committed step. R420: TOKEN_HOLD adds a hold at its
count. NOP does nothing. R422: an entry with an opcode that its path lacks completes with a status and does nothing else. -/
def Obligations.ChannelSettingsAreWritten : Prop :=
  (∀ (src : CmdSrc) (e : Entry) (s : State) (c : Nat), Taken 0x07 src e s → c = chOf s src e →
    (chanAt (begun src e s) c).rings.cmds = [] → ringOk (begun src e s) c false e.a0.toNat e.a1 = true →
    ringOk (begun src e s) c true e.a2.toNat e.a3 = true →
    Ends (.ringSet src e) src e s ST_OK [] (modChan (begun src e s) c (fun k => { k with stalled := false, rings :=
      { set := true, cmdBase := e.a0.toNat, cmdN := bits e.a1 4 0, cmdDev := bit e.a1 5, cplBase := e.a2.toNat,
        cplN := bits e.a3 4 0, cplDev := bit e.a3 5, vector := bits e.a4 10 0, irqEn := bit e.a4 11,
        coalRecords := bits e.a4 19 12, coalUs := bits e.a4 35 20, owed := k.rings.owed } }))) ∧
  (∀ (src : CmdSrc) (e : Entry) (s : State) (c : Nat), Taken 0x07 src e s → c = chOf s src e →
    (chanAt (begun src e s) c).rings.cmds ≠ [] → Ends (.ringSet src e) src e s ST_BUSY [] (begun src e s)) ∧
  (∀ (src : CmdSrc) (e : Entry) (s : State), Taken 0x08 src e s → bit e.a0 4 = true ∨ bit e.a0 5 = true →
    e.a1.toNat % 4096 = 0 → e.a2.toNat % 4096 = 0 →
    Ends (.hostWindowSet src e) src e s ST_OK [] (modChan (begun src e s) (chOf s src e) (fun k => { k with
      windows := smSet (fun _ => {}) k.windows (bits e.a0 3 0)
        { rd := bit e.a0 4, wr := bit e.a0 5, base := e.a1.toNat, len := e.a2.toNat } }))) ∧
  (∀ (src : CmdSrc) (e : Entry) (s : State), Taken 0x08 src e s → bit e.a0 4 = false → bit e.a0 5 = false →
    Ends (.hostWindowSet src e) src e s ST_OK [] (modChan (begun src e s) (chOf s src e) (fun k => { k with
      windows := smErase (bits e.a0 3 0) k.windows }))) ∧
  (∀ (src : CmdSrc) (e : Entry) (s : State) (k : Chan), Taken 0x09 src e s → k = chanAt (begun src e s) (chOf s src e) →
    Ends (.chanQuery src e) src e s ST_OK [chanStateReg (begun src e s) (chOf s src e), word (k.rings.cmdHead % 2 ^ 32),
      word (k.rings.cplTail % 2 ^ 32), word k.trn.committed] (begun src e s)) ∧
  (∀ (src : CmdSrc) (e : Entry) (s : State), Taken 0x0C src e s →
    ((chanAt (begun src e s) (chOf s src e)).rings.holds.filter (fun h => h.1 == bits e.a0 11 0)).length < 65535 →
    Ends (.tokenHold src e) src e s ST_OK [] (modRings (begun src e s) (chOf s src e) (fun g => { g with
      holds := g.holds ++ [(bits e.a0 11 0, (cmdOf s src e).pos)] }))) ∧
  (∀ (src : CmdSrc) (e : Entry) (s : State), Taken 0x0C src e s →
    65535 ≤ ((chanAt (begun src e s) (chOf s src e)).rings.holds.filter (fun h => h.1 == bits e.a0 11 0)).length →
    Ends (.tokenHold src e) src e s ST_BAD_COMMAND [] (begun src e s)) ∧
  (∀ (src : CmdSrc) (e : Entry) (s : State), Taken 0x0D src e s → Ends (.nop src e) src e s ST_OK [] (begun src e s)) ∧
  (∀ (src : CmdSrc) (e : Entry) (s : State), cmdReady s src e = true → cmdSpec e.opcode = none →
    Ends (.unknownOpcode src e) src e s ST_BAD_COMMAND [] (begun src e s))

namespace Sys2Proof.Claim

/-- A placement command joined to those that wait, and started at once, with the object's entry as its start leaves it (R222, R236). -/
def joined (s : State) (oi : Nat) (o : Obj) (m : MigCmd) : State := { setObj s oi (bumpVersion o) with migs := s.migs ++ [m] }

/-- The command of a channel and count starts as soon as it stands in the list: every other one has started, and none of them names
its object. -/
def OnlyMove (s : State) (c pos oi : Nat) : Prop := ∀ m ∈ s.migs, m.started = true ∧ m.obj ≠ oi ∧ isMig c pos m = false

end Sys2Proof.Claim

/-- Objects. R235: OBJ_CREATE answers with the new object's index and base address, or with the status of the first thing that is
short. OBJ_FREE frees the frames, the records and the entry (R234); OBJ_SET_MODE changes MODE and the version (R223); OBJ_SHARE and
OBJ_UNSHARE put an object in a group or take it out, and a channel into its members or out of them (R230, R540); OBJ_QUERY answers
with the entry and, of a granule, its record (R539). -/
def Obligations.ObjectsArePlacedSharedAndFreed : Prop :=
  (∀ (src : CmdSrc) (e : Entry) (s : State), Taken 0x10 src e s → e.a0.toNat % 65536 = 0 → 0 < e.a0.toNat → e.a0.toNat ≤ 2 ^ 36 →
    e.a1.toNat ≤ e.a0.toNat → bits e.a2 1 0 < 2 → bits e.a2 3 2 = 1 ∨ bits e.a2 3 2 = 2 → (bit e.a2 8 = false → bits e.a2 16 9 = 0) →
    (bit e.a2 8 = true → (smGet (fun _ => ({} : KeySlot)) s.boot.keys (bits e.a2 16 9)).filled = true ∧
      (smGet (fun _ => ({} : KeySlot)) s.boot.keys (bits e.a2 16 9)).owner = handleOf (begun src e s) (chOf s src e)) →
    (match createObj (begun src e s) (chOf s src e) {
        size := e.a0.toNat, dataBytes := e.a1.toNat, mode := bits e.a2 1 0,
        tier := bits e.a2 3 2, loc := bit e.a2 4, field := bits e.a2 6 5, compress := bit e.a2 7, enc := bit e.a2 8,
        keySlot := bits e.a2 16 9 } with
     | .ok (oi, da, t) => Ends (.objCreate src e) src e s ST_OK [word oi, word da] (zeroEnc oi t)
     | .error st => Ends (.objCreate src e) src e s st [] (begun src e s))) ∧
  (∀ (src : CmdSrc) (e : Entry) (s b : State) (oi : Nat), Taken 0x11 src e s → b = begun src e s → oi = bits e.a0 16 0 →
    ownsObj (chOf s src e) (objAt b oi) = true → isArray b oi = false → objBusy b oi = false →
    (∀ p ∈ b.cxl.regions, p.2.valid = true → p.2.obj ≠ oi) →
    Goes (.objFree src e) s (fun t => ∃ u, t = answer (cmdOf s src e) ST_OK [] u ∧ objAt u oi = {})) ∧
  (∀ (src : CmdSrc) (e : Entry) (s b : State) (oi : Nat), Taken 0x12 src e s → b = begun src e s → oi = bits e.a0 16 0 →
    ownsObj (chOf s src e) (objAt b oi) = true → isArray b oi = false → ((objAt b oi).shared = true → bits e.a0 18 17 = 1) →
    modeOk (bits e.a0 18 17) (objAt b oi).replTier = true → (bits e.a0 18 17 = 2 ∨ (objAt b oi).dirtyCount = 0) →
    (∀ p ∈ b.cxl.regions, p.2.valid = true → p.2.obj = oi → p.2.wr = false) →
    Ends (.objSetMode src e) src e s ST_OK [] (setObj b oi { objAt b oi with
      mode := bits e.a0 18 17, version := min (2 ^ 32 - 1) ((objAt b oi).version + 1) })) ∧
  (∀ (src : CmdSrc) (e : Entry) (s b : State) (oi g : Nat), Taken 0x13 src e s → b = begun src e s → oi = bits e.a0 16 0 →
    g = bits e.a0 26 17 → ownsObj (chOf s src e) (objAt b oi) = true → (∀ h, (shareAt b g).holder = some h → h = chOf s src e) →
    bit e.a0 27 = false → (objAt b oi).mode = 1 → (objAt b oi).shared = false →
    Ends (.objShare src e) src e s ST_OK [] (setObj (modShare b g (fun r => { r with holder := some (chOf s src e) })) oi
      { objAt b oi with shared := true, group := g, version := min (2 ^ 32 - 1) ((objAt b oi).version + 1) })) ∧
  (∀ (src : CmdSrc) (e : Entry) (s b : State) (oi g h : Nat), Taken 0x13 src e s → b = begun src e s → oi = bits e.a0 16 0 →
    g = bits e.a0 26 17 → ownsObj (chOf s src e) (objAt b oi) = true → (∀ h, (shareAt b g).holder = some h → h = chOf s src e) →
    bit e.a0 27 = true → (objAt b oi).shared = true → (objAt b oi).group = g → h = bits e.a1 31 0 % 4096 →
    (chanAt b h).live = true → handleOf b h = bits e.a1 31 0 → (chanAt b h).destroying = false →
    Goes (.objShare src e) s (fun t => ∃ u, t = answer (cmdOf s src e) ST_OK [] u ∧ u.objs = b.objs ∧
      (∀ k, k ∈ (shareAt u g).members ↔ k = h ∨ k ∈ (shareAt b g).members) ∧ (∀ k, k ≠ g → shareAt u k = shareAt b k))) ∧
  (∀ (src : CmdSrc) (e : Entry) (s b : State) (oi g : Nat), Taken 0x14 src e s → b = begun src e s → oi = bits e.a0 16 0 →
    g = bits e.a0 26 17 → ownsObj (chOf s src e) (objAt b oi) = true → (objAt b oi).shared = true → (objAt b oi).group = g →
    (∀ h, (shareAt b g).holder = some h → h = chOf s src e) → bit e.a0 27 = false →
    Goes (.objUnshare src e) s (fun t => ∃ u, t = answer (cmdOf s src e) ST_OK [] u ∧ objAt u oi =
      { objAt b oi with shared := false, version := min (2 ^ 32 - 1) ((objAt b oi).version + 1) })) ∧
  (∀ (src : CmdSrc) (e : Entry) (s b : State) (o : Obj), Taken 0x15 src e s → b = begun src e s → o = objAt b (bits e.a0 16 0) →
    mayRead b (chOf s src e) o = true → bit e.a0 17 = false →
    Ends (.objQuery src e) src e s ST_OK [objWord o, word o.baseDa, word o.size, word o.dataBytes, word (put o.version 31 0)] b) ∧
  (∀ (src : CmdSrc) (e : Entry) (s b : State) (o : Obj), Taken 0x15 src e s → b = begun src e s → o = objAt b (bits e.a0 16 0) →
    mayRead b (chOf s src e) o = true → bit e.a0 17 = true → e.a1.toNat < objGranules o →
    Ends (.objQuery src e) src e s ST_OK [objWord o, word o.baseDa, word o.size, granWord (granAt b o e.a1.toNat),
      word (put o.version 31 0 + put (granBits (granAt b o e.a1.toNat)) 38 32)] b)

/-- Moves of granules begin (R235, R236). A placement command takes its place behind those that name its object. With none before it, a
replicate or a migrate within its quota takes its target frames, marks the object MIGRATING and has a frame for each granule it acts
on; a flush takes the granules that are dirty and a replica drop those with a replica. A channel that may not act on the object gets ST_NO_ACCESS. -/
def Obligations.MovesOfGranulesBegin : Prop :=
  (∀ (src : CmdSrc) (e : Entry) (s b s1 : State) (oi : Nat) (o : Obj) (gs fs : List Nat), Taken 0x16 src e s → b = begun src e s →
    oi = bits e.a0 16 0 → o = objAt b oi → ownsObj (chOf s src e) o = true → bits e.a0 18 17 = 1 ∨ bits e.a0 18 17 = 2 →
    rangeOk o e.a1.toNat e.a2.toNat = true → isArray b oi = false → modeOk o.mode (bits e.a0 18 17) = true →
    gs = migGranules b o 2 e.a1.toNat e.a2.toNat → quotaOk b (chOf s src e) (bits e.a0 18 17) gs.length = true →
    OnlyMove b (chOf s src e) (cmdOf s src e).pos oi → allocFrames b (bits e.a0 18 17) (bits e.a0 21 20) (bit e.a0 19) gs.length = some (fs, s1) →
    exec (.objReplicate src e) s = .next (migPump 63 (joined (modUsed s1 (chOf s src e) (bits e.a0 18 17) (· + gs.length)) oi
      { o with migrating := true, replTier := bits e.a0 18 17, replLocal := bit e.a0 19, replField := bits e.a0 21 20 }
      {
          ch := chOf s src e, pos := (cmdOf s src e).pos, obj := oi, kind := 2, first := e.a1.toNat, count := e.a2.toNat, started := true, todo := gs.zip fs,
          targetTier := bits e.a0 18 17, targetLocal := bit e.a0 19, targetField := bits e.a0 21 20,
          whole := e.a1.toNat == 0 && e.a2.toNat == objGranules o }))) ∧
  (∀ (src : CmdSrc) (e : Entry) (s b : State) (oi : Nat) (o : Obj), Taken 0x17 src e s → b = begun src e s →
    oi = bits e.a0 16 0 → o = objAt b oi → ownsObj (chOf s src e) o = true → quotaOk b (chOf s src e) 1 0 = true → OnlyMove b (chOf s src e) (cmdOf s src e).pos oi →
    exec (.objReplicaDrop src e) s = .next (migPump 63 (joined (modUsed b (chOf s src e) 1 id) oi
      { o with migrating := true }
      {
          ch := chOf s src e, pos := (cmdOf s src e).pos, obj := oi, kind := 4, count := objGranules o, started := true,
          todo := (migGranules b o 4 0 (objGranules o)).map (·, 0), targetTier := 1, whole := true }))) ∧
  (∀ (src : CmdSrc) (e : Entry) (s b : State) (oi : Nat) (o : Obj), Taken 0x18 src e s → b = begun src e s →
    oi = bits e.a0 16 0 → o = objAt b oi → ownsObj (chOf s src e) o = true → rangeOk o e.a1.toNat e.a2.toNat = true →
    quotaOk b (chOf s src e) 1 0 = true → OnlyMove b (chOf s src e) (cmdOf s src e).pos oi →
    exec (.objFlush src e) s = .next (migPump 63 (joined (modUsed b (chOf s src e) 1 id) oi
      { o with migrating := true }
      {
          ch := chOf s src e, pos := (cmdOf s src e).pos, obj := oi, kind := 3, first := e.a1.toNat, count := e.a2.toNat, started := true,
          todo := (migGranules b o 3 e.a1.toNat e.a2.toNat).map (·, 0), targetTier := 1,
          whole := e.a1.toNat == 0 && e.a2.toNat == objGranules o }))) ∧
  (∀ (src : CmdSrc) (e : Entry) (s b s1 : State) (oi k : Nat) (o : Obj) (gs fs : List Nat), Taken 0x19 src e s → b = begun src e s →
    oi = bits e.a0 16 0 → o = objAt b oi → ownsObj (chOf s src e) o = true → bits e.a0 19 18 = 1 ∨ bits e.a0 19 18 = 2 →
    k = (if bit e.a0 17 then 1 else 0) → rangeOk o e.a1.toNat e.a2.toNat = true → isArray b oi = false →
    (k = 1 → modeOk o.mode (bits e.a0 19 18) = true) → gs = migGranules b o k e.a1.toNat e.a2.toNat →
    quotaOk b (chOf s src e) (bits e.a0 19 18) gs.length = true →
    OnlyMove b (chOf s src e) (cmdOf s src e).pos oi → allocFrames b (bits e.a0 19 18) (bits e.a0 22 21) (bit e.a0 20) gs.length = some (fs, s1) →
    exec (.objMigrate src e) s = .next (migPump 63 (joined (modUsed s1 (chOf s src e) (bits e.a0 19 18) (· + gs.length)) oi
      { o with migrating := true }
      {
          ch := chOf s src e, pos := (cmdOf s src e).pos, obj := oi, kind := k, first := e.a1.toNat, count := e.a2.toNat, started := true, todo := gs.zip fs,
          targetTier := bits e.a0 19 18, targetLocal := bit e.a0 20, targetField := bits e.a0 22 21,
          whole := e.a1.toNat == 0 && e.a2.toNat == objGranules o }))) ∧
  (∀ (src : CmdSrc) (e : Entry) (s b : State) (oi : Nat) (o : Obj) (x : MigCmd), Taken 0x18 src e s → b = begun src e s →
    oi = bits e.a0 16 0 → o = objAt b oi → ownsObj (chOf s src e) o = true → rangeOk o e.a1.toNat e.a2.toNat = true →
    x ∈ b.migs → x.obj = oi → (∀ m ∈ b.migs, isMig (chOf s src e) (cmdOf s src e).pos m = false) → (∀ m ∈ b.migs, m.started = true ∨ migFirst b m = false) → 8 ≤ migInflight b →
    (∀ m ∈ b.migs, m.todo = [] → m.moves = [] → migFirst b m = false) →
    exec (.objFlush src e) s = .next { b with migs := b.migs ++ [{
      ch := chOf s src e, pos := (cmdOf s src e).pos, obj := oi, kind := 3, first := e.a1.toNat, count := e.a2.toNat, targetTier := 1,
      whole := e.a1.toNat == 0 && e.a2.toNat == objGranules o }] }) ∧
  (∀ (i : Instr) (op : Nat) (src : CmdSrc) (e : Entry) (s : State),
    (i, op) ∈ [(.objFree src e, 0x11), (.objReplicate src e, 0x16), (.objReplicaDrop src e, 0x17), (.objFlush src e, 0x18),
      (.objMigrate src e, 0x19)] →
    Taken op src e s → ownsObj (chOf s src e) (objAt (begun src e s) (bits e.a0 16 0)) = false →
    Ends i src e s ST_NO_ACCESS [] (begun src e s))

/-- The procedure of a move (R237 to R239), and the host's CXL.mem accesses (R372). A requester acknowledges an invalidation when it
has dropped the record and none of its writes to the granule is outstanding; with every acknowledgement in, the copy is made
as soon as its homes take it, and the record stays as it was; the new record names the target, clears BUSY, and the second invalidation goes out; the source frame is then
freed. A hold that lasts too long abandons the move. A read answers with the line's bytes; a write to a granule that moves is held. -/
def Obligations.GranulesMoveStepByStep : Prop :=
  (∀ (o g w : Nat) (m : MigCmd) (v : Move) (s : State), moveOf s o g = some (m, v) → w ∈ v.waiting → sentTo s w o g (v.phase == 0) = false →
    Goes (.migrateInvalidate o g w) s (fun t =>
      t.migs = s.migs.map (fun m => { m with moves := m.moves.map (fun v =>
        if v.obj == o && v.granule == g then { v with waiting := v.waiting.filter (· != w) } else v) }) ∧
      (objAt s o).mapIndex + g ∉ smGet (fun _ => []) t.xlat w ∧ t = { s with xlat := t.xlat, migs := t.migs })) ∧
  (∀ (o g : Nat) (m : MigCmd) (v : Move) (s : State), moveOf s o g = some (m, v) → v.phase = 0 → v.waiting = [] →
    Goes (.migrateCopyStart o g) s (fun t => t.grans = s.grans ∧ t.objs = s.objs ∧ t.used = s.used ∧ t.xlat = s.xlat)) ∧
  (∀ (o g : Nat) (m : MigCmd) (v : Move) (s : State), moveOf s o g = some (m, v) → v.phase = 0 → v.waiting = [] →
    (∀ h, engineOf s h = []) → (∀ h, pendingParts s h = []) → (∀ i, (stackAt s i).slow = []) → (∀ d, (deepAt s d).slow = []) →
    exec (.migrateCopyStart o g) s = .next (copyGranule m v [] s)) ∧
  (∀ (o g : Nat) (m : MigCmd) (v : Move) (s : State), moveOf s o g = some (m, v) → v.phase = 1 →
    Goes (.migrateRecordWrite o g) s (fun t => ∃ x y z u n, t = copyPump { u with migs := n } ∧
      x = setGran (noticeAll (objAt s o) (g * 65536) 65536 s) (objAt s o) g (movedRecord m v (granAt s (objAt s o) g)) ∧
      y = modObj x o (fun x => bumpVersion { x with
        dirtyCount := if (granAt s (objAt s o) g).dirty ∧ !(movedRecord m v (granAt s (objAt s o) g)).dirty
          then x.dirtyCount - 1 else x.dirtyCount,
        replCount := if (movedRecord m v (granAt s (objAt s o) g)).replValid ∧ !(granAt s (objAt s o) g).replValid
            then x.replCount + 1
          else if (granAt s (objAt s o) g).replValid ∧ !(movedRecord m v (granAt s (objAt s o) g)).replValid
            then x.replCount - 1 else x.replCount }) ∧
      z = (if (granAt s (objAt s o) g).dirty ∧ !(movedRecord m v (granAt s (objAt s o) g)).dirty
        then cntInc .plc Reg.PLC_CNT_FLUSH_GRANULES y else y) ∧
      u = releaseHeld o z ∧
      n = u.migs.map (fun m => { m with moves := m.moves.map (fun x => if x.obj == o && x.granule == g then
        { x with
          phase := 2, waiting := List.range 148,
          target := if x.kind = 0 then (granAt s (objAt s o) g).home else if x.kind = 1 ∨ x.kind = 4 then (granAt s (objAt s o) g).repl
            else x.target,
          targetTier := if x.kind = 0 then (granAt s (objAt s o) g).homeTier
            else if x.kind = 1 ∨ x.kind = 4 then (granAt s (objAt s o) g).replTier else x.targetTier } else x) }))) ∧
  (∀ (o g : Nat) (m : MigCmd) (v : Move) (s : State), moveOf s o g = some (m, v) → v.phase = 2 → v.waiting = [] → v.kind = 0 →
    exec (.migrateFreeSource o g) s = .next (migPump 64 (modMig (cntInc .plc Reg.PLC_CNT_MIG_GRANULES
      (modUsed (freeFrame s v.targetTier v.target) m.ch v.targetTier (· - 1))) m.ch m.pos
      (fun m => { m with moves := m.moves.filter (fun v => v.granule != g) })))) ∧
  (∀ (o g : Nat) (m : MigCmd) (v : Move) (s : State), moveOf s o g = some (m, v) → v.phase < 2 →
    exec (.migrateHoldTimeout o g) s = .next (copyPump (abandonMove m v s))) ∧
  (∀ (o g f : Nat) (m : MigCmd) (v : Move) (s u : State), moveOf s o g = some (m, v) → v.phase = 3 → migInflight s < 8 → v.kind ≤ 2 →
    quotaOk s m.ch m.targetTier 1 = true → allocFrames s m.targetTier m.targetField m.targetLocal 1 = some ([f], u) →
    exec (.migrateRetry o g) s = .next (startMove m g f v.aborts (modUsed u m.ch m.targetTier (· + 1)))) ∧
  (∀ (t o g : Nat) (s : State), t < 148 → (objAt s o).valid = true → g < objGranules (objAt s o) →
    homeDown s (recordStack ((objAt s o).mapIndex + g)) = false →
    (objAt s o).mapIndex + g ∉ smGet (fun _ => []) s.xlat t →
    Goes (.xlatMissFill t o g) s (fun u => smGet (fun _ => []) u.xlat t =
        (((objAt s o).mapIndex + g) :: smGet (fun _ => []) s.xlat t).take 64 ∧
      (∀ r, r ≠ t → smGet (fun _ => []) u.xlat r = smGet (fun _ => []) s.xlat r))) ∧
  (∀ (h da oi : Nat) (o : Obj) (s : State), cxlMemOpen s = true → hdmAddr s (h / 64 * 64) = some da → memRefuse s da false = none →
    objOfDa s da = some (oi, o) → GoNow s 19 none 141 [{ obj := oi, off := da - o.baseDa, n := 64 }] →
    Goes (.cxlMemRead h) s (fun t => ∃ a r, a = { req := 141, dead := silent s 19 none [{ obj := oi, off := da - o.baseDa, n := 64 }] } ∧
      r = objRead a oi (da - o.baseDa) 64 (admitted s 19 none [{ obj := oi, off := da - o.baseDa, n := 64 }]) ∧
      t.cxl.memOut = r.1.cxl.memOut ++ [if r.2.2 = 0 then some r.2.1 else none])) ∧
  (∀ (h da oi : Nat) (o : Obj) (data : List (Nat × Byte)) (s : State), cxlMemOpen s = true → (∀ b ∈ data, b.1 < 64) →
    hdmAddr s (h / 64 * 64) = some da → memRefuse s da true = none → objOfDa s da = some (oi, o) →
    (granAt s o ((da - o.baseDa) / 65536)).busy = true → s.cxl.held.length < 64 →
    exec (.cxlMemWrite h data) s = .next (cntInc .plc Reg.PLC_CNT_HELD_WRITES
      (modCxl s (fun x => { x with held := x.held ++ [{ obj := oi, offset := da - o.baseDa, data := data }] })))) ∧
  (∀ (h da oi : Nat) (o : Obj) (data : List (Nat × Byte)) (s : State), cxlMemOpen s = true → (∀ b ∈ data, b.1 < 64) →
    hdmAddr s (h / 64 * 64) = some da → memRefuse s da true = none → objOfDa s da = some (oi, o) →
    (granAt s o ((da - o.baseDa) / 65536)).busy = false → s.cxl.held.length < 64 → data.length = 64 →
    GoNow s 19 none 141 [{ write := true, obj := oi, off := da - o.baseDa, n := 64 }] →
    exec (.cxlMemWrite h data) s = .next (objStore
      { engine := false, req := 141, dead := silent s 19 none [{ write := true, obj := oi, off := da - o.baseDa, n := 64 }] } oi
      (da - o.baseDa) ((List.range 64).map (fun i => ((data.find? (fun b => b.1 == i)).map (·.2)).getD 0))
      (cntInc .cxp Reg.CXP_CNT_MEM_WR (admitted s 19 none [{ write := true, obj := oi, off := da - o.baseDa, n := 64 }]))))

/-- Copies and regions. R376 to R378: a copy that passes its checks is queued at the engine it names, or at the one of its direction
with the fewest bytes queued, and one that fails them completes at once. R377: an engine with fewer than 4 copies in flight starts the
next by round-robin over the channels; the copy it started first completes once all its data is visible, with the bytes moved. R385,
R386: REGION_REGISTER takes the lowest free entry, and REGION_RELEASE ends it. R374: data of a host read that no one waits for changes
nothing, and a host write is outstanding until its GO, which its vector follows. -/
def Obligations.CopiesAndRegionsAreServed : Prop :=
  (∀ (i : Instr) (op base : Nat) (d2h : Bool) (src : CmdSrc) (e : Entry) (s : State) (n : Nat),
    (i, op, d2h, base) ∈ [(.copyH2d src e, 0x21, false, 0), (.copyD2h src e, 0x22, true, 6)] → Taken op src e s →
    copyOpen s (chOf s src e) = true → n = copyEngine s (bits e.a1 19 17) base → (s.cxl.engines.getD n {}).queue.length < 256 →
    copyCheck (begun src e s) (copyOf (cmdOf s src e) d2h) (bits e.a1 19 17) d2h = none →
    exec i s = .next (modCxl (begun src e s) (fun v => { v with engines := v.engines.modify n (fun g => { g with queue := g.queue ++ [{
        ch := chOf s src e, pos := some (cmdOf s src e).pos, host := e.a0.toNat, obj := bits e.a1 16 0, offset := e.a2.toNat,
        len := e.a3.toNat, husk := bit e.a1 20, capacity := if d2h then e.a4.toNat else 0 }] }) }))) ∧
  (∀ (n c : Nat) (y : Copy) (s : State), n < 12 → (s.cxl.engines.getD n {}).inflight.length < 4 → hostOpen s = true →
    nextCopyChan s (s.cxl.engines.getD n {}) = some c → (s.cxl.engines.getD n {}).queue.find? (fun y => y.ch == c) = some y →
    exec (.copyEngineStart n) s = .next (copyPump (modCxl s (fun v => { v with engines := v.engines.modify n (fun g =>
      { g with queue := g.queue.filter (fun z => !(z.ch == c && z.pos == y.pos)), inflight := g.inflight ++ [y], lastCh := c }) })))) ∧
  (∀ (n p : Nat) (y : Copy) (rest : List Copy) (s : State), n < 12 → (s.cxl.engines.getD n {}).inflight = y :: rest → y.ended = true →
    y.reads = 0 → y.writes = 0 → y.pos = some p → y.husk = false →
    exec (.copyComplete n) s = .next (finishRing y.ch p y.status [word y.done]
      (modCxl s (fun v => { v with engines := v.engines.modify n (fun g => { g with inflight := rest }) })))) ∧
  (∀ (src : CmdSrc) (e : Entry) (s b : State) (r : Nat) (o : Obj), Taken 0x23 src e s → b = begun src e s → o = objAt b (bits e.a0 16 0) →
    e.a1.toNat % 4096 = 0 → bits e.a2 31 0 % 4096 = 0 → 0 < bits e.a2 31 0 → bits e.a2 31 0 ≤ 2 ^ 30 →
    lowestGap 1 1024 0 (b.cxl.regions.map (fun p => (p.1, 1))) = some r → ownsObj (chOf s src e) o = true →
    e.a1.toNat + bits e.a2 31 0 ≤ o.size → (bit e.a0 18 = true → mayWrite (chOf s src e) o = true) → o.enc = false →
    Ends (.regionRegister src e) src e s ST_OK [word r] (modCxl b (fun v => { v with
      regions := smInsert r {
        valid := true, rd := bit e.a0 17, wr := bit e.a0 18, pasidReq := bit e.a0 19, ch := chOf s src e, obj := bits e.a0 16 0,
        offset := e.a1.toNat, len := bits e.a2 31 0, reqId := bits e.a3 15 0, reqMask := bits e.a3 31 16, pasid := bits e.a3 51 32 }
        v.regions }))) ∧
  (∀ (src : CmdSrc) (e : Entry) (s : State) (g : Region), Taken 0x24 src e s →
    g = smGet (fun _ => ({} : Region)) s.cxl.regions (bits e.a0 9 0) → g.valid = true → g.ch = chOf s src e →
    (∀ h ∈ s.cxl.held, h.req.isSome = true → h.obj ≠ g.obj) →
    Ends (.regionRelease src e) src e s ST_OK [] (modCxl (begun src e s) (fun v => { v with
      regions := smErase (bits e.a0 9 0) v.regions }))) ∧
  (∀ (id : Nat) (data : List Byte) (r : HostRead) (s : State),
    s.cxl.reads.find? (fun r => r.id == id && r.len == data.length) = some r → r.who = 1 →
    exec (.hostReadReturn id data) s = .next (copyData r.unit r.pos data (modCxl s (fun x => { x with
      reads := x.reads.filter (fun q => q.id != id) })))) ∧
  (∀ (id : Nat) (w : HostWrite) (s : State), s.cxl.writes.find? (fun w => w.id == id) = some w → w.who = 0 → s.boot.stage ≠ 4 →
    s.cxl.attach = 0 →
    exec (.hostWriteGo id) s = .next (modCxl s (fun x => { x with
      writes := x.writes.filter (fun q => q.id != id),
      msix := x.msix ++ w.msi.toList })))

namespace Sys2Proof.Claim

/-- Of the machine only tiller t has changed. -/
def OnlyTiller (t : Nat) (s v : State) : Prop := (∀ r, r ≠ t → tillerAt v r = tillerAt s r) ∧ v = { s with tillers := v.tillers }

/-- Of the machine only tiller t has changed, and counts with the interrupt of their saturation. -/
def OnlyTillerAndCounts (t : Nat) (s v : State) : Prop :=
  (∀ r, r ≠ t → tillerAt v r = tillerAt s r) ∧ v = { s with tillers := v.tillers, regs := v.regs, cxl := v.cxl }

/-- A word of the scalar form stands at the program counter and can issue: it has the opcode, its RSV bits and COND are zero, and
no queued reduction has still to write a register that it names. -/
abbrev Issues (op : Nat) (reads : Word → List Nat) (t : Nat) (w : Word) (s : State) : Prop :=
  t < 128 ∧ canIssue s t w = true ∧ bits w 7 0 = op ∧ bits w 31 26 = 0 ∧ bits w 25 23 = 0 ∧
  ∀ r ∈ reads w, r ∉ pendingRegs (tillerAt s t)

/-- The word after the program counter of a tiller lies in its program. -/
abbrev NextInProgram (u : Tiller) : Prop :=
  (curCtx u).pc + 1 < (curCfg u).stage.progWords ∧ (curCfg u).stage.progWords ≤ 16384

/-- The running context of a tiller at the next word. -/
def atNext (u : Tiller) : Tiller := setCtx u { curCtx u with pc := (curCtx u).pc + 1, wait := 0 }

/-- An instruction of tiller t completes: it changes the tiller as f says and goes to the next word; nothing else changes but counts. -/
def Completes (i : Instr) (t : Nat) (s : State) (f : Tiller → Tiller) : Prop :=
  Goes i s (fun v => tillerAt v t = atNext (f (tillerAt s t)) ∧ OnlyTillerAndCounts t s v)

/-- An instruction of tiller t waits with a code of Table 4.11: only WAIT changes. -/
def Waits (i : Instr) (t code : Nat) (s : State) : Prop := exec i s = .next (waitAt t code s)

/-- A scalar register of the running context written. -/
def withSreg (n : Nat) (v : Word) (u : Tiller) : Tiller := setCtx u { curCtx u with sregs := setSregs (curCtx u).sregs n v }

end Sys2Proof.Claim

/-- Layers are loaded and swapped. R31, R42: a sound graph that the channel may load goes into the shadows of its tillers; one that
Table 2.6 rejects completes ST_GRAPH_INVALID. R44, R45: GO swaps the layer when every stage has sent END, if the deferred queue has
room (R309), else the swap is held; a shadow whose program was late is complete, and a tiller at which GO was raised then swaps.
R48, R51: the next wave of stages is admitted unless admission is paused. R98: a context switch waits for idle engines and takes the
other context. -/
def Obligations.LayersAreLoadedAndSwapped : Prop :=
  (∀ (src : CmdSrc) (e : Entry) (late : List Nat) (s b : State) (bs : List Byte) (ps : List (List Word)), Taken 0x20 src e s →
    b = begun src e s → readGraph s (chOf s src e) (bits e.a0 16 0) e.a1.toNat = (bs, ST_OK) → graphOk bs = true →
    graphWaits s (chOf s src e) (graphOf bs) = false →
    graphRefusal b (chOf s src e) (stepAt b (chOf s src e) (cmdOf s src e).pos) (graphOf bs) = none →
    readPrograms b (chOf s src e) (graphOf bs).stages = .ok ps →
    exec (.stageLoad src e late) s = .next (loadGraph (cmdOf s src e) (graphOf bs) ps late b)) ∧
  (∀ (src : CmdSrc) (e : Entry) (late : List Nat) (s : State) (bs : List Byte), Taken 0x20 src e s →
    readGraph s (chOf s src e) (bits e.a0 16 0) e.a1.toNat = (bs, ST_OK) → graphOk bs = false →
    Ends (.stageLoad src e late) src e s ST_GRAPH_INVALID [] (rejectGraph bs (begun src e s))) ∧
  (∀ (c : Nat) (s : State), c < 4096 → layerDrained s c = true →
    exec (.layerBarrierGo c) s = .next (if deferRoom (chanAt s c) then swapLayer c s else modChan s c (fun k => { k with goHeld := true }))) ∧
  (∀ (c : Nat) (s : State), c < 4096 → (chanAt s c).goHeld = true → deferRoom (chanAt s c) = true →
    exec (.deferredSwapResume c) s = .next (swapLayer c s)) ∧
  (∀ (t : Nat) (s : State), t < 128 → (tillerAt s t).shadow.valid = true → (tillerAt s t).shadow.complete = false →
    quadFenced s t = false → (tillerAt s t).goWait = false →
    Goes (.lateSwap t) s (fun v => OnlyTiller t s v ∧
      tillerAt v t = { tillerAt s t with shadow := { (tillerAt s t).shadow with complete := true } })) ∧
  (∀ (t c : Nat) (s : State), t < 128 → (tillerAt s t).shadow.valid = true → (tillerAt s t).shadow.complete = false →
    quadFenced s t = false → (tillerAt s t).goWait = true → c = (tillerAt s t).shadow.chan →
    exec (.lateSwap t) s = .next (failMarks c (loadsDone c (setStateField t (modTiller
      (swapTiller t (modTiller s t (fun u => { u with shadow := { u.shadow with complete := true } }))) t
      (fun u => { u with admitted := (chanAt s c).waves.all (fun w => !w.contains t) })))))) ∧
  (∀ (c : Nat) (w : List Nat) (rest : List (List Nat)) (s : State), c < 4096 → (chanAt s c).waves = w :: rest →
    s.power.admitPaused = false →
    exec (.admitWaveOpen c) s = .next (w.foldl (fun s t => if (tillerAt s t).goWait then s
      else setStateField t (modTiller s t (fun u => { u with admitted := true }))) (modChan s c (fun k => { k with waves := rest })))) ∧
  (∀ (c : Nat) (s : State), c < 4096 → s.power.admitPaused = true → exec (.admitWaveOpen c) s = .next s) ∧
  (∀ (t : Nat) (s : State) (u : Tiller), t < 128 → u = tillerAt s t → arrayIdle u = true → u.vq = [] → u.send = none →
    quadFenced s t = false → u.switching = true →
    Goes (.contextSwitch t) s (fun v => OnlyTiller t s v ∧ tillerAt v t =
      { u with cur := 1 - u.cur, switching := false, st := stateOf { u with cur := 1 - u.cur, switching := false } }))

/-- Tiles travel. R36: SEND puts a copy of the tile on its way to every consumer with a credit, and completes when none is left
over; a tile that arrives takes a free slot of its producer's queue; a credit that comes back is held again; RELIN frees the slot and
returns its credit. R37: END follows its producer's tiles; WAITIN gives the lowest tile present, or all-ones when every producer has
ended. R39: WAITW gives the next weight tile in the order of filling, RELW releases it, and a relay tile goes on to a free slot of the
next member of its stage; held for want of one it raises RELAY_STALL (R41). -/
def Obligations.TilesTravel : Prop :=
  (∀ (t a n : Nat) (w b : Word) (s : State) (g : Cfg) (e : Edge) (es : List Edge), Issues 0x65 regsAB t w s → g = curCfg (tillerAt s t) →
    (outEdges g).filter (fun e => e.srcPort == bits (iImm w) 1 0) = e :: es → (∀ x ∈ e :: es, x.dstStage ≠ 255) →
    a = bits (sreg (tillerAt s t) (iSA w)) 22 0 → b = sreg (tillerAt s t) (iSB w) → n = tileSize e.fmt → inRegions g.stage a n = true →
    readHazard (tillerAt s t) [(a, a + n)] = false →
    exec (.send t w) s = .next (sendCopies t {
        port := bits (iImm w) 1 0, mb := bits b 15 0, rb := bits b 33 16, cb := bits b 51 34,
        scale := tileByte e.fmt (bits b 63 56), data := (tsRead t a n s).1,
        targets := targetsOf g (bits (iImm w) 1 0) (bits b 33 16) (bits b 51 34) } (tsRead t a n s).2)) ∧
  (∀ (dst src port who i : Nat) (f : Flight) (q : Slot) (s : State), dst < 128 → s.flights.find? (isFlight 0 dst src port) = some f →
    takerOf (tillerAt s dst) f.ch f.tag = some who →
    (cfgBy (tillerAt s dst) who).inSlots.zipIdx.find? (fun p =>
      p.1.st == 0 && p.1.port == port && p.1.producer == src && p.1.stage == f.stage) = some (q, i) →
    quadFenced s dst = false → writeHazard (tillerAt s dst) [(q.addr, q.addr + q.size)] = false →
    exec (.streamTileArrive dst src port) s = .next (modCfgBy who dst (fun g => { g with
        inSlots := (cfgBy (tillerAt s dst) who).inSlots.set i { q with st := 2, mb := f.mb, rb := f.rb, cb := f.cb, scale := f.scale } })
      (tsWrite dst q.addr f.data { s with flights := removeFirst (isFlight 0 dst src port) s.flights }))) ∧
  (∀ (dst src port who : Nat) (f : Flight) (s : State), dst < 128 → s.flights.find? (isFlight 1 dst src port) = some f →
    (∀ x ∈ s.flights, isFlight 0 dst src port x = true → x.stage ≠ f.stage) → quadFenced s dst = false →
    takerOf (tillerAt s dst) f.ch f.tag = some who →
    exec (.streamEndArrive dst src port) s = .next (modCfgBy who dst (fun g => { g with ends := g.ends ++ [(port, src, f.stage)] })
      { s with flights := removeFirst (isFlight 1 dst src port) s.flights })) ∧
  (∀ (dst src port who : Nat) (f : Flight) (s : State), dst < 128 → s.flights.find? (isFlight 2 dst src port) = some f →
    quadFenced s dst = false → whoOf (tillerAt s dst) f.ch f.tag f.stage = some who → (tillerAt s dst).send = none →
    exec (.streamCreditReturn dst src port) s = .next (modCfgBy who dst (giveCredit (src, port))
      { s with flights := removeFirst (isFlight 2 dst src port) s.flights })) ∧
  (∀ (t : Nat) (w : Word) (s : State) (g : Cfg) (e : Edge), Issues 0x66 regsDAB t w s → g = curCfg (tillerAt s t) →
    NextInProgram (tillerAt s t) → (inEdges g).find? (fun e => e.dstPort == bits (iImm w) 1 0) = some e →
    ((producersOf g (bits (iImm w) 1 0)).map (fun p => (p.1, p.2.srcStage))).all (producerReady g (bits (iImm w) 1 0)) = true →
    lowestTile g (bits (iImm w) 1 0) = none →
    Completes (.waitin t w) t s (withSreg (iSD w) (word (2 ^ 64 - 1)))) ∧
  (∀ (t i : Nat) (w : Word) (s : State) (g : Cfg) (e : Edge) (q : Slot), Issues 0x66 regsDAB t w s → g = curCfg (tillerAt s t) →
    NextInProgram (tillerAt s t) → (inEdges g).find? (fun e => e.dstPort == bits (iImm w) 1 0) = some e →
    ((producersOf g (bits (iImm w) 1 0)).map (fun p => (p.1, p.2.srcStage))).all (producerReady g (bits (iImm w) 1 0)) = true →
    lowestTile g (bits (iImm w) 1 0) = some (q, i) → q.st ≠ 1 → markOf s g q.mb = none → slotReq (tillerAt s t) (tillerAt s t).cur 4 i = none →
    Completes (.waitin t w) t s (fun u => withSreg (iSD w) (slotWord q e.fmt)
      (setCfg u { curCfg u with inSlots := g.inSlots.set i { q with st := 3 } }))) ∧
  (∀ (t i : Nat) (w : Word) (s : State) (g : Cfg) (q : Slot), Issues 0x67 regsAB t w s → g = curCfg (tillerAt s t) →
    (inEdges g).any (fun e => e.dstPort == bits (iImm w) 1 0) = true →
    g.inSlots.zipIdx.find? (fun p => p.1.port == bits (iImm w) 1 0 && p.1.addr == bits (sreg (tillerAt s t) (iSA w)) 22 0 &&
      decide (2 ≤ p.1.st)) = some (q, i) → q.producer ≠ 255 → slotReq (tillerAt s t) (tillerAt s t).cur 4 i = none →
    exec (.relin t w) s = .next (issued t {
      modCfg t (fun g => { g with inSlots := g.inSlots.set i { q with st := 0 } }) s with
      flights := s.flights ++ [{
        kind := 2, src := t, dst := q.producer, port := bits (iImm w) 1 0, ch := g.chan, tag := g.loadPos, stage := q.stage }] })) ∧
  (∀ (t i : Nat) (w : Word) (s : State) (g : Cfg) (q : Slot), Issues 0x68 regsDAB t w s → g = curCfg (tillerAt s t) →
    NextInProgram (tillerAt s t) → nextWeight g = some (q, i) → q.st ≠ 1 → markOf s g q.mb = none →
    slotReq (tillerAt s t) (tillerAt s t).cur 5 i = none →
    Completes (.waitw t w) t s (fun u => withSreg (iSD w) (slotWord q g.stage.fmtW)
      (setCfg u { curCfg u with wSlots := g.wSlots.modify i (fun q => { q with st := 3 }) }))) ∧
  (∀ (t i : Nat) (w : Word) (s : State) (g : Cfg) (q : Slot), Issues 0x69 regsAB t w s → g = curCfg (tillerAt s t) →
    NextInProgram (tillerAt s t) → slotReq (tillerAt s t) (tillerAt s t).cur 5 i = none →
    g.wSlots.zipIdx.find? (fun p => p.1.addr == bits (sreg (tillerAt s t) (iSA w)) 22 0 && (p.1.st == 2 || p.1.st == 3)) = some (q, i) →
    Completes (.relw t w) t s (fun u => setCfg u { curCfg u with
      wSlots := g.wSlots.set i { q with st := if (nextMember g t).isNone || q.forwarded then 0 else 4 } })) ∧
  (∀ (t who i n k j : Nat) (q f : Slot) (s : State), t < 128 →
    (relaysOf s t).find? (relayOpen s t) = some (who, q, i, n, k, some (f, j)) →
    exec (.relayForward t) s = .next (modCfgBy who t (fun g => { g with
        wSlots := g.wSlots.set i { q with forwarded := true, st := if q.st = 4 then 0 else q.st } })
      (modCfgBy k n (fun g => { g with
        wSlots := g.wSlots.set j {
          f with
          st := 2, mb := q.mb, rb := q.rb, cb := q.cb, scale := q.scale, seq := g.wSeq, forwarded := false },
        wSeq := g.wSeq + 1 })
      (tsWrite n f.addr (tsRaw (tillerAt s t) q.addr (tileSize (cfgBy (tillerAt s t) who).stage.fmtW)) s)))) ∧
  (∀ (t who i n k : Nat) (q : Slot) (s : State), t < 128 → (who, q, i, n, k, none) ∈ relaysOf s t →
    exec (.relayStall t) s = .next (setEv (.tlr t) Reg.TLR_EVENT Bit.TLR_EVENT_RELAY_STALL s))

namespace Sys2Proof.Claim

/-- A prefetch may be issued for a stage of tiller t (R46, R52): the stage fetches this input or its weights from this object, a slot
is free, the stage runs or may fetch early, and the queue, the tracker and the tag limit have room. -/
def PrefetchReady (t who port mb rb cb off oi base fmt : Nat) (slot : Slot) (idx : Nat) (s : State) : Prop :=
  ∃ u g, u = tillerAt s t ∧ g = cfgBy u who ∧ t < 128 ∧ who ≤ 2 ∧ port ≤ 4 ∧
    (if port = 4 then fetchesWeights g t = true ∧ oi = g.stage.weightObj ∧ base = g.stage.weightOffset ∧ fmt = g.stage.fmtW
      else ∃ e, memEdge g port = some e ∧ oi = e.memObj ∧ base = e.memOffset ∧ fmt = e.fmt) ∧
    ((if port = 4 then g.wSlots else g.inSlots).zipIdx.filter (fun p =>
      p.1.st == 0 && (port == 4 || (p.1.port == port && p.1.producer == 255)))).head? = some (slot, idx) ∧
    (if who = 0 then g.valid = true ∧ u.ctxA.ended = false else if who = 1 then g.valid = true ∧ u.ctxD.ended = false
      else g.valid = true ∧ g.complete = true ∧ earlyOk u = true) ∧
    quadFenced s t = false ∧ trackerUsed u < 512 ∧ queued u < 256 ∧
    (u.reqs.filter (fun q => q.who == who && (holdsTag q || !q.sent))).length < limitOf u who ∧
    g.ends.contains (port, 255, 255) = false ∧
    (∀ p, g.pfLast.find? (fun p => p.1 == port) = some p → port = 4 ∨ coordLt p.2 (mb, rb, cb) = true) ∧
    mb < g.stage.microbatches ∧ base + off + tileSize fmt ≤ (objAt s oi).size

end Sys2Proof.Claim

/-- Requests of a tiller. R173 to R179: MREQ queues a checked read of a tile, MWRITE a checked write with its tile's bytes; the
next of the queue takes a tag and its parts are admitted at their homes (R180); a tile lands with its last part and its bytes go to
tile store, the rest +0 (R175, R178); WAITM is the point of consumption (R53, R54); an acknowledged write releases its tag (R189); a
notice makes a tile stale unless its fetch was ordered (R55). R52, R53: a prefetch fills a free slot, or stands at a mark. -/
def Obligations.RequestsReachMemory : Prop :=
  (∀ (t a : Nat) (w : Word) (s v : State) (d : Desc), Issues 0x62 regsAB t w s → a = bits (sreg (tillerAt s t) (iSA w)) 22 0 →
    inRegions (curCfg (tillerAt s t)).stage a 32 = true → readHazard (tillerAt s t) [(a, a + 32)] = false →
    d = descOf (tsRead t a 32 s).1 → dCheck t d false (tsRead t a 32 s).2 = (none, v) → queued (tillerAt s t) < 256 →
    trackerUsed (tillerAt s t) < 512 →
    exec (.mreq t w) s = .next (issued t (enqueue t
      (readReq (tillerAt s t) d (bits (sreg (tillerAt s t) (iSB w)) 15 0) w (objAt s (dObj d))) v))) ∧
  (∀ (t a status : Nat) (w : Word) (s v : State) (d : Desc), Issues 0x62 regsAB t w s → a = bits (sreg (tillerAt s t) (iSA w)) 22 0 →
    inRegions (curCfg (tillerAt s t)).stage a 32 = true → readHazard (tillerAt s t) [(a, a + 32)] = false →
    d = descOf (tsRead t a 32 s).1 → dCheck t d false (tsRead t a 32 s).2 = (some status, v) →
    exec (.mreq t w) s = .next (faultAt t 8 status v)) ∧
  (∀ (t a n : Nat) (w : Word) (s v : State) (d : Desc), Issues 0x64 regsAB t w s → a = bits (sreg (tillerAt s t) (iSA w)) 22 0 →
    inRegions (curCfg (tillerAt s t)).stage a 32 = true → readHazard (tillerAt s t) [(a, a + 32)] = false →
    d = descOf (tsRead t a 32 s).1 → dCheck t d true (tsRead t a 32 s).2 = (none, v) → queued (tillerAt s t) < 256 →
    n = tileSize (dFmt d) → dScaleLand d = false → readHazard (tillerAt s t) [(dDst d, dDst d + n)] = false →
    exec (.mwrite t w) s = .next (issued t (cntInc (.tlr t) Reg.TLR_CNT_TILES (enqueue t
      (writeReq (tillerAt s t) d (bits (sreg (tillerAt s t) (iSB w)) 15 0) w (objAt s (dObj d)) (tsRead t (dDst d) n v).1)
      (tsRead t (dDst d) n v).2)))) ∧
  (∀ (t : Nat) (w : Word) (s : State) (q : MemReq), Issues 0x63 regsAB t w s → NextInProgram (tillerAt s t) →
    (tillerAt s t).reqs.filter (fun q => q.kind == 0 && q.who == (tillerAt s t).cur &&
      q.dst == bits (sreg (tillerAt s t) (iSA w)) 22 0) = [q] →
    markOf s (curCfg (tillerAt s t)) q.mb = none → q.landed = true → q.stale = false → q.poisoned = false →
    Completes (.waitm t w) t s (fun u => { u with reqs := u.reqs.filter (fun x => x.rid != q.rid) })) ∧
  (∀ (t : Nat) (w : Word) (s : State), Issues 0x63 regsAB t w s →
    (∀ q ∈ (tillerAt s t).reqs, q.kind = 0 → q.who = (tillerAt s t).cur → q.dst ≠ bits (sreg (tillerAt s t) (iSA w)) 22 0) →
    exec (.waitm t w) s = .next (faultAt t 9 ST_STAGE_FAULT s)) ∧
  (∀ (t rid : Nat) (q : MemReq) (s : State), t < 128 → nextToSend s t = some q → q.rid = rid → quadFenced s t = false →
    reqWrites q = false → Goes (.memRequestSend t rid) s (fun v =>
      (∀ y ∈ (tillerAt v t).reqs, y.rid = rid → y.sent = true ∧ y.landed = false ∧
        y.parts = (sendParts s t q).map (fun p => if p.st ≠ 0 then p
          else if homeDown s p.home then { p with st := 2, poison := true, cause := 9 } else { p with st := 1 })) ∧
      (∀ h, h < 16 → (stackAt v h).pool = (stackAt s h).pool ++ ((sendParts s t q).filter (fun p =>
        p.st == 0 && !homeDown s p.home && p.home == h)).map (fun _ => (t, rid))) ∧ v.dram = s.dram)) ∧
  (∀ (t rid : Nat) (s : State), t < 128 → s.notices.contains (t, rid) = true →
    exec (.staleNotice t rid) s = .next (modReq t rid (fun q => { q with stale := !q.ordered })
      { s with notices := s.notices.erase (t, rid) })) ∧
  (∀ (t rid n : Nat) (q : MemReq) (s : State), t < 128 → (tillerAt s t).reqs.find? (fun q => q.rid == rid) = some q → q.kind = 0 →
    tracked q = true → q.sent = true → q.landed = false → q.parts.all answered = true → (∀ p ∈ q.parts, p.poison = false) →
    landHazard (tillerAt s t) rid (reqRanges q) = false → quadFenced s t = false → n = tileSize q.fmt → q.scaleDst = none →
    exec (.tileLand t rid) s = .next (modReq t rid (fun q => { q with landed := true })
      (tsWrite t q.dst ((tileOf q (n + 1)).take n) (failsOver t q true s)))) ∧
  (∀ (t rid : Nat) (q : MemReq) (s : State), t < 128 → (tillerAt s t).reqs.find? (fun q => q.rid == rid) = some q → reqWrites q = true →
    q.sent = true → q.landed = false → (∀ p ∈ q.parts, p.st = 2 ∧ p.poison = false) →
    exec (.writeAck t rid) s = .next (dropReq t rid s)) ∧
  (∀ (t rid : Nat) (q : MemReq) (p : Part) (s : State), t < 128 → (tillerAt s t).reqs.find? (fun q => q.rid == rid) = some q →
    reqWrites q = true → q.sent = true → q.landed = false → q.parts.all answered = true → q.parts.find? (·.poison) = some p →
    exec (.writeAck t rid) s = .next (poisonFault t { q with cause := p.cause } (dropReq t rid s))) ∧
  (∀ (t who port mb rb cb off oi base fmt idx m : Nat) (slot : Slot) (last : Bool) (s : State),
    PrefetchReady t who port mb rb cb off oi base fmt slot idx s → markOf s (cfgBy (tillerAt s t) who) mb = some m →
    exec (.prefetchIssue t who port mb rb cb off last) s = .next (modCfgBy who t (fun g => { g with pfMark := some m }) s)) ∧
  (∀ (t who port mb rb cb off oi base fmt idx : Nat) (slot : Slot) (last : Bool) (s : State) (g : Cfg),
    PrefetchReady t who port mb rb cb off oi base fmt slot idx s → g = cfgBy (tillerAt s t) who → markOf s g mb = none →
    Goes (.prefetchIssue t who port mb rb cb off last) s (fun v => OnlyTiller t s v ∧
      (tillerAt v t).reqs = (tillerAt s t).reqs ++ [{
        prefetchReq who (if port = 4 then 5 else 4) (objAt s oi) oi fmt (base + off) mb slot idx with
        rid := (tillerAt s t).nextRid, limit := effTags g.stage, ch := g.chan, starved := noTag (tillerAt s t) }] ∧
      (if port = 4 then (cfgBy (tillerAt v t) who).wSlots else (cfgBy (tillerAt v t) who).inSlots)[idx]? = some { slot with
        st := 1, mb := mb, rb := rb, cb := cb, scale := 0, seq := if port = 4 then g.wSeq else 0, forwarded := false } ∧
      (cfgBy (tillerAt v t) who).ends = (if last then g.ends ++ [(port, 255, 255)] else g.ends) ∧
      (cfgBy (tillerAt v t) who).pfLast = (port, mb, rb, cb) :: g.pfLast.filter (fun p => p.1 != port) ∧
      (cfgBy (tillerAt v t) who).pfMark = none))

/-- The array and the finished-tile queue. R67, R83: ARR queues the command with S6 and S7 taken at issue, and notes the slab that its
pass writes (R113); a faulty one stops the stage (R73). R69, R70: a pass loads its stationary operand, or keeps it with SAME_W,
and streams its rows block by block; it holds while an operand is missing (R71). SYNC completes once no pass is in flight. WAITA waits
for an empty array. R89: a flushing bank pushes its column tiles. R122: FTQ_WAIT gives the valid rows of a READY head and FTQ_POP frees
it. -/
def Obligations.TheArrayRunsItsCommands : Prop :=
  (∀ (t : Nat) (w : Word) (s : State) (c : ArrCmd) (rds wrs : List (Nat × Nat)), Issues 0x60 (fun w => [iSA w, 6, 7]) t w s →
    NextInProgram (tillerAt s t) → (tillerAt s t).cur = 1 ∨ (tillerAt s t).admitted = true →
    c = {
        w := sreg (tillerAt s t) (iSA w), ctx := (tillerAt s t).cur, s6 := sreg (tillerAt s t) 6, s7 := sreg (tillerAt s t) 7,
        rid := (tillerAt s t).nextRid } →
    arrFaulty (tillerAt s t) c = false → (tillerAt s t).arr.queue.length < 8 →
    rds = (if bits c.w 1 0 = 0 then passReads (ctxStage (tillerAt s t) c.ctx).1 (ctxStage (tillerAt s t) c.ctx).2 c false else []) →
    wrs = (if bits c.w 1 0 = 0 then passWrites (ctxStage (tillerAt s t) c.ctx).2 c else []) → readHazard (tillerAt s t) rds = false →
    (∀ r ∈ wrs, meets r (vqWrites (tillerAt s t)) = false ∧ meets r (vqReads (tillerAt s t)) = false) →
    Completes (.arr t w) t s (fun u => { u with arr := { u.arr with queue := u.arr.queue ++ [c], slabs := u.arr.slabs ++ wrs } })) ∧
  (∀ (t : Nat) (w : Word) (s : State), Issues 0x60 (fun w => [iSA w, 6, 7]) t w s → (tillerAt s t).cur = 0 →
    (tillerAt s t).admitted = false → Waits (.arr t w) t 1 s) ∧
  (∀ (t : Nat) (w : Word) (s : State), Issues 0x60 (fun w => [iSA w, 6, 7]) t w s →
    (tillerAt s t).cur = 1 ∨ (tillerAt s t).admitted = true → arrFaulty (tillerAt s t) {
        w := sreg (tillerAt s t) (iSA w), ctx := (tillerAt s t).cur, s6 := sreg (tillerAt s t) 6, s7 := sreg (tillerAt s t) 7,
        rid := (tillerAt s t).nextRid } = true →
    exec (.arr t w) s = .next (arrFault t s)) ∧
  (∀ (t : Nat) (w : Word) (s : State), Issues 0x61 regsNone t w s → NextInProgram (tillerAt s t) → (tillerAt s t).arr.queue = [] →
    (tillerAt s t).arr.pass = none →
    Completes (.waita t w) t s (fun u => { u with arr := { u.arr with slabs := [] } })) ∧
  (∀ (t : Nat) (c : ArrCmd) (r : List ArrCmd) (s : State) (d : StageDesc) (form : Nat), t < 128 → quadFenced s t = false →
    (tillerAt s t).arr.pass = none → (tillerAt s t).arr.queue = c :: r → bits c.w 1 0 = 0 → bit c.w 4 = false →
    (d, form) = ctxStage (tillerAt s t) c.ctx → operandMissing (tillerAt s t) c (blockReads d form c false 0) = false →
    (form = 1 → bit c.w 3 = true → ftqFree (tillerAt s t) = true) → (form = 2 → ∀ f ∈ (tillerAt s t).arr.flush, f.bank ≠ (tillerAt s t).arr.wsBank) →
    Goes (.arrayPass t) s (fun v => ∃ x, x = loadStat t d form c (modArr t (fun a => { a with
        queue := r, pass := some (c, 0), holdInput := false, holdFtq := false }) s) ∧
      v = passBlock t c x.1 0 (cntAdd (.tlr t) Reg.TLR_CNT_ARR_LOAD (if form = 2 then 16 else 64)
        (modArr t (fun a => { a with stat := some x.1 }) x.2)))) ∧
  (∀ (t i : Nat) (c : ArrCmd) (x : Stationary) (s : State) (d : StageDesc) (form : Nat), t < 128 → quadFenced s t = false →
    (tillerAt s t).arr.pass = some (c, i + 1) → (tillerAt s t).arr.stat = some x → (d, form) = ctxStage (tillerAt s t) c.ctx →
    operandMissing (tillerAt s t) c (blockReads d form c true (i + 1)) = false →
    (form = 1 → bit c.w 3 = true → ftqFree (tillerAt s t) = true) → (form = 2 → ∀ f ∈ (tillerAt s t).arr.flush, f.bank ≠ (tillerAt s t).arr.wsBank) →
    exec (.arrayPass t) s = .next (passBlock t c x (i + 1) (modArr t (fun a => { a with
      pass := some (c, i + 1), holdInput := false, holdFtq := false }) s))) ∧
  (∀ (t : Nat) (c : ArrCmd) (r : List ArrCmd) (s : State), t < 128 → quadFenced s t = false → (tillerAt s t).arr.pass = none →
    (tillerAt s t).arr.queue = c :: r → bits c.w 1 0 = 0 → bit c.w 4 = false →
    operandMissing (tillerAt s t) c (blockReads (ctxStage (tillerAt s t) c.ctx).1 (ctxStage (tillerAt s t) c.ctx).2 c false 0) = true →
    exec (.arrayPass t) s = .next (modArr t (fun a => { a with holdInput := true }) s)) ∧
  (∀ (t : Nat) (c : ArrCmd) (r : List ArrCmd) (s : State), t < 128 → quadFenced s t = false → (tillerAt s t).arr.pass = none →
    (tillerAt s t).arr.queue = c :: r → bits c.w 1 0 = 1 →
    exec (.arraySync t) s = .next (modArr t (fun a => { a with queue := r }) s)) ∧
  (∀ (t left : Nat) (f : WsFlush) (rest : List WsFlush) (s : State), t < 128 → quadFenced s t = false →
    (tillerAt s t).arr.flush = f :: rest → (tillerAt s t).ftqNext < 8 → (tillerAt s t).ftq.length = 8 → ftqFree (tillerAt s t) = true → left = (ctxStage (tillerAt s t) f.ctx).1.cols - (f.n0 + 64 * f.tile) →
    Goes (.arrayBankFlush t) s (fun v => OnlyTiller t s v ∧
      (tillerAt v t).ftq.getD (tillerAt s t).ftqNext {} = {
        st := 2, rows := f.rows,
        data := padTile ((List.range f.rows).map (fun r => (List.range (min 64 left)).map (fun n =>
          smGet (accDefault (tillerAt s t).arr) (tillerAt s t).arr.acc (f.bank * 16384 + r * 256 + 64 * f.tile + n)))) } ∧
      (tillerAt v t).ftqNext = ((tillerAt s t).ftqNext + 1) % 8 ∧ (tillerAt v t).arr.acc = (tillerAt s t).arr.acc ∧
      (tillerAt v t).arr.flush = (if f.tile < 3 ∧ 64 < left then { f with tile := f.tile + 1 } :: rest else rest))) ∧
  (∀ (t : Nat) (w : Word) (s : State), Issues 0x6A regsDAB t w s → NextInProgram (tillerAt s t) →
    ((tillerAt s t).ftq.getD (tillerAt s t).ftqHead {}).st = 2 →
    Completes (.ftqWait t w) t s (withSreg (iSD w) (word ((tillerAt s t).ftq.getD (tillerAt s t).ftqHead {}).rows))) ∧
  (∀ (t : Nat) (w : Word) (s : State), Issues 0x6B regsNone t w s → NextInProgram (tillerAt s t) →
    ((tillerAt s t).ftq.getD (tillerAt s t).ftqHead {}).st = 2 → (∀ e ∈ (tillerAt s t).vq, readsFtq e.w = false) →
    Completes (.ftqPop t w) t s (fun u => { u with ftq := u.ftq.set u.ftqHead {}, ftqHead := (u.ftqHead + 1) % 8, ftqOff := 0 })) ∧
  (∀ (i : Instr) (op : Nat) (reads : Word → List Nat) (t : Nat) (w : Word) (s : State),
    (i, op, reads) ∈ [(.ftqWait t w, 0x6A, regsDAB), (.ftqPop t w, 0x6B, regsNone)] → Issues op reads t w s →
    ((tillerAt s t).ftq.getD (tillerAt s t).ftqHead {}).st ≠ 2 → Waits i t 6 s)

namespace Sys2Proof.Claim

/-- A vector word stands at the program counter and can issue, and no queued reduction has still to write a register it reads. -/
abbrev VectorTurn (op t : Nat) (w : Word) (s : State) : Prop :=
  t < 128 ∧ canIssue s t w = true ∧ vOp w = op ∧ ∀ r ∈ vectorRegs w, r ∉ pendingRegs (tillerAt s t)

end Sys2Proof.Claim

/-- Vector instructions. R97, R115: at issue an instruction takes its word and S0 to S31 with it into the vector queue, address
registers with INC advance (R109), and the program goes on; it waits for admission (WAIT 1), for room in the queue of 8 (WAIT 2), or
for a READY head of the finished-tile queue (WAIT 6). Table 4.9: a word whose operands are not those of its row faults with that cause.
R110: a beat belongs to the oldest of the queue. Table 4.4: each element of the result is the value of its row, a NaN being the
canonical one (R120), and with PK = 1 it is rounded to BF16. -/
def Obligations.VectorInstructionsIssueInOrder : Prop :=
  (∀ (i : Instr) (op t : Nat) (w : Word) (s : State) (u : Tiller) (x : Ctx) (g : Cfg), (i, op) ∈ [
      (.vadd t w, 0x01), (.vsub t w, 0x02), (.vmul t w, 0x03), (.vfma t w, 0x04), (.vmax t w, 0x05), (.vmin t w, 0x06),
      (.vabs t w, 0x07), (.vneg t w, 0x08), (.vcmp t w, 0x09), (.vsel t w, 0x0A), (.vcpy t w, 0x0B), (.vexp2 t w, 0x10),
      (.vexp t w, 0x11), (.vlog2 t w, 0x12), (.vrcp t w, 0x13), (.vrsqrt t w, 0x14), (.vsqrt t w, 0x15), (.vtanh t w, 0x16),
      (.vsigm t w, 0x17), (.verf t w, 0x18), (.rsum t w, 0x20), (.rssq t w, 0x21), (.rmax t w, 0x22), (.rmin t w, 0x23),
      (.ramax t w, 0x24), (.rrowsum t w, 0x28), (.rrowssq t w, 0x29), (.rrowmax t w, 0x2A)] →
    VectorTurn op t w s → vectorFault (tillerAt s t) w = none → u = tillerAt s t → x = curCtx u → g = curCfg u → NextInProgram u →
    u.cur = 1 ∨ u.admitted = true → u.vq.length < 8 → (readsFtq w = true → (u.ftq.getD u.ftqHead {}).st = 2) →
    (∀ r ∈ vWrites x.sregs w, meets r (arrReads u) = false) →
    Completes i t s (fun u => setCtx { u with vq := u.vq ++ [{
          w := w, ctx := u.cur, pc := x.pc, sregs := x.sregs, ftqOff := ftqOffNext u, rid := u.nextRid,
          lanes := if isReduction op then List.replicate 128 none else [],
          sampled := narrowing w && sampledAt (stepNum s g.chan g.step) x.vcpys g.step }] }
        { x with sregs := incSregs w x.sregs, vcpys := if narrowing w then x.vcpys + 1 else x.vcpys }) ∧
    (∀ r, r < 16 ∨ 32 ≤ r ∨ vInc w = false → sregOf (incSregs w x.sregs) r = sregOf x.sregs r)) ∧
  (∀ (i : Instr) (op t c : Nat) (w : Word) (s : State), (i, op) ∈ [
      (.vadd t w, 0x01), (.vsub t w, 0x02), (.vmul t w, 0x03), (.vfma t w, 0x04), (.vmax t w, 0x05), (.vmin t w, 0x06),
      (.vabs t w, 0x07), (.vneg t w, 0x08), (.vcmp t w, 0x09), (.vsel t w, 0x0A), (.vcpy t w, 0x0B), (.vexp2 t w, 0x10),
      (.vexp t w, 0x11), (.vlog2 t w, 0x12), (.vrcp t w, 0x13), (.vrsqrt t w, 0x14), (.vsqrt t w, 0x15), (.vtanh t w, 0x16),
      (.vsigm t w, 0x17), (.verf t w, 0x18), (.rsum t w, 0x20), (.rssq t w, 0x21), (.rmax t w, 0x22), (.rmin t w, 0x23),
      (.ramax t w, 0x24), (.rrowsum t w, 0x28), (.rrowssq t w, 0x29), (.rrowmax t w, 0x2A)] →
    VectorTurn op t w s →
    (vectorFault (tillerAt s t) w = some c → exec i s = .next (faultAt t c ST_STAGE_FAULT s)) ∧
    (vectorFault (tillerAt s t) w = none → (tillerAt s t).cur = 0 → (tillerAt s t).admitted = false → Waits i t 1 s) ∧
    (vectorFault (tillerAt s t) w = none → (tillerAt s t).cur = 1 → 8 ≤ (tillerAt s t).vq.length → Waits i t 2 s)) ∧
  (∀ (t : Nat) (e : VqEntry) (r : List VqEntry) (s : State), t < 128 → (tillerAt s t).vq = e :: r → quadFenced s t = false →
    exec (.vectorBeat t) s = .next (beat t e s)) ∧
  (∀ (w : Word) (a b c r : F32), vPk w = false →
    (vOp w, r) ∈ [(1, fAdd a b), (2, fSub a b), (3, fMul a b), (4, fFma a b c), (5, fMax a b), (6, fMin a b), (7, fAbs a), (8, fNeg a),
      (9, if vcmpHolds (vC w) a b then 0x3F800000 else 0), (10, if (ofF32 a).isZero then c else b), (11, a),
      (0x10, toF32 (ofF32 a).exp2), (0x11, toF32 (ofF32 a).exp), (0x12, toF32 (ofF32 a).log2), (0x13, toF32 (ofF32 a).rcp),
      (0x14, toF32 (ofF32 a).rsqrt), (0x15, toF32 (ofF32 a).sqrt), (0x16, toF32 (ofF32 a).tanh), (0x17, toF32 (ofF32 a).sigm),
      (0x18, toF32 (ofF32 a).erf)] →
    resultOf w a b c = canon r) ∧
  (∀ (w : Word) (a b c : F32), vPk w = true → vOp w ≠ 4 →
    resultOf w a b c = f32OfBf16 (bf16Of (elementOf w a b c))) ∧
  (∀ (w : Word) (a b c : F32), vPk w = true → vOp w = 4 →
    resultOf w a b c = f32OfBf16 (narrowNear .bf16 (((ofF32 a).mul (ofF32 b)).add (ofF32 c))).bits)

/-- Scalar instructions (Table 4.5). Each writes SD with its row's function of SA, SB, the old SD and IMM, S0 staying zero (Table 4.1),
and goes to the next word; nothing else of the machine changes but counts. SLD reads 8 aligned bytes of the stage's regions and SST
writes them, and no other byte of tile store (Table 4.9: misaligned is ALIGN, outside the regions REGION); both wait for queued vector
instructions in their way (R112, R114). -/
def Obligations.ScalarInstructionsCompute : Prop :=
  (∀ (i : Instr) (op t : Nat) (w : Word) (s : State) (f : Word → Word → Word → Word → Word) (u : Tiller), (i, op, f) ∈ ([
      (.sadd t w, 0x40, fun a b _ m => a + b + m), (.ssub t w, 0x41, fun a b _ _ => a - b), (.smul t w, 0x42, fun a b _ _ => a * b),
      (.sand t w, 0x43, fun a b _ _ => a &&& b), (.sor t w, 0x44, fun a b _ _ => a ||| b), (.sxor t w, 0x45, fun a b _ _ => a ^^^ b),
      (.sshl t w, 0x46, fun a b _ m => a <<< ((b + m).toNat % 64)), (.sshr t w, 0x47, fun a b _ m => a >>> ((b + m).toNat % 64)),
      (.slih t w, 0x48, fun a _ _ _ => word (a.toNat % 2 ^ 32 + bits w 63 32 * 2 ^ 32)),
      (.sfadd t w, 0x49, fun a b _ _ => ofLowF32 (fAdd (lowF32 a) (lowF32 b))),
      (.sfmul t w, 0x4A, fun a b _ _ => ofLowF32 (fMul (lowF32 a) (lowF32 b))),
      (.sfma t w, 0x4B, fun a b d _ => ofLowF32 (fFma (lowF32 a) (lowF32 b) (lowF32 d))),
      (.scvtf t w, 0x4C, fun a _ _ _ => ofLowF32 (f32OfInt a.toInt)),
      (.scvti t w, 0x4D, fun a _ _ _ => word (unsignedOf 64 (f32ToInt (lowF32 a))))] : List (Instr × Nat × (Word → Word → Word → Word → Word))) →
    Issues op regsDAB t w s → u = tillerAt s t → NextInProgram u →
    Completes i t s (withSreg (iSD w) (f (sreg u (iSA w)) (sreg u (iSB w)) (sreg u (iSD w)) (iImm w)))) ∧
  (∀ (u : Tiller) (n m : Nat) (v : Word), n < 32 → (curCtx u).sregs.length = 32 →
    sreg (withSreg n v u) m = if m = n ∧ n ≠ 0 then v else sreg u m) ∧
  (∀ (u : Tiller) (n : Nat) (v : Word), sreg (withSreg n v u) 0 = 0) ∧
  (∀ (t a : Nat) (w : Word) (s : State) (u : Tiller), Issues 0x4E regsDAB t w s → u = tillerAt s t → NextInProgram u →
    a = (sreg u (iSA w) + iImm w).toNat → a % 8 = 0 → inRegions (curCfg u).stage a 8 = true → readHazard u [(a, a + 8)] = false →
    (∀ x ∈ unwaited u, overlap (a, a + 8) x = false) →
    Completes (.sld t w) t s (withSreg (iSD w) (word (leValue (tsRaw u a 8))))) ∧
  (∀ (t a : Nat) (w : Word) (s : State) (u : Tiller), Issues 0x4F regsDAB t w s → u = tillerAt s t → NextInProgram u →
    a = (sreg u (iSA w) + iImm w).toNat → a % 8 = 0 → inRegions (curCfg u).stage a 8 = true → writeHazard u [(a, a + 8)] = false →
    Completes (.sst t w) t s (fun u => { u with ts := smWriteRun (tsDefault u) u.ts a (leBytes 8 (sreg u (iSB w)).toNat) }) ∧
    (∀ v, exec (.sst t w) s = .next v → ∀ b, b < a ∨ a + 8 ≤ b → smGet (tsDefault u) (tillerAt v t).ts b = smGet (tsDefault u) u.ts b)) ∧
  (∀ (i : Instr) (op t : Nat) (w : Word) (s : State), (i, op) ∈ [(.sld t w, 0x4E), (.sst t w, 0x4F)] → Issues op regsDAB t w s →
    ((sreg (tillerAt s t) (iSA w) + iImm w).toNat % 8 ≠ 0 → exec i s = .next (faultAt t 4 ST_STAGE_FAULT s)) ∧
    ((sreg (tillerAt s t) (iSA w) + iImm w).toNat % 8 = 0 →
      inRegions (curCfg (tillerAt s t)).stage (sreg (tillerAt s t) (iSA w) + iImm w).toNat 8 = false →
      exec i s = .next (faultAt t 3 ST_STAGE_FAULT s)))

/-- The ends of words, tiles and stages. BR goes to PC + IMM words when COND holds, signed and unsigned as Table 4.5 says, and else to
the next word; a target outside the program faults with PC_RANGE. WAITV waits for an empty vector queue and NOP does nothing. R99:
TILE_END leaves V4 to V7 unspecified, and asks for the other context when a tile boundary calls for it (R98). R44: STAGE_END waits for
idle engines, faults when a finished tile is left, and else sends END and stays. R102: an OP in no table is a fault with ILLEGAL_OP. -/
def Obligations.ProgramsBranchAndEnd : Prop :=
  (∀ (t : Nat) (w : Word) (s : State) (u : Tiller) (d : Int), t < 128 → canIssue s t w = true → bits w 7 0 = 0x70 → bits w 31 26 = 0 →
    iSA w ∉ pendingRegs u → iSB w ∉ pendingRegs u → u = tillerAt s t → bits w 25 23 ≠ 7 →
    brHolds (bits w 25 23) (sreg u (iSA w)) (sreg u (iSB w)) = true → d = (curCtx u).pc + signedOf 32 (bits w 63 32) → 0 ≤ d →
    d < (curCfg u).stage.progWords → (curCfg u).stage.progWords ≤ 16384 →
    Goes (.br t w) s (fun v => tillerAt v t = setCtx u { curCtx u with pc := d.toNat, wait := 0 } ∧ OnlyTillerAndCounts t s v)) ∧
  (∀ (t : Nat) (w : Word) (s : State) (u : Tiller), t < 128 → canIssue s t w = true → bits w 7 0 = 0x70 → bits w 31 26 = 0 →
    iSA w ∉ pendingRegs u → iSB w ∉ pendingRegs u → u = tillerAt s t → bits w 25 23 ≠ 7 →
    brHolds (bits w 25 23) (sreg u (iSA w)) (sreg u (iSB w)) = false → NextInProgram u → Completes (.br t w) t s id) ∧
  (∀ (t : Nat) (w : Word) (s : State) (u : Tiller) (d : Int), t < 128 → canIssue s t w = true → bits w 7 0 = 0x70 → bits w 31 26 = 0 →
    iSA w ∉ pendingRegs u → iSB w ∉ pendingRegs u → u = tillerAt s t → bits w 25 23 ≠ 7 →
    brHolds (bits w 25 23) (sreg u (iSA w)) (sreg u (iSB w)) = true → d = (curCtx u).pc + signedOf 32 (bits w 63 32) →
    d < 0 ∨ (curCfg u).stage.progWords ≤ d →
    Goes (.br t w) s (fun v => ∃ x, v = seqFault t u.cur (d % 16384).toNat 6 (drawFree x).1 ST_STAGE_FAULT (drawFree x).2 ∧
      x = cntInc (.tlr t) Reg.TLR_CNT_SEQ_INSTR s)) ∧
  (∀ (a b : Word), (brHolds 0 a b = true) ∧ (brHolds 1 a b = true ↔ a = b) ∧ (brHolds 2 a b = true ↔ a ≠ b) ∧
    (brHolds 3 a b = true ↔ a.toInt < b.toInt) ∧ (brHolds 4 a b = true ↔ b.toInt ≤ a.toInt) ∧
    (brHolds 5 a b = true ↔ a.toNat < b.toNat) ∧ (brHolds 6 a b = true ↔ b.toNat ≤ a.toNat)) ∧
  (∀ (t : Nat) (w : Word) (s : State), Issues 0x7F regsNone t w s → NextInProgram (tillerAt s t) → Completes (.seqNop t w) t s id) ∧
  (∀ (t : Nat) (w : Word) (s : State), Issues 0x73 regsNone t w s → (tillerAt s t).vq = [] → NextInProgram (tillerAt s t) →
    Completes (.waitv t w) t s id) ∧
  (∀ (t : Nat) (w : Word) (s : State), Issues 0x73 regsNone t w s → (tillerAt s t).vq ≠ [] → Waits (.waitv t w) t 11 s) ∧
  (∀ (t : Nat) (w : Word) (s : State) (u : Tiller), Issues 0x71 regsNone t w s → u = tillerAt s t → u.vq = [] → NextInProgram u →
    Goes (.tileEnd t w) s (fun v => tillerAt v t = atNext { u with
        vregs := smClearRun u.vregs 65536 65536, vFree := some s.freeCtr, switching := if wantsSwitch u then true else u.switching } ∧
      v.freeCtr = s.freeCtr + 1 ∧ ∀ r, r ≠ t → tillerAt v r = tillerAt s r)) ∧
  (∀ (t : Nat) (w : Word) (s : State) (u : Tiller) (es : List VqEntry) (e : VqEntry), Issues 0x71 regsNone t w s → u = tillerAt s t →
    u.vq = es ++ [e] → NextInProgram u →
    Completes (.tileEnd t w) t s (fun u => { u with
      vq := es ++ [{ e with thenFree := true }], switching := if wantsSwitch u then true else u.switching })) ∧
  (∀ (t : Nat) (w : Word) (s : State) (u : Tiller), Issues 0x72 regsNone t w s → u = tillerAt s t → arrayIdle u = true → u.vq = [] →
    ftqEmpty u = true → u.cur = 0 →
    Goes (.stageEnd t w) s (fun v => v = setStateField t (sendEnd t (curCfg u) (modCtx t (fun x => { x with
        wait := 0, ended := true, endSent := true }) (cntInc (.tlr t) Reg.TLR_CNT_SEQ_INSTR s))) ∧
      (tillerAt v t).ctxA.ended = true ∧ (tillerAt v t).ctxA.endSent = true ∧
      ((outEdges (curCfg u)).isEmpty = true → (chanAt v (curCfg u).chan).barrier = (chanAt s (curCfg u).chan).barrier ++ [t]))) ∧
  (∀ (t : Nat) (w : Word) (s : State) (u : Tiller), Issues 0x72 regsNone t w s → u = tillerAt s t → arrayIdle u = true → u.vq = [] →
    ftqEmpty u = true → u.cur = 1 →
    exec (.stageEnd t w) s = .next (deferredEnd t (curCfg u).chan (sendEnd t (curCfg u) (modCtx t (fun x => { x with
      wait := 0, ended := true, endSent := true }) (cntInc (.tlr t) Reg.TLR_CNT_SEQ_INSTR s))))) ∧
  (∀ (t : Nat) (w : Word) (s : State) (u : Tiller), Issues 0x72 regsNone t w s → u = tillerAt s t → arrayIdle u = true → u.vq = [] →
    ftqEmpty u = false → exec (.stageEnd t w) s = .next (faultAt t 7 ST_STAGE_FAULT s)) ∧
  (∀ (t : Nat) (w : Word) (s : State), Issues 0x72 regsNone t w s → arrayIdle (tillerAt s t) = false ∨ (tillerAt s t).vq ≠ [] →
    Waits (.stageEnd t w) t 7 s) ∧
  (∀ (t : Nat) (w : Word) (s : State), t < 128 → canIssue s t w = true → listedOp (bits w 7 0) = false →
    exec (.illegalOp t w) s = .next (faultAt t 1 ST_STAGE_FAULT s))

namespace Sys2Proof.Claim

/-- The set that SHARD_CREATE makes of a tensor table and its arrays (Table 9.1). -/
def createdSet (e : Entry) (ts : List TensorDesc) (os : List Nat) : ShardSet :=
  { valid := true, tensors := ts, p := bits e.a0 34 28, c := bits e.a0 40 35, momFmt := bits e.a0 48 41, workFmt := bits e.a0 56 49,
    workScale := bits e.a0 58 57, pingpong := bit e.a0 59, deltaEn := bit e.a0 60, hostRes := bit e.a0 61, hostBase := e.a2.toNat,
    hostLen := e.a3.toNat, master := os.getD 0 0, m1 := os.getD 1 0, m2 := os.getD 2 0, grad := os.getD 3 0, work := os.getD 4 0,
    hyperObj := os.getD 5 0, progress := os.getD 6 0, staging := os.getD 7 0, sums := List.replicate ts.length 0,
    hyper := List.replicate ts.length {} }

/-- The gather that a command asks for. -/
def gatherOf (s : State) (src : CmdSrc) (e : Entry) : Coll :=
  { kind := 0, ch := chOf s src e, pos := some (cmdOf s src e).pos, step := stepAt s (chOf s src e) (cmdOf s src e).pos,
    id := bits e.a0 34 25, obj := bits e.a1 16 0, offset := e.a2.toNat, set := bits e.a0 3 0, first := bits e.a0 13 4,
    count := bits e.a0 24 14, flags := putB (bit e.a0 35) 0 + putB (bit e.a0 36) 1 }

/-- A gather need not wait: the record of the step before it is written, no re-shard of its channel runs, and its group is not aborted. -/
abbrev GatherOpen (s : State) (src : CmdSrc) (e : Entry) : Prop :=
  recordIn s (chOf s src e) (gatherOf s src e).step = true ∧ resharding s (chOf s src e) = false ∧
  ((setAt s (chOf s src e) (bits e.a0 3 0)).p = 1 ∨ ∀ g, roleGroup s (chOf s src e) 0 = some g → g.2.aborted = false)

/-- What a gather reads here, and, for a single copy, what it writes. -/
def gatherAccess (s : State) (src : CmdSrc) (e : Entry) : List Access :=
  let y := gatherOf s src e
  let v := setAt s (chOf s src e) y.set
  let n := runTiles v y.first y.count
  gatherReads v y ++ (if v.p = 1 then { write := true, obj := y.obj, off := y.offset, n := n * (workFormat v).tileBytes } ::
    (if (workFormat v).isFp8 then
      [{ write := true, obj := y.obj, off := (objAt s y.obj).dataBytes + y.offset / (workFormat v).tileBytes, n := n }] else []) else [])

/-- The requester of a gather's accesses: the slice of the port towards another member. -/
def gatherWho (s : State) (src : CmdSrc) (e : Entry) : Nat :=
  sliceOf s (match roleGroup s (chOf s src e) 0 with | some g => memberId g.2 ((otherMembers g.2).headD 0) | none => 0)

/-- The gather of a run of tensors moves data, and its accesses go at once. -/
abbrev GatherMoves (s : State) (src : CmdSrc) (e : Entry) : Prop :=
  Taken 0x33 src e s ∧ GatherOpen s src e ∧ (bit e.a0 35 = false ∨ bit e.a0 37 = false) ∧
  runOk (setAt s (chOf s src e) (bits e.a0 3 0)) (bits e.a0 13 4) (bits e.a0 24 14) = true ∧
  gatherStatus s (chOf s src e) (setAt s (chOf s src e) (bits e.a0 3 0)) (gatherOf s src e) = none ∧
  GoNow s (gatherWho s src e) (some (chOf s src e)) 140 (gatherAccess s src e)

end Sys2Proof.Claim

/-- Shard sets. R269 to R276: SHARD_CREATE makes the lowest free set with its arrays and answers with their objects, or ST_SHARD_INVALID
when no set is free; R274: SHARD_FREE frees the arrays of a set that is not in use. R289: HYPER_SET's fields, R310: VARIANT_SET's entries,
wait for the first step not yet started. R314, R318: DELTA_SINK starts an empty sink. R304: COMMIT_ACK of the last committed step of a
host-resident channel is kept. -/
def Obligations.ShardSetsAreKept : Prop :=
  (∀ (src : CmdSrc) (e : Entry) (s b t : State) (si n p c : Nat) (bs : List Byte) (ts : List TensorDesc) (os : List Nat),
    Taken 0x30 src e s → b = begun src e s → (chanAt b (chOf s src e)).trn.sets.findIdx? (fun q => !q.valid) = some si →
    n = bits e.a0 27 17 → p = bits e.a0 34 28 → c = bits e.a0 40 35 → 0 < n → n ≤ 1024 → p ≤ 64 → c < p →
    copyCount b (chOf s src e) = (p, c) →
    setFormatsOk (bits e.a0 48 41) (bits e.a0 56 49) (bits e.a0 58 57) (bit e.a0 59) (bit e.a0 61) = true →
    (bit e.a0 61 = true → 65536 * ((ownRange ts p c).2 - (ownRange ts p c).1) ≤ e.a3.toNat ∧
      inWindow (chanAt b (chOf s src e)) true e.a2.toNat e.a3.toNat = true) →
    tableBytes b (chOf s src e) (bits e.a0 16 0) e.a1.toNat (16 * n) = some bs → (chunksOf 16 n bs).all tensorOk = true →
    ts = (chunksOf 16 n bs).map tensorOf → (∀ i, i < n → updGranules (portion ts p c i).2 ≤ 256) →
    createSet b (chOf s src e) (setRoot ts p c (bit e.a0 59)) (setCounts ts p c (bit e.a0 59) (bit e.a0 60) (bit e.a0 61)) = .ok (os, t) →
    ts.length = n →
    Ends (.shardCreate src e) src e s ST_OK
      [word si, word (put (os.getD 0 0) 16 0 + put (os.getD 1 0) 33 17 + put (os.getD 2 0) 50 34),
       word (put (os.getD 3 0) 16 0 + put (os.getD 4 0) 33 17 + put (os.getD 5 0) 50 34),
       word (put (os.getD 6 0) 16 0 + put (os.getD 7 0) 33 17)]
      (modSet (chOf s src e) si (fun _ => createdSet e ts os) t)) ∧
  (∀ (src : CmdSrc) (e : Entry) (s : State), Taken 0x30 src e s →
    (∀ q ∈ (chanAt (begun src e s) (chOf s src e)).trn.sets, q.valid = true) →
    Ends (.shardCreate src e) src e s ST_SHARD_INVALID [] (begun src e s)) ∧
  (∀ (src : CmdSrc) (e : Entry) (s : State), Taken 0x31 src e s →
    (setAt (begun src e s) (chOf s src e) (bits e.a0 3 0)).valid = true → setBusy (begun src e s) (chOf s src e) (bits e.a0 3 0) = false →
    Ends (.shardFree src e) src e s ST_OK [] (freeSet (chOf s src e) (bits e.a0 3 0) (begun src e s))) ∧
  (∀ (src : CmdSrc) (e : Entry) (s : State), Taken 0x31 src e s →
    (setAt (begun src e s) (chOf s src e) (bits e.a0 3 0)).valid = true → setBusy (begun src e s) (chOf s src e) (bits e.a0 3 0) = true →
    Ends (.shardFree src e) src e s ST_BUSY [] (begun src e s)) ∧
  (∀ (src : CmdSrc) (e : Entry) (s b : State), Taken 0x32 src e s → b = begun src e s →
    (setAt b (chOf s src e) (bits e.a0 3 0)).valid = true → 1 ≤ bits e.a0 24 14 →
    bits e.a0 13 4 + bits e.a0 24 14 ≤ (setAt b (chOf s src e) (bits e.a0 3 0)).tensors.length →
    Ends (.hyperSet src e) src e s ST_OK [] (modSet (chOf s src e) (bits e.a0 3 0) (fun v => { v with hyperNext := v.hyperNext ++
      [((chanAt b (chOf s src e)).trn.stepCur + 1, bits e.a0 13 4, bits e.a0 24 14, bit e.a0 25, {
          lr := BitVec.ofNat 32 e.a1.toNat, beta1 := BitVec.ofNat 32 (e.a1.toNat / 2 ^ 32), beta2 := BitVec.ofNat 32 e.a2.toNat,
          eps := BitVec.ofNat 32 (e.a2.toNat / 2 ^ 32), wd := BitVec.ofNat 32 e.a3.toNat, rmsD := BitVec.ofNat 32 (e.a3.toNat / 2 ^ 32),
          flags := bits e.a4 2 0 })] }) b)) ∧
  (∀ (src : CmdSrc) (e : Entry) (s b : State) (bs : List Byte) (vs : List (Nat × Variant)), Taken 0x38 src e s → b = begun src e s →
    0 < bits e.a2 13 0 → bits e.a2 13 0 ≤ 8192 →
    tableBytes b (chOf s src e) (bits e.a0 16 0) e.a1.toNat (64 * bits e.a2 13 0) = some bs →
    (chunksOf 64 (bits e.a2 13 0) bs).mapM variantOf = some vs →
    Ends (.variantSet src e) src e s ST_OK [] (modTrn b (chOf s src e) (fun t => { t with
      variantNext := t.variantNext ++ vs.map (fun v => (t.stepCur + 1, v.1, v.2)) }))) ∧
  (∀ (src : CmdSrc) (e : Entry) (s b : State), Taken 0x39 src e s → b = begun src e s → bit e.a0 0 = false → 0 < e.a2.toNat →
    (∀ g ∈ (chanAt b (chOf s src e)).trn.segs, segWaits b (chOf s src e) g = true → g.bytes.length ≤ e.a2.toNat) →
    e.a2.toNat % 16 = 0 → e.a1.toNat % 16 = 0 → inWindow (chanAt b (chOf s src e)) true e.a1.toNat e.a2.toNat = true →
    Ends (.deltaSink src e) src e s ST_OK [] (modTrn b (chOf s src e) (fun t => { t with
      sink := {
        set := true, peer := false, group := bits e.a0 25 16, peerId := bits e.a0 47 32, base := e.a1.toNat, size := e.a2.toNat,
        len := e.a2.toNat },
      deltaLive := [], deltaHead := 0, deltaTail := 0 }))) ∧
  (∀ (src : CmdSrc) (e : Entry) (s b : State), Taken 0x39 src e s → b = begun src e s → bit e.a0 0 = true → 0 < e.a3.toNat →
    (∀ g ∈ (chanAt b (chOf s src e)).trn.segs, segWaits b (chOf s src e) g = true → g.bytes.length ≤ e.a3.toNat) →
    e.a3.toNat % 16 = 0 → e.a1.toNat < 2 ^ 17 → e.a2.toNat % 16 = 0 → (groupAt b (bits e.a0 25 16)).live = true →
    (groupAt b (bits e.a0 25 16)).ch = chOf s src e →
    Ends (.deltaSink src e) src e s ST_OK [] (modTrn b (chOf s src e) (fun t => { t with
      sink := {
        set := true, peer := true, group := bits e.a0 25 16, peerId := bits e.a0 47 32, base := e.a1.toNat, size := e.a2.toNat,
        len := e.a3.toNat },
      deltaLive := [], deltaHead := 0, deltaTail := 0 }))) ∧
  (∀ (src : CmdSrc) (e : Entry) (s b : State) (t : Trn), Taken 0x37 src e s → b = begun src e s → t = (chanAt b (chOf s src e)).trn →
    (if e.a0.toNat = t.committed ∧ t.acked < t.committed ∧ t.sets.any (fun v => v.valid && v.hostRes) = true then
      Ends (.commitAck src e) src e s ST_OK [] (modTrn b (chOf s src e) (fun t => { t with acked := t.committed, ackStep := 0 }))
    else Ends (.commitAck src e) src e s ST_BAD_STEP [] b))

/-- The commands of a step. R277 to R280: a gather waits for the record of the step before; one that asks for a retained version gets it,
a single copy puts its tensors together at once, and else every other copy is sent this copy's part. R281: SHEAF_REGISTER adds a sheaf in
range, whose padding tiles hold +0.0, or answers ST_SHEAF_INVALID. R286: STEP_CLOSE takes its step's update mask. R303: HOST_COMMIT takes
the pieces of the new working copy, or answers ST_BAD_STEP. -/
def Obligations.StepsGatherAndClose : Prop :=
  (∀ (src : CmdSrc) (e : Entry) (s b : State) (q : GatherVer), Taken 0x33 src e s → b = begun src e s →
    recordIn s (chOf s src e) (gatherOf s src e).step = true → resharding s (chOf s src e) = false →
    runOk (setAt b (chOf s src e) (bits e.a0 3 0)) (bits e.a0 13 4) (bits e.a0 24 14) = true → bit e.a0 35 = true → bit e.a0 37 = true →
    (chanAt b (chOf s src e)).trn.vers.find? (fun q => q.id == bits e.a0 34 25) = some q →
    Ends (.gather src e) src e s ST_OK [word q.step, word q.sum] b) ∧
  (∀ (src : CmdSrc) (e : Entry) (s b t : State) (dead : List Nat) (own : List Byte) (y : Coll), GatherMoves s src e →
    b = begun src e (admitted s (gatherWho s src e) (some (chOf s src e)) (gatherAccess s src e)) →
    dead = silent s (gatherWho s src e) (some (chOf s src e)) (gatherAccess s src e) → y = gatherOf s src e →
    gatherOwn (chOf s src e) dead y.set y.first y.count y.step b = (t, own, 0) → (setAt b (chOf s src e) y.set).p = 1 →
    exec (.gather src e) s = .next (gatherAlone (cmdOf s src e) dead y own t)) ∧
  (∀ (src : CmdSrc) (e : Entry) (s b t : State) (dead : List Nat) (own : List Byte) (y : Coll) (v : ShardSet) (gn tag : Nat) (g : Group),
    GatherMoves s src e → b = begun src e (admitted s (gatherWho s src e) (some (chOf s src e)) (gatherAccess s src e)) →
    dead = silent s (gatherWho s src e) (some (chOf s src e)) (gatherAccess s src e) → y = gatherOf s src e →
    v = setAt b (chOf s src e) y.set → gatherOwn (chOf s src e) dead y.set y.first y.count y.step b = (t, own, 0) → v.p ≠ 1 →
    roleGroup s (chOf s src e) 0 = some (gn, g) → g.extent = v.p → g.fenced = false →
    tag = y.id + 1024 * bits e.a0 35 35 + 2048 * y.set →
    exec (.gather src e) s = .next ((otherMembers g).foldl (fun s i => sendChunks gn (memberId g i) 0 (tagTo tag i) (own.drop 20) s)
      ((otherMembers g).foldl (fun s i => sendChunks gn (memberId g i) 5 (tagTo tag i) (own.take 20) s)
        (addColl gn { y with data := [(v.c, own)], root := tag } t)))) ∧
  (∀ (src : CmdSrc) (e : Entry) (s b : State) (bs : List Byte) (n : Nat) (f : Sheaf), Taken 0x34 src e s → b = begun src e s →
    n = stepAt s (chOf s src e) (cmdOf s src e).pos → recordIn s (chOf s src e) n = true →
    tableBytes b (chOf s src e) (bits e.a0 16 0) e.a1.toNat 64 = some bs → f = { sheafDesc bs with step := n } →
    sheafRsv bs = true → sheafOk b (chOf s src e) f = true →
    Goes (.sheafRegister src e) s (fun t => ∃ u, t = answer (cmdOf s src e) ST_OK []
        (modTrn u (chOf s src e) (fun t => { t with sheaves := t.sheaves ++ [f], phase := 1 })) ∧
      (∀ i h, h ∈ (stackAt u i).holdBuf → h.ch = chOf s src e → h.sheaf ≠ f.num))) ∧
  (∀ (src : CmdSrc) (e : Entry) (s b : State) (bs : List Byte) (n : Nat), Taken 0x34 src e s → b = begun src e s →
    n = stepAt s (chOf s src e) (cmdOf s src e).pos → recordIn s (chOf s src e) n = true →
    tableBytes b (chOf s src e) (bits e.a0 16 0) e.a1.toNat 64 = some bs →
    sheafRsv bs = false ∨ sheafOk b (chOf s src e) { sheafDesc bs with step := n } = false →
    Ends (.sheafRegister src e) src e s ST_SHEAF_INVALID [] b) ∧
  (∀ (src : CmdSrc) (e : Entry) (s b : State) (bs : List Byte) (n : Nat), Taken 0x35 src e s → b = begun src e s →
    n = stepAt s (chOf s src e) (cmdOf s src e).pos → n ≤ (chanAt s (chOf s src e)).trn.recorded + 1 →
    tableBytes b (chOf s src e) (bits e.a0 16 0) e.a1.toNat 1024 = some bs →
    exec (.stepClose src e) s = .next (modTrn b (chOf s src e) (fun t => { t with close := some (n, leValue bs, (cmdOf s src e).pos) }))) ∧
  (∀ (src : CmdSrc) (e : Entry) (s b : State) (t : Trn) (ps : List (Nat × Nat × Nat)), Taken 0x36 src e s → b = begun src e s →
    t = (chanAt b (chOf s src e)).trn → (chanAt s (chOf s src e)).trn.normStep = e.a0.toNat →
    (chanAt s (chOf s src e)).trn.gradOut = [] → e.a0.toNat = t.recorded + 1 → t.sets.any (fun x => x.valid && x.hostRes) = true →
    t.hostCommit = none → ps = commitPieces b (chOf s src e) e.a0.toNat e.a1.toNat → e.a2.toNat = 65536 * ps.length →
    inWindow (chanAt b (chOf s src e)) false e.a1.toNat e.a2.toNat = true →
    exec (.hostCommit src e) s = .next (modTrn b (chOf s src e) (fun t => { t with
      hostCommit := some ((cmdOf s src e).pos, e.a0.toNat, ps), ackStep := if t.acked < t.committed then e.a0.toNat else 0 }))) ∧
  (∀ (src : CmdSrc) (e : Entry) (s b : State), Taken 0x36 src e s → b = begun src e s →
    e.a0.toNat ≠ (chanAt s (chOf s src e)).trn.recorded + 1 ∨ (chanAt s (chOf s src e)).trn.sets.any (fun x => x.valid && x.hostRes) = false →
    Ends (.hostCommit src e) src e s ST_BAD_STEP [] b)

/-- The course of a step. R285: a sheaf complete in every stack starts its reduction. R286, R149: the module's total of squares enters the
norm when every sheaf is reduced; without a norm group it is the norm. R297: a step whose update is done commits. R314: an export due
becomes a segment, which goes to its sink where the bytes are released; DELTA_HEAD releases them (R314), and an export that waits too long
is abandoned (R317). -/
def Obligations.StepsReduceCommitAndExport : Prop :=
  (∀ (c n : Nat) (f : Sheaf) (s : State), c < 4096 → sheafOf s c n = some f → f.st = 0 → (chanAt s c).rcv.st = 0 → sheafComplete s c f = true →
    (setAt s c f.set).p = 1 → exec (.sheafComplete c n) s = .next ((sheafQuads f).foldl (fun s q => startQuad c n q s)
      (modSheaf c n (fun f => { f with st := 1 }) s))) ∧
  (∀ (c n gn : Nat) (f : Sheaf) (g : Group) (s : State), c < 4096 → sheafOf s c n = some f → f.st = 0 → (chanAt s c).rcv.st = 0 →
    sheafComplete s c f = true → (setAt s c f.set).p ≠ 1 → roleGroup s c 0 = some (gn, g) → g.extent = (setAt s c f.set).p →
    g.aborted = false → g.fenced = false →
    exec (.sheafComplete c n) s = .next ((sheafQuads f).foldl (fun s q => startQuad c n q s)
      (addColl gn { kind := 1, ch := c, step := f.step, id := n, set := f.set } (modSheaf c n (fun f => { f with st := 1 }) s)))) ∧
  (∀ (c n m p : Nat) (x : F32) (xs : List F32) (s : State), c < 4096 → (chanAt s c).trn.close = some (n, m, p) →
    normReady s c n = true → roleGroup s c 3 = none → (sortIv ((chanAt s c).trn.sheaves.map (fun f => (f.num, f.sumSq.toNat)))).map
      (fun p => (BitVec.ofNat 32 p.2 : F32)) = x :: xs →
    exec (.normStart c) s = .next (normResult c n (xs.foldl fAdd x) ((chanAt s c).trn.ovf.contains n)
      (modTrn s c (fun t => { t with normIn := true, phase := 2 })))) ∧
  (∀ (c n m p gn : Nat) (g : Group) (x : F32) (xs : List F32) (y : Coll) (s u : State), c < 4096 → (chanAt s c).trn.close = some (n, m, p) →
    normReady s c n = true → roleGroup s c 3 = some (gn, g) → g.rank = 0 →
    (sortIv ((chanAt s c).trn.sheaves.map (fun f => (f.num, f.sumSq.toNat)))).map (fun p => (BitVec.ofNat 32 p.2 : F32)) = x :: xs →
    u = addColl gn { kind := 2, ch := c, step := n, got := [(0, (xs.foldl fAdd x).toNat, putB ((chanAt s c).trn.ovf.contains n) 0)] }
      (modTrn s c (fun t => { t with normIn := true, phase := 2 })) → normColl (groupAt u gn) = some y →
    exec (.normStart c) s = .next (normSum gn c n y u)) ∧
  (∀ (c n m p gn : Nat) (g : Group) (x : F32) (xs : List F32) (s : State), c < 4096 → (chanAt s c).trn.close = some (n, m, p) →
    normReady s c n = true → roleGroup s c 3 = some (gn, g) → g.rank ≠ 0 →
    (sortIv ((chanAt s c).trn.sheaves.map (fun f => (f.num, f.sumSq.toNat)))).map (fun p => (BitVec.ofNat 32 p.2 : F32)) = x :: xs →
    exec (.normStart c) s = .next (sendGroup gn (memberId g 0) (normMsg 0 (xs.foldl fAdd x) ((chanAt s c).trn.ovf.contains n))
      (addColl gn { kind := 2, ch := c, step := n } (modTrn s c (fun t => { t with normIn := true, phase := 2 }))))) ∧
  (∀ (c : Nat) (s : State), c < 4096 → commitReady s c = true →
    Goes (.stepCommit c) s (fun v => v = commitStep c ((chanAt s c).trn.recorded + 1) s ∧
      (chanAt v c).trn.committed = (chanAt s c).trn.recorded + 1 ∧ (chanAt v c).trn.recorded = (chanAt s c).trn.recorded + 1 ∧
      (chanAt v c).trn.sheaves = [] ∧ (chanAt v c).trn.close = none ∧ (chanAt v c).trn.consecSkips = 0)) ∧
  (∀ (c : Nat) (d : ExportDue) (rest : List ExportDue) (s u : State) (bs : List Byte) (t : Trn), c < 4096 → (chanAt s c).live = true →
    t = (chanAt s c).trn → t.exports = d :: rest → t.sink.set = true → segmentOf c (sinkEdge s t.sink) d t.resync s = (u, bs) →
    bs.length ≤ sinkRoom t.sink →
    exec (.deltaExportStart c) s = .next (modTrn (modTrn u c (fun t => { t with exports := rest })) c (fun x => { x with
      resync := false, segs := x.segs ++ [{ step := d.step, bytes := bs, resync := t.resync, tensors := dueTensors d }] }))) ∧
  (∀ (c off : Nat) (g : DeltaSeg) (s : State) (t : Trn), c < 4096 → t = (chanAt s c).trn →
    t.segs.find? (fun g => g.at_.isNone || !segBusy s c g.step) = some g → g.at_ = none → sinkPlace t g.bytes.length = some off →
    t.sink.peer = false → copyOpen s c = true → t.sink.set = true → g.bytes.length ≤ t.sink.size →
    exec (.deltaSegmentWrite c) s = .next (hostWrite 2 c g.step (t.sink.base + off) g.bytes none
      (freeStaging c g.tensors (modTrn (modSeg c g.step (fun g => { g with at_ := some off }) s) c (fun t => { t with
        deltaTail := off + g.bytes.length, deltaLive := t.deltaLive ++ [(off, off + g.bytes.length)] }))))) ∧
  (∀ (c n : Nat) (s : State) (t : Trn) (lost : List DeltaSeg), c < 4096 → (chanAt s c).live = true → t = (chanAt s c).trn →
    lost = t.segs.filter (segWaits s c) → (lost.map (·.step) ++ t.exports.map (·.step)).head? = some n →
    bits (numOf s c n).trnCtrl 15 0 ≠ 0 →
    exec (.deltaWaitTimeout c) s = .next (deltaBreak c (freeStaging c (t.exports.flatMap dueTensors ++ lost.flatMap (·.tensors))
      (modTrn s c (fun t => { t with exports := [], segs := t.segs.filter (fun g => !segWaits s c g) }))))) ∧
  (∀ (c : Nat) (w : Word) (s : State), c < 4096 → (chanAt s c).live = true → s.cxl.mode ≠ 0 →
    exec (.deltaHeadWrite c w) s = .next (modTrn s c (fun t => { t with
      deltaHead := w.toNat, deltaLive := releaseTo w.toNat t.deltaLive })))

namespace Sys2Proof.Claim

/-- A collective command may act on its group: the channel's own, neither ABORTED nor fenced. -/
abbrev GroupServes (s : State) (src : CmdSrc) (e : Entry) : Prop :=
  ownGroup s (chOf s src e) (bits e.a0 9 0) = true ∧ (groupAt s (bits e.a0 9 0)).aborted = false ∧
  ownGroup (begun src e s) (chOf s src e) (bits e.a0 9 0) = true ∧ (groupAt (begun src e s) (bits e.a0 9 0)).fenced = false

/-- The range that the root of a broadcast reads. -/
def bcastAccess (e : Entry) : List Access := [{ obj := bits e.a0 32 16, off := e.a1.toNat, n := e.a2.toNat }]

/-- The requester of a broadcast's reads: the slice of the port towards another member. -/
def bcastWho (s : State) (e : Entry) : Nat :=
  sliceOf s (memberId (groupAt s (bits e.a0 9 0)) ((otherMembers (groupAt s (bits e.a0 9 0))).headD 0))

/-- The access that a peer's request makes through its port. -/
def peerAccess (s : State) (m : Msg) (wrt : Bool) (n : Nat) : Access :=
  { write := wrt, fld := (portAgent s m []).fld, obj := m.obj, off := m.offset, n := n }

/-- The requester of a peer's accesses. -/
def peerWho (s : State) (m : Msg) : Nat := (portAgent s m []).req - 130

/-- A peer's request goes at once. -/
abbrev PeerGoes (s : State) (m : Msg) (wrt : Bool) (n : Nat) : Prop :=
  msgTurn s m = true ∧ remoteStatus s m wrt n = none ∧
  GoNow (keepMsg m s) (peerWho s m) (some (groupAt s m.group).ch) (portAgent s m []).req [peerAccess s m wrt n]

/-- The state in which a peer's request has left the queues of its homes. -/
def peerIn (s : State) (m : Msg) (wrt : Bool) (n : Nat) : State :=
  admitted (keepMsg m s) (peerWho s m) (some (groupAt s m.group).ch) [peerAccess s m wrt n]

/-- The homes that answer a peer's request poisoned. -/
def peerDead (s : State) (m : Msg) (wrt : Bool) (n : Nat) : List Nat :=
  silent (keepMsg m s) (peerWho s m) (some (groupAt s m.group).ch) [peerAccess s m wrt n]

/-- The group of a message takes it: it lives, its epoch is the message's, and it is neither fenced nor waiting to rejoin. -/
abbrev GroupTakes (g : Group) (m : Msg) : Prop :=
  g.live = true ∧ g.epoch = m.epoch ∧ (g.aborted && !g.rejoined) = false ∧ g.fenced = false

end Sys2Proof.Claim

/-- The torus, the routes and the groups. R339: TORUS_SET gives the module its device ID, the dimensions and the wraps. R340: ROUTE_SET
writes dimension-order routes for every destination, or a table of routes. R343 to R345: COLL_GROUP_CREATE makes a group whose
descriptor is in range and lists the module. COLL_GROUP_FREE ends an idle group of the channel. R338: LINK_FENCE sends FENCE or UNFENCE to
every other member. -/
def Obligations.GroupsAreMade : Prop :=
  (∀ (src : CmdSrc) (e : Entry) (s b : State), Taken 0x0A src e s → b = begun src e s →
    (∀ a, a < 3 → coord (bits e.a0 15 0) a < dimOf (bits e.a0 31 16) a) → (∀ p, p < 6 → (portAt b p).st ≠ 5) →
    Ends (.torusSet src e) src e s ST_OK [] (modLinks b (fun l => { l with
      deviceId := bits e.a0 15 0, dims := bits e.a0 31 16, assigned := true,
      ports := l.ports.zipIdx.map (fun q => { q.1 with wrap := bit e.a0 (32 + q.2) }) }))) ∧
  (∀ (src : CmdSrc) (e : Entry) (s : State), Taken 0x0A src e s →
    (∃ a, a < 3 ∧ dimOf (bits e.a0 31 16) a ≤ coord (bits e.a0 15 0) a) →
    Ends (.torusSet src e) src e s ST_BAD_COMMAND [] (begun src e s)) ∧
  (∀ (src : CmdSrc) (e : Entry) (s : State), Taken 0x0B src e s → bit e.a0 0 = false →
    Ends (.routeSet src e) src e s ST_OK [] (modLinks (begun src e s) (fun l => { l with
      routes := smWriteRun (fun _ => 0) [] 0 ((List.range 65536).map (fun d => BitVec.ofNat 32 (dorEntry l.deviceId l.dims d))) }))) ∧
  (∀ (src : CmdSrc) (e : Entry) (s b t : State) (o : Obj) (n : Nat) (bs : List Byte) (es : List Nat), Taken 0x0B src e s →
    b = begun src e s → bit e.a0 0 = true → o = objAt b (bits e.a1 16 0) → n = bits e.a3 32 16 → 0 < n → bits e.a3 15 0 + n ≤ 65536 →
    o.valid = true → e.a2.toNat + 4 * n ≤ o.size → objRead {} (bits e.a1 16 0) e.a2.toNat (4 * n) b = (t, bs, 0) →
    es = (chunksOf 4 (n + 1) bs).map leValue → (∀ v ∈ es, v.testBit 7 = false ∧ nbits v 31 16 = 0 ∧ (v.testBit 6 = true → nbits v 2 0 < 6 →
      nbits v 5 3 = if nbits v 2 0 % 2 = 0 then nbits v 2 0 + 1 else nbits v 2 0 - 1)) →
    Ends (.routeSet src e) src e s ST_OK [] (modLinks t (fun l => { l with
      routes := smWriteRun (fun _ => 0) l.routes (bits e.a3 15 0) (es.map (BitVec.ofNat 32)) }))) ∧
  (∀ (src : CmdSrc) (e : Entry) (s b : State) (bs : List Byte) (g : Group) (gn n o a : Nat), Taken 0x40 src e s → b = begun src e s →
    tableBytes b (chOf s src e) (bits e.a0 16 0) e.a1.toNat 64 = some bs → descGroup bs = (g, gn, o, n, a) → descRsv bs = true →
    descOk b (chOf s src e) gn n g = true → g.role ≠ 3 →
    Ends (.collGroupCreate src e) src e s ST_OK [] (modGroup b gn (fun _ => { g with
      ch := chOf s src e, members := axisMembers b.links.dims g }))) ∧
  (∀ (src : CmdSrc) (e : Entry) (s b : State) (bs l : List Byte) (g : Group) (gn n o a : Nat) (ms : List (Nat × Bool)),
    Taken 0x40 src e s → b = begun src e s → tableBytes b (chOf s src e) (bits e.a0 16 0) e.a1.toNat 64 = some bs →
    descGroup bs = (g, gn, o, n, a) → descRsv bs = true → descOk b (chOf s src e) gn n g = true → g.role = 3 →
    tableBytes b (chOf s src e) o a (4 * n) = some l → normMembers n l = some ms → (ms.getD g.rank (0, false)).1 = b.links.deviceId →
    Ends (.collGroupCreate src e) src e s ST_OK [] (modGroup b gn (fun _ => { g with ch := chOf s src e, members := ms }))) ∧
  (∀ (src : CmdSrc) (e : Entry) (s b : State), Taken 0x41 src e s → b = begun src e s →
    (if ownGroup b (chOf s src e) (bits e.a0 9 0) = false then Ends (.collGroupFree src e) src e s ST_COLL_INVALID [] b
    else if (groupAt b (bits e.a0 9 0)).colls ≠ [] then Ends (.collGroupFree src e) src e s ST_BUSY [] b
    else Ends (.collGroupFree src e) src e s ST_OK [] (modLinks b (fun l => { l with groups := smErase (bits e.a0 9 0) l.groups })))) ∧
  (∀ (src : CmdSrc) (e : Entry) (s b : State), Taken 0x47 src e s → b = begun src e s → (groupAt b (bits e.a0 9 0)).live = true →
    (∀ c, src = .ring c → (groupAt b (bits e.a0 9 0)).ch = c) →
    Ends (.linkFence src e) src e s ST_OK [] (sendMembers (bits e.a0 9 0) { kind := if bit e.a0 10 then 2 else 1 } b)) ∧
  (∀ (src : CmdSrc) (e : Entry) (s b : State), Taken 0x47 src e s → b = begun src e s → (groupAt b (bits e.a0 9 0)).live = false →
    Ends (.linkFence src e) src e s ST_COLL_INVALID [] b)

/-- The collective commands (R346, R350, R356). A broadcast's root sends its range to every other member and a member waits for it; a send
waits for CTS and a receive gives it; a barrier tells every other member; a group of one completes at once; a fenced group answers
ST_FENCED, and another channel's group ST_COLL_INVALID. A re-shard makes its new arrays, enters the old group and sends its plan. -/
def Obligations.CollectivesBegin : Prop :=
  (∀ (src : CmdSrc) (e : Entry) (s b t : State) (g : Group) (dead : List Nat) (bs : List Byte), Taken 0x42 src e s →
    GroupServes s src e → GoNow s (bcastWho s e) (some (chOf s src e)) 140 (bcastAccess e) →
    b = begun src e (admitted s (bcastWho s e) (some (chOf s src e)) (bcastAccess e)) →
    dead = silent s (bcastWho s e) (some (chOf s src e)) (bcastAccess e) →
    g = groupAt b (bits e.a0 9 0) → bits e.a0 15 10 = selfIndex g → bits e.a0 15 10 < g.members.length →
    rangeStatus s (chOf s src e) false (bits e.a0 32 16) e.a1.toNat e.a2.toNat = none → 0 < e.a2.toNat → otherMembers g ≠ [] →
    objRead (collAgent (chOf s src e) dead) (bits e.a0 32 16) e.a1.toNat e.a2.toNat b = (t, bs, 0) →
    Ends (.collBcast src e) src e s ST_OK []
      ((otherMembers g).foldl (fun s i => sendChunks (bits e.a0 9 0) (memberId g i) 3 (tagTo 0 i) bs s) t)) ∧
  (∀ (src : CmdSrc) (e : Entry) (s b : State) (g : Group), Taken 0x42 src e s → b = begun src e s → GroupServes s src e →
    g = groupAt b (bits e.a0 9 0) → bits e.a0 15 10 ≠ selfIndex g → bits e.a0 15 10 < g.members.length →
    rangeStatus b (chOf s src e) true (bits e.a0 32 16) e.a1.toNat e.a2.toNat = none → 0 < e.a2.toNat → otherMembers g ≠ [] →
    exec (.collBcast src e) s = .next (addColl (bits e.a0 9 0) {
        kind := 3, ch := chOf s src e, pos := some (cmdOf s src e).pos, obj := bits e.a0 32 16, offset := e.a1.toNat, len := e.a2.toNat,
        root := bits e.a0 15 10 } b)) ∧
  (∀ (src : CmdSrc) (e : Entry) (s b : State) (g : Group), Taken 0x43 src e s → b = begun src e s → GroupServes s src e →
    g = groupAt b (bits e.a0 9 0) →
    p2pStatus b (chOf s src e) (bits e.a0 9 0) (bits e.a0 15 10) false (bits e.a1 16 0) e.a2.toNat e.a3.toNat = none → otherMembers g ≠ [] →
    exec (.collSend src e) s = .next (addColl (bits e.a0 9 0) {
        kind := 4, ch := chOf s src e, pos := some (cmdOf s src e).pos, id := bits e.a0 63 32, obj := bits e.a1 16 0,
        offset := e.a2.toNat, len := e.a3.toNat, root := bits e.a0 15 10 } b)) ∧
  (∀ (src : CmdSrc) (e : Entry) (s b : State) (g : Group), Taken 0x44 src e s → b = begun src e s → GroupServes s src e →
    g = groupAt b (bits e.a0 9 0) →
    p2pStatus b (chOf s src e) (bits e.a0 9 0) (bits e.a0 15 10) true (bits e.a1 16 0) e.a2.toNat e.a3.toNat = none → otherMembers g ≠ [] →
    exec (.collRecv src e) s = .next (sendGroup (bits e.a0 9 0) (memberId g (bits e.a0 15 10)) { kind := 0x31, tag := bits e.a0 63 32 }
      (addColl (bits e.a0 9 0) {
        kind := 5, ch := chOf s src e, pos := some (cmdOf s src e).pos, id := bits e.a0 63 32, obj := bits e.a1 16 0,
        offset := e.a2.toNat, len := e.a3.toNat, root := bits e.a0 15 10 } b))) ∧
  (∀ (src : CmdSrc) (e : Entry) (s b : State), Taken 0x45 src e s → b = begun src e s → GroupServes s src e →
    otherMembers (groupAt b (bits e.a0 9 0)) ≠ [] →
    exec (.collBarrier src e) s = .next (sendMembers (bits e.a0 9 0) { kind := 0x32 }
      (addColl (bits e.a0 9 0) { kind := 6, ch := chOf s src e, pos := some (cmdOf s src e).pos } b))) ∧
  (∀ (src : CmdSrc) (e : Entry) (s b : State), Taken 0x45 src e s → b = begun src e s → GroupServes s src e →
    otherMembers (groupAt b (bits e.a0 9 0)) = [] → Ends (.collBarrier src e) src e s ST_OK [] b) ∧
  (∀ (i : Instr) (op : Nat) (src : CmdSrc) (e : Entry) (s : State), (i, op) ∈ [
      (.collBcast src e, 0x42), (.collSend src e, 0x43), (.collRecv src e, 0x44), (.collBarrier src e, 0x45)] → Taken op src e s →
    (ownGroup s (chOf s src e) (bits e.a0 9 0) = false → ownGroup (begun src e s) (chOf s src e) (bits e.a0 9 0) = false →
      Ends i src e s ST_COLL_INVALID [] (begun src e s)) ∧
    (ownGroup s (chOf s src e) (bits e.a0 9 0) = true → (groupAt s (bits e.a0 9 0)).aborted = true → exec i s = .next s)) ∧
  (∀ (src : CmdSrc) (e : Entry) (s b : State) (g : Group) (old : Option (Nat × Group)) (ms ns : List (Nat × Nat)) (gn : Nat),
    Taken 0x46 src e s → b = begun src e s → stepAt s (chOf s src e) (cmdOf s src e).pos ≤ (chanAt s (chOf s src e)).trn.recorded + 1 →
    (resh (chOf s src e) s).active = false → old = roleGroup s (chOf s src e) 0 →
    (∀ x, old = some x → x.2.aborted = false ∧ x.2.fenced = false) → gn = bits e.a0 14 5 → g = groupAt b gn →
    (setAt b (chOf s src e) (bits e.a0 3 0)).valid = true → chanPinned b (chOf s src e) = false → bit e.a0 4 = false →
    ownGroup b (chOf s src e) gn = true → g.role = 0 ∨ g.role = 4 →
    ms = (match old with | some o => o.2.members.map (fun m => (m.1, o.1)) | none => [(b.links.deviceId, gn)]) →
    ns = (g.members.filter (fun m => !ms.any (fun d => d.1 == m.1))).map (fun m => (m.1, gn)) →
    exec (.reshard src e) s = .next (tryPlans (chOf s src e) (sendPlan (chOf s src e) (addColl ((old.map (·.1)).getD gn) {
        kind := 7, ch := chOf s src e, pos := some (cmdOf s src e).pos, step := (chanAt b (chOf s src e)).trn.recorded, set := bits e.a0 3 0 }
      (reshAlloc (chOf s src e) (modResh (chOf s src e) (fun _ => {
        active := true, pos := (cmdOf s src e).pos, step := (chanAt b (chOf s src e)).trn.recorded,
        set := bits e.a0 3 0, leave := false, newGroup := gn, oldGroup := old.map (·.1), members := ms ++ ns,
        cut := some { axis := g.axis, extent := g.extent, origin := g.origin }, newC := g.index }) b)))))) ∧
  (∀ (src : CmdSrc) (e : Entry) (s b : State) (g o : Group) (on : Nat), Taken 0x46 src e s → b = begun src e s →
    stepAt s (chOf s src e) (cmdOf s src e).pos ≤ (chanAt s (chOf s src e)).trn.recorded + 1 →
    (resh (chOf s src e) s).active = false → roleGroup s (chOf s src e) 0 = some (on, o) → o.aborted = false → o.fenced = false →
    (setAt b (chOf s src e) (bits e.a0 3 0)).valid = true → chanPinned b (chOf s src e) = false → bit e.a0 4 = true →
    g = groupAt b (bits e.a0 14 5) →
    exec (.reshard src e) s = .next (tryPlans (chOf s src e) (sendPlan (chOf s src e) (addColl on {
        kind := 7, ch := chOf s src e, pos := some (cmdOf s src e).pos, step := (chanAt b (chOf s src e)).trn.recorded, set := bits e.a0 3 0 }
      (modResh (chOf s src e) (fun _ => {
        active := true, pos := (cmdOf s src e).pos, step := (chanAt b (chOf s src e)).trn.recorded,
        set := bits e.a0 3 0, leave := true, newGroup := bits e.a0 14 5, oldGroup := some on,
        members := o.members.map (fun m => (m.1, on)), newC := g.index }) b)))))

/-- Messages that arrive. R336: a read request is answered with the bytes and a write request is applied and acknowledged, or either with
ERR; it waits while its granule moves (R237). R338: FENCE discards what the group waits to receive, and UNFENCE ends that. R261: a block that
failed is sent again, plain. R350, R346: CTS lets a send go, and a barrier ends with the last other member. R346, R353: a chunk goes to its
collective, and one of another epoch is discarded and counted. R336: WR_ACK ends a segment's piece and ERR abandons the segment. -/
def Obligations.MessagesAreServed : Prop :=
  (∀ (m : Msg) (s t u : State) (bs : List Byte), m.kind = 0x10 → PeerGoes s m false m.length → u = peerIn s m false m.length →
    objRead (portAgent u m (peerDead s m false m.length)) m.obj m.offset m.length (takeMsg m u) = (t, bs, 0) →
    exec (.rdReq m) s = .next (respond m 0x20 m.offset bs t)) ∧
  (∀ (m : Msg) (st cause : Nat) (s : State), m.kind = 0x10 → msgTurn s m = true → remoteStatus s m false m.length = some (st, cause) →
    exec (.rdReq m) s = .next (remoteErr m false st cause (takeMsg m s))) ∧
  (∀ (m : Msg) (s t u : State), m.kind = 0x11 → m.fail = 0 → PeerGoes s m true m.data.length → u = peerIn s m true m.data.length →
    (∀ r ∈ writeRuns u (objAt u m.obj) m.offset m.data.length, homeDown u (keyHome r.1) = false) →
    objWrite (portAgent u m (peerDead s m true m.data.length)) m.obj m.offset m.data (takeMsg m u) = (t, false) →
    exec (.wrReq m) s = .next (respond m 0x21 m.offset [] t)) ∧
  (∀ (m : Msg) (s : State), m.kind = 0x11 → m.fail = 0 → msgTurn s m = true → remoteStatus s m true m.data.length = none →
    accessStuck (keepMsg m s) (portAgent s m []).req (peerAccess s m true m.data.length) = none →
    (∀ e ∈ requests (keepMsg m s) (peerWho s m) (some (groupAt s m.group).ch) [peerAccess s m true m.data.length],
      ∀ x ∈ engineOf (keepMsg m s) e.1, sameEntry e.2 x = false) →
    rangeBusy s m.obj m.offset m.data.length = true →
    exec (.wrReq m) s = .next (noteHeld (peerWho s m) (keepMsg m s) (peerAccess s m true m.data.length))) ∧
  (∀ (m : Msg) (st cause : Nat) (s : State), m.kind = 0x11 → msgTurn s m = true → remoteStatus s m true m.data.length = some (st, cause) →
    exec (.wrReq m) s = .next (remoteErr m true st cause (takeMsg m s))) ∧
  (∀ (m : Msg) (s : State), m.kind = 0x01 → (groupAt s m.group).live = true →
    (∀ q ∈ s.links.inbox, q.m.group = m.group → kindVc q.m.kind ≠ 1) →
    Goes (.fence m) s (fun t => (groupAt t m.group).fenced = true ∧
      (∀ q ∈ t.links.inbox, q.m.group = m.group → kindVc q.m.kind ≠ 1 ∧ kindVc q.m.kind ≠ 3) ∧ t = { s with links := t.links })) ∧
  (∀ (m : Msg) (s : State), m.kind = 0x02 → (groupAt s m.group).live = true →
    Goes (.unfence m) s (fun t => (groupAt t m.group).fenced = false ∧ (∀ g, g ≠ m.group → groupAt t g = groupAt s g) ∧
      t = { s with links := t.links })) ∧
  (∀ (m : Msg) (t : TxMsg) (p pos : Nat) (b : List Byte) (s : State), m.kind = 0x06 → pos = leValue (m.data.take 4) →
    (List.range 6).findSome? (fun p => if (portAt (takeMsg m s) p).peerId = m.src then
      ((portAt (takeMsg m s) p).huskSent.reverse.find? (fun t => t.m.tag == m.tag && t.m.group == m.group && t.m.epoch == m.epoch &&
        t.m.offset == m.offset && t.m.obj == m.obj && decide (firstBlock t.m ≤ pos) &&
        decide (4096 * (pos - firstBlock t.m) < t.m.data.length))).map (fun q => (p, q)) else none) = some (p, t) →
    b = (t.m.data.drop (4096 * (pos - firstBlock t.m))).take 4096 →
    exec (.huskResend m) s = .next (enqueueMsg p { m := { t.m with
      offset := t.m.offset + 4096 * (pos - firstBlock t.m), length := b.length, data := b }, vc := t.vc, cls := t.cls, plain := true } (takeMsg m s))) ∧
  (∀ (m : Msg) (s : State), m.kind = 0x20 → msgTurn s m = true → m.gen = sliceGen (takeMsg m s) (routeOf (takeMsg m s) m.src) →
    exec (.rdResp m) s = .next (takeMsg m s)) ∧
  (∀ (m : Msg) (s : State), m.kind = 0x20 → msgTurn s m = true → m.gen ≠ sliceGen (takeMsg m s) (routeOf (takeMsg m s) m.src) →
    exec (.rdResp m) s = .next (cntInc .abl Reg.ABL_CNT_STALE_DROP (setEv .abl Reg.ABL_EVENT Bit.ABL_EVENT_STALE_DROP (takeMsg m s)))) ∧
  (∀ (m : Msg) (y : Coll) (s t u : State) (l : List Access) (bs : List Byte), m.kind = 0x31 → GroupTakes (groupAt s m.group) m →
    (groupAt s m.group).colls.find? (fun y => y.kind == 4 && y.id == m.tag && memberId (groupAt s m.group) y.root == m.src) = some y →
    l = [{ obj := y.obj, off := y.offset, n := y.len }] → GoNow (keepMsg m s) (sliceOf s m.src) (some y.ch) 140 l →
    u = admitted (keepMsg m s) (sliceOf s m.src) (some y.ch) l →
    objRead (collAgent y.ch (silent (keepMsg m s) (sliceOf s m.src) (some y.ch) l)) y.obj y.offset y.len (takeMsg m u) = (t, bs, 0) →
    exec (.cts m) s = .next (endColl m.group y ST_OK [] (sendChunks m.group m.src 4 m.tag bs t))) ∧
  (∀ (m : Msg) (i : Nat) (y : Coll) (s : State) (g : Group), m.kind = 0x32 → g = groupAt s m.group → GroupTakes g m →
    indexOfDev g m.src = some i →
    g.colls.find? (fun y => y.kind == 6 && !y.got.any (fun e => some e.1 == indexOfDev g m.src)) = some y →
    exec (.barrier m) s = .next (if (otherMembers g).all (fun k => (y.got ++ [(i, 0, 0)]).any (fun e => e.1 == k)) then
        endColl m.group y ST_OK [] (takeMsg m s)
      else modColl m.group y { y with got := y.got ++ [(i, 0, 0)] } (takeMsg m s))) ∧
  (∀ (i : Instr) (k : Nat) (m : Msg) (s : State) (g : Group), (i, k) ∈ [(.chunk m, 0x30), (.cts m, 0x31), (.barrier m, 0x32)] →
    m.kind = k → g = groupAt s m.group → g.live = true → g.epoch ≠ m.epoch →
    exec i s = .next (cntInc .abl Reg.ABL_CNT_STALE_DROP (setEv .abl Reg.ABL_EVENT Bit.ABL_EVENT_STALE_DROP (takeMsg m s)))) ∧
  (∀ (m : Msg) (s : State) (g : Group) (f : Msg → State → State), m.kind = 0x30 → g = groupAt s m.group → GroupTakes g m →
    (m.obj, f) ∈ ([(0, gatherChunk), (1, rsChunk), (2, normChunk), (3, rangeChunk), (4, rangeChunk), (5, versionChunk), (7, reshChunk)] :
      List (Nat × (Msg → State → State))) →
    exec (.chunk m) s = .next (f m s)) ∧
  (∀ (m : Msg) (r : Remote) (s t : State), m.kind = 0x21 → msgTurn s m = true → m.gen = sliceGen s (some r.port) →
    s.links.remote.find? (fun r => r.tag == m.tag) = some r →
    t = modLinks (takeMsg m s) (fun l => { l with remote := l.remote.filter (fun q => q.tag != m.tag) }) →
    exec (.wrAck m) s = .next (if segBusy t r.ch r.step then t else deltaDone r.ch r.step t)) ∧
  (∀ (m : Msg) (r : Remote) (s : State), m.kind = 0x22 → msgTurn s m = true → m.gen = sliceGen s (some r.port) →
    s.links.remote.find? (fun r => r.tag == m.tag) = some r →
    Goes (.err m) s (fun t => (∀ q ∈ t.links.remote, ¬ (q.ch = r.ch ∧ q.step = r.step)) ∧ (chanAt t r.ch).trn.deltaBroken = true ∧
      (chanAt t r.ch).trn.resync = true ∧ ∀ g ∈ (chanAt t r.ch).trn.segs, g.step ≠ r.step))

/-- Recovery among modules. R351: a collective that takes too long fails, its group is ABORTED and the attempt aborts. R353: the step a
STEP_ABORT names aborts with the status it carries, an older one is ignored. R460: REJOIN with no decision is answered with this module's
report; the initiator decides when every member has answered; a decision is applied once (R462). R352: a member that waits long enough
starts the rejoin with its epoch + 1, and repeats it with the same epoch when an answer is late. R356, R357: PLAN and RESHARD_READY of the
re-shard that runs are taken, and one of a re-shard not begun here waits. -/
def Obligations.ModulesRejoin : Prop :=
  (∀ (gn i : Nat) (y : Coll) (s : State), gn < 1024 → (groupAt s gn).colls[i]? = some y → y.kind ≠ 7 →
    Goes (.collTimeout gn i) s (fun t => ∃ u v, t = abortAttempt (groupAt s gn).ch ST_COLL_TIMEOUT 0xFF
        (modGroup u gn (fun g => { g with aborted := decide (1 < g.members.length), rejoined := false, colls := [] })) ∧
      v = cntInc .abl Reg.ABL_CNT_COLL_TIMEOUT (setEv .abl Reg.ABL_EVENT Bit.ABL_EVENT_COLL_TIMEOUT (endColl gn y ST_COLL_TIMEOUT [] s)) ∧
      u = logRec {
          source := 5, cause := 2, severity := 2, status := ST_COLL_TIMEOUT, channel := handleOf v (groupAt s gn).ch,
          step := attemptOf (chanAt v (groupAt s gn).ch), detail := put gn 9 0 + put (groupAt s gn).epoch 31 16 } v)) ∧
  (∀ (gn i : Nat) (r : Remote) (s : State), gn < 1024 → (groupAt s gn).colls[i]? = none →
    (s.links.remote.filter (fun r => r.group == gn))[i - (groupAt s gn).colls.length]? = some r →
    Goes (.collTimeout gn i) s (fun t => ∃ u v, t = abortAttempt (groupAt v gn).ch ST_COLL_TIMEOUT 0xFF
        (modGroup u gn (fun g => { g with aborted := decide (1 < g.members.length), rejoined := false, colls := [] })) ∧
      v = cntInc .abl Reg.ABL_CNT_COLL_TIMEOUT (setEv .abl Reg.ABL_EVENT Bit.ABL_EVENT_COLL_TIMEOUT (segLost r s)) ∧
      u = logRec {
          source := 5, cause := 2, severity := 2, status := ST_COLL_TIMEOUT, channel := handleOf v (groupAt v gn).ch,
          step := attemptOf (chanAt v (groupAt v gn).ch), detail := put gn 9 0 + put (groupAt v gn).epoch 31 16 } v)) ∧
  (∀ (m : Msg) (s : State) (g : Group), m.kind = 3 → g = groupAt s m.group → g.live = true → g.role = 3 → m.epoch = g.epoch →
    leAt m.data 0 8 = attemptOf (chanAt s g.ch) →
    Goes (.stepAbort m) s (fun t => ∃ u, u = offerEpoch m.group m.epoch s ∧ t = abortAttempt g.ch (leAt m.data 8 2) 0xFF
      (setEv .abl Reg.ABL_EVENT Bit.ABL_EVENT_STEP_ABORT_RX (takeMsg m u)))) ∧
  (∀ (m : Msg) (s : State) (g : Group), m.kind = 3 → g = groupAt s m.group → g.live = true → g.role = 3 → m.epoch = g.epoch →
    leAt m.data 0 8 < attemptOf (chanAt s g.ch) →
    exec (.stepAbort m) s = .next (setEv .abl Reg.ABL_EVENT Bit.ABL_EVENT_STEP_ABORT_RX (takeMsg m (offerEpoch m.group m.epoch s)))) ∧
  (∀ (m : Msg) (s u : State) (g : Group), m.kind = 4 → (groupAt s m.group).live = true → u = modGroup (offerEpoch m.group m.epoch s) m.group (fun g => { g with rejoined := g.aborted }) →
    g = groupAt u m.group → m.epoch = g.epoch → rjDecided (rjWords m.data) = true → g.role = 3 → g.decided ≠ g.epoch + 1 →
    exec (.rejoin m) s = .next (applyDecision g.ch (rjWords m.data) (modGroup
      (setEv .abl Reg.ABL_EVENT Bit.ABL_EVENT_REJOIN_RX (takeMsg m u)) m.group (fun g => { g with decided := g.epoch + 1 })))) ∧
  (∀ (m : Msg) (s u : State) (g : Group), m.kind = 4 → (groupAt s m.group).live = true → u = modGroup (offerEpoch m.group m.epoch s) m.group (fun g => { g with rejoined := g.aborted }) →
    g = groupAt u m.group → m.epoch = g.epoch → rjDecided (rjWords m.data) = true → g.role = 3 → g.decided = g.epoch + 1 →
    exec (.rejoin m) s = .next (setEv .abl Reg.ABL_EVENT Bit.ABL_EVENT_REJOIN_RX (takeMsg m u))) ∧
  (∀ (m : Msg) (s u v : State) (g : Group), m.kind = 4 → (groupAt s m.group).live = true → u = modGroup (offerEpoch m.group m.epoch s) m.group (fun g => { g with rejoined := g.aborted }) →
    g = groupAt u m.group → m.epoch = g.epoch → rjDecided (rjWords m.data) = false → rejoinBlocked u g.ch = false → g.role = 3 →
    v = setEv .abl Reg.ABL_EVENT Bit.ABL_EVENT_REJOIN_RX (takeMsg m u) →
    exec (.rejoin m) s = .next (sendGroup m.group m.src { kind := 5, length := 48, data := rjBytes (ownReport v g.ch) } v)) ∧
  (∀ (m : Msg) (s : State) (g : Group), m.kind = 5 → g = groupAt s m.group → g.live = true → g.rejoining = true → g.epoch = m.epoch →
    exec (.rejoinAck m) s = .next (tryDecide m.group (modGroup (takeMsg m s) m.group (fun g => { g with
      acks := g.acks.filter (fun a => a.1 != m.src) ++ [(m.src, rjWords m.data)] })))) ∧
  (∀ (gn : Nat) (s : State), gn < 1024 → (groupAt s gn).live = true → (groupAt s gn).aborted = true → (groupAt s gn).rejoining = false →
    exec (.rejoinWaitExpire gn) s = .next (sendRejoin gn (modGroup s gn (fun g => { g with epoch := (g.epoch + 1) % 65536, acks := [] })))) ∧
  (∀ (gn : Nat) (s : State), gn < 1024 → (groupAt s gn).live = true → (groupAt s gn).rejoining = true →
    exec (.rejoinAckTimeout gn) s = .next (sendRejoin gn s)) ∧
  (∀ (m : Msg) (s : State), m.kind = 7 → (groupAt s m.group).live = true → reshMine m s = true →
    exec (.plan m) s = .next (tryPlans (groupAt s m.group).ch (sendPlan (groupAt s m.group).ch (modResh (groupAt s m.group).ch (fun r => { r with
      plans := if r.plans.any (fun p => p.1 == m.src) then r.plans
        else r.plans ++ [(m.src, leAt m.data 0 4, leAt m.data 4 1 != 0)],
      cut := some (r.cut.getD { axis := leAt m.data 5 1, extent := leAt m.data 6 1, origin := leAt m.data 7 2 }) }) (takeMsg m s))))) ∧
  (∀ (m : Msg) (s : State), m.kind = 8 → (groupAt s m.group).live = true → reshMine m s = true →
    exec (.reshardReady m) s = .next (trySwitch (groupAt s m.group).ch (modResh (groupAt s m.group).ch (fun r => { r with
      ready := if r.ready.contains m.src then r.ready else r.ready ++ [m.src] }) (takeMsg m s)))) ∧
  (∀ (i : Instr) (k : Nat) (m : Msg) (s : State), (i, k) ∈ [(.plan m, 7), (.reshardReady m, 8)] → m.kind = k →
    (groupAt s m.group).live = true → reshMine m s = false → exec i s = .next (keepMsg m s))


/-- Parts at their homes. R183, R204 to R208, R227: a part whose turn it is, is served, after the symbol errors that the event plants and the
corrections that it reports are counted, and copies go on. R185, R186, R247: a bank with requests pending that has been silent raises BANK_SLOW
once, and after 2 ms answers its requests poisoned and flags its domain. R209, R246: the patrol scrub reads the next codeword, and after the
last one begins anew. R206: with auto erase on, a die with more than 4,096 corrections in a pass is erased. -/
def Obligations.HomesServeTheirParts : Prop :=
  (∀ (i t rid sec : Nat) (errs : List (Nat × List (Nat × Nat))) (s u : State), i < 16 →
    u = plantErrs i errs (cntAdd (.yst i) Reg.YST_CNT_CE_DIE sec s) → mayServe u i t rid = true → isAccum u t rid = false →
    exec (.stackPartServe i t rid sec errs) s = .next (copyPump (servePart i t rid u))) ∧
  (∀ (d t rid : Nat) (errs : PartErrs) (s u : State), d < 32 →
    u = errs.map.foldl (fun s l => mapParity (16 + d) l s) (plantErrs (16 + d) errs.syms s) → mayServe u (16 + d) t rid = true →
    isAccum u t rid = false → exec (.dtPartServe d t rid errs) s = .next (copyPump (servePart (16 + d) t rid u))) ∧
  (∀ (i ch bank us : Nat) (s : State), i < 48 → 0 < pendingCount s i (bankOf ch bank) → (i < 16 → (stackAt s i).thermal = false) →
    slowRaised s i (bankOf ch bank) = false →
    exec (.bankSlow i ch bank us) s = .next (setEv (if i < 16 then .yst i else .dtr (i - 16))
      (if i < 16 then Reg.YST_EVENT else Reg.DTR_EVENT) (if i < 16 then Bit.YST_EVENT_BANK_SLOW else Bit.DTR_EVENT_BANK_SLOW)
      (raiseSlow i (bankOf ch bank) (recordBank i ch bank (pendingCount s i (bankOf ch bank)) us s)))) ∧
  (∀ (i ch bank us : Nat) (s : State), i < 48 → slowRaised s i (bankOf ch bank) = true → exec (.bankSlow i ch bank us) s = .next s) ∧
  (∀ (i ch bank us : Nat) (s : State), i < 16 → 0 < pendingCount s i (bankOf ch bank) → (stackAt s i).thermal = false →
    exec (.bankTimeout i ch bank us) s = .next (copyPump (bankTimeout i ch bank us s))) ∧
  (∀ (i ch bank us : Nat) (s : State), i < 16 → (stackAt s i).thermal = true → exec (.bankTimeout i ch bank us) s = .next s) ∧
  (∀ (d sub rank bank us : Nat) (s : State), d < 32 → 0 < pendingCount s (16 + d) (bankOf sub (rank * 16 + bank)) →
    exec (.dtBankTimeout d sub rank bank us) s = .next (copyPump (bankTimeout (16 + d) sub (rank * 16 + bank) us s))) ∧
  (∀ (i die n : Nat) (e : Word) (s : State), i < 16 → die < 16 → bit (rd s (.yst i) Reg.YST_CTRL) 12 = true →
    n = smGet (fun _ => 0) (stackAt s i).dieCe die → e = rd s (.yst i) Reg.YST_DIE_ERASE → bit e die = false →
    exec (.dieAutoErase i die) s = .next (if 4096 < n then setEv (.yst i) Reg.YST_EVENT Bit.YST_EVENT_DIE_ERASED
      (wr s (.yst i) Reg.YST_DIE_ERASE (e ||| word (2 ^ die))) else s)) ∧
  (∀ (i sec n : Nat) (err : List (Nat × Nat)) (s u : State), i < 16 → bits (rd s (.yst i) Reg.YST_CTRL) 7 0 ≠ 0 → homeDown s i = false →
    n = (stackAt s i).scrubPos → u = eccScan (physKey i (n / 64) (n % 64 * 64)) 64 (plantErrs i [(physKey i (n / 64) (n % 64 * 64) / 64, err)] s) →
    exec (.scrubRead i sec err) s = .next (if n + 1 = homeCodewords i then cntInc (.yst i) Reg.YST_CNT_SCRUB_PASSES
        (modStack (cntAdd (.yst i) Reg.YST_CNT_CE_DIE sec u) i (fun x => { x with scrubPos := 0, dieCe := [] }))
      else modStack (cntAdd (.yst i) Reg.YST_CNT_CE_DIE sec u) i (fun x => { x with scrubPos := n + 1 }))) ∧
  (∀ (d sec n : Nat) (err : List (Nat × Nat)) (s u : State), d < 32 → bits (rd s (.dtr d) Reg.DTR_CTRL) 7 0 ≠ 0 → homeDown s (16 + d) = false →
    n = (deepAt s d).scrubPos →
    u = eccScan (physKey (16 + d) (n / 64) (n % 64 * 64)) 64 (plantErrs (16 + d) [(physKey (16 + d) (n / 64) (n % 64 * 64) / 64, err)] s) →
    exec (.scrubRead (16 + d) sec err) s = .next (modDeep u d (fun x => { x with
      scrubPos := if n + 1 = homeCodewords (16 + d) then 0 else n + 1 })))

/-- Refresh and heat of the homes. R210, R248: a bank with requests pending puts off at most 8 refreshes, and one that owes them is refreshed.
R211: a stack takes its hottest die, refreshes twice as often above 85 degrees, is flagged THERMAL from 95 on until it is below 93,
and is flagged as a domain from 100 on; R248: a deep die above 95 is THERMAL until it is below 93, and is flagged as a domain from
105 on. -/
def Obligations.HomesRefreshAndCool : Prop :=
  (∀ (i ch bank n : Nat) (s : State), i < 48 → n = bankOf ch bank →
    exec (.bankRefresh i ch bank) s = .next (setDebt i n
      (if 0 < pendingCount s i n ∧ refreshDebt s i n < 8 then refreshDebt s i n + 1 else 0) s)) ∧
  (∀ (i ch bank : Nat) (s : State), i < 48 → 8 ≤ refreshDebt s i (bankOf ch bank) →
    exec (.refreshForce i ch bank) s = .next (setDebt i (bankOf ch bank) 0 s)) ∧
  (∀ (i m : Nat) (l : List Nat) (s : State), i < 16 → l.length = 16 → m ∈ l → (∀ x ∈ l, x ≤ m) → m < 100 →
    Goes (.stackTempSample i l) s (fun t => (stackAt t i).tempMax = m ∧ l[(stackAt t i).hotDie]? = some m ∧
      (stackAt t i).refresh2x = decide (85 < m) ∧ (stackAt t i).thermal = ((stackAt s i).thermal || decide (95 ≤ m)) ∧
      (∀ k, k ≠ i → stackAt t k = stackAt s k) ∧
      (95 ≤ m → (stackAt s i).thermal = false → bit (rd t (.yst i) Reg.YST_EVENT) Bit.YST_EVENT_THERM_LIMIT = true ∧
        bit (rd t .pwr Reg.PWR_EVENT) Bit.PWR_EVENT_STACK_HOT = true))) ∧
  (∀ (i m : Nat) (l : List Nat) (s : State), i < 16 → l.length = 16 → m ∈ l → (∀ x ∈ l, x ≤ m) → 100 ≤ m →
    Goes (.stackTempSample i l) s (fun t => ∃ u, (stackAt u i).thermal = true ∧
      t = flagDomain (0x20 + i) { source := 2, cause := 3, severity := 3, detail := homeDetail i (rd u (.yst i) Reg.YST_BANK_HEALTH) }
        (setEv (.yst i) Reg.YST_EVENT Bit.YST_EVENT_THERM_TRIP u))) ∧
  (∀ (i : Nat) (s : State), i < 16 → (stackAt s i).thermal = true → (stackAt s i).tempMax < 93 →
    exec (.stackThermExit i) s = .next (modStack s i (fun x => { x with thermal := false, st := if x.st = 1 then 0 else x.st }))) ∧
  (∀ (d m : Nat) (s : State), d < 32 → m < 105 →
    Goes (.dtTempSample d m) s (fun t => (deepAt t d).temp = m ∧ (deepAt t d).thermal = ((deepAt s d).thermal || decide (95 < m)) ∧
      (∀ k, k ≠ d → deepAt t k = deepAt s k) ∧
      (95 < m → (deepAt s d).thermal = false → bit (rd t (.dtr d) Reg.DTR_EVENT) Bit.DTR_EVENT_THERM_LIMIT = true ∧
        bit (rd t .pwr Reg.PWR_EVENT) Bit.PWR_EVENT_DEEP_HOT = true))) ∧
  (∀ (d m : Nat) (s : State), d < 32 → 105 ≤ m →
    Goes (.dtTempSample d m) s (fun t => ∃ u, (deepAt u d).thermal = true ∧
      t = flagDomain (0x30 + d / 8) { source := 3, cause := 3, severity := 3, detail := homeDetail (16 + d) (rd u (.dtr d) Reg.DTR_BANK_HEALTH) }
        (setEv (.dtr d) Reg.DTR_EVENT Bit.DTR_EVENT_THERM_TRIP u))) ∧
  (∀ (d : Nat) (s : State), d < 32 → (deepAt s d).thermal = true → (deepAt s d).temp < 93 →
    exec (.dtThermExit d) s = .next (modDeep s d (fun x => { x with thermal := false, st := if x.st = 1 then 0 else x.st })))

/-- Accumulation and the update unit. R192, R193: a part of an ACCUM whose turn it is is folded into its sheaf: in a deterministic channel in
the sheaf's order, in another as it arrives and once; one with no place in a sheaf is answered poisoned with SHEAF_EXTRA, and one
returned is offered again. R196 to R200: an item whose sets have their turn leaves the queue, and starts, or is rejected; a phase of the
running item ends; R275: at the last stack's report the tensor's scale returns, and the narrowing starts. -/
def Obligations.UpdatesAndSheavesProceed : Prop :=
  (∀ (i t rid tb tile off : Nat) (s : State) (q : MemReq) (p : Part) (f : Sheaf), i < 16 →
    (tillerAt s t).reqs.find? (fun q => q.rid == rid && q.kind == 3) = some q → partAt q i = some p → p.st = 1 → mayServe s i t rid = true →
    sheafOf s q.ch q.sheaf = some f → off = dOffset (q.d0, q.d1, q.d2, q.d3) → tb = sheafBytes f → tile = (off - f.accOffset) / tb →
    q.obj = f.accObj → f.accOffset ≤ off → off % tb = 0 → tile < f.tiles →
    (groupTile (setAt s q.ch f.set).tensors 0 (f.firstTile + tile)).isSome = true → f.firstMb ≤ q.mb → q.mb < f.firstMb + f.mbCount →
    q.source < f.ns →
    ((chanAt s q.ch).det = true → (q.mb - f.firstMb) * f.ns + q.source = cursorOf f tile i →
      (stackAt s i).holdBuf.any (fun x => x.ch == q.ch && x.sheaf == f.num && x.tile == tile && x.mb == q.mb && x.source == q.source) = false →
      Goes (.accumArrive i t rid) s (fun v => ∃ r, r = applyAccum q.ch i f tile q.mb q.source (cursorOf f tile i == 0) p.runs (accumElems q) s ∧
        v = drainHeld q.ch i f.num tile 512 (modSheaf q.ch f.num (bumpCursor tile i)
          (answerPart t rid i (fun p => { p with poison := r.2.1, cause := if r.2.1 then 8 else 0 }) r.1)))) ∧
    ((chanAt s q.ch).det = true → cursorOf f tile i < (q.mb - f.firstMb) * f.ns + q.source →
      (stackAt s i).holdBuf.any (fun x => x.ch == q.ch && x.sheaf == f.num && x.tile == tile && x.mb == q.mb && x.source == q.source) = false →
      (stackAt s i).holdBuf.length < 512 →
      exec (.accumArrive i t rid) s = .next (answerPart t rid i (fun p => p) (modStack s i (fun x => { x with holdBuf := x.holdBuf ++ [{
        sheaf := f.num, tile := tile, ch := q.ch, mb := q.mb, source := q.source, tiller := t, rid := rid, runs := p.runs, src := accumElems q }] })))) ∧
    ((chanAt s q.ch).det = false → f.applied.contains (tile * 16 + i, q.mb, q.source) = false →
      Goes (.accumArrive i t rid) s (fun v => ∃ r, r = applyAccum q.ch i f tile q.mb q.source (cursorOf f tile i == 0) p.runs (accumElems q) s ∧
        v = modSheaf q.ch f.num (fun f => { bumpCursor tile i f with applied := f.applied ++ [(tile * 16 + i, q.mb, q.source)] })
          (answerPart t rid i (fun p => { p with poison := r.2.1, cause := if r.2.1 then 8 else 0 }) r.1)))) ∧
  (∀ (i t rid : Nat) (s : State) (q : MemReq) (p : Part), i < 16 →
    (tillerAt s t).reqs.find? (fun q => q.rid == rid && q.kind == 3) = some q → partAt q i = some p → p.st = 1 → mayServe s i t rid = true →
    sheafOf s q.ch q.sheaf = none → exec (.accumArrive i t rid) s = .next (answerPart t rid i (fun p => { p with poison := true, cause := 11 })
      (setEv (.yst i) Reg.YST_EVENT Bit.YST_EVENT_SHEAF_EXTRA s))) ∧
  (∀ (i t rid : Nat) (q : MemReq) (p : Part) (s : State), i < 16 → q ∈ (tillerAt s t).reqs → q.rid = rid → q.landed = true → p ∈ q.parts →
    p.home = i → p.st = 3 →
    exec (.accumReoffer i t rid) s = .next (requeue t rid (fun q => { q with
      parts := q.parts.map (fun p => if p.st = 3 then { p with st := 0 } else p) }) s)) ∧
  (∀ (i : Nat) (q : QueuedItem) (l : List QueuedItem) (s u : State), i < 16 → (stackAt s i).run = none → (stackAt s i).updQueue = q :: l →
    updRuns s i (itemRead q) = true → u = modStack s i takeItem →
    exec (.updateItemStart i) s = .next (if itemOk u (itemRead q) (itemRsvOk q.bytes) = true then
      enterGranule i 257 (modStack u i (fun x => { x with run := some { item := itemRead q } })) else updReject i (itemRead q) u)) ∧
  (∀ (i : Nat) (r : UpdRun) (s : State), i < 16 → (stackAt s i).run = some r → updRuns s i r.item = true →
    exec (.updatePhaseDone i) s = .next (updPhase i r s)) ∧
  (∀ (c set_ tensor st n : Nat) (r : UpdRun) (m a : F32) (s u v : State) (l : List (Nat × Nat × Nat × F32)), c < 4096 →
    (List.range 16).find? (fun st => (stackAt s st).run.any (fun r => r.item.ch == c && r.item.set == set_ && r.item.idx == tensor &&
      r.phase == 3 && !r.reported && updRuns s st r.item)) = some st → (stackAt s st).run = some r → itemAmax st r.item s = (u, true, a) →
    v = modRun st (fun r => { r with reported := true }) u →
    l = (chanAt v c).trn.scaleReports.filter (fun e => !(e.1 == set_ && e.2.1 == tensor)) →
    ((chanAt v c).trn.scaleReports.find? (fun e => e.1 == set_ && e.2.1 == tensor)).getD (set_, tensor, 0, 0) = (set_, tensor, n, m) →
    exec (.scaleReport c set_ tensor) s = .next (if n + 1 = 16 then returnScale c set_ tensor (fMax m a) (modTrn v c (fun t => { t with scaleReports := l }))
      else modTrn v c (fun t => { t with scaleReports := l ++ [(set_, tensor, n + 1, fMax m a)] }))) ∧
  (∀ (i : Nat) (r : UpdRun) (s : State), i < 16 → (stackAt s i).run = some r → r.phase = 3 → r.scale.isSome = true → updRuns s i r.item = true →
    exec (.workNarrowStart i) s = .next (modRun i (fun r => { r with phase := 4, granule := 0 }) s))

/-- What goes over a link reads back as it was sent (Tables 10.2, 10.3 and 10.5): a training record, a flit, and the header of a message,
each with every field at every value that its bits admit. -/
def Obligations.LinkImagesReadBack : Prop :=
  (∀ r : TrainRec, r.format < 256 → r.port < 8 → r.lanes < 256 → r.deviceId < 65536 → r.gen < 65536 → r.dims < 65536 →
    (trainImage r).length = 16 ∧ trainOf (trainImage r) = some r) ∧
  (∀ f : Flit, f.vc < 4 → f.cls < 2 → f.seq < 4096 → f.ack < 4096 → f.crVc < 8 → f.crCount < 4096 → f.len16 ≤ 15 →
    f.payload.length = 16 * f.len16 → (flitImage f).length = 256 ∧ flitOf (flitImage f) = some f) ∧
  (∀ (m : Msg) (husk : Bool) (wire : List Byte), m.dst < 65536 → m.src < 65536 → m.kind < 256 → m.gen < 65536 → m.group < 1024 →
    m.epoch < 65536 → m.tag < 2 ^ 32 → m.offset < 2 ^ 64 → m.obj < 2 ^ 17 → m.length < 2 ^ 17 →
    msgOf (msgBytes m husk wire) = ({ m with husk := husk, data := [], fail := 0 }, wire))

/-- Training. R527: a cable begins the training of a port that is not disabled. R322: locked lanes end SIGNAL, and then ALIGN; records are
sent; the third copy of a good record makes the port ACTIVE when it names the neighbour, on four lanes DEGRADED, or MISWIRED (R324), and a
wrong one starts the count anew (R323); a step that takes too long ends in DOWN. R325: a lane that fails leaves four good ones or takes the
port DOWN; a retrain that is done replays the held flits, and RETRAIN starts full training. -/
def Obligations.PortsTrain : Prop :=
  (∀ (p : Nat) (s : State), p < 6 → (portAt s p).cable = false → portDisabled s p = false →
    exec (.cablePresent p) s = .next (modPort s p (fun x => { startTraining x with cable := true }))) ∧
  (∀ (p : Nat) (s : State), p < 6 → (portAt s p).cable = true → (portAt s p).st = 0 ∨ (portAt s p).st = 4 → portDisabled s p = false →
    exec (.trainingRestart p) s = .next (modPort s p startTraining)) ∧
  (∀ (p : Nat) (s : State), p < 6 → (portAt s p).st = 1 → (portAt s p).train = 1 → lanesOf (portAt s p).good ≠ 0 →
    exec (.laneLock p) s = .next (modPort s p (fun x => { x with train := 2, lanes := lanesOf (portAt s p).good }))) ∧
  (∀ (p : Nat) (s : State), p < 6 → (portAt s p).st = 1 → (portAt s p).train = 1 → lanesOf (portAt s p).good = 0 →
    exec (.laneLock p) s = .next (portDown p s)) ∧
  (∀ (p : Nat) (s : State), p < 6 → (portAt s p).st = 1 → (portAt s p).train = 2 →
    exec (.laneLock p) s = .next (modPort s p (fun x => { x with train := 3, rxCopies := 0, recsSent := 0 }))) ∧
  (∀ (p : Nat) (s : State), p < 6 → (portAt s p).st = 1 → (portAt s p).train = 3 →
    exec (.trainingRecordSend p) s = .next (modPort s p (fun x => { x with
      recsSent := x.recsSent + 1, outRec := trainImage (trainRecOf s p) }))) ∧
  (∀ (p : Nat) (bs : List Byte) (r : TrainRec) (s u : State), p < 6 → (portAt s p).st = 1 → (portAt s p).train = 3 →
    trainOf bs = some r → r.format = 1 → (portAt s p).rxRec = r → (portAt s p).rxCopies = 2 →
    u = modPort s p (fun x => { x with rxCopies := 3, peerId := r.deviceId, peerValid := true, huskPeer := r.huskRx }) →
    exec (.trainingRecordRx p bs) s = .next (acceptPeer p u) ∧
    (s.links.assigned = false → (portAt (acceptPeer p u) p).st = 5) ∧
    (s.links.assigned = true → r.port = (if p % 2 = 0 then p + 1 else p - 1) → r.deviceId = neighbour s p → r.dims = s.links.dims →
      (portAt s p).retraining = false →
      (portAt (acceptPeer p u) p).st = (if (portAt s p).lanes = 0xFF then 2 else 3) ∧
      (portAt (acceptPeer p u) p).degraded = ((portAt s p).degraded || decide ((portAt s p).lanes ≠ 0xFF)) ∧
      (portAt (acceptPeer p u) p).txSeq = 0 ∧ (portAt (acceptPeer p u) p).rxSeq = 0) ∧
    (s.links.assigned = true → r.port ≠ (if p % 2 = 0 then p + 1 else p - 1) ∨ r.deviceId ≠ neighbour s p ∨ r.dims ≠ s.links.dims →
      (portAt (acceptPeer p u) p).st = 4)) ∧
  (∀ (p : Nat) (bs : List Byte) (s : State), p < 6 → (portAt s p).st = 1 → (portAt s p).train = 3 → trainOf bs = none →
    exec (.trainingRecordRx p bs) s = .next (modPort s p (fun x => { x with rxCopies := 0 }))) ∧
  (∀ (p : Nat) (s : State), p < 6 → (portAt s p).st = 1 →
    Goes (.trainingStepTimeout p) s (fun t => t = portDown p s ∧ (portAt t p).st = 0 ∧ (portAt t p).lanes = 0)) ∧
  (∀ (p lane good : Nat) (s u : State), p < 6 → lane < 8 → (portAt s p).st = 2 ∨ (portAt s p).st = 3 → (portAt s p).good.testBit lane = true →
    (portAt s p).lanes.testBit lane = true → good = (portAt s p).good - 2 ^ lane →
    u = setEv (.ablPort p) Reg.ABL_PORT_EVENT Bit.ABL_PORT_EVENT_LANE_FAIL (modPort s p (fun x => { x with good := good })) →
    exec (.laneFail p lane) s = .next (if lanesOf good = 0 then portDown p u else retrain p (lanesOf good) (degrade p u))) ∧
  (∀ (p lane : Nat) (s : State), p < 6 → lane < 8 → (portAt s p).st ≠ 0 → (portAt s p).good.testBit lane = true →
    (portAt s p).lanes.testBit lane = false →
    exec (.laneFail p lane) s = .next (setEv (.ablPort p) Reg.ABL_PORT_EVENT Bit.ABL_PORT_EVENT_LANE_FAIL
      (modPort s p (fun x => { x with good := x.good - 2 ^ lane })))) ∧
  (∀ (p : Nat) (s : State), p < 6 → (portAt s p).st = 1 → (portAt s p).retraining = true → (portAt s p).train = 3 →
    3 ≤ (portAt s p).rxCopies → (portAt s p).lastRetrain = false →
    exec (.portRetrainDone p) s = .next (modPort s p (fun x => { x with
      st := if x.lanes = 0xFF then 2 else 3, train := 0, retraining := false, nakSent := false,
      retry := x.retry.map (fun r => { r with replays := 0 }), replayFrom := if x.retry.isEmpty then none else some 0 }))) ∧
  (∀ (p : Nat) (s : State), p < 6 → (portAt s p).st = 1 → (portAt s p).retraining = true → (portAt s p).train = 3 →
    3 ≤ (portAt s p).rxCopies → (portAt s p).lastRetrain = true → exec (.portRetrainDone p) s = .next (portDown p s)) ∧
  (∀ (p : Nat) (s : State), p < 6 → (portAt s p).cable = true → portDisabled s p = false →
    exec (.portRetrainWrite p) s = .next (rerouteAll p (failWaits p (modPort (cutLink p s) p (fun x => startTraining (freshFlits x))))))

/-- Flits. R327, R328: one with a bad CRC or with a SEQ that is not the expected one is discarded whole and asks once for a replay; one in
order acknowledges held flits, returns credits, and joins its message. R328, R331: a port sends the next flit of a replay; else the next
flit of the message that arbitration chooses, with the next SEQ, which it holds and takes a credit for; else an idle flit. -/
def Obligations.FlitsCrossTheLinks : Prop :=
  (∀ (p : Nat) (x : RxFlit) (f : Flit) (s u v : State), p < 6 → portActive s p = true → flitOf x.bytes = some f → f.idle = false →
    f.seq = (portAt (fecCount p x.corr x.uncorr s) p).rxSeq → u = takeFlit p f (flitReturns p f (fecCount p x.corr x.uncorr s)) →
    v = (if f.nak = true ∧ portActive u p = true then nakReplay p u else u) → exec (.flitRx p x) s = .next (readyAll v)) ∧
  (∀ (p : Nat) (x : RxFlit) (f : Flit) (s u : State), p < 6 → portActive s p = true → flitOf x.bytes = some f → f.idle = true →
    f.nak = false → u = flitReturns p f (fecCount p x.corr x.uncorr s) → exec (.flitRx p x) s = .next (readyAll u)) ∧
  (∀ (p : Nat) (x : RxFlit) (s u : State), p < 6 → portActive s p = true → u = fecCount p x.corr x.uncorr s →
    (∀ f, flitOf x.bytes = some f → f.idle = false ∧ f.seq ≠ (portAt s p).rxSeq) →
    Goes (.flitRx p x) s (fun t => (portAt t p).nakSent = true ∧ (portAt t p).rxSeq = (portAt s p).rxSeq ∧
      (portAt t p).credits = (portAt s p).credits ∧ (portAt t p).retry = (portAt s p).retry ∧ (portAt t p).rxAsm = (portAt s p).rxAsm ∧
      (portAt t p).nakDue = (!(portAt s p).nakSent || (portAt s p).nakDue) ∧ t.links.inbox = s.links.inbox)) ∧
  (∀ (p i : Nat) (r : Retry) (s : State), p < 6 → portActive s p = true → (portAt s p).replayFrom = some i → (portAt s p).retry[i]? = some r →
    Goes (.flitTx p) s (fun t => (portAt t p).out = flitImage r.f ∧ (portAt t p).retry[i]? = some { r with replays := r.replays + 1 } ∧
      (portAt t p).replayFrom = (if i + 1 < (portAt s p).retry.length then some (i + 1) else none) ∧
      (portAt t p).txSeq = (portAt s p).txSeq ∧ (portAt t p).txq = (portAt s p).txq)) ∧
  (∀ (p i : Nat) (turns : List Nat) (q : TxMsg) (s : State), p < 6 → portActive s p = true → (portAt s p).replayFrom = none →
    (portAt s p).retry.length < 1024 → arbitrate (portAt s p) (weights s p) = some (i, turns) → headMsg (portAt s p) i = some q →
    q.sent ≠ 0 → q.place = none →
    Goes (.flitTx p) s (fun t => ∃ f, (portAt t p).retry = (portAt s p).retry ++ [{ f := f, quad := quadOf s q.m }] ∧
      (portAt t p).out = flitImage f ∧ f.seq = (portAt s p).txSeq ∧ f.vc = i / 2 ∧ f.cls = i % 2 ∧ f.sof = false ∧
      f.eof = decide (q.wire.length ≤ 240 * (q.sent + 1)) ∧ f.payload = (q.wire.drop (240 * q.sent)).take 240 ∧
      (portAt t p).txSeq = ((portAt s p).txSeq + 1) % 4096 ∧
      (portAt t p).credits = (portAt s p).credits.set i ((portAt s p).credits.getD i 0 - 1))) ∧
  (∀ (p : Nat) (s : State), p < 6 → portActive s p = true → (portAt s p).replayFrom = none →
    1024 ≤ (portAt s p).retry.length ∨ arbitrate (portAt s p) (weights s p) = none →
    Goes (.flitTx p) s (fun t => ∃ f, (portAt t p).out = flitImage f ∧ f.idle = true ∧ (portAt t p).txSeq = (portAt s p).txSeq ∧
      (portAt t p).txq = (portAt s p).txq ∧ (portAt t p).retry = (portAt s p).retry))

/-- The host's link. R363, R395: the link comes up unattached, in the mode, width and rate trained, and a write of ATTACH attaches; R391: link
loss, PERST#, a hot reset, a function-level reset, an integrity failure, the host watchdog and a write of DETACH each detach, once, with
their cause; R392: PERST# and both resets reset the port's domain, its decoder and BAR4; R393: at a detach no channel reaches its host.
R391: a write of HOST_WD restarts the watchdog. R370: the decoder takes 256 MiB multiples of at most 3.5 TiB. R368: a bad BAR0 access reads all
ones. -/
def Obligations.TheHostLinkComesAndGoes : Prop :=
  (∀ (mode width rate : Nat) (io cm : Bool) (s : State), portTrains s = true → s.cxl.mode = 0 → mode = 1 ∨ mode = 2 → 1 ≤ width →
    width ≤ 16 → 1 ≤ rate → rate ≤ 6 →
    exec (.cxlLinkUp mode width rate io cm) s = .next (modCxl s (fun x => { x with
      mode := mode, width := width, rate := rate, ideIo := io, ideCm := cm, attach := 2 }))) ∧
  (∀ s : State, s.cxl.mode ≠ 0 → exec .cxlLinkDown s = .next (detach 1 (linkDown s))) ∧
  (∀ s : State, s.cxl.perst = false →
    exec .perstAssert s = .next (resetPort (detach 2 (linkDown (modCxl s (fun x => { x with perst := true })))))) ∧
  (∀ s : State, s.cxl.perst = true → exec .perstDeassert s = .next (modCxl s (fun x => { x with perst := false }))) ∧
  (∀ s : State, s.cxl.mode ≠ 0 → exec .cxlHotReset s = .next (resetPort (detach 2 (linkDown s)))) ∧
  (∀ s : State, s.cxl.mode ≠ 0 → exec .cxlFlr s = .next (resetPort (detach 3 s))) ∧
  (∀ s : State, s.cxl.mode ≠ 0 → s.cxl.ideIo = true ∨ s.cxl.ideCm = true →
    exec .ideIntegrityFail s = .next (detach 4 (linkDown (logRec { source := 6, cause := 2, severity := 2, detail := 4 }
      (setEv .cxp Reg.CXP_EVENT Bit.CXP_EVENT_IDE_FAIL s))))) ∧
  (∀ s : State, s.cxl.attach = 0 → hostWdMs s ≠ 0 → exec .hostWdExpire s = .next (detach 5 s)) ∧
  (∀ (w : Word) (s : State), s.cxl.mode ≠ 0 → exec (.hostWdWrite w) s = .next (modCxl s (fun x => { x with wdUs := s.us }))) ∧
  (∀ s : State, s.cxl.mode ≠ 0 → s.cxl.attach = 2 →
    exec .cxpAttach s = .next (setEv .cxp Reg.CXP_EVENT Bit.CXP_EVENT_ATTACH (modCxl s (fun x => { x with attach := 0, wdUs := s.us })))) ∧
  (∀ s : State, s.cxl.mode ≠ 0 → exec .cxpDetach s = .next (detach 6 s)) ∧
  (∀ (k : Nat) (s : State), s.cxl.attach = 0 → (detach k s).cxl.attach = (if s.cxl.mode = 0 then 1 else 2) ∧
    (detach k s).cxl.detachCause = k ∧ ∀ c ∈ liveChans s, (chanAt (detach k s) c).attached = false) ∧
  (∀ (k : Nat) (s : State), s.cxl.attach ≠ 0 → detach k s = modCxl s (fun x => { x with attach := if s.cxl.mode = 0 then 1 else 2 })) ∧
  (∀ (base size : Nat) (s : State), s.cxl.mode = 1 →
    exec (.hdmCommit base size) s = .next (modCxl s (fun x => { x with
      hdm := if base % 2 ^ 28 = 0 ∧ size % 2 ^ 28 = 0 ∧ size ≠ 0 ∧ size ≤ 3584 * 2 ^ 30 then some (base, size) else none }))) ∧
  (∀ (write : Bool) (s : State), s.cxl.mode ≠ 0 →
    Goes (.bar0BadAccess write) s (fun t => bit (rd t .cxp Reg.CXP_EVENT) Bit.CXP_EVENT_BAR_SIZE = true ∧
      t.cxl.bar0Out = s.cxl.bar0Out ++ (if write = true then [] else [word (2 ^ 64 - 1)])))

/-- BAR4. R384: a request that its region does not allow is refused with the first cause of the rule's order, counted and recorded; R383,
R387: another reads the object's bytes, poisoned ones as a failed completion, or is written in its order behind the requester's held
writes; R237: it is held while its granule moves, at most 64 at a time. R516, R517: an SPDM request of a known code that needs no
identity or session is answered under its code; an unknown one is answered with UnsupportedRequest. -/
def Obligations.RegionsServeTheHost : Prop :=
  (∀ (off len reqId pasid cause : Nat) (hp : Bool) (s : State), bar4Open s off = true → 0 < len → len ≤ 4096 →
    (∀ h ∈ s.cxl.held, h.req ≠ some reqId) → regionCause (regionAt s (off / 2 ^ 30)) false (off % 2 ^ 30) len reqId pasid hp = some cause →
    exec (.bar4Read off len reqId pasid hp) s = .next (bar4Out 1 [] (regionDeny (off / 2 ^ 30) false cause reqId pasid hp s))) ∧
  (∀ (off len reqId pasid : Nat) (hp : Bool) (g : Region) (l : List Access) (s t : State) (bs : List Byte) (c : RdCause),
    bar4Open s off = true → 0 < len → len ≤ 4096 → (∀ h ∈ s.cxl.held, h.req ≠ some reqId) → g = regionAt s (off / 2 ^ 30) →
    regionCause g false (off % 2 ^ 30) len reqId pasid hp = none → l = [{ obj := g.obj, off := g.offset + off % 2 ^ 30, n := len }] →
    GoNow s 19 none 141 l →
    objRead { req := 141, dead := silent s 19 none l } g.obj (g.offset + off % 2 ^ 30) len (admitted s 19 none l) = (t, bs, c) →
    exec (.bar4Read off len reqId pasid hp) s = .next (if c = 0 then bar4Out 0 bs t else bar4Out 2 [] t)) ∧
  (∀ (off reqId pasid cause : Nat) (hp : Bool) (data : List Byte) (s : State), bar4Open s off = true → data ≠ [] → data.length ≤ 4096 →
    regionCause (regionAt s (off / 2 ^ 30)) true (off % 2 ^ 30) data.length reqId pasid hp = some cause →
    exec (.bar4Write off reqId pasid hp data) s = .next (regionDeny (off / 2 ^ 30) true cause reqId pasid hp s)) ∧
  (∀ (off reqId pasid : Nat) (hp : Bool) (data : List Byte) (g : Region) (l : List Access) (s : State), bar4Open s off = true →
    data ≠ [] → data.length ≤ 4096 → g = regionAt s (off / 2 ^ 30) →
    regionCause g true (off % 2 ^ 30) data.length reqId pasid hp = none → (∀ h ∈ s.cxl.held, h.req = some reqId → h.obj ≠ g.obj) →
    l = [{ write := true, obj := g.obj, off := g.offset + off % 2 ^ 30, n := data.length }] → GoNow s 19 none 141 l →
    exec (.bar4Write off reqId pasid hp data) s = .next (objStore { engine := false, req := 141, dead := silent s 19 none l } g.obj
      (g.offset + off % 2 ^ 30) data (admitted s 19 none l))) ∧
  (∀ (off reqId pasid : Nat) (hp : Bool) (data : List Byte) (g : Region) (s : State), bar4Open s off = true → data ≠ [] →
    data.length ≤ 4096 → g = regionAt s (off / 2 ^ 30) → regionCause g true (off % 2 ^ 30) data.length reqId pasid hp = none →
    rangeBusy s g.obj (g.offset + off % 2 ^ 30) data.length = true → s.cxl.held.length < 64 →
    exec (.bar4Write off reqId pasid hp data) s = .next (cntInc .plc Reg.PLC_CNT_HELD_WRITES (modCxl s (fun x => { x with
      held := x.held ++ [{
        obj := g.obj, offset := g.offset + off % 2 ^ 30, data := data.zipIdx.map (fun p => (p.2, p.1)), req := some reqId }] })))) ∧
  (∀ (msg : List Byte) (code : Nat) (s : State), s.cxl.mode ≠ 0 → rachisServes s = true → 4 ≤ msg.length →
    code = leValue ((msg.drop 1).take 1) → spdmCodes.contains code = false →
    exec (.spdmRequest msg) s = .next (modCxl s (fun x => { x with
      doeOut := x.doeOut ++ [leBytes 1 0x12 ++ leBytes 1 0x7F ++ leBytes 1 0x07 ++ leBytes 1 0] }))) ∧
  (∀ (msg bs : List Byte) (code p1 p2 : Nat) (s t : State), s.cxl.mode ≠ 0 → rachisServes s = true → 4 ≤ msg.length →
    code = leValue ((msg.drop 1).take 1) → p1 = leValue ((msg.drop 2).take 1) → p2 = leValue ((msg.drop 3).take 1) →
    spdmCodes.contains code = true → spdmSession code = false → (spdmSigns code p1 = true → s.boot.identityOk = true) →
    code ≠ 0xE4 → code ≠ 0xEC → code ≠ 0xFE → spdmBody code p2 s = (bs, t) →
    exec (.spdmRequest msg) s = .next (modCxl t (fun x => { x with
      doeOut := x.doeOut ++ [leBytes 1 0x12 ++ leBytes 1 (code - 0x80) ++ leBytes 1 p1 ++ leBytes 1 p2 ++ bs] })))

/-- Detection. R430, R433: a command beyond its watchdog fails, its attempt aborts, and its engine has 10 ms to release it before its domain
is flagged, the rachis at once taken over (R437). R431: a stage with input that makes no progress flags its quad. R432: a request without an
answer is answered poisoned and its home is probed; one that answers blames the requester, one that does not is flagged. -/
def Obligations.StuckWorkIsFound : Prop :=
  (∀ (c pos : Nat) (y : RingCmd) (d : Option Nat) (s u v : State), c < 4096 → ringCmd s c pos = some y →
    bits (rd s (.chn c) Reg.CHN_RCV_CTRL) 63 32 ≠ 0 →
    u = cntInc (.chn c) Reg.CHN_CNT_WATCHDOG (setEv (.chn c) Reg.CHN_RCV_EVENT Bit.CHN_RCV_EVENT_WATCHDOG s) →
    v = logRec {
      source := 8, cause := 1, severity := 2, status := ST_WATCHDOG, channel := handleOf u c, step := attemptOf (chanAt u c),
      detail := put y.e.opcode 7 0 + put pos 39 8 } u → d = engineDomain v y.e →
    (d = none → exec (.cmdWatchdog c pos) s = .next (abortAttempt c ST_WATCHDOG 0xFF (finishRing c pos ST_WATCHDOG [] v))) ∧
    (d = some 0x48 → exec (.cmdWatchdog c pos) s = .next (takeover 0x91 (abortAttempt c ST_WATCHDOG 0xFF (finishRing c pos ST_WATCHDOG [] v)))) ∧
    (∀ k, d = some k → k ≠ 0x48 → Goes (.cmdWatchdog c pos) s (fun t => ∃ w,
      w = abortAttempt c ST_WATCHDOG 0xFF (finishRing c pos ST_WATCHDOG [] v) ∧
      t = modRcv w (fun r => { r with abandoned := r.abandoned ++ [(c, pos, k, w.us)] })))) ∧
  (∀ (c pos : Nat) (a : Nat × Nat × Nat × Nat) (s : State), c < 4096 →
    s.rcv.abandoned.find? (fun a => a.1 == c && a.2.1 == pos) = some a →
    exec (.watchdogReleaseTimeout c pos) s = .next (flagDomain a.2.2.1 {
        source := 8, cause := 1, severity := 2, status := ST_WATCHDOG, channel := handleOf s c, detail := put pos 39 8 }
      (modRcv s (fun r => { r with abandoned := r.abandoned.filter (fun x => !(x.1 == c && x.2.1 == pos)) })))) ∧
  (∀ (t ctx : Nat) (u : Tiller) (g : Cfg) (x : Ctx) (s v : State), t < 128 → u = tillerAt s t → g = (if ctx = 0 then u.act else u.dfr) →
    x = (if ctx = 0 then u.ctxA else u.ctxD) → g.valid = true → u.admitted = true → x.ended = false → stageHasInput u = true →
    x.wait ≠ 1 → x.wait ≠ 3 → x.wait ≠ 9 → x.wait ≠ 10 →
    v = cntInc (.chn g.chan) Reg.CHN_CNT_PROGRESS (setEv (.chn g.chan) Reg.CHN_RCV_EVENT Bit.CHN_RCV_EVENT_PROGRESS s) →
    exec (.progressTimeout t ctx) s = .next (flagDomain (tillerQuad t) {
        source := 1, cause := 2, severity := 3, channel := handleOf v g.chan, step := attemptOf (chanAt v g.chan),
        detail := (rd v (.tlr t) Reg.TLR_SEQ_FAULT).toNat + (rd v (.tlr t) Reg.TLR_SEQ_FAULT_WORD).toNat * 2 ^ 64 + t * 2 ^ 128 } v)) ∧
  (∀ (t rid : Nat) (q : MemReq) (p : Part) (s : State), t < 128 →
    (tillerAt s t).reqs.find? (fun q => q.rid == rid && holdsTag q) = some q → q.parts.find? (fun p => p.st ≤ 1) = some p →
    exec (.tagTimeout 0 t rid) s = .next (sendProbe 0 t p.home (poisonReq t rid 10 s))) ∧
  (∀ (n rid : Nat) (y : Copy) (s : State), n < 12 → (s.cxl.engines.getD n {}).inflight.find? (fun y => !y.ended) = some y →
    exec (.tagTimeout 1 n rid) s = .next (sendProbe 1 n (homeOf s y.obj (y.offset + y.done)) (copyFail n y ST_MEM_POISON s))) ∧
  (∀ (p gn : Nat) (y : Coll) (l : List Coll) (s : State), p < 6 → (groupAt s gn).colls = y :: l →
    exec (.tagTimeout 2 p gn) s = .next (sendProbe 2 p (homeOf s y.obj y.offset) (abortAttempt y.ch ST_MEM_POISON 0xFF s))) ∧
  (∀ (oi g : Nat) (m : MigCmd) (v : Move) (s : State), moveOf s oi g = some (m, v) → v.phase ≤ 1 →
    exec (.tagTimeout 3 oi g) s = .next (sendProbe 3 oi (homeOf s oi (g * 65536)) s)) ∧
  (∀ (who n h : Nat) (s : State), (∃ p ∈ s.rcv.probes, p.who = who ∧ p.unit = n ∧ p.home = h) → who < 3 →
    Goes (.tagProbeReturn who n h) s (fun t => ∃ u, (∃ l, u = modRcv s (fun r => { r with probes := l }) ∧ l.length + 1 = s.rcv.probes.length) ∧
      t = flagDomain (if who = 0 then tillerQuad n else if who = 1 then 0x40 else 0x38 + n) (tagRec u who n 3) u)) ∧
  (∀ (who n h : Nat) (s : State), (∃ p ∈ s.rcv.probes, p.who = who ∧ p.unit = n ∧ p.home = h) →
    Goes (.tagProbeTimeout who n h) s (fun t => ∃ u, (∃ l, u = modRcv s (fun r => { r with probes := l }) ∧ l.length + 1 = s.rcv.probes.length) ∧
      t = flagDomain (homeDomain h) (tagRec u who n 3) u))

/-- Recovery of domains and of the rachis. R437: the heartbeat advances; a takeover makes the standby the active core, with a stook captured;
a reloaded standby stands by. R439: a request that names a domain resets it, and one that names none changes nothing. R448: a step of a
reset sequence ends, once it may; R441: what is outstanding at a fenced domain is drained; R446: a stook saved to host memory is
recorded. R428, R434, R391, R466, R492: the management bus reads telemetry, heartbeat and log, recovers a domain and detaches. -/
def Obligations.DomainsRecover : Prop :=
  (∀ s : State, rachisServes s = true → exec .heartbeatAdvance s = .next (modRcv s (fun r => { r with
    heartbeat := (r.heartbeat + 1) % 2 ^ 64, beatUs := s.us }))) ∧
  (∀ s : State, s.boot.stage = 3 → s.rcv.standby = true →
    Goes .rachisTakeover s (fun t => t = takeover 0x91 s ∧ t.rcv.activeCore = 1 - s.rcv.activeCore ∧ t.rcv.standby = false ∧
      t.rcv.stopped = false ∧ (domainAt t 0x48).gen = ((domainAt s 0x48).gen + 1) % 2 ^ 16 ∧
      bit (rd t .mon Reg.MON_RCV_EVENT) Bit.MON_RCV_EVENT_TAKEOVER = true)) ∧
  (∀ s : State, s.boot.stage = 3 → s.rcv.standby = false → exec .rachisTakeover s = .next (modRcv s (fun r => { r with stopped := true }))) ∧
  (∀ s : State, s.boot.stage = 3 → s.rcv.standby = false →
    exec (.standbyReloadDone true) s = .next (modRcv s (fun r => { r with standby := true })) ∧
    exec (.standbyReloadDone false) s = .next (logRec { source := 9, cause := 2, severity := 2, domain := 0x48, detail := s.rcv.activeCore }
      (setEv .mon Reg.MON_RCV_EVENT Bit.MON_RCV_EVENT_NO_STANDBY s))) ∧
  (∀ (w : Word) (s : State), exec (.monRcvReq w) s = .next (if isDomain (bits w 7 0) = false then s
    else if bits w 7 0 = 0x48 then takeover 0xB1 s else requestReset (bits w 7 0) s)) ∧
  (∀ (d : Nat) (pass : Bool) (q : ResetSeq) (s : State), (domainAt s d).seq = some q → stepMayEnd s d q pass = true →
    (d = 0x7F ∨ (d = 0x7E ∧ (domainAt s 0x7F).seq = none) ∨ deviceReset s = false) →
    exec (.resetStepDone d pass) s = .next (stepEnd d q pass s)) ∧
  (∀ (d : Nat) (pass : Bool) (q : ResetSeq) (s : State), (domainAt s d).seq = some q → d ≠ 0x7E → d ≠ 0x7F → deviceReset s = true →
    exec (.resetStepDone d pass) s = .next (modDomain s d (fun x => { x with seq := none }))) ∧
  (∀ (d : Nat) (s : State), isDomain d = true → (domainAt s d).fenced = true → (∀ q, (domainAt s d).seq = some q → q.step ≤ 3) →
    exec (.fenceDrainTimeout d) s = .next (drain d s)) ∧
  (∀ (id : Nat) (w : HostWrite) (s : State), w ∈ s.cxl.writes → w.who = 4 → w.pos = id →
    exec (.stookSaveDone id) s = .next (stookSaved id true (modCxl s (fun x => { x with
      writes := x.writes.filter (fun w => !(w.who == 4 && w.pos == id)) })))) ∧
  (∀ (sq page : Nat) (s : State), smbServed s = true → exec (.smbTelemetry sq page) s = .next (if page ≤ 3 then
    smbAnswer 1 sq ST_OK (telemetry s page) s else smbAnswer 1 sq ST_BAD_COMMAND [] s)) ∧
  (∀ (sq : Nat) (s : State), smbServed s = true →
    exec (.smbHeartbeat sq) s = .next (smbAnswer 2 sq ST_OK (leBytes 8 s.rcv.heartbeat ++ leBytes 1 s.rcv.activeCore) s)) ∧
  (∀ (sq d : Nat) (s : State), smbServed s = true → exec (.smbRecover sq d) s = .next (if isDomain d = false then smbAnswer 6 sq ST_BAD_UNIT [] s
    else if d = 0x48 then takeover 0xB1 (smbAnswer 6 sq ST_OK [] s) else requestReset d (smbAnswer 6 sq ST_OK [] s))) ∧
  (∀ (sq : Nat) (s : State), smbServed s = true → exec (.smbDetach sq) s = .next (detach 6 (smbAnswer 8 sq ST_OK [] s))) ∧
  (∀ (sq i : Nat) (r : LogRec) (s : State), smbServed s = true → logAt s i = some r →
    exec (.smbLogRead sq i) s = .next (smbAnswer 9 sq ST_OK (logBytes i r) s)) ∧
  (∀ (sq i : Nat) (s : State), smbServed s = true → logAt s i = none →
    exec (.smbLogRead sq i) s = .next (smbAnswer 9 sq ST_BAD_COMMAND [] s))

/-- Power, heat and voltage. R476: the average input power raises the capping level above the cap, or lowers it after 10 ms below it by 50 W.
R477: the die sensors give TJ_MAX, whose band steps the thermal level, and a sensor at 115 degrees shuts the module down. R475: the highest
level is applied. R480 to R482: a dip stretches the clock and is counted, 17 in a second start a hold; the stretch and the hold end. R483: a
site below its reset level resets its domains. R472, R484: another rail, and a lost clock, begin a cold reset, which a lost clock holds. -/
def Obligations.PowerAndHeatAreManaged : Prop :=
  (∀ (mw mv cap : Nat) (s u : State), s.phys.pwrGood = true →
    u = cntAdd .pwr Reg.PWR_CNT_ENERGY_MJ ((s.power.energyUj + mw) / 1000)
      (modPower s (fun p => { p with inputMw := mw, vinMv := mv, energyUj := (s.power.energyUj + mw) % 1000 })) →
    cap = rdField u .pwr Reg.PWR_CTRL 10 0 →
    exec (.powerAverage mw mv) s = .next (
      if cap * 1000 < mw then
        if s.power.capLevel < 4 then setEv .pwr Reg.PWR_EVENT Bit.PWR_EVENT_CAP
          (modPower u (fun p => { p with capLevel := s.power.capLevel + 1, capBelow := 0, capAbove := 0 }))
        else if s.power.capAbove + 1 = 100 then setEv .pwr Reg.PWR_EVENT Bit.PWR_EVENT_CAP_FAIL
          (modPower u (fun p => { p with capAbove := 100, capBelow := 0 }))
        else modPower u (fun p => { p with capAbove := min 100 (s.power.capAbove + 1), capBelow := 0 })
      else if mw < (cap - 50) * 1000 then
        if 10 ≤ s.power.capBelow + 1 then modPower u (fun p => { p with capLevel := s.power.capLevel - 1, capBelow := 0, capAbove := 0 })
        else modPower u (fun p => { p with capBelow := s.power.capBelow + 1, capAbove := 0 })
      else modPower u (fun p => { p with capBelow := 0, capAbove := 0 }))) ∧
  (∀ (l rs : List Nat) (m : Nat) (s : State), l.length = 40 → (∀ x ∈ l, x < 256 ∧ x ≤ m) → m ∈ l →
    Goes (.dieTempSample l rs) s (fun t => t.power.dieTemp = l ∧ t.power.tjMax = m ∧
      t.power.thermLevel = (if 110 ≤ m then 4 else s.power.thermLevel) ∧
      t.power.regTemp = (if rs.length = 8 then rs.map (min 255) else s.power.regTemp) ∧
      (s.power.held = some 2 → m ≤ 85 → t.power.held = none) ∧
      (100 ≤ m → bit (rd t .pwr Reg.PWR_EVENT) Bit.PWR_EVENT_THERM = true) ∧
      (110 ≤ m → bit (rd t .pwr Reg.PWR_EVENT) Bit.PWR_EVENT_THERM_HI = true))) ∧
  (∀ s : State, exec .thermLevelStep s = .next (if 100 ≤ s.power.tjMax then
      modPower s (fun p => { p with thermLevel := min 4 (p.thermLevel + 1) })
    else if s.power.tjMax ≤ 95 then modPower s (fun p => { p with thermLevel := p.thermLevel - 1 }) else s)) ∧
  (∀ (k : Nat) (s : State), k < 40 → 115 ≤ s.power.dieTemp.getD k 0 → s.power.held = none →
    exec (.thermalShutdown k) s = .next (coldReset 0xA1 (modPower s (fun p => { p with
      held := some 2, railRec := some (railDetail 2 k 0 p.tjMax) })))) ∧
  (∀ s : State, exec .throttleApply s = .next (modPower s (fun p => { p with
    applied := max (max s.power.capLevel s.power.thermLevel) (bits (rd s .pwr Reg.PWR_CTRL) 13 11) }))) ∧
  (∀ (site mv : Nat) (s : State), site < 42 → mv < 7125 → s.phys.pwrGood = true → s.power.stretch = false →
    Goes (.vcoreDip site mv) s (fun t => t.power.vcoreNow = mv ∧ t.power.vcoreMin = min s.power.vcoreMin mv ∧ t.power.stretch = true ∧
      t.power.admitPaused = true ∧ t.power.dips = s.power.dips.filter (fun k => decide (s.us < k + 1000000)) ++ [s.us] ∧
      (t.power.hold = (s.power.hold || decide (17 ≤ t.power.dips.length))) ∧ (t.power.hold = true → t.power.holdEnd = s.us + 1000000) ∧
      bit (rd t .pwr Reg.PWR_EVENT) Bit.PWR_EVENT_DIP = true)) ∧
  (∀ (site mv : Nat) (s : State), site < 42 → mv < 7125 → s.phys.pwrGood = true → s.power.stretch = true →
    exec (.vcoreDip site mv) s = .next (modPower s (fun p => { p with vcoreNow := mv, vcoreMin := min p.vcoreMin mv }))) ∧
  (∀ s : State, s.power.stretch = true →
    exec .stretchEnd s = .next (modPower s (fun p => { p with stretch := false, admitPaused := false }))) ∧
  (∀ s : State, s.power.hold = true → exec .dipHoldEnd s = .next (modPower s (fun p => { p with hold := false }))) ∧
  (∀ (site mv : Nat) (s u : State), site < 42 → mv < 6750 → s.phys.pwrGood = true → u = dip mv s →
    exec (.vcoreResetLevel site mv) s = .next ((siteDomains site).foldl (fun s d => if domainDown s d then s else fenceDomain d 0xA1 0 s)
      (setEv .pwr Reg.PWR_EVENT Bit.PWR_EVENT_RAIL_RESET (logRec {
        source := 0xA, cause := 1, severity := 3, domain := (siteDomains site).headD 0xFF, detail := railDetail 0 site mv u.power.tjMax } u)))) ∧
  (∀ (rail mv : Nat) (s : State), 1 ≤ rail → rail ≤ 12 → s.phys.pwrGood = true →
    exec (.railResetOther rail mv) s = .next (coldReset 0xA1 (modPower s (fun p => { p with railRec := some (railDetail 1 rail mv p.tjMax) })))) ∧
  (∀ s : State, s.power.held ≠ some 3 → exec .clockLoss s = .next (coldReset 0xA1 (modPower s (fun p => { p with
    held := some 3, railRec := some (railDetail 3 0 0 p.tjMax) })))) ∧
  (∀ s : State, s.power.held = some 3 → exec .clockRestored s = .next (modPower s (fun p => { p with held := none })))

/-- Register writes. R10, R12: a write through BAR0 sets the RW bits that its bytes cover and clears the W1C bits written 1, but one that an
event sets in the same cycle ends set; the other bits stay. R487, R489: a write of zero clears a counter to the increment of its cycle, and
any other value is ignored. R493: MIN_RESET. R164: LS_LOAD loads L at the next step, and the same write stores the other fields. -/
def Obligations.RegisterWritesFollowTheirCodes : Prop :=
  (∀ (addr size off data mask : Nat) (x : RegData) (b : Blk) (r : RegDef) (s : State), size = 8 ∨ size = 4 → addr % size = 0 →
    ¬ (0x170000 ≤ addr ∧ addr < 0x178000) → blkOf (addr / 8 * 8) = some (b, off) → regDef b off = some r → r.cnt = 0 →
    size = 8 ∨ spanning b r = false → blkFenced s b = false → bar0Writes s b = true → ¬ (b = .boot ∧ 0x1000 ≤ off ∧ off < 0x2000) →
    (∀ c, b = .chn c → (chanAt s c).live = true ∧ off ≠ Reg.CHN_CPL_HEAD) →
    data = (if size = 8 then x.w.toNat else (x.w.toNat % 2 ^ 32) <<< (addr % 8 * 8)) →
    mask = (if size = 8 then 2 ^ 64 - 1 else (2 ^ 32 - 1) <<< (addr % 8 * 8)) →
    exec (.registerWrite addr size x) s = .next (regActs b off (data &&& mask) (regWrite b r mask data x.ev.toNat s))) ∧
  (∀ (b : Blk) (r : RegDef) (mask data ev n : Nat) (s : State), mask < 2 ^ 64 → n < 64 → (∀ w, storeClamp b r.off w = w) →
    bit (rd (regWrite b r mask data ev s) b r.off) n =
      if r.w1c.testBit n = true ∧ ev.testBit n = true then true
      else if r.w1c.testBit n = true ∧ data.testBit n = true ∧ mask.testBit n = true then false
      else if r.rw.testBit n = true ∧ mask.testBit n = true then data.testBit n else bit (rd s b r.off) n) ∧
  (∀ (addr size off inc : Nat) (w : Word) (b : Blk) (r : RegDef) (s : State), blkOf addr = some (b, off) → regDef b off = some r →
    r.cnt ≠ 0 → size = 8 ∨ (size = 4 ∧ r.cnt = 32) → blkFenced s b = false → bar0Writes s b = true →
    exec (.counterClear addr size w inc) s = .next (if w = 0 then cntAdd b off inc (wr s b off 0) else s)) ∧
  (∀ (w : Word) (s : State), bit w 32 = true → bar0Writes s .pwr = true →
    exec (.vcoreMinReset w) s = .next (modPower s (fun p => { p with vcoreMin := p.vcoreNow }))) ∧
  (∀ (c : Nat) (w : Word) (s : State), c < 4096 → bit w 24 = true → (chanAt s c).live = true → bar0Writes s (.chn c) = true →
    Goes (.lsLoad c w) s (fun t => (chanAt t c).trn.lsLoad = true ∧
      t = modTrn (regWriteAt (.chn c) Reg.CHN_NUM_CTRL allBits w.toNat 8 0 s) c (fun k => { k with lsLoad := true })))

/-- The supply. R528 to R534: PWR_EN and the input voltage give the module its power or take it, and PWR_GOOD stands while it is enabled with
every rail in its band; R447, R466: without the standby rails the retained stooks are lost and the log goes on from its flash copy. R533: a
short MOD_RST pulse is a warm reset, and a long one holds a cold reset until it ends. -/
def Obligations.TheSupplyRules : Prop :=
  (∀ (us : Nat) (s : State), powerEnabled s.phys = true → 1 ≤ us → us < 5000000 → exec (.modRstPulse us) s = .next (requestReset 0x7E s)) ∧
  (∀ s : State, powerEnabled s.phys = true →
    exec (.modRstLong false) s = .next (coldReset 0xB1 (modPhys s (fun p => { p with modRstHeld := true }))) ∧
    exec (.modRstLong true) s = .next (modPhys s (fun p => { p with modRstHeld := false }))) ∧
  (∀ (addr : Nat) (s : State), s.phys.pwrEn = false →
    exec (.pwrEnRise addr) s = .next (supply (fun p => { p with pwrEn := true, smbAddr := addr % 8 }) s)) ∧
  (∀ s : State, s.phys.pwrEn = true → exec .pwrEnFall s = .next (supply (fun p => { p with pwrEn := false }) s)) ∧
  (∀ s : State, s.phys.aon = true → exec .inputUndervolt s = .next (supply (fun p => { p with undervolt := true }) s)) ∧
  (∀ s : State, s.phys.aon = true → s.phys.undervolt = true →
    exec .undervoltEnd s = .next (supply (fun p => { p with undervolt := false }) s)) ∧
  (∀ s : State, s.phys.aon = true → exec .inputOvervolt s = .next (supply (fun p => { p with overvolt := true }) s)) ∧
  (∀ s : State, s.phys.overvolt = true → exec .inputRestored s = .next (supply (fun p => { p with overvolt := false }) s)) ∧
  (∀ s : State, s.phys.aon = true →
    Goes .aonLoss s (fun t => t.rcv.log = (supply (fun p => { p with aon := false, undervolt := false, overvolt := false }) s).boot.logFlash ∧
      t.rcv.stooks = [] ∧ t.boot.ops = [] ∧ t.phys.aon = false ∧ t.phys.pwrGood = false)) ∧
  (∀ s : State, s.phys.aon = false → exec .inputApplied s = .next (supply (fun p => { p with aon := true }) s)) ∧
  (∀ (rail : Nat) (out : Bool) (s : State), rail < 13 →
    Goes (.railOutOfBand rail out) s (fun t => (rail ∈ t.phys.railsOut ↔ out = true) ∧
      (∀ k, k ≠ rail → (k ∈ t.phys.railsOut ↔ k ∈ s.phys.railsOut)) ∧
      t.phys.pwrGood = (powerEnabled s.phys && t.phys.railsOut.isEmpty) ∧ t = { s with phys := t.phys })) ∧
  (∀ (f : Physical → Physical) (s : State), (supply f s).phys.pwrGood =
    (powerEnabled (supply f s).phys && (supply f s).phys.railsOut.isEmpty))

namespace Sys2Proof.Claim

/-- An asynchronous command has its place: a mailbox with room for one more, or another source. -/
abbrev PendRoom (src : CmdSrc) (b : State) : Prop := ∀ m, src = .mbx m → mbxFull b m = false

/-- The state in which an asynchronous command that has started is pending (R402). -/
def pendIn (src : CmdSrc) (e : Entry) (s : State) : State :=
  match src with
  | .mbx m => mbxPending m (cmdOf s src e) (begun src e s)
  | _ => begun src e s

end Sys2Proof.Claim

/-- Firmware and settings. R502: FW_BEGIN starts a download of whole pages; R503: FW_BLOCK takes a block whose CRC is right, once; R504, R505:
FW_VERIFY and FW_ACTIVATE act on a staged image, and R509: FW_ABORT drops it. R512: SETTINGS_SET writes the next copy, and SETTINGS_GET reads
the newest. R519: KEY_LOAD fills a key slot that no live object names from the buffer, over an encrypted link only, and KEY_CLEAR empties it. -/
def Obligations.FirmwareCommandsAct : Prop :=
  (∀ (src : CmdSrc) (n : Nat) (e : Entry) (s b : State), Taken 0x60 src e s → b = begun src e s → n = bits e.a0 31 0 →
    imgBytesOk n = true → b.boot.stagingSt ≠ 3 → b.boot.activeSt ≠ 2 → PendRoom src b →
    exec (.fwBegin src e) s = .next (beginDownload n (pendIn src e s))) ∧
  (∀ (src : CmdSrc) (e : Entry) (s b : State), Taken 0x60 src e s → b = begun src e s → imgBytesOk (bits e.a0 31 0) = false →
    Ends (.fwBegin src e) src e s ST_BAD_COMMAND [] b) ∧
  (∀ (src : CmdSrc) (e : Entry) (s b : State), Taken 0x60 src e s → b = begun src e s → imgBytesOk (bits e.a0 31 0) = true →
    b.boot.stagingSt = 3 ∨ b.boot.activeSt = 2 → Ends (.fwBegin src e) src e s ST_BUSY [] b) ∧
  (∀ (src : CmdSrc) (e : Entry) (s b : State) (off : Nat), Taken 0x61 src e s → b = begun src e s → off = e.a0.toNat →
    b.boot.stagingSt = 1 → off % 4096 = 0 → off < b.boot.staging.len → crc32c b.boot.dlBuffer = bits e.a1 31 0 →
    b.boot.staging.blocks.contains (off / 4096) = false → (b.boot.ops.filter (fun o => o.kind == 5)).length < 64 →
    Ends (.fwBlock src e) src e s ST_OK [] (modBoot b (fun b => { b with
      staging := { b.staging with
        blocks := b.staging.blocks ++ [off / 4096], bytes := smWriteRun zeroByte b.staging.bytes off b.dlBuffer },
      ops := b.ops ++ [{ prio := 4, kind := 5, arg := off / 4096, pages := 1 }] }))) ∧
  (∀ (src : CmdSrc) (e : Entry) (s b : State), Taken 0x61 src e s → b = begun src e s →
    b.boot.stagingSt ≠ 1 ∨ e.a0.toNat % 4096 ≠ 0 ∨ b.boot.staging.len ≤ e.a0.toNat ∨ crc32c b.boot.dlBuffer ≠ bits e.a1 31 0 →
    Ends (.fwBlock src e) src e s ST_BAD_COMMAND [] b) ∧
  (∀ (src : CmdSrc) (e : Entry) (s : State), Taken 0x62 src e s → PendRoom src (begun src e s) →
    exec (.fwVerify src e) s = .next (runVerify (pendIn src e s))) ∧
  (∀ (src : CmdSrc) (r : Nat) (e : Entry) (s b t : State), Taken 0x63 src e s → b = pendIn src e s → PendRoom src (begun src e s) →
    b.boot.stagingSt = 2 → verifyStaging b = (r, t) → (bit e.a0 0 = true → b.boot.settings.liveUpdate = true) →
    exec (.fwActivate src e) s = .next (if r ≠ 0 then finishAsync (cmdOf s src e) ST_NO_ACCESS [word r, word t.boot.fwVersion] t
      else if bit e.a0 0 then modRcv (modBoot (setStaging 3 b) (fun b => { b with handover := true })) (fun r => { r with standby := false })
      else finishAsync (cmdOf s src e) ST_OK [0, word (setStaging 3 b).boot.fwVersion] (setStaging 3 b))) ∧
  (∀ (src : CmdSrc) (e : Entry) (s b : State), Taken 0x63 src e s → b = begun src e s → b.boot.stagingSt ≠ 2 →
    Ends (.fwActivate src e) src e s ST_BUSY [] b) ∧
  (∀ (src : CmdSrc) (e : Entry) (s b : State), Taken 0x64 src e s → b = begun src e s →
    (b.boot.stagingSt = 3 → Ends (.fwAbort src e) src e s ST_BUSY [] b) ∧ (b.boot.stagingSt = 0 → Ends (.fwAbort src e) src e s ST_OK [] b) ∧
    (b.boot.stagingSt ≠ 3 → b.boot.stagingSt ≠ 0 → Ends (.fwAbort src e) src e s ST_OK [] (runVerify (setStaging 0 (modBoot b (fun b => { b with
      staging := {}, stagingVersion := 0, stagingSvn := 0, ops := b.ops.filter (fun o => o.kind != 5) })))))) ∧
  (∀ (src : CmdSrc) (e : Entry) (s b : State), Taken 0x65 src e s → b = begun src e s →
    Ends (.fwStatus src e) src e s ST_OK [viewBoot b Reg.BOOT_STATUS, word b.boot.stagingVersion, word b.boot.staging.blocks.length] b) ∧
  (∀ (src : CmdSrc) (e : Entry) (s b : State) (c : SetCopy), Taken 0x68 src e s → b = begun src e s →
    c = (newestSettings b.boot).getD b.boot.settings → Ends (.settingsGet src e) src e s ST_OK
      [word (put c.retired 31 0 + putB c.ideRequired 32 + putB c.liveUpdate 33), word c.seq] b) ∧
  (∀ (src : CmdSrc) (e : Entry) (s b : State) (c : SetCopy), Taken 0x69 src e s → b = begun src e s →
    c = (newestSettings b.boot).getD b.boot.settings → Ends (.settingsSet src e) src e s ST_OK []
      (writeSettings { c with ideRequired := bit e.a0 32, liveUpdate := bit e.a0 33 } b)) ∧
  (∀ (src : CmdSrc) (e : Entry) (s b : State), Taken 0x6C src e s → b = begun src e s → b.cxl.ideIo = true → keyNamed b (bits e.a0 7 0) = false →
    Ends (.keyLoad src e) src e s ST_OK [] (modBoot b (fun x => { x with
      keys := smInsert (bits e.a0 7 0) { filled := true, owner := e.handle, key := x.dlBuffer.take 64 } x.keys,
      dlBuffer := List.replicate 4096 0 }))) ∧
  (∀ (src : CmdSrc) (e : Entry) (s b : State), Taken 0x6C src e s → b = begun src e s → b.cxl.ideIo = false →
    Ends (.keyLoad src e) src e s ST_NO_ACCESS [] b) ∧
  (∀ (src : CmdSrc) (e : Entry) (s b : State), Taken 0x6D src e s → b = begun src e s → (if keyNamed b (bits e.a0 7 0) = true then
      Ends (.keyClear src e) src e s ST_BUSY [] b
    else Ends (.keyClear src e) src e s ST_OK [] (modBoot b (fun x => { x with keys := smErase (bits e.a0 7 0) x.keys }))))

/-- Starts and updates. R500: the ROM takes a staged image that is pending, else the active one, else the fallback, else recovery, as the
strap or the checks say; R496: the flash ends its operations by priority. R506, R507: a ready standby takes the handover, or it fails after
2 s. R508, R510: the commit copies the running image and advances the fuse SVN. R515: recovery takes, checks and starts an image. -/
def Obligations.ImagesStartAndCommit : Prop :=
  (∀ (d : Nat) (ab sb ib strap : Bool) (s u : State), s.boot.stage = 0 → bootDomain s = some d →
    u = modBoot s (fun b => { b with
      activeSt := (dirInUse s.boot).active, stagingSt := (dirInUse s.boot).staging, stagingVersion := (dirInUse s.boot).version,
      stagingSvn := (dirInUse s.boot).svn }) →
    ((strap && !s.boot.ignoreStrap) = true → exec (.bootChain strap ab sb ib) s = .next (enterRecovery d u)) ∧
    ((strap && !s.boot.ignoreStrap) = false → u.boot.stagingSt = 3 → sb = false → verifyImage u u.boot.staging = 0 →
      exec (.bootChain strap ab sb ib) s = .next (startImage u.boot.staging true ib d u)) ∧
    ((strap && !s.boot.ignoreStrap) = false → u.boot.stagingSt ≠ 3 → u.boot.activeSt = 1 → ab = false → verifyImage u u.boot.active = 0 →
      exec (.bootChain strap ab sb ib) s = .next (startImage u.boot.active false ib d u)) ∧
    ((strap && !s.boot.ignoreStrap) = false → u.boot.stagingSt = 2 → sb = false → verifyImage u u.boot.staging = 0 → u.boot.activeSt = 1 →
      (ab = true ∨ verifyImage u u.boot.active ≠ 0) →
      Goes (.bootChain strap ab sb ib) s (fun t => ∃ v, v = verifyFailed (setEv .boot Reg.BOOT_EVENT Bit.BOOT_EVENT_SLOT_FALLBACK u) ∧
        t = startImage u.boot.staging true ib d (modBoot v (fun b => { b with stagingSt := 3 }))))) ∧
  (∀ (o : FlashOp) (s u : State), nextFlashOp s.boot = some o →
    u = cntAdd .boot Reg.BOOT_CNT_FLASH_PAGES o.pages (modBoot s (fun b => { b with ops := eraseOp o b.ops })) →
    (o.kind = 0 ∨ o.kind = 1 → exec .flashOpDone s = .next u) ∧ (o.kind = 5 → exec .flashOpDone s = .next (runVerify u)) ∧
    (∀ r, o.kind = 2 → s.rcv.log.find? (fun p => p.1 == o.arg) = some (o.arg, r) → exec .flashOpDone s = .next (modBoot u (fun b => { b with
      logFlash := smInsert o.arg r (if 16384 ≤ o.arg then smErase (o.arg - 16384) b.logFlash else b.logFlash) })))) ∧
  (∀ s : State, s.boot.stage = 3 → s.boot.commitDue = true → verifyImage s s.boot.staging = 0 →
    Goes .fwCommitCopy s (fun t => t.boot.active = s.boot.staging ∧ t.boot.staging = {} ∧ t.boot.activeSt = 1 ∧ t.boot.stagingSt = 0 ∧
      t.boot.commitDue = false ∧ t.boot.fuseSvn = max s.boot.fuseSvn s.boot.imageSvn ∧
      bit (rd t .boot Reg.BOOT_EVENT) Bit.BOOT_EVENT_COMMIT_DONE = true)) ∧
  (∀ s : State, s.boot.handover = true → anyReset s = false → rachisServes s = true →
    Goes .handoverStandbyReady s (fun t => t.boot.handover = false ∧ t.boot.mixed = true ∧
      t.boot.fwVersion = imgVersion s s.boot.staging ∧ t.rcv.activeCore = 1 - s.rcv.activeCore ∧ t.rcv.standby = false)) ∧
  (∀ s : State, s.boot.handover = true →
    exec .handoverTimeout s = .next (mbxFinishOp 0x63 ST_NO_ACCESS
      [7, word (setStaging 2 (modBoot s (fun b => { b with handover := false }))).boot.fwVersion]
      (setEv .boot Reg.BOOT_EVENT Bit.BOOT_EVENT_HANDOVER_FAIL (setStaging 2 (modBoot s (fun b => { b with handover := false })))))) ∧
  (∀ (w : Word) (s : State), rcvTakes 1 w s = true → imgBytesOk (bits w 28 16 * 4096) = true → s.boot.stagingSt ≠ 3 → s.boot.activeSt ≠ 2 →
    exec (.rcvBegin w) s = .next (beginDownload (bits w 28 16 * 4096) (modBoot s (fun b => { b with rcvState := 1, rcvReason := 0 })))) ∧
  (∀ (w : Word) (s : State), rcvTakes 2 w s = true → exec (.rcvBlock w) s = .next (modBoot
    (offerBlock (bits w 28 16 * 4096) (bits w 63 32) s).2 (fun b => { b with
      rcvState := if (offerBlock (bits w 28 16 * 4096) (bits w 63 32) s).1 = ST_OK then 2 else 3, rcvReason := 0 }))) ∧
  (∀ (w : Word) (s : State), rcvTakes 3 w s = true → exec (.rcvVerify w) s = .next (runVerify (modBoot s (fun b => { b with
    rcvState := 1, rcvReason := 0, rcvVerify := true })))) ∧
  (∀ (w : Word) (s : State), rcvTakes 4 w s = true → s.boot.stagingSt = 2 →
    Goes (.rcvStart w) s (fun t => t.boot.stage = 0 ∧ t.boot.ignoreStrap = true ∧ t.chans = [] ∧ t.objs = [] ∧
      (∃ q, (domainAt t 0x7F).seq = some q ∧ q.step = 6) ∧ t.boot.fuseSvn = s.boot.fuseSvn))
end

