-- ==== Sys2Proof/Laws/SMap.lean ====
section
/-! SUPPORT. Laws of sparse maps: every operation keeps the canonical form, a read after a write gives what was written, and a
write leaves every other key alone. -/

namespace Sys2Proof.Machine

variable {α : Type}

theorem smSorted_cons {p : Nat × α} {r : SMap α} :
    smSorted (p :: r) = true ↔ (∀ q ∈ r, p.1 < q.1) ∧ smSorted r = true := by
  simp [smSorted]

theorem smSorted_append {a b : SMap α} :
    smSorted (a ++ b) = true ↔ smSorted a = true ∧ smSorted b = true ∧ ∀ p ∈ a, ∀ q ∈ b, p.1 < q.1 := by
  induction a with
  | nil => simp [smSorted]
  | cons x r ih =>
    rw [List.cons_append, smSorted_cons, smSorted_cons, ih]
    constructor
    · rintro ⟨h, h1, h2, h3⟩
      refine ⟨⟨fun q hq => h q (by simp [hq]), h1⟩, h2, ?_⟩
      intro p hp q hq
      rcases List.mem_cons.1 hp with rfl | hp
      · exact h q (by simp [hq])
      · exact h3 p hp q hq
    · rintro ⟨⟨h, h1⟩, h2, h3⟩
      refine ⟨?_, h1, h2, fun p hp q hq => h3 p (by simp [hp]) q hq⟩
      intro q hq
      rcases List.mem_append.1 hq with hq | hq
      · exact h q hq
      · exact h3 x (by simp) q hq

theorem smSorted_filter {m : SMap α} (f : Nat × α → Bool) (h : smSorted m = true) : smSorted (m.filter f) = true := by
  induction m with
  | nil => exact h
  | cons x r ih =>
    rw [smSorted_cons] at h
    rw [List.filter_cons]
    split
    · exact smSorted_cons.2 ⟨fun q hq => h.1 q ((List.mem_filter.1 hq).1), ih h.2⟩
    · exact ih h.2

theorem mem_smInsert {k : Nat} {v : α} {m : SMap α} {p : Nat × α} (h : p ∈ smInsert k v m) : p = (k, v) ∨ p ∈ m := by
  induction m with
  | nil => simpa [smInsert] using h
  | cons x r ih =>
    simp only [smInsert] at h
    split at h
    · rcases List.mem_cons.1 h with h | h
      · exact .inl h
      · exact .inr (by simp [h])
    · split at h
      · rcases List.mem_cons.1 h with h | h
        · exact .inl h
        · exact .inr h
      · rcases List.mem_cons.1 h with h | h
        · exact .inr (by simp [h])
        · exact (ih h).imp id (fun h => by simp [h])

theorem smSorted_insert (k : Nat) (v : α) {m : SMap α} (h : smSorted m = true) : smSorted (smInsert k v m) = true := by
  induction m with
  | nil => rfl
  | cons x r ih =>
    have hx := smSorted_cons.1 h
    simp only [smInsert]
    split
    · rename_i e
      exact smSorted_cons.2 ⟨fun q hq => e ▸ hx.1 q hq, hx.2⟩
    · split
      · rename_i e l
        refine smSorted_cons.2 ⟨fun q hq => ?_, h⟩
        rcases List.mem_cons.1 hq with rfl | hq
        · exact l
        · exact Nat.lt_trans l (hx.1 q hq)
      · rename_i e l
        refine smSorted_cons.2 ⟨fun q hq => ?_, ih hx.2⟩
        rcases mem_smInsert hq with rfl | hq
        · simp only; omega
        · exact hx.1 q hq

theorem smGet_insert (d : Nat → α) (m : SMap α) (k : Nat) (v : α) (k' : Nat) :
    smGet d (smInsert k v m) k' = if k' = k then v else smGet d m k' := by
  induction m with
  | nil => simp only [smInsert, smGet, eq_comm]
  | cons x r ih =>
    simp only [smInsert]
    split
    · rename_i e
      subst e
      simp only [smGet]
      grind
    · split
      · simp only [smGet]; grind
      · simp only [smGet, ih]; grind

theorem smGet_of_lt (d : Nat → α) {m : SMap α} {k : Nat} (h : ∀ q ∈ m, k < q.1) : smGet d m k = d k := by
  induction m with
  | nil => rfl
  | cons x r ih =>
    have : x.1 ≠ k := by have := h x (by simp); omega
    simp only [smGet, if_neg this]
    exact ih (fun q hq => h q (by simp [hq]))

theorem smGet_filter (d : Nat → α) (m : SMap α) (f : Nat → Bool) (k : Nat) :
    smGet d (m.filter (fun p => f p.1)) k = if f k = true then smGet d m k else d k := by
  induction m with
  | nil => simp [smGet]
  | cons x r ih =>
    rw [List.filter_cons]
    split
    · simp only [smGet, ih]; grind
    · simp only [smGet, ih]; grind

theorem smGet_erase (d : Nat → α) (m : SMap α) (k k' : Nat) :
    smGet d (smErase k m) k' = if k' = k then d k' else smGet d m k' := by
  have := smGet_filter d m (fun i => i != k) k'
  simp only [smErase, this]
  grind

variable [DecidableEq α]

/-- A read after a write (the write of a value equal to the default included). -/
theorem smGet_set (d : Nat → α) (m : SMap α) (k : Nat) (v : α) (k' : Nat) :
    smGet d (smSet d m k v) k' = if k' = k then v else smGet d m k' := by
  unfold smSet
  split
  · rw [smGet_erase]; grind
  · rw [smGet_insert]

@[simp] theorem smGet_set_same (d : Nat → α) (m : SMap α) (k : Nat) (v : α) : smGet d (smSet d m k v) k = v := by
  simp [smGet_set]
theorem smGet_set_ne (d : Nat → α) (m : SMap α) {k k' : Nat} (v : α) (h : k' ≠ k) :
    smGet d (smSet d m k v) k' = smGet d m k' := by
  simp [smGet_set, h]

@[simp] theorem smWf_nil (d : Nat → α) : smWf d [] = true := rfl

theorem smWf_iff {d : Nat → α} {m : SMap α} : smWf d m = true ↔ smSorted m = true ∧ ∀ p ∈ m, p.2 ≠ d p.1 := by
  simp [smWf]

theorem smWf_filter {d : Nat → α} {m : SMap α} (f : Nat × α → Bool) (h : smWf d m = true) : smWf d (m.filter f) = true := by
  rw [smWf_iff] at *
  exact ⟨smSorted_filter f h.1, fun p hp => h.2 p ((List.mem_filter.1 hp).1)⟩

theorem smWf_insert {d : Nat → α} {m : SMap α} {k : Nat} {v : α} (hv : v ≠ d k) (h : smWf d m = true) :
    smWf d (smInsert k v m) = true := by
  rw [smWf_iff] at *
  refine ⟨smSorted_insert k v h.1, fun p hp => ?_⟩
  rcases mem_smInsert hp with rfl | hp
  · exact hv
  · exact h.2 p hp

theorem smWf_erase {d : Nat → α} {m : SMap α} (k : Nat) (h : smWf d m = true) : smWf d (smErase k m) = true := smWf_filter _ h

theorem smWf_set {d : Nat → α} {m : SMap α} (k : Nat) (v : α) (h : smWf d m = true) : smWf d (smSet d m k v) = true := by
  unfold smSet
  split
  · exact smWf_erase k h
  · exact smWf_insert ‹_› h

theorem smWf_modify {d : Nat → α} {m : SMap α} (k : Nat) (f : α → α) (h : smWf d m = true) :
    smWf d (smModify d m k f) = true := smWf_set _ _ h

theorem smWf_clearRun {d : Nat → α} {m : SMap α} (k n : Nat) (h : smWf d m = true) : smWf d (smClearRun m k n) = true :=
  smWf_filter _ h

theorem smRunEntries_range {d : Nat → α} {k : Nat} {vs : List α} {p : Nat × α} (h : p ∈ smRunEntries d k vs) :
    k ≤ p.1 ∧ p.1 < k + vs.length ∧ p.2 ≠ d p.1 := by
  induction vs generalizing k with
  | nil => simp [smRunEntries] at h
  | cons v r ih =>
    simp only [smRunEntries] at h
    split at h
    · have := ih h; simp only [List.length_cons]; exact ⟨by omega, by omega, this.2.2⟩
    · rcases List.mem_cons.1 h with rfl | h
      · exact ⟨Nat.le_refl _, by simp, by assumption⟩
      · have := ih h; simp only [List.length_cons]; exact ⟨by omega, by omega, this.2.2⟩

theorem smRunEntries_sorted (d : Nat → α) (k : Nat) (vs : List α) : smSorted (smRunEntries d k vs) = true := by
  induction vs generalizing k with
  | nil => rfl
  | cons v r ih =>
    simp only [smRunEntries]
    split
    · exact ih _
    · exact smSorted_cons.2 ⟨fun q hq => by have := smRunEntries_range hq; simp only; omega, ih _⟩

theorem smWf_writeRun {d : Nat → α} {m : SMap α} (k : Nat) (vs : List α) (h : smWf d m = true) :
    smWf d (smWriteRun d m k vs) = true := by
  rw [smWf_iff] at *
  unfold smWriteRun
  constructor
  · rw [smSorted_append, smSorted_append]
    refine ⟨⟨smSorted_filter _ h.1, smRunEntries_sorted d k vs, ?_⟩, smSorted_filter _ h.1, ?_⟩
    · intro p hp q hq
      have h1 := (List.mem_filter.1 hp).2
      have h2 := smRunEntries_range hq
      simp at h1; omega
    · intro p hp q hq
      have h3 := (List.mem_filter.1 hq).2
      simp at h3
      rcases List.mem_append.1 hp with hp | hp
      · have h1 := (List.mem_filter.1 hp).2
        simp at h1; omega
      · have := smRunEntries_range hp
        omega
  · intro p hp
    rcases List.mem_append.1 hp with hp | hp
    · rcases List.mem_append.1 hp with hp | hp
      · exact h.2 p ((List.mem_filter.1 hp).1)
      · exact (smRunEntries_range hp).2.2
    · exact h.2 p ((List.mem_filter.1 hp).1)

omit [DecidableEq α] in
theorem smGet_append (d : Nat → α) (a b : SMap α) (k : Nat) :
    smGet d (a ++ b) k = if a.any (fun p => p.1 == k) then smGet d a k else smGet d b k := by
  induction a with
  | nil => simp
  | cons x r ih => simp only [List.cons_append, smGet, ih, List.any_cons]; grind

/-- A byte outside a written run reads as before. -/
theorem smGet_writeRun_out (d : Nat → α) (m : SMap α) (k : Nat) (vs : List α) (k' : Nat) (h : k' < k ∨ k + vs.length ≤ k') :
    smGet d (smWriteRun d m k vs) k' = smGet d m k' := by
  have hlt := smGet_filter d m (fun i => decide (i < k)) k'
  have hge := smGet_filter d m (fun i => decide (k + vs.length ≤ i)) k'
  have hrun : (smRunEntries d k vs).any (fun p => p.1 == k') = false := by
    rw [List.any_eq_false]
    intro p hp
    have := smRunEntries_range hp
    simp; omega
  unfold smWriteRun
  rw [List.append_assoc, smGet_append, smGet_append, hrun]
  by_cases hk : k' < k
  · split
    · rw [hlt]; simp [hk]
    · rename_i hn
      simp only [Bool.not_eq_true, List.any_eq_false, List.mem_filter] at hn
      have hd : smGet d m k' = d k' := by
        clear hlt hge hrun
        induction m with
        | nil => rfl
        | cons x r ih =>
          have hx : x.1 ≠ k' := by intro e; simpa [e] using hn x ⟨by simp, by simp [e, hk]⟩
          simp only [smGet, if_neg hx]
          exact ih (fun p hp => hn p ⟨by simp [hp.1], hp.2⟩)
      rw [hge, hd]; simp
  · have ha : (m.filter (fun p => decide (p.1 < k))).any (fun p => p.1 == k') = false := by
      rw [List.any_eq_false]; intro p hp
      have := (List.mem_filter.1 hp).2
      simp at *; omega
    rw [ha, hge]
    have : k + vs.length ≤ k' := by omega
    simp [this]

end Sys2Proof.Machine
end

