-- ==== Sys2Proof/Laws/KeepsBase.lean ====
section
/-! SUPPORT. What every operation of the model keeps: the queue of waiting commands, the canonical form of memory, the fuses,
the order of the free values drawn, and every part of the machine that it does not touch. One lemma per operation says it, in the
files beside this one. -/

namespace Sys2Proof.Machine

open Sys2Proof

set_option Elab.async false

theorem Changes.refl (T : Touch) (s : State) : Changes T s s :=
  ⟨fun _ => rfl, fun _ => rfl, fun _ => rfl, fun _ => rfl, fun _ => rfl, fun _ => rfl, fun _ => rfl, fun _ => rfl, fun _ => rfl, fun _ => rfl, fun _ => rfl, fun _ => rfl, fun _ => rfl, fun _ => rfl, fun _ => rfl, fun _ => rfl, fun _ => rfl, fun _ => rfl, fun _ => rfl, fun _ => rfl, fun _ => rfl, fun _ => rfl, fun _ => rfl, fun _ => rfl, fun _ => rfl, fun _ => rfl, fun _ => rfl, fun _ => rfl⟩

theorem Changes.trans {T : Touch} {s t u : State} (h : Changes T s t) (k : Changes T t u) : Changes T s u :=
  ⟨fun e => (k.us e).trans (h.us e), fun e => (k.freeCtr e).trans (h.freeCtr e), fun e => (k.regs e).trans (h.regs e), fun e => (k.tillers e).trans (h.tillers e), fun e => (k.stackMap e).trans (h.stackMap e), fun e => (k.deeps e).trans (h.deeps e), fun e => (k.dram e).trans (h.dram e), fun e => (k.poison e).trans (h.poison e), fun e => (k.husk e).trans (h.husk e), fun e => (k.huskBad e).trans (h.huskBad e), fun e => (k.objs e).trans (h.objs e), fun e => (k.grans e).trans (h.grans e), fun e => (k.shareGroups e).trans (h.shareGroups e), fun e => (k.used e).trans (h.used e), fun e => (k.migs e).trans (h.migs e), fun e => (k.heldBy e).trans (h.heldBy e), fun e => (k.xlat e).trans (h.xlat e), fun e => (k.mbxs e).trans (h.mbxs e), fun e => (k.chans e).trans (h.chans e), fun e => (k.links e).trans (h.links e), fun e => (k.cxl e).trans (h.cxl e), fun e => (k.power e).trans (h.power e), fun e => (k.phys e).trans (h.phys e), fun e => (k.boot e).trans (h.boot e), fun e => (k.rcv e).trans (h.rcv e), fun e => (k.flights e).trans (h.flights e), fun e => (k.notices e).trans (h.notices e), fun e => (k.smbOut e).trans (h.smbOut e)⟩

/-- A state t reached from s by the effect of a command: the queue is as it was, memory keeps its canonical form, free values
are drawn forward only, the fused SVN does not fall, the serial number is as it was, and only the parts that T names have changed. -/
structure Keeps (T : Touch) (s t : State) : Prop where
  pending : t.pending = s.pending
  canon : s.Canonical → t.Canonical
  free : s.freeCtr ≤ t.freeCtr
  svn : s.boot.fuseSvn ≤ t.boot.fuseSvn
  serial : t.boot.serial = s.boot.serial
  frame : Changes T s t

/-- An outcome whose next state is one that an effect may reach. -/
def OutKeeps (T : Touch) (s : State) : Host.Outcome State Fault Refusal → Prop
  | .next t => Keeps T s t
  | .fault _ => True
  | .refused _ => True

theorem Keeps.refl (T : Touch) (s : State) : Keeps T s s :=
  ⟨rfl, id, Nat.le_refl _, Nat.le_refl _, rfl, Changes.refl T s⟩

theorem Keeps.trans {T : Touch} {s t u : State} (h : Keeps T s t) (k : Keeps T t u) : Keeps T s u :=
  ⟨k.pending.trans h.pending, k.canon ∘ h.canon, Nat.le_trans h.free k.free, Nat.le_trans h.svn k.svn, k.serial.trans h.serial,
    h.frame.trans k.frame⟩

@[simp] theorem outKeeps_next {T : Touch} {s t : State} : OutKeeps T s (.next t) ↔ Keeps T s t := Iff.rfl
@[simp] theorem outKeeps_fault {T : Touch} {s : State} {r : Fault} : OutKeeps T s (.fault r) := trivial
@[simp] theorem outKeeps_refused {T : Touch} {s : State} {r : Refusal} : OutKeeps T s (.refused r) := trivial

theorem keeps_ite {T : Touch} {s a b : State} {c : Prop} [Decidable c] (ha : c → Keeps T s a) (hb : ¬c → Keeps T s b) : Keeps T s (if c then a else b) := by
  split <;> simp_all
theorem outKeeps_ite {T : Touch} {s : State} {a b : Host.Outcome State Fault Refusal} {c : Prop} [Decidable c] (ha : c → OutKeeps T s a)
    (hb : ¬c → OutKeeps T s b) : OutKeeps T s (if c then a else b) := by
  split <;> simp_all
theorem keeps_foldl {α : Type} {T : Touch} {s : State} {f : State → α → State} {l : List α} {t : State}
    (hf : ∀ u x, Keeps T s u → Keeps T s (f u x)) (h : Keeps T s t) : Keeps T s (l.foldl f t) := by
  induction l generalizing t with
  | nil => exact h
  | cons x r ih => exact ih (hf t x h)
theorem keeps_foldl_fst {α β : Type} {T : Touch} {s : State} {f : State × β → α → State × β} {l : List α} {t : State × β}
    (hf : ∀ u x, Keeps T s u.1 → Keeps T s (f u x).1) (h : Keeps T s t.1) : Keeps T s (l.foldl f t).1 := by
  induction l generalizing t with
  | nil => exact h
  | cons x r ih => exact ih (hf t x h)
theorem keeps_foldl_snd {α β : Type} {T : Touch} {s : State} {f : β × State → α → β × State} {l : List α} {t : β × State}
    (hf : ∀ u x, Keeps T s u.2 → Keeps T s (f u x).2) (h : Keeps T s t.2) : Keeps T s (l.foldl f t).2 := by
  induction l generalizing t with
  | nil => exact h
  | cons x r ih => exact ih (hf t x h)
theorem keeps_foldl_snd2 {α β γ : Type} {T : Touch} {s : State} {f : β × γ × State → α → β × γ × State} {l : List α} {t : β × γ × State}
    (hf : ∀ u x, Keeps T s u.2.2 → Keeps T s (f u x).2.2) (h : Keeps T s t.2.2) : Keeps T s (l.foldl f t).2.2 := by
  induction l generalizing t with
  | nil => exact h
  | cons x r ih => exact ih (hf t x h)
theorem keeps_foldr {α : Type} {T : Touch} {s : State} {f : α → State → State} {l : List α} {t : State}
    (hf : ∀ u x, Keeps T s u → Keeps T s (f x u)) (h : Keeps T s t) : Keeps T s (l.foldr f t) := by
  induction l with
  | nil => exact h
  | cons x r ih => exact hf _ _ ih

theorem atUnit_keeps {T : Touch} {s : State} {n k : Nat} {o : Host.Outcome State Fault Refusal} (h : OutKeeps T s o) :
    OutKeeps T s (atUnit n k o) := by
  unfold atUnit
  split
  · exact h
  · trivial

/-! ### Updates of the parts of the state -/

theorem keeps_boot {T : Touch} {s t : State} (boot : Boot) (hk : Keeps T s t) (hv : t.boot.fuseSvn ≤ boot.fuseSvn) (hs : boot.serial = t.boot.serial)
    (ht : T.boot = true) : Keeps T s { t with boot := boot } :=
  ⟨hk.pending, fun c => let k := hk.canon c; ⟨k.dram, k.poison, k.husk, k.huskBad, k.used, k.regs⟩, hk.free, Nat.le_trans hk.svn hv, hs.trans hk.serial,
    ⟨hk.frame.us, hk.frame.freeCtr, hk.frame.regs, hk.frame.tillers, hk.frame.stackMap, hk.frame.deeps, hk.frame.dram, hk.frame.poison, hk.frame.husk, hk.frame.huskBad, hk.frame.objs, hk.frame.grans, hk.frame.shareGroups, hk.frame.used, hk.frame.migs, hk.frame.heldBy, hk.frame.xlat, hk.frame.mbxs, hk.frame.chans, hk.frame.links, hk.frame.cxl, hk.frame.power, hk.frame.phys, fun e => absurd ht (by simp [e]), hk.frame.rcv, hk.frame.flights, hk.frame.notices, hk.frame.smbOut⟩⟩
theorem keeps_chans {T : Touch} {s t : State} (chans : SMap Chan) (hk : Keeps T s t)
    (ht : T.chans = true) : Keeps T s { t with chans := chans } :=
  ⟨hk.pending, fun c => let k := hk.canon c; ⟨k.dram, k.poison, k.husk, k.huskBad, k.used, k.regs⟩, hk.free, hk.svn, hk.serial,
    ⟨hk.frame.us, hk.frame.freeCtr, hk.frame.regs, hk.frame.tillers, hk.frame.stackMap, hk.frame.deeps, hk.frame.dram, hk.frame.poison, hk.frame.husk, hk.frame.huskBad, hk.frame.objs, hk.frame.grans, hk.frame.shareGroups, hk.frame.used, hk.frame.migs, hk.frame.heldBy, hk.frame.xlat, hk.frame.mbxs, fun e => absurd ht (by simp [e]), hk.frame.links, hk.frame.cxl, hk.frame.power, hk.frame.phys, hk.frame.boot, hk.frame.rcv, hk.frame.flights, hk.frame.notices, hk.frame.smbOut⟩⟩
theorem keeps_cxl {T : Touch} {s t : State} (cxl : Cxl) (hk : Keeps T s t)
    (ht : T.cxl = true) : Keeps T s { t with cxl := cxl } :=
  ⟨hk.pending, fun c => let k := hk.canon c; ⟨k.dram, k.poison, k.husk, k.huskBad, k.used, k.regs⟩, hk.free, hk.svn, hk.serial,
    ⟨hk.frame.us, hk.frame.freeCtr, hk.frame.regs, hk.frame.tillers, hk.frame.stackMap, hk.frame.deeps, hk.frame.dram, hk.frame.poison, hk.frame.husk, hk.frame.huskBad, hk.frame.objs, hk.frame.grans, hk.frame.shareGroups, hk.frame.used, hk.frame.migs, hk.frame.heldBy, hk.frame.xlat, hk.frame.mbxs, hk.frame.chans, hk.frame.links, fun e => absurd ht (by simp [e]), hk.frame.power, hk.frame.phys, hk.frame.boot, hk.frame.rcv, hk.frame.flights, hk.frame.notices, hk.frame.smbOut⟩⟩
theorem keeps_deeps {T : Touch} {s t : State} (deeps : SMap Deep) (hk : Keeps T s t)
    (ht : T.deeps = true) : Keeps T s { t with deeps := deeps } :=
  ⟨hk.pending, fun c => let k := hk.canon c; ⟨k.dram, k.poison, k.husk, k.huskBad, k.used, k.regs⟩, hk.free, hk.svn, hk.serial,
    ⟨hk.frame.us, hk.frame.freeCtr, hk.frame.regs, hk.frame.tillers, hk.frame.stackMap, fun e => absurd ht (by simp [e]), hk.frame.dram, hk.frame.poison, hk.frame.husk, hk.frame.huskBad, hk.frame.objs, hk.frame.grans, hk.frame.shareGroups, hk.frame.used, hk.frame.migs, hk.frame.heldBy, hk.frame.xlat, hk.frame.mbxs, hk.frame.chans, hk.frame.links, hk.frame.cxl, hk.frame.power, hk.frame.phys, hk.frame.boot, hk.frame.rcv, hk.frame.flights, hk.frame.notices, hk.frame.smbOut⟩⟩
theorem keeps_dram {T : Touch} {s t : State} (dram : SMap Byte) (hk : Keeps T s t) (h_dram : smWf zeroByte t.dram = true → smWf zeroByte dram = true)
    (ht : T.dram = true) : Keeps T s { t with dram := dram } :=
  ⟨hk.pending, fun c => let k := hk.canon c; ⟨h_dram k.dram, k.poison, k.husk, k.huskBad, k.used, k.regs⟩, hk.free, hk.svn, hk.serial,
    ⟨hk.frame.us, hk.frame.freeCtr, hk.frame.regs, hk.frame.tillers, hk.frame.stackMap, hk.frame.deeps, fun e => absurd ht (by simp [e]), hk.frame.poison, hk.frame.husk, hk.frame.huskBad, hk.frame.objs, hk.frame.grans, hk.frame.shareGroups, hk.frame.used, hk.frame.migs, hk.frame.heldBy, hk.frame.xlat, hk.frame.mbxs, hk.frame.chans, hk.frame.links, hk.frame.cxl, hk.frame.power, hk.frame.phys, hk.frame.boot, hk.frame.rcv, hk.frame.flights, hk.frame.notices, hk.frame.smbOut⟩⟩
theorem keeps_flights {T : Touch} {s t : State} (flights : List Flight) (hk : Keeps T s t)
    (ht : T.flights = true) : Keeps T s { t with flights := flights } :=
  ⟨hk.pending, fun c => let k := hk.canon c; ⟨k.dram, k.poison, k.husk, k.huskBad, k.used, k.regs⟩, hk.free, hk.svn, hk.serial,
    ⟨hk.frame.us, hk.frame.freeCtr, hk.frame.regs, hk.frame.tillers, hk.frame.stackMap, hk.frame.deeps, hk.frame.dram, hk.frame.poison, hk.frame.husk, hk.frame.huskBad, hk.frame.objs, hk.frame.grans, hk.frame.shareGroups, hk.frame.used, hk.frame.migs, hk.frame.heldBy, hk.frame.xlat, hk.frame.mbxs, hk.frame.chans, hk.frame.links, hk.frame.cxl, hk.frame.power, hk.frame.phys, hk.frame.boot, hk.frame.rcv, fun e => absurd ht (by simp [e]), hk.frame.notices, hk.frame.smbOut⟩⟩
theorem keeps_freeCtr {T : Touch} {s t : State} (hk : Keeps T s t)
    (ht : T.freeCtr = true) : Keeps T s { t with freeCtr := t.freeCtr + 1 } :=
  ⟨hk.pending, fun c => let k := hk.canon c; ⟨k.dram, k.poison, k.husk, k.huskBad, k.used, k.regs⟩, Nat.le_succ_of_le hk.free, hk.svn, hk.serial,
    ⟨hk.frame.us, fun e => absurd ht (by simp [e]), hk.frame.regs, hk.frame.tillers, hk.frame.stackMap, hk.frame.deeps, hk.frame.dram, hk.frame.poison, hk.frame.husk, hk.frame.huskBad, hk.frame.objs, hk.frame.grans, hk.frame.shareGroups, hk.frame.used, hk.frame.migs, hk.frame.heldBy, hk.frame.xlat, hk.frame.mbxs, hk.frame.chans, hk.frame.links, hk.frame.cxl, hk.frame.power, hk.frame.phys, hk.frame.boot, hk.frame.rcv, hk.frame.flights, hk.frame.notices, hk.frame.smbOut⟩⟩
theorem keeps_grans {T : Touch} {s t : State} (grans : SMap Granule) (hk : Keeps T s t)
    (ht : T.grans = true) : Keeps T s { t with grans := grans } :=
  ⟨hk.pending, fun c => let k := hk.canon c; ⟨k.dram, k.poison, k.husk, k.huskBad, k.used, k.regs⟩, hk.free, hk.svn, hk.serial,
    ⟨hk.frame.us, hk.frame.freeCtr, hk.frame.regs, hk.frame.tillers, hk.frame.stackMap, hk.frame.deeps, hk.frame.dram, hk.frame.poison, hk.frame.husk, hk.frame.huskBad, hk.frame.objs, fun e => absurd ht (by simp [e]), hk.frame.shareGroups, hk.frame.used, hk.frame.migs, hk.frame.heldBy, hk.frame.xlat, hk.frame.mbxs, hk.frame.chans, hk.frame.links, hk.frame.cxl, hk.frame.power, hk.frame.phys, hk.frame.boot, hk.frame.rcv, hk.frame.flights, hk.frame.notices, hk.frame.smbOut⟩⟩
theorem keeps_heldBy {T : Touch} {s t : State} (heldBy : List (Nat × Nat × Nat × Nat)) (hk : Keeps T s t)
    (ht : T.heldBy = true) : Keeps T s { t with heldBy := heldBy } :=
  ⟨hk.pending, fun c => let k := hk.canon c; ⟨k.dram, k.poison, k.husk, k.huskBad, k.used, k.regs⟩, hk.free, hk.svn, hk.serial,
    ⟨hk.frame.us, hk.frame.freeCtr, hk.frame.regs, hk.frame.tillers, hk.frame.stackMap, hk.frame.deeps, hk.frame.dram, hk.frame.poison, hk.frame.husk, hk.frame.huskBad, hk.frame.objs, hk.frame.grans, hk.frame.shareGroups, hk.frame.used, hk.frame.migs, fun e => absurd ht (by simp [e]), hk.frame.xlat, hk.frame.mbxs, hk.frame.chans, hk.frame.links, hk.frame.cxl, hk.frame.power, hk.frame.phys, hk.frame.boot, hk.frame.rcv, hk.frame.flights, hk.frame.notices, hk.frame.smbOut⟩⟩
theorem keeps_huskBad {T : Touch} {s t : State} (huskBad : SMap Bool) (hk : Keeps T s t) (h_huskBad : smWf (fun _ => false) t.huskBad = true → smWf (fun _ => false) huskBad = true)
    (ht : T.huskBad = true) : Keeps T s { t with huskBad := huskBad } :=
  ⟨hk.pending, fun c => let k := hk.canon c; ⟨k.dram, k.poison, k.husk, h_huskBad k.huskBad, k.used, k.regs⟩, hk.free, hk.svn, hk.serial,
    ⟨hk.frame.us, hk.frame.freeCtr, hk.frame.regs, hk.frame.tillers, hk.frame.stackMap, hk.frame.deeps, hk.frame.dram, hk.frame.poison, hk.frame.husk, fun e => absurd ht (by simp [e]), hk.frame.objs, hk.frame.grans, hk.frame.shareGroups, hk.frame.used, hk.frame.migs, hk.frame.heldBy, hk.frame.xlat, hk.frame.mbxs, hk.frame.chans, hk.frame.links, hk.frame.cxl, hk.frame.power, hk.frame.phys, hk.frame.boot, hk.frame.rcv, hk.frame.flights, hk.frame.notices, hk.frame.smbOut⟩⟩
theorem keeps_husk_huskBad {T : Touch} {s t : State} (husk : SMap Bool) (huskBad : SMap Bool) (hk : Keeps T s t) (h_husk : smWf (fun _ => false) t.husk = true → smWf (fun _ => false) husk = true) (h_huskBad : smWf (fun _ => false) t.huskBad = true → smWf (fun _ => false) huskBad = true)
    (ht : T.husk = true ∧ T.huskBad = true) : Keeps T s { t with husk := husk, huskBad := huskBad } :=
  ⟨hk.pending, fun c => let k := hk.canon c; ⟨k.dram, k.poison, h_husk k.husk, h_huskBad k.huskBad, k.used, k.regs⟩, hk.free, hk.svn, hk.serial,
    ⟨hk.frame.us, hk.frame.freeCtr, hk.frame.regs, hk.frame.tillers, hk.frame.stackMap, hk.frame.deeps, hk.frame.dram, hk.frame.poison, fun e => absurd ht.1 (by simp [e]), fun e => absurd ht.2 (by simp [e]), hk.frame.objs, hk.frame.grans, hk.frame.shareGroups, hk.frame.used, hk.frame.migs, hk.frame.heldBy, hk.frame.xlat, hk.frame.mbxs, hk.frame.chans, hk.frame.links, hk.frame.cxl, hk.frame.power, hk.frame.phys, hk.frame.boot, hk.frame.rcv, hk.frame.flights, hk.frame.notices, hk.frame.smbOut⟩⟩
theorem keeps_links {T : Touch} {s t : State} (links : Links) (hk : Keeps T s t)
    (ht : T.links = true) : Keeps T s { t with links := links } :=
  ⟨hk.pending, fun c => let k := hk.canon c; ⟨k.dram, k.poison, k.husk, k.huskBad, k.used, k.regs⟩, hk.free, hk.svn, hk.serial,
    ⟨hk.frame.us, hk.frame.freeCtr, hk.frame.regs, hk.frame.tillers, hk.frame.stackMap, hk.frame.deeps, hk.frame.dram, hk.frame.poison, hk.frame.husk, hk.frame.huskBad, hk.frame.objs, hk.frame.grans, hk.frame.shareGroups, hk.frame.used, hk.frame.migs, hk.frame.heldBy, hk.frame.xlat, hk.frame.mbxs, hk.frame.chans, fun e => absurd ht (by simp [e]), hk.frame.cxl, hk.frame.power, hk.frame.phys, hk.frame.boot, hk.frame.rcv, hk.frame.flights, hk.frame.notices, hk.frame.smbOut⟩⟩
theorem keeps_mbxs {T : Touch} {s t : State} (mbxs : SMap Mbx) (hk : Keeps T s t)
    (ht : T.mbxs = true) : Keeps T s { t with mbxs := mbxs } :=
  ⟨hk.pending, fun c => let k := hk.canon c; ⟨k.dram, k.poison, k.husk, k.huskBad, k.used, k.regs⟩, hk.free, hk.svn, hk.serial,
    ⟨hk.frame.us, hk.frame.freeCtr, hk.frame.regs, hk.frame.tillers, hk.frame.stackMap, hk.frame.deeps, hk.frame.dram, hk.frame.poison, hk.frame.husk, hk.frame.huskBad, hk.frame.objs, hk.frame.grans, hk.frame.shareGroups, hk.frame.used, hk.frame.migs, hk.frame.heldBy, hk.frame.xlat, fun e => absurd ht (by simp [e]), hk.frame.chans, hk.frame.links, hk.frame.cxl, hk.frame.power, hk.frame.phys, hk.frame.boot, hk.frame.rcv, hk.frame.flights, hk.frame.notices, hk.frame.smbOut⟩⟩
theorem keeps_mbxs_chans_links {T : Touch} {s t : State} (mbxs : SMap Mbx) (chans : SMap Chan) (links : Links) (hk : Keeps T s t)
    (ht : T.mbxs = true ∧ T.chans = true ∧ T.links = true) : Keeps T s { t with mbxs := mbxs, chans := chans, links := links } :=
  ⟨hk.pending, fun c => let k := hk.canon c; ⟨k.dram, k.poison, k.husk, k.huskBad, k.used, k.regs⟩, hk.free, hk.svn, hk.serial,
    ⟨hk.frame.us, hk.frame.freeCtr, hk.frame.regs, hk.frame.tillers, hk.frame.stackMap, hk.frame.deeps, hk.frame.dram, hk.frame.poison, hk.frame.husk, hk.frame.huskBad, hk.frame.objs, hk.frame.grans, hk.frame.shareGroups, hk.frame.used, hk.frame.migs, hk.frame.heldBy, hk.frame.xlat, fun e => absurd ht.1 (by simp [e]), fun e => absurd ht.2.1 (by simp [e]), fun e => absurd ht.2.2 (by simp [e]), hk.frame.cxl, hk.frame.power, hk.frame.phys, hk.frame.boot, hk.frame.rcv, hk.frame.flights, hk.frame.notices, hk.frame.smbOut⟩⟩
theorem keeps_migs {T : Touch} {s t : State} (migs : List MigCmd) (hk : Keeps T s t)
    (ht : T.migs = true) : Keeps T s { t with migs := migs } :=
  ⟨hk.pending, fun c => let k := hk.canon c; ⟨k.dram, k.poison, k.husk, k.huskBad, k.used, k.regs⟩, hk.free, hk.svn, hk.serial,
    ⟨hk.frame.us, hk.frame.freeCtr, hk.frame.regs, hk.frame.tillers, hk.frame.stackMap, hk.frame.deeps, hk.frame.dram, hk.frame.poison, hk.frame.husk, hk.frame.huskBad, hk.frame.objs, hk.frame.grans, hk.frame.shareGroups, hk.frame.used, fun e => absurd ht (by simp [e]), hk.frame.heldBy, hk.frame.xlat, hk.frame.mbxs, hk.frame.chans, hk.frame.links, hk.frame.cxl, hk.frame.power, hk.frame.phys, hk.frame.boot, hk.frame.rcv, hk.frame.flights, hk.frame.notices, hk.frame.smbOut⟩⟩
theorem keeps_migs_heldBy {T : Touch} {s t : State} (migs : List MigCmd) (heldBy : List (Nat × Nat × Nat × Nat)) (hk : Keeps T s t)
    (ht : T.migs = true ∧ T.heldBy = true) : Keeps T s { t with migs := migs, heldBy := heldBy } :=
  ⟨hk.pending, fun c => let k := hk.canon c; ⟨k.dram, k.poison, k.husk, k.huskBad, k.used, k.regs⟩, hk.free, hk.svn, hk.serial,
    ⟨hk.frame.us, hk.frame.freeCtr, hk.frame.regs, hk.frame.tillers, hk.frame.stackMap, hk.frame.deeps, hk.frame.dram, hk.frame.poison, hk.frame.husk, hk.frame.huskBad, hk.frame.objs, hk.frame.grans, hk.frame.shareGroups, hk.frame.used, fun e => absurd ht.1 (by simp [e]), fun e => absurd ht.2 (by simp [e]), hk.frame.xlat, hk.frame.mbxs, hk.frame.chans, hk.frame.links, hk.frame.cxl, hk.frame.power, hk.frame.phys, hk.frame.boot, hk.frame.rcv, hk.frame.flights, hk.frame.notices, hk.frame.smbOut⟩⟩
theorem keeps_notices {T : Touch} {s t : State} (notices : List (Nat × Nat)) (hk : Keeps T s t)
    (ht : T.notices = true) : Keeps T s { t with notices := notices } :=
  ⟨hk.pending, fun c => let k := hk.canon c; ⟨k.dram, k.poison, k.husk, k.huskBad, k.used, k.regs⟩, hk.free, hk.svn, hk.serial,
    ⟨hk.frame.us, hk.frame.freeCtr, hk.frame.regs, hk.frame.tillers, hk.frame.stackMap, hk.frame.deeps, hk.frame.dram, hk.frame.poison, hk.frame.husk, hk.frame.huskBad, hk.frame.objs, hk.frame.grans, hk.frame.shareGroups, hk.frame.used, hk.frame.migs, hk.frame.heldBy, hk.frame.xlat, hk.frame.mbxs, hk.frame.chans, hk.frame.links, hk.frame.cxl, hk.frame.power, hk.frame.phys, hk.frame.boot, hk.frame.rcv, hk.frame.flights, fun e => absurd ht (by simp [e]), hk.frame.smbOut⟩⟩
theorem keeps_objs {T : Touch} {s t : State} (objs : SMap Obj) (hk : Keeps T s t)
    (ht : T.objs = true) : Keeps T s { t with objs := objs } :=
  ⟨hk.pending, fun c => let k := hk.canon c; ⟨k.dram, k.poison, k.husk, k.huskBad, k.used, k.regs⟩, hk.free, hk.svn, hk.serial,
    ⟨hk.frame.us, hk.frame.freeCtr, hk.frame.regs, hk.frame.tillers, hk.frame.stackMap, hk.frame.deeps, hk.frame.dram, hk.frame.poison, hk.frame.husk, hk.frame.huskBad, fun e => absurd ht (by simp [e]), hk.frame.grans, hk.frame.shareGroups, hk.frame.used, hk.frame.migs, hk.frame.heldBy, hk.frame.xlat, hk.frame.mbxs, hk.frame.chans, hk.frame.links, hk.frame.cxl, hk.frame.power, hk.frame.phys, hk.frame.boot, hk.frame.rcv, hk.frame.flights, hk.frame.notices, hk.frame.smbOut⟩⟩
theorem keeps_phys {T : Touch} {s t : State} (phys : Physical) (hk : Keeps T s t)
    (ht : T.phys = true) : Keeps T s { t with phys := phys } :=
  ⟨hk.pending, fun c => let k := hk.canon c; ⟨k.dram, k.poison, k.husk, k.huskBad, k.used, k.regs⟩, hk.free, hk.svn, hk.serial,
    ⟨hk.frame.us, hk.frame.freeCtr, hk.frame.regs, hk.frame.tillers, hk.frame.stackMap, hk.frame.deeps, hk.frame.dram, hk.frame.poison, hk.frame.husk, hk.frame.huskBad, hk.frame.objs, hk.frame.grans, hk.frame.shareGroups, hk.frame.used, hk.frame.migs, hk.frame.heldBy, hk.frame.xlat, hk.frame.mbxs, hk.frame.chans, hk.frame.links, hk.frame.cxl, hk.frame.power, fun e => absurd ht (by simp [e]), hk.frame.boot, hk.frame.rcv, hk.frame.flights, hk.frame.notices, hk.frame.smbOut⟩⟩
theorem keeps_poison {T : Touch} {s t : State} (poison : SMap Bool) (hk : Keeps T s t) (h_poison : smWf (fun _ => false) t.poison = true → smWf (fun _ => false) poison = true)
    (ht : T.poison = true) : Keeps T s { t with poison := poison } :=
  ⟨hk.pending, fun c => let k := hk.canon c; ⟨k.dram, h_poison k.poison, k.husk, k.huskBad, k.used, k.regs⟩, hk.free, hk.svn, hk.serial,
    ⟨hk.frame.us, hk.frame.freeCtr, hk.frame.regs, hk.frame.tillers, hk.frame.stackMap, hk.frame.deeps, hk.frame.dram, fun e => absurd ht (by simp [e]), hk.frame.husk, hk.frame.huskBad, hk.frame.objs, hk.frame.grans, hk.frame.shareGroups, hk.frame.used, hk.frame.migs, hk.frame.heldBy, hk.frame.xlat, hk.frame.mbxs, hk.frame.chans, hk.frame.links, hk.frame.cxl, hk.frame.power, hk.frame.phys, hk.frame.boot, hk.frame.rcv, hk.frame.flights, hk.frame.notices, hk.frame.smbOut⟩⟩
theorem keeps_power {T : Touch} {s t : State} (power : Power) (hk : Keeps T s t)
    (ht : T.power = true) : Keeps T s { t with power := power } :=
  ⟨hk.pending, fun c => let k := hk.canon c; ⟨k.dram, k.poison, k.husk, k.huskBad, k.used, k.regs⟩, hk.free, hk.svn, hk.serial,
    ⟨hk.frame.us, hk.frame.freeCtr, hk.frame.regs, hk.frame.tillers, hk.frame.stackMap, hk.frame.deeps, hk.frame.dram, hk.frame.poison, hk.frame.husk, hk.frame.huskBad, hk.frame.objs, hk.frame.grans, hk.frame.shareGroups, hk.frame.used, hk.frame.migs, hk.frame.heldBy, hk.frame.xlat, hk.frame.mbxs, hk.frame.chans, hk.frame.links, hk.frame.cxl, fun e => absurd ht (by simp [e]), hk.frame.phys, hk.frame.boot, hk.frame.rcv, hk.frame.flights, hk.frame.notices, hk.frame.smbOut⟩⟩
theorem keeps_rcv {T : Touch} {s t : State} (rcv : Recov) (hk : Keeps T s t)
    (ht : T.rcv = true) : Keeps T s { t with rcv := rcv } :=
  ⟨hk.pending, fun c => let k := hk.canon c; ⟨k.dram, k.poison, k.husk, k.huskBad, k.used, k.regs⟩, hk.free, hk.svn, hk.serial,
    ⟨hk.frame.us, hk.frame.freeCtr, hk.frame.regs, hk.frame.tillers, hk.frame.stackMap, hk.frame.deeps, hk.frame.dram, hk.frame.poison, hk.frame.husk, hk.frame.huskBad, hk.frame.objs, hk.frame.grans, hk.frame.shareGroups, hk.frame.used, hk.frame.migs, hk.frame.heldBy, hk.frame.xlat, hk.frame.mbxs, hk.frame.chans, hk.frame.links, hk.frame.cxl, hk.frame.power, hk.frame.phys, hk.frame.boot, fun e => absurd ht (by simp [e]), hk.frame.flights, hk.frame.notices, hk.frame.smbOut⟩⟩
theorem keeps_regs {T : Touch} {s t : State} (regs : SMap Word) (hk : Keeps T s t) (h_regs : smWf regDefault t.regs = true → smWf regDefault regs = true)
    (ht : T.regs = true) : Keeps T s { t with regs := regs } :=
  ⟨hk.pending, fun c => let k := hk.canon c; ⟨k.dram, k.poison, k.husk, k.huskBad, k.used, h_regs k.regs⟩, hk.free, hk.svn, hk.serial,
    ⟨hk.frame.us, hk.frame.freeCtr, fun e => absurd ht (by simp [e]), hk.frame.tillers, hk.frame.stackMap, hk.frame.deeps, hk.frame.dram, hk.frame.poison, hk.frame.husk, hk.frame.huskBad, hk.frame.objs, hk.frame.grans, hk.frame.shareGroups, hk.frame.used, hk.frame.migs, hk.frame.heldBy, hk.frame.xlat, hk.frame.mbxs, hk.frame.chans, hk.frame.links, hk.frame.cxl, hk.frame.power, hk.frame.phys, hk.frame.boot, hk.frame.rcv, hk.frame.flights, hk.frame.notices, hk.frame.smbOut⟩⟩
theorem keeps_regs_tillers_xlat_mbxs_flights_notices {T : Touch} {s t : State} (regs : SMap Word) (tillers : SMap Tiller) (xlat : SMap (List Nat)) (mbxs : SMap Mbx) (flights : List Flight) (notices : List (Nat × Nat)) (hk : Keeps T s t) (h_regs : smWf regDefault t.regs = true → smWf regDefault regs = true)
    (ht : T.regs = true ∧ T.tillers = true ∧ T.xlat = true ∧ T.mbxs = true ∧ T.flights = true ∧ T.notices = true) : Keeps T s { t with regs := regs, tillers := tillers, xlat := xlat, mbxs := mbxs, flights := flights, notices := notices } :=
  ⟨hk.pending, fun c => let k := hk.canon c; ⟨k.dram, k.poison, k.husk, k.huskBad, k.used, h_regs k.regs⟩, hk.free, hk.svn, hk.serial,
    ⟨hk.frame.us, hk.frame.freeCtr, fun e => absurd ht.1 (by simp [e]), fun e => absurd ht.2.1 (by simp [e]), hk.frame.stackMap, hk.frame.deeps, hk.frame.dram, hk.frame.poison, hk.frame.husk, hk.frame.huskBad, hk.frame.objs, hk.frame.grans, hk.frame.shareGroups, hk.frame.used, hk.frame.migs, hk.frame.heldBy, fun e => absurd ht.2.2.1 (by simp [e]), fun e => absurd ht.2.2.2.1 (by simp [e]), hk.frame.chans, hk.frame.links, hk.frame.cxl, hk.frame.power, hk.frame.phys, hk.frame.boot, hk.frame.rcv, fun e => absurd ht.2.2.2.2.1 (by simp [e]), fun e => absurd ht.2.2.2.2.2 (by simp [e]), hk.frame.smbOut⟩⟩
theorem keeps_shareGroups {T : Touch} {s t : State} (shareGroups : SMap ShareGroup) (hk : Keeps T s t)
    (ht : T.shareGroups = true) : Keeps T s { t with shareGroups := shareGroups } :=
  ⟨hk.pending, fun c => let k := hk.canon c; ⟨k.dram, k.poison, k.husk, k.huskBad, k.used, k.regs⟩, hk.free, hk.svn, hk.serial,
    ⟨hk.frame.us, hk.frame.freeCtr, hk.frame.regs, hk.frame.tillers, hk.frame.stackMap, hk.frame.deeps, hk.frame.dram, hk.frame.poison, hk.frame.husk, hk.frame.huskBad, hk.frame.objs, hk.frame.grans, fun e => absurd ht (by simp [e]), hk.frame.used, hk.frame.migs, hk.frame.heldBy, hk.frame.xlat, hk.frame.mbxs, hk.frame.chans, hk.frame.links, hk.frame.cxl, hk.frame.power, hk.frame.phys, hk.frame.boot, hk.frame.rcv, hk.frame.flights, hk.frame.notices, hk.frame.smbOut⟩⟩
theorem keeps_smbOut {T : Touch} {s t : State} (smbOut : List (Nat × Nat × Nat × List Byte)) (hk : Keeps T s t)
    (ht : T.smbOut = true) : Keeps T s { t with smbOut := smbOut } :=
  ⟨hk.pending, fun c => let k := hk.canon c; ⟨k.dram, k.poison, k.husk, k.huskBad, k.used, k.regs⟩, hk.free, hk.svn, hk.serial,
    ⟨hk.frame.us, hk.frame.freeCtr, hk.frame.regs, hk.frame.tillers, hk.frame.stackMap, hk.frame.deeps, hk.frame.dram, hk.frame.poison, hk.frame.husk, hk.frame.huskBad, hk.frame.objs, hk.frame.grans, hk.frame.shareGroups, hk.frame.used, hk.frame.migs, hk.frame.heldBy, hk.frame.xlat, hk.frame.mbxs, hk.frame.chans, hk.frame.links, hk.frame.cxl, hk.frame.power, hk.frame.phys, hk.frame.boot, hk.frame.rcv, hk.frame.flights, hk.frame.notices, fun e => absurd ht (by simp [e])⟩⟩
theorem keeps_stacks {T : Touch} {s t : State} (stackMap : SMap Stack) (hk : Keeps T s t)
    (ht : T.stackMap = true) : Keeps T s { t with stackMap := stackMap } :=
  ⟨hk.pending, fun c => let k := hk.canon c; ⟨k.dram, k.poison, k.husk, k.huskBad, k.used, k.regs⟩, hk.free, hk.svn, hk.serial,
    ⟨hk.frame.us, hk.frame.freeCtr, hk.frame.regs, hk.frame.tillers, fun e => absurd ht (by simp [e]), hk.frame.deeps, hk.frame.dram, hk.frame.poison, hk.frame.husk, hk.frame.huskBad, hk.frame.objs, hk.frame.grans, hk.frame.shareGroups, hk.frame.used, hk.frame.migs, hk.frame.heldBy, hk.frame.xlat, hk.frame.mbxs, hk.frame.chans, hk.frame.links, hk.frame.cxl, hk.frame.power, hk.frame.phys, hk.frame.boot, hk.frame.rcv, hk.frame.flights, hk.frame.notices, hk.frame.smbOut⟩⟩
theorem keeps_stacks_deeps {T : Touch} {s t : State} (stackMap : SMap Stack) (deeps : SMap Deep) (hk : Keeps T s t)
    (ht : T.stackMap = true ∧ T.deeps = true) : Keeps T s { t with stackMap := stackMap, deeps := deeps } :=
  ⟨hk.pending, fun c => let k := hk.canon c; ⟨k.dram, k.poison, k.husk, k.huskBad, k.used, k.regs⟩, hk.free, hk.svn, hk.serial,
    ⟨hk.frame.us, hk.frame.freeCtr, hk.frame.regs, hk.frame.tillers, fun e => absurd ht.1 (by simp [e]), fun e => absurd ht.2 (by simp [e]), hk.frame.dram, hk.frame.poison, hk.frame.husk, hk.frame.huskBad, hk.frame.objs, hk.frame.grans, hk.frame.shareGroups, hk.frame.used, hk.frame.migs, hk.frame.heldBy, hk.frame.xlat, hk.frame.mbxs, hk.frame.chans, hk.frame.links, hk.frame.cxl, hk.frame.power, hk.frame.phys, hk.frame.boot, hk.frame.rcv, hk.frame.flights, hk.frame.notices, hk.frame.smbOut⟩⟩
theorem keeps_stacks_deeps_dram_poison_husk_huskBad {T : Touch} {s t : State} (stackMap : SMap Stack) (deeps : SMap Deep) (dram : SMap Byte) (poison : SMap Bool) (husk : SMap Bool) (huskBad : SMap Bool) (hk : Keeps T s t) (h_dram : smWf zeroByte t.dram = true → smWf zeroByte dram = true) (h_poison : smWf (fun _ => false) t.poison = true → smWf (fun _ => false) poison = true) (h_husk : smWf (fun _ => false) t.husk = true → smWf (fun _ => false) husk = true) (h_huskBad : smWf (fun _ => false) t.huskBad = true → smWf (fun _ => false) huskBad = true)
    (ht : T.stackMap = true ∧ T.deeps = true ∧ T.dram = true ∧ T.poison = true ∧ T.husk = true ∧ T.huskBad = true) : Keeps T s { t with stackMap := stackMap, deeps := deeps, dram := dram, poison := poison, husk := husk, huskBad := huskBad } :=
  ⟨hk.pending, fun c => let k := hk.canon c; ⟨h_dram k.dram, h_poison k.poison, h_husk k.husk, h_huskBad k.huskBad, k.used, k.regs⟩, hk.free, hk.svn, hk.serial,
    ⟨hk.frame.us, hk.frame.freeCtr, hk.frame.regs, hk.frame.tillers, fun e => absurd ht.1 (by simp [e]), fun e => absurd ht.2.1 (by simp [e]), fun e => absurd ht.2.2.1 (by simp [e]), fun e => absurd ht.2.2.2.1 (by simp [e]), fun e => absurd ht.2.2.2.2.1 (by simp [e]), fun e => absurd ht.2.2.2.2.2 (by simp [e]), hk.frame.objs, hk.frame.grans, hk.frame.shareGroups, hk.frame.used, hk.frame.migs, hk.frame.heldBy, hk.frame.xlat, hk.frame.mbxs, hk.frame.chans, hk.frame.links, hk.frame.cxl, hk.frame.power, hk.frame.phys, hk.frame.boot, hk.frame.rcv, hk.frame.flights, hk.frame.notices, hk.frame.smbOut⟩⟩
theorem keeps_tillers {T : Touch} {s t : State} (tillers : SMap Tiller) (hk : Keeps T s t)
    (ht : T.tillers = true) : Keeps T s { t with tillers := tillers } :=
  ⟨hk.pending, fun c => let k := hk.canon c; ⟨k.dram, k.poison, k.husk, k.huskBad, k.used, k.regs⟩, hk.free, hk.svn, hk.serial,
    ⟨hk.frame.us, hk.frame.freeCtr, hk.frame.regs, fun e => absurd ht (by simp [e]), hk.frame.stackMap, hk.frame.deeps, hk.frame.dram, hk.frame.poison, hk.frame.husk, hk.frame.huskBad, hk.frame.objs, hk.frame.grans, hk.frame.shareGroups, hk.frame.used, hk.frame.migs, hk.frame.heldBy, hk.frame.xlat, hk.frame.mbxs, hk.frame.chans, hk.frame.links, hk.frame.cxl, hk.frame.power, hk.frame.phys, hk.frame.boot, hk.frame.rcv, hk.frame.flights, hk.frame.notices, hk.frame.smbOut⟩⟩
theorem keeps_tillers_flights_notices {T : Touch} {s t : State} (tillers : SMap Tiller) (flights : List Flight) (notices : List (Nat × Nat)) (hk : Keeps T s t)
    (ht : T.tillers = true ∧ T.flights = true ∧ T.notices = true) : Keeps T s { t with tillers := tillers, flights := flights, notices := notices } :=
  ⟨hk.pending, fun c => let k := hk.canon c; ⟨k.dram, k.poison, k.husk, k.huskBad, k.used, k.regs⟩, hk.free, hk.svn, hk.serial,
    ⟨hk.frame.us, hk.frame.freeCtr, hk.frame.regs, fun e => absurd ht.1 (by simp [e]), hk.frame.stackMap, hk.frame.deeps, hk.frame.dram, hk.frame.poison, hk.frame.husk, hk.frame.huskBad, hk.frame.objs, hk.frame.grans, hk.frame.shareGroups, hk.frame.used, hk.frame.migs, hk.frame.heldBy, hk.frame.xlat, hk.frame.mbxs, hk.frame.chans, hk.frame.links, hk.frame.cxl, hk.frame.power, hk.frame.phys, hk.frame.boot, hk.frame.rcv, fun e => absurd ht.2.1 (by simp [e]), fun e => absurd ht.2.2 (by simp [e]), hk.frame.smbOut⟩⟩
theorem keeps_us {T : Touch} {s t : State} (us : Nat) (hk : Keeps T s t)
    (ht : T.us = true) : Keeps T s { t with us := us } :=
  ⟨hk.pending, fun c => let k := hk.canon c; ⟨k.dram, k.poison, k.husk, k.huskBad, k.used, k.regs⟩, hk.free, hk.svn, hk.serial,
    ⟨fun e => absurd ht (by simp [e]), hk.frame.freeCtr, hk.frame.regs, hk.frame.tillers, hk.frame.stackMap, hk.frame.deeps, hk.frame.dram, hk.frame.poison, hk.frame.husk, hk.frame.huskBad, hk.frame.objs, hk.frame.grans, hk.frame.shareGroups, hk.frame.used, hk.frame.migs, hk.frame.heldBy, hk.frame.xlat, hk.frame.mbxs, hk.frame.chans, hk.frame.links, hk.frame.cxl, hk.frame.power, hk.frame.phys, hk.frame.boot, hk.frame.rcv, hk.frame.flights, hk.frame.notices, hk.frame.smbOut⟩⟩
theorem keeps_used {T : Touch} {s t : State} (used : SMap Bool) (hk : Keeps T s t) (h_used : smWf (fun _ => false) t.used = true → smWf (fun _ => false) used = true)
    (ht : T.used = true) : Keeps T s { t with used := used } :=
  ⟨hk.pending, fun c => let k := hk.canon c; ⟨k.dram, k.poison, k.husk, k.huskBad, h_used k.used, k.regs⟩, hk.free, hk.svn, hk.serial,
    ⟨hk.frame.us, hk.frame.freeCtr, hk.frame.regs, hk.frame.tillers, hk.frame.stackMap, hk.frame.deeps, hk.frame.dram, hk.frame.poison, hk.frame.husk, hk.frame.huskBad, hk.frame.objs, hk.frame.grans, hk.frame.shareGroups, fun e => absurd ht (by simp [e]), hk.frame.migs, hk.frame.heldBy, hk.frame.xlat, hk.frame.mbxs, hk.frame.chans, hk.frame.links, hk.frame.cxl, hk.frame.power, hk.frame.phys, hk.frame.boot, hk.frame.rcv, hk.frame.flights, hk.frame.notices, hk.frame.smbOut⟩⟩
theorem keeps_xlat {T : Touch} {s t : State} (xlat : SMap (List Nat)) (hk : Keeps T s t)
    (ht : T.xlat = true) : Keeps T s { t with xlat := xlat } :=
  ⟨hk.pending, fun c => let k := hk.canon c; ⟨k.dram, k.poison, k.husk, k.huskBad, k.used, k.regs⟩, hk.free, hk.svn, hk.serial,
    ⟨hk.frame.us, hk.frame.freeCtr, hk.frame.regs, hk.frame.tillers, hk.frame.stackMap, hk.frame.deeps, hk.frame.dram, hk.frame.poison, hk.frame.husk, hk.frame.huskBad, hk.frame.objs, hk.frame.grans, hk.frame.shareGroups, hk.frame.used, hk.frame.migs, hk.frame.heldBy, fun e => absurd ht (by simp [e]), hk.frame.mbxs, hk.frame.chans, hk.frame.links, hk.frame.cxl, hk.frame.power, hk.frame.phys, hk.frame.boot, hk.frame.rcv, hk.frame.flights, hk.frame.notices, hk.frame.smbOut⟩⟩

end Sys2Proof.Machine
end

