-- ==== Sys2Proof/Laws/Keeps/Ops.lean ====
section
/-! SUPPORT. What each operation of Machine/Ops.lean keeps. -/

namespace Sys2Proof.Machine

open Sys2Proof

set_option Elab.async false
set_option linter.unusedTactic false
set_option linter.unreachableTactic false

theorem onlyIf_keeps {T : Touch} {s0 : State} (b : Bool) (s : State) (f : State → State) (hk : Keeps T s0 s) (hf : ∀ x0, Keeps T s0 x0 → Keeps T s0 (f x0)) :
    OutKeeps T s0 (onlyIf b s f) := by
  unfold onlyIf
  try dsimp only
  repeat' first | (with_reducible assumption) | (simp +contextual (maxDischargeDepth := 60) only [outKeeps_next, hk, hf]; done) | split | dsimp only
theorem setTiller_keeps {T : Touch} {s0 : State} (s : State) (t : ℕ) (v : Tiller) (hk : Keeps T s0 s) (ht : T.tillers = true := by simp [*]) :
    Keeps T s0 (setTiller s t v) := keeps_tillers _ hk ht
theorem modTiller_keeps {T : Touch} {s0 : State} (s : State) (t : ℕ) (f : Tiller → Tiller) (hk : Keeps T s0 s) (ht : T.tillers = true := by simp [*]) :
    Keeps T s0 (modTiller s t f) := by
  unfold modTiller
  simp +contextual (maxDischargeDepth := 60) only [hk, setTiller_keeps, ht]
theorem setStack_keeps {T : Touch} {s0 : State} (s : State) (i : ℕ) (v : Stack) (hk : Keeps T s0 s) (ht : T.stackMap = true := by simp [*]) :
    Keeps T s0 (setStack s i v) := keeps_stacks _ hk ht
theorem modStack_keeps {T : Touch} {s0 : State} (s : State) (i : ℕ) (f : Stack → Stack) (hk : Keeps T s0 s) (ht : T.stackMap = true := by simp [*]) :
    Keeps T s0 (modStack s i f) := by
  unfold modStack
  simp +contextual (maxDischargeDepth := 60) only [hk, setStack_keeps, ht]
theorem setDeep_keeps {T : Touch} {s0 : State} (s : State) (d : ℕ) (v : Deep) (hk : Keeps T s0 s) (ht : T.deeps = true := by simp [*]) :
    Keeps T s0 (setDeep s d v) := keeps_deeps _ hk ht
theorem modDeep_keeps {T : Touch} {s0 : State} (s : State) (d : ℕ) (f : Deep → Deep) (hk : Keeps T s0 s) (ht : T.deeps = true := by simp [*]) :
    Keeps T s0 (modDeep s d f) := by
  unfold modDeep
  simp +contextual (maxDischargeDepth := 60) only [hk, setDeep_keeps, ht]
theorem setMbx_keeps {T : Touch} {s0 : State} (s : State) (m : ℕ) (v : Mbx) (hk : Keeps T s0 s) (ht : T.mbxs = true := by simp [*]) :
    Keeps T s0 (setMbx s m v) := keeps_mbxs _ hk ht
theorem modMbx_keeps {T : Touch} {s0 : State} (s : State) (m : ℕ) (f : Mbx → Mbx) (hk : Keeps T s0 s) (ht : T.mbxs = true := by simp [*]) :
    Keeps T s0 (modMbx s m f) := by
  unfold modMbx
  simp +contextual (maxDischargeDepth := 60) only [hk, setMbx_keeps, ht]
theorem setChan_keeps {T : Touch} {s0 : State} (s : State) (c : ℕ) (v : Chan) (hk : Keeps T s0 s) (ht : T.chans = true := by simp [*]) :
    Keeps T s0 (setChan s c v) := keeps_chans _ hk ht
theorem modChan_keeps {T : Touch} {s0 : State} (s : State) (c : ℕ) (f : Chan → Chan) (hk : Keeps T s0 s) (ht : T.chans = true := by simp [*]) :
    Keeps T s0 (modChan s c f) := by
  unfold modChan
  simp +contextual (maxDischargeDepth := 60) only [hk, setChan_keeps, ht]
theorem modRings_keeps {T : Touch} {s0 : State} (s : State) (c : ℕ) (f : Rings → Rings) (hk : Keeps T s0 s) (ht : T.chans = true := by simp [*]) :
    Keeps T s0 (modRings s c f) := by
  unfold modRings
  simp +contextual (maxDischargeDepth := 60) only [hk, modChan_keeps, ht]
theorem modTrn_keeps {T : Touch} {s0 : State} (s : State) (c : ℕ) (f : Trn → Trn) (hk : Keeps T s0 s) (ht : T.chans = true := by simp [*]) :
    Keeps T s0 (modTrn s c f) := by
  unfold modTrn
  simp +contextual (maxDischargeDepth := 60) only [hk, modChan_keeps, ht]
theorem modChanRcv_keeps {T : Touch} {s0 : State} (s : State) (c : ℕ) (f : ChanRcv → ChanRcv) (hk : Keeps T s0 s) (ht : T.chans = true := by simp [*]) :
    Keeps T s0 (modChanRcv s c f) := by
  unfold modChanRcv
  simp +contextual (maxDischargeDepth := 60) only [hk, modChan_keeps, ht]
theorem setObj_keeps {T : Touch} {s0 : State} (s : State) (o : ℕ) (v : Obj) (hk : Keeps T s0 s) (ht : T.objs = true := by simp [*]) :
    Keeps T s0 (setObj s o v) := keeps_objs _ hk ht
theorem modObj_keeps {T : Touch} {s0 : State} (s : State) (o : ℕ) (f : Obj → Obj) (hk : Keeps T s0 s) (ht : T.objs = true := by simp [*]) :
    Keeps T s0 (modObj s o f) := by
  unfold modObj
  simp +contextual (maxDischargeDepth := 60) only [hk, setObj_keeps, ht]
theorem modRcv_keeps {T : Touch} {s0 : State} (s : State) (f : Recov → Recov) (hk : Keeps T s0 s) (ht : T.rcv = true := by simp [*]) :
    Keeps T s0 (modRcv s f) := keeps_rcv _ hk ht
theorem modDomain_keeps {T : Touch} {s0 : State} (s : State) (d : ℕ) (f : Domain → Domain) (hk : Keeps T s0 s) (ht : T.rcv = true := by simp [*]) :
    Keeps T s0 (modDomain s d f) := by
  unfold modDomain
  simp +contextual (maxDischargeDepth := 60) only [hk, modRcv_keeps, ht]
theorem modPower_keeps {T : Touch} {s0 : State} (s : State) (f : Power → Power) (hk : Keeps T s0 s) (ht : T.power = true := by simp [*]) :
    Keeps T s0 (modPower s f) := keeps_power _ hk ht
theorem modPhys_keeps {T : Touch} {s0 : State} (s : State) (f : Physical → Physical) (hk : Keeps T s0 s) (ht : T.phys = true := by simp [*]) :
    Keeps T s0 (modPhys s f) := keeps_phys _ hk ht
theorem modBoot_keeps {T : Touch} {s0 : State} (s : State) (f : Boot → Boot) (hk : Keeps T s0 s) (hf : s.boot.fuseSvn ≤ (f s.boot).fuseSvn)
    (hs : (f s.boot).serial = s.boot.serial) (ht : T.boot = true := by simp [*]) : Keeps T s0 (modBoot s f) := keeps_boot _ hk hf hs ht
theorem modCxl_keeps {T : Touch} {s0 : State} (s : State) (f : Cxl → Cxl) (hk : Keeps T s0 s) (ht : T.cxl = true := by simp [*]) :
    Keeps T s0 (modCxl s f) := keeps_cxl _ hk ht
theorem modLinks_keeps {T : Touch} {s0 : State} (s : State) (f : Links → Links) (hk : Keeps T s0 s) (ht : T.links = true := by simp [*]) :
    Keeps T s0 (modLinks s f) := keeps_links _ hk ht
theorem setPort_keeps {T : Touch} {s0 : State} (s : State) (p : ℕ) (v : Port) (hk : Keeps T s0 s) (ht : T.links = true := by simp [*]) :
    Keeps T s0 (setPort s p v) := by
  unfold setPort
  simp +contextual (maxDischargeDepth := 60) only [hk, modLinks_keeps, ht]
theorem modPort_keeps {T : Touch} {s0 : State} (s : State) (p : ℕ) (f : Port → Port) (hk : Keeps T s0 s) (ht : T.links = true := by simp [*]) :
    Keeps T s0 (modPort s p f) := by
  unfold modPort
  simp +contextual (maxDischargeDepth := 60) only [hk, setPort_keeps, ht]
theorem modGroup_keeps {T : Touch} {s0 : State} (s : State) (g : ℕ) (f : Group → Group) (hk : Keeps T s0 s) (ht : T.links = true := by simp [*]) :
    Keeps T s0 (modGroup s g f) := by
  unfold modGroup
  simp +contextual (maxDischargeDepth := 60) only [hk, modLinks_keeps, ht]
theorem modResh_keeps {T : Touch} {s0 : State} (c : ℕ) (f : Reshard → Reshard) (s : State) (hk : Keeps T s0 s) (ht : T.links = true := by simp [*]) :
    Keeps T s0 (modResh c f s) := by
  unfold modResh
  simp +contextual (maxDischargeDepth := 60) only [hk, modLinks_keeps, ht]
theorem drawFree_keeps {T : Touch} {s0 : State} (s : State) (hk : Keeps T s0 s) (ht : T.freeCtr = true := by simp [*]) :
    Keeps T s0 (drawFree s).2 := keeps_freeCtr hk ht
theorem wrAddr_keeps {T : Touch} {s0 : State} (s : State) (a : ℕ) (w : Word) (hk : Keeps T s0 s) (ht : T.regs = true := by simp [*]) :
    Keeps T s0 (wrAddr s a w) := keeps_regs _ hk (smWf_set _ _) ht
theorem wr_keeps {T : Touch} {s0 : State} (s : State) (b : Blk) (off : ℕ) (w : Word) (hk : Keeps T s0 s) (ht : T.regs = true := by simp [*]) :
    Keeps T s0 (wr s b off w) := by
  unfold wr
  simp +contextual (maxDischargeDepth := 60) only [hk, wrAddr_keeps, ht]
theorem resetBlock_keeps {T : Touch} {s0 : State} (s : State) (b : Blk) (size : ℕ) (hk : Keeps T s0 s) (ht : T.regs = true := by simp [*]) :
    Keeps T s0 (resetBlock s b size) := keeps_regs _ hk (smWf_clearRun _ _) ht
theorem sendMsi_keeps {T : Touch} {s0 : State} (v : ℕ) (s : State) (hk : Keeps T s0 s) (ht : T.cxl = true := by simp [*]) :
    Keeps T s0 (sendMsi v s) := by
  unfold sendMsi
  try dsimp only
  repeat' first | (with_reducible assumption) | (simp +contextual (maxDischargeDepth := 60) only [hk, modCxl_keeps, ht]; done) | split | dsimp only
theorem owe_keeps {T : Touch} {s0 : State} (c : ℕ) (r : CplRec) (irq : Bool) (pos : Option ℕ) (s : State) (hk : Keeps T s0 s) (ht : T.chans = true := by simp [*]) :
    Keeps T s0 (owe c r irq pos s) := by
  unfold owe
  simp +contextual (maxDischargeDepth := 60) only [hk, modRings_keeps, ht]
theorem oweKind_keeps {T : Touch} {s0 : State} (c : ℕ) (kind : ℕ) (status : ℕ) (r0 : ℕ) (r1 : ℕ) (r2 : ℕ) (s : State) (hk : Keeps T s0 s) (ht : T.chans = true := by simp [*]) :
    Keeps T s0 (oweKind c kind status r0 r1 r2 s) := by
  unfold oweKind
  simp +contextual (maxDischargeDepth := 60) only [hk, owe_keeps, ht]
theorem setEv_keeps {T : Touch} {s0 : State} (b : Blk) (ev : ℕ) (n : ℕ) (s : State) (hk : Keeps T s0 s) (ht : T.regs = true ∧ T.chans = true ∧ T.cxl = true := by simp [*]) :
    Keeps T s0 (setEv b ev n s) := by
  unfold setEv
  try dsimp only
  repeat' first | (with_reducible assumption) | (simp +contextual (maxDischargeDepth := 60) only [hk, wr_keeps, oweKind_keeps, sendMsi_keeps, ht]; done) | split | dsimp only
theorem cntAdd_keeps {T : Touch} {s0 : State} (b : Blk) (off : ℕ) (n : ℕ) (s : State) (hk : Keeps T s0 s) (ht : T.regs = true ∧ T.chans = true ∧ T.cxl = true := by simp [*]) :
    Keeps T s0 (cntAdd b off n s) := by
  unfold cntAdd
  try dsimp only
  repeat' first | (with_reducible assumption) | (simp +contextual (maxDischargeDepth := 60) only [hk, wr_keeps, setEv_keeps, ht, and_self]; done) | split | dsimp only
theorem cntInc_keeps {T : Touch} {s0 : State} (b : Blk) (off : ℕ) (s : State) (hk : Keeps T s0 s) (ht : T.regs = true ∧ T.chans = true ∧ T.cxl = true := by simp [*]) :
    Keeps T s0 (cntInc b off s) := by
  unfold cntInc
  simp +contextual (maxDischargeDepth := 60) only [hk, cntAdd_keeps, ht, and_self]
theorem logRec_keeps {T : Touch} {s0 : State} (r : LogRec) (s : State) (hk : Keeps T s0 s) (ht : T.boot = true ∧ T.rcv = true := by simp [*]) :
    Keeps T s0 (logRec r s) := by
  unfold logRec
  simp +contextual (maxDischargeDepth := 60) only [Nat.le_refl, hk, modRcv_keeps, modBoot_keeps, ht]
theorem mbxIrq_keeps {T : Touch} {s0 : State} (m : ℕ) (s : State) (hk : Keeps T s0 s) (ht : T.cxl = true := by simp [*]) :
    Keeps T s0 (mbxIrq m s) := by
  unfold mbxIrq
  try dsimp only
  repeat' first | (with_reducible assumption) | (simp +contextual (maxDischargeDepth := 60) only [hk, sendMsi_keeps, ht]; done) | split | dsimp only
theorem mbxDone_keeps {T : Touch} {s0 : State} (m : ℕ) (seq : ℕ) (r : CplRec) (s : State) (hk : Keeps T s0 s) (ht : T.mbxs = true ∧ T.cxl = true := by simp [*]) :
    Keeps T s0 (mbxDone m seq r s) := by
  unfold mbxDone
  simp +contextual (maxDischargeDepth := 60) only [hk, mbxIrq_keeps, modMbx_keeps, ht]
theorem mbxPending_keeps {T : Touch} {s0 : State} (m : ℕ) (x : Cmd) (s : State) (hk : Keeps T s0 s) (ht : T.regs = true ∧ T.mbxs = true ∧ T.chans = true ∧ T.cxl = true := by simp [*]) :
    Keeps T s0 (mbxPending m x s) := by
  unfold mbxPending
  simp +contextual (maxDischargeDepth := 60) only [hk, modMbx_keeps, mbxIrq_keeps, cntInc_keeps, ht, and_self]
theorem ringFinish_keeps {T : Touch} {s0 : State} (c : ℕ) (pos : ℕ) (kind : ℕ) (status : ℕ) (x : Cmd) (rs : List Word) (s : State) (hk : Keeps T s0 s) (ht : T.regs = true ∧ T.chans = true ∧ T.cxl = true := by simp [*]) :
    Keeps T s0 (ringFinish c pos kind status x rs s) := by
  unfold ringFinish
  try dsimp only
  repeat' first | (with_reducible assumption) | (simp +contextual (maxDischargeDepth := 60) only [hk, modRings_keeps, owe_keeps, setEv_keeps, ht, and_self]; done) | split | dsimp only
theorem answerK_keeps {T : Touch} {s0 : State} (kind : ℕ) (x : Cmd) (status : ℕ) (rs : List Word) (s : State) (hk : Keeps T s0 s) (ht : T.regs = true ∧ T.mbxs = true ∧ T.chans = true ∧ T.cxl = true ∧ T.smbOut = true := by simp [*]) :
    Keeps T s0 (answerK kind x status rs s) := by
  unfold answerK
  try dsimp only
  repeat' first | (with_reducible assumption) | (simp +contextual (maxDischargeDepth := 60) only [hk, ringFinish_keeps, mbxDone_keeps, ht, and_self]; done) | split | (with_reducible refine keeps_smbOut _ ?_ (by simp [ht])) | dsimp only
theorem answer_keeps {T : Touch} {s0 : State} (x : Cmd) (status : ℕ) (rs : List Word) (s : State) (hk : Keeps T s0 s) (ht : T.regs = true ∧ T.mbxs = true ∧ T.chans = true ∧ T.cxl = true ∧ T.smbOut = true := by simp [*]) :
    Keeps T s0 (answer x status rs s) := by
  unfold answer
  simp +contextual (maxDischargeDepth := 60) only [hk, answerK_keeps, ht, and_self]
theorem mbxFinish_keeps {T : Touch} {s0 : State} (m : ℕ) (k : ℕ) (status : ℕ) (rs : List Word) (s : State) (hk : Keeps T s0 s) (ht : T.mbxs = true := by simp [*]) :
    Keeps T s0 (mbxFinish m k status rs s) := by
  unfold mbxFinish
  try dsimp only
  repeat' first | (with_reducible assumption) | (simp +contextual (maxDischargeDepth := 60) only [hk, modMbx_keeps, ht]; done) | split | dsimp only
theorem mbxFinishOp_keeps {T : Touch} {s0 : State} (op : ℕ) (status : ℕ) (rs : List Word) (s : State) (hk : Keeps T s0 s) (ht : T.mbxs = true := by simp [*]) :
    Keeps T s0 (mbxFinishOp op status rs s) := by
  unfold mbxFinishOp
  try dsimp only
  repeat' first | (with_reducible assumption) | (simp +contextual (maxDischargeDepth := 60) only [mbxFinish_keeps, ht]; done) | split | (with_reducible apply keeps_foldl) | (with_reducible apply keeps_foldl_fst) | (with_reducible apply keeps_foldl_snd) | (with_reducible apply keeps_foldl_snd2) | (intro _ _ _) | (intro _ _) | with_reducible apply mbxFinish_keeps | with_reducible apply keeps_ite | with_reducible apply outKeeps_ite | with_reducible apply atUnit_keeps | dsimp only
theorem startStep_keeps {T : Touch} {s0 : State} (c : ℕ) (n : ℕ) (s : State) (hk : Keeps T s0 s) (ht : T.chans = true := by simp [*]) :
    Keeps T s0 (startStep c n s) := by
  unfold startStep
  try dsimp only
  repeat' first | (with_reducible assumption) | (simp +contextual (maxDischargeDepth := 60) only [hk, modTrn_keeps, ht]; done) | split | dsimp only
theorem markStarted_keeps {T : Touch} {s0 : State} (x : Cmd) (s : State) (hk : Keeps T s0 s) (ht : T.chans = true := by simp [*]) :
    Keeps T s0 (markStarted x s) := by
  unfold markStarted
  try dsimp only
  repeat' first | (with_reducible assumption) | (simp +contextual (maxDischargeDepth := 60) only [hk, modRings_keeps, startStep_keeps, ht]; done) | split | dsimp only
theorem serve_keeps {T : Touch} {s0 : State} (op : ℕ) (src : CmdSrc) (e : Entry) (s : State) (f : Cmd → State → State) (hk : Keeps T s0 s) (hf : ∀ x0 x1, Keeps T s0 x1 → Keeps T s0 (f x0 x1)) (ht : T.regs = true ∧ T.mbxs = true ∧ T.chans = true ∧ T.cxl = true ∧ T.smbOut = true := by simp [*]) :
    OutKeeps T s0 (serve op src e s f) := by
  unfold serve
  try dsimp only
  repeat' first | (with_reducible assumption) | (simp +contextual (maxDischargeDepth := 60) only [outKeeps_next, hk, hf, markStarted_keeps, answer_keeps, ht, and_self]; done) | split | dsimp only
theorem servePending_keeps {T : Touch} {s0 : State} (x : Cmd) (s : State) (f : State → State) (hk : Keeps T s0 s) (hf : ∀ x0, Keeps T s0 x0 → Keeps T s0 (f x0)) (ht : T.regs = true ∧ T.mbxs = true ∧ T.chans = true ∧ T.cxl = true ∧ T.smbOut = true := by simp [*]) :
    Keeps T s0 (servePending x s f) := by
  unfold servePending
  try dsimp only
  repeat' first | (with_reducible assumption) | (simp +contextual (maxDischargeDepth := 60) only [hk, hf, answer_keeps, mbxPending_keeps, ht, and_self]; done) | split | dsimp only
theorem finishAsync_keeps {T : Touch} {s0 : State} (x : Cmd) (status : ℕ) (rs : List Word) (s : State) (hk : Keeps T s0 s) (ht : T.regs = true ∧ T.mbxs = true ∧ T.chans = true ∧ T.cxl = true ∧ T.smbOut = true := by simp [*]) :
    Keeps T s0 (finishAsync x status rs s) := by
  unfold finishAsync
  try dsimp only
  repeat' first | (with_reducible assumption) | (simp +contextual (maxDischargeDepth := 60) only [hk, mbxFinish_keeps, answer_keeps, ht, and_self]; done) | split | dsimp only
theorem finishRingK_keeps {T : Touch} {s0 : State} (c : ℕ) (pos : ℕ) (kind : ℕ) (status : ℕ) (rs : List Word) (s : State) (hk : Keeps T s0 s) (ht : T.regs = true ∧ T.chans = true ∧ T.cxl = true := by simp [*]) :
    Keeps T s0 (finishRingK c pos kind status rs s) := by
  unfold finishRingK
  try dsimp only
  repeat' first | (with_reducible assumption) | (simp +contextual (maxDischargeDepth := 60) only [hk, ringFinish_keeps, ht, and_self]; done) | split | dsimp only
theorem finishRing_keeps {T : Touch} {s0 : State} (c : ℕ) (pos : ℕ) (status : ℕ) (rs : List Word) (s : State) (hk : Keeps T s0 s) (ht : T.regs = true ∧ T.chans = true ∧ T.cxl = true := by simp [*]) :
    Keeps T s0 (finishRing c pos status rs s) := by
  unfold finishRing
  simp +contextual (maxDischargeDepth := 60) only [hk, finishRingK_keeps, ht, and_self]

end Sys2Proof.Machine
end

