-- ==== Sys2Proof/Laws/Keeps/Place.lean ====
section
/-! SUPPORT. What each operation of Machine/Place.lean keeps. -/

namespace Sys2Proof.Machine

open Sys2Proof

set_option Elab.async false
set_option linter.unusedTactic false
set_option linter.unreachableTactic false

theorem smWf_foldl_insert {l : List Nat} {m : SMap Bool} (hm : smWf (fun _ => false) m = true) :
    smWf (fun _ => false) (l.foldl (fun u k => smInsert k true u) m) = true := by
  induction l generalizing m with
  | nil => exact hm
  | cons x r ih => exact ih (smWf_insert (by decide) hm)
theorem takeFrames_wf {tier field : Nat} {loc : Bool} {fuel n c : Nat} {used : SMap Bool} {p : List Nat × SMap Bool}
    (hu : smWf (fun _ => false) used = true) (e : takeFrames tier field loc fuel n c used = some p) :
    smWf (fun _ => false) p.2 = true := by
  induction fuel generalizing n c used p with
  | zero =>
    cases n with
    | zero => simp only [takeFrames, Option.some.injEq] at e; subst e; exact hu
    | succ n => simp [takeFrames] at e
  | succ fuel ih =>
    cases n with
    | zero => simp only [takeFrames, Option.some.injEq] at e; subst e; exact hu
    | succ n =>
      simp only [takeFrames] at e
      split at e
      · cases e
      · split at e
        · exact ih hu e
        · split at e
          · cases e
          · rename_i h
            cases e
            exact (ih (smWf_foldl_insert hu) h : smWf (fun _ => false) (_, _).2 = true)
theorem allocFrames_keeps {T : Touch} {s0 : State} (s : State) (tier : ℕ) (field : ℕ) (loc : Bool) (n : ℕ) (hk : Keeps T s0 s) {p : List ℕ × State} (he : allocFrames s tier field loc n = some p) (ht : T.used = true := by simp [*]) :
    Keeps T s0 p.2 := by
  unfold allocFrames at he
  split at he
  · cases he
  · rename_i h
    cases he
    exact keeps_used _ hk (fun k => takeFrames_wf k h) ht
theorem smWf_foldl_erase {α : Type} [DecidableEq α] {d : Nat → α} {m : SMap α} (l : List Nat) (hm : smWf d m = true) :
    smWf d (l.foldl (fun u k => smErase k u) m) = true := by
  induction l generalizing m with
  | nil => exact hm
  | cons x r ih => exact ih (smWf_erase x hm)
theorem freeFrame_keeps {T : Touch} {s0 : State} (s : State) (tier : ℕ) (f : ℕ) (hk : Keeps T s0 s) (ht : T.used = true := by simp [*]) :
    Keeps T s0 (freeFrame s tier f) := keeps_used _ hk (smWf_foldl_erase _) ht
theorem setPoison_keeps {T : Touch} {s0 : State} (s : State) (cw : ℕ) (b : Bool) (hk : Keeps T s0 s) (ht : T.poison = true := by simp [*]) :
    Keeps T s0 (setPoison s cw b) := keeps_poison _ hk (smWf_set _ _) ht
theorem clearBlock_keeps {T : Touch} {s0 : State} (s : State) (home : ℕ) (l : ℕ) (hk : Keeps T s0 s) (ht : T.stackMap = true ∧ T.deeps = true ∧ T.dram = true ∧ T.poison = true ∧ T.husk = true ∧ T.huskBad = true := by simp [*]) :
    Keeps T s0 (clearBlock s home l) := keeps_stacks_deeps_dram_poison_husk_huskBad _ _ _ _ _ _ hk (smWf_clearRun _ _) (smWf_clearRun _ _) (smWf_erase _) (smWf_erase _) ht
theorem clearFrame_keeps {T : Touch} {s0 : State} (s : State) (tier : ℕ) (f : ℕ) (hk : Keeps T s0 s) (ht : T.stackMap = true ∧ T.deeps = true ∧ T.dram = true ∧ T.poison = true ∧ T.husk = true ∧ T.huskBad = true := by simp [*]) :
    Keeps T s0 (clearFrame s tier f) := keeps_foldl (fun _ _ hu => clearBlock_keeps _ _ _ hu) hk
theorem setGran_keeps {T : Touch} {s0 : State} (s : State) (o : Obj) (g : ℕ) (v : Granule) (hk : Keeps T s0 s) (ht : T.grans = true := by simp [*]) :
    Keeps T s0 (setGran s o g v) := keeps_grans _ hk ht
theorem markDirty_keeps {T : Touch} {s0 : State} (s : State) (oi : ℕ) (g : ℕ) (hk : Keeps T s0 s) (ht : T.objs = true ∧ T.grans = true := by simp [*]) :
    Keeps T s0 (markDirty s oi g) := by
  unfold markDirty
  try dsimp only
  repeat' first | (with_reducible assumption) | (simp +contextual (maxDischargeDepth := 60) only [hk, modObj_keeps, setGran_keeps, ht]; done) | split | dsimp only
theorem plcFault_keeps {T : Touch} {s0 : State} (src : ℕ) (unit : ℕ) (write : Bool) (cause : ℕ) (ch : ℕ) (oi : Option ℕ) (da : ℕ) (s : State) (hk : Keeps T s0 s) (ht : T.regs = true ∧ T.chans = true ∧ T.cxl = true := by simp [*]) :
    Keeps T s0 (plcFault src unit write cause ch oi da s) := by
  unfold plcFault
  try dsimp only
  repeat' first | (with_reducible assumption) | (simp +contextual (maxDischargeDepth := 60) only [hk, wr_keeps, cntInc_keeps, setEv_keeps, ht, and_self]; done) | split | dsimp only
theorem modUsed_keeps {T : Touch} {s0 : State} (s : State) (c : ℕ) (tier : ℕ) (f : ℕ → ℕ) (hk : Keeps T s0 s) (ht : T.chans = true := by simp [*]) :
    Keeps T s0 (modUsed s c tier f) := by
  unfold modUsed
  simp +contextual (maxDischargeDepth := 60) only [hk, modChan_keeps, ht]
theorem createObjBy_keeps {T : Touch} {s0 : State} (alloc : State → Nat → Option (List Nat × State)) (s : State) (c : Nat) (n : NewObj) (hk : Keeps T s0 s)
    (halloc : ∀ t g p, Keeps T s0 t → alloc t g = some p → Keeps T s0 p.2) {p : Nat × Nat × State} (he : createObjBy alloc s c n = .ok p) (ht : T.stackMap = true ∧ T.deeps = true ∧ T.dram = true ∧ T.poison = true ∧ T.husk = true ∧ T.huskBad = true ∧ T.objs = true ∧ T.grans = true ∧ T.chans = true := by simp [*]) :
    Keeps T s0 p.2.2 := by
  unfold createObjBy at he
  dsimp only at he
  split at he
  · cases he
  · split at he
    · split at he
      · cases he
      · rename_i ha
        split at he
        · cases he
        · cases he
          have h1 := halloc _ _ _ hk ha
          have h2 := fun l => keeps_foldl (l := l) (fun u k (hu : Keeps T s0 u) => clearFrame_keeps u n.tier k hu) h1
          unfold modUsed modChan setChan setObj
          exact keeps_chans _ (keeps_objs _ (keeps_grans _ (h2 _) (by simp [*])) (by simp [*])) (by simp [*])
    · cases he
theorem createObj_keeps {T : Touch} {s0 : State} (s : State) (c : ℕ) (n : NewObj) (hk : Keeps T s0 s) {p : ℕ × ℕ × State} (he : createObj s c n = .ok p) (ht : T.stackMap = true ∧ T.deeps = true ∧ T.dram = true ∧ T.poison = true ∧ T.husk = true ∧ T.huskBad = true ∧ T.objs = true ∧ T.grans = true ∧ T.used = true ∧ T.chans = true := by simp [*]) :
    Keeps T s0 p.2.2 := createObjBy_keeps _ s c n hk (fun t g p ht e => allocFrames_keeps t _ _ _ g ht e) he
theorem freeShare_keeps {T : Touch} {s0 : State} (g : ℕ) (s : State) (hk : Keeps T s0 s) (ht : T.shareGroups = true := by simp [*]) :
    Keeps T s0 (freeShare g s) := by
  unfold freeShare
  try dsimp only
  repeat' first | (with_reducible assumption) | (simp +contextual (maxDischargeDepth := 60) only [atUnit_keeps, keeps_freeCtr, Nat.le_refl, keeps_ite, outKeeps_ite, outKeeps_next, outKeeps_fault, keeps_foldl, keeps_foldl_fst, keeps_foldl_snd, keeps_foldl_snd2, hk, ht, and_self]; done) | split | (with_reducible refine keeps_shareGroups _ ?_ (by simp [ht])) | dsimp only
theorem releaseObj_keeps {T : Touch} {s0 : State} (s : State) (oi : ℕ) (hk : Keeps T s0 s) (ht : T.objs = true ∧ T.grans = true ∧ T.shareGroups = true ∧ T.used = true ∧ T.chans = true := by simp [*]) :
    Keeps T s0 (releaseObj s oi) := by
  have hc : ∀ (o : Obj) (t : Nat) (u : State), Keeps T s0 u → Keeps T s0 (if o.orphan then u else modUsed u o.owner t (· - 1)) :=
    fun o t u hu => keeps_ite (fun _ => hu) (fun _ => modUsed_keeps _ _ _ _ hu)
  unfold releaseObj
  refine keeps_ite (fun _ => freeShare_keeps _ _ (setObj_keeps _ _ _ (keeps_grans _ (keeps_foldl (fun u g hu => ?_) hk) (by simp [ht])))) (fun _ => setObj_keeps _ _ _ (keeps_grans _ (keeps_foldl (fun u g hu => ?_) hk) (by simp [ht]))) <;>
  exact keeps_ite (fun _ => hc _ _ _ (freeFrame_keeps _ _ _ (hc _ _ _ (freeFrame_keeps _ _ _ hu)))) (fun _ => hc _ _ _ (freeFrame_keeps _ _ _ hu))

end Sys2Proof.Machine
end

