-- ==== Sys2Proof/Laws/Keeps/Ecc.lean ====
section
/-! SUPPORT. What each operation of Machine/Ecc.lean keeps. -/

namespace Sys2Proof.Machine

open Sys2Proof

set_option Elab.async false
set_option linter.unusedTactic false
set_option linter.unreachableTactic false

theorem setCells_keeps {T : Touch} {s0 : State} (s : State) (cw : ℕ) (es : List (ℕ × ℕ)) (hk : Keeps T s0 s) (ht : T.stackMap = true ∧ T.deeps = true := by simp [*]) :
    Keeps T s0 (setCells s cw es) := by
  unfold setCells
  try dsimp only
  repeat' first | (with_reducible assumption) | (simp +contextual (maxDischargeDepth := 60) only [hk, modStack_keeps, modDeep_keeps, ht]; done) | split | dsimp only
theorem plantErrs_keeps {T : Touch} {s0 : State} (h : ℕ) (errs : List (ℕ × List (ℕ × ℕ))) (s : State) (hk : Keeps T s0 s) (ht : T.stackMap = true ∧ T.deeps = true := by simp [*]) :
    Keeps T s0 (plantErrs h errs s) := by
  unfold plantErrs
  try dsimp only
  repeat' first | (with_reducible assumption) | (simp +contextual (maxDischargeDepth := 60) only [atUnit_keeps, keeps_freeCtr, Nat.le_refl, keeps_ite, outKeeps_ite, outKeeps_next, outKeeps_fault, keeps_foldl, keeps_foldl_fst, keeps_foldl_snd, keeps_foldl_snd2, hk, setCells_keeps, ht, and_self]; done) | split | (with_reducible apply keeps_foldl) | (with_reducible apply keeps_foldl_fst) | (with_reducible apply keeps_foldl_snd) | (with_reducible apply keeps_foldl_snd2) | (intro _ _ _) | (intro _ _) | with_reducible apply setCells_keeps | with_reducible apply keeps_ite | with_reducible apply outKeeps_ite | with_reducible apply atUnit_keeps | dsimp only
theorem eccRead_keeps {T : Touch} {s0 : State} (h : ℕ) (k : ℕ) (s : State) (hk : Keeps T s0 s) (ht : T.regs = true ∧ T.stackMap = true ∧ T.deeps = true ∧ T.poison = true ∧ T.chans = true ∧ T.cxl = true ∧ T.boot = true ∧ T.rcv = true := by simp [*]) :
    Keeps T s0 (eccRead h k s) := by
  unfold eccRead
  try dsimp only
  repeat' first | (with_reducible assumption) | (simp +contextual (maxDischargeDepth := 60) only [hk, setCells_keeps, wr_keeps, modStack_keeps, cntInc_keeps, setEv_keeps, setPoison_keeps, logRec_keeps, ht, and_self]; done) | split | dsimp only
theorem eccScan_keeps {T : Touch} {s0 : State} (k : ℕ) (n : ℕ) (s : State) (hk : Keeps T s0 s) (ht : T.regs = true ∧ T.stackMap = true ∧ T.deeps = true ∧ T.poison = true ∧ T.chans = true ∧ T.cxl = true ∧ T.boot = true ∧ T.rcv = true := by simp [*]) :
    Keeps T s0 (eccScan k n s) := by
  unfold eccScan
  try dsimp only
  repeat' first | (with_reducible assumption) | (simp +contextual (maxDischargeDepth := 60) only [eccRead_keeps, ht, and_self]; done) | split | (with_reducible apply keeps_foldl) | (with_reducible apply keeps_foldl_fst) | (with_reducible apply keeps_foldl_snd) | (with_reducible apply keeps_foldl_snd2) | (intro _ _ _) | (intro _ _) | with_reducible apply eccRead_keeps | with_reducible apply keeps_ite | with_reducible apply outKeeps_ite | with_reducible apply atUnit_keeps | dsimp only
theorem writePieces_keeps {T : Touch} {s0 : State} (s : State) (ps : List Piece) (hk : Keeps T s0 s) (ht : T.regs = true ∧ T.stackMap = true ∧ T.deeps = true ∧ T.dram = true ∧ T.poison = true ∧ T.chans = true ∧ T.cxl = true ∧ T.boot = true ∧ T.rcv = true := by simp [*]) :
    Keeps T s0 (writePieces s ps).1 := by
  unfold writePieces
  refine keeps_foldl_fst (fun u p hu => ?_) (keeps_foldl (fun _ _ hu => eccScan_keeps _ _ _ hu) hk)
  have hc : ∀ (v : State) (w : Nat), Keeps T s0 v → Keeps T s0 (if (cellErrs v w).isEmpty then v else setCells v w []) :=
    fun v w hv => keeps_ite (fun _ => hv) (fun _ => setCells_keeps _ _ _ hv)
  dsimp only
  split
  · exact hu
  · refine keeps_dram _ ?_ (smWf_writeRun _ _) (by simp [*])
    refine hc _ _ ?_
    split
    · exact setPoison_keeps _ _ _ hu
    · exact hu
theorem readCells_keeps {T : Touch} {s0 : State} (k : ℕ) (n : ℕ) (s : State) (hk : Keeps T s0 s) (ht : T.regs = true ∧ T.stackMap = true ∧ T.deeps = true ∧ T.poison = true ∧ T.chans = true ∧ T.cxl = true ∧ T.boot = true ∧ T.rcv = true := by simp [*]) :
    Keeps T s0 (readCells k n s).1 := by
  unfold readCells
  simp +contextual (maxDischargeDepth := 60) only [hk, eccScan_keeps, ht, and_self]

end Sys2Proof.Machine
end

