-- ==== Sys2Proof/Laws/Keeps/Husk.lean ====
section
/-! SUPPORT. What each operation of Machine/Husk.lean keeps. -/

namespace Sys2Proof.Machine

open Sys2Proof

set_option Elab.async false
set_option linter.unusedTactic false
set_option linter.unreachableTactic false

theorem huskFail_keeps {T : Touch} {s0 : State} (edge : ℕ) (cause : ℕ) (tag : ℕ) (ch : Option ℕ) (s : State) (hk : Keeps T s0 s) (ht : T.regs = true ∧ T.chans = true ∧ T.cxl = true := by simp [*]) :
    Keeps T s0 (huskFail edge cause tag ch s) := by
  unfold huskFail
  simp +contextual (maxDischargeDepth := 60) only [hk, wr_keeps, cntInc_keeps, setEv_keeps, ht, and_self]
theorem huskLog_keeps {T : Touch} {s0 : State} (edge : ℕ) (cause : ℕ) (tag : ℕ) (ch : Option ℕ) (recovered : Bool) (s : State) (hk : Keeps T s0 s) (ht : T.regs = true ∧ T.chans = true ∧ T.cxl = true ∧ T.boot = true ∧ T.rcv = true := by simp [*]) :
    Keeps T s0 (huskLog edge cause tag ch recovered s) := by
  unfold huskLog
  try dsimp only
  repeat' first | (with_reducible assumption) | (simp +contextual (maxDischargeDepth := 60) only [hk, wr_keeps, cntInc_keeps, logRec_keeps, ht, and_self]; done) | split | dsimp only
theorem edgeCompress_keeps {T : Touch} {s0 : State} (edge : ℕ) (data : List Byte) (tag : ℕ) (s : State) (hk : Keeps T s0 s) (ht : T.regs = true ∧ T.chans = true ∧ T.cxl = true := by simp [*]) :
    Keeps T s0 (edgeCompress edge data tag s).1 := by
  unfold edgeCompress
  try dsimp only
  repeat' first | (with_reducible assumption) | (simp +contextual (maxDischargeDepth := 60) only [hk, cntAdd_keeps, cntInc_keeps, ht, and_self]; done) | split | dsimp only
theorem unitRead_keeps {T : Touch} {s0 : State} (key : Option (List Byte)) (unit : ℕ) (k : ℕ) (n : ℕ) (s : State) (hk : Keeps T s0 s) (ht : T.regs = true ∧ T.stackMap = true ∧ T.deeps = true ∧ T.poison = true ∧ T.chans = true ∧ T.cxl = true ∧ T.boot = true ∧ T.rcv = true := by simp [*]) :
    Keeps T s0 (unitRead key unit k n s).1 := by
  unfold unitRead
  try dsimp only
  repeat' first | (with_reducible assumption) | (simp +contextual (maxDischargeDepth := 60) only [hk, readCells_keeps, ht, and_self]; done) | split | dsimp only
theorem unitWrite_keeps {T : Touch} {s0 : State} (key : Option (List Byte)) (unit : ℕ → ℕ) (ps : List Piece) (s : State) (hk : Keeps T s0 s) (ht : T.regs = true ∧ T.stackMap = true ∧ T.deeps = true ∧ T.dram = true ∧ T.poison = true ∧ T.chans = true ∧ T.cxl = true ∧ T.boot = true ∧ T.rcv = true := by simp [*]) :
    Keeps T s0 (unitWrite key unit ps s).1 := by
  unfold unitWrite
  try dsimp only
  repeat' first | (with_reducible assumption) | (simp +contextual (maxDischargeDepth := 60) only [hk, writePieces_keeps, eccScan_keeps, ht, and_self]; done) | split | (with_reducible apply keeps_foldl) | (with_reducible apply keeps_foldl_fst) | (with_reducible apply keeps_foldl_snd) | (with_reducible apply keeps_foldl_snd2) | (intro _ _ _) | (intro _ _) | with_reducible apply writePieces_keeps | with_reducible apply eccScan_keeps | with_reducible apply keeps_ite | with_reducible apply outKeeps_ite | with_reducible apply atUnit_keeps | dsimp only
theorem setSlot_keeps {T : Touch} {s0 : State} (s : State) (h : ℕ) (l : ℕ) (b : Bool) (hk : Keeps T s0 s) (ht : T.husk = true ∧ T.huskBad = true := by simp [*]) :
    Keeps T s0 (setSlot s h l b) := keeps_husk_huskBad _ _ hk (smWf_set _ _) (smWf_erase _) ht
theorem mapParity_keeps {T : Touch} {s0 : State} (h : ℕ) (l : ℕ) (s : State) (hk : Keeps T s0 s) (ht : T.huskBad = true := by simp [*]) :
    Keeps T s0 (mapParity h l s) := keeps_foldl (fun _ _ hu => keeps_huskBad _ hu (smWf_set _ _) (by simp [*])) hk
theorem slotRead_keeps {T : Touch} {s0 : State} (key : Option (List Byte)) (h : ℕ) (l : ℕ) (tag : ℕ) (ch : Option ℕ) (s : State) (hk : Keeps T s0 s) (ht : T.regs = true ∧ T.stackMap = true ∧ T.deeps = true ∧ T.poison = true ∧ T.chans = true ∧ T.cxl = true ∧ T.boot = true ∧ T.rcv = true := by simp [*]) :
    Keeps T s0 (slotRead key h l tag ch s).1 := by
  unfold slotRead
  try dsimp only
  repeat' first | (with_reducible assumption) | (simp +contextual (maxDischargeDepth := 60) only [hk, huskFail_keeps, unitRead_keeps, cntAdd_keeps, ht, and_self]; done) | split | dsimp only
theorem slotWrite_keeps {T : Touch} {s0 : State} (key : Option (List Byte)) (h : ℕ) (l : ℕ) (tag : ℕ) (data : List Byte) (s : State) (hk : Keeps T s0 s) (ht : T.regs = true ∧ T.stackMap = true ∧ T.deeps = true ∧ T.dram = true ∧ T.poison = true ∧ T.husk = true ∧ T.huskBad = true ∧ T.chans = true ∧ T.cxl = true ∧ T.boot = true ∧ T.rcv = true := by simp [*]) :
    Keeps T s0 (slotWrite key h l tag data s) := by
  unfold slotWrite
  simp +contextual (maxDischargeDepth := 60) only [hk, edgeCompress_keeps, unitWrite_keeps, setSlot_keeps, ht, and_self]
theorem xlatTouch_keeps {T : Touch} {s0 : State} (req : ℕ) (idx : ℕ) (s : State) (hk : Keeps T s0 s) (ht : T.regs = true ∧ T.xlat = true ∧ T.chans = true ∧ T.cxl = true := by simp [*]) :
    Keeps T s0 (xlatTouch req idx s) := by
  unfold xlatTouch
  try dsimp only
  repeat' first | (with_reducible assumption) | (simp +contextual (maxDischargeDepth := 60) only [hk, cntInc_keeps, ht, and_self]; done) | split | (with_reducible refine keeps_xlat _ ?_ (by simp [ht])) | dsimp only
theorem runRead_keeps {T : Touch} {s0 : State} (a : Agent) (o : Obj) (off : ℕ) (tier : ℕ) (f : ℕ) (b : ℕ) (n : ℕ) (s : State) (hk : Keeps T s0 s) (ht : T.regs = true ∧ T.stackMap = true ∧ T.deeps = true ∧ T.poison = true ∧ T.chans = true ∧ T.cxl = true ∧ T.boot = true ∧ T.rcv = true := by simp [*]) :
    Keeps T s0 (runRead a o off tier f b n s).1 := by
  unfold runRead
  try dsimp only
  repeat' first | (with_reducible assumption) | (simp +contextual (maxDischargeDepth := 60) only [hk, slotRead_keeps, unitRead_keeps, ht, and_self]; done) | split | dsimp only
theorem huskRecord_keeps {T : Touch} {s0 : State} (a : Agent) (o : Obj) (off : ℕ) (tier : ℕ) (f : ℕ) (cause : RdCause) (recovered : Bool) (s : State) (hk : Keeps T s0 s) (ht : T.regs = true ∧ T.chans = true ∧ T.cxl = true ∧ T.boot = true ∧ T.rcv = true := by simp [*]) :
    Keeps T s0 (huskRecord a o off tier f cause recovered s) := by
  unfold huskRecord
  try dsimp only
  repeat' first | (with_reducible assumption) | (simp +contextual (maxDischargeDepth := 60) only [hk, huskLog_keeps, ht, and_self]; done) | split | dsimp only
theorem blkRead_keeps {T : Touch} {s0 : State} (a : Agent) (o : Obj) (off : ℕ) (n : ℕ) (s : State) (hk : Keeps T s0 s) (ht : T.regs = true ∧ T.stackMap = true ∧ T.deeps = true ∧ T.poison = true ∧ T.chans = true ∧ T.cxl = true ∧ T.boot = true ∧ T.rcv = true := by simp [*]) :
    Keeps T s0 (blkRead a o off n s).1 := by
  unfold blkRead
  try dsimp only
  repeat' first | (with_reducible assumption) | (simp +contextual (maxDischargeDepth := 60) only [hk, runRead_keeps, huskRecord_keeps, ht, and_self]; done) | split | dsimp only
theorem objRead_keeps {T : Touch} {s0 : State} (a : Agent) (oi : ℕ) (off : ℕ) (n : ℕ) (s : State) (hk : Keeps T s0 s) (ht : T.regs = true ∧ T.stackMap = true ∧ T.deeps = true ∧ T.poison = true ∧ T.xlat = true ∧ T.chans = true ∧ T.cxl = true ∧ T.boot = true ∧ T.rcv = true := by simp [*]) :
    Keeps T s0 (objRead a oi off n s).1 := by
  unfold objRead
  try dsimp only
  repeat' first | (with_reducible assumption) | (simp +contextual (maxDischargeDepth := 60) only [blkRead_keeps, xlatTouch_keeps, ht, and_self]; done) | split | (with_reducible apply keeps_foldl) | (with_reducible apply keeps_foldl_fst) | (with_reducible apply keeps_foldl_snd) | (with_reducible apply keeps_foldl_snd2) | (intro _ _ _) | (intro _ _) | with_reducible apply blkRead_keeps | with_reducible apply xlatTouch_keeps | with_reducible apply keeps_ite | with_reducible apply outKeeps_ite | with_reducible apply atUnit_keeps | dsimp only
theorem notify_keeps {T : Touch} {s0 : State} (h : ℕ) (o : Obj) (off : ℕ) (n : ℕ) (s : State) (hk : Keeps T s0 s) (ht : T.notices = true := by simp [*]) :
    Keeps T s0 (notify h o off n s) := keeps_notices _ hk ht
theorem noticeAll_keeps {T : Touch} {s0 : State} (o : Obj) (off : ℕ) (n : ℕ) (s : State) (hk : Keeps T s0 s) (ht : T.notices = true := by simp [*]) :
    Keeps T s0 (noticeAll o off n s) := keeps_notices _ hk ht
theorem patchTiles_keeps {T : Touch} {s0 : State} (h : ℕ) (o : Obj) (off : ℕ) (bs : List Byte) (s : State) (hk : Keeps T s0 s) (ht : T.tillers = true := by simp [*]) :
    Keeps T s0 (patchTiles h o off bs s) := keeps_tillers _ hk ht
theorem runWrite_keeps {T : Touch} {s0 : State} (a : Agent) (o : Obj) (off : ℕ) (tier : ℕ) (f : ℕ) (b : ℕ) (bs : List Byte) (s : State) (hk : Keeps T s0 s) (ht : T.regs = true ∧ T.stackMap = true ∧ T.deeps = true ∧ T.dram = true ∧ T.poison = true ∧ T.husk = true ∧ T.huskBad = true ∧ T.chans = true ∧ T.cxl = true ∧ T.boot = true ∧ T.rcv = true ∧ T.notices = true := by simp [*]) :
    Keeps T s0 (runWrite a o off tier f b bs s).1 := by
  unfold runWrite
  try dsimp only
  repeat' first | (with_reducible assumption) | (simp +contextual (maxDischargeDepth := 60) only [hk, notify_keeps, slotWrite_keeps, slotRead_keeps, cntInc_keeps, huskRecord_keeps, unitWrite_keeps, ht, and_self]; done) | split | dsimp only
theorem objWrite_keeps {T : Touch} {s0 : State} (a : Agent) (oi : ℕ) (off : ℕ) (bs : List Byte) (s : State) (hk : Keeps T s0 s) (ht : T.regs = true ∧ T.tillers = true ∧ T.stackMap = true ∧ T.deeps = true ∧ T.dram = true ∧ T.poison = true ∧ T.husk = true ∧ T.huskBad = true ∧ T.objs = true ∧ T.grans = true ∧ T.xlat = true ∧ T.chans = true ∧ T.cxl = true ∧ T.boot = true ∧ T.rcv = true ∧ T.notices = true := by simp [*]) :
    Keeps T s0 (objWrite a oi off bs s).1 := by
  unfold objWrite
  try dsimp only
  repeat' first | (with_reducible assumption) | (simp +contextual (maxDischargeDepth := 60) only [ht, and_self]; done) | split | (with_reducible apply keeps_foldl) | (with_reducible apply keeps_foldl_fst) | (with_reducible apply keeps_foldl_snd) | (with_reducible apply keeps_foldl_snd2) | (intro _ _ _) | (intro _ _) | with_reducible apply markDirty_keeps | with_reducible apply xlatTouch_keeps | with_reducible apply runWrite_keeps | with_reducible apply patchTiles_keeps | with_reducible apply keeps_ite | with_reducible apply outKeeps_ite | with_reducible apply atUnit_keeps | dsimp only
theorem objStore_keeps {T : Touch} {s0 : State} (a : Agent) (oi : ℕ) (off : ℕ) (bs : List Byte) (s : State) (hk : Keeps T s0 s) (ht : T.regs = true ∧ T.tillers = true ∧ T.stackMap = true ∧ T.deeps = true ∧ T.dram = true ∧ T.poison = true ∧ T.husk = true ∧ T.huskBad = true ∧ T.objs = true ∧ T.grans = true ∧ T.xlat = true ∧ T.chans = true ∧ T.cxl = true ∧ T.boot = true ∧ T.rcv = true ∧ T.notices = true := by simp [*]) :
    Keeps T s0 (objStore a oi off bs s) := by
  unfold objStore
  simp +contextual (maxDischargeDepth := 60) only [hk, objWrite_keeps, ht, and_self]

end Sys2Proof.Machine
end

