-- ==== Sys2Proof/Laws/Keeps/Items.lean ====
section
/-! SUPPORT. What each operation of Machine/Items.lean keeps. -/

namespace Sys2Proof.Machine

open Sys2Proof

set_option Elab.async false
set_option linter.unusedTactic false
set_option linter.unreachableTactic false

theorem queueItem_keeps {T : Touch} {s0 : State} (st : ℕ) (i : UpdItem) (s : State) (hk : Keeps T s0 s) (ht : T.stackMap = true := by simp [*]) :
    Keeps T s0 (queueItem st i s) := by
  unfold queueItem
  simp +contextual (maxDischargeDepth := 60) only [hk, modStack_keeps, ht]

end Sys2Proof.Machine
end

