-- ==== Sys2Proof/Laws/Keeps/Engine.lean ====
section
/-! SUPPORT. What each operation of Machine/Engine.lean keeps. -/

namespace Sys2Proof.Machine

open Sys2Proof

set_option Elab.async false
set_option linter.unusedTactic false
set_option linter.unreachableTactic false

theorem modReq_keeps {T : Touch} {s0 : State} (t : ℕ) (rid : ℕ) (f : MemReq → MemReq) (s : State) (hk : Keeps T s0 s) (ht : T.tillers = true := by simp [*]) :
    Keeps T s0 (modReq t rid f s) := by
  unfold modReq
  simp +contextual (maxDischargeDepth := 60) only [hk, modTiller_keeps, ht]
theorem poolAdd_keeps {T : Touch} {s0 : State} (h : ℕ) (t : ℕ) (rid : ℕ) (s : State) (hk : Keeps T s0 s) (ht : T.stackMap = true ∧ T.deeps = true := by simp [*]) :
    Keeps T s0 (poolAdd h t rid s) := by
  unfold poolAdd
  try dsimp only
  repeat' first | (with_reducible assumption) | (simp +contextual (maxDischargeDepth := 60) only [hk, modStack_keeps, modDeep_keeps, ht]; done) | split | dsimp only
theorem poolDrop_keeps {T : Touch} {s0 : State} (h : ℕ) (t : ℕ) (rid : ℕ) (s : State) (hk : Keeps T s0 s) (ht : T.stackMap = true ∧ T.deeps = true := by simp [*]) :
    Keeps T s0 (poolDrop h t rid s) := by
  unfold poolDrop
  try dsimp only
  repeat' first | (with_reducible assumption) | (simp +contextual (maxDischargeDepth := 60) only [hk, modStack_keeps, modDeep_keeps, ht]; done) | split | dsimp only
theorem modEngine_keeps {T : Touch} {s0 : State} (h : ℕ) (f : List EngEntry → List EngEntry) (s : State) (hk : Keeps T s0 s) (ht : T.stackMap = true ∧ T.deeps = true := by simp [*]) :
    Keeps T s0 (modEngine h f s) := by
  unfold modEngine
  try dsimp only
  repeat' first | (with_reducible assumption) | (simp +contextual (maxDischargeDepth := 60) only [hk, modStack_keeps, modDeep_keeps, ht]; done) | split | dsimp only
theorem endSilence_keeps {T : Touch} {s0 : State} (h : ℕ) (banks : List ℕ) (s : State) (hk : Keeps T s0 s) (ht : T.stackMap = true ∧ T.deeps = true := by simp [*]) :
    Keeps T s0 (endSilence h banks s) := by
  unfold endSilence
  try dsimp only
  repeat' first | (with_reducible assumption) | (simp +contextual (maxDischargeDepth := 60) only [hk, modStack_keeps, modDeep_keeps, ht]; done) | split | dsimp only
theorem engineAdmit_keeps {T : Touch} {s0 : State} (s : State) (p : ℕ × EngEntry) (hk : Keeps T s0 s) (ht : T.stackMap = true ∧ T.deeps = true := by simp [*]) :
    Keeps T s0 (engineAdmit s p) := by
  unfold engineAdmit
  try dsimp only
  repeat' first | (with_reducible assumption) | (simp +contextual (maxDischargeDepth := 60) only [hk, modEngine_keeps, ht, and_self]; done) | split | dsimp only
theorem engineLeave_keeps {T : Touch} {s0 : State} (s : State) (p : ℕ × EngEntry) (hk : Keeps T s0 s) (ht : T.stackMap = true ∧ T.deeps = true := by simp [*]) :
    Keeps T s0 (engineLeave s p) := by
  unfold engineLeave
  try dsimp only
  repeat' first | (with_reducible assumption) | (simp +contextual (maxDischargeDepth := 60) only [hk, endSilence_keeps, modEngine_keeps, ht, and_self]; done) | split | dsimp only
theorem noteMiss_keeps {T : Touch} {s0 : State} (req : ℕ) (h : ℕ) (s : State) (hk : Keeps T s0 s) (ht : T.stackMap = true := by simp [*]) :
    Keeps T s0 (noteMiss req h s) := by
  unfold noteMiss
  simp +contextual (maxDischargeDepth := 60) only [hk, modStack_keeps, ht]
theorem noteHeld_keeps {T : Touch} {s0 : State} (who : ℕ) (s : State) (x : Access) (hk : Keeps T s0 s) (ht : T.regs = true ∧ T.heldBy = true ∧ T.chans = true ∧ T.cxl = true := by simp [*]) :
    Keeps T s0 (noteHeld who s x) := by
  unfold noteHeld
  try dsimp only
  repeat' first | (with_reducible assumption) | (simp +contextual (maxDischargeDepth := 60) only [ht, and_self]; done) | split | (with_reducible apply keeps_foldl) | (with_reducible apply keeps_foldl_fst) | (with_reducible apply keeps_foldl_snd) | (with_reducible apply keeps_foldl_snd2) | (intro _ _ _) | (intro _ _) | with_reducible apply cntInc_keeps | with_reducible apply keeps_ite | with_reducible apply outKeeps_ite | with_reducible apply atUnit_keeps | (with_reducible refine keeps_heldBy _ ?_ (by simp [ht])) | dsimp only
theorem gatedAt_elim {T : Touch} {s0 : State} {α : Type} {P : α → Prop} (wait : State → α) (es : List (Nat × EngEntry))
    (k : List Nat → State → α) (s : State) (hk : Keeps T s0 s) (hw : ∀ u, Keeps T s0 u → P (wait u))
    (hkk : ∀ d u, Keeps T s0 u → P (k d u)) (ht : T.stackMap = true ∧ T.deeps = true := by simp [*]) : P (gatedAt wait es k s) := by
  unfold gatedAt
  split
  · exact hw _ (keeps_foldl (fun _ _ hu => engineAdmit_keeps _ _ hu) hk)
  · exact hkk _ _ (keeps_foldl (fun _ _ hu => engineLeave_keeps _ _ hu) hk)
theorem gatedAt_keeps {T : Touch} {s0 : State} (wait : State → State) (es : List (Nat × EngEntry)) (k : List Nat → State → State)
    (s : State) (hk : Keeps T s0 s) (hw : ∀ u, Keeps T s0 u → Keeps T s0 (wait u))
    (hkk : ∀ d u, Keeps T s0 u → Keeps T s0 (k d u)) (ht : T.stackMap = true ∧ T.deeps = true := by simp [*]) :
    Keeps T s0 (gatedAt wait es k s) := gatedAt_elim (P := Keeps T s0) wait es k s hk hw hkk
theorem gatedBy_elim {T : Touch} {s0 : State} {α : Type} {P : α → Prop} (wait : State → α) (who : Nat) (ch : Option Nat) (req : Nat)
    (l : List Access) (k : List Nat → State → α) (s : State) (hk : Keeps T s0 s) (hw : ∀ u, Keeps T s0 u → P (wait u))
    (hkk : ∀ d u, Keeps T s0 u → P (k d u)) (ht : T.regs = true ∧ T.stackMap = true ∧ T.deeps = true ∧ T.heldBy = true ∧ T.chans = true ∧ T.cxl = true := by simp [*]) :
    P (gatedBy wait who ch req l k s) := by
  unfold gatedBy
  dsimp only
  split
  · exact hw _ (noteMiss_keeps _ _ _ hk)
  · split
    · exact hw _ (keeps_foldl (fun _ _ hu => noteHeld_keeps _ _ _ hu) hk)
    · exact gatedAt_elim _ _ _ _ (keeps_ite (fun _ => hk) (fun _ => keeps_heldBy _ hk (by simp [*]))) hw hkk
theorem gatedBy_keeps {T : Touch} {s0 : State} (wait : State → State) (who : Nat) (ch : Option Nat) (req : Nat) (l : List Access)
    (k : List Nat → State → State) (s : State) (hk : Keeps T s0 s) (hw : ∀ u, Keeps T s0 u → Keeps T s0 (wait u))
    (hkk : ∀ d u, Keeps T s0 u → Keeps T s0 (k d u))
    (ht : T.regs = true ∧ T.stackMap = true ∧ T.deeps = true ∧ T.heldBy = true ∧ T.chans = true ∧ T.cxl = true := by simp [*]) :
    Keeps T s0 (gatedBy wait who ch req l k s) := gatedBy_elim (P := Keeps T s0) wait who ch req l k s hk hw hkk
theorem gatedBy_outKeeps {T : Touch} {s0 : State} (wait : State → Host.Outcome State Fault Refusal) (who : Nat) (ch : Option Nat)
    (req : Nat) (l : List Access) (k : List Nat → State → Host.Outcome State Fault Refusal) (s : State) (hk : Keeps T s0 s)
    (hw : ∀ u, Keeps T s0 u → OutKeeps T s0 (wait u)) (hkk : ∀ d u, Keeps T s0 u → OutKeeps T s0 (k d u))
    (ht : T.regs = true ∧ T.stackMap = true ∧ T.deeps = true ∧ T.heldBy = true ∧ T.chans = true ∧ T.cxl = true := by simp [*]) :
    OutKeeps T s0 (gatedBy wait who ch req l k s) := gatedBy_elim (P := OutKeeps T s0) wait who ch req l k s hk hw hkk
theorem gated_keeps {T : Touch} {s0 : State} (who : ℕ) (ch : Option ℕ) (req : ℕ) (l : List Access) (k : List ℕ → State → State) (s : State) (hk : Keeps T s0 s) (hkk : ∀ x0 x1, Keeps T s0 x1 → Keeps T s0 (k x0 x1)) (ht : T.regs = true ∧ T.stackMap = true ∧ T.deeps = true ∧ T.heldBy = true ∧ T.chans = true ∧ T.cxl = true := by simp [*]) :
    Keeps T s0 (gated who ch req l k s) := gatedBy_keeps id who ch req l k s hk (fun _ hu => hu) hkk

end Sys2Proof.Machine
end

