-- ==== Sys2Proof/Laws/Keeps/Migrate.lean ====
section
/-! SUPPORT. What each operation of Machine/Migrate.lean keeps. -/

namespace Sys2Proof.Machine

open Sys2Proof

set_option Elab.async false
set_option linter.unusedTactic false
set_option linter.unreachableTactic false

theorem modMig_keeps {T : Touch} {s0 : State} (s : State) (ch : ℕ) (pos : ℕ) (f : MigCmd → MigCmd) (hk : Keeps T s0 s) (ht : T.migs = true := by simp [*]) :
    Keeps T s0 (modMig s ch pos f) := keeps_migs _ hk ht
theorem removeMig_keeps {T : Touch} {s0 : State} (m : MigCmd) (s : State) (hk : Keeps T s0 s) (ht : T.objs = true ∧ T.migs = true ∧ T.heldBy = true := by simp [*]) :
    Keeps T s0 (removeMig m s) := by
  unfold removeMig
  try dsimp only
  repeat' first | (with_reducible assumption) | (simp +contextual (maxDischargeDepth := 60) only [ht]; done) | split | (with_reducible apply keeps_foldl) | (with_reducible apply keeps_foldl_fst) | (with_reducible apply keeps_foldl_snd) | (with_reducible apply keeps_foldl_snd2) | (intro _ _ _) | (intro _ _) | with_reducible apply modObj_keeps | with_reducible apply keeps_ite | with_reducible apply outKeeps_ite | with_reducible apply atUnit_keeps | (with_reducible refine keeps_migs_heldBy _ _ ?_ (by simp [ht])) | dsimp only
theorem giveBack_keeps {T : Touch} {s0 : State} (m : MigCmd) (tier : ℕ) (f : ℕ) (s : State) (hk : Keeps T s0 s) (ht : T.used = true ∧ T.chans = true := by simp [*]) :
    Keeps T s0 (giveBack m tier f s) := by
  unfold giveBack
  simp +contextual (maxDischargeDepth := 60) only [hk, modUsed_keeps, freeFrame_keeps, ht]
theorem freeTodo_keeps {T : Touch} {s0 : State} (m : MigCmd) (s : State) (hk : Keeps T s0 s) (ht : T.used = true ∧ T.chans = true := by simp [*]) :
    Keeps T s0 (freeTodo m s) := by
  unfold freeTodo
  try dsimp only
  repeat' first | (with_reducible assumption) | (simp +contextual (maxDischargeDepth := 60) only [giveBack_keeps, ht, and_self]; done) | split | (with_reducible apply keeps_foldl) | (with_reducible apply keeps_foldl_fst) | (with_reducible apply keeps_foldl_snd) | (with_reducible apply keeps_foldl_snd2) | (intro _ _ _) | (intro _ _) | with_reducible apply giveBack_keeps | with_reducible apply keeps_ite | with_reducible apply outKeeps_ite | with_reducible apply atUnit_keeps | dsimp only
theorem settleEntry_keeps {T : Touch} {s0 : State} (m : MigCmd) (s : State) (hk : Keeps T s0 s) (ht : T.objs = true := by simp [*]) :
    Keeps T s0 (settleEntry m s) := by
  unfold settleEntry
  simp +contextual (maxDischargeDepth := 60) only [hk, setObj_keeps, ht, and_self]
theorem migEnd_keeps {T : Touch} {s0 : State} (m : MigCmd) (s : State) (hk : Keeps T s0 s) (ht : T.regs = true ∧ T.objs = true ∧ T.migs = true ∧ T.heldBy = true ∧ T.chans = true ∧ T.cxl = true := by simp [*]) :
    Keeps T s0 (migEnd m s) := finishRing_keeps _ _ _ _ _ (removeMig_keeps _ _ (settleEntry_keeps _ _ hk))
theorem startMove_keeps {T : Touch} {s0 : State} (m : MigCmd) (g : ℕ) (tgt : ℕ) (aborts : ℕ) (s : State) (hk : Keeps T s0 s) (ht : T.grans = true ∧ T.migs = true := by simp [*]) :
    Keeps T s0 (startMove m g tgt aborts s) := by
  unfold startMove
  simp +contextual (maxDischargeDepth := 60) only [hk, setGran_keeps, modMig_keeps, ht]
theorem migStart_keeps {T : Touch} {s0 : State} (m : MigCmd) (s : State) (hk : Keeps T s0 s) (ht : T.regs = true ∧ T.objs = true ∧ T.used = true ∧ T.migs = true ∧ T.heldBy = true ∧ T.chans = true ∧ T.cxl = true := by simp [*]) :
    Keeps T s0 (migStart m s) := by
  unfold migStart
  dsimp only
  have hf : ∀ st, Keeps T s0 (finishRing m.ch m.pos st [] (removeMig m s)) := fun st => finishRing_keeps _ _ _ _ _ (removeMig_keeps _ _ hk)
  refine keeps_ite (fun _ => hf _) (fun _ => keeps_ite (fun _ => hf _) (fun _ => ?_))
  split
  · exact hf _
  · rename_i ha
    exact modMig_keeps _ _ _ _ (modObj_keeps _ _ _ (modUsed_keeps _ _ _ _ (allocFrames_keeps _ _ _ _ _ hk ha)))
theorem migPump_keeps {T : Touch} {s0 : State} (fuel : Nat) (s : State) (hk : Keeps T s0 s) (ht : T.regs = true ∧ T.objs = true ∧ T.grans = true ∧ T.used = true ∧ T.migs = true ∧ T.heldBy = true ∧ T.chans = true ∧ T.cxl = true := by simp [*]) :
    Keeps T s0 (migPump fuel s) := by
  induction fuel generalizing s with
  | zero => exact hk
  | succ fuel ih =>
    unfold migPump
    split
    · exact ih _ (migStart_keeps _ _ hk)
    · split
      · exact ih _ (migEnd_keeps _ _ hk)
      · split
        · exact hk
        · split
          · exact hk
          · exact ih _ (startMove_keeps _ _ _ _ _ hk)
theorem modMove_keeps {T : Touch} {s0 : State} (s : State) (oi : ℕ) (g : ℕ) (f : Move → Move) (hk : Keeps T s0 s) (ht : T.migs = true := by simp [*]) :
    Keeps T s0 (modMove s oi g f) := keeps_migs _ hk ht
theorem releaseHeld_keeps {T : Touch} {s0 : State} (obj : ℕ) (s : State) (hk : Keeps T s0 s) (ht : T.regs = true ∧ T.tillers = true ∧ T.stackMap = true ∧ T.deeps = true ∧ T.dram = true ∧ T.poison = true ∧ T.husk = true ∧ T.huskBad = true ∧ T.objs = true ∧ T.grans = true ∧ T.xlat = true ∧ T.chans = true ∧ T.cxl = true ∧ T.boot = true ∧ T.rcv = true ∧ T.notices = true := by simp [*]) :
    Keeps T s0 (releaseHeld obj s) := by
  unfold releaseHeld
  try dsimp only
  repeat' first | (with_reducible assumption) | (simp +contextual (maxDischargeDepth := 60) only [hk, modCxl_keeps, objStore_keeps, ht, and_self]; done) | split | (with_reducible apply keeps_foldl) | (with_reducible apply keeps_foldl_fst) | (with_reducible apply keeps_foldl_snd) | (with_reducible apply keeps_foldl_snd2) | (intro _ _ _) | (intro _ _) | with_reducible apply modCxl_keeps | with_reducible apply objStore_keeps | with_reducible apply keeps_ite | with_reducible apply outKeeps_ite | with_reducible apply atUnit_keeps | dsimp only
theorem undoMove_keeps {T : Touch} {s0 : State} (m : MigCmd) (v : Move) (s : State) (hk : Keeps T s0 s) (ht : T.regs = true ∧ T.tillers = true ∧ T.stackMap = true ∧ T.deeps = true ∧ T.dram = true ∧ T.poison = true ∧ T.husk = true ∧ T.huskBad = true ∧ T.objs = true ∧ T.grans = true ∧ T.used = true ∧ T.xlat = true ∧ T.chans = true ∧ T.cxl = true ∧ T.boot = true ∧ T.rcv = true ∧ T.notices = true := by simp [*]) :
    Keeps T s0 (undoMove m v s) := by
  unfold undoMove
  try dsimp only
  repeat' first | (with_reducible assumption) | (simp +contextual (maxDischargeDepth := 60) only [hk, setGran_keeps, giveBack_keeps, releaseHeld_keeps, cntInc_keeps, setEv_keeps, logRec_keeps, ht, and_self]; done) | split | dsimp only
theorem leaveGranule_keeps {T : Touch} {s0 : State} (m : MigCmd) (g : ℕ) (s : State) (hk : Keeps T s0 s) (ht : T.migs = true := by simp [*]) :
    Keeps T s0 (leaveGranule m g s) := by
  unfold leaveGranule
  simp +contextual (maxDischargeDepth := 60) only [hk, modMig_keeps, ht]
theorem abandonMove_keeps {T : Touch} {s0 : State} (m : MigCmd) (v : Move) (s : State) (hk : Keeps T s0 s) (ht : T.regs = true ∧ T.tillers = true ∧ T.stackMap = true ∧ T.deeps = true ∧ T.dram = true ∧ T.poison = true ∧ T.husk = true ∧ T.huskBad = true ∧ T.objs = true ∧ T.grans = true ∧ T.used = true ∧ T.migs = true ∧ T.heldBy = true ∧ T.xlat = true ∧ T.chans = true ∧ T.cxl = true ∧ T.boot = true ∧ T.rcv = true ∧ T.notices = true := by simp [*]) :
    Keeps T s0 (abandonMove m v s) := by
  unfold abandonMove
  try dsimp only
  repeat' first | (with_reducible assumption) | (simp +contextual (maxDischargeDepth := 60) only [hk, undoMove_keeps, migPump_keeps, leaveGranule_keeps, modMove_keeps, ht, and_self]; done) | split | dsimp only
theorem freeSource_keeps {T : Touch} {s0 : State} (m : MigCmd) (v : Move) (s : State) (hk : Keeps T s0 s) (ht : T.grans = true ∧ T.used = true ∧ T.chans = true := by simp [*]) :
    Keeps T s0 (freeSource m v s) := by
  unfold freeSource
  try dsimp only
  repeat' first | (with_reducible assumption) | (simp +contextual (maxDischargeDepth := 60) only [hk, giveBack_keeps, setGran_keeps, ht, and_self]; done) | split | dsimp only
theorem dropMig_keeps {T : Touch} {s0 : State} (m : MigCmd) (s : State) (hk : Keeps T s0 s) (ht : T.objs = true ∧ T.grans = true ∧ T.used = true ∧ T.migs = true ∧ T.heldBy = true ∧ T.chans = true := by simp [*]) :
    Keeps T s0 (dropMig m s) := by
  have hg : ∀ (c : Prop) [Decidable c] (t f : Nat) (u : State), Keeps T s0 u → Keeps T s0 (if c then giveBack m t f u else u) :=
    fun c _ t f u hu => keeps_ite (fun _ => giveBack_keeps _ _ _ _ hu) (fun _ => hu)
  unfold dropMig
  exact removeMig_keeps _ _ (keeps_foldl (fun u v hu => keeps_ite (fun _ => freeSource_keeps _ _ _ hu) (fun _ => setGran_keeps _ _ _ _ (hg _ _ _ _ hu))) (freeTodo_keeps _ _ hk))
theorem abortMig_keeps {T : Touch} {s0 : State} (hs : List ℕ) (m : MigCmd) (s : State) (hk : Keeps T s0 s) (ht : T.regs = true ∧ T.tillers = true ∧ T.stackMap = true ∧ T.deeps = true ∧ T.dram = true ∧ T.poison = true ∧ T.husk = true ∧ T.huskBad = true ∧ T.objs = true ∧ T.grans = true ∧ T.used = true ∧ T.migs = true ∧ T.xlat = true ∧ T.chans = true ∧ T.cxl = true ∧ T.boot = true ∧ T.rcv = true ∧ T.notices = true := by simp [*]) :
    Keeps T s0 (abortMig hs m s) := by
  unfold abortMig
  try dsimp only
  repeat' first | (with_reducible assumption) | (simp +contextual (maxDischargeDepth := 60) only [hk, freeTodo_keeps, modMig_keeps, ht, and_self]; done) | split | (with_reducible apply keeps_foldl) | (with_reducible apply keeps_foldl_fst) | (with_reducible apply keeps_foldl_snd) | (with_reducible apply keeps_foldl_snd2) | (intro _ _ _) | (intro _ _) | with_reducible apply freeTodo_keeps | with_reducible apply modMig_keeps | with_reducible apply leaveGranule_keeps | with_reducible apply undoMove_keeps | with_reducible apply keeps_ite | with_reducible apply outKeeps_ite | with_reducible apply atUnit_keeps | dsimp only
theorem abandonMoves_keeps {T : Touch} {s0 : State} (hs : List ℕ) (s : State) (hk : Keeps T s0 s) (ht : T.regs = true ∧ T.tillers = true ∧ T.stackMap = true ∧ T.deeps = true ∧ T.dram = true ∧ T.poison = true ∧ T.husk = true ∧ T.huskBad = true ∧ T.objs = true ∧ T.grans = true ∧ T.used = true ∧ T.migs = true ∧ T.heldBy = true ∧ T.xlat = true ∧ T.chans = true ∧ T.cxl = true ∧ T.boot = true ∧ T.rcv = true ∧ T.notices = true := by simp [*]) :
    Keeps T s0 (abandonMoves hs s) := by
  unfold abandonMoves
  try dsimp only
  repeat' first | (with_reducible assumption) | (simp +contextual (maxDischargeDepth := 60) only [abortMig_keeps, ht, and_self]; done) | split | (with_reducible apply keeps_foldl) | (with_reducible apply keeps_foldl_fst) | (with_reducible apply keeps_foldl_snd) | (with_reducible apply keeps_foldl_snd2) | (intro _ _ _) | (intro _ _) | with_reducible apply migPump_keeps | with_reducible apply abortMig_keeps | with_reducible apply keeps_ite | with_reducible apply outKeeps_ite | with_reducible apply atUnit_keeps | dsimp only

end Sys2Proof.Machine
end

