-- ==== Sys2Proof/Laws/Keeps/Abort.lean ====
section
/-! SUPPORT. What each operation of Machine/Abort.lean keeps. -/

namespace Sys2Proof.Machine

open Sys2Proof

set_option Elab.async false
set_option linter.unusedTactic false
set_option linter.unreachableTactic false

theorem dropPools_keeps {T : Touch} {s0 : State} (ts : List ℕ) (s : State) (hk : Keeps T s0 s) (ht : T.stackMap = true ∧ T.deeps = true := by simp [*]) :
    Keeps T s0 (dropPools ts s) := keeps_stacks_deeps _ _ hk ht
theorem dropEngine_keeps {T : Touch} {s0 : State} (f : EngEntry → Bool) (s : State) (hk : Keeps T s0 s) (ht : T.stackMap = true ∧ T.deeps = true := by simp [*]) :
    Keeps T s0 (dropEngine f s) := keeps_stacks_deeps _ _ hk ht
theorem dropWork_keeps {T : Touch} {s0 : State} (c : ℕ) (s : State) (hk : Keeps T s0 s) (ht : T.stackMap = true ∧ T.deeps = true ∧ T.objs = true ∧ T.grans = true ∧ T.used = true ∧ T.migs = true ∧ T.heldBy = true ∧ T.chans = true ∧ T.links = true ∧ T.cxl = true := by simp [*]) :
    Keeps T s0 (dropWork c s) := by
  unfold dropWork
  try dsimp only
  repeat' first | (with_reducible assumption) | (simp +contextual (maxDischargeDepth := 60) only [hk, dropMig_keeps, dropEngine_keeps, ht, and_self]; done) | split | (with_reducible apply keeps_foldl) | (with_reducible apply keeps_foldl_fst) | (with_reducible apply keeps_foldl_snd) | (with_reducible apply keeps_foldl_snd2) | (intro _ _ _) | (intro _ _) | with_reducible apply dropMig_keeps | with_reducible apply dropEngine_keeps | with_reducible apply modCxl_keeps | with_reducible apply modLinks_keeps | with_reducible apply keeps_ite | with_reducible apply outKeeps_ite | with_reducible apply atUnit_keeps | dsimp only
theorem abortGroups_keeps {T : Touch} {s0 : State} (c : ℕ) (s : State) (hk : Keeps T s0 s) (ht : T.links = true := by simp [*]) :
    Keeps T s0 (abortGroups c s) := by
  unfold abortGroups
  simp +contextual (maxDischargeDepth := 60) only [hk, modLinks_keeps, ht]
theorem stopStages_keeps {T : Touch} {s0 : State} (c : ℕ) (s : State) (hk : Keeps T s0 s) (ht : T.tillers = true := by simp [*]) :
    Keeps T s0 (stopStages c s) := by
  unfold stopStages
  try dsimp only
  repeat' first | (with_reducible assumption) | (simp +contextual (maxDischargeDepth := 60) only [modTiller_keeps, ht]; done) | split | (with_reducible apply keeps_foldl) | (with_reducible apply keeps_foldl_fst) | (with_reducible apply keeps_foldl_snd) | (with_reducible apply keeps_foldl_snd2) | (intro _ _ _) | (intro _ _) | with_reducible apply modTiller_keeps | with_reducible apply keeps_ite | with_reducible apply outKeeps_ite | with_reducible apply atUnit_keeps | dsimp only
theorem finishAll_keeps {T : Touch} {s0 : State} (c : ℕ) (status : ℕ) (only : RingCmd → Bool) (s : State) (hk : Keeps T s0 s) (ht : T.regs = true ∧ T.chans = true ∧ T.cxl = true := by simp [*]) :
    Keeps T s0 (finishAll c status only s) := by
  unfold finishAll
  try dsimp only
  repeat' first | (with_reducible assumption) | (simp +contextual (maxDischargeDepth := 60) only [ringFinish_keeps, ht, and_self]; done) | split | (with_reducible apply keeps_foldl) | (with_reducible apply keeps_foldl_fst) | (with_reducible apply keeps_foldl_snd) | (with_reducible apply keeps_foldl_snd2) | (intro _ _ _) | (intro _ _) | with_reducible apply ringFinish_keeps | with_reducible apply keeps_ite | with_reducible apply outKeeps_ite | with_reducible apply atUnit_keeps | dsimp only
theorem dropStackWork_keeps {T : Touch} {s0 : State} (c : ℕ) (s : State) (hk : Keeps T s0 s) (ht : T.stackMap = true := by simp [*]) :
    Keeps T s0 (dropStackWork c s) := keeps_stacks _ hk ht
theorem dropReshard_keeps {T : Touch} {s0 : State} (c : ℕ) (s : State) (hk : Keeps T s0 s) (ht : T.objs = true ∧ T.grans = true ∧ T.shareGroups = true ∧ T.used = true ∧ T.chans = true ∧ T.links = true := by simp [*]) :
    Keeps T s0 (dropReshard c s) := by
  unfold dropReshard
  try dsimp only
  repeat' first | (with_reducible assumption) | (simp +contextual (maxDischargeDepth := 60) only [ht, and_self]; done) | split | (with_reducible apply keeps_foldl) | (with_reducible apply keeps_foldl_fst) | (with_reducible apply keeps_foldl_snd) | (with_reducible apply keeps_foldl_snd2) | (intro _ _ _) | (intro _ _) | with_reducible apply releaseObj_keeps | with_reducible apply modLinks_keeps | with_reducible apply keeps_ite | with_reducible apply outKeeps_ite | with_reducible apply atUnit_keeps | dsimp only
theorem voidAttempt_keeps {T : Touch} {s0 : State} (c : ℕ) (status : ℕ) (s : State) (hk : Keeps T s0 s) (ht : T.regs = true ∧ T.tillers = true ∧ T.stackMap = true ∧ T.deeps = true ∧ T.objs = true ∧ T.grans = true ∧ T.shareGroups = true ∧ T.used = true ∧ T.migs = true ∧ T.heldBy = true ∧ T.chans = true ∧ T.links = true ∧ T.cxl = true ∧ T.flights = true := by simp [*]) :
    Keeps T s0 (voidAttempt c status s) := by
  unfold voidAttempt
  try dsimp only
  repeat' first | (with_reducible assumption) | (simp +contextual (maxDischargeDepth := 60) only [hk, dropPools_keeps, modTiller_keeps, ht, and_self]; done) | split | (with_reducible apply keeps_foldl) | (with_reducible apply keeps_foldl_fst) | (with_reducible apply keeps_foldl_snd) | (with_reducible apply keeps_foldl_snd2) | (intro _ _ _) | (intro _ _) | with_reducible apply dropPools_keeps | with_reducible apply modTiller_keeps | with_reducible apply dropStackWork_keeps | with_reducible apply dropWork_keeps | with_reducible apply finishAll_keeps | with_reducible apply modChan_keeps | with_reducible apply abortGroups_keeps | with_reducible apply dropReshard_keeps | with_reducible apply oweKind_keeps | with_reducible apply migPump_keeps | with_reducible apply keeps_ite | with_reducible apply outKeeps_ite | with_reducible apply atUnit_keeps | (with_reducible refine keeps_flights _ ?_ (by simp [ht])) | dsimp only
theorem reportInexact_keeps {T : Touch} {s0 : State} (c : ℕ) (s : State) (hk : Keeps T s0 s) (ht : T.regs = true ∧ T.tillers = true ∧ T.stackMap = true ∧ T.deeps = true ∧ T.objs = true ∧ T.grans = true ∧ T.shareGroups = true ∧ T.used = true ∧ T.migs = true ∧ T.heldBy = true ∧ T.chans = true ∧ T.links = true ∧ T.cxl = true ∧ T.boot = true ∧ T.rcv = true ∧ T.flights = true := by simp [*]) :
    Keeps T s0 (reportInexact c s) := by
  unfold reportInexact
  try dsimp only
  repeat' first | (with_reducible assumption) | (simp +contextual (maxDischargeDepth := 60) only [hk, voidAttempt_keeps, logRec_keeps, setEv_keeps, ht, and_self]; done) | split | (with_reducible apply keeps_foldl) | (with_reducible apply keeps_foldl_fst) | (with_reducible apply keeps_foldl_snd) | (with_reducible apply keeps_foldl_snd2) | (intro _ _ _) | (intro _ _) | with_reducible apply voidAttempt_keeps | with_reducible apply logRec_keeps | with_reducible apply setEv_keeps | with_reducible apply keeps_ite | with_reducible apply outKeeps_ite | with_reducible apply atUnit_keeps | dsimp only
theorem abortAttempt_keeps {T : Touch} {s0 : State} (c : ℕ) (status : ℕ) (dom : ℕ) (s : State) (hk : Keeps T s0 s) (ht : T.regs = true ∧ T.tillers = true ∧ T.stackMap = true ∧ T.deeps = true ∧ T.objs = true ∧ T.grans = true ∧ T.shareGroups = true ∧ T.used = true ∧ T.migs = true ∧ T.heldBy = true ∧ T.chans = true ∧ T.links = true ∧ T.cxl = true ∧ T.boot = true ∧ T.rcv = true ∧ T.flights = true := by simp [*]) :
    Keeps T s0 (abortAttempt c status dom s) := by
  unfold abortAttempt
  try dsimp only
  repeat' first | (with_reducible assumption) | (simp +contextual (maxDischargeDepth := 60) only [hk, cntInc_keeps, setEv_keeps, wr_keeps, logRec_keeps, modChanRcv_keeps, stopStages_keeps, voidAttempt_keeps, abortGroups_keeps, ht, and_self]; done) | split | (with_reducible apply keeps_foldl) | (with_reducible apply keeps_foldl_fst) | (with_reducible apply keeps_foldl_snd) | (with_reducible apply keeps_foldl_snd2) | (intro _ _ _) | (intro _ _) | with_reducible apply cntInc_keeps | with_reducible apply setEv_keeps | with_reducible apply wr_keeps | with_reducible apply logRec_keeps | with_reducible apply modChanRcv_keeps | with_reducible apply stopStages_keeps | with_reducible apply voidAttempt_keeps | with_reducible apply abortGroups_keeps | with_reducible apply keeps_ite | with_reducible apply outKeeps_ite | with_reducible apply atUnit_keeps | dsimp only
theorem failMarks_keeps {T : Touch} {s0 : State} (c : ℕ) (s : State) (hk : Keeps T s0 s) (ht : T.regs = true ∧ T.tillers = true ∧ T.stackMap = true ∧ T.deeps = true ∧ T.objs = true ∧ T.grans = true ∧ T.shareGroups = true ∧ T.used = true ∧ T.migs = true ∧ T.heldBy = true ∧ T.chans = true ∧ T.links = true ∧ T.cxl = true ∧ T.boot = true ∧ T.rcv = true ∧ T.flights = true := by simp [*]) :
    Keeps T s0 (failMarks c s) := by
  unfold failMarks
  try dsimp only
  repeat' first | (with_reducible assumption) | (simp +contextual (maxDischargeDepth := 60) only [hk, abortAttempt_keeps, ht, and_self]; done) | split | dsimp only
theorem stageStop_keeps {T : Touch} {s0 : State} (t : ℕ) (c : ℕ) (status : ℕ) (s : State) (hk : Keeps T s0 s) (ht : T.regs = true ∧ T.tillers = true ∧ T.stackMap = true ∧ T.deeps = true ∧ T.objs = true ∧ T.grans = true ∧ T.shareGroups = true ∧ T.used = true ∧ T.migs = true ∧ T.heldBy = true ∧ T.chans = true ∧ T.links = true ∧ T.cxl = true ∧ T.boot = true ∧ T.rcv = true ∧ T.flights = true := by simp [*]) :
    Keeps T s0 (stageStop t c status s) := by
  unfold stageStop
  simp +contextual (maxDischargeDepth := 60) only [hk, abortAttempt_keeps, modTiller_keeps, ht, and_self]
theorem seqFaultOf_keeps {T : Touch} {s0 : State} (t : ℕ) (c : ℕ) (ctx : ℕ) (pc : ℕ) (cause : ℕ) (w : Word) (status : ℕ) (s : State) (hk : Keeps T s0 s) (ht : T.regs = true ∧ T.tillers = true ∧ T.stackMap = true ∧ T.deeps = true ∧ T.objs = true ∧ T.grans = true ∧ T.shareGroups = true ∧ T.used = true ∧ T.migs = true ∧ T.heldBy = true ∧ T.chans = true ∧ T.links = true ∧ T.cxl = true ∧ T.boot = true ∧ T.rcv = true ∧ T.flights = true := by simp [*]) :
    Keeps T s0 (seqFaultOf t c ctx pc cause w status s) := by
  unfold seqFaultOf
  simp +contextual (maxDischargeDepth := 60) only [hk, wr_keeps, setEv_keeps, logRec_keeps, stageStop_keeps, ht, and_self]
theorem seqFault_keeps {T : Touch} {s0 : State} (t : ℕ) (ctx : ℕ) (pc : ℕ) (cause : ℕ) (w : Word) (status : ℕ) (s : State) (hk : Keeps T s0 s) (ht : T.regs = true ∧ T.tillers = true ∧ T.stackMap = true ∧ T.deeps = true ∧ T.objs = true ∧ T.grans = true ∧ T.shareGroups = true ∧ T.used = true ∧ T.migs = true ∧ T.heldBy = true ∧ T.chans = true ∧ T.links = true ∧ T.cxl = true ∧ T.boot = true ∧ T.rcv = true ∧ T.flights = true := by simp [*]) :
    Keeps T s0 (seqFault t ctx pc cause w status s) := by
  unfold seqFault
  simp +contextual (maxDischargeDepth := 60) only [hk, seqFaultOf_keeps, ht, and_self]
theorem fenceArrays_keeps {T : Touch} {s0 : State} (d : ℕ) (s : State) (hk : Keeps T s0 s) (ht : T.tillers = true := by simp [*]) :
    Keeps T s0 (fenceArrays d s) := by
  unfold fenceArrays
  try dsimp only
  repeat' first | (with_reducible assumption) | (simp +contextual (maxDischargeDepth := 60) only [modTiller_keeps, ht]; done) | split | (with_reducible apply keeps_foldl) | (with_reducible apply keeps_foldl_fst) | (with_reducible apply keeps_foldl_snd) | (with_reducible apply keeps_foldl_snd2) | (intro _ _ _) | (intro _ _) | with_reducible apply modTiller_keeps | with_reducible apply keeps_ite | with_reducible apply outKeeps_ite | with_reducible apply atUnit_keeps | dsimp only
theorem startReset_keeps {T : Touch} {s0 : State} (d : ℕ) (trig : ℕ) (s : State) (hk : Keeps T s0 s) (ht : T.regs = true ∧ T.tillers = true ∧ T.stackMap = true ∧ T.deeps = true ∧ T.objs = true ∧ T.grans = true ∧ T.shareGroups = true ∧ T.used = true ∧ T.migs = true ∧ T.heldBy = true ∧ T.chans = true ∧ T.links = true ∧ T.cxl = true ∧ T.boot = true ∧ T.rcv = true ∧ T.flights = true := by simp [*]) :
    Keeps T s0 (startReset d trig s) := by
  unfold startReset
  try dsimp only
  repeat' first | (with_reducible assumption) | (simp +contextual (maxDischargeDepth := 60) only [hk, fenceArrays_keeps, modDomain_keeps, ht]; done) | split | (with_reducible apply keeps_foldl) | (with_reducible apply keeps_foldl_fst) | (with_reducible apply keeps_foldl_snd) | (with_reducible apply keeps_foldl_snd2) | (intro _ _ _) | (intro _ _) | with_reducible apply fenceArrays_keeps | with_reducible apply modDomain_keeps | with_reducible apply abortAttempt_keeps | with_reducible apply keeps_ite | with_reducible apply outKeeps_ite | with_reducible apply atUnit_keeps | dsimp only
theorem flagUnits_keeps {T : Touch} {s0 : State} (d : ℕ) (s : State) (hk : Keeps T s0 s) (ht : T.regs = true ∧ T.tillers = true ∧ T.stackMap = true ∧ T.deeps = true ∧ T.chans = true ∧ T.cxl = true := by simp [*]) :
    Keeps T s0 (flagUnits d s) := by
  unfold flagUnits
  try dsimp only
  repeat' first | (with_reducible assumption) | (simp +contextual (maxDischargeDepth := 60) only [hk, fenceArrays_keeps, ht, and_self]; done) | split | (with_reducible apply keeps_foldl) | (with_reducible apply keeps_foldl_fst) | (with_reducible apply keeps_foldl_snd) | (with_reducible apply keeps_foldl_snd2) | (intro _ _ _) | (intro _ _) | with_reducible apply fenceArrays_keeps | with_reducible apply setEv_keeps | with_reducible apply modStack_keeps | with_reducible apply modDeep_keeps | with_reducible apply keeps_ite | with_reducible apply outKeeps_ite | with_reducible apply atUnit_keeps | dsimp only

end Sys2Proof.Machine
end

