-- ==== Sys2Proof/Laws/Keeps/ChanOps.lean ====
section
/-! SUPPORT. What each operation of Machine/ChanOps.lean keeps. -/

namespace Sys2Proof.Machine

open Sys2Proof

set_option Elab.async false
set_option linter.unusedTactic false
set_option linter.unreachableTactic false

theorem hostWrite_keeps {T : Touch} {s0 : State} (who : ℕ) (unit : ℕ) (pos : ℕ) (addr : ℕ) (data : List Byte) (msi : Option ℕ) (s : State) (hk : Keeps T s0 s) (ht : T.cxl = true := by simp [*]) :
    Keeps T s0 (hostWrite who unit pos addr data msi s) := by
  unfold hostWrite
  simp +contextual (maxDischargeDepth := 60) only [hk, modCxl_keeps, ht]
theorem hostRead_keeps {T : Touch} {s0 : State} (who : ℕ) (unit : ℕ) (pos : ℕ) (addr : ℕ) (len : ℕ) (s : State) (hk : Keeps T s0 s) (ht : T.cxl = true := by simp [*]) :
    Keeps T s0 (hostRead who unit pos addr len s) := by
  unfold hostRead
  simp +contextual (maxDischargeDepth := 60) only [hk, modCxl_keeps, ht]
theorem stopCopies_keeps {T : Touch} {s0 : State} (c : ℕ) (status : ℕ) (s : State) (hk : Keeps T s0 s) (ht : T.regs = true ∧ T.chans = true ∧ T.cxl = true := by simp [*]) :
    Keeps T s0 (stopCopies c status s) := by
  unfold stopCopies
  try dsimp only
  repeat' first | (with_reducible assumption) | (simp +contextual (maxDischargeDepth := 60) only [hk, modCxl_keeps, ht]; done) | split | (with_reducible apply keeps_foldl) | (with_reducible apply keeps_foldl_fst) | (with_reducible apply keeps_foldl_snd) | (with_reducible apply keeps_foldl_snd2) | (intro _ _ _) | (intro _ _) | with_reducible apply modCxl_keeps | with_reducible apply finishRing_keeps | with_reducible apply keeps_ite | with_reducible apply outKeeps_ite | with_reducible apply atUnit_keeps | dsimp only
theorem fenceChan_keeps {T : Touch} {s0 : State} (c : ℕ) (s : State) (hk : Keeps T s0 s) (ht : T.regs = true ∧ T.tillers = true ∧ T.stackMap = true ∧ T.deeps = true ∧ T.objs = true ∧ T.grans = true ∧ T.shareGroups = true ∧ T.used = true ∧ T.migs = true ∧ T.heldBy = true ∧ T.chans = true ∧ T.links = true ∧ T.cxl = true ∧ T.boot = true ∧ T.rcv = true ∧ T.flights = true := by simp [*]) :
    Keeps T s0 (fenceChan c s) := by
  unfold fenceChan
  try dsimp only
  repeat' first | (with_reducible assumption) | (simp +contextual (maxDischargeDepth := 60) only [hk, setEv_keeps, modChan_keeps, stopCopies_keeps, finishAll_keeps, abortAttempt_keeps, ht, and_self]; done) | split | dsimp only
theorem freeChanObjs_keeps {T : Touch} {s0 : State} (c : ℕ) (s : State) (hk : Keeps T s0 s) (ht : T.objs = true ∧ T.grans = true ∧ T.shareGroups = true ∧ T.used = true ∧ T.chans = true := by simp [*]) :
    Keeps T s0 (freeChanObjs c s) := by
  unfold freeChanObjs
  try dsimp only
  repeat' first | (with_reducible assumption) | (simp +contextual (maxDischargeDepth := 60) only [ht]; done) | split | (with_reducible apply keeps_foldl) | (with_reducible apply keeps_foldl_fst) | (with_reducible apply keeps_foldl_snd) | (with_reducible apply keeps_foldl_snd2) | (intro _ _ _) | (intro _ _) | with_reducible apply modUsed_keeps | with_reducible apply setObj_keeps | with_reducible apply releaseObj_keeps | with_reducible apply keeps_ite | with_reducible apply outKeeps_ite | with_reducible apply atUnit_keeps | (with_reducible refine keeps_shareGroups _ ?_ (by simp [ht])) | dsimp only
theorem sweepKeys_keeps {T : Touch} {s0 : State} (s : State) (hk : Keeps T s0 s) (ht : T.boot = true := by simp [*]) :
    Keeps T s0 (sweepKeys s) := by
  unfold sweepKeys
  simp +contextual (maxDischargeDepth := 60) only [Nat.le_refl, hk, modBoot_keeps, ht]
theorem freeChan_keeps {T : Touch} {s0 : State} (c : ℕ) (s : State) (hk : Keeps T s0 s) (ht : T.objs = true ∧ T.grans = true ∧ T.shareGroups = true ∧ T.used = true ∧ T.chans = true ∧ T.links = true ∧ T.cxl = true := by simp [*]) :
    Keeps T s0 (freeChan c s) := by
  unfold freeChan
  simp +contextual (maxDischargeDepth := 60) only [hk, modCxl_keeps, modLinks_keeps, freeChanObjs_keeps, ht, and_self]
theorem daRead_keeps {T : Touch} {s0 : State} (a : Agent) (da : ℕ) (n : ℕ) (s : State) (hk : Keeps T s0 s) (ht : T.regs = true ∧ T.stackMap = true ∧ T.deeps = true ∧ T.poison = true ∧ T.xlat = true ∧ T.chans = true ∧ T.cxl = true ∧ T.boot = true ∧ T.rcv = true := by simp [*]) :
    Keeps T s0 (daRead a da n s).1 := by
  unfold daRead
  try dsimp only
  repeat' first | (with_reducible assumption) | (simp +contextual (maxDischargeDepth := 60) only [hk, objRead_keeps, ht, and_self]; done) | split | dsimp only
theorem daWrite_keeps {T : Touch} {s0 : State} (a : Agent) (da : ℕ) (bs : List Byte) (s : State) (hk : Keeps T s0 s) (ht : T.regs = true ∧ T.tillers = true ∧ T.stackMap = true ∧ T.deeps = true ∧ T.dram = true ∧ T.poison = true ∧ T.husk = true ∧ T.huskBad = true ∧ T.objs = true ∧ T.grans = true ∧ T.xlat = true ∧ T.chans = true ∧ T.cxl = true ∧ T.boot = true ∧ T.rcv = true ∧ T.notices = true := by simp [*]) :
    Keeps T s0 (daWrite a da bs s) := by
  unfold daWrite
  try dsimp only
  repeat' first | (with_reducible assumption) | (simp +contextual (maxDischargeDepth := 60) only [hk, objStore_keeps, ht, and_self]; done) | split | dsimp only

end Sys2Proof.Machine
end

