-- ==== Sys2Proof/Laws/Keeps/Tile.lean ====
section
/-! SUPPORT. What each operation of Machine/Tile.lean keeps. -/

namespace Sys2Proof.Machine

open Sys2Proof

set_option Elab.async false
set_option linter.unusedTactic false
set_option linter.unreachableTactic false

theorem modCtx_keeps {T : Touch} {s0 : State} (t : ℕ) (f : Ctx → Ctx) (s : State) (hk : Keeps T s0 s) (ht : T.tillers = true := by simp [*]) :
    Keeps T s0 (modCtx t f s) := by
  unfold modCtx
  simp +contextual (maxDischargeDepth := 60) only [hk, modTiller_keeps, ht]
theorem modCfg_keeps {T : Touch} {s0 : State} (t : ℕ) (f : Cfg → Cfg) (s : State) (hk : Keeps T s0 s) (ht : T.tillers = true := by simp [*]) :
    Keeps T s0 (modCfg t f s) := by
  unfold modCfg
  simp +contextual (maxDischargeDepth := 60) only [hk, modTiller_keeps, ht]
theorem modCfgBy_keeps {T : Touch} {s0 : State} (who : ℕ) (t : ℕ) (f : Cfg → Cfg) (s : State) (hk : Keeps T s0 s) (ht : T.tillers = true := by simp [*]) :
    Keeps T s0 (modCfgBy who t f s) := by
  unfold modCfgBy
  simp +contextual (maxDischargeDepth := 60) only [hk, modTiller_keeps, ht]
theorem setSreg_keeps {T : Touch} {s0 : State} (t : ℕ) (n : ℕ) (v : Word) (s : State) (hk : Keeps T s0 s) (ht : T.tillers = true := by simp [*]) :
    Keeps T s0 (setSreg t n v s) := by
  unfold setSreg
  simp +contextual (maxDischargeDepth := 60) only [hk, modCtx_keeps, ht]
theorem tsWrite_keeps {T : Touch} {s0 : State} (t : ℕ) (a : ℕ) (bs : List Byte) (s : State) (hk : Keeps T s0 s) (ht : T.tillers = true := by simp [*]) :
    Keeps T s0 (tsWrite t a bs s) := by
  unfold tsWrite
  simp +contextual (maxDischargeDepth := 60) only [hk, modTiller_keeps, ht]
theorem tsForget_keeps {T : Touch} {s0 : State} (t : ℕ) (a : ℕ) (b : ℕ) (s : State) (hk : Keeps T s0 s) (ht : T.freeCtr = true ∧ T.tillers = true := by simp [*]) :
    Keeps T s0 (tsForget t a b s) := by
  unfold tsForget
  try dsimp only
  repeat' first | (with_reducible assumption) | (simp +contextual (maxDischargeDepth := 60) only [keeps_freeCtr, hk, modTiller_keeps, ht]; done) | split | (with_reducible refine keeps_freeCtr ?_ (by simp [ht])) | dsimp only
theorem tsRead_keeps {T : Touch} {s0 : State} (t : ℕ) (a : ℕ) (n : ℕ) (s : State) (hk : Keeps T s0 s) (ht : T.freeCtr = true := by simp [*]) :
    Keeps T s0 (tsRead t a n s).2 := by
  unfold tsRead
  try dsimp only
  repeat' first | (with_reducible assumption) | (simp +contextual (maxDischargeDepth := 60) only [keeps_freeCtr, hk, ht]; done) | split | (with_reducible refine keeps_freeCtr ?_ (by simp [ht])) | dsimp only
theorem waitAt_keeps {T : Touch} {s0 : State} (t : ℕ) (code : ℕ) (s : State) (hk : Keeps T s0 s) (ht : T.tillers = true := by simp [*]) :
    Keeps T s0 (waitAt t code s) := by
  unfold waitAt
  simp +contextual (maxDischargeDepth := 60) only [hk, modCtx_keeps, ht]
theorem faultAt_keeps {T : Touch} {s0 : State} (t : ℕ) (cause : ℕ) (status : ℕ) (s : State) (hk : Keeps T s0 s) (ht : T.regs = true ∧ T.tillers = true ∧ T.stackMap = true ∧ T.deeps = true ∧ T.objs = true ∧ T.grans = true ∧ T.shareGroups = true ∧ T.used = true ∧ T.migs = true ∧ T.heldBy = true ∧ T.chans = true ∧ T.links = true ∧ T.cxl = true ∧ T.boot = true ∧ T.rcv = true ∧ T.flights = true := by simp [*]) :
    Keeps T s0 (faultAt t cause status s) := by
  unfold faultAt
  simp +contextual (maxDischargeDepth := 60) only [hk, seqFault_keeps, ht, and_self]
theorem gotoPc_keeps {T : Touch} {s0 : State} (t : ℕ) (pc : ℤ) (s : State) (hk : Keeps T s0 s) (ht : T.freeCtr = true ∧ T.regs = true ∧ T.tillers = true ∧ T.stackMap = true ∧ T.deeps = true ∧ T.objs = true ∧ T.grans = true ∧ T.shareGroups = true ∧ T.used = true ∧ T.migs = true ∧ T.heldBy = true ∧ T.chans = true ∧ T.links = true ∧ T.cxl = true ∧ T.boot = true ∧ T.rcv = true ∧ T.flights = true := by simp [*]) :
    Keeps T s0 (gotoPc t pc s) := by
  unfold gotoPc
  try dsimp only
  repeat' first | (with_reducible assumption) | (simp +contextual (maxDischargeDepth := 60) only [hk, drawFree_keeps, seqFault_keeps, modCtx_keeps, ht, and_self]; done) | split | dsimp only
theorem issued_keeps {T : Touch} {s0 : State} (t : ℕ) (s : State) (hk : Keeps T s0 s) (ht : T.freeCtr = true ∧ T.regs = true ∧ T.tillers = true ∧ T.stackMap = true ∧ T.deeps = true ∧ T.objs = true ∧ T.grans = true ∧ T.shareGroups = true ∧ T.used = true ∧ T.migs = true ∧ T.heldBy = true ∧ T.chans = true ∧ T.links = true ∧ T.cxl = true ∧ T.boot = true ∧ T.rcv = true ∧ T.flights = true := by simp [*]) :
    Keeps T s0 (issued t s) := by
  unfold issued
  simp +contextual (maxDischargeDepth := 60) only [hk, gotoPc_keeps, cntInc_keeps, ht, and_self]
theorem instr_keeps {T : Touch} {s0 : State} (op : ℕ) (reads : Word → List ℕ) (t : ℕ) (w : Word) (s : State) (f : Tiller → State → State) (hk : Keeps T s0 s) (hf : ∀ x0 x1, Keeps T s0 x1 → Keeps T s0 (f x0 x1)) (ht : T.regs = true ∧ T.tillers = true ∧ T.stackMap = true ∧ T.deeps = true ∧ T.objs = true ∧ T.grans = true ∧ T.shareGroups = true ∧ T.used = true ∧ T.migs = true ∧ T.heldBy = true ∧ T.chans = true ∧ T.links = true ∧ T.cxl = true ∧ T.boot = true ∧ T.rcv = true ∧ T.flights = true := by simp [*]) :
    OutKeeps T s0 (instr op reads t w s f) := by
  unfold instr
  try dsimp only
  repeat' first | (with_reducible assumption) | (simp +contextual (maxDischargeDepth := 60) only [faultAt_keeps, ht, and_self]; done) | split | (with_reducible apply keeps_foldl) | (with_reducible apply keeps_foldl_fst) | (with_reducible apply keeps_foldl_snd) | (with_reducible apply keeps_foldl_snd2) | (intro _ _ _) | (intro _ _) | with_reducible apply hf | with_reducible apply onlyIf_keeps | with_reducible apply faultAt_keeps | with_reducible apply waitAt_keeps | with_reducible apply keeps_ite | with_reducible apply outKeeps_ite | with_reducible apply atUnit_keeps | dsimp only
theorem raiseOvf_keeps {T : Touch} {s0 : State} (g : Cfg) (s : State) (hk : Keeps T s0 s) (ht : T.chans = true := by simp [*]) :
    Keeps T s0 (raiseOvf g s) := by
  unfold raiseOvf
  try dsimp only
  repeat' first | (with_reducible assumption) | (simp +contextual (maxDischargeDepth := 60) only [hk, modTrn_keeps, ht]; done) | split | dsimp only

end Sys2Proof.Machine
end

