-- ==== Sys2Proof/Laws/Keeps/Operands.lean ====
section
/-! SUPPORT. What each operation of Machine/Operands.lean keeps. -/

namespace Sys2Proof.Machine

open Sys2Proof

set_option Elab.async false
set_option linter.unusedTactic false
set_option linter.unreachableTactic false

theorem tsElems_keeps {T : Touch} {s0 : State} (t : ℕ) (f : Format) (a : ℕ) (scale : ℕ) (j : ℕ) (n : ℕ) (s : State) (hk : Keeps T s0 s) (ht : T.freeCtr = true := by simp [*]) :
    Keeps T s0 (tsElems t f a scale j n s).2 := by
  unfold tsElems
  try dsimp only
  repeat' first | (with_reducible assumption) | (simp +contextual (maxDischargeDepth := 60) only [hk, tsRead_keeps, ht]; done) | split | dsimp only
theorem elemsOf_keeps {T : Touch} {s0 : State} (t : ℕ) (e : VqEntry) (c : ℕ) (j : ℕ) (n : ℕ) (s : State) (hk : Keeps T s0 s) (ht : T.freeCtr = true := by simp [*]) :
    Keeps T s0 (elemsOf t e c j n s).2 := by
  unfold elemsOf
  try dsimp only
  repeat' first | (with_reducible assumption) | (simp +contextual (maxDischargeDepth := 60) only [hk, tsElems_keeps, ht]; done) | split | dsimp only
theorem operand_keeps {T : Touch} {s0 : State} (t : ℕ) (e : VqEntry) (c : ℕ) (row : Bool) (col : Bool) (j : ℕ) (n : ℕ) (s : State) (hk : Keeps T s0 s) (ht : T.freeCtr = true := by simp [*]) :
    Keeps T s0 (operand t e c row col j n s).2 := by
  unfold operand
  try dsimp only
  repeat' first | (with_reducible assumption) | (simp +contextual (maxDischargeDepth := 60) only [hk, elemsOf_keeps, ht]; done) | split | dsimp only
theorem vRegWrite_keeps {T : Touch} {s0 : State} (t : ℕ) (pk : Bool) (v : ℕ) (j : ℕ) (es : List ℕ) (s : State) (hk : Keeps T s0 s) (ht : T.tillers = true := by simp [*]) :
    Keeps T s0 (vRegWrite t pk v j es s) := by
  unfold vRegWrite
  simp +contextual (maxDischargeDepth := 60) only [hk, modTiller_keeps, ht]

end Sys2Proof.Machine
end

