-- ==== Sys2Proof/Laws/Keeps/Flags.lean ====
section
/-! SUPPORT. What each operation of Machine/Flags.lean keeps. -/

namespace Sys2Proof.Machine

open Sys2Proof

set_option Elab.async false
set_option linter.unusedTactic false
set_option linter.unreachableTactic false

theorem vectorFlags_keeps {T : Touch} {s0 : State} (t : ℕ) (g : Cfg) (xs : List F32) (s : State) (hk : Keeps T s0 s) (ht : T.regs = true ∧ T.chans = true ∧ T.cxl = true := by simp [*]) :
    Keeps T s0 (vectorFlags t g xs s) := by
  unfold vectorFlags
  try dsimp only
  repeat' first | (with_reducible assumption) | (simp +contextual (maxDischargeDepth := 60) only [hk, setEv_keeps, raiseOvf_keeps, cntAdd_keeps, ht, and_self]; done) | split | dsimp only
theorem arrayFlags_keeps {T : Touch} {s0 : State} (t : ℕ) (g : Cfg) (xs : List F32) (s : State) (hk : Keeps T s0 s) (ht : T.regs = true ∧ T.chans = true ∧ T.cxl = true := by simp [*]) :
    Keeps T s0 (arrayFlags t g xs s) := by
  unfold arrayFlags
  try dsimp only
  repeat' first | (with_reducible assumption) | (simp +contextual (maxDischargeDepth := 60) only [hk, setEv_keeps, raiseOvf_keeps, cntAdd_keeps, ht, and_self]; done) | split | dsimp only
theorem satFlags_keeps {T : Touch} {s0 : State} (g : Cfg) (n : ℕ) (s : State) (hk : Keeps T s0 s) (ht : T.regs = true ∧ T.chans = true ∧ T.cxl = true := by simp [*]) :
    Keeps T s0 (satFlags g n s) := by
  unfold satFlags
  try dsimp only
  repeat' first | (with_reducible assumption) | (simp +contextual (maxDischargeDepth := 60) only [hk, raiseOvf_keeps, cntAdd_keeps, setEv_keeps, ht, and_self]; done) | split | dsimp only
theorem domainFlag_keeps {T : Touch} {s0 : State} (t : ℕ) (op : ℕ) (xs : List F32) (s : State) (hk : Keeps T s0 s) (ht : T.regs = true ∧ T.chans = true ∧ T.cxl = true := by simp [*]) :
    Keeps T s0 (domainFlag t op xs s) := by
  unfold domainFlag
  try dsimp only
  repeat' first | (with_reducible assumption) | (simp +contextual (maxDischargeDepth := 60) only [hk, setEv_keeps, ht, and_self]; done) | split | dsimp only
theorem winnow_keeps {T : Touch} {s0 : State} (t : ℕ) (g : Cfg) (l : List (F32 × F32 × Bool × Bool)) (s : State) (hk : Keeps T s0 s) (ht : T.regs = true ∧ T.chans = true ∧ T.cxl = true ∧ T.boot = true ∧ T.rcv = true := by simp [*]) :
    Keeps T s0 (winnow t g l s) := by
  unfold winnow
  try dsimp only
  repeat' first | (with_reducible assumption) | (simp +contextual (maxDischargeDepth := 60) only [hk, cntInc_keeps, wr_keeps, setEv_keeps, logRec_keeps, ht, and_self]; done) | split | dsimp only

end Sys2Proof.Machine
end

