-- ==== Sys2Proof/Laws/Keeps/Scalar.lean ====
section
/-! SUPPORT. What each operation of Machine/Scalar.lean keeps. -/

namespace Sys2Proof.Machine

open Sys2Proof

set_option Elab.async false
set_option linter.unusedTactic false
set_option linter.unreachableTactic false

theorem scalar_keeps {T : Touch} {s0 : State} (op : ℕ) (t : ℕ) (w : Word) (s : State) (f : Word → Word → Word → Word → Word) (hk : Keeps T s0 s) (ht : T.freeCtr = true ∧ T.regs = true ∧ T.tillers = true ∧ T.stackMap = true ∧ T.deeps = true ∧ T.objs = true ∧ T.grans = true ∧ T.shareGroups = true ∧ T.used = true ∧ T.migs = true ∧ T.heldBy = true ∧ T.chans = true ∧ T.links = true ∧ T.cxl = true ∧ T.boot = true ∧ T.rcv = true ∧ T.flights = true := by simp [*]) :
    OutKeeps T s0 (scalar op t w s f) := by
  unfold scalar
  try dsimp only
  repeat' first | (with_reducible assumption) | (simp +contextual (maxDischargeDepth := 60) only [issued_keeps, setSreg_keeps, ht, and_self]; done) | split | (with_reducible apply keeps_foldl) | (with_reducible apply keeps_foldl_fst) | (with_reducible apply keeps_foldl_snd) | (with_reducible apply keeps_foldl_snd2) | (intro _ _ _) | (intro _ _) | with_reducible apply instr_keeps | with_reducible apply issued_keeps | with_reducible apply setSreg_keeps | with_reducible apply keeps_ite | with_reducible apply outKeeps_ite | with_reducible apply atUnit_keeps | dsimp only
theorem execSadd_keeps {T : Touch} {s0 : State} (t : ℕ) (w : Word) (s : State) (hk : Keeps T s0 s) (ht : T.freeCtr = true ∧ T.regs = true ∧ T.tillers = true ∧ T.stackMap = true ∧ T.deeps = true ∧ T.objs = true ∧ T.grans = true ∧ T.shareGroups = true ∧ T.used = true ∧ T.migs = true ∧ T.heldBy = true ∧ T.chans = true ∧ T.links = true ∧ T.cxl = true ∧ T.boot = true ∧ T.rcv = true ∧ T.flights = true := by simp [*]) :
    OutKeeps T s0 (execSadd t w s) := by
  unfold execSadd
  simp +contextual (maxDischargeDepth := 60) only [hk, scalar_keeps, ht, and_self]
theorem execSsub_keeps {T : Touch} {s0 : State} (t : ℕ) (w : Word) (s : State) (hk : Keeps T s0 s) (ht : T.freeCtr = true ∧ T.regs = true ∧ T.tillers = true ∧ T.stackMap = true ∧ T.deeps = true ∧ T.objs = true ∧ T.grans = true ∧ T.shareGroups = true ∧ T.used = true ∧ T.migs = true ∧ T.heldBy = true ∧ T.chans = true ∧ T.links = true ∧ T.cxl = true ∧ T.boot = true ∧ T.rcv = true ∧ T.flights = true := by simp [*]) :
    OutKeeps T s0 (execSsub t w s) := by
  unfold execSsub
  simp +contextual (maxDischargeDepth := 60) only [hk, scalar_keeps, ht, and_self]
theorem execSmul_keeps {T : Touch} {s0 : State} (t : ℕ) (w : Word) (s : State) (hk : Keeps T s0 s) (ht : T.freeCtr = true ∧ T.regs = true ∧ T.tillers = true ∧ T.stackMap = true ∧ T.deeps = true ∧ T.objs = true ∧ T.grans = true ∧ T.shareGroups = true ∧ T.used = true ∧ T.migs = true ∧ T.heldBy = true ∧ T.chans = true ∧ T.links = true ∧ T.cxl = true ∧ T.boot = true ∧ T.rcv = true ∧ T.flights = true := by simp [*]) :
    OutKeeps T s0 (execSmul t w s) := by
  unfold execSmul
  simp +contextual (maxDischargeDepth := 60) only [hk, scalar_keeps, ht, and_self]
theorem execSand_keeps {T : Touch} {s0 : State} (t : ℕ) (w : Word) (s : State) (hk : Keeps T s0 s) (ht : T.freeCtr = true ∧ T.regs = true ∧ T.tillers = true ∧ T.stackMap = true ∧ T.deeps = true ∧ T.objs = true ∧ T.grans = true ∧ T.shareGroups = true ∧ T.used = true ∧ T.migs = true ∧ T.heldBy = true ∧ T.chans = true ∧ T.links = true ∧ T.cxl = true ∧ T.boot = true ∧ T.rcv = true ∧ T.flights = true := by simp [*]) :
    OutKeeps T s0 (execSand t w s) := by
  unfold execSand
  simp +contextual (maxDischargeDepth := 60) only [hk, scalar_keeps, ht, and_self]
theorem execSor_keeps {T : Touch} {s0 : State} (t : ℕ) (w : Word) (s : State) (hk : Keeps T s0 s) (ht : T.freeCtr = true ∧ T.regs = true ∧ T.tillers = true ∧ T.stackMap = true ∧ T.deeps = true ∧ T.objs = true ∧ T.grans = true ∧ T.shareGroups = true ∧ T.used = true ∧ T.migs = true ∧ T.heldBy = true ∧ T.chans = true ∧ T.links = true ∧ T.cxl = true ∧ T.boot = true ∧ T.rcv = true ∧ T.flights = true := by simp [*]) :
    OutKeeps T s0 (execSor t w s) := by
  unfold execSor
  simp +contextual (maxDischargeDepth := 60) only [hk, scalar_keeps, ht, and_self]
theorem execSxor_keeps {T : Touch} {s0 : State} (t : ℕ) (w : Word) (s : State) (hk : Keeps T s0 s) (ht : T.freeCtr = true ∧ T.regs = true ∧ T.tillers = true ∧ T.stackMap = true ∧ T.deeps = true ∧ T.objs = true ∧ T.grans = true ∧ T.shareGroups = true ∧ T.used = true ∧ T.migs = true ∧ T.heldBy = true ∧ T.chans = true ∧ T.links = true ∧ T.cxl = true ∧ T.boot = true ∧ T.rcv = true ∧ T.flights = true := by simp [*]) :
    OutKeeps T s0 (execSxor t w s) := by
  unfold execSxor
  simp +contextual (maxDischargeDepth := 60) only [hk, scalar_keeps, ht, and_self]
theorem execSshl_keeps {T : Touch} {s0 : State} (t : ℕ) (w : Word) (s : State) (hk : Keeps T s0 s) (ht : T.freeCtr = true ∧ T.regs = true ∧ T.tillers = true ∧ T.stackMap = true ∧ T.deeps = true ∧ T.objs = true ∧ T.grans = true ∧ T.shareGroups = true ∧ T.used = true ∧ T.migs = true ∧ T.heldBy = true ∧ T.chans = true ∧ T.links = true ∧ T.cxl = true ∧ T.boot = true ∧ T.rcv = true ∧ T.flights = true := by simp [*]) :
    OutKeeps T s0 (execSshl t w s) := by
  unfold execSshl
  simp +contextual (maxDischargeDepth := 60) only [hk, scalar_keeps, ht, and_self]
theorem execSshr_keeps {T : Touch} {s0 : State} (t : ℕ) (w : Word) (s : State) (hk : Keeps T s0 s) (ht : T.freeCtr = true ∧ T.regs = true ∧ T.tillers = true ∧ T.stackMap = true ∧ T.deeps = true ∧ T.objs = true ∧ T.grans = true ∧ T.shareGroups = true ∧ T.used = true ∧ T.migs = true ∧ T.heldBy = true ∧ T.chans = true ∧ T.links = true ∧ T.cxl = true ∧ T.boot = true ∧ T.rcv = true ∧ T.flights = true := by simp [*]) :
    OutKeeps T s0 (execSshr t w s) := by
  unfold execSshr
  simp +contextual (maxDischargeDepth := 60) only [hk, scalar_keeps, ht, and_self]
theorem execSlih_keeps {T : Touch} {s0 : State} (t : ℕ) (w : Word) (s : State) (hk : Keeps T s0 s) (ht : T.freeCtr = true ∧ T.regs = true ∧ T.tillers = true ∧ T.stackMap = true ∧ T.deeps = true ∧ T.objs = true ∧ T.grans = true ∧ T.shareGroups = true ∧ T.used = true ∧ T.migs = true ∧ T.heldBy = true ∧ T.chans = true ∧ T.links = true ∧ T.cxl = true ∧ T.boot = true ∧ T.rcv = true ∧ T.flights = true := by simp [*]) :
    OutKeeps T s0 (execSlih t w s) := by
  unfold execSlih
  simp +contextual (maxDischargeDepth := 60) only [hk, scalar_keeps, ht, and_self]
theorem execSfadd_keeps {T : Touch} {s0 : State} (t : ℕ) (w : Word) (s : State) (hk : Keeps T s0 s) (ht : T.freeCtr = true ∧ T.regs = true ∧ T.tillers = true ∧ T.stackMap = true ∧ T.deeps = true ∧ T.objs = true ∧ T.grans = true ∧ T.shareGroups = true ∧ T.used = true ∧ T.migs = true ∧ T.heldBy = true ∧ T.chans = true ∧ T.links = true ∧ T.cxl = true ∧ T.boot = true ∧ T.rcv = true ∧ T.flights = true := by simp [*]) :
    OutKeeps T s0 (execSfadd t w s) := by
  unfold execSfadd
  simp +contextual (maxDischargeDepth := 60) only [hk, scalar_keeps, ht, and_self]
theorem execSfmul_keeps {T : Touch} {s0 : State} (t : ℕ) (w : Word) (s : State) (hk : Keeps T s0 s) (ht : T.freeCtr = true ∧ T.regs = true ∧ T.tillers = true ∧ T.stackMap = true ∧ T.deeps = true ∧ T.objs = true ∧ T.grans = true ∧ T.shareGroups = true ∧ T.used = true ∧ T.migs = true ∧ T.heldBy = true ∧ T.chans = true ∧ T.links = true ∧ T.cxl = true ∧ T.boot = true ∧ T.rcv = true ∧ T.flights = true := by simp [*]) :
    OutKeeps T s0 (execSfmul t w s) := by
  unfold execSfmul
  simp +contextual (maxDischargeDepth := 60) only [hk, scalar_keeps, ht, and_self]
theorem execSfma_keeps {T : Touch} {s0 : State} (t : ℕ) (w : Word) (s : State) (hk : Keeps T s0 s) (ht : T.freeCtr = true ∧ T.regs = true ∧ T.tillers = true ∧ T.stackMap = true ∧ T.deeps = true ∧ T.objs = true ∧ T.grans = true ∧ T.shareGroups = true ∧ T.used = true ∧ T.migs = true ∧ T.heldBy = true ∧ T.chans = true ∧ T.links = true ∧ T.cxl = true ∧ T.boot = true ∧ T.rcv = true ∧ T.flights = true := by simp [*]) :
    OutKeeps T s0 (execSfma t w s) := by
  unfold execSfma
  simp +contextual (maxDischargeDepth := 60) only [hk, scalar_keeps, ht, and_self]
theorem execScvtf_keeps {T : Touch} {s0 : State} (t : ℕ) (w : Word) (s : State) (hk : Keeps T s0 s) (ht : T.freeCtr = true ∧ T.regs = true ∧ T.tillers = true ∧ T.stackMap = true ∧ T.deeps = true ∧ T.objs = true ∧ T.grans = true ∧ T.shareGroups = true ∧ T.used = true ∧ T.migs = true ∧ T.heldBy = true ∧ T.chans = true ∧ T.links = true ∧ T.cxl = true ∧ T.boot = true ∧ T.rcv = true ∧ T.flights = true := by simp [*]) :
    OutKeeps T s0 (execScvtf t w s) := by
  unfold execScvtf
  simp +contextual (maxDischargeDepth := 60) only [hk, scalar_keeps, ht, and_self]
theorem execScvti_keeps {T : Touch} {s0 : State} (t : ℕ) (w : Word) (s : State) (hk : Keeps T s0 s) (ht : T.freeCtr = true ∧ T.regs = true ∧ T.tillers = true ∧ T.stackMap = true ∧ T.deeps = true ∧ T.objs = true ∧ T.grans = true ∧ T.shareGroups = true ∧ T.used = true ∧ T.migs = true ∧ T.heldBy = true ∧ T.chans = true ∧ T.links = true ∧ T.cxl = true ∧ T.boot = true ∧ T.rcv = true ∧ T.flights = true := by simp [*]) :
    OutKeeps T s0 (execScvti t w s) := by
  unfold execScvti
  simp +contextual (maxDischargeDepth := 60) only [hk, scalar_keeps, ht, and_self]
theorem execSld_keeps {T : Touch} {s0 : State} (t : ℕ) (w : Word) (s : State) (hk : Keeps T s0 s) (ht : T.freeCtr = true ∧ T.regs = true ∧ T.tillers = true ∧ T.stackMap = true ∧ T.deeps = true ∧ T.objs = true ∧ T.grans = true ∧ T.shareGroups = true ∧ T.used = true ∧ T.migs = true ∧ T.heldBy = true ∧ T.chans = true ∧ T.links = true ∧ T.cxl = true ∧ T.boot = true ∧ T.rcv = true ∧ T.flights = true := by simp [*]) :
    OutKeeps T s0 (execSld t w s) := by
  unfold execSld
  try dsimp only
  repeat' first | (with_reducible assumption) | (simp +contextual (maxDischargeDepth := 60) only [ht, and_self]; done) | split | (with_reducible apply keeps_foldl) | (with_reducible apply keeps_foldl_fst) | (with_reducible apply keeps_foldl_snd) | (with_reducible apply keeps_foldl_snd2) | (intro _ _ _) | (intro _ _) | with_reducible apply instr_keeps | with_reducible apply faultAt_keeps | with_reducible apply waitAt_keeps | with_reducible apply tsRead_keeps | with_reducible apply issued_keeps | with_reducible apply setSreg_keeps | with_reducible apply keeps_ite | with_reducible apply outKeeps_ite | with_reducible apply atUnit_keeps | dsimp only
theorem execSst_keeps {T : Touch} {s0 : State} (t : ℕ) (w : Word) (s : State) (hk : Keeps T s0 s) (ht : T.freeCtr = true ∧ T.regs = true ∧ T.tillers = true ∧ T.stackMap = true ∧ T.deeps = true ∧ T.objs = true ∧ T.grans = true ∧ T.shareGroups = true ∧ T.used = true ∧ T.migs = true ∧ T.heldBy = true ∧ T.chans = true ∧ T.links = true ∧ T.cxl = true ∧ T.boot = true ∧ T.rcv = true ∧ T.flights = true := by simp [*]) :
    OutKeeps T s0 (execSst t w s) := by
  unfold execSst
  try dsimp only
  repeat' first | (with_reducible assumption) | (simp +contextual (maxDischargeDepth := 60) only [ht, and_self]; done) | split | (with_reducible apply keeps_foldl) | (with_reducible apply keeps_foldl_fst) | (with_reducible apply keeps_foldl_snd) | (with_reducible apply keeps_foldl_snd2) | (intro _ _ _) | (intro _ _) | with_reducible apply instr_keeps | with_reducible apply faultAt_keeps | with_reducible apply waitAt_keeps | with_reducible apply issued_keeps | with_reducible apply tsWrite_keeps | with_reducible apply keeps_ite | with_reducible apply outKeeps_ite | with_reducible apply atUnit_keeps | dsimp only
theorem execBr_keeps {T : Touch} {s0 : State} (t : ℕ) (w : Word) (s : State) (hk : Keeps T s0 s) (ht : T.freeCtr = true ∧ T.regs = true ∧ T.tillers = true ∧ T.stackMap = true ∧ T.deeps = true ∧ T.objs = true ∧ T.grans = true ∧ T.shareGroups = true ∧ T.used = true ∧ T.migs = true ∧ T.heldBy = true ∧ T.chans = true ∧ T.links = true ∧ T.cxl = true ∧ T.boot = true ∧ T.rcv = true ∧ T.flights = true := by simp [*]) :
    OutKeeps T s0 (execBr t w s) := by
  unfold execBr
  try dsimp only
  repeat' first | (with_reducible assumption) | (simp +contextual (maxDischargeDepth := 60) only [faultAt_keeps, ht, and_self]; done) | split | (with_reducible apply keeps_foldl) | (with_reducible apply keeps_foldl_fst) | (with_reducible apply keeps_foldl_snd) | (with_reducible apply keeps_foldl_snd2) | (intro _ _ _) | (intro _ _) | with_reducible apply instr_keeps | with_reducible apply faultAt_keeps | with_reducible apply gotoPc_keeps | with_reducible apply cntInc_keeps | with_reducible apply issued_keeps | with_reducible apply keeps_ite | with_reducible apply outKeeps_ite | with_reducible apply atUnit_keeps | dsimp only
theorem execSeqNop_keeps {T : Touch} {s0 : State} (t : ℕ) (w : Word) (s : State) (hk : Keeps T s0 s) (ht : T.freeCtr = true ∧ T.regs = true ∧ T.tillers = true ∧ T.stackMap = true ∧ T.deeps = true ∧ T.objs = true ∧ T.grans = true ∧ T.shareGroups = true ∧ T.used = true ∧ T.migs = true ∧ T.heldBy = true ∧ T.chans = true ∧ T.links = true ∧ T.cxl = true ∧ T.boot = true ∧ T.rcv = true ∧ T.flights = true := by simp [*]) :
    OutKeeps T s0 (execSeqNop t w s) := by
  unfold execSeqNop
  try dsimp only
  repeat' first | (with_reducible assumption) | (simp +contextual (maxDischargeDepth := 60) only [issued_keeps, ht, and_self]; done) | split | (with_reducible apply keeps_foldl) | (with_reducible apply keeps_foldl_fst) | (with_reducible apply keeps_foldl_snd) | (with_reducible apply keeps_foldl_snd2) | (intro _ _ _) | (intro _ _) | with_reducible apply instr_keeps | with_reducible apply issued_keeps | with_reducible apply keeps_ite | with_reducible apply outKeeps_ite | with_reducible apply atUnit_keeps | dsimp only
theorem execWaitv_keeps {T : Touch} {s0 : State} (t : ℕ) (w : Word) (s : State) (hk : Keeps T s0 s) (ht : T.freeCtr = true ∧ T.regs = true ∧ T.tillers = true ∧ T.stackMap = true ∧ T.deeps = true ∧ T.objs = true ∧ T.grans = true ∧ T.shareGroups = true ∧ T.used = true ∧ T.migs = true ∧ T.heldBy = true ∧ T.chans = true ∧ T.links = true ∧ T.cxl = true ∧ T.boot = true ∧ T.rcv = true ∧ T.flights = true := by simp [*]) :
    OutKeeps T s0 (execWaitv t w s) := by
  unfold execWaitv
  try dsimp only
  repeat' first | (with_reducible assumption) | (simp +contextual (maxDischargeDepth := 60) only [ht, and_self]; done) | split | (with_reducible apply keeps_foldl) | (with_reducible apply keeps_foldl_fst) | (with_reducible apply keeps_foldl_snd) | (with_reducible apply keeps_foldl_snd2) | (intro _ _ _) | (intro _ _) | with_reducible apply instr_keeps | with_reducible apply issued_keeps | with_reducible apply waitAt_keeps | with_reducible apply keeps_ite | with_reducible apply outKeeps_ite | with_reducible apply atUnit_keeps | dsimp only
theorem forgetVLater_keeps {T : Touch} {s0 : State} (t : ℕ) (s : State) (hk : Keeps T s0 s) (ht : T.freeCtr = true ∧ T.tillers = true := by simp [*]) :
    Keeps T s0 (forgetVLater t s) := by
  unfold forgetVLater
  try dsimp only
  repeat' first | (with_reducible assumption) | (simp +contextual (maxDischargeDepth := 60) only [keeps_freeCtr, hk, modTiller_keeps, ht]; done) | split | (with_reducible refine keeps_freeCtr ?_ (by simp [ht])) | dsimp only
theorem execTileEnd_keeps {T : Touch} {s0 : State} (t : ℕ) (w : Word) (s : State) (hk : Keeps T s0 s) (ht : T.freeCtr = true ∧ T.regs = true ∧ T.tillers = true ∧ T.stackMap = true ∧ T.deeps = true ∧ T.objs = true ∧ T.grans = true ∧ T.shareGroups = true ∧ T.used = true ∧ T.migs = true ∧ T.heldBy = true ∧ T.chans = true ∧ T.links = true ∧ T.cxl = true ∧ T.boot = true ∧ T.rcv = true ∧ T.flights = true := by simp [*]) :
    OutKeeps T s0 (execTileEnd t w s) := by
  unfold execTileEnd
  try dsimp only
  repeat' first | (with_reducible assumption) | (simp +contextual (maxDischargeDepth := 60) only [ht, and_self]; done) | split | (with_reducible apply keeps_foldl) | (with_reducible apply keeps_foldl_fst) | (with_reducible apply keeps_foldl_snd) | (with_reducible apply keeps_foldl_snd2) | (intro _ _ _) | (intro _ _) | with_reducible apply instr_keeps | with_reducible apply issued_keeps | with_reducible apply forgetVLater_keeps | with_reducible apply modTiller_keeps | with_reducible apply keeps_ite | with_reducible apply outKeeps_ite | with_reducible apply atUnit_keeps | dsimp only
theorem setStateField_keeps {T : Touch} {s0 : State} (t : ℕ) (s : State) (hk : Keeps T s0 s) (ht : T.tillers = true := by simp [*]) :
    Keeps T s0 (setStateField t s) := by
  unfold setStateField
  simp +contextual (maxDischargeDepth := 60) only [hk, modTiller_keeps, ht]
theorem execContextSwitch_keeps {T : Touch} {s0 : State} (t : ℕ) (s : State) (hk : Keeps T s0 s) (ht : T.tillers = true := by simp [*]) :
    OutKeeps T s0 (execContextSwitch t s) := by
  unfold execContextSwitch
  try dsimp only
  repeat' first | (with_reducible assumption) | (simp +contextual (maxDischargeDepth := 60) only [setStateField_keeps, modTiller_keeps, ht]; done) | split | (with_reducible apply keeps_foldl) | (with_reducible apply keeps_foldl_fst) | (with_reducible apply keeps_foldl_snd) | (with_reducible apply keeps_foldl_snd2) | (intro _ _ _) | (intro _ _) | with_reducible apply onlyIf_keeps | with_reducible apply setStateField_keeps | with_reducible apply modTiller_keeps | with_reducible apply keeps_ite | with_reducible apply outKeeps_ite | with_reducible apply atUnit_keeps | dsimp only
theorem sendEnd_keeps {T : Touch} {s0 : State} (t : ℕ) (g : Cfg) (s : State) (hk : Keeps T s0 s) (ht : T.chans = true ∧ T.flights = true := by simp [*]) :
    Keeps T s0 (sendEnd t g s) := by
  unfold sendEnd
  try dsimp only
  repeat' first | (with_reducible assumption) | (simp +contextual (maxDischargeDepth := 60) only [ht]; done) | split | (with_reducible apply keeps_foldl) | (with_reducible apply keeps_foldl_fst) | (with_reducible apply keeps_foldl_snd) | (with_reducible apply keeps_foldl_snd2) | (intro _ _ _) | (intro _ _) | with_reducible apply modChan_keeps | with_reducible apply keeps_ite | with_reducible apply outKeeps_ite | with_reducible apply atUnit_keeps | (with_reducible refine keeps_flights _ ?_ (by simp [ht])) | dsimp only
theorem loadDeferred_keeps {T : Touch} {s0 : State} (t : ℕ) (c : ℕ) (s : State) (hk : Keeps T s0 s) (ht : T.tillers = true := by simp [*]) :
    Keeps T s0 (loadDeferred t c s) := by
  unfold loadDeferred
  try dsimp only
  repeat' first | (with_reducible assumption) | (simp +contextual (maxDischargeDepth := 60) only [hk, modTiller_keeps, ht]; done) | split | dsimp only
theorem deferEnter_keeps {T : Touch} {s0 : State} (c : ℕ) (s : State) (hk : Keeps T s0 s) (ht : T.tillers = true ∧ T.chans = true := by simp [*]) :
    Keeps T s0 (deferEnter c s) := by
  unfold deferEnter
  try dsimp only
  repeat' first | (with_reducible assumption) | (simp +contextual (maxDischargeDepth := 60) only [hk, modTrn_keeps, ht]; done) | split | (with_reducible apply keeps_foldl) | (with_reducible apply keeps_foldl_fst) | (with_reducible apply keeps_foldl_snd) | (with_reducible apply keeps_foldl_snd2) | (intro _ _ _) | (intro _ _) | with_reducible apply modTrn_keeps | with_reducible apply setStateField_keeps | with_reducible apply loadDeferred_keeps | with_reducible apply keeps_ite | with_reducible apply outKeeps_ite | with_reducible apply atUnit_keeps | dsimp only
theorem deferredEnd_keeps {T : Touch} {s0 : State} (t : ℕ) (c : ℕ) (s : State) (hk : Keeps T s0 s) (ht : T.regs = true ∧ T.tillers = true ∧ T.chans = true ∧ T.cxl = true := by simp [*]) :
    Keeps T s0 (deferredEnd t c s) := by
  unfold deferredEnd
  try dsimp only
  repeat' first | (with_reducible assumption) | (simp +contextual (maxDischargeDepth := 60) only [hk, modTrn_keeps, cntInc_keeps, setStateField_keeps, loadDeferred_keeps, modTiller_keeps, deferEnter_keeps, ht, and_self]; done) | split | dsimp only
theorem execStageEnd_keeps {T : Touch} {s0 : State} (t : ℕ) (w : Word) (s : State) (hk : Keeps T s0 s) (ht : T.regs = true ∧ T.tillers = true ∧ T.stackMap = true ∧ T.deeps = true ∧ T.objs = true ∧ T.grans = true ∧ T.shareGroups = true ∧ T.used = true ∧ T.migs = true ∧ T.heldBy = true ∧ T.chans = true ∧ T.links = true ∧ T.cxl = true ∧ T.boot = true ∧ T.rcv = true ∧ T.flights = true := by simp [*]) :
    OutKeeps T s0 (execStageEnd t w s) := by
  unfold execStageEnd
  try dsimp only
  repeat' first | (with_reducible assumption) | (simp +contextual (maxDischargeDepth := 60) only [ht, and_self]; done) | split | (with_reducible apply keeps_foldl) | (with_reducible apply keeps_foldl_fst) | (with_reducible apply keeps_foldl_snd) | (with_reducible apply keeps_foldl_snd2) | (intro _ _ _) | (intro _ _) | with_reducible apply instr_keeps | with_reducible apply waitAt_keeps | with_reducible apply faultAt_keeps | with_reducible apply cntInc_keeps | with_reducible apply modCtx_keeps | with_reducible apply sendEnd_keeps | with_reducible apply deferredEnd_keeps | with_reducible apply setStateField_keeps | with_reducible apply keeps_ite | with_reducible apply outKeeps_ite | with_reducible apply atUnit_keeps | dsimp only
theorem execIllegalOp_keeps {T : Touch} {s0 : State} (t : ℕ) (w : Word) (s : State) (hk : Keeps T s0 s) (ht : T.regs = true ∧ T.tillers = true ∧ T.stackMap = true ∧ T.deeps = true ∧ T.objs = true ∧ T.grans = true ∧ T.shareGroups = true ∧ T.used = true ∧ T.migs = true ∧ T.heldBy = true ∧ T.chans = true ∧ T.links = true ∧ T.cxl = true ∧ T.boot = true ∧ T.rcv = true ∧ T.flights = true := by simp [*]) :
    OutKeeps T s0 (execIllegalOp t w s) := by
  unfold execIllegalOp
  try dsimp only
  repeat' first | (with_reducible assumption) | (simp +contextual (maxDischargeDepth := 60) only [faultAt_keeps, ht, and_self]; done) | split | (with_reducible apply keeps_foldl) | (with_reducible apply keeps_foldl_fst) | (with_reducible apply keeps_foldl_snd) | (with_reducible apply keeps_foldl_snd2) | (intro _ _ _) | (intro _ _) | with_reducible apply onlyIf_keeps | with_reducible apply faultAt_keeps | with_reducible apply keeps_ite | with_reducible apply outKeeps_ite | with_reducible apply atUnit_keeps | dsimp only

end Sys2Proof.Machine
end

