-- ==== Sys2Proof/Laws/Keeps/Array.lean ====
section
/-! SUPPORT. What each operation of Machine/Array.lean keeps. -/

namespace Sys2Proof.Machine

open Sys2Proof

set_option Elab.async false
set_option linter.unusedTactic false
set_option linter.unreachableTactic false

theorem arrFault_keeps {T : Touch} {s0 : State} (t : ℕ) (s : State) (hk : Keeps T s0 s) (ht : T.regs = true ∧ T.tillers = true ∧ T.stackMap = true ∧ T.deeps = true ∧ T.objs = true ∧ T.grans = true ∧ T.shareGroups = true ∧ T.used = true ∧ T.migs = true ∧ T.heldBy = true ∧ T.chans = true ∧ T.links = true ∧ T.cxl = true ∧ T.boot = true ∧ T.rcv = true ∧ T.flights = true := by simp [*]) :
    Keeps T s0 (arrFault t s) := by
  unfold arrFault
  simp +contextual (maxDischargeDepth := 60) only [hk, setEv_keeps, logRec_keeps, stageStop_keeps, ht, and_self]
theorem execArr_keeps {T : Touch} {s0 : State} (t : ℕ) (w : Word) (s : State) (hk : Keeps T s0 s) (ht : T.freeCtr = true ∧ T.regs = true ∧ T.tillers = true ∧ T.stackMap = true ∧ T.deeps = true ∧ T.objs = true ∧ T.grans = true ∧ T.shareGroups = true ∧ T.used = true ∧ T.migs = true ∧ T.heldBy = true ∧ T.chans = true ∧ T.links = true ∧ T.cxl = true ∧ T.boot = true ∧ T.rcv = true ∧ T.flights = true := by simp [*]) :
    OutKeeps T s0 (execArr t w s) := by
  unfold execArr
  try dsimp only
  repeat' first | (with_reducible assumption) | (simp +contextual (maxDischargeDepth := 60) only [ht, and_self]; done) | split | (with_reducible apply keeps_foldl) | (with_reducible apply keeps_foldl_fst) | (with_reducible apply keeps_foldl_snd) | (with_reducible apply keeps_foldl_snd2) | (intro _ _ _) | (intro _ _) | with_reducible apply instr_keeps | with_reducible apply waitAt_keeps | with_reducible apply arrFault_keeps | with_reducible apply wr_keeps | with_reducible apply issued_keeps | with_reducible apply modTiller_keeps | with_reducible apply keeps_ite | with_reducible apply outKeeps_ite | with_reducible apply atUnit_keeps | dsimp only
theorem execWaita_keeps {T : Touch} {s0 : State} (t : ℕ) (w : Word) (s : State) (hk : Keeps T s0 s) (ht : T.freeCtr = true ∧ T.regs = true ∧ T.tillers = true ∧ T.stackMap = true ∧ T.deeps = true ∧ T.objs = true ∧ T.grans = true ∧ T.shareGroups = true ∧ T.used = true ∧ T.migs = true ∧ T.heldBy = true ∧ T.chans = true ∧ T.links = true ∧ T.cxl = true ∧ T.boot = true ∧ T.rcv = true ∧ T.flights = true := by simp [*]) :
    OutKeeps T s0 (execWaita t w s) := by
  unfold execWaita
  try dsimp only
  repeat' first | (with_reducible assumption) | (simp +contextual (maxDischargeDepth := 60) only [ht, and_self]; done) | split | (with_reducible apply keeps_foldl) | (with_reducible apply keeps_foldl_fst) | (with_reducible apply keeps_foldl_snd) | (with_reducible apply keeps_foldl_snd2) | (intro _ _ _) | (intro _ _) | with_reducible apply instr_keeps | with_reducible apply issued_keeps | with_reducible apply modTiller_keeps | with_reducible apply waitAt_keeps | with_reducible apply keeps_ite | with_reducible apply outKeeps_ite | with_reducible apply atUnit_keeps | dsimp only
theorem loadStat_keeps {T : Touch} {s0 : State} (t : ℕ) (d : StageDesc) (form : ℕ) (c : ArrCmd) (s : State) (hk : Keeps T s0 s) (ht : T.freeCtr = true := by simp [*]) :
    Keeps T s0 (loadStat t d form c s).2 := by
  unfold loadStat
  try dsimp only
  repeat' first | (with_reducible assumption) | (simp +contextual (maxDischargeDepth := 60) only [tsRead_keeps, ht]; done) | split | (with_reducible apply keeps_foldl) | (with_reducible apply keeps_foldl_fst) | (with_reducible apply keeps_foldl_snd) | (with_reducible apply keeps_foldl_snd2) | (intro _ _ _) | (intro _ _) | with_reducible apply tsRead_keeps | with_reducible apply keeps_ite | with_reducible apply outKeeps_ite | with_reducible apply atUnit_keeps | dsimp only
theorem loadRows_keeps {T : Touch} {s0 : State} (t : ℕ) (d : StageDesc) (form : ℕ) (c : ArrCmd) (i : ℕ) (h : ℕ) (s : State) (hk : Keeps T s0 s) (ht : T.freeCtr = true := by simp [*]) :
    Keeps T s0 (loadRows t d form c i h s).2.2 := by
  unfold loadRows
  try dsimp only
  repeat' first | (with_reducible assumption) | (simp +contextual (maxDischargeDepth := 60) only [tsRead_keeps, ht]; done) | split | (with_reducible apply keeps_foldl) | (with_reducible apply keeps_foldl_fst) | (with_reducible apply keeps_foldl_snd) | (with_reducible apply keeps_foldl_snd2) | (intro _ _ _) | (intro _ _) | with_reducible apply tsRead_keeps | with_reducible apply keeps_ite | with_reducible apply outKeeps_ite | with_reducible apply atUnit_keeps | dsimp only
theorem passData_keeps {T : Touch} {s0 : State} (t : ℕ) (d : StageDesc) (form : ℕ) (c : ArrCmd) (x : Stationary) (i : ℕ) (h : ℕ) (s : State) (hk : Keeps T s0 s) (ht : T.freeCtr = true := by simp [*]) :
    Keeps T s0 (passData t d form c x i h s).2 := by
  unfold passData
  try dsimp only
  repeat' first | (with_reducible assumption) | (simp +contextual (maxDischargeDepth := 60) only [hk, loadRows_keeps, tsRead_keeps, ht]; done) | split | dsimp only
theorem ftqClaim_keeps {T : Touch} {s0 : State} (t : ℕ) (s : State) (hk : Keeps T s0 s) (ht : T.tillers = true := by simp [*]) :
    Keeps T s0 (ftqClaim t s) := by
  unfold ftqClaim
  simp +contextual (maxDischargeDepth := 60) only [hk, modTiller_keeps, ht]
theorem ftqPush_keeps {T : Touch} {s0 : State} (t : ℕ) (h : ℕ) (data : List F32) (s : State) (hk : Keeps T s0 s) (ht : T.tillers = true := by simp [*]) :
    Keeps T s0 (ftqPush t h data s) := by
  unfold ftqPush
  simp +contextual (maxDischargeDepth := 60) only [hk, modTiller_keeps, ftqClaim_keeps, ht]
theorem modArr_keeps {T : Touch} {s0 : State} (t : ℕ) (f : ArrayUnit → ArrayUnit) (s : State) (hk : Keeps T s0 s) (ht : T.tillers = true := by simp [*]) :
    Keeps T s0 (modArr t f s) := by
  unfold modArr
  simp +contextual (maxDischargeDepth := 60) only [hk, modTiller_keeps, ht]
theorem endPass_keeps {T : Touch} {s0 : State} (t : ℕ) (s : State) (hk : Keeps T s0 s) (ht : T.regs = true ∧ T.tillers = true ∧ T.chans = true ∧ T.cxl = true := by simp [*]) :
    Keeps T s0 (endPass t s) := by
  unfold endPass
  simp +contextual (maxDischargeDepth := 60) only [hk, cntInc_keeps, modArr_keeps, ht, and_self]
theorem passBlock_keeps {T : Touch} {s0 : State} (t : ℕ) (c : ArrCmd) (x : Stationary) (i : ℕ) (s : State) (hk : Keeps T s0 s) (ht : T.freeCtr = true ∧ T.regs = true ∧ T.tillers = true ∧ T.chans = true ∧ T.cxl = true := by simp [*]) :
    Keeps T s0 (passBlock t c x i s) := by
  unfold passBlock
  extract_lets u p d form g m h final init width cols pd t0 acc0 sums t1 t2 t3 t4 t5 t6 t7
  have h1 : Keeps T s0 t1 := cntAdd_keeps _ _ _ _ (passData_keeps _ _ _ _ _ _ _ _ hk)
  clear_value t1
  have h2 : Keeps T s0 t2 := keeps_ite (fun _ => setEv_keeps _ _ _ _ h1) (fun _ => h1)
  clear_value t2
  have h3 : Keeps T s0 t3 := keeps_ite (fun _ => arrayFlags_keeps _ _ _ _ h2) (fun _ => h2)
  clear_value t3
  have h4 : Keeps T s0 t4 := modArr_keeps _ _ _ h3
  clear_value t4
  have h5 : Keeps T s0 t5 := ftqPush_keeps _ _ _ _ h3
  clear_value t5
  have h6 : Keeps T s0 t6 := by
    unfold t6
    refine keeps_ite (fun _ => keeps_ite (fun _ => ftqClaim_keeps _ _ (modArr_keeps _ _ _ h4)) (fun _ => h4)) (fun _ => ?_)
    refine keeps_ite (fun _ => keeps_ite (fun _ => ftqClaim_keeps _ _ h5) (fun _ => h5)) (fun _ => ?_)
    exact keeps_foldl (fun u r hu => tsWrite_keeps _ _ _ _ hu) h3
  exact keeps_ite (fun _ => modArr_keeps _ _ _ h6) (fun _ => endPass_keeps _ _ h6)
theorem execArrayPass_keeps {T : Touch} {s0 : State} (t : ℕ) (s : State) (hk : Keeps T s0 s) (ht : T.freeCtr = true ∧ T.regs = true ∧ T.tillers = true ∧ T.chans = true ∧ T.cxl = true := by simp [*]) :
    OutKeeps T s0 (execArrayPass t s) := by
  unfold execArrayPass
  refine atUnit_keeps ?_
  extract_lets u
  split
  · exact hk
  · rw [outKeeps_next]
    split
    · exact hk
    · extract_lets p own kp t1 r t2
      have h1 : Keeps T s0 t1 := modArr_keeps _ _ _ hk
      clear_value t1
      have hr : Keeps T s0 r.2 := loadStat_keeps _ _ _ _ _ h1
      clear_value r
      have h2 : Keeps T s0 t2 := cntAdd_keeps _ _ _ _ (modArr_keeps _ _ _ hr)
      clear_value t2
      split
      · exact modArr_keeps _ _ _ hk
      · split
        · exact modArr_keeps _ _ _ hk
        · split
          · exact passBlock_keeps _ _ _ _ _ h1
          · exact passBlock_keeps _ _ _ _ _ h2
theorem execArraySync_keeps {T : Touch} {s0 : State} (t : ℕ) (s : State) (hk : Keeps T s0 s) (ht : T.tillers = true := by simp [*]) :
    OutKeeps T s0 (execArraySync t s) := by
  unfold execArraySync
  try dsimp only
  repeat' first | (with_reducible assumption) | (simp +contextual (maxDischargeDepth := 60) only [modArr_keeps, ht]; done) | split | (with_reducible apply keeps_foldl) | (with_reducible apply keeps_foldl_fst) | (with_reducible apply keeps_foldl_snd) | (with_reducible apply keeps_foldl_snd2) | (intro _ _ _) | (intro _ _) | with_reducible apply onlyIf_keeps | with_reducible apply modArr_keeps | with_reducible apply keeps_ite | with_reducible apply outKeeps_ite | with_reducible apply atUnit_keeps | dsimp only
theorem execArrayBankFlush_keeps {T : Touch} {s0 : State} (t : ℕ) (s : State) (hk : Keeps T s0 s) (ht : T.tillers = true := by simp [*]) :
    OutKeeps T s0 (execArrayBankFlush t s) := by
  unfold execArrayBankFlush
  try dsimp only
  repeat' first | (with_reducible assumption) | (simp +contextual (maxDischargeDepth := 60) only [atUnit_keeps, outKeeps_next, hk, modArr_keeps, ftqPush_keeps, ftqClaim_keeps, ht]; done) | split | dsimp only
theorem execFtqWait_keeps {T : Touch} {s0 : State} (t : ℕ) (w : Word) (s : State) (hk : Keeps T s0 s) (ht : T.freeCtr = true ∧ T.regs = true ∧ T.tillers = true ∧ T.stackMap = true ∧ T.deeps = true ∧ T.objs = true ∧ T.grans = true ∧ T.shareGroups = true ∧ T.used = true ∧ T.migs = true ∧ T.heldBy = true ∧ T.chans = true ∧ T.links = true ∧ T.cxl = true ∧ T.boot = true ∧ T.rcv = true ∧ T.flights = true := by simp [*]) :
    OutKeeps T s0 (execFtqWait t w s) := by
  unfold execFtqWait
  try dsimp only
  repeat' first | (with_reducible assumption) | (simp +contextual (maxDischargeDepth := 60) only [ht, and_self]; done) | split | (with_reducible apply keeps_foldl) | (with_reducible apply keeps_foldl_fst) | (with_reducible apply keeps_foldl_snd) | (with_reducible apply keeps_foldl_snd2) | (intro _ _ _) | (intro _ _) | with_reducible apply instr_keeps | with_reducible apply waitAt_keeps | with_reducible apply issued_keeps | with_reducible apply setSreg_keeps | with_reducible apply keeps_ite | with_reducible apply outKeeps_ite | with_reducible apply atUnit_keeps | dsimp only
theorem execFtqPop_keeps {T : Touch} {s0 : State} (t : ℕ) (w : Word) (s : State) (hk : Keeps T s0 s) (ht : T.freeCtr = true ∧ T.regs = true ∧ T.tillers = true ∧ T.stackMap = true ∧ T.deeps = true ∧ T.objs = true ∧ T.grans = true ∧ T.shareGroups = true ∧ T.used = true ∧ T.migs = true ∧ T.heldBy = true ∧ T.chans = true ∧ T.links = true ∧ T.cxl = true ∧ T.boot = true ∧ T.rcv = true ∧ T.flights = true := by simp [*]) :
    OutKeeps T s0 (execFtqPop t w s) := by
  unfold execFtqPop
  try dsimp only
  repeat' first | (with_reducible assumption) | (simp +contextual (maxDischargeDepth := 60) only [ht, and_self]; done) | split | (with_reducible apply keeps_foldl) | (with_reducible apply keeps_foldl_fst) | (with_reducible apply keeps_foldl_snd) | (with_reducible apply keeps_foldl_snd2) | (intro _ _ _) | (intro _ _) | with_reducible apply instr_keeps | with_reducible apply waitAt_keeps | with_reducible apply issued_keeps | with_reducible apply modTiller_keeps | with_reducible apply keeps_ite | with_reducible apply outKeeps_ite | with_reducible apply atUnit_keeps | dsimp only

end Sys2Proof.Machine
end

