-- ==== Sys2Proof/Laws/Keeps/Copy.lean ====
section
/-! SUPPORT. What each operation of Machine/Copy.lean keeps. -/

namespace Sys2Proof.Machine

open Sys2Proof

set_option Elab.async false
set_option linter.unusedTactic false
set_option linter.unreachableTactic false

theorem modCopy_keeps {T : Touch} {s0 : State} (n : ℕ) (ch : ℕ) (pos : Option ℕ) (f : Copy → Copy) (s : State) (hk : Keeps T s0 s) (ht : T.cxl = true := by simp [*]) :
    Keeps T s0 (modCopy n ch pos f s) := by
  unfold modCopy
  simp +contextual (maxDischargeDepth := 60) only [hk, modCxl_keeps, ht]
theorem copyFail_keeps {T : Touch} {s0 : State} (n : ℕ) (y : Copy) (status : ℕ) (s : State) (hk : Keeps T s0 s) (ht : T.cxl = true := by simp [*]) :
    Keeps T s0 (copyFail n y status s) := by
  unfold copyFail
  simp +contextual (maxDischargeDepth := 60) only [hk, modCopy_keeps, ht]
theorem streamBlock_keeps {T : Touch} {s0 : State} (edge : ℕ) (data : List Byte) (tag : ℕ) (s : State) (hk : Keeps T s0 s) (ht : T.regs = true ∧ T.chans = true ∧ T.cxl = true := by simp [*]) :
    Keeps T s0 (streamBlock edge data tag s).1 := by
  unfold streamBlock
  try dsimp only
  repeat' first | (with_reducible assumption) | (simp +contextual (maxDischargeDepth := 60) only [hk, cntAdd_keeps, cntInc_keeps, ht, and_self]; done) | split | dsimp only
theorem expandBlock_keeps {T : Touch} {s0 : State} (edge : ℕ) (carry : List Byte) (req : ℕ) (tag : ℕ) (len16 : Option ℕ) (ch : Option ℕ) (s : State) (hk : Keeps T s0 s) (ht : T.regs = true ∧ T.chans = true ∧ T.cxl = true := by simp [*]) :
    Keeps T s0 (expandBlock edge carry req tag len16 ch s).1 := by
  unfold expandBlock
  try dsimp only
  repeat' first | (with_reducible assumption) | (simp +contextual (maxDischargeDepth := 60) only [hk, cntAdd_keeps, huskFail_keeps, ht, and_self]; done) | split | dsimp only
theorem streamIn_keeps {T : Touch} {s0 : State} (carry : List Byte) (req : ℕ) (tag : ℕ) (len16 : ℕ) (ch : ℕ) (s : State) (hk : Keeps T s0 s) (ht : T.regs = true ∧ T.chans = true ∧ T.cxl = true ∧ T.boot = true ∧ T.rcv = true := by simp [*]) :
    Keeps T s0 (streamIn carry req tag len16 ch s).1 := by
  unfold streamIn
  try dsimp only
  repeat' first | (with_reducible assumption) | (simp +contextual (maxDischargeDepth := 60) only [hk, expandBlock_keeps, huskLog_keeps, ht, and_self]; done) | split | dsimp only
theorem copyWrite_keeps {T : Touch} {s0 : State} (n : ℕ) (y : Copy) (addr : ℕ) (bs : List Byte) (s : State) (hk : Keeps T s0 s) (ht : T.regs = true ∧ T.chans = true ∧ T.cxl = true := by simp [*]) :
    Keeps T s0 (copyWrite n y addr bs s) := by
  unfold copyWrite
  simp +contextual (maxDischargeDepth := 60) only [hk, hostWrite_keeps, cntAdd_keeps, modCopy_keeps, ht, and_self]
theorem copyRead_keeps {T : Touch} {s0 : State} (n : ℕ) (y : Copy) (addr : ℕ) (len : ℕ) (s : State) (hk : Keeps T s0 s) (ht : T.cxl = true := by simp [*]) :
    Keeps T s0 (copyRead n y addr len s) := by
  unfold copyRead
  simp +contextual (maxDischargeDepth := 60) only [hk, hostRead_keeps, modCopy_keeps, ht]
theorem stepH2d_keeps {T : Touch} {s0 : State} (n : ℕ) (y : Copy) (s : State) (hk : Keeps T s0 s) (ht : T.regs = true ∧ T.chans = true ∧ T.cxl = true ∧ T.boot = true ∧ T.rcv = true := by simp [*]) :
    Keeps T s0 (stepH2d n y s) := by
  unfold stepH2d
  try dsimp only
  repeat' first | (with_reducible assumption) | (simp +contextual (maxDischargeDepth := 60) only [hk, modCopy_keeps, copyRead_keeps, streamIn_keeps, copyFail_keeps, ht, and_self]; done) | split | dsimp only
theorem stepD2h_keeps {T : Touch} {s0 : State} (n : ℕ) (y : Copy) (s : State) (hk : Keeps T s0 s) (ht : T.regs = true ∧ T.stackMap = true ∧ T.deeps = true ∧ T.poison = true ∧ T.heldBy = true ∧ T.xlat = true ∧ T.chans = true ∧ T.cxl = true ∧ T.boot = true ∧ T.rcv = true := by simp [*]) :
    Keeps T s0 (stepD2h n y s) := by
  unfold stepD2h
  try dsimp only
  repeat' first | (with_reducible assumption) | (simp +contextual (maxDischargeDepth := 60) only [hk, modCopy_keeps, copyWrite_keeps, ht, and_self]; done) | split | (with_reducible apply keeps_foldl) | (with_reducible apply keeps_foldl_fst) | (with_reducible apply keeps_foldl_snd) | (with_reducible apply keeps_foldl_snd2) | (intro _ _ _) | (intro _ _) | with_reducible apply gated_keeps | with_reducible apply objRead_keeps | with_reducible apply copyFail_keeps | with_reducible apply streamBlock_keeps | with_reducible apply modCopy_keeps | with_reducible apply copyWrite_keeps | with_reducible apply keeps_ite | with_reducible apply outKeeps_ite | with_reducible apply atUnit_keeps | dsimp only
theorem putData_keeps {T : Touch} {s0 : State} (n : ℕ) (y : Copy) (bs : List Byte) (s : State) (hk : Keeps T s0 s) (ht : T.regs = true ∧ T.tillers = true ∧ T.stackMap = true ∧ T.deeps = true ∧ T.dram = true ∧ T.poison = true ∧ T.husk = true ∧ T.huskBad = true ∧ T.objs = true ∧ T.grans = true ∧ T.heldBy = true ∧ T.xlat = true ∧ T.chans = true ∧ T.cxl = true ∧ T.boot = true ∧ T.rcv = true ∧ T.notices = true := by simp [*]) :
    Keeps T s0 (putData n y bs s) := by
  unfold putData
  try dsimp only
  repeat' first | (with_reducible assumption) | (simp +contextual (maxDischargeDepth := 60) only [ht, and_self]; done) | split | (with_reducible apply keeps_foldl) | (with_reducible apply keeps_foldl_fst) | (with_reducible apply keeps_foldl_snd) | (with_reducible apply keeps_foldl_snd2) | (intro _ _ _) | (intro _ _) | with_reducible apply gated_keeps | with_reducible apply objWrite_keeps | with_reducible apply copyFail_keeps | with_reducible apply stepH2d_keeps | with_reducible apply modCopy_keeps | with_reducible apply cntAdd_keeps | with_reducible apply keeps_ite | with_reducible apply outKeeps_ite | with_reducible apply atUnit_keeps | dsimp only
theorem copyStep_keeps {T : Touch} {s0 : State} (n : ℕ) (y : Copy) (s : State) (hk : Keeps T s0 s) (ht : T.regs = true ∧ T.tillers = true ∧ T.stackMap = true ∧ T.deeps = true ∧ T.dram = true ∧ T.poison = true ∧ T.husk = true ∧ T.huskBad = true ∧ T.objs = true ∧ T.grans = true ∧ T.heldBy = true ∧ T.xlat = true ∧ T.chans = true ∧ T.cxl = true ∧ T.boot = true ∧ T.rcv = true ∧ T.notices = true := by simp [*]) :
    Keeps T s0 (copyStep n y s) := by
  unfold copyStep
  try dsimp only
  repeat' first | (with_reducible assumption) | (simp +contextual (maxDischargeDepth := 60) only [hk, putData_keeps, stepH2d_keeps, stepD2h_keeps, ht, and_self]; done) | split | dsimp only
theorem copyPump_keeps {T : Touch} {s0 : State} (s : State) (hk : Keeps T s0 s) (ht : T.regs = true ∧ T.tillers = true ∧ T.stackMap = true ∧ T.deeps = true ∧ T.dram = true ∧ T.poison = true ∧ T.husk = true ∧ T.huskBad = true ∧ T.objs = true ∧ T.grans = true ∧ T.heldBy = true ∧ T.xlat = true ∧ T.chans = true ∧ T.cxl = true ∧ T.boot = true ∧ T.rcv = true ∧ T.notices = true := by simp [*]) :
    Keeps T s0 (copyPump s) := by
  unfold copyPump
  try dsimp only
  repeat' first | (with_reducible assumption) | (simp +contextual (maxDischargeDepth := 60) only [copyStep_keeps, ht, and_self]; done) | split | (with_reducible apply keeps_foldl) | (with_reducible apply keeps_foldl_fst) | (with_reducible apply keeps_foldl_snd) | (with_reducible apply keeps_foldl_snd2) | (intro _ _ _) | (intro _ _) | with_reducible apply copyStep_keeps | with_reducible apply keeps_ite | with_reducible apply outKeeps_ite | with_reducible apply atUnit_keeps | dsimp only
theorem copyData_keeps {T : Touch} {s0 : State} (n : ℕ) (pos : ℕ) (data : List Byte) (s : State) (hk : Keeps T s0 s) (ht : T.regs = true ∧ T.tillers = true ∧ T.stackMap = true ∧ T.deeps = true ∧ T.dram = true ∧ T.poison = true ∧ T.husk = true ∧ T.huskBad = true ∧ T.objs = true ∧ T.grans = true ∧ T.heldBy = true ∧ T.xlat = true ∧ T.chans = true ∧ T.cxl = true ∧ T.boot = true ∧ T.rcv = true ∧ T.notices = true := by simp [*]) :
    Keeps T s0 (copyData n pos data s) := by
  unfold copyData
  try dsimp only
  repeat' first | (with_reducible assumption) | (simp +contextual (maxDischargeDepth := 60) only [hk, modCopy_keeps, copyPump_keeps, copyFail_keeps, streamIn_keeps, ht, and_self]; done) | split | dsimp only
theorem copyGo_keeps {T : Touch} {s0 : State} (n : ℕ) (pos : ℕ) (s : State) (hk : Keeps T s0 s) (ht : T.regs = true ∧ T.tillers = true ∧ T.stackMap = true ∧ T.deeps = true ∧ T.dram = true ∧ T.poison = true ∧ T.husk = true ∧ T.huskBad = true ∧ T.objs = true ∧ T.grans = true ∧ T.heldBy = true ∧ T.xlat = true ∧ T.chans = true ∧ T.cxl = true ∧ T.boot = true ∧ T.rcv = true ∧ T.notices = true := by simp [*]) :
    Keeps T s0 (copyGo n pos s) := by
  unfold copyGo
  simp +contextual (maxDischargeDepth := 60) only [hk, copyPump_keeps, modCxl_keeps, ht, and_self]
theorem copyCommand_keeps {T : Touch} {s0 : State} (op : ℕ) (d2h : Bool) (src : CmdSrc) (e : Entry) (s : State) (hk : Keeps T s0 s) (ht : T.regs = true ∧ T.mbxs = true ∧ T.chans = true ∧ T.cxl = true ∧ T.smbOut = true := by simp [*]) :
    OutKeeps T s0 (copyCommand op d2h src e s) := by
  unfold copyCommand
  try dsimp only
  repeat' first | (with_reducible assumption) | (simp +contextual (maxDischargeDepth := 60) only [outKeeps_next, hk, ht, and_self]; done) | split | (with_reducible apply keeps_foldl) | (with_reducible apply keeps_foldl_fst) | (with_reducible apply keeps_foldl_snd) | (with_reducible apply keeps_foldl_snd2) | (intro _ _ _) | (intro _ _) | with_reducible apply serve_keeps | with_reducible apply answer_keeps | with_reducible apply plcFault_keeps | with_reducible apply modCxl_keeps | with_reducible apply keeps_ite | with_reducible apply outKeeps_ite | with_reducible apply atUnit_keeps | dsimp only
theorem execCopyH2d_keeps {T : Touch} {s0 : State} (src : CmdSrc) (e : Entry) (s : State) (hk : Keeps T s0 s) (ht : T.regs = true ∧ T.mbxs = true ∧ T.chans = true ∧ T.cxl = true ∧ T.smbOut = true := by simp [*]) :
    OutKeeps T s0 (execCopyH2d src e s) := by
  unfold execCopyH2d
  simp +contextual (maxDischargeDepth := 60) only [hk, copyCommand_keeps, ht, and_self]
theorem execCopyD2h_keeps {T : Touch} {s0 : State} (src : CmdSrc) (e : Entry) (s : State) (hk : Keeps T s0 s) (ht : T.regs = true ∧ T.mbxs = true ∧ T.chans = true ∧ T.cxl = true ∧ T.smbOut = true := by simp [*]) :
    OutKeeps T s0 (execCopyD2h src e s) := by
  unfold execCopyD2h
  simp +contextual (maxDischargeDepth := 60) only [hk, copyCommand_keeps, ht, and_self]
theorem gradPump_keeps {T : Touch} {s0 : State} (n : ℕ) (s : State) (hk : Keeps T s0 s) (ht : T.regs = true ∧ T.tillers = true ∧ T.stackMap = true ∧ T.deeps = true ∧ T.poison = true ∧ T.objs = true ∧ T.grans = true ∧ T.shareGroups = true ∧ T.used = true ∧ T.migs = true ∧ T.heldBy = true ∧ T.xlat = true ∧ T.chans = true ∧ T.links = true ∧ T.cxl = true ∧ T.boot = true ∧ T.rcv = true ∧ T.flights = true := by simp [*]) :
    Keeps T s0 (gradPump n s) := by
  unfold gradPump
  try dsimp only
  repeat' first | (with_reducible assumption) | (simp +contextual (maxDischargeDepth := 60) only [ht, and_self]; done) | split | (with_reducible apply keeps_foldl) | (with_reducible apply keeps_foldl_fst) | (with_reducible apply keeps_foldl_snd) | (with_reducible apply keeps_foldl_snd2) | (intro _ _ _) | (intro _ _) | with_reducible apply gated_keeps | with_reducible apply objRead_keeps | with_reducible apply abortAttempt_keeps | with_reducible apply hostWrite_keeps | with_reducible apply cntAdd_keeps | with_reducible apply keeps_ite | with_reducible apply outKeeps_ite | with_reducible apply atUnit_keeps | dsimp only
theorem commitPump_keeps {T : Touch} {s0 : State} (s : State) (hk : Keeps T s0 s) (ht : T.cxl = true := by simp [*]) :
    Keeps T s0 (commitPump s) := by
  unfold commitPump
  try dsimp only
  repeat' first | (with_reducible assumption) | (simp +contextual (maxDischargeDepth := 60) only [hk, hostRead_keeps, ht]; done) | split | dsimp only
theorem execCopyEngineStart_keeps {T : Touch} {s0 : State} (n : ℕ) (s : State) (hk : Keeps T s0 s) (ht : T.regs = true ∧ T.tillers = true ∧ T.stackMap = true ∧ T.deeps = true ∧ T.dram = true ∧ T.poison = true ∧ T.husk = true ∧ T.huskBad = true ∧ T.objs = true ∧ T.grans = true ∧ T.shareGroups = true ∧ T.used = true ∧ T.migs = true ∧ T.heldBy = true ∧ T.xlat = true ∧ T.chans = true ∧ T.links = true ∧ T.cxl = true ∧ T.boot = true ∧ T.rcv = true ∧ T.flights = true ∧ T.notices = true := by simp [*]) :
    OutKeeps T s0 (execCopyEngineStart n s) := by
  unfold execCopyEngineStart
  try dsimp only
  repeat' first | (with_reducible assumption) | (simp +contextual (maxDischargeDepth := 60) only [atUnit_keeps, outKeeps_next, hk, commitPump_keeps, gradPump_keeps, copyPump_keeps, modCxl_keeps, ht, and_self]; done) | split | dsimp only
theorem execCopyComplete_keeps {T : Touch} {s0 : State} (n : ℕ) (s : State) (hk : Keeps T s0 s) (ht : T.regs = true ∧ T.chans = true ∧ T.cxl = true := by simp [*]) :
    OutKeeps T s0 (execCopyComplete n s) := by
  unfold execCopyComplete
  try dsimp only
  repeat' first | (with_reducible assumption) | (simp +contextual (maxDischargeDepth := 60) only [atUnit_keeps, outKeeps_next, hk, modCxl_keeps, finishRing_keeps, ht, and_self]; done) | split | dsimp only
theorem execRegionRegister_keeps {T : Touch} {s0 : State} (src : CmdSrc) (e : Entry) (s : State) (hk : Keeps T s0 s) (ht : T.regs = true ∧ T.mbxs = true ∧ T.chans = true ∧ T.cxl = true ∧ T.smbOut = true := by simp [*]) :
    OutKeeps T s0 (execRegionRegister src e s) := by
  unfold execRegionRegister
  try dsimp only
  repeat' first | (with_reducible assumption) | (simp +contextual (maxDischargeDepth := 60) only [answer_keeps, ht, and_self]; done) | split | (with_reducible apply keeps_foldl) | (with_reducible apply keeps_foldl_fst) | (with_reducible apply keeps_foldl_snd) | (with_reducible apply keeps_foldl_snd2) | (intro _ _ _) | (intro _ _) | with_reducible apply serve_keeps | with_reducible apply answer_keeps | with_reducible apply modCxl_keeps | with_reducible apply keeps_ite | with_reducible apply outKeeps_ite | with_reducible apply atUnit_keeps | dsimp only
theorem execRegionRelease_keeps {T : Touch} {s0 : State} (src : CmdSrc) (e : Entry) (s : State) (hk : Keeps T s0 s) (ht : T.regs = true ∧ T.mbxs = true ∧ T.chans = true ∧ T.cxl = true ∧ T.smbOut = true := by simp [*]) :
    OutKeeps T s0 (execRegionRelease src e s) := by
  unfold execRegionRelease
  try dsimp only
  repeat' first | (with_reducible assumption) | (simp +contextual (maxDischargeDepth := 60) only [outKeeps_next, hk, ht]; done) | split | (with_reducible apply keeps_foldl) | (with_reducible apply keeps_foldl_fst) | (with_reducible apply keeps_foldl_snd) | (with_reducible apply keeps_foldl_snd2) | (intro _ _ _) | (intro _ _) | with_reducible apply serve_keeps | with_reducible apply answer_keeps | with_reducible apply modCxl_keeps | with_reducible apply keeps_ite | with_reducible apply outKeeps_ite | with_reducible apply atUnit_keeps | dsimp only

end Sys2Proof.Machine
end

