-- ==== Sys2Proof/Laws/Keeps/Placement.lean ====
section
/-! SUPPORT. What each operation of Machine/Placement.lean keeps. -/

namespace Sys2Proof.Machine

open Sys2Proof

set_option Elab.async false
set_option linter.unusedTactic false
set_option linter.unreachableTactic false

theorem modShare_keeps {T : Touch} {s0 : State} (s : State) (g : ℕ) (f : ShareGroup → ShareGroup) (hk : Keeps T s0 s) (ht : T.shareGroups = true := by simp [*]) :
    Keeps T s0 (modShare s g f) := keeps_shareGroups _ hk ht
theorem zeroEnc_keeps {T : Touch} {s0 : State} (oi : ℕ) (s : State) (hk : Keeps T s0 s) (ht : T.regs = true ∧ T.stackMap = true ∧ T.deeps = true ∧ T.dram = true ∧ T.poison = true ∧ T.chans = true ∧ T.cxl = true ∧ T.boot = true ∧ T.rcv = true := by simp [*]) :
    Keeps T s0 (zeroEnc oi s) := by
  unfold zeroEnc
  try dsimp only
  repeat' first | (with_reducible assumption) | (simp +contextual (maxDischargeDepth := 60) only [unitWrite_keeps, ht, and_self]; done) | split | (with_reducible apply keeps_foldl) | (with_reducible apply keeps_foldl_fst) | (with_reducible apply keeps_foldl_snd) | (with_reducible apply keeps_foldl_snd2) | (intro _ _ _) | (intro _ _) | with_reducible apply unitWrite_keeps | with_reducible apply keeps_ite | with_reducible apply outKeeps_ite | with_reducible apply atUnit_keeps | dsimp only
theorem execObjCreate_keeps {T : Touch} {s0 : State} (src : CmdSrc) (e : Entry) (s : State) (hk : Keeps T s0 s) (ht : T.regs = true ∧ T.stackMap = true ∧ T.deeps = true ∧ T.dram = true ∧ T.poison = true ∧ T.husk = true ∧ T.huskBad = true ∧ T.objs = true ∧ T.grans = true ∧ T.used = true ∧ T.mbxs = true ∧ T.chans = true ∧ T.cxl = true ∧ T.boot = true ∧ T.rcv = true ∧ T.smbOut = true := by simp [*]) :
    OutKeeps T s0 (execObjCreate src e s) := by
  unfold execObjCreate
  refine serve_keeps _ _ _ _ _ hk fun x t ht => ?_
  dsimp only
  split
  · exact answer_keeps _ _ _ _ ht
  · split
    · exact answer_keeps _ _ _ _ ht
    · split
      · exact answer_keeps _ _ _ _ ht
      · split
        · exact answer_keeps _ _ _ _ ht
        · rename_i he
          exact answer_keeps _ _ _ _ (zeroEnc_keeps _ _ (createObj_keeps _ _ _ ht he))
theorem execObjFree_keeps {T : Touch} {s0 : State} (src : CmdSrc) (e : Entry) (s : State) (hk : Keeps T s0 s) (ht : T.regs = true ∧ T.objs = true ∧ T.grans = true ∧ T.shareGroups = true ∧ T.used = true ∧ T.migs = true ∧ T.heldBy = true ∧ T.mbxs = true ∧ T.chans = true ∧ T.cxl = true ∧ T.boot = true ∧ T.smbOut = true := by simp [*]) :
    OutKeeps T s0 (execObjFree src e s) := by
  unfold execObjFree
  try dsimp only
  repeat' first | (with_reducible assumption) | (simp +contextual (maxDischargeDepth := 60) only [finishRing_keeps, dropMig_keeps, ht, and_self]; done) | split | (with_reducible apply keeps_foldl) | (with_reducible apply keeps_foldl_fst) | (with_reducible apply keeps_foldl_snd) | (with_reducible apply keeps_foldl_snd2) | (intro _ _ _) | (intro _ _) | with_reducible apply serve_keeps | with_reducible apply answer_keeps | with_reducible apply finishRing_keeps | with_reducible apply dropMig_keeps | with_reducible apply sweepKeys_keeps | with_reducible apply releaseObj_keeps | with_reducible apply keeps_ite | with_reducible apply outKeeps_ite | with_reducible apply atUnit_keeps | dsimp only
theorem execObjSetMode_keeps {T : Touch} {s0 : State} (src : CmdSrc) (e : Entry) (s : State) (hk : Keeps T s0 s) (ht : T.regs = true ∧ T.objs = true ∧ T.mbxs = true ∧ T.chans = true ∧ T.cxl = true ∧ T.smbOut = true := by simp [*]) :
    OutKeeps T s0 (execObjSetMode src e s) := by
  unfold execObjSetMode
  try dsimp only
  repeat' first | (with_reducible assumption) | (simp +contextual (maxDischargeDepth := 60) only [ht, and_self]; done) | split | (with_reducible apply keeps_foldl) | (with_reducible apply keeps_foldl_fst) | (with_reducible apply keeps_foldl_snd) | (with_reducible apply keeps_foldl_snd2) | (intro _ _ _) | (intro _ _) | with_reducible apply serve_keeps | with_reducible apply answer_keeps | with_reducible apply setObj_keeps | with_reducible apply keeps_ite | with_reducible apply outKeeps_ite | with_reducible apply atUnit_keeps | dsimp only
theorem execObjShare_keeps {T : Touch} {s0 : State} (src : CmdSrc) (e : Entry) (s : State) (hk : Keeps T s0 s) (ht : T.regs = true ∧ T.objs = true ∧ T.shareGroups = true ∧ T.mbxs = true ∧ T.chans = true ∧ T.cxl = true ∧ T.smbOut = true := by simp [*]) :
    OutKeeps T s0 (execObjShare src e s) := by
  unfold execObjShare
  try dsimp only
  repeat' first | (with_reducible assumption) | (simp +contextual (maxDischargeDepth := 60) only [ht, and_self]; done) | split | (with_reducible apply keeps_foldl) | (with_reducible apply keeps_foldl_fst) | (with_reducible apply keeps_foldl_snd) | (with_reducible apply keeps_foldl_snd2) | (intro _ _ _) | (intro _ _) | with_reducible apply serve_keeps | with_reducible apply answer_keeps | with_reducible apply modShare_keeps | with_reducible apply setObj_keeps | with_reducible apply keeps_ite | with_reducible apply outKeeps_ite | with_reducible apply atUnit_keeps | dsimp only
theorem execObjUnshare_keeps {T : Touch} {s0 : State} (src : CmdSrc) (e : Entry) (s : State) (hk : Keeps T s0 s) (ht : T.regs = true ∧ T.objs = true ∧ T.grans = true ∧ T.shareGroups = true ∧ T.used = true ∧ T.mbxs = true ∧ T.chans = true ∧ T.cxl = true ∧ T.smbOut = true := by simp [*]) :
    OutKeeps T s0 (execObjUnshare src e s) := by
  unfold execObjUnshare
  try dsimp only
  repeat' first | (with_reducible assumption) | (simp +contextual (maxDischargeDepth := 60) only [ht, and_self]; done) | split | (with_reducible apply keeps_foldl) | (with_reducible apply keeps_foldl_fst) | (with_reducible apply keeps_foldl_snd) | (with_reducible apply keeps_foldl_snd2) | (intro _ _ _) | (intro _ _) | with_reducible apply serve_keeps | with_reducible apply answer_keeps | with_reducible apply modShare_keeps | with_reducible apply releaseObj_keeps | with_reducible apply freeShare_keeps | with_reducible apply setObj_keeps | with_reducible apply keeps_ite | with_reducible apply outKeeps_ite | with_reducible apply atUnit_keeps | dsimp only
theorem execObjQuery_keeps {T : Touch} {s0 : State} (src : CmdSrc) (e : Entry) (s : State) (hk : Keeps T s0 s) (ht : T.regs = true ∧ T.mbxs = true ∧ T.chans = true ∧ T.cxl = true ∧ T.smbOut = true := by simp [*]) :
    OutKeeps T s0 (execObjQuery src e s) := by
  unfold execObjQuery
  try dsimp only
  repeat' first | (with_reducible assumption) | (simp +contextual (maxDischargeDepth := 60) only [atUnit_keeps, keeps_freeCtr, Nat.le_refl, keeps_ite, outKeeps_ite, outKeeps_next, outKeeps_fault, keeps_foldl, keeps_foldl_fst, keeps_foldl_snd, keeps_foldl_snd2, hk, serve_keeps, answer_keeps, ht, and_self]; done) | split | (with_reducible apply keeps_foldl) | (with_reducible apply keeps_foldl_fst) | (with_reducible apply keeps_foldl_snd) | (with_reducible apply keeps_foldl_snd2) | (intro _ _ _) | (intro _ _) | with_reducible apply serve_keeps | with_reducible apply answer_keeps | with_reducible apply keeps_ite | with_reducible apply outKeeps_ite | with_reducible apply atUnit_keeps | dsimp only
theorem migBegin_keeps {T : Touch} {s0 : State} (x : Cmd) (kind : ℕ) (oi : ℕ) (tier : ℕ) (loc : Bool) (fld : ℕ) (first : ℕ) (count : ℕ) (s : State) (hk : Keeps T s0 s) (ht : T.regs = true ∧ T.objs = true ∧ T.grans = true ∧ T.used = true ∧ T.migs = true ∧ T.heldBy = true ∧ T.chans = true ∧ T.cxl = true := by simp [*]) :
    Keeps T s0 (migBegin x kind oi tier loc fld first count s) := by
  unfold migBegin
  try dsimp only
  repeat' first | (with_reducible assumption) | (simp +contextual (maxDischargeDepth := 60) only [atUnit_keeps, keeps_freeCtr, Nat.le_refl, keeps_ite, outKeeps_ite, outKeeps_next, outKeeps_fault, keeps_foldl, keeps_foldl_fst, keeps_foldl_snd, keeps_foldl_snd2, hk, migPump_keeps, ht, and_self]; done) | split | (with_reducible apply keeps_foldl) | (with_reducible apply keeps_foldl_fst) | (with_reducible apply keeps_foldl_snd) | (with_reducible apply keeps_foldl_snd2) | (intro _ _ _) | (intro _ _) | with_reducible apply migPump_keeps | with_reducible apply keeps_ite | with_reducible apply outKeeps_ite | with_reducible apply atUnit_keeps | (with_reducible refine keeps_migs _ ?_ (by simp [ht])) | dsimp only
theorem execObjReplicate_keeps {T : Touch} {s0 : State} (src : CmdSrc) (e : Entry) (s : State) (hk : Keeps T s0 s) (ht : T.regs = true ∧ T.objs = true ∧ T.grans = true ∧ T.used = true ∧ T.migs = true ∧ T.heldBy = true ∧ T.mbxs = true ∧ T.chans = true ∧ T.cxl = true ∧ T.smbOut = true := by simp [*]) :
    OutKeeps T s0 (execObjReplicate src e s) := by
  unfold execObjReplicate
  try dsimp only
  repeat' first | (with_reducible assumption) | (simp +contextual (maxDischargeDepth := 60) only [ht, and_self]; done) | split | (with_reducible apply keeps_foldl) | (with_reducible apply keeps_foldl_fst) | (with_reducible apply keeps_foldl_snd) | (with_reducible apply keeps_foldl_snd2) | (intro _ _ _) | (intro _ _) | with_reducible apply serve_keeps | with_reducible apply answer_keeps | with_reducible apply migBegin_keeps | with_reducible apply keeps_ite | with_reducible apply outKeeps_ite | with_reducible apply atUnit_keeps | dsimp only
theorem execObjReplicaDrop_keeps {T : Touch} {s0 : State} (src : CmdSrc) (e : Entry) (s : State) (hk : Keeps T s0 s) (ht : T.regs = true ∧ T.objs = true ∧ T.grans = true ∧ T.used = true ∧ T.migs = true ∧ T.heldBy = true ∧ T.mbxs = true ∧ T.chans = true ∧ T.cxl = true ∧ T.smbOut = true := by simp [*]) :
    OutKeeps T s0 (execObjReplicaDrop src e s) := by
  unfold execObjReplicaDrop
  try dsimp only
  repeat' first | (with_reducible assumption) | (simp +contextual (maxDischargeDepth := 60) only [ht, and_self]; done) | split | (with_reducible apply keeps_foldl) | (with_reducible apply keeps_foldl_fst) | (with_reducible apply keeps_foldl_snd) | (with_reducible apply keeps_foldl_snd2) | (intro _ _ _) | (intro _ _) | with_reducible apply serve_keeps | with_reducible apply answer_keeps | with_reducible apply migBegin_keeps | with_reducible apply keeps_ite | with_reducible apply outKeeps_ite | with_reducible apply atUnit_keeps | dsimp only
theorem execObjFlush_keeps {T : Touch} {s0 : State} (src : CmdSrc) (e : Entry) (s : State) (hk : Keeps T s0 s) (ht : T.regs = true ∧ T.objs = true ∧ T.grans = true ∧ T.used = true ∧ T.migs = true ∧ T.heldBy = true ∧ T.mbxs = true ∧ T.chans = true ∧ T.cxl = true ∧ T.smbOut = true := by simp [*]) :
    OutKeeps T s0 (execObjFlush src e s) := by
  unfold execObjFlush
  try dsimp only
  repeat' first | (with_reducible assumption) | (simp +contextual (maxDischargeDepth := 60) only [ht, and_self]; done) | split | (with_reducible apply keeps_foldl) | (with_reducible apply keeps_foldl_fst) | (with_reducible apply keeps_foldl_snd) | (with_reducible apply keeps_foldl_snd2) | (intro _ _ _) | (intro _ _) | with_reducible apply serve_keeps | with_reducible apply answer_keeps | with_reducible apply migBegin_keeps | with_reducible apply keeps_ite | with_reducible apply outKeeps_ite | with_reducible apply atUnit_keeps | dsimp only
theorem execObjMigrate_keeps {T : Touch} {s0 : State} (src : CmdSrc) (e : Entry) (s : State) (hk : Keeps T s0 s) (ht : T.regs = true ∧ T.objs = true ∧ T.grans = true ∧ T.used = true ∧ T.migs = true ∧ T.heldBy = true ∧ T.mbxs = true ∧ T.chans = true ∧ T.cxl = true ∧ T.smbOut = true := by simp [*]) :
    OutKeeps T s0 (execObjMigrate src e s) := by
  unfold execObjMigrate
  try dsimp only
  repeat' first | (with_reducible assumption) | (simp +contextual (maxDischargeDepth := 60) only [ht, and_self]; done) | split | (with_reducible apply keeps_foldl) | (with_reducible apply keeps_foldl_fst) | (with_reducible apply keeps_foldl_snd) | (with_reducible apply keeps_foldl_snd2) | (intro _ _ _) | (intro _ _) | with_reducible apply serve_keeps | with_reducible apply answer_keeps | with_reducible apply migBegin_keeps | with_reducible apply keeps_ite | with_reducible apply outKeeps_ite | with_reducible apply atUnit_keeps | dsimp only
theorem execMigrateInvalidate_keeps {T : Touch} {s0 : State} (obj : ℕ) (granule : ℕ) (who : ℕ) (s : State) (hk : Keeps T s0 s) (ht : T.migs = true ∧ T.xlat = true := by simp [*]) :
    OutKeeps T s0 (execMigrateInvalidate obj granule who s) := by
  unfold execMigrateInvalidate
  split
  · exact hk
  · split
    · exact hk
    · extract_lets t
      have h1 : Keeps T s0 t := keeps_xlat _ hk (by simp [*])
      clear_value t
      split
      · exact h1
      · exact modMove_keeps _ _ _ _ h1
theorem moveRead_keeps {T : Touch} {s0 : State} (a : Agent) (o : Obj) (r : Granule) (off : ℕ) (src : ℕ × ℕ) (s : State) (hk : Keeps T s0 s) (ht : T.regs = true ∧ T.stackMap = true ∧ T.deeps = true ∧ T.poison = true ∧ T.chans = true ∧ T.cxl = true ∧ T.boot = true ∧ T.rcv = true := by simp [*]) :
    Keeps T s0 (moveRead a o r off src s).1 := by
  unfold moveRead
  try dsimp only
  repeat' first | (with_reducible assumption) | (simp +contextual (maxDischargeDepth := 60) only [hk, runRead_keeps, huskRecord_keeps, ht, and_self]; done) | split | dsimp only
theorem copyBlock_keeps {T : Touch} {s0 : State} (dead : List ℕ) (o : Obj) (r : Granule) (off : ℕ) (src : ℕ × ℕ) (dst : ℕ × ℕ) (s : State) (hk : Keeps T s0 s) (ht : T.regs = true ∧ T.stackMap = true ∧ T.deeps = true ∧ T.dram = true ∧ T.poison = true ∧ T.husk = true ∧ T.huskBad = true ∧ T.chans = true ∧ T.cxl = true ∧ T.boot = true ∧ T.rcv = true ∧ T.notices = true := by simp [*]) :
    Keeps T s0 (copyBlock dead o r off src dst s).1 := by
  unfold copyBlock
  try dsimp only
  repeat' first | (with_reducible assumption) | (simp +contextual (maxDischargeDepth := 60) only [hk, moveRead_keeps, runWrite_keeps, ht, and_self]; done) | split | (with_reducible apply keeps_foldl) | (with_reducible apply keeps_foldl_fst) | (with_reducible apply keeps_foldl_snd) | (with_reducible apply keeps_foldl_snd2) | (intro _ _ _) | (intro _ _) | with_reducible apply moveRead_keeps | with_reducible apply runWrite_keeps | with_reducible apply setPoison_keeps | with_reducible apply keeps_ite | with_reducible apply outKeeps_ite | with_reducible apply atUnit_keeps | dsimp only
theorem copyGranule_keeps {T : Touch} {s0 : State} (m : MigCmd) (v : Move) (dead : List ℕ) (s : State) (hk : Keeps T s0 s) (ht : T.regs = true ∧ T.stackMap = true ∧ T.deeps = true ∧ T.dram = true ∧ T.poison = true ∧ T.husk = true ∧ T.huskBad = true ∧ T.migs = true ∧ T.chans = true ∧ T.cxl = true ∧ T.boot = true ∧ T.rcv = true ∧ T.notices = true := by simp [*]) :
    Keeps T s0 (copyGranule m v dead s) := by
  unfold copyGranule
  try dsimp only
  repeat' first | (with_reducible assumption) | (simp +contextual (maxDischargeDepth := 60) only [hk, copyBlock_keeps, clearFrame_keeps, modMove_keeps, modMig_keeps, ht, and_self]; done) | split | (with_reducible apply keeps_foldl) | (with_reducible apply keeps_foldl_fst) | (with_reducible apply keeps_foldl_snd) | (with_reducible apply keeps_foldl_snd2) | (intro _ _ _) | (intro _ _) | with_reducible apply copyBlock_keeps | with_reducible apply clearFrame_keeps | with_reducible apply modMove_keeps | with_reducible apply modMig_keeps | with_reducible apply keeps_ite | with_reducible apply outKeeps_ite | with_reducible apply atUnit_keeps | dsimp only
theorem execMigrateCopyStart_keeps {T : Touch} {s0 : State} (obj : ℕ) (granule : ℕ) (s : State) (hk : Keeps T s0 s) (ht : T.regs = true ∧ T.stackMap = true ∧ T.deeps = true ∧ T.dram = true ∧ T.poison = true ∧ T.husk = true ∧ T.huskBad = true ∧ T.migs = true ∧ T.chans = true ∧ T.cxl = true ∧ T.boot = true ∧ T.rcv = true ∧ T.notices = true := by simp [*]) :
    OutKeeps T s0 (execMigrateCopyStart obj granule s) := by
  unfold execMigrateCopyStart
  refine outKeeps_next.2 ?_
  split
  · exact hk
  · exact keeps_ite (fun _ => hk) (fun _ => gatedAt_keeps _ _ _ _ hk (fun _ hu => hu) (fun _ _ hu => copyGranule_keeps _ _ _ _ hu))
theorem execMigrateRecordWrite_keeps {T : Touch} {s0 : State} (obj : ℕ) (granule : ℕ) (s : State) (hk : Keeps T s0 s) (ht : T.regs = true ∧ T.tillers = true ∧ T.stackMap = true ∧ T.deeps = true ∧ T.dram = true ∧ T.poison = true ∧ T.husk = true ∧ T.huskBad = true ∧ T.objs = true ∧ T.grans = true ∧ T.migs = true ∧ T.heldBy = true ∧ T.xlat = true ∧ T.chans = true ∧ T.cxl = true ∧ T.boot = true ∧ T.rcv = true ∧ T.notices = true := by simp [*]) :
    OutKeeps T s0 (execMigrateRecordWrite obj granule s) := by
  unfold execMigrateRecordWrite
  try dsimp only
  repeat' first | (with_reducible assumption) | (simp +contextual (maxDischargeDepth := 60) only [outKeeps_next, hk, noticeAll_keeps, setGran_keeps, modObj_keeps, cntInc_keeps, releaseHeld_keeps, copyPump_keeps, modMove_keeps, ht, and_self]; done) | split | dsimp only
theorem execMigrateFreeSource_keeps {T : Touch} {s0 : State} (obj : ℕ) (granule : ℕ) (s : State) (hk : Keeps T s0 s) (ht : T.regs = true ∧ T.objs = true ∧ T.grans = true ∧ T.used = true ∧ T.migs = true ∧ T.heldBy = true ∧ T.chans = true ∧ T.cxl = true := by simp [*]) :
    OutKeeps T s0 (execMigrateFreeSource obj granule s) := by
  unfold execMigrateFreeSource
  try dsimp only
  repeat' first | (with_reducible assumption) | (simp +contextual (maxDischargeDepth := 60) only [outKeeps_next, hk, cntInc_keeps, freeSource_keeps, modMig_keeps, migPump_keeps, ht, and_self]; done) | split | dsimp only
theorem execMigrateHoldTimeout_keeps {T : Touch} {s0 : State} (obj : ℕ) (granule : ℕ) (s : State) (hk : Keeps T s0 s) (ht : T.regs = true ∧ T.tillers = true ∧ T.stackMap = true ∧ T.deeps = true ∧ T.dram = true ∧ T.poison = true ∧ T.husk = true ∧ T.huskBad = true ∧ T.objs = true ∧ T.grans = true ∧ T.used = true ∧ T.migs = true ∧ T.heldBy = true ∧ T.xlat = true ∧ T.chans = true ∧ T.cxl = true ∧ T.boot = true ∧ T.rcv = true ∧ T.notices = true := by simp [*]) :
    OutKeeps T s0 (execMigrateHoldTimeout obj granule s) := by
  unfold execMigrateHoldTimeout
  try dsimp only
  repeat' first | (with_reducible assumption) | (simp +contextual (maxDischargeDepth := 60) only [outKeeps_next, hk, copyPump_keeps, abandonMove_keeps, ht, and_self]; done) | split | dsimp only
theorem execMigrateRetry_keeps {T : Touch} {s0 : State} (obj : ℕ) (granule : ℕ) (s : State) (hk : Keeps T s0 s) (ht : T.regs = true ∧ T.objs = true ∧ T.grans = true ∧ T.used = true ∧ T.migs = true ∧ T.heldBy = true ∧ T.chans = true ∧ T.cxl = true := by simp [*]) :
    OutKeeps T s0 (execMigrateRetry obj granule s) := by
  unfold execMigrateRetry
  split
  · exact hk
  · rename_i m v _
    split
    · exact hk
    · split
      · exact startMove_keeps _ _ _ _ _ hk
      · split
        · rename_i he
          split at he
          · exact startMove_keeps _ _ _ _ _ (modUsed_keeps _ _ _ _ (allocFrames_keeps _ _ _ _ _ hk he))
          · cases he
        · exact migPump_keeps _ _ (modMig_keeps _ _ _ _ hk)
theorem execXlatMissFill_keeps {T : Touch} {s0 : State} (t : ℕ) (obj : ℕ) (granule : ℕ) (s : State) (hk : Keeps T s0 s) (ht : T.regs = true ∧ T.stackMap = true ∧ T.xlat = true ∧ T.chans = true ∧ T.cxl = true := by simp [*]) :
    OutKeeps T s0 (execXlatMissFill t obj granule s) := by
  unfold execXlatMissFill
  try dsimp only
  repeat' first | (with_reducible assumption) | (simp +contextual (maxDischargeDepth := 60) only [ht, and_self]; done) | split | (with_reducible apply keeps_foldl) | (with_reducible apply keeps_foldl_fst) | (with_reducible apply keeps_foldl_snd) | (with_reducible apply keeps_foldl_snd2) | (intro _ _ _) | (intro _ _) | with_reducible apply onlyIf_keeps | with_reducible apply xlatTouch_keeps | with_reducible apply modStack_keeps | with_reducible apply keeps_ite | with_reducible apply outKeeps_ite | with_reducible apply atUnit_keeps | dsimp only
theorem execCxlMemRead_keeps {T : Touch} {s0 : State} (h : ℕ) (s : State) (hk : Keeps T s0 s) (ht : T.regs = true ∧ T.stackMap = true ∧ T.deeps = true ∧ T.poison = true ∧ T.heldBy = true ∧ T.xlat = true ∧ T.chans = true ∧ T.cxl = true ∧ T.boot = true ∧ T.rcv = true := by simp [*]) :
    OutKeeps T s0 (execCxlMemRead h s) := by
  unfold execCxlMemRead
  refine outKeeps_next.2 ?_
  split
  · exact hk
  · dsimp only
    split
    · exact modCxl_keeps _ _ (plcFault_keeps _ _ _ _ _ _ _ _ hk)
    · exact gated_keeps _ _ _ _ _ _ hk (fun d u hu => modCxl_keeps _ _ (cntInc_keeps _ _ _ (objRead_keeps _ _ _ _ _ hu)))
    · exact hk
theorem execCxlMemWrite_keeps {T : Touch} {s0 : State} (h : ℕ) (data : List (ℕ × Byte)) (s : State) (hk : Keeps T s0 s) (ht : T.regs = true ∧ T.tillers = true ∧ T.stackMap = true ∧ T.deeps = true ∧ T.dram = true ∧ T.poison = true ∧ T.husk = true ∧ T.huskBad = true ∧ T.objs = true ∧ T.grans = true ∧ T.heldBy = true ∧ T.xlat = true ∧ T.chans = true ∧ T.cxl = true ∧ T.boot = true ∧ T.rcv = true ∧ T.notices = true := by simp [*]) :
    OutKeeps T s0 (execCxlMemWrite h data s) := by
  unfold execCxlMemWrite
  refine outKeeps_next.2 ?_
  split
  · exact hk
  · dsimp only
    split
    · exact plcFault_keeps _ _ _ _ _ _ _ _ hk
    · refine keeps_ite (fun _ => hk) (fun _ => keeps_ite (fun _ => cntInc_keeps _ _ _ (modCxl_keeps _ _ hk)) (fun _ => ?_))
      refine gated_keeps _ _ _ _ _ _ hk (fun d u hu => ?_)
      have h1 := cntInc_keeps (T := T) (s0 := s0) .cxp Reg.CXP_CNT_MEM_WR u hu
      exact keeps_ite (fun _ => objStore_keeps _ _ _ _ _ h1) (fun _ => keeps_foldl (fun v b hv => objStore_keeps _ _ _ _ _ hv) h1)
    · exact hk

end Sys2Proof.Machine
end

