-- ==== Sys2Proof/Laws/Keeps/Detach.lean ====
section
/-! SUPPORT. What each operation of Machine/Detach.lean keeps. -/

namespace Sys2Proof.Machine

open Sys2Proof

set_option Elab.async false
set_option linter.unusedTactic false
set_option linter.unreachableTactic false

theorem detachCopies_keeps {T : Touch} {s0 : State} (s : State) (hk : Keeps T s0 s) (ht : T.regs = true ∧ T.stackMap = true ∧ T.deeps = true ∧ T.chans = true ∧ T.cxl = true := by simp [*]) :
    Keeps T s0 (detachCopies s) := by
  unfold detachCopies
  try dsimp only
  repeat' first | (with_reducible assumption) | (simp +contextual (maxDischargeDepth := 60) only [hk, modCxl_keeps, dropEngine_keeps, ht, and_self]; done) | split | (with_reducible apply keeps_foldl) | (with_reducible apply keeps_foldl_fst) | (with_reducible apply keeps_foldl_snd) | (with_reducible apply keeps_foldl_snd2) | (intro _ _ _) | (intro _ _) | with_reducible apply modCxl_keeps | with_reducible apply dropEngine_keeps | with_reducible apply finishRing_keeps | with_reducible apply keeps_ite | with_reducible apply outKeeps_ite | with_reducible apply atUnit_keeps | dsimp only
theorem detachChan_keeps {T : Touch} {s0 : State} (c : ℕ) (s : State) (hk : Keeps T s0 s) (ht : T.chans = true := by simp [*]) :
    Keeps T s0 (detachChan c s) := by
  unfold detachChan
  simp +contextual (maxDischargeDepth := 60) only [hk, modChan_keeps, ht]
theorem detach_keeps {T : Touch} {s0 : State} (cause : ℕ) (s : State) (hk : Keeps T s0 s) (ht : T.regs = true ∧ T.stackMap = true ∧ T.deeps = true ∧ T.chans = true ∧ T.cxl = true ∧ T.boot = true ∧ T.rcv = true := by simp [*]) :
    Keeps T s0 (detach cause s) := by
  unfold detach
  try dsimp only
  repeat' first | (with_reducible assumption) | (simp +contextual (maxDischargeDepth := 60) only [hk, modCxl_keeps, cntInc_keeps, setEv_keeps, logRec_keeps, detachChan_keeps, ht, and_self]; done) | split | (with_reducible apply keeps_foldl) | (with_reducible apply keeps_foldl_fst) | (with_reducible apply keeps_foldl_snd) | (with_reducible apply keeps_foldl_snd2) | (intro _ _ _) | (intro _ _) | with_reducible apply modCxl_keeps | with_reducible apply cntInc_keeps | with_reducible apply setEv_keeps | with_reducible apply logRec_keeps | with_reducible apply detachChan_keeps | with_reducible apply detachCopies_keeps | with_reducible apply keeps_ite | with_reducible apply outKeeps_ite | with_reducible apply atUnit_keeps | dsimp only
theorem linkDown_keeps {T : Touch} {s0 : State} (s : State) (hk : Keeps T s0 s) (ht : T.cxl = true := by simp [*]) :
    Keeps T s0 (linkDown s) := by
  unfold linkDown
  simp +contextual (maxDischargeDepth := 60) only [hk, modCxl_keeps, ht]
theorem fenceAll_keeps {T : Touch} {s0 : State} (s : State) (hk : Keeps T s0 s) (ht : T.rcv = true := by simp [*]) :
    Keeps T s0 (fenceAll s) := by
  unfold fenceAll
  try dsimp only
  repeat' first | (with_reducible assumption) | (simp +contextual (maxDischargeDepth := 60) only [modDomain_keeps, ht]; done) | split | (with_reducible apply keeps_foldl) | (with_reducible apply keeps_foldl_fst) | (with_reducible apply keeps_foldl_snd) | (with_reducible apply keeps_foldl_snd2) | (intro _ _ _) | (intro _ _) | with_reducible apply modDomain_keeps | with_reducible apply keeps_ite | with_reducible apply outKeeps_ite | with_reducible apply atUnit_keeps | dsimp only
theorem beginReset_keeps {T : Touch} {s0 : State} (d : ℕ) (trig : ℕ) (ch : ℕ) (s : State) (hk : Keeps T s0 s) (ht : T.regs = true ∧ T.tillers = true ∧ T.stackMap = true ∧ T.deeps = true ∧ T.objs = true ∧ T.grans = true ∧ T.shareGroups = true ∧ T.used = true ∧ T.migs = true ∧ T.heldBy = true ∧ T.chans = true ∧ T.links = true ∧ T.cxl = true ∧ T.boot = true ∧ T.rcv = true ∧ T.flights = true := by simp [*]) :
    Keeps T s0 (beginReset d trig ch s) := by
  unfold beginReset
  try dsimp only
  repeat' first | (with_reducible assumption) | (simp +contextual (maxDischargeDepth := 60) only [hk, startReset_keeps, fenceAll_keeps, modDomain_keeps, ht, and_self]; done) | split | (with_reducible apply keeps_foldl) | (with_reducible apply keeps_foldl_fst) | (with_reducible apply keeps_foldl_snd) | (with_reducible apply keeps_foldl_snd2) | (intro _ _ _) | (intro _ _) | with_reducible apply startReset_keeps | with_reducible apply fenceAll_keeps | with_reducible apply modDomain_keeps | with_reducible apply modStack_keeps | with_reducible apply modDeep_keeps | with_reducible apply detach_keeps | with_reducible apply linkDown_keeps | with_reducible apply keeps_ite | with_reducible apply outKeeps_ite | with_reducible apply atUnit_keeps | dsimp only
theorem fenceDomain_keeps {T : Touch} {s0 : State} (d : ℕ) (trig : ℕ) (ch : ℕ) (s : State) (hk : Keeps T s0 s) (ht : T.regs = true ∧ T.tillers = true ∧ T.stackMap = true ∧ T.deeps = true ∧ T.dram = true ∧ T.poison = true ∧ T.husk = true ∧ T.huskBad = true ∧ T.objs = true ∧ T.grans = true ∧ T.shareGroups = true ∧ T.used = true ∧ T.migs = true ∧ T.heldBy = true ∧ T.xlat = true ∧ T.chans = true ∧ T.links = true ∧ T.cxl = true ∧ T.boot = true ∧ T.rcv = true ∧ T.flights = true ∧ T.notices = true := by simp [*]) :
    Keeps T s0 (fenceDomain d trig ch s) := by
  unfold fenceDomain
  try dsimp only
  repeat' first | (with_reducible assumption) | (simp +contextual (maxDischargeDepth := 60) only [hk, abandonMoves_keeps, modDomain_keeps, flagUnits_keeps, beginReset_keeps, ht, and_self]; done) | split | dsimp only
theorem flagDomain_keeps {T : Touch} {s0 : State} (d : ℕ) (r : LogRec) (s : State) (hk : Keeps T s0 s) (ht : T.regs = true ∧ T.tillers = true ∧ T.stackMap = true ∧ T.deeps = true ∧ T.dram = true ∧ T.poison = true ∧ T.husk = true ∧ T.huskBad = true ∧ T.objs = true ∧ T.grans = true ∧ T.shareGroups = true ∧ T.used = true ∧ T.migs = true ∧ T.heldBy = true ∧ T.xlat = true ∧ T.chans = true ∧ T.links = true ∧ T.cxl = true ∧ T.boot = true ∧ T.rcv = true ∧ T.flights = true ∧ T.notices = true := by simp [*]) :
    Keeps T s0 (flagDomain d r s) := by
  unfold flagDomain
  try dsimp only
  repeat' first | (with_reducible assumption) | (simp +contextual (maxDischargeDepth := 60) only [hk, logRec_keeps, modDomain_keeps, fenceDomain_keeps, ht, and_self]; done) | split | dsimp only
theorem requestReset_keeps {T : Touch} {s0 : State} (d : ℕ) (s : State) (hk : Keeps T s0 s) (ht : T.regs = true ∧ T.tillers = true ∧ T.stackMap = true ∧ T.deeps = true ∧ T.dram = true ∧ T.poison = true ∧ T.husk = true ∧ T.huskBad = true ∧ T.objs = true ∧ T.grans = true ∧ T.shareGroups = true ∧ T.used = true ∧ T.migs = true ∧ T.heldBy = true ∧ T.xlat = true ∧ T.chans = true ∧ T.links = true ∧ T.cxl = true ∧ T.boot = true ∧ T.rcv = true ∧ T.flights = true ∧ T.notices = true := by simp [*]) :
    Keeps T s0 (requestReset d s) := by
  unfold requestReset
  try dsimp only
  repeat' first | (with_reducible assumption) | (simp +contextual (maxDischargeDepth := 60) only [hk, beginReset_keeps, abandonMoves_keeps, modDomain_keeps, flagUnits_keeps, ht, and_self]; done) | split | dsimp only

end Sys2Proof.Machine
end

