-- ==== Sys2Proof/Laws/Keeps/Stook.lean ====
section
/-! SUPPORT. What each operation of Machine/Stook.lean keeps. -/

namespace Sys2Proof.Machine

open Sys2Proof

set_option Elab.async false
set_option linter.unusedTactic false
set_option linter.unreachableTactic false

theorem capture_keeps {T : Touch} {s0 : State} (d : ℕ) (trig : ℕ) (ch : ℕ) (s : State) (hk : Keeps T s0 s) (ht : T.regs = true ∧ T.chans = true ∧ T.cxl = true ∧ T.boot = true ∧ T.rcv = true := by simp [*]) :
    Keeps T s0 (capture d trig ch s) := by
  unfold capture
  try dsimp only
  repeat' first | (with_reducible assumption) | (simp +contextual (maxDischargeDepth := 60) only [hk, modRcv_keeps, modDomain_keeps, logRec_keeps, cntInc_keeps, setEv_keeps, ht, and_self]; done) | split | dsimp only
theorem startSave_keeps {T : Touch} {s0 : State} (s : State) (hk : Keeps T s0 s) (ht : T.cxl = true ∧ T.boot = true := by simp [*]) :
    Keeps T s0 (startSave s) := by
  unfold startSave
  try dsimp only
  repeat' first | (with_reducible assumption) | (simp +contextual (maxDischargeDepth := 60) only [Nat.le_refl, hk, hostWrite_keeps, modBoot_keeps, ht]; done) | split | dsimp only
theorem stookSaved_keeps {T : Touch} {s0 : State} (id : ℕ) (host : Bool) (s : State) (hk : Keeps T s0 s) (ht : T.regs = true ∧ T.chans = true ∧ T.cxl = true ∧ T.boot = true ∧ T.rcv = true := by simp [*]) :
    Keeps T s0 (stookSaved id host s) := by
  unfold stookSaved
  try dsimp only
  repeat' first | (with_reducible assumption) | (simp +contextual (maxDischargeDepth := 60) only [Nat.le_refl, hk, modRcv_keeps, cntAdd_keeps, modBoot_keeps, startSave_keeps, setEv_keeps, ht, and_self]; done) | split | dsimp only

end Sys2Proof.Machine
end

