-- ==== Sys2Proof/Laws/Keeps/Detect.lean ====
section
/-! SUPPORT. What each operation of Machine/Detect.lean keeps. -/

namespace Sys2Proof.Machine

open Sys2Proof

set_option Elab.async false
set_option linter.unusedTactic false
set_option linter.unreachableTactic false

theorem smbAnswer_keeps {T : Touch} {s0 : State} (code : ℕ) (sq : ℕ) (status : ℕ) (data : List Byte) (s : State) (hk : Keeps T s0 s) (ht : T.smbOut = true := by simp [*]) :
    Keeps T s0 (smbAnswer code sq status data s) := keeps_smbOut _ hk ht
theorem resetMailboxes_keeps {T : Touch} {s0 : State} (s : State) (hk : Keeps T s0 s) (ht : T.regs = true ∧ T.mbxs = true ∧ T.chans = true ∧ T.cxl = true ∧ T.smbOut = true := by simp [*]) :
    Keeps T s0 (resetMailboxes s) := by
  unfold resetMailboxes
  try dsimp only
  repeat' first | (with_reducible assumption) | (simp +contextual (maxDischargeDepth := 60) only [atUnit_keeps, keeps_freeCtr, Nat.le_refl, keeps_ite, outKeeps_ite, outKeeps_next, outKeeps_fault, keeps_foldl, keeps_foldl_fst, keeps_foldl_snd, keeps_foldl_snd2, hk, answer_keeps, ht, and_self]; done) | split | (with_reducible apply keeps_foldl) | (with_reducible apply keeps_foldl_fst) | (with_reducible apply keeps_foldl_snd) | (with_reducible apply keeps_foldl_snd2) | (intro _ _ _) | (intro _ _) | with_reducible apply answer_keeps | with_reducible apply keeps_ite | with_reducible apply outKeeps_ite | with_reducible apply atUnit_keeps | dsimp only
theorem takeover_keeps {T : Touch} {s0 : State} (trig : ℕ) (s : State) (hk : Keeps T s0 s) (ht : T.regs = true ∧ T.mbxs = true ∧ T.chans = true ∧ T.cxl = true ∧ T.boot = true ∧ T.rcv = true ∧ T.smbOut = true := by simp [*]) :
    Keeps T s0 (takeover trig s) := by
  unfold takeover
  try dsimp only
  repeat' first | (with_reducible assumption) | (simp +contextual (maxDischargeDepth := 60) only [hk, modRcv_keeps, capture_keeps, modDomain_keeps, resetMailboxes_keeps, cntInc_keeps, setEv_keeps, startSave_keeps, logRec_keeps, ht, and_self]; done) | split | dsimp only
theorem execHeartbeatAdvance_keeps {T : Touch} {s0 : State} (s : State) (hk : Keeps T s0 s) (ht : T.rcv = true := by simp [*]) :
    OutKeeps T s0 (execHeartbeatAdvance s) := by
  unfold execHeartbeatAdvance
  try dsimp only
  repeat' first | (with_reducible assumption) | (simp +contextual (maxDischargeDepth := 60) only [modRcv_keeps, ht]; done) | split | (with_reducible apply keeps_foldl) | (with_reducible apply keeps_foldl_fst) | (with_reducible apply keeps_foldl_snd) | (with_reducible apply keeps_foldl_snd2) | (intro _ _ _) | (intro _ _) | with_reducible apply onlyIf_keeps | with_reducible apply modRcv_keeps | with_reducible apply keeps_ite | with_reducible apply outKeeps_ite | with_reducible apply atUnit_keeps | dsimp only
theorem execRachisTakeover_keeps {T : Touch} {s0 : State} (s : State) (hk : Keeps T s0 s) (ht : T.regs = true ∧ T.mbxs = true ∧ T.chans = true ∧ T.cxl = true ∧ T.boot = true ∧ T.rcv = true ∧ T.smbOut = true := by simp [*]) :
    OutKeeps T s0 (execRachisTakeover s) := by
  unfold execRachisTakeover
  try dsimp only
  repeat' first | (with_reducible assumption) | (simp +contextual (maxDischargeDepth := 60) only [takeover_keeps, ht, and_self]; done) | split | (with_reducible apply keeps_foldl) | (with_reducible apply keeps_foldl_fst) | (with_reducible apply keeps_foldl_snd) | (with_reducible apply keeps_foldl_snd2) | (intro _ _ _) | (intro _ _) | with_reducible apply onlyIf_keeps | with_reducible apply takeover_keeps | with_reducible apply keeps_ite | with_reducible apply outKeeps_ite | with_reducible apply atUnit_keeps | dsimp only
theorem execStandbyReloadDone_keeps {T : Touch} {s0 : State} (ok : Bool) (s : State) (hk : Keeps T s0 s) (ht : T.regs = true ∧ T.chans = true ∧ T.cxl = true ∧ T.boot = true ∧ T.rcv = true := by simp [*]) :
    OutKeeps T s0 (execStandbyReloadDone ok s) := by
  unfold execStandbyReloadDone
  try dsimp only
  repeat' first | (with_reducible assumption) | (simp +contextual (maxDischargeDepth := 60) only [modRcv_keeps, logRec_keeps, setEv_keeps, ht, and_self]; done) | split | (with_reducible apply keeps_foldl) | (with_reducible apply keeps_foldl_fst) | (with_reducible apply keeps_foldl_snd) | (with_reducible apply keeps_foldl_snd2) | (intro _ _ _) | (intro _ _) | with_reducible apply onlyIf_keeps | with_reducible apply modRcv_keeps | with_reducible apply logRec_keeps | with_reducible apply setEv_keeps | with_reducible apply keeps_ite | with_reducible apply outKeeps_ite | with_reducible apply atUnit_keeps | dsimp only
theorem requestDomain_keeps {T : Touch} {s0 : State} (d : ℕ) (s : State) (hk : Keeps T s0 s) (ht : T.regs = true ∧ T.tillers = true ∧ T.stackMap = true ∧ T.deeps = true ∧ T.dram = true ∧ T.poison = true ∧ T.husk = true ∧ T.huskBad = true ∧ T.objs = true ∧ T.grans = true ∧ T.shareGroups = true ∧ T.used = true ∧ T.migs = true ∧ T.heldBy = true ∧ T.xlat = true ∧ T.mbxs = true ∧ T.chans = true ∧ T.links = true ∧ T.cxl = true ∧ T.boot = true ∧ T.rcv = true ∧ T.flights = true ∧ T.notices = true ∧ T.smbOut = true := by simp [*]) :
    Keeps T s0 (requestDomain d s) := by
  unfold requestDomain
  try dsimp only
  repeat' first | (with_reducible assumption) | (simp +contextual (maxDischargeDepth := 60) only [hk, takeover_keeps, requestReset_keeps, ht, and_self]; done) | split | dsimp only
theorem execMonRcvReq_keeps {T : Touch} {s0 : State} (w : Word) (s : State) (hk : Keeps T s0 s) (ht : T.regs = true ∧ T.tillers = true ∧ T.stackMap = true ∧ T.deeps = true ∧ T.dram = true ∧ T.poison = true ∧ T.husk = true ∧ T.huskBad = true ∧ T.objs = true ∧ T.grans = true ∧ T.shareGroups = true ∧ T.used = true ∧ T.migs = true ∧ T.heldBy = true ∧ T.xlat = true ∧ T.mbxs = true ∧ T.chans = true ∧ T.links = true ∧ T.cxl = true ∧ T.boot = true ∧ T.rcv = true ∧ T.flights = true ∧ T.notices = true ∧ T.smbOut = true := by simp [*]) :
    OutKeeps T s0 (execMonRcvReq w s) := by
  unfold execMonRcvReq
  try dsimp only
  repeat' first | (with_reducible assumption) | (simp +contextual (maxDischargeDepth := 60) only [requestDomain_keeps, ht, and_self]; done) | split | (with_reducible apply keeps_foldl) | (with_reducible apply keeps_foldl_fst) | (with_reducible apply keeps_foldl_snd) | (with_reducible apply keeps_foldl_snd2) | (intro _ _ _) | (intro _ _) | with_reducible apply onlyIf_keeps | with_reducible apply requestDomain_keeps | with_reducible apply keeps_ite | with_reducible apply outKeeps_ite | with_reducible apply atUnit_keeps | dsimp only
theorem execSmbRecover_keeps {T : Touch} {s0 : State} (sq : ℕ) (code : ℕ) (s : State) (hk : Keeps T s0 s) (ht : T.regs = true ∧ T.tillers = true ∧ T.stackMap = true ∧ T.deeps = true ∧ T.dram = true ∧ T.poison = true ∧ T.husk = true ∧ T.huskBad = true ∧ T.objs = true ∧ T.grans = true ∧ T.shareGroups = true ∧ T.used = true ∧ T.migs = true ∧ T.heldBy = true ∧ T.xlat = true ∧ T.mbxs = true ∧ T.chans = true ∧ T.links = true ∧ T.cxl = true ∧ T.boot = true ∧ T.rcv = true ∧ T.flights = true ∧ T.notices = true ∧ T.smbOut = true := by simp [*]) :
    OutKeeps T s0 (execSmbRecover sq code s) := by
  unfold execSmbRecover
  try dsimp only
  repeat' first | (with_reducible assumption) | (simp +contextual (maxDischargeDepth := 60) only [requestDomain_keeps, smbAnswer_keeps, ht, and_self]; done) | split | (with_reducible apply keeps_foldl) | (with_reducible apply keeps_foldl_fst) | (with_reducible apply keeps_foldl_snd) | (with_reducible apply keeps_foldl_snd2) | (intro _ _ _) | (intro _ _) | with_reducible apply onlyIf_keeps | with_reducible apply requestDomain_keeps | with_reducible apply smbAnswer_keeps | with_reducible apply keeps_ite | with_reducible apply outKeeps_ite | with_reducible apply atUnit_keeps | dsimp only
theorem execSmbHeartbeat_keeps {T : Touch} {s0 : State} (sq : ℕ) (s : State) (hk : Keeps T s0 s) (ht : T.smbOut = true := by simp [*]) :
    OutKeeps T s0 (execSmbHeartbeat sq s) := by
  unfold execSmbHeartbeat
  try dsimp only
  repeat' first | (with_reducible assumption) | (simp +contextual (maxDischargeDepth := 60) only [smbAnswer_keeps, ht]; done) | split | (with_reducible apply keeps_foldl) | (with_reducible apply keeps_foldl_fst) | (with_reducible apply keeps_foldl_snd) | (with_reducible apply keeps_foldl_snd2) | (intro _ _ _) | (intro _ _) | with_reducible apply onlyIf_keeps | with_reducible apply smbAnswer_keeps | with_reducible apply keeps_ite | with_reducible apply outKeeps_ite | with_reducible apply atUnit_keeps | dsimp only
theorem execSmbDetach_keeps {T : Touch} {s0 : State} (sq : ℕ) (s : State) (hk : Keeps T s0 s) (ht : T.regs = true ∧ T.stackMap = true ∧ T.deeps = true ∧ T.chans = true ∧ T.cxl = true ∧ T.boot = true ∧ T.rcv = true ∧ T.smbOut = true := by simp [*]) :
    OutKeeps T s0 (execSmbDetach sq s) := by
  unfold execSmbDetach
  try dsimp only
  repeat' first | (with_reducible assumption) | (simp +contextual (maxDischargeDepth := 60) only [detach_keeps, smbAnswer_keeps, ht, and_self]; done) | split | (with_reducible apply keeps_foldl) | (with_reducible apply keeps_foldl_fst) | (with_reducible apply keeps_foldl_snd) | (with_reducible apply keeps_foldl_snd2) | (intro _ _ _) | (intro _ _) | with_reducible apply onlyIf_keeps | with_reducible apply detach_keeps | with_reducible apply smbAnswer_keeps | with_reducible apply keeps_ite | with_reducible apply outKeeps_ite | with_reducible apply atUnit_keeps | dsimp only
theorem execSmbLogRead_keeps {T : Touch} {s0 : State} (sq : ℕ) (idx : ℕ) (s : State) (hk : Keeps T s0 s) (ht : T.smbOut = true := by simp [*]) :
    OutKeeps T s0 (execSmbLogRead sq idx s) := by
  unfold execSmbLogRead
  try dsimp only
  repeat' first | (with_reducible assumption) | (simp +contextual (maxDischargeDepth := 60) only [atUnit_keeps, keeps_freeCtr, Nat.le_refl, keeps_ite, outKeeps_ite, outKeeps_next, outKeeps_fault, keeps_foldl, keeps_foldl_fst, keeps_foldl_snd, keeps_foldl_snd2, hk, onlyIf_keeps, smbAnswer_keeps, ht, and_self]; done) | split | (with_reducible apply keeps_foldl) | (with_reducible apply keeps_foldl_fst) | (with_reducible apply keeps_foldl_snd) | (with_reducible apply keeps_foldl_snd2) | (intro _ _ _) | (intro _ _) | with_reducible apply onlyIf_keeps | with_reducible apply smbAnswer_keeps | with_reducible apply keeps_ite | with_reducible apply outKeeps_ite | with_reducible apply atUnit_keeps | dsimp only
theorem execCmdWatchdog_keeps {T : Touch} {s0 : State} (c : ℕ) (pos : ℕ) (s : State) (hk : Keeps T s0 s) (ht : T.regs = true ∧ T.tillers = true ∧ T.stackMap = true ∧ T.deeps = true ∧ T.objs = true ∧ T.grans = true ∧ T.shareGroups = true ∧ T.used = true ∧ T.migs = true ∧ T.heldBy = true ∧ T.mbxs = true ∧ T.chans = true ∧ T.links = true ∧ T.cxl = true ∧ T.boot = true ∧ T.rcv = true ∧ T.flights = true ∧ T.smbOut = true := by simp [*]) :
    OutKeeps T s0 (execCmdWatchdog c pos s) := by
  unfold execCmdWatchdog
  try dsimp only
  repeat' first | (with_reducible assumption) | (simp +contextual (maxDischargeDepth := 60) only [atUnit_keeps, outKeeps_next, hk, cntInc_keeps, setEv_keeps, logRec_keeps, abortAttempt_keeps, finishRing_keeps, takeover_keeps, modRcv_keeps, ht, and_self]; done) | split | dsimp only
theorem execWatchdogReleaseTimeout_keeps {T : Touch} {s0 : State} (c : ℕ) (pos : ℕ) (s : State) (hk : Keeps T s0 s) (ht : T.regs = true ∧ T.tillers = true ∧ T.stackMap = true ∧ T.deeps = true ∧ T.dram = true ∧ T.poison = true ∧ T.husk = true ∧ T.huskBad = true ∧ T.objs = true ∧ T.grans = true ∧ T.shareGroups = true ∧ T.used = true ∧ T.migs = true ∧ T.heldBy = true ∧ T.xlat = true ∧ T.chans = true ∧ T.links = true ∧ T.cxl = true ∧ T.boot = true ∧ T.rcv = true ∧ T.flights = true ∧ T.notices = true := by simp [*]) :
    OutKeeps T s0 (execWatchdogReleaseTimeout c pos s) := by
  unfold execWatchdogReleaseTimeout
  try dsimp only
  repeat' first | (with_reducible assumption) | (simp +contextual (maxDischargeDepth := 60) only [atUnit_keeps, outKeeps_next, hk, flagDomain_keeps, modRcv_keeps, ht, and_self]; done) | split | dsimp only
theorem execProgressTimeout_keeps {T : Touch} {s0 : State} (t : ℕ) (ctx : ℕ) (s : State) (hk : Keeps T s0 s) (ht : T.regs = true ∧ T.tillers = true ∧ T.stackMap = true ∧ T.deeps = true ∧ T.dram = true ∧ T.poison = true ∧ T.husk = true ∧ T.huskBad = true ∧ T.objs = true ∧ T.grans = true ∧ T.shareGroups = true ∧ T.used = true ∧ T.migs = true ∧ T.heldBy = true ∧ T.xlat = true ∧ T.chans = true ∧ T.links = true ∧ T.cxl = true ∧ T.boot = true ∧ T.rcv = true ∧ T.flights = true ∧ T.notices = true := by simp [*]) :
    OutKeeps T s0 (execProgressTimeout t ctx s) := by
  unfold execProgressTimeout
  try dsimp only
  repeat' first | (with_reducible assumption) | (simp +contextual (maxDischargeDepth := 60) only [cntInc_keeps, setEv_keeps, flagDomain_keeps, ht, and_self]; done) | split | (with_reducible apply keeps_foldl) | (with_reducible apply keeps_foldl_fst) | (with_reducible apply keeps_foldl_snd) | (with_reducible apply keeps_foldl_snd2) | (intro _ _ _) | (intro _ _) | with_reducible apply onlyIf_keeps | with_reducible apply cntInc_keeps | with_reducible apply setEv_keeps | with_reducible apply flagDomain_keeps | with_reducible apply keeps_ite | with_reducible apply outKeeps_ite | with_reducible apply atUnit_keeps | dsimp only
theorem poisonReq_keeps {T : Touch} {s0 : State} (t : ℕ) (rid : ℕ) (cause : ℕ) (s : State) (hk : Keeps T s0 s) (ht : T.tillers = true ∧ T.stackMap = true ∧ T.deeps = true := by simp [*]) :
    Keeps T s0 (poisonReq t rid cause s) := by
  unfold poisonReq
  try dsimp only
  repeat' first | (with_reducible assumption) | (simp +contextual (maxDischargeDepth := 60) only [hk, modTiller_keeps, ht]; done) | split | (with_reducible refine keeps_stacks_deeps _ _ ?_ (by simp [ht])) | dsimp only
theorem sendProbe_keeps {T : Touch} {s0 : State} (who : ℕ) (unit : ℕ) (home : ℕ) (s : State) (hk : Keeps T s0 s) (ht : T.regs = true ∧ T.chans = true ∧ T.cxl = true ∧ T.rcv = true := by simp [*]) :
    Keeps T s0 (sendProbe who unit home s) := by
  unfold sendProbe
  simp +contextual (maxDischargeDepth := 60) only [hk, cntInc_keeps, setEv_keeps, modRcv_keeps, ht, and_self]
theorem execTagTimeout_keeps {T : Touch} {s0 : State} (who : ℕ) (unit : ℕ) (rid : ℕ) (s : State) (hk : Keeps T s0 s) (ht : T.regs = true ∧ T.tillers = true ∧ T.stackMap = true ∧ T.deeps = true ∧ T.objs = true ∧ T.grans = true ∧ T.shareGroups = true ∧ T.used = true ∧ T.migs = true ∧ T.heldBy = true ∧ T.chans = true ∧ T.links = true ∧ T.cxl = true ∧ T.boot = true ∧ T.rcv = true ∧ T.flights = true := by simp [*]) :
    OutKeeps T s0 (execTagTimeout who unit rid s) := by
  unfold execTagTimeout
  try dsimp only
  repeat' first | (with_reducible assumption) | (simp +contextual (maxDischargeDepth := 60) only [atUnit_keeps, outKeeps_next, hk, sendProbe_keeps, poisonReq_keeps, copyFail_keeps, abortAttempt_keeps, ht, and_self]; done) | split | dsimp only
theorem takeProbe_keeps {T : Touch} {s0 : State} (who : ℕ) (unit : ℕ) (home : ℕ) (s : State) (f : State → State) (hk : Keeps T s0 s) (hf : ∀ x0, Keeps T s0 x0 → Keeps T s0 (f x0)) (ht : T.rcv = true := by simp [*]) :
    Keeps T s0 (takeProbe who unit home s f) := by
  unfold takeProbe
  try dsimp only
  repeat' first | (with_reducible assumption) | (simp +contextual (maxDischargeDepth := 60) only [hk, hf, modRcv_keeps, ht]; done) | split | dsimp only
theorem execTagProbeReturn_keeps {T : Touch} {s0 : State} (who : ℕ) (unit : ℕ) (home : ℕ) (s : State) (hk : Keeps T s0 s) (ht : T.regs = true ∧ T.tillers = true ∧ T.stackMap = true ∧ T.deeps = true ∧ T.dram = true ∧ T.poison = true ∧ T.husk = true ∧ T.huskBad = true ∧ T.objs = true ∧ T.grans = true ∧ T.shareGroups = true ∧ T.used = true ∧ T.migs = true ∧ T.heldBy = true ∧ T.xlat = true ∧ T.chans = true ∧ T.links = true ∧ T.cxl = true ∧ T.boot = true ∧ T.rcv = true ∧ T.flights = true ∧ T.notices = true := by simp [*]) :
    OutKeeps T s0 (execTagProbeReturn who unit home s) := by
  unfold execTagProbeReturn
  refine takeProbe_keeps _ _ _ _ _ hk fun t ht => ?_
  split
  · exact flagDomain_keeps _ _ _ ht
  · exact flagDomain_keeps _ _ _ ht
  · exact flagDomain_keeps _ _ _ ht
  · dsimp only
    split
    · exact abandonMove_keeps _ _ _ (logRec_keeps _ _ ht)
    · exact logRec_keeps _ _ ht
theorem execTagProbeTimeout_keeps {T : Touch} {s0 : State} (who : ℕ) (unit : ℕ) (home : ℕ) (s : State) (hk : Keeps T s0 s) (ht : T.regs = true ∧ T.tillers = true ∧ T.stackMap = true ∧ T.deeps = true ∧ T.dram = true ∧ T.poison = true ∧ T.husk = true ∧ T.huskBad = true ∧ T.objs = true ∧ T.grans = true ∧ T.shareGroups = true ∧ T.used = true ∧ T.migs = true ∧ T.heldBy = true ∧ T.xlat = true ∧ T.chans = true ∧ T.links = true ∧ T.cxl = true ∧ T.boot = true ∧ T.rcv = true ∧ T.flights = true ∧ T.notices = true := by simp [*]) :
    OutKeeps T s0 (execTagProbeTimeout who unit home s) := takeProbe_keeps _ _ _ _ _ hk fun _ h => flagDomain_keeps _ _ _ h
theorem execStookSaveDone_keeps {T : Touch} {s0 : State} (id : ℕ) (s : State) (hk : Keeps T s0 s) (ht : T.regs = true ∧ T.chans = true ∧ T.cxl = true ∧ T.boot = true ∧ T.rcv = true := by simp [*]) :
    OutKeeps T s0 (execStookSaveDone id s) := by
  unfold execStookSaveDone
  try dsimp only
  repeat' first | (with_reducible assumption) | (simp +contextual (maxDischargeDepth := 60) only [Nat.le_refl, outKeeps_next, hk, stookSaved_keeps, modCxl_keeps, modBoot_keeps, ht, and_self]; done) | split | dsimp only

end Sys2Proof.Machine
end

