-- ==== Sys2Proof/Laws/Keeps/Ports.lean ====
section
/-! SUPPORT. What each operation of Machine/Ports.lean keeps. -/

namespace Sys2Proof.Machine

open Sys2Proof

set_option Elab.async false
set_option linter.unusedTactic false
set_option linter.unreachableTactic false

theorem leavePlace_keeps {T : Touch} {s0 : State} (q : Option RxPlace) (s : State) (hk : Keeps T s0 s) (ht : T.links = true := by simp [*]) :
    Keeps T s0 (leavePlace q s) := by
  unfold leavePlace
  try dsimp only
  repeat' first | (with_reducible assumption) | (simp +contextual (maxDischargeDepth := 60) only [hk, modPort_keeps, ht]; done) | split | dsimp only
theorem enqueueMsg_keeps {T : Touch} {s0 : State} (p : ℕ) (t : TxMsg) (s : State) (hk : Keeps T s0 s) (ht : T.links = true := by simp [*]) :
    Keeps T s0 (enqueueMsg p t s) := by
  unfold enqueueMsg
  simp +contextual (maxDischargeDepth := 60) only [hk, modPort_keeps, ht]
theorem unreachable_keeps {T : Touch} {s0 : State} (s : State) (hk : Keeps T s0 s) (ht : T.regs = true ∧ T.chans = true ∧ T.cxl = true := by simp [*]) :
    Keeps T s0 (unreachable s) := by
  unfold unreachable
  simp +contextual (maxDischargeDepth := 60) only [hk, cntInc_keeps, setEv_keeps, ht, and_self]
theorem routeOne_keeps {T : Touch} {s0 : State} (inPort : Option ℕ) (cls : ℕ) (pl : Option RxPlace) (m : Msg) (s : State) (hk : Keeps T s0 s) (ht : T.regs = true ∧ T.chans = true ∧ T.links = true ∧ T.cxl = true := by simp [*]) :
    Keeps T s0 (routeOne inPort cls pl m s) := by
  unfold routeOne
  try dsimp only
  repeat' first | (with_reducible assumption) | (simp +contextual (maxDischargeDepth := 60) only [hk, modLinks_keeps, enqueueMsg_keeps, leavePlace_keeps, unreachable_keeps, ht, and_self]; done) | split | dsimp only
theorem routeMsg_keeps {T : Touch} {s0 : State} (inPort : Option ℕ) (cls : ℕ) (pl : Option RxPlace) (m : Msg) (s : State) (hk : Keeps T s0 s) (ht : T.regs = true ∧ T.chans = true ∧ T.links = true ∧ T.cxl = true := by simp [*]) :
    Keeps T s0 (routeMsg inPort cls pl m s) := by
  unfold routeMsg
  try dsimp only
  repeat' first | (with_reducible assumption) | (simp +contextual (maxDischargeDepth := 60) only [hk, routeOne_keeps, ht, and_self]; done) | split | dsimp only
theorem sendFrom_keeps {T : Touch} {s0 : State} (pl : Option RxPlace) (m : Msg) (s : State) (hk : Keeps T s0 s) (ht : T.regs = true ∧ T.chans = true ∧ T.links = true ∧ T.cxl = true := by simp [*]) :
    Keeps T s0 (sendFrom pl m s) := by
  unfold sendFrom
  try dsimp only
  repeat' first | (with_reducible assumption) | (simp +contextual (maxDischargeDepth := 60) only [hk, cntAdd_keeps, routeMsg_keeps, ht, and_self]; done) | split | dsimp only
theorem sendMsg_keeps {T : Touch} {s0 : State} (m : Msg) (s : State) (hk : Keeps T s0 s) (ht : T.regs = true ∧ T.chans = true ∧ T.links = true ∧ T.cxl = true := by simp [*]) :
    Keeps T s0 (sendMsg m s) := by
  unfold sendMsg
  simp +contextual (maxDischargeDepth := 60) only [hk, sendFrom_keeps, ht, and_self]
theorem respond_keeps {T : Touch} {s0 : State} (q : Msg) (kind : ℕ) (offset : ℕ) (data : List Byte) (s : State) (hk : Keeps T s0 s) (ht : T.regs = true ∧ T.chans = true ∧ T.links = true ∧ T.cxl = true := by simp [*]) :
    Keeps T s0 (respond q kind offset data s) := by
  unfold respond
  simp +contextual (maxDischargeDepth := 60) only [hk, routeMsg_keeps, ht, and_self]
theorem loseQuads_keeps {T : Touch} {s0 : State} (l : List TxMsg) (fs : List Retry) (s : State) (hk : Keeps T s0 s) (ht : T.links = true := by simp [*]) :
    Keeps T s0 (loseQuads l fs s) := by
  unfold loseQuads
  try dsimp only
  repeat' first | (with_reducible assumption) | (simp +contextual (maxDischargeDepth := 60) only [modResh_keeps, ht]; done) | split | (with_reducible apply keeps_foldl) | (with_reducible apply keeps_foldl_fst) | (with_reducible apply keeps_foldl_snd) | (with_reducible apply keeps_foldl_snd2) | (intro _ _ _) | (intro _ _) | with_reducible apply modResh_keeps | with_reducible apply keeps_ite | with_reducible apply outKeeps_ite | with_reducible apply atUnit_keeps | dsimp only
theorem rerouteAll_keeps {T : Touch} {s0 : State} (p : ℕ) (s : State) (hk : Keeps T s0 s) (ht : T.regs = true ∧ T.chans = true ∧ T.links = true ∧ T.cxl = true := by simp [*]) :
    Keeps T s0 (rerouteAll p s) := by
  unfold rerouteAll
  try dsimp only
  repeat' first | (with_reducible assumption) | (simp +contextual (maxDischargeDepth := 60) only [hk, loseQuads_keeps, modPort_keeps, leavePlace_keeps, routeMsg_keeps, ht, and_self]; done) | split | (with_reducible apply keeps_foldl) | (with_reducible apply keeps_foldl_fst) | (with_reducible apply keeps_foldl_snd) | (with_reducible apply keeps_foldl_snd2) | (intro _ _ _) | (intro _ _) | with_reducible apply loseQuads_keeps | with_reducible apply modPort_keeps | with_reducible apply leavePlace_keeps | with_reducible apply routeMsg_keeps | with_reducible apply keeps_ite | with_reducible apply outKeeps_ite | with_reducible apply atUnit_keeps | dsimp only
theorem deliver_keeps {T : Touch} {s0 : State} (p : ℕ) (cls : ℕ) (pl : Option RxPlace) (m : Msg) (s : State) (hk : Keeps T s0 s) (ht : T.regs = true ∧ T.chans = true ∧ T.links = true ∧ T.cxl = true := by simp [*]) :
    Keeps T s0 (deliver p cls pl m s) := by
  unfold deliver
  try dsimp only
  repeat' first | (with_reducible assumption) | (simp +contextual (maxDischargeDepth := 60) only [hk, leavePlace_keeps, routeMsg_keeps, ht, and_self]; done) | split | dsimp only
theorem releaseWaits_keeps {T : Touch} {s0 : State} (p : ℕ) (s : State) (hk : Keeps T s0 s) (ht : T.regs = true ∧ T.chans = true ∧ T.links = true ∧ T.cxl = true := by simp [*]) :
    Keeps T s0 (releaseWaits p s) := by
  unfold releaseWaits
  try dsimp only
  repeat' first | (with_reducible assumption) | (simp +contextual (maxDischargeDepth := 60) only [hk, deliver_keeps, modPort_keeps, ht, and_self]; done) | split | (with_reducible apply keeps_foldl) | (with_reducible apply keeps_foldl_fst) | (with_reducible apply keeps_foldl_snd) | (with_reducible apply keeps_foldl_snd2) | (intro _ _ _) | (intro _ _) | with_reducible apply deliver_keeps | with_reducible apply modPort_keeps | with_reducible apply keeps_ite | with_reducible apply outKeeps_ite | with_reducible apply atUnit_keeps | dsimp only
theorem blocksOver_keeps {T : Touch} {s0 : State} (p : ℕ) (w : WaitMsg) (bs : List (ℕ × ℕ)) (recovered : Bool) (s : State) (hk : Keeps T s0 s) (ht : T.regs = true ∧ T.chans = true ∧ T.cxl = true ∧ T.boot = true ∧ T.rcv = true := by simp [*]) :
    Keeps T s0 (blocksOver p w bs recovered s) := by
  unfold blocksOver
  try dsimp only
  repeat' first | (with_reducible assumption) | (simp +contextual (maxDischargeDepth := 60) only [huskLog_keeps, ht, and_self]; done) | split | (with_reducible apply keeps_foldl) | (with_reducible apply keeps_foldl_fst) | (with_reducible apply keeps_foldl_snd) | (with_reducible apply keeps_foldl_snd2) | (intro _ _ _) | (intro _ _) | with_reducible apply huskLog_keeps | with_reducible apply keeps_ite | with_reducible apply outKeeps_ite | with_reducible apply atUnit_keeps | dsimp only
theorem failWaits_keeps {T : Touch} {s0 : State} (p : ℕ) (s : State) (hk : Keeps T s0 s) (ht : T.regs = true ∧ T.chans = true ∧ T.links = true ∧ T.cxl = true ∧ T.boot = true ∧ T.rcv = true := by simp [*]) :
    Keeps T s0 (failWaits p s) := by
  unfold failWaits
  try dsimp only
  repeat' first | (with_reducible assumption) | (simp +contextual (maxDischargeDepth := 60) only [blocksOver_keeps, ht, and_self]; done) | split | (with_reducible apply keeps_foldl) | (with_reducible apply keeps_foldl_fst) | (with_reducible apply keeps_foldl_snd) | (with_reducible apply keeps_foldl_snd2) | (intro _ _ _) | (intro _ _) | with_reducible apply blocksOver_keeps | with_reducible apply releaseWaits_keeps | with_reducible apply modPort_keeps | with_reducible apply keeps_ite | with_reducible apply outKeeps_ite | with_reducible apply atUnit_keeps | dsimp only
theorem cutLink_keeps {T : Touch} {s0 : State} (p : ℕ) (s : State) (hk : Keeps T s0 s) (ht : T.links = true := by simp [*]) :
    Keeps T s0 (cutLink p s) := by
  unfold cutLink
  try dsimp only
  repeat' first | (with_reducible assumption) | (simp +contextual (maxDischargeDepth := 60) only [hk, loseQuads_keeps, leavePlace_keeps, ht]; done) | split | (with_reducible apply keeps_foldl) | (with_reducible apply keeps_foldl_fst) | (with_reducible apply keeps_foldl_snd) | (with_reducible apply keeps_foldl_snd2) | (intro _ _ _) | (intro _ _) | with_reducible apply loseQuads_keeps | with_reducible apply leavePlace_keeps | with_reducible apply modLinks_keeps | with_reducible apply keeps_ite | with_reducible apply outKeeps_ite | with_reducible apply atUnit_keeps | dsimp only
theorem portDown_keeps {T : Touch} {s0 : State} (p : ℕ) (s : State) (hk : Keeps T s0 s) (ht : T.regs = true ∧ T.chans = true ∧ T.links = true ∧ T.cxl = true ∧ T.boot = true ∧ T.rcv = true := by simp [*]) :
    Keeps T s0 (portDown p s) := by
  unfold portDown
  simp +contextual (maxDischargeDepth := 60) only [hk, modPort_keeps, cutLink_keeps, rerouteAll_keeps, failWaits_keeps, logRec_keeps, setEv_keeps, ht, and_self]
theorem fullTraining_keeps {T : Touch} {s0 : State} (p : ℕ) (s : State) (hk : Keeps T s0 s) (ht : T.regs = true ∧ T.chans = true ∧ T.links = true ∧ T.cxl = true ∧ T.boot = true ∧ T.rcv = true := by simp [*]) :
    Keeps T s0 (fullTraining p s) := by
  unfold fullTraining
  try dsimp only
  repeat' first | (with_reducible assumption) | (simp +contextual (maxDischargeDepth := 60) only [hk, rerouteAll_keeps, failWaits_keeps, modPort_keeps, cutLink_keeps, ht, and_self]; done) | split | dsimp only
theorem degrade_keeps {T : Touch} {s0 : State} (p : ℕ) (s : State) (hk : Keeps T s0 s) (ht : T.regs = true ∧ T.chans = true ∧ T.links = true ∧ T.cxl = true := by simp [*]) :
    Keeps T s0 (degrade p s) := by
  unfold degrade
  simp +contextual (maxDischargeDepth := 60) only [hk, setEv_keeps, modPort_keeps, ht, and_self]
theorem acceptPeer_keeps {T : Touch} {s0 : State} (p : ℕ) (s : State) (hk : Keeps T s0 s) (ht : T.regs = true ∧ T.chans = true ∧ T.links = true ∧ T.cxl = true ∧ T.boot = true ∧ T.rcv = true := by simp [*]) :
    Keeps T s0 (acceptPeer p s) := by
  unfold acceptPeer
  try dsimp only
  repeat' first | (with_reducible assumption) | (simp +contextual (maxDischargeDepth := 60) only [hk, modPort_keeps, cutLink_keeps, degrade_keeps, rerouteAll_keeps, failWaits_keeps, logRec_keeps, setEv_keeps, ht, and_self]; done) | split | dsimp only
theorem execCablePresent_keeps {T : Touch} {s0 : State} (p : ℕ) (s : State) (hk : Keeps T s0 s) (ht : T.links = true := by simp [*]) :
    OutKeeps T s0 (execCablePresent p s) := by
  unfold execCablePresent
  try dsimp only
  repeat' first | (with_reducible assumption) | (simp +contextual (maxDischargeDepth := 60) only [modPort_keeps, ht]; done) | split | (with_reducible apply keeps_foldl) | (with_reducible apply keeps_foldl_fst) | (with_reducible apply keeps_foldl_snd) | (with_reducible apply keeps_foldl_snd2) | (intro _ _ _) | (intro _ _) | with_reducible apply onlyIf_keeps | with_reducible apply modPort_keeps | with_reducible apply keeps_ite | with_reducible apply outKeeps_ite | with_reducible apply atUnit_keeps | dsimp only
theorem execLaneLock_keeps {T : Touch} {s0 : State} (p : ℕ) (s : State) (hk : Keeps T s0 s) (ht : T.regs = true ∧ T.chans = true ∧ T.links = true ∧ T.cxl = true ∧ T.boot = true ∧ T.rcv = true := by simp [*]) :
    OutKeeps T s0 (execLaneLock p s) := by
  unfold execLaneLock
  try dsimp only
  repeat' first | (with_reducible assumption) | (simp +contextual (maxDischargeDepth := 60) only [ht]; done) | split | (with_reducible apply keeps_foldl) | (with_reducible apply keeps_foldl_fst) | (with_reducible apply keeps_foldl_snd) | (with_reducible apply keeps_foldl_snd2) | (intro _ _ _) | (intro _ _) | with_reducible apply onlyIf_keeps | with_reducible apply portDown_keeps | with_reducible apply modPort_keeps | with_reducible apply keeps_ite | with_reducible apply outKeeps_ite | with_reducible apply atUnit_keeps | dsimp only
theorem execTrainingRecordSend_keeps {T : Touch} {s0 : State} (p : ℕ) (s : State) (hk : Keeps T s0 s) (ht : T.links = true := by simp [*]) :
    OutKeeps T s0 (execTrainingRecordSend p s) := by
  unfold execTrainingRecordSend
  try dsimp only
  repeat' first | (with_reducible assumption) | (simp +contextual (maxDischargeDepth := 60) only [modPort_keeps, ht]; done) | split | (with_reducible apply keeps_foldl) | (with_reducible apply keeps_foldl_fst) | (with_reducible apply keeps_foldl_snd) | (with_reducible apply keeps_foldl_snd2) | (intro _ _ _) | (intro _ _) | with_reducible apply onlyIf_keeps | with_reducible apply modPort_keeps | with_reducible apply keeps_ite | with_reducible apply outKeeps_ite | with_reducible apply atUnit_keeps | dsimp only
theorem execTrainingRecordRx_keeps {T : Touch} {s0 : State} (p : ℕ) (bs : List Byte) (s : State) (hk : Keeps T s0 s) (ht : T.regs = true ∧ T.chans = true ∧ T.links = true ∧ T.cxl = true ∧ T.boot = true ∧ T.rcv = true := by simp [*]) :
    OutKeeps T s0 (execTrainingRecordRx p bs s) := by
  unfold execTrainingRecordRx
  try dsimp only
  repeat' first | (with_reducible assumption) | (simp +contextual (maxDischargeDepth := 60) only [modPort_keeps, ht]; done) | split | (with_reducible apply keeps_foldl) | (with_reducible apply keeps_foldl_fst) | (with_reducible apply keeps_foldl_snd) | (with_reducible apply keeps_foldl_snd2) | (intro _ _ _) | (intro _ _) | with_reducible apply onlyIf_keeps | with_reducible apply modPort_keeps | with_reducible apply acceptPeer_keeps | with_reducible apply keeps_ite | with_reducible apply outKeeps_ite | with_reducible apply atUnit_keeps | dsimp only
theorem retrain_keeps {T : Touch} {s0 : State} (p : ℕ) (lanes : ℕ) (s : State) (hk : Keeps T s0 s) (ht : T.regs = true ∧ T.chans = true ∧ T.links = true ∧ T.cxl = true := by simp [*]) :
    Keeps T s0 (retrain p lanes s) := by
  unfold retrain
  simp +contextual (maxDischargeDepth := 60) only [hk, modPort_keeps, cntInc_keeps, setEv_keeps, ht, and_self]
theorem execTrainingStepTimeout_keeps {T : Touch} {s0 : State} (p : ℕ) (s : State) (hk : Keeps T s0 s) (ht : T.regs = true ∧ T.chans = true ∧ T.links = true ∧ T.cxl = true ∧ T.boot = true ∧ T.rcv = true := by simp [*]) :
    OutKeeps T s0 (execTrainingStepTimeout p s) := by
  unfold execTrainingStepTimeout
  try dsimp only
  repeat' first | (with_reducible assumption) | (simp +contextual (maxDischargeDepth := 60) only [portDown_keeps, ht, and_self]; done) | split | (with_reducible apply keeps_foldl) | (with_reducible apply keeps_foldl_fst) | (with_reducible apply keeps_foldl_snd) | (with_reducible apply keeps_foldl_snd2) | (intro _ _ _) | (intro _ _) | with_reducible apply onlyIf_keeps | with_reducible apply portDown_keeps | with_reducible apply keeps_ite | with_reducible apply outKeeps_ite | with_reducible apply atUnit_keeps | dsimp only
theorem execTrainingRestart_keeps {T : Touch} {s0 : State} (p : ℕ) (s : State) (hk : Keeps T s0 s) (ht : T.links = true := by simp [*]) :
    OutKeeps T s0 (execTrainingRestart p s) := by
  unfold execTrainingRestart
  try dsimp only
  repeat' first | (with_reducible assumption) | (simp +contextual (maxDischargeDepth := 60) only [modPort_keeps, ht]; done) | split | (with_reducible apply keeps_foldl) | (with_reducible apply keeps_foldl_fst) | (with_reducible apply keeps_foldl_snd) | (with_reducible apply keeps_foldl_snd2) | (intro _ _ _) | (intro _ _) | with_reducible apply onlyIf_keeps | with_reducible apply modPort_keeps | with_reducible apply keeps_ite | with_reducible apply outKeeps_ite | with_reducible apply atUnit_keeps | dsimp only
theorem execLaneFail_keeps {T : Touch} {s0 : State} (p : ℕ) (lane : ℕ) (s : State) (hk : Keeps T s0 s) (ht : T.regs = true ∧ T.chans = true ∧ T.links = true ∧ T.cxl = true ∧ T.boot = true ∧ T.rcv = true := by simp [*]) :
    OutKeeps T s0 (execLaneFail p lane s) := by
  unfold execLaneFail
  try dsimp only
  repeat' first | (with_reducible assumption) | (simp +contextual (maxDischargeDepth := 60) only [ht, and_self]; done) | split | (with_reducible apply keeps_foldl) | (with_reducible apply keeps_foldl_fst) | (with_reducible apply keeps_foldl_snd) | (with_reducible apply keeps_foldl_snd2) | (intro _ _ _) | (intro _ _) | with_reducible apply onlyIf_keeps | with_reducible apply setEv_keeps | with_reducible apply modPort_keeps | with_reducible apply portDown_keeps | with_reducible apply retrain_keeps | with_reducible apply degrade_keeps | with_reducible apply keeps_ite | with_reducible apply outKeeps_ite | with_reducible apply atUnit_keeps | dsimp only
theorem execPortRetrainDone_keeps {T : Touch} {s0 : State} (p : ℕ) (s : State) (hk : Keeps T s0 s) (ht : T.regs = true ∧ T.chans = true ∧ T.links = true ∧ T.cxl = true ∧ T.boot = true ∧ T.rcv = true := by simp [*]) :
    OutKeeps T s0 (execPortRetrainDone p s) := by
  unfold execPortRetrainDone
  try dsimp only
  repeat' first | (with_reducible assumption) | (simp +contextual (maxDischargeDepth := 60) only [ht]; done) | split | (with_reducible apply keeps_foldl) | (with_reducible apply keeps_foldl_fst) | (with_reducible apply keeps_foldl_snd) | (with_reducible apply keeps_foldl_snd2) | (intro _ _ _) | (intro _ _) | with_reducible apply onlyIf_keeps | with_reducible apply portDown_keeps | with_reducible apply modPort_keeps | with_reducible apply keeps_ite | with_reducible apply outKeeps_ite | with_reducible apply atUnit_keeps | dsimp only
theorem execPortRetrainWrite_keeps {T : Touch} {s0 : State} (p : ℕ) (s : State) (hk : Keeps T s0 s) (ht : T.regs = true ∧ T.chans = true ∧ T.links = true ∧ T.cxl = true ∧ T.boot = true ∧ T.rcv = true := by simp [*]) :
    OutKeeps T s0 (execPortRetrainWrite p s) := by
  unfold execPortRetrainWrite
  simp +contextual (maxDischargeDepth := 60) only [atUnit_keeps, outKeeps_next, hk, fullTraining_keeps, ht, and_self]
theorem wireOf_keeps {T : Touch} {s0 : State} (p : ℕ) (t : TxMsg) (s : State) (hk : Keeps T s0 s) (ht : T.regs = true ∧ T.chans = true ∧ T.links = true ∧ T.cxl = true := by simp [*]) :
    Keeps T s0 (wireOf p t s).1 := by
  unfold wireOf
  try dsimp only
  repeat' first | (with_reducible assumption) | (simp +contextual (maxDischargeDepth := 60) only [hk, cntAdd_keeps, streamBlock_keeps, ht, and_self]; done) | split | (with_reducible apply keeps_foldl) | (with_reducible apply keeps_foldl_fst) | (with_reducible apply keeps_foldl_snd) | (with_reducible apply keeps_foldl_snd2) | (intro _ _ _) | (intro _ _) | with_reducible apply cntAdd_keeps | with_reducible apply streamBlock_keeps | with_reducible apply modPort_keeps | with_reducible apply keeps_ite | with_reducible apply outKeeps_ite | with_reducible apply atUnit_keeps | dsimp only
theorem expandMsg_keeps {T : Touch} {s0 : State} (p : Nat) (m : Msg) (fuel i : Nat) (bs : List Byte) (s : State) (hk : Keeps T s0 s) (ht : T.regs = true ∧ T.chans = true ∧ T.cxl = true ∧ T.boot = true ∧ T.rcv = true := by simp [*]) :
    Keeps T s0 (expandMsg p m fuel i bs s).1 := by
  induction fuel generalizing i bs s with
  | zero => exact hk
  | succ fuel ih =>
    unfold expandMsg
    split
    · exact hk
    · exact ih _ _ _ (expandBlock_keeps _ _ _ _ _ _ _ hk)
theorem arrive_keeps {T : Touch} {s0 : State} (p : ℕ) (cls : ℕ) (pl : RxPlace) (m : Msg) (s : State) (hk : Keeps T s0 s) (ht : T.regs = true ∧ T.chans = true ∧ T.links = true ∧ T.cxl = true := by simp [*]) :
    Keeps T s0 (arrive p cls pl m s) := by
  unfold arrive
  try dsimp only
  repeat' first | (with_reducible assumption) | (simp +contextual (maxDischargeDepth := 60) only [hk, modPort_keeps, deliver_keeps, ht, and_self]; done) | split | dsimp only
theorem askBlocks_keeps {T : Touch} {s0 : State} (p : ℕ) (m : Msg) (bs : List (ℕ × ℕ)) (s : State) (hk : Keeps T s0 s) (ht : T.links = true := by simp [*]) :
    Keeps T s0 (askBlocks p m bs s) := by
  unfold askBlocks
  try dsimp only
  repeat' first | (with_reducible assumption) | (simp +contextual (maxDischargeDepth := 60) only [enqueueMsg_keeps, ht]; done) | split | (with_reducible apply keeps_foldl) | (with_reducible apply keeps_foldl_fst) | (with_reducible apply keeps_foldl_snd) | (with_reducible apply keeps_foldl_snd2) | (intro _ _ _) | (intro _ _) | with_reducible apply enqueueMsg_keeps | with_reducible apply keeps_ite | with_reducible apply outKeeps_ite | with_reducible apply atUnit_keeps | dsimp only
theorem receiveMsg_keeps {T : Touch} {s0 : State} (p : ℕ) (cls : ℕ) (pl : RxPlace) (bs : List Byte) (s : State) (hk : Keeps T s0 s) (ht : T.regs = true ∧ T.chans = true ∧ T.links = true ∧ T.cxl = true ∧ T.boot = true ∧ T.rcv = true := by simp [*]) :
    Keeps T s0 (receiveMsg p cls pl bs s) := by
  have h1 := expandMsg_keeps p (msgOf bs).1 17 0 (msgOf bs).2 s hk
  unfold receiveMsg
  dsimp only
  split
  · split
    · exact arrive_keeps _ _ _ _ _ h1
    · exact askBlocks_keeps _ _ _ _ (modPort_keeps _ _ _ h1)
  · split
    · exact arrive_keeps _ _ _ _ _ hk
    · exact releaseWaits_keeps _ _ (modPort_keeps _ _ _ (blocksOver_keeps _ _ _ _ _ (leavePlace_keeps _ _ hk)))
theorem flitLeaves_keeps {T : Touch} {s0 : State} (eof : Bool) (t : TxMsg) (s : State) (hk : Keeps T s0 s) (ht : T.links = true := by simp [*]) :
    Keeps T s0 (flitLeaves eof t s).1 := by
  unfold flitLeaves
  try dsimp only
  repeat' first | (with_reducible assumption) | (simp +contextual (maxDischargeDepth := 60) only [hk, leavePlace_keeps, ht]; done) | split | dsimp only
theorem execFlitTx_keeps {T : Touch} {s0 : State} (p : ℕ) (s : State) (hk : Keeps T s0 s) (ht : T.regs = true ∧ T.chans = true ∧ T.links = true ∧ T.cxl = true := by simp [*]) :
    OutKeeps T s0 (execFlitTx p s) := by
  unfold execFlitTx
  try dsimp only
  repeat' first | (with_reducible assumption) | (simp +contextual (maxDischargeDepth := 60) only [ht, and_self]; done) | split | (with_reducible apply keeps_foldl) | (with_reducible apply keeps_foldl_fst) | (with_reducible apply keeps_foldl_snd) | (with_reducible apply keeps_foldl_snd2) | (intro _ _ _) | (intro _ _) | with_reducible apply onlyIf_keeps | with_reducible apply cntInc_keeps | with_reducible apply modPort_keeps | with_reducible apply setPort_keeps | with_reducible apply wireOf_keeps | with_reducible apply flitLeaves_keeps | with_reducible apply keeps_ite | with_reducible apply outKeeps_ite | with_reducible apply atUnit_keeps | dsimp only
theorem nakReplay_keeps {T : Touch} {s0 : State} (p : ℕ) (s : State) (hk : Keeps T s0 s) (ht : T.regs = true ∧ T.chans = true ∧ T.links = true ∧ T.cxl = true := by simp [*]) :
    Keeps T s0 (nakReplay p s) := by
  unfold nakReplay
  try dsimp only
  repeat' first | (with_reducible assumption) | (simp +contextual (maxDischargeDepth := 60) only [hk, modPort_keeps, retrain_keeps, setEv_keeps, ht, and_self]; done) | split | dsimp only
theorem nakGap_keeps {T : Touch} {s0 : State} (p : ℕ) (s : State) (hk : Keeps T s0 s) (ht : T.links = true := by simp [*]) :
    Keeps T s0 (nakGap p s) := by
  unfold nakGap
  try dsimp only
  repeat' first | (with_reducible assumption) | (simp +contextual (maxDischargeDepth := 60) only [hk, modPort_keeps, ht]; done) | split | dsimp only
theorem takeFlit_keeps {T : Touch} {s0 : State} (p : ℕ) (f : Flit) (s : State) (hk : Keeps T s0 s) (ht : T.regs = true ∧ T.chans = true ∧ T.links = true ∧ T.cxl = true ∧ T.boot = true ∧ T.rcv = true := by simp [*]) :
    Keeps T s0 (takeFlit p f s) := by
  unfold takeFlit
  try dsimp only
  repeat' first | (with_reducible assumption) | (simp +contextual (maxDischargeDepth := 60) only [hk, cntInc_keeps, modPort_keeps, receiveMsg_keeps, ht, and_self]; done) | split | dsimp only
theorem flitReturns_keeps {T : Touch} {s0 : State} (p : ℕ) (f : Flit) (s : State) (hk : Keeps T s0 s) (ht : T.links = true := by simp [*]) :
    Keeps T s0 (flitReturns p f s) := by
  unfold flitReturns
  simp +contextual (maxDischargeDepth := 60) only [hk, modPort_keeps, ht]
theorem fecCount_keeps {T : Touch} {s0 : State} (p : ℕ) (corr : ℕ) (uncorr : ℕ) (s : State) (hk : Keeps T s0 s) (ht : T.regs = true ∧ T.chans = true ∧ T.cxl = true := by simp [*]) :
    Keeps T s0 (fecCount p corr uncorr s) := by
  unfold fecCount
  simp +contextual (maxDischargeDepth := 60) only [hk, cntAdd_keeps, ht, and_self]
theorem execTorusSet_keeps {T : Touch} {s0 : State} (src : CmdSrc) (e : Entry) (s : State) (hk : Keeps T s0 s) (ht : T.regs = true ∧ T.mbxs = true ∧ T.chans = true ∧ T.links = true ∧ T.cxl = true ∧ T.boot = true ∧ T.rcv = true ∧ T.smbOut = true := by simp [*]) :
    OutKeeps T s0 (execTorusSet src e s) := by
  unfold execTorusSet
  try dsimp only
  repeat' first | (with_reducible assumption) | (simp +contextual (maxDischargeDepth := 60) only [answer_keeps, ht, and_self]; done) | split | (with_reducible apply keeps_foldl) | (with_reducible apply keeps_foldl_fst) | (with_reducible apply keeps_foldl_snd) | (with_reducible apply keeps_foldl_snd2) | (intro _ _ _) | (intro _ _) | with_reducible apply serve_keeps | with_reducible apply answer_keeps | with_reducible apply modLinks_keeps | with_reducible apply acceptPeer_keeps | with_reducible apply keeps_ite | with_reducible apply outKeeps_ite | with_reducible apply atUnit_keeps | dsimp only
theorem execRouteSet_keeps {T : Touch} {s0 : State} (src : CmdSrc) (e : Entry) (s : State) (hk : Keeps T s0 s) (ht : T.regs = true ∧ T.stackMap = true ∧ T.deeps = true ∧ T.poison = true ∧ T.xlat = true ∧ T.mbxs = true ∧ T.chans = true ∧ T.links = true ∧ T.cxl = true ∧ T.boot = true ∧ T.rcv = true ∧ T.smbOut = true := by simp [*]) :
    OutKeeps T s0 (execRouteSet src e s) := by
  unfold execRouteSet
  try dsimp only
  repeat' first | (with_reducible assumption) | (simp +contextual (maxDischargeDepth := 60) only [answer_keeps, modLinks_keeps, ht, and_self]; done) | split | (with_reducible apply keeps_foldl) | (with_reducible apply keeps_foldl_fst) | (with_reducible apply keeps_foldl_snd) | (with_reducible apply keeps_foldl_snd2) | (intro _ _ _) | (intro _ _) | with_reducible apply serve_keeps | with_reducible apply answer_keeps | with_reducible apply modLinks_keeps | with_reducible apply objRead_keeps | with_reducible apply keeps_ite | with_reducible apply outKeeps_ite | with_reducible apply atUnit_keeps | dsimp only

end Sys2Proof.Machine
end

