-- ==== Sys2Proof/Laws/Keeps/Power.lean ====
section
/-! SUPPORT. What each operation of Machine/Power.lean keeps. -/

namespace Sys2Proof.Machine

open Sys2Proof

set_option Elab.async false
set_option linter.unusedTactic false
set_option linter.unreachableTactic false

theorem coldReset_keeps {T : Touch} {s0 : State} (trig : ℕ) (s : State) (hk : Keeps T s0 s) (ht : T.regs = true ∧ T.tillers = true ∧ T.stackMap = true ∧ T.deeps = true ∧ T.objs = true ∧ T.grans = true ∧ T.shareGroups = true ∧ T.used = true ∧ T.migs = true ∧ T.heldBy = true ∧ T.chans = true ∧ T.links = true ∧ T.cxl = true ∧ T.boot = true ∧ T.rcv = true ∧ T.flights = true := by simp [*]) :
    Keeps T s0 (coldReset trig s) := by
  unfold coldReset
  try dsimp only
  repeat' first | (with_reducible assumption) | (simp +contextual (maxDischargeDepth := 60) only [Nat.le_refl, hk, modBoot_keeps, modDomain_keeps, beginReset_keeps, ht, and_self]; done) | split | dsimp only
theorem execPowerAverage_keeps {T : Touch} {s0 : State} (mw : ℕ) (mv : ℕ) (s : State) (hk : Keeps T s0 s) (ht : T.regs = true ∧ T.chans = true ∧ T.cxl = true ∧ T.power = true := by simp [*]) :
    OutKeeps T s0 (execPowerAverage mw mv s) := by
  unfold execPowerAverage
  try dsimp only
  repeat' first | (with_reducible assumption) | (simp +contextual (maxDischargeDepth := 60) only [ht, and_self]; done) | split | (with_reducible apply keeps_foldl) | (with_reducible apply keeps_foldl_fst) | (with_reducible apply keeps_foldl_snd) | (with_reducible apply keeps_foldl_snd2) | (intro _ _ _) | (intro _ _) | with_reducible apply onlyIf_keeps | with_reducible apply cntAdd_keeps | with_reducible apply modPower_keeps | with_reducible apply setEv_keeps | with_reducible apply keeps_ite | with_reducible apply outKeeps_ite | with_reducible apply atUnit_keeps | dsimp only
theorem execDieTempSample_keeps {T : Touch} {s0 : State} (temps : List ℕ) (regs : List ℕ) (s : State) (hk : Keeps T s0 s) (ht : T.regs = true ∧ T.chans = true ∧ T.cxl = true ∧ T.power = true := by simp [*]) :
    OutKeeps T s0 (execDieTempSample temps regs s) := by
  unfold execDieTempSample
  try dsimp only
  repeat' first | (with_reducible assumption) | (simp +contextual (maxDischargeDepth := 60) only [modPower_keeps, setEv_keeps, ht, and_self]; done) | split | (with_reducible apply keeps_foldl) | (with_reducible apply keeps_foldl_fst) | (with_reducible apply keeps_foldl_snd) | (with_reducible apply keeps_foldl_snd2) | (intro _ _ _) | (intro _ _) | with_reducible apply onlyIf_keeps | with_reducible apply modPower_keeps | with_reducible apply setEv_keeps | with_reducible apply keeps_ite | with_reducible apply outKeeps_ite | with_reducible apply atUnit_keeps | dsimp only
theorem execThermLevelStep_keeps {T : Touch} {s0 : State} (s : State) (hk : Keeps T s0 s) (ht : T.power = true := by simp [*]) :
    OutKeeps T s0 (execThermLevelStep s) := by
  unfold execThermLevelStep
  try dsimp only
  repeat' first | (with_reducible assumption) | (simp +contextual (maxDischargeDepth := 60) only [outKeeps_next, hk, modPower_keeps, ht]; done) | split | dsimp only
theorem tillerWaits_keeps {T : Touch} {s0 : State} (t : ℕ) (u : Tiller) (n : ℕ) (s : State) (hk : Keeps T s0 s) (ht : T.regs = true ∧ T.chans = true ∧ T.cxl = true := by simp [*]) :
    Keeps T s0 (tillerWaits t u n s) := by
  unfold tillerWaits
  try dsimp only
  repeat' first | (with_reducible assumption) | (simp +contextual (maxDischargeDepth := 60) only [hk, cntAdd_keeps, ht, and_self]; done) | split | dsimp only
theorem countWaits_keeps {T : Touch} {s0 : State} (aCycles : ℕ) (s : State) (hk : Keeps T s0 s) (ht : T.regs = true ∧ T.chans = true ∧ T.cxl = true := by simp [*]) :
    Keeps T s0 (countWaits aCycles s) := by
  unfold countWaits
  try dsimp only
  repeat' first | (with_reducible assumption) | (simp +contextual (maxDischargeDepth := 60) only [tillerWaits_keeps, ht, and_self]; done) | split | (with_reducible apply keeps_foldl) | (with_reducible apply keeps_foldl_fst) | (with_reducible apply keeps_foldl_snd) | (with_reducible apply keeps_foldl_snd2) | (intro _ _ _) | (intro _ _) | with_reducible apply tillerWaits_keeps | with_reducible apply cntAdd_keeps | with_reducible apply keeps_ite | with_reducible apply outKeeps_ite | with_reducible apply atUnit_keeps | dsimp only
theorem tick_keeps {T : Touch} {s0 : State} (s : State) (hk : Keeps T s0 s) (ht : T.us = true ∧ T.regs = true ∧ T.chans = true ∧ T.cxl = true := by simp [*]) :
    Keeps T s0 (tick s) := by
  unfold tick
  try dsimp only
  repeat' first | (with_reducible assumption) | (simp +contextual (maxDischargeDepth := 60) only [cntAdd_keeps, ht, and_self]; done) | split | (with_reducible apply keeps_foldl) | (with_reducible apply keeps_foldl_fst) | (with_reducible apply keeps_foldl_snd) | (with_reducible apply keeps_foldl_snd2) | (intro _ _ _) | (intro _ _) | with_reducible apply cntAdd_keeps | with_reducible apply countWaits_keeps | with_reducible apply keeps_ite | with_reducible apply outKeeps_ite | with_reducible apply atUnit_keeps | (with_reducible refine keeps_us _ ?_ (by simp [ht])) | dsimp only
theorem execThermalShutdown_keeps {T : Touch} {s0 : State} (sensor : ℕ) (s : State) (hk : Keeps T s0 s) (ht : T.regs = true ∧ T.tillers = true ∧ T.stackMap = true ∧ T.deeps = true ∧ T.objs = true ∧ T.grans = true ∧ T.shareGroups = true ∧ T.used = true ∧ T.migs = true ∧ T.heldBy = true ∧ T.chans = true ∧ T.links = true ∧ T.cxl = true ∧ T.power = true ∧ T.boot = true ∧ T.rcv = true ∧ T.flights = true := by simp [*]) :
    OutKeeps T s0 (execThermalShutdown sensor s) := by
  unfold execThermalShutdown
  try dsimp only
  repeat' first | (with_reducible assumption) | (simp +contextual (maxDischargeDepth := 60) only [coldReset_keeps, modPower_keeps, ht, and_self]; done) | split | (with_reducible apply keeps_foldl) | (with_reducible apply keeps_foldl_fst) | (with_reducible apply keeps_foldl_snd) | (with_reducible apply keeps_foldl_snd2) | (intro _ _ _) | (intro _ _) | with_reducible apply onlyIf_keeps | with_reducible apply coldReset_keeps | with_reducible apply modPower_keeps | with_reducible apply keeps_ite | with_reducible apply outKeeps_ite | with_reducible apply atUnit_keeps | dsimp only
theorem execThrottleApply_keeps {T : Touch} {s0 : State} (s : State) (hk : Keeps T s0 s) (ht : T.power = true := by simp [*]) :
    OutKeeps T s0 (execThrottleApply s) := by
  unfold execThrottleApply
  simp +contextual (maxDischargeDepth := 60) only [outKeeps_next, hk, modPower_keeps, ht]
theorem dip_keeps {T : Touch} {s0 : State} (mv : ℕ) (s : State) (hk : Keeps T s0 s) (ht : T.regs = true ∧ T.chans = true ∧ T.cxl = true ∧ T.power = true := by simp [*]) :
    Keeps T s0 (dip mv s) := by
  unfold dip
  try dsimp only
  repeat' first | (with_reducible assumption) | (simp +contextual (maxDischargeDepth := 60) only [hk, modPower_keeps, cntInc_keeps, setEv_keeps, ht, and_self]; done) | split | dsimp only
theorem execVcoreDip_keeps {T : Touch} {s0 : State} (site : ℕ) (mv : ℕ) (s : State) (hk : Keeps T s0 s) (ht : T.regs = true ∧ T.chans = true ∧ T.cxl = true ∧ T.power = true := by simp [*]) :
    OutKeeps T s0 (execVcoreDip site mv s) := by
  unfold execVcoreDip
  try dsimp only
  repeat' first | (with_reducible assumption) | (simp +contextual (maxDischargeDepth := 60) only [dip_keeps, ht, and_self]; done) | split | (with_reducible apply keeps_foldl) | (with_reducible apply keeps_foldl_fst) | (with_reducible apply keeps_foldl_snd) | (with_reducible apply keeps_foldl_snd2) | (intro _ _ _) | (intro _ _) | with_reducible apply onlyIf_keeps | with_reducible apply dip_keeps | with_reducible apply keeps_ite | with_reducible apply outKeeps_ite | with_reducible apply atUnit_keeps | dsimp only
theorem execStretchEnd_keeps {T : Touch} {s0 : State} (s : State) (hk : Keeps T s0 s) (ht : T.power = true := by simp [*]) :
    OutKeeps T s0 (execStretchEnd s) := by
  unfold execStretchEnd
  try dsimp only
  repeat' first | (with_reducible assumption) | (simp +contextual (maxDischargeDepth := 60) only [modPower_keeps, ht]; done) | split | (with_reducible apply keeps_foldl) | (with_reducible apply keeps_foldl_fst) | (with_reducible apply keeps_foldl_snd) | (with_reducible apply keeps_foldl_snd2) | (intro _ _ _) | (intro _ _) | with_reducible apply onlyIf_keeps | with_reducible apply modPower_keeps | with_reducible apply keeps_ite | with_reducible apply outKeeps_ite | with_reducible apply atUnit_keeps | dsimp only
theorem execDipHoldEnd_keeps {T : Touch} {s0 : State} (s : State) (hk : Keeps T s0 s) (ht : T.power = true := by simp [*]) :
    OutKeeps T s0 (execDipHoldEnd s) := by
  unfold execDipHoldEnd
  try dsimp only
  repeat' first | (with_reducible assumption) | (simp +contextual (maxDischargeDepth := 60) only [modPower_keeps, ht]; done) | split | (with_reducible apply keeps_foldl) | (with_reducible apply keeps_foldl_fst) | (with_reducible apply keeps_foldl_snd) | (with_reducible apply keeps_foldl_snd2) | (intro _ _ _) | (intro _ _) | with_reducible apply onlyIf_keeps | with_reducible apply modPower_keeps | with_reducible apply keeps_ite | with_reducible apply outKeeps_ite | with_reducible apply atUnit_keeps | dsimp only
theorem execVcoreResetLevel_keeps {T : Touch} {s0 : State} (site : ℕ) (mv : ℕ) (s : State) (hk : Keeps T s0 s) (ht : T.regs = true ∧ T.tillers = true ∧ T.stackMap = true ∧ T.deeps = true ∧ T.dram = true ∧ T.poison = true ∧ T.husk = true ∧ T.huskBad = true ∧ T.objs = true ∧ T.grans = true ∧ T.shareGroups = true ∧ T.used = true ∧ T.migs = true ∧ T.heldBy = true ∧ T.xlat = true ∧ T.chans = true ∧ T.links = true ∧ T.cxl = true ∧ T.power = true ∧ T.boot = true ∧ T.rcv = true ∧ T.flights = true ∧ T.notices = true := by simp [*]) :
    OutKeeps T s0 (execVcoreResetLevel site mv s) := by
  unfold execVcoreResetLevel
  try dsimp only
  repeat' first | (with_reducible assumption) | (simp +contextual (maxDischargeDepth := 60) only [ht, and_self]; done) | split | (with_reducible apply keeps_foldl) | (with_reducible apply keeps_foldl_fst) | (with_reducible apply keeps_foldl_snd) | (with_reducible apply keeps_foldl_snd2) | (intro _ _ _) | (intro _ _) | with_reducible apply onlyIf_keeps | with_reducible apply dip_keeps | with_reducible apply logRec_keeps | with_reducible apply setEv_keeps | with_reducible apply fenceDomain_keeps | with_reducible apply keeps_ite | with_reducible apply outKeeps_ite | with_reducible apply atUnit_keeps | dsimp only
theorem execRailResetOther_keeps {T : Touch} {s0 : State} (rail : ℕ) (mv : ℕ) (s : State) (hk : Keeps T s0 s) (ht : T.regs = true ∧ T.tillers = true ∧ T.stackMap = true ∧ T.deeps = true ∧ T.objs = true ∧ T.grans = true ∧ T.shareGroups = true ∧ T.used = true ∧ T.migs = true ∧ T.heldBy = true ∧ T.chans = true ∧ T.links = true ∧ T.cxl = true ∧ T.power = true ∧ T.boot = true ∧ T.rcv = true ∧ T.flights = true := by simp [*]) :
    OutKeeps T s0 (execRailResetOther rail mv s) := by
  unfold execRailResetOther
  try dsimp only
  repeat' first | (with_reducible assumption) | (simp +contextual (maxDischargeDepth := 60) only [coldReset_keeps, modPower_keeps, ht, and_self]; done) | split | (with_reducible apply keeps_foldl) | (with_reducible apply keeps_foldl_fst) | (with_reducible apply keeps_foldl_snd) | (with_reducible apply keeps_foldl_snd2) | (intro _ _ _) | (intro _ _) | with_reducible apply onlyIf_keeps | with_reducible apply coldReset_keeps | with_reducible apply modPower_keeps | with_reducible apply keeps_ite | with_reducible apply outKeeps_ite | with_reducible apply atUnit_keeps | dsimp only
theorem execClockLoss_keeps {T : Touch} {s0 : State} (s : State) (hk : Keeps T s0 s) (ht : T.regs = true ∧ T.tillers = true ∧ T.stackMap = true ∧ T.deeps = true ∧ T.objs = true ∧ T.grans = true ∧ T.shareGroups = true ∧ T.used = true ∧ T.migs = true ∧ T.heldBy = true ∧ T.chans = true ∧ T.links = true ∧ T.cxl = true ∧ T.power = true ∧ T.boot = true ∧ T.rcv = true ∧ T.flights = true := by simp [*]) :
    OutKeeps T s0 (execClockLoss s) := by
  unfold execClockLoss
  try dsimp only
  repeat' first | (with_reducible assumption) | (simp +contextual (maxDischargeDepth := 60) only [coldReset_keeps, modPower_keeps, ht, and_self]; done) | split | (with_reducible apply keeps_foldl) | (with_reducible apply keeps_foldl_fst) | (with_reducible apply keeps_foldl_snd) | (with_reducible apply keeps_foldl_snd2) | (intro _ _ _) | (intro _ _) | with_reducible apply onlyIf_keeps | with_reducible apply coldReset_keeps | with_reducible apply modPower_keeps | with_reducible apply keeps_ite | with_reducible apply outKeeps_ite | with_reducible apply atUnit_keeps | dsimp only
theorem execClockRestored_keeps {T : Touch} {s0 : State} (s : State) (hk : Keeps T s0 s) (ht : T.power = true := by simp [*]) :
    OutKeeps T s0 (execClockRestored s) := by
  unfold execClockRestored
  try dsimp only
  repeat' first | (with_reducible assumption) | (simp +contextual (maxDischargeDepth := 60) only [modPower_keeps, ht]; done) | split | (with_reducible apply keeps_foldl) | (with_reducible apply keeps_foldl_fst) | (with_reducible apply keeps_foldl_snd) | (with_reducible apply keeps_foldl_snd2) | (intro _ _ _) | (intro _ _) | with_reducible apply onlyIf_keeps | with_reducible apply modPower_keeps | with_reducible apply keeps_ite | with_reducible apply outKeeps_ite | with_reducible apply atUnit_keeps | dsimp only
theorem execVcoreMinReset_keeps {T : Touch} {s0 : State} (w : Word) (s : State) (hk : Keeps T s0 s) (ht : T.power = true := by simp [*]) :
    OutKeeps T s0 (execVcoreMinReset w s) := by
  unfold execVcoreMinReset
  try dsimp only
  repeat' first | (with_reducible assumption) | (simp +contextual (maxDischargeDepth := 60) only [modPower_keeps, ht]; done) | split | (with_reducible apply keeps_foldl) | (with_reducible apply keeps_foldl_fst) | (with_reducible apply keeps_foldl_snd) | (with_reducible apply keeps_foldl_snd2) | (intro _ _ _) | (intro _ _) | with_reducible apply onlyIf_keeps | with_reducible apply modPower_keeps | with_reducible apply keeps_ite | with_reducible apply outKeeps_ite | with_reducible apply atUnit_keeps | dsimp only
theorem execCounterClear_keeps {T : Touch} {s0 : State} (addr : ℕ) (size : ℕ) (w : Word) (inc : ℕ) (s : State) (hk : Keeps T s0 s) (ht : T.regs = true ∧ T.chans = true ∧ T.cxl = true := by simp [*]) :
    OutKeeps T s0 (execCounterClear addr size w inc s) := by
  unfold execCounterClear
  try dsimp only
  repeat' first | (with_reducible assumption) | (simp +contextual (maxDischargeDepth := 60) only [outKeeps_next, hk, cntAdd_keeps, wr_keeps, ht, and_self]; done) | split | dsimp only
theorem regWrite_keeps {T : Touch} {s0 : State} (b : Blk) (r : RegDef) (mask : ℕ) (data : ℕ) (ev : ℕ) (s : State) (hk : Keeps T s0 s) (ht : T.regs = true := by simp [*]) :
    Keeps T s0 (regWrite b r mask data ev s) := by
  unfold regWrite
  simp +contextual (maxDischargeDepth := 60) only [hk, wr_keeps, ht]
theorem regWriteAt_keeps {T : Touch} {s0 : State} (b : Blk) (off : ℕ) (mask : ℕ) (data : ℕ) (size : ℕ) (ev : ℕ) (s : State) (hk : Keeps T s0 s) (ht : T.regs = true := by simp [*]) :
    Keeps T s0 (regWriteAt b off mask data size ev s) := by
  unfold regWriteAt
  try dsimp only
  repeat' first | (with_reducible assumption) | (simp +contextual (maxDischargeDepth := 60) only [hk, regWrite_keeps, ht]; done) | split | dsimp only
theorem lsLoadNow_keeps {T : Touch} {s0 : State} (c : ℕ) (s : State) (hk : Keeps T s0 s) (ht : T.chans = true := by simp [*]) :
    Keeps T s0 (lsLoadNow c s) := by
  unfold lsLoadNow
  simp +contextual (maxDischargeDepth := 60) only [hk, modTrn_keeps, ht]
theorem regActs_keeps {T : Touch} {s0 : State} (b : Blk) (off : ℕ) (data : ℕ) (s : State) (hk : Keeps T s0 s) (ht : T.regs = true ∧ T.chans = true ∧ T.links = true ∧ T.cxl = true ∧ T.boot = true ∧ T.rcv = true := by simp [*]) :
    Keeps T s0 (regActs b off data s) := by
  unfold regActs
  try dsimp only
  repeat' first | (with_reducible assumption) | (simp +contextual (maxDischargeDepth := 60) only [hk, lsLoadNow_keeps, rerouteAll_keeps, fullTraining_keeps, ht, and_self]; done) | split | dsimp only
theorem dlWrite_keeps {T : Touch} {s0 : State} (off : ℕ) (bs : List Byte) (s : State) (hk : Keeps T s0 s) (ht : T.boot = true := by simp [*]) :
    Keeps T s0 (dlWrite off bs s) := by
  unfold dlWrite
  simp +contextual (maxDischargeDepth := 60) only [Nat.le_refl, hk, modBoot_keeps, ht]
theorem execLsLoad_keeps {T : Touch} {s0 : State} (c : ℕ) (w : Word) (s : State) (hk : Keeps T s0 s) (ht : T.regs = true ∧ T.chans = true := by simp [*]) :
    OutKeeps T s0 (execLsLoad c w s) := by
  unfold execLsLoad
  try dsimp only
  repeat' first | (with_reducible assumption) | (simp +contextual (maxDischargeDepth := 60) only [lsLoadNow_keeps, regWriteAt_keeps, ht]; done) | split | (with_reducible apply keeps_foldl) | (with_reducible apply keeps_foldl_fst) | (with_reducible apply keeps_foldl_snd) | (with_reducible apply keeps_foldl_snd2) | (intro _ _ _) | (intro _ _) | with_reducible apply onlyIf_keeps | with_reducible apply lsLoadNow_keeps | with_reducible apply regWriteAt_keeps | with_reducible apply keeps_ite | with_reducible apply outKeeps_ite | with_reducible apply atUnit_keeps | dsimp only
theorem execRegisterWrite_keeps {T : Touch} {s0 : State} (addr : ℕ) (size : ℕ) (x : RegData) (s : State) (hk : Keeps T s0 s) (ht : T.regs = true ∧ T.chans = true ∧ T.links = true ∧ T.cxl = true ∧ T.boot = true ∧ T.rcv = true := by simp [*]) :
    OutKeeps T s0 (execRegisterWrite addr size x s) := by
  unfold execRegisterWrite
  try dsimp only
  repeat' first | (with_reducible assumption) | (simp +contextual (maxDischargeDepth := 60) only [outKeeps_next, hk, wrAddr_keeps, dlWrite_keeps, modRings_keeps, regActs_keeps, regWriteAt_keeps, ht, and_self]; done) | split | dsimp only
theorem execSmbTelemetry_keeps {T : Touch} {s0 : State} (sq : ℕ) (page : ℕ) (s : State) (hk : Keeps T s0 s) (ht : T.smbOut = true := by simp [*]) :
    OutKeeps T s0 (execSmbTelemetry sq page s) := by
  unfold execSmbTelemetry
  try dsimp only
  repeat' first | (with_reducible assumption) | (simp +contextual (maxDischargeDepth := 60) only [smbAnswer_keeps, ht]; done) | split | (with_reducible apply keeps_foldl) | (with_reducible apply keeps_foldl_fst) | (with_reducible apply keeps_foldl_snd) | (with_reducible apply keeps_foldl_snd2) | (intro _ _ _) | (intro _ _) | with_reducible apply onlyIf_keeps | with_reducible apply smbAnswer_keeps | with_reducible apply keeps_ite | with_reducible apply outKeeps_ite | with_reducible apply atUnit_keeps | dsimp only

end Sys2Proof.Machine
end

