-- ==== Sys2Proof/Laws/Keeps/Boot.lean ====
section
/-! SUPPORT. What each operation of Machine/Boot.lean keeps. -/

namespace Sys2Proof.Machine

open Sys2Proof

set_option Elab.async false
set_option linter.unusedTactic false
set_option linter.unreachableTactic false

theorem writeDir_keeps {T : Touch} {s0 : State} (s : State) (hk : Keeps T s0 s) (ht : T.boot = true := by simp [*]) :
    Keeps T s0 (writeDir s) := by
  unfold writeDir
  try dsimp only
  repeat' first | (with_reducible assumption) | (simp +contextual (maxDischargeDepth := 60) only [Nat.le_refl]; done) | split | (with_reducible apply keeps_foldl) | (with_reducible apply keeps_foldl_fst) | (with_reducible apply keeps_foldl_snd) | (with_reducible apply keeps_foldl_snd2) | (intro _ _ _) | (intro _ _) | with_reducible apply modBoot_keeps | with_reducible apply keeps_ite | with_reducible apply outKeeps_ite | with_reducible apply atUnit_keeps | dsimp only
theorem verifyFailed_keeps {T : Touch} {s0 : State} (s : State) (hk : Keeps T s0 s) (ht : T.regs = true ∧ T.chans = true ∧ T.cxl = true := by simp [*]) :
    Keeps T s0 (verifyFailed s) := by
  unfold verifyFailed
  simp +contextual (maxDischargeDepth := 60) only [hk, cntInc_keeps, ht, and_self]
theorem writeSettings_keeps {T : Touch} {s0 : State} (c : SetCopy) (s : State) (hk : Keeps T s0 s) (ht : T.boot = true := by simp [*]) :
    Keeps T s0 (writeSettings c s) := by
  unfold writeSettings
  try dsimp only
  repeat' first | (with_reducible assumption) | (simp +contextual (maxDischargeDepth := 60) only [Nat.le_refl]; done) | split | (with_reducible apply keeps_foldl) | (with_reducible apply keeps_foldl_fst) | (with_reducible apply keeps_foldl_snd) | (with_reducible apply keeps_foldl_snd2) | (intro _ _ _) | (intro _ _) | with_reducible apply modBoot_keeps | with_reducible apply keeps_ite | with_reducible apply outKeeps_ite | with_reducible apply atUnit_keeps | dsimp only
theorem loadSettings_keeps {T : Touch} {s0 : State} (s : State) (hk : Keeps T s0 s) (ht : T.regs = true ∧ T.chans = true ∧ T.cxl = true ∧ T.boot = true := by simp [*]) :
    Keeps T s0 (loadSettings s) := by
  unfold loadSettings
  try dsimp only
  repeat' first | (with_reducible assumption) | (simp +contextual (maxDischargeDepth := 60) only [Nat.le_refl, hk, setEv_keeps, modBoot_keeps, writeSettings_keeps, ht, and_self]; done) | split | dsimp only
theorem applyRetired_keeps {T : Touch} {s0 : State} (s : State) (hk : Keeps T s0 s) (ht : T.rcv = true := by simp [*]) :
    Keeps T s0 (applyRetired s) := by
  unfold applyRetired
  try dsimp only
  repeat' first | (with_reducible assumption) | (simp +contextual (maxDischargeDepth := 60) only [atUnit_keeps, keeps_freeCtr, Nat.le_refl, keeps_ite, outKeeps_ite, outKeeps_next, outKeeps_fault, keeps_foldl, keeps_foldl_fst, keeps_foldl_snd, keeps_foldl_snd2, hk, modDomain_keeps, ht, and_self]; done) | split | (with_reducible apply keeps_foldl) | (with_reducible apply keeps_foldl_fst) | (with_reducible apply keeps_foldl_snd) | (with_reducible apply keeps_foldl_snd2) | (intro _ _ _) | (intro _ _) | with_reducible apply modDomain_keeps | with_reducible apply keeps_ite | with_reducible apply outKeeps_ite | with_reducible apply atUnit_keeps | dsimp only
theorem loseCold_keeps {T : Touch} {s0 : State} (s : State) (hk : Keeps T s0 s) (ht : T.us = true ∧ T.freeCtr = true ∧ T.regs = true ∧ T.tillers = true ∧ T.stackMap = true ∧ T.deeps = true ∧ T.dram = true ∧ T.poison = true ∧ T.husk = true ∧ T.huskBad = true ∧ T.objs = true ∧ T.grans = true ∧ T.shareGroups = true ∧ T.used = true ∧ T.migs = true ∧ T.heldBy = true ∧ T.xlat = true ∧ T.mbxs = true ∧ T.chans = true ∧ T.links = true ∧ T.cxl = true ∧ T.power = true ∧ T.phys = true ∧ T.boot = true ∧ T.rcv = true ∧ T.flights = true ∧ T.notices = true ∧ T.smbOut = true := by simp [*]) :
    Keeps T s0 (loseCold s) := by
  refine ⟨hk.pending, fun c => ⟨rfl, rfl, rfl, rfl, rfl, smWf_filter _ (hk.canon c).regs⟩, hk.free, hk.svn, hk.serial, ?_⟩
  constructor <;> simp [ht]
theorem startImage_keeps {T : Touch} {s0 : State} (f : FwSlot) (fromStaging : Bool) (identityBad : Bool) (d : ℕ) (s : State) (hk : Keeps T s0 s) (ht : T.regs = true ∧ T.chans = true ∧ T.cxl = true ∧ T.boot = true ∧ T.rcv = true := by simp [*]) :
    Keeps T s0 (startImage f fromStaging identityBad d s) := by
  unfold startImage
  try dsimp only
  repeat' first | (with_reducible assumption) | (simp +contextual (maxDischargeDepth := 60) only [Nat.le_refl, hk, modBoot_keeps, logRec_keeps, setEv_keeps, applyRetired_keeps, loadSettings_keeps, cntInc_keeps, modRcv_keeps, modDomain_keeps, writeDir_keeps, ht, and_self]; done) | split | dsimp only
theorem enterRecovery_keeps {T : Touch} {s0 : State} (d : ℕ) (s : State) (hk : Keeps T s0 s) (ht : T.mbxs = true ∧ T.chans = true ∧ T.links = true ∧ T.boot = true ∧ T.rcv = true := by simp [*]) :
    Keeps T s0 (enterRecovery d s) := by
  unfold enterRecovery
  try dsimp only
  repeat' first | (with_reducible assumption) | (simp +contextual (maxDischargeDepth := 60) only [Nat.le_refl, hk, modBoot_keeps, modDomain_keeps, ht]; done) | split | (with_reducible apply keeps_foldl) | (with_reducible apply keeps_foldl_fst) | (with_reducible apply keeps_foldl_snd) | (with_reducible apply keeps_foldl_snd2) | (intro _ _ _) | (intro _ _) | with_reducible apply modBoot_keeps | with_reducible apply modDomain_keeps | with_reducible apply keeps_ite | with_reducible apply outKeeps_ite | with_reducible apply atUnit_keeps | (with_reducible refine keeps_mbxs_chans_links _ _ _ ?_ (by simp [ht])) | dsimp only
theorem execBootChain_keeps {T : Touch} {s0 : State} (strap : Bool) (activeBad : Bool) (stagingBad : Bool) (identityBad : Bool) (s : State) (hk : Keeps T s0 s) (ht : T.regs = true ∧ T.mbxs = true ∧ T.chans = true ∧ T.links = true ∧ T.cxl = true ∧ T.boot = true ∧ T.rcv = true := by simp [*]) :
    OutKeeps T s0 (execBootChain strap activeBad stagingBad identityBad s) := by
  unfold execBootChain
  try dsimp only
  repeat' first | (with_reducible assumption) | (simp +contextual (maxDischargeDepth := 60) only [Nat.le_refl, outKeeps_next, hk, modBoot_keeps, enterRecovery_keeps, startImage_keeps, verifyFailed_keeps, setEv_keeps, ht, and_self]; done) | split | (with_reducible apply keeps_foldl) | (with_reducible apply keeps_foldl_fst) | (with_reducible apply keeps_foldl_snd) | (with_reducible apply keeps_foldl_snd2) | (intro _ _ _) | (intro _ _) | with_reducible apply modBoot_keeps | with_reducible apply enterRecovery_keeps | with_reducible apply startImage_keeps | with_reducible apply verifyFailed_keeps | with_reducible apply setEv_keeps | with_reducible apply keeps_ite | with_reducible apply outKeeps_ite | with_reducible apply atUnit_keeps | dsimp only
theorem setStaging_keeps {T : Touch} {s0 : State} (st : ℕ) (s : State) (hk : Keeps T s0 s) (ht : T.boot = true := by simp [*]) :
    Keeps T s0 (setStaging st s) := by
  unfold setStaging
  simp +contextual (maxDischargeDepth := 60) only [Nat.le_refl, hk, writeDir_keeps, modBoot_keeps, ht]
theorem beginDownload_keeps {T : Touch} {s0 : State} (n : ℕ) (s : State) (hk : Keeps T s0 s) (ht : T.boot = true := by simp [*]) :
    Keeps T s0 (beginDownload n s) := by
  unfold beginDownload
  simp +contextual (maxDischargeDepth := 60) only [Nat.le_refl, hk, setStaging_keeps, modBoot_keeps, ht]
theorem execFwBegin_keeps {T : Touch} {s0 : State} (src : CmdSrc) (e : Entry) (s : State) (hk : Keeps T s0 s) (ht : T.regs = true ∧ T.mbxs = true ∧ T.chans = true ∧ T.cxl = true ∧ T.boot = true ∧ T.smbOut = true := by simp [*]) :
    OutKeeps T s0 (execFwBegin src e s) := by
  unfold execFwBegin
  try dsimp only
  repeat' first | (with_reducible assumption) | (simp +contextual (maxDischargeDepth := 60) only [answer_keeps, beginDownload_keeps, ht, and_self]; done) | split | (with_reducible apply keeps_foldl) | (with_reducible apply keeps_foldl_fst) | (with_reducible apply keeps_foldl_snd) | (with_reducible apply keeps_foldl_snd2) | (intro _ _ _) | (intro _ _) | with_reducible apply serve_keeps | with_reducible apply answer_keeps | with_reducible apply servePending_keeps | with_reducible apply beginDownload_keeps | with_reducible apply keeps_ite | with_reducible apply outKeeps_ite | with_reducible apply atUnit_keeps | dsimp only
theorem offerBlock_keeps {T : Touch} {s0 : State} (off : ℕ) (crc : ℕ) (s : State) (hk : Keeps T s0 s) (ht : T.boot = true := by simp [*]) :
    Keeps T s0 (offerBlock off crc s).2 := by
  unfold offerBlock
  try dsimp only
  repeat' first | (with_reducible assumption) | (simp +contextual (maxDischargeDepth := 60) only [Nat.le_refl, hk, modBoot_keeps, ht]; done) | split | dsimp only
theorem execFwBlock_keeps {T : Touch} {s0 : State} (src : CmdSrc) (e : Entry) (s : State) (hk : Keeps T s0 s) (ht : T.regs = true ∧ T.mbxs = true ∧ T.chans = true ∧ T.cxl = true ∧ T.boot = true ∧ T.smbOut = true := by simp [*]) :
    OutKeeps T s0 (execFwBlock src e s) := by
  unfold execFwBlock
  try dsimp only
  repeat' first | (with_reducible assumption) | (simp +contextual (maxDischargeDepth := 60) only [offerBlock_keeps, answer_keeps, ht, and_self]; done) | split | (with_reducible apply keeps_foldl) | (with_reducible apply keeps_foldl_fst) | (with_reducible apply keeps_foldl_snd) | (with_reducible apply keeps_foldl_snd2) | (intro _ _ _) | (intro _ _) | with_reducible apply serve_keeps | with_reducible apply offerBlock_keeps | with_reducible apply answer_keeps | with_reducible apply keeps_ite | with_reducible apply outKeeps_ite | with_reducible apply atUnit_keeps | dsimp only
theorem verifyStaging_keeps {T : Touch} {s0 : State} (s : State) (hk : Keeps T s0 s) (ht : T.regs = true ∧ T.chans = true ∧ T.cxl = true ∧ T.boot = true := by simp [*]) :
    Keeps T s0 (verifyStaging s).2 := by
  unfold verifyStaging
  try dsimp only
  repeat' first | (with_reducible assumption) | (simp +contextual (maxDischargeDepth := 60) only [Nat.le_refl, hk, setStaging_keeps, modBoot_keeps, verifyFailed_keeps, setEv_keeps, ht, and_self]; done) | split | dsimp only
theorem runVerify_keeps {T : Touch} {s0 : State} (s : State) (hk : Keeps T s0 s) (ht : T.regs = true ∧ T.mbxs = true ∧ T.chans = true ∧ T.cxl = true ∧ T.boot = true := by simp [*]) :
    Keeps T s0 (runVerify s) := by
  unfold runVerify
  try dsimp only
  repeat' first | (with_reducible assumption) | (simp +contextual (maxDischargeDepth := 60) only [Nat.le_refl, hk, verifyStaging_keeps, mbxFinishOp_keeps, modBoot_keeps, ht, and_self]; done) | split | dsimp only
theorem execFwVerify_keeps {T : Touch} {s0 : State} (src : CmdSrc) (e : Entry) (s : State) (hk : Keeps T s0 s) (ht : T.regs = true ∧ T.mbxs = true ∧ T.chans = true ∧ T.cxl = true ∧ T.boot = true ∧ T.smbOut = true := by simp [*]) :
    OutKeeps T s0 (execFwVerify src e s) := by
  unfold execFwVerify
  try dsimp only
  repeat' first | (with_reducible assumption) | (simp +contextual (maxDischargeDepth := 60) only [runVerify_keeps, ht, and_self]; done) | split | (with_reducible apply keeps_foldl) | (with_reducible apply keeps_foldl_fst) | (with_reducible apply keeps_foldl_snd) | (with_reducible apply keeps_foldl_snd2) | (intro _ _ _) | (intro _ _) | with_reducible apply serve_keeps | with_reducible apply servePending_keeps | with_reducible apply runVerify_keeps | with_reducible apply keeps_ite | with_reducible apply outKeeps_ite | with_reducible apply atUnit_keeps | dsimp only
theorem execFwActivate_keeps {T : Touch} {s0 : State} (src : CmdSrc) (e : Entry) (s : State) (hk : Keeps T s0 s) (ht : T.regs = true ∧ T.mbxs = true ∧ T.chans = true ∧ T.cxl = true ∧ T.boot = true ∧ T.rcv = true ∧ T.smbOut = true := by simp [*]) :
    OutKeeps T s0 (execFwActivate src e s) := by
  unfold execFwActivate
  try dsimp only
  repeat' first | (with_reducible assumption) | (simp +contextual (maxDischargeDepth := 60) only [Nat.le_refl, ht, and_self]; done) | split | (with_reducible apply keeps_foldl) | (with_reducible apply keeps_foldl_fst) | (with_reducible apply keeps_foldl_snd) | (with_reducible apply keeps_foldl_snd2) | (intro _ _ _) | (intro _ _) | with_reducible apply serve_keeps | with_reducible apply answer_keeps | with_reducible apply servePending_keeps | with_reducible apply verifyStaging_keeps | with_reducible apply finishAsync_keeps | with_reducible apply setStaging_keeps | with_reducible apply modRcv_keeps | with_reducible apply modBoot_keeps | with_reducible apply keeps_ite | with_reducible apply outKeeps_ite | with_reducible apply atUnit_keeps | dsimp only
theorem execFwAbort_keeps {T : Touch} {s0 : State} (src : CmdSrc) (e : Entry) (s : State) (hk : Keeps T s0 s) (ht : T.regs = true ∧ T.mbxs = true ∧ T.chans = true ∧ T.cxl = true ∧ T.boot = true ∧ T.smbOut = true := by simp [*]) :
    OutKeeps T s0 (execFwAbort src e s) := by
  unfold execFwAbort
  try dsimp only
  repeat' first | (with_reducible assumption) | (simp +contextual (maxDischargeDepth := 60) only [Nat.le_refl, ht, and_self]; done) | split | (with_reducible apply keeps_foldl) | (with_reducible apply keeps_foldl_fst) | (with_reducible apply keeps_foldl_snd) | (with_reducible apply keeps_foldl_snd2) | (intro _ _ _) | (intro _ _) | with_reducible apply serve_keeps | with_reducible apply answer_keeps | with_reducible apply runVerify_keeps | with_reducible apply setStaging_keeps | with_reducible apply modBoot_keeps | with_reducible apply keeps_ite | with_reducible apply outKeeps_ite | with_reducible apply atUnit_keeps | dsimp only
theorem execFwStatus_keeps {T : Touch} {s0 : State} (src : CmdSrc) (e : Entry) (s : State) (hk : Keeps T s0 s) (ht : T.regs = true ∧ T.mbxs = true ∧ T.chans = true ∧ T.cxl = true ∧ T.smbOut = true := by simp [*]) :
    OutKeeps T s0 (execFwStatus src e s) := by
  unfold execFwStatus
  try dsimp only
  repeat' first | (with_reducible assumption) | (simp +contextual (maxDischargeDepth := 60) only [answer_keeps, ht, and_self]; done) | split | (with_reducible apply keeps_foldl) | (with_reducible apply keeps_foldl_fst) | (with_reducible apply keeps_foldl_snd) | (with_reducible apply keeps_foldl_snd2) | (intro _ _ _) | (intro _ _) | with_reducible apply serve_keeps | with_reducible apply answer_keeps | with_reducible apply keeps_ite | with_reducible apply outKeeps_ite | with_reducible apply atUnit_keeps | dsimp only
theorem execSettingsGet_keeps {T : Touch} {s0 : State} (src : CmdSrc) (e : Entry) (s : State) (hk : Keeps T s0 s) (ht : T.regs = true ∧ T.mbxs = true ∧ T.chans = true ∧ T.cxl = true ∧ T.smbOut = true := by simp [*]) :
    OutKeeps T s0 (execSettingsGet src e s) := by
  unfold execSettingsGet
  try dsimp only
  repeat' first | (with_reducible assumption) | (simp +contextual (maxDischargeDepth := 60) only [answer_keeps, ht, and_self]; done) | split | (with_reducible apply keeps_foldl) | (with_reducible apply keeps_foldl_fst) | (with_reducible apply keeps_foldl_snd) | (with_reducible apply keeps_foldl_snd2) | (intro _ _ _) | (intro _ _) | with_reducible apply serve_keeps | with_reducible apply answer_keeps | with_reducible apply keeps_ite | with_reducible apply outKeeps_ite | with_reducible apply atUnit_keeps | dsimp only
theorem execSettingsSet_keeps {T : Touch} {s0 : State} (src : CmdSrc) (e : Entry) (s : State) (hk : Keeps T s0 s) (ht : T.regs = true ∧ T.mbxs = true ∧ T.chans = true ∧ T.cxl = true ∧ T.boot = true ∧ T.smbOut = true := by simp [*]) :
    OutKeeps T s0 (execSettingsSet src e s) := by
  unfold execSettingsSet
  try dsimp only
  repeat' first | (with_reducible assumption) | (simp +contextual (maxDischargeDepth := 60) only [answer_keeps, writeSettings_keeps, ht, and_self]; done) | split | (with_reducible apply keeps_foldl) | (with_reducible apply keeps_foldl_fst) | (with_reducible apply keeps_foldl_snd) | (with_reducible apply keeps_foldl_snd2) | (intro _ _ _) | (intro _ _) | with_reducible apply serve_keeps | with_reducible apply answer_keeps | with_reducible apply writeSettings_keeps | with_reducible apply keeps_ite | with_reducible apply outKeeps_ite | with_reducible apply atUnit_keeps | dsimp only
theorem execKeyLoad_keeps {T : Touch} {s0 : State} (src : CmdSrc) (e : Entry) (s : State) (hk : Keeps T s0 s) (ht : T.regs = true ∧ T.mbxs = true ∧ T.chans = true ∧ T.cxl = true ∧ T.boot = true ∧ T.smbOut = true := by simp [*]) :
    OutKeeps T s0 (execKeyLoad src e s) := by
  unfold execKeyLoad
  try dsimp only
  repeat' first | (with_reducible assumption) | (simp +contextual (maxDischargeDepth := 60) only [Nat.le_refl, ht, and_self]; done) | split | (with_reducible apply keeps_foldl) | (with_reducible apply keeps_foldl_fst) | (with_reducible apply keeps_foldl_snd) | (with_reducible apply keeps_foldl_snd2) | (intro _ _ _) | (intro _ _) | with_reducible apply serve_keeps | with_reducible apply answer_keeps | with_reducible apply modBoot_keeps | with_reducible apply keeps_ite | with_reducible apply outKeeps_ite | with_reducible apply atUnit_keeps | dsimp only
theorem execKeyClear_keeps {T : Touch} {s0 : State} (src : CmdSrc) (e : Entry) (s : State) (hk : Keeps T s0 s) (ht : T.regs = true ∧ T.mbxs = true ∧ T.chans = true ∧ T.cxl = true ∧ T.boot = true ∧ T.smbOut = true := by simp [*]) :
    OutKeeps T s0 (execKeyClear src e s) := by
  unfold execKeyClear
  try dsimp only
  repeat' first | (with_reducible assumption) | (simp +contextual (maxDischargeDepth := 60) only [Nat.le_refl, ht, and_self]; done) | split | (with_reducible apply keeps_foldl) | (with_reducible apply keeps_foldl_fst) | (with_reducible apply keeps_foldl_snd) | (with_reducible apply keeps_foldl_snd2) | (intro _ _ _) | (intro _ _) | with_reducible apply serve_keeps | with_reducible apply answer_keeps | with_reducible apply modBoot_keeps | with_reducible apply keeps_ite | with_reducible apply outKeeps_ite | with_reducible apply atUnit_keeps | dsimp only
theorem execFlashOpDone_keeps {T : Touch} {s0 : State} (s : State) (hk : Keeps T s0 s) (ht : T.regs = true ∧ T.mbxs = true ∧ T.chans = true ∧ T.cxl = true ∧ T.boot = true := by simp [*]) :
    OutKeeps T s0 (execFlashOpDone s) := by
  unfold execFlashOpDone
  try dsimp only
  repeat' first | (with_reducible assumption) | (simp +contextual (maxDischargeDepth := 60) only [Nat.le_refl, outKeeps_next, hk, modBoot_keeps, cntAdd_keeps, mbxFinishOp_keeps, runVerify_keeps, ht, and_self]; done) | split | dsimp only
theorem execFwCommitCopy_keeps {T : Touch} {s0 : State} (s : State) (hk : Keeps T s0 s) (ht : T.regs = true ∧ T.chans = true ∧ T.cxl = true ∧ T.boot = true := by simp [*]) :
    OutKeeps T s0 (execFwCommitCopy s) := by
  unfold execFwCommitCopy
  refine onlyIf_keeps _ _ _ hk fun t ht => ?_
  have h1 := cntAdd_keeps .boot Reg.BOOT_CNT_FLASH_PAGES (t.boot.staging.len / 4096) _ ht
  have h2 := writeDir_keeps _ (modBoot_keeps _ (fun b => { b with
    active := b.staging, staging := {}, activeSt := 1, stagingSt := 0, stagingVersion := 0, stagingSvn := 0, commitDue := false }) h1 (Nat.le_refl _) rfl)
  have h3 := setEv_keeps .boot Reg.BOOT_EVENT Bit.BOOT_EVENT_COMMIT_DONE _ h2
  dsimp only
  split
  · rename_i hlt
    exact setEv_keeps _ _ _ _ (modBoot_keeps _ _ h3 (Nat.le_of_lt hlt) rfl)
  · exact h3
theorem execHandoverStandbyReady_keeps {T : Touch} {s0 : State} (s : State) (hk : Keeps T s0 s) (ht : T.regs = true ∧ T.mbxs = true ∧ T.chans = true ∧ T.cxl = true ∧ T.boot = true ∧ T.rcv = true := by simp [*]) :
    OutKeeps T s0 (execHandoverStandbyReady s) := by
  unfold execHandoverStandbyReady
  try dsimp only
  repeat' first | (with_reducible assumption) | (simp +contextual (maxDischargeDepth := 60) only [Nat.le_refl, loadSettings_keeps, modBoot_keeps, modRcv_keeps, cntInc_keeps, setEv_keeps, mbxFinishOp_keeps, ht, and_self]; done) | split | (with_reducible apply keeps_foldl) | (with_reducible apply keeps_foldl_fst) | (with_reducible apply keeps_foldl_snd) | (with_reducible apply keeps_foldl_snd2) | (intro _ _ _) | (intro _ _) | with_reducible apply onlyIf_keeps | with_reducible apply loadSettings_keeps | with_reducible apply modBoot_keeps | with_reducible apply modRcv_keeps | with_reducible apply cntInc_keeps | with_reducible apply setEv_keeps | with_reducible apply mbxFinishOp_keeps | with_reducible apply keeps_ite | with_reducible apply outKeeps_ite | with_reducible apply atUnit_keeps | dsimp only
theorem execHandoverTimeout_keeps {T : Touch} {s0 : State} (s : State) (hk : Keeps T s0 s) (ht : T.regs = true ∧ T.mbxs = true ∧ T.chans = true ∧ T.cxl = true ∧ T.boot = true := by simp [*]) :
    OutKeeps T s0 (execHandoverTimeout s) := by
  unfold execHandoverTimeout
  try dsimp only
  repeat' first | (with_reducible assumption) | (simp +contextual (maxDischargeDepth := 60) only [Nat.le_refl, setStaging_keeps, modBoot_keeps, mbxFinishOp_keeps, setEv_keeps, ht, and_self]; done) | split | (with_reducible apply keeps_foldl) | (with_reducible apply keeps_foldl_fst) | (with_reducible apply keeps_foldl_snd) | (with_reducible apply keeps_foldl_snd2) | (intro _ _ _) | (intro _ _) | with_reducible apply onlyIf_keeps | with_reducible apply setStaging_keeps | with_reducible apply modBoot_keeps | with_reducible apply mbxFinishOp_keeps | with_reducible apply setEv_keeps | with_reducible apply keeps_ite | with_reducible apply outKeeps_ite | with_reducible apply atUnit_keeps | dsimp only
theorem rcvEnd_keeps {T : Touch} {s0 : State} (ok : Bool) (reason : ℕ) (s : State) (hk : Keeps T s0 s) (ht : T.boot = true := by simp [*]) :
    Keeps T s0 (rcvEnd ok reason s) := by
  unfold rcvEnd
  simp +contextual (maxDischargeDepth := 60) only [Nat.le_refl, hk, modBoot_keeps, ht]
theorem execRcvBegin_keeps {T : Touch} {s0 : State} (w : Word) (s : State) (hk : Keeps T s0 s) (ht : T.boot = true := by simp [*]) :
    OutKeeps T s0 (execRcvBegin w s) := by
  unfold execRcvBegin
  try dsimp only
  repeat' first | (with_reducible assumption) | (simp +contextual (maxDischargeDepth := 60) only [Nat.le_refl]; done) | split | (with_reducible apply keeps_foldl) | (with_reducible apply keeps_foldl_fst) | (with_reducible apply keeps_foldl_snd) | (with_reducible apply keeps_foldl_snd2) | (intro _ _ _) | (intro _ _) | with_reducible apply onlyIf_keeps | with_reducible apply rcvEnd_keeps | with_reducible apply beginDownload_keeps | with_reducible apply modBoot_keeps | with_reducible apply keeps_ite | with_reducible apply outKeeps_ite | with_reducible apply atUnit_keeps | dsimp only
theorem execRcvBlock_keeps {T : Touch} {s0 : State} (w : Word) (s : State) (hk : Keeps T s0 s) (ht : T.boot = true := by simp [*]) :
    OutKeeps T s0 (execRcvBlock w s) := by
  unfold execRcvBlock
  try dsimp only
  repeat' first | (with_reducible assumption) | (simp +contextual (maxDischargeDepth := 60) only [offerBlock_keeps, rcvEnd_keeps, ht]; done) | split | (with_reducible apply keeps_foldl) | (with_reducible apply keeps_foldl_fst) | (with_reducible apply keeps_foldl_snd) | (with_reducible apply keeps_foldl_snd2) | (intro _ _ _) | (intro _ _) | with_reducible apply onlyIf_keeps | with_reducible apply offerBlock_keeps | with_reducible apply rcvEnd_keeps | with_reducible apply keeps_ite | with_reducible apply outKeeps_ite | with_reducible apply atUnit_keeps | dsimp only
theorem execRcvVerify_keeps {T : Touch} {s0 : State} (w : Word) (s : State) (hk : Keeps T s0 s) (ht : T.regs = true ∧ T.mbxs = true ∧ T.chans = true ∧ T.cxl = true ∧ T.boot = true := by simp [*]) :
    OutKeeps T s0 (execRcvVerify w s) := by
  unfold execRcvVerify
  try dsimp only
  repeat' first | (with_reducible assumption) | (simp +contextual (maxDischargeDepth := 60) only [Nat.le_refl, runVerify_keeps, modBoot_keeps, ht, and_self]; done) | split | (with_reducible apply keeps_foldl) | (with_reducible apply keeps_foldl_fst) | (with_reducible apply keeps_foldl_snd) | (with_reducible apply keeps_foldl_snd2) | (intro _ _ _) | (intro _ _) | with_reducible apply onlyIf_keeps | with_reducible apply runVerify_keeps | with_reducible apply modBoot_keeps | with_reducible apply keeps_ite | with_reducible apply outKeeps_ite | with_reducible apply atUnit_keeps | dsimp only
theorem execRcvStart_keeps {T : Touch} {s0 : State} (w : Word) (s : State) (hk : Keeps T s0 s) (ht : T.us = true ∧ T.freeCtr = true ∧ T.regs = true ∧ T.tillers = true ∧ T.stackMap = true ∧ T.deeps = true ∧ T.dram = true ∧ T.poison = true ∧ T.husk = true ∧ T.huskBad = true ∧ T.objs = true ∧ T.grans = true ∧ T.shareGroups = true ∧ T.used = true ∧ T.migs = true ∧ T.heldBy = true ∧ T.xlat = true ∧ T.mbxs = true ∧ T.chans = true ∧ T.links = true ∧ T.cxl = true ∧ T.power = true ∧ T.phys = true ∧ T.boot = true ∧ T.rcv = true ∧ T.flights = true ∧ T.notices = true ∧ T.smbOut = true := by simp [*]) :
    OutKeeps T s0 (execRcvStart w s) := by
  unfold execRcvStart
  try dsimp only
  repeat' first | (with_reducible assumption) | (simp +contextual (maxDischargeDepth := 60) only [Nat.le_refl, ht]; done) | split | (with_reducible apply keeps_foldl) | (with_reducible apply keeps_foldl_fst) | (with_reducible apply keeps_foldl_snd) | (with_reducible apply keeps_foldl_snd2) | (intro _ _ _) | (intro _ _) | with_reducible apply onlyIf_keeps | with_reducible apply rcvEnd_keeps | with_reducible apply modBoot_keeps | with_reducible apply loseCold_keeps | with_reducible apply setStaging_keeps | with_reducible apply modDomain_keeps | with_reducible apply keeps_ite | with_reducible apply outKeeps_ite | with_reducible apply atUnit_keeps | dsimp only
theorem spdmBody_keeps {T : Touch} {s0 : State} (code : ℕ) (p2 : ℕ) (s : State) (hk : Keeps T s0 s) (ht : T.freeCtr = true := by simp [*]) :
    Keeps T s0 (spdmBody code p2 s).2 := by
  unfold spdmBody
  try dsimp only
  repeat' first | (with_reducible assumption) | (simp +contextual (maxDischargeDepth := 60) only [hk, drawFree_keeps, ht]; done) | split | dsimp only
theorem execSpdmRequest_keeps {T : Touch} {s0 : State} (msg : List Byte) (s : State) (hk : Keeps T s0 s) (ht : T.freeCtr = true ∧ T.cxl = true ∧ T.boot = true := by simp [*]) :
    OutKeeps T s0 (execSpdmRequest msg s) := by
  unfold execSpdmRequest
  refine onlyIf_keeps _ _ _ hk fun t ht => ?_
  dsimp only
  split
  · exact modCxl_keeps _ _ ht
  · split
    · exact modCxl_keeps _ _ ht
    · split
      · exact modCxl_keeps _ _ ht
      · split
        · exact modCxl_keeps _ _ ht
        · refine modCxl_keeps _ _ (spdmBody_keeps _ _ _ ?_)
          split
          · exact modBoot_keeps _ _ ht (Nat.le_refl _) rfl
          · split
            · exact modBoot_keeps _ _ ht (Nat.le_refl _) rfl
            · split
              · exact modCxl_keeps _ _ ht
              · exact ht

end Sys2Proof.Machine
end

