-- ==== Sys2Proof/Laws/Keeps/ChanCmds.lean ====
section
/-! SUPPORT. What each operation of Machine/ChanCmds.lean keeps. -/

namespace Sys2Proof.Machine

open Sys2Proof

set_option Elab.async false
set_option linter.unusedTactic false
set_option linter.unreachableTactic false

theorem chanMade_keeps {T : Touch} {s0 : State} (x : Cmd) (c : ℕ) (token : Word) (s : State) (r : Except ℕ (ℕ × ℕ × State)) (hk : Keeps T s0 s) (hr : ∀ p, r = .ok p → Keeps T s0 p.2.2) (ht : T.regs = true ∧ T.mbxs = true ∧ T.chans = true ∧ T.cxl = true ∧ T.smbOut = true := by simp [*]) : Keeps T s0 (chanMade x c token s r) := by
  rcases r with st | p
  · exact answer_keeps _ _ _ _ hk
  · exact answer_keeps _ _ _ _ (modChan_keeps _ _ _ (hr p rfl))
theorem createChan_keeps {T : Touch} {s0 : State} (x : Cmd) (c : ℕ) (s : State) (hk : Keeps T s0 s) (ht : T.freeCtr = true ∧ T.regs = true ∧ T.stackMap = true ∧ T.deeps = true ∧ T.dram = true ∧ T.poison = true ∧ T.husk = true ∧ T.huskBad = true ∧ T.objs = true ∧ T.grans = true ∧ T.used = true ∧ T.mbxs = true ∧ T.chans = true ∧ T.cxl = true ∧ T.smbOut = true := by simp [*]) :
    Keeps T s0 (createChan x c s) := by
  unfold createChan
  exact chanMade_keeps _ _ _ _ _ hk fun p hp =>
    createObj_keeps _ _ _ (setChan_keeps _ _ _ (resetBlock_keeps _ _ _ (drawFree_keeps _ hk))) hp
theorem execChanCreate_keeps {T : Touch} {s0 : State} (src : CmdSrc) (e : Entry) (s : State) (hk : Keeps T s0 s) (ht : T.freeCtr = true ∧ T.regs = true ∧ T.stackMap = true ∧ T.deeps = true ∧ T.dram = true ∧ T.poison = true ∧ T.husk = true ∧ T.huskBad = true ∧ T.objs = true ∧ T.grans = true ∧ T.used = true ∧ T.mbxs = true ∧ T.chans = true ∧ T.cxl = true ∧ T.smbOut = true := by simp [*]) :
    OutKeeps T s0 (execChanCreate src e s) := by
  unfold execChanCreate
  refine serve_keeps _ _ _ _ _ hk fun x t ht => ?_
  split
  · exact answer_keeps _ _ _ _ ht
  · split
    · exact answer_keeps _ _ _ _ ht
    · split
      · exact answer_keeps _ _ _ _ ht
      · exact createChan_keeps _ _ _ ht
theorem execChanDestroy_keeps {T : Touch} {s0 : State} (src : CmdSrc) (e : Entry) (s : State) (hk : Keeps T s0 s) (ht : T.regs = true ∧ T.tillers = true ∧ T.stackMap = true ∧ T.deeps = true ∧ T.objs = true ∧ T.grans = true ∧ T.shareGroups = true ∧ T.used = true ∧ T.migs = true ∧ T.heldBy = true ∧ T.mbxs = true ∧ T.chans = true ∧ T.links = true ∧ T.cxl = true ∧ T.flights = true ∧ T.smbOut = true := by simp [*]) :
    OutKeeps T s0 (execChanDestroy src e s) := by
  unfold execChanDestroy
  try dsimp only
  repeat' first | (with_reducible assumption) | (simp +contextual (maxDischargeDepth := 60) only [modChan_keeps, stopCopies_keeps, voidAttempt_keeps, freeChan_keeps, finishAsync_keeps, ht, and_self]; done) | split | (with_reducible apply keeps_foldl) | (with_reducible apply keeps_foldl_fst) | (with_reducible apply keeps_foldl_snd) | (with_reducible apply keeps_foldl_snd2) | (intro _ _ _) | (intro _ _) | with_reducible apply serve_keeps | with_reducible apply servePending_keeps | with_reducible apply modChan_keeps | with_reducible apply stopCopies_keeps | with_reducible apply voidAttempt_keeps | with_reducible apply freeChan_keeps | with_reducible apply finishAsync_keeps | with_reducible apply keeps_ite | with_reducible apply outKeeps_ite | with_reducible apply atUnit_keeps | dsimp only
theorem execChanGrant_keeps {T : Touch} {s0 : State} (src : CmdSrc) (e : Entry) (s : State) (hk : Keeps T s0 s) (ht : T.regs = true ∧ T.mbxs = true ∧ T.chans = true ∧ T.cxl = true ∧ T.smbOut = true := by simp [*]) :
    OutKeeps T s0 (execChanGrant src e s) := by
  unfold execChanGrant
  try dsimp only
  repeat' first | (with_reducible assumption) | (simp +contextual (maxDischargeDepth := 60) only [ht]; done) | split | (with_reducible apply keeps_foldl) | (with_reducible apply keeps_foldl_fst) | (with_reducible apply keeps_foldl_snd) | (with_reducible apply keeps_foldl_snd2) | (intro _ _ _) | (intro _ _) | with_reducible apply serve_keeps | with_reducible apply answer_keeps | with_reducible apply modChan_keeps | with_reducible apply keeps_ite | with_reducible apply outKeeps_ite | with_reducible apply atUnit_keeps | dsimp only
theorem execChanFence_keeps {T : Touch} {s0 : State} (src : CmdSrc) (e : Entry) (s : State) (hk : Keeps T s0 s) (ht : T.regs = true ∧ T.tillers = true ∧ T.stackMap = true ∧ T.deeps = true ∧ T.objs = true ∧ T.grans = true ∧ T.shareGroups = true ∧ T.used = true ∧ T.migs = true ∧ T.heldBy = true ∧ T.mbxs = true ∧ T.chans = true ∧ T.links = true ∧ T.cxl = true ∧ T.boot = true ∧ T.rcv = true ∧ T.flights = true ∧ T.smbOut = true := by simp [*]) :
    OutKeeps T s0 (execChanFence src e s) := by
  unfold execChanFence
  try dsimp only
  repeat' first | (with_reducible assumption) | (simp +contextual (maxDischargeDepth := 60) only [answer_keeps, fenceChan_keeps, ht, and_self]; done) | split | (with_reducible apply keeps_foldl) | (with_reducible apply keeps_foldl_fst) | (with_reducible apply keeps_foldl_snd) | (with_reducible apply keeps_foldl_snd2) | (intro _ _ _) | (intro _ _) | with_reducible apply serve_keeps | with_reducible apply answer_keeps | with_reducible apply fenceChan_keeps | with_reducible apply keeps_ite | with_reducible apply outKeeps_ite | with_reducible apply atUnit_keeps | dsimp only
theorem execChanUnfence_keeps {T : Touch} {s0 : State} (src : CmdSrc) (e : Entry) (s : State) (hk : Keeps T s0 s) (ht : T.regs = true ∧ T.mbxs = true ∧ T.chans = true ∧ T.cxl = true ∧ T.smbOut = true := by simp [*]) :
    OutKeeps T s0 (execChanUnfence src e s) := by
  unfold execChanUnfence
  try dsimp only
  repeat' first | (with_reducible assumption) | (simp +contextual (maxDischargeDepth := 60) only [answer_keeps, modChan_keeps, ht, and_self]; done) | split | (with_reducible apply keeps_foldl) | (with_reducible apply keeps_foldl_fst) | (with_reducible apply keeps_foldl_snd) | (with_reducible apply keeps_foldl_snd2) | (intro _ _ _) | (intro _ _) | with_reducible apply serve_keeps | with_reducible apply answer_keeps | with_reducible apply modChan_keeps | with_reducible apply keeps_ite | with_reducible apply outKeeps_ite | with_reducible apply atUnit_keeps | dsimp only
theorem attachDenied_keeps {T : Touch} {s0 : State} (c : ℕ) (locked : Bool) (s : State) (hk : Keeps T s0 s) (ht : T.regs = true ∧ T.chans = true ∧ T.cxl = true := by simp [*]) :
    Keeps T s0 (attachDenied c locked s) := by
  unfold attachDenied
  try dsimp only
  repeat' first | (with_reducible assumption) | (simp +contextual (maxDischargeDepth := 60) only [hk, cntInc_keeps, setEv_keeps, modChan_keeps, ht, and_self]; done) | split | dsimp only
theorem execChanReattach_keeps {T : Touch} {s0 : State} (src : CmdSrc) (e : Entry) (s : State) (hk : Keeps T s0 s) (ht : T.freeCtr = true ∧ T.regs = true ∧ T.mbxs = true ∧ T.chans = true ∧ T.cxl = true ∧ T.smbOut = true := by simp [*]) :
    OutKeeps T s0 (execChanReattach src e s) := by
  unfold execChanReattach
  try dsimp only
  repeat' first | (with_reducible assumption) | (simp +contextual (maxDischargeDepth := 60) only [ht, and_self]; done) | split | (with_reducible apply keeps_foldl) | (with_reducible apply keeps_foldl_fst) | (with_reducible apply keeps_foldl_snd) | (with_reducible apply keeps_foldl_snd2) | (intro _ _ _) | (intro _ _) | with_reducible apply serve_keeps | with_reducible apply answer_keeps | with_reducible apply attachDenied_keeps | with_reducible apply drawFree_keeps | with_reducible apply modChan_keeps | with_reducible apply finishAll_keeps | with_reducible apply stopCopies_keeps | with_reducible apply keeps_ite | with_reducible apply outKeeps_ite | with_reducible apply atUnit_keeps | dsimp only
theorem execRingSet_keeps {T : Touch} {s0 : State} (src : CmdSrc) (e : Entry) (s : State) (hk : Keeps T s0 s) (ht : T.regs = true ∧ T.mbxs = true ∧ T.chans = true ∧ T.cxl = true ∧ T.smbOut = true := by simp [*]) :
    OutKeeps T s0 (execRingSet src e s) := by
  unfold execRingSet
  try dsimp only
  repeat' first | (with_reducible assumption) | (simp +contextual (maxDischargeDepth := 60) only [ht]; done) | split | (with_reducible apply keeps_foldl) | (with_reducible apply keeps_foldl_fst) | (with_reducible apply keeps_foldl_snd) | (with_reducible apply keeps_foldl_snd2) | (intro _ _ _) | (intro _ _) | with_reducible apply serve_keeps | with_reducible apply answer_keeps | with_reducible apply modChan_keeps | with_reducible apply keeps_ite | with_reducible apply outKeeps_ite | with_reducible apply atUnit_keeps | dsimp only
theorem execHostWindowSet_keeps {T : Touch} {s0 : State} (src : CmdSrc) (e : Entry) (s : State) (hk : Keeps T s0 s) (ht : T.regs = true ∧ T.mbxs = true ∧ T.chans = true ∧ T.cxl = true ∧ T.smbOut = true := by simp [*]) :
    OutKeeps T s0 (execHostWindowSet src e s) := by
  unfold execHostWindowSet
  try dsimp only
  repeat' first | (with_reducible assumption) | (simp +contextual (maxDischargeDepth := 60) only [answer_keeps, modChan_keeps, ht, and_self]; done) | split | (with_reducible apply keeps_foldl) | (with_reducible apply keeps_foldl_fst) | (with_reducible apply keeps_foldl_snd) | (with_reducible apply keeps_foldl_snd2) | (intro _ _ _) | (intro _ _) | with_reducible apply serve_keeps | with_reducible apply answer_keeps | with_reducible apply modChan_keeps | with_reducible apply keeps_ite | with_reducible apply outKeeps_ite | with_reducible apply atUnit_keeps | dsimp only
theorem execChanQuery_keeps {T : Touch} {s0 : State} (src : CmdSrc) (e : Entry) (s : State) (hk : Keeps T s0 s) (ht : T.regs = true ∧ T.mbxs = true ∧ T.chans = true ∧ T.cxl = true ∧ T.smbOut = true := by simp [*]) :
    OutKeeps T s0 (execChanQuery src e s) := by
  unfold execChanQuery
  try dsimp only
  repeat' first | (with_reducible assumption) | (simp +contextual (maxDischargeDepth := 60) only [answer_keeps, ht, and_self]; done) | split | (with_reducible apply keeps_foldl) | (with_reducible apply keeps_foldl_fst) | (with_reducible apply keeps_foldl_snd) | (with_reducible apply keeps_foldl_snd2) | (intro _ _ _) | (intro _ _) | with_reducible apply serve_keeps | with_reducible apply answer_keeps | with_reducible apply keeps_ite | with_reducible apply outKeeps_ite | with_reducible apply atUnit_keeps | dsimp only
theorem execTokenHold_keeps {T : Touch} {s0 : State} (src : CmdSrc) (e : Entry) (s : State) (hk : Keeps T s0 s) (ht : T.regs = true ∧ T.mbxs = true ∧ T.chans = true ∧ T.cxl = true ∧ T.smbOut = true := by simp [*]) :
    OutKeeps T s0 (execTokenHold src e s) := by
  unfold execTokenHold
  try dsimp only
  repeat' first | (with_reducible assumption) | (simp +contextual (maxDischargeDepth := 60) only [ht]; done) | split | (with_reducible apply keeps_foldl) | (with_reducible apply keeps_foldl_fst) | (with_reducible apply keeps_foldl_snd) | (with_reducible apply keeps_foldl_snd2) | (intro _ _ _) | (intro _ _) | with_reducible apply serve_keeps | with_reducible apply answer_keeps | with_reducible apply modRings_keeps | with_reducible apply keeps_ite | with_reducible apply outKeeps_ite | with_reducible apply atUnit_keeps | dsimp only
theorem execNop_keeps {T : Touch} {s0 : State} (src : CmdSrc) (e : Entry) (s : State) (hk : Keeps T s0 s) (ht : T.regs = true ∧ T.mbxs = true ∧ T.chans = true ∧ T.cxl = true ∧ T.smbOut = true := by simp [*]) :
    OutKeeps T s0 (execNop src e s) := by
  unfold execNop
  try dsimp only
  repeat' first | (with_reducible assumption) | (simp +contextual (maxDischargeDepth := 60) only [answer_keeps, ht, and_self]; done) | split | (with_reducible apply keeps_foldl) | (with_reducible apply keeps_foldl_fst) | (with_reducible apply keeps_foldl_snd) | (with_reducible apply keeps_foldl_snd2) | (intro _ _ _) | (intro _ _) | with_reducible apply serve_keeps | with_reducible apply answer_keeps | with_reducible apply keeps_ite | with_reducible apply outKeeps_ite | with_reducible apply atUnit_keeps | dsimp only
theorem execUnknownOpcode_keeps {T : Touch} {s0 : State} (src : CmdSrc) (e : Entry) (s : State) (hk : Keeps T s0 s) (ht : T.regs = true ∧ T.mbxs = true ∧ T.chans = true ∧ T.cxl = true ∧ T.smbOut = true := by simp [*]) :
    OutKeeps T s0 (execUnknownOpcode src e s) := by
  unfold execUnknownOpcode
  try dsimp only
  repeat' first | (with_reducible assumption) | (simp +contextual (maxDischargeDepth := 60) only [outKeeps_next, hk, answer_keeps, markStarted_keeps, ht, and_self]; done) | split | dsimp only

end Sys2Proof.Machine
end

