-- ==== Sys2Proof/Laws/Keeps/MemReq.lean ====
section
/-! SUPPORT. What each operation of Machine/MemReq.lean keeps. -/

namespace Sys2Proof.Machine

open Sys2Proof

set_option Elab.async false
set_option linter.unusedTactic false
set_option linter.unreachableTactic false

theorem dCheck_keeps {T : Touch} {s0 : State} (t : ℕ) (d : Desc) (write : Bool) (s : State) (hk : Keeps T s0 s) (ht : T.regs = true ∧ T.chans = true ∧ T.cxl = true := by simp [*]) :
    Keeps T s0 (dCheck t d write s).2 := by
  unfold dCheck
  try dsimp only
  repeat' first | (with_reducible assumption) | (simp +contextual (maxDischargeDepth := 60) only [hk, plcFault_keeps, ht, and_self]; done) | split | dsimp only
theorem enqueue_keeps {T : Touch} {s0 : State} (t : ℕ) (q : MemReq) (s : State) (hk : Keeps T s0 s) (ht : T.tillers = true := by simp [*]) :
    Keeps T s0 (enqueue t q s) := by
  unfold enqueue
  simp +contextual (maxDischargeDepth := 60) only [hk, modTiller_keeps, ht]
theorem requeue_keeps {T : Touch} {s0 : State} (t : ℕ) (rid : ℕ) (f : MemReq → MemReq) (s : State) (hk : Keeps T s0 s) (ht : T.tillers = true := by simp [*]) :
    Keeps T s0 (requeue t rid f s) := by
  unfold requeue
  simp +contextual (maxDischargeDepth := 60) only [hk, modTiller_keeps, ht]
theorem dropReq_keeps {T : Touch} {s0 : State} (t : ℕ) (rid : ℕ) (s : State) (hk : Keeps T s0 s) (ht : T.tillers = true := by simp [*]) :
    Keeps T s0 (dropReq t rid s) := by
  unfold dropReq
  simp +contextual (maxDischargeDepth := 60) only [hk, modTiller_keeps, ht]
theorem execMreq_keeps {T : Touch} {s0 : State} (t : ℕ) (w : Word) (s : State) (hk : Keeps T s0 s) (ht : T.freeCtr = true ∧ T.regs = true ∧ T.tillers = true ∧ T.stackMap = true ∧ T.deeps = true ∧ T.objs = true ∧ T.grans = true ∧ T.shareGroups = true ∧ T.used = true ∧ T.migs = true ∧ T.heldBy = true ∧ T.chans = true ∧ T.links = true ∧ T.cxl = true ∧ T.boot = true ∧ T.rcv = true ∧ T.flights = true := by simp [*]) :
    OutKeeps T s0 (execMreq t w s) := by
  unfold execMreq
  try dsimp only
  repeat' first | (with_reducible assumption) | (simp +contextual (maxDischargeDepth := 60) only [ht, and_self]; done) | split | (with_reducible apply keeps_foldl) | (with_reducible apply keeps_foldl_fst) | (with_reducible apply keeps_foldl_snd) | (with_reducible apply keeps_foldl_snd2) | (intro _ _ _) | (intro _ _) | with_reducible apply instr_keeps | with_reducible apply faultAt_keeps | with_reducible apply waitAt_keeps | with_reducible apply tsRead_keeps | with_reducible apply dCheck_keeps | with_reducible apply issued_keeps | with_reducible apply enqueue_keeps | with_reducible apply keeps_ite | with_reducible apply outKeeps_ite | with_reducible apply atUnit_keeps | dsimp only
theorem execMwrite_keeps {T : Touch} {s0 : State} (t : ℕ) (w : Word) (s : State) (hk : Keeps T s0 s) (ht : T.freeCtr = true ∧ T.regs = true ∧ T.tillers = true ∧ T.stackMap = true ∧ T.deeps = true ∧ T.objs = true ∧ T.grans = true ∧ T.shareGroups = true ∧ T.used = true ∧ T.migs = true ∧ T.heldBy = true ∧ T.chans = true ∧ T.links = true ∧ T.cxl = true ∧ T.boot = true ∧ T.rcv = true ∧ T.flights = true := by simp [*]) :
    OutKeeps T s0 (execMwrite t w s) := by
  unfold execMwrite
  try dsimp only
  repeat' first | (with_reducible assumption) | (simp +contextual (maxDischargeDepth := 60) only [ht, and_self]; done) | split | (with_reducible apply keeps_foldl) | (with_reducible apply keeps_foldl_fst) | (with_reducible apply keeps_foldl_snd) | (with_reducible apply keeps_foldl_snd2) | (intro _ _ _) | (intro _ _) | with_reducible apply instr_keeps | with_reducible apply faultAt_keeps | with_reducible apply waitAt_keeps | with_reducible apply tsRead_keeps | with_reducible apply dCheck_keeps | with_reducible apply issued_keeps | with_reducible apply cntInc_keeps | with_reducible apply enqueue_keeps | with_reducible apply keeps_ite | with_reducible apply outKeeps_ite | with_reducible apply atUnit_keeps | dsimp only
theorem waitingReq_keeps {T : Touch} {s0 : State} (t : ℕ) (rid : ℕ) (s : State) (hk : Keeps T s0 s) (ht : T.regs = true ∧ T.tillers = true ∧ T.stackMap = true ∧ T.chans = true ∧ T.cxl = true := by simp [*]) :
    Keeps T s0 (waitingReq t rid s) := by
  unfold waitingReq
  try dsimp only
  repeat' first | (with_reducible assumption) | (simp +contextual (maxDischargeDepth := 60) only [hk, cntInc_keeps, modReq_keeps, noteMiss_keeps, ht, and_self]; done) | split | dsimp only
theorem execMemRequestSend_keeps {T : Touch} {s0 : State} (t : ℕ) (rid : ℕ) (s : State) (hk : Keeps T s0 s) (ht : T.regs = true ∧ T.tillers = true ∧ T.stackMap = true ∧ T.deeps = true ∧ T.objs = true ∧ T.grans = true ∧ T.xlat = true ∧ T.chans = true ∧ T.cxl = true := by simp [*]) :
    OutKeeps T s0 (execMemRequestSend t rid s) := by
  unfold execMemRequestSend
  refine atUnit_keeps (outKeeps_next.2 ?_)
  split
  · exact waitingReq_keeps _ _ _ hk
  · refine keeps_ite (fun _ => waitingReq_keeps _ _ _ hk) (fun _ => ?_)
    refine modTiller_keeps _ _ _ (modReq_keeps _ _ _ _ (keeps_foldl (fun v p hv => poolAdd_keeps _ _ _ _ hv) (keeps_foldl (fun v g hv => ?_) hk)))
    exact keeps_ite (fun _ => markDirty_keeps _ _ _ (xlatTouch_keeps _ _ _ hv)) (fun _ => xlatTouch_keeps _ _ _ hv)
theorem fillSlot_keeps {T : Touch} {s0 : State} (t : ℕ) (q : MemReq) (scale : ℕ) (s : State) (hk : Keeps T s0 s) (ht : T.tillers = true := by simp [*]) :
    Keeps T s0 (fillSlot t q scale s) := by
  unfold fillSlot
  simp +contextual (maxDischargeDepth := 60) only [hk, modCfgBy_keeps, ht]
theorem failsOver_keeps {T : Touch} {s0 : State} (t : ℕ) (q : MemReq) (recovered : Bool) (s : State) (hk : Keeps T s0 s) (ht : T.regs = true ∧ T.tillers = true ∧ T.chans = true ∧ T.cxl = true ∧ T.boot = true ∧ T.rcv = true := by simp [*]) :
    Keeps T s0 (failsOver t q recovered s) := by
  unfold failsOver
  try dsimp only
  repeat' first | (with_reducible assumption) | (simp +contextual (maxDischargeDepth := 60) only [huskLog_keeps, ht, and_self]; done) | split | (with_reducible apply keeps_foldl) | (with_reducible apply keeps_foldl_fst) | (with_reducible apply keeps_foldl_snd) | (with_reducible apply keeps_foldl_snd2) | (intro _ _ _) | (intro _ _) | with_reducible apply modReq_keeps | with_reducible apply huskLog_keeps | with_reducible apply keeps_ite | with_reducible apply outKeeps_ite | with_reducible apply atUnit_keeps | dsimp only
theorem execTileLand_keeps {T : Touch} {s0 : State} (t : ℕ) (rid : ℕ) (s : State) (hk : Keeps T s0 s) (ht : T.freeCtr = true ∧ T.regs = true ∧ T.tillers = true ∧ T.chans = true ∧ T.cxl = true ∧ T.boot = true ∧ T.rcv = true := by simp [*]) :
    OutKeeps T s0 (execTileLand t rid s) := by
  unfold execTileLand
  try dsimp only
  repeat' first | (with_reducible assumption) | (simp +contextual (maxDischargeDepth := 60) only [atUnit_keeps, outKeeps_next, hk, requeue_keeps, tsForget_keeps, failsOver_keeps, fillSlot_keeps, modReq_keeps, tsWrite_keeps, ht, and_self]; done) | split | dsimp only
theorem poisonFault_keeps {T : Touch} {s0 : State} (t : ℕ) (q : MemReq) (s : State) (hk : Keeps T s0 s) (ht : T.regs = true ∧ T.tillers = true ∧ T.stackMap = true ∧ T.deeps = true ∧ T.objs = true ∧ T.grans = true ∧ T.shareGroups = true ∧ T.used = true ∧ T.migs = true ∧ T.heldBy = true ∧ T.chans = true ∧ T.links = true ∧ T.cxl = true ∧ T.boot = true ∧ T.rcv = true ∧ T.flights = true := by simp [*]) :
    Keeps T s0 (poisonFault t q s) := by
  unfold poisonFault
  simp +contextual (maxDischargeDepth := 60) only [hk, seqFaultOf_keeps, ht, and_self]
theorem execWriteAck_keeps {T : Touch} {s0 : State} (t : ℕ) (rid : ℕ) (s : State) (hk : Keeps T s0 s) (ht : T.regs = true ∧ T.tillers = true ∧ T.stackMap = true ∧ T.deeps = true ∧ T.objs = true ∧ T.grans = true ∧ T.shareGroups = true ∧ T.used = true ∧ T.migs = true ∧ T.heldBy = true ∧ T.chans = true ∧ T.links = true ∧ T.cxl = true ∧ T.boot = true ∧ T.rcv = true ∧ T.flights = true := by simp [*]) :
    OutKeeps T s0 (execWriteAck t rid s) := by
  unfold execWriteAck
  try dsimp only
  repeat' first | (with_reducible assumption) | (simp +contextual (maxDischargeDepth := 60) only [atUnit_keeps, outKeeps_next, hk, poisonFault_keeps, dropReq_keeps, modReq_keeps, ht, and_self]; done) | split | dsimp only
theorem execStaleNotice_keeps {T : Touch} {s0 : State} (t : ℕ) (rid : ℕ) (s : State) (hk : Keeps T s0 s) (ht : T.tillers = true ∧ T.notices = true := by simp [*]) :
    OutKeeps T s0 (execStaleNotice t rid s) := by
  unfold execStaleNotice
  try dsimp only
  repeat' first | (with_reducible assumption) | (simp +contextual (maxDischargeDepth := 60) only [ht]; done) | split | (with_reducible apply keeps_foldl) | (with_reducible apply keeps_foldl_fst) | (with_reducible apply keeps_foldl_snd) | (with_reducible apply keeps_foldl_snd2) | (intro _ _ _) | (intro _ _) | with_reducible apply onlyIf_keeps | with_reducible apply modReq_keeps | with_reducible apply keeps_ite | with_reducible apply outKeeps_ite | with_reducible apply atUnit_keeps | (with_reducible refine keeps_notices _ ?_ (by simp [ht])) | dsimp only
theorem refetch_keeps {T : Touch} {s0 : State} (t : ℕ) (q : MemReq) (s : State) (hk : Keeps T s0 s) (ht : T.regs = true ∧ T.tillers = true ∧ T.chans = true ∧ T.cxl = true := by simp [*]) :
    Keeps T s0 (refetch t q s) := by
  unfold refetch
  try dsimp only
  repeat' first | (with_reducible assumption) | (simp +contextual (maxDischargeDepth := 60) only [hk, cntInc_keeps, setEv_keeps, modCfgBy_keeps, requeue_keeps, ht, and_self]; done) | split | dsimp only
theorem refetchAt_keeps {T : Touch} {s0 : State} (t : ℕ) (wait : ℕ) (q : MemReq) (s : State) (hk : Keeps T s0 s) (ht : T.regs = true ∧ T.tillers = true ∧ T.chans = true ∧ T.cxl = true := by simp [*]) :
    Keeps T s0 (refetchAt t wait q s) := by
  unfold refetchAt
  try dsimp only
  repeat' first | (with_reducible assumption) | (simp +contextual (maxDischargeDepth := 60) only [hk, waitAt_keeps, refetch_keeps, ht, and_self]; done) | split | dsimp only
theorem execWaitm_keeps {T : Touch} {s0 : State} (t : ℕ) (w : Word) (s : State) (hk : Keeps T s0 s) (ht : T.freeCtr = true ∧ T.regs = true ∧ T.tillers = true ∧ T.stackMap = true ∧ T.deeps = true ∧ T.objs = true ∧ T.grans = true ∧ T.shareGroups = true ∧ T.used = true ∧ T.migs = true ∧ T.heldBy = true ∧ T.chans = true ∧ T.links = true ∧ T.cxl = true ∧ T.boot = true ∧ T.rcv = true ∧ T.flights = true := by simp [*]) :
    OutKeeps T s0 (execWaitm t w s) := by
  unfold execWaitm
  try dsimp only
  repeat' first | (with_reducible assumption) | (simp +contextual (maxDischargeDepth := 60) only [dropReq_keeps, ht, and_self]; done) | split | (with_reducible apply keeps_foldl) | (with_reducible apply keeps_foldl_fst) | (with_reducible apply keeps_foldl_snd) | (with_reducible apply keeps_foldl_snd2) | (intro _ _ _) | (intro _ _) | with_reducible apply instr_keeps | with_reducible apply faultAt_keeps | with_reducible apply waitAt_keeps | with_reducible apply refetchAt_keeps | with_reducible apply issued_keeps | with_reducible apply dropReq_keeps | with_reducible apply keeps_ite | with_reducible apply outKeeps_ite | with_reducible apply atUnit_keeps | dsimp only
theorem execPrefetchIssue_keeps {T : Touch} {s0 : State} (t : ℕ) (who : ℕ) (port : ℕ) (mb : ℕ) (rb : ℕ) (cb : ℕ) (off : ℕ) (last : Bool) (s : State) (hk : Keeps T s0 s) (ht : T.tillers = true := by simp [*]) :
    OutKeeps T s0 (execPrefetchIssue t who port mb rb cb off last s) := by
  unfold execPrefetchIssue
  try dsimp only
  repeat' first | (with_reducible assumption) | (simp +contextual (maxDischargeDepth := 60) only [atUnit_keeps, outKeeps_next, hk, modCfgBy_keeps, enqueue_keeps, ht]; done) | split | dsimp only

end Sys2Proof.Machine
end

