-- ==== Sys2Proof/Laws/Keeps/Streams.lean ====
section
/-! SUPPORT. What each operation of Machine/Streams.lean keeps. -/

namespace Sys2Proof.Machine

open Sys2Proof

set_option Elab.async false
set_option linter.unusedTactic false
set_option linter.unreachableTactic false

theorem sendCopies_keeps {T : Touch} {s0 : State} (t : ℕ) (x : Send) (s : State) (hk : Keeps T s0 s) (ht : T.freeCtr = true ∧ T.regs = true ∧ T.tillers = true ∧ T.stackMap = true ∧ T.deeps = true ∧ T.objs = true ∧ T.grans = true ∧ T.shareGroups = true ∧ T.used = true ∧ T.migs = true ∧ T.heldBy = true ∧ T.chans = true ∧ T.links = true ∧ T.cxl = true ∧ T.boot = true ∧ T.rcv = true ∧ T.flights = true := by simp [*]) :
    Keeps T s0 (sendCopies t x s) := by
  unfold sendCopies
  try dsimp only
  repeat' first | (with_reducible assumption) | (simp +contextual (maxDischargeDepth := 60) only [hk, modCfg_keeps, ht, and_self]; done) | split | (with_reducible apply keeps_foldl) | (with_reducible apply keeps_foldl_fst) | (with_reducible apply keeps_foldl_snd) | (with_reducible apply keeps_foldl_snd2) | (intro _ _ _) | (intro _ _) | with_reducible apply modCfg_keeps | with_reducible apply issued_keeps | with_reducible apply cntInc_keeps | with_reducible apply modTiller_keeps | with_reducible apply waitAt_keeps | with_reducible apply keeps_ite | with_reducible apply outKeeps_ite | with_reducible apply atUnit_keeps | (with_reducible refine keeps_flights _ ?_ (by simp [ht])) | dsimp only
theorem memSend_keeps {T : Touch} {s0 : State} (t : ℕ) (e : Edge) (bs : List Byte) (scale : ℕ) (mb : ℕ) (rb : ℕ) (cb : ℕ) (w : Word) (s : State) (hk : Keeps T s0 s) (ht : T.tillers = true := by simp [*]) :
    Keeps T s0 (memSend t e bs scale mb rb cb w s) := by
  unfold memSend
  simp +contextual (maxDischargeDepth := 60) only [hk, enqueue_keeps, ht]
theorem execSend_keeps {T : Touch} {s0 : State} (t : ℕ) (w : Word) (s : State) (hk : Keeps T s0 s) (ht : T.freeCtr = true ∧ T.regs = true ∧ T.tillers = true ∧ T.stackMap = true ∧ T.deeps = true ∧ T.objs = true ∧ T.grans = true ∧ T.shareGroups = true ∧ T.used = true ∧ T.migs = true ∧ T.heldBy = true ∧ T.chans = true ∧ T.links = true ∧ T.cxl = true ∧ T.boot = true ∧ T.rcv = true ∧ T.flights = true := by simp [*]) :
    OutKeeps T s0 (execSend t w s) := by
  unfold execSend
  try dsimp only
  repeat' first | (with_reducible assumption) | (simp +contextual (maxDischargeDepth := 60) only [memSend_keeps, ht, and_self]; done) | split | (with_reducible apply keeps_foldl) | (with_reducible apply keeps_foldl_fst) | (with_reducible apply keeps_foldl_snd) | (with_reducible apply keeps_foldl_snd2) | (intro _ _ _) | (intro _ _) | with_reducible apply instr_keeps | with_reducible apply faultAt_keeps | with_reducible apply waitAt_keeps | with_reducible apply tsRead_keeps | with_reducible apply memSend_keeps | with_reducible apply sendCopies_keeps | with_reducible apply keeps_ite | with_reducible apply outKeeps_ite | with_reducible apply atUnit_keeps | dsimp only
theorem execStreamTileArrive_keeps {T : Touch} {s0 : State} (dst : ℕ) (src : ℕ) (port : ℕ) (s : State) (hk : Keeps T s0 s) (ht : T.tillers = true ∧ T.flights = true := by simp [*]) :
    OutKeeps T s0 (execStreamTileArrive dst src port s) := by
  unfold execStreamTileArrive
  refine atUnit_keeps ?_
  rw [outKeeps_next]
  split
  · exact hk
  · extract_lets u t1
    have h1 : Keeps T s0 t1 := keeps_flights _ hk (by simp [*])
    clear_value t1
    split
    · exact h1
    · extract_lets g
      split
      · exact hk
      · split
        · exact hk
        · exact modCfgBy_keeps _ _ _ _ (tsWrite_keeps _ _ _ _ h1)
theorem execStreamEndArrive_keeps {T : Touch} {s0 : State} (dst : ℕ) (src : ℕ) (port : ℕ) (s : State) (hk : Keeps T s0 s) (ht : T.tillers = true ∧ T.flights = true := by simp [*]) :
    OutKeeps T s0 (execStreamEndArrive dst src port s) := by
  unfold execStreamEndArrive
  refine atUnit_keeps ?_
  rw [outKeeps_next]
  split
  · exact hk
  · split
    · exact hk
    · extract_lets t1
      have h1 : Keeps T s0 t1 := keeps_flights _ hk (by simp [*])
      clear_value t1
      split
      · exact h1
      · exact modCfgBy_keeps _ _ _ _ h1
theorem execStreamCreditReturn_keeps {T : Touch} {s0 : State} (dst : ℕ) (src : ℕ) (port : ℕ) (s : State) (hk : Keeps T s0 s) (ht : T.freeCtr = true ∧ T.regs = true ∧ T.tillers = true ∧ T.stackMap = true ∧ T.deeps = true ∧ T.objs = true ∧ T.grans = true ∧ T.shareGroups = true ∧ T.used = true ∧ T.migs = true ∧ T.heldBy = true ∧ T.chans = true ∧ T.links = true ∧ T.cxl = true ∧ T.boot = true ∧ T.rcv = true ∧ T.flights = true := by simp [*]) :
    OutKeeps T s0 (execStreamCreditReturn dst src port s) := by
  unfold execStreamCreditReturn
  refine atUnit_keeps ?_
  rw [outKeeps_next]
  split
  · exact hk
  · split
    · exact hk
    · extract_lets t1
      have h1 : Keeps T s0 t1 := keeps_flights _ hk (by simp [*])
      clear_value t1
      split
      · exact h1
      · extract_lets t2 u
        have h2 : Keeps T s0 t2 := modCfgBy_keeps _ _ _ _ h1
        clear_value t2
        split
        · split
          · exact sendCopies_keeps _ _ _ h2
          · exact h2
        · exact h2
theorem consume_keeps {T : Touch} {s0 : State} (t : ℕ) (kind : ℕ) (idx : ℕ) (mb : ℕ) (wait : ℕ) (s : State) (k : State → State) (hk : Keeps T s0 s) (hkk : ∀ x0, Keeps T s0 x0 → Keeps T s0 (k x0)) (ht : T.regs = true ∧ T.tillers = true ∧ T.stackMap = true ∧ T.deeps = true ∧ T.objs = true ∧ T.grans = true ∧ T.shareGroups = true ∧ T.used = true ∧ T.migs = true ∧ T.heldBy = true ∧ T.chans = true ∧ T.links = true ∧ T.cxl = true ∧ T.boot = true ∧ T.rcv = true ∧ T.flights = true := by simp [*]) :
    Keeps T s0 (consume t kind idx mb wait s k) := by
  unfold consume
  try dsimp only
  repeat' first | (with_reducible assumption) | (simp +contextual (maxDischargeDepth := 60) only [hk, hkk, waitAt_keeps, refetchAt_keeps, faultAt_keeps, dropReq_keeps, ht, and_self]; done) | split | dsimp only
theorem execWaitin_keeps {T : Touch} {s0 : State} (t : ℕ) (w : Word) (s : State) (hk : Keeps T s0 s) (ht : T.freeCtr = true ∧ T.regs = true ∧ T.tillers = true ∧ T.stackMap = true ∧ T.deeps = true ∧ T.objs = true ∧ T.grans = true ∧ T.shareGroups = true ∧ T.used = true ∧ T.migs = true ∧ T.heldBy = true ∧ T.chans = true ∧ T.links = true ∧ T.cxl = true ∧ T.boot = true ∧ T.rcv = true ∧ T.flights = true := by simp [*]) :
    OutKeeps T s0 (execWaitin t w s) := by
  unfold execWaitin
  try dsimp only
  repeat' first | (with_reducible assumption) | (simp +contextual (maxDischargeDepth := 60) only [issued_keeps, setSreg_keeps, modCfg_keeps, ht, and_self]; done) | split | (with_reducible apply keeps_foldl) | (with_reducible apply keeps_foldl_fst) | (with_reducible apply keeps_foldl_snd) | (with_reducible apply keeps_foldl_snd2) | (intro _ _ _) | (intro _ _) | with_reducible apply instr_keeps | with_reducible apply faultAt_keeps | with_reducible apply waitAt_keeps | with_reducible apply issued_keeps | with_reducible apply setSreg_keeps | with_reducible apply consume_keeps | with_reducible apply modCfg_keeps | with_reducible apply keeps_ite | with_reducible apply outKeeps_ite | with_reducible apply atUnit_keeps | dsimp only
theorem execRelin_keeps {T : Touch} {s0 : State} (t : ℕ) (w : Word) (s : State) (hk : Keeps T s0 s) (ht : T.freeCtr = true ∧ T.regs = true ∧ T.tillers = true ∧ T.stackMap = true ∧ T.deeps = true ∧ T.objs = true ∧ T.grans = true ∧ T.shareGroups = true ∧ T.used = true ∧ T.migs = true ∧ T.heldBy = true ∧ T.chans = true ∧ T.links = true ∧ T.cxl = true ∧ T.boot = true ∧ T.rcv = true ∧ T.flights = true := by simp [*]) :
    OutKeeps T s0 (execRelin t w s) := by
  unfold execRelin
  try dsimp only
  repeat' first | (with_reducible assumption) | (simp +contextual (maxDischargeDepth := 60) only [ht, and_self]; done) | split | (with_reducible apply keeps_foldl) | (with_reducible apply keeps_foldl_fst) | (with_reducible apply keeps_foldl_snd) | (with_reducible apply keeps_foldl_snd2) | (intro _ _ _) | (intro _ _) | with_reducible apply instr_keeps | with_reducible apply faultAt_keeps | with_reducible apply dropReq_keeps | with_reducible apply modCfg_keeps | with_reducible apply issued_keeps | with_reducible apply keeps_ite | with_reducible apply outKeeps_ite | with_reducible apply atUnit_keeps | (with_reducible refine keeps_flights _ ?_ (by simp [ht])) | dsimp only
theorem execWaitw_keeps {T : Touch} {s0 : State} (t : ℕ) (w : Word) (s : State) (hk : Keeps T s0 s) (ht : T.freeCtr = true ∧ T.regs = true ∧ T.tillers = true ∧ T.stackMap = true ∧ T.deeps = true ∧ T.objs = true ∧ T.grans = true ∧ T.shareGroups = true ∧ T.used = true ∧ T.migs = true ∧ T.heldBy = true ∧ T.chans = true ∧ T.links = true ∧ T.cxl = true ∧ T.boot = true ∧ T.rcv = true ∧ T.flights = true := by simp [*]) :
    OutKeeps T s0 (execWaitw t w s) := by
  unfold execWaitw
  try dsimp only
  repeat' first | (with_reducible assumption) | (simp +contextual (maxDischargeDepth := 60) only [modCfg_keeps, issued_keeps, setSreg_keeps, ht, and_self]; done) | split | (with_reducible apply keeps_foldl) | (with_reducible apply keeps_foldl_fst) | (with_reducible apply keeps_foldl_snd) | (with_reducible apply keeps_foldl_snd2) | (intro _ _ _) | (intro _ _) | with_reducible apply instr_keeps | with_reducible apply waitAt_keeps | with_reducible apply consume_keeps | with_reducible apply modCfg_keeps | with_reducible apply issued_keeps | with_reducible apply setSreg_keeps | with_reducible apply keeps_ite | with_reducible apply outKeeps_ite | with_reducible apply atUnit_keeps | dsimp only
theorem execRelw_keeps {T : Touch} {s0 : State} (t : ℕ) (w : Word) (s : State) (hk : Keeps T s0 s) (ht : T.freeCtr = true ∧ T.regs = true ∧ T.tillers = true ∧ T.stackMap = true ∧ T.deeps = true ∧ T.objs = true ∧ T.grans = true ∧ T.shareGroups = true ∧ T.used = true ∧ T.migs = true ∧ T.heldBy = true ∧ T.chans = true ∧ T.links = true ∧ T.cxl = true ∧ T.boot = true ∧ T.rcv = true ∧ T.flights = true := by simp [*]) :
    OutKeeps T s0 (execRelw t w s) := by
  unfold execRelw
  try dsimp only
  repeat' first | (with_reducible assumption) | (simp +contextual (maxDischargeDepth := 60) only [ht, and_self]; done) | split | (with_reducible apply keeps_foldl) | (with_reducible apply keeps_foldl_fst) | (with_reducible apply keeps_foldl_snd) | (with_reducible apply keeps_foldl_snd2) | (intro _ _ _) | (intro _ _) | with_reducible apply instr_keeps | with_reducible apply faultAt_keeps | with_reducible apply dropReq_keeps | with_reducible apply issued_keeps | with_reducible apply modCfg_keeps | with_reducible apply keeps_ite | with_reducible apply outKeeps_ite | with_reducible apply atUnit_keeps | dsimp only
theorem execRelayForward_keeps {T : Touch} {s0 : State} (t : ℕ) (s : State) (hk : Keeps T s0 s) (ht : T.tillers = true := by simp [*]) :
    OutKeeps T s0 (execRelayForward t s) := by
  unfold execRelayForward
  try dsimp only
  repeat' first | (with_reducible assumption) | (simp +contextual (maxDischargeDepth := 60) only [atUnit_keeps, outKeeps_next, hk, tsWrite_keeps, modCfgBy_keeps, ht]; done) | split | dsimp only
theorem execRelayStall_keeps {T : Touch} {s0 : State} (t : ℕ) (s : State) (hk : Keeps T s0 s) (ht : T.regs = true ∧ T.chans = true ∧ T.cxl = true := by simp [*]) :
    OutKeeps T s0 (execRelayStall t s) := by
  unfold execRelayStall
  try dsimp only
  repeat' first | (with_reducible assumption) | (simp +contextual (maxDischargeDepth := 60) only [atUnit_keeps, outKeeps_next, hk, setEv_keeps, ht, and_self]; done) | split | dsimp only

end Sys2Proof.Machine
end

