-- ==== Sys2Proof/Laws/Keeps/Stacks.lean ====
section
/-! SUPPORT. What each operation of Machine/Stacks.lean keeps. -/

namespace Sys2Proof.Machine

open Sys2Proof

set_option Elab.async false
set_option linter.unusedTactic false
set_option linter.unreachableTactic false

theorem answerPart_keeps {T : Touch} {s0 : State} (t : ℕ) (rid : ℕ) (h : ℕ) (f : Part → Part) (s : State) (hk : Keeps T s0 s) (ht : T.tillers = true ∧ T.stackMap = true ∧ T.deeps = true := by simp [*]) :
    Keeps T s0 (answerPart t rid h f s) := by
  unfold answerPart
  try dsimp only
  repeat' first | (with_reducible assumption) | (simp +contextual (maxDischargeDepth := 60) only [hk, endSilence_keeps, poolDrop_keeps, modReq_keeps, ht, and_self]; done) | split | dsimp only
theorem partFail_keeps {T : Touch} {s0 : State} (t : ℕ) (rid : ℕ) (c : ℕ) (h : ℕ) (o : Obj) (off : ℕ) (cause : ℕ) (s : State) (hk : Keeps T s0 s) (ht : T.regs = true ∧ T.tillers = true ∧ T.chans = true ∧ T.cxl = true ∧ T.boot = true ∧ T.rcv = true := by simp [*]) :
    Keeps T s0 (partFail t rid c h o off cause s) := by
  unfold partFail
  try dsimp only
  repeat' first | (with_reducible assumption) | (simp +contextual (maxDischargeDepth := 60) only [hk, modReq_keeps, huskLog_keeps, ht, and_self]; done) | split | dsimp only
theorem partRead_keeps {T : Touch} {s0 : State} (t : ℕ) (rid : ℕ) (c : ℕ) (o : Obj) (h : ℕ) (p : Part) (s : State) (hk : Keeps T s0 s) (ht : T.regs = true ∧ T.tillers = true ∧ T.stackMap = true ∧ T.deeps = true ∧ T.poison = true ∧ T.chans = true ∧ T.cxl = true ∧ T.boot = true ∧ T.rcv = true := by simp [*]) :
    Keeps T s0 (partRead t rid c o h p s).1 := by
  unfold partRead
  try dsimp only
  repeat' first | (with_reducible assumption) | (simp +contextual (maxDischargeDepth := 60) only [slotRead_keeps, partFail_keeps, unitRead_keeps, ht, and_self]; done) | split | (with_reducible apply keeps_foldl) | (with_reducible apply keeps_foldl_fst) | (with_reducible apply keeps_foldl_snd) | (with_reducible apply keeps_foldl_snd2) | (intro _ _ _) | (intro _ _) | with_reducible apply slotRead_keeps | with_reducible apply partFail_keeps | with_reducible apply unitRead_keeps | with_reducible apply keeps_ite | with_reducible apply outKeeps_ite | with_reducible apply atUnit_keeps | dsimp only
theorem partWrite_keeps {T : Touch} {s0 : State} (c : ℕ) (o : Obj) (h : ℕ) (p : Part) (src : List Byte) (s : State) (hk : Keeps T s0 s) (ht : T.regs = true ∧ T.stackMap = true ∧ T.deeps = true ∧ T.dram = true ∧ T.poison = true ∧ T.husk = true ∧ T.huskBad = true ∧ T.chans = true ∧ T.cxl = true ∧ T.boot = true ∧ T.rcv = true ∧ T.notices = true := by simp [*]) :
    Keeps T s0 (partWrite c o h p src s).1 := by
  unfold partWrite
  try dsimp only
  repeat' first | (with_reducible assumption) | (simp +contextual (maxDischargeDepth := 60) only [notify_keeps, ht, and_self]; done) | split | (with_reducible apply keeps_foldl) | (with_reducible apply keeps_foldl_fst) | (with_reducible apply keeps_foldl_snd) | (with_reducible apply keeps_foldl_snd2) | (intro _ _ _) | (intro _ _) | with_reducible apply notify_keeps | with_reducible apply slotWrite_keeps | with_reducible apply slotRead_keeps | with_reducible apply cntInc_keeps | with_reducible apply huskLog_keeps | with_reducible apply unitWrite_keeps | with_reducible apply keeps_ite | with_reducible apply outKeeps_ite | with_reducible apply atUnit_keeps | dsimp only
theorem servePart_keeps {T : Touch} {s0 : State} (h : ℕ) (t : ℕ) (rid : ℕ) (s : State) (hk : Keeps T s0 s) (ht : T.regs = true ∧ T.tillers = true ∧ T.stackMap = true ∧ T.deeps = true ∧ T.dram = true ∧ T.poison = true ∧ T.husk = true ∧ T.huskBad = true ∧ T.chans = true ∧ T.cxl = true ∧ T.boot = true ∧ T.rcv = true ∧ T.notices = true := by simp [*]) :
    Keeps T s0 (servePart h t rid s) := by
  unfold servePart
  try dsimp only
  repeat' first | (with_reducible assumption) | (simp +contextual (maxDischargeDepth := 60) only [ht, and_self]; done) | split | (with_reducible apply keeps_foldl) | (with_reducible apply keeps_foldl_fst) | (with_reducible apply keeps_foldl_snd) | (with_reducible apply keeps_foldl_snd2) | (intro _ _ _) | (intro _ _) | with_reducible apply eccRead_keeps | with_reducible apply partWrite_keeps | with_reducible apply cntInc_keeps | with_reducible apply answerPart_keeps | with_reducible apply partRead_keeps | with_reducible apply keeps_ite | with_reducible apply outKeeps_ite | with_reducible apply atUnit_keeps | dsimp only
theorem execStackPartServe_keeps {T : Touch} {s0 : State} (i : ℕ) (t : ℕ) (rid : ℕ) (sec : ℕ) (errs : List (ℕ × List (ℕ × ℕ))) (s : State) (hk : Keeps T s0 s) (ht : T.regs = true ∧ T.tillers = true ∧ T.stackMap = true ∧ T.deeps = true ∧ T.dram = true ∧ T.poison = true ∧ T.husk = true ∧ T.huskBad = true ∧ T.objs = true ∧ T.grans = true ∧ T.heldBy = true ∧ T.xlat = true ∧ T.chans = true ∧ T.cxl = true ∧ T.boot = true ∧ T.rcv = true ∧ T.notices = true := by simp [*]) :
    OutKeeps T s0 (execStackPartServe i t rid sec errs s) := by
  unfold execStackPartServe
  try dsimp only
  repeat' first | (with_reducible assumption) | (simp +contextual (maxDischargeDepth := 60) only [atUnit_keeps, outKeeps_next, hk, plantErrs_keeps, cntAdd_keeps, copyPump_keeps, servePart_keeps, ht, and_self]; done) | split | dsimp only
theorem execDtPartServe_keeps {T : Touch} {s0 : State} (d : ℕ) (t : ℕ) (rid : ℕ) (errs : PartErrs) (s : State) (hk : Keeps T s0 s) (ht : T.regs = true ∧ T.tillers = true ∧ T.stackMap = true ∧ T.deeps = true ∧ T.dram = true ∧ T.poison = true ∧ T.husk = true ∧ T.huskBad = true ∧ T.objs = true ∧ T.grans = true ∧ T.heldBy = true ∧ T.xlat = true ∧ T.chans = true ∧ T.cxl = true ∧ T.boot = true ∧ T.rcv = true ∧ T.notices = true := by simp [*]) :
    OutKeeps T s0 (execDtPartServe d t rid errs s) := by
  have h1 := keeps_foldl (l := errs.map) (fun _ l hu => mapParity_keeps (16 + d) l _ hu) (plantErrs_keeps (16 + d) errs.syms s hk)
  unfold execDtPartServe
  exact atUnit_keeps (outKeeps_next.2 (keeps_ite (fun _ => copyPump_keeps _ (servePart_keeps _ _ _ _ h1)) (fun _ => h1)))
theorem applyAccum_keeps {T : Touch} {s0 : State} (c : ℕ) (h : ℕ) (f : Sheaf) (tile : ℕ) (mb : ℕ) (source : ℕ) (first : Bool) (runs : List (ℕ × ℕ × ℕ)) (src : List F32) (s : State) (hk : Keeps T s0 s) (ht : T.regs = true ∧ T.stackMap = true ∧ T.deeps = true ∧ T.dram = true ∧ T.poison = true ∧ T.chans = true ∧ T.cxl = true ∧ T.boot = true ∧ T.rcv = true ∧ T.notices = true := by simp [*]) :
    Keeps T s0 (applyAccum c h f tile mb source first runs src s).1 := by
  unfold applyAccum
  try dsimp only
  repeat' first | (with_reducible assumption) | (simp +contextual (maxDischargeDepth := 60) only [readCells_keeps, notify_keeps, writePieces_keeps, ht, and_self]; done) | split | (with_reducible apply keeps_foldl) | (with_reducible apply keeps_foldl_fst) | (with_reducible apply keeps_foldl_snd) | (with_reducible apply keeps_foldl_snd2) | (intro _ _ _) | (intro _ _) | with_reducible apply readCells_keeps | with_reducible apply notify_keeps | with_reducible apply writePieces_keeps | with_reducible apply cntInc_keeps | with_reducible apply modTrn_keeps | with_reducible apply keeps_ite | with_reducible apply outKeeps_ite | with_reducible apply atUnit_keeps | dsimp only
theorem modSheaf_keeps {T : Touch} {s0 : State} (c : ℕ) (num : ℕ) (g : Sheaf → Sheaf) (s : State) (hk : Keeps T s0 s) (ht : T.chans = true := by simp [*]) :
    Keeps T s0 (modSheaf c num g s) := by
  unfold modSheaf
  simp +contextual (maxDischargeDepth := 60) only [hk, modTrn_keeps, ht]
theorem drainHeld_keeps {T : Touch} {s0 : State} (c h num tile fuel : Nat) (s : State) (hk : Keeps T s0 s) (ht : T.regs = true ∧ T.stackMap = true ∧ T.deeps = true ∧ T.dram = true ∧ T.poison = true ∧ T.chans = true ∧ T.cxl = true ∧ T.boot = true ∧ T.rcv = true ∧ T.notices = true := by simp [*]) : Keeps T s0 (drainHeld c h num tile fuel s) := by
  induction fuel generalizing s with
  | zero => exact hk
  | succ fuel ih =>
    unfold drainHeld
    split
    · exact hk
    · dsimp only
      split
      · exact hk
      · exact ih _ (modSheaf_keeps _ _ _ _ (applyAccum_keeps _ _ _ _ _ _ _ _ _ _ (modStack_keeps _ _ _ hk)))
theorem extraAccum_keeps {T : Touch} {s0 : State} (h : ℕ) (t : ℕ) (rid : ℕ) (s : State) (hk : Keeps T s0 s) (ht : T.regs = true ∧ T.tillers = true ∧ T.stackMap = true ∧ T.deeps = true ∧ T.chans = true ∧ T.cxl = true := by simp [*]) :
    Keeps T s0 (extraAccum h t rid s) := by
  unfold extraAccum
  simp +contextual (maxDischargeDepth := 60) only [hk, answerPart_keeps, setEv_keeps, ht, and_self]
theorem execAccumArrive_keeps {T : Touch} {s0 : State} (i : ℕ) (t : ℕ) (rid : ℕ) (s : State) (hk : Keeps T s0 s) (ht : T.regs = true ∧ T.tillers = true ∧ T.stackMap = true ∧ T.deeps = true ∧ T.dram = true ∧ T.poison = true ∧ T.chans = true ∧ T.cxl = true ∧ T.boot = true ∧ T.rcv = true ∧ T.notices = true := by simp [*]) :
    OutKeeps T s0 (execAccumArrive i t rid s) := by
  unfold execAccumArrive
  try dsimp only
  repeat' first | (with_reducible assumption) | (simp +contextual (maxDischargeDepth := 60) only [atUnit_keeps, outKeeps_next, hk, extraAccum_keeps, applyAccum_keeps, answerPart_keeps, drainHeld_keeps, modSheaf_keeps, modStack_keeps, cntInc_keeps, poolDrop_keeps, modReq_keeps, ht, and_self]; done) | split | dsimp only
theorem execAccumReoffer_keeps {T : Touch} {s0 : State} (i : ℕ) (t : ℕ) (rid : ℕ) (s : State) (hk : Keeps T s0 s) (ht : T.tillers = true := by simp [*]) :
    OutKeeps T s0 (execAccumReoffer i t rid s) := by
  unfold execAccumReoffer
  try dsimp only
  repeat' first | (with_reducible assumption) | (simp +contextual (maxDischargeDepth := 60) only [requeue_keeps, ht]; done) | split | (with_reducible apply keeps_foldl) | (with_reducible apply keeps_foldl_fst) | (with_reducible apply keeps_foldl_snd) | (with_reducible apply keeps_foldl_snd2) | (intro _ _ _) | (intro _ _) | with_reducible apply onlyIf_keeps | with_reducible apply requeue_keeps | with_reducible apply keeps_ite | with_reducible apply outKeeps_ite | with_reducible apply atUnit_keeps | dsimp only
theorem raiseSlow_keeps {T : Touch} {s0 : State} (h : ℕ) (n : ℕ) (s : State) (hk : Keeps T s0 s) (ht : T.stackMap = true ∧ T.deeps = true := by simp [*]) :
    Keeps T s0 (raiseSlow h n s) := by
  unfold raiseSlow
  try dsimp only
  repeat' first | (with_reducible assumption) | (simp +contextual (maxDischargeDepth := 60) only [hk, modStack_keeps, modDeep_keeps, ht]; done) | split | dsimp only
theorem recordBank_keeps {T : Touch} {s0 : State} (h : ℕ) (ch : ℕ) (bank : ℕ) (n : ℕ) (us : ℕ) (s : State) (hk : Keeps T s0 s) (ht : T.regs = true := by simp [*]) :
    Keeps T s0 (recordBank h ch bank n us s) := by
  unfold recordBank
  try dsimp only
  repeat' first | (with_reducible assumption) | (simp +contextual (maxDischargeDepth := 60) only [hk, wr_keeps, ht]; done) | split | dsimp only
theorem execBankSlow_keeps {T : Touch} {s0 : State} (i : ℕ) (ch : ℕ) (bank : ℕ) (us : ℕ) (s : State) (hk : Keeps T s0 s) (ht : T.regs = true ∧ T.stackMap = true ∧ T.deeps = true ∧ T.chans = true ∧ T.cxl = true := by simp [*]) :
    OutKeeps T s0 (execBankSlow i ch bank us s) := by
  unfold execBankSlow
  try dsimp only
  repeat' first | (with_reducible assumption) | (simp +contextual (maxDischargeDepth := 60) only [raiseSlow_keeps, recordBank_keeps, setEv_keeps, ht, and_self]; done) | split | (with_reducible apply keeps_foldl) | (with_reducible apply keeps_foldl_fst) | (with_reducible apply keeps_foldl_snd) | (with_reducible apply keeps_foldl_snd2) | (intro _ _ _) | (intro _ _) | with_reducible apply onlyIf_keeps | with_reducible apply raiseSlow_keeps | with_reducible apply recordBank_keeps | with_reducible apply setEv_keeps | with_reducible apply keeps_ite | with_reducible apply outKeeps_ite | with_reducible apply atUnit_keeps | dsimp only
theorem bankTimeout_keeps {T : Touch} {s0 : State} (h : ℕ) (ch : ℕ) (bank : ℕ) (us : ℕ) (s : State) (hk : Keeps T s0 s) (ht : T.regs = true ∧ T.tillers = true ∧ T.stackMap = true ∧ T.deeps = true ∧ T.dram = true ∧ T.poison = true ∧ T.husk = true ∧ T.huskBad = true ∧ T.objs = true ∧ T.grans = true ∧ T.shareGroups = true ∧ T.used = true ∧ T.migs = true ∧ T.heldBy = true ∧ T.xlat = true ∧ T.chans = true ∧ T.links = true ∧ T.cxl = true ∧ T.boot = true ∧ T.rcv = true ∧ T.flights = true ∧ T.notices = true := by simp [*]) :
    Keeps T s0 (bankTimeout h ch bank us s) := by
  unfold bankTimeout
  try dsimp only
  repeat' first | (with_reducible assumption) | (simp +contextual (maxDischargeDepth := 60) only [hk, recordBank_keeps, answerPart_keeps, ht, and_self]; done) | split | (with_reducible apply keeps_foldl) | (with_reducible apply keeps_foldl_fst) | (with_reducible apply keeps_foldl_snd) | (with_reducible apply keeps_foldl_snd2) | (intro _ _ _) | (intro _ _) | with_reducible apply recordBank_keeps | with_reducible apply answerPart_keeps | with_reducible apply endSilence_keeps | with_reducible apply modEngine_keeps | with_reducible apply setEv_keeps | with_reducible apply flagDomain_keeps | with_reducible apply keeps_ite | with_reducible apply outKeeps_ite | with_reducible apply atUnit_keeps | dsimp only
theorem execBankTimeout_keeps {T : Touch} {s0 : State} (i : ℕ) (ch : ℕ) (bank : ℕ) (us : ℕ) (s : State) (hk : Keeps T s0 s) (ht : T.regs = true ∧ T.tillers = true ∧ T.stackMap = true ∧ T.deeps = true ∧ T.dram = true ∧ T.poison = true ∧ T.husk = true ∧ T.huskBad = true ∧ T.objs = true ∧ T.grans = true ∧ T.shareGroups = true ∧ T.used = true ∧ T.migs = true ∧ T.heldBy = true ∧ T.xlat = true ∧ T.chans = true ∧ T.links = true ∧ T.cxl = true ∧ T.boot = true ∧ T.rcv = true ∧ T.flights = true ∧ T.notices = true := by simp [*]) :
    OutKeeps T s0 (execBankTimeout i ch bank us s) := by
  unfold execBankTimeout
  try dsimp only
  repeat' first | (with_reducible assumption) | (simp +contextual (maxDischargeDepth := 60) only [copyPump_keeps, bankTimeout_keeps, ht, and_self]; done) | split | (with_reducible apply keeps_foldl) | (with_reducible apply keeps_foldl_fst) | (with_reducible apply keeps_foldl_snd) | (with_reducible apply keeps_foldl_snd2) | (intro _ _ _) | (intro _ _) | with_reducible apply onlyIf_keeps | with_reducible apply copyPump_keeps | with_reducible apply bankTimeout_keeps | with_reducible apply keeps_ite | with_reducible apply outKeeps_ite | with_reducible apply atUnit_keeps | dsimp only
theorem execDtBankTimeout_keeps {T : Touch} {s0 : State} (d : ℕ) (sub : ℕ) (rank : ℕ) (bank : ℕ) (us : ℕ) (s : State) (hk : Keeps T s0 s) (ht : T.regs = true ∧ T.tillers = true ∧ T.stackMap = true ∧ T.deeps = true ∧ T.dram = true ∧ T.poison = true ∧ T.husk = true ∧ T.huskBad = true ∧ T.objs = true ∧ T.grans = true ∧ T.shareGroups = true ∧ T.used = true ∧ T.migs = true ∧ T.heldBy = true ∧ T.xlat = true ∧ T.chans = true ∧ T.links = true ∧ T.cxl = true ∧ T.boot = true ∧ T.rcv = true ∧ T.flights = true ∧ T.notices = true := by simp [*]) :
    OutKeeps T s0 (execDtBankTimeout d sub rank bank us s) := by
  unfold execDtBankTimeout
  try dsimp only
  repeat' first | (with_reducible assumption) | (simp +contextual (maxDischargeDepth := 60) only [copyPump_keeps, bankTimeout_keeps, ht, and_self]; done) | split | (with_reducible apply keeps_foldl) | (with_reducible apply keeps_foldl_fst) | (with_reducible apply keeps_foldl_snd) | (with_reducible apply keeps_foldl_snd2) | (intro _ _ _) | (intro _ _) | with_reducible apply onlyIf_keeps | with_reducible apply copyPump_keeps | with_reducible apply bankTimeout_keeps | with_reducible apply keeps_ite | with_reducible apply outKeeps_ite | with_reducible apply atUnit_keeps | dsimp only
theorem execScrubRead_keeps {T : Touch} {s0 : State} (i : ℕ) (sec : ℕ) (err : List (ℕ × ℕ)) (s : State) (hk : Keeps T s0 s) (ht : T.regs = true ∧ T.stackMap = true ∧ T.deeps = true ∧ T.poison = true ∧ T.chans = true ∧ T.cxl = true ∧ T.boot = true ∧ T.rcv = true := by simp [*]) :
    OutKeeps T s0 (execScrubRead i sec err s) := by
  unfold execScrubRead
  try dsimp only
  repeat' first | (with_reducible assumption) | (simp +contextual (maxDischargeDepth := 60) only [eccScan_keeps, plantErrs_keeps, modDeep_keeps, ht, and_self]; done) | split | (with_reducible apply keeps_foldl) | (with_reducible apply keeps_foldl_fst) | (with_reducible apply keeps_foldl_snd) | (with_reducible apply keeps_foldl_snd2) | (intro _ _ _) | (intro _ _) | with_reducible apply onlyIf_keeps | with_reducible apply eccScan_keeps | with_reducible apply plantErrs_keeps | with_reducible apply cntAdd_keeps | with_reducible apply modStack_keeps | with_reducible apply cntInc_keeps | with_reducible apply modDeep_keeps | with_reducible apply keeps_ite | with_reducible apply outKeeps_ite | with_reducible apply atUnit_keeps | dsimp only
theorem execDieAutoErase_keeps {T : Touch} {s0 : State} (i : ℕ) (die : ℕ) (s : State) (hk : Keeps T s0 s) (ht : T.regs = true ∧ T.chans = true ∧ T.cxl = true := by simp [*]) :
    OutKeeps T s0 (execDieAutoErase i die s) := by
  unfold execDieAutoErase
  try dsimp only
  repeat' first | (with_reducible assumption) | (simp +contextual (maxDischargeDepth := 60) only [setEv_keeps, wr_keeps, ht, and_self]; done) | split | (with_reducible apply keeps_foldl) | (with_reducible apply keeps_foldl_fst) | (with_reducible apply keeps_foldl_snd) | (with_reducible apply keeps_foldl_snd2) | (intro _ _ _) | (intro _ _) | with_reducible apply onlyIf_keeps | with_reducible apply setEv_keeps | with_reducible apply wr_keeps | with_reducible apply keeps_ite | with_reducible apply outKeeps_ite | with_reducible apply atUnit_keeps | dsimp only
theorem setDebt_keeps {T : Touch} {s0 : State} (h : ℕ) (n : ℕ) (v : ℕ) (s : State) (hk : Keeps T s0 s) (ht : T.stackMap = true ∧ T.deeps = true := by simp [*]) :
    Keeps T s0 (setDebt h n v s) := by
  unfold setDebt
  try dsimp only
  repeat' first | (with_reducible assumption) | (simp +contextual (maxDischargeDepth := 60) only [hk, modStack_keeps, modDeep_keeps, ht]; done) | split | dsimp only
theorem execBankRefresh_keeps {T : Touch} {s0 : State} (i : ℕ) (ch : ℕ) (bank : ℕ) (s : State) (hk : Keeps T s0 s) (ht : T.stackMap = true ∧ T.deeps = true := by simp [*]) :
    OutKeeps T s0 (execBankRefresh i ch bank s) := by
  unfold execBankRefresh
  try dsimp only
  repeat' first | (with_reducible assumption) | (simp +contextual (maxDischargeDepth := 60) only [atUnit_keeps, outKeeps_next, hk, setDebt_keeps, ht, and_self]; done) | split | dsimp only
theorem execRefreshForce_keeps {T : Touch} {s0 : State} (i : ℕ) (ch : ℕ) (bank : ℕ) (s : State) (hk : Keeps T s0 s) (ht : T.stackMap = true ∧ T.deeps = true := by simp [*]) :
    OutKeeps T s0 (execRefreshForce i ch bank s) := by
  unfold execRefreshForce
  try dsimp only
  repeat' first | (with_reducible assumption) | (simp +contextual (maxDischargeDepth := 60) only [setDebt_keeps, ht, and_self]; done) | split | (with_reducible apply keeps_foldl) | (with_reducible apply keeps_foldl_fst) | (with_reducible apply keeps_foldl_snd) | (with_reducible apply keeps_foldl_snd2) | (intro _ _ _) | (intro _ _) | with_reducible apply onlyIf_keeps | with_reducible apply setDebt_keeps | with_reducible apply keeps_ite | with_reducible apply outKeeps_ite | with_reducible apply atUnit_keeps | dsimp only
theorem execStackTempSample_keeps {T : Touch} {s0 : State} (i : ℕ) (temps : List ℕ) (s : State) (hk : Keeps T s0 s) (ht : T.regs = true ∧ T.tillers = true ∧ T.stackMap = true ∧ T.deeps = true ∧ T.dram = true ∧ T.poison = true ∧ T.husk = true ∧ T.huskBad = true ∧ T.objs = true ∧ T.grans = true ∧ T.shareGroups = true ∧ T.used = true ∧ T.migs = true ∧ T.heldBy = true ∧ T.xlat = true ∧ T.chans = true ∧ T.links = true ∧ T.cxl = true ∧ T.boot = true ∧ T.rcv = true ∧ T.flights = true ∧ T.notices = true := by simp [*]) :
    OutKeeps T s0 (execStackTempSample i temps s) := by
  unfold execStackTempSample
  try dsimp only
  repeat' first | (with_reducible assumption) | (simp +contextual (maxDischargeDepth := 60) only [ht, and_self]; done) | split | (with_reducible apply keeps_foldl) | (with_reducible apply keeps_foldl_fst) | (with_reducible apply keeps_foldl_snd) | (with_reducible apply keeps_foldl_snd2) | (intro _ _ _) | (intro _ _) | with_reducible apply onlyIf_keeps | with_reducible apply modStack_keeps | with_reducible apply setEv_keeps | with_reducible apply flagDomain_keeps | with_reducible apply keeps_ite | with_reducible apply outKeeps_ite | with_reducible apply atUnit_keeps | dsimp only
theorem execStackThermExit_keeps {T : Touch} {s0 : State} (i : ℕ) (s : State) (hk : Keeps T s0 s) (ht : T.stackMap = true := by simp [*]) :
    OutKeeps T s0 (execStackThermExit i s) := by
  unfold execStackThermExit
  try dsimp only
  repeat' first | (with_reducible assumption) | (simp +contextual (maxDischargeDepth := 60) only [modStack_keeps, ht]; done) | split | (with_reducible apply keeps_foldl) | (with_reducible apply keeps_foldl_fst) | (with_reducible apply keeps_foldl_snd) | (with_reducible apply keeps_foldl_snd2) | (intro _ _ _) | (intro _ _) | with_reducible apply onlyIf_keeps | with_reducible apply modStack_keeps | with_reducible apply keeps_ite | with_reducible apply outKeeps_ite | with_reducible apply atUnit_keeps | dsimp only
theorem execDtTempSample_keeps {T : Touch} {s0 : State} (d : ℕ) (temp : ℕ) (s : State) (hk : Keeps T s0 s) (ht : T.regs = true ∧ T.tillers = true ∧ T.stackMap = true ∧ T.deeps = true ∧ T.dram = true ∧ T.poison = true ∧ T.husk = true ∧ T.huskBad = true ∧ T.objs = true ∧ T.grans = true ∧ T.shareGroups = true ∧ T.used = true ∧ T.migs = true ∧ T.heldBy = true ∧ T.xlat = true ∧ T.chans = true ∧ T.links = true ∧ T.cxl = true ∧ T.boot = true ∧ T.rcv = true ∧ T.flights = true ∧ T.notices = true := by simp [*]) :
    OutKeeps T s0 (execDtTempSample d temp s) := by
  unfold execDtTempSample
  try dsimp only
  repeat' first | (with_reducible assumption) | (simp +contextual (maxDischargeDepth := 60) only [atUnit_keeps, outKeeps_next, hk, modDeep_keeps, setEv_keeps, flagDomain_keeps, ht, and_self]; done) | split | dsimp only
theorem execDtThermExit_keeps {T : Touch} {s0 : State} (d : ℕ) (s : State) (hk : Keeps T s0 s) (ht : T.deeps = true := by simp [*]) :
    OutKeeps T s0 (execDtThermExit d s) := by
  unfold execDtThermExit
  try dsimp only
  repeat' first | (with_reducible assumption) | (simp +contextual (maxDischargeDepth := 60) only [modDeep_keeps, ht]; done) | split | (with_reducible apply keeps_foldl) | (with_reducible apply keeps_foldl_fst) | (with_reducible apply keeps_foldl_snd) | (with_reducible apply keeps_foldl_snd2) | (intro _ _ _) | (intro _ _) | with_reducible apply onlyIf_keeps | with_reducible apply modDeep_keeps | with_reducible apply keeps_ite | with_reducible apply outKeeps_ite | with_reducible apply atUnit_keeps | dsimp only

end Sys2Proof.Machine
end

