-- ==== Sys2Proof/Laws/Keeps/Shards.lean ====
section
/-! SUPPORT. What each operation of Machine/Shards.lean keeps. -/

namespace Sys2Proof.Machine

open Sys2Proof

set_option Elab.async false
set_option linter.unusedTactic false
set_option linter.unreachableTactic false

theorem viewRead_keeps {T : Touch} {s0 : State} (oi : ℕ) (st : ℕ) (v : ℕ) (n : ℕ) (s : State) (hk : Keeps T s0 s) (ht : T.regs = true ∧ T.stackMap = true ∧ T.deeps = true ∧ T.poison = true ∧ T.xlat = true ∧ T.chans = true ∧ T.cxl = true ∧ T.boot = true ∧ T.rcv = true := by simp [*]) :
    Keeps T s0 (viewRead oi st v n s).1 := by
  unfold viewRead
  simp +contextual (maxDischargeDepth := 60) only [hk, objRead_keeps, ht, and_self]
theorem viewWrite_keeps {T : Touch} {s0 : State} (oi : ℕ) (st : ℕ) (v : ℕ) (bs : List Byte) (s : State) (hk : Keeps T s0 s) (ht : T.regs = true ∧ T.tillers = true ∧ T.stackMap = true ∧ T.deeps = true ∧ T.dram = true ∧ T.poison = true ∧ T.husk = true ∧ T.huskBad = true ∧ T.objs = true ∧ T.grans = true ∧ T.xlat = true ∧ T.chans = true ∧ T.cxl = true ∧ T.boot = true ∧ T.rcv = true ∧ T.notices = true := by simp [*]) :
    Keeps T s0 (viewWrite oi st v bs s).1 := by
  unfold viewWrite
  simp +contextual (maxDischargeDepth := 60) only [hk, objWrite_keeps, ht, and_self]
theorem takeAligned_wf {res : Nat → Nat} {n g : Nat} {cur : List Nat} {used : SMap Bool} {p : List Nat × SMap Bool}
    (hu : smWf (fun _ => false) used = true) (e : takeAligned res n g cur used = some p) :
    smWf (fun _ => false) p.2 = true := by
  induction n generalizing g cur used p with
  | zero => simp only [takeAligned, Option.some.injEq] at e; subst e; exact hu
  | succ n ih =>
    simp only [takeAligned] at e
    split at e
    · cases e
    · split at e
      · cases e
      · rename_i h
        cases e
        exact (ih (smWf_foldl_insert hu) h : smWf (fun _ => false) (_, _).2 = true)
theorem allocAligned_keeps {T : Touch} {s0 : State} (res : ℕ → ℕ) (s : State) (n : ℕ) (hk : Keeps T s0 s) {p : List ℕ × State} (he : allocAligned res s n = some p) (ht : T.used = true := by simp [*]) :
    Keeps T s0 p.2 := by
  unfold allocAligned at he
  split at he
  · cases he
  · rename_i h
    cases he
    exact keeps_used _ hk (fun k => takeAligned_wf k h) ht
theorem createArrays_keeps {T : Touch} {s0 : State} (c : Nat) (res : Nat → Nat) (k : Nat) (l : List Nat) (s : State) (hk : Keeps T s0 s) {p : List Nat × State} (he : createArrays c res k l s = .ok p) (ht : T.stackMap = true ∧ T.deeps = true ∧ T.dram = true ∧ T.poison = true ∧ T.husk = true ∧ T.huskBad = true ∧ T.objs = true ∧ T.grans = true ∧ T.used = true ∧ T.chans = true := by simp [*]) :
    Keeps T s0 p.2 := by
  induction l generalizing k s p with
  | nil => cases he; exact hk
  | cons n r ih =>
    unfold createArrays at he
    split at he
    · split at he
      · cases he
      · rename_i h
        cases he
        exact (ih _ _ hk h : Keeps T s0 (_, _).2)
    · extract_lets o at he
      clear_value o
      split at he
      · cases he
      · rename_i h1
        split at he
        · cases he
        · rename_i h2
          cases he
          refine (ih _ _ ?_ h2 : Keeps T s0 (_, _).2)
          refine (createObjBy_keeps _ _ _ _ hk (fun t g p hu ha => ?_) h1 : Keeps T s0 (_, _, _).2.2)
          split at ha
          · exact allocAligned_keeps _ _ _ hu ha
          · exact allocFrames_keeps _ _ _ _ _ hu ha
theorem createSet_keeps {T : Touch} {s0 : State} (s : State) (c : ℕ) (root : ℕ → ℕ) (counts : List ℕ) (hk : Keeps T s0 s) {p : List ℕ × State} (he : createSet s c root counts = .ok p) (ht : T.stackMap = true ∧ T.deeps = true ∧ T.dram = true ∧ T.poison = true ∧ T.husk = true ∧ T.huskBad = true ∧ T.objs = true ∧ T.grans = true ∧ T.used = true ∧ T.chans = true := by simp [*]) :
    Keeps T s0 p.2 := createArrays_keeps _ _ _ _ _ hk he
theorem modSet_keeps {T : Touch} {s0 : State} (c : ℕ) (i : ℕ) (f : ShardSet → ShardSet) (s : State) (hk : Keeps T s0 s) (ht : T.chans = true := by simp [*]) :
    Keeps T s0 (modSet c i f s) := by
  unfold modSet
  simp +contextual (maxDischargeDepth := 60) only [hk, modTrn_keeps, ht]
theorem execShardCreate_keeps {T : Touch} {s0 : State} (src : CmdSrc) (e : Entry) (s : State) (hk : Keeps T s0 s) (ht : T.regs = true ∧ T.stackMap = true ∧ T.deeps = true ∧ T.dram = true ∧ T.poison = true ∧ T.husk = true ∧ T.huskBad = true ∧ T.objs = true ∧ T.grans = true ∧ T.used = true ∧ T.mbxs = true ∧ T.chans = true ∧ T.cxl = true ∧ T.smbOut = true := by simp [*]) :
    OutKeeps T s0 (execShardCreate src e s) := by
  unfold execShardCreate
  refine serve_keeps _ _ _ _ _ hk fun x t ht => ?_
  dsimp only
  split
  · exact answer_keeps _ _ _ _ ht
  · split
    · exact answer_keeps _ _ _ _ ht
    · split
      · exact answer_keeps _ _ _ _ ht
      · split
        · exact answer_keeps _ _ _ _ ht
        · split
          · exact answer_keeps _ _ _ _ ht
          · split
            · exact answer_keeps _ _ _ _ ht
            · split
              · exact answer_keeps _ _ _ _ ht
              · rename_i he
                exact answer_keeps _ _ _ _ (modSet_keeps _ _ _ _ (createSet_keeps _ _ _ _ ht he))
theorem freeSet_keeps {T : Touch} {s0 : State} (c : ℕ) (i : ℕ) (s : State) (hk : Keeps T s0 s) (ht : T.objs = true ∧ T.grans = true ∧ T.shareGroups = true ∧ T.used = true ∧ T.chans = true := by simp [*]) :
    Keeps T s0 (freeSet c i s) := by
  unfold freeSet
  try dsimp only
  repeat' first | (with_reducible assumption) | (simp +contextual (maxDischargeDepth := 60) only [releaseObj_keeps, ht, and_self]; done) | split | (with_reducible apply keeps_foldl) | (with_reducible apply keeps_foldl_fst) | (with_reducible apply keeps_foldl_snd) | (with_reducible apply keeps_foldl_snd2) | (intro _ _ _) | (intro _ _) | with_reducible apply modSet_keeps | with_reducible apply releaseObj_keeps | with_reducible apply keeps_ite | with_reducible apply outKeeps_ite | with_reducible apply atUnit_keeps | dsimp only
theorem execShardFree_keeps {T : Touch} {s0 : State} (src : CmdSrc) (e : Entry) (s : State) (hk : Keeps T s0 s) (ht : T.regs = true ∧ T.objs = true ∧ T.grans = true ∧ T.shareGroups = true ∧ T.used = true ∧ T.mbxs = true ∧ T.chans = true ∧ T.cxl = true ∧ T.smbOut = true := by simp [*]) :
    OutKeeps T s0 (execShardFree src e s) := by
  unfold execShardFree
  try dsimp only
  repeat' first | (with_reducible assumption) | (simp +contextual (maxDischargeDepth := 60) only [ht, and_self]; done) | split | (with_reducible apply keeps_foldl) | (with_reducible apply keeps_foldl_fst) | (with_reducible apply keeps_foldl_snd) | (with_reducible apply keeps_foldl_snd2) | (intro _ _ _) | (intro _ _) | with_reducible apply serve_keeps | with_reducible apply answer_keeps | with_reducible apply freeSet_keeps | with_reducible apply keeps_ite | with_reducible apply outKeeps_ite | with_reducible apply atUnit_keeps | dsimp only
theorem execHyperSet_keeps {T : Touch} {s0 : State} (src : CmdSrc) (e : Entry) (s : State) (hk : Keeps T s0 s) (ht : T.regs = true ∧ T.mbxs = true ∧ T.chans = true ∧ T.cxl = true ∧ T.smbOut = true := by simp [*]) :
    OutKeeps T s0 (execHyperSet src e s) := by
  unfold execHyperSet
  try dsimp only
  repeat' first | (with_reducible assumption) | (simp +contextual (maxDischargeDepth := 60) only [ht]; done) | split | (with_reducible apply keeps_foldl) | (with_reducible apply keeps_foldl_fst) | (with_reducible apply keeps_foldl_snd) | (with_reducible apply keeps_foldl_snd2) | (intro _ _ _) | (intro _ _) | with_reducible apply serve_keeps | with_reducible apply answer_keeps | with_reducible apply modSet_keeps | with_reducible apply keeps_ite | with_reducible apply outKeeps_ite | with_reducible apply atUnit_keeps | dsimp only
theorem execVariantSet_keeps {T : Touch} {s0 : State} (src : CmdSrc) (e : Entry) (s : State) (hk : Keeps T s0 s) (ht : T.regs = true ∧ T.mbxs = true ∧ T.chans = true ∧ T.cxl = true ∧ T.smbOut = true := by simp [*]) :
    OutKeeps T s0 (execVariantSet src e s) := by
  unfold execVariantSet
  try dsimp only
  repeat' first | (with_reducible assumption) | (simp +contextual (maxDischargeDepth := 60) only [answer_keeps, ht, and_self]; done) | split | (with_reducible apply keeps_foldl) | (with_reducible apply keeps_foldl_fst) | (with_reducible apply keeps_foldl_snd) | (with_reducible apply keeps_foldl_snd2) | (intro _ _ _) | (intro _ _) | with_reducible apply serve_keeps | with_reducible apply answer_keeps | with_reducible apply modTrn_keeps | with_reducible apply keeps_ite | with_reducible apply outKeeps_ite | with_reducible apply atUnit_keeps | dsimp only
theorem execCommitAck_keeps {T : Touch} {s0 : State} (src : CmdSrc) (e : Entry) (s : State) (hk : Keeps T s0 s) (ht : T.regs = true ∧ T.mbxs = true ∧ T.chans = true ∧ T.cxl = true ∧ T.smbOut = true := by simp [*]) :
    OutKeeps T s0 (execCommitAck src e s) := by
  unfold execCommitAck
  try dsimp only
  repeat' first | (with_reducible assumption) | (simp +contextual (maxDischargeDepth := 60) only [ht]; done) | split | (with_reducible apply keeps_foldl) | (with_reducible apply keeps_foldl_fst) | (with_reducible apply keeps_foldl_snd) | (with_reducible apply keeps_foldl_snd2) | (intro _ _ _) | (intro _ _) | with_reducible apply serve_keeps | with_reducible apply answer_keeps | with_reducible apply modTrn_keeps | with_reducible apply keeps_ite | with_reducible apply outKeeps_ite | with_reducible apply atUnit_keeps | dsimp only

end Sys2Proof.Machine
end

