-- ==== Sys2Proof/Laws/Keeps/Update.lean ====
section
/-! SUPPORT. What each operation of Machine/Update.lean keeps. -/

namespace Sys2Proof.Machine

open Sys2Proof

set_option Elab.async false
set_option linter.unusedTactic false
set_option linter.unreachableTactic false

theorem progRead_keeps {T : Touch} {s0 : State} (x : ShardSet) (i : ℕ) (st : ℕ) (s : State) (hk : Keeps T s0 s) (ht : T.regs = true ∧ T.stackMap = true ∧ T.deeps = true ∧ T.poison = true ∧ T.xlat = true ∧ T.chans = true ∧ T.cxl = true ∧ T.boot = true ∧ T.rcv = true := by simp [*]) :
    Keeps T s0 (progRead x i st s).1 := by
  unfold progRead
  simp +contextual (maxDischargeDepth := 60) only [hk, viewRead_keeps, ht, and_self]
theorem progWrite_keeps {T : Touch} {s0 : State} (x : ShardSet) (i : ℕ) (st : ℕ) (v : ℕ) (s : State) (hk : Keeps T s0 s) (ht : T.regs = true ∧ T.tillers = true ∧ T.stackMap = true ∧ T.deeps = true ∧ T.dram = true ∧ T.poison = true ∧ T.husk = true ∧ T.huskBad = true ∧ T.objs = true ∧ T.grans = true ∧ T.xlat = true ∧ T.chans = true ∧ T.cxl = true ∧ T.boot = true ∧ T.rcv = true ∧ T.notices = true := by simp [*]) :
    Keeps T s0 (progWrite x i st v s) := viewWrite_keeps _ _ _ _ _ hk
theorem modRun_keeps {T : Touch} {s0 : State} (st : ℕ) (f : UpdRun → UpdRun) (s : State) (hk : Keeps T s0 s) (ht : T.stackMap = true := by simp [*]) :
    Keeps T s0 (modRun st f s) := by
  unfold modRun
  simp +contextual (maxDischargeDepth := 60) only [hk, modStack_keeps, ht]
theorem updUe_keeps {T : Touch} {s0 : State} (st : ℕ) (i : UpdItem) (s : State) (hk : Keeps T s0 s) (ht : T.regs = true ∧ T.tillers = true ∧ T.stackMap = true ∧ T.deeps = true ∧ T.dram = true ∧ T.poison = true ∧ T.husk = true ∧ T.huskBad = true ∧ T.objs = true ∧ T.grans = true ∧ T.shareGroups = true ∧ T.used = true ∧ T.migs = true ∧ T.heldBy = true ∧ T.xlat = true ∧ T.chans = true ∧ T.links = true ∧ T.cxl = true ∧ T.boot = true ∧ T.rcv = true ∧ T.flights = true ∧ T.notices = true := by simp [*]) :
    Keeps T s0 (updUe st i s) := by
  unfold updUe
  try dsimp only
  repeat' first | (with_reducible assumption) | (simp +contextual (maxDischargeDepth := 60) only [hk, reportInexact_keeps, flagDomain_keeps, ht, and_self]; done) | split | dsimp only
theorem enterGranule_keeps {T : Touch} {s0 : State} (st fuel : Nat) (s : State) (hk : Keeps T s0 s) (ht : T.regs = true ∧ T.tillers = true ∧ T.stackMap = true ∧ T.deeps = true ∧ T.dram = true ∧ T.poison = true ∧ T.husk = true ∧ T.huskBad = true ∧ T.objs = true ∧ T.grans = true ∧ T.shareGroups = true ∧ T.used = true ∧ T.migs = true ∧ T.heldBy = true ∧ T.xlat = true ∧ T.chans = true ∧ T.links = true ∧ T.cxl = true ∧ T.boot = true ∧ T.rcv = true ∧ T.flights = true ∧ T.notices = true := by simp [*]) : Keeps T s0 (enterGranule st fuel s) := by
  induction fuel generalizing s with
  | zero => exact hk
  | succ fuel ih =>
    unfold enterGranule
    split
    · exact hk
    · rename_i r _
      have h1 := progRead_keeps (itemSet s r.item) r.item.idx st s hk
      dsimp only
      refine keeps_ite (fun _ => keeps_ite (fun _ => hk) (fun _ => modRun_keeps _ _ _ hk)) (fun _ => ?_)
      refine keeps_ite (fun _ => updUe_keeps _ _ _ h1) (fun _ => keeps_ite (fun _ => ?_) (fun _ => modRun_keeps _ _ _ h1))
      exact keeps_ite (fun _ => modRun_keeps _ _ _ h1) (fun _ => ih _ (modRun_keeps _ _ _ h1))
theorem updRead_keeps {T : Touch} {s0 : State} (st : Nat) (ref : Nat × Nat) (a : State × Bool) (hk : Keeps T s0 a.1) (ht : T.regs = true ∧ T.stackMap = true ∧ T.deeps = true ∧ T.poison = true ∧ T.xlat = true ∧ T.chans = true ∧ T.cxl = true ∧ T.boot = true ∧ T.rcv = true := by simp [*]) : Keeps T s0 (updRead st ref a).1 := viewRead_keeps _ _ _ _ _ hk
theorem preImage_keeps {T : Touch} {s0 : State} (st : ℕ) (i : UpdItem) (h : HyperFields) (g : ℕ) (s : State) (hk : Keeps T s0 s) (ht : T.regs = true ∧ T.tillers = true ∧ T.stackMap = true ∧ T.deeps = true ∧ T.dram = true ∧ T.poison = true ∧ T.husk = true ∧ T.huskBad = true ∧ T.objs = true ∧ T.grans = true ∧ T.xlat = true ∧ T.chans = true ∧ T.cxl = true ∧ T.boot = true ∧ T.rcv = true ∧ T.notices = true := by simp [*]) :
    Keeps T s0 (preImage st i h g s).1 := by
  unfold preImage
  refine keeps_foldl_fst (fun a k ha => keeps_foldl_fst (fun a x ha => ?_) ha) hk
  have h1 := updRead_keeps st (newRef i x g k) a ha
  dsimp only
  split
  · exact ha
  · dsimp only
    split
    · exact viewWrite_keeps _ _ _ _ _ h1
    · exact h1
theorem gradBlock_keeps {T : Touch} {s0 : State} (st : Nat) (i : UpdItem) (g k : Nat) (a : State × Bool) (hk : Keeps T s0 a.1) (ht : T.regs = true ∧ T.stackMap = true ∧ T.deeps = true ∧ T.poison = true ∧ T.xlat = true ∧ T.chans = true ∧ T.cxl = true ∧ T.boot = true ∧ T.rcv = true := by simp [*]) : Keeps T s0 (gradBlock st i g k a).1 := updRead_keeps _ _ _ hk
theorem momentPhase_keeps {T : Touch} {s0 : State} (st : ℕ) (i : UpdItem) (h : HyperFields) (g : ℕ) (s : State) (hk : Keeps T s0 s) (ht : T.regs = true ∧ T.tillers = true ∧ T.stackMap = true ∧ T.deeps = true ∧ T.dram = true ∧ T.poison = true ∧ T.husk = true ∧ T.huskBad = true ∧ T.objs = true ∧ T.grans = true ∧ T.xlat = true ∧ T.chans = true ∧ T.cxl = true ∧ T.boot = true ∧ T.rcv = true ∧ T.notices = true := by simp [*]) :
    Keeps T s0 (momentPhase st i h g s).1 := by
  unfold momentPhase
  refine keeps_foldl_fst (fun acc k ha => ?_) hk
  split
  · exact ha
  · extract_lets gr o1 o2 t stats m1 d1 s1 m2 d2 s2
    have h0 : Keeps T s0 gr.1 := gradBlock_keeps st i g k acc ha
    clear_value gr
    have h1 : Keeps T s0 o1.1 := by
      unfold o1
      split
      · exact updRead_keeps _ _ (gr.1, gr.2.1) h0
      · exact h0
    clear_value o1
    have h2 : Keeps T s0 t := by
      unfold t o2
      split
      · exact updRead_keeps _ _ (o1.1, o1.2.1) h1
      · exact h1
    clear_value t
    have h3 : Keeps T s0 s1 := by
      unfold s1
      split
      · exact viewWrite_keeps _ _ _ _ _ h2
      · exact h2
    clear_value s1
    have h4 : Keeps T s0 s2 := by
      unfold s2
      split
      · exact viewWrite_keeps _ _ _ _ _ h3
      · exact h3
    split
    · exact h2
    · exact h4
theorem masterPhase_keeps {T : Touch} {s0 : State} (st : ℕ) (i : UpdItem) (h : HyperFields) (g : ℕ) (s : State) (hk : Keeps T s0 s) (ht : T.regs = true ∧ T.tillers = true ∧ T.stackMap = true ∧ T.deeps = true ∧ T.dram = true ∧ T.poison = true ∧ T.husk = true ∧ T.huskBad = true ∧ T.objs = true ∧ T.grans = true ∧ T.xlat = true ∧ T.chans = true ∧ T.cxl = true ∧ T.boot = true ∧ T.rcv = true ∧ T.notices = true := by simp [*]) :
    Keeps T s0 (masterPhase st i h g s).1 := by
  unfold masterPhase
  refine keeps_foldl_fst (fun acc k ha => ?_) hk
  split
  · exact ha
  · extract_lets gr w m1 m2 v2 d
    have h0 : Keeps T s0 gr.1 := gradBlock_keeps st i g k acc ha
    clear_value gr
    have h1 : Keeps T s0 w.1 := updRead_keeps _ _ (gr.1, gr.2.1) h0
    clear_value w
    have h2 : Keeps T s0 m1.1 := by
      unfold m1
      split
      · exact updRead_keeps _ _ (w.1, w.2.1) h1
      · exact h1
    clear_value m1
    have h3 : Keeps T s0 m2.1 := by
      unfold m2
      split
      · exact updRead_keeps _ _ (m1.1, m1.2.1) h2
      · exact h2
    clear_value m2
    split
    · exact h3
    · exact viewWrite_keeps _ _ _ _ _ h3
theorem checkBlock_keeps {T : Touch} {s0 : State} (st : ℕ) (i : UpdItem) (ref : ℕ × ℕ) (bs : List Byte) (s : State) (hk : Keeps T s0 s) (ht : T.regs = true ∧ T.tillers = true ∧ T.stackMap = true ∧ T.deeps = true ∧ T.dram = true ∧ T.poison = true ∧ T.husk = true ∧ T.huskBad = true ∧ T.objs = true ∧ T.grans = true ∧ T.xlat = true ∧ T.chans = true ∧ T.cxl = true ∧ T.boot = true ∧ T.rcv = true ∧ T.notices = true := by simp [*]) :
    Keeps T s0 (checkBlock st i ref bs s).1 := by
  unfold checkBlock
  try dsimp only
  repeat' first | (with_reducible assumption) | (simp +contextual (maxDischargeDepth := 60) only [hk, updRead_keeps, wr_keeps, cntInc_keeps, setEv_keeps, viewWrite_keeps, logRec_keeps, ht, and_self]; done) | split | dsimp only
theorem sampleTile_keeps {T : Touch} {s0 : State} (st : ℕ) (i : UpdItem) (g : ℕ) (k : ℕ) (ref : ℕ × ℕ) (bs : List Byte) (s : State) (hk : Keeps T s0 s) (ht : T.regs = true ∧ T.tillers = true ∧ T.stackMap = true ∧ T.deeps = true ∧ T.dram = true ∧ T.poison = true ∧ T.husk = true ∧ T.huskBad = true ∧ T.objs = true ∧ T.grans = true ∧ T.xlat = true ∧ T.chans = true ∧ T.cxl = true ∧ T.boot = true ∧ T.rcv = true ∧ T.notices = true := by simp [*]) :
    Keeps T s0 (sampleTile st i g k ref bs s).1 := by
  unfold sampleTile
  try dsimp only
  repeat' first | (with_reducible assumption) | (simp +contextual (maxDischargeDepth := 60) only [hk, checkBlock_keeps, cntInc_keeps, ht, and_self]; done) | split | dsimp only
theorem narrowPhase_keeps {T : Touch} {s0 : State} (st : ℕ) (r : UpdRun) (s : State) (hk : Keeps T s0 s) (ht : T.regs = true ∧ T.tillers = true ∧ T.stackMap = true ∧ T.deeps = true ∧ T.dram = true ∧ T.poison = true ∧ T.husk = true ∧ T.huskBad = true ∧ T.objs = true ∧ T.grans = true ∧ T.xlat = true ∧ T.chans = true ∧ T.cxl = true ∧ T.boot = true ∧ T.rcv = true ∧ T.notices = true := by simp [*]) :
    Keeps T s0 (narrowPhase st r s).1 := by
  unfold narrowPhase
  try dsimp only
  repeat' first | (with_reducible assumption) | (simp +contextual (maxDischargeDepth := 60) only [ht, and_self]; done) | split | (with_reducible apply keeps_foldl) | (with_reducible apply keeps_foldl_fst) | (with_reducible apply keeps_foldl_snd) | (with_reducible apply keeps_foldl_snd2) | (intro _ _ _) | (intro _ _) | with_reducible apply updRead_keeps | with_reducible apply viewWrite_keeps | with_reducible apply cntAdd_keeps | with_reducible apply setEv_keeps | with_reducible apply sampleTile_keeps | with_reducible apply keeps_ite | with_reducible apply outKeeps_ite | with_reducible apply atUnit_keeps | dsimp only
theorem updReject_keeps {T : Touch} {s0 : State} (st : ℕ) (i : UpdItem) (s : State) (hk : Keeps T s0 s) (ht : T.regs = true ∧ T.tillers = true ∧ T.stackMap = true ∧ T.deeps = true ∧ T.objs = true ∧ T.grans = true ∧ T.shareGroups = true ∧ T.used = true ∧ T.migs = true ∧ T.heldBy = true ∧ T.chans = true ∧ T.links = true ∧ T.cxl = true ∧ T.boot = true ∧ T.rcv = true ∧ T.flights = true := by simp [*]) :
    Keeps T s0 (updReject st i s) := by
  unfold updReject
  try dsimp only
  repeat' first | (with_reducible assumption) | (simp +contextual (maxDischargeDepth := 60) only [hk, plcFault_keeps, abortAttempt_keeps, setEv_keeps, ht, and_self]; done) | split | dsimp only
theorem execUpdateItemStart_keeps {T : Touch} {s0 : State} (i : ℕ) (s : State) (hk : Keeps T s0 s) (ht : T.regs = true ∧ T.tillers = true ∧ T.stackMap = true ∧ T.deeps = true ∧ T.dram = true ∧ T.poison = true ∧ T.husk = true ∧ T.huskBad = true ∧ T.objs = true ∧ T.grans = true ∧ T.shareGroups = true ∧ T.used = true ∧ T.migs = true ∧ T.heldBy = true ∧ T.xlat = true ∧ T.chans = true ∧ T.links = true ∧ T.cxl = true ∧ T.boot = true ∧ T.rcv = true ∧ T.flights = true ∧ T.notices = true := by simp [*]) :
    OutKeeps T s0 (execUpdateItemStart i s) := by
  unfold execUpdateItemStart
  try dsimp only
  repeat' first | (with_reducible assumption) | (simp +contextual (maxDischargeDepth := 60) only [atUnit_keeps, outKeeps_next, hk, modStack_keeps, updReject_keeps, enterGranule_keeps, ht, and_self]; done) | split | dsimp only
theorem itemHyper_keeps {T : Touch} {s0 : State} (st : ℕ) (i : UpdItem) (s : State) (hk : Keeps T s0 s) (ht : T.regs = true ∧ T.stackMap = true ∧ T.deeps = true ∧ T.poison = true ∧ T.xlat = true ∧ T.chans = true ∧ T.cxl = true ∧ T.boot = true ∧ T.rcv = true := by simp [*]) :
    Keeps T s0 (itemHyper st i s).1 := by
  unfold itemHyper
  simp +contextual (maxDischargeDepth := 60) only [hk, viewRead_keeps, ht, and_self]
theorem markGranule_keeps {T : Touch} {s0 : State} (st : ℕ) (i : UpdItem) (g : ℕ) (m : ℕ) (next : State → State) (s : State) (hk : Keeps T s0 s) (hnext : ∀ x0, Keeps T s0 x0 → Keeps T s0 (next x0)) (ht : T.regs = true ∧ T.tillers = true ∧ T.stackMap = true ∧ T.deeps = true ∧ T.dram = true ∧ T.poison = true ∧ T.husk = true ∧ T.huskBad = true ∧ T.objs = true ∧ T.grans = true ∧ T.shareGroups = true ∧ T.used = true ∧ T.migs = true ∧ T.heldBy = true ∧ T.xlat = true ∧ T.chans = true ∧ T.links = true ∧ T.cxl = true ∧ T.boot = true ∧ T.rcv = true ∧ T.flights = true ∧ T.notices = true := by simp [*]) :
    Keeps T s0 (markGranule st i g m next s) := by
  unfold markGranule
  try dsimp only
  repeat' first | (with_reducible assumption) | (simp +contextual (maxDischargeDepth := 60) only [hk, hnext, progRead_keeps, updUe_keeps, progWrite_keeps, ht, and_self]; done) | split | dsimp only
theorem takeSlot_keeps {T : Touch} {s0 : State} (st : ℕ) (i : UpdItem) (g : ℕ) (s : State) (hk : Keeps T s0 s) (ht : T.chans = true := by simp [*]) :
    Keeps T s0 (takeSlot st i g s) := by
  unfold takeSlot
  simp +contextual (maxDischargeDepth := 60) only [hk, modSet_keeps, ht]
theorem freeSlot_keeps {T : Touch} {s0 : State} (st : ℕ) (i : UpdItem) (g : ℕ) (s : State) (hk : Keeps T s0 s) (ht : T.chans = true := by simp [*]) :
    Keeps T s0 (freeSlot st i g s) := by
  unfold freeSlot
  simp +contextual (maxDischargeDepth := 60) only [hk, modSet_keeps, ht]
theorem finishItem_keeps {T : Touch} {s0 : State} (st : ℕ) (crc : ℕ) (s : State) (hk : Keeps T s0 s) (ht : T.regs = true ∧ T.tillers = true ∧ T.stackMap = true ∧ T.deeps = true ∧ T.dram = true ∧ T.poison = true ∧ T.husk = true ∧ T.huskBad = true ∧ T.objs = true ∧ T.grans = true ∧ T.shareGroups = true ∧ T.used = true ∧ T.migs = true ∧ T.heldBy = true ∧ T.xlat = true ∧ T.chans = true ∧ T.links = true ∧ T.cxl = true ∧ T.boot = true ∧ T.rcv = true ∧ T.flights = true ∧ T.notices = true := by simp [*]) :
    Keeps T s0 (finishItem st crc s) := by
  unfold finishItem
  try dsimp only
  repeat' first | (with_reducible assumption) | (simp +contextual (maxDischargeDepth := 60) only [hk, progRead_keeps, updUe_keeps, migPump_keeps, modTrn_keeps, modStack_keeps, progWrite_keeps, ht, and_self]; done) | split | dsimp only
theorem updPhase_keeps {T : Touch} {s0 : State} (st : ℕ) (r : UpdRun) (s : State) (hk : Keeps T s0 s) (ht : T.regs = true ∧ T.tillers = true ∧ T.stackMap = true ∧ T.deeps = true ∧ T.dram = true ∧ T.poison = true ∧ T.husk = true ∧ T.huskBad = true ∧ T.objs = true ∧ T.grans = true ∧ T.shareGroups = true ∧ T.used = true ∧ T.migs = true ∧ T.heldBy = true ∧ T.xlat = true ∧ T.chans = true ∧ T.links = true ∧ T.cxl = true ∧ T.boot = true ∧ T.rcv = true ∧ T.flights = true ∧ T.notices = true := by simp [*]) :
    Keeps T s0 (updPhase st r s) := by
  unfold updPhase
  try dsimp only
  repeat' first | (with_reducible assumption) | (simp +contextual (maxDischargeDepth := 60) only [hk, itemHyper_keeps, updUe_keeps, setEv_keeps, modRun_keeps, preImage_keeps, takeSlot_keeps, momentPhase_keeps, masterPhase_keeps, cntAdd_keeps, freeSlot_keeps, enterGranule_keeps, narrowPhase_keeps, flagDomain_keeps, finishItem_keeps, ht, and_self]; done) | split | (with_reducible apply keeps_foldl) | (with_reducible apply keeps_foldl_fst) | (with_reducible apply keeps_foldl_snd) | (with_reducible apply keeps_foldl_snd2) | (intro _ _ _) | (intro _ _) | with_reducible apply itemHyper_keeps | with_reducible apply updUe_keeps | with_reducible apply setEv_keeps | with_reducible apply modRun_keeps | with_reducible apply preImage_keeps | with_reducible apply markGranule_keeps | with_reducible apply takeSlot_keeps | with_reducible apply momentPhase_keeps | with_reducible apply masterPhase_keeps | with_reducible apply cntAdd_keeps | with_reducible apply freeSlot_keeps | with_reducible apply enterGranule_keeps | with_reducible apply narrowPhase_keeps | with_reducible apply flagDomain_keeps | with_reducible apply finishItem_keeps | with_reducible apply keeps_ite | with_reducible apply outKeeps_ite | with_reducible apply atUnit_keeps | dsimp only
theorem execUpdatePhaseDone_keeps {T : Touch} {s0 : State} (i : ℕ) (s : State) (hk : Keeps T s0 s) (ht : T.regs = true ∧ T.tillers = true ∧ T.stackMap = true ∧ T.deeps = true ∧ T.dram = true ∧ T.poison = true ∧ T.husk = true ∧ T.huskBad = true ∧ T.objs = true ∧ T.grans = true ∧ T.shareGroups = true ∧ T.used = true ∧ T.migs = true ∧ T.heldBy = true ∧ T.xlat = true ∧ T.chans = true ∧ T.links = true ∧ T.cxl = true ∧ T.boot = true ∧ T.rcv = true ∧ T.flights = true ∧ T.notices = true := by simp [*]) :
    OutKeeps T s0 (execUpdatePhaseDone i s) := by
  unfold execUpdatePhaseDone
  try dsimp only
  repeat' first | (with_reducible assumption) | (simp +contextual (maxDischargeDepth := 60) only [atUnit_keeps, outKeeps_next, hk, updPhase_keeps, ht, and_self]; done) | split | dsimp only
theorem itemAmax_keeps {T : Touch} {s0 : State} (st : ℕ) (i : UpdItem) (s : State) (hk : Keeps T s0 s) (ht : T.regs = true ∧ T.stackMap = true ∧ T.deeps = true ∧ T.poison = true ∧ T.xlat = true ∧ T.chans = true ∧ T.cxl = true ∧ T.boot = true ∧ T.rcv = true := by simp [*]) :
    Keeps T s0 (itemAmax st i s).1 := keeps_foldl_fst (fun a _ ha => updRead_keeps _ _ (a.1, a.2.1) ha) hk
theorem returnScale_keeps {T : Touch} {s0 : State} (c : ℕ) (set : ℕ) (i : ℕ) (amax : F32) (s : State) (hk : Keeps T s0 s) (ht : T.stackMap = true := by simp [*]) :
    Keeps T s0 (returnScale c set i amax s) := by
  unfold returnScale
  try dsimp only
  repeat' first | (with_reducible assumption) | (simp +contextual (maxDischargeDepth := 60) only [modStack_keeps, ht]; done) | split | (with_reducible apply keeps_foldl) | (with_reducible apply keeps_foldl_fst) | (with_reducible apply keeps_foldl_snd) | (with_reducible apply keeps_foldl_snd2) | (intro _ _ _) | (intro _ _) | with_reducible apply modStack_keeps | with_reducible apply keeps_ite | with_reducible apply outKeeps_ite | with_reducible apply atUnit_keeps | dsimp only
theorem execScaleReport_keeps {T : Touch} {s0 : State} (c : ℕ) (sset : ℕ) (tensor : ℕ) (s : State) (hk : Keeps T s0 s) (ht : T.regs = true ∧ T.tillers = true ∧ T.stackMap = true ∧ T.deeps = true ∧ T.dram = true ∧ T.poison = true ∧ T.husk = true ∧ T.huskBad = true ∧ T.objs = true ∧ T.grans = true ∧ T.shareGroups = true ∧ T.used = true ∧ T.migs = true ∧ T.heldBy = true ∧ T.xlat = true ∧ T.chans = true ∧ T.links = true ∧ T.cxl = true ∧ T.boot = true ∧ T.rcv = true ∧ T.flights = true ∧ T.notices = true := by simp [*]) :
    OutKeeps T s0 (execScaleReport c sset tensor s) := by
  unfold execScaleReport
  try dsimp only
  repeat' first | (with_reducible assumption) | (simp +contextual (maxDischargeDepth := 60) only [atUnit_keeps, outKeeps_next, hk, itemAmax_keeps, updUe_keeps, modRun_keeps, returnScale_keeps, modTrn_keeps, ht, and_self]; done) | split | dsimp only
theorem execWorkNarrowStart_keeps {T : Touch} {s0 : State} (i : ℕ) (s : State) (hk : Keeps T s0 s) (ht : T.stackMap = true := by simp [*]) :
    OutKeeps T s0 (execWorkNarrowStart i s) := by
  unfold execWorkNarrowStart
  try dsimp only
  repeat' first | (with_reducible assumption) | (simp +contextual (maxDischargeDepth := 60) only [modRun_keeps, ht]; done) | split | (with_reducible apply keeps_foldl) | (with_reducible apply keeps_foldl_fst) | (with_reducible apply keeps_foldl_snd) | (with_reducible apply keeps_foldl_snd2) | (intro _ _ _) | (intro _ _) | with_reducible apply onlyIf_keeps | with_reducible apply modRun_keeps | with_reducible apply keeps_ite | with_reducible apply outKeeps_ite | with_reducible apply atUnit_keeps | dsimp only

end Sys2Proof.Machine
end

