-- ==== Sys2Proof/Laws/Keeps/Groups.lean ====
section
/-! SUPPORT. What each operation of Machine/Groups.lean keeps. -/

namespace Sys2Proof.Machine

open Sys2Proof

set_option Elab.async false
set_option linter.unusedTactic false
set_option linter.unreachableTactic false

theorem takeMsg_keeps {T : Touch} {s0 : State} (m : Msg) (s : State) (hk : Keeps T s0 s) (ht : T.links = true := by simp [*]) :
    Keeps T s0 (takeMsg m s) := by
  unfold takeMsg
  simp +contextual (maxDischargeDepth := 60) only [hk, leavePlace_keeps, modLinks_keeps, ht]
theorem keepMsg_keeps {T : Touch} {s0 : State} (m : Msg) (s : State) (hk : Keeps T s0 s) (ht : T.links = true := by simp [*]) :
    Keeps T s0 (keepMsg m s) := by
  unfold keepMsg
  simp +contextual (maxDischargeDepth := 60) only [hk, modLinks_keeps, ht]
theorem onMsg_keeps {T : Touch} {s0 : State} (kind : ℕ) (m : Msg) (s : State) (f : State → State) (hk : Keeps T s0 s) (hf : ∀ x0, Keeps T s0 x0 → Keeps T s0 (f x0)) :
    OutKeeps T s0 (onMsg kind m s f) := by
  unfold onMsg
  try dsimp only
  repeat' first | (with_reducible assumption) | (simp +contextual (maxDischargeDepth := 60) only [atUnit_keeps, keeps_freeCtr, Nat.le_refl, keeps_ite, outKeeps_ite, outKeeps_next, outKeeps_fault, keeps_foldl, keeps_foldl_fst, keeps_foldl_snd, keeps_foldl_snd2, hk, hf, onlyIf_keeps]; done) | split | (with_reducible apply keeps_foldl) | (with_reducible apply keeps_foldl_fst) | (with_reducible apply keeps_foldl_snd) | (with_reducible apply keeps_foldl_snd2) | (intro _ _ _) | (intro _ _) | with_reducible apply hf | with_reducible apply onlyIf_keeps | with_reducible apply keeps_ite | with_reducible apply outKeeps_ite | with_reducible apply atUnit_keeps | dsimp only
theorem onVc3_keeps {T : Touch} {s0 : State} (m : Msg) (f : State → State) (s : State) (hk : Keeps T s0 s) (hf : ∀ x0, Keeps T s0 x0 → Keeps T s0 (f x0)) (ht : T.regs = true ∧ T.chans = true ∧ T.links = true ∧ T.cxl = true := by simp [*]) :
    Keeps T s0 (onVc3 m f s) := by
  unfold onVc3
  try dsimp only
  repeat' first | (with_reducible assumption) | (simp +contextual (maxDischargeDepth := 60) only [hk, hf, takeMsg_keeps, cntInc_keeps, setEv_keeps, ht, and_self]; done) | split | dsimp only
theorem sendGroupFrom_keeps {T : Touch} {s0 : State} (pl : Option RxPlace) (gn : ℕ) (dst : ℕ) (m : Msg) (s : State) (hk : Keeps T s0 s) (ht : T.regs = true ∧ T.chans = true ∧ T.links = true ∧ T.cxl = true := by simp [*]) :
    Keeps T s0 (sendGroupFrom pl gn dst m s) := by
  unfold sendGroupFrom
  simp +contextual (maxDischargeDepth := 60) only [hk, sendFrom_keeps, ht, and_self]
theorem sendGroup_keeps {T : Touch} {s0 : State} (gn : ℕ) (dst : ℕ) (m : Msg) (s : State) (hk : Keeps T s0 s) (ht : T.regs = true ∧ T.chans = true ∧ T.links = true ∧ T.cxl = true := by simp [*]) :
    Keeps T s0 (sendGroup gn dst m s) := by
  unfold sendGroup
  simp +contextual (maxDischargeDepth := 60) only [hk, sendGroupFrom_keeps, ht, and_self]
theorem sendMembers_keeps {T : Touch} {s0 : State} (gn : ℕ) (m : Msg) (s : State) (hk : Keeps T s0 s) (ht : T.regs = true ∧ T.chans = true ∧ T.links = true ∧ T.cxl = true := by simp [*]) :
    Keeps T s0 (sendMembers gn m s) := by
  unfold sendMembers
  try dsimp only
  repeat' first | (with_reducible assumption) | (simp +contextual (maxDischargeDepth := 60) only [sendGroup_keeps, ht, and_self]; done) | split | (with_reducible apply keeps_foldl) | (with_reducible apply keeps_foldl_fst) | (with_reducible apply keeps_foldl_snd) | (with_reducible apply keeps_foldl_snd2) | (intro _ _ _) | (intro _ _) | with_reducible apply sendGroup_keeps | with_reducible apply keeps_ite | with_reducible apply outKeeps_ite | with_reducible apply atUnit_keeps | dsimp only
theorem sendChunks_keeps {T : Touch} {s0 : State} (gn : ℕ) (dst : ℕ) (kind : ℕ) (id : ℕ) (data : List Byte) (s : State) (hk : Keeps T s0 s) (ht : T.regs = true ∧ T.chans = true ∧ T.links = true ∧ T.cxl = true := by simp [*]) :
    Keeps T s0 (sendChunks gn dst kind id data s) := by
  unfold sendChunks
  try dsimp only
  repeat' first | (with_reducible assumption) | (simp +contextual (maxDischargeDepth := 60) only [sendGroup_keeps, ht, and_self]; done) | split | (with_reducible apply keeps_foldl) | (with_reducible apply keeps_foldl_fst) | (with_reducible apply keeps_foldl_snd) | (with_reducible apply keeps_foldl_snd2) | (intro _ _ _) | (intro _ _) | with_reducible apply sendGroup_keeps | with_reducible apply keeps_ite | with_reducible apply outKeeps_ite | with_reducible apply atUnit_keeps | dsimp only
theorem addColl_keeps {T : Touch} {s0 : State} (gn : ℕ) (y : Coll) (s : State) (hk : Keeps T s0 s) (ht : T.links = true := by simp [*]) :
    Keeps T s0 (addColl gn y s) := by
  unfold addColl
  simp +contextual (maxDischargeDepth := 60) only [hk, modGroup_keeps, ht]
theorem modColl_keeps {T : Touch} {s0 : State} (gn : ℕ) (old : Coll) (new : Coll) (s : State) (hk : Keeps T s0 s) (ht : T.links = true := by simp [*]) :
    Keeps T s0 (modColl gn old new s) := by
  unfold modColl
  simp +contextual (maxDischargeDepth := 60) only [hk, modGroup_keeps, ht]
theorem endColl_keeps {T : Touch} {s0 : State} (gn : ℕ) (y : Coll) (status : ℕ) (rs : List Word) (s : State) (hk : Keeps T s0 s) (ht : T.regs = true ∧ T.chans = true ∧ T.links = true ∧ T.cxl = true := by simp [*]) :
    Keeps T s0 (endColl gn y status rs s) := by
  unfold endColl
  try dsimp only
  repeat' first | (with_reducible assumption) | (simp +contextual (maxDischargeDepth := 60) only [hk, modGroup_keeps, finishRing_keeps, ht, and_self]; done) | split | dsimp only
theorem execCollGroupCreate_keeps {T : Touch} {s0 : State} (src : CmdSrc) (e : Entry) (s : State) (hk : Keeps T s0 s) (ht : T.regs = true ∧ T.mbxs = true ∧ T.chans = true ∧ T.links = true ∧ T.cxl = true ∧ T.smbOut = true := by simp [*]) :
    OutKeeps T s0 (execCollGroupCreate src e s) := by
  unfold execCollGroupCreate
  try dsimp only
  repeat' first | (with_reducible assumption) | (simp +contextual (maxDischargeDepth := 60) only [ht, and_self]; done) | split | (with_reducible apply keeps_foldl) | (with_reducible apply keeps_foldl_fst) | (with_reducible apply keeps_foldl_snd) | (with_reducible apply keeps_foldl_snd2) | (intro _ _ _) | (intro _ _) | with_reducible apply serve_keeps | with_reducible apply answer_keeps | with_reducible apply modGroup_keeps | with_reducible apply keeps_ite | with_reducible apply outKeeps_ite | with_reducible apply atUnit_keeps | dsimp only
theorem execCollGroupFree_keeps {T : Touch} {s0 : State} (src : CmdSrc) (e : Entry) (s : State) (hk : Keeps T s0 s) (ht : T.regs = true ∧ T.mbxs = true ∧ T.chans = true ∧ T.links = true ∧ T.cxl = true ∧ T.smbOut = true := by simp [*]) :
    OutKeeps T s0 (execCollGroupFree src e s) := by
  unfold execCollGroupFree
  try dsimp only
  repeat' first | (with_reducible assumption) | (simp +contextual (maxDischargeDepth := 60) only [ht, and_self]; done) | split | (with_reducible apply keeps_foldl) | (with_reducible apply keeps_foldl_fst) | (with_reducible apply keeps_foldl_snd) | (with_reducible apply keeps_foldl_snd2) | (intro _ _ _) | (intro _ _) | with_reducible apply serve_keeps | with_reducible apply answer_keeps | with_reducible apply modLinks_keeps | with_reducible apply keeps_ite | with_reducible apply outKeeps_ite | with_reducible apply atUnit_keeps | dsimp only
theorem execLinkFence_keeps {T : Touch} {s0 : State} (src : CmdSrc) (e : Entry) (s : State) (hk : Keeps T s0 s) (ht : T.regs = true ∧ T.mbxs = true ∧ T.chans = true ∧ T.links = true ∧ T.cxl = true ∧ T.smbOut = true := by simp [*]) :
    OutKeeps T s0 (execLinkFence src e s) := by
  unfold execLinkFence
  try dsimp only
  repeat' first | (with_reducible assumption) | (simp +contextual (maxDischargeDepth := 60) only [ht, and_self]; done) | split | (with_reducible apply keeps_foldl) | (with_reducible apply keeps_foldl_fst) | (with_reducible apply keeps_foldl_snd) | (with_reducible apply keeps_foldl_snd2) | (intro _ _ _) | (intro _ _) | with_reducible apply serve_keeps | with_reducible apply answer_keeps | with_reducible apply sendMembers_keeps | with_reducible apply keeps_ite | with_reducible apply outKeeps_ite | with_reducible apply atUnit_keeps | dsimp only
theorem collServe_keeps {T : Touch} {s0 : State} (op : ℕ) (src : CmdSrc) (e : Entry) (s : State) (f : Cmd → ℕ → State → State) (hk : Keeps T s0 s) (hf : ∀ x0 x1 x2, Keeps T s0 x2 → Keeps T s0 (f x0 x1 x2)) (ht : T.regs = true ∧ T.mbxs = true ∧ T.chans = true ∧ T.cxl = true ∧ T.smbOut = true := by simp [*]) :
    OutKeeps T s0 (collServe op src e s f) := by
  unfold collServe
  try dsimp only
  repeat' first | (with_reducible assumption) | (simp +contextual (maxDischargeDepth := 60) only [outKeeps_next, hk]; done) | split | (with_reducible apply keeps_foldl) | (with_reducible apply keeps_foldl_fst) | (with_reducible apply keeps_foldl_snd) | (with_reducible apply keeps_foldl_snd2) | (intro _ _ _) | (intro _ _) | with_reducible apply hf | with_reducible apply serve_keeps | with_reducible apply answer_keeps | with_reducible apply keeps_ite | with_reducible apply outKeeps_ite | with_reducible apply atUnit_keeps | dsimp only
theorem collFault_keeps {T : Touch} {s0 : State} (c : ℕ) (wrt : Bool) (oi : ℕ) (off : ℕ) (cause : ℕ) (s : State) (hk : Keeps T s0 s) (ht : T.regs = true ∧ T.chans = true ∧ T.cxl = true := by simp [*]) :
    Keeps T s0 (collFault c wrt oi off cause s) := by
  unfold collFault
  try dsimp only
  repeat' first | (with_reducible assumption) | (simp +contextual (maxDischargeDepth := 60) only [hk, plcFault_keeps, ht, and_self]; done) | split | dsimp only
theorem collGated_keeps {T : Touch} {s0 : State} (a0 : State) (dev : ℕ) (c : ℕ) (l : List Access) (k : List ℕ → State → State) (s : State) (hk : Keeps T s0 s) (hkk : ∀ x0 x1, Keeps T s0 x1 → Keeps T s0 (k x0 x1)) (ht : T.regs = true ∧ T.stackMap = true ∧ T.deeps = true ∧ T.heldBy = true ∧ T.chans = true ∧ T.cxl = true := by simp [*]) :
    Keeps T s0 (collGated a0 dev c l k s) := by
  unfold collGated
  try dsimp only
  repeat' first | (with_reducible assumption) | (simp +contextual (maxDischargeDepth := 60) only [atUnit_keeps, keeps_freeCtr, Nat.le_refl, keeps_ite, outKeeps_ite, outKeeps_next, outKeeps_fault, keeps_foldl, keeps_foldl_fst, keeps_foldl_snd, keeps_foldl_snd2, hk, hkk, gated_keeps, ht, and_self]; done) | split | (with_reducible apply keeps_foldl) | (with_reducible apply keeps_foldl_fst) | (with_reducible apply keeps_foldl_snd) | (with_reducible apply keeps_foldl_snd2) | (intro _ _ _) | (intro _ _) | with_reducible apply hkk | with_reducible apply gated_keeps | with_reducible apply keeps_ite | with_reducible apply outKeeps_ite | with_reducible apply atUnit_keeps | dsimp only
theorem execCollBcast_keeps {T : Touch} {s0 : State} (src : CmdSrc) (e : Entry) (s : State) (hk : Keeps T s0 s) (ht : T.regs = true ∧ T.stackMap = true ∧ T.deeps = true ∧ T.poison = true ∧ T.heldBy = true ∧ T.xlat = true ∧ T.mbxs = true ∧ T.chans = true ∧ T.links = true ∧ T.cxl = true ∧ T.boot = true ∧ T.rcv = true ∧ T.smbOut = true := by simp [*]) :
    OutKeeps T s0 (execCollBcast src e s) := by
  unfold execCollBcast
  refine gatedBy_outKeeps _ _ _ _ _ _ _ hk (fun u hu => outKeeps_next.2 hu) (fun d u hu => ?_)
  refine collServe_keeps _ _ _ _ _ hu fun x gn t h => ?_
  dsimp only
  refine keeps_ite (fun _ => answer_keeps _ _ _ _ h) (fun _ => ?_)
  split
  · exact answer_keeps _ _ _ _ (collFault_keeps _ _ _ _ _ _ h)
  · refine keeps_ite (fun _ => answer_keeps _ _ _ _ h) (fun _ => keeps_ite (fun _ => ?_) (fun _ => addColl_keeps _ _ _ h))
    exact keeps_ite (fun _ => answer_keeps _ _ _ _ (objRead_keeps _ _ _ _ _ h))
      (fun _ => answer_keeps _ _ _ _ (keeps_foldl (fun u i hu => sendChunks_keeps _ _ _ _ _ _ hu) (objRead_keeps _ _ _ _ _ h)))
theorem collP2p_keeps {T : Touch} {s0 : State} (op : ℕ) (recv : Bool) (src : CmdSrc) (e : Entry) (s : State) (hk : Keeps T s0 s) (ht : T.regs = true ∧ T.mbxs = true ∧ T.chans = true ∧ T.links = true ∧ T.cxl = true ∧ T.smbOut = true := by simp [*]) :
    OutKeeps T s0 (collP2p op recv src e s) := by
  unfold collP2p
  refine collServe_keeps _ _ _ _ _ hk fun x gn t h => ?_
  dsimp only
  split
  · exact answer_keeps _ _ _ _ (collFault_keeps _ _ _ _ _ _ h)
  · exact keeps_ite (fun _ => answer_keeps _ _ _ _ h) (fun _ => keeps_ite (fun _ => sendGroup_keeps _ _ _ _ (addColl_keeps _ _ _ h)) (fun _ => addColl_keeps _ _ _ h))
theorem execCollSend_keeps {T : Touch} {s0 : State} (src : CmdSrc) (e : Entry) (s : State) (hk : Keeps T s0 s) (ht : T.regs = true ∧ T.mbxs = true ∧ T.chans = true ∧ T.links = true ∧ T.cxl = true ∧ T.smbOut = true := by simp [*]) :
    OutKeeps T s0 (execCollSend src e s) := by
  unfold execCollSend
  simp +contextual (maxDischargeDepth := 60) only [hk, collP2p_keeps, ht, and_self]
theorem execCollRecv_keeps {T : Touch} {s0 : State} (src : CmdSrc) (e : Entry) (s : State) (hk : Keeps T s0 s) (ht : T.regs = true ∧ T.mbxs = true ∧ T.chans = true ∧ T.links = true ∧ T.cxl = true ∧ T.smbOut = true := by simp [*]) :
    OutKeeps T s0 (execCollRecv src e s) := by
  unfold execCollRecv
  simp +contextual (maxDischargeDepth := 60) only [hk, collP2p_keeps, ht, and_self]
theorem execCollBarrier_keeps {T : Touch} {s0 : State} (src : CmdSrc) (e : Entry) (s : State) (hk : Keeps T s0 s) (ht : T.regs = true ∧ T.mbxs = true ∧ T.chans = true ∧ T.links = true ∧ T.cxl = true ∧ T.smbOut = true := by simp [*]) :
    OutKeeps T s0 (execCollBarrier src e s) := by
  unfold execCollBarrier
  refine collServe_keeps _ _ _ _ _ hk fun x gn t ht => ?_
  split
  · exact answer_keeps _ _ _ _ ht
  · exact sendMembers_keeps _ _ _ (addColl_keeps _ _ _ ht)
theorem execCts_keeps {T : Touch} {s0 : State} (m : Msg) (s : State) (hk : Keeps T s0 s) (ht : T.regs = true ∧ T.stackMap = true ∧ T.deeps = true ∧ T.poison = true ∧ T.heldBy = true ∧ T.xlat = true ∧ T.chans = true ∧ T.links = true ∧ T.cxl = true ∧ T.boot = true ∧ T.rcv = true := by simp [*]) :
    OutKeeps T s0 (execCts m s) := by
  unfold execCts
  try dsimp only
  repeat' first | (with_reducible assumption) | (simp +contextual (maxDischargeDepth := 60) only [ht, and_self]; done) | split | (with_reducible apply keeps_foldl) | (with_reducible apply keeps_foldl_fst) | (with_reducible apply keeps_foldl_snd) | (with_reducible apply keeps_foldl_snd2) | (intro _ _ _) | (intro _ _) | with_reducible apply onMsg_keeps | with_reducible apply onVc3_keeps | with_reducible apply keepMsg_keeps | with_reducible apply collGated_keeps | with_reducible apply objRead_keeps | with_reducible apply takeMsg_keeps | with_reducible apply endColl_keeps | with_reducible apply sendChunks_keeps | with_reducible apply keeps_ite | with_reducible apply outKeeps_ite | with_reducible apply atUnit_keeps | dsimp only
theorem execBarrier_keeps {T : Touch} {s0 : State} (m : Msg) (s : State) (hk : Keeps T s0 s) (ht : T.regs = true ∧ T.chans = true ∧ T.links = true ∧ T.cxl = true := by simp [*]) :
    OutKeeps T s0 (execBarrier m s) := by
  unfold execBarrier
  try dsimp only
  repeat' first | (with_reducible assumption) | (simp +contextual (maxDischargeDepth := 60) only [ht]; done) | split | (with_reducible apply keeps_foldl) | (with_reducible apply keeps_foldl_fst) | (with_reducible apply keeps_foldl_snd) | (with_reducible apply keeps_foldl_snd2) | (intro _ _ _) | (intro _ _) | with_reducible apply onMsg_keeps | with_reducible apply onVc3_keeps | with_reducible apply takeMsg_keeps | with_reducible apply endColl_keeps | with_reducible apply modColl_keeps | with_reducible apply keepMsg_keeps | with_reducible apply keeps_ite | with_reducible apply outKeeps_ite | with_reducible apply atUnit_keeps | dsimp only
theorem rangeChunk_keeps {T : Touch} {s0 : State} (m : Msg) (s : State) (hk : Keeps T s0 s) (ht : T.regs = true ∧ T.tillers = true ∧ T.stackMap = true ∧ T.deeps = true ∧ T.dram = true ∧ T.poison = true ∧ T.husk = true ∧ T.huskBad = true ∧ T.objs = true ∧ T.grans = true ∧ T.heldBy = true ∧ T.xlat = true ∧ T.chans = true ∧ T.links = true ∧ T.cxl = true ∧ T.boot = true ∧ T.rcv = true ∧ T.notices = true := by simp [*]) :
    Keeps T s0 (rangeChunk m s) := by
  unfold rangeChunk
  try dsimp only
  repeat' first | (with_reducible assumption) | (simp +contextual (maxDischargeDepth := 60) only [hk, keepMsg_keeps, endColl_keeps, takeMsg_keeps, ht, and_self]; done) | split | (with_reducible apply keeps_foldl) | (with_reducible apply keeps_foldl_fst) | (with_reducible apply keeps_foldl_snd) | (with_reducible apply keeps_foldl_snd2) | (intro _ _ _) | (intro _ _) | with_reducible apply keepMsg_keeps | with_reducible apply endColl_keeps | with_reducible apply takeMsg_keeps | with_reducible apply collGated_keeps | with_reducible apply objWrite_keeps | with_reducible apply modColl_keeps | with_reducible apply keeps_ite | with_reducible apply outKeeps_ite | with_reducible apply atUnit_keeps | dsimp only
theorem remoteErr_keeps {T : Touch} {s0 : State} (m : Msg) (wrt : Bool) (status : ℕ) (cause : ℕ) (s : State) (hk : Keeps T s0 s) (ht : T.regs = true ∧ T.chans = true ∧ T.links = true ∧ T.cxl = true := by simp [*]) :
    Keeps T s0 (remoteErr m wrt status cause s) := by
  unfold remoteErr
  try dsimp only
  repeat' first | (with_reducible assumption) | (simp +contextual (maxDischargeDepth := 60) only [hk, plcFault_keeps, respond_keeps, ht, and_self]; done) | split | dsimp only
theorem remoteGated_keeps {T : Touch} {s0 : State} (m : Msg) (wrt : Bool) (n : ℕ) (k : List ℕ → State → State) (s : State) (hk : Keeps T s0 s) (hkk : ∀ x0 x1, Keeps T s0 x1 → Keeps T s0 (k x0 x1)) (ht : T.regs = true ∧ T.stackMap = true ∧ T.deeps = true ∧ T.heldBy = true ∧ T.chans = true ∧ T.cxl = true := by simp [*]) :
    Keeps T s0 (remoteGated m wrt n k s) := by
  unfold remoteGated
  try dsimp only
  repeat' first | (with_reducible assumption) | (simp +contextual (maxDischargeDepth := 60) only [atUnit_keeps, keeps_freeCtr, Nat.le_refl, keeps_ite, outKeeps_ite, outKeeps_next, outKeeps_fault, keeps_foldl, keeps_foldl_fst, keeps_foldl_snd, keeps_foldl_snd2, hk, hkk, gated_keeps, ht, and_self]; done) | split | (with_reducible apply keeps_foldl) | (with_reducible apply keeps_foldl_fst) | (with_reducible apply keeps_foldl_snd) | (with_reducible apply keeps_foldl_snd2) | (intro _ _ _) | (intro _ _) | with_reducible apply hkk | with_reducible apply gated_keeps | with_reducible apply keeps_ite | with_reducible apply outKeeps_ite | with_reducible apply atUnit_keeps | dsimp only
theorem execRdReq_keeps {T : Touch} {s0 : State} (m : Msg) (s : State) (hk : Keeps T s0 s) (ht : T.regs = true ∧ T.stackMap = true ∧ T.deeps = true ∧ T.poison = true ∧ T.heldBy = true ∧ T.xlat = true ∧ T.chans = true ∧ T.links = true ∧ T.cxl = true ∧ T.boot = true ∧ T.rcv = true := by simp [*]) :
    OutKeeps T s0 (execRdReq m s) := by
  unfold execRdReq
  try dsimp only
  repeat' first | (with_reducible assumption) | (simp +contextual (maxDischargeDepth := 60) only [ht, and_self]; done) | split | (with_reducible apply keeps_foldl) | (with_reducible apply keeps_foldl_fst) | (with_reducible apply keeps_foldl_snd) | (with_reducible apply keeps_foldl_snd2) | (intro _ _ _) | (intro _ _) | with_reducible apply onMsg_keeps | with_reducible apply remoteErr_keeps | with_reducible apply takeMsg_keeps | with_reducible apply remoteGated_keeps | with_reducible apply objRead_keeps | with_reducible apply respond_keeps | with_reducible apply keepMsg_keeps | with_reducible apply keeps_ite | with_reducible apply outKeeps_ite | with_reducible apply atUnit_keeps | dsimp only
theorem execWrReq_keeps {T : Touch} {s0 : State} (m : Msg) (s : State) (hk : Keeps T s0 s) (ht : T.regs = true ∧ T.tillers = true ∧ T.stackMap = true ∧ T.deeps = true ∧ T.dram = true ∧ T.poison = true ∧ T.husk = true ∧ T.huskBad = true ∧ T.objs = true ∧ T.grans = true ∧ T.heldBy = true ∧ T.xlat = true ∧ T.chans = true ∧ T.links = true ∧ T.cxl = true ∧ T.boot = true ∧ T.rcv = true ∧ T.notices = true := by simp [*]) :
    OutKeeps T s0 (execWrReq m s) := by
  unfold execWrReq
  try dsimp only
  repeat' first | (with_reducible assumption) | (simp +contextual (maxDischargeDepth := 60) only [ht, and_self]; done) | split | (with_reducible apply keeps_foldl) | (with_reducible apply keeps_foldl_fst) | (with_reducible apply keeps_foldl_snd) | (with_reducible apply keeps_foldl_snd2) | (intro _ _ _) | (intro _ _) | with_reducible apply onMsg_keeps | with_reducible apply remoteErr_keeps | with_reducible apply takeMsg_keeps | with_reducible apply remoteGated_keeps | with_reducible apply objWrite_keeps | with_reducible apply respond_keeps | with_reducible apply keepMsg_keeps | with_reducible apply keeps_ite | with_reducible apply outKeeps_ite | with_reducible apply atUnit_keeps | dsimp only
theorem execFence_keeps {T : Touch} {s0 : State} (m : Msg) (s : State) (hk : Keeps T s0 s) (ht : T.regs = true ∧ T.chans = true ∧ T.links = true ∧ T.cxl = true := by simp [*]) :
    OutKeeps T s0 (execFence m s) := by
  unfold execFence
  try dsimp only
  repeat' first | (with_reducible assumption) | (simp +contextual (maxDischargeDepth := 60) only [ht]; done) | split | (with_reducible apply keeps_foldl) | (with_reducible apply keeps_foldl_fst) | (with_reducible apply keeps_foldl_snd) | (with_reducible apply keeps_foldl_snd2) | (intro _ _ _) | (intro _ _) | with_reducible apply onMsg_keeps | with_reducible apply takeMsg_keeps | with_reducible apply modGroup_keeps | with_reducible apply respond_keeps | with_reducible apply modLinks_keeps | with_reducible apply keeps_ite | with_reducible apply outKeeps_ite | with_reducible apply atUnit_keeps | dsimp only
theorem execUnfence_keeps {T : Touch} {s0 : State} (m : Msg) (s : State) (hk : Keeps T s0 s) (ht : T.links = true := by simp [*]) :
    OutKeeps T s0 (execUnfence m s) := by
  unfold execUnfence
  try dsimp only
  repeat' first | (with_reducible assumption) | (simp +contextual (maxDischargeDepth := 60) only [modGroup_keeps, takeMsg_keeps, ht]; done) | split | (with_reducible apply keeps_foldl) | (with_reducible apply keeps_foldl_fst) | (with_reducible apply keeps_foldl_snd) | (with_reducible apply keeps_foldl_snd2) | (intro _ _ _) | (intro _ _) | with_reducible apply onMsg_keeps | with_reducible apply modGroup_keeps | with_reducible apply takeMsg_keeps | with_reducible apply keeps_ite | with_reducible apply outKeeps_ite | with_reducible apply atUnit_keeps | dsimp only
theorem execHuskResend_keeps {T : Touch} {s0 : State} (m : Msg) (s : State) (hk : Keeps T s0 s) (ht : T.links = true := by simp [*]) :
    OutKeeps T s0 (execHuskResend m s) := by
  unfold execHuskResend
  try dsimp only
  repeat' first | (with_reducible assumption) | (simp +contextual (maxDischargeDepth := 60) only [atUnit_keeps, keeps_freeCtr, Nat.le_refl, keeps_ite, outKeeps_ite, outKeeps_next, outKeeps_fault, keeps_foldl, keeps_foldl_fst, keeps_foldl_snd, keeps_foldl_snd2, hk, onMsg_keeps, takeMsg_keeps, enqueueMsg_keeps, ht, and_self]; done) | split | (with_reducible apply keeps_foldl) | (with_reducible apply keeps_foldl_fst) | (with_reducible apply keeps_foldl_snd) | (with_reducible apply keeps_foldl_snd2) | (intro _ _ _) | (intro _ _) | with_reducible apply onMsg_keeps | with_reducible apply takeMsg_keeps | with_reducible apply enqueueMsg_keeps | with_reducible apply keeps_ite | with_reducible apply outKeeps_ite | with_reducible apply atUnit_keeps | dsimp only
theorem execRdResp_keeps {T : Touch} {s0 : State} (m : Msg) (s : State) (hk : Keeps T s0 s) (ht : T.regs = true ∧ T.chans = true ∧ T.links = true ∧ T.cxl = true := by simp [*]) :
    OutKeeps T s0 (execRdResp m s) := by
  unfold execRdResp
  try dsimp only
  repeat' first | (with_reducible assumption) | (simp +contextual (maxDischargeDepth := 60) only [ht, and_self]; done) | split | (with_reducible apply keeps_foldl) | (with_reducible apply keeps_foldl_fst) | (with_reducible apply keeps_foldl_snd) | (with_reducible apply keeps_foldl_snd2) | (intro _ _ _) | (intro _ _) | with_reducible apply onMsg_keeps | with_reducible apply takeMsg_keeps | with_reducible apply cntInc_keeps | with_reducible apply setEv_keeps | with_reducible apply keeps_ite | with_reducible apply outKeeps_ite | with_reducible apply atUnit_keeps | dsimp only

end Sys2Proof.Machine
end

