-- ==== Sys2Proof/Laws/Keeps/Gather.lean ====
section
/-! SUPPORT. What each operation of Machine/Gather.lean keeps. -/

namespace Sys2Proof.Machine

open Sys2Proof

set_option Elab.async false
set_option linter.unusedTactic false
set_option linter.unreachableTactic false

theorem gatherRead_keeps {T : Touch} {s0 : State} (c : Nat) (dead : List Nat) (oi off n : Nat) (a : State × List Byte × RdCause) (hk : Keeps T s0 a.1) (ht : T.regs = true ∧ T.stackMap = true ∧ T.deeps = true ∧ T.poison = true ∧ T.xlat = true ∧ T.chans = true ∧ T.cxl = true ∧ T.boot = true ∧ T.rcv = true := by simp [*]) : Keeps T s0 (gatherRead c dead oi off n a).1 := by
  unfold gatherRead
  simp +contextual (maxDischargeDepth := 60) only [hk, objRead_keeps, ht, and_self]
theorem gatherOwn_keeps {T : Touch} {s0 : State} (c : ℕ) (dead : List ℕ) (si : ℕ) (first : ℕ) (count : ℕ) (n : ℕ) (s : State) (hk : Keeps T s0 s) (ht : T.regs = true ∧ T.stackMap = true ∧ T.deeps = true ∧ T.poison = true ∧ T.xlat = true ∧ T.chans = true ∧ T.cxl = true ∧ T.boot = true ∧ T.rcv = true := by simp [*]) :
    Keeps T s0 (gatherOwn c dead si first count n s).1 := by
  unfold gatherOwn
  try dsimp only
  repeat' first | (with_reducible assumption) | (simp +contextual (maxDischargeDepth := 60) only [gatherRead_keeps, ht, and_self]; done) | split | (with_reducible apply keeps_foldl) | (with_reducible apply keeps_foldl_fst) | (with_reducible apply keeps_foldl_snd) | (with_reducible apply keeps_foldl_snd2) | (intro _ _ _) | (intro _ _) | with_reducible apply gatherRead_keeps | with_reducible apply keeps_ite | with_reducible apply outKeeps_ite | with_reducible apply atUnit_keeps | dsimp only
theorem versionAbort_keeps {T : Touch} {s0 : State} (c : ℕ) (s : State) (hk : Keeps T s0 s) (ht : T.regs = true ∧ T.tillers = true ∧ T.stackMap = true ∧ T.deeps = true ∧ T.objs = true ∧ T.grans = true ∧ T.shareGroups = true ∧ T.used = true ∧ T.migs = true ∧ T.heldBy = true ∧ T.chans = true ∧ T.links = true ∧ T.cxl = true ∧ T.boot = true ∧ T.rcv = true ∧ T.flights = true := by simp [*]) :
    Keeps T s0 (versionAbort c s) := by
  unfold versionAbort
  try dsimp only
  repeat' first | (with_reducible assumption) | (simp +contextual (maxDischargeDepth := 60) only [hk, cntInc_keeps, setEv_keeps, modGroup_keeps, sendGroup_keeps, abortAttempt_keeps, ht, and_self]; done) | split | (with_reducible apply keeps_foldl) | (with_reducible apply keeps_foldl_fst) | (with_reducible apply keeps_foldl_snd) | (with_reducible apply keeps_foldl_snd2) | (intro _ _ _) | (intro _ _) | with_reducible apply cntInc_keeps | with_reducible apply setEv_keeps | with_reducible apply modGroup_keeps | with_reducible apply sendGroup_keeps | with_reducible apply abortAttempt_keeps | with_reducible apply keeps_ite | with_reducible apply outKeeps_ite | with_reducible apply atUnit_keeps | dsimp only
theorem recordVersion_keeps {T : Touch} {s0 : State} (c : ℕ) (y : Coll) (v : ℕ × ℕ) (s : State) (hk : Keeps T s0 s) (ht : T.chans = true := by simp [*]) :
    Keeps T s0 (recordVersion c y v s) := by
  unfold recordVersion
  try dsimp only
  repeat' first | (with_reducible assumption) | (simp +contextual (maxDischargeDepth := 60) only [hk, modTrn_keeps, ht]; done) | split | dsimp only
theorem putItems_keeps {T : Touch} {s0 : State} (c : ℕ) (dead : List ℕ) (oi : ℕ) (l : List (ℕ × List Byte)) (s : State) (hk : Keeps T s0 s) (ht : T.regs = true ∧ T.tillers = true ∧ T.stackMap = true ∧ T.deeps = true ∧ T.dram = true ∧ T.poison = true ∧ T.husk = true ∧ T.huskBad = true ∧ T.objs = true ∧ T.grans = true ∧ T.xlat = true ∧ T.chans = true ∧ T.cxl = true ∧ T.boot = true ∧ T.rcv = true ∧ T.notices = true := by simp [*]) :
    Keeps T s0 (putItems c dead oi l s).1 := by
  unfold putItems
  try dsimp only
  repeat' first | (with_reducible assumption) | (simp +contextual (maxDischargeDepth := 60) only [objWrite_keeps, ht, and_self]; done) | split | (with_reducible apply keeps_foldl) | (with_reducible apply keeps_foldl_fst) | (with_reducible apply keeps_foldl_snd) | (with_reducible apply keeps_foldl_snd2) | (intro _ _ _) | (intro _ _) | with_reducible apply objWrite_keeps | with_reducible apply keeps_ite | with_reducible apply outKeeps_ite | with_reducible apply atUnit_keeps | dsimp only
theorem gatherAlone_keeps {T : Touch} {s0 : State} (x : Cmd) (dead : List ℕ) (y : Coll) (own : List Byte) (s : State) (hk : Keeps T s0 s) (ht : T.regs = true ∧ T.tillers = true ∧ T.stackMap = true ∧ T.deeps = true ∧ T.dram = true ∧ T.poison = true ∧ T.husk = true ∧ T.huskBad = true ∧ T.objs = true ∧ T.grans = true ∧ T.shareGroups = true ∧ T.used = true ∧ T.migs = true ∧ T.heldBy = true ∧ T.xlat = true ∧ T.mbxs = true ∧ T.chans = true ∧ T.links = true ∧ T.cxl = true ∧ T.boot = true ∧ T.rcv = true ∧ T.flights = true ∧ T.notices = true ∧ T.smbOut = true := by simp [*]) :
    Keeps T s0 (gatherAlone x dead y own s) := by
  unfold gatherAlone
  try dsimp only
  repeat' first | (with_reducible assumption) | (simp +contextual (maxDischargeDepth := 60) only [hk, versionAbort_keeps, recordVersion_keeps, putItems_keeps, answer_keeps, ht, and_self]; done) | split | dsimp only
theorem execGather_keeps {T : Touch} {s0 : State} (src : CmdSrc) (e : Entry) (s : State) (hk : Keeps T s0 s) (ht : T.freeCtr = true ∧ T.regs = true ∧ T.tillers = true ∧ T.stackMap = true ∧ T.deeps = true ∧ T.dram = true ∧ T.poison = true ∧ T.husk = true ∧ T.huskBad = true ∧ T.objs = true ∧ T.grans = true ∧ T.shareGroups = true ∧ T.used = true ∧ T.migs = true ∧ T.heldBy = true ∧ T.xlat = true ∧ T.mbxs = true ∧ T.chans = true ∧ T.links = true ∧ T.cxl = true ∧ T.boot = true ∧ T.rcv = true ∧ T.flights = true ∧ T.notices = true ∧ T.smbOut = true := by simp [*]) :
    OutKeeps T s0 (execGather src e s) := by
  unfold execGather
  extract_lets x0 c si y v grp reuse moves peer f n whole
  clear_value peer whole moves grp
  split
  · exact hk
  · refine gatedBy_outKeeps _ _ _ _ _ _ _ hk (fun u hu => outKeeps_next.2 hu) (fun d u hu => ?_)
    refine serve_keeps _ _ _ _ _ hu fun x t h => ?_
    clear_value y
    extract_lets v' a b own
    have ho : Keeps T s0 own.1 := gatherOwn_keeps _ _ _ _ _ _ _ h
    clear_value own
    have ha : Keeps T s0 b.2 := drawFree_keeps _ (drawFree_keeps _ h)
    clear_value b a
    split
    · exact answer_keeps _ _ _ _ h
    · split
      · split
        · exact answer_keeps _ _ _ _ h
        · exact answer_keeps _ _ _ _ ha
      · split
        · exact answer_keeps _ _ _ _ (collFault_keeps _ _ _ _ _ _ h)
        · split
          · exact answer_keeps _ _ _ _ ho
          · split
            · exact gatherAlone_keeps _ _ _ _ _ ho
            · split
              · exact answer_keeps _ _ _ _ ho
              · split
                · exact answer_keeps _ _ _ _ ho
                · split
                  · exact answer_keeps _ _ _ _ ho
                  · exact keeps_foldl (fun u i hu => sendChunks_keeps _ _ _ _ _ _ hu) (keeps_foldl (fun u i hu => sendChunks_keeps _ _ _ _ _ _ hu) (addColl_keeps _ _ _ ho))
theorem gatherEnd_keeps {T : Touch} {s0 : State} (gn : ℕ) (old : Coll) (new : Coll) (s : State) (hk : Keeps T s0 s) (ht : T.regs = true ∧ T.chans = true ∧ T.links = true ∧ T.cxl = true := by simp [*]) :
    Keeps T s0 (gatherEnd gn old new s) := by
  unfold gatherEnd
  try dsimp only
  repeat' first | (with_reducible assumption) | (simp +contextual (maxDischargeDepth := 60) only [hk, modColl_keeps, endColl_keeps, ht, and_self]; done) | split | dsimp only
theorem versionChunk_keeps {T : Touch} {s0 : State} (m : Msg) (s : State) (hk : Keeps T s0 s) (ht : T.regs = true ∧ T.tillers = true ∧ T.stackMap = true ∧ T.deeps = true ∧ T.dram = true ∧ T.poison = true ∧ T.husk = true ∧ T.huskBad = true ∧ T.objs = true ∧ T.grans = true ∧ T.shareGroups = true ∧ T.used = true ∧ T.migs = true ∧ T.heldBy = true ∧ T.xlat = true ∧ T.chans = true ∧ T.links = true ∧ T.cxl = true ∧ T.boot = true ∧ T.rcv = true ∧ T.flights = true ∧ T.notices = true := by simp [*]) :
    Keeps T s0 (versionChunk m s) := by
  unfold versionChunk
  try dsimp only
  repeat' first | (with_reducible assumption) | (simp +contextual (maxDischargeDepth := 60) only [hk, takeMsg_keeps, keepMsg_keeps, modColl_keeps, versionAbort_keeps, ht, and_self]; done) | split | (with_reducible apply keeps_foldl) | (with_reducible apply keeps_foldl_fst) | (with_reducible apply keeps_foldl_snd) | (with_reducible apply keeps_foldl_snd2) | (intro _ _ _) | (intro _ _) | with_reducible apply takeMsg_keeps | with_reducible apply keepMsg_keeps | with_reducible apply modColl_keeps | with_reducible apply versionAbort_keeps | with_reducible apply collGated_keeps | with_reducible apply putItems_keeps | with_reducible apply recordVersion_keeps | with_reducible apply endColl_keeps | with_reducible apply gatherEnd_keeps | with_reducible apply keeps_ite | with_reducible apply outKeeps_ite | with_reducible apply atUnit_keeps | dsimp only
theorem gatherChunk_keeps {T : Touch} {s0 : State} (m : Msg) (s : State) (hk : Keeps T s0 s) (ht : T.regs = true ∧ T.tillers = true ∧ T.stackMap = true ∧ T.deeps = true ∧ T.dram = true ∧ T.poison = true ∧ T.husk = true ∧ T.huskBad = true ∧ T.objs = true ∧ T.grans = true ∧ T.heldBy = true ∧ T.xlat = true ∧ T.chans = true ∧ T.links = true ∧ T.cxl = true ∧ T.boot = true ∧ T.rcv = true ∧ T.notices = true := by simp [*]) :
    Keeps T s0 (gatherChunk m s) := by
  unfold gatherChunk
  try dsimp only
  repeat' first | (with_reducible assumption) | (simp +contextual (maxDischargeDepth := 60) only [hk, takeMsg_keeps, keepMsg_keeps, endColl_keeps, ht, and_self]; done) | split | (with_reducible apply keeps_foldl) | (with_reducible apply keeps_foldl_fst) | (with_reducible apply keeps_foldl_snd) | (with_reducible apply keeps_foldl_snd2) | (intro _ _ _) | (intro _ _) | with_reducible apply takeMsg_keeps | with_reducible apply keepMsg_keeps | with_reducible apply endColl_keeps | with_reducible apply collGated_keeps | with_reducible apply putItems_keeps | with_reducible apply gatherEnd_keeps | with_reducible apply keeps_ite | with_reducible apply outKeeps_ite | with_reducible apply atUnit_keeps | dsimp only

end Sys2Proof.Machine
end

