-- ==== Sys2Proof/Laws/Keeps/Sheaves.lean ====
section
/-! SUPPORT. What each operation of Machine/Sheaves.lean keeps. -/

namespace Sys2Proof.Machine

open Sys2Proof

set_option Elab.async false
set_option linter.unusedTactic false
set_option linter.unreachableTactic false

theorem execSheafRegister_keeps {T : Touch} {s0 : State} (src : CmdSrc) (e : Entry) (s : State) (hk : Keeps T s0 s) (ht : T.regs = true ∧ T.tillers = true ∧ T.stackMap = true ∧ T.deeps = true ∧ T.dram = true ∧ T.poison = true ∧ T.husk = true ∧ T.huskBad = true ∧ T.objs = true ∧ T.grans = true ∧ T.xlat = true ∧ T.mbxs = true ∧ T.chans = true ∧ T.cxl = true ∧ T.boot = true ∧ T.rcv = true ∧ T.notices = true ∧ T.smbOut = true := by simp [*]) :
    OutKeeps T s0 (execSheafRegister src e s) := by
  unfold execSheafRegister
  try dsimp only
  repeat' first | (with_reducible assumption) | (simp +contextual (maxDischargeDepth := 60) only [outKeeps_next, hk, objStore_keeps, ht, and_self]; done) | split | (with_reducible apply keeps_foldl) | (with_reducible apply keeps_foldl_fst) | (with_reducible apply keeps_foldl_snd) | (with_reducible apply keeps_foldl_snd2) | (intro _ _ _) | (intro _ _) | with_reducible apply serve_keeps | with_reducible apply answer_keeps | with_reducible apply objStore_keeps | with_reducible apply modTrn_keeps | with_reducible apply keeps_ite | with_reducible apply outKeeps_ite | with_reducible apply atUnit_keeps | (with_reducible refine keeps_stacks _ ?_ (by simp [ht])) | dsimp only
theorem readPiece_keeps {T : Touch} {s0 : State} (c : ℕ) (dead : List ℕ) (f : Sheaf) (q : ℕ) (s : State) (hk : Keeps T s0 s) (ht : T.regs = true ∧ T.stackMap = true ∧ T.deeps = true ∧ T.poison = true ∧ T.xlat = true ∧ T.chans = true ∧ T.cxl = true ∧ T.boot = true ∧ T.rcv = true := by simp [*]) :
    Keeps T s0 (readPiece c dead f q s).1 := by
  unfold readPiece
  try dsimp only
  repeat' first | (with_reducible assumption) | (simp +contextual (maxDischargeDepth := 60) only [gatherRead_keeps, ht, and_self]; done) | split | (with_reducible apply keeps_foldl) | (with_reducible apply keeps_foldl_fst) | (with_reducible apply keeps_foldl_snd) | (with_reducible apply keeps_foldl_snd2) | (intro _ _ _) | (intro _ _) | with_reducible apply gatherRead_keeps | with_reducible apply keeps_ite | with_reducible apply outKeeps_ite | with_reducible apply atUnit_keeps | dsimp only
theorem setOvf_keeps {T : Touch} {s0 : State} (c : ℕ) (n : ℕ) (s : State) (hk : Keeps T s0 s) (ht : T.chans = true := by simp [*]) :
    Keeps T s0 (setOvf c n s) := by
  unfold setOvf
  simp +contextual (maxDischargeDepth := 60) only [hk, modTrn_keeps, ht]
theorem writeGrad_keeps {T : Touch} {s0 : State} (c : ℕ) (dead : List ℕ) (f : Sheaf) (q : ℕ) (es : List F32) (s : State) (hk : Keeps T s0 s) (ht : T.regs = true ∧ T.tillers = true ∧ T.stackMap = true ∧ T.deeps = true ∧ T.dram = true ∧ T.poison = true ∧ T.husk = true ∧ T.huskBad = true ∧ T.objs = true ∧ T.grans = true ∧ T.xlat = true ∧ T.chans = true ∧ T.cxl = true ∧ T.boot = true ∧ T.rcv = true ∧ T.notices = true := by simp [*]) :
    Keeps T s0 (writeGrad c dead f q es s).1 := by
  unfold writeGrad
  extract_lets x s1
  have h1 : Keeps T s0 s1 := by
    unfold s1
    split
    · exact setOvf_keeps _ _ _ hk
    · exact hk
  clear_value s1
  refine keeps_foldl_fst (fun a p ha => ?_) h1
  dsimp only
  with_reducible exact objWrite_keeps _ _ _ _ _ ha
theorem sheafSum_keeps {T : Touch} {s0 : State} (c : ℕ) (f : Sheaf) (s : State) (hk : Keeps T s0 s) (ht : T.regs = true ∧ T.stackMap = true ∧ T.deeps = true ∧ T.poison = true ∧ T.xlat = true ∧ T.chans = true ∧ T.cxl = true ∧ T.boot = true ∧ T.rcv = true := by simp [*]) :
    Keeps T s0 (sheafSum c f s).1 := by
  unfold sheafSum
  try dsimp only
  repeat' first | (with_reducible assumption) | (simp +contextual (maxDischargeDepth := 60) only [gatherRead_keeps, ht, and_self]; done) | split | (with_reducible apply keeps_foldl) | (with_reducible apply keeps_foldl_fst) | (with_reducible apply keeps_foldl_snd) | (with_reducible apply keeps_foldl_snd2) | (intro _ _ _) | (intro _ _) | with_reducible apply gatherRead_keeps | with_reducible apply keeps_ite | with_reducible apply outKeeps_ite | with_reducible apply atUnit_keeps | dsimp only
theorem quadDone_keeps {T : Touch} {s0 : State} (c : ℕ) (num : ℕ) (q : ℕ) (s : State) (hk : Keeps T s0 s) (ht : T.regs = true ∧ T.tillers = true ∧ T.stackMap = true ∧ T.deeps = true ∧ T.poison = true ∧ T.objs = true ∧ T.grans = true ∧ T.shareGroups = true ∧ T.used = true ∧ T.migs = true ∧ T.heldBy = true ∧ T.xlat = true ∧ T.chans = true ∧ T.links = true ∧ T.cxl = true ∧ T.boot = true ∧ T.rcv = true ∧ T.flights = true := by simp [*]) :
    Keeps T s0 (quadDone c num q s) := by
  unfold quadDone
  try dsimp only
  repeat' first | (with_reducible assumption) | (simp +contextual (maxDischargeDepth := 60) only [hk, modSheaf_keeps, sheafSum_keeps, abortAttempt_keeps, endColl_keeps, oweKind_keeps, ht, and_self]; done) | split | dsimp only
theorem sendPiece_keeps {T : Touch} {s0 : State} (gn : ℕ) (c : ℕ) (f : Sheaf) (q : ℕ) (es : List F32) (pl : Option RxPlace) (s : State) (hk : Keeps T s0 s) (ht : T.regs = true ∧ T.chans = true ∧ T.links = true ∧ T.cxl = true := by simp [*]) :
    Keeps T s0 (sendPiece gn c f q es pl s) := by
  unfold sendPiece
  simp +contextual (maxDischargeDepth := 60) only [hk, sendGroupFrom_keeps, ht, and_self]
theorem startQuad_keeps {T : Touch} {s0 : State} (c : ℕ) (num : ℕ) (q : ℕ) (s : State) (hk : Keeps T s0 s) (ht : T.regs = true ∧ T.tillers = true ∧ T.stackMap = true ∧ T.deeps = true ∧ T.dram = true ∧ T.poison = true ∧ T.husk = true ∧ T.huskBad = true ∧ T.objs = true ∧ T.grans = true ∧ T.shareGroups = true ∧ T.used = true ∧ T.migs = true ∧ T.heldBy = true ∧ T.xlat = true ∧ T.chans = true ∧ T.links = true ∧ T.cxl = true ∧ T.boot = true ∧ T.rcv = true ∧ T.flights = true ∧ T.notices = true := by simp [*]) :
    Keeps T s0 (startQuad c num q s) := by
  unfold startQuad
  try dsimp only
  repeat' first | (with_reducible assumption) | (simp +contextual (maxDischargeDepth := 60) only [ht, and_self]; done) | split | (with_reducible apply keeps_foldl) | (with_reducible apply keeps_foldl_fst) | (with_reducible apply keeps_foldl_snd) | (with_reducible apply keeps_foldl_snd2) | (intro _ _ _) | (intro _ _) | with_reducible apply collGated_keeps | with_reducible apply readPiece_keeps | with_reducible apply abortAttempt_keeps | with_reducible apply writeGrad_keeps | with_reducible apply quadDone_keeps | with_reducible apply sendPiece_keeps | with_reducible apply keeps_ite | with_reducible apply outKeeps_ite | with_reducible apply atUnit_keeps | dsimp only
theorem execSheafComplete_keeps {T : Touch} {s0 : State} (c : ℕ) (n : ℕ) (s : State) (hk : Keeps T s0 s) (ht : T.regs = true ∧ T.tillers = true ∧ T.stackMap = true ∧ T.deeps = true ∧ T.dram = true ∧ T.poison = true ∧ T.husk = true ∧ T.huskBad = true ∧ T.objs = true ∧ T.grans = true ∧ T.shareGroups = true ∧ T.used = true ∧ T.migs = true ∧ T.heldBy = true ∧ T.xlat = true ∧ T.chans = true ∧ T.links = true ∧ T.cxl = true ∧ T.boot = true ∧ T.rcv = true ∧ T.flights = true ∧ T.notices = true := by simp [*]) :
    OutKeeps T s0 (execSheafComplete c n s) := by
  have hq : ∀ (l : List Nat) (u : State), Keeps T s0 u → Keeps T s0 (l.foldl (fun s q => startQuad c n q s) u) :=
    fun l u hu => keeps_foldl (fun _ _ hv => startQuad_keeps _ _ _ _ hv) hu
  unfold execSheafComplete
  refine atUnit_keeps (outKeeps_next.2 ?_)
  split
  · exact hk
  · refine keeps_ite (fun _ => hk) (fun _ => keeps_ite (fun _ => hq _ _ hk) (fun _ => hq _ _ ?_))
    have h1 := modSheaf_keeps c n (fun f => { f with st := 1 }) s hk
    split
    · exact keeps_ite (fun _ => h1) (fun _ => addColl_keeps _ _ _ h1)
    · exact h1
theorem rsChunk_keeps {T : Touch} {s0 : State} (m : Msg) (s : State) (hk : Keeps T s0 s) (ht : T.regs = true ∧ T.tillers = true ∧ T.stackMap = true ∧ T.deeps = true ∧ T.dram = true ∧ T.poison = true ∧ T.husk = true ∧ T.huskBad = true ∧ T.objs = true ∧ T.grans = true ∧ T.shareGroups = true ∧ T.used = true ∧ T.migs = true ∧ T.heldBy = true ∧ T.xlat = true ∧ T.chans = true ∧ T.links = true ∧ T.cxl = true ∧ T.boot = true ∧ T.rcv = true ∧ T.flights = true ∧ T.notices = true := by simp [*]) :
    Keeps T s0 (rsChunk m s) := by
  unfold rsChunk
  try dsimp only
  repeat' first | (with_reducible assumption) | (simp +contextual (maxDischargeDepth := 60) only [hk, abortAttempt_keeps, takeMsg_keeps, keepMsg_keeps, ht, and_self]; done) | split | (with_reducible apply keeps_foldl) | (with_reducible apply keeps_foldl_fst) | (with_reducible apply keeps_foldl_snd) | (with_reducible apply keeps_foldl_snd2) | (intro _ _ _) | (intro _ _) | with_reducible apply abortAttempt_keeps | with_reducible apply takeMsg_keeps | with_reducible apply keepMsg_keeps | with_reducible apply collGated_keeps | with_reducible apply readPiece_keeps | with_reducible apply modColl_keeps | with_reducible apply writeGrad_keeps | with_reducible apply quadDone_keeps | with_reducible apply sendPiece_keeps | with_reducible apply keeps_ite | with_reducible apply outKeeps_ite | with_reducible apply atUnit_keeps | dsimp only

end Sys2Proof.Machine
end

