-- ==== Sys2Proof/Laws/Keeps/Delta.lean ====
section
/-! SUPPORT. What each operation of Machine/Delta.lean keeps. -/

namespace Sys2Proof.Machine

open Sys2Proof

set_option Elab.async false
set_option linter.unusedTactic false
set_option linter.unreachableTactic false

theorem edgeStream_keeps {T : Touch} {s0 : State} (edge : ℕ) (data : List Byte) (tag : ℕ) (s : State) (hk : Keeps T s0 s) (ht : T.regs = true ∧ T.chans = true ∧ T.cxl = true := by simp [*]) :
    Keeps T s0 (edgeStream edge data tag s).1 := by
  unfold edgeStream
  try dsimp only
  repeat' first | (with_reducible assumption) | (simp +contextual (maxDischargeDepth := 60) only [streamBlock_keeps, ht, and_self]; done) | split | (with_reducible apply keeps_foldl) | (with_reducible apply keeps_foldl_fst) | (with_reducible apply keeps_foldl_snd) | (with_reducible apply keeps_foldl_snd2) | (intro _ _ _) | (intro _ _) | with_reducible apply streamBlock_keeps | with_reducible apply keeps_ite | with_reducible apply outKeeps_ite | with_reducible apply atUnit_keeps | dsimp only
theorem segmentOf_keeps {T : Touch} {s0 : State} (c : ℕ) (edge : ℕ) (d : ExportDue) (resync : Bool) (s : State) (hk : Keeps T s0 s) (ht : T.regs = true ∧ T.chans = true ∧ T.cxl = true := by simp [*]) :
    Keeps T s0 (segmentOf c edge d resync s).1 := by
  unfold segmentOf
  try dsimp only
  repeat' first | (with_reducible assumption) | (simp +contextual (maxDischargeDepth := 60) only [edgeStream_keeps, ht, and_self]; done) | split | (with_reducible apply keeps_foldl) | (with_reducible apply keeps_foldl_fst) | (with_reducible apply keeps_foldl_snd) | (with_reducible apply keeps_foldl_snd2) | (intro _ _ _) | (intro _ _) | with_reducible apply edgeStream_keeps | with_reducible apply keeps_ite | with_reducible apply outKeeps_ite | with_reducible apply atUnit_keeps | dsimp only
theorem freeStaging_keeps {T : Touch} {s0 : State} (c : ℕ) (l : List (ℕ × ℕ)) (s : State) (hk : Keeps T s0 s) (ht : T.chans = true := by simp [*]) :
    Keeps T s0 (freeStaging c l s) := by
  unfold freeStaging
  simp +contextual (maxDischargeDepth := 60) only [hk, modTrn_keeps, ht]
theorem deltaBreak_keeps {T : Touch} {s0 : State} (c : ℕ) (s : State) (hk : Keeps T s0 s) (ht : T.regs = true ∧ T.chans = true ∧ T.cxl = true := by simp [*]) :
    Keeps T s0 (deltaBreak c s) := by
  unfold deltaBreak
  simp +contextual (maxDischargeDepth := 60) only [hk, setEv_keeps, modTrn_keeps, ht, and_self]
theorem abandonLarge_keeps {T : Touch} {s0 : State} (c : ℕ) (step : ℕ) (n : ℕ) (l : List (ℕ × ℕ)) (s : State) (hk : Keeps T s0 s) (ht : T.regs = true ∧ T.chans = true ∧ T.cxl = true := by simp [*]) :
    Keeps T s0 (abandonLarge c step n l s) := by
  unfold abandonLarge
  simp +contextual (maxDischargeDepth := 60) only [hk, oweKind_keeps, setEv_keeps, deltaBreak_keeps, freeStaging_keeps, ht, and_self]
theorem execDeltaExportStart_keeps {T : Touch} {s0 : State} (c : ℕ) (s : State) (hk : Keeps T s0 s) (ht : T.regs = true ∧ T.chans = true ∧ T.cxl = true := by simp [*]) :
    OutKeeps T s0 (execDeltaExportStart c s) := by
  unfold execDeltaExportStart
  try dsimp only
  repeat' first | (with_reducible assumption) | (simp +contextual (maxDischargeDepth := 60) only [atUnit_keeps, outKeeps_next, hk, segmentOf_keeps, modTrn_keeps, abandonLarge_keeps, ht, and_self]; done) | split | dsimp only
theorem sendSegment_keeps {T : Touch} {s0 : State} (c : ℕ) (off : ℕ) (g : DeltaSeg) (s : State) (hk : Keeps T s0 s) (ht : T.regs = true ∧ T.chans = true ∧ T.links = true ∧ T.cxl = true := by simp [*]) :
    Keeps T s0 (sendSegment c off g s) := by
  unfold sendSegment
  try dsimp only
  repeat' first | (with_reducible assumption) | (simp +contextual (maxDischargeDepth := 60) only [modLinks_keeps, sendGroup_keeps, ht, and_self]; done) | split | (with_reducible apply keeps_foldl) | (with_reducible apply keeps_foldl_fst) | (with_reducible apply keeps_foldl_snd) | (with_reducible apply keeps_foldl_snd2) | (intro _ _ _) | (intro _ _) | with_reducible apply modLinks_keeps | with_reducible apply sendGroup_keeps | with_reducible apply keeps_ite | with_reducible apply outKeeps_ite | with_reducible apply atUnit_keeps | dsimp only
theorem modSeg_keeps {T : Touch} {s0 : State} (c : ℕ) (step : ℕ) (f : DeltaSeg → DeltaSeg) (s : State) (hk : Keeps T s0 s) (ht : T.chans = true := by simp [*]) :
    Keeps T s0 (modSeg c step f s) := by
  unfold modSeg
  simp +contextual (maxDischargeDepth := 60) only [hk, modTrn_keeps, ht]
theorem execDeltaSegmentWrite_keeps {T : Touch} {s0 : State} (c : ℕ) (s : State) (hk : Keeps T s0 s) (ht : T.regs = true ∧ T.chans = true ∧ T.links = true ∧ T.cxl = true := by simp [*]) :
    OutKeeps T s0 (execDeltaSegmentWrite c s) := by
  unfold execDeltaSegmentWrite
  try dsimp only
  repeat' first | (with_reducible assumption) | (simp +contextual (maxDischargeDepth := 60) only [atUnit_keeps, outKeeps_next, hk, modSeg_keeps, freeStaging_keeps, modTrn_keeps, sendSegment_keeps, hostWrite_keeps, ht, and_self]; done) | split | dsimp only
theorem deltaDone_keeps {T : Touch} {s0 : State} (c : ℕ) (step : ℕ) (s : State) (hk : Keeps T s0 s) (ht : T.regs = true ∧ T.chans = true ∧ T.cxl = true := by simp [*]) :
    Keeps T s0 (deltaDone c step s) := by
  unfold deltaDone
  try dsimp only
  repeat' first | (with_reducible assumption) | (simp +contextual (maxDischargeDepth := 60) only [hk, modTrn_keeps, oweKind_keeps, cntAdd_keeps, ht, and_self]; done) | split | dsimp only
theorem execDeltaSink_keeps {T : Touch} {s0 : State} (src : CmdSrc) (e : Entry) (s : State) (hk : Keeps T s0 s) (ht : T.regs = true ∧ T.mbxs = true ∧ T.chans = true ∧ T.cxl = true ∧ T.smbOut = true := by simp [*]) :
    OutKeeps T s0 (execDeltaSink src e s) := by
  unfold execDeltaSink
  try dsimp only
  repeat' first | (with_reducible assumption) | (simp +contextual (maxDischargeDepth := 60) only [answer_keeps, abandonLarge_keeps, ht, and_self]; done) | split | (with_reducible apply keeps_foldl) | (with_reducible apply keeps_foldl_fst) | (with_reducible apply keeps_foldl_snd) | (with_reducible apply keeps_foldl_snd2) | (intro _ _ _) | (intro _ _) | with_reducible apply serve_keeps | with_reducible apply answer_keeps | with_reducible apply modTrn_keeps | with_reducible apply abandonLarge_keeps | with_reducible apply keeps_ite | with_reducible apply outKeeps_ite | with_reducible apply atUnit_keeps | dsimp only
theorem execDeltaWaitTimeout_keeps {T : Touch} {s0 : State} (c : ℕ) (s : State) (hk : Keeps T s0 s) (ht : T.regs = true ∧ T.chans = true ∧ T.cxl = true := by simp [*]) :
    OutKeeps T s0 (execDeltaWaitTimeout c s) := by
  unfold execDeltaWaitTimeout
  try dsimp only
  repeat' first | (with_reducible assumption) | (simp +contextual (maxDischargeDepth := 60) only [deltaBreak_keeps, freeStaging_keeps, modTrn_keeps, ht, and_self]; done) | split | (with_reducible apply keeps_foldl) | (with_reducible apply keeps_foldl_fst) | (with_reducible apply keeps_foldl_snd) | (with_reducible apply keeps_foldl_snd2) | (intro _ _ _) | (intro _ _) | with_reducible apply onlyIf_keeps | with_reducible apply deltaBreak_keeps | with_reducible apply freeStaging_keeps | with_reducible apply modTrn_keeps | with_reducible apply keeps_ite | with_reducible apply outKeeps_ite | with_reducible apply atUnit_keeps | dsimp only
theorem execDeltaHeadWrite_keeps {T : Touch} {s0 : State} (c : ℕ) (w : Word) (s : State) (hk : Keeps T s0 s) (ht : T.chans = true := by simp [*]) :
    OutKeeps T s0 (execDeltaHeadWrite c w s) := by
  unfold execDeltaHeadWrite
  try dsimp only
  repeat' first | (with_reducible assumption) | (simp +contextual (maxDischargeDepth := 60) only [modTrn_keeps, ht]; done) | split | (with_reducible apply keeps_foldl) | (with_reducible apply keeps_foldl_fst) | (with_reducible apply keeps_foldl_snd) | (with_reducible apply keeps_foldl_snd2) | (intro _ _ _) | (intro _ _) | with_reducible apply onlyIf_keeps | with_reducible apply modTrn_keeps | with_reducible apply keeps_ite | with_reducible apply outKeeps_ite | with_reducible apply atUnit_keeps | dsimp only
theorem peerAnswer_keeps {T : Touch} {s0 : State} (m : Msg) (f : Remote → State → State) (s : State) (hk : Keeps T s0 s) (hf : ∀ x0 x1, Keeps T s0 x1 → Keeps T s0 (f x0 x1)) (ht : T.regs = true ∧ T.chans = true ∧ T.links = true ∧ T.cxl = true := by simp [*]) :
    Keeps T s0 (peerAnswer m f s) := by
  unfold peerAnswer
  try dsimp only
  repeat' first | (with_reducible assumption) | (simp +contextual (maxDischargeDepth := 60) only [hk, hf, takeMsg_keeps, cntInc_keeps, setEv_keeps, modLinks_keeps, ht, and_self]; done) | split | dsimp only
theorem execWrAck_keeps {T : Touch} {s0 : State} (m : Msg) (s : State) (hk : Keeps T s0 s) (ht : T.regs = true ∧ T.chans = true ∧ T.links = true ∧ T.cxl = true := by simp [*]) :
    OutKeeps T s0 (execWrAck m s) := by
  unfold execWrAck
  try dsimp only
  repeat' first | (with_reducible assumption) | (simp +contextual (maxDischargeDepth := 60) only [ht, and_self]; done) | split | (with_reducible apply keeps_foldl) | (with_reducible apply keeps_foldl_fst) | (with_reducible apply keeps_foldl_snd) | (with_reducible apply keeps_foldl_snd2) | (intro _ _ _) | (intro _ _) | with_reducible apply onMsg_keeps | with_reducible apply peerAnswer_keeps | with_reducible apply deltaDone_keeps | with_reducible apply keeps_ite | with_reducible apply outKeeps_ite | with_reducible apply atUnit_keeps | dsimp only
theorem segLost_keeps {T : Touch} {s0 : State} (r : Remote) (s : State) (hk : Keeps T s0 s) (ht : T.regs = true ∧ T.chans = true ∧ T.links = true ∧ T.cxl = true := by simp [*]) :
    Keeps T s0 (segLost r s) := by
  unfold segLost
  simp +contextual (maxDischargeDepth := 60) only [hk, modLinks_keeps, deltaBreak_keeps, modTrn_keeps, ht, and_self]
theorem execErr_keeps {T : Touch} {s0 : State} (m : Msg) (s : State) (hk : Keeps T s0 s) (ht : T.regs = true ∧ T.chans = true ∧ T.links = true ∧ T.cxl = true := by simp [*]) :
    OutKeeps T s0 (execErr m s) := by
  unfold execErr
  try dsimp only
  repeat' first | (with_reducible assumption) | (simp +contextual (maxDischargeDepth := 60) only [segLost_keeps, ht, and_self]; done) | split | (with_reducible apply keeps_foldl) | (with_reducible apply keeps_foldl_fst) | (with_reducible apply keeps_foldl_snd) | (with_reducible apply keeps_foldl_snd2) | (intro _ _ _) | (intro _ _) | with_reducible apply onMsg_keeps | with_reducible apply peerAnswer_keeps | with_reducible apply segLost_keeps | with_reducible apply keeps_ite | with_reducible apply outKeeps_ite | with_reducible apply atUnit_keeps | dsimp only

end Sys2Proof.Machine
end

