-- ==== Sys2Proof/Laws/Keeps/HostIo.lean ====
section
/-! SUPPORT. What each operation of Machine/HostIo.lean keeps. -/

namespace Sys2Proof.Machine

open Sys2Proof

set_option Elab.async false
set_option linter.unusedTactic false
set_option linter.unreachableTactic false

theorem commitData_keeps {T : Touch} {s0 : State} (c : ℕ) (p : ℕ) (addr : ℕ) (data : List Byte) (dead : List ℕ) (s : State) (hk : Keeps T s0 s) (ht : T.regs = true ∧ T.tillers = true ∧ T.stackMap = true ∧ T.deeps = true ∧ T.dram = true ∧ T.poison = true ∧ T.husk = true ∧ T.huskBad = true ∧ T.objs = true ∧ T.grans = true ∧ T.xlat = true ∧ T.chans = true ∧ T.cxl = true ∧ T.boot = true ∧ T.rcv = true ∧ T.notices = true := by simp [*]) :
    Keeps T s0 (commitData c p addr data dead s) := by
  unfold commitData
  try dsimp only
  repeat' first | (with_reducible assumption) | (simp +contextual (maxDischargeDepth := 60) only [hk, objWrite_keeps, finishRing_keeps, modTrn_keeps, cntAdd_keeps, ht, and_self]; done) | split | dsimp only
theorem execHostReadReturn_keeps {T : Touch} {s0 : State} (id : ℕ) (data : List Byte) (s : State) (hk : Keeps T s0 s) (ht : T.regs = true ∧ T.tillers = true ∧ T.stackMap = true ∧ T.deeps = true ∧ T.dram = true ∧ T.poison = true ∧ T.husk = true ∧ T.huskBad = true ∧ T.objs = true ∧ T.grans = true ∧ T.heldBy = true ∧ T.xlat = true ∧ T.chans = true ∧ T.cxl = true ∧ T.boot = true ∧ T.rcv = true ∧ T.notices = true := by simp [*]) :
    OutKeeps T s0 (execHostReadReturn id data s) := by
  have hd : ∀ u, Keeps T s0 u → Keeps T s0 (modCxl u (fun x => { x with reads := x.reads.filter (fun q => q.id != id) })) :=
    fun u hu => modCxl_keeps _ _ hu
  unfold execHostReadReturn
  split
  · exact hk
  · refine outKeeps_next.2 (keeps_ite (fun _ => copyData_keeps _ _ _ _ (hd _ hk)) (fun _ => keeps_ite (fun _ => ?_) (fun _ => hd _ hk)))
    exact gated_keeps _ _ _ _ _ _ hk (fun d u hu => commitData_keeps _ _ _ _ _ _ (hd _ hu))
theorem gradGo_keeps {T : Touch} {s0 : State} (c : ℕ) (p : ℕ) (s : State) (hk : Keeps T s0 s) (ht : T.regs = true ∧ T.chans = true ∧ T.cxl = true := by simp [*]) :
    Keeps T s0 (gradGo c p s) := by
  unfold gradGo
  try dsimp only
  repeat' first | (with_reducible assumption) | (simp +contextual (maxDischargeDepth := 60) only [hk, modTrn_keeps, normRecord_keeps, ht, and_self]; done) | split | dsimp only
theorem execHostWriteGo_keeps {T : Touch} {s0 : State} (id : ℕ) (s : State) (hk : Keeps T s0 s) (ht : T.regs = true ∧ T.tillers = true ∧ T.stackMap = true ∧ T.deeps = true ∧ T.dram = true ∧ T.poison = true ∧ T.husk = true ∧ T.huskBad = true ∧ T.objs = true ∧ T.grans = true ∧ T.heldBy = true ∧ T.xlat = true ∧ T.chans = true ∧ T.cxl = true ∧ T.boot = true ∧ T.rcv = true ∧ T.notices = true := by simp [*]) :
    OutKeeps T s0 (execHostWriteGo id s) := by
  unfold execHostWriteGo
  try dsimp only
  repeat' first | (with_reducible assumption) | (simp +contextual (maxDischargeDepth := 60) only [outKeeps_next, hk, modCxl_keeps, sendMsi_keeps, copyGo_keeps, deltaDone_keeps, gradGo_keeps, stookSaved_keeps, ht, and_self]; done) | split | dsimp only

end Sys2Proof.Machine
end

