-- ==== Sys2Proof/Laws/Keeps/Rejoin.lean ====
section
/-! SUPPORT. What each operation of Machine/Rejoin.lean keeps. -/

namespace Sys2Proof.Machine

open Sys2Proof

set_option Elab.async false
set_option linter.unusedTactic false
set_option linter.unreachableTactic false

theorem offerEpoch_keeps {T : Touch} {s0 : State} (gn : ℕ) (e : ℕ) (s : State) (hk : Keeps T s0 s) (ht : T.links = true := by simp [*]) :
    Keeps T s0 (offerEpoch gn e s) := by
  unfold offerEpoch
  simp +contextual (maxDischargeDepth := 60) only [hk, modGroup_keeps, ht]
theorem endTimedOut_keeps {T : Touch} {s0 : State} (gn i : Nat) (s : State) (hk : Keeps T s0 s) {p : State} (he : endTimedOut gn i s = some p) (ht : T.regs = true ∧ T.objs = true ∧ T.grans = true ∧ T.shareGroups = true ∧ T.used = true ∧ T.chans = true ∧ T.links = true ∧ T.cxl = true := by simp [*]) :
    Keeps T s0 p := by
  unfold endTimedOut at he
  dsimp only at he
  split at he
  · cases he
    refine keeps_ite (fun _ => endColl_keeps _ _ _ _ _ hk) (fun _ => keeps_ite (fun _ => dropReshard_keeps _ _ (setEv_keeps _ _ _ _ (endColl_keeps _ _ _ _ _ hk))) (fun _ => setEv_keeps _ _ _ _ (endColl_keeps _ _ _ _ _ hk)))
  · obtain ⟨r, _, rfl⟩ := Option.map_eq_some_iff.1 he
    exact segLost_keeps _ _ hk
theorem execCollTimeout_keeps {T : Touch} {s0 : State} (gn : ℕ) (i : ℕ) (s : State) (hk : Keeps T s0 s) (ht : T.regs = true ∧ T.tillers = true ∧ T.stackMap = true ∧ T.deeps = true ∧ T.objs = true ∧ T.grans = true ∧ T.shareGroups = true ∧ T.used = true ∧ T.migs = true ∧ T.heldBy = true ∧ T.chans = true ∧ T.links = true ∧ T.cxl = true ∧ T.boot = true ∧ T.rcv = true ∧ T.flights = true := by simp [*]) :
    OutKeeps T s0 (execCollTimeout gn i s) := by
  unfold execCollTimeout
  refine atUnit_keeps (outKeeps_next.2 ?_)
  split
  · exact hk
  · rename_i he
    exact abortAttempt_keeps _ _ _ _ (modGroup_keeps _ _ _ (logRec_keeps _ _ (cntInc_keeps _ _ _ (setEv_keeps _ _ _ _ (endTimedOut_keeps _ _ _ hk he)))))
theorem execStepAbort_keeps {T : Touch} {s0 : State} (m : Msg) (s : State) (hk : Keeps T s0 s) (ht : T.regs = true ∧ T.tillers = true ∧ T.stackMap = true ∧ T.deeps = true ∧ T.objs = true ∧ T.grans = true ∧ T.shareGroups = true ∧ T.used = true ∧ T.migs = true ∧ T.heldBy = true ∧ T.chans = true ∧ T.links = true ∧ T.cxl = true ∧ T.boot = true ∧ T.rcv = true ∧ T.flights = true := by simp [*]) :
    OutKeeps T s0 (execStepAbort m s) := by
  unfold execStepAbort
  try dsimp only
  repeat' first | (with_reducible assumption) | (simp +contextual (maxDischargeDepth := 60) only [ht, and_self]; done) | split | (with_reducible apply keeps_foldl) | (with_reducible apply keeps_foldl_fst) | (with_reducible apply keeps_foldl_snd) | (with_reducible apply keeps_foldl_snd2) | (intro _ _ _) | (intro _ _) | with_reducible apply onMsg_keeps | with_reducible apply takeMsg_keeps | with_reducible apply offerEpoch_keeps | with_reducible apply keepMsg_keeps | with_reducible apply setEv_keeps | with_reducible apply abortAttempt_keeps | with_reducible apply keeps_ite | with_reducible apply outKeeps_ite | with_reducible apply atUnit_keeps | dsimp only
theorem rollForward_keeps {T : Touch} {s0 : State} (c : ℕ) (n : ℕ) (s : State) (hk : Keeps T s0 s) (ht : T.regs = true ∧ T.tillers = true ∧ T.stackMap = true ∧ T.deeps = true ∧ T.dram = true ∧ T.poison = true ∧ T.husk = true ∧ T.huskBad = true ∧ T.objs = true ∧ T.grans = true ∧ T.shareGroups = true ∧ T.used = true ∧ T.migs = true ∧ T.heldBy = true ∧ T.xlat = true ∧ T.chans = true ∧ T.links = true ∧ T.cxl = true ∧ T.boot = true ∧ T.rcv = true ∧ T.flights = true ∧ T.notices = true := by simp [*]) :
    Keeps T s0 (rollForward c n s) := by
  unfold rollForward
  try dsimp only
  repeat' first | (with_reducible assumption) | (simp +contextual (maxDischargeDepth := 60) only [hk, dropStackWork_keeps, modTrn_keeps, reportInexact_keeps, progWrite_keeps, ht, and_self]; done) | split | (with_reducible apply keeps_foldl) | (with_reducible apply keeps_foldl_fst) | (with_reducible apply keeps_foldl_snd) | (with_reducible apply keeps_foldl_snd2) | (intro _ _ _) | (intro _ _) | with_reducible apply dropStackWork_keeps | with_reducible apply modTrn_keeps | with_reducible apply progRead_keeps | with_reducible apply reportInexact_keeps | with_reducible apply progWrite_keeps | with_reducible apply queueTensor_keeps | with_reducible apply writeHeaders_keeps | with_reducible apply keeps_ite | with_reducible apply outKeeps_ite | with_reducible apply atUnit_keeps | dsimp only
theorem endInexact_keeps {T : Touch} {s0 : State} (c : ℕ) (s : State) (hk : Keeps T s0 s) (ht : T.regs = true ∧ T.tillers = true ∧ T.stackMap = true ∧ T.deeps = true ∧ T.objs = true ∧ T.grans = true ∧ T.shareGroups = true ∧ T.used = true ∧ T.migs = true ∧ T.heldBy = true ∧ T.chans = true ∧ T.links = true ∧ T.cxl = true ∧ T.boot = true ∧ T.rcv = true ∧ T.flights = true := by simp [*]) :
    Keeps T s0 (endInexact c s) := by
  unfold endInexact
  try dsimp only
  repeat' first | (with_reducible assumption) | (simp +contextual (maxDischargeDepth := 60) only [hk, reportInexact_keeps, ht, and_self]; done) | split | dsimp only
theorem dropNorm_keeps {T : Touch} {s0 : State} (c : ℕ) (s : State) (hk : Keeps T s0 s) (ht : T.links = true := by simp [*]) :
    Keeps T s0 (dropNorm c s) := by
  unfold dropNorm
  simp +contextual (maxDischargeDepth := 60) only [hk, modLinks_keeps, ht]
theorem finishStep_keeps {T : Touch} {s0 : State} (c : ℕ) (n : ℕ) (d : List Word) (s : State) (hk : Keeps T s0 s) (ht : T.regs = true ∧ T.tillers = true ∧ T.stackMap = true ∧ T.deeps = true ∧ T.dram = true ∧ T.poison = true ∧ T.husk = true ∧ T.huskBad = true ∧ T.objs = true ∧ T.grans = true ∧ T.shareGroups = true ∧ T.used = true ∧ T.migs = true ∧ T.heldBy = true ∧ T.xlat = true ∧ T.chans = true ∧ T.links = true ∧ T.cxl = true ∧ T.boot = true ∧ T.rcv = true ∧ T.flights = true ∧ T.notices = true := by simp [*]) :
    Keeps T s0 (finishStep c n d s) := by
  unfold finishStep
  try dsimp only
  repeat' first | (with_reducible assumption) | (simp +contextual (maxDischargeDepth := 60) only [hk, endInexact_keeps, rollForward_keeps, modChanRcv_keeps, modTrn_keeps, dropNorm_keeps, skipStep_keeps, updateStart_keeps, actOnNorm_keeps, ht, and_self]; done) | split | dsimp only
theorem voidLater_keeps {T : Touch} {s0 : State} (c : ℕ) (s : State) (hk : Keeps T s0 s) (ht : T.regs = true ∧ T.tillers = true ∧ T.stackMap = true ∧ T.deeps = true ∧ T.objs = true ∧ T.grans = true ∧ T.shareGroups = true ∧ T.used = true ∧ T.migs = true ∧ T.heldBy = true ∧ T.chans = true ∧ T.links = true ∧ T.cxl = true ∧ T.boot = true ∧ T.rcv = true ∧ T.flights = true := by simp [*]) :
    Keeps T s0 (voidLater c s) := by
  unfold voidLater
  try dsimp only
  repeat' first | (with_reducible assumption) | (simp +contextual (maxDischargeDepth := 60) only [hk, voidAttempt_keeps, abortAttempt_keeps, ht, and_self]; done) | split | dsimp only
theorem decideReshard_keeps {T : Touch} {s0 : State} (c : ℕ) (d : List Word) (s : State) (hk : Keeps T s0 s) (ht : T.regs = true ∧ T.tillers = true ∧ T.stackMap = true ∧ T.deeps = true ∧ T.dram = true ∧ T.poison = true ∧ T.husk = true ∧ T.huskBad = true ∧ T.objs = true ∧ T.grans = true ∧ T.shareGroups = true ∧ T.used = true ∧ T.xlat = true ∧ T.chans = true ∧ T.links = true ∧ T.cxl = true ∧ T.boot = true ∧ T.rcv = true ∧ T.notices = true := by simp [*]) :
    Keeps T s0 (decideReshard c d s) := by
  unfold decideReshard
  try dsimp only
  repeat' first | (with_reducible assumption) | (simp +contextual (maxDischargeDepth := 60) only [hk, reshSwitch_keeps, reshFail_keeps, ht, and_self]; done) | split | dsimp only
theorem leaveAborted_keeps {T : Touch} {s0 : State} (c : ℕ) (s : State) (hk : Keeps T s0 s) (ht : T.chans = true ∧ T.links = true := by simp [*]) :
    Keeps T s0 (leaveAborted c s) := by
  unfold leaveAborted
  simp +contextual (maxDischargeDepth := 60) only [hk, modChanRcv_keeps, modLinks_keeps, ht]
theorem applyDecision_keeps {T : Touch} {s0 : State} (c : ℕ) (d : List Word) (s : State) (hk : Keeps T s0 s) (ht : T.regs = true ∧ T.tillers = true ∧ T.stackMap = true ∧ T.deeps = true ∧ T.dram = true ∧ T.poison = true ∧ T.husk = true ∧ T.huskBad = true ∧ T.objs = true ∧ T.grans = true ∧ T.shareGroups = true ∧ T.used = true ∧ T.migs = true ∧ T.heldBy = true ∧ T.xlat = true ∧ T.chans = true ∧ T.links = true ∧ T.cxl = true ∧ T.boot = true ∧ T.rcv = true ∧ T.flights = true ∧ T.notices = true := by simp [*]) :
    Keeps T s0 (applyDecision c d s) := by
  unfold applyDecision
  try dsimp only
  repeat' first | (with_reducible assumption) | (simp +contextual (maxDischargeDepth := 60) only [hk, cntInc_keeps, setEv_keeps, decideReshard_keeps, endInexact_keeps, voidLater_keeps, finishStep_keeps, leaveAborted_keeps, ht, and_self]; done) | split | dsimp only
theorem leaveGroup_keeps {T : Touch} {s0 : State} (gn : ℕ) (s : State) (hk : Keeps T s0 s) (ht : T.links = true := by simp [*]) :
    Keeps T s0 (leaveGroup gn s) := by
  unfold leaveGroup
  simp +contextual (maxDischargeDepth := 60) only [hk, modGroup_keeps, ht]
theorem tryDecide_keeps {T : Touch} {s0 : State} (gn : ℕ) (s : State) (hk : Keeps T s0 s) (ht : T.regs = true ∧ T.tillers = true ∧ T.stackMap = true ∧ T.deeps = true ∧ T.dram = true ∧ T.poison = true ∧ T.husk = true ∧ T.huskBad = true ∧ T.objs = true ∧ T.grans = true ∧ T.shareGroups = true ∧ T.used = true ∧ T.migs = true ∧ T.heldBy = true ∧ T.xlat = true ∧ T.chans = true ∧ T.links = true ∧ T.cxl = true ∧ T.boot = true ∧ T.rcv = true ∧ T.flights = true ∧ T.notices = true := by simp [*]) :
    Keeps T s0 (tryDecide gn s) := by
  unfold tryDecide
  try dsimp only
  repeat' first | (with_reducible assumption) | (simp +contextual (maxDischargeDepth := 60) only [hk, leaveGroup_keeps, modGroup_keeps, logRec_keeps, sendMembers_keeps, applyDecision_keeps, ht, and_self]; done) | split | dsimp only
theorem sendRejoin_keeps {T : Touch} {s0 : State} (gn : ℕ) (s : State) (hk : Keeps T s0 s) (ht : T.regs = true ∧ T.tillers = true ∧ T.stackMap = true ∧ T.deeps = true ∧ T.dram = true ∧ T.poison = true ∧ T.husk = true ∧ T.huskBad = true ∧ T.objs = true ∧ T.grans = true ∧ T.shareGroups = true ∧ T.used = true ∧ T.migs = true ∧ T.heldBy = true ∧ T.xlat = true ∧ T.chans = true ∧ T.links = true ∧ T.cxl = true ∧ T.boot = true ∧ T.rcv = true ∧ T.flights = true ∧ T.notices = true := by simp [*]) :
    Keeps T s0 (sendRejoin gn s) := by
  unfold sendRejoin
  simp +contextual (maxDischargeDepth := 60) only [hk, modGroup_keeps, tryDecide_keeps, sendMembers_keeps, ht, and_self]
theorem startRejoin_keeps {T : Touch} {s0 : State} (gn : ℕ) (s : State) (hk : Keeps T s0 s) (ht : T.regs = true ∧ T.tillers = true ∧ T.stackMap = true ∧ T.deeps = true ∧ T.dram = true ∧ T.poison = true ∧ T.husk = true ∧ T.huskBad = true ∧ T.objs = true ∧ T.grans = true ∧ T.shareGroups = true ∧ T.used = true ∧ T.migs = true ∧ T.heldBy = true ∧ T.xlat = true ∧ T.chans = true ∧ T.links = true ∧ T.cxl = true ∧ T.boot = true ∧ T.rcv = true ∧ T.flights = true ∧ T.notices = true := by simp [*]) :
    Keeps T s0 (startRejoin gn s) := by
  unfold startRejoin
  simp +contextual (maxDischargeDepth := 60) only [hk, sendRejoin_keeps, modGroup_keeps, ht, and_self]
theorem execRejoin_keeps {T : Touch} {s0 : State} (m : Msg) (s : State) (hk : Keeps T s0 s) (ht : T.regs = true ∧ T.tillers = true ∧ T.stackMap = true ∧ T.deeps = true ∧ T.dram = true ∧ T.poison = true ∧ T.husk = true ∧ T.huskBad = true ∧ T.objs = true ∧ T.grans = true ∧ T.shareGroups = true ∧ T.used = true ∧ T.migs = true ∧ T.heldBy = true ∧ T.xlat = true ∧ T.chans = true ∧ T.links = true ∧ T.cxl = true ∧ T.boot = true ∧ T.rcv = true ∧ T.flights = true ∧ T.notices = true := by simp [*]) :
    OutKeeps T s0 (execRejoin m s) := by
  unfold execRejoin
  try dsimp only
  repeat' first | (with_reducible assumption) | (simp +contextual (maxDischargeDepth := 60) only [ht, and_self]; done) | split | (with_reducible apply keeps_foldl) | (with_reducible apply keeps_foldl_fst) | (with_reducible apply keeps_foldl_snd) | (with_reducible apply keeps_foldl_snd2) | (intro _ _ _) | (intro _ _) | with_reducible apply onMsg_keeps | with_reducible apply takeMsg_keeps | with_reducible apply offerEpoch_keeps | with_reducible apply setEv_keeps | with_reducible apply applyDecision_keeps | with_reducible apply modGroup_keeps | with_reducible apply keepMsg_keeps | with_reducible apply sendGroup_keeps | with_reducible apply leaveGroup_keeps | with_reducible apply keeps_ite | with_reducible apply outKeeps_ite | with_reducible apply atUnit_keeps | dsimp only
theorem execRejoinAck_keeps {T : Touch} {s0 : State} (m : Msg) (s : State) (hk : Keeps T s0 s) (ht : T.regs = true ∧ T.tillers = true ∧ T.stackMap = true ∧ T.deeps = true ∧ T.dram = true ∧ T.poison = true ∧ T.husk = true ∧ T.huskBad = true ∧ T.objs = true ∧ T.grans = true ∧ T.shareGroups = true ∧ T.used = true ∧ T.migs = true ∧ T.heldBy = true ∧ T.xlat = true ∧ T.chans = true ∧ T.links = true ∧ T.cxl = true ∧ T.boot = true ∧ T.rcv = true ∧ T.flights = true ∧ T.notices = true := by simp [*]) :
    OutKeeps T s0 (execRejoinAck m s) := by
  unfold execRejoinAck
  try dsimp only
  repeat' first | (with_reducible assumption) | (simp +contextual (maxDischargeDepth := 60) only [ht]; done) | split | (with_reducible apply keeps_foldl) | (with_reducible apply keeps_foldl_fst) | (with_reducible apply keeps_foldl_snd) | (with_reducible apply keeps_foldl_snd2) | (intro _ _ _) | (intro _ _) | with_reducible apply onMsg_keeps | with_reducible apply takeMsg_keeps | with_reducible apply tryDecide_keeps | with_reducible apply modGroup_keeps | with_reducible apply keeps_ite | with_reducible apply outKeeps_ite | with_reducible apply atUnit_keeps | dsimp only
theorem execRejoinWaitExpire_keeps {T : Touch} {s0 : State} (gn : ℕ) (s : State) (hk : Keeps T s0 s) (ht : T.regs = true ∧ T.tillers = true ∧ T.stackMap = true ∧ T.deeps = true ∧ T.dram = true ∧ T.poison = true ∧ T.husk = true ∧ T.huskBad = true ∧ T.objs = true ∧ T.grans = true ∧ T.shareGroups = true ∧ T.used = true ∧ T.migs = true ∧ T.heldBy = true ∧ T.xlat = true ∧ T.chans = true ∧ T.links = true ∧ T.cxl = true ∧ T.boot = true ∧ T.rcv = true ∧ T.flights = true ∧ T.notices = true := by simp [*]) :
    OutKeeps T s0 (execRejoinWaitExpire gn s) := by
  unfold execRejoinWaitExpire
  try dsimp only
  repeat' first | (with_reducible assumption) | (simp +contextual (maxDischargeDepth := 60) only [startRejoin_keeps, ht, and_self]; done) | split | (with_reducible apply keeps_foldl) | (with_reducible apply keeps_foldl_fst) | (with_reducible apply keeps_foldl_snd) | (with_reducible apply keeps_foldl_snd2) | (intro _ _ _) | (intro _ _) | with_reducible apply onlyIf_keeps | with_reducible apply startRejoin_keeps | with_reducible apply keeps_ite | with_reducible apply outKeeps_ite | with_reducible apply atUnit_keeps | dsimp only
theorem execRejoinAckTimeout_keeps {T : Touch} {s0 : State} (gn : ℕ) (s : State) (hk : Keeps T s0 s) (ht : T.regs = true ∧ T.tillers = true ∧ T.stackMap = true ∧ T.deeps = true ∧ T.dram = true ∧ T.poison = true ∧ T.husk = true ∧ T.huskBad = true ∧ T.objs = true ∧ T.grans = true ∧ T.shareGroups = true ∧ T.used = true ∧ T.migs = true ∧ T.heldBy = true ∧ T.xlat = true ∧ T.chans = true ∧ T.links = true ∧ T.cxl = true ∧ T.boot = true ∧ T.rcv = true ∧ T.flights = true ∧ T.notices = true := by simp [*]) :
    OutKeeps T s0 (execRejoinAckTimeout gn s) := by
  unfold execRejoinAckTimeout
  try dsimp only
  repeat' first | (with_reducible assumption) | (simp +contextual (maxDischargeDepth := 60) only [sendRejoin_keeps, ht, and_self]; done) | split | (with_reducible apply keeps_foldl) | (with_reducible apply keeps_foldl_fst) | (with_reducible apply keeps_foldl_snd) | (with_reducible apply keeps_foldl_snd2) | (intro _ _ _) | (intro _ _) | with_reducible apply onlyIf_keeps | with_reducible apply sendRejoin_keeps | with_reducible apply keeps_ite | with_reducible apply outKeeps_ite | with_reducible apply atUnit_keeps | dsimp only

end Sys2Proof.Machine
end

