-- ==== Sys2Proof/Laws/Keeps/Reset.lean ====
section
/-! SUPPORT. What each operation of Machine/Reset.lean keeps. -/

namespace Sys2Proof.Machine

open Sys2Proof

set_option Elab.async false
set_option linter.unusedTactic false
set_option linter.unreachableTactic false

theorem loseQuad_keeps {T : Touch} {s0 : State} (q : ℕ) (s : State) (hk : Keeps T s0 s) (ht : T.regs = true ∧ T.tillers = true ∧ T.stackMap = true ∧ T.deeps = true ∧ T.chans = true ∧ T.flights = true ∧ T.notices = true := by simp [*]) :
    Keeps T s0 (loseQuad q s) := by
  unfold loseQuad
  try dsimp only
  repeat' first | (with_reducible assumption) | (simp +contextual (maxDischargeDepth := 60) only [hk, dropPools_keeps, modTrn_keeps, resetBlock_keeps, ht, and_self]; done) | split | (with_reducible apply keeps_foldl) | (with_reducible apply keeps_foldl_fst) | (with_reducible apply keeps_foldl_snd) | (with_reducible apply keeps_foldl_snd2) | (intro _ _ _) | (intro _ _) | with_reducible apply dropPools_keeps | with_reducible apply modTrn_keeps | with_reducible apply resetBlock_keeps | with_reducible apply keeps_ite | with_reducible apply outKeeps_ite | with_reducible apply atUnit_keeps | (with_reducible refine keeps_tillers_flights_notices _ _ _ ?_ (by simp [ht])) | dsimp only
theorem loseStack_keeps {T : Touch} {s0 : State} (i : ℕ) (s : State) (hk : Keeps T s0 s) (ht : T.regs = true ∧ T.stackMap = true := by simp [*]) :
    Keeps T s0 (loseStack i s) := by
  unfold loseStack
  simp +contextual (maxDischargeDepth := 60) only [hk, resetBlock_keeps, modStack_keeps, ht]
theorem loseDeep_keeps {T : Touch} {s0 : State} (d : ℕ) (s : State) (hk : Keeps T s0 s) (ht : T.regs = true ∧ T.deeps = true := by simp [*]) :
    Keeps T s0 (loseDeep d s) := by
  unfold loseDeep
  simp +contextual (maxDischargeDepth := 60) only [hk, resetBlock_keeps, modDeep_keeps, ht]
theorem losePort_keeps {T : Touch} {s0 : State} (p : ℕ) (s : State) (hk : Keeps T s0 s) (ht : T.regs = true ∧ T.chans = true ∧ T.links = true ∧ T.cxl = true := by simp [*]) :
    Keeps T s0 (losePort p s) := by
  unfold losePort
  simp +contextual (maxDischargeDepth := 60) only [hk, modPort_keeps, cutLink_keeps, rerouteAll_keeps, modLinks_keeps, resetBlock_keeps, ht, and_self]
theorem loseCxl_keeps {T : Touch} {s0 : State} (s : State) (hk : Keeps T s0 s) (ht : T.regs = true ∧ T.stackMap = true ∧ T.deeps = true ∧ T.cxl = true := by simp [*]) :
    Keeps T s0 (loseCxl s) := by
  unfold loseCxl
  simp +contextual (maxDischargeDepth := 60) only [hk, resetBlock_keeps, modCxl_keeps, dropEngine_keeps, ht, and_self]
theorem advanceAll_keeps {T : Touch} {s0 : State} (s : State) (hk : Keeps T s0 s) (ht : T.rcv = true := by simp [*]) :
    Keeps T s0 (advanceAll s) := by
  unfold advanceAll
  try dsimp only
  repeat' first | (with_reducible assumption) | (simp +contextual (maxDischargeDepth := 60) only [modDomain_keeps, ht]; done) | split | (with_reducible apply keeps_foldl) | (with_reducible apply keeps_foldl_fst) | (with_reducible apply keeps_foldl_snd) | (with_reducible apply keeps_foldl_snd2) | (intro _ _ _) | (intro _ _) | with_reducible apply modDomain_keeps | with_reducible apply keeps_ite | with_reducible apply outKeeps_ite | with_reducible apply atUnit_keeps | dsimp only
theorem loseWarm_keeps {T : Touch} {s0 : State} (s : State) (hk : Keeps T s0 s) (ht : T.regs = true ∧ T.tillers = true ∧ T.stackMap = true ∧ T.deeps = true ∧ T.objs = true ∧ T.grans = true ∧ T.used = true ∧ T.migs = true ∧ T.heldBy = true ∧ T.xlat = true ∧ T.mbxs = true ∧ T.chans = true ∧ T.links = true ∧ T.cxl = true ∧ T.boot = true ∧ T.rcv = true ∧ T.flights = true ∧ T.notices = true := by simp [*]) :
    Keeps T s0 (loseWarm s) := by
  unfold loseWarm
  extract_lets t1 t2 t3 t4 t5 t6 t7 t8 t9
  have h1 : Keeps T s0 t1 := dropEngine_keeps _ _ (keeps_heldBy _ hk (by simp [*]))
  clear_value t1
  have h2 : Keeps T s0 t2 := keeps_foldl (fun u m hu => finishRing_keeps _ _ _ _ _ (dropMig_keeps _ _ hu)) h1
  clear_value t2
  have h3 : Keeps T s0 t3 := keeps_foldl (fun u i hu => loseStack_keeps _ _ hu) h2
  clear_value t3
  have h4 : Keeps T s0 t4 := keeps_foldl (fun u i hu => loseDeep_keeps _ _ hu) h3
  clear_value t4
  have h5 : Keeps T s0 t5 := keeps_foldl (fun u c hu => modChan_keeps _ _ _ hu) h4
  clear_value t5
  have h9 : Keeps T s0 t9 := modBoot_keeps _ _ (modRcv_keeps _ _ (modCxl_keeps _ _ (modLinks_keeps _ _ h5))) (Nat.le_refl _) rfl
  clear_value t9
  exact keeps_regs_tillers_xlat_mbxs_flights_notices _ _ _ _ _ _ h9 (smWf_filter _) (by simp [*])
theorem dirAtReset_keeps {T : Touch} {s0 : State} (s : State) (hk : Keeps T s0 s) (ht : T.boot = true := by simp [*]) :
    Keeps T s0 (dirAtReset s) := by
  unfold dirAtReset
  try dsimp only
  repeat' first | (with_reducible assumption) | (simp +contextual (maxDischargeDepth := 60) only [hk, writeDir_keeps, ht]; done) | split | dsimp only
theorem drainHome_keeps {T : Touch} {s0 : State} (h : ℕ) (s : State) (hk : Keeps T s0 s) (ht : T.tillers = true ∧ T.stackMap = true ∧ T.deeps = true := by simp [*]) :
    Keeps T s0 (drainHome h s) := by
  unfold drainHome
  try dsimp only
  repeat' first | (with_reducible assumption) | (simp +contextual (maxDischargeDepth := 60) only [modTiller_keeps, ht]; done) | split | (with_reducible apply keeps_foldl) | (with_reducible apply keeps_foldl_fst) | (with_reducible apply keeps_foldl_snd) | (with_reducible apply keeps_foldl_snd2) | (intro _ _ _) | (intro _ _) | with_reducible apply modTiller_keeps | with_reducible apply modStack_keeps | with_reducible apply modDeep_keeps | with_reducible apply keeps_ite | with_reducible apply outKeeps_ite | with_reducible apply atUnit_keeps | dsimp only
theorem drain_keeps {T : Touch} {s0 : State} (d : ℕ) (s : State) (hk : Keeps T s0 s) (ht : T.tillers = true ∧ T.stackMap = true ∧ T.deeps = true := by simp [*]) :
    Keeps T s0 (drain d s) := by
  unfold drain
  try dsimp only
  repeat' first | (with_reducible assumption) | (simp +contextual (maxDischargeDepth := 60) only [drainHome_keeps, ht, and_self]; done) | split | (with_reducible apply keeps_foldl) | (with_reducible apply keeps_foldl_fst) | (with_reducible apply keeps_foldl_snd) | (with_reducible apply keeps_foldl_snd2) | (intro _ _ _) | (intro _ _) | with_reducible apply drainHome_keeps | with_reducible apply keeps_ite | with_reducible apply outKeeps_ite | with_reducible apply atUnit_keeps | dsimp only
theorem execFenceDrainTimeout_keeps {T : Touch} {s0 : State} (d : ℕ) (s : State) (hk : Keeps T s0 s) (ht : T.tillers = true ∧ T.stackMap = true ∧ T.deeps = true := by simp [*]) :
    OutKeeps T s0 (execFenceDrainTimeout d s) := by
  unfold execFenceDrainTimeout
  try dsimp only
  repeat' first | (with_reducible assumption) | (simp +contextual (maxDischargeDepth := 60) only [drain_keeps, ht, and_self]; done) | split | (with_reducible apply keeps_foldl) | (with_reducible apply keeps_foldl_fst) | (with_reducible apply keeps_foldl_snd) | (with_reducible apply keeps_foldl_snd2) | (intro _ _ _) | (intro _ _) | with_reducible apply onlyIf_keeps | with_reducible apply drain_keeps | with_reducible apply keeps_ite | with_reducible apply outKeeps_ite | with_reducible apply atUnit_keeps | dsimp only
theorem assertReset_keeps {T : Touch} {s0 : State} (d : ℕ) (s : State) (hk : Keeps T s0 s) (ht : T.us = true ∧ T.freeCtr = true ∧ T.regs = true ∧ T.tillers = true ∧ T.stackMap = true ∧ T.deeps = true ∧ T.dram = true ∧ T.poison = true ∧ T.husk = true ∧ T.huskBad = true ∧ T.objs = true ∧ T.grans = true ∧ T.shareGroups = true ∧ T.used = true ∧ T.migs = true ∧ T.heldBy = true ∧ T.xlat = true ∧ T.mbxs = true ∧ T.chans = true ∧ T.links = true ∧ T.cxl = true ∧ T.power = true ∧ T.phys = true ∧ T.boot = true ∧ T.rcv = true ∧ T.flights = true ∧ T.notices = true ∧ T.smbOut = true := by simp [*]) :
    Keeps T s0 (assertReset d s) := by
  unfold assertReset
  try dsimp only
  repeat' first | (with_reducible assumption) | (simp +contextual (maxDischargeDepth := 60) only [hk, dirAtReset_keeps, modDomain_keeps, loseCold_keeps, advanceAll_keeps, loseWarm_keeps, loseQuad_keeps, loseStack_keeps, loseDeep_keeps, loseCxl_keeps, losePort_keeps, ht, and_self]; done) | split | (with_reducible apply keeps_foldl) | (with_reducible apply keeps_foldl_fst) | (with_reducible apply keeps_foldl_snd) | (with_reducible apply keeps_foldl_snd2) | (intro _ _ _) | (intro _ _) | with_reducible apply dirAtReset_keeps | with_reducible apply modDomain_keeps | with_reducible apply loseCold_keeps | with_reducible apply advanceAll_keeps | with_reducible apply loseWarm_keeps | with_reducible apply loseQuad_keeps | with_reducible apply loseStack_keeps | with_reducible apply loseDeep_keeps | with_reducible apply loseCxl_keeps | with_reducible apply losePort_keeps | with_reducible apply keeps_ite | with_reducible apply outKeeps_ite | with_reducible apply atUnit_keeps | dsimp only
theorem trainPort_keeps {T : Touch} {s0 : State} (p : ℕ) (s : State) (hk : Keeps T s0 s) (ht : T.links = true := by simp [*]) :
    Keeps T s0 (trainPort p s) := by
  unfold trainPort
  try dsimp only
  repeat' first | (with_reducible assumption) | (simp +contextual (maxDischargeDepth := 60) only [hk, modPort_keeps, ht]; done) | split | dsimp only
theorem setRetired_keeps {T : Touch} {s0 : State} (q : ℕ) (v : Bool) (s : State) (hk : Keeps T s0 s) (ht : T.boot = true := by simp [*]) :
    Keeps T s0 (setRetired q v s) := by
  unfold setRetired
  simp +contextual (maxDischargeDepth := 60) only [Nat.le_refl, hk, writeSettings_keeps, modBoot_keeps, ht]
theorem retireQuad_keeps {T : Touch} {s0 : State} (q : ℕ) (sq : ResetSeq) (s : State) (hk : Keeps T s0 s) (ht : T.regs = true ∧ T.chans = true ∧ T.cxl = true ∧ T.boot = true ∧ T.rcv = true := by simp [*]) :
    Keeps T s0 (retireQuad q sq s) := by
  unfold retireQuad
  try dsimp only
  repeat' first | (with_reducible assumption) | (simp +contextual (maxDischargeDepth := 60) only [hk, modDomain_keeps, setEv_keeps, logRec_keeps, ht, and_self]; done) | split | (with_reducible apply keeps_foldl) | (with_reducible apply keeps_foldl_fst) | (with_reducible apply keeps_foldl_snd) | (with_reducible apply keeps_foldl_snd2) | (intro _ _ _) | (intro _ _) | with_reducible apply modDomain_keeps | with_reducible apply setEv_keeps | with_reducible apply logRec_keeps | with_reducible apply modChan_keeps | with_reducible apply setRetired_keeps | with_reducible apply keeps_ite | with_reducible apply outKeeps_ite | with_reducible apply atUnit_keeps | dsimp only
theorem serveHomes_keeps {T : Touch} {s0 : State} (d : ℕ) (s : State) (hk : Keeps T s0 s) (ht : T.stackMap = true ∧ T.deeps = true := by simp [*]) :
    Keeps T s0 (serveHomes d s) := by
  unfold serveHomes
  try dsimp only
  repeat' first | (with_reducible assumption) | (simp +contextual (maxDischargeDepth := 60) only [ht]; done) | split | (with_reducible apply keeps_foldl) | (with_reducible apply keeps_foldl_fst) | (with_reducible apply keeps_foldl_snd) | (with_reducible apply keeps_foldl_snd2) | (intro _ _ _) | (intro _ _) | with_reducible apply modStack_keeps | with_reducible apply modDeep_keeps | with_reducible apply keeps_ite | with_reducible apply outKeeps_ite | with_reducible apply atUnit_keeps | dsimp only
theorem recoverChans_keeps {T : Touch} {s0 : State} (d : ℕ) (s : State) (hk : Keeps T s0 s) (ht : T.regs = true ∧ T.tillers = true ∧ T.stackMap = true ∧ T.deeps = true ∧ T.dram = true ∧ T.poison = true ∧ T.husk = true ∧ T.huskBad = true ∧ T.objs = true ∧ T.grans = true ∧ T.shareGroups = true ∧ T.used = true ∧ T.migs = true ∧ T.heldBy = true ∧ T.xlat = true ∧ T.chans = true ∧ T.links = true ∧ T.cxl = true ∧ T.boot = true ∧ T.rcv = true ∧ T.flights = true ∧ T.notices = true := by simp [*]) :
    Keeps T s0 (recoverChans d s) := by
  unfold recoverChans
  try dsimp only
  repeat' first | (with_reducible assumption) | (simp +contextual (maxDischargeDepth := 60) only [startRejoin_keeps, ht, and_self]; done) | split | (with_reducible apply keeps_foldl) | (with_reducible apply keeps_foldl_fst) | (with_reducible apply keeps_foldl_snd) | (with_reducible apply keeps_foldl_snd2) | (intro _ _ _) | (intro _ _) | with_reducible apply rollForward_keeps | with_reducible apply startRejoin_keeps | with_reducible apply keeps_ite | with_reducible apply outKeeps_ite | with_reducible apply atUnit_keeps | dsimp only
theorem railRecord_keeps {T : Touch} {s0 : State} (s : State) (hk : Keeps T s0 s) (ht : T.regs = true ∧ T.chans = true ∧ T.cxl = true ∧ T.power = true ∧ T.boot = true ∧ T.rcv = true := by simp [*]) :
    Keeps T s0 (railRecord s) := by
  unfold railRecord
  try dsimp only
  repeat' first | (with_reducible assumption) | (simp +contextual (maxDischargeDepth := 60) only [hk, modPower_keeps, logRec_keeps, setEv_keeps, ht, and_self]; done) | split | dsimp only
theorem deviceReady_keeps {T : Touch} {s0 : State} (s : State) (hk : Keeps T s0 s) (ht : T.boot = true ∧ T.rcv = true := by simp [*]) :
    Keeps T s0 (deviceReady s) := by
  unfold deviceReady
  try dsimp only
  repeat' first | (with_reducible assumption) | (simp +contextual (maxDischargeDepth := 60) only [Nat.le_refl, hk, modRcv_keeps, modBoot_keeps, writeDir_keeps, ht]; done) | split | dsimp only
theorem endSequence_keeps {T : Touch} {s0 : State} (d : ℕ) (q : ResetSeq) (s : State) (hk : Keeps T s0 s) (ht : T.regs = true ∧ T.tillers = true ∧ T.stackMap = true ∧ T.deeps = true ∧ T.dram = true ∧ T.poison = true ∧ T.husk = true ∧ T.huskBad = true ∧ T.objs = true ∧ T.grans = true ∧ T.shareGroups = true ∧ T.used = true ∧ T.migs = true ∧ T.heldBy = true ∧ T.xlat = true ∧ T.chans = true ∧ T.links = true ∧ T.cxl = true ∧ T.power = true ∧ T.boot = true ∧ T.rcv = true ∧ T.flights = true ∧ T.notices = true := by simp [*]) :
    Keeps T s0 (endSequence d q s) := by
  unfold endSequence
  try dsimp only
  repeat' first | (with_reducible assumption) | (simp +contextual (maxDischargeDepth := 60) only [Nat.le_refl, hk, modDomain_keeps, serveHomes_keeps, deviceReady_keeps, startSave_keeps, railRecord_keeps, logRec_keeps, modRcv_keeps, cntInc_keeps, setEv_keeps, recoverChans_keeps, ht, and_self]; done) | split | dsimp only
theorem quadTested_keeps {T : Touch} {s0 : State} (d : ℕ) (q : ResetSeq) (pass : Bool) (s : State) (hk : Keeps T s0 s) (ht : T.regs = true ∧ T.chans = true ∧ T.cxl = true ∧ T.boot = true ∧ T.rcv = true := by simp [*]) :
    Keeps T s0 (quadTested d q pass s) := by
  unfold quadTested
  try dsimp only
  repeat' first | (with_reducible assumption) | (simp +contextual (maxDischargeDepth := 60) only [hk, modDomain_keeps, retireQuad_keeps, setRetired_keeps, ht, and_self]; done) | split | dsimp only
theorem stepEnd_keeps {T : Touch} {s0 : State} (d : ℕ) (q : ResetSeq) (pass : Bool) (s : State) (hk : Keeps T s0 s) (ht : T.us = true ∧ T.freeCtr = true ∧ T.regs = true ∧ T.tillers = true ∧ T.stackMap = true ∧ T.deeps = true ∧ T.dram = true ∧ T.poison = true ∧ T.husk = true ∧ T.huskBad = true ∧ T.objs = true ∧ T.grans = true ∧ T.shareGroups = true ∧ T.used = true ∧ T.migs = true ∧ T.heldBy = true ∧ T.xlat = true ∧ T.mbxs = true ∧ T.chans = true ∧ T.links = true ∧ T.cxl = true ∧ T.power = true ∧ T.phys = true ∧ T.boot = true ∧ T.rcv = true ∧ T.flights = true ∧ T.notices = true ∧ T.smbOut = true := by simp [*]) :
    Keeps T s0 (stepEnd d q pass s) := by
  unfold stepEnd
  try dsimp only
  repeat' first | (with_reducible assumption) | (simp +contextual (maxDischargeDepth := 60) only [hk, modDomain_keeps, startSave_keeps, capture_keeps, drain_keeps, assertReset_keeps, trainPort_keeps, quadTested_keeps, endSequence_keeps, ht, and_self]; done) | split | (with_reducible apply keeps_foldl) | (with_reducible apply keeps_foldl_fst) | (with_reducible apply keeps_foldl_snd) | (with_reducible apply keeps_foldl_snd2) | (intro _ _ _) | (intro _ _) | with_reducible apply modDomain_keeps | with_reducible apply startSave_keeps | with_reducible apply capture_keeps | with_reducible apply drain_keeps | with_reducible apply assertReset_keeps | with_reducible apply trainPort_keeps | with_reducible apply quadTested_keeps | with_reducible apply endSequence_keeps | with_reducible apply keeps_ite | with_reducible apply outKeeps_ite | with_reducible apply atUnit_keeps | dsimp only
theorem execResetStepDone_keeps {T : Touch} {s0 : State} (code : ℕ) (pass : Bool) (s : State) (hk : Keeps T s0 s) (ht : T.us = true ∧ T.freeCtr = true ∧ T.regs = true ∧ T.tillers = true ∧ T.stackMap = true ∧ T.deeps = true ∧ T.dram = true ∧ T.poison = true ∧ T.husk = true ∧ T.huskBad = true ∧ T.objs = true ∧ T.grans = true ∧ T.shareGroups = true ∧ T.used = true ∧ T.migs = true ∧ T.heldBy = true ∧ T.xlat = true ∧ T.mbxs = true ∧ T.chans = true ∧ T.links = true ∧ T.cxl = true ∧ T.power = true ∧ T.phys = true ∧ T.boot = true ∧ T.rcv = true ∧ T.flights = true ∧ T.notices = true ∧ T.smbOut = true := by simp [*]) :
    OutKeeps T s0 (execResetStepDone code pass s) := by
  unfold execResetStepDone
  try dsimp only
  repeat' first | (with_reducible assumption) | (simp +contextual (maxDischargeDepth := 60) only [outKeeps_next, hk, modDomain_keeps, stepEnd_keeps, ht, and_self]; done) | split | dsimp only

end Sys2Proof.Machine
end

