-- ==== Sys2Proof/Laws/Keeps/Rings.lean ====
section
/-! SUPPORT. What each operation of Machine/Rings.lean keeps. -/

namespace Sys2Proof.Machine

open Sys2Proof

set_option Elab.async false
set_option linter.unusedTactic false
set_option linter.unreachableTactic false

theorem execMbxGo_keeps {T : Touch} {s0 : State} (m : ℕ) (w : Word) (s : State) (hk : Keeps T s0 s) (ht : T.regs = true ∧ T.mbxs = true ∧ T.chans = true ∧ T.cxl = true := by simp [*]) :
    OutKeeps T s0 (execMbxGo m w s) := by
  unfold execMbxGo
  try dsimp only
  repeat' first | (with_reducible assumption) | (simp +contextual (maxDischargeDepth := 60) only [ht, and_self]; done) | split | (with_reducible apply keeps_foldl) | (with_reducible apply keeps_foldl_fst) | (with_reducible apply keeps_foldl_snd) | (with_reducible apply keeps_foldl_snd2) | (intro _ _ _) | (intro _ _) | with_reducible apply onlyIf_keeps | with_reducible apply setEv_keeps | with_reducible apply cntInc_keeps | with_reducible apply modMbx_keeps | with_reducible apply keeps_ite | with_reducible apply outKeeps_ite | with_reducible apply atUnit_keeps | dsimp only
theorem execMbxResultRecord_keeps {T : Touch} {s0 : State} (m : ℕ) (s : State) (hk : Keeps T s0 s) (ht : T.regs = true ∧ T.mbxs = true ∧ T.chans = true ∧ T.cxl = true ∧ T.boot = true := by simp [*]) :
    OutKeeps T s0 (execMbxResultRecord m s) := by
  unfold execMbxResultRecord
  try dsimp only
  repeat' first | (with_reducible assumption) | (simp +contextual (maxDischargeDepth := 60) only [atUnit_keeps, outKeeps_next, hk, modMbx_keeps, sweepKeys_keeps, resetBlock_keeps, setChan_keeps, mbxIrq_keeps, ht]; done) | split | dsimp only
theorem execDbCmdTail_keeps {T : Touch} {s0 : State} (c : ℕ) (w : Word) (s : State) (hk : Keeps T s0 s) (ht : T.regs = true ∧ T.chans = true ∧ T.cxl = true := by simp [*]) :
    OutKeeps T s0 (execDbCmdTail c w s) := by
  unfold execDbCmdTail
  try dsimp only
  repeat' first | (with_reducible assumption) | (simp +contextual (maxDischargeDepth := 60) only [ht]; done) | split | (with_reducible apply keeps_foldl) | (with_reducible apply keeps_foldl_fst) | (with_reducible apply keeps_foldl_snd) | (with_reducible apply keeps_foldl_snd2) | (intro _ _ _) | (intro _ _) | with_reducible apply onlyIf_keeps | with_reducible apply oweKind_keeps | with_reducible apply setEv_keeps | with_reducible apply modChan_keeps | with_reducible apply keeps_ite | with_reducible apply outKeeps_ite | with_reducible apply atUnit_keeps | dsimp only
theorem execDbTokenRelease_keeps {T : Touch} {s0 : State} (c : ℕ) (w : Word) (s : State) (hk : Keeps T s0 s) (ht : T.regs = true ∧ T.chans = true ∧ T.cxl = true := by simp [*]) :
    OutKeeps T s0 (execDbTokenRelease c w s) := by
  unfold execDbTokenRelease
  try dsimp only
  repeat' first | (with_reducible assumption) | (simp +contextual (maxDischargeDepth := 60) only [ht]; done) | split | (with_reducible apply keeps_foldl) | (with_reducible apply keeps_foldl_fst) | (with_reducible apply keeps_foldl_snd) | (with_reducible apply keeps_foldl_snd2) | (intro _ _ _) | (intro _ _) | with_reducible apply onlyIf_keeps | with_reducible apply modRings_keeps | with_reducible apply setEv_keeps | with_reducible apply keeps_ite | with_reducible apply outKeeps_ite | with_reducible apply atUnit_keeps | dsimp only
theorem execDbCplHead_keeps {T : Touch} {s0 : State} (c : ℕ) (w : Word) (s : State) (hk : Keeps T s0 s) (ht : T.chans = true := by simp [*]) :
    OutKeeps T s0 (execDbCplHead c w s) := by
  unfold execDbCplHead
  try dsimp only
  repeat' first | (with_reducible assumption) | (simp +contextual (maxDischargeDepth := 60) only [modRings_keeps, ht]; done) | split | (with_reducible apply keeps_foldl) | (with_reducible apply keeps_foldl_fst) | (with_reducible apply keeps_foldl_snd) | (with_reducible apply keeps_foldl_snd2) | (intro _ _ _) | (intro _ _) | with_reducible apply onlyIf_keeps | with_reducible apply modRings_keeps | with_reducible apply keeps_ite | with_reducible apply outKeeps_ite | with_reducible apply atUnit_keeps | dsimp only
theorem acceptEntry_keeps {T : Touch} {s0 : State} (c : ℕ) (e : Entry) (s : State) (hk : Keeps T s0 s) (ht : T.regs = true ∧ T.chans = true ∧ T.cxl = true := by simp [*]) :
    Keeps T s0 (acceptEntry c e s) := by
  unfold acceptEntry
  try dsimp only
  repeat' first | (with_reducible assumption) | (simp +contextual (maxDischargeDepth := 60) only [hk, modChanRcv_keeps, modRings_keeps, ringFinish_keeps, modTrn_keeps, ht, and_self]; done) | split | dsimp only
theorem acceptAll_keeps {T : Touch} {s0 : State} (c : Nat) (es : List Entry) (s : State) (hk : Keeps T s0 s) (ht : T.regs = true ∧ T.chans = true ∧ T.cxl = true := by simp [*]) : Keeps T s0 (acceptAll c es s) := by
  induction es generalizing s with
  | nil => exact hk
  | cons e r ih =>
    unfold acceptAll
    extract_lets g
    split
    · exact hk
    · split
      · exact ih _ (acceptEntry_keeps _ _ _ hk)
      · exact modRings_keeps _ _ _ hk
theorem execRingFetch_keeps {T : Touch} {s0 : State} (c : ℕ) (es : List Entry) (s : State) (hk : Keeps T s0 s) (ht : T.regs = true ∧ T.chans = true ∧ T.cxl = true := by simp [*]) :
    OutKeeps T s0 (execRingFetch c es s) := atUnit_keeps (onlyIf_keeps _ _ _ hk fun _ ht => acceptAll_keeps _ _ _ ht)
theorem execStaleReread_keeps {T : Touch} {s0 : State} (c : ℕ) (e : Entry) (s : State) (hk : Keeps T s0 s) (ht : T.regs = true ∧ T.chans = true ∧ T.cxl = true := by simp [*]) :
    OutKeeps T s0 (execStaleReread c e s) := by
  unfold execStaleReread
  try dsimp only
  repeat' first | (with_reducible assumption) | (simp +contextual (maxDischargeDepth := 60) only [ht]; done) | split | (with_reducible apply keeps_foldl) | (with_reducible apply keeps_foldl_fst) | (with_reducible apply keeps_foldl_snd) | (with_reducible apply keeps_foldl_snd2) | (intro _ _ _) | (intro _ _) | with_reducible apply onlyIf_keeps | with_reducible apply cntInc_keeps | with_reducible apply acceptEntry_keeps | with_reducible apply modRings_keeps | with_reducible apply modChan_keeps | with_reducible apply setEv_keeps | with_reducible apply owe_keeps | with_reducible apply keeps_ite | with_reducible apply outKeeps_ite | with_reducible apply atUnit_keeps | dsimp only
theorem recordWritten_keeps {T : Touch} {s0 : State} (c : ℕ) (o : CplOwed) (s : State) (hk : Keeps T s0 s) (ht : T.regs = true ∧ T.tillers = true ∧ T.stackMap = true ∧ T.deeps = true ∧ T.objs = true ∧ T.grans = true ∧ T.shareGroups = true ∧ T.used = true ∧ T.migs = true ∧ T.heldBy = true ∧ T.chans = true ∧ T.links = true ∧ T.cxl = true ∧ T.boot = true ∧ T.rcv = true ∧ T.flights = true := by simp [*]) :
    Keeps T s0 (recordWritten c o s) := by
  unfold recordWritten
  try dsimp only
  repeat' first | (with_reducible assumption) | (simp +contextual (maxDischargeDepth := 60) only [hk, cntInc_keeps, modRings_keeps, failMarks_keeps, ht, and_self]; done) | split | dsimp only
theorem execCplRecordWrite_keeps {T : Touch} {s0 : State} (c : ℕ) (s : State) (hk : Keeps T s0 s) (ht : T.regs = true ∧ T.tillers = true ∧ T.stackMap = true ∧ T.deeps = true ∧ T.dram = true ∧ T.poison = true ∧ T.husk = true ∧ T.huskBad = true ∧ T.objs = true ∧ T.grans = true ∧ T.shareGroups = true ∧ T.used = true ∧ T.migs = true ∧ T.heldBy = true ∧ T.xlat = true ∧ T.chans = true ∧ T.links = true ∧ T.cxl = true ∧ T.boot = true ∧ T.rcv = true ∧ T.flights = true ∧ T.notices = true := by simp [*]) :
    OutKeeps T s0 (execCplRecordWrite c s) := by
  unfold execCplRecordWrite
  try dsimp only
  repeat' first | (with_reducible assumption) | (simp +contextual (maxDischargeDepth := 60) only [atUnit_keeps, outKeeps_next, hk, objStore_keeps, modChan_keeps, recordWritten_keeps, setEv_keeps, modRings_keeps, daWrite_keeps, sendMsi_keeps, hostWrite_keeps, ht, and_self]; done) | split | dsimp only
theorem execMsixCoalesceTimer_keeps {T : Touch} {s0 : State} (c : ℕ) (s : State) (hk : Keeps T s0 s) (ht : T.chans = true ∧ T.cxl = true := by simp [*]) :
    OutKeeps T s0 (execMsixCoalesceTimer c s) := by
  unfold execMsixCoalesceTimer
  try dsimp only
  repeat' first | (with_reducible assumption) | (simp +contextual (maxDischargeDepth := 60) only [ht]; done) | split | (with_reducible apply keeps_foldl) | (with_reducible apply keeps_foldl_fst) | (with_reducible apply keeps_foldl_snd) | (with_reducible apply keeps_foldl_snd2) | (intro _ _ _) | (intro _ _) | with_reducible apply onlyIf_keeps | with_reducible apply modRings_keeps | with_reducible apply sendMsi_keeps | with_reducible apply keeps_ite | with_reducible apply outKeeps_ite | with_reducible apply atUnit_keeps | dsimp only
theorem execChnRcvResume_keeps {T : Touch} {s0 : State} (c : ℕ) (w : Word) (s : State) (hk : Keeps T s0 s) (ht : T.chans = true := by simp [*]) :
    OutKeeps T s0 (execChnRcvResume c w s) := by
  unfold execChnRcvResume
  try dsimp only
  repeat' first | (with_reducible assumption) | (simp +contextual (maxDischargeDepth := 60) only [atUnit_keeps, keeps_freeCtr, Nat.le_refl, keeps_ite, outKeeps_ite, outKeeps_next, outKeeps_fault, keeps_foldl, keeps_foldl_fst, keeps_foldl_snd, keeps_foldl_snd2, hk, onlyIf_keeps, modChanRcv_keeps, ht, and_self]; done) | split | (with_reducible apply keeps_foldl) | (with_reducible apply keeps_foldl_fst) | (with_reducible apply keeps_foldl_snd) | (with_reducible apply keeps_foldl_snd2) | (intro _ _ _) | (intro _ _) | with_reducible apply onlyIf_keeps | with_reducible apply modChanRcv_keeps | with_reducible apply keeps_ite | with_reducible apply outKeeps_ite | with_reducible apply atUnit_keeps | dsimp only

end Sys2Proof.Machine
end

