-- ==== Sys2Proof/Laws/Keeps/Vector.lean ====
section
/-! SUPPORT. What each operation of Machine/Vector.lean keeps. -/

namespace Sys2Proof.Machine

open Sys2Proof

set_option Elab.async false
set_option linter.unusedTactic false
set_option linter.unreachableTactic false

theorem vectorIssue_keeps {T : Touch} {s0 : State} (op : ℕ) (t : ℕ) (w : Word) (s : State) (hk : Keeps T s0 s) (ht : T.freeCtr = true ∧ T.regs = true ∧ T.tillers = true ∧ T.stackMap = true ∧ T.deeps = true ∧ T.objs = true ∧ T.grans = true ∧ T.shareGroups = true ∧ T.used = true ∧ T.migs = true ∧ T.heldBy = true ∧ T.chans = true ∧ T.links = true ∧ T.cxl = true ∧ T.boot = true ∧ T.rcv = true ∧ T.flights = true := by simp [*]) :
    OutKeeps T s0 (vectorIssue op t w s) := by
  unfold vectorIssue
  try dsimp only
  repeat' first | (with_reducible assumption) | (simp +contextual (maxDischargeDepth := 60) only [ht, and_self]; done) | split | (with_reducible apply keeps_foldl) | (with_reducible apply keeps_foldl_fst) | (with_reducible apply keeps_foldl_snd) | (with_reducible apply keeps_foldl_snd2) | (intro _ _ _) | (intro _ _) | with_reducible apply onlyIf_keeps | with_reducible apply faultAt_keeps | with_reducible apply waitAt_keeps | with_reducible apply modTiller_keeps | with_reducible apply issued_keeps | with_reducible apply modCtx_keeps | with_reducible apply keeps_ite | with_reducible apply outKeeps_ite | with_reducible apply atUnit_keeps | dsimp only
theorem forgetV_keeps {T : Touch} {s0 : State} (t : ℕ) (s : State) (hk : Keeps T s0 s) (ht : T.freeCtr = true ∧ T.tillers = true := by simp [*]) :
    Keeps T s0 (forgetV t s) := by
  unfold forgetV
  simp +contextual (maxDischargeDepth := 60) only [keeps_freeCtr, hk, modTiller_keeps, ht]
theorem leaveQueue_keeps {T : Touch} {s0 : State} (t : ℕ) (e : VqEntry) (g : Cfg) (s : State) (hk : Keeps T s0 s) (ht : T.freeCtr = true ∧ T.regs = true ∧ T.tillers = true ∧ T.chans = true ∧ T.cxl = true ∧ T.boot = true ∧ T.rcv = true := by simp [*]) :
    Keeps T s0 (leaveQueue t e g s) := by
  unfold leaveQueue
  try dsimp only
  repeat' first | (with_reducible assumption) | (simp +contextual (maxDischargeDepth := 60) only [hk, modTiller_keeps, winnow_keeps, forgetV_keeps, ht, and_self]; done) | split | dsimp only
theorem writeResults_keeps {T : Touch} {s0 : State} (t : Nat) (e : VqEntry) (g : Cfg) (j : Nat) (xs : List F32) (s : State) (hk : Keeps T s0 s) (ht : T.tillers = true := by simp [*]) :
    Keeps T s0 (writeResults t e g j xs s).s := by
  unfold writeResults
  extract_lets
  split
  · exact vRegWrite_keeps _ _ _ _ _ _ hk
  · split
    · split
      · exact hk
      · extract_lets
        split
        · exact tsWrite_keeps _ _ _ _ (tsWrite_keeps _ _ _ _ hk)
        · exact tsWrite_keeps _ _ _ _ hk
    · dsimp only
      exact modTiller_keeps _ _ _ hk
theorem beat_keeps {T : Touch} {s0 : State} (t : ℕ) (e : VqEntry) (s : State) (hk : Keeps T s0 s) (ht : T.freeCtr = true ∧ T.regs = true ∧ T.tillers = true ∧ T.chans = true ∧ T.cxl = true ∧ T.boot = true ∧ T.rcv = true := by simp [*]) :
    Keeps T s0 (beat t e s) := by
  unfold beat
  extract_lets w op n L j m g t1 a last again lanes old t2 xs1 r1 b c xs t3 r
  have h1 : Keeps T s0 t1 := cntInc_keeps _ _ _ hk
  clear_value t1
  have ha : Keeps T s0 a.2 := operand_keeps _ _ _ _ _ _ _ _ h1
  clear_value a
  have hg : ∀ e' u, Keeps T s0 u → Keeps T s0 (again e' u) := by
    intro e' u hu
    unfold again
    split
    · exact leaveQueue_keeps _ _ _ _ hu
    · exact modTiller_keeps _ _ _ hu
  clear_value again
  have h2 : Keeps T s0 t2 := by
    unfold t2
    split
    · exact writeResults_keeps _ _ _ _ _ _ ha
    · exact ha
  clear_value t2
  have hr1 : Keeps T s0 r1.s := writeResults_keeps _ _ _ _ _ _ ha
  clear_value r1
  have hb : Keeps T s0 b.2 := by
    unfold b
    split
    · exact operand_keeps _ _ _ _ _ _ _ _ ha
    · exact ha
  clear_value b
  have hc : Keeps T s0 c.2 := by
    unfold c
    split
    · exact operand_keeps _ _ _ _ _ _ _ _ hb
    · exact hb
  clear_value c
  have hr : Keeps T s0 r.s := writeResults_keeps _ _ _ _ _ _ (domainFlag_keeps _ _ _ _ hc)
  clear_value r
  split
  · exact hg _ _ h2
  · split
    · exact hg _ _ (satFlags_keeps _ _ _ (vectorFlags_keeps _ _ _ _ hr1))
    · exact hg _ _ (satFlags_keeps _ _ _ (vectorFlags_keeps _ _ _ _ hr))
theorem execVectorBeat_keeps {T : Touch} {s0 : State} (t : ℕ) (s : State) (hk : Keeps T s0 s) (ht : T.freeCtr = true ∧ T.regs = true ∧ T.tillers = true ∧ T.chans = true ∧ T.cxl = true ∧ T.boot = true ∧ T.rcv = true := by simp [*]) :
    OutKeeps T s0 (execVectorBeat t s) := by
  unfold execVectorBeat
  try dsimp only
  repeat' first | (with_reducible assumption) | (simp +contextual (maxDischargeDepth := 60) only [atUnit_keeps, outKeeps_next, hk, beat_keeps, ht, and_self]; done) | split | dsimp only
theorem execVadd_keeps {T : Touch} {s0 : State} (t : ℕ) (w : Word) (s : State) (hk : Keeps T s0 s) (ht : T.freeCtr = true ∧ T.regs = true ∧ T.tillers = true ∧ T.stackMap = true ∧ T.deeps = true ∧ T.objs = true ∧ T.grans = true ∧ T.shareGroups = true ∧ T.used = true ∧ T.migs = true ∧ T.heldBy = true ∧ T.chans = true ∧ T.links = true ∧ T.cxl = true ∧ T.boot = true ∧ T.rcv = true ∧ T.flights = true := by simp [*]) :
    OutKeeps T s0 (execVadd t w s) := by
  unfold execVadd
  simp +contextual (maxDischargeDepth := 60) only [hk, vectorIssue_keeps, ht, and_self]
theorem execVsub_keeps {T : Touch} {s0 : State} (t : ℕ) (w : Word) (s : State) (hk : Keeps T s0 s) (ht : T.freeCtr = true ∧ T.regs = true ∧ T.tillers = true ∧ T.stackMap = true ∧ T.deeps = true ∧ T.objs = true ∧ T.grans = true ∧ T.shareGroups = true ∧ T.used = true ∧ T.migs = true ∧ T.heldBy = true ∧ T.chans = true ∧ T.links = true ∧ T.cxl = true ∧ T.boot = true ∧ T.rcv = true ∧ T.flights = true := by simp [*]) :
    OutKeeps T s0 (execVsub t w s) := by
  unfold execVsub
  simp +contextual (maxDischargeDepth := 60) only [hk, vectorIssue_keeps, ht, and_self]
theorem execVmul_keeps {T : Touch} {s0 : State} (t : ℕ) (w : Word) (s : State) (hk : Keeps T s0 s) (ht : T.freeCtr = true ∧ T.regs = true ∧ T.tillers = true ∧ T.stackMap = true ∧ T.deeps = true ∧ T.objs = true ∧ T.grans = true ∧ T.shareGroups = true ∧ T.used = true ∧ T.migs = true ∧ T.heldBy = true ∧ T.chans = true ∧ T.links = true ∧ T.cxl = true ∧ T.boot = true ∧ T.rcv = true ∧ T.flights = true := by simp [*]) :
    OutKeeps T s0 (execVmul t w s) := by
  unfold execVmul
  simp +contextual (maxDischargeDepth := 60) only [hk, vectorIssue_keeps, ht, and_self]
theorem execVfma_keeps {T : Touch} {s0 : State} (t : ℕ) (w : Word) (s : State) (hk : Keeps T s0 s) (ht : T.freeCtr = true ∧ T.regs = true ∧ T.tillers = true ∧ T.stackMap = true ∧ T.deeps = true ∧ T.objs = true ∧ T.grans = true ∧ T.shareGroups = true ∧ T.used = true ∧ T.migs = true ∧ T.heldBy = true ∧ T.chans = true ∧ T.links = true ∧ T.cxl = true ∧ T.boot = true ∧ T.rcv = true ∧ T.flights = true := by simp [*]) :
    OutKeeps T s0 (execVfma t w s) := by
  unfold execVfma
  simp +contextual (maxDischargeDepth := 60) only [hk, vectorIssue_keeps, ht, and_self]
theorem execVmax_keeps {T : Touch} {s0 : State} (t : ℕ) (w : Word) (s : State) (hk : Keeps T s0 s) (ht : T.freeCtr = true ∧ T.regs = true ∧ T.tillers = true ∧ T.stackMap = true ∧ T.deeps = true ∧ T.objs = true ∧ T.grans = true ∧ T.shareGroups = true ∧ T.used = true ∧ T.migs = true ∧ T.heldBy = true ∧ T.chans = true ∧ T.links = true ∧ T.cxl = true ∧ T.boot = true ∧ T.rcv = true ∧ T.flights = true := by simp [*]) :
    OutKeeps T s0 (execVmax t w s) := by
  unfold execVmax
  simp +contextual (maxDischargeDepth := 60) only [hk, vectorIssue_keeps, ht, and_self]
theorem execVmin_keeps {T : Touch} {s0 : State} (t : ℕ) (w : Word) (s : State) (hk : Keeps T s0 s) (ht : T.freeCtr = true ∧ T.regs = true ∧ T.tillers = true ∧ T.stackMap = true ∧ T.deeps = true ∧ T.objs = true ∧ T.grans = true ∧ T.shareGroups = true ∧ T.used = true ∧ T.migs = true ∧ T.heldBy = true ∧ T.chans = true ∧ T.links = true ∧ T.cxl = true ∧ T.boot = true ∧ T.rcv = true ∧ T.flights = true := by simp [*]) :
    OutKeeps T s0 (execVmin t w s) := by
  unfold execVmin
  simp +contextual (maxDischargeDepth := 60) only [hk, vectorIssue_keeps, ht, and_self]
theorem execVabs_keeps {T : Touch} {s0 : State} (t : ℕ) (w : Word) (s : State) (hk : Keeps T s0 s) (ht : T.freeCtr = true ∧ T.regs = true ∧ T.tillers = true ∧ T.stackMap = true ∧ T.deeps = true ∧ T.objs = true ∧ T.grans = true ∧ T.shareGroups = true ∧ T.used = true ∧ T.migs = true ∧ T.heldBy = true ∧ T.chans = true ∧ T.links = true ∧ T.cxl = true ∧ T.boot = true ∧ T.rcv = true ∧ T.flights = true := by simp [*]) :
    OutKeeps T s0 (execVabs t w s) := by
  unfold execVabs
  simp +contextual (maxDischargeDepth := 60) only [hk, vectorIssue_keeps, ht, and_self]
theorem execVneg_keeps {T : Touch} {s0 : State} (t : ℕ) (w : Word) (s : State) (hk : Keeps T s0 s) (ht : T.freeCtr = true ∧ T.regs = true ∧ T.tillers = true ∧ T.stackMap = true ∧ T.deeps = true ∧ T.objs = true ∧ T.grans = true ∧ T.shareGroups = true ∧ T.used = true ∧ T.migs = true ∧ T.heldBy = true ∧ T.chans = true ∧ T.links = true ∧ T.cxl = true ∧ T.boot = true ∧ T.rcv = true ∧ T.flights = true := by simp [*]) :
    OutKeeps T s0 (execVneg t w s) := by
  unfold execVneg
  simp +contextual (maxDischargeDepth := 60) only [hk, vectorIssue_keeps, ht, and_self]
theorem execVcmp_keeps {T : Touch} {s0 : State} (t : ℕ) (w : Word) (s : State) (hk : Keeps T s0 s) (ht : T.freeCtr = true ∧ T.regs = true ∧ T.tillers = true ∧ T.stackMap = true ∧ T.deeps = true ∧ T.objs = true ∧ T.grans = true ∧ T.shareGroups = true ∧ T.used = true ∧ T.migs = true ∧ T.heldBy = true ∧ T.chans = true ∧ T.links = true ∧ T.cxl = true ∧ T.boot = true ∧ T.rcv = true ∧ T.flights = true := by simp [*]) :
    OutKeeps T s0 (execVcmp t w s) := by
  unfold execVcmp
  simp +contextual (maxDischargeDepth := 60) only [hk, vectorIssue_keeps, ht, and_self]
theorem execVsel_keeps {T : Touch} {s0 : State} (t : ℕ) (w : Word) (s : State) (hk : Keeps T s0 s) (ht : T.freeCtr = true ∧ T.regs = true ∧ T.tillers = true ∧ T.stackMap = true ∧ T.deeps = true ∧ T.objs = true ∧ T.grans = true ∧ T.shareGroups = true ∧ T.used = true ∧ T.migs = true ∧ T.heldBy = true ∧ T.chans = true ∧ T.links = true ∧ T.cxl = true ∧ T.boot = true ∧ T.rcv = true ∧ T.flights = true := by simp [*]) :
    OutKeeps T s0 (execVsel t w s) := by
  unfold execVsel
  simp +contextual (maxDischargeDepth := 60) only [hk, vectorIssue_keeps, ht, and_self]
theorem execVcpy_keeps {T : Touch} {s0 : State} (t : ℕ) (w : Word) (s : State) (hk : Keeps T s0 s) (ht : T.freeCtr = true ∧ T.regs = true ∧ T.tillers = true ∧ T.stackMap = true ∧ T.deeps = true ∧ T.objs = true ∧ T.grans = true ∧ T.shareGroups = true ∧ T.used = true ∧ T.migs = true ∧ T.heldBy = true ∧ T.chans = true ∧ T.links = true ∧ T.cxl = true ∧ T.boot = true ∧ T.rcv = true ∧ T.flights = true := by simp [*]) :
    OutKeeps T s0 (execVcpy t w s) := by
  unfold execVcpy
  simp +contextual (maxDischargeDepth := 60) only [hk, vectorIssue_keeps, ht, and_self]
theorem execVexp2_keeps {T : Touch} {s0 : State} (t : ℕ) (w : Word) (s : State) (hk : Keeps T s0 s) (ht : T.freeCtr = true ∧ T.regs = true ∧ T.tillers = true ∧ T.stackMap = true ∧ T.deeps = true ∧ T.objs = true ∧ T.grans = true ∧ T.shareGroups = true ∧ T.used = true ∧ T.migs = true ∧ T.heldBy = true ∧ T.chans = true ∧ T.links = true ∧ T.cxl = true ∧ T.boot = true ∧ T.rcv = true ∧ T.flights = true := by simp [*]) :
    OutKeeps T s0 (execVexp2 t w s) := by
  unfold execVexp2
  simp +contextual (maxDischargeDepth := 60) only [hk, vectorIssue_keeps, ht, and_self]
theorem execVexp_keeps {T : Touch} {s0 : State} (t : ℕ) (w : Word) (s : State) (hk : Keeps T s0 s) (ht : T.freeCtr = true ∧ T.regs = true ∧ T.tillers = true ∧ T.stackMap = true ∧ T.deeps = true ∧ T.objs = true ∧ T.grans = true ∧ T.shareGroups = true ∧ T.used = true ∧ T.migs = true ∧ T.heldBy = true ∧ T.chans = true ∧ T.links = true ∧ T.cxl = true ∧ T.boot = true ∧ T.rcv = true ∧ T.flights = true := by simp [*]) :
    OutKeeps T s0 (execVexp t w s) := by
  unfold execVexp
  simp +contextual (maxDischargeDepth := 60) only [hk, vectorIssue_keeps, ht, and_self]
theorem execVlog2_keeps {T : Touch} {s0 : State} (t : ℕ) (w : Word) (s : State) (hk : Keeps T s0 s) (ht : T.freeCtr = true ∧ T.regs = true ∧ T.tillers = true ∧ T.stackMap = true ∧ T.deeps = true ∧ T.objs = true ∧ T.grans = true ∧ T.shareGroups = true ∧ T.used = true ∧ T.migs = true ∧ T.heldBy = true ∧ T.chans = true ∧ T.links = true ∧ T.cxl = true ∧ T.boot = true ∧ T.rcv = true ∧ T.flights = true := by simp [*]) :
    OutKeeps T s0 (execVlog2 t w s) := by
  unfold execVlog2
  simp +contextual (maxDischargeDepth := 60) only [hk, vectorIssue_keeps, ht, and_self]
theorem execVrcp_keeps {T : Touch} {s0 : State} (t : ℕ) (w : Word) (s : State) (hk : Keeps T s0 s) (ht : T.freeCtr = true ∧ T.regs = true ∧ T.tillers = true ∧ T.stackMap = true ∧ T.deeps = true ∧ T.objs = true ∧ T.grans = true ∧ T.shareGroups = true ∧ T.used = true ∧ T.migs = true ∧ T.heldBy = true ∧ T.chans = true ∧ T.links = true ∧ T.cxl = true ∧ T.boot = true ∧ T.rcv = true ∧ T.flights = true := by simp [*]) :
    OutKeeps T s0 (execVrcp t w s) := by
  unfold execVrcp
  simp +contextual (maxDischargeDepth := 60) only [hk, vectorIssue_keeps, ht, and_self]
theorem execVrsqrt_keeps {T : Touch} {s0 : State} (t : ℕ) (w : Word) (s : State) (hk : Keeps T s0 s) (ht : T.freeCtr = true ∧ T.regs = true ∧ T.tillers = true ∧ T.stackMap = true ∧ T.deeps = true ∧ T.objs = true ∧ T.grans = true ∧ T.shareGroups = true ∧ T.used = true ∧ T.migs = true ∧ T.heldBy = true ∧ T.chans = true ∧ T.links = true ∧ T.cxl = true ∧ T.boot = true ∧ T.rcv = true ∧ T.flights = true := by simp [*]) :
    OutKeeps T s0 (execVrsqrt t w s) := by
  unfold execVrsqrt
  simp +contextual (maxDischargeDepth := 60) only [hk, vectorIssue_keeps, ht, and_self]
theorem execVsqrt_keeps {T : Touch} {s0 : State} (t : ℕ) (w : Word) (s : State) (hk : Keeps T s0 s) (ht : T.freeCtr = true ∧ T.regs = true ∧ T.tillers = true ∧ T.stackMap = true ∧ T.deeps = true ∧ T.objs = true ∧ T.grans = true ∧ T.shareGroups = true ∧ T.used = true ∧ T.migs = true ∧ T.heldBy = true ∧ T.chans = true ∧ T.links = true ∧ T.cxl = true ∧ T.boot = true ∧ T.rcv = true ∧ T.flights = true := by simp [*]) :
    OutKeeps T s0 (execVsqrt t w s) := by
  unfold execVsqrt
  simp +contextual (maxDischargeDepth := 60) only [hk, vectorIssue_keeps, ht, and_self]
theorem execVtanh_keeps {T : Touch} {s0 : State} (t : ℕ) (w : Word) (s : State) (hk : Keeps T s0 s) (ht : T.freeCtr = true ∧ T.regs = true ∧ T.tillers = true ∧ T.stackMap = true ∧ T.deeps = true ∧ T.objs = true ∧ T.grans = true ∧ T.shareGroups = true ∧ T.used = true ∧ T.migs = true ∧ T.heldBy = true ∧ T.chans = true ∧ T.links = true ∧ T.cxl = true ∧ T.boot = true ∧ T.rcv = true ∧ T.flights = true := by simp [*]) :
    OutKeeps T s0 (execVtanh t w s) := by
  unfold execVtanh
  simp +contextual (maxDischargeDepth := 60) only [hk, vectorIssue_keeps, ht, and_self]
theorem execVsigm_keeps {T : Touch} {s0 : State} (t : ℕ) (w : Word) (s : State) (hk : Keeps T s0 s) (ht : T.freeCtr = true ∧ T.regs = true ∧ T.tillers = true ∧ T.stackMap = true ∧ T.deeps = true ∧ T.objs = true ∧ T.grans = true ∧ T.shareGroups = true ∧ T.used = true ∧ T.migs = true ∧ T.heldBy = true ∧ T.chans = true ∧ T.links = true ∧ T.cxl = true ∧ T.boot = true ∧ T.rcv = true ∧ T.flights = true := by simp [*]) :
    OutKeeps T s0 (execVsigm t w s) := by
  unfold execVsigm
  simp +contextual (maxDischargeDepth := 60) only [hk, vectorIssue_keeps, ht, and_self]
theorem execVerf_keeps {T : Touch} {s0 : State} (t : ℕ) (w : Word) (s : State) (hk : Keeps T s0 s) (ht : T.freeCtr = true ∧ T.regs = true ∧ T.tillers = true ∧ T.stackMap = true ∧ T.deeps = true ∧ T.objs = true ∧ T.grans = true ∧ T.shareGroups = true ∧ T.used = true ∧ T.migs = true ∧ T.heldBy = true ∧ T.chans = true ∧ T.links = true ∧ T.cxl = true ∧ T.boot = true ∧ T.rcv = true ∧ T.flights = true := by simp [*]) :
    OutKeeps T s0 (execVerf t w s) := by
  unfold execVerf
  simp +contextual (maxDischargeDepth := 60) only [hk, vectorIssue_keeps, ht, and_self]
theorem execRsum_keeps {T : Touch} {s0 : State} (t : ℕ) (w : Word) (s : State) (hk : Keeps T s0 s) (ht : T.freeCtr = true ∧ T.regs = true ∧ T.tillers = true ∧ T.stackMap = true ∧ T.deeps = true ∧ T.objs = true ∧ T.grans = true ∧ T.shareGroups = true ∧ T.used = true ∧ T.migs = true ∧ T.heldBy = true ∧ T.chans = true ∧ T.links = true ∧ T.cxl = true ∧ T.boot = true ∧ T.rcv = true ∧ T.flights = true := by simp [*]) :
    OutKeeps T s0 (execRsum t w s) := by
  unfold execRsum
  simp +contextual (maxDischargeDepth := 60) only [hk, vectorIssue_keeps, ht, and_self]
theorem execRssq_keeps {T : Touch} {s0 : State} (t : ℕ) (w : Word) (s : State) (hk : Keeps T s0 s) (ht : T.freeCtr = true ∧ T.regs = true ∧ T.tillers = true ∧ T.stackMap = true ∧ T.deeps = true ∧ T.objs = true ∧ T.grans = true ∧ T.shareGroups = true ∧ T.used = true ∧ T.migs = true ∧ T.heldBy = true ∧ T.chans = true ∧ T.links = true ∧ T.cxl = true ∧ T.boot = true ∧ T.rcv = true ∧ T.flights = true := by simp [*]) :
    OutKeeps T s0 (execRssq t w s) := by
  unfold execRssq
  simp +contextual (maxDischargeDepth := 60) only [hk, vectorIssue_keeps, ht, and_self]
theorem execRmax_keeps {T : Touch} {s0 : State} (t : ℕ) (w : Word) (s : State) (hk : Keeps T s0 s) (ht : T.freeCtr = true ∧ T.regs = true ∧ T.tillers = true ∧ T.stackMap = true ∧ T.deeps = true ∧ T.objs = true ∧ T.grans = true ∧ T.shareGroups = true ∧ T.used = true ∧ T.migs = true ∧ T.heldBy = true ∧ T.chans = true ∧ T.links = true ∧ T.cxl = true ∧ T.boot = true ∧ T.rcv = true ∧ T.flights = true := by simp [*]) :
    OutKeeps T s0 (execRmax t w s) := by
  unfold execRmax
  simp +contextual (maxDischargeDepth := 60) only [hk, vectorIssue_keeps, ht, and_self]
theorem execRmin_keeps {T : Touch} {s0 : State} (t : ℕ) (w : Word) (s : State) (hk : Keeps T s0 s) (ht : T.freeCtr = true ∧ T.regs = true ∧ T.tillers = true ∧ T.stackMap = true ∧ T.deeps = true ∧ T.objs = true ∧ T.grans = true ∧ T.shareGroups = true ∧ T.used = true ∧ T.migs = true ∧ T.heldBy = true ∧ T.chans = true ∧ T.links = true ∧ T.cxl = true ∧ T.boot = true ∧ T.rcv = true ∧ T.flights = true := by simp [*]) :
    OutKeeps T s0 (execRmin t w s) := by
  unfold execRmin
  simp +contextual (maxDischargeDepth := 60) only [hk, vectorIssue_keeps, ht, and_self]
theorem execRamax_keeps {T : Touch} {s0 : State} (t : ℕ) (w : Word) (s : State) (hk : Keeps T s0 s) (ht : T.freeCtr = true ∧ T.regs = true ∧ T.tillers = true ∧ T.stackMap = true ∧ T.deeps = true ∧ T.objs = true ∧ T.grans = true ∧ T.shareGroups = true ∧ T.used = true ∧ T.migs = true ∧ T.heldBy = true ∧ T.chans = true ∧ T.links = true ∧ T.cxl = true ∧ T.boot = true ∧ T.rcv = true ∧ T.flights = true := by simp [*]) :
    OutKeeps T s0 (execRamax t w s) := by
  unfold execRamax
  simp +contextual (maxDischargeDepth := 60) only [hk, vectorIssue_keeps, ht, and_self]
theorem execRrowsum_keeps {T : Touch} {s0 : State} (t : ℕ) (w : Word) (s : State) (hk : Keeps T s0 s) (ht : T.freeCtr = true ∧ T.regs = true ∧ T.tillers = true ∧ T.stackMap = true ∧ T.deeps = true ∧ T.objs = true ∧ T.grans = true ∧ T.shareGroups = true ∧ T.used = true ∧ T.migs = true ∧ T.heldBy = true ∧ T.chans = true ∧ T.links = true ∧ T.cxl = true ∧ T.boot = true ∧ T.rcv = true ∧ T.flights = true := by simp [*]) :
    OutKeeps T s0 (execRrowsum t w s) := by
  unfold execRrowsum
  simp +contextual (maxDischargeDepth := 60) only [hk, vectorIssue_keeps, ht, and_self]
theorem execRrowssq_keeps {T : Touch} {s0 : State} (t : ℕ) (w : Word) (s : State) (hk : Keeps T s0 s) (ht : T.freeCtr = true ∧ T.regs = true ∧ T.tillers = true ∧ T.stackMap = true ∧ T.deeps = true ∧ T.objs = true ∧ T.grans = true ∧ T.shareGroups = true ∧ T.used = true ∧ T.migs = true ∧ T.heldBy = true ∧ T.chans = true ∧ T.links = true ∧ T.cxl = true ∧ T.boot = true ∧ T.rcv = true ∧ T.flights = true := by simp [*]) :
    OutKeeps T s0 (execRrowssq t w s) := by
  unfold execRrowssq
  simp +contextual (maxDischargeDepth := 60) only [hk, vectorIssue_keeps, ht, and_self]
theorem execRrowmax_keeps {T : Touch} {s0 : State} (t : ℕ) (w : Word) (s : State) (hk : Keeps T s0 s) (ht : T.freeCtr = true ∧ T.regs = true ∧ T.tillers = true ∧ T.stackMap = true ∧ T.deeps = true ∧ T.objs = true ∧ T.grans = true ∧ T.shareGroups = true ∧ T.used = true ∧ T.migs = true ∧ T.heldBy = true ∧ T.chans = true ∧ T.links = true ∧ T.cxl = true ∧ T.boot = true ∧ T.rcv = true ∧ T.flights = true := by simp [*]) :
    OutKeeps T s0 (execRrowmax t w s) := by
  unfold execRrowmax
  simp +contextual (maxDischargeDepth := 60) only [hk, vectorIssue_keeps, ht, and_self]

end Sys2Proof.Machine
end

