-- ==== Sys2Proof/Laws/Keeps/Dispatch.lean ====
section
/-! SUPPORT. What every command keeps, one case per command, each by the lemma of its meaning. -/

namespace Sys2Proof.Machine

open Sys2Proof

/-- What the effect of a command keeps, with the parts that frameOf names for it. -/
theorem exec_keeps (i : Instr) (s : State) : OutKeeps (frameOf i) s (exec i s) := by
  cases i with
  | chanCreate src e => exact execChanCreate_keeps src e s (Keeps.refl _ _) ⟨rfl, rfl, rfl, rfl, rfl, rfl, rfl, rfl, rfl, rfl, rfl, rfl, rfl, rfl, rfl⟩
  | chanDestroy src e => exact execChanDestroy_keeps src e s (Keeps.refl _ _) ⟨rfl, rfl, rfl, rfl, rfl, rfl, rfl, rfl, rfl, rfl, rfl, rfl, rfl, rfl, rfl, rfl⟩
  | chanGrant src e => exact execChanGrant_keeps src e s (Keeps.refl _ _) ⟨rfl, rfl, rfl, rfl, rfl⟩
  | chanFence src e => exact execChanFence_keeps src e s (Keeps.refl _ _) ⟨rfl, rfl, rfl, rfl, rfl, rfl, rfl, rfl, rfl, rfl, rfl, rfl, rfl, rfl, rfl, rfl, rfl, rfl⟩
  | chanUnfence src e => exact execChanUnfence_keeps src e s (Keeps.refl _ _) ⟨rfl, rfl, rfl, rfl, rfl⟩
  | chanReattach src e => exact execChanReattach_keeps src e s (Keeps.refl _ _) ⟨rfl, rfl, rfl, rfl, rfl, rfl⟩
  | ringSet src e => exact execRingSet_keeps src e s (Keeps.refl _ _) ⟨rfl, rfl, rfl, rfl, rfl⟩
  | hostWindowSet src e => exact execHostWindowSet_keeps src e s (Keeps.refl _ _) ⟨rfl, rfl, rfl, rfl, rfl⟩
  | chanQuery src e => exact execChanQuery_keeps src e s (Keeps.refl _ _) ⟨rfl, rfl, rfl, rfl, rfl⟩
  | torusSet src e => exact execTorusSet_keeps src e s (Keeps.refl _ _) ⟨rfl, rfl, rfl, rfl, rfl, rfl, rfl, rfl⟩
  | routeSet src e => exact execRouteSet_keeps src e s (Keeps.refl _ _) ⟨rfl, rfl, rfl, rfl, rfl, rfl, rfl, rfl, rfl, rfl, rfl, rfl⟩
  | tokenHold src e => exact execTokenHold_keeps src e s (Keeps.refl _ _) ⟨rfl, rfl, rfl, rfl, rfl⟩
  | nop src e => exact execNop_keeps src e s (Keeps.refl _ _) ⟨rfl, rfl, rfl, rfl, rfl⟩
  | objCreate src e => exact execObjCreate_keeps src e s (Keeps.refl _ _) ⟨rfl, rfl, rfl, rfl, rfl, rfl, rfl, rfl, rfl, rfl, rfl, rfl, rfl, rfl, rfl, rfl⟩
  | objFree src e => exact execObjFree_keeps src e s (Keeps.refl _ _) ⟨rfl, rfl, rfl, rfl, rfl, rfl, rfl, rfl, rfl, rfl, rfl, rfl⟩
  | objSetMode src e => exact execObjSetMode_keeps src e s (Keeps.refl _ _) ⟨rfl, rfl, rfl, rfl, rfl, rfl⟩
  | objShare src e => exact execObjShare_keeps src e s (Keeps.refl _ _) ⟨rfl, rfl, rfl, rfl, rfl, rfl, rfl⟩
  | objUnshare src e => exact execObjUnshare_keeps src e s (Keeps.refl _ _) ⟨rfl, rfl, rfl, rfl, rfl, rfl, rfl, rfl, rfl⟩
  | objQuery src e => exact execObjQuery_keeps src e s (Keeps.refl _ _) ⟨rfl, rfl, rfl, rfl, rfl⟩
  | objReplicate src e => exact execObjReplicate_keeps src e s (Keeps.refl _ _) ⟨rfl, rfl, rfl, rfl, rfl, rfl, rfl, rfl, rfl, rfl⟩
  | objReplicaDrop src e => exact execObjReplicaDrop_keeps src e s (Keeps.refl _ _) ⟨rfl, rfl, rfl, rfl, rfl, rfl, rfl, rfl, rfl, rfl⟩
  | objFlush src e => exact execObjFlush_keeps src e s (Keeps.refl _ _) ⟨rfl, rfl, rfl, rfl, rfl, rfl, rfl, rfl, rfl, rfl⟩
  | objMigrate src e => exact execObjMigrate_keeps src e s (Keeps.refl _ _) ⟨rfl, rfl, rfl, rfl, rfl, rfl, rfl, rfl, rfl, rfl⟩
  | stageLoad src e late => exact execStageLoad_keeps src e late s (Keeps.refl _ _) ⟨rfl, rfl, rfl, rfl, rfl, rfl⟩
  | copyH2d src e => exact execCopyH2d_keeps src e s (Keeps.refl _ _) ⟨rfl, rfl, rfl, rfl, rfl⟩
  | copyD2h src e => exact execCopyD2h_keeps src e s (Keeps.refl _ _) ⟨rfl, rfl, rfl, rfl, rfl⟩
  | regionRegister src e => exact execRegionRegister_keeps src e s (Keeps.refl _ _) ⟨rfl, rfl, rfl, rfl, rfl⟩
  | regionRelease src e => exact execRegionRelease_keeps src e s (Keeps.refl _ _) ⟨rfl, rfl, rfl, rfl, rfl⟩
  | shardCreate src e => exact execShardCreate_keeps src e s (Keeps.refl _ _) ⟨rfl, rfl, rfl, rfl, rfl, rfl, rfl, rfl, rfl, rfl, rfl, rfl, rfl, rfl⟩
  | shardFree src e => exact execShardFree_keeps src e s (Keeps.refl _ _) ⟨rfl, rfl, rfl, rfl, rfl, rfl, rfl, rfl, rfl⟩
  | hyperSet src e => exact execHyperSet_keeps src e s (Keeps.refl _ _) ⟨rfl, rfl, rfl, rfl, rfl⟩
  | gather src e => exact execGather_keeps src e s (Keeps.refl _ _) ⟨rfl, rfl, rfl, rfl, rfl, rfl, rfl, rfl, rfl, rfl, rfl, rfl, rfl, rfl, rfl, rfl, rfl, rfl, rfl, rfl, rfl, rfl, rfl, rfl, rfl⟩
  | sheafRegister src e => exact execSheafRegister_keeps src e s (Keeps.refl _ _) ⟨rfl, rfl, rfl, rfl, rfl, rfl, rfl, rfl, rfl, rfl, rfl, rfl, rfl, rfl, rfl, rfl, rfl, rfl⟩
  | stepClose src e => exact execStepClose_keeps src e s (Keeps.refl _ _) ⟨rfl, rfl, rfl, rfl, rfl⟩
  | hostCommit src e => exact execHostCommit_keeps src e s (Keeps.refl _ _) ⟨rfl, rfl, rfl, rfl, rfl⟩
  | commitAck src e => exact execCommitAck_keeps src e s (Keeps.refl _ _) ⟨rfl, rfl, rfl, rfl, rfl⟩
  | variantSet src e => exact execVariantSet_keeps src e s (Keeps.refl _ _) ⟨rfl, rfl, rfl, rfl, rfl⟩
  | deltaSink src e => exact execDeltaSink_keeps src e s (Keeps.refl _ _) ⟨rfl, rfl, rfl, rfl, rfl⟩
  | collGroupCreate src e => exact execCollGroupCreate_keeps src e s (Keeps.refl _ _) ⟨rfl, rfl, rfl, rfl, rfl, rfl⟩
  | collGroupFree src e => exact execCollGroupFree_keeps src e s (Keeps.refl _ _) ⟨rfl, rfl, rfl, rfl, rfl, rfl⟩
  | collBcast src e => exact execCollBcast_keeps src e s (Keeps.refl _ _) ⟨rfl, rfl, rfl, rfl, rfl, rfl, rfl, rfl, rfl, rfl, rfl, rfl, rfl⟩
  | collSend src e => exact execCollSend_keeps src e s (Keeps.refl _ _) ⟨rfl, rfl, rfl, rfl, rfl, rfl⟩
  | collRecv src e => exact execCollRecv_keeps src e s (Keeps.refl _ _) ⟨rfl, rfl, rfl, rfl, rfl, rfl⟩
  | collBarrier src e => exact execCollBarrier_keeps src e s (Keeps.refl _ _) ⟨rfl, rfl, rfl, rfl, rfl, rfl⟩
  | reshard src e => exact execReshard_keeps src e s (Keeps.refl _ _) ⟨rfl, rfl, rfl, rfl, rfl, rfl, rfl, rfl, rfl, rfl, rfl, rfl, rfl, rfl, rfl, rfl, rfl, rfl, rfl, rfl, rfl⟩
  | linkFence src e => exact execLinkFence_keeps src e s (Keeps.refl _ _) ⟨rfl, rfl, rfl, rfl, rfl, rfl⟩
  | fwBegin src e => exact execFwBegin_keeps src e s (Keeps.refl _ _) ⟨rfl, rfl, rfl, rfl, rfl, rfl⟩
  | fwBlock src e => exact execFwBlock_keeps src e s (Keeps.refl _ _) ⟨rfl, rfl, rfl, rfl, rfl, rfl⟩
  | fwVerify src e => exact execFwVerify_keeps src e s (Keeps.refl _ _) ⟨rfl, rfl, rfl, rfl, rfl, rfl⟩
  | fwActivate src e => exact execFwActivate_keeps src e s (Keeps.refl _ _) ⟨rfl, rfl, rfl, rfl, rfl, rfl, rfl⟩
  | fwAbort src e => exact execFwAbort_keeps src e s (Keeps.refl _ _) ⟨rfl, rfl, rfl, rfl, rfl, rfl⟩
  | fwStatus src e => exact execFwStatus_keeps src e s (Keeps.refl _ _) ⟨rfl, rfl, rfl, rfl, rfl⟩
  | settingsGet src e => exact execSettingsGet_keeps src e s (Keeps.refl _ _) ⟨rfl, rfl, rfl, rfl, rfl⟩
  | settingsSet src e => exact execSettingsSet_keeps src e s (Keeps.refl _ _) ⟨rfl, rfl, rfl, rfl, rfl, rfl⟩
  | keyLoad src e => exact execKeyLoad_keeps src e s (Keeps.refl _ _) ⟨rfl, rfl, rfl, rfl, rfl, rfl⟩
  | keyClear src e => exact execKeyClear_keeps src e s (Keeps.refl _ _) ⟨rfl, rfl, rfl, rfl, rfl, rfl⟩
  | smbTelemetry sq page => exact execSmbTelemetry_keeps sq page s (Keeps.refl _ _) rfl
  | smbHeartbeat sq => exact execSmbHeartbeat_keeps sq s (Keeps.refl _ _) rfl
  | smbRecover sq code => exact execSmbRecover_keeps sq code s (Keeps.refl _ _) ⟨rfl, rfl, rfl, rfl, rfl, rfl, rfl, rfl, rfl, rfl, rfl, rfl, rfl, rfl, rfl, rfl, rfl, rfl, rfl, rfl, rfl, rfl, rfl, rfl⟩
  | smbDetach sq => exact execSmbDetach_keeps sq s (Keeps.refl _ _) ⟨rfl, rfl, rfl, rfl, rfl, rfl, rfl, rfl⟩
  | smbLogRead sq idx => exact execSmbLogRead_keeps sq idx s (Keeps.refl _ _) rfl
  | mbxGo m w => exact execMbxGo_keeps m w s (Keeps.refl _ _) ⟨rfl, rfl, rfl, rfl⟩
  | mbxResultRecord m => exact execMbxResultRecord_keeps m s (Keeps.refl _ _) ⟨rfl, rfl, rfl, rfl, rfl⟩
  | dbCmdTail c w => exact execDbCmdTail_keeps c w s (Keeps.refl _ _) ⟨rfl, rfl, rfl⟩
  | dbTokenRelease c w => exact execDbTokenRelease_keeps c w s (Keeps.refl _ _) ⟨rfl, rfl, rfl⟩
  | dbCplHead c w => exact execDbCplHead_keeps c w s (Keeps.refl _ _) rfl
  | ringFetch c es => exact execRingFetch_keeps c es s (Keeps.refl _ _) ⟨rfl, rfl, rfl⟩
  | staleReread c e => exact execStaleReread_keeps c e s (Keeps.refl _ _) ⟨rfl, rfl, rfl⟩
  | cplRecordWrite c => exact execCplRecordWrite_keeps c s (Keeps.refl _ _) ⟨rfl, rfl, rfl, rfl, rfl, rfl, rfl, rfl, rfl, rfl, rfl, rfl, rfl, rfl, rfl, rfl, rfl, rfl, rfl, rfl, rfl, rfl⟩
  | msixCoalesceTimer c => exact execMsixCoalesceTimer_keeps c s (Keeps.refl _ _) ⟨rfl, rfl⟩
  | layerBarrierGo c => exact execLayerBarrierGo_keeps c s (Keeps.refl _ _) ⟨rfl, rfl, rfl, rfl, rfl, rfl, rfl, rfl, rfl, rfl, rfl, rfl, rfl, rfl, rfl, rfl⟩
  | lateSwap t => exact execLateSwap_keeps t s (Keeps.refl _ _) ⟨rfl, rfl, rfl, rfl, rfl, rfl, rfl, rfl, rfl, rfl, rfl, rfl, rfl, rfl, rfl, rfl⟩
  | deferredSwapResume c => exact execDeferredSwapResume_keeps c s (Keeps.refl _ _) ⟨rfl, rfl, rfl, rfl, rfl, rfl, rfl, rfl, rfl, rfl, rfl, rfl, rfl, rfl, rfl, rfl⟩
  | admitWaveOpen c => exact execAdmitWaveOpen_keeps c s (Keeps.refl _ _) ⟨rfl, rfl⟩
  | streamTileArrive dst src port => exact execStreamTileArrive_keeps dst src port s (Keeps.refl _ _) ⟨rfl, rfl⟩
  | streamEndArrive dst src port => exact execStreamEndArrive_keeps dst src port s (Keeps.refl _ _) ⟨rfl, rfl⟩
  | streamCreditReturn dst src port => exact execStreamCreditReturn_keeps dst src port s (Keeps.refl _ _) ⟨rfl, rfl, rfl, rfl, rfl, rfl, rfl, rfl, rfl, rfl, rfl, rfl, rfl, rfl, rfl, rfl, rfl⟩
  | relayForward t => exact execRelayForward_keeps t s (Keeps.refl _ _) rfl
  | relayStall t => exact execRelayStall_keeps t s (Keeps.refl _ _) ⟨rfl, rfl, rfl⟩
  | prefetchIssue t who port mb rb cb off last => exact execPrefetchIssue_keeps t who port mb rb cb off last s (Keeps.refl _ _) rfl
  | memRequestSend t rid => exact execMemRequestSend_keeps t rid s (Keeps.refl _ _) ⟨rfl, rfl, rfl, rfl, rfl, rfl, rfl, rfl, rfl⟩
  | staleNotice t rid => exact execStaleNotice_keeps t rid s (Keeps.refl _ _) ⟨rfl, rfl⟩
  | tileLand t rid => exact execTileLand_keeps t rid s (Keeps.refl _ _) ⟨rfl, rfl, rfl, rfl, rfl, rfl, rfl⟩
  | writeAck t rid => exact execWriteAck_keeps t rid s (Keeps.refl _ _) ⟨rfl, rfl, rfl, rfl, rfl, rfl, rfl, rfl, rfl, rfl, rfl, rfl, rfl, rfl, rfl, rfl⟩
  | arrayPass t => exact execArrayPass_keeps t s (Keeps.refl _ _) ⟨rfl, rfl, rfl, rfl, rfl⟩
  | arraySync t => exact execArraySync_keeps t s (Keeps.refl _ _) rfl
  | arrayBankFlush t => exact execArrayBankFlush_keeps t s (Keeps.refl _ _) rfl
  | contextSwitch t => exact execContextSwitch_keeps t s (Keeps.refl _ _) rfl
  | vectorBeat t => exact execVectorBeat_keeps t s (Keeps.refl _ _) ⟨rfl, rfl, rfl, rfl, rfl, rfl, rfl⟩
  | vadd t w => exact execVadd_keeps t w s (Keeps.refl _ _) ⟨rfl, rfl, rfl, rfl, rfl, rfl, rfl, rfl, rfl, rfl, rfl, rfl, rfl, rfl, rfl, rfl, rfl⟩
  | vsub t w => exact execVsub_keeps t w s (Keeps.refl _ _) ⟨rfl, rfl, rfl, rfl, rfl, rfl, rfl, rfl, rfl, rfl, rfl, rfl, rfl, rfl, rfl, rfl, rfl⟩
  | vmul t w => exact execVmul_keeps t w s (Keeps.refl _ _) ⟨rfl, rfl, rfl, rfl, rfl, rfl, rfl, rfl, rfl, rfl, rfl, rfl, rfl, rfl, rfl, rfl, rfl⟩
  | vfma t w => exact execVfma_keeps t w s (Keeps.refl _ _) ⟨rfl, rfl, rfl, rfl, rfl, rfl, rfl, rfl, rfl, rfl, rfl, rfl, rfl, rfl, rfl, rfl, rfl⟩
  | vmax t w => exact execVmax_keeps t w s (Keeps.refl _ _) ⟨rfl, rfl, rfl, rfl, rfl, rfl, rfl, rfl, rfl, rfl, rfl, rfl, rfl, rfl, rfl, rfl, rfl⟩
  | vmin t w => exact execVmin_keeps t w s (Keeps.refl _ _) ⟨rfl, rfl, rfl, rfl, rfl, rfl, rfl, rfl, rfl, rfl, rfl, rfl, rfl, rfl, rfl, rfl, rfl⟩
  | vabs t w => exact execVabs_keeps t w s (Keeps.refl _ _) ⟨rfl, rfl, rfl, rfl, rfl, rfl, rfl, rfl, rfl, rfl, rfl, rfl, rfl, rfl, rfl, rfl, rfl⟩
  | vneg t w => exact execVneg_keeps t w s (Keeps.refl _ _) ⟨rfl, rfl, rfl, rfl, rfl, rfl, rfl, rfl, rfl, rfl, rfl, rfl, rfl, rfl, rfl, rfl, rfl⟩
  | vcmp t w => exact execVcmp_keeps t w s (Keeps.refl _ _) ⟨rfl, rfl, rfl, rfl, rfl, rfl, rfl, rfl, rfl, rfl, rfl, rfl, rfl, rfl, rfl, rfl, rfl⟩
  | vsel t w => exact execVsel_keeps t w s (Keeps.refl _ _) ⟨rfl, rfl, rfl, rfl, rfl, rfl, rfl, rfl, rfl, rfl, rfl, rfl, rfl, rfl, rfl, rfl, rfl⟩
  | vcpy t w => exact execVcpy_keeps t w s (Keeps.refl _ _) ⟨rfl, rfl, rfl, rfl, rfl, rfl, rfl, rfl, rfl, rfl, rfl, rfl, rfl, rfl, rfl, rfl, rfl⟩
  | vexp2 t w => exact execVexp2_keeps t w s (Keeps.refl _ _) ⟨rfl, rfl, rfl, rfl, rfl, rfl, rfl, rfl, rfl, rfl, rfl, rfl, rfl, rfl, rfl, rfl, rfl⟩
  | vexp t w => exact execVexp_keeps t w s (Keeps.refl _ _) ⟨rfl, rfl, rfl, rfl, rfl, rfl, rfl, rfl, rfl, rfl, rfl, rfl, rfl, rfl, rfl, rfl, rfl⟩
  | vlog2 t w => exact execVlog2_keeps t w s (Keeps.refl _ _) ⟨rfl, rfl, rfl, rfl, rfl, rfl, rfl, rfl, rfl, rfl, rfl, rfl, rfl, rfl, rfl, rfl, rfl⟩
  | vrcp t w => exact execVrcp_keeps t w s (Keeps.refl _ _) ⟨rfl, rfl, rfl, rfl, rfl, rfl, rfl, rfl, rfl, rfl, rfl, rfl, rfl, rfl, rfl, rfl, rfl⟩
  | vrsqrt t w => exact execVrsqrt_keeps t w s (Keeps.refl _ _) ⟨rfl, rfl, rfl, rfl, rfl, rfl, rfl, rfl, rfl, rfl, rfl, rfl, rfl, rfl, rfl, rfl, rfl⟩
  | vsqrt t w => exact execVsqrt_keeps t w s (Keeps.refl _ _) ⟨rfl, rfl, rfl, rfl, rfl, rfl, rfl, rfl, rfl, rfl, rfl, rfl, rfl, rfl, rfl, rfl, rfl⟩
  | vtanh t w => exact execVtanh_keeps t w s (Keeps.refl _ _) ⟨rfl, rfl, rfl, rfl, rfl, rfl, rfl, rfl, rfl, rfl, rfl, rfl, rfl, rfl, rfl, rfl, rfl⟩
  | vsigm t w => exact execVsigm_keeps t w s (Keeps.refl _ _) ⟨rfl, rfl, rfl, rfl, rfl, rfl, rfl, rfl, rfl, rfl, rfl, rfl, rfl, rfl, rfl, rfl, rfl⟩
  | verf t w => exact execVerf_keeps t w s (Keeps.refl _ _) ⟨rfl, rfl, rfl, rfl, rfl, rfl, rfl, rfl, rfl, rfl, rfl, rfl, rfl, rfl, rfl, rfl, rfl⟩
  | rsum t w => exact execRsum_keeps t w s (Keeps.refl _ _) ⟨rfl, rfl, rfl, rfl, rfl, rfl, rfl, rfl, rfl, rfl, rfl, rfl, rfl, rfl, rfl, rfl, rfl⟩
  | rssq t w => exact execRssq_keeps t w s (Keeps.refl _ _) ⟨rfl, rfl, rfl, rfl, rfl, rfl, rfl, rfl, rfl, rfl, rfl, rfl, rfl, rfl, rfl, rfl, rfl⟩
  | rmax t w => exact execRmax_keeps t w s (Keeps.refl _ _) ⟨rfl, rfl, rfl, rfl, rfl, rfl, rfl, rfl, rfl, rfl, rfl, rfl, rfl, rfl, rfl, rfl, rfl⟩
  | rmin t w => exact execRmin_keeps t w s (Keeps.refl _ _) ⟨rfl, rfl, rfl, rfl, rfl, rfl, rfl, rfl, rfl, rfl, rfl, rfl, rfl, rfl, rfl, rfl, rfl⟩
  | ramax t w => exact execRamax_keeps t w s (Keeps.refl _ _) ⟨rfl, rfl, rfl, rfl, rfl, rfl, rfl, rfl, rfl, rfl, rfl, rfl, rfl, rfl, rfl, rfl, rfl⟩
  | rrowsum t w => exact execRrowsum_keeps t w s (Keeps.refl _ _) ⟨rfl, rfl, rfl, rfl, rfl, rfl, rfl, rfl, rfl, rfl, rfl, rfl, rfl, rfl, rfl, rfl, rfl⟩
  | rrowssq t w => exact execRrowssq_keeps t w s (Keeps.refl _ _) ⟨rfl, rfl, rfl, rfl, rfl, rfl, rfl, rfl, rfl, rfl, rfl, rfl, rfl, rfl, rfl, rfl, rfl⟩
  | rrowmax t w => exact execRrowmax_keeps t w s (Keeps.refl _ _) ⟨rfl, rfl, rfl, rfl, rfl, rfl, rfl, rfl, rfl, rfl, rfl, rfl, rfl, rfl, rfl, rfl, rfl⟩
  | sadd t w => exact execSadd_keeps t w s (Keeps.refl _ _) ⟨rfl, rfl, rfl, rfl, rfl, rfl, rfl, rfl, rfl, rfl, rfl, rfl, rfl, rfl, rfl, rfl, rfl⟩
  | ssub t w => exact execSsub_keeps t w s (Keeps.refl _ _) ⟨rfl, rfl, rfl, rfl, rfl, rfl, rfl, rfl, rfl, rfl, rfl, rfl, rfl, rfl, rfl, rfl, rfl⟩
  | smul t w => exact execSmul_keeps t w s (Keeps.refl _ _) ⟨rfl, rfl, rfl, rfl, rfl, rfl, rfl, rfl, rfl, rfl, rfl, rfl, rfl, rfl, rfl, rfl, rfl⟩
  | sand t w => exact execSand_keeps t w s (Keeps.refl _ _) ⟨rfl, rfl, rfl, rfl, rfl, rfl, rfl, rfl, rfl, rfl, rfl, rfl, rfl, rfl, rfl, rfl, rfl⟩
  | sor t w => exact execSor_keeps t w s (Keeps.refl _ _) ⟨rfl, rfl, rfl, rfl, rfl, rfl, rfl, rfl, rfl, rfl, rfl, rfl, rfl, rfl, rfl, rfl, rfl⟩
  | sxor t w => exact execSxor_keeps t w s (Keeps.refl _ _) ⟨rfl, rfl, rfl, rfl, rfl, rfl, rfl, rfl, rfl, rfl, rfl, rfl, rfl, rfl, rfl, rfl, rfl⟩
  | sshl t w => exact execSshl_keeps t w s (Keeps.refl _ _) ⟨rfl, rfl, rfl, rfl, rfl, rfl, rfl, rfl, rfl, rfl, rfl, rfl, rfl, rfl, rfl, rfl, rfl⟩
  | sshr t w => exact execSshr_keeps t w s (Keeps.refl _ _) ⟨rfl, rfl, rfl, rfl, rfl, rfl, rfl, rfl, rfl, rfl, rfl, rfl, rfl, rfl, rfl, rfl, rfl⟩
  | slih t w => exact execSlih_keeps t w s (Keeps.refl _ _) ⟨rfl, rfl, rfl, rfl, rfl, rfl, rfl, rfl, rfl, rfl, rfl, rfl, rfl, rfl, rfl, rfl, rfl⟩
  | sfadd t w => exact execSfadd_keeps t w s (Keeps.refl _ _) ⟨rfl, rfl, rfl, rfl, rfl, rfl, rfl, rfl, rfl, rfl, rfl, rfl, rfl, rfl, rfl, rfl, rfl⟩
  | sfmul t w => exact execSfmul_keeps t w s (Keeps.refl _ _) ⟨rfl, rfl, rfl, rfl, rfl, rfl, rfl, rfl, rfl, rfl, rfl, rfl, rfl, rfl, rfl, rfl, rfl⟩
  | sfma t w => exact execSfma_keeps t w s (Keeps.refl _ _) ⟨rfl, rfl, rfl, rfl, rfl, rfl, rfl, rfl, rfl, rfl, rfl, rfl, rfl, rfl, rfl, rfl, rfl⟩
  | scvtf t w => exact execScvtf_keeps t w s (Keeps.refl _ _) ⟨rfl, rfl, rfl, rfl, rfl, rfl, rfl, rfl, rfl, rfl, rfl, rfl, rfl, rfl, rfl, rfl, rfl⟩
  | scvti t w => exact execScvti_keeps t w s (Keeps.refl _ _) ⟨rfl, rfl, rfl, rfl, rfl, rfl, rfl, rfl, rfl, rfl, rfl, rfl, rfl, rfl, rfl, rfl, rfl⟩
  | sld t w => exact execSld_keeps t w s (Keeps.refl _ _) ⟨rfl, rfl, rfl, rfl, rfl, rfl, rfl, rfl, rfl, rfl, rfl, rfl, rfl, rfl, rfl, rfl, rfl⟩
  | sst t w => exact execSst_keeps t w s (Keeps.refl _ _) ⟨rfl, rfl, rfl, rfl, rfl, rfl, rfl, rfl, rfl, rfl, rfl, rfl, rfl, rfl, rfl, rfl, rfl⟩
  | arr t w => exact execArr_keeps t w s (Keeps.refl _ _) ⟨rfl, rfl, rfl, rfl, rfl, rfl, rfl, rfl, rfl, rfl, rfl, rfl, rfl, rfl, rfl, rfl, rfl⟩
  | waita t w => exact execWaita_keeps t w s (Keeps.refl _ _) ⟨rfl, rfl, rfl, rfl, rfl, rfl, rfl, rfl, rfl, rfl, rfl, rfl, rfl, rfl, rfl, rfl, rfl⟩
  | mreq t w => exact execMreq_keeps t w s (Keeps.refl _ _) ⟨rfl, rfl, rfl, rfl, rfl, rfl, rfl, rfl, rfl, rfl, rfl, rfl, rfl, rfl, rfl, rfl, rfl⟩
  | waitm t w => exact execWaitm_keeps t w s (Keeps.refl _ _) ⟨rfl, rfl, rfl, rfl, rfl, rfl, rfl, rfl, rfl, rfl, rfl, rfl, rfl, rfl, rfl, rfl, rfl⟩
  | mwrite t w => exact execMwrite_keeps t w s (Keeps.refl _ _) ⟨rfl, rfl, rfl, rfl, rfl, rfl, rfl, rfl, rfl, rfl, rfl, rfl, rfl, rfl, rfl, rfl, rfl⟩
  | send t w => exact execSend_keeps t w s (Keeps.refl _ _) ⟨rfl, rfl, rfl, rfl, rfl, rfl, rfl, rfl, rfl, rfl, rfl, rfl, rfl, rfl, rfl, rfl, rfl⟩
  | waitin t w => exact execWaitin_keeps t w s (Keeps.refl _ _) ⟨rfl, rfl, rfl, rfl, rfl, rfl, rfl, rfl, rfl, rfl, rfl, rfl, rfl, rfl, rfl, rfl, rfl⟩
  | relin t w => exact execRelin_keeps t w s (Keeps.refl _ _) ⟨rfl, rfl, rfl, rfl, rfl, rfl, rfl, rfl, rfl, rfl, rfl, rfl, rfl, rfl, rfl, rfl, rfl⟩
  | waitw t w => exact execWaitw_keeps t w s (Keeps.refl _ _) ⟨rfl, rfl, rfl, rfl, rfl, rfl, rfl, rfl, rfl, rfl, rfl, rfl, rfl, rfl, rfl, rfl, rfl⟩
  | relw t w => exact execRelw_keeps t w s (Keeps.refl _ _) ⟨rfl, rfl, rfl, rfl, rfl, rfl, rfl, rfl, rfl, rfl, rfl, rfl, rfl, rfl, rfl, rfl, rfl⟩
  | ftqWait t w => exact execFtqWait_keeps t w s (Keeps.refl _ _) ⟨rfl, rfl, rfl, rfl, rfl, rfl, rfl, rfl, rfl, rfl, rfl, rfl, rfl, rfl, rfl, rfl, rfl⟩
  | ftqPop t w => exact execFtqPop_keeps t w s (Keeps.refl _ _) ⟨rfl, rfl, rfl, rfl, rfl, rfl, rfl, rfl, rfl, rfl, rfl, rfl, rfl, rfl, rfl, rfl, rfl⟩
  | br t w => exact execBr_keeps t w s (Keeps.refl _ _) ⟨rfl, rfl, rfl, rfl, rfl, rfl, rfl, rfl, rfl, rfl, rfl, rfl, rfl, rfl, rfl, rfl, rfl⟩
  | tileEnd t w => exact execTileEnd_keeps t w s (Keeps.refl _ _) ⟨rfl, rfl, rfl, rfl, rfl, rfl, rfl, rfl, rfl, rfl, rfl, rfl, rfl, rfl, rfl, rfl, rfl⟩
  | stageEnd t w => exact execStageEnd_keeps t w s (Keeps.refl _ _) ⟨rfl, rfl, rfl, rfl, rfl, rfl, rfl, rfl, rfl, rfl, rfl, rfl, rfl, rfl, rfl, rfl⟩
  | waitv t w => exact execWaitv_keeps t w s (Keeps.refl _ _) ⟨rfl, rfl, rfl, rfl, rfl, rfl, rfl, rfl, rfl, rfl, rfl, rfl, rfl, rfl, rfl, rfl, rfl⟩
  | seqNop t w => exact execSeqNop_keeps t w s (Keeps.refl _ _) ⟨rfl, rfl, rfl, rfl, rfl, rfl, rfl, rfl, rfl, rfl, rfl, rfl, rfl, rfl, rfl, rfl, rfl⟩
  | stackPartServe n t rid sec errs => exact execStackPartServe_keeps n t rid sec errs s (Keeps.refl _ _) ⟨rfl, rfl, rfl, rfl, rfl, rfl, rfl, rfl, rfl, rfl, rfl, rfl, rfl, rfl, rfl, rfl, rfl⟩
  | bankSlow n ch bank us => exact execBankSlow_keeps n ch bank us s (Keeps.refl _ _) ⟨rfl, rfl, rfl, rfl, rfl⟩
  | bankTimeout n ch bank us => exact execBankTimeout_keeps n ch bank us s (Keeps.refl _ _) ⟨rfl, rfl, rfl, rfl, rfl, rfl, rfl, rfl, rfl, rfl, rfl, rfl, rfl, rfl, rfl, rfl, rfl, rfl, rfl, rfl, rfl, rfl⟩
  | dtBankTimeout d sub rank bank us => exact execDtBankTimeout_keeps d sub rank bank us s (Keeps.refl _ _) ⟨rfl, rfl, rfl, rfl, rfl, rfl, rfl, rfl, rfl, rfl, rfl, rfl, rfl, rfl, rfl, rfl, rfl, rfl, rfl, rfl, rfl, rfl⟩
  | accumArrive n t rid => exact execAccumArrive_keeps n t rid s (Keeps.refl _ _) ⟨rfl, rfl, rfl, rfl, rfl, rfl, rfl, rfl, rfl, rfl, rfl⟩
  | accumReoffer n t rid => exact execAccumReoffer_keeps n t rid s (Keeps.refl _ _) rfl
  | sheafComplete c n => exact execSheafComplete_keeps c n s (Keeps.refl _ _) ⟨rfl, rfl, rfl, rfl, rfl, rfl, rfl, rfl, rfl, rfl, rfl, rfl, rfl, rfl, rfl, rfl, rfl, rfl, rfl, rfl, rfl, rfl⟩
  | updateItemStart n => exact execUpdateItemStart_keeps n s (Keeps.refl _ _) ⟨rfl, rfl, rfl, rfl, rfl, rfl, rfl, rfl, rfl, rfl, rfl, rfl, rfl, rfl, rfl, rfl, rfl, rfl, rfl, rfl, rfl, rfl⟩
  | updatePhaseDone n => exact execUpdatePhaseDone_keeps n s (Keeps.refl _ _) ⟨rfl, rfl, rfl, rfl, rfl, rfl, rfl, rfl, rfl, rfl, rfl, rfl, rfl, rfl, rfl, rfl, rfl, rfl, rfl, rfl, rfl, rfl⟩
  | scaleReport c sset tensor => exact execScaleReport_keeps c sset tensor s (Keeps.refl _ _) ⟨rfl, rfl, rfl, rfl, rfl, rfl, rfl, rfl, rfl, rfl, rfl, rfl, rfl, rfl, rfl, rfl, rfl, rfl, rfl, rfl, rfl, rfl⟩
  | workNarrowStart n => exact execWorkNarrowStart_keeps n s (Keeps.refl _ _) rfl
  | dieAutoErase n die => exact execDieAutoErase_keeps n die s (Keeps.refl _ _) ⟨rfl, rfl, rfl⟩
  | scrubRead n sec err => exact execScrubRead_keeps n sec err s (Keeps.refl _ _) ⟨rfl, rfl, rfl, rfl, rfl, rfl, rfl, rfl⟩
  | bankRefresh n ch bank => exact execBankRefresh_keeps n ch bank s (Keeps.refl _ _) ⟨rfl, rfl⟩
  | refreshForce n ch bank => exact execRefreshForce_keeps n ch bank s (Keeps.refl _ _) ⟨rfl, rfl⟩
  | stackTempSample n temps => exact execStackTempSample_keeps n temps s (Keeps.refl _ _) ⟨rfl, rfl, rfl, rfl, rfl, rfl, rfl, rfl, rfl, rfl, rfl, rfl, rfl, rfl, rfl, rfl, rfl, rfl, rfl, rfl, rfl, rfl⟩
  | stackThermExit n => exact execStackThermExit_keeps n s (Keeps.refl _ _) rfl
  | dtPartServe d t rid errs => exact execDtPartServe_keeps d t rid errs s (Keeps.refl _ _) ⟨rfl, rfl, rfl, rfl, rfl, rfl, rfl, rfl, rfl, rfl, rfl, rfl, rfl, rfl, rfl, rfl, rfl⟩
  | dtTempSample d temp => exact execDtTempSample_keeps d temp s (Keeps.refl _ _) ⟨rfl, rfl, rfl, rfl, rfl, rfl, rfl, rfl, rfl, rfl, rfl, rfl, rfl, rfl, rfl, rfl, rfl, rfl, rfl, rfl, rfl, rfl⟩
  | dtThermExit d => exact execDtThermExit_keeps d s (Keeps.refl _ _) rfl
  | xlatMissFill t obj granule => exact execXlatMissFill_keeps t obj granule s (Keeps.refl _ _) ⟨rfl, rfl, rfl, rfl, rfl⟩
  | cxlMemRead h => exact execCxlMemRead_keeps h s (Keeps.refl _ _) ⟨rfl, rfl, rfl, rfl, rfl, rfl, rfl, rfl, rfl, rfl⟩
  | cxlMemWrite h data => exact execCxlMemWrite_keeps h data s (Keeps.refl _ _) ⟨rfl, rfl, rfl, rfl, rfl, rfl, rfl, rfl, rfl, rfl, rfl, rfl, rfl, rfl, rfl, rfl, rfl⟩
  | migrateInvalidate obj granule who => exact execMigrateInvalidate_keeps obj granule who s (Keeps.refl _ _) ⟨rfl, rfl⟩
  | migrateCopyStart obj granule => exact execMigrateCopyStart_keeps obj granule s (Keeps.refl _ _) ⟨rfl, rfl, rfl, rfl, rfl, rfl, rfl, rfl, rfl, rfl, rfl, rfl, rfl⟩
  | migrateRecordWrite obj granule => exact execMigrateRecordWrite_keeps obj granule s (Keeps.refl _ _) ⟨rfl, rfl, rfl, rfl, rfl, rfl, rfl, rfl, rfl, rfl, rfl, rfl, rfl, rfl, rfl, rfl, rfl, rfl⟩
  | migrateFreeSource obj granule => exact execMigrateFreeSource_keeps obj granule s (Keeps.refl _ _) ⟨rfl, rfl, rfl, rfl, rfl, rfl, rfl, rfl⟩
  | migrateHoldTimeout obj granule => exact execMigrateHoldTimeout_keeps obj granule s (Keeps.refl _ _) ⟨rfl, rfl, rfl, rfl, rfl, rfl, rfl, rfl, rfl, rfl, rfl, rfl, rfl, rfl, rfl, rfl, rfl, rfl, rfl⟩
  | migrateRetry obj granule => exact execMigrateRetry_keeps obj granule s (Keeps.refl _ _) ⟨rfl, rfl, rfl, rfl, rfl, rfl, rfl, rfl⟩
  | trainingRecordRx p bs => exact execTrainingRecordRx_keeps p bs s (Keeps.refl _ _) ⟨rfl, rfl, rfl, rfl, rfl, rfl⟩
  | trainingStepTimeout p => exact execTrainingStepTimeout_keeps p s (Keeps.refl _ _) ⟨rfl, rfl, rfl, rfl, rfl, rfl⟩
  | trainingRestart p => exact execTrainingRestart_keeps p s (Keeps.refl _ _) rfl
  | laneFail p lane => exact execLaneFail_keeps p lane s (Keeps.refl _ _) ⟨rfl, rfl, rfl, rfl, rfl, rfl⟩
  | portRetrainDone p => exact execPortRetrainDone_keeps p s (Keeps.refl _ _) ⟨rfl, rfl, rfl, rfl, rfl, rfl⟩
  | portRetrainWrite p => exact execPortRetrainWrite_keeps p s (Keeps.refl _ _) ⟨rfl, rfl, rfl, rfl, rfl, rfl⟩
  | cablePresent p => exact execCablePresent_keeps p s (Keeps.refl _ _) rfl
  | flitRx p x => exact execFlitRx_keeps p x s (Keeps.refl _ _) ⟨rfl, rfl, rfl, rfl, rfl, rfl, rfl, rfl, rfl, rfl, rfl, rfl, rfl, rfl, rfl, rfl, rfl, rfl, rfl⟩
  | flitTx p => exact execFlitTx_keeps p s (Keeps.refl _ _) ⟨rfl, rfl, rfl, rfl⟩
  | fence m => exact execFence_keeps m s (Keeps.refl _ _) ⟨rfl, rfl, rfl, rfl⟩
  | unfence m => exact execUnfence_keeps m s (Keeps.refl _ _) rfl
  | stepAbort m => exact execStepAbort_keeps m s (Keeps.refl _ _) ⟨rfl, rfl, rfl, rfl, rfl, rfl, rfl, rfl, rfl, rfl, rfl, rfl, rfl, rfl, rfl, rfl⟩
  | rejoin m => exact execRejoin_keeps m s (Keeps.refl _ _) ⟨rfl, rfl, rfl, rfl, rfl, rfl, rfl, rfl, rfl, rfl, rfl, rfl, rfl, rfl, rfl, rfl, rfl, rfl, rfl, rfl, rfl, rfl⟩
  | rejoinAck m => exact execRejoinAck_keeps m s (Keeps.refl _ _) ⟨rfl, rfl, rfl, rfl, rfl, rfl, rfl, rfl, rfl, rfl, rfl, rfl, rfl, rfl, rfl, rfl, rfl, rfl, rfl, rfl, rfl, rfl⟩
  | huskResend m => exact execHuskResend_keeps m s (Keeps.refl _ _) rfl
  | plan m => exact execPlan_keeps m s (Keeps.refl _ _) ⟨rfl, rfl, rfl, rfl, rfl, rfl, rfl, rfl, rfl, rfl, rfl, rfl, rfl, rfl, rfl, rfl, rfl, rfl, rfl⟩
  | reshardReady m => exact execReshardReady_keeps m s (Keeps.refl _ _) ⟨rfl, rfl, rfl, rfl, rfl, rfl, rfl, rfl, rfl, rfl, rfl, rfl, rfl, rfl, rfl, rfl, rfl, rfl, rfl⟩
  | rdReq m => exact execRdReq_keeps m s (Keeps.refl _ _) ⟨rfl, rfl, rfl, rfl, rfl, rfl, rfl, rfl, rfl, rfl, rfl⟩
  | wrReq m => exact execWrReq_keeps m s (Keeps.refl _ _) ⟨rfl, rfl, rfl, rfl, rfl, rfl, rfl, rfl, rfl, rfl, rfl, rfl, rfl, rfl, rfl, rfl, rfl, rfl⟩
  | rdResp m => exact execRdResp_keeps m s (Keeps.refl _ _) ⟨rfl, rfl, rfl, rfl⟩
  | wrAck m => exact execWrAck_keeps m s (Keeps.refl _ _) ⟨rfl, rfl, rfl, rfl⟩
  | err m => exact execErr_keeps m s (Keeps.refl _ _) ⟨rfl, rfl, rfl, rfl⟩
  | chunk m => exact execChunk_keeps m s (Keeps.refl _ _) ⟨rfl, rfl, rfl, rfl, rfl, rfl, rfl, rfl, rfl, rfl, rfl, rfl, rfl, rfl, rfl, rfl, rfl, rfl, rfl, rfl, rfl, rfl⟩
  | cts m => exact execCts_keeps m s (Keeps.refl _ _) ⟨rfl, rfl, rfl, rfl, rfl, rfl, rfl, rfl, rfl, rfl, rfl⟩
  | barrier m => exact execBarrier_keeps m s (Keeps.refl _ _) ⟨rfl, rfl, rfl, rfl⟩
  | normStart c => exact execNormStart_keeps c s (Keeps.refl _ _) ⟨rfl, rfl, rfl, rfl, rfl, rfl, rfl, rfl, rfl, rfl, rfl, rfl, rfl, rfl, rfl, rfl, rfl, rfl, rfl, rfl⟩
  | stepCommit c => exact execStepCommit_keeps c s (Keeps.refl _ _) ⟨rfl, rfl, rfl, rfl, rfl, rfl, rfl, rfl, rfl⟩
  | deltaExportStart c => exact execDeltaExportStart_keeps c s (Keeps.refl _ _) ⟨rfl, rfl, rfl⟩
  | deltaSegmentWrite c => exact execDeltaSegmentWrite_keeps c s (Keeps.refl _ _) ⟨rfl, rfl, rfl, rfl⟩
  | deltaWaitTimeout c => exact execDeltaWaitTimeout_keeps c s (Keeps.refl _ _) ⟨rfl, rfl, rfl⟩
  | deltaHeadWrite c w => exact execDeltaHeadWrite_keeps c w s (Keeps.refl _ _) rfl
  | collTimeout g n => exact execCollTimeout_keeps g n s (Keeps.refl _ _) ⟨rfl, rfl, rfl, rfl, rfl, rfl, rfl, rfl, rfl, rfl, rfl, rfl, rfl, rfl, rfl, rfl⟩
  | rejoinWaitExpire g => exact execRejoinWaitExpire_keeps g s (Keeps.refl _ _) ⟨rfl, rfl, rfl, rfl, rfl, rfl, rfl, rfl, rfl, rfl, rfl, rfl, rfl, rfl, rfl, rfl, rfl, rfl, rfl, rfl, rfl, rfl⟩
  | rejoinAckTimeout g => exact execRejoinAckTimeout_keeps g s (Keeps.refl _ _) ⟨rfl, rfl, rfl, rfl, rfl, rfl, rfl, rfl, rfl, rfl, rfl, rfl, rfl, rfl, rfl, rfl, rfl, rfl, rfl, rfl, rfl, rfl⟩
  | cxlLinkUp mode width rate ideIo ideCm => exact execCxlLinkUp_keeps mode width rate ideIo ideCm s (Keeps.refl _ _) rfl
  | cxlLinkDown => exact execCxlLinkDown_keeps s (Keeps.refl _ _) ⟨rfl, rfl, rfl, rfl, rfl, rfl, rfl⟩
  | perstAssert => exact execPerstAssert_keeps s (Keeps.refl _ _) ⟨rfl, rfl, rfl, rfl, rfl, rfl, rfl, rfl, rfl, rfl, rfl, rfl, rfl, rfl, rfl, rfl⟩
  | cxlHotReset => exact execCxlHotReset_keeps s (Keeps.refl _ _) ⟨rfl, rfl, rfl, rfl, rfl, rfl, rfl, rfl, rfl, rfl, rfl, rfl, rfl, rfl, rfl, rfl⟩
  | cxlFlr => exact execCxlFlr_keeps s (Keeps.refl _ _) ⟨rfl, rfl, rfl, rfl, rfl, rfl, rfl, rfl, rfl, rfl, rfl, rfl, rfl, rfl, rfl, rfl⟩
  | ideIntegrityFail => exact execIdeIntegrityFail_keeps s (Keeps.refl _ _) ⟨rfl, rfl, rfl, rfl, rfl, rfl, rfl⟩
  | hostWdExpire => exact execHostWdExpire_keeps s (Keeps.refl _ _) ⟨rfl, rfl, rfl, rfl, rfl, rfl, rfl⟩
  | hostWdWrite w => exact execHostWdWrite_keeps w s (Keeps.refl _ _) rfl
  | cxpAttach => exact execCxpAttach_keeps s (Keeps.refl _ _) ⟨rfl, rfl, rfl⟩
  | cxpDetach => exact execCxpDetach_keeps s (Keeps.refl _ _) ⟨rfl, rfl, rfl, rfl, rfl, rfl, rfl⟩
  | hdmCommit base size => exact execHdmCommit_keeps base size s (Keeps.refl _ _) rfl
  | bar0BadAccess write => exact execBar0BadAccess_keeps write s (Keeps.refl _ _) ⟨rfl, rfl, rfl⟩
  | bar4Read off len reqId pasid hasPasid => exact execBar4Read_keeps off len reqId pasid hasPasid s (Keeps.refl _ _) ⟨rfl, rfl, rfl, rfl, rfl, rfl, rfl, rfl, rfl, rfl⟩
  | bar4Write off reqId pasid hasPasid data => exact execBar4Write_keeps off reqId pasid hasPasid data s (Keeps.refl _ _) ⟨rfl, rfl, rfl, rfl, rfl, rfl, rfl, rfl, rfl, rfl, rfl, rfl, rfl, rfl, rfl, rfl, rfl⟩
  | copyEngineStart n => exact execCopyEngineStart_keeps n s (Keeps.refl _ _) ⟨rfl, rfl, rfl, rfl, rfl, rfl, rfl, rfl, rfl, rfl, rfl, rfl, rfl, rfl, rfl, rfl, rfl, rfl, rfl, rfl, rfl, rfl⟩
  | copyComplete n => exact execCopyComplete_keeps n s (Keeps.refl _ _) ⟨rfl, rfl, rfl⟩
  | hostReadReturn id data => exact execHostReadReturn_keeps id data s (Keeps.refl _ _) ⟨rfl, rfl, rfl, rfl, rfl, rfl, rfl, rfl, rfl, rfl, rfl, rfl, rfl, rfl, rfl, rfl, rfl⟩
  | hostWriteGo id => exact execHostWriteGo_keeps id s (Keeps.refl _ _) ⟨rfl, rfl, rfl, rfl, rfl, rfl, rfl, rfl, rfl, rfl, rfl, rfl, rfl, rfl, rfl, rfl, rfl⟩
  | spdmRequest msg => exact execSpdmRequest_keeps msg s (Keeps.refl _ _) ⟨rfl, rfl, rfl⟩
  | cmdWatchdog c pos => exact execCmdWatchdog_keeps c pos s (Keeps.refl _ _) ⟨rfl, rfl, rfl, rfl, rfl, rfl, rfl, rfl, rfl, rfl, rfl, rfl, rfl, rfl, rfl, rfl, rfl, rfl⟩
  | watchdogReleaseTimeout c pos => exact execWatchdogReleaseTimeout_keeps c pos s (Keeps.refl _ _) ⟨rfl, rfl, rfl, rfl, rfl, rfl, rfl, rfl, rfl, rfl, rfl, rfl, rfl, rfl, rfl, rfl, rfl, rfl, rfl, rfl, rfl, rfl⟩
  | progressTimeout t ctx => exact execProgressTimeout_keeps t ctx s (Keeps.refl _ _) ⟨rfl, rfl, rfl, rfl, rfl, rfl, rfl, rfl, rfl, rfl, rfl, rfl, rfl, rfl, rfl, rfl, rfl, rfl, rfl, rfl, rfl, rfl⟩
  | tagTimeout who unit rid => exact execTagTimeout_keeps who unit rid s (Keeps.refl _ _) ⟨rfl, rfl, rfl, rfl, rfl, rfl, rfl, rfl, rfl, rfl, rfl, rfl, rfl, rfl, rfl, rfl⟩
  | tagProbeReturn who unit home => exact execTagProbeReturn_keeps who unit home s (Keeps.refl _ _) ⟨rfl, rfl, rfl, rfl, rfl, rfl, rfl, rfl, rfl, rfl, rfl, rfl, rfl, rfl, rfl, rfl, rfl, rfl, rfl, rfl, rfl, rfl⟩
  | tagProbeTimeout who unit home => exact execTagProbeTimeout_keeps who unit home s (Keeps.refl _ _) ⟨rfl, rfl, rfl, rfl, rfl, rfl, rfl, rfl, rfl, rfl, rfl, rfl, rfl, rfl, rfl, rfl, rfl, rfl, rfl, rfl, rfl, rfl⟩
  | heartbeatAdvance => exact execHeartbeatAdvance_keeps s (Keeps.refl _ _) rfl
  | rachisTakeover => exact execRachisTakeover_keeps s (Keeps.refl _ _) ⟨rfl, rfl, rfl, rfl, rfl, rfl, rfl⟩
  | standbyReloadDone ok => exact execStandbyReloadDone_keeps ok s (Keeps.refl _ _) ⟨rfl, rfl, rfl, rfl, rfl⟩
  | monRcvReq w => exact execMonRcvReq_keeps w s (Keeps.refl _ _) ⟨rfl, rfl, rfl, rfl, rfl, rfl, rfl, rfl, rfl, rfl, rfl, rfl, rfl, rfl, rfl, rfl, rfl, rfl, rfl, rfl, rfl, rfl, rfl, rfl⟩
  | resetStepDone code pass => exact execResetStepDone_keeps code pass s (Keeps.refl _ _) ⟨rfl, rfl, rfl, rfl, rfl, rfl, rfl, rfl, rfl, rfl, rfl, rfl, rfl, rfl, rfl, rfl, rfl, rfl, rfl, rfl, rfl, rfl, rfl, rfl, rfl, rfl, rfl, rfl⟩
  | fenceDrainTimeout code => exact execFenceDrainTimeout_keeps code s (Keeps.refl _ _) ⟨rfl, rfl, rfl⟩
  | stookSaveDone id => exact execStookSaveDone_keeps id s (Keeps.refl _ _) ⟨rfl, rfl, rfl, rfl, rfl⟩
  | chnRcvResume c w => exact execChnRcvResume_keeps c w s (Keeps.refl _ _) rfl
  | lsLoad c w => exact execLsLoad_keeps c w s (Keeps.refl _ _) ⟨rfl, rfl⟩
  | powerAverage mw mv => exact execPowerAverage_keeps mw mv s (Keeps.refl _ _) ⟨rfl, rfl, rfl, rfl⟩
  | dieTempSample temps regs => exact execDieTempSample_keeps temps regs s (Keeps.refl _ _) ⟨rfl, rfl, rfl, rfl⟩
  | thermLevelStep => exact execThermLevelStep_keeps s (Keeps.refl _ _) rfl
  | thermalShutdown sensor => exact execThermalShutdown_keeps sensor s (Keeps.refl _ _) ⟨rfl, rfl, rfl, rfl, rfl, rfl, rfl, rfl, rfl, rfl, rfl, rfl, rfl, rfl, rfl, rfl, rfl⟩
  | throttleApply => exact execThrottleApply_keeps s (Keeps.refl _ _) rfl
  | vcoreDip site mv => exact execVcoreDip_keeps site mv s (Keeps.refl _ _) ⟨rfl, rfl, rfl, rfl⟩
  | stretchEnd => exact execStretchEnd_keeps s (Keeps.refl _ _) rfl
  | dipHoldEnd => exact execDipHoldEnd_keeps s (Keeps.refl _ _) rfl
  | vcoreResetLevel site mv => exact execVcoreResetLevel_keeps site mv s (Keeps.refl _ _) ⟨rfl, rfl, rfl, rfl, rfl, rfl, rfl, rfl, rfl, rfl, rfl, rfl, rfl, rfl, rfl, rfl, rfl, rfl, rfl, rfl, rfl, rfl, rfl⟩
  | railResetOther rail mv => exact execRailResetOther_keeps rail mv s (Keeps.refl _ _) ⟨rfl, rfl, rfl, rfl, rfl, rfl, rfl, rfl, rfl, rfl, rfl, rfl, rfl, rfl, rfl, rfl, rfl⟩
  | clockLoss => exact execClockLoss_keeps s (Keeps.refl _ _) ⟨rfl, rfl, rfl, rfl, rfl, rfl, rfl, rfl, rfl, rfl, rfl, rfl, rfl, rfl, rfl, rfl, rfl⟩
  | clockRestored => exact execClockRestored_keeps s (Keeps.refl _ _) rfl
  | vcoreMinReset w => exact execVcoreMinReset_keeps w s (Keeps.refl _ _) rfl
  | counterClear addr size w inc => exact execCounterClear_keeps addr size w inc s (Keeps.refl _ _) ⟨rfl, rfl, rfl⟩
  | registerWrite addr size x => exact execRegisterWrite_keeps addr size x s (Keeps.refl _ _) ⟨rfl, rfl, rfl, rfl, rfl, rfl⟩
  | bootChain strap activeBad stagingBad identityBad => exact execBootChain_keeps strap activeBad stagingBad identityBad s (Keeps.refl _ _) ⟨rfl, rfl, rfl, rfl, rfl, rfl, rfl⟩
  | flashOpDone => exact execFlashOpDone_keeps s (Keeps.refl _ _) ⟨rfl, rfl, rfl, rfl, rfl⟩
  | fwCommitCopy => exact execFwCommitCopy_keeps s (Keeps.refl _ _) ⟨rfl, rfl, rfl, rfl⟩
  | handoverStandbyReady => exact execHandoverStandbyReady_keeps s (Keeps.refl _ _) ⟨rfl, rfl, rfl, rfl, rfl, rfl⟩
  | handoverTimeout => exact execHandoverTimeout_keeps s (Keeps.refl _ _) ⟨rfl, rfl, rfl, rfl, rfl⟩
  | rcvBegin w => exact execRcvBegin_keeps w s (Keeps.refl _ _) rfl
  | rcvBlock w => exact execRcvBlock_keeps w s (Keeps.refl _ _) rfl
  | rcvVerify w => exact execRcvVerify_keeps w s (Keeps.refl _ _) ⟨rfl, rfl, rfl, rfl, rfl⟩
  | rcvStart w => exact execRcvStart_keeps w s (Keeps.refl _ _) ⟨rfl, rfl, rfl, rfl, rfl, rfl, rfl, rfl, rfl, rfl, rfl, rfl, rfl, rfl, rfl, rfl, rfl, rfl, rfl, rfl, rfl, rfl, rfl, rfl, rfl, rfl, rfl, rfl⟩
  | modRstPulse us => exact execModRstPulse_keeps us s (Keeps.refl _ _) ⟨rfl, rfl, rfl, rfl, rfl, rfl, rfl, rfl, rfl, rfl, rfl, rfl, rfl, rfl, rfl, rfl, rfl, rfl, rfl, rfl, rfl, rfl⟩
  | modRstLong released => exact execModRstLong_keeps released s (Keeps.refl _ _) ⟨rfl, rfl, rfl, rfl, rfl, rfl, rfl, rfl, rfl, rfl, rfl, rfl, rfl, rfl, rfl, rfl, rfl⟩
  | pwrEnRise addr => exact execPwrEnRise_keeps addr s (Keeps.refl _ _) ⟨rfl, rfl, rfl, rfl, rfl, rfl, rfl, rfl, rfl, rfl, rfl, rfl, rfl, rfl, rfl, rfl, rfl, rfl, rfl, rfl, rfl, rfl, rfl, rfl, rfl, rfl, rfl, rfl⟩
  | pwrEnFall => exact execPwrEnFall_keeps s (Keeps.refl _ _) ⟨rfl, rfl, rfl, rfl, rfl, rfl, rfl, rfl, rfl, rfl, rfl, rfl, rfl, rfl, rfl, rfl, rfl, rfl, rfl, rfl, rfl, rfl, rfl, rfl, rfl, rfl, rfl, rfl⟩
  | inputUndervolt => exact execInputUndervolt_keeps s (Keeps.refl _ _) ⟨rfl, rfl, rfl, rfl, rfl, rfl, rfl, rfl, rfl, rfl, rfl, rfl, rfl, rfl, rfl, rfl, rfl, rfl, rfl, rfl, rfl, rfl, rfl, rfl, rfl, rfl, rfl, rfl⟩
  | inputOvervolt => exact execInputOvervolt_keeps s (Keeps.refl _ _) ⟨rfl, rfl, rfl, rfl, rfl, rfl, rfl, rfl, rfl, rfl, rfl, rfl, rfl, rfl, rfl, rfl, rfl, rfl, rfl, rfl, rfl, rfl, rfl, rfl, rfl, rfl, rfl, rfl⟩
  | inputRestored => exact execInputRestored_keeps s (Keeps.refl _ _) ⟨rfl, rfl, rfl, rfl, rfl, rfl, rfl, rfl, rfl, rfl, rfl, rfl, rfl, rfl, rfl, rfl, rfl, rfl, rfl, rfl, rfl, rfl, rfl, rfl, rfl, rfl, rfl, rfl⟩
  | aonLoss => exact execAonLoss_keeps s (Keeps.refl _ _) ⟨rfl, rfl, rfl, rfl, rfl, rfl, rfl, rfl, rfl, rfl, rfl, rfl, rfl, rfl, rfl, rfl, rfl, rfl, rfl, rfl, rfl, rfl, rfl, rfl, rfl, rfl, rfl, rfl⟩
  | illegalOp t w => exact execIllegalOp_keeps t w s (Keeps.refl _ _) ⟨rfl, rfl, rfl, rfl, rfl, rfl, rfl, rfl, rfl, rfl, rfl, rfl, rfl, rfl, rfl, rfl⟩
  | unknownOpcode src e => exact execUnknownOpcode_keeps src e s (Keeps.refl _ _) ⟨rfl, rfl, rfl, rfl, rfl⟩
  | laneLock p => exact execLaneLock_keeps p s (Keeps.refl _ _) ⟨rfl, rfl, rfl, rfl, rfl, rfl⟩
  | trainingRecordSend p => exact execTrainingRecordSend_keeps p s (Keeps.refl _ _) rfl
  | railOutOfBand rail out => exact execRailOutOfBand_keeps rail out s (Keeps.refl _ _) rfl
  | inputApplied => exact execInputApplied_keeps s (Keeps.refl _ _) ⟨rfl, rfl, rfl, rfl, rfl, rfl, rfl, rfl, rfl, rfl, rfl, rfl, rfl, rfl, rfl, rfl, rfl, rfl, rfl, rfl, rfl, rfl, rfl, rfl, rfl, rfl, rfl, rfl⟩
  | undervoltEnd => exact execUndervoltEnd_keeps s (Keeps.refl _ _) ⟨rfl, rfl, rfl, rfl, rfl, rfl, rfl, rfl, rfl, rfl, rfl, rfl, rfl, rfl, rfl, rfl, rfl, rfl, rfl, rfl, rfl, rfl, rfl, rfl, rfl, rfl, rfl, rfl⟩
  | perstDeassert => exact execPerstDeassert_keeps s (Keeps.refl _ _) rfl

/-- What a command that answers a next state keeps. -/
theorem exec_keeps_of_next {i : Instr} {s t : State} (e : exec i s = .next t) : Keeps (frameOf i) s t := by
  have h := exec_keeps i s
  rwa [e] at h

end Sys2Proof.Machine
end

