-- ==== Sys2Proof/Laws/State.lean ====
section
/-! SUPPORT. The small laws of State: what each named update leaves of every field, what each unit reads as after an update of the same or of
another unit. No later proof unfolds a record update. -/

namespace Sys2Proof.Machine

open Sys2Proof

set_option Elab.async false

/-! ### setTiller -/

section
variable (s : State) (t : Nat) (v : Tiller)

@[simp] theorem setTiller_pending : (setTiller s t v).pending = s.pending := rfl
@[simp] theorem setTiller_us : (setTiller s t v).us = s.us := rfl
@[simp] theorem setTiller_freeCtr : (setTiller s t v).freeCtr = s.freeCtr := rfl
@[simp] theorem setTiller_regs : (setTiller s t v).regs = s.regs := rfl
@[simp] theorem setTiller_stackMap : (setTiller s t v).stackMap = s.stackMap := rfl
@[simp] theorem setTiller_deeps : (setTiller s t v).deeps = s.deeps := rfl
@[simp] theorem setTiller_dram : (setTiller s t v).dram = s.dram := rfl
@[simp] theorem setTiller_poison : (setTiller s t v).poison = s.poison := rfl
@[simp] theorem setTiller_husk : (setTiller s t v).husk = s.husk := rfl
@[simp] theorem setTiller_huskBad : (setTiller s t v).huskBad = s.huskBad := rfl
@[simp] theorem setTiller_objs : (setTiller s t v).objs = s.objs := rfl
@[simp] theorem setTiller_grans : (setTiller s t v).grans = s.grans := rfl
@[simp] theorem setTiller_shareGroups : (setTiller s t v).shareGroups = s.shareGroups := rfl
@[simp] theorem setTiller_used : (setTiller s t v).used = s.used := rfl
@[simp] theorem setTiller_migs : (setTiller s t v).migs = s.migs := rfl
@[simp] theorem setTiller_heldBy : (setTiller s t v).heldBy = s.heldBy := rfl
@[simp] theorem setTiller_xlat : (setTiller s t v).xlat = s.xlat := rfl
@[simp] theorem setTiller_mbxs : (setTiller s t v).mbxs = s.mbxs := rfl
@[simp] theorem setTiller_chans : (setTiller s t v).chans = s.chans := rfl
@[simp] theorem setTiller_links : (setTiller s t v).links = s.links := rfl
@[simp] theorem setTiller_cxl : (setTiller s t v).cxl = s.cxl := rfl
@[simp] theorem setTiller_power : (setTiller s t v).power = s.power := rfl
@[simp] theorem setTiller_phys : (setTiller s t v).phys = s.phys := rfl
@[simp] theorem setTiller_boot : (setTiller s t v).boot = s.boot := rfl
@[simp] theorem setTiller_rcv : (setTiller s t v).rcv = s.rcv := rfl
@[simp] theorem setTiller_flights : (setTiller s t v).flights = s.flights := rfl
@[simp] theorem setTiller_notices : (setTiller s t v).notices = s.notices := rfl
@[simp] theorem setTiller_smbOut : (setTiller s t v).smbOut = s.smbOut := rfl
@[simp] theorem stackAt_setTiller (n : Nat) : stackAt (setTiller s t v) n = stackAt s n := rfl
@[simp] theorem deepAt_setTiller (n : Nat) : deepAt (setTiller s t v) n = deepAt s n := rfl
@[simp] theorem mbxAt_setTiller (n : Nat) : mbxAt (setTiller s t v) n = mbxAt s n := rfl
@[simp] theorem chanAt_setTiller (n : Nat) : chanAt (setTiller s t v) n = chanAt s n := rfl
@[simp] theorem objAt_setTiller (n : Nat) : objAt (setTiller s t v) n = objAt s n := rfl
@[simp] theorem domainAt_setTiller (n : Nat) : domainAt (setTiller s t v) n = domainAt s n := rfl
@[simp] theorem portAt_setTiller (n : Nat) : portAt (setTiller s t v) n = portAt s n := rfl
@[simp] theorem groupAt_setTiller (n : Nat) : groupAt (setTiller s t v) n = groupAt s n := rfl
@[simp] theorem resh_setTiller (n : Nat) : resh n (setTiller s t v) = resh n s := rfl
@[simp] theorem rdAddr_setTiller (n : Nat) : rdAddr (setTiller s t v) n = rdAddr s n := rfl
@[simp] theorem rd_setTiller (k : Blk) (n : Nat) : rd (setTiller s t v) k n = rd s k n := rfl
end

/-! ### modTiller -/

section
variable (s : State) (t : Nat) (f : Tiller → Tiller)

@[simp] theorem modTiller_pending : (modTiller s t f).pending = s.pending := rfl
@[simp] theorem modTiller_us : (modTiller s t f).us = s.us := rfl
@[simp] theorem modTiller_freeCtr : (modTiller s t f).freeCtr = s.freeCtr := rfl
@[simp] theorem modTiller_regs : (modTiller s t f).regs = s.regs := rfl
@[simp] theorem modTiller_stackMap : (modTiller s t f).stackMap = s.stackMap := rfl
@[simp] theorem modTiller_deeps : (modTiller s t f).deeps = s.deeps := rfl
@[simp] theorem modTiller_dram : (modTiller s t f).dram = s.dram := rfl
@[simp] theorem modTiller_poison : (modTiller s t f).poison = s.poison := rfl
@[simp] theorem modTiller_husk : (modTiller s t f).husk = s.husk := rfl
@[simp] theorem modTiller_huskBad : (modTiller s t f).huskBad = s.huskBad := rfl
@[simp] theorem modTiller_objs : (modTiller s t f).objs = s.objs := rfl
@[simp] theorem modTiller_grans : (modTiller s t f).grans = s.grans := rfl
@[simp] theorem modTiller_shareGroups : (modTiller s t f).shareGroups = s.shareGroups := rfl
@[simp] theorem modTiller_used : (modTiller s t f).used = s.used := rfl
@[simp] theorem modTiller_migs : (modTiller s t f).migs = s.migs := rfl
@[simp] theorem modTiller_heldBy : (modTiller s t f).heldBy = s.heldBy := rfl
@[simp] theorem modTiller_xlat : (modTiller s t f).xlat = s.xlat := rfl
@[simp] theorem modTiller_mbxs : (modTiller s t f).mbxs = s.mbxs := rfl
@[simp] theorem modTiller_chans : (modTiller s t f).chans = s.chans := rfl
@[simp] theorem modTiller_links : (modTiller s t f).links = s.links := rfl
@[simp] theorem modTiller_cxl : (modTiller s t f).cxl = s.cxl := rfl
@[simp] theorem modTiller_power : (modTiller s t f).power = s.power := rfl
@[simp] theorem modTiller_phys : (modTiller s t f).phys = s.phys := rfl
@[simp] theorem modTiller_boot : (modTiller s t f).boot = s.boot := rfl
@[simp] theorem modTiller_rcv : (modTiller s t f).rcv = s.rcv := rfl
@[simp] theorem modTiller_flights : (modTiller s t f).flights = s.flights := rfl
@[simp] theorem modTiller_notices : (modTiller s t f).notices = s.notices := rfl
@[simp] theorem modTiller_smbOut : (modTiller s t f).smbOut = s.smbOut := rfl
@[simp] theorem stackAt_modTiller (n : Nat) : stackAt (modTiller s t f) n = stackAt s n := rfl
@[simp] theorem deepAt_modTiller (n : Nat) : deepAt (modTiller s t f) n = deepAt s n := rfl
@[simp] theorem mbxAt_modTiller (n : Nat) : mbxAt (modTiller s t f) n = mbxAt s n := rfl
@[simp] theorem chanAt_modTiller (n : Nat) : chanAt (modTiller s t f) n = chanAt s n := rfl
@[simp] theorem objAt_modTiller (n : Nat) : objAt (modTiller s t f) n = objAt s n := rfl
@[simp] theorem domainAt_modTiller (n : Nat) : domainAt (modTiller s t f) n = domainAt s n := rfl
@[simp] theorem portAt_modTiller (n : Nat) : portAt (modTiller s t f) n = portAt s n := rfl
@[simp] theorem groupAt_modTiller (n : Nat) : groupAt (modTiller s t f) n = groupAt s n := rfl
@[simp] theorem resh_modTiller (n : Nat) : resh n (modTiller s t f) = resh n s := rfl
@[simp] theorem rdAddr_modTiller (n : Nat) : rdAddr (modTiller s t f) n = rdAddr s n := rfl
@[simp] theorem rd_modTiller (k : Blk) (n : Nat) : rd (modTiller s t f) k n = rd s k n := rfl
end

/-! ### setStack -/

section
variable (s : State) (i : Nat) (v : Stack)

@[simp] theorem setStack_pending : (setStack s i v).pending = s.pending := rfl
@[simp] theorem setStack_us : (setStack s i v).us = s.us := rfl
@[simp] theorem setStack_freeCtr : (setStack s i v).freeCtr = s.freeCtr := rfl
@[simp] theorem setStack_regs : (setStack s i v).regs = s.regs := rfl
@[simp] theorem setStack_tillers : (setStack s i v).tillers = s.tillers := rfl
@[simp] theorem setStack_deeps : (setStack s i v).deeps = s.deeps := rfl
@[simp] theorem setStack_dram : (setStack s i v).dram = s.dram := rfl
@[simp] theorem setStack_poison : (setStack s i v).poison = s.poison := rfl
@[simp] theorem setStack_husk : (setStack s i v).husk = s.husk := rfl
@[simp] theorem setStack_huskBad : (setStack s i v).huskBad = s.huskBad := rfl
@[simp] theorem setStack_objs : (setStack s i v).objs = s.objs := rfl
@[simp] theorem setStack_grans : (setStack s i v).grans = s.grans := rfl
@[simp] theorem setStack_shareGroups : (setStack s i v).shareGroups = s.shareGroups := rfl
@[simp] theorem setStack_used : (setStack s i v).used = s.used := rfl
@[simp] theorem setStack_migs : (setStack s i v).migs = s.migs := rfl
@[simp] theorem setStack_heldBy : (setStack s i v).heldBy = s.heldBy := rfl
@[simp] theorem setStack_xlat : (setStack s i v).xlat = s.xlat := rfl
@[simp] theorem setStack_mbxs : (setStack s i v).mbxs = s.mbxs := rfl
@[simp] theorem setStack_chans : (setStack s i v).chans = s.chans := rfl
@[simp] theorem setStack_links : (setStack s i v).links = s.links := rfl
@[simp] theorem setStack_cxl : (setStack s i v).cxl = s.cxl := rfl
@[simp] theorem setStack_power : (setStack s i v).power = s.power := rfl
@[simp] theorem setStack_phys : (setStack s i v).phys = s.phys := rfl
@[simp] theorem setStack_boot : (setStack s i v).boot = s.boot := rfl
@[simp] theorem setStack_rcv : (setStack s i v).rcv = s.rcv := rfl
@[simp] theorem setStack_flights : (setStack s i v).flights = s.flights := rfl
@[simp] theorem setStack_notices : (setStack s i v).notices = s.notices := rfl
@[simp] theorem setStack_smbOut : (setStack s i v).smbOut = s.smbOut := rfl
@[simp] theorem tillerAt_setStack (n : Nat) : tillerAt (setStack s i v) n = tillerAt s n := rfl
@[simp] theorem deepAt_setStack (n : Nat) : deepAt (setStack s i v) n = deepAt s n := rfl
@[simp] theorem mbxAt_setStack (n : Nat) : mbxAt (setStack s i v) n = mbxAt s n := rfl
@[simp] theorem chanAt_setStack (n : Nat) : chanAt (setStack s i v) n = chanAt s n := rfl
@[simp] theorem objAt_setStack (n : Nat) : objAt (setStack s i v) n = objAt s n := rfl
@[simp] theorem domainAt_setStack (n : Nat) : domainAt (setStack s i v) n = domainAt s n := rfl
@[simp] theorem portAt_setStack (n : Nat) : portAt (setStack s i v) n = portAt s n := rfl
@[simp] theorem groupAt_setStack (n : Nat) : groupAt (setStack s i v) n = groupAt s n := rfl
@[simp] theorem resh_setStack (n : Nat) : resh n (setStack s i v) = resh n s := rfl
@[simp] theorem rdAddr_setStack (n : Nat) : rdAddr (setStack s i v) n = rdAddr s n := rfl
@[simp] theorem rd_setStack (k : Blk) (n : Nat) : rd (setStack s i v) k n = rd s k n := rfl
end

/-! ### modStack -/

section
variable (s : State) (i : Nat) (f : Stack → Stack)

@[simp] theorem modStack_pending : (modStack s i f).pending = s.pending := rfl
@[simp] theorem modStack_us : (modStack s i f).us = s.us := rfl
@[simp] theorem modStack_freeCtr : (modStack s i f).freeCtr = s.freeCtr := rfl
@[simp] theorem modStack_regs : (modStack s i f).regs = s.regs := rfl
@[simp] theorem modStack_tillers : (modStack s i f).tillers = s.tillers := rfl
@[simp] theorem modStack_deeps : (modStack s i f).deeps = s.deeps := rfl
@[simp] theorem modStack_dram : (modStack s i f).dram = s.dram := rfl
@[simp] theorem modStack_poison : (modStack s i f).poison = s.poison := rfl
@[simp] theorem modStack_husk : (modStack s i f).husk = s.husk := rfl
@[simp] theorem modStack_huskBad : (modStack s i f).huskBad = s.huskBad := rfl
@[simp] theorem modStack_objs : (modStack s i f).objs = s.objs := rfl
@[simp] theorem modStack_grans : (modStack s i f).grans = s.grans := rfl
@[simp] theorem modStack_shareGroups : (modStack s i f).shareGroups = s.shareGroups := rfl
@[simp] theorem modStack_used : (modStack s i f).used = s.used := rfl
@[simp] theorem modStack_migs : (modStack s i f).migs = s.migs := rfl
@[simp] theorem modStack_heldBy : (modStack s i f).heldBy = s.heldBy := rfl
@[simp] theorem modStack_xlat : (modStack s i f).xlat = s.xlat := rfl
@[simp] theorem modStack_mbxs : (modStack s i f).mbxs = s.mbxs := rfl
@[simp] theorem modStack_chans : (modStack s i f).chans = s.chans := rfl
@[simp] theorem modStack_links : (modStack s i f).links = s.links := rfl
@[simp] theorem modStack_cxl : (modStack s i f).cxl = s.cxl := rfl
@[simp] theorem modStack_power : (modStack s i f).power = s.power := rfl
@[simp] theorem modStack_phys : (modStack s i f).phys = s.phys := rfl
@[simp] theorem modStack_boot : (modStack s i f).boot = s.boot := rfl
@[simp] theorem modStack_rcv : (modStack s i f).rcv = s.rcv := rfl
@[simp] theorem modStack_flights : (modStack s i f).flights = s.flights := rfl
@[simp] theorem modStack_notices : (modStack s i f).notices = s.notices := rfl
@[simp] theorem modStack_smbOut : (modStack s i f).smbOut = s.smbOut := rfl
@[simp] theorem tillerAt_modStack (n : Nat) : tillerAt (modStack s i f) n = tillerAt s n := rfl
@[simp] theorem deepAt_modStack (n : Nat) : deepAt (modStack s i f) n = deepAt s n := rfl
@[simp] theorem mbxAt_modStack (n : Nat) : mbxAt (modStack s i f) n = mbxAt s n := rfl
@[simp] theorem chanAt_modStack (n : Nat) : chanAt (modStack s i f) n = chanAt s n := rfl
@[simp] theorem objAt_modStack (n : Nat) : objAt (modStack s i f) n = objAt s n := rfl
@[simp] theorem domainAt_modStack (n : Nat) : domainAt (modStack s i f) n = domainAt s n := rfl
@[simp] theorem portAt_modStack (n : Nat) : portAt (modStack s i f) n = portAt s n := rfl
@[simp] theorem groupAt_modStack (n : Nat) : groupAt (modStack s i f) n = groupAt s n := rfl
@[simp] theorem resh_modStack (n : Nat) : resh n (modStack s i f) = resh n s := rfl
@[simp] theorem rdAddr_modStack (n : Nat) : rdAddr (modStack s i f) n = rdAddr s n := rfl
@[simp] theorem rd_modStack (k : Blk) (n : Nat) : rd (modStack s i f) k n = rd s k n := rfl
end

/-! ### setDeep -/

section
variable (s : State) (d : Nat) (v : Deep)

@[simp] theorem setDeep_pending : (setDeep s d v).pending = s.pending := rfl
@[simp] theorem setDeep_us : (setDeep s d v).us = s.us := rfl
@[simp] theorem setDeep_freeCtr : (setDeep s d v).freeCtr = s.freeCtr := rfl
@[simp] theorem setDeep_regs : (setDeep s d v).regs = s.regs := rfl
@[simp] theorem setDeep_tillers : (setDeep s d v).tillers = s.tillers := rfl
@[simp] theorem setDeep_stackMap : (setDeep s d v).stackMap = s.stackMap := rfl
@[simp] theorem setDeep_dram : (setDeep s d v).dram = s.dram := rfl
@[simp] theorem setDeep_poison : (setDeep s d v).poison = s.poison := rfl
@[simp] theorem setDeep_husk : (setDeep s d v).husk = s.husk := rfl
@[simp] theorem setDeep_huskBad : (setDeep s d v).huskBad = s.huskBad := rfl
@[simp] theorem setDeep_objs : (setDeep s d v).objs = s.objs := rfl
@[simp] theorem setDeep_grans : (setDeep s d v).grans = s.grans := rfl
@[simp] theorem setDeep_shareGroups : (setDeep s d v).shareGroups = s.shareGroups := rfl
@[simp] theorem setDeep_used : (setDeep s d v).used = s.used := rfl
@[simp] theorem setDeep_migs : (setDeep s d v).migs = s.migs := rfl
@[simp] theorem setDeep_heldBy : (setDeep s d v).heldBy = s.heldBy := rfl
@[simp] theorem setDeep_xlat : (setDeep s d v).xlat = s.xlat := rfl
@[simp] theorem setDeep_mbxs : (setDeep s d v).mbxs = s.mbxs := rfl
@[simp] theorem setDeep_chans : (setDeep s d v).chans = s.chans := rfl
@[simp] theorem setDeep_links : (setDeep s d v).links = s.links := rfl
@[simp] theorem setDeep_cxl : (setDeep s d v).cxl = s.cxl := rfl
@[simp] theorem setDeep_power : (setDeep s d v).power = s.power := rfl
@[simp] theorem setDeep_phys : (setDeep s d v).phys = s.phys := rfl
@[simp] theorem setDeep_boot : (setDeep s d v).boot = s.boot := rfl
@[simp] theorem setDeep_rcv : (setDeep s d v).rcv = s.rcv := rfl
@[simp] theorem setDeep_flights : (setDeep s d v).flights = s.flights := rfl
@[simp] theorem setDeep_notices : (setDeep s d v).notices = s.notices := rfl
@[simp] theorem setDeep_smbOut : (setDeep s d v).smbOut = s.smbOut := rfl
@[simp] theorem tillerAt_setDeep (n : Nat) : tillerAt (setDeep s d v) n = tillerAt s n := rfl
@[simp] theorem stackAt_setDeep (n : Nat) : stackAt (setDeep s d v) n = stackAt s n := rfl
@[simp] theorem mbxAt_setDeep (n : Nat) : mbxAt (setDeep s d v) n = mbxAt s n := rfl
@[simp] theorem chanAt_setDeep (n : Nat) : chanAt (setDeep s d v) n = chanAt s n := rfl
@[simp] theorem objAt_setDeep (n : Nat) : objAt (setDeep s d v) n = objAt s n := rfl
@[simp] theorem domainAt_setDeep (n : Nat) : domainAt (setDeep s d v) n = domainAt s n := rfl
@[simp] theorem portAt_setDeep (n : Nat) : portAt (setDeep s d v) n = portAt s n := rfl
@[simp] theorem groupAt_setDeep (n : Nat) : groupAt (setDeep s d v) n = groupAt s n := rfl
@[simp] theorem resh_setDeep (n : Nat) : resh n (setDeep s d v) = resh n s := rfl
@[simp] theorem rdAddr_setDeep (n : Nat) : rdAddr (setDeep s d v) n = rdAddr s n := rfl
@[simp] theorem rd_setDeep (k : Blk) (n : Nat) : rd (setDeep s d v) k n = rd s k n := rfl
end

/-! ### modDeep -/

section
variable (s : State) (d : Nat) (f : Deep → Deep)

@[simp] theorem modDeep_pending : (modDeep s d f).pending = s.pending := rfl
@[simp] theorem modDeep_us : (modDeep s d f).us = s.us := rfl
@[simp] theorem modDeep_freeCtr : (modDeep s d f).freeCtr = s.freeCtr := rfl
@[simp] theorem modDeep_regs : (modDeep s d f).regs = s.regs := rfl
@[simp] theorem modDeep_tillers : (modDeep s d f).tillers = s.tillers := rfl
@[simp] theorem modDeep_stackMap : (modDeep s d f).stackMap = s.stackMap := rfl
@[simp] theorem modDeep_dram : (modDeep s d f).dram = s.dram := rfl
@[simp] theorem modDeep_poison : (modDeep s d f).poison = s.poison := rfl
@[simp] theorem modDeep_husk : (modDeep s d f).husk = s.husk := rfl
@[simp] theorem modDeep_huskBad : (modDeep s d f).huskBad = s.huskBad := rfl
@[simp] theorem modDeep_objs : (modDeep s d f).objs = s.objs := rfl
@[simp] theorem modDeep_grans : (modDeep s d f).grans = s.grans := rfl
@[simp] theorem modDeep_shareGroups : (modDeep s d f).shareGroups = s.shareGroups := rfl
@[simp] theorem modDeep_used : (modDeep s d f).used = s.used := rfl
@[simp] theorem modDeep_migs : (modDeep s d f).migs = s.migs := rfl
@[simp] theorem modDeep_heldBy : (modDeep s d f).heldBy = s.heldBy := rfl
@[simp] theorem modDeep_xlat : (modDeep s d f).xlat = s.xlat := rfl
@[simp] theorem modDeep_mbxs : (modDeep s d f).mbxs = s.mbxs := rfl
@[simp] theorem modDeep_chans : (modDeep s d f).chans = s.chans := rfl
@[simp] theorem modDeep_links : (modDeep s d f).links = s.links := rfl
@[simp] theorem modDeep_cxl : (modDeep s d f).cxl = s.cxl := rfl
@[simp] theorem modDeep_power : (modDeep s d f).power = s.power := rfl
@[simp] theorem modDeep_phys : (modDeep s d f).phys = s.phys := rfl
@[simp] theorem modDeep_boot : (modDeep s d f).boot = s.boot := rfl
@[simp] theorem modDeep_rcv : (modDeep s d f).rcv = s.rcv := rfl
@[simp] theorem modDeep_flights : (modDeep s d f).flights = s.flights := rfl
@[simp] theorem modDeep_notices : (modDeep s d f).notices = s.notices := rfl
@[simp] theorem modDeep_smbOut : (modDeep s d f).smbOut = s.smbOut := rfl
@[simp] theorem tillerAt_modDeep (n : Nat) : tillerAt (modDeep s d f) n = tillerAt s n := rfl
@[simp] theorem stackAt_modDeep (n : Nat) : stackAt (modDeep s d f) n = stackAt s n := rfl
@[simp] theorem mbxAt_modDeep (n : Nat) : mbxAt (modDeep s d f) n = mbxAt s n := rfl
@[simp] theorem chanAt_modDeep (n : Nat) : chanAt (modDeep s d f) n = chanAt s n := rfl
@[simp] theorem objAt_modDeep (n : Nat) : objAt (modDeep s d f) n = objAt s n := rfl
@[simp] theorem domainAt_modDeep (n : Nat) : domainAt (modDeep s d f) n = domainAt s n := rfl
@[simp] theorem portAt_modDeep (n : Nat) : portAt (modDeep s d f) n = portAt s n := rfl
@[simp] theorem groupAt_modDeep (n : Nat) : groupAt (modDeep s d f) n = groupAt s n := rfl
@[simp] theorem resh_modDeep (n : Nat) : resh n (modDeep s d f) = resh n s := rfl
@[simp] theorem rdAddr_modDeep (n : Nat) : rdAddr (modDeep s d f) n = rdAddr s n := rfl
@[simp] theorem rd_modDeep (k : Blk) (n : Nat) : rd (modDeep s d f) k n = rd s k n := rfl
end

/-! ### setMbx -/

section
variable (s : State) (m : Nat) (v : Mbx)

@[simp] theorem setMbx_pending : (setMbx s m v).pending = s.pending := rfl
@[simp] theorem setMbx_us : (setMbx s m v).us = s.us := rfl
@[simp] theorem setMbx_freeCtr : (setMbx s m v).freeCtr = s.freeCtr := rfl
@[simp] theorem setMbx_regs : (setMbx s m v).regs = s.regs := rfl
@[simp] theorem setMbx_tillers : (setMbx s m v).tillers = s.tillers := rfl
@[simp] theorem setMbx_stackMap : (setMbx s m v).stackMap = s.stackMap := rfl
@[simp] theorem setMbx_deeps : (setMbx s m v).deeps = s.deeps := rfl
@[simp] theorem setMbx_dram : (setMbx s m v).dram = s.dram := rfl
@[simp] theorem setMbx_poison : (setMbx s m v).poison = s.poison := rfl
@[simp] theorem setMbx_husk : (setMbx s m v).husk = s.husk := rfl
@[simp] theorem setMbx_huskBad : (setMbx s m v).huskBad = s.huskBad := rfl
@[simp] theorem setMbx_objs : (setMbx s m v).objs = s.objs := rfl
@[simp] theorem setMbx_grans : (setMbx s m v).grans = s.grans := rfl
@[simp] theorem setMbx_shareGroups : (setMbx s m v).shareGroups = s.shareGroups := rfl
@[simp] theorem setMbx_used : (setMbx s m v).used = s.used := rfl
@[simp] theorem setMbx_migs : (setMbx s m v).migs = s.migs := rfl
@[simp] theorem setMbx_heldBy : (setMbx s m v).heldBy = s.heldBy := rfl
@[simp] theorem setMbx_xlat : (setMbx s m v).xlat = s.xlat := rfl
@[simp] theorem setMbx_chans : (setMbx s m v).chans = s.chans := rfl
@[simp] theorem setMbx_links : (setMbx s m v).links = s.links := rfl
@[simp] theorem setMbx_cxl : (setMbx s m v).cxl = s.cxl := rfl
@[simp] theorem setMbx_power : (setMbx s m v).power = s.power := rfl
@[simp] theorem setMbx_phys : (setMbx s m v).phys = s.phys := rfl
@[simp] theorem setMbx_boot : (setMbx s m v).boot = s.boot := rfl
@[simp] theorem setMbx_rcv : (setMbx s m v).rcv = s.rcv := rfl
@[simp] theorem setMbx_flights : (setMbx s m v).flights = s.flights := rfl
@[simp] theorem setMbx_notices : (setMbx s m v).notices = s.notices := rfl
@[simp] theorem setMbx_smbOut : (setMbx s m v).smbOut = s.smbOut := rfl
@[simp] theorem tillerAt_setMbx (n : Nat) : tillerAt (setMbx s m v) n = tillerAt s n := rfl
@[simp] theorem stackAt_setMbx (n : Nat) : stackAt (setMbx s m v) n = stackAt s n := rfl
@[simp] theorem deepAt_setMbx (n : Nat) : deepAt (setMbx s m v) n = deepAt s n := rfl
@[simp] theorem chanAt_setMbx (n : Nat) : chanAt (setMbx s m v) n = chanAt s n := rfl
@[simp] theorem objAt_setMbx (n : Nat) : objAt (setMbx s m v) n = objAt s n := rfl
@[simp] theorem domainAt_setMbx (n : Nat) : domainAt (setMbx s m v) n = domainAt s n := rfl
@[simp] theorem portAt_setMbx (n : Nat) : portAt (setMbx s m v) n = portAt s n := rfl
@[simp] theorem groupAt_setMbx (n : Nat) : groupAt (setMbx s m v) n = groupAt s n := rfl
@[simp] theorem resh_setMbx (n : Nat) : resh n (setMbx s m v) = resh n s := rfl
@[simp] theorem rdAddr_setMbx (n : Nat) : rdAddr (setMbx s m v) n = rdAddr s n := rfl
@[simp] theorem rd_setMbx (k : Blk) (n : Nat) : rd (setMbx s m v) k n = rd s k n := rfl
end

/-! ### modMbx -/

section
variable (s : State) (m : Nat) (f : Mbx → Mbx)

@[simp] theorem modMbx_pending : (modMbx s m f).pending = s.pending := rfl
@[simp] theorem modMbx_us : (modMbx s m f).us = s.us := rfl
@[simp] theorem modMbx_freeCtr : (modMbx s m f).freeCtr = s.freeCtr := rfl
@[simp] theorem modMbx_regs : (modMbx s m f).regs = s.regs := rfl
@[simp] theorem modMbx_tillers : (modMbx s m f).tillers = s.tillers := rfl
@[simp] theorem modMbx_stackMap : (modMbx s m f).stackMap = s.stackMap := rfl
@[simp] theorem modMbx_deeps : (modMbx s m f).deeps = s.deeps := rfl
@[simp] theorem modMbx_dram : (modMbx s m f).dram = s.dram := rfl
@[simp] theorem modMbx_poison : (modMbx s m f).poison = s.poison := rfl
@[simp] theorem modMbx_husk : (modMbx s m f).husk = s.husk := rfl
@[simp] theorem modMbx_huskBad : (modMbx s m f).huskBad = s.huskBad := rfl
@[simp] theorem modMbx_objs : (modMbx s m f).objs = s.objs := rfl
@[simp] theorem modMbx_grans : (modMbx s m f).grans = s.grans := rfl
@[simp] theorem modMbx_shareGroups : (modMbx s m f).shareGroups = s.shareGroups := rfl
@[simp] theorem modMbx_used : (modMbx s m f).used = s.used := rfl
@[simp] theorem modMbx_migs : (modMbx s m f).migs = s.migs := rfl
@[simp] theorem modMbx_heldBy : (modMbx s m f).heldBy = s.heldBy := rfl
@[simp] theorem modMbx_xlat : (modMbx s m f).xlat = s.xlat := rfl
@[simp] theorem modMbx_chans : (modMbx s m f).chans = s.chans := rfl
@[simp] theorem modMbx_links : (modMbx s m f).links = s.links := rfl
@[simp] theorem modMbx_cxl : (modMbx s m f).cxl = s.cxl := rfl
@[simp] theorem modMbx_power : (modMbx s m f).power = s.power := rfl
@[simp] theorem modMbx_phys : (modMbx s m f).phys = s.phys := rfl
@[simp] theorem modMbx_boot : (modMbx s m f).boot = s.boot := rfl
@[simp] theorem modMbx_rcv : (modMbx s m f).rcv = s.rcv := rfl
@[simp] theorem modMbx_flights : (modMbx s m f).flights = s.flights := rfl
@[simp] theorem modMbx_notices : (modMbx s m f).notices = s.notices := rfl
@[simp] theorem modMbx_smbOut : (modMbx s m f).smbOut = s.smbOut := rfl
@[simp] theorem tillerAt_modMbx (n : Nat) : tillerAt (modMbx s m f) n = tillerAt s n := rfl
@[simp] theorem stackAt_modMbx (n : Nat) : stackAt (modMbx s m f) n = stackAt s n := rfl
@[simp] theorem deepAt_modMbx (n : Nat) : deepAt (modMbx s m f) n = deepAt s n := rfl
@[simp] theorem chanAt_modMbx (n : Nat) : chanAt (modMbx s m f) n = chanAt s n := rfl
@[simp] theorem objAt_modMbx (n : Nat) : objAt (modMbx s m f) n = objAt s n := rfl
@[simp] theorem domainAt_modMbx (n : Nat) : domainAt (modMbx s m f) n = domainAt s n := rfl
@[simp] theorem portAt_modMbx (n : Nat) : portAt (modMbx s m f) n = portAt s n := rfl
@[simp] theorem groupAt_modMbx (n : Nat) : groupAt (modMbx s m f) n = groupAt s n := rfl
@[simp] theorem resh_modMbx (n : Nat) : resh n (modMbx s m f) = resh n s := rfl
@[simp] theorem rdAddr_modMbx (n : Nat) : rdAddr (modMbx s m f) n = rdAddr s n := rfl
@[simp] theorem rd_modMbx (k : Blk) (n : Nat) : rd (modMbx s m f) k n = rd s k n := rfl
end

/-! ### setChan -/

section
variable (s : State) (c : Nat) (v : Chan)

@[simp] theorem setChan_pending : (setChan s c v).pending = s.pending := rfl
@[simp] theorem setChan_us : (setChan s c v).us = s.us := rfl
@[simp] theorem setChan_freeCtr : (setChan s c v).freeCtr = s.freeCtr := rfl
@[simp] theorem setChan_regs : (setChan s c v).regs = s.regs := rfl
@[simp] theorem setChan_tillers : (setChan s c v).tillers = s.tillers := rfl
@[simp] theorem setChan_stackMap : (setChan s c v).stackMap = s.stackMap := rfl
@[simp] theorem setChan_deeps : (setChan s c v).deeps = s.deeps := rfl
@[simp] theorem setChan_dram : (setChan s c v).dram = s.dram := rfl
@[simp] theorem setChan_poison : (setChan s c v).poison = s.poison := rfl
@[simp] theorem setChan_husk : (setChan s c v).husk = s.husk := rfl
@[simp] theorem setChan_huskBad : (setChan s c v).huskBad = s.huskBad := rfl
@[simp] theorem setChan_objs : (setChan s c v).objs = s.objs := rfl
@[simp] theorem setChan_grans : (setChan s c v).grans = s.grans := rfl
@[simp] theorem setChan_shareGroups : (setChan s c v).shareGroups = s.shareGroups := rfl
@[simp] theorem setChan_used : (setChan s c v).used = s.used := rfl
@[simp] theorem setChan_migs : (setChan s c v).migs = s.migs := rfl
@[simp] theorem setChan_heldBy : (setChan s c v).heldBy = s.heldBy := rfl
@[simp] theorem setChan_xlat : (setChan s c v).xlat = s.xlat := rfl
@[simp] theorem setChan_mbxs : (setChan s c v).mbxs = s.mbxs := rfl
@[simp] theorem setChan_links : (setChan s c v).links = s.links := rfl
@[simp] theorem setChan_cxl : (setChan s c v).cxl = s.cxl := rfl
@[simp] theorem setChan_power : (setChan s c v).power = s.power := rfl
@[simp] theorem setChan_phys : (setChan s c v).phys = s.phys := rfl
@[simp] theorem setChan_boot : (setChan s c v).boot = s.boot := rfl
@[simp] theorem setChan_rcv : (setChan s c v).rcv = s.rcv := rfl
@[simp] theorem setChan_flights : (setChan s c v).flights = s.flights := rfl
@[simp] theorem setChan_notices : (setChan s c v).notices = s.notices := rfl
@[simp] theorem setChan_smbOut : (setChan s c v).smbOut = s.smbOut := rfl
@[simp] theorem tillerAt_setChan (n : Nat) : tillerAt (setChan s c v) n = tillerAt s n := rfl
@[simp] theorem stackAt_setChan (n : Nat) : stackAt (setChan s c v) n = stackAt s n := rfl
@[simp] theorem deepAt_setChan (n : Nat) : deepAt (setChan s c v) n = deepAt s n := rfl
@[simp] theorem mbxAt_setChan (n : Nat) : mbxAt (setChan s c v) n = mbxAt s n := rfl
@[simp] theorem objAt_setChan (n : Nat) : objAt (setChan s c v) n = objAt s n := rfl
@[simp] theorem domainAt_setChan (n : Nat) : domainAt (setChan s c v) n = domainAt s n := rfl
@[simp] theorem portAt_setChan (n : Nat) : portAt (setChan s c v) n = portAt s n := rfl
@[simp] theorem groupAt_setChan (n : Nat) : groupAt (setChan s c v) n = groupAt s n := rfl
@[simp] theorem resh_setChan (n : Nat) : resh n (setChan s c v) = resh n s := rfl
@[simp] theorem rdAddr_setChan (n : Nat) : rdAddr (setChan s c v) n = rdAddr s n := rfl
@[simp] theorem rd_setChan (k : Blk) (n : Nat) : rd (setChan s c v) k n = rd s k n := rfl
end

/-! ### modChan -/

section
variable (s : State) (c : Nat) (f : Chan → Chan)

@[simp] theorem modChan_pending : (modChan s c f).pending = s.pending := rfl
@[simp] theorem modChan_us : (modChan s c f).us = s.us := rfl
@[simp] theorem modChan_freeCtr : (modChan s c f).freeCtr = s.freeCtr := rfl
@[simp] theorem modChan_regs : (modChan s c f).regs = s.regs := rfl
@[simp] theorem modChan_tillers : (modChan s c f).tillers = s.tillers := rfl
@[simp] theorem modChan_stackMap : (modChan s c f).stackMap = s.stackMap := rfl
@[simp] theorem modChan_deeps : (modChan s c f).deeps = s.deeps := rfl
@[simp] theorem modChan_dram : (modChan s c f).dram = s.dram := rfl
@[simp] theorem modChan_poison : (modChan s c f).poison = s.poison := rfl
@[simp] theorem modChan_husk : (modChan s c f).husk = s.husk := rfl
@[simp] theorem modChan_huskBad : (modChan s c f).huskBad = s.huskBad := rfl
@[simp] theorem modChan_objs : (modChan s c f).objs = s.objs := rfl
@[simp] theorem modChan_grans : (modChan s c f).grans = s.grans := rfl
@[simp] theorem modChan_shareGroups : (modChan s c f).shareGroups = s.shareGroups := rfl
@[simp] theorem modChan_used : (modChan s c f).used = s.used := rfl
@[simp] theorem modChan_migs : (modChan s c f).migs = s.migs := rfl
@[simp] theorem modChan_heldBy : (modChan s c f).heldBy = s.heldBy := rfl
@[simp] theorem modChan_xlat : (modChan s c f).xlat = s.xlat := rfl
@[simp] theorem modChan_mbxs : (modChan s c f).mbxs = s.mbxs := rfl
@[simp] theorem modChan_links : (modChan s c f).links = s.links := rfl
@[simp] theorem modChan_cxl : (modChan s c f).cxl = s.cxl := rfl
@[simp] theorem modChan_power : (modChan s c f).power = s.power := rfl
@[simp] theorem modChan_phys : (modChan s c f).phys = s.phys := rfl
@[simp] theorem modChan_boot : (modChan s c f).boot = s.boot := rfl
@[simp] theorem modChan_rcv : (modChan s c f).rcv = s.rcv := rfl
@[simp] theorem modChan_flights : (modChan s c f).flights = s.flights := rfl
@[simp] theorem modChan_notices : (modChan s c f).notices = s.notices := rfl
@[simp] theorem modChan_smbOut : (modChan s c f).smbOut = s.smbOut := rfl
@[simp] theorem tillerAt_modChan (n : Nat) : tillerAt (modChan s c f) n = tillerAt s n := rfl
@[simp] theorem stackAt_modChan (n : Nat) : stackAt (modChan s c f) n = stackAt s n := rfl
@[simp] theorem deepAt_modChan (n : Nat) : deepAt (modChan s c f) n = deepAt s n := rfl
@[simp] theorem mbxAt_modChan (n : Nat) : mbxAt (modChan s c f) n = mbxAt s n := rfl
@[simp] theorem objAt_modChan (n : Nat) : objAt (modChan s c f) n = objAt s n := rfl
@[simp] theorem domainAt_modChan (n : Nat) : domainAt (modChan s c f) n = domainAt s n := rfl
@[simp] theorem portAt_modChan (n : Nat) : portAt (modChan s c f) n = portAt s n := rfl
@[simp] theorem groupAt_modChan (n : Nat) : groupAt (modChan s c f) n = groupAt s n := rfl
@[simp] theorem resh_modChan (n : Nat) : resh n (modChan s c f) = resh n s := rfl
@[simp] theorem rdAddr_modChan (n : Nat) : rdAddr (modChan s c f) n = rdAddr s n := rfl
@[simp] theorem rd_modChan (k : Blk) (n : Nat) : rd (modChan s c f) k n = rd s k n := rfl
end

/-! ### modRings -/

section
variable (s : State) (c : Nat) (f : Rings → Rings)

@[simp] theorem modRings_pending : (modRings s c f).pending = s.pending := rfl
@[simp] theorem modRings_us : (modRings s c f).us = s.us := rfl
@[simp] theorem modRings_freeCtr : (modRings s c f).freeCtr = s.freeCtr := rfl
@[simp] theorem modRings_regs : (modRings s c f).regs = s.regs := rfl
@[simp] theorem modRings_tillers : (modRings s c f).tillers = s.tillers := rfl
@[simp] theorem modRings_stackMap : (modRings s c f).stackMap = s.stackMap := rfl
@[simp] theorem modRings_deeps : (modRings s c f).deeps = s.deeps := rfl
@[simp] theorem modRings_dram : (modRings s c f).dram = s.dram := rfl
@[simp] theorem modRings_poison : (modRings s c f).poison = s.poison := rfl
@[simp] theorem modRings_husk : (modRings s c f).husk = s.husk := rfl
@[simp] theorem modRings_huskBad : (modRings s c f).huskBad = s.huskBad := rfl
@[simp] theorem modRings_objs : (modRings s c f).objs = s.objs := rfl
@[simp] theorem modRings_grans : (modRings s c f).grans = s.grans := rfl
@[simp] theorem modRings_shareGroups : (modRings s c f).shareGroups = s.shareGroups := rfl
@[simp] theorem modRings_used : (modRings s c f).used = s.used := rfl
@[simp] theorem modRings_migs : (modRings s c f).migs = s.migs := rfl
@[simp] theorem modRings_heldBy : (modRings s c f).heldBy = s.heldBy := rfl
@[simp] theorem modRings_xlat : (modRings s c f).xlat = s.xlat := rfl
@[simp] theorem modRings_mbxs : (modRings s c f).mbxs = s.mbxs := rfl
@[simp] theorem modRings_links : (modRings s c f).links = s.links := rfl
@[simp] theorem modRings_cxl : (modRings s c f).cxl = s.cxl := rfl
@[simp] theorem modRings_power : (modRings s c f).power = s.power := rfl
@[simp] theorem modRings_phys : (modRings s c f).phys = s.phys := rfl
@[simp] theorem modRings_boot : (modRings s c f).boot = s.boot := rfl
@[simp] theorem modRings_rcv : (modRings s c f).rcv = s.rcv := rfl
@[simp] theorem modRings_flights : (modRings s c f).flights = s.flights := rfl
@[simp] theorem modRings_notices : (modRings s c f).notices = s.notices := rfl
@[simp] theorem modRings_smbOut : (modRings s c f).smbOut = s.smbOut := rfl
@[simp] theorem tillerAt_modRings (n : Nat) : tillerAt (modRings s c f) n = tillerAt s n := rfl
@[simp] theorem stackAt_modRings (n : Nat) : stackAt (modRings s c f) n = stackAt s n := rfl
@[simp] theorem deepAt_modRings (n : Nat) : deepAt (modRings s c f) n = deepAt s n := rfl
@[simp] theorem mbxAt_modRings (n : Nat) : mbxAt (modRings s c f) n = mbxAt s n := rfl
@[simp] theorem objAt_modRings (n : Nat) : objAt (modRings s c f) n = objAt s n := rfl
@[simp] theorem domainAt_modRings (n : Nat) : domainAt (modRings s c f) n = domainAt s n := rfl
@[simp] theorem portAt_modRings (n : Nat) : portAt (modRings s c f) n = portAt s n := rfl
@[simp] theorem groupAt_modRings (n : Nat) : groupAt (modRings s c f) n = groupAt s n := rfl
@[simp] theorem resh_modRings (n : Nat) : resh n (modRings s c f) = resh n s := rfl
@[simp] theorem rdAddr_modRings (n : Nat) : rdAddr (modRings s c f) n = rdAddr s n := rfl
@[simp] theorem rd_modRings (k : Blk) (n : Nat) : rd (modRings s c f) k n = rd s k n := rfl
end

/-! ### modTrn -/

section
variable (s : State) (c : Nat) (f : Trn → Trn)

@[simp] theorem modTrn_pending : (modTrn s c f).pending = s.pending := rfl
@[simp] theorem modTrn_us : (modTrn s c f).us = s.us := rfl
@[simp] theorem modTrn_freeCtr : (modTrn s c f).freeCtr = s.freeCtr := rfl
@[simp] theorem modTrn_regs : (modTrn s c f).regs = s.regs := rfl
@[simp] theorem modTrn_tillers : (modTrn s c f).tillers = s.tillers := rfl
@[simp] theorem modTrn_stackMap : (modTrn s c f).stackMap = s.stackMap := rfl
@[simp] theorem modTrn_deeps : (modTrn s c f).deeps = s.deeps := rfl
@[simp] theorem modTrn_dram : (modTrn s c f).dram = s.dram := rfl
@[simp] theorem modTrn_poison : (modTrn s c f).poison = s.poison := rfl
@[simp] theorem modTrn_husk : (modTrn s c f).husk = s.husk := rfl
@[simp] theorem modTrn_huskBad : (modTrn s c f).huskBad = s.huskBad := rfl
@[simp] theorem modTrn_objs : (modTrn s c f).objs = s.objs := rfl
@[simp] theorem modTrn_grans : (modTrn s c f).grans = s.grans := rfl
@[simp] theorem modTrn_shareGroups : (modTrn s c f).shareGroups = s.shareGroups := rfl
@[simp] theorem modTrn_used : (modTrn s c f).used = s.used := rfl
@[simp] theorem modTrn_migs : (modTrn s c f).migs = s.migs := rfl
@[simp] theorem modTrn_heldBy : (modTrn s c f).heldBy = s.heldBy := rfl
@[simp] theorem modTrn_xlat : (modTrn s c f).xlat = s.xlat := rfl
@[simp] theorem modTrn_mbxs : (modTrn s c f).mbxs = s.mbxs := rfl
@[simp] theorem modTrn_links : (modTrn s c f).links = s.links := rfl
@[simp] theorem modTrn_cxl : (modTrn s c f).cxl = s.cxl := rfl
@[simp] theorem modTrn_power : (modTrn s c f).power = s.power := rfl
@[simp] theorem modTrn_phys : (modTrn s c f).phys = s.phys := rfl
@[simp] theorem modTrn_boot : (modTrn s c f).boot = s.boot := rfl
@[simp] theorem modTrn_rcv : (modTrn s c f).rcv = s.rcv := rfl
@[simp] theorem modTrn_flights : (modTrn s c f).flights = s.flights := rfl
@[simp] theorem modTrn_notices : (modTrn s c f).notices = s.notices := rfl
@[simp] theorem modTrn_smbOut : (modTrn s c f).smbOut = s.smbOut := rfl
@[simp] theorem tillerAt_modTrn (n : Nat) : tillerAt (modTrn s c f) n = tillerAt s n := rfl
@[simp] theorem stackAt_modTrn (n : Nat) : stackAt (modTrn s c f) n = stackAt s n := rfl
@[simp] theorem deepAt_modTrn (n : Nat) : deepAt (modTrn s c f) n = deepAt s n := rfl
@[simp] theorem mbxAt_modTrn (n : Nat) : mbxAt (modTrn s c f) n = mbxAt s n := rfl
@[simp] theorem objAt_modTrn (n : Nat) : objAt (modTrn s c f) n = objAt s n := rfl
@[simp] theorem domainAt_modTrn (n : Nat) : domainAt (modTrn s c f) n = domainAt s n := rfl
@[simp] theorem portAt_modTrn (n : Nat) : portAt (modTrn s c f) n = portAt s n := rfl
@[simp] theorem groupAt_modTrn (n : Nat) : groupAt (modTrn s c f) n = groupAt s n := rfl
@[simp] theorem resh_modTrn (n : Nat) : resh n (modTrn s c f) = resh n s := rfl
@[simp] theorem rdAddr_modTrn (n : Nat) : rdAddr (modTrn s c f) n = rdAddr s n := rfl
@[simp] theorem rd_modTrn (k : Blk) (n : Nat) : rd (modTrn s c f) k n = rd s k n := rfl
end

/-! ### modChanRcv -/

section
variable (s : State) (c : Nat) (f : ChanRcv → ChanRcv)

@[simp] theorem modChanRcv_pending : (modChanRcv s c f).pending = s.pending := rfl
@[simp] theorem modChanRcv_us : (modChanRcv s c f).us = s.us := rfl
@[simp] theorem modChanRcv_freeCtr : (modChanRcv s c f).freeCtr = s.freeCtr := rfl
@[simp] theorem modChanRcv_regs : (modChanRcv s c f).regs = s.regs := rfl
@[simp] theorem modChanRcv_tillers : (modChanRcv s c f).tillers = s.tillers := rfl
@[simp] theorem modChanRcv_stackMap : (modChanRcv s c f).stackMap = s.stackMap := rfl
@[simp] theorem modChanRcv_deeps : (modChanRcv s c f).deeps = s.deeps := rfl
@[simp] theorem modChanRcv_dram : (modChanRcv s c f).dram = s.dram := rfl
@[simp] theorem modChanRcv_poison : (modChanRcv s c f).poison = s.poison := rfl
@[simp] theorem modChanRcv_husk : (modChanRcv s c f).husk = s.husk := rfl
@[simp] theorem modChanRcv_huskBad : (modChanRcv s c f).huskBad = s.huskBad := rfl
@[simp] theorem modChanRcv_objs : (modChanRcv s c f).objs = s.objs := rfl
@[simp] theorem modChanRcv_grans : (modChanRcv s c f).grans = s.grans := rfl
@[simp] theorem modChanRcv_shareGroups : (modChanRcv s c f).shareGroups = s.shareGroups := rfl
@[simp] theorem modChanRcv_used : (modChanRcv s c f).used = s.used := rfl
@[simp] theorem modChanRcv_migs : (modChanRcv s c f).migs = s.migs := rfl
@[simp] theorem modChanRcv_heldBy : (modChanRcv s c f).heldBy = s.heldBy := rfl
@[simp] theorem modChanRcv_xlat : (modChanRcv s c f).xlat = s.xlat := rfl
@[simp] theorem modChanRcv_mbxs : (modChanRcv s c f).mbxs = s.mbxs := rfl
@[simp] theorem modChanRcv_links : (modChanRcv s c f).links = s.links := rfl
@[simp] theorem modChanRcv_cxl : (modChanRcv s c f).cxl = s.cxl := rfl
@[simp] theorem modChanRcv_power : (modChanRcv s c f).power = s.power := rfl
@[simp] theorem modChanRcv_phys : (modChanRcv s c f).phys = s.phys := rfl
@[simp] theorem modChanRcv_boot : (modChanRcv s c f).boot = s.boot := rfl
@[simp] theorem modChanRcv_rcv : (modChanRcv s c f).rcv = s.rcv := rfl
@[simp] theorem modChanRcv_flights : (modChanRcv s c f).flights = s.flights := rfl
@[simp] theorem modChanRcv_notices : (modChanRcv s c f).notices = s.notices := rfl
@[simp] theorem modChanRcv_smbOut : (modChanRcv s c f).smbOut = s.smbOut := rfl
@[simp] theorem tillerAt_modChanRcv (n : Nat) : tillerAt (modChanRcv s c f) n = tillerAt s n := rfl
@[simp] theorem stackAt_modChanRcv (n : Nat) : stackAt (modChanRcv s c f) n = stackAt s n := rfl
@[simp] theorem deepAt_modChanRcv (n : Nat) : deepAt (modChanRcv s c f) n = deepAt s n := rfl
@[simp] theorem mbxAt_modChanRcv (n : Nat) : mbxAt (modChanRcv s c f) n = mbxAt s n := rfl
@[simp] theorem objAt_modChanRcv (n : Nat) : objAt (modChanRcv s c f) n = objAt s n := rfl
@[simp] theorem domainAt_modChanRcv (n : Nat) : domainAt (modChanRcv s c f) n = domainAt s n := rfl
@[simp] theorem portAt_modChanRcv (n : Nat) : portAt (modChanRcv s c f) n = portAt s n := rfl
@[simp] theorem groupAt_modChanRcv (n : Nat) : groupAt (modChanRcv s c f) n = groupAt s n := rfl
@[simp] theorem resh_modChanRcv (n : Nat) : resh n (modChanRcv s c f) = resh n s := rfl
@[simp] theorem rdAddr_modChanRcv (n : Nat) : rdAddr (modChanRcv s c f) n = rdAddr s n := rfl
@[simp] theorem rd_modChanRcv (k : Blk) (n : Nat) : rd (modChanRcv s c f) k n = rd s k n := rfl
end

/-! ### setObj -/

section
variable (s : State) (o : Nat) (v : Obj)

@[simp] theorem setObj_pending : (setObj s o v).pending = s.pending := rfl
@[simp] theorem setObj_us : (setObj s o v).us = s.us := rfl
@[simp] theorem setObj_freeCtr : (setObj s o v).freeCtr = s.freeCtr := rfl
@[simp] theorem setObj_regs : (setObj s o v).regs = s.regs := rfl
@[simp] theorem setObj_tillers : (setObj s o v).tillers = s.tillers := rfl
@[simp] theorem setObj_stackMap : (setObj s o v).stackMap = s.stackMap := rfl
@[simp] theorem setObj_deeps : (setObj s o v).deeps = s.deeps := rfl
@[simp] theorem setObj_dram : (setObj s o v).dram = s.dram := rfl
@[simp] theorem setObj_poison : (setObj s o v).poison = s.poison := rfl
@[simp] theorem setObj_husk : (setObj s o v).husk = s.husk := rfl
@[simp] theorem setObj_huskBad : (setObj s o v).huskBad = s.huskBad := rfl
@[simp] theorem setObj_grans : (setObj s o v).grans = s.grans := rfl
@[simp] theorem setObj_shareGroups : (setObj s o v).shareGroups = s.shareGroups := rfl
@[simp] theorem setObj_used : (setObj s o v).used = s.used := rfl
@[simp] theorem setObj_migs : (setObj s o v).migs = s.migs := rfl
@[simp] theorem setObj_heldBy : (setObj s o v).heldBy = s.heldBy := rfl
@[simp] theorem setObj_xlat : (setObj s o v).xlat = s.xlat := rfl
@[simp] theorem setObj_mbxs : (setObj s o v).mbxs = s.mbxs := rfl
@[simp] theorem setObj_chans : (setObj s o v).chans = s.chans := rfl
@[simp] theorem setObj_links : (setObj s o v).links = s.links := rfl
@[simp] theorem setObj_cxl : (setObj s o v).cxl = s.cxl := rfl
@[simp] theorem setObj_power : (setObj s o v).power = s.power := rfl
@[simp] theorem setObj_phys : (setObj s o v).phys = s.phys := rfl
@[simp] theorem setObj_boot : (setObj s o v).boot = s.boot := rfl
@[simp] theorem setObj_rcv : (setObj s o v).rcv = s.rcv := rfl
@[simp] theorem setObj_flights : (setObj s o v).flights = s.flights := rfl
@[simp] theorem setObj_notices : (setObj s o v).notices = s.notices := rfl
@[simp] theorem setObj_smbOut : (setObj s o v).smbOut = s.smbOut := rfl
@[simp] theorem tillerAt_setObj (n : Nat) : tillerAt (setObj s o v) n = tillerAt s n := rfl
@[simp] theorem stackAt_setObj (n : Nat) : stackAt (setObj s o v) n = stackAt s n := rfl
@[simp] theorem deepAt_setObj (n : Nat) : deepAt (setObj s o v) n = deepAt s n := rfl
@[simp] theorem mbxAt_setObj (n : Nat) : mbxAt (setObj s o v) n = mbxAt s n := rfl
@[simp] theorem chanAt_setObj (n : Nat) : chanAt (setObj s o v) n = chanAt s n := rfl
@[simp] theorem domainAt_setObj (n : Nat) : domainAt (setObj s o v) n = domainAt s n := rfl
@[simp] theorem portAt_setObj (n : Nat) : portAt (setObj s o v) n = portAt s n := rfl
@[simp] theorem groupAt_setObj (n : Nat) : groupAt (setObj s o v) n = groupAt s n := rfl
@[simp] theorem resh_setObj (n : Nat) : resh n (setObj s o v) = resh n s := rfl
@[simp] theorem rdAddr_setObj (n : Nat) : rdAddr (setObj s o v) n = rdAddr s n := rfl
@[simp] theorem rd_setObj (k : Blk) (n : Nat) : rd (setObj s o v) k n = rd s k n := rfl
end

/-! ### modObj -/

section
variable (s : State) (o : Nat) (f : Obj → Obj)

@[simp] theorem modObj_pending : (modObj s o f).pending = s.pending := rfl
@[simp] theorem modObj_us : (modObj s o f).us = s.us := rfl
@[simp] theorem modObj_freeCtr : (modObj s o f).freeCtr = s.freeCtr := rfl
@[simp] theorem modObj_regs : (modObj s o f).regs = s.regs := rfl
@[simp] theorem modObj_tillers : (modObj s o f).tillers = s.tillers := rfl
@[simp] theorem modObj_stackMap : (modObj s o f).stackMap = s.stackMap := rfl
@[simp] theorem modObj_deeps : (modObj s o f).deeps = s.deeps := rfl
@[simp] theorem modObj_dram : (modObj s o f).dram = s.dram := rfl
@[simp] theorem modObj_poison : (modObj s o f).poison = s.poison := rfl
@[simp] theorem modObj_husk : (modObj s o f).husk = s.husk := rfl
@[simp] theorem modObj_huskBad : (modObj s o f).huskBad = s.huskBad := rfl
@[simp] theorem modObj_grans : (modObj s o f).grans = s.grans := rfl
@[simp] theorem modObj_shareGroups : (modObj s o f).shareGroups = s.shareGroups := rfl
@[simp] theorem modObj_used : (modObj s o f).used = s.used := rfl
@[simp] theorem modObj_migs : (modObj s o f).migs = s.migs := rfl
@[simp] theorem modObj_heldBy : (modObj s o f).heldBy = s.heldBy := rfl
@[simp] theorem modObj_xlat : (modObj s o f).xlat = s.xlat := rfl
@[simp] theorem modObj_mbxs : (modObj s o f).mbxs = s.mbxs := rfl
@[simp] theorem modObj_chans : (modObj s o f).chans = s.chans := rfl
@[simp] theorem modObj_links : (modObj s o f).links = s.links := rfl
@[simp] theorem modObj_cxl : (modObj s o f).cxl = s.cxl := rfl
@[simp] theorem modObj_power : (modObj s o f).power = s.power := rfl
@[simp] theorem modObj_phys : (modObj s o f).phys = s.phys := rfl
@[simp] theorem modObj_boot : (modObj s o f).boot = s.boot := rfl
@[simp] theorem modObj_rcv : (modObj s o f).rcv = s.rcv := rfl
@[simp] theorem modObj_flights : (modObj s o f).flights = s.flights := rfl
@[simp] theorem modObj_notices : (modObj s o f).notices = s.notices := rfl
@[simp] theorem modObj_smbOut : (modObj s o f).smbOut = s.smbOut := rfl
@[simp] theorem tillerAt_modObj (n : Nat) : tillerAt (modObj s o f) n = tillerAt s n := rfl
@[simp] theorem stackAt_modObj (n : Nat) : stackAt (modObj s o f) n = stackAt s n := rfl
@[simp] theorem deepAt_modObj (n : Nat) : deepAt (modObj s o f) n = deepAt s n := rfl
@[simp] theorem mbxAt_modObj (n : Nat) : mbxAt (modObj s o f) n = mbxAt s n := rfl
@[simp] theorem chanAt_modObj (n : Nat) : chanAt (modObj s o f) n = chanAt s n := rfl
@[simp] theorem domainAt_modObj (n : Nat) : domainAt (modObj s o f) n = domainAt s n := rfl
@[simp] theorem portAt_modObj (n : Nat) : portAt (modObj s o f) n = portAt s n := rfl
@[simp] theorem groupAt_modObj (n : Nat) : groupAt (modObj s o f) n = groupAt s n := rfl
@[simp] theorem resh_modObj (n : Nat) : resh n (modObj s o f) = resh n s := rfl
@[simp] theorem rdAddr_modObj (n : Nat) : rdAddr (modObj s o f) n = rdAddr s n := rfl
@[simp] theorem rd_modObj (k : Blk) (n : Nat) : rd (modObj s o f) k n = rd s k n := rfl
end

/-! ### modRcv -/

section
variable (s : State) (f : Recov → Recov)

@[simp] theorem modRcv_pending : (modRcv s f).pending = s.pending := rfl
@[simp] theorem modRcv_us : (modRcv s f).us = s.us := rfl
@[simp] theorem modRcv_freeCtr : (modRcv s f).freeCtr = s.freeCtr := rfl
@[simp] theorem modRcv_regs : (modRcv s f).regs = s.regs := rfl
@[simp] theorem modRcv_tillers : (modRcv s f).tillers = s.tillers := rfl
@[simp] theorem modRcv_stackMap : (modRcv s f).stackMap = s.stackMap := rfl
@[simp] theorem modRcv_deeps : (modRcv s f).deeps = s.deeps := rfl
@[simp] theorem modRcv_dram : (modRcv s f).dram = s.dram := rfl
@[simp] theorem modRcv_poison : (modRcv s f).poison = s.poison := rfl
@[simp] theorem modRcv_husk : (modRcv s f).husk = s.husk := rfl
@[simp] theorem modRcv_huskBad : (modRcv s f).huskBad = s.huskBad := rfl
@[simp] theorem modRcv_objs : (modRcv s f).objs = s.objs := rfl
@[simp] theorem modRcv_grans : (modRcv s f).grans = s.grans := rfl
@[simp] theorem modRcv_shareGroups : (modRcv s f).shareGroups = s.shareGroups := rfl
@[simp] theorem modRcv_used : (modRcv s f).used = s.used := rfl
@[simp] theorem modRcv_migs : (modRcv s f).migs = s.migs := rfl
@[simp] theorem modRcv_heldBy : (modRcv s f).heldBy = s.heldBy := rfl
@[simp] theorem modRcv_xlat : (modRcv s f).xlat = s.xlat := rfl
@[simp] theorem modRcv_mbxs : (modRcv s f).mbxs = s.mbxs := rfl
@[simp] theorem modRcv_chans : (modRcv s f).chans = s.chans := rfl
@[simp] theorem modRcv_links : (modRcv s f).links = s.links := rfl
@[simp] theorem modRcv_cxl : (modRcv s f).cxl = s.cxl := rfl
@[simp] theorem modRcv_power : (modRcv s f).power = s.power := rfl
@[simp] theorem modRcv_phys : (modRcv s f).phys = s.phys := rfl
@[simp] theorem modRcv_boot : (modRcv s f).boot = s.boot := rfl
@[simp] theorem modRcv_flights : (modRcv s f).flights = s.flights := rfl
@[simp] theorem modRcv_notices : (modRcv s f).notices = s.notices := rfl
@[simp] theorem modRcv_smbOut : (modRcv s f).smbOut = s.smbOut := rfl
@[simp] theorem modRcv_rcv : (modRcv s f).rcv = f s.rcv := rfl
@[simp] theorem tillerAt_modRcv (n : Nat) : tillerAt (modRcv s f) n = tillerAt s n := rfl
@[simp] theorem stackAt_modRcv (n : Nat) : stackAt (modRcv s f) n = stackAt s n := rfl
@[simp] theorem deepAt_modRcv (n : Nat) : deepAt (modRcv s f) n = deepAt s n := rfl
@[simp] theorem mbxAt_modRcv (n : Nat) : mbxAt (modRcv s f) n = mbxAt s n := rfl
@[simp] theorem chanAt_modRcv (n : Nat) : chanAt (modRcv s f) n = chanAt s n := rfl
@[simp] theorem objAt_modRcv (n : Nat) : objAt (modRcv s f) n = objAt s n := rfl
@[simp] theorem portAt_modRcv (n : Nat) : portAt (modRcv s f) n = portAt s n := rfl
@[simp] theorem groupAt_modRcv (n : Nat) : groupAt (modRcv s f) n = groupAt s n := rfl
@[simp] theorem resh_modRcv (n : Nat) : resh n (modRcv s f) = resh n s := rfl
@[simp] theorem rdAddr_modRcv (n : Nat) : rdAddr (modRcv s f) n = rdAddr s n := rfl
@[simp] theorem rd_modRcv (k : Blk) (n : Nat) : rd (modRcv s f) k n = rd s k n := rfl
end

/-! ### modDomain -/

section
variable (s : State) (d : Nat) (f : Domain → Domain)

@[simp] theorem modDomain_pending : (modDomain s d f).pending = s.pending := rfl
@[simp] theorem modDomain_us : (modDomain s d f).us = s.us := rfl
@[simp] theorem modDomain_freeCtr : (modDomain s d f).freeCtr = s.freeCtr := rfl
@[simp] theorem modDomain_regs : (modDomain s d f).regs = s.regs := rfl
@[simp] theorem modDomain_tillers : (modDomain s d f).tillers = s.tillers := rfl
@[simp] theorem modDomain_stackMap : (modDomain s d f).stackMap = s.stackMap := rfl
@[simp] theorem modDomain_deeps : (modDomain s d f).deeps = s.deeps := rfl
@[simp] theorem modDomain_dram : (modDomain s d f).dram = s.dram := rfl
@[simp] theorem modDomain_poison : (modDomain s d f).poison = s.poison := rfl
@[simp] theorem modDomain_husk : (modDomain s d f).husk = s.husk := rfl
@[simp] theorem modDomain_huskBad : (modDomain s d f).huskBad = s.huskBad := rfl
@[simp] theorem modDomain_objs : (modDomain s d f).objs = s.objs := rfl
@[simp] theorem modDomain_grans : (modDomain s d f).grans = s.grans := rfl
@[simp] theorem modDomain_shareGroups : (modDomain s d f).shareGroups = s.shareGroups := rfl
@[simp] theorem modDomain_used : (modDomain s d f).used = s.used := rfl
@[simp] theorem modDomain_migs : (modDomain s d f).migs = s.migs := rfl
@[simp] theorem modDomain_heldBy : (modDomain s d f).heldBy = s.heldBy := rfl
@[simp] theorem modDomain_xlat : (modDomain s d f).xlat = s.xlat := rfl
@[simp] theorem modDomain_mbxs : (modDomain s d f).mbxs = s.mbxs := rfl
@[simp] theorem modDomain_chans : (modDomain s d f).chans = s.chans := rfl
@[simp] theorem modDomain_links : (modDomain s d f).links = s.links := rfl
@[simp] theorem modDomain_cxl : (modDomain s d f).cxl = s.cxl := rfl
@[simp] theorem modDomain_power : (modDomain s d f).power = s.power := rfl
@[simp] theorem modDomain_phys : (modDomain s d f).phys = s.phys := rfl
@[simp] theorem modDomain_boot : (modDomain s d f).boot = s.boot := rfl
@[simp] theorem modDomain_flights : (modDomain s d f).flights = s.flights := rfl
@[simp] theorem modDomain_notices : (modDomain s d f).notices = s.notices := rfl
@[simp] theorem modDomain_smbOut : (modDomain s d f).smbOut = s.smbOut := rfl
@[simp] theorem tillerAt_modDomain (n : Nat) : tillerAt (modDomain s d f) n = tillerAt s n := rfl
@[simp] theorem stackAt_modDomain (n : Nat) : stackAt (modDomain s d f) n = stackAt s n := rfl
@[simp] theorem deepAt_modDomain (n : Nat) : deepAt (modDomain s d f) n = deepAt s n := rfl
@[simp] theorem mbxAt_modDomain (n : Nat) : mbxAt (modDomain s d f) n = mbxAt s n := rfl
@[simp] theorem chanAt_modDomain (n : Nat) : chanAt (modDomain s d f) n = chanAt s n := rfl
@[simp] theorem objAt_modDomain (n : Nat) : objAt (modDomain s d f) n = objAt s n := rfl
@[simp] theorem portAt_modDomain (n : Nat) : portAt (modDomain s d f) n = portAt s n := rfl
@[simp] theorem groupAt_modDomain (n : Nat) : groupAt (modDomain s d f) n = groupAt s n := rfl
@[simp] theorem resh_modDomain (n : Nat) : resh n (modDomain s d f) = resh n s := rfl
@[simp] theorem rdAddr_modDomain (n : Nat) : rdAddr (modDomain s d f) n = rdAddr s n := rfl
@[simp] theorem rd_modDomain (k : Blk) (n : Nat) : rd (modDomain s d f) k n = rd s k n := rfl
end

/-! ### modPower -/

section
variable (s : State) (f : Power → Power)

@[simp] theorem modPower_pending : (modPower s f).pending = s.pending := rfl
@[simp] theorem modPower_us : (modPower s f).us = s.us := rfl
@[simp] theorem modPower_freeCtr : (modPower s f).freeCtr = s.freeCtr := rfl
@[simp] theorem modPower_regs : (modPower s f).regs = s.regs := rfl
@[simp] theorem modPower_tillers : (modPower s f).tillers = s.tillers := rfl
@[simp] theorem modPower_stackMap : (modPower s f).stackMap = s.stackMap := rfl
@[simp] theorem modPower_deeps : (modPower s f).deeps = s.deeps := rfl
@[simp] theorem modPower_dram : (modPower s f).dram = s.dram := rfl
@[simp] theorem modPower_poison : (modPower s f).poison = s.poison := rfl
@[simp] theorem modPower_husk : (modPower s f).husk = s.husk := rfl
@[simp] theorem modPower_huskBad : (modPower s f).huskBad = s.huskBad := rfl
@[simp] theorem modPower_objs : (modPower s f).objs = s.objs := rfl
@[simp] theorem modPower_grans : (modPower s f).grans = s.grans := rfl
@[simp] theorem modPower_shareGroups : (modPower s f).shareGroups = s.shareGroups := rfl
@[simp] theorem modPower_used : (modPower s f).used = s.used := rfl
@[simp] theorem modPower_migs : (modPower s f).migs = s.migs := rfl
@[simp] theorem modPower_heldBy : (modPower s f).heldBy = s.heldBy := rfl
@[simp] theorem modPower_xlat : (modPower s f).xlat = s.xlat := rfl
@[simp] theorem modPower_mbxs : (modPower s f).mbxs = s.mbxs := rfl
@[simp] theorem modPower_chans : (modPower s f).chans = s.chans := rfl
@[simp] theorem modPower_links : (modPower s f).links = s.links := rfl
@[simp] theorem modPower_cxl : (modPower s f).cxl = s.cxl := rfl
@[simp] theorem modPower_phys : (modPower s f).phys = s.phys := rfl
@[simp] theorem modPower_boot : (modPower s f).boot = s.boot := rfl
@[simp] theorem modPower_rcv : (modPower s f).rcv = s.rcv := rfl
@[simp] theorem modPower_flights : (modPower s f).flights = s.flights := rfl
@[simp] theorem modPower_notices : (modPower s f).notices = s.notices := rfl
@[simp] theorem modPower_smbOut : (modPower s f).smbOut = s.smbOut := rfl
@[simp] theorem modPower_power : (modPower s f).power = f s.power := rfl
@[simp] theorem tillerAt_modPower (n : Nat) : tillerAt (modPower s f) n = tillerAt s n := rfl
@[simp] theorem stackAt_modPower (n : Nat) : stackAt (modPower s f) n = stackAt s n := rfl
@[simp] theorem deepAt_modPower (n : Nat) : deepAt (modPower s f) n = deepAt s n := rfl
@[simp] theorem mbxAt_modPower (n : Nat) : mbxAt (modPower s f) n = mbxAt s n := rfl
@[simp] theorem chanAt_modPower (n : Nat) : chanAt (modPower s f) n = chanAt s n := rfl
@[simp] theorem objAt_modPower (n : Nat) : objAt (modPower s f) n = objAt s n := rfl
@[simp] theorem domainAt_modPower (n : Nat) : domainAt (modPower s f) n = domainAt s n := rfl
@[simp] theorem portAt_modPower (n : Nat) : portAt (modPower s f) n = portAt s n := rfl
@[simp] theorem groupAt_modPower (n : Nat) : groupAt (modPower s f) n = groupAt s n := rfl
@[simp] theorem resh_modPower (n : Nat) : resh n (modPower s f) = resh n s := rfl
@[simp] theorem rdAddr_modPower (n : Nat) : rdAddr (modPower s f) n = rdAddr s n := rfl
@[simp] theorem rd_modPower (k : Blk) (n : Nat) : rd (modPower s f) k n = rd s k n := rfl
end

/-! ### modPhys -/

section
variable (s : State) (f : Physical → Physical)

@[simp] theorem modPhys_pending : (modPhys s f).pending = s.pending := rfl
@[simp] theorem modPhys_us : (modPhys s f).us = s.us := rfl
@[simp] theorem modPhys_freeCtr : (modPhys s f).freeCtr = s.freeCtr := rfl
@[simp] theorem modPhys_regs : (modPhys s f).regs = s.regs := rfl
@[simp] theorem modPhys_tillers : (modPhys s f).tillers = s.tillers := rfl
@[simp] theorem modPhys_stackMap : (modPhys s f).stackMap = s.stackMap := rfl
@[simp] theorem modPhys_deeps : (modPhys s f).deeps = s.deeps := rfl
@[simp] theorem modPhys_dram : (modPhys s f).dram = s.dram := rfl
@[simp] theorem modPhys_poison : (modPhys s f).poison = s.poison := rfl
@[simp] theorem modPhys_husk : (modPhys s f).husk = s.husk := rfl
@[simp] theorem modPhys_huskBad : (modPhys s f).huskBad = s.huskBad := rfl
@[simp] theorem modPhys_objs : (modPhys s f).objs = s.objs := rfl
@[simp] theorem modPhys_grans : (modPhys s f).grans = s.grans := rfl
@[simp] theorem modPhys_shareGroups : (modPhys s f).shareGroups = s.shareGroups := rfl
@[simp] theorem modPhys_used : (modPhys s f).used = s.used := rfl
@[simp] theorem modPhys_migs : (modPhys s f).migs = s.migs := rfl
@[simp] theorem modPhys_heldBy : (modPhys s f).heldBy = s.heldBy := rfl
@[simp] theorem modPhys_xlat : (modPhys s f).xlat = s.xlat := rfl
@[simp] theorem modPhys_mbxs : (modPhys s f).mbxs = s.mbxs := rfl
@[simp] theorem modPhys_chans : (modPhys s f).chans = s.chans := rfl
@[simp] theorem modPhys_links : (modPhys s f).links = s.links := rfl
@[simp] theorem modPhys_cxl : (modPhys s f).cxl = s.cxl := rfl
@[simp] theorem modPhys_power : (modPhys s f).power = s.power := rfl
@[simp] theorem modPhys_boot : (modPhys s f).boot = s.boot := rfl
@[simp] theorem modPhys_rcv : (modPhys s f).rcv = s.rcv := rfl
@[simp] theorem modPhys_flights : (modPhys s f).flights = s.flights := rfl
@[simp] theorem modPhys_notices : (modPhys s f).notices = s.notices := rfl
@[simp] theorem modPhys_smbOut : (modPhys s f).smbOut = s.smbOut := rfl
@[simp] theorem modPhys_phys : (modPhys s f).phys = f s.phys := rfl
@[simp] theorem tillerAt_modPhys (n : Nat) : tillerAt (modPhys s f) n = tillerAt s n := rfl
@[simp] theorem stackAt_modPhys (n : Nat) : stackAt (modPhys s f) n = stackAt s n := rfl
@[simp] theorem deepAt_modPhys (n : Nat) : deepAt (modPhys s f) n = deepAt s n := rfl
@[simp] theorem mbxAt_modPhys (n : Nat) : mbxAt (modPhys s f) n = mbxAt s n := rfl
@[simp] theorem chanAt_modPhys (n : Nat) : chanAt (modPhys s f) n = chanAt s n := rfl
@[simp] theorem objAt_modPhys (n : Nat) : objAt (modPhys s f) n = objAt s n := rfl
@[simp] theorem domainAt_modPhys (n : Nat) : domainAt (modPhys s f) n = domainAt s n := rfl
@[simp] theorem portAt_modPhys (n : Nat) : portAt (modPhys s f) n = portAt s n := rfl
@[simp] theorem groupAt_modPhys (n : Nat) : groupAt (modPhys s f) n = groupAt s n := rfl
@[simp] theorem resh_modPhys (n : Nat) : resh n (modPhys s f) = resh n s := rfl
@[simp] theorem rdAddr_modPhys (n : Nat) : rdAddr (modPhys s f) n = rdAddr s n := rfl
@[simp] theorem rd_modPhys (k : Blk) (n : Nat) : rd (modPhys s f) k n = rd s k n := rfl
end

/-! ### modBoot -/

section
variable (s : State) (f : Boot → Boot)

@[simp] theorem modBoot_pending : (modBoot s f).pending = s.pending := rfl
@[simp] theorem modBoot_us : (modBoot s f).us = s.us := rfl
@[simp] theorem modBoot_freeCtr : (modBoot s f).freeCtr = s.freeCtr := rfl
@[simp] theorem modBoot_regs : (modBoot s f).regs = s.regs := rfl
@[simp] theorem modBoot_tillers : (modBoot s f).tillers = s.tillers := rfl
@[simp] theorem modBoot_stackMap : (modBoot s f).stackMap = s.stackMap := rfl
@[simp] theorem modBoot_deeps : (modBoot s f).deeps = s.deeps := rfl
@[simp] theorem modBoot_dram : (modBoot s f).dram = s.dram := rfl
@[simp] theorem modBoot_poison : (modBoot s f).poison = s.poison := rfl
@[simp] theorem modBoot_husk : (modBoot s f).husk = s.husk := rfl
@[simp] theorem modBoot_huskBad : (modBoot s f).huskBad = s.huskBad := rfl
@[simp] theorem modBoot_objs : (modBoot s f).objs = s.objs := rfl
@[simp] theorem modBoot_grans : (modBoot s f).grans = s.grans := rfl
@[simp] theorem modBoot_shareGroups : (modBoot s f).shareGroups = s.shareGroups := rfl
@[simp] theorem modBoot_used : (modBoot s f).used = s.used := rfl
@[simp] theorem modBoot_migs : (modBoot s f).migs = s.migs := rfl
@[simp] theorem modBoot_heldBy : (modBoot s f).heldBy = s.heldBy := rfl
@[simp] theorem modBoot_xlat : (modBoot s f).xlat = s.xlat := rfl
@[simp] theorem modBoot_mbxs : (modBoot s f).mbxs = s.mbxs := rfl
@[simp] theorem modBoot_chans : (modBoot s f).chans = s.chans := rfl
@[simp] theorem modBoot_links : (modBoot s f).links = s.links := rfl
@[simp] theorem modBoot_cxl : (modBoot s f).cxl = s.cxl := rfl
@[simp] theorem modBoot_power : (modBoot s f).power = s.power := rfl
@[simp] theorem modBoot_phys : (modBoot s f).phys = s.phys := rfl
@[simp] theorem modBoot_rcv : (modBoot s f).rcv = s.rcv := rfl
@[simp] theorem modBoot_flights : (modBoot s f).flights = s.flights := rfl
@[simp] theorem modBoot_notices : (modBoot s f).notices = s.notices := rfl
@[simp] theorem modBoot_smbOut : (modBoot s f).smbOut = s.smbOut := rfl
@[simp] theorem modBoot_boot : (modBoot s f).boot = f s.boot := rfl
@[simp] theorem tillerAt_modBoot (n : Nat) : tillerAt (modBoot s f) n = tillerAt s n := rfl
@[simp] theorem stackAt_modBoot (n : Nat) : stackAt (modBoot s f) n = stackAt s n := rfl
@[simp] theorem deepAt_modBoot (n : Nat) : deepAt (modBoot s f) n = deepAt s n := rfl
@[simp] theorem mbxAt_modBoot (n : Nat) : mbxAt (modBoot s f) n = mbxAt s n := rfl
@[simp] theorem chanAt_modBoot (n : Nat) : chanAt (modBoot s f) n = chanAt s n := rfl
@[simp] theorem objAt_modBoot (n : Nat) : objAt (modBoot s f) n = objAt s n := rfl
@[simp] theorem domainAt_modBoot (n : Nat) : domainAt (modBoot s f) n = domainAt s n := rfl
@[simp] theorem portAt_modBoot (n : Nat) : portAt (modBoot s f) n = portAt s n := rfl
@[simp] theorem groupAt_modBoot (n : Nat) : groupAt (modBoot s f) n = groupAt s n := rfl
@[simp] theorem resh_modBoot (n : Nat) : resh n (modBoot s f) = resh n s := rfl
@[simp] theorem rdAddr_modBoot (n : Nat) : rdAddr (modBoot s f) n = rdAddr s n := rfl
@[simp] theorem rd_modBoot (k : Blk) (n : Nat) : rd (modBoot s f) k n = rd s k n := rfl
end

/-! ### modCxl -/

section
variable (s : State) (f : Cxl → Cxl)

@[simp] theorem modCxl_pending : (modCxl s f).pending = s.pending := rfl
@[simp] theorem modCxl_us : (modCxl s f).us = s.us := rfl
@[simp] theorem modCxl_freeCtr : (modCxl s f).freeCtr = s.freeCtr := rfl
@[simp] theorem modCxl_regs : (modCxl s f).regs = s.regs := rfl
@[simp] theorem modCxl_tillers : (modCxl s f).tillers = s.tillers := rfl
@[simp] theorem modCxl_stackMap : (modCxl s f).stackMap = s.stackMap := rfl
@[simp] theorem modCxl_deeps : (modCxl s f).deeps = s.deeps := rfl
@[simp] theorem modCxl_dram : (modCxl s f).dram = s.dram := rfl
@[simp] theorem modCxl_poison : (modCxl s f).poison = s.poison := rfl
@[simp] theorem modCxl_husk : (modCxl s f).husk = s.husk := rfl
@[simp] theorem modCxl_huskBad : (modCxl s f).huskBad = s.huskBad := rfl
@[simp] theorem modCxl_objs : (modCxl s f).objs = s.objs := rfl
@[simp] theorem modCxl_grans : (modCxl s f).grans = s.grans := rfl
@[simp] theorem modCxl_shareGroups : (modCxl s f).shareGroups = s.shareGroups := rfl
@[simp] theorem modCxl_used : (modCxl s f).used = s.used := rfl
@[simp] theorem modCxl_migs : (modCxl s f).migs = s.migs := rfl
@[simp] theorem modCxl_heldBy : (modCxl s f).heldBy = s.heldBy := rfl
@[simp] theorem modCxl_xlat : (modCxl s f).xlat = s.xlat := rfl
@[simp] theorem modCxl_mbxs : (modCxl s f).mbxs = s.mbxs := rfl
@[simp] theorem modCxl_chans : (modCxl s f).chans = s.chans := rfl
@[simp] theorem modCxl_links : (modCxl s f).links = s.links := rfl
@[simp] theorem modCxl_power : (modCxl s f).power = s.power := rfl
@[simp] theorem modCxl_phys : (modCxl s f).phys = s.phys := rfl
@[simp] theorem modCxl_boot : (modCxl s f).boot = s.boot := rfl
@[simp] theorem modCxl_rcv : (modCxl s f).rcv = s.rcv := rfl
@[simp] theorem modCxl_flights : (modCxl s f).flights = s.flights := rfl
@[simp] theorem modCxl_notices : (modCxl s f).notices = s.notices := rfl
@[simp] theorem modCxl_smbOut : (modCxl s f).smbOut = s.smbOut := rfl
@[simp] theorem modCxl_cxl : (modCxl s f).cxl = f s.cxl := rfl
@[simp] theorem tillerAt_modCxl (n : Nat) : tillerAt (modCxl s f) n = tillerAt s n := rfl
@[simp] theorem stackAt_modCxl (n : Nat) : stackAt (modCxl s f) n = stackAt s n := rfl
@[simp] theorem deepAt_modCxl (n : Nat) : deepAt (modCxl s f) n = deepAt s n := rfl
@[simp] theorem mbxAt_modCxl (n : Nat) : mbxAt (modCxl s f) n = mbxAt s n := rfl
@[simp] theorem chanAt_modCxl (n : Nat) : chanAt (modCxl s f) n = chanAt s n := rfl
@[simp] theorem objAt_modCxl (n : Nat) : objAt (modCxl s f) n = objAt s n := rfl
@[simp] theorem domainAt_modCxl (n : Nat) : domainAt (modCxl s f) n = domainAt s n := rfl
@[simp] theorem portAt_modCxl (n : Nat) : portAt (modCxl s f) n = portAt s n := rfl
@[simp] theorem groupAt_modCxl (n : Nat) : groupAt (modCxl s f) n = groupAt s n := rfl
@[simp] theorem resh_modCxl (n : Nat) : resh n (modCxl s f) = resh n s := rfl
@[simp] theorem rdAddr_modCxl (n : Nat) : rdAddr (modCxl s f) n = rdAddr s n := rfl
@[simp] theorem rd_modCxl (k : Blk) (n : Nat) : rd (modCxl s f) k n = rd s k n := rfl
end

/-! ### modLinks -/

section
variable (s : State) (f : Links → Links)

@[simp] theorem modLinks_pending : (modLinks s f).pending = s.pending := rfl
@[simp] theorem modLinks_us : (modLinks s f).us = s.us := rfl
@[simp] theorem modLinks_freeCtr : (modLinks s f).freeCtr = s.freeCtr := rfl
@[simp] theorem modLinks_regs : (modLinks s f).regs = s.regs := rfl
@[simp] theorem modLinks_tillers : (modLinks s f).tillers = s.tillers := rfl
@[simp] theorem modLinks_stackMap : (modLinks s f).stackMap = s.stackMap := rfl
@[simp] theorem modLinks_deeps : (modLinks s f).deeps = s.deeps := rfl
@[simp] theorem modLinks_dram : (modLinks s f).dram = s.dram := rfl
@[simp] theorem modLinks_poison : (modLinks s f).poison = s.poison := rfl
@[simp] theorem modLinks_husk : (modLinks s f).husk = s.husk := rfl
@[simp] theorem modLinks_huskBad : (modLinks s f).huskBad = s.huskBad := rfl
@[simp] theorem modLinks_objs : (modLinks s f).objs = s.objs := rfl
@[simp] theorem modLinks_grans : (modLinks s f).grans = s.grans := rfl
@[simp] theorem modLinks_shareGroups : (modLinks s f).shareGroups = s.shareGroups := rfl
@[simp] theorem modLinks_used : (modLinks s f).used = s.used := rfl
@[simp] theorem modLinks_migs : (modLinks s f).migs = s.migs := rfl
@[simp] theorem modLinks_heldBy : (modLinks s f).heldBy = s.heldBy := rfl
@[simp] theorem modLinks_xlat : (modLinks s f).xlat = s.xlat := rfl
@[simp] theorem modLinks_mbxs : (modLinks s f).mbxs = s.mbxs := rfl
@[simp] theorem modLinks_chans : (modLinks s f).chans = s.chans := rfl
@[simp] theorem modLinks_cxl : (modLinks s f).cxl = s.cxl := rfl
@[simp] theorem modLinks_power : (modLinks s f).power = s.power := rfl
@[simp] theorem modLinks_phys : (modLinks s f).phys = s.phys := rfl
@[simp] theorem modLinks_boot : (modLinks s f).boot = s.boot := rfl
@[simp] theorem modLinks_rcv : (modLinks s f).rcv = s.rcv := rfl
@[simp] theorem modLinks_flights : (modLinks s f).flights = s.flights := rfl
@[simp] theorem modLinks_notices : (modLinks s f).notices = s.notices := rfl
@[simp] theorem modLinks_smbOut : (modLinks s f).smbOut = s.smbOut := rfl
@[simp] theorem modLinks_links : (modLinks s f).links = f s.links := rfl
@[simp] theorem tillerAt_modLinks (n : Nat) : tillerAt (modLinks s f) n = tillerAt s n := rfl
@[simp] theorem stackAt_modLinks (n : Nat) : stackAt (modLinks s f) n = stackAt s n := rfl
@[simp] theorem deepAt_modLinks (n : Nat) : deepAt (modLinks s f) n = deepAt s n := rfl
@[simp] theorem mbxAt_modLinks (n : Nat) : mbxAt (modLinks s f) n = mbxAt s n := rfl
@[simp] theorem chanAt_modLinks (n : Nat) : chanAt (modLinks s f) n = chanAt s n := rfl
@[simp] theorem objAt_modLinks (n : Nat) : objAt (modLinks s f) n = objAt s n := rfl
@[simp] theorem domainAt_modLinks (n : Nat) : domainAt (modLinks s f) n = domainAt s n := rfl
@[simp] theorem rdAddr_modLinks (n : Nat) : rdAddr (modLinks s f) n = rdAddr s n := rfl
@[simp] theorem rd_modLinks (k : Blk) (n : Nat) : rd (modLinks s f) k n = rd s k n := rfl
end

/-! ### setPort -/

section
variable (s : State) (p : Nat) (v : Port)

@[simp] theorem setPort_pending : (setPort s p v).pending = s.pending := rfl
@[simp] theorem setPort_us : (setPort s p v).us = s.us := rfl
@[simp] theorem setPort_freeCtr : (setPort s p v).freeCtr = s.freeCtr := rfl
@[simp] theorem setPort_regs : (setPort s p v).regs = s.regs := rfl
@[simp] theorem setPort_tillers : (setPort s p v).tillers = s.tillers := rfl
@[simp] theorem setPort_stackMap : (setPort s p v).stackMap = s.stackMap := rfl
@[simp] theorem setPort_deeps : (setPort s p v).deeps = s.deeps := rfl
@[simp] theorem setPort_dram : (setPort s p v).dram = s.dram := rfl
@[simp] theorem setPort_poison : (setPort s p v).poison = s.poison := rfl
@[simp] theorem setPort_husk : (setPort s p v).husk = s.husk := rfl
@[simp] theorem setPort_huskBad : (setPort s p v).huskBad = s.huskBad := rfl
@[simp] theorem setPort_objs : (setPort s p v).objs = s.objs := rfl
@[simp] theorem setPort_grans : (setPort s p v).grans = s.grans := rfl
@[simp] theorem setPort_shareGroups : (setPort s p v).shareGroups = s.shareGroups := rfl
@[simp] theorem setPort_used : (setPort s p v).used = s.used := rfl
@[simp] theorem setPort_migs : (setPort s p v).migs = s.migs := rfl
@[simp] theorem setPort_heldBy : (setPort s p v).heldBy = s.heldBy := rfl
@[simp] theorem setPort_xlat : (setPort s p v).xlat = s.xlat := rfl
@[simp] theorem setPort_mbxs : (setPort s p v).mbxs = s.mbxs := rfl
@[simp] theorem setPort_chans : (setPort s p v).chans = s.chans := rfl
@[simp] theorem setPort_cxl : (setPort s p v).cxl = s.cxl := rfl
@[simp] theorem setPort_power : (setPort s p v).power = s.power := rfl
@[simp] theorem setPort_phys : (setPort s p v).phys = s.phys := rfl
@[simp] theorem setPort_boot : (setPort s p v).boot = s.boot := rfl
@[simp] theorem setPort_rcv : (setPort s p v).rcv = s.rcv := rfl
@[simp] theorem setPort_flights : (setPort s p v).flights = s.flights := rfl
@[simp] theorem setPort_notices : (setPort s p v).notices = s.notices := rfl
@[simp] theorem setPort_smbOut : (setPort s p v).smbOut = s.smbOut := rfl
@[simp] theorem tillerAt_setPort (n : Nat) : tillerAt (setPort s p v) n = tillerAt s n := rfl
@[simp] theorem stackAt_setPort (n : Nat) : stackAt (setPort s p v) n = stackAt s n := rfl
@[simp] theorem deepAt_setPort (n : Nat) : deepAt (setPort s p v) n = deepAt s n := rfl
@[simp] theorem mbxAt_setPort (n : Nat) : mbxAt (setPort s p v) n = mbxAt s n := rfl
@[simp] theorem chanAt_setPort (n : Nat) : chanAt (setPort s p v) n = chanAt s n := rfl
@[simp] theorem objAt_setPort (n : Nat) : objAt (setPort s p v) n = objAt s n := rfl
@[simp] theorem domainAt_setPort (n : Nat) : domainAt (setPort s p v) n = domainAt s n := rfl
@[simp] theorem rdAddr_setPort (n : Nat) : rdAddr (setPort s p v) n = rdAddr s n := rfl
@[simp] theorem rd_setPort (k : Blk) (n : Nat) : rd (setPort s p v) k n = rd s k n := rfl
end

/-! ### modPort -/

section
variable (s : State) (p : Nat) (f : Port → Port)

@[simp] theorem modPort_pending : (modPort s p f).pending = s.pending := rfl
@[simp] theorem modPort_us : (modPort s p f).us = s.us := rfl
@[simp] theorem modPort_freeCtr : (modPort s p f).freeCtr = s.freeCtr := rfl
@[simp] theorem modPort_regs : (modPort s p f).regs = s.regs := rfl
@[simp] theorem modPort_tillers : (modPort s p f).tillers = s.tillers := rfl
@[simp] theorem modPort_stackMap : (modPort s p f).stackMap = s.stackMap := rfl
@[simp] theorem modPort_deeps : (modPort s p f).deeps = s.deeps := rfl
@[simp] theorem modPort_dram : (modPort s p f).dram = s.dram := rfl
@[simp] theorem modPort_poison : (modPort s p f).poison = s.poison := rfl
@[simp] theorem modPort_husk : (modPort s p f).husk = s.husk := rfl
@[simp] theorem modPort_huskBad : (modPort s p f).huskBad = s.huskBad := rfl
@[simp] theorem modPort_objs : (modPort s p f).objs = s.objs := rfl
@[simp] theorem modPort_grans : (modPort s p f).grans = s.grans := rfl
@[simp] theorem modPort_shareGroups : (modPort s p f).shareGroups = s.shareGroups := rfl
@[simp] theorem modPort_used : (modPort s p f).used = s.used := rfl
@[simp] theorem modPort_migs : (modPort s p f).migs = s.migs := rfl
@[simp] theorem modPort_heldBy : (modPort s p f).heldBy = s.heldBy := rfl
@[simp] theorem modPort_xlat : (modPort s p f).xlat = s.xlat := rfl
@[simp] theorem modPort_mbxs : (modPort s p f).mbxs = s.mbxs := rfl
@[simp] theorem modPort_chans : (modPort s p f).chans = s.chans := rfl
@[simp] theorem modPort_cxl : (modPort s p f).cxl = s.cxl := rfl
@[simp] theorem modPort_power : (modPort s p f).power = s.power := rfl
@[simp] theorem modPort_phys : (modPort s p f).phys = s.phys := rfl
@[simp] theorem modPort_boot : (modPort s p f).boot = s.boot := rfl
@[simp] theorem modPort_rcv : (modPort s p f).rcv = s.rcv := rfl
@[simp] theorem modPort_flights : (modPort s p f).flights = s.flights := rfl
@[simp] theorem modPort_notices : (modPort s p f).notices = s.notices := rfl
@[simp] theorem modPort_smbOut : (modPort s p f).smbOut = s.smbOut := rfl
@[simp] theorem tillerAt_modPort (n : Nat) : tillerAt (modPort s p f) n = tillerAt s n := rfl
@[simp] theorem stackAt_modPort (n : Nat) : stackAt (modPort s p f) n = stackAt s n := rfl
@[simp] theorem deepAt_modPort (n : Nat) : deepAt (modPort s p f) n = deepAt s n := rfl
@[simp] theorem mbxAt_modPort (n : Nat) : mbxAt (modPort s p f) n = mbxAt s n := rfl
@[simp] theorem chanAt_modPort (n : Nat) : chanAt (modPort s p f) n = chanAt s n := rfl
@[simp] theorem objAt_modPort (n : Nat) : objAt (modPort s p f) n = objAt s n := rfl
@[simp] theorem domainAt_modPort (n : Nat) : domainAt (modPort s p f) n = domainAt s n := rfl
@[simp] theorem rdAddr_modPort (n : Nat) : rdAddr (modPort s p f) n = rdAddr s n := rfl
@[simp] theorem rd_modPort (k : Blk) (n : Nat) : rd (modPort s p f) k n = rd s k n := rfl
end

/-! ### modGroup -/

section
variable (s : State) (g : Nat) (f : Group → Group)

@[simp] theorem modGroup_pending : (modGroup s g f).pending = s.pending := rfl
@[simp] theorem modGroup_us : (modGroup s g f).us = s.us := rfl
@[simp] theorem modGroup_freeCtr : (modGroup s g f).freeCtr = s.freeCtr := rfl
@[simp] theorem modGroup_regs : (modGroup s g f).regs = s.regs := rfl
@[simp] theorem modGroup_tillers : (modGroup s g f).tillers = s.tillers := rfl
@[simp] theorem modGroup_stackMap : (modGroup s g f).stackMap = s.stackMap := rfl
@[simp] theorem modGroup_deeps : (modGroup s g f).deeps = s.deeps := rfl
@[simp] theorem modGroup_dram : (modGroup s g f).dram = s.dram := rfl
@[simp] theorem modGroup_poison : (modGroup s g f).poison = s.poison := rfl
@[simp] theorem modGroup_husk : (modGroup s g f).husk = s.husk := rfl
@[simp] theorem modGroup_huskBad : (modGroup s g f).huskBad = s.huskBad := rfl
@[simp] theorem modGroup_objs : (modGroup s g f).objs = s.objs := rfl
@[simp] theorem modGroup_grans : (modGroup s g f).grans = s.grans := rfl
@[simp] theorem modGroup_shareGroups : (modGroup s g f).shareGroups = s.shareGroups := rfl
@[simp] theorem modGroup_used : (modGroup s g f).used = s.used := rfl
@[simp] theorem modGroup_migs : (modGroup s g f).migs = s.migs := rfl
@[simp] theorem modGroup_heldBy : (modGroup s g f).heldBy = s.heldBy := rfl
@[simp] theorem modGroup_xlat : (modGroup s g f).xlat = s.xlat := rfl
@[simp] theorem modGroup_mbxs : (modGroup s g f).mbxs = s.mbxs := rfl
@[simp] theorem modGroup_chans : (modGroup s g f).chans = s.chans := rfl
@[simp] theorem modGroup_cxl : (modGroup s g f).cxl = s.cxl := rfl
@[simp] theorem modGroup_power : (modGroup s g f).power = s.power := rfl
@[simp] theorem modGroup_phys : (modGroup s g f).phys = s.phys := rfl
@[simp] theorem modGroup_boot : (modGroup s g f).boot = s.boot := rfl
@[simp] theorem modGroup_rcv : (modGroup s g f).rcv = s.rcv := rfl
@[simp] theorem modGroup_flights : (modGroup s g f).flights = s.flights := rfl
@[simp] theorem modGroup_notices : (modGroup s g f).notices = s.notices := rfl
@[simp] theorem modGroup_smbOut : (modGroup s g f).smbOut = s.smbOut := rfl
@[simp] theorem tillerAt_modGroup (n : Nat) : tillerAt (modGroup s g f) n = tillerAt s n := rfl
@[simp] theorem stackAt_modGroup (n : Nat) : stackAt (modGroup s g f) n = stackAt s n := rfl
@[simp] theorem deepAt_modGroup (n : Nat) : deepAt (modGroup s g f) n = deepAt s n := rfl
@[simp] theorem mbxAt_modGroup (n : Nat) : mbxAt (modGroup s g f) n = mbxAt s n := rfl
@[simp] theorem chanAt_modGroup (n : Nat) : chanAt (modGroup s g f) n = chanAt s n := rfl
@[simp] theorem objAt_modGroup (n : Nat) : objAt (modGroup s g f) n = objAt s n := rfl
@[simp] theorem domainAt_modGroup (n : Nat) : domainAt (modGroup s g f) n = domainAt s n := rfl
@[simp] theorem rdAddr_modGroup (n : Nat) : rdAddr (modGroup s g f) n = rdAddr s n := rfl
@[simp] theorem rd_modGroup (k : Blk) (n : Nat) : rd (modGroup s g f) k n = rd s k n := rfl
end

/-! ### modResh -/

section
variable (s : State) (c : Nat) (f : Reshard → Reshard)

@[simp] theorem modResh_pending : (modResh c f s).pending = s.pending := rfl
@[simp] theorem modResh_us : (modResh c f s).us = s.us := rfl
@[simp] theorem modResh_freeCtr : (modResh c f s).freeCtr = s.freeCtr := rfl
@[simp] theorem modResh_regs : (modResh c f s).regs = s.regs := rfl
@[simp] theorem modResh_tillers : (modResh c f s).tillers = s.tillers := rfl
@[simp] theorem modResh_stackMap : (modResh c f s).stackMap = s.stackMap := rfl
@[simp] theorem modResh_deeps : (modResh c f s).deeps = s.deeps := rfl
@[simp] theorem modResh_dram : (modResh c f s).dram = s.dram := rfl
@[simp] theorem modResh_poison : (modResh c f s).poison = s.poison := rfl
@[simp] theorem modResh_husk : (modResh c f s).husk = s.husk := rfl
@[simp] theorem modResh_huskBad : (modResh c f s).huskBad = s.huskBad := rfl
@[simp] theorem modResh_objs : (modResh c f s).objs = s.objs := rfl
@[simp] theorem modResh_grans : (modResh c f s).grans = s.grans := rfl
@[simp] theorem modResh_shareGroups : (modResh c f s).shareGroups = s.shareGroups := rfl
@[simp] theorem modResh_used : (modResh c f s).used = s.used := rfl
@[simp] theorem modResh_migs : (modResh c f s).migs = s.migs := rfl
@[simp] theorem modResh_heldBy : (modResh c f s).heldBy = s.heldBy := rfl
@[simp] theorem modResh_xlat : (modResh c f s).xlat = s.xlat := rfl
@[simp] theorem modResh_mbxs : (modResh c f s).mbxs = s.mbxs := rfl
@[simp] theorem modResh_chans : (modResh c f s).chans = s.chans := rfl
@[simp] theorem modResh_cxl : (modResh c f s).cxl = s.cxl := rfl
@[simp] theorem modResh_power : (modResh c f s).power = s.power := rfl
@[simp] theorem modResh_phys : (modResh c f s).phys = s.phys := rfl
@[simp] theorem modResh_boot : (modResh c f s).boot = s.boot := rfl
@[simp] theorem modResh_rcv : (modResh c f s).rcv = s.rcv := rfl
@[simp] theorem modResh_flights : (modResh c f s).flights = s.flights := rfl
@[simp] theorem modResh_notices : (modResh c f s).notices = s.notices := rfl
@[simp] theorem modResh_smbOut : (modResh c f s).smbOut = s.smbOut := rfl
@[simp] theorem tillerAt_modResh (n : Nat) : tillerAt (modResh c f s) n = tillerAt s n := rfl
@[simp] theorem stackAt_modResh (n : Nat) : stackAt (modResh c f s) n = stackAt s n := rfl
@[simp] theorem deepAt_modResh (n : Nat) : deepAt (modResh c f s) n = deepAt s n := rfl
@[simp] theorem mbxAt_modResh (n : Nat) : mbxAt (modResh c f s) n = mbxAt s n := rfl
@[simp] theorem chanAt_modResh (n : Nat) : chanAt (modResh c f s) n = chanAt s n := rfl
@[simp] theorem objAt_modResh (n : Nat) : objAt (modResh c f s) n = objAt s n := rfl
@[simp] theorem domainAt_modResh (n : Nat) : domainAt (modResh c f s) n = domainAt s n := rfl
@[simp] theorem rdAddr_modResh (n : Nat) : rdAddr (modResh c f s) n = rdAddr s n := rfl
@[simp] theorem rd_modResh (k : Blk) (n : Nat) : rd (modResh c f s) k n = rd s k n := rfl
end

/-! ### wrAddr -/

section
variable (s : State) (a : Nat) (w : Word)

@[simp] theorem wrAddr_pending : (wrAddr s a w).pending = s.pending := rfl
@[simp] theorem wrAddr_us : (wrAddr s a w).us = s.us := rfl
@[simp] theorem wrAddr_freeCtr : (wrAddr s a w).freeCtr = s.freeCtr := rfl
@[simp] theorem wrAddr_tillers : (wrAddr s a w).tillers = s.tillers := rfl
@[simp] theorem wrAddr_stackMap : (wrAddr s a w).stackMap = s.stackMap := rfl
@[simp] theorem wrAddr_deeps : (wrAddr s a w).deeps = s.deeps := rfl
@[simp] theorem wrAddr_dram : (wrAddr s a w).dram = s.dram := rfl
@[simp] theorem wrAddr_poison : (wrAddr s a w).poison = s.poison := rfl
@[simp] theorem wrAddr_husk : (wrAddr s a w).husk = s.husk := rfl
@[simp] theorem wrAddr_huskBad : (wrAddr s a w).huskBad = s.huskBad := rfl
@[simp] theorem wrAddr_objs : (wrAddr s a w).objs = s.objs := rfl
@[simp] theorem wrAddr_grans : (wrAddr s a w).grans = s.grans := rfl
@[simp] theorem wrAddr_shareGroups : (wrAddr s a w).shareGroups = s.shareGroups := rfl
@[simp] theorem wrAddr_used : (wrAddr s a w).used = s.used := rfl
@[simp] theorem wrAddr_migs : (wrAddr s a w).migs = s.migs := rfl
@[simp] theorem wrAddr_heldBy : (wrAddr s a w).heldBy = s.heldBy := rfl
@[simp] theorem wrAddr_xlat : (wrAddr s a w).xlat = s.xlat := rfl
@[simp] theorem wrAddr_mbxs : (wrAddr s a w).mbxs = s.mbxs := rfl
@[simp] theorem wrAddr_chans : (wrAddr s a w).chans = s.chans := rfl
@[simp] theorem wrAddr_links : (wrAddr s a w).links = s.links := rfl
@[simp] theorem wrAddr_cxl : (wrAddr s a w).cxl = s.cxl := rfl
@[simp] theorem wrAddr_power : (wrAddr s a w).power = s.power := rfl
@[simp] theorem wrAddr_phys : (wrAddr s a w).phys = s.phys := rfl
@[simp] theorem wrAddr_boot : (wrAddr s a w).boot = s.boot := rfl
@[simp] theorem wrAddr_rcv : (wrAddr s a w).rcv = s.rcv := rfl
@[simp] theorem wrAddr_flights : (wrAddr s a w).flights = s.flights := rfl
@[simp] theorem wrAddr_notices : (wrAddr s a w).notices = s.notices := rfl
@[simp] theorem wrAddr_smbOut : (wrAddr s a w).smbOut = s.smbOut := rfl
@[simp] theorem tillerAt_wrAddr (n : Nat) : tillerAt (wrAddr s a w) n = tillerAt s n := rfl
@[simp] theorem stackAt_wrAddr (n : Nat) : stackAt (wrAddr s a w) n = stackAt s n := rfl
@[simp] theorem deepAt_wrAddr (n : Nat) : deepAt (wrAddr s a w) n = deepAt s n := rfl
@[simp] theorem mbxAt_wrAddr (n : Nat) : mbxAt (wrAddr s a w) n = mbxAt s n := rfl
@[simp] theorem chanAt_wrAddr (n : Nat) : chanAt (wrAddr s a w) n = chanAt s n := rfl
@[simp] theorem objAt_wrAddr (n : Nat) : objAt (wrAddr s a w) n = objAt s n := rfl
@[simp] theorem domainAt_wrAddr (n : Nat) : domainAt (wrAddr s a w) n = domainAt s n := rfl
@[simp] theorem portAt_wrAddr (n : Nat) : portAt (wrAddr s a w) n = portAt s n := rfl
@[simp] theorem groupAt_wrAddr (n : Nat) : groupAt (wrAddr s a w) n = groupAt s n := rfl
@[simp] theorem resh_wrAddr (n : Nat) : resh n (wrAddr s a w) = resh n s := rfl
end

/-! ### wr -/

section
variable (s : State) (b : Blk) (off : Nat) (w : Word)

@[simp] theorem wr_pending : (wr s b off w).pending = s.pending := rfl
@[simp] theorem wr_us : (wr s b off w).us = s.us := rfl
@[simp] theorem wr_freeCtr : (wr s b off w).freeCtr = s.freeCtr := rfl
@[simp] theorem wr_tillers : (wr s b off w).tillers = s.tillers := rfl
@[simp] theorem wr_stackMap : (wr s b off w).stackMap = s.stackMap := rfl
@[simp] theorem wr_deeps : (wr s b off w).deeps = s.deeps := rfl
@[simp] theorem wr_dram : (wr s b off w).dram = s.dram := rfl
@[simp] theorem wr_poison : (wr s b off w).poison = s.poison := rfl
@[simp] theorem wr_husk : (wr s b off w).husk = s.husk := rfl
@[simp] theorem wr_huskBad : (wr s b off w).huskBad = s.huskBad := rfl
@[simp] theorem wr_objs : (wr s b off w).objs = s.objs := rfl
@[simp] theorem wr_grans : (wr s b off w).grans = s.grans := rfl
@[simp] theorem wr_shareGroups : (wr s b off w).shareGroups = s.shareGroups := rfl
@[simp] theorem wr_used : (wr s b off w).used = s.used := rfl
@[simp] theorem wr_migs : (wr s b off w).migs = s.migs := rfl
@[simp] theorem wr_heldBy : (wr s b off w).heldBy = s.heldBy := rfl
@[simp] theorem wr_xlat : (wr s b off w).xlat = s.xlat := rfl
@[simp] theorem wr_mbxs : (wr s b off w).mbxs = s.mbxs := rfl
@[simp] theorem wr_chans : (wr s b off w).chans = s.chans := rfl
@[simp] theorem wr_links : (wr s b off w).links = s.links := rfl
@[simp] theorem wr_cxl : (wr s b off w).cxl = s.cxl := rfl
@[simp] theorem wr_power : (wr s b off w).power = s.power := rfl
@[simp] theorem wr_phys : (wr s b off w).phys = s.phys := rfl
@[simp] theorem wr_boot : (wr s b off w).boot = s.boot := rfl
@[simp] theorem wr_rcv : (wr s b off w).rcv = s.rcv := rfl
@[simp] theorem wr_flights : (wr s b off w).flights = s.flights := rfl
@[simp] theorem wr_notices : (wr s b off w).notices = s.notices := rfl
@[simp] theorem wr_smbOut : (wr s b off w).smbOut = s.smbOut := rfl
@[simp] theorem tillerAt_wr (n : Nat) : tillerAt (wr s b off w) n = tillerAt s n := rfl
@[simp] theorem stackAt_wr (n : Nat) : stackAt (wr s b off w) n = stackAt s n := rfl
@[simp] theorem deepAt_wr (n : Nat) : deepAt (wr s b off w) n = deepAt s n := rfl
@[simp] theorem mbxAt_wr (n : Nat) : mbxAt (wr s b off w) n = mbxAt s n := rfl
@[simp] theorem chanAt_wr (n : Nat) : chanAt (wr s b off w) n = chanAt s n := rfl
@[simp] theorem objAt_wr (n : Nat) : objAt (wr s b off w) n = objAt s n := rfl
@[simp] theorem domainAt_wr (n : Nat) : domainAt (wr s b off w) n = domainAt s n := rfl
@[simp] theorem portAt_wr (n : Nat) : portAt (wr s b off w) n = portAt s n := rfl
@[simp] theorem groupAt_wr (n : Nat) : groupAt (wr s b off w) n = groupAt s n := rfl
@[simp] theorem resh_wr (n : Nat) : resh n (wr s b off w) = resh n s := rfl
end

/-! ### A unit read after an update of its kind -/

theorem tillerAt_setTiller (s : State) (i : Nat) (v : Tiller) (j : Nat) : tillerAt (setTiller s i v) j = if j = i then v else tillerAt s j := by
  simp only [tillerAt, setTiller, smGet_set]
@[simp] theorem tillerAt_setTiller_same (s : State) (i : Nat) (v : Tiller) : tillerAt (setTiller s i v) i = v := by simp [tillerAt_setTiller]
theorem tillerAt_setTiller_ne (s : State) {i j : Nat} (v : Tiller) (h : j ≠ i) : tillerAt (setTiller s i v) j = tillerAt s j := by simp [tillerAt_setTiller, h]
@[simp] theorem tillerAt_modTiller_same (s : State) (i : Nat) (f : Tiller → Tiller) : tillerAt (modTiller s i f) i = f (tillerAt s i) := by simp [modTiller]
theorem tillerAt_modTiller_ne (s : State) {i j : Nat} (f : Tiller → Tiller) (h : j ≠ i) : tillerAt (modTiller s i f) j = tillerAt s j := tillerAt_setTiller_ne s _ h

theorem stackAt_setStack (s : State) (i : Nat) (v : Stack) (j : Nat) : stackAt (setStack s i v) j = if j = i then v else stackAt s j := by
  simp only [stackAt, setStack, smGet_set]
@[simp] theorem stackAt_setStack_same (s : State) (i : Nat) (v : Stack) : stackAt (setStack s i v) i = v := by simp [stackAt_setStack]
theorem stackAt_setStack_ne (s : State) {i j : Nat} (v : Stack) (h : j ≠ i) : stackAt (setStack s i v) j = stackAt s j := by simp [stackAt_setStack, h]
@[simp] theorem stackAt_modStack_same (s : State) (i : Nat) (f : Stack → Stack) : stackAt (modStack s i f) i = f (stackAt s i) := by simp [modStack]
theorem stackAt_modStack_ne (s : State) {i j : Nat} (f : Stack → Stack) (h : j ≠ i) : stackAt (modStack s i f) j = stackAt s j := stackAt_setStack_ne s _ h

theorem deepAt_setDeep (s : State) (i : Nat) (v : Deep) (j : Nat) : deepAt (setDeep s i v) j = if j = i then v else deepAt s j := by
  simp only [deepAt, setDeep, smGet_set]
@[simp] theorem deepAt_setDeep_same (s : State) (i : Nat) (v : Deep) : deepAt (setDeep s i v) i = v := by simp [deepAt_setDeep]
theorem deepAt_setDeep_ne (s : State) {i j : Nat} (v : Deep) (h : j ≠ i) : deepAt (setDeep s i v) j = deepAt s j := by simp [deepAt_setDeep, h]
@[simp] theorem deepAt_modDeep_same (s : State) (i : Nat) (f : Deep → Deep) : deepAt (modDeep s i f) i = f (deepAt s i) := by simp [modDeep]
theorem deepAt_modDeep_ne (s : State) {i j : Nat} (f : Deep → Deep) (h : j ≠ i) : deepAt (modDeep s i f) j = deepAt s j := deepAt_setDeep_ne s _ h

theorem mbxAt_setMbx (s : State) (i : Nat) (v : Mbx) (j : Nat) : mbxAt (setMbx s i v) j = if j = i then v else mbxAt s j := by
  simp only [mbxAt, setMbx, smGet_set]
@[simp] theorem mbxAt_setMbx_same (s : State) (i : Nat) (v : Mbx) : mbxAt (setMbx s i v) i = v := by simp [mbxAt_setMbx]
theorem mbxAt_setMbx_ne (s : State) {i j : Nat} (v : Mbx) (h : j ≠ i) : mbxAt (setMbx s i v) j = mbxAt s j := by simp [mbxAt_setMbx, h]
@[simp] theorem mbxAt_modMbx_same (s : State) (i : Nat) (f : Mbx → Mbx) : mbxAt (modMbx s i f) i = f (mbxAt s i) := by simp [modMbx]
theorem mbxAt_modMbx_ne (s : State) {i j : Nat} (f : Mbx → Mbx) (h : j ≠ i) : mbxAt (modMbx s i f) j = mbxAt s j := mbxAt_setMbx_ne s _ h

theorem chanAt_setChan (s : State) (i : Nat) (v : Chan) (j : Nat) : chanAt (setChan s i v) j = if j = i then v else chanAt s j := by
  simp only [chanAt, setChan, smGet_set]
@[simp] theorem chanAt_setChan_same (s : State) (i : Nat) (v : Chan) : chanAt (setChan s i v) i = v := by simp [chanAt_setChan]
theorem chanAt_setChan_ne (s : State) {i j : Nat} (v : Chan) (h : j ≠ i) : chanAt (setChan s i v) j = chanAt s j := by simp [chanAt_setChan, h]
@[simp] theorem chanAt_modChan_same (s : State) (i : Nat) (f : Chan → Chan) : chanAt (modChan s i f) i = f (chanAt s i) := by simp [modChan]
theorem chanAt_modChan_ne (s : State) {i j : Nat} (f : Chan → Chan) (h : j ≠ i) : chanAt (modChan s i f) j = chanAt s j := chanAt_setChan_ne s _ h

theorem objAt_setObj (s : State) (i : Nat) (v : Obj) (j : Nat) : objAt (setObj s i v) j = if j = i then v else objAt s j := by
  simp only [objAt, setObj, smGet_set]
@[simp] theorem objAt_setObj_same (s : State) (i : Nat) (v : Obj) : objAt (setObj s i v) i = v := by simp [objAt_setObj]
theorem objAt_setObj_ne (s : State) {i j : Nat} (v : Obj) (h : j ≠ i) : objAt (setObj s i v) j = objAt s j := by simp [objAt_setObj, h]
@[simp] theorem objAt_modObj_same (s : State) (i : Nat) (f : Obj → Obj) : objAt (modObj s i f) i = f (objAt s i) := by simp [modObj]
theorem objAt_modObj_ne (s : State) {i j : Nat} (f : Obj → Obj) (h : j ≠ i) : objAt (modObj s i f) j = objAt s j := objAt_setObj_ne s _ h

@[simp] theorem chanAt_modRings_same (s : State) (c : Nat) (f : Rings → Rings) :
    chanAt (modRings s c f) c = { chanAt s c with rings := f (chanAt s c).rings } := chanAt_modChan_same ..
theorem chanAt_modRings_ne (s : State) {c d : Nat} (f : Rings → Rings) (h : d ≠ c) : chanAt (modRings s c f) d = chanAt s d := chanAt_modChan_ne _ _ h

@[simp] theorem chanAt_modTrn_same (s : State) (c : Nat) (f : Trn → Trn) :
    chanAt (modTrn s c f) c = { chanAt s c with trn := f (chanAt s c).trn } := chanAt_modChan_same ..
theorem chanAt_modTrn_ne (s : State) {c d : Nat} (f : Trn → Trn) (h : d ≠ c) : chanAt (modTrn s c f) d = chanAt s d := chanAt_modChan_ne _ _ h

@[simp] theorem chanAt_modChanRcv_same (s : State) (c : Nat) (f : ChanRcv → ChanRcv) :
    chanAt (modChanRcv s c f) c = { chanAt s c with rcv := f (chanAt s c).rcv } := chanAt_modChan_same ..
theorem chanAt_modChanRcv_ne (s : State) {c d : Nat} (f : ChanRcv → ChanRcv) (h : d ≠ c) : chanAt (modChanRcv s c f) d = chanAt s d := chanAt_modChan_ne _ _ h

theorem domainAt_modDomain_same (s : State) (d : Nat) (f : Domain → Domain) : domainAt (modDomain s d f) d = f (domainAt s d) := by
  simp [domainAt, modDomain, smModify]
theorem domainAt_modDomain_ne (s : State) {d e : Nat} (f : Domain → Domain) (h : e ≠ d) : domainAt (modDomain s d f) e = domainAt s e := by
  simp [domainAt, modDomain, smModify, smGet_set_ne _ _ _ h]
theorem groupAt_modGroup_same (s : State) (g : Nat) (f : Group → Group) : groupAt (modGroup s g f) g = f (groupAt s g) := by
  simp [groupAt, modGroup, smModify]
theorem groupAt_modGroup_ne (s : State) {g h : Nat} (f : Group → Group) (e : h ≠ g) : groupAt (modGroup s g f) h = groupAt s h := by
  simp [groupAt, modGroup, smModify, smGet_set_ne _ _ _ e]
theorem resh_modResh_same (s : State) (c : Nat) (f : Reshard → Reshard) : resh c (modResh c f s) = f (resh c s) := by
  simp [resh, modResh, smModify]
theorem resh_modResh_ne (s : State) {c d : Nat} (f : Reshard → Reshard) (h : d ≠ c) : resh d (modResh c f s) = resh d s := by
  simp [resh, modResh, smModify, smGet_set_ne _ _ _ h]
theorem portAt_setPort_same (s : State) {p : Nat} (v : Port) (h : p < s.links.ports.length) : portAt (setPort s p v) p = v := by
  simp [portAt, setPort, h]
theorem portAt_setPort_ne (s : State) {p q : Nat} (v : Port) (h : q ≠ p) : portAt (setPort s p v) q = portAt s q := by
  simp [portAt, setPort, List.getElem?_set, Ne.symm h]
theorem portAt_modPort_same (s : State) {p : Nat} (f : Port → Port) (h : p < s.links.ports.length) : portAt (modPort s p f) p = f (portAt s p) :=
  portAt_setPort_same s _ h
theorem portAt_modPort_ne (s : State) {p q : Nat} (f : Port → Port) (h : q ≠ p) : portAt (modPort s p f) q = portAt s q := portAt_setPort_ne s _ h
@[simp] theorem rdAddr_wrAddr_same (s : State) (a : Nat) (w : Word) : rdAddr (wrAddr s a w) a = w := by simp [rdAddr, wrAddr]
theorem rdAddr_wrAddr_ne (s : State) {a b : Nat} (w : Word) (h : b ≠ a) : rdAddr (wrAddr s a w) b = rdAddr s b := by
  simp [rdAddr, wrAddr, smGet_set_ne _ _ _ h]
@[simp] theorem rd_wr_same (s : State) (b : Blk) (off : Nat) (w : Word) : rd (wr s b off w) b off = w := rdAddr_wrAddr_same ..

/-! ### The free values drawn -/

@[simp] theorem drawFree_freeCtr (s : State) : (drawFree s).2.freeCtr = s.freeCtr + 1 := rfl
@[simp] theorem drawFree_value (s : State) : (drawFree s).1 = Config.freeWord s.freeCtr := rfl

@[simp] theorem drawFree_pending (s : State) : (drawFree s).2.pending = s.pending := rfl
@[simp] theorem drawFree_us (s : State) : (drawFree s).2.us = s.us := rfl
@[simp] theorem drawFree_regs (s : State) : (drawFree s).2.regs = s.regs := rfl
@[simp] theorem drawFree_tillers (s : State) : (drawFree s).2.tillers = s.tillers := rfl
@[simp] theorem drawFree_stackMap (s : State) : (drawFree s).2.stackMap = s.stackMap := rfl
@[simp] theorem drawFree_deeps (s : State) : (drawFree s).2.deeps = s.deeps := rfl
@[simp] theorem drawFree_dram (s : State) : (drawFree s).2.dram = s.dram := rfl
@[simp] theorem drawFree_poison (s : State) : (drawFree s).2.poison = s.poison := rfl
@[simp] theorem drawFree_husk (s : State) : (drawFree s).2.husk = s.husk := rfl
@[simp] theorem drawFree_huskBad (s : State) : (drawFree s).2.huskBad = s.huskBad := rfl
@[simp] theorem drawFree_objs (s : State) : (drawFree s).2.objs = s.objs := rfl
@[simp] theorem drawFree_grans (s : State) : (drawFree s).2.grans = s.grans := rfl
@[simp] theorem drawFree_shareGroups (s : State) : (drawFree s).2.shareGroups = s.shareGroups := rfl
@[simp] theorem drawFree_used (s : State) : (drawFree s).2.used = s.used := rfl
@[simp] theorem drawFree_migs (s : State) : (drawFree s).2.migs = s.migs := rfl
@[simp] theorem drawFree_heldBy (s : State) : (drawFree s).2.heldBy = s.heldBy := rfl
@[simp] theorem drawFree_xlat (s : State) : (drawFree s).2.xlat = s.xlat := rfl
@[simp] theorem drawFree_mbxs (s : State) : (drawFree s).2.mbxs = s.mbxs := rfl
@[simp] theorem drawFree_chans (s : State) : (drawFree s).2.chans = s.chans := rfl
@[simp] theorem drawFree_links (s : State) : (drawFree s).2.links = s.links := rfl
@[simp] theorem drawFree_cxl (s : State) : (drawFree s).2.cxl = s.cxl := rfl
@[simp] theorem drawFree_power (s : State) : (drawFree s).2.power = s.power := rfl
@[simp] theorem drawFree_phys (s : State) : (drawFree s).2.phys = s.phys := rfl
@[simp] theorem drawFree_boot (s : State) : (drawFree s).2.boot = s.boot := rfl
@[simp] theorem drawFree_rcv (s : State) : (drawFree s).2.rcv = s.rcv := rfl
@[simp] theorem drawFree_flights (s : State) : (drawFree s).2.flights = s.flights := rfl
@[simp] theorem drawFree_notices (s : State) : (drawFree s).2.notices = s.notices := rfl
@[simp] theorem drawFree_smbOut (s : State) : (drawFree s).2.smbOut = s.smbOut := rfl

end Sys2Proof.Machine
end

