-- ==== Sys2Proof/WellFormed.lean ====
section
/-! DEFINITION. Which commands and events can be given: units that the TX9 has (Table 0.4), fields inside their widths, words and
messages of the kind that their row serves. -/

namespace Sys2Proof

open Sys2Proof.Machine

/-- A command comes from one of the 64 mailboxes, the ring of one of 4,096 channels, or SMBus (R399, R405, R428). -/
def srcOk : CmdSrc → Bool
  | .mbx m => decide (m < 64)
  | .ring c => decide (c < 4096)
  | .smb => true

/-- The fields of a message of a kind lie in the widths of Table 10.5 (R334). -/
def msgOk (kind : Nat) (m : Msg) : Bool :=
  m.kind == kind && decide (m.dst < 65536) && decide (m.src < 65536) && decide (m.gen < 65536) && decide (m.group < 1024) &&
  decide (m.epoch < 65536) && decide (m.tag < 4294967296) && decide (m.offset < 2 ^ 64) && decide (m.obj < 131072) &&
  decide (m.length ≤ 65536) && decide (m.data.length ≤ 65536)

/-- A code of Table 13.3. -/
def domainCode (d : Nat) : Bool :=
  decide (d < 0x34) || (decide (0x38 ≤ d) && decide (d < 0x3E)) || d == 0x40 || d == 0x48 || d == 0x7E || d == 0x7F

/-- An opcode byte that Table 4.4 or Table 4.5 lists. -/
def listedWord (op : Nat) : Bool :=
  (decide (0x01 ≤ op) && decide (op ≤ 0x0B)) || (decide (0x10 ≤ op) && decide (op ≤ 0x18)) || (decide (0x20 ≤ op) && decide (op ≤ 0x24)) ||
  (decide (0x28 ≤ op) && decide (op ≤ 0x2A)) || (decide (0x40 ≤ op) && decide (op ≤ 0x4F)) || (decide (0x60 ≤ op) && decide (op ≤ 0x6B)) ||
  (decide (0x70 ≤ op) && decide (op ≤ 0x73)) || op == 0x7F

/-- The opcode of an entry (R422). -/
def entryOp (e : Entry) : Nat := e.w0.toNat % 256

/-- A command or event that can be given. -/
def Instr.wellFormed : Instr → Bool
  | .chanCreate src e => srcOk src && entryOp e == 0x01
  | .chanDestroy src e => srcOk src && entryOp e == 0x02
  | .chanGrant src e => srcOk src && entryOp e == 0x03
  | .chanFence src e => srcOk src && entryOp e == 0x04
  | .chanUnfence src e => srcOk src && entryOp e == 0x05
  | .chanReattach src e => srcOk src && entryOp e == 0x06
  | .ringSet src e => srcOk src && entryOp e == 0x07
  | .hostWindowSet src e => srcOk src && entryOp e == 0x08
  | .chanQuery src e => srcOk src && entryOp e == 0x09
  | .torusSet src e => srcOk src && entryOp e == 0x0A
  | .routeSet src e => srcOk src && entryOp e == 0x0B
  | .tokenHold src e => srcOk src && entryOp e == 0x0C
  | .nop src e => srcOk src && entryOp e == 0x0D
  | .objCreate src e => srcOk src && entryOp e == 0x10
  | .objFree src e => srcOk src && entryOp e == 0x11
  | .objSetMode src e => srcOk src && entryOp e == 0x12
  | .objShare src e => srcOk src && entryOp e == 0x13
  | .objUnshare src e => srcOk src && entryOp e == 0x14
  | .objQuery src e => srcOk src && entryOp e == 0x15
  | .objReplicate src e => srcOk src && entryOp e == 0x16
  | .objReplicaDrop src e => srcOk src && entryOp e == 0x17
  | .objFlush src e => srcOk src && entryOp e == 0x18
  | .objMigrate src e => srcOk src && entryOp e == 0x19
  | .stageLoad src e _ => srcOk src && entryOp e == 0x20
  | .copyH2d src e => srcOk src && entryOp e == 0x21
  | .copyD2h src e => srcOk src && entryOp e == 0x22
  | .regionRegister src e => srcOk src && entryOp e == 0x23
  | .regionRelease src e => srcOk src && entryOp e == 0x24
  | .shardCreate src e => srcOk src && entryOp e == 0x30
  | .shardFree src e => srcOk src && entryOp e == 0x31
  | .hyperSet src e => srcOk src && entryOp e == 0x32
  | .gather src e => srcOk src && entryOp e == 0x33
  | .sheafRegister src e => srcOk src && entryOp e == 0x34
  | .stepClose src e => srcOk src && entryOp e == 0x35
  | .hostCommit src e => srcOk src && entryOp e == 0x36
  | .commitAck src e => srcOk src && entryOp e == 0x37
  | .variantSet src e => srcOk src && entryOp e == 0x38
  | .deltaSink src e => srcOk src && entryOp e == 0x39
  | .collGroupCreate src e => srcOk src && entryOp e == 0x40
  | .collGroupFree src e => srcOk src && entryOp e == 0x41
  | .collBcast src e => srcOk src && entryOp e == 0x42
  | .collSend src e => srcOk src && entryOp e == 0x43
  | .collRecv src e => srcOk src && entryOp e == 0x44
  | .collBarrier src e => srcOk src && entryOp e == 0x45
  | .reshard src e => srcOk src && entryOp e == 0x46
  | .linkFence src e => srcOk src && entryOp e == 0x47
  | .fwBegin src e => srcOk src && entryOp e == 0x60
  | .fwBlock src e => srcOk src && entryOp e == 0x61
  | .fwVerify src e => srcOk src && entryOp e == 0x62
  | .fwActivate src e => srcOk src && entryOp e == 0x63
  | .fwAbort src e => srcOk src && entryOp e == 0x64
  | .fwStatus src e => srcOk src && entryOp e == 0x65
  | .settingsGet src e => srcOk src && entryOp e == 0x68
  | .settingsSet src e => srcOk src && entryOp e == 0x69
  | .keyLoad src e => srcOk src && entryOp e == 0x6C
  | .keyClear src e => srcOk src && entryOp e == 0x6D
  | .smbTelemetry _ _ => true
  | .smbHeartbeat _ => true
  | .smbRecover _ _ => true
  | .smbDetach _ => true
  | .smbLogRead _ _ => true
  | .mbxGo m _ => decide (m < 64)
  | .mbxResultRecord m => decide (m < 64)
  | .dbCmdTail c _ => decide (c < 4096)
  | .dbTokenRelease c _ => decide (c < 4096)
  | .dbCplHead c _ => decide (c < 4096)
  | .ringFetch c es => decide (c < 4096) && decide (1 ≤ es.length) && decide (es.length ≤ 16)
  | .staleReread c _ => decide (c < 4096)
  | .cplRecordWrite c => decide (c < 4096)
  | .msixCoalesceTimer c => decide (c < 4096)
  | .layerBarrierGo c => decide (c < 4096)
  | .lateSwap t => decide (t < 128)
  | .deferredSwapResume c => decide (c < 4096)
  | .admitWaveOpen c => decide (c < 4096)
  | .streamTileArrive dst src port => decide (dst < 128) && decide (src < 128) && decide (port < 4)
  | .streamEndArrive dst src port => decide (dst < 128) && decide (src < 128) && decide (port < 4)
  | .streamCreditReturn dst src port => decide (dst < 128) && decide (src < 128) && decide (port < 4)
  | .relayForward t => decide (t < 128)
  | .relayStall t => decide (t < 128)
  | .prefetchIssue t _ port _ _ _ _ _ => decide (t < 128) && decide (port < 4)
  | .memRequestSend t _ => decide (t < 128)
  | .staleNotice t _ => decide (t < 128)
  | .tileLand t _ => decide (t < 128)
  | .writeAck t _ => decide (t < 128)
  | .arrayPass t => decide (t < 128)
  | .arraySync t => decide (t < 128)
  | .arrayBankFlush t => decide (t < 128)
  | .contextSwitch t => decide (t < 128)
  | .vectorBeat t => decide (t < 128)
  | .vadd t w => decide (t < 128) && w.toNat % 256 == 0x01
  | .vsub t w => decide (t < 128) && w.toNat % 256 == 0x02
  | .vmul t w => decide (t < 128) && w.toNat % 256 == 0x03
  | .vfma t w => decide (t < 128) && w.toNat % 256 == 0x04
  | .vmax t w => decide (t < 128) && w.toNat % 256 == 0x05
  | .vmin t w => decide (t < 128) && w.toNat % 256 == 0x06
  | .vabs t w => decide (t < 128) && w.toNat % 256 == 0x07
  | .vneg t w => decide (t < 128) && w.toNat % 256 == 0x08
  | .vcmp t w => decide (t < 128) && w.toNat % 256 == 0x09
  | .vsel t w => decide (t < 128) && w.toNat % 256 == 0x0A
  | .vcpy t w => decide (t < 128) && w.toNat % 256 == 0x0B
  | .vexp2 t w => decide (t < 128) && w.toNat % 256 == 0x10
  | .vexp t w => decide (t < 128) && w.toNat % 256 == 0x11
  | .vlog2 t w => decide (t < 128) && w.toNat % 256 == 0x12
  | .vrcp t w => decide (t < 128) && w.toNat % 256 == 0x13
  | .vrsqrt t w => decide (t < 128) && w.toNat % 256 == 0x14
  | .vsqrt t w => decide (t < 128) && w.toNat % 256 == 0x15
  | .vtanh t w => decide (t < 128) && w.toNat % 256 == 0x16
  | .vsigm t w => decide (t < 128) && w.toNat % 256 == 0x17
  | .verf t w => decide (t < 128) && w.toNat % 256 == 0x18
  | .rsum t w => decide (t < 128) && w.toNat % 256 == 0x20
  | .rssq t w => decide (t < 128) && w.toNat % 256 == 0x21
  | .rmax t w => decide (t < 128) && w.toNat % 256 == 0x22
  | .rmin t w => decide (t < 128) && w.toNat % 256 == 0x23
  | .ramax t w => decide (t < 128) && w.toNat % 256 == 0x24
  | .rrowsum t w => decide (t < 128) && w.toNat % 256 == 0x28
  | .rrowssq t w => decide (t < 128) && w.toNat % 256 == 0x29
  | .rrowmax t w => decide (t < 128) && w.toNat % 256 == 0x2A
  | .sadd t w => decide (t < 128) && w.toNat % 256 == 0x40
  | .ssub t w => decide (t < 128) && w.toNat % 256 == 0x41
  | .smul t w => decide (t < 128) && w.toNat % 256 == 0x42
  | .sand t w => decide (t < 128) && w.toNat % 256 == 0x43
  | .sor t w => decide (t < 128) && w.toNat % 256 == 0x44
  | .sxor t w => decide (t < 128) && w.toNat % 256 == 0x45
  | .sshl t w => decide (t < 128) && w.toNat % 256 == 0x46
  | .sshr t w => decide (t < 128) && w.toNat % 256 == 0x47
  | .slih t w => decide (t < 128) && w.toNat % 256 == 0x48
  | .sfadd t w => decide (t < 128) && w.toNat % 256 == 0x49
  | .sfmul t w => decide (t < 128) && w.toNat % 256 == 0x4A
  | .sfma t w => decide (t < 128) && w.toNat % 256 == 0x4B
  | .scvtf t w => decide (t < 128) && w.toNat % 256 == 0x4C
  | .scvti t w => decide (t < 128) && w.toNat % 256 == 0x4D
  | .sld t w => decide (t < 128) && w.toNat % 256 == 0x4E
  | .sst t w => decide (t < 128) && w.toNat % 256 == 0x4F
  | .arr t w => decide (t < 128) && w.toNat % 256 == 0x60
  | .waita t w => decide (t < 128) && w.toNat % 256 == 0x61
  | .mreq t w => decide (t < 128) && w.toNat % 256 == 0x62
  | .waitm t w => decide (t < 128) && w.toNat % 256 == 0x63
  | .mwrite t w => decide (t < 128) && w.toNat % 256 == 0x64
  | .send t w => decide (t < 128) && w.toNat % 256 == 0x65
  | .waitin t w => decide (t < 128) && w.toNat % 256 == 0x66
  | .relin t w => decide (t < 128) && w.toNat % 256 == 0x67
  | .waitw t w => decide (t < 128) && w.toNat % 256 == 0x68
  | .relw t w => decide (t < 128) && w.toNat % 256 == 0x69
  | .ftqWait t w => decide (t < 128) && w.toNat % 256 == 0x6A
  | .ftqPop t w => decide (t < 128) && w.toNat % 256 == 0x6B
  | .br t w => decide (t < 128) && w.toNat % 256 == 0x70
  | .tileEnd t w => decide (t < 128) && w.toNat % 256 == 0x71
  | .stageEnd t w => decide (t < 128) && w.toNat % 256 == 0x72
  | .waitv t w => decide (t < 128) && w.toNat % 256 == 0x73
  | .seqNop t w => decide (t < 128) && w.toNat % 256 == 0x7F
  | .stackPartServe i t _ _ _ => decide (i < 16) && decide (t < 128)
  | .bankSlow i ch bank _ => decide (i < 48) && decide (ch < 32) && decide (bank < 32)
  | .bankTimeout i ch bank _ => decide (i < 16) && decide (ch < 32) && decide (bank < 32)
  | .dtBankTimeout d _ _ bank _ => decide (d < 32) && decide (bank < 32)
  | .accumArrive i t _ => decide (i < 16) && decide (t < 128)
  | .accumReoffer i t _ => decide (i < 16) && decide (t < 128)
  | .sheafComplete c _ => decide (c < 4096)
  | .updateItemStart i => decide (i < 16)
  | .updatePhaseDone i => decide (i < 16)
  | .scaleReport c _ _ => decide (c < 4096)
  | .workNarrowStart i => decide (i < 16)
  | .dieAutoErase i die => decide (i < 16) && decide (die < 16)
  | .scrubRead i _ _ => decide (i < 48)
  | .bankRefresh i ch bank => decide (i < 48) && decide (ch < 32) && decide (bank < 32)
  | .refreshForce i ch bank => decide (i < 48) && decide (ch < 32) && decide (bank < 32)
  | .stackTempSample i temps => decide (i < 16) && temps.all (fun x => decide (x < 256))
  | .stackThermExit i => decide (i < 16)
  | .dtPartServe d t _ errs => decide (d < 32) && decide (t < 128) && errs.map.all (fun l => decide (l < 2 ^ 24))
  | .dtTempSample d _ => decide (d < 32)
  | .dtThermExit d => decide (d < 32)
  | .xlatMissFill t obj _ => decide (t < 148) && decide (obj < 131072)
  | .cxlMemRead h => decide (h < 281474976710656)
  | .cxlMemWrite h _ => decide (h < 281474976710656)
  | .migrateInvalidate obj _ _ => decide (obj < 131072)
  | .migrateCopyStart obj _ => decide (obj < 131072)
  | .migrateRecordWrite obj _ => decide (obj < 131072)
  | .migrateFreeSource obj _ => decide (obj < 131072)
  | .migrateHoldTimeout obj _ => decide (obj < 131072)
  | .migrateRetry obj _ => decide (obj < 131072)
  | .trainingRecordRx p bs => decide (p < 6) && decide (bs.length = 16)
  | .trainingStepTimeout p => decide (p < 6)
  | .trainingRestart p => decide (p < 6)
  | .laneFail p lane => decide (p < 6) && decide (lane < 8)
  | .portRetrainDone p => decide (p < 6)
  | .portRetrainWrite p => decide (p < 6)
  | .cablePresent p => decide (p < 6)
  | .flitRx p x => decide (p < 6) && decide (x.bytes.length = 256)
  | .flitTx p => decide (p < 6)
  | .fence m => msgOk 0x01 m
  | .unfence m => msgOk 0x02 m
  | .stepAbort m => msgOk 3 m
  | .rejoin m => msgOk 4 m
  | .rejoinAck m => msgOk 5 m
  | .huskResend m => msgOk 0x06 m
  | .plan m => msgOk 7 m
  | .reshardReady m => msgOk 8 m
  | .rdReq m => msgOk 0x10 m
  | .wrReq m => msgOk 0x11 m
  | .rdResp m => msgOk 0x20 m
  | .wrAck m => msgOk 0x21 m
  | .err m => msgOk 0x22 m
  | .chunk m => msgOk 0x30 m
  | .cts m => msgOk 0x31 m
  | .barrier m => msgOk 0x32 m
  | .normStart c => decide (c < 4096)
  | .stepCommit c => decide (c < 4096)
  | .deltaExportStart c => decide (c < 4096)
  | .deltaSegmentWrite c => decide (c < 4096)
  | .deltaWaitTimeout c => decide (c < 4096)
  | .deltaHeadWrite c _ => decide (c < 4096)
  | .collTimeout g _ => decide (g < 1024)
  | .rejoinWaitExpire g => decide (g < 1024)
  | .rejoinAckTimeout g => decide (g < 1024)
  | .cxlLinkUp mode width rate _ _ => (mode == 1 || mode == 2) && decide (1 ≤ width) && decide (width ≤ 16) && decide (1 ≤ rate) && decide (rate ≤ 6)
  | .cxlLinkDown => true
  | .perstAssert => true
  | .cxlHotReset => true
  | .cxlFlr => true
  | .ideIntegrityFail => true
  | .hostWdExpire => true
  | .hostWdWrite _ => true
  | .cxpAttach => true
  | .cxpDetach => true
  | .hdmCommit _ _ => true
  | .bar0BadAccess _ => true
  | .bar4Read _ len reqId _ _ => decide (1 ≤ len) && decide (len ≤ 4096) && decide (reqId < 65536)
  | .bar4Write _ reqId _ _ data => decide (1 ≤ data.length) && decide (data.length ≤ 4096) && decide (reqId < 65536)
  | .copyEngineStart n => decide (n < 12)
  | .copyComplete n => decide (n < 12)
  | .hostReadReturn _ data => decide (1 ≤ data.length)
  | .hostWriteGo _ => true
  | .spdmRequest msg => decide (4 ≤ msg.length)
  | .cmdWatchdog c _ => decide (c < 4096)
  | .watchdogReleaseTimeout c _ => decide (c < 4096)
  | .progressTimeout t ctx => decide (t < 128) && decide (ctx < 2)
  | .tagTimeout who _ _ => decide (who < 4)
  | .tagProbeReturn who _ _ => decide (who < 4)
  | .tagProbeTimeout who _ _ => decide (who < 4)
  | .heartbeatAdvance => true
  | .rachisTakeover => true
  | .standbyReloadDone _ => true
  | .monRcvReq _ => true
  | .resetStepDone code _ => domainCode code
  | .fenceDrainTimeout code => domainCode code
  | .stookSaveDone _ => true
  | .chnRcvResume c _ => decide (c < 4096)
  | .lsLoad c _ => decide (c < 4096)
  | .powerAverage _ _ => true
  | .dieTempSample temps _ => decide (temps.length = 40) && temps.all (fun x => decide (x < 256))
  | .thermLevelStep => true
  | .thermalShutdown sensor => decide (sensor < 40)
  | .throttleApply => true
  | .vcoreDip site _ => decide (site < 42)
  | .stretchEnd => true
  | .dipHoldEnd => true
  | .vcoreResetLevel site _ => decide (site < 42)
  | .railResetOther rail _ => decide (1 ≤ rail) && decide (rail ≤ 12)
  | .clockLoss => true
  | .clockRestored => true
  | .vcoreMinReset _ => true
  | .counterClear _ size _ _ => (size == 4 || size == 8)
  | .registerWrite _ size _ => (size == 4 || size == 8)
  | .bootChain _ _ _ _ => true
  | .flashOpDone => true
  | .fwCommitCopy => true
  | .handoverStandbyReady => true
  | .handoverTimeout => true
  | .rcvBegin _ => true
  | .rcvBlock _ => true
  | .rcvVerify _ => true
  | .rcvStart _ => true
  | .modRstPulse _ => true
  | .modRstLong _ => true
  | .pwrEnRise addr => decide (addr < 8)
  | .pwrEnFall => true
  | .inputUndervolt => true
  | .inputOvervolt => true
  | .inputRestored => true
  | .aonLoss => true
  | .illegalOp t w => decide (t < 128) && !listedWord (w.toNat % 256)
  | .unknownOpcode src _ => srcOk src
  | .laneLock p => decide (p < 6)
  | .trainingRecordSend p => decide (p < 6)
  | .railOutOfBand rail _ => decide (rail < 13)
  | .inputApplied => true
  | .undervoltEnd => true
  | .perstDeassert => true

end Sys2Proof
end

