-- ==== Sys2Proof/Tests/Slice0.lean ====
section
/-! SUPPORT. The model's own tests: ill-formed commands refused by the check, one step of each family, and states that meet the
hypotheses of every statement. -/

set_option Elab.async false

open Sys2Proof Sys2Proof.Machine Sys2Proof.Claim

namespace Sys2Proof.Tests

theorem eq_some {α : Type} {o : Option α} (h : o.isSome = true) : o = some (o.get h) := by simp

theorem opt_all {α : Type} {o : Option α} {P : α → Prop} (h : o.isNone = true) : ∀ x, o = some x → P x := by
  intro x hx; cases hx; cases h

theorem opt_get {α : Type} {o : Option α} {P : α → Prop} (h : o.isSome = true) (hp : P (o.get h)) : ∀ x, o = some x → P x := by
  intro x hx; cases hx; exact hp

def okOr {ε α : Type} (d : α) : Except ε α → α
  | .ok a => a
  | .error _ => d

theorem eq_ok {ε α : Type} {x : Except ε α} (d : α) (h : x.isOk = true) : x = .ok (okOr d x) := by cases x <;> first | rfl | cases h

theorem eq_ok2 {ε α β : Type} {x : Except ε (α × β)} (d : α × β) (h : x.isOk = true) : x = .ok ((okOr d x).1, (okOr d x).2) := eq_ok d h

theorem eq_ok3 {ε α β γ : Type} {x : Except ε (α × β × γ)} (d : α × β × γ) (h : x.isOk = true) :
    x = .ok ((okOr d x).1, (okOr d x).2.1, (okOr d x).2.2) := eq_ok d h

theorem eq_some2 {α β : Type} {o : Option (α × β)} {a : α} (d : α × β) (h : o.map (·.1) = some a) : o = some (a, (o.getD d).2) := by
  cases o <;> cases h; rfl

theorem all_kept (n : Nat) : n ≤ ((List.replicate n ((0xFFF : Nat), (0 : Nat))).filter (fun h => h.1 == bits 0xFFF 11 0)).length := by
  rw [List.filter_eq_self.2 (fun a h => by rw [List.eq_of_mem_replicate h]; decide)]; simp

theorem eq_tup2 {α β : Type} {x : α × β} {c : β} (h : x.2 = c) : x = (x.1, c) := by cases x; cases h; rfl

theorem eq_fst {α β : Type} {x : α × β} {a : α} (h : x.1 = a) : x = (a, x.2) := by cases x; cases h; rfl

theorem eq_mid {α β γ : Type} {x : α × β × γ} {b : β} (h : x.2.1 = b) : x = (x.1, b, x.2.2) := by cases x; cases h; rfl

theorem eq_tup3 {α β γ : Type} {x : α × β × γ} {c : γ} (h : x.2.2 = c) : x = (x.1, x.2.1, c) := by cases x; cases h; rfl

/-- The module READY with its host attached. -/
def up : State := { cxl := { mode := 1, attach := 0 }, boot := { stage := 3 } }

/-- A mailbox runs an entry. -/
def onMbx (m : Nat) (e : Entry) (s : State) : State := { s with mbxs := [(m, { run := some (e, 1), st := 1 })] }

/-- Channel 0 as a host uses it. -/
def liveChan : Chan := {
  live := true, grant := [0, 1, 2], quota := (1000, 1000), logRecs := 64,
  rings := { set := true, cmdN := 4, cplN := 4, cmdTail := 1, cmdHead := 1 } }

/-- The module with one channel. -/
def chanS (k : Chan) : State := { up with chans := [(0, k)] }

/-- The module with one channel whose next ring entry is e. -/
def ringS (e : Entry) (k : Chan) : State := chanS { k with rings := { k.rings with cmds := [{ e := e, step := 1 }] } }

/-- An object of one granule that channel 0 owns, at index 1. -/
def anObj : Obj := { valid := true, homeTier := 1, size := 65536 }

/-- The module with a channel whose next ring entry is e, and with that object. -/
def objS (e : Entry) (k : Chan) (o : Obj) : State :=
  { ringS e k with objs := [(1, o)], grans := [(0, { homeTier := 1 })] }

/-- A training record, and a flit, with their CRCs. -/
def aRecord : List Byte := let h := leBytes 4 1 ++ leBytes 8 0; h ++ leBytes 4 (crc32c h)

def aFlit (w0 : Nat) : List Byte := let h := leBytes 4 w0 ++ List.replicate 248 0; h ++ leBytes 4 (crc32c h)

/-- A shard set of one tensor of four tiles, whose working copy is object 2. -/
def aSet : ShardSet := { valid := true, tensors := [{ rowBlocks := 2, colBlocks := 2 }], work := 2, sums := [0], hyper := [{}] }

/-- The module with that set, its objects and a sheaf's accumulator. -/
def setS (e : Entry) (t : Trn) : State :=
  { ringS e { liveChan with windows := [(0, { rd := true, wr := true, len := 2 ^ 32 })], trn := { t with sets := aSet :: t.sets.drop 1 } } with
    objs := [(1, anObj), (2, { anObj with baseDa := 0x10000, mapIndex := 1 }), (3, { anObj with baseDa := 0x100000, mapIndex := 16, size := 0x100000 })],
    grans := (0, { homeTier := 1 }) :: (1, { home := 1, homeTier := 1 }) :: (List.range 16).map (fun i => (16 + i, { home := 16 + i, homeTier := 1 })) }

/-- A graph of one stage of kind 4 on tiller 0, without its CRC. -/
def graphHead : List Byte :=
  leBytes 2 1 ++ leBytes 2 1 ++ leBytes 4 0 ++ leBytes 8 7 ++ leBytes 4 64 ++ leBytes 4 64 ++ leBytes 4 64 ++ leBytes 4 192 ++
  leBytes 4 193 ++ List.replicate 24 0

/-- That graph. -/
def aGraph : List Byte :=
  let rest : List Byte := leBytes 4 0x401 ++ leBytes 4 0x10101 ++ leBytes 4 0x10000 ++ leBytes 4 0x10101 ++ leBytes 4 1 ++ leBytes 4 1 ++
    leBytes 4 0 ++ leBytes 4 1 ++ leBytes 8 0 ++ leBytes 8 0 ++ leBytes 4 1 ++ leBytes 4 1 ++ leBytes 8 512 ++ List.replicate 64 0 ++ [0]
  graphHead ++ leBytes 4 (crc32c (graphHead ++ [0, 0, 0, 0] ++ rest)) ++ rest

/-- A stage, its configuration, and a tiller that runs it from word w. -/
def aStage : StageDesc := {
  stageId := 1, kind := 4, rowGroups := 1, colGroups := 1, tillers := [0], queueDepth := 2, fmtIn := 1, fmtW := 1, fmtOut := 1,
  rows := 64, cols := 64, depth := 64, microbatches := 2, progObj := 1, progWords := 4, tsIn := 16, tsW := 16, tsOut := 16,
  tsScratch := 16 }

def aCfg (w : Word) : Cfg := { valid := true, complete := true, stage := aStage, prog := [w, 0x7F, 0x7F, 0x72] }

def aTiller (w : Word) : Tiller := { act := aCfg w, admitted := true }

/-- The module with tiller 0, an object and a channel. -/
def tillS (u : Tiller) : State := { objS {} liveChan anObj with tillers := [(0, u)] }

/-- Commands that break one condition each of the check are refused by it. -/
theorem test_ill_formed_1 : ([
  .chanCreate (.mbx 64) { w0 := 0x01 }, .chanCreate (.mbx 0) {}, .chanDestroy (.mbx 64) { w0 := 0x02 }, .chanDestroy (.mbx 0) {},
  .chanGrant (.mbx 64) { w0 := 0x03 }, .chanGrant (.mbx 0) {}, .chanFence (.mbx 64) { w0 := 0x04 }, .chanFence (.mbx 0) {},
  .chanUnfence (.mbx 64) { w0 := 0x05 }, .chanUnfence (.mbx 0) {}, .chanReattach (.mbx 64) { w0 := 0x06 },
  .chanReattach (.mbx 0) {}, .ringSet (.mbx 64) { w0 := 0x07 }, .ringSet (.mbx 0) {}, .hostWindowSet (.mbx 64) { w0 := 0x08 },
  .hostWindowSet (.mbx 0) {}, .chanQuery (.mbx 64) { w0 := 0x09 }, .chanQuery (.mbx 0) {}, .torusSet (.mbx 64) { w0 := 0x0A },
  .torusSet (.mbx 0) {}, .routeSet (.mbx 64) { w0 := 0x0B }, .routeSet (.mbx 0) {}, .tokenHold (.mbx 64) { w0 := 0x0C },
  .tokenHold (.mbx 0) {}, .nop (.mbx 64) { w0 := 0x0D }, .nop (.mbx 0) {}, .objCreate (.mbx 64) { w0 := 0x10 },
  .objCreate (.mbx 0) {}, .objFree (.mbx 64) { w0 := 0x11 }, .objFree (.mbx 0) {}, .objSetMode (.mbx 64) { w0 := 0x12 },
  .objSetMode (.mbx 0) {}, .objShare (.mbx 64) { w0 := 0x13 }, .objShare (.mbx 0) {}, .objUnshare (.mbx 64) { w0 := 0x14 },
  .objUnshare (.mbx 0) {}, .objQuery (.mbx 64) { w0 := 0x15 }, .objQuery (.mbx 0) {}, .objReplicate (.mbx 64) { w0 := 0x16 },
  .objReplicate (.mbx 0) {}, .objReplicaDrop (.mbx 64) { w0 := 0x17 }, .objReplicaDrop (.mbx 0) {},
  .objFlush (.mbx 64) { w0 := 0x18 }, .objFlush (.mbx 0) {}, .objMigrate (.mbx 64) { w0 := 0x19 }, .objMigrate (.mbx 0) {},
  .stageLoad (.mbx 64) { w0 := 0x20 } [], .stageLoad (.mbx 0) {} [], .copyH2d (.mbx 64) { w0 := 0x21 }, .copyH2d (.mbx 0) {},
  .copyD2h (.mbx 64) { w0 := 0x22 }, .copyD2h (.mbx 0) {}, .regionRegister (.mbx 64) { w0 := 0x23 }, .regionRegister (.mbx 0) {},
  .regionRelease (.mbx 64) { w0 := 0x24 }, .regionRelease (.mbx 0) {}, .shardCreate (.mbx 64) { w0 := 0x30 },
  .shardCreate (.mbx 0) {}, .shardFree (.mbx 64) { w0 := 0x31 }, .shardFree (.mbx 0) {}] : List Instr).all (fun i => !i.wellFormed) = true := by decide +kernel

/-- Commands that break one condition each of the check are refused by it. -/
theorem test_ill_formed_2 : ([
  .hyperSet (.mbx 64) { w0 := 0x32 }, .hyperSet (.mbx 0) {}, .gather (.mbx 64) { w0 := 0x33 }, .gather (.mbx 0) {},
  .sheafRegister (.mbx 64) { w0 := 0x34 }, .sheafRegister (.mbx 0) {}, .stepClose (.mbx 64) { w0 := 0x35 }, .stepClose (.mbx 0) {},
  .hostCommit (.mbx 64) { w0 := 0x36 }, .hostCommit (.mbx 0) {}, .commitAck (.mbx 64) { w0 := 0x37 }, .commitAck (.mbx 0) {},
  .variantSet (.mbx 64) { w0 := 0x38 }, .variantSet (.mbx 0) {}, .deltaSink (.mbx 64) { w0 := 0x39 }, .deltaSink (.mbx 0) {},
  .collGroupCreate (.mbx 64) { w0 := 0x40 }, .collGroupCreate (.mbx 0) {}, .collGroupFree (.mbx 64) { w0 := 0x41 },
  .collGroupFree (.mbx 0) {}, .collBcast (.mbx 64) { w0 := 0x42 }, .collBcast (.mbx 0) {}, .collSend (.mbx 64) { w0 := 0x43 },
  .collSend (.mbx 0) {}, .collRecv (.mbx 64) { w0 := 0x44 }, .collRecv (.mbx 0) {}, .collBarrier (.mbx 64) { w0 := 0x45 },
  .collBarrier (.mbx 0) {}, .reshard (.mbx 64) { w0 := 0x46 }, .reshard (.mbx 0) {}, .linkFence (.mbx 64) { w0 := 0x47 },
  .linkFence (.mbx 0) {}, .fwBegin (.mbx 64) { w0 := 0x60 }, .fwBegin (.mbx 0) {}, .fwBlock (.mbx 64) { w0 := 0x61 },
  .fwBlock (.mbx 0) {}, .fwVerify (.mbx 64) { w0 := 0x62 }, .fwVerify (.mbx 0) {}, .fwActivate (.mbx 64) { w0 := 0x63 },
  .fwActivate (.mbx 0) {}, .fwAbort (.mbx 64) { w0 := 0x64 }, .fwAbort (.mbx 0) {}, .fwStatus (.mbx 64) { w0 := 0x65 },
  .fwStatus (.mbx 0) {}, .settingsGet (.mbx 64) { w0 := 0x68 }, .settingsGet (.mbx 0) {}, .settingsSet (.mbx 64) { w0 := 0x69 },
  .settingsSet (.mbx 0) {}, .keyLoad (.mbx 64) { w0 := 0x6C }, .keyLoad (.mbx 0) {}, .keyClear (.mbx 64) { w0 := 0x6D },
  .keyClear (.mbx 0) {}, .mbxGo 64 0, .mbxResultRecord 64, .dbCmdTail 4096 0, .dbTokenRelease 4096 0, .dbCplHead 4096 0,
  .ringFetch 4096 [{}], .ringFetch 0 [], .ringFetch 0 (List.replicate 17 {})] : List Instr).all (fun i => !i.wellFormed) = true := by decide +kernel

/-- Commands that break one condition each of the check are refused by it. -/
theorem test_ill_formed_3 : ([
  .staleReread 4096 {}, .cplRecordWrite 4096, .msixCoalesceTimer 4096, .layerBarrierGo 4096, .lateSwap 128,
  .deferredSwapResume 4096, .admitWaveOpen 4096, .streamTileArrive 128 0 0, .streamTileArrive 0 128 0, .streamTileArrive 0 0 4,
  .streamEndArrive 128 0 0, .streamEndArrive 0 128 0, .streamEndArrive 0 0 4, .streamCreditReturn 128 0 0,
  .streamCreditReturn 0 128 0, .streamCreditReturn 0 0 4, .relayForward 128, .relayStall 128, .prefetchIssue 128 0 0 0 0 0 0 false,
  .prefetchIssue 0 0 4 0 0 0 0 false, .memRequestSend 128 0, .staleNotice 128 0, .tileLand 128 0, .writeAck 128 0, .arrayPass 128,
  .arraySync 128, .arrayBankFlush 128, .contextSwitch 128, .vectorBeat 128, .vadd 128 0x01, .vadd 0 0, .vsub 128 0x02, .vsub 0 0,
  .vmul 128 0x03, .vmul 0 0, .vfma 128 0x04, .vfma 0 0, .vmax 128 0x05, .vmax 0 0, .vmin 128 0x06, .vmin 0 0, .vabs 128 0x07,
  .vabs 0 0, .vneg 128 0x08, .vneg 0 0, .vcmp 128 0x09, .vcmp 0 0, .vsel 128 0x0A, .vsel 0 0, .vcpy 128 0x0B, .vcpy 0 0,
  .vexp2 128 0x10, .vexp2 0 0, .vexp 128 0x11, .vexp 0 0, .vlog2 128 0x12, .vlog2 0 0, .vrcp 128 0x13, .vrcp 0 0, .vrsqrt 128 0x14] : List Instr).all (fun i => !i.wellFormed) = true := by decide +kernel

/-- Commands that break one condition each of the check are refused by it. -/
theorem test_ill_formed_4 : ([
  .vrsqrt 0 0, .vsqrt 128 0x15, .vsqrt 0 0, .vtanh 128 0x16, .vtanh 0 0, .vsigm 128 0x17, .vsigm 0 0, .verf 128 0x18, .verf 0 0,
  .rsum 128 0x20, .rsum 0 0, .rssq 128 0x21, .rssq 0 0, .rmax 128 0x22, .rmax 0 0, .rmin 128 0x23, .rmin 0 0, .ramax 128 0x24,
  .ramax 0 0, .rrowsum 128 0x28, .rrowsum 0 0, .rrowssq 128 0x29, .rrowssq 0 0, .rrowmax 128 0x2A, .rrowmax 0 0, .sadd 128 0x40,
  .sadd 0 0, .ssub 128 0x41, .ssub 0 0, .smul 128 0x42, .smul 0 0, .sand 128 0x43, .sand 0 0, .sor 128 0x44, .sor 0 0,
  .sxor 128 0x45, .sxor 0 0, .sshl 128 0x46, .sshl 0 0, .sshr 128 0x47, .sshr 0 0, .slih 128 0x48, .slih 0 0, .sfadd 128 0x49,
  .sfadd 0 0, .sfmul 128 0x4A, .sfmul 0 0, .sfma 128 0x4B, .sfma 0 0, .scvtf 128 0x4C, .scvtf 0 0, .scvti 128 0x4D, .scvti 0 0,
  .sld 128 0x4E, .sld 0 0, .sst 128 0x4F, .sst 0 0, .arr 128 0x60, .arr 0 0, .waita 128 0x61] : List Instr).all (fun i => !i.wellFormed) = true := by decide +kernel

/-- Commands that break one condition each of the check are refused by it. -/
theorem test_ill_formed_5 : ([
  .waita 0 0, .mreq 128 0x62, .mreq 0 0, .waitm 128 0x63, .waitm 0 0, .mwrite 128 0x64, .mwrite 0 0, .send 128 0x65, .send 0 0,
  .waitin 128 0x66, .waitin 0 0, .relin 128 0x67, .relin 0 0, .waitw 128 0x68, .waitw 0 0, .relw 128 0x69, .relw 0 0,
  .ftqWait 128 0x6A, .ftqWait 0 0, .ftqPop 128 0x6B, .ftqPop 0 0, .br 128 0x70, .br 0 0, .tileEnd 128 0x71, .tileEnd 0 0,
  .stageEnd 128 0x72, .stageEnd 0 0, .waitv 128 0x73, .waitv 0 0, .seqNop 128 0x7F, .seqNop 0 0, .stackPartServe 16 0 0 0 [],
  .stackPartServe 0 128 0 0 [], .bankSlow 48 0 0 0, .bankSlow 0 32 0 0, .bankSlow 0 0 32 0, .bankTimeout 16 0 0 0,
  .bankTimeout 0 32 0 0, .bankTimeout 0 0 32 0, .dtBankTimeout 32 0 0 0 0, .dtBankTimeout 0 0 0 32 0, .accumArrive 16 0 0,
  .accumArrive 0 128 0, .accumReoffer 16 0 0, .accumReoffer 0 128 0, .sheafComplete 4096 0, .updateItemStart 16,
  .updatePhaseDone 16, .scaleReport 4096 0 0, .workNarrowStart 16, .dieAutoErase 16 0, .dieAutoErase 0 16, .scrubRead 48 0 [],
  .bankRefresh 48 0 0, .bankRefresh 0 32 0, .bankRefresh 0 0 32, .refreshForce 48 0 0, .refreshForce 0 32 0, .refreshForce 0 0 32,
  .stackTempSample 16 []] : List Instr).all (fun i => !i.wellFormed) = true := by decide +kernel

/-- Commands that break one condition each of the check are refused by it. -/
theorem test_ill_formed_6 : ([
  .stackTempSample 0 [256], .stackThermExit 16, .dtPartServe 32 0 0 {}, .dtPartServe 0 128 0 {},
  .dtPartServe 0 0 0 { map := [2 ^ 24] }, .dtTempSample 32 0, .dtThermExit 32, .xlatMissFill 148 0 0, .xlatMissFill 0 131072 0,
  .cxlMemRead 281474976710656, .cxlMemWrite 281474976710656 [], .migrateInvalidate 131072 0 0, .migrateCopyStart 131072 0,
  .migrateRecordWrite 131072 0, .migrateFreeSource 131072 0, .migrateHoldTimeout 131072 0, .migrateRetry 131072 0,
  .trainingRecordRx 6 (List.replicate 16 0), .trainingRecordRx 0 [], .trainingStepTimeout 6, .trainingRestart 6, .laneFail 6 0,
  .laneFail 0 8, .portRetrainDone 6, .portRetrainWrite 6, .cablePresent 6, .flitRx 6 { bytes := List.replicate 256 0 },
  .flitRx 0 {}, .flitTx 6, .fence { kind := 0xFF }, .unfence { kind := 0xFF }, .stepAbort { kind := 0xFF },
  .rejoin { kind := 0xFF }, .rejoinAck { kind := 0xFF }, .huskResend { kind := 0xFF }, .plan { kind := 0xFF },
  .reshardReady { kind := 0xFF }, .rdReq { kind := 0xFF }, .wrReq { kind := 0xFF }, .rdResp { kind := 0xFF },
  .wrAck { kind := 0xFF }, .err { kind := 0xFF }, .chunk { kind := 0xFF }, .cts { kind := 0xFF }, .barrier { kind := 0xFF },
  .normStart 4096, .stepCommit 4096, .deltaExportStart 4096, .deltaSegmentWrite 4096, .deltaWaitTimeout 4096,
  .deltaHeadWrite 4096 0, .collTimeout 1024 0, .rejoinWaitExpire 1024, .rejoinAckTimeout 1024, .cxlLinkUp 3 1 1 false false,
  .cxlLinkUp 1 0 1 false false, .cxlLinkUp 1 17 1 false false, .cxlLinkUp 1 1 0 false false, .cxlLinkUp 1 1 7 false false,
  .bar4Read 0 0 0 0 false] : List Instr).all (fun i => !i.wellFormed) = true := by decide +kernel

/-- Commands that break one condition each of the check are refused by it. -/
theorem test_ill_formed_7 : ([
  .bar4Read 0 4097 0 0 false, .bar4Read 0 1 65536 0 false, .bar4Write 0 0 0 false [],
  .bar4Write 0 0 0 false (List.replicate 4097 0), .bar4Write 0 65536 0 false [0], .copyEngineStart 12, .copyComplete 12,
  .hostReadReturn 0 [], .spdmRequest [0, 0, 0], .cmdWatchdog 4096 0, .watchdogReleaseTimeout 4096 0, .progressTimeout 128 0,
  .progressTimeout 0 2, .tagTimeout 4 0 0, .tagProbeReturn 4 0 0, .tagProbeTimeout 4 0 0, .resetStepDone 0x34 false,
  .fenceDrainTimeout 0x34, .chnRcvResume 4096 0, .lsLoad 4096 0, .dieTempSample [] [], .dieTempSample (List.replicate 40 256) [],
  .thermalShutdown 40, .vcoreDip 42 0, .vcoreResetLevel 42 0, .railResetOther 0 0, .railResetOther 13 0, .counterClear 0 2 0 0,
  .registerWrite 0 2 {}, .pwrEnRise 8, .illegalOp 128 0xFF, .illegalOp 0 0x7F, .unknownOpcode (.mbx 64) {}, .laneLock 6,
  .trainingRecordSend 6, .railOutOfBand 13 false, .fence { kind := 1, dst := 65536 }, .fence { kind := 1, src := 65536 },
  .fence { kind := 1, gen := 65536 }, .fence { kind := 1, group := 1024 }, .fence { kind := 1, epoch := 65536 },
  .fence { kind := 1, tag := 4294967296 }, .fence { kind := 1, offset := 2 ^ 64 }, .fence { kind := 1, obj := 131072 },
  .fence { kind := 1, length := 65537 }] : List Instr).all (fun i => !i.wellFormed) = true := by decide +kernel

/-- Commands that break none are accepted. -/
theorem test_well_formed_1 : ([
  .chanCreate (.mbx 0) { w0 := 0x01 }, .chanDestroy (.mbx 0) { w0 := 0x02 }, .chanGrant (.mbx 0) { w0 := 0x03 },
  .chanFence (.mbx 0) { w0 := 0x04 }, .chanUnfence (.mbx 0) { w0 := 0x05 }, .chanReattach (.mbx 0) { w0 := 0x06 },
  .ringSet (.mbx 0) { w0 := 0x07 }, .hostWindowSet (.mbx 0) { w0 := 0x08 }, .chanQuery (.mbx 0) { w0 := 0x09 },
  .torusSet (.mbx 0) { w0 := 0x0A }, .routeSet (.mbx 0) { w0 := 0x0B }, .tokenHold (.mbx 0) { w0 := 0x0C },
  .nop (.mbx 0) { w0 := 0x0D }, .objCreate (.mbx 0) { w0 := 0x10 }, .objFree (.mbx 0) { w0 := 0x11 },
  .objSetMode (.mbx 0) { w0 := 0x12 }, .objShare (.mbx 0) { w0 := 0x13 }, .objUnshare (.mbx 0) { w0 := 0x14 },
  .objQuery (.mbx 0) { w0 := 0x15 }, .objReplicate (.mbx 0) { w0 := 0x16 }, .objReplicaDrop (.mbx 0) { w0 := 0x17 },
  .objFlush (.mbx 0) { w0 := 0x18 }, .objMigrate (.mbx 0) { w0 := 0x19 }, .stageLoad (.mbx 0) { w0 := 0x20 } [],
  .copyH2d (.mbx 0) { w0 := 0x21 }, .copyD2h (.mbx 0) { w0 := 0x22 }, .regionRegister (.mbx 0) { w0 := 0x23 },
  .regionRelease (.mbx 0) { w0 := 0x24 }, .shardCreate (.mbx 0) { w0 := 0x30 }, .shardFree (.mbx 0) { w0 := 0x31 },
  .hyperSet (.mbx 0) { w0 := 0x32 }, .gather (.mbx 0) { w0 := 0x33 }, .sheafRegister (.mbx 0) { w0 := 0x34 },
  .stepClose (.mbx 0) { w0 := 0x35 }, .hostCommit (.mbx 0) { w0 := 0x36 }, .commitAck (.mbx 0) { w0 := 0x37 },
  .variantSet (.mbx 0) { w0 := 0x38 }, .deltaSink (.mbx 0) { w0 := 0x39 }, .collGroupCreate (.mbx 0) { w0 := 0x40 },
  .collGroupFree (.mbx 0) { w0 := 0x41 }, .collBcast (.mbx 0) { w0 := 0x42 }, .collSend (.mbx 0) { w0 := 0x43 },
  .collRecv (.mbx 0) { w0 := 0x44 }, .collBarrier (.mbx 0) { w0 := 0x45 }, .reshard (.mbx 0) { w0 := 0x46 },
  .linkFence (.mbx 0) { w0 := 0x47 }, .fwBegin (.mbx 0) { w0 := 0x60 }, .fwBlock (.mbx 0) { w0 := 0x61 },
  .fwVerify (.mbx 0) { w0 := 0x62 }, .fwActivate (.mbx 0) { w0 := 0x63 }, .fwAbort (.mbx 0) { w0 := 0x64 },
  .fwStatus (.mbx 0) { w0 := 0x65 }, .settingsGet (.mbx 0) { w0 := 0x68 }, .settingsSet (.mbx 0) { w0 := 0x69 },
  .keyLoad (.mbx 0) { w0 := 0x6C }, .keyClear (.mbx 0) { w0 := 0x6D }, .mbxGo 0 0, .mbxResultRecord 0, .dbCmdTail 0 0,
  .dbTokenRelease 0 0] : List Instr).all (fun i => i.wellFormed) = true := by decide +kernel

/-- Commands that break none are accepted. -/
theorem test_well_formed_2 : ([
  .dbCplHead 0 0, .ringFetch 0 [{}], .staleReread 0 {}, .cplRecordWrite 0, .msixCoalesceTimer 0, .layerBarrierGo 0, .lateSwap 0,
  .deferredSwapResume 0, .admitWaveOpen 0, .streamTileArrive 0 0 0, .streamEndArrive 0 0 0, .streamCreditReturn 0 0 0,
  .relayForward 0, .relayStall 0, .prefetchIssue 0 0 0 0 0 0 0 false, .memRequestSend 0 0, .staleNotice 0 0, .tileLand 0 0,
  .writeAck 0 0, .arrayPass 0, .arraySync 0, .arrayBankFlush 0, .contextSwitch 0, .vectorBeat 0, .vadd 0 0x01, .vsub 0 0x02,
  .vmul 0 0x03, .vfma 0 0x04, .vmax 0 0x05, .vmin 0 0x06, .vabs 0 0x07, .vneg 0 0x08, .vcmp 0 0x09, .vsel 0 0x0A, .vcpy 0 0x0B,
  .vexp2 0 0x10, .vexp 0 0x11, .vlog2 0 0x12, .vrcp 0 0x13, .vrsqrt 0 0x14, .vsqrt 0 0x15, .vtanh 0 0x16, .vsigm 0 0x17,
  .verf 0 0x18, .rsum 0 0x20, .rssq 0 0x21, .rmax 0 0x22, .rmin 0 0x23, .ramax 0 0x24, .rrowsum 0 0x28, .rrowssq 0 0x29,
  .rrowmax 0 0x2A, .sadd 0 0x40, .ssub 0 0x41, .smul 0 0x42, .sand 0 0x43, .sor 0 0x44, .sxor 0 0x45, .sshl 0 0x46, .sshr 0 0x47] : List Instr).all (fun i => i.wellFormed) = true := by decide +kernel

/-- Commands that break none are accepted. -/
theorem test_well_formed_3 : ([
  .slih 0 0x48, .sfadd 0 0x49, .sfmul 0 0x4A, .sfma 0 0x4B, .scvtf 0 0x4C, .scvti 0 0x4D, .sld 0 0x4E, .sst 0 0x4F, .arr 0 0x60,
  .waita 0 0x61, .mreq 0 0x62, .waitm 0 0x63, .mwrite 0 0x64, .send 0 0x65, .waitin 0 0x66, .relin 0 0x67, .waitw 0 0x68,
  .relw 0 0x69, .ftqWait 0 0x6A, .ftqPop 0 0x6B, .br 0 0x70, .tileEnd 0 0x71, .stageEnd 0 0x72, .waitv 0 0x73, .seqNop 0 0x7F,
  .stackPartServe 0 0 0 0 [], .bankSlow 0 0 0 0, .bankTimeout 0 0 0 0, .dtBankTimeout 0 0 0 0 0, .accumArrive 0 0 0,
  .accumReoffer 0 0 0, .sheafComplete 0 0, .updateItemStart 0, .updatePhaseDone 0, .scaleReport 0 0 0, .workNarrowStart 0,
  .dieAutoErase 0 0, .scrubRead 0 0 [], .bankRefresh 0 0 0, .refreshForce 0 0 0, .stackTempSample 0 [], .stackThermExit 0,
  .dtPartServe 0 0 0 {}, .dtTempSample 0 0, .dtThermExit 0, .xlatMissFill 0 0 0, .cxlMemRead 0, .cxlMemWrite 0 [],
  .migrateInvalidate 0 0 0, .migrateCopyStart 0 0, .migrateRecordWrite 0 0, .migrateFreeSource 0 0, .migrateHoldTimeout 0 0,
  .migrateRetry 0 0, .trainingRecordRx 0 (List.replicate 16 0), .trainingStepTimeout 0, .trainingRestart 0, .laneFail 0 0,
  .portRetrainDone 0, .portRetrainWrite 0] : List Instr).all (fun i => i.wellFormed) = true := by decide +kernel

/-- Commands that break none are accepted. -/
theorem test_well_formed_4 : ([
  .cablePresent 0, .flitRx 0 { bytes := List.replicate 256 0 }, .flitTx 0, .fence { kind := 0x01 }, .unfence { kind := 0x02 },
  .stepAbort { kind := 3 }, .rejoin { kind := 4 }, .rejoinAck { kind := 5 }, .huskResend { kind := 0x06 }, .plan { kind := 7 },
  .reshardReady { kind := 8 }, .rdReq { kind := 0x10 }, .wrReq { kind := 0x11 }, .rdResp { kind := 0x20 }, .wrAck { kind := 0x21 },
  .err { kind := 0x22 }, .chunk { kind := 0x30 }, .cts { kind := 0x31 }, .barrier { kind := 0x32 }, .normStart 0, .stepCommit 0,
  .deltaExportStart 0, .deltaSegmentWrite 0, .deltaWaitTimeout 0, .deltaHeadWrite 0 0, .collTimeout 0 0, .rejoinWaitExpire 0,
  .rejoinAckTimeout 0, .cxlLinkUp 1 1 1 false false, .bar4Read 0 1 0 0 false, .bar4Write 0 0 0 false [0], .copyEngineStart 0,
  .copyComplete 0, .hostReadReturn 0 [0], .spdmRequest [0, 0, 0, 0], .cmdWatchdog 0 0, .watchdogReleaseTimeout 0 0,
  .progressTimeout 0 0, .tagTimeout 0 0 0, .tagProbeReturn 0 0 0, .tagProbeTimeout 0 0 0, .resetStepDone 0 false,
  .fenceDrainTimeout 0, .chnRcvResume 0 0, .lsLoad 0 0, .dieTempSample (List.replicate 40 0) [], .thermalShutdown 0, .vcoreDip 0 0,
  .vcoreResetLevel 0 0, .railResetOther 1 0, .counterClear 0 8 0 0, .registerWrite 0 8 {}, .pwrEnRise 0, .illegalOp 0 0xFF,
  .unknownOpcode (.mbx 0) {}, .laneLock 0, .trainingRecordSend 0, .railOutOfBand 0 false] : List Instr).all (fun i => i.wellFormed) = true := by decide +kernel
/-- The next state of a command has a property. -/
def after (i : Instr) (s : State) (p : State → Bool) : Bool := match exec i s with | .next t => p t | _ => false

/-! ### One step on small states. Each expected value is read from the rule named beside the test. -/

/-- The front of the queue is taken first. -/
theorem test_step_takes_the_front :
    (match step { up with pending := [.cxlFlr, .perstDeassert] } with | .next t => t.pending == [.perstDeassert] | _ => false) = true := by
  decide +kernel

/-- R401: GO makes the mailbox BUSY and counts a command. -/
theorem test_mailbox_go : after (.mbxGo 3 7) up (fun t => (mbxAt t 3).st == 1 && rd t (.mbx 3) Reg.MBX_CNT_CMDS == 1) = true := by
  decide +kernel

/-- R415, the worked example of its section: entry 300 of a ring of 256 stands on pass 1, so a current entry has PHASE 0. -/
theorem test_ring_entry_on_pass_one :
    let s := chanS { liveChan with rings := { liveChan.rings with cmdN := 8, cmdHead := 300, cmdTail := 304 } }
    after (.ringFetch 0 [{ w0 := 0x0D }]) s (fun t => (chanAt t 0).rings.cmdHead == 301) = true ∧
    after (.ringFetch 0 [{ w0 := 0x10D }]) s (fun t => (chanAt t 0).rings.cmdHead == 300 && (chanAt t 0).rings.reread) = true := by
  decide +kernel

/-- R414: a tail more than the ring past the head is discarded. -/
theorem test_tail_past_the_ring :
    after (.dbCmdTail 0 18) (chanS liveChan) (fun t =>
      (chanAt t 0).rings.cmdTail == 1 && bit (rd t (.chn 0) Reg.CHN_EVENT) Bit.CHN_EVENT_RING_OVERRUN) = true := by
  decide +kernel

/-- R407: the first channel has index 0, and its detach log takes one granule of the stacks. -/
theorem test_channel_zero_first :
    after (.chanCreate (.mbx 0) { w0 := 1, a1 := 10, a4 := 64 }) (onMbx 0 { w0 := 1, a1 := 10, a4 := 64 } up) (fun t =>
      (chanAt t 0).live && (chanAt t 0).used == (1, 0) && (objAt t (chanAt t 0).detachLog).valid) = true := by
  decide +kernel

/-- R234, R235: OBJ_CREATE above the quota changes nothing but the answer. -/
theorem test_quota_holds :
    let e : Entry := { w0 := 0x110, a0 := 0x20000, a2 := 4 }
    after (.objCreate (.ring 0) e) (ringS e { liveChan with quota := (1, 0) }) (fun t => t.objs.isEmpty && t.used.isEmpty) = true := by
  decide +kernel

/-- R105: SADD adds the sign-extended IMM, and wraps. -/
theorem test_sadd_wraps :
    let w : Word := 0xFFFFFFFF00106140
    after (.sadd 0 w) (tillS { aTiller w with ctxA := { sregs := (List.replicate 32 0).set 3 1 } }) (fun t =>
      sreg (tillerAt t 0) 1 == 0 && (tillerAt t 0).ctxA.pc == 1) = true := by
  decide +kernel

/-- R105: BR with its condition false goes on, and with it true goes to PC + IMM. -/
theorem test_branch :
    after (.br 0 0x300000070) (tillS (aTiller 0x300000070)) (fun t => (tillerAt t 0).ctxA.pc == 3) = true ∧
    after (.br 0 0x301000070) (tillS (aTiller 0x301000070)) (fun t => (tillerAt t 0).ctxA.pc == 1) = true := by
  decide +kernel

/-- R115: an instruction goes to the vector queue with the registers of its issue. -/
theorem test_vector_queue :
    after (.vadd 0 0x100308004001) (tillS (aTiller 0x100308004001)) (fun t => (tillerAt t 0).vq.length == 1) = true := by
  decide +kernel

/-- R128: a reserved bit of a vector word is cause 1 of Table 4.9. -/
theorem test_vector_reserved_bit : vectorFault (aTiller 0) 0x80100308004001 = some 1 := by decide +kernel

/-- R37: WAITIN of a port whose producer has ended returns all-ones. -/
theorem test_waitin_after_end :
    let u := { aTiller 0x166 with act := { aCfg 0x166 with
      graph := { edges := [{ srcStage := 255, dstStage := 1, fmt := 1, memObj := 1 }] }, ends := [(0, 255, 255)] } }
    after (.waitin 0 0x166) (tillS u) (fun t => sreg (tillerAt t 0) 1 == 0xFFFFFFFFFFFFFFFF) = true := by
  decide +kernel

/-- R179: MREQ of a descriptor that passes queues one request of the object. -/
theorem test_mreq_queues :
    after (.mreq 0 0x62) (tillS { aTiller 0x62 with ts := [(0, 1), (2, 2)] }) (fun t =>
      (tillerAt t 0).reqs.map (fun q => (q.kind, q.obj, q.fmt, q.sent)) == [(0, 1, 1, false)]) = true := by
  decide +kernel

/-- R325: a cable starts training at the lane lock; with lanes 4–7 good the port has those four. -/
theorem test_lanes_of_a_port : lanesOf 0xFF = 0xFF ∧ lanesOf 0xF7 = 0xF0 ∧ lanesOf 0x2F = 0x0F ∧ lanesOf 0x7E = 0 := by decide

/-- R486: a 32-bit counter one below all-ones stops at all-ones. -/
theorem test_counter_saturates :
    let a := blkBase (.chn 0) + Reg.CHN_CNT_STALE_RETRY
    let s := cntAdd (.chn 0) Reg.CHN_CNT_STALE_RETRY 5 { up with regs := [(a, 0xFFFFFFFFFFFFFFFE)] }
    rd s (.chn 0) Reg.CHN_CNT_STALE_RETRY = 0xFFFFFFFFFFFFFFFF := by
  decide +kernel

/-- R10: a 1 written to an event bit clears it and no other. -/
theorem test_write_one_to_clear :
    let a := blkBase .abl + Reg.ABL_EVENT
    after (.registerWrite a 8 { w := 2 }) { up with regs := [(a, 3)] } (fun t => rd t .abl Reg.ABL_EVENT == 1) = true := by
  decide +kernel

/-- R477: of 40 sensors the hottest counts. -/
theorem test_hottest_sensor :
    after (.dieTempSample (List.replicate 39 50 ++ [97]) []) up (fun t => t.power.tjMax == 97) = true := by decide +kernel

/-- R391: a module that is detached stays so when the link goes down. -/
theorem test_link_down_when_down : after .cxlLinkDown { up with cxl := {} } (fun t => t.cxl.attach == 2) = true := by decide +kernel

/-- R500: with a good image the ROM's chain ends, and the cold start goes on to step 7 of Table 13.7. -/
theorem test_cold_start_goes_on : after (.bootChain false false false false) State.reset (fun t =>
    (domainAt t 0x7F).seq.map (·.step) == some 7 && t.boot.activeSt == 1) = true := by
  decide +kernel

/-! ### Worked examples of the spec, and published check values -/

/-- The worked example of spec/00_scope.md: tiller 109 lies in field F3 and quad Q30. -/
theorem test_tiller_109 : tillerField 109 = 3 ∧ tillerQuad 109 = 30 := by decide

/-- The worked example after R140: 0.3 narrowed to E4M3. -/
theorem test_stochastic_example :
    (narrowStoch .e4m3 (ofF32 0x3E99999A) 0x99999F).bits = 0x2A ∧ (narrowStoch .e4m3 (ofF32 0x3E99999A) 0x9999A0).bits = 0x29 ∧
    (narrowNear .e4m3 (ofF32 0x3E99999A)).bits = 0x2A := by
  decide +kernel

/-- Table 5.5: one MXFP4 block has scale byte 123 and these elements. -/
theorem test_table_5_5 :
    let r := narrowBlock .mxe2m1 none 0 [0x3E99999A, 0x3DCCCCCD, 0xBE4CCCCD, 0x3CA3D70A, 0x3C23D70A]
    r.1 = 123 ∧ r.2.map (·.bits) = [6, 3, 13, 1, 0] ∧ widen .mxe2m1 6 123 = 0x3E800000 := by
  decide +kernel

/-- R141: a NaN among the values gives 0xFF, and zeros give 127. -/
theorem test_scale_bytes : scaleByte 0x7FC00000 .e4m3 = 255 ∧ scaleByte 0 .e4m3 = 127 := by decide +kernel

/-- The block of the worked example after R261. -/
def deltaBlock : List Byte := [3, 0, 1, 0, 0, 0, 0, 2, 0, 0, 0, 0, 0, 0, 0, 0].flatMap (fun x => [x, 0])

/-- Its three encodings, and the header and length of the block that the compressor makes. -/
theorem test_husk_example :
    huskEncode 32 (huskPlanes deltaBlock 1) = [0, 3, 0x42, 0, 1, 0x48, 0, 2, 0x50] ∧
    huskEncode 34 (huskPlanes deltaBlock 2) = [2, 3, 0, 1, 0x43, 0, 2, 0x57] ∧
    huskEncode 36 (huskPlanes deltaBlock 4) = [1, 3, 1, 0x50, 0, 2, 0x4B] ∧
    (huskCompress deltaBlock 9).1 = 2 ∧ leValue ((huskCompress deltaBlock 9).2.take 8) = 0x70000201A ∧
    (huskCompress deltaBlock 9).2.length = 23 := by
  decide +kernel

/-- It expands to itself, and with its last token 0x4F it fails under SIZE_OVER. -/
theorem test_husk_corrupted :
    huskExpand (huskCompress deltaBlock 9).2 32 9 none = (deltaBlock, 0) ∧
    (huskExpand ((huskCompress deltaBlock 9).2.take 22 ++ [0x4F]) 32 9 none).2 = 1 := by
  decide +kernel

/-- The worked example after R93: the QKV layer keeps normal form. -/
theorem test_form_example :
    formOf { kind := 1, rowGroups := 8, colGroups := 1, tillers := List.range 8, fmtIn := 2, fmtW := 4, fmtOut := 2, rows := 4096,
             cols := 4608, depth := 4608, tsIn := 1024, tsW := 1024, tsOut := 1024 } = 1 := by
  decide +kernel

/-- The worked example after R301: 18,432 quads give an item of 5 granules. -/
theorem test_update_granules : updGranules 18432 = 5 := by decide

/-- The check value of CRC-32C: the CRC of "123456789" is 0xE3069283. -/
theorem test_crc32c : crc32c [0x31, 0x32, 0x33, 0x34, 0x35, 0x36, 0x37, 0x38, 0x39] = 0xE3069283 := by decide +kernel

/-- FIPS 180-4: SHA-256 of "abc". -/
theorem test_sha256 : beValue (sha256 [0x61, 0x62, 0x63]) =
    0xBA7816BF8F01CFEA414140DE5DAE2223B00361A396177A9CB410FF61F20015AD := by decide +kernel

/-- FIPS 197, C.3: AES-256 of the block 00112233…FF. -/
theorem test_aes256 :
    aesEncrypt (aesKeys ((List.range 32).map (fun i => BitVec.ofNat 8 i))) ((List.range 16).map (17 * ·)) =
      [0x8E, 0xA2, 0xB7, 0xCA, 0x51, 0x67, 0x45, 0xBF, 0xEA, 0xFC, 0x49, 0x90, 0x4B, 0x49, 0x60, 0x89] := by
  decide +kernel

/-! ### States and operands that meet the hypotheses of each statement, clause by clause -/

/-- The hypotheses of StepTakesTheFront can be met. -/
theorem test_hypotheses_StepTakesTheFront :
  (∃ (s : State) (c : Instr) (rest : List Instr), (s.pending = c :: rest)) :=
   ⟨{ pending := [.cxlFlr] }, .cxlFlr, [], by decide +kernel⟩

/-- The hypotheses of IdleStepIsOneMicrosecond can be met. -/
theorem test_hypotheses_IdleStepIsOneMicrosecond :
  (∃ (s : State), (s.pending = [])) :=
   ⟨up, by decide +kernel⟩

/-- The hypotheses of CommandsKeepTheirFrame can be met. -/
theorem test_hypotheses_CommandsKeepTheirFrame :
  (∃ (i : Instr) (s : State) (t : State), (exec i s = .next t)) :=
   ⟨.cxlFlr, { up with cxl := {} }, _, (by rfl)⟩

/-- The hypotheses of FusesNeverGoBack can be met. -/
theorem test_hypotheses_FusesNeverGoBack :
  (∃ (s : State) (t : State), (step s = .next t)) :=
   ⟨up, _, (by rfl)⟩

/-- The hypotheses of CountersStopAtAllOnes can be met. -/
theorem test_hypotheses_CountersStopAtAllOnes :
  (∃ (b : Blk) (off : Nat) (n : Nat) (r : RegDef) (s : State), (regDef b off = some r) ∧ (r.cnt ≠ 0) ∧ (0 < n)) :=
   ⟨.mbx 0, Reg.MBX_CNT_CMDS, 1, { off := Reg.MBX_CNT_CMDS, cnt := 64, satOff := 0x210, satBit := 0, evOff := 0x58, evBit := 1 },
     up, by decide +kernel, by decide +kernel, by decide +kernel⟩

/-- The hypotheses of EventsInterruptOnce can be met. -/
theorem test_hypotheses_EventsInterruptOnce :
  (∃ (b : Blk) (ev : Nat) (n : Nat) (s : State), (n < 64)) ∧
  (∃ (b : Blk) (ev n : Nat) (s : State) (c : Nat), n < 64 ∧ b = .chn c ∧ bit (rd s b ev) n = false ∧ bit (rd s b (ev + 8)) n =
    true) :=
  ⟨⟨.abl, Reg.ABL_EVENT, 63, up, by decide +kernel⟩,
   ⟨.chn 0, Reg.CHN_EVENT, 0, { chanS liveChan with regs := [(blkBase (.chn 0) + Reg.CHN_EVENT + 8, 1)] }, 0, by decide +kernel,
     rfl, by decide +kernel, by decide +kernel⟩⟩

/-- The hypotheses of FailedChecksOnlyAnswer can be met. -/
theorem test_hypotheses_FailedChecksOnlyAnswer :
  (∃ (i : Instr) (op : Nat) (src : CmdSrc) (e : Entry) (s : State), (hostOp i = some (op, src, e))) ∧
  (∃ (i : Instr) (op : Nat) (src : CmdSrc) (e : Entry) (s : State) (st : Nat), hostOp i = some (op, src, e) ∧ cmdReady s src e =
    true ∧ e.opcode = op ∧ cmdCheck s (cmdOf s src e) = some st) :=
  ⟨⟨.torusSet (.mbx 0) { w0 := 0x10A }, 0x0A, .mbx 0, { w0 := 0x10A }, up, by decide +kernel⟩,
   ⟨.torusSet (.mbx 1) { w0 := 10 }, 10, .mbx 1, { w0 := 10 }, onMbx 1 { w0 := 10 } up, ST_NOT_PRIVILEGED, rfl,
     by decide +kernel, by decide +kernel, by decide +kernel⟩⟩

/-- The hypotheses of MailboxesAndDoorbellsTakeCommands can be met. -/
theorem test_hypotheses_MailboxesAndDoorbellsTakeCommands :
  (∃ (m : Nat) (w : Word) (s : State), (m < 64) ∧ (s.boot.stage = 3) ∧ ((mbxAt s m).st ≠ 1)) ∧
  (∃ (m : Nat) (w : Word) (s : State), (m < 64) ∧ (s.boot.stage = 3) ∧ ((mbxAt s m).st = 1)) ∧
  (∃ (m : Nat) (k : Nat) (r : CplRec) (s : State), (m < 64) ∧ ((mbxAt s m).fin.find? (fun p => decide ((p.1 + 2 ^ 32 - rdField s
    (.mbx m) Reg.MBX_RES_HEAD 31 0) % 2 ^ 32 < 64)) = some (k, r)) ∧ (r.opcode ≠ 0x02)) ∧
  (∃ (c : Nat) (w : Word) (s : State), (c < 4096) ∧ ((chanAt s c).live = true) ∧ ((chanAt s c).rings.set = true) ∧ ((bits w 31 0
    + 2 ^ 32 - (chanAt s c).rings.cmdHead % 2 ^ 32) % 2 ^ 32 ≤ 2 ^ (chanAt s c).rings.cmdN)) ∧
  (∃ (c : Nat) (w : Word) (s : State), (c < 4096) ∧ ((chanAt s c).live = true) ∧ ((chanAt s c).rings.set = true) ∧ (2 ^ (chanAt s
    c).rings.cmdN < (bits w 31 0 + 2 ^ 32 - (chanAt s c).rings.cmdHead % 2 ^ 32) % 2 ^ 32)) ∧
  (∃ (c : Nat) (w : Word) (s : State) (a : List (Nat × Nat)) (b : List (Nat × Nat)) (p : Nat), (c < 4096) ∧ ((chanAt s c).live =
    true) ∧ ((chanAt s c).rings.holds = a ++ (bits w 11 0, p) :: b) ∧ ((∀ h ∈ a, h.1 ≠ bits w 11 0))) ∧
  (∃ (c : Nat) (w : Word) (s : State), (c < 4096) ∧ ((chanAt s c).live = true) ∧ ((∀ h ∈ (chanAt s c).rings.holds, h.1 ≠ bits w
    11 0))) ∧
  (∃ (c : Nat) (w : Word) (s : State), (c < 4096) ∧ ((chanAt s c).live = true)) :=
  ⟨⟨63, 0, up, by decide +kernel, by decide +kernel, by decide +kernel⟩,
   ⟨0, 0, onMbx 0 {} up, by decide +kernel, by decide +kernel, by decide +kernel⟩,
   ⟨0, 63, {}, { up with mbxs := [(0, { fin := [(64, {}), (63, {})] })] }, by decide +kernel, by decide +kernel,
     by decide +kernel⟩,
   ⟨0, 17, chanS liveChan, by decide +kernel, by decide +kernel, by decide +kernel, by decide +kernel⟩,
   ⟨0, 18, chanS liveChan, by decide +kernel, by decide +kernel, by decide +kernel, by decide +kernel⟩,
   ⟨0, 2, chanS { liveChan with rings := { liveChan.rings with holds := [(1, 0), (2, 5)] } }, [(1, 0)], [], 5, by decide +kernel,
     by decide +kernel, by decide +kernel, by decide +kernel⟩,
   ⟨0, 3, chanS { liveChan with rings := { liveChan.rings with holds := [(1, 0), (2, 5)] } }, by decide +kernel,
     by decide +kernel, by decide +kernel⟩,
   ⟨0, 0, chanS liveChan, by decide +kernel, by decide +kernel⟩⟩

/-- The hypotheses of RingEntriesAreFetchedInOrder can be met. -/
theorem test_hypotheses_RingEntriesAreFetchedInOrder :
  (∃ (c : Nat) (es : List Entry) (e : Entry) (s : State), (c < 4096) ∧ (mayFetch s c = true) ∧ ((chanAt s c).rings.reread =
    false) ∧ ((chanAt s c).rcv.st = 0) ∧ (ringEntries s c es = [e]) ∧ ((chanAt s c).rings.cmdHead < (chanAt s c).rings.cmdTail) ∧
    (e.phase = ((chanAt s c).rings.cmdHead / 2 ^ (chanAt s c).rings.cmdN % 2 == 0))) ∧
  (∃ (c : Nat) (es : List Entry) (e : Entry) (s : State), (c < 4096) ∧ (mayFetch s c = true) ∧ ((chanAt s c).rings.reread =
    false) ∧ (ringEntries s c es = [e]) ∧ ((chanAt s c).rings.cmdHead < (chanAt s c).rings.cmdTail) ∧ (e.phase = !((chanAt s
    c).rings.cmdHead / 2 ^ (chanAt s c).rings.cmdN % 2 == 0))) ∧
  (∃ (c : Nat) (e : Entry) (f : Entry) (s : State), (c < 4096) ∧ (mayFetch s c = true) ∧ ((chanAt s c).rings.reread = true) ∧
    (ringEntries s c [e] = [f]) ∧ (f.phase = !((chanAt s c).rings.cmdHead / 2 ^ (chanAt s c).rings.cmdN % 2 == 0)) ∧ ((chanAt s
    c).rings.stale + 1 < 64)) ∧
  (∃ (c : Nat) (w : Word) (s : State) (d : Nat), (c < 4096) ∧ ((chanAt s c).live = true) ∧ ((chanAt s c).rcv.st = 1) ∧ (d = (bits
    w 31 0 + 2 ^ 32 - (chanAt s c).rings.cmdHead % 2 ^ 32) % 2 ^ 32) ∧ (d = 0 ∨ 2 ^ 31 ≤ d)) ∧
  (∃ (c : Nat) (w : Word) (s : State) (d : Nat), (c < 4096) ∧ ((chanAt s c).live = true) ∧ ((chanAt s c).rcv.st = 1) ∧ (d = (bits
    w 31 0 + 2 ^ 32 - (chanAt s c).rings.cmdHead % 2 ^ 32) % 2 ^ 32) ∧ (0 < d) ∧ (d < 2 ^ 31)) :=
  ⟨⟨0, [{ w0 := 0x10D }], _, chanS { liveChan with rings := { liveChan.rings with cmdHead := 0 } }, by decide +kernel,
     by decide +kernel, by decide +kernel, by decide +kernel, (by rfl), by decide +kernel, by decide +kernel⟩,
   ⟨0, [{ w0 := 0x0D }], _, chanS { liveChan with rings := { liveChan.rings with cmdHead := 0 } }, by decide +kernel,
     by decide +kernel, by decide +kernel, (by rfl), by decide +kernel, by decide +kernel⟩,
   ⟨0, { w0 := 0x0D }, _, chanS { liveChan with rings := { liveChan.rings with cmdHead := 0, reread := true, stale := 62 } },
     by decide +kernel, by decide +kernel, by decide +kernel, (by rfl), by decide +kernel, by decide +kernel⟩,
   ⟨0, 0x80000001, chanS { liveChan with rcv := { st := 1 } }, _, by decide +kernel, by decide +kernel, by decide +kernel, rfl,
     by decide +kernel⟩,
   ⟨0, 2, chanS { liveChan with rcv := { st := 1 } }, _, by decide +kernel, by decide +kernel, by decide +kernel, rfl,
     by decide +kernel, by decide +kernel⟩⟩

/-- The hypotheses of RecordsReachTheirRing can be met. -/
theorem test_hypotheses_RecordsReachTheirRing :
  (∃ (c : Nat) (o : CplOwed) (rest : List CplOwed) (s : State), (c < 4096) ∧ ((chanAt s c).live = true) ∧ ((chanAt s c).rings.set
    = true) ∧ ((chanAt s c).attached = true) ∧ ((chanAt s c).rings.cplDev = false) ∧ (hostOpen s = true) ∧ ((chanAt s
    c).rings.owed = o :: rest) ∧ (o.pos = none) ∧ (((chanAt s c).rings.cplTail + 2 ^ 32 - (chanAt s c).rings.cplHead) % 2 ^ 32 <
    2 ^ (chanAt s c).rings.cplN)) ∧
  (∃ (c : Nat) (o : CplOwed) (rest : List CplOwed) (s : State), (c < 4096) ∧ ((chanAt s c).live = true) ∧ ((chanAt s c).rings.set
    = true) ∧ ((chanAt s c).attached = false) ∧ ((chanAt s c).logged < (chanAt s c).logRecs) ∧ ((chanAt s c).rings.owed = o ::
    rest) ∧ (o.pos = none)) ∧
  (∃ (c : Nat) (s : State), (c < 4096) ∧ ((chanAt s c).live = true) ∧ ((chanAt s c).rings.coalUs ≠ 0) ∧ ((chanAt s
    c).rings.unsignalled ≠ 0) ∧ ((chanAt s c).rings.irqEn = true)) :=
  ⟨⟨0, _, _, chanS { liveChan with rings := { liveChan.rings with owed := [{}], cplTail := 15 } }, by decide +kernel,
     by decide +kernel, by decide +kernel, by decide +kernel, by decide +kernel, by decide +kernel, rfl, by decide +kernel,
     by decide +kernel⟩,
   ⟨0, _, _, chanS { liveChan with rings := { liveChan.rings with owed := [{}] }, attached := false, logged := 63 },
     by decide +kernel, by decide +kernel, by decide +kernel, by decide +kernel, by decide +kernel, rfl, by decide +kernel⟩,
   ⟨0, chanS { liveChan with rings := { liveChan.rings with coalUs := 1, unsignalled := 1, irqEn := true } }, by decide +kernel,
     by decide +kernel, by decide +kernel, by decide +kernel, by decide +kernel⟩⟩

/-- The hypotheses of ChannelsLiveAndDie can be met. -/
theorem test_hypotheses_ChannelsLiveAndDie :
  (∃ (src : CmdSrc) (e : Entry) (s : State) (c : Nat) (oi : Nat) (da : Nat) (s1 : State), (Taken 0x01 src e s) ∧ (64 ≤ bits e.a4
    16 0) ∧ (bits e.a4 16 0 ≤ 65536) ∧ (freeChanIndex (begun src e s) = some c) ∧ (grantConflict (begun src e s) c (maskTillers
    e.a2 e.a3) = false) ∧ (createObj (setChan (resetBlock (drawFree (begun src e s)).2 (.chn c) 0x1000) c
    { gen := (chanAt (begun src e s) c).gen % 0xFFFFF + 1, live := true, det := bit e.a4 17, grant := maskTillers e.a2 e.a3, quota := (bits e.a1 31 0, bits e.a1 63 32), logRecs := bits e.a4 16 0, token := Config.freeWord (begun src e s).freeCtr, trn := { seed := e.a0 } })
    c { size := (bits e.a4 16 0 * 64 + 65535) / 65536 * 65536, dataBytes := bits e.a4 16 0 * 64 } = .ok (oi, da, s1))) ∧
  (∃ (src : CmdSrc) (e : Entry) (s : State) (c : Nat) (k : Chan), (Taken 0x03 src e s) ∧ (c = chOf s src e) ∧ (k = chanAt (begun
    src e s) c)) ∧
  (∃ (m : Nat) (e : Entry) (s : State), (Taken 0x02 (.mbx m) e s) ∧ (mbxFull s m = false)) ∧
  (∃ (src : CmdSrc) (e : Entry) (s : State), (Taken 0x04 src e s) ∧ ((chanAt (begun src e s) (chOf s src e)).fenced = true)) ∧
  (∃ (src : CmdSrc) (e : Entry) (s : State) (c : Nat), (Taken 0x04 src e s) ∧ (c = chOf s src e) ∧ ((chanAt (begun src e s)
    c).live = true) ∧ ((chanAt (begun src e s) c).fenced = false)) ∧
  (∃ (src : CmdSrc) (e : Entry) (s : State), (Taken 0x05 src e s)) ∧
  (∃ (m : Nat) (e : Entry) (s : State) (k : Chan), (Taken 0x06 (.mbx m) e s) ∧ (k = chanAt s (e.handle % 4096)) ∧ (k.lockUs ≤
    s.us) ∧ (e.a0 = k.token) ∧ (bit e.a1 0 = true) ∧ (ringOk s (e.handle % 4096) false e.a2.toNat e.a3 = true) ∧ (ringOk s
    (e.handle % 4096) true e.a4.toNat e.a5 = true)) ∧
  (∃ (m : Nat) (e : Entry) (s : State), (Taken 0x06 (.mbx m) e s) ∧ ((chanAt s (e.handle % 4096)).lockUs ≤ s.us) ∧ (e.a0 ≠
    (chanAt s (e.handle % 4096)).token)) :=
  ⟨⟨.mbx 0, { w0 := 1, a1 := 10, a4 := 64 }, onMbx 0 { w0 := 1, a1 := 10, a4 := 64 } up, 0, _, _, _, by decide +kernel,
     by decide +kernel, by decide +kernel, by decide +kernel, by decide +kernel, eq_ok3 (0, 0, up) (by decide +kernel)⟩,
   ⟨.mbx 0, { w0 := 3 }, onMbx 0 { w0 := 3 } (chanS (liveChan)), _, _, by decide +kernel, rfl, rfl⟩,
   ⟨0, { w0 := 2 }, onMbx 0 { w0 := 2 } (chanS (liveChan)), by decide +kernel, by decide +kernel⟩,
   ⟨.mbx 0, { w0 := 4 }, onMbx 0 { w0 := 4 } (chanS ({ liveChan with fenced := true })), by decide +kernel, by decide +kernel⟩,
   ⟨.mbx 0, { w0 := 4 }, onMbx 0 { w0 := 4 } (chanS (liveChan)), _, by decide +kernel, rfl, by decide +kernel, by decide +kernel⟩,
   ⟨.mbx 0, { w0 := 5 }, onMbx 0 { w0 := 5 } (chanS (liveChan)), by decide +kernel⟩,
   ⟨0, { w0 := 6, a1 := 1, a2 := 0x10000, a3 := 6, a4 := 0x400000, a5 := 16 }, onMbx 0
     { w0 := 6, a1 := 1, a2 := 0x10000, a3 := 6, a4 := 0x400000, a5 := 16 } (chanS
     ({ liveChan with windows := [(0, { rd := true, wr := true, len := 2 ^ 32 })] })), _, by decide +kernel, rfl,
     by decide +kernel, (by decide +kernel), by decide +kernel, by decide +kernel, by decide +kernel⟩,
   ⟨1, { w0 := 6, a0 := 1, a1 := 1 }, onMbx 1 { w0 := 6, a0 := 1, a1 := 1 } (chanS (liveChan)), by decide +kernel,
     by decide +kernel, by decide +kernel⟩⟩

/-- The hypotheses of ChannelSettingsAreWritten can be met. -/
theorem test_hypotheses_ChannelSettingsAreWritten :
  (∃ (src : CmdSrc) (e : Entry) (s : State) (c : Nat), (Taken 0x07 src e s) ∧ (c = chOf s src e) ∧ ((chanAt (begun src e s)
    c).rings.cmds = []) ∧ (ringOk (begun src e s) c false e.a0.toNat e.a1 = true) ∧ (ringOk (begun src e s) c true e.a2.toNat
    e.a3 = true)) ∧
  (∃ (src : CmdSrc) (e : Entry) (s : State) (c : Nat), (Taken 0x07 src e s) ∧ (c = chOf s src e) ∧ ((chanAt (begun src e s)
    c).rings.cmds ≠ [])) ∧
  (∃ (src : CmdSrc) (e : Entry) (s : State), (Taken 0x08 src e s) ∧ (bit e.a0 4 = true ∨ bit e.a0 5 = true) ∧ (e.a1.toNat % 4096
    = 0) ∧ (e.a2.toNat % 4096 = 0)) ∧
  (∃ (src : CmdSrc) (e : Entry) (s : State), (Taken 0x08 src e s) ∧ (bit e.a0 4 = false) ∧ (bit e.a0 5 = false)) ∧
  (∃ (src : CmdSrc) (e : Entry) (s : State) (k : Chan), (Taken 0x09 src e s) ∧ (k = chanAt (begun src e s) (chOf s src e))) ∧
  (∃ (src : CmdSrc) (e : Entry) (s : State), (Taken 0x0C src e s) ∧ (((chanAt (begun src e s) (chOf s src e)).rings.holds.filter
    (fun h => h.1 == bits e.a0 11 0)).length < 65535)) ∧
  (∃ (src : CmdSrc) (e : Entry) (s : State), (Taken 0x0C src e s) ∧ (65535 ≤ ((chanAt (begun src e s) (chOf s src
    e)).rings.holds.filter (fun h => h.1 == bits e.a0 11 0)).length)) ∧
  (∃ (src : CmdSrc) (e : Entry) (s : State), (Taken 0x0D src e s)) ∧
  (∃ (src : CmdSrc) (e : Entry) (s : State), (cmdReady s src e = true) ∧ (cmdSpec e.opcode = none)) :=
  ⟨⟨.mbx 0, { w0 := 7, a0 := 0x10000, a1 := 6, a2 := 0x400000, a3 := 16 }, onMbx 0
     { w0 := 7, a0 := 0x10000, a1 := 6, a2 := 0x400000, a3 := 16 } (chanS
     ({ liveChan with windows := [(0, { rd := true, wr := true, len := 2 ^ 32 })] })), _, by decide +kernel, rfl,
     by decide +kernel, by decide +kernel, by decide +kernel⟩,
   ⟨.mbx 0, { w0 := 7, a0 := 0x10000, a1 := 6, a2 := 0x400000, a3 := 16 }, onMbx 0
     { w0 := 7, a0 := 0x10000, a1 := 6, a2 := 0x400000, a3 := 16 } (chanS
     ({ liveChan with rings := { liveChan.rings with cmds := [{}] } })), _, by decide +kernel, rfl, by decide +kernel⟩,
   ⟨.mbx 0, { w0 := 8, a0 := 0x3F, a1 := 0x1000, a2 := 0x1000 }, onMbx 0 { w0 := 8, a0 := 0x3F, a1 := 0x1000, a2 := 0x1000 }
     (chanS (liveChan)), by decide +kernel, by decide +kernel, by decide +kernel, by decide +kernel⟩,
   ⟨.mbx 0, { w0 := 8, a0 := 15 }, onMbx 0 { w0 := 8, a0 := 15 } (chanS (liveChan)), by decide +kernel, by decide +kernel,
     by decide +kernel⟩,
   ⟨.mbx 1, { w0 := 9 }, onMbx 1 { w0 := 9 } (chanS (liveChan)), _, by decide +kernel, rfl⟩,
   ⟨.ring 0, { w0 := 0x10C, a0 := 0xFFF }, ringS { w0 := 0x10C, a0 := 0xFFF } (liveChan), by decide +kernel, by decide +kernel⟩,
   ⟨.ring 0, { w0 := 0x10C, a0 := 0xFFF }, ringS { w0 := 0x10C, a0 := 0xFFF }
     ({ liveChan with rings := { liveChan.rings with holds := List.replicate 65535 (0xFFF, 0) } }), by decide +kernel, all_kept
     65535⟩,
   ⟨.ring 0, { w0 := 0x10D }, ringS { w0 := 0x10D } (liveChan), by decide +kernel⟩,
   ⟨.ring 0, { w0 := 0x10E }, ringS { w0 := 0x10E } (liveChan), by decide +kernel, by decide +kernel⟩⟩

/-- The hypotheses of ObjectsArePlacedSharedAndFreed can be met. -/
theorem test_hypotheses_ObjectsArePlacedSharedAndFreed :
  (∃ (src : CmdSrc) (e : Entry) (s : State), (Taken 0x10 src e s) ∧ (e.a0.toNat % 65536 = 0) ∧ (0 < e.a0.toNat) ∧ (e.a0.toNat ≤ 2
    ^ 36) ∧ (e.a1.toNat ≤ e.a0.toNat) ∧ (bits e.a2 1 0 < 2) ∧ (bits e.a2 3 2 = 1 ∨ bits e.a2 3 2 = 2) ∧ ((bit e.a2 8 = false →
    bits e.a2 16 9 = 0)) ∧ ((bit e.a2 8 = true → (smGet (fun _ => ({} : KeySlot)) s.boot.keys (bits e.a2 16 9)).filled = true ∧
    (smGet (fun _ => ({} : KeySlot)) s.boot.keys (bits e.a2 16 9)).owner = handleOf (begun src e s) (chOf s src e)))) ∧
  (∃ (src : CmdSrc) (e : Entry) (s : State) (b : State) (oi : Nat), (Taken 0x11 src e s) ∧ (b = begun src e s) ∧ (oi = bits e.a0
    16 0) ∧ (ownsObj (chOf s src e) (objAt b oi) = true) ∧ (isArray b oi = false) ∧ (objBusy b oi = false) ∧ ((∀ p ∈
    b.cxl.regions, p.2.valid = true → p.2.obj ≠ oi))) ∧
  (∃ (src : CmdSrc) (e : Entry) (s : State) (b : State) (oi : Nat), (Taken 0x12 src e s) ∧ (b = begun src e s) ∧ (oi = bits e.a0
    16 0) ∧ (ownsObj (chOf s src e) (objAt b oi) = true) ∧ (isArray b oi = false) ∧ (((objAt b oi).shared = true → bits e.a0 18
    17 = 1)) ∧ (modeOk (bits e.a0 18 17) (objAt b oi).replTier = true) ∧ ((bits e.a0 18 17 = 2 ∨ (objAt b oi).dirtyCount = 0)) ∧
    ((∀ p ∈ b.cxl.regions, p.2.valid = true → p.2.obj = oi → p.2.wr = false))) ∧
  (∃ (src : CmdSrc) (e : Entry) (s : State) (b : State) (oi : Nat) (g : Nat), (Taken 0x13 src e s) ∧ (b = begun src e s) ∧ (oi =
    bits e.a0 16 0) ∧ (g = bits e.a0 26 17) ∧ (ownsObj (chOf s src e) (objAt b oi) = true) ∧ ((∀ h, (shareAt b g).holder = some h
    → h = chOf s src e)) ∧ (bit e.a0 27 = false) ∧ ((objAt b oi).mode = 1) ∧ ((objAt b oi).shared = false)) ∧
  (∃ (src : CmdSrc) (e : Entry) (s : State) (b : State) (oi : Nat) (g : Nat) (h : Nat), (Taken 0x13 src e s) ∧ (b = begun src e
    s) ∧ (oi = bits e.a0 16 0) ∧ (g = bits e.a0 26 17) ∧ (ownsObj (chOf s src e) (objAt b oi) = true) ∧ ((∀ h, (shareAt b
    g).holder = some h → h = chOf s src e)) ∧ (bit e.a0 27 = true) ∧ ((objAt b oi).shared = true) ∧ ((objAt b oi).group = g) ∧ (h
    = bits e.a1 31 0 % 4096) ∧ ((chanAt b h).live = true) ∧ (handleOf b h = bits e.a1 31 0) ∧ ((chanAt b h).destroying = false)) ∧
  (∃ (src : CmdSrc) (e : Entry) (s : State) (b : State) (oi : Nat) (g : Nat), (Taken 0x14 src e s) ∧ (b = begun src e s) ∧ (oi =
    bits e.a0 16 0) ∧ (g = bits e.a0 26 17) ∧ (ownsObj (chOf s src e) (objAt b oi) = true) ∧ ((objAt b oi).shared = true) ∧
    ((objAt b oi).group = g) ∧ ((∀ h, (shareAt b g).holder = some h → h = chOf s src e)) ∧ (bit e.a0 27 = false)) ∧
  (∃ (src : CmdSrc) (e : Entry) (s : State) (b : State) (o : Obj), (Taken 0x15 src e s) ∧ (b = begun src e s) ∧ (o = objAt b
    (bits e.a0 16 0)) ∧ (mayRead b (chOf s src e) o = true) ∧ (bit e.a0 17 = false)) ∧
  (∃ (src : CmdSrc) (e : Entry) (s : State) (b : State) (o : Obj), (Taken 0x15 src e s) ∧ (b = begun src e s) ∧ (o = objAt b
    (bits e.a0 16 0)) ∧ (mayRead b (chOf s src e) o = true) ∧ (bit e.a0 17 = true) ∧ (e.a1.toNat < objGranules o)) :=
  ⟨⟨.ring 0, { w0 := 0x110, a0 := 0x10000, a1 := 0x10000, a2 := 4 }, objS { w0 := 0x110, a0 := 0x10000, a1 := 0x10000, a2 := 4 }
     (liveChan) (anObj), by decide +kernel, by decide +kernel, by decide +kernel, by decide +kernel, by decide +kernel,
     by decide +kernel, by decide +kernel, by decide +kernel, by decide +kernel⟩,
   ⟨.ring 0, { w0 := 0x111, a0 := 1 }, objS { w0 := 0x111, a0 := 1 } (liveChan) (anObj), _, _, by decide +kernel, rfl, rfl,
     by decide +kernel, by decide +kernel, by decide +kernel, by decide +kernel⟩,
   ⟨.ring 0, { w0 := 0x112, a0 := 0x20001 }, objS { w0 := 0x112, a0 := 0x20001 } (liveChan) (anObj), _, _, by decide +kernel,
     rfl, rfl, by decide +kernel, by decide +kernel, by decide +kernel, by decide +kernel, by decide +kernel, by decide +kernel⟩,
   ⟨.ring 0, { w0 := 0x113, a0 := 0x7FE0001 }, objS { w0 := 0x113, a0 := 0x7FE0001 } (liveChan) ({ anObj with mode := 1 }), _, _,
     _, by decide +kernel, rfl, rfl, rfl, by decide +kernel, opt_all (by decide +kernel), by decide +kernel, by decide +kernel,
     by decide +kernel⟩,
   ⟨.ring 0, { w0 := 0x113, a0 := 0x8020001 }, objS { w0 := 0x113, a0 := 0x8020001 } (liveChan)
     ({ anObj with mode := 1, shared := true, group := 1 }), _, _, _, _, by decide +kernel, rfl, rfl, rfl, by decide +kernel,
     opt_all (by decide +kernel), by decide +kernel, by decide +kernel, by decide +kernel, rfl, by decide +kernel,
     by decide +kernel, by decide +kernel⟩,
   ⟨.ring 0, { w0 := 0x114, a0 := 0x20001 }, objS { w0 := 0x114, a0 := 0x20001 } (liveChan)
     ({ anObj with mode := 1, shared := true, group := 1 }), _, _, _, by decide +kernel, rfl, rfl, rfl, by decide +kernel,
     by decide +kernel, by decide +kernel, opt_all (by decide +kernel), by decide +kernel⟩,
   ⟨.ring 0, { w0 := 0x115, a0 := 1 }, objS { w0 := 0x115, a0 := 1 } (liveChan) (anObj), _, _, by decide +kernel, rfl, rfl,
     by decide +kernel, by decide +kernel⟩,
   ⟨.ring 0, { w0 := 0x115, a0 := 0x20001 }, objS { w0 := 0x115, a0 := 0x20001 } (liveChan) (anObj), _, _, by decide +kernel,
     rfl, rfl, by decide +kernel, by decide +kernel, by decide +kernel⟩⟩

/-- The hypotheses of MovesOfGranulesBegin can be met. -/
theorem test_hypotheses_MovesOfGranulesBegin :
  (∃ (src : CmdSrc) (e : Entry) (s : State) (b : State) (s1 : State) (oi : Nat) (o : Obj) (gs : List Nat) (fs : List Nat), (Taken
    0x16 src e s) ∧ (b = begun src e s) ∧ (oi = bits e.a0 16 0) ∧ (o = objAt b oi) ∧ (ownsObj (chOf s src e) o = true) ∧ (bits
    e.a0 18 17 = 1 ∨ bits e.a0 18 17 = 2) ∧ (rangeOk o e.a1.toNat e.a2.toNat = true) ∧ (isArray b oi = false) ∧ (modeOk o.mode
    (bits e.a0 18 17) = true) ∧ (gs = migGranules b o 2 e.a1.toNat e.a2.toNat) ∧ (quotaOk b (chOf s src e) (bits e.a0 18 17)
    gs.length = true) ∧ (OnlyMove b (chOf s src e) (cmdOf s src e).pos oi) ∧ (allocFrames b (bits e.a0 18 17) (bits e.a0 21 20)
    (bit e.a0 19) gs.length = some (fs, s1))) ∧
  (∃ (src : CmdSrc) (e : Entry) (s : State) (b : State) (oi : Nat) (o : Obj), (Taken 0x17 src e s) ∧ (b = begun src e s) ∧ (oi =
    bits e.a0 16 0) ∧ (o = objAt b oi) ∧ (ownsObj (chOf s src e) o = true) ∧ (quotaOk b (chOf s src e) 1 0 = true) ∧ (OnlyMove b
    (chOf s src e) (cmdOf s src e).pos oi)) ∧
  (∃ (src : CmdSrc) (e : Entry) (s : State) (b : State) (oi : Nat) (o : Obj), (Taken 0x18 src e s) ∧ (b = begun src e s) ∧ (oi =
    bits e.a0 16 0) ∧ (o = objAt b oi) ∧ (ownsObj (chOf s src e) o = true) ∧ (rangeOk o e.a1.toNat e.a2.toNat = true) ∧ (quotaOk
    b (chOf s src e) 1 0 = true) ∧ (OnlyMove b (chOf s src e) (cmdOf s src e).pos oi)) ∧
  (∃ (src : CmdSrc) (e : Entry) (s : State) (b : State) (s1 : State) (oi : Nat) (k : Nat) (o : Obj) (gs : List Nat) (fs : List
    Nat), (Taken 0x19 src e s) ∧ (b = begun src e s) ∧ (oi = bits e.a0 16 0) ∧ (o = objAt b oi) ∧ (ownsObj (chOf s src e) o =
    true) ∧ (bits e.a0 19 18 = 1 ∨ bits e.a0 19 18 = 2) ∧ (k = (if bit e.a0 17 then 1 else 0)) ∧ (rangeOk o e.a1.toNat e.a2.toNat
    = true) ∧ (isArray b oi = false) ∧ ((k = 1 → modeOk o.mode (bits e.a0 19 18) = true)) ∧ (gs = migGranules b o k e.a1.toNat
    e.a2.toNat) ∧ (quotaOk b (chOf s src e) (bits e.a0 19 18) gs.length = true) ∧ (OnlyMove b (chOf s src e) (cmdOf s src e).pos
    oi) ∧ (allocFrames b (bits e.a0 19 18) (bits e.a0 22 21) (bit e.a0 20) gs.length = some (fs, s1))) ∧
  (∃ (src : CmdSrc) (e : Entry) (s : State) (b : State) (oi : Nat) (o : Obj) (x : MigCmd), (Taken 0x18 src e s) ∧ (b = begun src
    e s) ∧ (oi = bits e.a0 16 0) ∧ (o = objAt b oi) ∧ (ownsObj (chOf s src e) o = true) ∧ (rangeOk o e.a1.toNat e.a2.toNat =
    true) ∧ (x ∈ b.migs) ∧ (x.obj = oi) ∧ ((∀ m ∈ b.migs, isMig (chOf s src e) (cmdOf s src e).pos m = false)) ∧ ((∀ m ∈ b.migs,
    m.started = true ∨ migFirst b m = false)) ∧ (8 ≤ migInflight b) ∧ ((∀ m ∈ b.migs, m.todo = [] → m.moves = [] → migFirst b m =
    false))) ∧
  (∃ (i : Instr) (op : Nat) (src : CmdSrc) (e : Entry) (s : State), ((i, op) ∈ [(.objFree src e, 0x11), (.objReplicate src e,
    0x16), (.objReplicaDrop src e, 0x17), (.objFlush src e, 0x18), (.objMigrate src e, 0x19)]) ∧ (Taken op src e s) ∧ (ownsObj
    (chOf s src e) (objAt (begun src e s) (bits e.a0 16 0)) = false)) :=
  ⟨⟨.ring 0, { w0 := 0x116, a0 := 0x40001, a2 := 1 }, objS { w0 := 0x116, a0 := 0x40001, a2 := 1 } (liveChan)
     ({ anObj with mode := 1 }), _, _, _, _, _, _, by decide +kernel, rfl, rfl, rfl, by decide +kernel, by decide +kernel,
     by decide +kernel, by decide +kernel, by decide +kernel, rfl, by decide +kernel, by unfold OnlyMove; decide +kernel, eq_some
     (by decide +kernel)⟩,
   ⟨.ring 0, { w0 := 0x117, a0 := 1 }, objS { w0 := 0x117, a0 := 1 } (liveChan) (anObj), _, _, _, by decide +kernel, rfl, rfl,
     rfl, by decide +kernel, by decide +kernel, by unfold OnlyMove; decide +kernel⟩,
   ⟨.ring 0, { w0 := 0x118, a0 := 1, a2 := 1 }, objS { w0 := 0x118, a0 := 1, a2 := 1 } (liveChan) (anObj), _, _, _,
     by decide +kernel, rfl, rfl, rfl, by decide +kernel, by decide +kernel, by decide +kernel,
     by unfold OnlyMove; decide +kernel⟩,
   ⟨.ring 0, { w0 := 0x119, a0 := 0x80001, a2 := 1 }, objS { w0 := 0x119, a0 := 0x80001, a2 := 1 } (liveChan) (anObj), _, _, _,
     _, _, _, _, by decide +kernel, rfl, rfl, rfl, by decide +kernel, by decide +kernel, rfl, by decide +kernel,
     by decide +kernel, by decide +kernel, rfl, by decide +kernel, by unfold OnlyMove; decide +kernel, eq_some
     (by decide +kernel)⟩,
   ⟨.ring 0, { w0 := 0x118, a0 := 1, a2 := 1 },
     { objS { w0 := 0x118, a0 := 1, a2 := 1 } (liveChan) (anObj) with migs := [{ ch := 1, obj := 1, started := true, moves := List.replicate 8 {} }] },
     _, _, _, { ch := 1, obj := 1, started := true, moves := List.replicate 8 {} }, by decide +kernel, rfl, rfl, rfl,
     by decide +kernel, by decide +kernel, by decide +kernel, by decide +kernel, by decide +kernel, by decide +kernel,
     by decide +kernel, by decide +kernel⟩,
   ⟨_, _, .ring 0, { w0 := 0x111, a0 := 2 }, objS { w0 := 0x111, a0 := 2 } (liveChan) (anObj), .head _, by decide +kernel,
     by decide +kernel⟩⟩

/-- The hypotheses of GranulesMoveStepByStep can be met. -/
theorem test_hypotheses_GranulesMoveStepByStep :
  (∃ (o : Nat) (g : Nat) (w : Nat) (m : MigCmd) (v : Move) (s : State), (moveOf s o g = some (m, v)) ∧ (w ∈ v.waiting) ∧ (sentTo
    s w o g (v.phase == 0) = false)) ∧
  (∃ (o : Nat) (g : Nat) (m : MigCmd) (v : Move) (s : State), (moveOf s o g = some (m, v)) ∧ (v.phase = 0) ∧ (v.waiting = [])) ∧
  (∃ (o : Nat) (g : Nat) (m : MigCmd) (v : Move) (s : State), (moveOf s o g = some (m, v)) ∧ (v.phase = 0) ∧ (v.waiting = []) ∧
    ((∀ h, engineOf s h = [])) ∧ ((∀ h, pendingParts s h = [])) ∧ ((∀ i, (stackAt s i).slow = [])) ∧ ((∀ d, (deepAt s d).slow =
    []))) ∧
  (∃ (o : Nat) (g : Nat) (m : MigCmd) (v : Move) (s : State), (moveOf s o g = some (m, v)) ∧ (v.phase = 1)) ∧
  (∃ (o : Nat) (g : Nat) (m : MigCmd) (v : Move) (s : State), (moveOf s o g = some (m, v)) ∧ (v.phase = 2) ∧ (v.waiting = []) ∧
    (v.kind = 0)) ∧
  (∃ (o : Nat) (g : Nat) (m : MigCmd) (v : Move) (s : State), (moveOf s o g = some (m, v)) ∧ (v.phase < 2)) ∧
  (∃ (o : Nat) (g : Nat) (f : Nat) (m : MigCmd) (v : Move) (s : State) (u : State), (moveOf s o g = some (m, v)) ∧ (v.phase = 3)
    ∧ (migInflight s < 8) ∧ (v.kind ≤ 2) ∧ (quotaOk s m.ch m.targetTier 1 = true) ∧ (allocFrames s m.targetTier m.targetField
    m.targetLocal 1 = some ([f], u))) ∧
  (∃ (t : Nat) (o : Nat) (g : Nat) (s : State), (t < 148) ∧ ((objAt s o).valid = true) ∧ (g < objGranules (objAt s o)) ∧
    (homeDown s (recordStack ((objAt s o).mapIndex + g)) = false) ∧ ((objAt s o).mapIndex + g ∉ smGet (fun _ => []) s.xlat t)) ∧
  (∃ (h : Nat) (da : Nat) (oi : Nat) (o : Obj) (s : State), (cxlMemOpen s = true) ∧ (hdmAddr s (h / 64 * 64) = some da) ∧
    (memRefuse s da false = none) ∧ (objOfDa s da = some (oi, o)) ∧ (GoNow s 19 none 141
    [{ obj := oi, off := da - o.baseDa, n := 64 }])) ∧
  (∃ (h : Nat) (da : Nat) (oi : Nat) (o : Obj) (data : List (Nat × Byte)) (s : State), (cxlMemOpen s = true) ∧ ((∀ b ∈ data, b.1
    < 64)) ∧ (hdmAddr s (h / 64 * 64) = some da) ∧ (memRefuse s da true = none) ∧ (objOfDa s da = some (oi, o)) ∧ ((granAt s o
    ((da - o.baseDa) / 65536)).busy = true) ∧ (s.cxl.held.length < 64)) ∧
  (∃ (h : Nat) (da : Nat) (oi : Nat) (o : Obj) (data : List (Nat × Byte)) (s : State), (cxlMemOpen s = true) ∧ ((∀ b ∈ data, b.1
    < 64)) ∧ (hdmAddr s (h / 64 * 64) = some da) ∧ (memRefuse s da true = none) ∧ (objOfDa s da = some (oi, o)) ∧ ((granAt s o
    ((da - o.baseDa) / 65536)).busy = false) ∧ (s.cxl.held.length < 64) ∧ (data.length = 64) ∧ (GoNow s 19 none 141
    [{ write := true, obj := oi, off := da - o.baseDa, n := 64 }])) :=
  ⟨⟨1, 0, 128, _, _, { objS {} liveChan anObj with migs := [{ obj := 1, moves := [{ obj := 1, waiting := [128] }] }] }, eq_some
     (by decide +kernel), by decide +kernel, by decide +kernel⟩,
   ⟨1, 0, _, _, { objS {} liveChan anObj with migs := [{ obj := 1, moves := [{ obj := 1 }] }] }, eq_some (by decide +kernel),
     by decide +kernel, by decide +kernel⟩,
   ⟨1, 0, _, _, { objS {} liveChan anObj with migs := [{ obj := 1, moves := [{ obj := 1 }] }] }, eq_some (by decide +kernel),
     by decide +kernel, by decide +kernel, (by intro h; unfold engineOf; split <;> rfl),
     (by intro h; unfold pendingParts poolOf; split <;> rfl), (by intro h; rfl), (by intro h; rfl)⟩,
   ⟨1, 0, _, _, { objS {} liveChan anObj with migs := [{ obj := 1, moves := [{ obj := 1, phase := 1 }] }] }, eq_some
     (by decide +kernel), by decide +kernel⟩,
   ⟨1, 0, _, _, { objS {} liveChan anObj with migs := [{ obj := 1, moves := [{ obj := 1, phase := 2 }] }] }, eq_some
     (by decide +kernel), by decide +kernel, by decide +kernel, by decide +kernel⟩,
   ⟨1, 0, _, _, { objS {} liveChan anObj with migs := [{ obj := 1, moves := [{ obj := 1, phase := 1 }] }] }, eq_some
     (by decide +kernel), by decide +kernel⟩,
   ⟨1, 0, 0, _, _, { objS {} liveChan anObj with migs := [{ obj := 1, moves := [{ obj := 1, phase := 3 }], targetTier := 2 }] },
     _, eq_some (by decide +kernel), by decide +kernel, by decide +kernel, by decide +kernel, by decide +kernel, eq_some2 ([],
     up) (by decide +kernel)⟩,
   ⟨147, 1, 0, objS {} liveChan anObj, by decide +kernel, by decide +kernel, by decide +kernel, by decide +kernel,
     by decide +kernel⟩,
   ⟨0x10FFFF, _, _, _, { objS {} liveChan anObj with cxl := { mode := 1, attach := 0, hdm := some (0x100000, 65536) } },
     by decide +kernel, eq_some (by decide +kernel), by decide +kernel, eq_some (by decide +kernel),
     by unfold GoNow; decide +kernel⟩,
   ⟨0x10FFFF, _, _, _, [(63, 1)],
     { objS {} liveChan anObj with grans := [(0, { homeTier := 1, busy := true })], cxl := { mode := 1, attach := 0, hdm := some (0x100000, 65536) } },
     by decide +kernel, by decide +kernel, eq_some (by decide +kernel), by decide +kernel, eq_some (by decide +kernel),
     by decide +kernel, by decide +kernel⟩,
   ⟨0x100000, _, _, _, (List.range 64).map (fun i => (i, 0)),
     { objS {} liveChan anObj with cxl := { mode := 1, attach := 0, hdm := some (0x100000, 65536) } }, by decide +kernel,
     by decide +kernel, eq_some (by decide +kernel), by decide +kernel, eq_some (by decide +kernel), by decide +kernel,
     by decide +kernel, by decide +kernel, by unfold GoNow; decide +kernel⟩⟩

/-- The hypotheses of CopiesAndRegionsAreServed can be met. -/
theorem test_hypotheses_CopiesAndRegionsAreServed :
  (∃ (i : Instr) (op : Nat) (base : Nat) (d2h : Bool) (src : CmdSrc) (e : Entry) (s : State) (n : Nat), ((i, op, d2h, base) ∈
    [(.copyH2d src e, 0x21, false, 0), (.copyD2h src e, 0x22, true, 6)]) ∧ (Taken op src e s) ∧ (copyOpen s (chOf s src e) =
    true) ∧ (n = copyEngine s (bits e.a1 19 17) base) ∧ ((s.cxl.engines.getD n {}).queue.length < 256) ∧ (copyCheck (begun src e
    s) (copyOf (cmdOf s src e) d2h) (bits e.a1 19 17) d2h = none)) ∧
  (∃ (n : Nat) (c : Nat) (y : Copy) (s : State), (n < 12) ∧ ((s.cxl.engines.getD n {}).inflight.length < 4) ∧ (hostOpen s = true)
    ∧ (nextCopyChan s (s.cxl.engines.getD n {}) = some c) ∧ ((s.cxl.engines.getD n {}).queue.find? (fun y => y.ch == c) = some
    y)) ∧
  (∃ (n : Nat) (p : Nat) (y : Copy) (rest : List Copy) (s : State), (n < 12) ∧ ((s.cxl.engines.getD n {}).inflight = y :: rest) ∧
    (y.ended = true) ∧ (y.reads = 0) ∧ (y.writes = 0) ∧ (y.pos = some p) ∧ (y.husk = false)) ∧
  (∃ (src : CmdSrc) (e : Entry) (s : State) (b : State) (r : Nat) (o : Obj), (Taken 0x23 src e s) ∧ (b = begun src e s) ∧ (o =
    objAt b (bits e.a0 16 0)) ∧ (e.a1.toNat % 4096 = 0) ∧ (bits e.a2 31 0 % 4096 = 0) ∧ (0 < bits e.a2 31 0) ∧ (bits e.a2 31 0 ≤
    2 ^ 30) ∧ (lowestGap 1 1024 0 (b.cxl.regions.map (fun p => (p.1, 1))) = some r) ∧ (ownsObj (chOf s src e) o = true) ∧
    (e.a1.toNat + bits e.a2 31 0 ≤ o.size) ∧ ((bit e.a0 18 = true → mayWrite (chOf s src e) o = true)) ∧ (o.enc = false)) ∧
  (∃ (src : CmdSrc) (e : Entry) (s : State) (g : Region), (Taken 0x24 src e s) ∧ (g = smGet (fun _ => ({} : Region))
    s.cxl.regions (bits e.a0 9 0)) ∧ (g.valid = true) ∧ (g.ch = chOf s src e) ∧ ((∀ h ∈ s.cxl.held, h.req.isSome = true → h.obj ≠
    g.obj))) ∧
  (∃ (id : Nat) (data : List Byte) (r : HostRead) (s : State), (s.cxl.reads.find? (fun r => r.id == id && r.len == data.length) =
    some r) ∧ (r.who = 1)) ∧
  (∃ (id : Nat) (w : HostWrite) (s : State), (s.cxl.writes.find? (fun w => w.id == id) = some w) ∧ (w.who = 0) ∧ (s.boot.stage ≠
    4) ∧ (s.cxl.attach = 0)) :=
  ⟨⟨_, _, _, _, .ring 0, { w0 := 0x121, a1 := 0xA0001, a3 := 1 }, objS { w0 := 0x121, a1 := 0xA0001, a3 := 1 }
     ({ liveChan with windows := [(0, { rd := true, wr := true, len := 2 ^ 32 })] }) (anObj), _, .head _, by decide +kernel,
     by decide +kernel, rfl, by decide +kernel, by decide +kernel⟩,
   ⟨11, 0, _,
     { chanS liveChan with cxl := { mode := 1, attach := 0, engines := List.replicate 12 { queue := [{ ch := 0, len := 1 }] } } },
     by decide +kernel, by decide +kernel, by decide +kernel, by decide +kernel, eq_some (by decide +kernel)⟩,
   ⟨0, _, _, _,
     { chanS liveChan with cxl := { mode := 1, attach := 0, engines := List.replicate 12 { inflight := [{ pos := some 3, ended := true }] } } },
     by decide +kernel, rfl, by decide +kernel, by decide +kernel, by decide +kernel, eq_some (by decide +kernel),
     by decide +kernel⟩,
   ⟨.ring 0, { w0 := 0x123, a0 := 1, a2 := 0x1000 }, objS { w0 := 0x123, a0 := 1, a2 := 0x1000 } (liveChan) (anObj), _, _, _,
     by decide +kernel, rfl, rfl, by decide +kernel, by decide +kernel, by decide +kernel, by decide +kernel, eq_some
     (by decide +kernel), by decide +kernel, by decide +kernel, by decide +kernel, by decide +kernel⟩,
   ⟨.ring 0, { w0 := 0x124, a0 := 3 },
     { objS { w0 := 0x124, a0 := 3 } (liveChan) (anObj) with cxl := { mode := 1, attach := 0, regions := [(3, { valid := true })] } },
     _, by decide +kernel, rfl, by decide +kernel, by decide +kernel, by decide +kernel⟩,
   ⟨4, [1, 2], _, { chanS liveChan with cxl := { mode := 1, attach := 0, reads := [{ id := 4, who := 1, len := 2 }] } }, eq_some
     (by decide +kernel), by decide +kernel⟩,
   ⟨4, _, { chanS liveChan with cxl := { mode := 1, attach := 0, writes := [{ id := 4 }] } }, (by rfl), by decide +kernel,
     by decide +kernel, by decide +kernel⟩⟩

/-- The hypotheses of LayersAreLoadedAndSwapped can be met. -/
theorem test_hypotheses_LayersAreLoadedAndSwapped :
  (∃ (src : CmdSrc) (e : Entry) (late : List Nat) (s : State) (b : State) (bs : List Byte) (ps : List (List Word)), (Taken 0x20
    src e s) ∧ (b = begun src e s) ∧ (readGraph s (chOf s src e) (bits e.a0 16 0) e.a1.toNat = (bs, ST_OK)) ∧ (graphOk bs = true)
    ∧ (graphWaits s (chOf s src e) (graphOf bs) = false) ∧ (graphRefusal b (chOf s src e) (stepAt b (chOf s src e) (cmdOf s src
    e).pos) (graphOf bs) = none) ∧ (readPrograms b (chOf s src e) (graphOf bs).stages = .ok ps)) ∧
  (∃ (src : CmdSrc) (e : Entry) (late : List Nat) (s : State) (bs : List Byte), (Taken 0x20 src e s) ∧ (readGraph s (chOf s src
    e) (bits e.a0 16 0) e.a1.toNat = (bs, ST_OK)) ∧ (graphOk bs = false)) ∧
  (∃ (c : Nat) (s : State), (c < 4096) ∧ (layerDrained s c = true)) ∧
  (∃ (c : Nat) (s : State), (c < 4096) ∧ ((chanAt s c).goHeld = true) ∧ (deferRoom (chanAt s c) = true)) ∧
  (∃ (t : Nat) (s : State), (t < 128) ∧ ((tillerAt s t).shadow.valid = true) ∧ ((tillerAt s t).shadow.complete = false) ∧
    (quadFenced s t = false) ∧ ((tillerAt s t).goWait = false)) ∧
  (∃ (t : Nat) (c : Nat) (s : State), (t < 128) ∧ ((tillerAt s t).shadow.valid = true) ∧ ((tillerAt s t).shadow.complete = false)
    ∧ (quadFenced s t = false) ∧ ((tillerAt s t).goWait = true) ∧ (c = (tillerAt s t).shadow.chan)) ∧
  (∃ (c : Nat) (w : List Nat) (rest : List (List Nat)) (s : State), (c < 4096) ∧ ((chanAt s c).waves = w :: rest) ∧
    (s.power.admitPaused = false)) ∧
  (∃ (c : Nat) (s : State), (c < 4096) ∧ (s.power.admitPaused = true)) ∧
  (∃ (t : Nat) (s : State) (u : Tiller), (t < 128) ∧ (u = tillerAt s t) ∧ (arrayIdle u = true) ∧ (u.vq = []) ∧ (u.send = none) ∧
    (quadFenced s t = false) ∧ (u.switching = true)) :=
  ⟨⟨.ring 0, { w0 := 0x120, a0 := 1 }, [], (objStore {} 1 0 aGraph (objS { w0 := 0x120, a0 := 1 } liveChan anObj)), _, _, _,
     by decide +kernel, rfl, eq_tup2 (by decide +kernel), by decide +kernel, by decide +kernel, by decide +kernel, eq_ok []
     (by decide +kernel)⟩,
   ⟨.ring 0, { w0 := 0x120, a0 := 1 }, [], (objStore {} 1 0x20 [64] (objS { w0 := 0x120, a0 := 1 } liveChan anObj)), _,
     by decide +kernel, eq_tup2 (by decide +kernel), by decide +kernel⟩,
   ⟨0, chanS { liveChan with loading := [(0, 0)] }, by decide +kernel, by decide +kernel⟩,
   ⟨0, chanS { liveChan with goHeld := true }, by decide +kernel, by decide +kernel, by decide +kernel⟩,
   ⟨0, tillS { shadow := { valid := true } }, by decide +kernel, by decide +kernel, by decide +kernel, by decide +kernel,
     by decide +kernel⟩,
   ⟨0, _, tillS { shadow := { valid := true }, goWait := true }, by decide +kernel, by decide +kernel, by decide +kernel,
     by decide +kernel, by decide +kernel, rfl⟩,
   ⟨0, _, _, chanS { liveChan with waves := [[0]] }, by decide +kernel, rfl, by decide +kernel⟩,
   ⟨4095, { up with power := { admitPaused := true } }, by decide +kernel, by decide +kernel⟩,
   ⟨0, tillS { switching := true }, _, by decide +kernel, rfl, by decide +kernel, by decide +kernel, by decide +kernel,
     by decide +kernel, by decide +kernel⟩⟩

/-- The hypotheses of TilesTravel can be met. -/
theorem test_hypotheses_TilesTravel :
  (∃ (t : Nat) (a : Nat) (n : Nat) (w : Word) (b : Word) (s : State) (g : Cfg) (e : Edge) (es : List Edge), (Issues 0x65 regsAB t
    w s) ∧ (g = curCfg (tillerAt s t)) ∧ ((outEdges g).filter (fun e => e.srcPort == bits (iImm w) 1 0) = e :: es) ∧ ((∀ x ∈ e ::
    es, x.dstStage ≠ 255)) ∧ (a = bits (sreg (tillerAt s t) (iSA w)) 22 0) ∧ (b = sreg (tillerAt s t) (iSB w)) ∧ (n = tileSize
    e.fmt) ∧ (inRegions g.stage a n = true) ∧ (readHazard (tillerAt s t) [(a, a + n)] = false)) ∧
  (∃ (dst : Nat) (src : Nat) (port : Nat) (who : Nat) (i : Nat) (f : Flight) (q : Slot) (s : State), (dst < 128) ∧
    (s.flights.find? (isFlight 0 dst src port) = some f) ∧ (takerOf (tillerAt s dst) f.ch f.tag = some who) ∧ ((cfgBy (tillerAt s
    dst) who).inSlots.zipIdx.find? (fun p => p.1.st == 0 && p.1.port == port && p.1.producer == src && p.1.stage == f.stage) =
    some (q, i)) ∧ (quadFenced s dst = false) ∧ (writeHazard (tillerAt s dst) [(q.addr, q.addr + q.size)] = false)) ∧
  (∃ (dst : Nat) (src : Nat) (port : Nat) (who : Nat) (f : Flight) (s : State), (dst < 128) ∧ (s.flights.find? (isFlight 1 dst
    src port) = some f) ∧ ((∀ x ∈ s.flights, isFlight 0 dst src port x = true → x.stage ≠ f.stage)) ∧ (quadFenced s dst = false)
    ∧ (takerOf (tillerAt s dst) f.ch f.tag = some who)) ∧
  (∃ (dst : Nat) (src : Nat) (port : Nat) (who : Nat) (f : Flight) (s : State), (dst < 128) ∧ (s.flights.find? (isFlight 2 dst
    src port) = some f) ∧ (quadFenced s dst = false) ∧ (whoOf (tillerAt s dst) f.ch f.tag f.stage = some who) ∧ ((tillerAt s
    dst).send = none)) ∧
  (∃ (t : Nat) (w : Word) (s : State) (g : Cfg) (e : Edge), (Issues 0x66 regsDAB t w s) ∧ (g = curCfg (tillerAt s t)) ∧
    (NextInProgram (tillerAt s t)) ∧ ((inEdges g).find? (fun e => e.dstPort == bits (iImm w) 1 0) = some e) ∧ (((producersOf g
    (bits (iImm w) 1 0)).map (fun p => (p.1, p.2.srcStage))).all (producerReady g (bits (iImm w) 1 0)) = true) ∧ (lowestTile g
    (bits (iImm w) 1 0) = none)) ∧
  (∃ (t : Nat) (i : Nat) (w : Word) (s : State) (g : Cfg) (e : Edge) (q : Slot), (Issues 0x66 regsDAB t w s) ∧ (g = curCfg
    (tillerAt s t)) ∧ (NextInProgram (tillerAt s t)) ∧ ((inEdges g).find? (fun e => e.dstPort == bits (iImm w) 1 0) = some e) ∧
    (((producersOf g (bits (iImm w) 1 0)).map (fun p => (p.1, p.2.srcStage))).all (producerReady g (bits (iImm w) 1 0)) = true) ∧
    (lowestTile g (bits (iImm w) 1 0) = some (q, i)) ∧ (q.st ≠ 1) ∧ (markOf s g q.mb = none) ∧ (slotReq (tillerAt s t) (tillerAt
    s t).cur 4 i = none)) ∧
  (∃ (t : Nat) (i : Nat) (w : Word) (s : State) (g : Cfg) (q : Slot), (Issues 0x67 regsAB t w s) ∧ (g = curCfg (tillerAt s t)) ∧
    ((inEdges g).any (fun e => e.dstPort == bits (iImm w) 1 0) = true) ∧ (g.inSlots.zipIdx.find? (fun p => p.1.port == bits (iImm
    w) 1 0 && p.1.addr == bits (sreg (tillerAt s t) (iSA w)) 22 0 && decide (2 ≤ p.1.st)) = some (q, i)) ∧ (q.producer ≠ 255) ∧
    (slotReq (tillerAt s t) (tillerAt s t).cur 4 i = none)) ∧
  (∃ (t : Nat) (i : Nat) (w : Word) (s : State) (g : Cfg) (q : Slot), (Issues 0x68 regsDAB t w s) ∧ (g = curCfg (tillerAt s t)) ∧
    (NextInProgram (tillerAt s t)) ∧ (nextWeight g = some (q, i)) ∧ (q.st ≠ 1) ∧ (markOf s g q.mb = none) ∧ (slotReq (tillerAt s
    t) (tillerAt s t).cur 5 i = none)) ∧
  (∃ (t : Nat) (i : Nat) (w : Word) (s : State) (g : Cfg) (q : Slot), (Issues 0x69 regsAB t w s) ∧ (g = curCfg (tillerAt s t)) ∧
    (NextInProgram (tillerAt s t)) ∧ (slotReq (tillerAt s t) (tillerAt s t).cur 5 i = none) ∧ (g.wSlots.zipIdx.find? (fun p =>
    p.1.addr == bits (sreg (tillerAt s t) (iSA w)) 22 0 && (p.1.st == 2 || p.1.st == 3)) = some (q, i))) ∧
  (∃ (t : Nat) (who : Nat) (i : Nat) (n : Nat) (k : Nat) (j : Nat) (q : Slot) (f : Slot) (s : State), (t < 128) ∧ ((relaysOf s
    t).find? (relayOpen s t) = some (who, q, i, n, k, some (f, j)))) ∧
  (∃ (t : Nat) (who : Nat) (i : Nat) (n : Nat) (k : Nat) (q : Slot) (s : State), (t < 128) ∧ ((who, q, i, n, k, none) ∈ relaysOf
    s t)) :=
  ⟨⟨0, _, _, 0x65, _, tillS
     ({ aTiller 0x65 with act := { aCfg 0x65 with graph := { edges := [{ srcStage := 1, dstStage := 2, fmt := 1 }] } } }), _, _,
     _, by decide +kernel, rfl, rfl, by decide +kernel, rfl, rfl, rfl, by decide +kernel, by decide +kernel⟩,
   ⟨0, 1, 0, 0, 0, _, _,
     { tillS ({ aTiller 0 with act := { aCfg 0 with inSlots := [{ producer := 1, stage := 2, size := 16384 }] } }) with flights := [{ kind := 0, src := 1, stage := 2 }] },
     by decide +kernel, eq_some (by decide +kernel), by decide +kernel, eq_some (by decide +kernel), by decide +kernel,
     by decide +kernel⟩,
   ⟨0, 1, 0, 0, _, { tillS (aTiller 0) with flights := [{ kind := 1, src := 1, stage := 2 }] }, by decide +kernel, eq_some
     (by decide +kernel), by decide +kernel, by decide +kernel, by decide +kernel⟩,
   ⟨0, 1, 0, 0, _, { tillS (aTiller 0) with flights := [{ kind := 2, src := 1, stage := 1 }] }, by decide +kernel, eq_some
     (by decide +kernel), by decide +kernel, by decide +kernel, by decide +kernel⟩,
   ⟨0, 0x66, tillS
     ({ aTiller 0x66 with act := { aCfg 0x66 with graph := { edges := [{ srcStage := 255, dstStage := 1, fmt := 1, memObj := 1 }] }, ends := [(0, 255, 255)] } }),
     _, _, by decide +kernel, rfl, by decide +kernel, eq_some (by decide +kernel), by decide +kernel, by decide +kernel⟩,
   ⟨0, 0, 0x66, tillS
     ({ aTiller 0x66 with act := { aCfg 0x66 with graph := { edges := [{ srcStage := 255, dstStage := 1, fmt := 1, memObj := 1 }] }, inSlots := [{ producer := 255, stage := 255, st := 2 }] } }),
     _, _, { producer := 255, stage := 255, st := 2 }, by decide +kernel, rfl, by decide +kernel, eq_some (by decide +kernel),
     by decide +kernel, by decide +kernel, by decide +kernel, by decide +kernel, by decide +kernel⟩,
   ⟨0, 0, 0x67, tillS
     ({ aTiller 0x67 with act := { aCfg 0x67 with graph := { edges := [{ srcStage := 2, dstStage := 1, fmt := 1, memObj := 1 }] }, inSlots := [{ producer := 1, st := 3 }] } }),
     _, { producer := 1, st := 3 }, by decide +kernel, rfl, by decide +kernel, by decide +kernel, by decide +kernel,
     by decide +kernel⟩,
   ⟨0, 1, 0x68, tillS ({ aTiller 0x68 with act := { aCfg 0x68 with wSlots := [{}, { st := 2, addr := 0x4000 }] } }), _,
     { st := 2, addr := 0x4000 }, by decide +kernel, rfl, by decide +kernel, by decide +kernel, by decide +kernel,
     by decide +kernel, by decide +kernel⟩,
   ⟨0, 1, 0x6069, tillS
     ({ aTiller 0x6069 with act := { aCfg 0x6069 with wSlots := [{}, { st := 3, addr := 0x4000 }] }, ctxA := { sregs := (List.replicate 32 0).set 3 0x4000 } }),
     _, { st := 3, addr := 0x4000 }, by decide +kernel, rfl, by decide +kernel, by decide +kernel, by decide +kernel⟩,
   ⟨0, 0, 0, 1, 0, 0, { st := 2, addr := 0x4000 }, {},
     { tillS {} with tillers := [(0, { aTiller 0 with act := { aCfg 0 with graph := { chains := [{ stageId := 1, members := [0, 1] }] }, wSlots := [{ st := 2, addr := 0x4000 }] } }), (1, { aTiller 0 with act := { aCfg 0 with graph := { chains := [{ stageId := 1, members := [0, 1] }] }, wSlots := [{ st := 0 }] } })] },
     by decide +kernel, rfl⟩,
   ⟨0, 0, 0, 1, 0, { st := 2, addr := 0x4000 },
     { tillS {} with tillers := [(0, { aTiller 0 with act := { aCfg 0 with graph := { chains := [{ stageId := 1, members := [0, 1] }] }, wSlots := [{ st := 2, addr := 0x4000 }] } }), (1, { aTiller 0 with act := { aCfg 0 with graph := { chains := [{ stageId := 1, members := [0, 1] }] }, wSlots := [{ st := 2 }] } })] },
     by decide +kernel, List.mem_of_getElem? (i := 0) rfl⟩⟩

/-- The hypotheses of RequestsReachMemory can be met. -/
theorem test_hypotheses_RequestsReachMemory :
  (∃ (t : Nat) (a : Nat) (w : Word) (s : State) (v : State) (d : Desc), (Issues 0x62 regsAB t w s) ∧ (a = bits (sreg (tillerAt s
    t) (iSA w)) 22 0) ∧ (inRegions (curCfg (tillerAt s t)).stage a 32 = true) ∧ (readHazard (tillerAt s t) [(a, a + 32)] = false)
    ∧ (d = descOf (tsRead t a 32 s).1) ∧ (dCheck t d false (tsRead t a 32 s).2 = (none, v)) ∧ (queued (tillerAt s t) < 256) ∧
    (trackerUsed (tillerAt s t) < 512)) ∧
  (∃ (t : Nat) (a : Nat) (status : Nat) (w : Word) (s : State) (v : State) (d : Desc), (Issues 0x62 regsAB t w s) ∧ (a = bits
    (sreg (tillerAt s t) (iSA w)) 22 0) ∧ (inRegions (curCfg (tillerAt s t)).stage a 32 = true) ∧ (readHazard (tillerAt s t) [(a,
    a + 32)] = false) ∧ (d = descOf (tsRead t a 32 s).1) ∧ (dCheck t d false (tsRead t a 32 s).2 = (some status, v))) ∧
  (∃ (t : Nat) (a : Nat) (n : Nat) (w : Word) (s : State) (v : State) (d : Desc), (Issues 0x64 regsAB t w s) ∧ (a = bits (sreg
    (tillerAt s t) (iSA w)) 22 0) ∧ (inRegions (curCfg (tillerAt s t)).stage a 32 = true) ∧ (readHazard (tillerAt s t) [(a, a +
    32)] = false) ∧ (d = descOf (tsRead t a 32 s).1) ∧ (dCheck t d true (tsRead t a 32 s).2 = (none, v)) ∧ (queued (tillerAt s t)
    < 256) ∧ (n = tileSize (dFmt d)) ∧ (dScaleLand d = false) ∧ (readHazard (tillerAt s t) [(dDst d, dDst d + n)] = false)) ∧
  (∃ (t : Nat) (w : Word) (s : State) (q : MemReq), (Issues 0x63 regsAB t w s) ∧ (NextInProgram (tillerAt s t)) ∧ ((tillerAt s
    t).reqs.filter (fun q => q.kind == 0 && q.who == (tillerAt s t).cur && q.dst == bits (sreg (tillerAt s t) (iSA w)) 22 0) =
    [q]) ∧ (markOf s (curCfg (tillerAt s t)) q.mb = none) ∧ (q.landed = true) ∧ (q.stale = false) ∧ (q.poisoned = false)) ∧
  (∃ (t : Nat) (w : Word) (s : State), (Issues 0x63 regsAB t w s) ∧ ((∀ q ∈ (tillerAt s t).reqs, q.kind = 0 → q.who = (tillerAt s
    t).cur → q.dst ≠ bits (sreg (tillerAt s t) (iSA w)) 22 0))) ∧
  (∃ (t : Nat) (rid : Nat) (q : MemReq) (s : State), (t < 128) ∧ (nextToSend s t = some q) ∧ (q.rid = rid) ∧ (quadFenced s t =
    false) ∧ (reqWrites q = false)) ∧
  (∃ (t : Nat) (rid : Nat) (s : State), (t < 128) ∧ (s.notices.contains (t, rid) = true)) ∧
  (∃ (t : Nat) (rid : Nat) (n : Nat) (q : MemReq) (s : State), (t < 128) ∧ ((tillerAt s t).reqs.find? (fun q => q.rid == rid) =
    some q) ∧ (q.kind = 0) ∧ (tracked q = true) ∧ (q.sent = true) ∧ (q.landed = false) ∧ (q.parts.all answered = true) ∧ ((∀ p ∈
    q.parts, p.poison = false)) ∧ (landHazard (tillerAt s t) rid (reqRanges q) = false) ∧ (quadFenced s t = false) ∧ (n =
    tileSize q.fmt) ∧ (q.scaleDst = none)) ∧
  (∃ (t : Nat) (rid : Nat) (q : MemReq) (s : State), (t < 128) ∧ ((tillerAt s t).reqs.find? (fun q => q.rid == rid) = some q) ∧
    (reqWrites q = true) ∧ (q.sent = true) ∧ (q.landed = false) ∧ ((∀ p ∈ q.parts, p.st = 2 ∧ p.poison = false))) ∧
  (∃ (t : Nat) (rid : Nat) (q : MemReq) (p : Part) (s : State), (t < 128) ∧ ((tillerAt s t).reqs.find? (fun q => q.rid == rid) =
    some q) ∧ (reqWrites q = true) ∧ (q.sent = true) ∧ (q.landed = false) ∧ (q.parts.all answered = true) ∧ (q.parts.find?
    (·.poison) = some p)) ∧
  (∃ (t : Nat) (who : Nat) (port : Nat) (mb : Nat) (rb : Nat) (cb : Nat) (off : Nat) (oi : Nat) (base : Nat) (fmt : Nat) (idx :
    Nat) (m : Nat) (slot : Slot) (last : Bool) (s : State), (PrefetchReady t who port mb rb cb off oi base fmt slot idx s) ∧
    (markOf s (cfgBy (tillerAt s t) who) mb = some m)) ∧
  (∃ (t : Nat) (who : Nat) (port : Nat) (mb : Nat) (rb : Nat) (cb : Nat) (off : Nat) (oi : Nat) (base : Nat) (fmt : Nat) (idx :
    Nat) (slot : Slot) (last : Bool) (s : State) (g : Cfg), (PrefetchReady t who port mb rb cb off oi base fmt slot idx s) ∧ (g =
    cfgBy (tillerAt s t) who) ∧ (markOf s g mb = none)) :=
  ⟨⟨0, _, 0x62, tillS ({ aTiller 0x62 with ts := [(0, 1), (2, 2)] }), _, _, by decide +kernel, rfl, by decide +kernel,
     by decide +kernel, rfl, eq_fst (by decide +kernel), by decide +kernel, by decide +kernel⟩,
   ⟨0, _, ST_STAGE_FAULT, 0x62, tillS (aTiller 0x62), _, _, by decide +kernel, rfl, by decide +kernel, by decide +kernel, rfl,
     eq_fst (by decide +kernel)⟩,
   ⟨0, _, _, 0x64, tillS ({ aTiller 0x64 with ts := [(0, 1), (2, 2)] }), _, _, by decide +kernel, rfl, by decide +kernel,
     by decide +kernel, rfl, eq_fst (by decide +kernel), by decide +kernel, rfl, by decide +kernel, by decide +kernel⟩,
   ⟨0, 0x63, tillS ({ aTiller 0x63 with reqs := [{ rid := 5, ch := 0, obj := 1, fmt := 1, sent := true, landed := true }] }),
     { rid := 5, ch := 0, obj := 1, fmt := 1, sent := true, landed := true }, by decide +kernel, by decide +kernel,
     by decide +kernel, by decide +kernel, by decide +kernel, by decide +kernel, by decide +kernel⟩,
   ⟨0, 0x63, tillS (aTiller 0x63), by decide +kernel, by decide +kernel⟩,
   ⟨0, 5, { rid := 5, ch := 0, obj := 1, fmt := 1, kind := 0 },
     { tillS { aTiller 0 with reqs := [{ rid := 5, ch := 0, obj := 1, fmt := 1, kind := 0 }] } with notices := [(0, 5)] },
     by decide +kernel, by decide +kernel, by decide +kernel, by decide +kernel, by decide +kernel⟩,
   ⟨0, 5, { tillS { aTiller 0 with reqs := [{ rid := 5, ch := 0, obj := 1, fmt := 1, kind := 0 }] } with notices := [(0, 5)] },
     by decide +kernel, by decide +kernel⟩,
   ⟨0, 5, _, { rid := 5, ch := 0, obj := 1, fmt := 1, sent := true, parts := [{ st := 2 }] },
     { tillS { aTiller 0 with reqs := [{ rid := 5, ch := 0, obj := 1, fmt := 1, sent := true, parts := [{ st := 2 }] }] } with notices := [(0, 5)] },
     by decide +kernel, by decide +kernel, by decide +kernel, by decide +kernel, by decide +kernel, by decide +kernel,
     by decide +kernel, by decide +kernel, by decide +kernel, by decide +kernel, rfl, by decide +kernel⟩,
   ⟨0, 5, { rid := 5, ch := 0, obj := 1, fmt := 1, kind := 1, sent := true, parts := [{ st := 2 }] },
     { tillS { aTiller 0 with reqs := [{ rid := 5, ch := 0, obj := 1, fmt := 1, kind := 1, sent := true, parts := [{ st := 2 }] }] } with notices := [(0, 5)] },
     by decide +kernel, by decide +kernel, by decide +kernel, by decide +kernel, by decide +kernel, by decide +kernel⟩,
   ⟨0, 5, { rid := 5, ch := 0, obj := 1, fmt := 1, kind := 1, sent := true, parts := [{ st := 2, poison := true }] },
     { st := 2, poison := true },
     { tillS { aTiller 0 with reqs := [{ rid := 5, ch := 0, obj := 1, fmt := 1, kind := 1, sent := true, parts := [{ st := 2, poison := true }] }] } with notices := [(0, 5)] },
     by decide +kernel, by decide +kernel, by decide +kernel, by decide +kernel, by decide +kernel, by decide +kernel,
     by decide +kernel⟩,
   ⟨0, 0, 0, 1, 0, 0, 0, 1, 0, 1, 0, 0, { producer := 255 }, false,
     { tillS { aTiller 0 with act := { aCfg 0 with graph := { edges := [{ srcStage := 255, dstStage := 1, fmt := 1, memObj := 1 }] }, inSlots := [{ producer := 255 }], stage := { aStage with deps := [{ token := 3, mbAt := 1, valid := true }] }, loadPos := 9 } } with chans := [(0, { liveChan with rings := { liveChan.rings with holds := [(3, 0)] } })] },
     (by refine ⟨_, _, rfl, rfl, by decide, by decide, by decide, ?_, by decide +kernel, ?_, by decide +kernel, by decide +kernel, by decide +kernel, by decide +kernel, by decide +kernel, opt_all (by decide +kernel), by decide +kernel, by decide +kernel⟩; { rw [if_neg (by decide)]; exact ⟨_, eq_some (by decide +kernel), by decide +kernel, by decide +kernel, by decide +kernel⟩ }; { rw [if_pos rfl]; decide +kernel }),
     by decide +kernel⟩,
   ⟨0, 0, 0, 1, 0, 0, 0, 1, 0, 1, 0, { producer := 255 }, true, tillS
     { aTiller 0 with act := { aCfg 0 with graph := { edges := [{ srcStage := 255, dstStage := 1, fmt := 1, memObj := 1 }] }, inSlots := [{ producer := 255 }] } },
     _,
     (by refine ⟨_, _, rfl, rfl, by decide, by decide, by decide, ?_, by decide +kernel, ?_, by decide +kernel, by decide +kernel, by decide +kernel, by decide +kernel, by decide +kernel, opt_all (by decide +kernel), by decide +kernel, by decide +kernel⟩; { rw [if_neg (by decide)]; exact ⟨_, eq_some (by decide +kernel), by decide +kernel, by decide +kernel, by decide +kernel⟩ }; { rw [if_pos rfl]; decide +kernel }),
     rfl, by decide +kernel⟩⟩

/-- The hypotheses of TheArrayRunsItsCommands can be met. -/
theorem test_hypotheses_TheArrayRunsItsCommands :
  (∃ (t : Nat) (w : Word) (s : State) (c : ArrCmd) (rds : List (Nat × Nat)) (wrs : List (Nat × Nat)), (Issues 0x60 (fun w => [iSA
    w, 6, 7]) t w s) ∧ (NextInProgram (tillerAt s t)) ∧ ((tillerAt s t).cur = 1 ∨ (tillerAt s t).admitted = true) ∧ (c =
    { w := sreg (tillerAt s t) (iSA w), ctx := (tillerAt s t).cur, s6 := sreg (tillerAt s t) 6, s7 := sreg (tillerAt s t) 7, rid := (tillerAt s t).nextRid })
    ∧ (arrFaulty (tillerAt s t) c = false) ∧ ((tillerAt s t).arr.queue.length < 8) ∧ (rds = (if bits c.w 1 0 = 0 then passReads
    (ctxStage (tillerAt s t) c.ctx).1 (ctxStage (tillerAt s t) c.ctx).2 c false else [])) ∧ (wrs = (if bits c.w 1 0 = 0 then
    passWrites (ctxStage (tillerAt s t) c.ctx).2 c else [])) ∧ (readHazard (tillerAt s t) rds = false) ∧ ((∀ r ∈ wrs, meets r
    (vqWrites (tillerAt s t)) = false ∧ meets r (vqReads (tillerAt s t)) = false))) ∧
  (∃ (t : Nat) (w : Word) (s : State), (Issues 0x60 (fun w => [iSA w, 6, 7]) t w s) ∧ ((tillerAt s t).cur = 0) ∧ ((tillerAt s
    t).admitted = false)) ∧
  (∃ (t : Nat) (w : Word) (s : State), (Issues 0x60 (fun w => [iSA w, 6, 7]) t w s) ∧ ((tillerAt s t).cur = 1 ∨ (tillerAt s
    t).admitted = true) ∧ (arrFaulty (tillerAt s t)
    { w := sreg (tillerAt s t) (iSA w), ctx := (tillerAt s t).cur, s6 := sreg (tillerAt s t) 6, s7 := sreg (tillerAt s t) 7, rid := (tillerAt s t).nextRid }
    = true)) ∧
  (∃ (t : Nat) (w : Word) (s : State), (Issues 0x61 regsNone t w s) ∧ (NextInProgram (tillerAt s t)) ∧ ((tillerAt s t).arr.queue
    = []) ∧ ((tillerAt s t).arr.pass = none)) ∧
  (∃ (t : Nat) (c : ArrCmd) (r : List ArrCmd) (s : State) (d : StageDesc) (form : Nat), (t < 128) ∧ (quadFenced s t = false) ∧
    ((tillerAt s t).arr.pass = none) ∧ ((tillerAt s t).arr.queue = c :: r) ∧ (bits c.w 1 0 = 0) ∧ (bit c.w 4 = false) ∧ ((d,
    form) = ctxStage (tillerAt s t) c.ctx) ∧ (operandMissing (tillerAt s t) c (blockReads d form c false 0) = false) ∧ ((form = 1
    → bit c.w 3 = true → ftqFree (tillerAt s t) = true)) ∧ ((form = 2 → ∀ f ∈ (tillerAt s t).arr.flush, f.bank ≠ (tillerAt s
    t).arr.wsBank))) ∧
  (∃ (t : Nat) (i : Nat) (c : ArrCmd) (x : Stationary) (s : State) (d : StageDesc) (form : Nat), (t < 128) ∧ (quadFenced s t =
    false) ∧ ((tillerAt s t).arr.pass = some (c, i + 1)) ∧ ((tillerAt s t).arr.stat = some x) ∧ ((d, form) = ctxStage (tillerAt s
    t) c.ctx) ∧ (operandMissing (tillerAt s t) c (blockReads d form c true (i + 1)) = false) ∧ ((form = 1 → bit c.w 3 = true →
    ftqFree (tillerAt s t) = true)) ∧ ((form = 2 → ∀ f ∈ (tillerAt s t).arr.flush, f.bank ≠ (tillerAt s t).arr.wsBank))) ∧
  (∃ (t : Nat) (c : ArrCmd) (r : List ArrCmd) (s : State), (t < 128) ∧ (quadFenced s t = false) ∧ ((tillerAt s t).arr.pass =
    none) ∧ ((tillerAt s t).arr.queue = c :: r) ∧ (bits c.w 1 0 = 0) ∧ (bit c.w 4 = false) ∧ (operandMissing (tillerAt s t) c
    (blockReads (ctxStage (tillerAt s t) c.ctx).1 (ctxStage (tillerAt s t) c.ctx).2 c false 0) = true)) ∧
  (∃ (t : Nat) (c : ArrCmd) (r : List ArrCmd) (s : State), (t < 128) ∧ (quadFenced s t = false) ∧ ((tillerAt s t).arr.pass =
    none) ∧ ((tillerAt s t).arr.queue = c :: r) ∧ (bits c.w 1 0 = 1)) ∧
  (∃ (t : Nat) (left : Nat) (f : WsFlush) (rest : List WsFlush) (s : State), (t < 128) ∧ (quadFenced s t = false) ∧ ((tillerAt s
    t).arr.flush = f :: rest) ∧ ((tillerAt s t).ftqNext < 8) ∧ ((tillerAt s t).ftq.length = 8) ∧ (ftqFree (tillerAt s t) = true)
    ∧ (left = (ctxStage (tillerAt s t) f.ctx).1.cols - (f.n0 + 64 * f.tile))) ∧
  (∃ (t : Nat) (w : Word) (s : State), (Issues 0x6A regsDAB t w s) ∧ (NextInProgram (tillerAt s t)) ∧ (((tillerAt s t).ftq.getD
    (tillerAt s t).ftqHead {}).st = 2)) ∧
  (∃ (t : Nat) (w : Word) (s : State), (Issues 0x6B regsNone t w s) ∧ (NextInProgram (tillerAt s t)) ∧ (((tillerAt s t).ftq.getD
    (tillerAt s t).ftqHead {}).st = 2) ∧ ((∀ e ∈ (tillerAt s t).vq, readsFtq e.w = false))) ∧
  (∃ (i : Instr) (op : Nat) (reads : Word → List Nat) (t : Nat) (w : Word) (s : State), ((i, op, reads) ∈ [(.ftqWait t w, 0x6A,
    regsDAB), (.ftqPop t w, 0x6B, regsNone)]) ∧ (Issues op reads t w s) ∧ (((tillerAt s t).ftq.getD (tillerAt s t).ftqHead {}).st
    ≠ 2)) :=
  ⟨⟨0, 0x6060, tillS
     ({ aTiller 0x6060 with act := { aCfg 0x6060 with form := 1, stage := { aStage with kind := 1 } }, ctxA := { sregs := (List.replicate 32 0).set 3 0x100004c } }),
     _, _, _, by decide +kernel, by decide +kernel, by decide +kernel, rfl, by decide +kernel, by decide +kernel, rfl, rfl,
     by decide +kernel, by decide +kernel⟩,
   ⟨0, 0x6060, tillS
     ({ aTiller 0x6060 with act := { aCfg 0x6060 with form := 1, stage := { aStage with kind := 1 } }, ctxA := { sregs := (List.replicate 32 0).set 3 0x100004c }, admitted := false }),
     by decide +kernel, by decide +kernel, by decide +kernel⟩,
   ⟨0, 0x6060, tillS
     ({ aTiller 0x6060 with act := { aCfg 0x6060 with form := 1, stage := { aStage with kind := 1 } }, ctxA := { sregs := (List.replicate 32 0).set 3 2 } }),
     by decide +kernel, by decide +kernel, by decide +kernel⟩,
   ⟨0, 0x61, tillS (aTiller 0x61), by decide +kernel, by decide +kernel, by decide +kernel, by decide +kernel⟩,
   ⟨0, _, _, tillS
     { aTiller 0 with act := { aCfg 0 with form := 1, stage := { aStage with kind := 1 } }, arr := { queue := [{ w := 0x100004c }] } },
     _, _, by decide +kernel, by decide +kernel, by decide +kernel, rfl, by decide +kernel, by decide +kernel, rfl,
     by decide +kernel, by decide +kernel, by decide +kernel⟩,
   ⟨0, 0, _, _, tillS
     { aTiller 0 with act := { aCfg 0 with form := 1, stage := { aStage with kind := 1 } }, arr := { pass := some ({ w := 0x100104c }, 1), stat := some { ctx := 0, stageId := 1 } } },
     _, _, by decide +kernel, by decide +kernel, eq_some (by decide +kernel), eq_some (by decide +kernel), rfl,
     by decide +kernel, by decide +kernel, by decide +kernel⟩,
   ⟨0, _, _, tillS
     { aTiller 0 with act := { aCfg 0 with form := 1, stage := { aStage with kind := 1 } }, arr := { queue := [{ w := 0x100004c, rid := 9 }] }, reqs := [{ rid := 3, fmt := 1, dst := 0 }] },
     by decide +kernel, by decide +kernel, by decide +kernel, rfl, by decide +kernel, by decide +kernel, by decide +kernel⟩,
   ⟨0, _, _, tillS
     { aTiller 0 with act := { aCfg 0 with form := 1, stage := { aStage with kind := 1 } }, arr := { queue := [{ w := 1 }] } },
     by decide +kernel, by decide +kernel, by decide +kernel, rfl, by decide +kernel⟩,
   ⟨0, _, _, _, tillS
     { aTiller 0 with act := { aCfg 0 with form := 1, stage := { aStage with kind := 1 } }, arr := { flush := [{ rows := 1 }] } },
     by decide +kernel, by decide +kernel, rfl, by decide +kernel, by decide +kernel, by decide +kernel, rfl⟩,
   ⟨0, 0x6a, tillS ({ aTiller 0x6a with ftq := List.replicate 8 { st := 2, rows := 1 } }), by decide +kernel, by decide +kernel,
     by decide +kernel⟩,
   ⟨0, 0x6b, tillS ({ aTiller 0x6b with ftq := List.replicate 8 { st := 2, rows := 1 } }), by decide +kernel, by decide +kernel,
     by decide +kernel, by decide +kernel⟩,
   ⟨_, _, _, 0, 0x6a, tillS (aTiller 0x6a), .head _, by decide +kernel, by decide +kernel⟩⟩

/-- The hypotheses of VectorInstructionsIssueInOrder can be met. -/
theorem test_hypotheses_VectorInstructionsIssueInOrder :
  (∃ (i : Instr) (op : Nat) (t : Nat) (w : Word) (s : State) (u : Tiller) (x : Ctx) (g : Cfg), ((i, op) ∈ [ (.vadd t w, 0x01),
    (.vsub t w, 0x02), (.vmul t w, 0x03), (.vfma t w, 0x04), (.vmax t w, 0x05), (.vmin t w, 0x06), (.vabs t w, 0x07), (.vneg t w,
    0x08), (.vcmp t w, 0x09), (.vsel t w, 0x0A), (.vcpy t w, 0x0B), (.vexp2 t w, 0x10), (.vexp t w, 0x11), (.vlog2 t w, 0x12),
    (.vrcp t w, 0x13), (.vrsqrt t w, 0x14), (.vsqrt t w, 0x15), (.vtanh t w, 0x16), (.vsigm t w, 0x17), (.verf t w, 0x18), (.rsum
    t w, 0x20), (.rssq t w, 0x21), (.rmax t w, 0x22), (.rmin t w, 0x23), (.ramax t w, 0x24), (.rrowsum t w, 0x28), (.rrowssq t w,
    0x29), (.rrowmax t w, 0x2A)]) ∧ (VectorTurn op t w s) ∧ (vectorFault (tillerAt s t) w = none) ∧ (u = tillerAt s t) ∧ (x =
    curCtx u) ∧ (g = curCfg u) ∧ (NextInProgram u) ∧ (u.cur = 1 ∨ u.admitted = true) ∧ (u.vq.length < 8) ∧ ((readsFtq w = true →
    (u.ftq.getD u.ftqHead {}).st = 2)) ∧ ((∀ r ∈ vWrites x.sregs w, meets r (arrReads u) = false))) ∧
  (∃ (i : Instr) (op : Nat) (t : Nat) (c : Nat) (w : Word) (s : State), ((i, op) ∈ [ (.vadd t w, 0x01), (.vsub t w, 0x02), (.vmul
    t w, 0x03), (.vfma t w, 0x04), (.vmax t w, 0x05), (.vmin t w, 0x06), (.vabs t w, 0x07), (.vneg t w, 0x08), (.vcmp t w, 0x09),
    (.vsel t w, 0x0A), (.vcpy t w, 0x0B), (.vexp2 t w, 0x10), (.vexp t w, 0x11), (.vlog2 t w, 0x12), (.vrcp t w, 0x13), (.vrsqrt
    t w, 0x14), (.vsqrt t w, 0x15), (.vtanh t w, 0x16), (.vsigm t w, 0x17), (.verf t w, 0x18), (.rsum t w, 0x20), (.rssq t w,
    0x21), (.rmax t w, 0x22), (.rmin t w, 0x23), (.ramax t w, 0x24), (.rrowsum t w, 0x28), (.rrowssq t w, 0x29), (.rrowmax t w,
    0x2A)]) ∧ (VectorTurn op t w s)) ∧
  (∃ (t : Nat) (e : VqEntry) (r : List VqEntry) (s : State), (t < 128) ∧ ((tillerAt s t).vq = e :: r) ∧ (quadFenced s t = false)) ∧
  (∃ (w : Word) (a : F32) (b : F32) (c : F32) (r : F32), (vPk w = false) ∧ ((vOp w, r) ∈ [(1, fAdd a b), (2, fSub a b), (3, fMul
    a b), (4, fFma a b c), (5, fMax a b), (6, fMin a b), (7, fAbs a), (8, fNeg a), (9, if vcmpHolds (vC w) a b then 0x3F800000
    else 0), (10, if (ofF32 a).isZero then c else b), (11, a), (0x10, toF32 (ofF32 a).exp2), (0x11, toF32 (ofF32 a).exp), (0x12,
    toF32 (ofF32 a).log2), (0x13, toF32 (ofF32 a).rcp), (0x14, toF32 (ofF32 a).rsqrt), (0x15, toF32 (ofF32 a).sqrt), (0x16, toF32
    (ofF32 a).tanh), (0x17, toF32 (ofF32 a).sigm), (0x18, toF32 (ofF32 a).erf)])) ∧
  (∃ (w : Word) (a : F32) (b : F32) (c : F32), (vPk w = true) ∧ (vOp w ≠ 4)) ∧
  (∃ (w : Word) (a : F32) (b : F32) (c : F32), (vPk w = true) ∧ (vOp w = 4)) :=
  ⟨⟨_, _, 0, 0x100308004001, tillS (aTiller 0x100308004001), _, _, _, .head _, by decide +kernel, by decide +kernel, rfl, rfl,
     rfl, by decide +kernel, by decide +kernel, by decide +kernel, by decide +kernel, by decide +kernel⟩,
   ⟨_, _, 0, 1, 0x80000000000001, tillS (aTiller 0x80000000000001), .head _, by decide +kernel⟩,
   ⟨0, _, _, tillS { aTiller 0 with vq := [{ w := 0x100308004001 }] }, by decide +kernel, rfl, by decide +kernel⟩,
   ⟨1, 1, 2, 3, _, by decide +kernel, .head _⟩,
   ⟨0x10000000000001, 0, 0, 0, by decide +kernel, by decide +kernel⟩,
   ⟨0x10000000000004, 0, 0, 0, by decide +kernel, by decide +kernel⟩⟩

/-- The hypotheses of ScalarInstructionsCompute can be met. -/
theorem test_hypotheses_ScalarInstructionsCompute :
  (∃ (i : Instr) (op : Nat) (t : Nat) (w : Word) (s : State) (f : Word → Word → Word → Word → Word) (u : Tiller), ((i, op, f) ∈
    ([ (.sadd t w, 0x40, fun a b _ m => a + b + m), (.ssub t w, 0x41, fun a b _ _ => a - b), (.smul t w, 0x42, fun a b _ _ => a *
    b), (.sand t w, 0x43, fun a b _ _ => a &&& b), (.sor t w, 0x44, fun a b _ _ => a ||| b), (.sxor t w, 0x45, fun a b _ _ => a
    ^^^ b), (.sshl t w, 0x46, fun a b _ m => a <<< ((b + m).toNat % 64)), (.sshr t w, 0x47, fun a b _ m => a >>> ((b + m).toNat %
    64)), (.slih t w, 0x48, fun a _ _ _ => word (a.toNat % 2 ^ 32 + bits w 63 32 * 2 ^ 32)), (.sfadd t w, 0x49, fun a b _ _ =>
    ofLowF32 (fAdd (lowF32 a) (lowF32 b))), (.sfmul t w, 0x4A, fun a b _ _ => ofLowF32 (fMul (lowF32 a) (lowF32 b))), (.sfma t w,
    0x4B, fun a b d _ => ofLowF32 (fFma (lowF32 a) (lowF32 b) (lowF32 d))), (.scvtf t w, 0x4C, fun a _ _ _ => ofLowF32 (f32OfInt
    a.toInt)), (.scvti t w, 0x4D, fun a _ _ _ => word (unsignedOf 64 (f32ToInt (lowF32 a))))] : List (Instr × Nat × (Word → Word
    → Word → Word → Word)))) ∧ (Issues op regsDAB t w s) ∧ (u = tillerAt s t) ∧ (NextInProgram u)) ∧
  (∃ (u : Tiller) (n : Nat) (m : Nat) (v : Word), (n < 32) ∧ ((curCtx u).sregs.length = 32)) ∧
  (∃ (t : Nat) (a : Nat) (w : Word) (s : State) (u : Tiller), (Issues 0x4E regsDAB t w s) ∧ (u = tillerAt s t) ∧ (NextInProgram
    u) ∧ (a = (sreg u (iSA w) + iImm w).toNat) ∧ (a % 8 = 0) ∧ (inRegions (curCfg u).stage a 8 = true) ∧ (readHazard u [(a, a +
    8)] = false) ∧ ((∀ x ∈ unwaited u, overlap (a, a + 8) x = false))) ∧
  (∃ (t : Nat) (a : Nat) (w : Word) (s : State) (u : Tiller), (Issues 0x4F regsDAB t w s) ∧ (u = tillerAt s t) ∧ (NextInProgram
    u) ∧ (a = (sreg u (iSA w) + iImm w).toNat) ∧ (a % 8 = 0) ∧ (inRegions (curCfg u).stage a 8 = true) ∧ (writeHazard u [(a, a +
    8)] = false)) ∧
  (∃ (i : Instr) (op : Nat) (t : Nat) (w : Word) (s : State), ((i, op) ∈ [(.sld t w, 0x4E), (.sst t w, 0x4F)]) ∧ (Issues op
    regsDAB t w s)) :=
  ⟨⟨_, _, 0, 0xffffffff000c4140, tillS (aTiller 0xffffffff000c4140), _, _, .head _, by decide +kernel, rfl, by decide +kernel⟩,
   ⟨{}, 31, 0, 1, by decide +kernel, by decide +kernel⟩,
   ⟨0, _, 0xfff80000004e, tillS (aTiller 0xfff80000004e), _, by decide +kernel, rfl, by decide +kernel, rfl, by decide +kernel,
     by decide +kernel, by decide +kernel, by decide +kernel⟩,
   ⟨0, _, 0xfff80000004f, tillS (aTiller 0xfff80000004f), _, by decide +kernel, rfl, by decide +kernel, rfl, by decide +kernel,
     by decide +kernel, by decide +kernel⟩,
   ⟨_, _, 0, 0x40000004e, tillS (aTiller 0x40000004e), .head _, by decide +kernel⟩⟩

/-- The hypotheses of ProgramsBranchAndEnd can be met. -/
theorem test_hypotheses_ProgramsBranchAndEnd :
  (∃ (t : Nat) (w : Word) (s : State) (u : Tiller) (d : Int), (t < 128) ∧ (canIssue s t w = true) ∧ (bits w 7 0 = 0x70) ∧ (bits w
    31 26 = 0) ∧ (iSA w ∉ pendingRegs u) ∧ (iSB w ∉ pendingRegs u) ∧ (u = tillerAt s t) ∧ (bits w 25 23 ≠ 7) ∧ (brHolds (bits w
    25 23) (sreg u (iSA w)) (sreg u (iSB w)) = true) ∧ (d = (curCtx u).pc + signedOf 32 (bits w 63 32)) ∧ (0 ≤ d) ∧ (d < (curCfg
    u).stage.progWords) ∧ ((curCfg u).stage.progWords ≤ 16384)) ∧
  (∃ (t : Nat) (w : Word) (s : State) (u : Tiller), (t < 128) ∧ (canIssue s t w = true) ∧ (bits w 7 0 = 0x70) ∧ (bits w 31 26 =
    0) ∧ (iSA w ∉ pendingRegs u) ∧ (iSB w ∉ pendingRegs u) ∧ (u = tillerAt s t) ∧ (bits w 25 23 ≠ 7) ∧ (brHolds (bits w 25 23)
    (sreg u (iSA w)) (sreg u (iSB w)) = false) ∧ (NextInProgram u)) ∧
  (∃ (t : Nat) (w : Word) (s : State) (u : Tiller) (d : Int), (t < 128) ∧ (canIssue s t w = true) ∧ (bits w 7 0 = 0x70) ∧ (bits w
    31 26 = 0) ∧ (iSA w ∉ pendingRegs u) ∧ (iSB w ∉ pendingRegs u) ∧ (u = tillerAt s t) ∧ (bits w 25 23 ≠ 7) ∧ (brHolds (bits w
    25 23) (sreg u (iSA w)) (sreg u (iSB w)) = true) ∧ (d = (curCtx u).pc + signedOf 32 (bits w 63 32)) ∧ (d < 0 ∨ (curCfg
    u).stage.progWords ≤ d)) ∧
  (∃ (t : Nat) (w : Word) (s : State), (Issues 0x7F regsNone t w s) ∧ (NextInProgram (tillerAt s t))) ∧
  (∃ (t : Nat) (w : Word) (s : State), (Issues 0x73 regsNone t w s) ∧ ((tillerAt s t).vq = []) ∧ (NextInProgram (tillerAt s t))) ∧
  (∃ (t : Nat) (w : Word) (s : State), (Issues 0x73 regsNone t w s) ∧ ((tillerAt s t).vq ≠ [])) ∧
  (∃ (t : Nat) (w : Word) (s : State) (u : Tiller), (Issues 0x71 regsNone t w s) ∧ (u = tillerAt s t) ∧ (u.vq = []) ∧
    (NextInProgram u)) ∧
  (∃ (t : Nat) (w : Word) (s : State) (u : Tiller) (es : List VqEntry) (e : VqEntry), (Issues 0x71 regsNone t w s) ∧ (u =
    tillerAt s t) ∧ (u.vq = es ++ [e]) ∧ (NextInProgram u)) ∧
  (∃ (t : Nat) (w : Word) (s : State) (u : Tiller), (Issues 0x72 regsNone t w s) ∧ (u = tillerAt s t) ∧ (arrayIdle u = true) ∧
    (u.vq = []) ∧ (ftqEmpty u = true) ∧ (u.cur = 0)) ∧
  (∃ (t : Nat) (w : Word) (s : State) (u : Tiller), (Issues 0x72 regsNone t w s) ∧ (u = tillerAt s t) ∧ (arrayIdle u = true) ∧
    (u.vq = []) ∧ (ftqEmpty u = true) ∧ (u.cur = 1)) ∧
  (∃ (t : Nat) (w : Word) (s : State) (u : Tiller), (Issues 0x72 regsNone t w s) ∧ (u = tillerAt s t) ∧ (arrayIdle u = true) ∧
    (u.vq = []) ∧ (ftqEmpty u = false)) ∧
  (∃ (t : Nat) (w : Word) (s : State), (Issues 0x72 regsNone t w s) ∧ (arrayIdle (tillerAt s t) = false ∨ (tillerAt s t).vq ≠
    [])) ∧
  (∃ (t : Nat) (w : Word) (s : State), (t < 128) ∧ (canIssue s t w = true) ∧ (listedOp (bits w 7 0) = false)) :=
  ⟨⟨0, 0x300000070, tillS (aTiller 0x300000070), _, 3, by decide +kernel, by decide +kernel, by decide +kernel,
     by decide +kernel, by decide +kernel, by decide +kernel, rfl, by decide +kernel, by decide +kernel, by decide +kernel,
     by decide +kernel, by decide +kernel, by decide +kernel⟩,
   ⟨0, 0x1000070, tillS (aTiller 0x1000070), _, by decide +kernel, by decide +kernel, by decide +kernel, by decide +kernel,
     by decide +kernel, by decide +kernel, rfl, by decide +kernel, by decide +kernel, by decide +kernel⟩,
   ⟨0, 0xffffffff00000070, tillS (aTiller 0xffffffff00000070), _, -1, by decide +kernel, by decide +kernel, by decide +kernel,
     by decide +kernel, by decide +kernel, by decide +kernel, rfl, by decide +kernel, by decide +kernel, by decide +kernel,
     by decide +kernel⟩,
   ⟨0, 0x7f, tillS (aTiller 0x7f), by decide +kernel, by decide +kernel⟩,
   ⟨0, 0x73, tillS (aTiller 0x73), by decide +kernel, by decide +kernel, by decide +kernel⟩,
   ⟨0, 0x73, tillS ({ aTiller 0x73 with vq := [{}] }), by decide +kernel, by decide +kernel⟩,
   ⟨0, 0x71, tillS (aTiller 0x71), _, by decide +kernel, rfl, by decide +kernel, by decide +kernel⟩,
   ⟨0, 0x71, tillS ({ aTiller 0x71 with vq := [{}, {}] }), _, [{}], {}, by decide +kernel, rfl, by decide +kernel,
     by decide +kernel⟩,
   ⟨0, 0x72, tillS (aTiller 0x72), _, by decide +kernel, rfl, by decide +kernel, by decide +kernel, by decide +kernel,
     by decide +kernel⟩,
   ⟨0, 0x72, tillS ({ aTiller 0 with cur := 1, dfr := aCfg 0x72 }), _, by decide +kernel, rfl, by decide +kernel,
     by decide +kernel, by decide +kernel, by decide +kernel⟩,
   ⟨0, 0x72, tillS ({ aTiller 0x72 with ftq := List.replicate 8 { st := 2 } }), _, by decide +kernel, rfl, by decide +kernel,
     by decide +kernel, by decide +kernel⟩,
   ⟨0, 0x72, tillS ({ aTiller 0x72 with vq := [{}] }), by decide +kernel, by decide +kernel⟩,
   ⟨0, 0xFF, tillS (aTiller 0xFF), by decide +kernel, by decide +kernel, by decide +kernel⟩⟩

/-- The hypotheses of ShardSetsAreKept can be met. -/
theorem test_hypotheses_ShardSetsAreKept :
  (∃ (src : CmdSrc) (e : Entry) (s : State) (b : State) (t : State) (si : Nat) (n : Nat) (p : Nat) (c : Nat) (bs : List Byte) (ts
    : List TensorDesc) (os : List Nat), (Taken 0x30 src e s) ∧ (b = begun src e s) ∧ ((chanAt b (chOf s src e)).trn.sets.findIdx?
    (fun q => !q.valid) = some si) ∧ (n = bits e.a0 27 17) ∧ (p = bits e.a0 34 28) ∧ (c = bits e.a0 40 35) ∧ (0 < n) ∧ (n ≤ 1024)
    ∧ (p ≤ 64) ∧ (c < p) ∧ (copyCount b (chOf s src e) = (p, c)) ∧ (setFormatsOk (bits e.a0 48 41) (bits e.a0 56 49) (bits e.a0
    58 57) (bit e.a0 59) (bit e.a0 61) = true) ∧ ((bit e.a0 61 = true → 65536 * ((ownRange ts p c).2 - (ownRange ts p c).1) ≤
    e.a3.toNat ∧ inWindow (chanAt b (chOf s src e)) true e.a2.toNat e.a3.toNat = true)) ∧ (tableBytes b (chOf s src e) (bits e.a0
    16 0) e.a1.toNat (16 * n) = some bs) ∧ ((chunksOf 16 n bs).all tensorOk = true) ∧ (ts = (chunksOf 16 n bs).map tensorOf) ∧
    ((∀ i, i < n → updGranules (portion ts p c i).2 ≤ 256)) ∧ (createSet b (chOf s src e) (setRoot ts p c (bit e.a0 59))
    (setCounts ts p c (bit e.a0 59) (bit e.a0 60) (bit e.a0 61)) = .ok (os, t)) ∧ (ts.length = n)) ∧
  (∃ (src : CmdSrc) (e : Entry) (s : State), (Taken 0x30 src e s) ∧ ((∀ q ∈ (chanAt (begun src e s) (chOf s src e)).trn.sets,
    q.valid = true))) ∧
  (∃ (src : CmdSrc) (e : Entry) (s : State), (Taken 0x31 src e s) ∧ ((setAt (begun src e s) (chOf s src e) (bits e.a0 3 0)).valid
    = true) ∧ (setBusy (begun src e s) (chOf s src e) (bits e.a0 3 0) = false)) ∧
  (∃ (src : CmdSrc) (e : Entry) (s : State), (Taken 0x31 src e s) ∧ ((setAt (begun src e s) (chOf s src e) (bits e.a0 3 0)).valid
    = true) ∧ (setBusy (begun src e s) (chOf s src e) (bits e.a0 3 0) = true)) ∧
  (∃ (src : CmdSrc) (e : Entry) (s : State) (b : State), (Taken 0x32 src e s) ∧ (b = begun src e s) ∧ ((setAt b (chOf s src e)
    (bits e.a0 3 0)).valid = true) ∧ (1 ≤ bits e.a0 24 14) ∧ (bits e.a0 13 4 + bits e.a0 24 14 ≤ (setAt b (chOf s src e) (bits
    e.a0 3 0)).tensors.length)) ∧
  (∃ (src : CmdSrc) (e : Entry) (s : State) (b : State) (bs : List Byte) (vs : List (Nat × Variant)), (Taken 0x38 src e s) ∧ (b =
    begun src e s) ∧ (0 < bits e.a2 13 0) ∧ (bits e.a2 13 0 ≤ 8192) ∧ (tableBytes b (chOf s src e) (bits e.a0 16 0) e.a1.toNat
    (64 * bits e.a2 13 0) = some bs) ∧ ((chunksOf 64 (bits e.a2 13 0) bs).mapM variantOf = some vs)) ∧
  (∃ (src : CmdSrc) (e : Entry) (s : State) (b : State), (Taken 0x39 src e s) ∧ (b = begun src e s) ∧ (bit e.a0 0 = false) ∧ (0 <
    e.a2.toNat) ∧ ((∀ g ∈ (chanAt b (chOf s src e)).trn.segs, segWaits b (chOf s src e) g = true → g.bytes.length ≤ e.a2.toNat))
    ∧ (e.a2.toNat % 16 = 0) ∧ (e.a1.toNat % 16 = 0) ∧ (inWindow (chanAt b (chOf s src e)) true e.a1.toNat e.a2.toNat = true)) ∧
  (∃ (src : CmdSrc) (e : Entry) (s : State) (b : State), (Taken 0x39 src e s) ∧ (b = begun src e s) ∧ (bit e.a0 0 = true) ∧ (0 <
    e.a3.toNat) ∧ ((∀ g ∈ (chanAt b (chOf s src e)).trn.segs, segWaits b (chOf s src e) g = true → g.bytes.length ≤ e.a3.toNat))
    ∧ (e.a3.toNat % 16 = 0) ∧ (e.a1.toNat < 2 ^ 17) ∧ (e.a2.toNat % 16 = 0) ∧ ((groupAt b (bits e.a0 25 16)).live = true) ∧
    ((groupAt b (bits e.a0 25 16)).ch = chOf s src e)) ∧
  (∃ (src : CmdSrc) (e : Entry) (s : State) (b : State) (t : Trn), (Taken 0x37 src e s) ∧ (b = begun src e s) ∧ (t = (chanAt b
    (chOf s src e)).trn)) :=
  ⟨⟨.ring 0, { w0 := 0x130, a0 := 0x2020010020001 }, objStore {} 1 4 [1, 0, 1] (setS { w0 := 0x130, a0 := 0x2020010020001 } {}),
     _, _, 1, 1, 1, 0, _, [{ rowBlocks := 1, colBlocks := 1 }], _, by decide +kernel, rfl, by decide +kernel, by decide +kernel,
     by decide +kernel, by decide +kernel, by decide +kernel, by decide +kernel, by decide +kernel, by decide +kernel,
     by decide +kernel, by decide +kernel, by decide +kernel, eq_some (by decide +kernel), by decide +kernel, by decide +kernel,
     by decide +kernel, eq_ok2 ([], up) (by decide +kernel), by decide +kernel⟩,
   ⟨.ring 0, { w0 := 0x130 },
     { setS { w0 := 0x130 } {} with chans := [(0, { liveChan with trn := { sets := List.replicate 16 aSet }, rings := { liveChan.rings with cmds := [{ e := { w0 := 0x130 } }] } })] },
     by decide +kernel, by decide +kernel⟩,
   ⟨.ring 0, { w0 := 0x131 }, setS { w0 := 0x131 } {}, by decide +kernel, by decide +kernel, by decide +kernel⟩,
   ⟨.ring 0, { w0 := 0x131 }, setS { w0 := 0x131 } { sheaves := [{}] }, by decide +kernel, by decide +kernel, by decide +kernel⟩,
   ⟨.ring 0, { w0 := 0x132, a0 := 0x4000 }, setS { w0 := 0x132, a0 := 0x4000 } {}, _, by decide +kernel, rfl, by decide +kernel,
     by decide +kernel, by decide +kernel⟩,
   ⟨.ring 0, { w0 := 0x138, a0 := 1, a2 := 1 }, setS { w0 := 0x138, a0 := 1, a2 := 1 } {}, _, _, _, by decide +kernel, rfl,
     by decide +kernel, by decide +kernel, eq_some (by decide +kernel), eq_some (by decide +kernel)⟩,
   ⟨.ring 0, { w0 := 0x139, a1 := 0x10000, a2 := 64 }, setS { w0 := 0x139, a1 := 0x10000, a2 := 64 } {}, _, by decide +kernel,
     rfl, by decide +kernel, by decide +kernel, by decide +kernel, by decide +kernel, by decide +kernel, by decide +kernel⟩,
   ⟨.ring 0, { w0 := 0x139, a0 := 1, a3 := 64 },
     { setS { w0 := 0x139, a0 := 1, a3 := 64 } {} with links := { groups := [(0, { live := true })] } }, _, by decide +kernel,
     rfl, by decide +kernel, by decide +kernel, by decide +kernel, by decide +kernel, by decide +kernel, by decide +kernel,
     by decide +kernel, by decide +kernel⟩,
   ⟨.ring 0, { w0 := 0x137 }, setS { w0 := 0x137 } {}, _, _, by decide +kernel, rfl, rfl⟩⟩

/-- The hypotheses of StepsGatherAndClose can be met. -/
theorem test_hypotheses_StepsGatherAndClose :
  (∃ (src : CmdSrc) (e : Entry) (s : State) (b : State) (q : GatherVer), (Taken 0x33 src e s) ∧ (b = begun src e s) ∧ (recordIn s
    (chOf s src e) (gatherOf s src e).step = true) ∧ (resharding s (chOf s src e) = false) ∧ (runOk (setAt b (chOf s src e) (bits
    e.a0 3 0)) (bits e.a0 13 4) (bits e.a0 24 14) = true) ∧ (bit e.a0 35 = true) ∧ (bit e.a0 37 = true) ∧ ((chanAt b (chOf s src
    e)).trn.vers.find? (fun q => q.id == bits e.a0 34 25) = some q)) ∧
  (∃ (src : CmdSrc) (e : Entry) (s : State) (b : State) (t : State) (dead : List Nat) (own : List Byte) (y : Coll), (GatherMoves
    s src e) ∧ (b = begun src e (admitted s (gatherWho s src e) (some (chOf s src e)) (gatherAccess s src e))) ∧ (dead = silent s
    (gatherWho s src e) (some (chOf s src e)) (gatherAccess s src e)) ∧ (y = gatherOf s src e) ∧ (gatherOwn (chOf s src e) dead
    y.set y.first y.count y.step b = (t, own, 0)) ∧ ((setAt b (chOf s src e) y.set).p = 1)) ∧
  (∃ (src : CmdSrc) (e : Entry) (s : State) (b : State) (t : State) (dead : List Nat) (own : List Byte) (y : Coll) (v : ShardSet)
    (gn : Nat) (tag : Nat) (g : Group), (GatherMoves s src e) ∧ (b = begun src e (admitted s (gatherWho s src e) (some (chOf s
    src e)) (gatherAccess s src e))) ∧ (dead = silent s (gatherWho s src e) (some (chOf s src e)) (gatherAccess s src e)) ∧ (y =
    gatherOf s src e) ∧ (v = setAt b (chOf s src e) y.set) ∧ (gatherOwn (chOf s src e) dead y.set y.first y.count y.step b = (t,
    own, 0)) ∧ (v.p ≠ 1) ∧ (roleGroup s (chOf s src e) 0 = some (gn, g)) ∧ (g.extent = v.p) ∧ (g.fenced = false) ∧ (tag = y.id +
    1024 * bits e.a0 35 35 + 2048 * y.set)) ∧
  (∃ (src : CmdSrc) (e : Entry) (s : State) (b : State) (bs : List Byte) (n : Nat) (f : Sheaf), (Taken 0x34 src e s) ∧ (b = begun
    src e s) ∧ (n = stepAt s (chOf s src e) (cmdOf s src e).pos) ∧ (recordIn s (chOf s src e) n = true) ∧ (tableBytes b (chOf s
    src e) (bits e.a0 16 0) e.a1.toNat 64 = some bs) ∧ (f = { sheafDesc bs with step := n }) ∧ (sheafRsv bs = true) ∧ (sheafOk b
    (chOf s src e) f = true)) ∧
  (∃ (src : CmdSrc) (e : Entry) (s : State) (b : State) (bs : List Byte) (n : Nat), (Taken 0x34 src e s) ∧ (b = begun src e s) ∧
    (n = stepAt s (chOf s src e) (cmdOf s src e).pos) ∧ (recordIn s (chOf s src e) n = true) ∧ (tableBytes b (chOf s src e) (bits
    e.a0 16 0) e.a1.toNat 64 = some bs) ∧ (sheafRsv bs = false ∨ sheafOk b (chOf s src e) { sheafDesc bs with step := n } =
    false)) ∧
  (∃ (src : CmdSrc) (e : Entry) (s : State) (b : State) (bs : List Byte) (n : Nat), (Taken 0x35 src e s) ∧ (b = begun src e s) ∧
    (n = stepAt s (chOf s src e) (cmdOf s src e).pos) ∧ (n ≤ (chanAt s (chOf s src e)).trn.recorded + 1) ∧ (tableBytes b (chOf s
    src e) (bits e.a0 16 0) e.a1.toNat 1024 = some bs)) ∧
  (∃ (src : CmdSrc) (e : Entry) (s : State) (b : State) (t : Trn) (ps : List (Nat × Nat × Nat)), (Taken 0x36 src e s) ∧ (b =
    begun src e s) ∧ (t = (chanAt b (chOf s src e)).trn) ∧ ((chanAt s (chOf s src e)).trn.normStep = e.a0.toNat) ∧ ((chanAt s
    (chOf s src e)).trn.gradOut = []) ∧ (e.a0.toNat = t.recorded + 1) ∧ (t.sets.any (fun x => x.valid && x.hostRes) = true) ∧
    (t.hostCommit = none) ∧ (ps = commitPieces b (chOf s src e) e.a0.toNat e.a1.toNat) ∧ (e.a2.toNat = 65536 * ps.length) ∧
    (inWindow (chanAt b (chOf s src e)) false e.a1.toNat e.a2.toNat = true)) ∧
  (∃ (src : CmdSrc) (e : Entry) (s : State) (b : State), (Taken 0x36 src e s) ∧ (b = begun src e s) ∧ (e.a0.toNat ≠ (chanAt s
    (chOf s src e)).trn.recorded + 1 ∨ (chanAt s (chOf s src e)).trn.sets.any (fun x => x.valid && x.hostRes) = false)) :=
  ⟨⟨.ring 0, { w0 := 0x133, a0 := 0x2800004000 }, setS { w0 := 0x133, a0 := 0x2800004000 } { vers := [{}] }, _, _,
     by decide +kernel, rfl, by decide +kernel, by decide +kernel, by decide +kernel, by decide +kernel, by decide +kernel,
     eq_some (by decide +kernel)⟩,
   ⟨.ring 0, { w0 := 0x133, a0 := 0x4000, a1 := 3 }, setS { w0 := 0x133, a0 := 0x4000, a1 := 3 } {}, _, _, _, _, _,
     ⟨by decide +kernel, ⟨by decide +kernel, by decide +kernel, .inl (by decide +kernel)⟩, by decide +kernel, by decide +kernel,
     by decide +kernel, by unfold GoNow; decide +kernel⟩, rfl, rfl, rfl, eq_tup3 (by decide +kernel), by decide +kernel⟩,
   ⟨.ring 0, { w0 := 0x133, a0 := 0x4000, a1 := 3 },
     { setS { w0 := 0x133, a0 := 0x4000, a1 := 3 } {} with links := { groups := [(0, { live := true, extent := 2, members := [(0, false), (1, false)] })] }, chans := [(0, { liveChan with trn := { sets := [{ aSet with p := 2 }] }, rings := { liveChan.rings with cmds := [{ e := { w0 := 0x133, a0 := 0x4000, a1 := 3 }, step := 1 }] } })] },
     _, _, _, _, _, _, _, _, _, ⟨by decide +kernel, ⟨by decide +kernel, by decide +kernel, .inr (opt_get (by decide +kernel)
     (by decide +kernel))⟩, by decide +kernel, by decide +kernel, by decide +kernel, by unfold GoNow; decide +kernel⟩, rfl, rfl,
     rfl, rfl, eq_tup3 (by decide +kernel), by decide +kernel, eq_some (by decide +kernel), by decide +kernel, by decide +kernel,
     rfl⟩,
   ⟨.ring 0, { w0 := 0x134, a0 := 1 },
     { objStore {} 1 0 (leBytes 8 0 ++ leBytes 4 64 ++ leBytes 4 3 ++ leBytes 8 0 ++ leBytes 2 0 ++ leBytes 2 1) (setS { w0 := 0x134, a0 := 1 } {}) with chans := [(0, { liveChan with trn := { sets := [{ aSet with tensors := [{ rowBlocks := 8, colBlocks := 8 }] }] }, rings := { liveChan.rings with cmds := [{ e := { w0 := 0x134, a0 := 1 }, step := 1 }] } })] },
     _, _, _, _, by decide +kernel, rfl, rfl, by decide +kernel, eq_some (by decide +kernel), rfl, by decide +kernel,
     by decide +kernel⟩,
   ⟨.ring 0, { w0 := 0x134, a0 := 1 }, setS { w0 := 0x134, a0 := 1 } {}, _, _, _, by decide +kernel, rfl, rfl, by decide +kernel,
     eq_some (by decide +kernel), by decide +kernel⟩,
   ⟨.ring 0, { w0 := 0x135, a0 := 1 }, setS { w0 := 0x135, a0 := 1 } {}, _, _, _, by decide +kernel, rfl, rfl, by decide +kernel,
     eq_some (by decide +kernel)⟩,
   ⟨.ring 0, { w0 := 0x136, a0 := 1, a1 := 0x10000, a2 := 0x10000 },
     { setS { w0 := 0x136, a0 := 1, a1 := 0x10000, a2 := 0x10000 } {} with chans := [(0, { liveChan with windows := [(0, { rd := true, wr := true, len := 2 ^ 32 })], trn := { normStep := 1, sets := [{ aSet with hostRes := true }] }, rings := { liveChan.rings with cmds := [{ e := { w0 := 0x136, a0 := 1, a1 := 0x10000, a2 := 0x10000 }, step := 1 }] } })] },
     _, _, _, by decide +kernel, rfl, rfl, by decide +kernel, by decide +kernel, by decide +kernel, by decide +kernel,
     by decide +kernel, rfl, by decide +kernel, by decide +kernel⟩,
   ⟨.ring 0, { w0 := 0x136, a0 := 1 }, setS { w0 := 0x136, a0 := 1 } {}, _, by decide +kernel, rfl, by decide +kernel⟩⟩

/-- The hypotheses of StepsReduceCommitAndExport can be met. -/
theorem test_hypotheses_StepsReduceCommitAndExport :
  (∃ (c : Nat) (n : Nat) (f : Sheaf) (s : State), (c < 4096) ∧ (sheafOf s c n = some f) ∧ (f.st = 0) ∧ ((chanAt s c).rcv.st = 0)
    ∧ (sheafComplete s c f = true) ∧ ((setAt s c f.set).p = 1)) ∧
  (∃ (c : Nat) (n : Nat) (gn : Nat) (f : Sheaf) (g : Group) (s : State), (c < 4096) ∧ (sheafOf s c n = some f) ∧ (f.st = 0) ∧
    ((chanAt s c).rcv.st = 0) ∧ (sheafComplete s c f = true) ∧ ((setAt s c f.set).p ≠ 1) ∧ (roleGroup s c 0 = some (gn, g)) ∧
    (g.extent = (setAt s c f.set).p) ∧ (g.aborted = false) ∧ (g.fenced = false)) ∧
  (∃ (c : Nat) (n : Nat) (m : Nat) (p : Nat) (x : F32) (xs : List F32) (s : State), (c < 4096) ∧ ((chanAt s c).trn.close = some
    (n, m, p)) ∧ (normReady s c n = true) ∧ (roleGroup s c 3 = none) ∧ ((sortIv ((chanAt s c).trn.sheaves.map (fun f => (f.num,
    f.sumSq.toNat)))).map (fun p => (BitVec.ofNat 32 p.2 : F32)) = x :: xs)) ∧
  (∃ (c : Nat) (n : Nat) (m : Nat) (p : Nat) (gn : Nat) (g : Group) (x : F32) (xs : List F32) (y : Coll) (s : State) (u : State),
    (c < 4096) ∧ ((chanAt s c).trn.close = some (n, m, p)) ∧ (normReady s c n = true) ∧ (roleGroup s c 3 = some (gn, g)) ∧
    (g.rank = 0) ∧ ((sortIv ((chanAt s c).trn.sheaves.map (fun f => (f.num, f.sumSq.toNat)))).map (fun p => (BitVec.ofNat 32 p.2
    : F32)) = x :: xs) ∧ (u = addColl gn
    { kind := 2, ch := c, step := n, got := [(0, (xs.foldl fAdd x).toNat, putB ((chanAt s c).trn.ovf.contains n) 0)] } (modTrn s
    c (fun t => { t with normIn := true, phase := 2 }))) ∧ (normColl (groupAt u gn) = some y)) ∧
  (∃ (c : Nat) (n : Nat) (m : Nat) (p : Nat) (gn : Nat) (g : Group) (x : F32) (xs : List F32) (s : State), (c < 4096) ∧ ((chanAt
    s c).trn.close = some (n, m, p)) ∧ (normReady s c n = true) ∧ (roleGroup s c 3 = some (gn, g)) ∧ (g.rank ≠ 0) ∧ ((sortIv
    ((chanAt s c).trn.sheaves.map (fun f => (f.num, f.sumSq.toNat)))).map (fun p => (BitVec.ofNat 32 p.2 : F32)) = x :: xs)) ∧
  (∃ (c : Nat) (s : State), (c < 4096) ∧ (commitReady s c = true)) ∧
  (∃ (c : Nat) (d : ExportDue) (rest : List ExportDue) (s : State) (u : State) (bs : List Byte) (t : Trn), (c < 4096) ∧ ((chanAt
    s c).live = true) ∧ (t = (chanAt s c).trn) ∧ (t.exports = d :: rest) ∧ (t.sink.set = true) ∧ (segmentOf c (sinkEdge s t.sink)
    d t.resync s = (u, bs)) ∧ (bs.length ≤ sinkRoom t.sink)) ∧
  (∃ (c : Nat) (off : Nat) (g : DeltaSeg) (s : State) (t : Trn), (c < 4096) ∧ (t = (chanAt s c).trn) ∧ (t.segs.find? (fun g =>
    g.at_.isNone || !segBusy s c g.step) = some g) ∧ (g.at_ = none) ∧ (sinkPlace t g.bytes.length = some off) ∧ (t.sink.peer =
    false) ∧ (copyOpen s c = true) ∧ (t.sink.set = true) ∧ (g.bytes.length ≤ t.sink.size)) ∧
  (∃ (c : Nat) (n : Nat) (s : State) (t : Trn) (lost : List DeltaSeg), (c < 4096) ∧ ((chanAt s c).live = true) ∧ (t = (chanAt s
    c).trn) ∧ (lost = t.segs.filter (segWaits s c)) ∧ ((lost.map (·.step) ++ t.exports.map (·.step)).head? = some n) ∧ (bits
    (numOf s c n).trnCtrl 15 0 ≠ 0)) ∧
  (∃ (c : Nat) (w : Word) (s : State), (c < 4096) ∧ ((chanAt s c).live = true) ∧ (s.cxl.mode ≠ 0)) :=
  ⟨⟨0, 0, _, setS {} { sheaves := [{}] }, by decide +kernel, eq_some (by decide +kernel), by decide +kernel, by decide +kernel,
     by decide +kernel, by decide +kernel⟩,
   ⟨0, 0, _, _, _,
     { setS {} { sheaves := [{}] } with chans := [(0, { liveChan with trn := { sheaves := [{}], sets := [{ aSet with p := 2 }] } })], links := { groups := [(5, { live := true, extent := 2 })] } },
     by decide +kernel, eq_some (by decide +kernel), by decide +kernel, by decide +kernel, by decide +kernel, by decide +kernel,
     eq_some (by decide +kernel), by decide +kernel, by decide +kernel, by decide +kernel⟩,
   ⟨0, _, _, _, _, _, setS {} { sheaves := [{ st := 2 }], close := some (1, 0, 0) }, by decide +kernel, eq_some
     (by decide +kernel), by decide +kernel, by decide +kernel, rfl⟩,
   ⟨0, _, _, _, _, _, _, _, _,
     { setS {} { sheaves := [{ st := 2 }], close := some (1, 0, 0) } with links := { groups := [(7, { live := true, role := 3 })] } },
     _, by decide +kernel, eq_some (by decide +kernel), by decide +kernel, eq_some (by decide +kernel), by decide +kernel, rfl,
     rfl, eq_some (by decide +kernel)⟩,
   ⟨0, _, _, _, _, _, _, _,
     { setS {} { sheaves := [{ st := 2 }], close := some (1, 0, 0) } with links := { groups := [(7, { live := true, role := 3, rank := 1 })] } },
     by decide +kernel, eq_some (by decide +kernel), by decide +kernel, eq_some (by decide +kernel), by decide +kernel, rfl⟩,
   ⟨0, setS {} { phase := 3, normStep := 1 }, by decide +kernel, by decide +kernel⟩,
   ⟨0, _, _, setS {} { exports := [{}], sink := { set := true, size := 64 } }, _, _, _, by decide +kernel, by decide +kernel,
     rfl, rfl, by decide +kernel, rfl, by decide +kernel⟩,
   ⟨0, 0, _, setS {} { segs := [{}], sink := { set := true, size := 64 } }, _, by decide +kernel, rfl, eq_some
     (by decide +kernel), by decide +kernel, by decide +kernel, by decide +kernel, by decide +kernel, by decide +kernel,
     by decide +kernel⟩,
   ⟨0, _, setS {} { segs := [{ step := 3 }], nums := [{ step := 3, trnCtrl := 1 }] }, _, _, by decide +kernel, by decide +kernel,
     rfl, rfl, eq_some (by decide +kernel), by decide +kernel⟩,
   ⟨0, 0, chanS liveChan, by decide +kernel, by decide +kernel, by decide +kernel⟩⟩

/-- The hypotheses of GroupsAreMade can be met. -/
theorem test_hypotheses_GroupsAreMade :
  (∃ (src : CmdSrc) (e : Entry) (s : State) (b : State), (Taken 0x0A src e s) ∧ (b = begun src e s) ∧ ((∀ a, a < 3 → coord (bits
    e.a0 15 0) a < dimOf (bits e.a0 31 16) a)) ∧ ((∀ p, p < 6 → (portAt b p).st ≠ 5))) ∧
  (∃ (src : CmdSrc) (e : Entry) (s : State), (Taken 0x0A src e s) ∧ ((∃ a, a < 3 ∧ dimOf (bits e.a0 31 16) a ≤ coord (bits e.a0
    15 0) a))) ∧
  (∃ (src : CmdSrc) (e : Entry) (s : State), (Taken 0x0B src e s) ∧ (bit e.a0 0 = false)) ∧
  (∃ (src : CmdSrc) (e : Entry) (s : State) (b : State) (t : State) (o : Obj) (n : Nat) (bs : List Byte) (es : List Nat), (Taken
    0x0B src e s) ∧ (b = begun src e s) ∧ (bit e.a0 0 = true) ∧ (o = objAt b (bits e.a1 16 0)) ∧ (n = bits e.a3 32 16) ∧ (0 < n)
    ∧ (bits e.a3 15 0 + n ≤ 65536) ∧ (o.valid = true) ∧ (e.a2.toNat + 4 * n ≤ o.size) ∧ (objRead {} (bits e.a1 16 0) e.a2.toNat
    (4 * n) b = (t, bs, 0)) ∧ (es = (chunksOf 4 (n + 1) bs).map leValue) ∧ ((∀ v ∈ es, v.testBit 7 = false ∧ nbits v 31 16 = 0 ∧
    (v.testBit 6 = true → nbits v 2 0 < 6 → nbits v 5 3 = if nbits v 2 0 % 2 = 0 then nbits v 2 0 + 1 else nbits v 2 0 - 1)))) ∧
  (∃ (src : CmdSrc) (e : Entry) (s : State) (b : State) (bs : List Byte) (g : Group) (gn : Nat) (n : Nat) (o : Nat) (a : Nat),
    (Taken 0x40 src e s) ∧ (b = begun src e s) ∧ (tableBytes b (chOf s src e) (bits e.a0 16 0) e.a1.toNat 64 = some bs) ∧
    (descGroup bs = (g, gn, o, n, a)) ∧ (descRsv bs = true) ∧ (descOk b (chOf s src e) gn n g = true) ∧ (g.role ≠ 3)) ∧
  (∃ (src : CmdSrc) (e : Entry) (s : State) (b : State) (bs : List Byte) (l : List Byte) (g : Group) (gn : Nat) (n : Nat) (o :
    Nat) (a : Nat) (ms : List (Nat × Bool)), (Taken 0x40 src e s) ∧ (b = begun src e s) ∧ (tableBytes b (chOf s src e) (bits e.a0
    16 0) e.a1.toNat 64 = some bs) ∧ (descGroup bs = (g, gn, o, n, a)) ∧ (descRsv bs = true) ∧ (descOk b (chOf s src e) gn n g =
    true) ∧ (g.role = 3) ∧ (tableBytes b (chOf s src e) o a (4 * n) = some l) ∧ (normMembers n l = some ms) ∧ ((ms.getD g.rank
    (0, false)).1 = b.links.deviceId)) ∧
  (∃ (src : CmdSrc) (e : Entry) (s : State) (b : State), (Taken 0x41 src e s) ∧ (b = begun src e s)) ∧
  (∃ (src : CmdSrc) (e : Entry) (s : State) (b : State), (Taken 0x47 src e s) ∧ (b = begun src e s) ∧ ((groupAt b (bits e.a0 9
    0)).live = true) ∧ ((∀ c, src = .ring c → (groupAt b (bits e.a0 9 0)).ch = c))) ∧
  (∃ (src : CmdSrc) (e : Entry) (s : State) (b : State), (Taken 0x47 src e s) ∧ (b = begun src e s) ∧ ((groupAt b (bits e.a0 9
    0)).live = false)) :=
  ⟨⟨.mbx 0, { w0 := 0xA, a0 := 0x800 + 0x1800 * 65536 }, onMbx 0 { w0 := 0xA, a0 := 0x800 + 0x1800 * 65536 } (chanS liveChan), _,
     by decide +kernel, rfl, by decide +kernel, by decide +kernel⟩,
   ⟨.mbx 0, { w0 := 0xA, a0 := 0x1F }, onMbx 0 { w0 := 0xA, a0 := 0x1F } (chanS (liveChan)), by decide +kernel,
     by decide +kernel⟩,
   ⟨.mbx 0, { w0 := 0xB, a0 := 0 }, onMbx 0 { w0 := 0xB, a0 := 0 } (chanS (liveChan)), by decide +kernel, by decide +kernel⟩,
   ⟨.mbx 0, { w0 := 0xB, a0 := 1, a1 := 1, a3 := 0x10000 }, onMbx 0 { w0 := 0xB, a0 := 1, a1 := 1, a3 := 0x10000 } (objS {}
     liveChan anObj), _, _, _, _, _, _, by decide +kernel, rfl, by decide +kernel, rfl, rfl, by decide +kernel,
     by decide +kernel, by decide +kernel, by decide +kernel, eq_tup3 (by decide +kernel), rfl, by decide +kernel⟩,
   ⟨.ring 0, { w0 := 0x140, a0 := 1 }, objStore {} 1 0 (leBytes 4 0x1000 ++ leBytes 4 1) (setS { w0 := 0x140, a0 := 1 } {}), _,
     _, _, _, _, _, _, by decide +kernel, rfl, eq_some (by decide +kernel), rfl, by decide +kernel, by decide +kernel,
     by decide +kernel⟩,
   ⟨.ring 0, { w0 := 0x140, a0 := 1 }, objStore {} 1 0 (leBytes 4 0xC00 ++ leBytes 12 0 ++ leBytes 4 1 ++ leBytes 4 1 ++ leBytes
     8 64) (setS { w0 := 0x140, a0 := 1 } {}), _, _, _, _, _, _, _, _, _, by decide +kernel, rfl, eq_some (by decide +kernel),
     rfl, by decide +kernel, by decide +kernel, by decide +kernel, eq_some (by decide +kernel), eq_some (by decide +kernel),
     by decide +kernel⟩,
   ⟨.ring 0, { w0 := 0x141 }, setS { w0 := 0x141 } {}, _, by decide +kernel, rfl⟩,
   ⟨.ring 0, { w0 := 0x147 },
     { setS { w0 := 0x147 } {} with links := { groups := [(0, { live := true, role := 1, extent := 2, members := [(0, false), (1, false)] })] } },
     _, by decide +kernel, rfl, by decide +kernel, by intro c h; cases h; decide +kernel⟩,
   ⟨.ring 0, { w0 := 0x147 }, setS { w0 := 0x147 } {}, _, by decide +kernel, rfl, by decide +kernel⟩⟩

/-- The hypotheses of CollectivesBegin can be met. -/
theorem test_hypotheses_CollectivesBegin :
  (∃ (src : CmdSrc) (e : Entry) (s : State) (b : State) (t : State) (g : Group) (dead : List Nat) (bs : List Byte), (Taken 0x42
    src e s) ∧ (GroupServes s src e) ∧ (GoNow s (bcastWho s e) (some (chOf s src e)) 140 (bcastAccess e)) ∧ (b = begun src e
    (admitted s (bcastWho s e) (some (chOf s src e)) (bcastAccess e))) ∧ (dead = silent s (bcastWho s e) (some (chOf s src e))
    (bcastAccess e)) ∧ (g = groupAt b (bits e.a0 9 0)) ∧ (bits e.a0 15 10 = selfIndex g) ∧ (bits e.a0 15 10 < g.members.length) ∧
    (rangeStatus s (chOf s src e) false (bits e.a0 32 16) e.a1.toNat e.a2.toNat = none) ∧ (0 < e.a2.toNat) ∧ (otherMembers g ≠
    []) ∧ (objRead (collAgent (chOf s src e) dead) (bits e.a0 32 16) e.a1.toNat e.a2.toNat b = (t, bs, 0))) ∧
  (∃ (src : CmdSrc) (e : Entry) (s : State) (b : State) (g : Group), (Taken 0x42 src e s) ∧ (b = begun src e s) ∧ (GroupServes s
    src e) ∧ (g = groupAt b (bits e.a0 9 0)) ∧ (bits e.a0 15 10 ≠ selfIndex g) ∧ (bits e.a0 15 10 < g.members.length) ∧
    (rangeStatus b (chOf s src e) true (bits e.a0 32 16) e.a1.toNat e.a2.toNat = none) ∧ (0 < e.a2.toNat) ∧ (otherMembers g ≠
    [])) ∧
  (∃ (src : CmdSrc) (e : Entry) (s : State) (b : State) (g : Group), (Taken 0x43 src e s) ∧ (b = begun src e s) ∧ (GroupServes s
    src e) ∧ (g = groupAt b (bits e.a0 9 0)) ∧ (p2pStatus b (chOf s src e) (bits e.a0 9 0) (bits e.a0 15 10) false (bits e.a1 16
    0) e.a2.toNat e.a3.toNat = none) ∧ (otherMembers g ≠ [])) ∧
  (∃ (src : CmdSrc) (e : Entry) (s : State) (b : State) (g : Group), (Taken 0x44 src e s) ∧ (b = begun src e s) ∧ (GroupServes s
    src e) ∧ (g = groupAt b (bits e.a0 9 0)) ∧ (p2pStatus b (chOf s src e) (bits e.a0 9 0) (bits e.a0 15 10) true (bits e.a1 16
    0) e.a2.toNat e.a3.toNat = none) ∧ (otherMembers g ≠ [])) ∧
  (∃ (src : CmdSrc) (e : Entry) (s : State) (b : State), (Taken 0x45 src e s) ∧ (b = begun src e s) ∧ (GroupServes s src e) ∧
    (otherMembers (groupAt b (bits e.a0 9 0)) ≠ [])) ∧
  (∃ (src : CmdSrc) (e : Entry) (s : State) (b : State), (Taken 0x45 src e s) ∧ (b = begun src e s) ∧ (GroupServes s src e) ∧
    (otherMembers (groupAt b (bits e.a0 9 0)) = [])) ∧
  (∃ (i : Instr) (op : Nat) (src : CmdSrc) (e : Entry) (s : State), ((i, op) ∈ [ (.collBcast src e, 0x42), (.collSend src e,
    0x43), (.collRecv src e, 0x44), (.collBarrier src e, 0x45)]) ∧ (Taken op src e s)) ∧
  (∃ (src : CmdSrc) (e : Entry) (s : State) (b : State) (g : Group) (old : Option (Nat × Group)) (ms : List (Nat × Nat)) (ns :
    List (Nat × Nat)) (gn : Nat), (Taken 0x46 src e s) ∧ (b = begun src e s) ∧ (stepAt s (chOf s src e) (cmdOf s src e).pos ≤
    (chanAt s (chOf s src e)).trn.recorded + 1) ∧ ((resh (chOf s src e) s).active = false) ∧ (old = roleGroup s (chOf s src e) 0)
    ∧ ((∀ x, old = some x → x.2.aborted = false ∧ x.2.fenced = false)) ∧ (gn = bits e.a0 14 5) ∧ (g = groupAt b gn) ∧ ((setAt b
    (chOf s src e) (bits e.a0 3 0)).valid = true) ∧ (chanPinned b (chOf s src e) = false) ∧ (bit e.a0 4 = false) ∧ (ownGroup b
    (chOf s src e) gn = true) ∧ (g.role = 0 ∨ g.role = 4) ∧
    (ms = (match old with | some o => o.2.members.map (fun m => (m.1, o.1)) | none => [(b.links.deviceId, gn)])) ∧ (ns =
    (g.members.filter (fun m => !ms.any (fun d => d.1 == m.1))).map (fun m => (m.1, gn)))) ∧
  (∃ (src : CmdSrc) (e : Entry) (s : State) (b : State) (g : Group) (o : Group) (on : Nat), (Taken 0x46 src e s) ∧ (b = begun src
    e s) ∧ (stepAt s (chOf s src e) (cmdOf s src e).pos ≤ (chanAt s (chOf s src e)).trn.recorded + 1) ∧ ((resh (chOf s src e)
    s).active = false) ∧ (roleGroup s (chOf s src e) 0 = some (on, o)) ∧ (o.aborted = false) ∧ (o.fenced = false) ∧ ((setAt b
    (chOf s src e) (bits e.a0 3 0)).valid = true) ∧ (chanPinned b (chOf s src e) = false) ∧ (bit e.a0 4 = true) ∧ (g = groupAt b
    (bits e.a0 14 5))) :=
  ⟨⟨.ring 0, { w0 := 0x142, a0 := 0x10000, a2 := 64 },
     { setS { w0 := 0x142, a0 := 0x10000, a2 := 64 } {} with links := { groups := [(0, { live := true, role := 4, extent := 2, members := [(0, false), (1, false)] })] } },
     _, _, _, _, _, by decide +kernel, by decide +kernel, by unfold GoNow; decide +kernel, rfl, rfl, rfl, by decide +kernel,
     by decide +kernel, by decide +kernel, by decide +kernel, by decide +kernel, eq_tup3 (by decide +kernel)⟩,
   ⟨.ring 0, { w0 := 0x142, a0 := 0x10400, a2 := 64 },
     { setS { w0 := 0x142, a0 := 0x10400, a2 := 64 } {} with links := { groups := [(0, { live := true, role := 4, extent := 2, members := [(0, false), (1, false)] })] } },
     _, _, by decide +kernel, rfl, by decide +kernel, rfl, by decide +kernel, by decide +kernel, by decide +kernel,
     by decide +kernel, by decide +kernel⟩,
   ⟨.ring 0, { w0 := 0x143, a0 := 0x400, a1 := 1, a3 := 64 },
     { setS { w0 := 0x143, a0 := 0x400, a1 := 1, a3 := 64 } {} with links := { groups := [(0, { live := true, role := 4, extent := 2, members := [(0, false), (1, false)] })] } },
     _, _, by decide +kernel, rfl, by decide +kernel, rfl, by decide +kernel, by decide +kernel⟩,
   ⟨.ring 0, { w0 := 0x144, a0 := 0x400, a1 := 1, a3 := 64 },
     { setS { w0 := 0x144, a0 := 0x400, a1 := 1, a3 := 64 } {} with links := { groups := [(0, { live := true, role := 4, extent := 2, members := [(0, false), (1, false)] })] } },
     _, _, by decide +kernel, rfl, by decide +kernel, rfl, by decide +kernel, by decide +kernel⟩,
   ⟨.ring 0, { w0 := 0x145 },
     { setS { w0 := 0x145 } {} with links := { groups := [(0, { live := true, role := 4, extent := 2, members := [(0, false), (1, false)] })] } },
     _, by decide +kernel, rfl, by decide +kernel, by decide +kernel⟩,
   ⟨.ring 0, { w0 := 0x145 },
     { setS { w0 := 0x145 } {} with links := { groups := [(0, { live := true, role := 4, extent := 1, members := [(0, false)] })] } },
     _, by decide +kernel, rfl, by decide +kernel, by decide +kernel⟩,
   ⟨_, _, .ring 0, { w0 := 0x142 }, setS { w0 := 0x142 } {}, .head _, by decide +kernel⟩,
   ⟨.ring 0, { w0 := 0x146 },
     { setS { w0 := 0x146 } {} with links := { groups := [(0, { live := true, role := 4, extent := 2, members := [(0, false), (1, false)] })] } },
     _, _, _, _, _, _, by decide +kernel, rfl, by decide +kernel, by decide +kernel, rfl, opt_all (by decide +kernel), rfl, rfl,
     by decide +kernel, by decide +kernel, by decide +kernel, by decide +kernel, by decide +kernel, rfl, rfl⟩,
   ⟨.ring 0, { w0 := 0x146, a0 := 16 },
     { setS { w0 := 0x146, a0 := 16 } {} with links := { groups := [(0, { live := true, role := 0, extent := 2, members := [(0, false), (1, false)] })] } },
     _, _, _, _, by decide +kernel, rfl, by decide +kernel, by decide +kernel, eq_some (by decide +kernel), by decide +kernel,
     by decide +kernel, by decide +kernel, by decide +kernel, by decide +kernel, rfl⟩⟩

/-- The hypotheses of MessagesAreServed can be met. -/
theorem test_hypotheses_MessagesAreServed :
  (∃ (m : Msg) (s : State) (t : State) (u : State) (bs : List Byte), (m.kind = 0x10) ∧ (PeerGoes s m false m.length) ∧ (u =
    peerIn s m false m.length) ∧ (objRead (portAgent u m (peerDead s m false m.length)) m.obj m.offset m.length (takeMsg m u) =
    (t, bs, 0))) ∧
  (∃ (m : Msg) (st : Nat) (cause : Nat) (s : State), (m.kind = 0x10) ∧ (msgTurn s m = true) ∧ (remoteStatus s m false m.length =
    some (st, cause))) ∧
  (∃ (m : Msg) (s : State) (t : State) (u : State), (m.kind = 0x11) ∧ (m.fail = 0) ∧ (PeerGoes s m true m.data.length) ∧ (u =
    peerIn s m true m.data.length) ∧ ((∀ r ∈ writeRuns u (objAt u m.obj) m.offset m.data.length, homeDown u (keyHome r.1) =
    false)) ∧ (objWrite (portAgent u m (peerDead s m true m.data.length)) m.obj m.offset m.data (takeMsg m u) = (t, false))) ∧
  (∃ (m : Msg) (s : State), (m.kind = 0x11) ∧ (m.fail = 0) ∧ (msgTurn s m = true) ∧ (remoteStatus s m true m.data.length = none)
    ∧ (accessStuck (keepMsg m s) (portAgent s m []).req (peerAccess s m true m.data.length) = none) ∧ ((∀ e ∈ requests (keepMsg m
    s) (peerWho s m) (some (groupAt s m.group).ch) [peerAccess s m true m.data.length], ∀ x ∈ engineOf (keepMsg m s) e.1,
    sameEntry e.2 x = false)) ∧ (rangeBusy s m.obj m.offset m.data.length = true)) ∧
  (∃ (m : Msg) (st : Nat) (cause : Nat) (s : State), (m.kind = 0x11) ∧ (msgTurn s m = true) ∧ (remoteStatus s m true
    m.data.length = some (st, cause))) ∧
  (∃ (m : Msg) (s : State), (m.kind = 0x01) ∧ ((groupAt s m.group).live = true) ∧ ((∀ q ∈ s.links.inbox, q.m.group = m.group →
    kindVc q.m.kind ≠ 1))) ∧
  (∃ (m : Msg) (s : State), (m.kind = 0x02) ∧ ((groupAt s m.group).live = true)) ∧
  (∃ (m : Msg) (t : TxMsg) (p : Nat) (pos : Nat) (b : List Byte) (s : State), (m.kind = 0x06) ∧ (pos = leValue (m.data.take 4)) ∧
    ((List.range 6).findSome? (fun p => if (portAt (takeMsg m s) p).peerId = m.src then ((portAt (takeMsg m s)
    p).huskSent.reverse.find? (fun t => t.m.tag == m.tag && t.m.group == m.group && t.m.epoch == m.epoch && t.m.offset ==
    m.offset && t.m.obj == m.obj && decide (firstBlock t.m ≤ pos) && decide (4096 * (pos - firstBlock t.m) <
    t.m.data.length))).map (fun q => (p, q)) else none) = some (p, t)) ∧ (b = (t.m.data.drop (4096 * (pos - firstBlock
    t.m))).take 4096)) ∧
  (∃ (m : Msg) (s : State), (m.kind = 0x20) ∧ (msgTurn s m = true) ∧ (m.gen = sliceGen (takeMsg m s) (routeOf (takeMsg m s)
    m.src))) ∧
  (∃ (m : Msg) (s : State), (m.kind = 0x20) ∧ (msgTurn s m = true) ∧ (m.gen ≠ sliceGen (takeMsg m s) (routeOf (takeMsg m s)
    m.src))) ∧
  (∃ (m : Msg) (y : Coll) (s : State) (t : State) (u : State) (l : List Access) (bs : List Byte), (m.kind = 0x31) ∧ (GroupTakes
    (groupAt s m.group) m) ∧ ((groupAt s m.group).colls.find? (fun y => y.kind == 4 && y.id == m.tag && memberId (groupAt s
    m.group) y.root == m.src) = some y) ∧ (l = [{ obj := y.obj, off := y.offset, n := y.len }]) ∧ (GoNow (keepMsg m s) (sliceOf s
    m.src) (some y.ch) 140 l) ∧ (u = admitted (keepMsg m s) (sliceOf s m.src) (some y.ch) l) ∧ (objRead (collAgent y.ch (silent
    (keepMsg m s) (sliceOf s m.src) (some y.ch) l)) y.obj y.offset y.len (takeMsg m u) = (t, bs, 0))) ∧
  (∃ (m : Msg) (i : Nat) (y : Coll) (s : State) (g : Group), (m.kind = 0x32) ∧ (g = groupAt s m.group) ∧ (GroupTakes g m) ∧
    (indexOfDev g m.src = some i) ∧ (g.colls.find? (fun y => y.kind == 6 && !y.got.any (fun e => some e.1 == indexOfDev g m.src))
    = some y)) ∧
  (∃ (i : Instr) (k : Nat) (m : Msg) (s : State) (g : Group), ((i, k) ∈ [(.chunk m, 0x30), (.cts m, 0x31), (.barrier m, 0x32)]) ∧
    (m.kind = k) ∧ (g = groupAt s m.group) ∧ (g.live = true) ∧ (g.epoch ≠ m.epoch)) ∧
  (∃ (m : Msg) (s : State) (g : Group) (f : Msg → State → State), (m.kind = 0x30) ∧ (g = groupAt s m.group) ∧ (GroupTakes g m) ∧
    ((m.obj, f) ∈ ([(0, gatherChunk), (1, rsChunk), (2, normChunk), (3, rangeChunk), (4, rangeChunk), (5, versionChunk), (7,
    reshChunk)] : List (Nat × (Msg → State → State))))) ∧
  (∃ (m : Msg) (r : Remote) (s : State) (t : State), (m.kind = 0x21) ∧ (msgTurn s m = true) ∧ (m.gen = sliceGen s (some r.port))
    ∧ (s.links.remote.find? (fun r => r.tag == m.tag) = some r) ∧ (t = modLinks (takeMsg m s) (fun l =>
    { l with remote := l.remote.filter (fun q => q.tag != m.tag) }))) ∧
  (∃ (m : Msg) (r : Remote) (s : State), (m.kind = 0x22) ∧ (msgTurn s m = true) ∧ (m.gen = sliceGen s (some r.port)) ∧
    (s.links.remote.find? (fun r => r.tag == m.tag) = some r)) :=
  ⟨⟨{ kind := 0x10, src := 1, obj := 1, length := 64 },
     { setS {} {} with links := { groups := [(0, { live := true, role := 4, extent := 2, members := [(0, false), (1, false)] })] } },
     _, _, _, by decide +kernel, ⟨by decide +kernel, by decide +kernel, by unfold GoNow; decide +kernel⟩, rfl, eq_tup3
     (by decide +kernel)⟩,
   ⟨{ kind := 0x10, src := 1, obj := 1, length := 65537 }, ST_NO_ACCESS, 0,
     { setS {} {} with links := { groups := [(0, { live := true, role := 4, extent := 2, members := [(0, false), (1, false)] })] } },
     by decide +kernel, by decide +kernel, by decide +kernel⟩,
   ⟨{ kind := 0x11, src := 1, obj := 1, length := 64, data := List.replicate 64 1 },
     { setS {} {} with links := { groups := [(0, { live := true, role := 4, extent := 2, members := [(0, false), (1, false)] })] } },
     _, _, by decide +kernel, by decide +kernel, ⟨by decide +kernel, by decide +kernel, by unfold GoNow; decide +kernel⟩, rfl,
     by decide +kernel, eq_tup2 (by decide +kernel)⟩,
   ⟨{ kind := 0x11, src := 1, obj := 1, length := 64, data := List.replicate 64 1 },
     { { setS {} {} with links := { groups := [(0, { live := true, role := 4, extent := 2, members := [(0, false), (1, false)] })] } } with grans := [(0, { homeTier := 1, busy := true })] },
     by decide +kernel, by decide +kernel, by decide +kernel, by decide +kernel, by decide +kernel, by decide +kernel,
     by decide +kernel⟩,
   ⟨{ kind := 0x11, src := 1, obj := 9, length := 64, data := List.replicate 64 1 }, ST_NO_ACCESS, 2,
     { setS {} {} with links := { groups := [(0, { live := true, role := 4, extent := 2, members := [(0, false), (1, false)] })] } },
     by decide +kernel, by decide +kernel, by decide +kernel⟩,
   ⟨{ kind := 1, src := 1 },
     { setS {} {} with links := { groups := [(0, { live := true, role := 4, extent := 2, members := [(0, false), (1, false)] })] } },
     by decide +kernel, by decide +kernel, by decide +kernel⟩,
   ⟨{ kind := 2, src := 1 },
     { setS {} {} with links := { groups := [(0, { live := true, role := 4, extent := 2, members := [(0, false), (1, false)] })] } },
     by decide +kernel, by decide +kernel⟩,
   ⟨{ kind := 6, src := 1, tag := 3 }, { m := { tag := 3, data := [7] } }, 0, _, _,
     { setS {} {} with links := { groups := [(0, { live := true, role := 4, extent := 2, members := [(0, false), (1, false)] })], ports := [{ peerId := 1, huskSent := [{ m := { tag := 3, data := [7] } }] }] } },
     by decide +kernel, rfl, by decide +kernel, rfl⟩,
   ⟨{ kind := 0x20, src := 1 },
     { setS {} {} with links := { groups := [(0, { live := true, role := 4, extent := 2, members := [(0, false), (1, false)] })] } },
     by decide +kernel, by decide +kernel, by decide +kernel⟩,
   ⟨{ kind := 0x20, src := 1, gen := 1 },
     { setS {} {} with links := { groups := [(0, { live := true, role := 4, extent := 2, members := [(0, false), (1, false)] })] } },
     by decide +kernel, by decide +kernel, by decide +kernel⟩,
   ⟨{ kind := 0x31, src := 1 }, _,
     { setS {} {} with links := { groups := [(0, { live := true, role := 4, extent := 2, members := [(0, false), (1, false)], colls := [{ kind := 4, obj := 1, len := 64, root := 1 }] })] } },
     _, _, _, _, by decide +kernel, by decide +kernel, eq_some (by decide +kernel), rfl, by unfold GoNow; decide +kernel, rfl,
     eq_tup3 (by decide +kernel)⟩,
   ⟨{ kind := 0x32, src := 1 }, _, _,
     { setS {} {} with links := { groups := [(0, { live := true, role := 4, extent := 2, members := [(0, false), (1, false)], colls := [{ kind := 6 }] })] } },
     _, by decide +kernel, rfl, by decide +kernel, eq_some (by decide +kernel), eq_some (by decide +kernel)⟩,
   ⟨_, _, { kind := 0x30, epoch := 1 },
     { setS {} {} with links := { groups := [(0, { live := true, role := 4, extent := 2, members := [(0, false), (1, false)] })] } },
     _, .head _, by decide +kernel, rfl, by decide +kernel, by decide +kernel⟩,
   ⟨{ kind := 0x30 },
     { setS {} {} with links := { groups := [(0, { live := true, role := 4, extent := 2, members := [(0, false), (1, false)] })] } },
     _, _, by decide +kernel, rfl, by decide +kernel, .head _⟩,
   ⟨{ kind := 0x21, tag := 2 }, { tag := 2, port := 0 },
     { setS {} {} with links := { groups := [(0, { live := true, role := 4, extent := 2, members := [(0, false), (1, false)] })], remote := [{ tag := 2, port := 0 }] } },
     _, by decide +kernel, by decide +kernel, by decide +kernel, by decide +kernel, rfl⟩,
   ⟨{ kind := 0x22, tag := 2 }, { tag := 2, port := 0 },
     { setS {} {} with links := { groups := [(0, { live := true, role := 4, extent := 2, members := [(0, false), (1, false)] })], remote := [{ tag := 2, port := 0 }] } },
     by decide +kernel, by decide +kernel, by decide +kernel, by decide +kernel⟩⟩

/-- The hypotheses of ModulesRejoin can be met. -/
theorem test_hypotheses_ModulesRejoin :
  (∃ (gn : Nat) (i : Nat) (y : Coll) (s : State), (gn < 1024) ∧ ((groupAt s gn).colls[i]? = some y) ∧ (y.kind ≠ 7)) ∧
  (∃ (gn : Nat) (i : Nat) (r : Remote) (s : State), (gn < 1024) ∧ ((groupAt s gn).colls[i]? = none) ∧ ((s.links.remote.filter
    (fun r => r.group == gn))[i - (groupAt s gn).colls.length]? = some r)) ∧
  (∃ (m : Msg) (s : State) (g : Group), (m.kind = 3) ∧ (g = groupAt s m.group) ∧ (g.live = true) ∧ (g.role = 3) ∧ (m.epoch =
    g.epoch) ∧ (leAt m.data 0 8 = attemptOf (chanAt s g.ch))) ∧
  (∃ (m : Msg) (s : State) (g : Group), (m.kind = 3) ∧ (g = groupAt s m.group) ∧ (g.live = true) ∧ (g.role = 3) ∧ (m.epoch =
    g.epoch) ∧ (leAt m.data 0 8 < attemptOf (chanAt s g.ch))) ∧
  (∃ (m : Msg) (s : State) (u : State) (g : Group), (m.kind = 4) ∧ ((groupAt s m.group).live = true) ∧ (u = modGroup (offerEpoch
    m.group m.epoch s) m.group (fun g => { g with rejoined := g.aborted })) ∧ (g = groupAt u m.group) ∧ (m.epoch = g.epoch) ∧
    (rjDecided (rjWords m.data) = true) ∧ (g.role = 3) ∧ (g.decided ≠ g.epoch + 1)) ∧
  (∃ (m : Msg) (s : State) (u : State) (g : Group), (m.kind = 4) ∧ ((groupAt s m.group).live = true) ∧ (u = modGroup (offerEpoch
    m.group m.epoch s) m.group (fun g => { g with rejoined := g.aborted })) ∧ (g = groupAt u m.group) ∧ (m.epoch = g.epoch) ∧
    (rjDecided (rjWords m.data) = true) ∧ (g.role = 3) ∧ (g.decided = g.epoch + 1)) ∧
  (∃ (m : Msg) (s : State) (u : State) (v : State) (g : Group), (m.kind = 4) ∧ ((groupAt s m.group).live = true) ∧ (u = modGroup
    (offerEpoch m.group m.epoch s) m.group (fun g => { g with rejoined := g.aborted })) ∧ (g = groupAt u m.group) ∧ (m.epoch =
    g.epoch) ∧ (rjDecided (rjWords m.data) = false) ∧ (rejoinBlocked u g.ch = false) ∧ (g.role = 3) ∧ (v = setEv .abl
    Reg.ABL_EVENT Bit.ABL_EVENT_REJOIN_RX (takeMsg m u))) ∧
  (∃ (m : Msg) (s : State) (g : Group), (m.kind = 5) ∧ (g = groupAt s m.group) ∧ (g.live = true) ∧ (g.rejoining = true) ∧
    (g.epoch = m.epoch)) ∧
  (∃ (gn : Nat) (s : State), (gn < 1024) ∧ ((groupAt s gn).live = true) ∧ ((groupAt s gn).aborted = true) ∧ ((groupAt s
    gn).rejoining = false)) ∧
  (∃ (gn : Nat) (s : State), (gn < 1024) ∧ ((groupAt s gn).live = true) ∧ ((groupAt s gn).rejoining = true)) ∧
  (∃ (m : Msg) (s : State), (m.kind = 7) ∧ ((groupAt s m.group).live = true) ∧ (reshMine m s = true)) ∧
  (∃ (m : Msg) (s : State), (m.kind = 8) ∧ ((groupAt s m.group).live = true) ∧ (reshMine m s = true)) ∧
  (∃ (i : Instr) (k : Nat) (m : Msg) (s : State), ((i, k) ∈ [(.plan m, 7), (.reshardReady m, 8)]) ∧ (m.kind = k) ∧ ((groupAt s
    m.group).live = true) ∧ (reshMine m s = false)) :=
  ⟨⟨0, 0, { kind := 5 },
     { setS {} {} with links := { groups := [(0, { live := true, role := 3, members := [(0, false), (1, false)], colls := [{ kind := 5 }] })] } },
     by decide +kernel, by decide +kernel, by decide +kernel⟩,
   ⟨0, 1, { tag := 2 },
     { setS {} {} with links := { groups := [(0, { live := true, role := 3, members := [(0, false), (1, false)], colls := [{ kind := 5 }] })], remote := [{ tag := 2 }] } },
     by decide +kernel, by decide +kernel, by decide +kernel⟩,
   ⟨{ kind := 3, src := 1, data := [1, 0, 0, 0, 0, 0, 0, 0] },
     { setS {} {} with links := { groups := [(0, { live := true, role := 3, members := [(0, false), (1, false)] })] } }, _,
     by decide +kernel, rfl, by decide +kernel, by decide +kernel, by decide +kernel, by decide +kernel⟩,
   ⟨{ kind := 3, src := 1 },
     { setS {} {} with links := { groups := [(0, { live := true, role := 3, members := [(0, false), (1, false)] })] } }, _,
     by decide +kernel, rfl, by decide +kernel, by decide +kernel, by decide +kernel, by decide +kernel⟩,
   ⟨{ kind := 4, src := 1, data := (List.replicate 16 0 ++ [2]) },
     { setS {} {} with links := { groups := [(0, { live := true, role := 3, members := [(0, false), (1, false)] })] } }, _, _,
     by decide +kernel, by decide +kernel, rfl, rfl, by decide +kernel, by decide +kernel, by decide +kernel, by decide +kernel⟩,
   ⟨{ kind := 4, src := 1, data := (List.replicate 16 0 ++ [2]) },
     { setS {} {} with links := { groups := [(0, { live := true, role := 3, members := [(0, false), (1, false)], decided := 1 })] } },
     _, _, by decide +kernel, by decide +kernel, rfl, rfl, by decide +kernel, by decide +kernel, by decide +kernel,
     by decide +kernel⟩,
   ⟨{ kind := 4, src := 1 },
     { setS {} {} with links := { groups := [(0, { live := true, role := 3, members := [(0, false), (1, false)] })] } }, _, _, _,
     by decide +kernel, by decide +kernel, rfl, rfl, by decide +kernel, by decide +kernel, by decide +kernel, by decide +kernel,
     rfl⟩,
   ⟨{ kind := 5, src := 1 },
     { setS {} {} with links := { groups := [(0, { live := true, role := 3, members := [(0, false), (1, false)], rejoining := true })] } },
     _, by decide +kernel, rfl, by decide +kernel, by decide +kernel, by decide +kernel⟩,
   ⟨0,
     { setS {} {} with links := { groups := [(0, { live := true, role := 3, members := [(0, false), (1, false)], aborted := true })] } },
     by decide +kernel, by decide +kernel, by decide +kernel, by decide +kernel⟩,
   ⟨0,
     { setS {} {} with links := { groups := [(0, { live := true, role := 3, members := [(0, false), (1, false)], rejoining := true })] } },
     by decide +kernel, by decide +kernel, by decide +kernel⟩,
   ⟨{ kind := 7, src := 1 },
     { setS {} {} with links := { groups := [(0, { live := true, role := 3, members := [(0, false), (1, false)] })], reshards := [(0, { active := true, members := [(0, 0), (1, 0)] })] } },
     by decide +kernel, by decide +kernel, by decide +kernel⟩,
   ⟨{ kind := 8, src := 1 },
     { setS {} {} with links := { groups := [(0, { live := true, role := 3, members := [(0, false), (1, false)] })], reshards := [(0, { active := true, members := [(0, 0), (1, 0)] })] } },
     by decide +kernel, by decide +kernel, by decide +kernel⟩,
   ⟨_, _, { kind := 7, src := 1 },
     { setS {} {} with links := { groups := [(0, { live := true, role := 3, members := [(0, false), (1, false)] })] } }, .head _,
     by decide +kernel, by decide +kernel, by decide +kernel⟩⟩

/-- The hypotheses of HomesServeTheirParts can be met. -/
theorem test_hypotheses_HomesServeTheirParts :
  (∃ (i : Nat) (t : Nat) (rid : Nat) (sec : Nat) (errs : List (Nat × List (Nat × Nat))) (s : State) (u : State), (i < 16) ∧ (u =
    plantErrs i errs (cntAdd (.yst i) Reg.YST_CNT_CE_DIE sec s)) ∧ (mayServe u i t rid = true) ∧ (isAccum u t rid = false)) ∧
  (∃ (d : Nat) (t : Nat) (rid : Nat) (errs : PartErrs) (s : State) (u : State), (d < 32) ∧ (u = errs.map.foldl (fun s l =>
    mapParity (16 + d) l s) (plantErrs (16 + d) errs.syms s)) ∧ (mayServe u (16 + d) t rid = true) ∧ (isAccum u t rid = false)) ∧
  (∃ (i : Nat) (ch : Nat) (bank : Nat) (us : Nat) (s : State), (i < 48) ∧ (0 < pendingCount s i (bankOf ch bank)) ∧ ((i < 16 →
    (stackAt s i).thermal = false)) ∧ (slowRaised s i (bankOf ch bank) = false)) ∧
  (∃ (i : Nat) (ch : Nat) (bank : Nat) (us : Nat) (s : State), (i < 48) ∧ (slowRaised s i (bankOf ch bank) = true)) ∧
  (∃ (i : Nat) (ch : Nat) (bank : Nat) (us : Nat) (s : State), (i < 16) ∧ (0 < pendingCount s i (bankOf ch bank)) ∧ ((stackAt s
    i).thermal = false)) ∧
  (∃ (i : Nat) (ch : Nat) (bank : Nat) (us : Nat) (s : State), (i < 16) ∧ ((stackAt s i).thermal = true)) ∧
  (∃ (d : Nat) (sub : Nat) (rank : Nat) (bank : Nat) (us : Nat) (s : State), (d < 32) ∧ (0 < pendingCount s (16 + d) (bankOf sub
    (rank * 16 + bank)))) ∧
  (∃ (i : Nat) (die : Nat) (n : Nat) (e : Word) (s : State), (i < 16) ∧ (die < 16) ∧ (bit (rd s (.yst i) Reg.YST_CTRL) 12 = true)
    ∧ (n = smGet (fun _ => 0) (stackAt s i).dieCe die) ∧ (e = rd s (.yst i) Reg.YST_DIE_ERASE) ∧ (bit e die = false)) ∧
  (∃ (i : Nat) (sec : Nat) (n : Nat) (err : List (Nat × Nat)) (s : State) (u : State), (i < 16) ∧ (bits (rd s (.yst i)
    Reg.YST_CTRL) 7 0 ≠ 0) ∧ (homeDown s i = false) ∧ (n = (stackAt s i).scrubPos) ∧ (u = eccScan (physKey i (n / 64) (n % 64 *
    64)) 64 (plantErrs i [(physKey i (n / 64) (n % 64 * 64) / 64, err)] s))) ∧
  (∃ (d : Nat) (sec : Nat) (n : Nat) (err : List (Nat × Nat)) (s : State) (u : State), (d < 32) ∧ (bits (rd s (.dtr d)
    Reg.DTR_CTRL) 7 0 ≠ 0) ∧ (homeDown s (16 + d) = false) ∧ (n = (deepAt s d).scrubPos) ∧ (u = eccScan (physKey (16 + d) (n /
    64) (n % 64 * 64)) 64 (plantErrs (16 + d) [(physKey (16 + d) (n / 64) (n % 64 * 64) / 64, err)] s))) :=
  ⟨⟨15, 0, 5, 0, [],
     { tillS { aTiller 0 with reqs := [{ rid := 5, kind := 0, obj := 1, fmt := 1, sent := true, parts := [{ home := 15, blocks := [(0, 0)], st := 1 }] }] } with stackMap := [(15, { pool := [(0, 5)] })] },
     _, by decide +kernel, rfl, by decide +kernel, by decide +kernel⟩,
   ⟨31, 0, 5, {},
     { tillS { aTiller 0 with reqs := [{ rid := 5, kind := 0, obj := 1, fmt := 1, sent := true, parts := [{ home := 47, blocks := [(0, 0)], st := 1 }] }] } with deeps := [(31, { pool := [(0, 5)] })] },
     _, by decide +kernel, rfl, by decide +kernel, by decide +kernel⟩,
   ⟨0, 0, 0, 0,
     { tillS { aTiller 0 with reqs := [{ rid := 5, kind := 0, obj := 1, fmt := 1, sent := true, parts := [{ home := 0, blocks := [(0, 0)], st := 1 }] }] } with stackMap := [(0, { pool := [(0, 5)] })] },
     by decide +kernel, by decide +kernel, by decide +kernel, by decide +kernel⟩,
   ⟨0, 0, 0, 0,
     { tillS { aTiller 0 with reqs := [{ rid := 5, kind := 0, obj := 1, fmt := 1, sent := true, parts := [{ home := 0, blocks := [(0, 0)], st := 1 }] }] } with stackMap := [(0, { pool := [(0, 5)], slow := [0] })] },
     by decide +kernel, by decide +kernel⟩,
   ⟨0, 0, 0, 0,
     { tillS { aTiller 0 with reqs := [{ rid := 5, kind := 0, obj := 1, fmt := 1, sent := true, parts := [{ home := 0, blocks := [(0, 0)], st := 1 }] }] } with stackMap := [(0, { pool := [(0, 5)] })] },
     by decide +kernel, by decide +kernel, by decide +kernel⟩,
   ⟨0, 0, 0, 0,
     { tillS { aTiller 0 with reqs := [{ rid := 5, kind := 0, obj := 1, fmt := 1, sent := true, parts := [{ home := 0, blocks := [(0, 0)], st := 1 }] }] } with stackMap := [(0, { pool := [(0, 5)], thermal := true })] },
     by decide +kernel, by decide +kernel⟩,
   ⟨0, 0, 0, 0, 0,
     { tillS { aTiller 0 with reqs := [{ rid := 5, kind := 0, obj := 1, fmt := 1, sent := true, parts := [{ home := 16, blocks := [(0, 0)], st := 1 }] }] } with deeps := [(0, { pool := [(0, 5)] })] },
     by decide +kernel, by decide +kernel⟩,
   ⟨15, 15, _, _, { up with regs := [(blkBase (.yst 15) + Reg.YST_CTRL, 0x1000)] }, by decide +kernel, by decide +kernel,
     by decide +kernel, rfl, rfl, by decide +kernel⟩,
   ⟨0, 0, _, [(3, 7)], up, _, by decide +kernel, by decide +kernel, by decide +kernel, rfl, rfl⟩,
   ⟨31, 0, _, [], up, _, by decide +kernel, by decide +kernel, by decide +kernel, rfl, rfl⟩⟩

/-- The hypotheses of HomesRefreshAndCool can be met. -/
theorem test_hypotheses_HomesRefreshAndCool :
  (∃ (i : Nat) (ch : Nat) (bank : Nat) (n : Nat) (s : State), (i < 48) ∧ (n = bankOf ch bank)) ∧
  (∃ (i : Nat) (ch : Nat) (bank : Nat) (s : State), (i < 48) ∧ (8 ≤ refreshDebt s i (bankOf ch bank))) ∧
  (∃ (i : Nat) (m : Nat) (l : List Nat) (s : State), (i < 16) ∧ (l.length = 16) ∧ (m ∈ l) ∧ ((∀ x ∈ l, x ≤ m)) ∧ (m < 100)) ∧
  (∃ (i : Nat) (m : Nat) (l : List Nat) (s : State), (i < 16) ∧ (l.length = 16) ∧ (m ∈ l) ∧ ((∀ x ∈ l, x ≤ m)) ∧ (100 ≤ m)) ∧
  (∃ (i : Nat) (s : State), (i < 16) ∧ ((stackAt s i).thermal = true) ∧ ((stackAt s i).tempMax < 93)) ∧
  (∃ (d : Nat) (m : Nat) (s : State), (d < 32) ∧ (m < 105)) ∧
  (∃ (d : Nat) (m : Nat) (s : State), (d < 32) ∧ (105 ≤ m)) ∧
  (∃ (d : Nat) (s : State), (d < 32) ∧ ((deepAt s d).thermal = true) ∧ ((deepAt s d).temp < 93)) :=
  ⟨⟨47, 31, 31, _, up, by decide +kernel, rfl⟩,
   ⟨0, 31, 31, { up with stackMap := [(0, { refreshDebt := [(1023, 8)] })] }, by decide +kernel, by decide +kernel⟩,
   ⟨15, 99, 99 :: List.replicate 15 0, up, by decide +kernel, by decide +kernel, by decide +kernel, by decide +kernel,
     by decide +kernel⟩,
   ⟨15, 100, 100 :: List.replicate 15 0, up, by decide +kernel, by decide +kernel, by decide +kernel, by decide +kernel,
     by decide +kernel⟩,
   ⟨0, { up with stackMap := [(0, { thermal := true, tempMax := 92 })] }, by decide +kernel, by decide +kernel,
     by decide +kernel⟩,
   ⟨31, 104, up, by decide +kernel, by decide +kernel⟩,
   ⟨0, 105, up, by decide +kernel, by decide +kernel⟩,
   ⟨0, { up with deeps := [(0, { thermal := true, temp := 92 })] }, by decide +kernel, by decide +kernel, by decide +kernel⟩⟩

/-- The hypotheses of UpdatesAndSheavesProceed can be met. -/
theorem test_hypotheses_UpdatesAndSheavesProceed :
  (∃ (i : Nat) (t : Nat) (rid : Nat) (tb : Nat) (tile : Nat) (off : Nat) (s : State) (q : MemReq) (p : Part) (f : Sheaf), (i <
    16) ∧ ((tillerAt s t).reqs.find? (fun q => q.rid == rid && q.kind == 3) = some q) ∧ (partAt q i = some p) ∧ (p.st = 1) ∧
    (mayServe s i t rid = true) ∧ (sheafOf s q.ch q.sheaf = some f) ∧ (off = dOffset (q.d0, q.d1, q.d2, q.d3)) ∧ (tb = sheafBytes
    f) ∧ (tile = (off - f.accOffset) / tb) ∧ (q.obj = f.accObj) ∧ (f.accOffset ≤ off) ∧ (off % tb = 0) ∧ (tile < f.tiles) ∧
    ((groupTile (setAt s q.ch f.set).tensors 0 (f.firstTile + tile)).isSome = true) ∧ (f.firstMb ≤ q.mb) ∧ (q.mb < f.firstMb +
    f.mbCount) ∧ (q.source < f.ns)) ∧
  (∃ (i : Nat) (t : Nat) (rid : Nat) (s : State) (q : MemReq) (p : Part), (i < 16) ∧ ((tillerAt s t).reqs.find? (fun q => q.rid
    == rid && q.kind == 3) = some q) ∧ (partAt q i = some p) ∧ (p.st = 1) ∧ (mayServe s i t rid = true) ∧ (sheafOf s q.ch q.sheaf
    = none)) ∧
  (∃ (i : Nat) (t : Nat) (rid : Nat) (q : MemReq) (p : Part) (s : State), (i < 16) ∧ (q ∈ (tillerAt s t).reqs) ∧ (q.rid = rid) ∧
    (q.landed = true) ∧ (p ∈ q.parts) ∧ (p.home = i) ∧ (p.st = 3)) ∧
  (∃ (i : Nat) (q : QueuedItem) (l : List QueuedItem) (s : State) (u : State), (i < 16) ∧ ((stackAt s i).run = none) ∧ ((stackAt
    s i).updQueue = q :: l) ∧ (updRuns s i (itemRead q) = true) ∧ (u = modStack s i takeItem)) ∧
  (∃ (i : Nat) (r : UpdRun) (s : State), (i < 16) ∧ ((stackAt s i).run = some r) ∧ (updRuns s i r.item = true)) ∧
  (∃ (c : Nat) (set_ : Nat) (tensor : Nat) (st : Nat) (n : Nat) (r : UpdRun) (m : F32) (a : F32) (s : State) (u : State) (v :
    State) (l : List (Nat × Nat × Nat × F32)), (c < 4096) ∧ ((List.range 16).find? (fun st => (stackAt s st).run.any (fun r =>
    r.item.ch == c && r.item.set == set_ && r.item.idx == tensor && r.phase == 3 && !r.reported && updRuns s st r.item)) = some
    st) ∧ ((stackAt s st).run = some r) ∧ (itemAmax st r.item s = (u, true, a)) ∧ (v = modRun st (fun r =>
    { r with reported := true }) u) ∧ (l = (chanAt v c).trn.scaleReports.filter (fun e => !(e.1 == set_ && e.2.1 == tensor))) ∧
    (((chanAt v c).trn.scaleReports.find? (fun e => e.1 == set_ && e.2.1 == tensor)).getD (set_, tensor, 0, 0) = (set_, tensor,
    n, m))) ∧
  (∃ (i : Nat) (r : UpdRun) (s : State), (i < 16) ∧ ((stackAt s i).run = some r) ∧ (r.phase = 3) ∧ (r.scale.isSome = true) ∧
    (updRuns s i r.item = true)) :=
  ⟨⟨0, 0, 5, _, _, _,
     { { tillS { aTiller 0 with reqs := [{ rid := 5, kind := 3, obj := 1, fmt := 1, sent := true, parts := [{ home := 0, blocks := [(0, 0)], st := 1 }] }] } with chans := [(0, { liveChan with trn := { sheaves := [{ tiles := 4, accObj := 1, mbCount := 1 }], sets := [aSet] } })] } with stackMap := [(0, { pool := [(0, 5)] })] },
     { rid := 5, kind := 3, obj := 1, fmt := 1, sent := true, parts := [{ home := 0, blocks := [(0, 0)], st := 1 }] },
     { home := 0, blocks := [(0, 0)], st := 1 }, { tiles := 4, accObj := 1, mbCount := 1 }, by decide +kernel, by decide +kernel,
     by decide +kernel, by decide +kernel, by decide +kernel, by decide +kernel, rfl, rfl, rfl, by decide +kernel,
     by decide +kernel, by decide +kernel, by decide +kernel, by decide +kernel, by decide +kernel, by decide +kernel,
     by decide +kernel⟩,
   ⟨0, 0, 5,
     { { tillS { aTiller 0 with reqs := [{ rid := 5, kind := 3, obj := 1, fmt := 1, sent := true, parts := [{ home := 0, blocks := [(0, 0)], st := 1 }] }] } with chans := [(0, { liveChan with trn := { sheaves := [], sets := [aSet] } })] } with stackMap := [(0, { pool := [(0, 5)] })] },
     { rid := 5, kind := 3, obj := 1, fmt := 1, sent := true, parts := [{ home := 0, blocks := [(0, 0)], st := 1 }] },
     { home := 0, blocks := [(0, 0)], st := 1 }, by decide +kernel, by decide +kernel, by decide +kernel, by decide +kernel,
     by decide +kernel, by decide +kernel⟩,
   ⟨0, 0, 5, { rid := 5, kind := 3, landed := true, parts := [{ home := 0, st := 3 }] }, { home := 0, st := 3 }, tillS
     { aTiller 0 with reqs := [{ rid := 5, kind := 3, landed := true, parts := [{ home := 0, st := 3 }] }] }, by decide +kernel,
     by decide +kernel, by decide +kernel, by decide +kernel, by decide +kernel, by decide +kernel, by decide +kernel⟩,
   ⟨15, {}, [], { chanS liveChan with stackMap := [(15, { updQueue := [{}] })] }, _, by decide +kernel, by decide +kernel,
     by decide +kernel, by decide +kernel, rfl⟩,
   ⟨15, _, { chanS liveChan with stackMap := [(15, { run := some {} })] }, by decide +kernel, eq_some (by decide +kernel),
     by decide +kernel⟩,
   ⟨0, 0, 0, 0, 0, _, 0, _,
     { chanS liveChan with stackMap := [(0, { run := some { phase := 3, scale := some 0, item := { elems := 0 } } })] }, _, _, _,
     by decide +kernel, by decide +kernel, eq_some (by decide +kernel), eq_mid (by decide +kernel), rfl, rfl, by decide +kernel⟩,
   ⟨0, _, { chanS liveChan with stackMap := [(0, { run := some { phase := 3, scale := some 0, item := { elems := 0 } } })] },
     by decide +kernel, eq_some (by decide +kernel), by decide +kernel, by decide +kernel, by decide +kernel⟩⟩

/-- The hypotheses of LinkImagesReadBack can be met. -/
theorem test_hypotheses_LinkImagesReadBack :
  (∃ (r : TrainRec), (r.format < 256) ∧ (r.port < 8) ∧ (r.lanes < 256) ∧ (r.deviceId < 65536) ∧ (r.gen < 65536) ∧ (r.dims <
    65536)) ∧
  (∃ (f : Flit), (f.vc < 4) ∧ (f.cls < 2) ∧ (f.seq < 4096) ∧ (f.ack < 4096) ∧ (f.crVc < 8) ∧ (f.crCount < 4096) ∧ (f.len16 ≤ 15)
    ∧ (f.payload.length = 16 * f.len16)) ∧
  (∃ (m : Msg) (husk : Bool) (wire : List Byte), (m.dst < 65536) ∧ (m.src < 65536) ∧ (m.kind < 256) ∧ (m.gen < 65536) ∧ (m.group
    < 1024) ∧ (m.epoch < 65536) ∧ (m.tag < 2 ^ 32) ∧ (m.offset < 2 ^ 64) ∧ (m.obj < 2 ^ 17) ∧ (m.length < 2 ^ 17)) :=
  ⟨⟨{ format := 255, port := 7, lanes := 255, deviceId := 65535, gen := 65535, dims := 65535 }, by decide +kernel,
     by decide +kernel, by decide +kernel, by decide +kernel, by decide +kernel, by decide +kernel⟩,
   ⟨{ vc := 3, cls := 1, seq := 4095, ack := 4095, crVc := 7, crCount := 4095, len16 := 15, payload := List.replicate 240 0 },
     by decide +kernel, by decide +kernel, by decide +kernel, by decide +kernel, by decide +kernel, by decide +kernel,
     by decide +kernel, by decide +kernel⟩,

     ⟨{ dst := 65535, src := 65535, kind := 255, gen := 65535, group := 1023, epoch := 65535, tag := 2 ^ 32 - 1, offset := 2 ^ 64 - 1, obj := 2 ^ 17 - 1, length := 2 ^ 17 - 1 },
     false, [], by decide +kernel, by decide +kernel, by decide +kernel, by decide +kernel, by decide +kernel, by decide +kernel,
     by decide +kernel, by decide +kernel, by decide +kernel, by decide +kernel⟩⟩

/-- The hypotheses of PortsTrain can be met. -/
theorem test_hypotheses_PortsTrain :
  (∃ (p : Nat) (s : State), (p < 6) ∧ ((portAt s p).cable = false) ∧ (portDisabled s p = false)) ∧
  (∃ (p : Nat) (s : State), (p < 6) ∧ ((portAt s p).cable = true) ∧ ((portAt s p).st = 0 ∨ (portAt s p).st = 4) ∧ (portDisabled s
    p = false)) ∧
  (∃ (p : Nat) (s : State), (p < 6) ∧ ((portAt s p).st = 1) ∧ ((portAt s p).train = 1) ∧ (lanesOf (portAt s p).good ≠ 0)) ∧
  (∃ (p : Nat) (s : State), (p < 6) ∧ ((portAt s p).st = 1) ∧ ((portAt s p).train = 1) ∧ (lanesOf (portAt s p).good = 0)) ∧
  (∃ (p : Nat) (s : State), (p < 6) ∧ ((portAt s p).st = 1) ∧ ((portAt s p).train = 2)) ∧
  (∃ (p : Nat) (s : State), (p < 6) ∧ ((portAt s p).st = 1) ∧ ((portAt s p).train = 3)) ∧
  (∃ (p : Nat) (bs : List Byte) (r : TrainRec) (s : State) (u : State), (p < 6) ∧ ((portAt s p).st = 1) ∧ ((portAt s p).train =
    3) ∧ (trainOf bs = some r) ∧ (r.format = 1) ∧ ((portAt s p).rxRec = r) ∧ ((portAt s p).rxCopies = 2) ∧ (u = modPort s p (fun
    x => { x with rxCopies := 3, peerId := r.deviceId, peerValid := true, huskPeer := r.huskRx }))) ∧
  (∃ (p : Nat) (bs : List Byte) (s : State), (p < 6) ∧ ((portAt s p).st = 1) ∧ ((portAt s p).train = 3) ∧ (trainOf bs = none)) ∧
  (∃ (p : Nat) (s : State), (p < 6) ∧ ((portAt s p).st = 1)) ∧
  (∃ (p : Nat) (lane : Nat) (good : Nat) (s : State) (u : State), (p < 6) ∧ (lane < 8) ∧ ((portAt s p).st = 2 ∨ (portAt s p).st =
    3) ∧ ((portAt s p).good.testBit lane = true) ∧ ((portAt s p).lanes.testBit lane = true) ∧ (good = (portAt s p).good - 2 ^
    lane) ∧ (u = setEv (.ablPort p) Reg.ABL_PORT_EVENT Bit.ABL_PORT_EVENT_LANE_FAIL (modPort s p (fun x =>
    { x with good := good })))) ∧
  (∃ (p : Nat) (lane : Nat) (s : State), (p < 6) ∧ (lane < 8) ∧ ((portAt s p).st ≠ 0) ∧ ((portAt s p).good.testBit lane = true) ∧
    ((portAt s p).lanes.testBit lane = false)) ∧
  (∃ (p : Nat) (s : State), (p < 6) ∧ ((portAt s p).st = 1) ∧ ((portAt s p).retraining = true) ∧ ((portAt s p).train = 3) ∧ (3 ≤
    (portAt s p).rxCopies) ∧ ((portAt s p).lastRetrain = false)) ∧
  (∃ (p : Nat) (s : State), (p < 6) ∧ ((portAt s p).st = 1) ∧ ((portAt s p).retraining = true) ∧ ((portAt s p).train = 3) ∧ (3 ≤
    (portAt s p).rxCopies) ∧ ((portAt s p).lastRetrain = true)) ∧
  (∃ (p : Nat) (s : State), (p < 6) ∧ ((portAt s p).cable = true) ∧ (portDisabled s p = false)) :=
  ⟨⟨5, { up with links := { ports := List.replicate 6 {  } } }, by decide +kernel, by decide +kernel, by decide +kernel⟩,
   ⟨5, { up with links := { ports := List.replicate 6 { cable := true } } }, by decide +kernel, by decide +kernel,
     by decide +kernel, by decide +kernel⟩,
   ⟨5, { up with links := { ports := List.replicate 6 { st := 1, train := 1, good := 0xF0 } } }, by decide +kernel,
     by decide +kernel, by decide +kernel, by decide +kernel⟩,
   ⟨5, { up with links := { ports := List.replicate 6 { st := 1, train := 1, good := 0x7E } } }, by decide +kernel,
     by decide +kernel, by decide +kernel, by decide +kernel⟩,
   ⟨5, { up with links := { ports := List.replicate 6 { st := 1, train := 2 } } }, by decide +kernel, by decide +kernel,
     by decide +kernel⟩,
   ⟨5, { up with links := { ports := List.replicate 6 { st := 1, train := 3 } } }, by decide +kernel, by decide +kernel,
     by decide +kernel⟩,
   ⟨5, aRecord, _,
     { up with links := { ports := List.replicate 6 { st := 1, train := 3, rxCopies := 2, rxRec := { format := 1 } } } }, _,
     by decide +kernel, by decide +kernel, by decide +kernel, eq_some (by decide +kernel), by decide +kernel, by decide +kernel,
     by decide +kernel, rfl⟩,
   ⟨5, [], { up with links := { ports := List.replicate 6 { st := 1, train := 3 } } }, by decide +kernel, by decide +kernel,
     by decide +kernel, by decide +kernel⟩,
   ⟨5, { up with links := { ports := List.replicate 6 { st := 1 } } }, by decide +kernel, by decide +kernel⟩,
   ⟨5, 7, _, { up with links := { ports := List.replicate 6 { st := 2, lanes := 0xFF } } }, _, by decide +kernel,
     by decide +kernel, by decide +kernel, by decide +kernel, by decide +kernel, rfl, rfl⟩,
   ⟨5, 7, { up with links := { ports := List.replicate 6 { st := 2, lanes := 0x0F } } }, by decide +kernel, by decide +kernel,
     by decide +kernel, by decide +kernel, by decide +kernel⟩,
   ⟨5, { up with links := { ports := List.replicate 6 { st := 1, retraining := true, train := 3, rxCopies := 3 } } },
     by decide +kernel, by decide +kernel, by decide +kernel, by decide +kernel, by decide +kernel, by decide +kernel⟩,
   ⟨5,
     { up with links := { ports := List.replicate 6 { st := 1, retraining := true, train := 3, rxCopies := 3, lastRetrain := true } } },
     by decide +kernel, by decide +kernel, by decide +kernel, by decide +kernel, by decide +kernel, by decide +kernel⟩,
   ⟨5, { up with links := { ports := List.replicate 6 { cable := true } } }, by decide +kernel, by decide +kernel,
     by decide +kernel⟩⟩

/-- The hypotheses of FlitsCrossTheLinks can be met. -/
theorem test_hypotheses_FlitsCrossTheLinks :
  (∃ (p : Nat) (x : RxFlit) (f : Flit) (s : State) (u : State) (v : State), (p < 6) ∧ (portActive s p = true) ∧ (flitOf x.bytes =
    some f) ∧ (f.idle = false) ∧ (f.seq = (portAt (fecCount p x.corr x.uncorr s) p).rxSeq) ∧ (u = takeFlit p f (flitReturns p f
    (fecCount p x.corr x.uncorr s))) ∧ (v = (if f.nak = true ∧ portActive u p = true then nakReplay p u else u))) ∧
  (∃ (p : Nat) (x : RxFlit) (f : Flit) (s : State) (u : State), (p < 6) ∧ (portActive s p = true) ∧ (flitOf x.bytes = some f) ∧
    (f.idle = true) ∧ (f.nak = false) ∧ (u = flitReturns p f (fecCount p x.corr x.uncorr s))) ∧
  (∃ (p : Nat) (x : RxFlit) (s : State) (u : State), (p < 6) ∧ (portActive s p = true) ∧ (u = fecCount p x.corr x.uncorr s) ∧ ((∀
    f, flitOf x.bytes = some f → f.idle = false ∧ f.seq ≠ (portAt s p).rxSeq))) ∧
  (∃ (p : Nat) (i : Nat) (r : Retry) (s : State), (p < 6) ∧ (portActive s p = true) ∧ ((portAt s p).replayFrom = some i) ∧
    ((portAt s p).retry[i]? = some r)) ∧
  (∃ (p : Nat) (i : Nat) (turns : List Nat) (q : TxMsg) (s : State), (p < 6) ∧ (portActive s p = true) ∧ ((portAt s p).replayFrom
    = none) ∧ ((portAt s p).retry.length < 1024) ∧ (arbitrate (portAt s p) (weights s p) = some (i, turns)) ∧ (headMsg (portAt s
    p) i = some q) ∧ (q.sent ≠ 0) ∧ (q.place = none)) ∧
  (∃ (p : Nat) (s : State), (p < 6) ∧ (portActive s p = true) ∧ ((portAt s p).replayFrom = none) ∧ (1024 ≤ (portAt s
    p).retry.length ∨ arbitrate (portAt s p) (weights s p) = none)) :=
  ⟨⟨0, { bytes := aFlit 0 }, _, { up with links := { ports := List.replicate 6 { st := 2 } } }, _, _, by decide +kernel,
     by decide +kernel, eq_some (by decide +kernel), by decide +kernel, by decide +kernel, rfl, rfl⟩,
   ⟨0, { bytes := aFlit 0x20 }, _, { up with links := { ports := List.replicate 6 { st := 2 } } }, _, by decide +kernel,
     by decide +kernel, eq_some (by decide +kernel), by decide +kernel, by decide +kernel, rfl⟩,
   ⟨0, { bytes := [] }, { up with links := { ports := List.replicate 6 { st := 3 } } }, _, by decide +kernel, by decide +kernel,
     rfl, opt_all (by decide +kernel)⟩,
   ⟨0, 0, {}, { up with links := { ports := List.replicate 6 { st := 2, replayFrom := some 0, retry := [{}] } } },
     by decide +kernel, by decide +kernel, by decide +kernel, by decide +kernel⟩,
   ⟨0, 0, [0, 0, 0], { m := { kind := 1 }, sent := 1, wire := [1] },
     { up with links := { ports := List.replicate 6 { st := 2, txq := [{ m := { kind := 1 }, sent := 1, wire := [1] }] } } },
     by decide +kernel, by decide +kernel, by decide +kernel, by decide +kernel, by decide +kernel, by decide +kernel,
     by decide +kernel, by decide +kernel⟩,
   ⟨0, { up with links := { ports := List.replicate 6 { st := 2 } } }, by decide +kernel, by decide +kernel, by decide +kernel,
     by decide +kernel⟩⟩

/-- The hypotheses of TheHostLinkComesAndGoes can be met. -/
theorem test_hypotheses_TheHostLinkComesAndGoes :
  (∃ (mode : Nat) (width : Nat) (rate : Nat) (io : Bool) (cm : Bool) (s : State), (portTrains s = true) ∧ (s.cxl.mode = 0) ∧
    (mode = 1 ∨ mode = 2) ∧ (1 ≤ width) ∧ (width ≤ 16) ∧ (1 ≤ rate) ∧ (rate ≤ 6)) ∧
  (∃ (s : State), (s.cxl.mode ≠ 0)) ∧
  (∃ (s : State), (s.cxl.perst = false)) ∧
  (∃ (s : State), (s.cxl.perst = true)) ∧
  (∃ (s : State), (s.cxl.mode ≠ 0)) ∧
  (∃ (s : State), (s.cxl.mode ≠ 0)) ∧
  (∃ (s : State), (s.cxl.mode ≠ 0) ∧ (s.cxl.ideIo = true ∨ s.cxl.ideCm = true)) ∧
  (∃ (s : State), (s.cxl.attach = 0) ∧ (hostWdMs s ≠ 0)) ∧
  (∃ (w : Word) (s : State), (s.cxl.mode ≠ 0)) ∧
  (∃ (s : State), (s.cxl.mode ≠ 0) ∧ (s.cxl.attach = 2)) ∧
  (∃ (s : State), (s.cxl.mode ≠ 0)) ∧
  (∃ (k : Nat) (s : State), (s.cxl.attach = 0)) ∧
  (∃ (k : Nat) (s : State), (s.cxl.attach ≠ 0)) ∧
  (∃ (base : Nat) (size : Nat) (s : State), (s.cxl.mode = 1)) ∧
  (∃ (write : Bool) (s : State), (s.cxl.mode ≠ 0)) :=
  ⟨⟨2, 16, 6, false, false, { up with cxl := {} }, by decide +kernel, by decide +kernel, by decide +kernel, by decide +kernel,
     by decide +kernel, by decide +kernel, by decide +kernel⟩,
   ⟨up, by decide +kernel⟩,
   ⟨up, by decide +kernel⟩,
   ⟨{ up with cxl := { perst := true } }, by decide +kernel⟩,
   ⟨up, by decide +kernel⟩,
   ⟨up, by decide +kernel⟩,
   ⟨{ up with cxl := { mode := 1, ideIo := true } }, by decide +kernel, by decide +kernel⟩,
   ⟨{ up with regs := [(blkBase .cxp + Reg.CXP_CTRL, 1)] }, by decide +kernel, by decide +kernel⟩,
   ⟨0, up, by decide +kernel⟩,
   ⟨{ up with cxl := { mode := 2 } }, by decide +kernel, by decide +kernel⟩,
   ⟨up, by decide +kernel⟩,
   ⟨0, up, by decide +kernel⟩,
   ⟨0, { up with cxl := { mode := 2 } }, by decide +kernel⟩,
   ⟨0, 0, up, by decide +kernel⟩,
   ⟨false, up, by decide +kernel⟩⟩

/-- The hypotheses of RegionsServeTheHost can be met. -/
theorem test_hypotheses_RegionsServeTheHost :
  (∃ (off : Nat) (len : Nat) (reqId : Nat) (pasid : Nat) (cause : Nat) (hp : Bool) (s : State), (bar4Open s off = true) ∧ (0 <
    len) ∧ (len ≤ 4096) ∧ ((∀ h ∈ s.cxl.held, h.req ≠ some reqId)) ∧ (regionCause (regionAt s (off / 2 ^ 30)) false (off % 2 ^
    30) len reqId pasid hp = some cause)) ∧
  (∃ (off : Nat) (len : Nat) (reqId : Nat) (pasid : Nat) (hp : Bool) (g : Region) (l : List Access) (s : State) (t : State) (bs :
    List Byte) (c : RdCause), (bar4Open s off = true) ∧ (0 < len) ∧ (len ≤ 4096) ∧ ((∀ h ∈ s.cxl.held, h.req ≠ some reqId)) ∧ (g
    = regionAt s (off / 2 ^ 30)) ∧ (regionCause g false (off % 2 ^ 30) len reqId pasid hp = none) ∧ (l =
    [{ obj := g.obj, off := g.offset + off % 2 ^ 30, n := len }]) ∧ (GoNow s 19 none 141 l) ∧ (objRead
    { req := 141, dead := silent s 19 none l } g.obj (g.offset + off % 2 ^ 30) len (admitted s 19 none l) = (t, bs, c))) ∧
  (∃ (off : Nat) (reqId : Nat) (pasid : Nat) (cause : Nat) (hp : Bool) (data : List Byte) (s : State), (bar4Open s off = true) ∧
    (data ≠ []) ∧ (data.length ≤ 4096) ∧ (regionCause (regionAt s (off / 2 ^ 30)) true (off % 2 ^ 30) data.length reqId pasid hp
    = some cause)) ∧
  (∃ (off : Nat) (reqId : Nat) (pasid : Nat) (hp : Bool) (data : List Byte) (g : Region) (l : List Access) (s : State), (bar4Open
    s off = true) ∧ (data ≠ []) ∧ (data.length ≤ 4096) ∧ (g = regionAt s (off / 2 ^ 30)) ∧ (regionCause g true (off % 2 ^ 30)
    data.length reqId pasid hp = none) ∧ ((∀ h ∈ s.cxl.held, h.req = some reqId → h.obj ≠ g.obj)) ∧ (l =
    [{ write := true, obj := g.obj, off := g.offset + off % 2 ^ 30, n := data.length }]) ∧ (GoNow s 19 none 141 l)) ∧
  (∃ (off : Nat) (reqId : Nat) (pasid : Nat) (hp : Bool) (data : List Byte) (g : Region) (s : State), (bar4Open s off = true) ∧
    (data ≠ []) ∧ (data.length ≤ 4096) ∧ (g = regionAt s (off / 2 ^ 30)) ∧ (regionCause g true (off % 2 ^ 30) data.length reqId
    pasid hp = none) ∧ (rangeBusy s g.obj (g.offset + off % 2 ^ 30) data.length = true) ∧ (s.cxl.held.length < 64)) ∧
  (∃ (msg : List Byte) (code : Nat) (s : State), (s.cxl.mode ≠ 0) ∧ (rachisServes s = true) ∧ (4 ≤ msg.length) ∧ (code = leValue
    ((msg.drop 1).take 1)) ∧ (spdmCodes.contains code = false)) ∧
  (∃ (msg : List Byte) (bs : List Byte) (code : Nat) (p1 : Nat) (p2 : Nat) (s : State) (t : State), (s.cxl.mode ≠ 0) ∧
    (rachisServes s = true) ∧ (4 ≤ msg.length) ∧ (code = leValue ((msg.drop 1).take 1)) ∧ (p1 = leValue ((msg.drop 2).take 1)) ∧
    (p2 = leValue ((msg.drop 3).take 1)) ∧ (spdmCodes.contains code = true) ∧ (spdmSession code = false) ∧ ((spdmSigns code p1 =
    true → s.boot.identityOk = true)) ∧ (code ≠ 0xE4) ∧ (code ≠ 0xEC) ∧ (code ≠ 0xFE) ∧ (spdmBody code p2 s = (bs, t))) :=
  ⟨⟨2 ^ 31 + 4095, 2, 0, 0, _, false,
     { objS {} liveChan { anObj with valid := true } with cxl := { mode := 1, attach := 0, regions := [(2, { valid := true, rd := true, wr := true, obj := 1, len := 4096 })] } },
     by decide +kernel, by decide +kernel, by decide +kernel, by decide +kernel, eq_some (by decide +kernel)⟩,
   ⟨2 ^ 31, 4096, 0, 0, false, _, _,
     { objS {} liveChan { anObj with valid := true } with cxl := { mode := 1, attach := 0, regions := [(2, { valid := true, rd := true, wr := true, obj := 1, len := 4096 })] } },
     _, _, _, by decide +kernel, by decide +kernel, by decide +kernel, by decide +kernel, rfl, by decide +kernel, rfl,
     by unfold GoNow; decide +kernel, rfl⟩,
   ⟨2 ^ 31 + 4095, 0, 0, _, false, [1, 2],
     { objS {} liveChan { anObj with valid := true } with cxl := { mode := 1, attach := 0, regions := [(2, { valid := true, rd := true, wr := true, obj := 1, len := 4096 })] } },
     by decide +kernel, by decide +kernel, by decide +kernel, eq_some (by decide +kernel)⟩,
   ⟨2 ^ 31 + 4095, 0, 0, false, [1], _, _,
     { objS {} liveChan { anObj with valid := true } with cxl := { mode := 1, attach := 0, regions := [(2, { valid := true, rd := true, wr := true, obj := 1, len := 4096 })] } },
     by decide +kernel, by decide +kernel, by decide +kernel, rfl, by decide +kernel, by decide +kernel, rfl,
     by unfold GoNow; decide +kernel⟩,
   ⟨2 ^ 31 + 4095, 0, 0, false, [1], _,
     { objS {} liveChan { anObj with valid := true } with cxl := { mode := 1, attach := 0, regions := [(2, { valid := true, rd := true, wr := true, obj := 1, len := 4096 })] }, grans := [(0, { homeTier := 1, busy := true })] },
     by decide +kernel, by decide +kernel, by decide +kernel, rfl, by decide +kernel, by decide +kernel, by decide +kernel⟩,
   ⟨[0x10, 0x80, 0, 0], _, up, by decide +kernel, by decide +kernel, by decide +kernel, rfl, by decide +kernel⟩,
   ⟨[0x10, 0x81, 0, 0], _, _, _, _, up, _, by decide +kernel, by decide +kernel, by decide +kernel, rfl, rfl, rfl,
     by decide +kernel, by decide +kernel, by decide +kernel, by decide +kernel, by decide +kernel, by decide +kernel, rfl⟩⟩

/-- The hypotheses of StuckWorkIsFound can be met. -/
theorem test_hypotheses_StuckWorkIsFound :
  (∃ (c : Nat) (pos : Nat) (y : RingCmd) (d : Option Nat) (s : State) (u : State) (v : State), (c < 4096) ∧ (ringCmd s c pos =
    some y) ∧ (bits (rd s (.chn c) Reg.CHN_RCV_CTRL) 63 32 ≠ 0) ∧ (u = cntInc (.chn c) Reg.CHN_CNT_WATCHDOG (setEv (.chn c)
    Reg.CHN_RCV_EVENT Bit.CHN_RCV_EVENT_WATCHDOG s)) ∧ (v = logRec
    { source := 8, cause := 1, severity := 2, status := ST_WATCHDOG, channel := handleOf u c, step := attemptOf (chanAt u c), detail := put y.e.opcode 7 0 + put pos 39 8 }
    u) ∧ (d = engineDomain v y.e)) ∧
  (∃ (c : Nat) (pos : Nat) (a : Nat × Nat × Nat × Nat) (s : State), (c < 4096) ∧ (s.rcv.abandoned.find? (fun a => a.1 == c &&
    a.2.1 == pos) = some a)) ∧
  (∃ (t : Nat) (ctx : Nat) (u : Tiller) (g : Cfg) (x : Ctx) (s : State) (v : State), (t < 128) ∧ (u = tillerAt s t) ∧ (g = (if
    ctx = 0 then u.act else u.dfr)) ∧ (x = (if ctx = 0 then u.ctxA else u.ctxD)) ∧ (g.valid = true) ∧ (u.admitted = true) ∧
    (x.ended = false) ∧ (stageHasInput u = true) ∧ (x.wait ≠ 1) ∧ (x.wait ≠ 3) ∧ (x.wait ≠ 9) ∧ (x.wait ≠ 10) ∧ (v = cntInc (.chn
    g.chan) Reg.CHN_CNT_PROGRESS (setEv (.chn g.chan) Reg.CHN_RCV_EVENT Bit.CHN_RCV_EVENT_PROGRESS s))) ∧
  (∃ (t : Nat) (rid : Nat) (q : MemReq) (p : Part) (s : State), (t < 128) ∧ ((tillerAt s t).reqs.find? (fun q => q.rid == rid &&
    holdsTag q) = some q) ∧ (q.parts.find? (fun p => p.st ≤ 1) = some p)) ∧
  (∃ (n : Nat) (rid : Nat) (y : Copy) (s : State), (n < 12) ∧ ((s.cxl.engines.getD n {}).inflight.find? (fun y => !y.ended) =
    some y)) ∧
  (∃ (p : Nat) (gn : Nat) (y : Coll) (l : List Coll) (s : State), (p < 6) ∧ ((groupAt s gn).colls = y :: l)) ∧
  (∃ (oi : Nat) (g : Nat) (m : MigCmd) (v : Move) (s : State), (moveOf s oi g = some (m, v)) ∧ (v.phase ≤ 1)) ∧
  (∃ (who : Nat) (n : Nat) (h : Nat) (s : State), ((∃ p ∈ s.rcv.probes, p.who = who ∧ p.unit = n ∧ p.home = h)) ∧ (who < 3)) ∧
  (∃ (who : Nat) (n : Nat) (h : Nat) (s : State), ((∃ p ∈ s.rcv.probes, p.who = who ∧ p.unit = n ∧ p.home = h))) :=
  ⟨⟨0, 0, { st := 1 }, _,
     { chanS { liveChan with rings := { liveChan.rings with cmds := [{ st := 1 }] } } with regs := [(blkBase (.chn 0) + Reg.CHN_RCV_CTRL, 0x100000000)] },
     _, _, by decide +kernel, by decide +kernel, by decide +kernel, rfl, rfl, rfl⟩,
   ⟨0, 3, (0, 3, 0, 0), { up with rcv := { abandoned := [(0, 3, 0, 0)] } }, by decide +kernel, by decide +kernel⟩,
   ⟨0, 0, _, _, _, tillS { aTiller 0 with act := { aCfg 0 with inSlots := [{ st := 2 }] } }, _, by decide +kernel, rfl, rfl, rfl,
     by decide +kernel, by decide +kernel, by decide +kernel, by decide +kernel, by decide +kernel, by decide +kernel,
     by decide +kernel, by decide +kernel, rfl⟩,
   ⟨0, 5, { rid := 5, sent := true, parts := [{ home := 2 }] }, { home := 2 }, tillS
     { aTiller 0 with reqs := [{ rid := 5, sent := true, parts := [{ home := 2 }] }] }, by decide +kernel, by decide +kernel,
     by decide +kernel⟩,
   ⟨11, 0, {}, { up with cxl := { engines := List.replicate 12 { inflight := [{}] } } }, by decide +kernel, by decide +kernel⟩,
   ⟨5, 0, {}, [], { up with links := { groups := [(0, { colls := [{}] })] } }, by decide +kernel, by decide +kernel⟩,
   ⟨1, 0, _, _, { objS {} liveChan anObj with migs := [{ obj := 1, moves := [{ obj := 1, phase := 1 }] }] }, eq_some
     (by decide +kernel), by decide +kernel⟩,
   ⟨2, 1, 2, { up with rcv := { probes := [{ who := 2, unit := 1, home := 2 }] } }, by decide +kernel, by decide +kernel⟩,
   ⟨3, 1, 2, { up with rcv := { probes := [{ who := 3, unit := 1, home := 2 }] } }, by decide +kernel⟩⟩

/-- The hypotheses of DomainsRecover can be met. -/
theorem test_hypotheses_DomainsRecover :
  (∃ (s : State), (rachisServes s = true)) ∧
  (∃ (s : State), (s.boot.stage = 3) ∧ (s.rcv.standby = true)) ∧
  (∃ (s : State), (s.boot.stage = 3) ∧ (s.rcv.standby = false)) ∧
  (∃ (s : State), (s.boot.stage = 3) ∧ (s.rcv.standby = false)) ∧
  (∃ (d : Nat) (pass : Bool) (q : ResetSeq) (s : State), ((domainAt s d).seq = some q) ∧ (stepMayEnd s d q pass = true) ∧ ((d =
    0x7F ∨ (d = 0x7E ∧ (domainAt s 0x7F).seq = none) ∨ deviceReset s = false))) ∧
  (∃ (d : Nat) (pass : Bool) (q : ResetSeq) (s : State), ((domainAt s d).seq = some q) ∧ (d ≠ 0x7E) ∧ (d ≠ 0x7F) ∧ (deviceReset s
    = true)) ∧
  (∃ (d : Nat) (s : State), (isDomain d = true) ∧ ((domainAt s d).fenced = true) ∧ ((∀ q, (domainAt s d).seq = some q → q.step ≤
    3))) ∧
  (∃ (id : Nat) (w : HostWrite) (s : State), (w ∈ s.cxl.writes) ∧ (w.who = 4) ∧ (w.pos = id)) ∧
  (∃ (sq : Nat) (page : Nat) (s : State), (smbServed s = true)) ∧
  (∃ (sq : Nat) (s : State), (smbServed s = true)) ∧
  (∃ (sq : Nat) (d : Nat) (s : State), (smbServed s = true)) ∧
  (∃ (sq : Nat) (s : State), (smbServed s = true)) ∧
  (∃ (sq : Nat) (i : Nat) (r : LogRec) (s : State), (smbServed s = true) ∧ (logAt s i = some r)) ∧
  (∃ (sq : Nat) (i : Nat) (s : State), (smbServed s = true) ∧ (logAt s i = none)) :=
  ⟨⟨up, by decide +kernel⟩,
   ⟨{ up with rcv := { standby := true } }, by decide +kernel, by decide +kernel⟩,
   ⟨up, by decide +kernel, by decide +kernel⟩,
   ⟨up, by decide +kernel, by decide +kernel⟩,
   ⟨0x7F, true, { step := 1 }, { up with rcv := { domains := [(0x7F, { fenced := true, seq := some { step := 1 } })] } },
     by decide +kernel, by decide +kernel, by decide +kernel⟩,
   ⟨0, true, { step := 1 }, { up with rcv := { domains := [(0, { seq := some { step := 1 } }), (0x7F, { seq := some {} })] } },
     by decide +kernel, by decide +kernel, by decide +kernel, by decide +kernel⟩,
   ⟨0x33, { up with rcv := { domains := [(0x33, { fenced := true, seq := some { step := 3 } })] } }, by decide +kernel,
     by decide +kernel, opt_get (by decide +kernel) (by decide +kernel)⟩,
   ⟨4, { id := 4, who := 4, pos := 4 }, { up with cxl := { writes := [{ id := 4, who := 4, pos := 4 }] } }, by decide +kernel,
     by decide +kernel, by decide +kernel⟩,
   ⟨0, 0, up, by decide +kernel⟩,
   ⟨0, up, by decide +kernel⟩,
   ⟨0, 0, up, by decide +kernel⟩,
   ⟨0, up, by decide +kernel⟩,
   ⟨0, 7, {}, { up with rcv := { log := [(7, {})] } }, by decide +kernel, by decide +kernel⟩,
   ⟨0, 7, up, by decide +kernel, by decide +kernel⟩⟩

/-- The hypotheses of PowerAndHeatAreManaged can be met. -/
theorem test_hypotheses_PowerAndHeatAreManaged :
  (∃ (mw : Nat) (mv : Nat) (cap : Nat) (s : State) (u : State), (s.phys.pwrGood = true) ∧ (u = cntAdd .pwr Reg.PWR_CNT_ENERGY_MJ
    ((s.power.energyUj + mw) / 1000) (modPower s (fun p =>
    { p with inputMw := mw, vinMv := mv, energyUj := (s.power.energyUj + mw) % 1000 }))) ∧ (cap = rdField u .pwr Reg.PWR_CTRL 10
    0)) ∧
  (∃ (l : List Nat) (rs : List Nat) (m : Nat) (s : State), (l.length = 40) ∧ ((∀ x ∈ l, x < 256 ∧ x ≤ m)) ∧ (m ∈ l)) ∧
  (∃ (k : Nat) (s : State), (k < 40) ∧ (115 ≤ s.power.dieTemp.getD k 0) ∧ (s.power.held = none)) ∧
  (∃ (site : Nat) (mv : Nat) (s : State), (site < 42) ∧ (mv < 7125) ∧ (s.phys.pwrGood = true) ∧ (s.power.stretch = false)) ∧
  (∃ (site : Nat) (mv : Nat) (s : State), (site < 42) ∧ (mv < 7125) ∧ (s.phys.pwrGood = true) ∧ (s.power.stretch = true)) ∧
  (∃ (s : State), (s.power.stretch = true)) ∧
  (∃ (s : State), (s.power.hold = true)) ∧
  (∃ (site : Nat) (mv : Nat) (s : State) (u : State), (site < 42) ∧ (mv < 6750) ∧ (s.phys.pwrGood = true) ∧ (u = dip mv s)) ∧
  (∃ (rail : Nat) (mv : Nat) (s : State), (1 ≤ rail) ∧ (rail ≤ 12) ∧ (s.phys.pwrGood = true)) ∧
  (∃ (s : State), (s.power.held ≠ some 3)) ∧
  (∃ (s : State), (s.power.held = some 3)) :=
  ⟨⟨0, 0, _, up, _, by decide +kernel, rfl, rfl⟩,
   ⟨List.replicate 40 255, [], 255, up, by decide +kernel, by decide +kernel, by decide +kernel⟩,
   ⟨39, { up with power := { dieTemp := List.replicate 40 115 } }, by decide +kernel, by decide +kernel, by decide +kernel⟩,
   ⟨41, 7124, up, by decide +kernel, by decide +kernel, by decide +kernel, by decide +kernel⟩,
   ⟨41, 7124, { up with power := { stretch := true } }, by decide +kernel, by decide +kernel, by decide +kernel,
     by decide +kernel⟩,
   ⟨{ up with power := { stretch := true } }, by decide +kernel⟩,
   ⟨{ up with power := { hold := true } }, by decide +kernel⟩,
   ⟨41, 6749, up, _, by decide +kernel, by decide +kernel, by decide +kernel, rfl⟩,
   ⟨12, 0, up, by decide +kernel, by decide +kernel, by decide +kernel⟩,
   ⟨up, by decide +kernel⟩,
   ⟨{ up with power := { held := some 3 } }, by decide +kernel⟩⟩

/-- The hypotheses of RegisterWritesFollowTheirCodes can be met. -/
theorem test_hypotheses_RegisterWritesFollowTheirCodes :
  (∃ (addr : Nat) (size : Nat) (off : Nat) (data : Nat) (mask : Nat) (x : RegData) (b : Blk) (r : RegDef) (s : State), (size = 8
    ∨ size = 4) ∧ (addr % size = 0) ∧ (¬ (0x170000 ≤ addr ∧ addr < 0x178000)) ∧ (blkOf (addr / 8 * 8) = some (b, off)) ∧ (regDef
    b off = some r) ∧ (r.cnt = 0) ∧ (size = 8 ∨ spanning b r = false) ∧ (blkFenced s b = false) ∧ (bar0Writes s b = true) ∧ (¬ (b
    = .boot ∧ 0x1000 ≤ off ∧ off < 0x2000)) ∧ ((∀ c, b = .chn c → (chanAt s c).live = true ∧ off ≠ Reg.CHN_CPL_HEAD)) ∧ (data =
    (if size = 8 then x.w.toNat else (x.w.toNat % 2 ^ 32) <<< (addr % 8 * 8))) ∧ (mask = (if size = 8 then 2 ^ 64 - 1 else (2 ^
    32 - 1) <<< (addr % 8 * 8)))) ∧
  (∃ (b : Blk) (r : RegDef) (mask : Nat) (data : Nat) (ev : Nat) (n : Nat) (s : State), (mask < 2 ^ 64) ∧ (n < 64) ∧ ((∀ w,
    storeClamp b r.off w = w))) ∧
  (∃ (addr : Nat) (size : Nat) (off : Nat) (inc : Nat) (w : Word) (b : Blk) (r : RegDef) (s : State), (blkOf addr = some (b,
    off)) ∧ (regDef b off = some r) ∧ (r.cnt ≠ 0) ∧ (size = 8 ∨ (size = 4 ∧ r.cnt = 32)) ∧ (blkFenced s b = false) ∧ (bar0Writes
    s b = true)) ∧
  (∃ (w : Word) (s : State), (bit w 32 = true) ∧ (bar0Writes s .pwr = true)) ∧
  (∃ (c : Nat) (w : Word) (s : State), (c < 4096) ∧ (bit w 24 = true) ∧ ((chanAt s c).live = true) ∧ (bar0Writes s (.chn c) =
    true)) :=
  ⟨⟨0x120000 + Reg.MON_RCV_CTRL, 8, Reg.MON_RCV_CTRL, _, _, { w := 5 }, .mon, _, up, by decide +kernel, by decide +kernel,
     by decide +kernel, by decide +kernel, eq_some (by decide +kernel), by decide +kernel, by decide +kernel, by decide +kernel,
     by decide +kernel, by decide +kernel, (by intro c h; cases h), rfl, rfl⟩,
   ⟨.boot, { off := 0 }, 2 ^ 64 - 1, 0, 0, 63, up, by decide +kernel, by decide +kernel, fun _ => rfl⟩,
   ⟨Reg.MBX_CNT_CMDS, 8, Reg.MBX_CNT_CMDS, 0, 0, .mbx 0, _, up, by decide +kernel, eq_some (by decide +kernel),
     by decide +kernel, by decide +kernel, by decide +kernel, by decide +kernel⟩,
   ⟨0x100000000, up, by decide +kernel, by decide +kernel⟩,
   ⟨0, 0x1000000, chanS liveChan, by decide +kernel, by decide +kernel, by decide +kernel, by decide +kernel⟩⟩

/-- The hypotheses of TheSupplyRules can be met. -/
theorem test_hypotheses_TheSupplyRules :
  (∃ (us : Nat) (s : State), (powerEnabled s.phys = true) ∧ (1 ≤ us) ∧ (us < 5000000)) ∧
  (∃ (s : State), (powerEnabled s.phys = true)) ∧
  (∃ (addr : Nat) (s : State), (s.phys.pwrEn = false)) ∧
  (∃ (s : State), (s.phys.pwrEn = true)) ∧
  (∃ (s : State), (s.phys.aon = true)) ∧
  (∃ (s : State), (s.phys.aon = true) ∧ (s.phys.undervolt = true)) ∧
  (∃ (s : State), (s.phys.aon = true)) ∧
  (∃ (s : State), (s.phys.overvolt = true)) ∧
  (∃ (s : State), (s.phys.aon = true)) ∧
  (∃ (s : State), (s.phys.aon = false)) ∧
  (∃ (rail : Nat) (out : Bool) (s : State), (rail < 13)) :=
  ⟨⟨4999999, up, by decide +kernel, by decide +kernel, by decide +kernel⟩,
   ⟨up, by decide +kernel⟩,
   ⟨0, { up with phys := { pwrEn := false } }, by decide +kernel⟩,
   ⟨up, by decide +kernel⟩,
   ⟨up, by decide +kernel⟩,
   ⟨{ up with phys := { undervolt := true } }, by decide +kernel, by decide +kernel⟩,
   ⟨up, by decide +kernel⟩,
   ⟨{ up with phys := { overvolt := true } }, by decide +kernel⟩,
   ⟨up, by decide +kernel⟩,
   ⟨{ up with phys := { aon := false } }, by decide +kernel⟩,
   ⟨12, true, up, by decide +kernel⟩⟩

/-- The hypotheses of FirmwareCommandsAct can be met. -/
theorem test_hypotheses_FirmwareCommandsAct :
  (∃ (src : CmdSrc) (n : Nat) (e : Entry) (s : State) (b : State), (Taken 0x60 src e s) ∧ (b = begun src e s) ∧ (n = bits e.a0 31
    0) ∧ (imgBytesOk n = true) ∧ (b.boot.stagingSt ≠ 3) ∧ (b.boot.activeSt ≠ 2) ∧ (PendRoom src b)) ∧
  (∃ (src : CmdSrc) (e : Entry) (s : State) (b : State), (Taken 0x60 src e s) ∧ (b = begun src e s) ∧ (imgBytesOk (bits e.a0 31
    0) = false)) ∧
  (∃ (src : CmdSrc) (e : Entry) (s : State) (b : State), (Taken 0x60 src e s) ∧ (b = begun src e s) ∧ (imgBytesOk (bits e.a0 31
    0) = true) ∧ (b.boot.stagingSt = 3 ∨ b.boot.activeSt = 2)) ∧
  (∃ (src : CmdSrc) (e : Entry) (s : State) (b : State) (off : Nat), (Taken 0x61 src e s) ∧ (b = begun src e s) ∧ (off =
    e.a0.toNat) ∧ (b.boot.stagingSt = 1) ∧ (off % 4096 = 0) ∧ (off < b.boot.staging.len) ∧ (crc32c b.boot.dlBuffer = bits e.a1 31
    0) ∧ (b.boot.staging.blocks.contains (off / 4096) = false) ∧ ((b.boot.ops.filter (fun o => o.kind == 5)).length < 64)) ∧
  (∃ (src : CmdSrc) (e : Entry) (s : State) (b : State), (Taken 0x61 src e s) ∧ (b = begun src e s) ∧ (b.boot.stagingSt ≠ 1 ∨
    e.a0.toNat % 4096 ≠ 0 ∨ b.boot.staging.len ≤ e.a0.toNat ∨ crc32c b.boot.dlBuffer ≠ bits e.a1 31 0)) ∧
  (∃ (src : CmdSrc) (e : Entry) (s : State), (Taken 0x62 src e s) ∧ (PendRoom src (begun src e s))) ∧
  (∃ (src : CmdSrc) (r : Nat) (e : Entry) (s : State) (b : State) (t : State), (Taken 0x63 src e s) ∧ (b = pendIn src e s) ∧
    (PendRoom src (begun src e s)) ∧ (b.boot.stagingSt = 2) ∧ (verifyStaging b = (r, t)) ∧ ((bit e.a0 0 = true →
    b.boot.settings.liveUpdate = true))) ∧
  (∃ (src : CmdSrc) (e : Entry) (s : State) (b : State), (Taken 0x63 src e s) ∧ (b = begun src e s) ∧ (b.boot.stagingSt ≠ 2)) ∧
  (∃ (src : CmdSrc) (e : Entry) (s : State) (b : State), (Taken 0x64 src e s) ∧ (b = begun src e s)) ∧
  (∃ (src : CmdSrc) (e : Entry) (s : State) (b : State), (Taken 0x65 src e s) ∧ (b = begun src e s)) ∧
  (∃ (src : CmdSrc) (e : Entry) (s : State) (b : State) (c : SetCopy), (Taken 0x68 src e s) ∧ (b = begun src e s) ∧ (c =
    (newestSettings b.boot).getD b.boot.settings)) ∧
  (∃ (src : CmdSrc) (e : Entry) (s : State) (b : State) (c : SetCopy), (Taken 0x69 src e s) ∧ (b = begun src e s) ∧ (c =
    (newestSettings b.boot).getD b.boot.settings)) ∧
  (∃ (src : CmdSrc) (e : Entry) (s : State) (b : State), (Taken 0x6C src e s) ∧ (b = begun src e s) ∧ (b.cxl.ideIo = true) ∧
    (keyNamed b (bits e.a0 7 0) = false)) ∧
  (∃ (src : CmdSrc) (e : Entry) (s : State) (b : State), (Taken 0x6C src e s) ∧ (b = begun src e s) ∧ (b.cxl.ideIo = false)) ∧
  (∃ (src : CmdSrc) (e : Entry) (s : State) (b : State), (Taken 0x6D src e s) ∧ (b = begun src e s)) :=
  ⟨⟨.mbx 0, _, { w0 := 0x60, a0 := 4096 }, onMbx 0 { w0 := 0x60, a0 := 4096 } (chanS liveChan), _, by decide +kernel, rfl, rfl,
     by decide +kernel, by decide +kernel, by decide +kernel, by intro m h; cases h; decide +kernel⟩,
   ⟨.mbx 0, { w0 := 0x60, a0 := 4097 }, onMbx 0 { w0 := 0x60, a0 := 4097 } (chanS liveChan), _, by decide +kernel, rfl,
     by decide +kernel⟩,
   ⟨.mbx 0, { w0 := 0x60, a0 := 4096 },
     { onMbx 0 { w0 := 0x60, a0 := 4096 } (chanS liveChan) with boot := { stage := 3, stagingSt := 3 } }, _, by decide +kernel,
     rfl, by decide +kernel, by decide +kernel⟩,
   ⟨.mbx 0, { w0 := 0x61 },
     { onMbx 0 { w0 := 0x61 } (chanS liveChan) with boot := { stage := 3, stagingSt := 1, staging := { len := 4096 }, dlBuffer := [] } },
     _, _, by decide +kernel, rfl, rfl, by decide +kernel, by decide +kernel, by decide +kernel, by decide +kernel,
     by decide +kernel, by decide +kernel⟩,
   ⟨.mbx 0, { w0 := 0x61, a0 := 1 }, onMbx 0 { w0 := 0x61, a0 := 1 } (chanS liveChan), _, by decide +kernel, rfl,
     by decide +kernel⟩,
   ⟨.mbx 0, { w0 := 0x62 }, onMbx 0 { w0 := 0x62 } (chanS liveChan), by decide +kernel, by intro m h; cases h; decide +kernel⟩,
   ⟨.mbx 0, _, { w0 := 0x63, a0 := 1 },
     { onMbx 0 { w0 := 0x63, a0 := 1 } (chanS liveChan) with boot := { stage := 3, stagingSt := 2, staging := { shipped := true } } },
     _, _, by decide +kernel, rfl, by intro m h; cases h; decide +kernel, by decide +kernel, rfl, by decide +kernel⟩,
   ⟨.mbx 0, { w0 := 0x63 }, onMbx 0 { w0 := 0x63 } (chanS liveChan), _, by decide +kernel, rfl, by decide +kernel⟩,
   ⟨.mbx 0, { w0 := 0x64 }, onMbx 0 { w0 := 0x64 } (chanS liveChan), _, by decide +kernel, rfl⟩,
   ⟨.mbx 0, { w0 := 0x65 }, onMbx 0 { w0 := 0x65 } (chanS liveChan), _, by decide +kernel, rfl⟩,
   ⟨.mbx 0, { w0 := 0x68 }, onMbx 0 { w0 := 0x68 } (chanS liveChan), _, _, by decide +kernel, rfl, rfl⟩,
   ⟨.mbx 0, { w0 := 0x69 }, onMbx 0 { w0 := 0x69 } (chanS liveChan), _, _, by decide +kernel, rfl, rfl⟩,
   ⟨.mbx 0, { w0 := 0x6C }, { onMbx 0 { w0 := 0x6C } (chanS liveChan) with cxl := { mode := 1, attach := 0, ideIo := true } }, _,
     by decide +kernel, rfl, by decide +kernel, by decide +kernel⟩,
   ⟨.mbx 0, { w0 := 0x6C }, onMbx 0 { w0 := 0x6C } (chanS liveChan), _, by decide +kernel, rfl, by decide +kernel⟩,
   ⟨.mbx 0, { w0 := 0x6D }, onMbx 0 { w0 := 0x6D } (chanS liveChan), _, by decide +kernel, rfl⟩⟩

/-- The hypotheses of ImagesStartAndCommit can be met. -/
theorem test_hypotheses_ImagesStartAndCommit :
  (∃ (d : Nat) (ab : Bool) (sb : Bool) (ib : Bool) (strap : Bool) (s : State) (u : State), (s.boot.stage = 0) ∧ (bootDomain s =
    some d) ∧ (u = modBoot s (fun b =>
    { b with activeSt := (dirInUse s.boot).active, stagingSt := (dirInUse s.boot).staging, stagingVersion := (dirInUse s.boot).version, stagingSvn := (dirInUse s.boot).svn }))) ∧
  (∃ (o : FlashOp) (s : State) (u : State), (nextFlashOp s.boot = some o) ∧ (u = cntAdd .boot Reg.BOOT_CNT_FLASH_PAGES o.pages
    (modBoot s (fun b => { b with ops := eraseOp o b.ops })))) ∧
  (∃ (s : State), (s.boot.stage = 3) ∧ (s.boot.commitDue = true) ∧ (verifyImage s s.boot.staging = 0)) ∧
  (∃ (s : State), (s.boot.handover = true) ∧ (anyReset s = false) ∧ (rachisServes s = true)) ∧
  (∃ (s : State), (s.boot.handover = true)) ∧
  (∃ (w : Word) (s : State), (rcvTakes 1 w s = true) ∧ (imgBytesOk (bits w 28 16 * 4096) = true) ∧ (s.boot.stagingSt ≠ 3) ∧
    (s.boot.activeSt ≠ 2)) ∧
  (∃ (w : Word) (s : State), (rcvTakes 2 w s = true)) ∧
  (∃ (w : Word) (s : State), (rcvTakes 3 w s = true)) ∧
  (∃ (w : Word) (s : State), (rcvTakes 4 w s = true) ∧ (s.boot.stagingSt = 2)) :=
  ⟨⟨0x7F, true, true, true, false, State.reset, _, by decide +kernel, by decide +kernel, rfl⟩,
   ⟨{ kind := 1 }, { up with boot := { stage := 3, ops := [{ kind := 1 }] } }, _, by decide +kernel, rfl⟩,
   ⟨{ up with boot := { stage := 3, commitDue := true, staging := { shipped := true } } }, by decide +kernel, by decide +kernel,
     by decide +kernel⟩,
   ⟨{ up with boot := { stage := 3, handover := true } }, by decide +kernel, by decide +kernel, by decide +kernel⟩,
   ⟨{ up with boot := { stage := 3, handover := true } }, by decide +kernel⟩,
   ⟨0x10001, { up with boot := { stage := 4 } }, by decide +kernel, by decide +kernel, by decide +kernel, by decide +kernel⟩,
   ⟨2, { up with boot := { stage := 4 } }, by decide +kernel⟩,
   ⟨3, { up with boot := { stage := 4 } }, by decide +kernel⟩,
   ⟨4, { up with boot := { stage := 4, stagingSt := 2 } }, by decide +kernel, by decide +kernel⟩⟩
end Sys2Proof.Tests
end

section
/-! PROOF. Mailboxes, doorbells and the life of a channel: the rules of the shared operations that their commands use, one
equation for each branch of a command, and the two statements assembled from them. -/

open Sys2Proof Sys2Proof.Machine Sys2Proof.Claim

namespace Sys2Proof.Channels

/-! ### Guards and the serving of a command -/

theorem atUnit_of_lt {n k : Nat} (h : n < k) (o : Host.Outcome State Fault Refusal) : atUnit n k o = o := if_pos h

theorem onlyIf_of_true {b : Bool} (h : b = true) (s : State) (f : State → State) : onlyIf b s f = .next (f s) := by
  simp [onlyIf, h]

@[simp] theorem cmdOf_e (s : State) (src : CmdSrc) (e : Entry) : (cmdOf s src e).e = e := by cases src <;> rfl

theorem begun_mbx (m : Nat) (e : Entry) (s : State) : begun (.mbx m) e s = s := rfl

/-- A command that is taken has its own effect, on the state in which it has started. -/
theorem serve_of_taken {op : Nat} {src : CmdSrc} {e : Entry} {s : State} (h : Taken op src e s) (f : Cmd → State → State) :
    serve op src e s f = .next (f (cmdOf s src e) (begun src e s)) := by
  obtain ⟨hready, hop, hcheck⟩ := h
  simp [serve, hready, hop, hcheck, begun]

/-! ### What an event bit leaves of a channel -/

@[simp] theorem chanAt_sendMsi (v : Nat) (s : State) (d : Nat) : chanAt (sendMsi v s) d = chanAt s d := by
  unfold sendMsi
  split <;> rfl

/-- A record owed changes nothing of a channel but its list of records owed. -/
theorem chanAt_owe (c : Nat) (r : CplRec) (irq : Bool) (pos : Option Nat) (s : State) (d : Nat) :
    ∃ q, chanAt (owe c r irq pos s) d = { chanAt s d with rings := { (chanAt s d).rings with owed := q } } := by
  by_cases h : d = c
  · subst h
    exact ⟨_, chanAt_modRings_same ..⟩
  · exact ⟨_, chanAt_modRings_ne _ _ h⟩

/-- An event bit set changes nothing of a channel but its list of records owed, for the interrupt of the bit (R423). -/
theorem chanAt_setEv (b : Blk) (ev n : Nat) (s : State) (d : Nat) :
    ∃ q, chanAt (setEv b ev n s) d = { chanAt s d with rings := { (chanAt s d).rings with owed := q } } := by
  unfold setEv
  dsimp only
  split
  · exact ⟨_, rfl⟩
  · split
    · split
      · exact chanAt_owe _ _ _ _ (wr s _ ev _) d
      · split
        · exact ⟨_, chanAt_sendMsi _ (wr s _ ev _) d⟩
        · exact ⟨_, rfl⟩
      · exact ⟨_, chanAt_sendMsi _ (wr s _ ev _) d⟩
    · exact ⟨_, rfl⟩

@[simp] theorem handleOf_setEv (b : Blk) (ev n : Nat) (s : State) (c : Nat) : handleOf (setEv b ev n s) c = handleOf s c := by
  obtain ⟨q, h⟩ := chanAt_setEv b ev n s c
  simp [handleOf, h]

theorem cmdTail_setEv (b : Blk) (ev n : Nat) (s : State) (c : Nat) :
    (chanAt (setEv b ev n s) c).rings.cmdTail = (chanAt s c).rings.cmdTail := by
  obtain ⟨q, h⟩ := chanAt_setEv b ev n s c
  rw [h]

theorem cmdTail_owe (c : Nat) (r : CplRec) (irq : Bool) (pos : Option Nat) (s : State) (d : Nat) :
    (chanAt (owe c r irq pos s) d).rings.cmdTail = (chanAt s d).rings.cmdTail := by
  obtain ⟨q, h⟩ := chanAt_owe c r irq pos s d
  rw [h]

/-- A channel changed changes no other part of the machine. -/
theorem modChan_eq (s : State) (c : Nat) (f : Chan → Chan) : modChan s c f = { s with chans := (modChan s c f).chans } := rfl

/-! ### Parts of the machine that an operation does not touch -/

/-- The parts that an operation on channels may change: every part but the mailboxes. -/
def allButMbxs : Touch :=
  { us := true, freeCtr := true, regs := true, tillers := true, stackMap := true, deeps := true, dram := true, poison := true,
    husk := true, huskBad := true, objs := true, grans := true, shareGroups := true, used := true, migs := true, heldBy := true,
    xlat := true, chans := true, links := true, cxl := true, power := true, phys := true, boot := true, rcv := true,
    flights := true, notices := true, smbOut := true }

theorem mbxs_of_keeps {s t : State} (h : Keeps allButMbxs s t) : t.mbxs = s.mbxs := h.frame.mbxs rfl

theorem mbxAt_of_keeps {s t : State} (h : Keeps allButMbxs s t) (m : Nat) : mbxAt t m = mbxAt s m := by
  rw [mbxAt, mbxs_of_keeps h, mbxAt]

theorem setEv_mbxs (b : Blk) (ev n : Nat) (s : State) : (setEv b ev n s).mbxs = s.mbxs :=
  mbxs_of_keeps (setEv_keeps _ _ _ _ (Keeps.refl _ _) ⟨rfl, rfl, rfl⟩)

/-! ### Mailboxes (R401 to R403) -/

/-- A GO at a mailbox that is not BUSY: its entry is copied and it becomes BUSY (R401). -/
theorem exec_mbxGo_of_idle {m : Nat} (w : Word) {s : State} (hm : m < 64) (hs : s.boot.stage = 3) (hst : (mbxAt s m).st ≠ 1) :
    exec (.mbxGo m w) s = .next (cntInc (.mbx m) Reg.MBX_CNT_CMDS
      (modMbx s m (fun b => { b with run := some (mbxEntry s m, bits w 15 0), st := 1 }))) := by
  change execMbxGo m w s = _
  rw [execMbxGo, atUnit_of_lt hm, onlyIf_of_true (by simp [hs]), if_neg hst]

/-- A GO at a mailbox that is BUSY is discarded and sets OVERRUN (R401). -/
theorem exec_mbxGo_of_busy {m : Nat} (w : Word) {s : State} (hm : m < 64) (hs : s.boot.stage = 3) (hst : (mbxAt s m).st = 1) :
    exec (.mbxGo m w) s = .next (setEv (.mbx m) Reg.MBX_EVENT Bit.MBX_EVENT_OVERRUN s) := by
  change execMbxGo m w s = _
  rw [execMbxGo, atUnit_of_lt hm, onlyIf_of_true (by simp [hs]), if_pos hst]

/-- The first finished record with a free slot goes to it; without CHAN_DESTROY's record no channel is touched (R403). -/
theorem exec_mbxResultRecord_of_room {m k : Nat} {r : CplRec} {s : State} (hm : m < 64)
    (hr : (mbxAt s m).fin.find? (fun p => mbxRoom s m p.1) = some (k, r)) (hop : r.opcode ≠ 0x02) :
    exec (.mbxResultRecord m) s = .next (mbxIrq m (modMbx s m (fun b => { b with
      fin := b.fin.filter (fun p => p.1 != k), ring := smInsert (k % 64) r b.ring, resTail := b.resTail + 1 }))) := by
  change execMbxResultRecord m s = _
  rw [execMbxResultRecord, atUnit_of_lt hm, hr]
  simp only [if_neg hop]

/-! ### Doorbells (R414, R420, R424) -/

/-- Entries that a written CHN_CMD_TAIL puts between the head and the tail of a command ring. -/
def tailDistance (w : Word) (g : Rings) : Nat := (bits w 31 0 + 2 ^ 32 - g.cmdHead % 2 ^ 32) % 2 ^ 32

theorem bits_lt (w : Word) (hi lo : Nat) : bits w hi lo < 2 ^ (hi + 1 - lo) := Nat.mod_lt _ (Nat.two_pow_pos _)

/-- The tail that a write gives, counted from the head, shows the value written. -/
theorem head_add_tailDistance (w : Word) (g : Rings) : (g.cmdHead + tailDistance w g) % 2 ^ 32 = bits w 31 0 := by
  have hw : bits w 31 0 < 2 ^ 32 := bits_lt w 31 0
  unfold tailDistance
  omega

/-- The rings and the stall of a channel whose tail is replaced: a stalled channel reads its entry afresh (R414, R416). -/
def withTail (tail : Nat) (k : Chan) : Chan :=
  { k with stalled := false, rings := { k.rings with
      cmdTail := tail
      stale := if k.stalled then 0 else k.rings.stale
      reread := if k.stalled then true else k.rings.reread } }

@[simp] theorem withTail_cmdTail (tail : Nat) (k : Chan) : (withTail tail k).rings.cmdTail = tail := rfl
@[simp] theorem withTail_cmdHead (tail : Nat) (k : Chan) : (withTail tail k).rings.cmdHead = k.rings.cmdHead := rfl
@[simp] theorem withTail_cmds (tail : Nat) (k : Chan) : (withTail tail k).rings.cmds = k.rings.cmds := rfl
@[simp] theorem withTail_stalled (tail : Nat) (k : Chan) : (withTail tail k).stalled = false := rfl

theorem exec_dbCmdTail_of_fits {c : Nat} {w : Word} {s : State} (hc : c < 4096) (hl : (chanAt s c).live = true)
    (hset : (chanAt s c).rings.set = true) (hd : tailDistance w (chanAt s c).rings ≤ 2 ^ (chanAt s c).rings.cmdN) :
    exec (.dbCmdTail c w) s = .next (modChan s c (withTail
      ((chanAt s c).rings.cmdHead + tailDistance w (chanAt s c).rings))) := by
  change execDbCmdTail c w s = _
  rw [execDbCmdTail, atUnit_of_lt hc, onlyIf_of_true (by simp [hl, hset])]
  exact congrArg _ (if_neg (Nat.not_lt.2 hd))

theorem exec_dbCmdTail_of_overrun {c : Nat} {w : Word} {s : State} (hc : c < 4096) (hl : (chanAt s c).live = true)
    (hset : (chanAt s c).rings.set = true) (hd : 2 ^ (chanAt s c).rings.cmdN < tailDistance w (chanAt s c).rings) :
    exec (.dbCmdTail c w) s = .next (owe c { status := ST_RING_OVERRUN, handle := handleOf s c } true none
      (setEv (.chn c) Reg.CHN_EVENT Bit.CHN_EVENT_RING_OVERRUN s)) := by
  change execDbCmdTail c w s = _
  rw [execDbCmdTail, atUnit_of_lt hc, onlyIf_of_true (by simp [hl, hset])]
  refine congrArg _ ((if_pos hd).trans ?_)
  rw [oweKind, handleOf_setEv]
  rfl

theorem dropFirst_append_cons {α : Type} {p : α → Bool} {a : List α} {x : α} (b : List α) (ha : ∀ y ∈ a, p y = false)
    (hx : p x = true) : dropFirst p (a ++ x :: b) = a ++ b := by
  induction a with
  | nil => simp [dropFirst, hx]
  | cons y a ih =>
    have hy : p y = false := ha y (by simp)
    have ih := ih (fun z hz => ha z (by simp [hz]))
    simp [dropFirst, hy, ih]

/-- A release ends the oldest hold on its token (R420). -/
theorem exec_dbTokenRelease_of_held {c : Nat} {w : Word} {s : State} {a b : List (Nat × Nat)} {p : Nat} (hc : c < 4096)
    (hl : (chanAt s c).live = true) (hh : (chanAt s c).rings.holds = a ++ (bits w 11 0, p) :: b)
    (ha : ∀ h ∈ a, h.1 ≠ bits w 11 0) :
    exec (.dbTokenRelease c w) s = .next (modRings s c (fun g => { g with holds := a ++ b })) := by
  have hdrop : dropFirst (fun h => h.1 == bits w 11 0) (chanAt s c).rings.holds = a ++ b := by
    rw [hh]
    exact dropFirst_append_cons b (by simpa using ha) (by simp)
  change execDbTokenRelease c w s = _
  rw [execDbTokenRelease, atUnit_of_lt hc, onlyIf_of_true hl]
  simp only [if_pos (show (chanAt s c).rings.holds.any (fun h => h.1 == bits w 11 0) = true by simp [hh]), modRings, modChan, hdrop]

/-- A release with no hold on its token sets TOKEN_UNDERFLOW (R420). -/
theorem exec_dbTokenRelease_of_free {c : Nat} {w : Word} {s : State} (hc : c < 4096) (hl : (chanAt s c).live = true)
    (hh : ∀ h ∈ (chanAt s c).rings.holds, h.1 ≠ bits w 11 0) :
    exec (.dbTokenRelease c w) s = .next (setEv (.chn c) Reg.CHN_EVENT Bit.CHN_EVENT_TOKEN_UNDERFLOW s) := by
  change execDbTokenRelease c w s = _
  rw [execDbTokenRelease, atUnit_of_lt hc, onlyIf_of_true hl]
  have hnone : ¬ ((chanAt s c).rings.holds.any (fun h => h.1 == bits w 11 0) = true) := by
    simpa only [List.any_eq_true, beq_iff_eq, not_exists, not_and] using hh
  exact congrArg _ (if_neg hnone)

/-- The completion ring of a channel whose head is written: released slots may end its being full (R424). -/
def withCplHead (v : Nat) (g : Rings) : Rings := { g with cplHead := v, cplFull := g.cplFull && !cplRoom { g with cplHead := v } }

theorem exec_dbCplHead {c : Nat} (w : Word) {s : State} (hc : c < 4096) (hl : (chanAt s c).live = true) :
    exec (.dbCplHead c w) s = .next (modRings s c (withCplHead (bits w 31 0))) := by
  change execDbCplHead c w s = _
  rw [execDbCplHead, atUnit_of_lt hc, onlyIf_of_true hl]
  rfl

/-- Settles O13: each clause is the branch of its command that the clause's hypotheses select. -/
theorem mailboxesAndDoorbellsTakeCommands : Obligations.MailboxesAndDoorbellsTakeCommands := by
  unfold Obligations.MailboxesAndDoorbellsTakeCommands
  refine ⟨?go, ?overrun, ?record, ?tail, ?tailOverrun, ?release, ?underflow, ?head⟩
  case go => exact fun m w s hm hs hst => exec_mbxGo_of_idle w hm hs hst
  case overrun => exact fun m w s hm hs hst => ⟨_, exec_mbxGo_of_busy w hm hs hst, rfl, setEv_mbxs ..⟩
  case record => exact fun m k r s hm hr hop => exec_mbxResultRecord_of_room hm hr hop
  case tail =>
    intro c w s hc hl hset hd
    refine ⟨_, exec_dbCmdTail_of_fits hc hl hset hd, ?_⟩
    beta_reduce
    rw [chanAt_modChan_same, withTail_cmdTail]
    exact ⟨head_add_tailDistance w _, withTail_cmdHead .., withTail_cmds .., withTail_stalled ..,
      fun d hd => chanAt_modChan_ne s _ hd, modChan_eq ..⟩
  case tailOverrun =>
    intro c w s hc hl hset hd
    exact ⟨_, exec_dbCmdTail_of_overrun hc hl hset hd, rfl, (cmdTail_owe ..).trans (cmdTail_setEv ..)⟩
  case release => exact fun c w s a b p hc hl hh ha => exec_dbTokenRelease_of_held hc hl hh ha
  case underflow => exact fun c w s hc hl hh => exec_dbTokenRelease_of_free hc hl hh
  case head =>
    intro c w s hc hl
    refine ⟨_, exec_dbCplHead w hc hl, ?_⟩
    beta_reduce
    rw [chanAt_modRings_same]
    exact ⟨rfl, rfl, rfl, fun d hd => chanAt_modRings_ne s _ hd, rfl⟩

/-! ### The life of a channel (R396, R397, R407, R408, R410, R411) -/

/-- The detach log's creation as the statement writes it: 64 bytes for each record, in whole granules of 64 KiB (R394). -/
theorem detachLogObj_eq (recs : Nat) :
    detachLogObj recs = { size := (recs * 64 + 65535) / 65536 * 65536, dataBytes := recs * 64 } := by
  simp [detachLogObj, ceilDiv]

/-- CHAN_CREATE with a free index, no grant in its way and room for the detach log (R407). -/
theorem exec_chanCreate_ok {src : CmdSrc} {e : Entry} {s s1 : State} {c oi da : Nat} (h : Taken 0x01 src e s)
    (hlo : 64 ≤ bits e.a4 16 0) (hhi : bits e.a4 16 0 ≤ 65536) (hfree : freeChanIndex (begun src e s) = some c)
    (hgrant : grantConflict (begun src e s) c (maskTillers e.a2 e.a3) = false)
    (hmade : createObj (setChan (resetBlock (drawFree (begun src e s)).2 (.chn c) 0x1000) c
      (newChan e (chanAt (begun src e s) c) (drawFree (begun src e s)).1)) c (detachLogObj (bits e.a4 16 0)) = .ok (oi, da, s1)) :
    exec (.chanCreate src e) s = .next (answer
      { cmdOf s src e with e := { e with w0 := setBits e.w0 63 32 (handleOf s1 c) } } ST_OK
      [word (handleOf s1 c), (drawFree (begun src e s)).1, word oi] (modChan s1 c (fun k => { k with detachLog := oi }))) := by
  change execChanCreate src e s = _
  rw [execChanCreate, serve_of_taken h]
  have hrange : ¬(bits e.a4 16 0 < 64 ∨ 65536 < bits e.a4 16 0) := by omega
  simp only [if_neg hrange, hfree, hgrant, Bool.false_eq_true, if_false, createChan, cmdOf_e, hmade, chanMade]

/-- The tillers that CHAN_GRANT would take away and that a configuration names, as the statement writes them (R408). -/
theorem takenAway_iff {s : State} {c : Nat} {old new : List Nat} :
    ((old.filter (fun t => !new.contains t)).any (fun t => tillerNamed s c t) = true) ↔
      ∃ t, t ∈ old ∧ t ∉ new ∧ tillerNamed s c t = true := by
  simp

/-- CHAN_FENCE of a channel that is fenced changes nothing (R410). -/
theorem fenceChan_of_fenced {c : Nat} {s : State} (h : (chanAt s c).fenced = true) : fenceChan c s = s := by
  simp [fenceChan, h]

/-- What CHAN_FENCE does to a live channel that is not fenced (R410). -/
theorem fenceChan_of_live {c : Nat} {s : State} (hl : (chanAt s c).live = true) (hf : (chanAt s c).fenced = false) :
    fenceChan c s = abortAttempt c ST_FENCED 0xFF (finishAll c ST_FENCED (fun y => y.st == 0) (stopCopies c ST_FENCED
      (setEv (.chn c) Reg.CHN_EVENT Bit.CHN_EVENT_FENCED (modChan s c (fun k => { k with fenced := true }))))) := by
  simp [fenceChan, hl, hf]

theorem ends_chanFence {src : CmdSrc} {e : Entry} {s : State} (h : Taken 0x04 src e s) :
    Ends (.chanFence src e) src e s ST_OK [] (fenceChan (chOf s src e) (begun src e s)) := by
  change execChanFence src e s = _
  rw [execChanFence, serve_of_taken h, chOf]

theorem ends_chanUnfence {src : CmdSrc} {e : Entry} {s : State} (h : Taken 0x05 src e s) :
    Ends (.chanUnfence src e) src e s ST_OK [] (modChan (begun src e s) (chOf s src e) (fun k => { k with fenced := false })) := by
  change execChanUnfence src e s = _
  rw [execChanUnfence, serve_of_taken h, chOf]

/-! ### CHAN_DESTROY -/

/-- What a destroyed channel gives up before its index is freed: its copies, its attempt and what it holds (R411). -/
def destroyWork (c : Nat) (s : State) : State :=
  freeChan c (voidAttempt c ST_FENCED (stopCopies c ST_FENCED
    (modChan (modChan s c (fun k => { k with destroying := true })) c (fun k => { k with fenced := true }))))

/-- A channel without its tillers, windows and quotas. -/
def stripChan (k : Chan) : Chan := { k with grant := [], quota := (0, 0), used := (0, 0), windows := [] }

theorem mbxAt_destroyWork (c : Nat) (s : State) (m : Nat) : mbxAt (destroyWork c s) m = mbxAt s m := by
  have hfence : Keeps allButMbxs s
      (modChan (modChan s c (fun k => { k with destroying := true })) c (fun k => { k with fenced := true })) :=
    modChan_keeps _ _ _ (modChan_keeps _ _ _ (Keeps.refl _ _) rfl) rfl
  have hcopies := stopCopies_keeps c ST_FENCED _ hfence ⟨rfl, rfl, rfl⟩
  have hvoid := voidAttempt_keeps c ST_FENCED _ hcopies ⟨rfl, rfl, rfl, rfl, rfl, rfl, rfl, rfl, rfl, rfl, rfl, rfl, rfl, rfl⟩
  exact mbxAt_of_keeps (freeChan_keeps c _ hvoid ⟨rfl, rfl, rfl, rfl, rfl, rfl, rfl⟩) m

theorem exec_chanDestroy_of_room {m : Nat} {e : Entry} {s : State} (h : Taken 0x02 (.mbx m) e s) (hfull : mbxFull s m = false) :
    exec (.chanDestroy (.mbx m) e) s = .next (finishAsync (cmdOf s (.mbx m) e) ST_OK []
      (modChan (destroyWork (e.handle % 4096) (mbxPending m (cmdOf s (.mbx m) e) s)) (e.handle % 4096) stripChan)) := by
  change execChanDestroy (.mbx m) e s = _
  rw [execChanDestroy, serve_of_taken h, begun_mbx]
  exact congrArg _ (if_neg (by simp [hfull]))

/-- A mailbox acknowledgement PENDING, as its registers show it (R402). -/
theorem mbxAt_mbxPending (m : Nat) (x : Cmd) (s : State) :
    (mbxAt (mbxPending m x s) m).st = 3 ∧ (mbxAt (mbxPending m x s) m).status = ST_PENDING ∧
      (mbxAt (mbxPending m x s) m).run = none := by
  unfold mbxPending
  rw [mbxAt_of_keeps (mbxIrq_keeps _ _ (cntInc_keeps _ _ _ (Keeps.refl _ _) ⟨rfl, rfl, rfl⟩) rfl), mbxAt_modMbx_same]
  exact ⟨rfl, rfl, rfl⟩

/-- A mailbox command that finishes by the result ring moves from the records owed to those finished; STATE, STATUS and the
running command stay (R403). -/
theorem mbxAt_mbxFinish (m k status : Nat) (rs : List Word) (s : State) :
    ∃ o f, mbxAt (mbxFinish m k status rs s) m = { mbxAt s m with owed := o, fin := f } := by
  unfold mbxFinish
  split
  · exact ⟨_, _, rfl⟩
  · exact ⟨_, _, mbxAt_modMbx_same ..⟩

theorem mbxAt_finishAsync {x : Cmd} {m : Nat} (hx : x.src = .mbx m) (status : Nat) (rs : List Word) (s : State) :
    ∃ o f, mbxAt (finishAsync x status rs s) m = { mbxAt s m with owed := o, fin := f } := by
  unfold finishAsync
  rw [hx]
  dsimp only
  split
  · exact mbxAt_mbxFinish ..
  · exact ⟨_, _, rfl⟩

theorem finishAsync_chans {x : Cmd} {m : Nat} (hx : x.src = .mbx m) (status : Nat) (rs : List Word) (s : State) :
    (finishAsync x status rs s).chans = s.chans := by
  unfold finishAsync
  rw [hx]
  dsimp only
  split
  · unfold mbxFinish
    split <;> rfl
  · rfl

theorem chanAt_finishAsync {x : Cmd} {m : Nat} (hx : x.src = .mbx m) (status : Nat) (rs : List Word) (s : State) (c : Nat) :
    chanAt (finishAsync x status rs s) c = chanAt s c := by
  rw [chanAt, finishAsync_chans hx, chanAt]

/-! ### CHAN_REATTACH -/

/-- A channel reattached with KEEP_HOST: the next token, its rings placed, its windows kept (R396, R397). -/
def reattached (e : Entry) (token : Word) (k : Chan) : Chan :=
  { k with token := token, wrong := 0, attached := true, logFull := false,
           rings := { k.rings with set := true, cmdBase := e.a2.toNat, cmdN := bits e.a3 4 0, cmdDev := bit e.a3 5,
                                   cplBase := e.a4.toNat, cplN := bits e.a5 4 0, cplDev := bit e.a5 5 } }

theorem ends_chanReattach_ok {m : Nat} {e : Entry} {s : State} (h : Taken 0x06 (.mbx m) e s)
    (hlock : (chanAt s (e.handle % 4096)).lockUs ≤ s.us) (htoken : e.a0 = (chanAt s (e.handle % 4096)).token)
    (hkeep : bit e.a1 0 = true) (hcmd : ringOk s (e.handle % 4096) false e.a2.toNat e.a3 = true)
    (hcpl : ringOk s (e.handle % 4096) true e.a4.toNat e.a5 = true) :
    Ends (.chanReattach (.mbx m) e) (.mbx m) e s ST_OK
      [(drawFree s).1, word (put ((chanAt s (e.handle % 4096)).rings.cmdHead % 2 ^ 32) 31 0 +
        put (chanAt s (e.handle % 4096)).logged 63 32)]
      (modChan (drawFree s).2 (e.handle % 4096) (reattached e (drawFree s).1)) := by
  have hch : (cmdOf s (.mbx m) e).ch = e.handle % 4096 := rfl
  change execChanReattach (.mbx m) e s = _
  rw [execChanReattach, serve_of_taken h, begun_mbx]
  simp only [hch, if_neg (Nat.not_lt.2 hlock), htoken, ne_eq, not_true_eq_false, if_false, hkeep, if_true, hcmd, hcpl,
    Bool.and_self, Bool.not_true, Bool.false_eq_true]
  rfl

theorem ends_chanReattach_of_wrongToken {m : Nat} {e : Entry} {s : State} (h : Taken 0x06 (.mbx m) e s)
    (hlock : (chanAt s (e.handle % 4096)).lockUs ≤ s.us) (htoken : e.a0 ≠ (chanAt s (e.handle % 4096)).token) :
    Ends (.chanReattach (.mbx m) e) (.mbx m) e s ST_ATTACH_DENIED [] (attachDenied (e.handle % 4096) false s) := by
  have hch : (cmdOf s (.mbx m) e).ch = e.handle % 4096 := rfl
  change execChanReattach (.mbx m) e s = _
  rw [execChanReattach, serve_of_taken h, begun_mbx]
  simp only [hch, if_neg (Nat.not_lt.2 hlock), if_pos htoken]

/-- Settles O16: each clause is the branch of its command that the clause's hypotheses select; for CHAN_DESTROY, what its work leaves of
the mailbox and what it strips from the channel. -/
theorem channelsLiveAndDie : Obligations.ChannelsLiveAndDie := by
  unfold Obligations.ChannelsLiveAndDie
  refine ⟨?create, ?grant, ?destroy, ?fenceAgain, ?fence, ?unfence, ?reattach, ?denied⟩
  case create =>
    intro src e s c oi da s1 h hlo hhi hfree hgrant hmade
    exact exec_chanCreate_ok h hlo hhi hfree hgrant (by rw [detachLogObj_eq]; exact hmade)
  case grant =>
    rintro src e s c k h rfl rfl
    have hexec : exec (.chanGrant src e) s = execChanGrant src e s := rfl
    simp only [Ends, hexec, execChanGrant, serve_of_taken h, ← takenAway_iff, chOf]
    split_ifs <;> rfl
  case destroy =>
    intro m e s h hfull
    refine ⟨_, exec_chanDestroy_of_room h hfull, ?_⟩
    have hsrc : (cmdOf s (.mbx m) e).src = .mbx m := rfl
    obtain ⟨o, f, hmbx⟩ := mbxAt_finishAsync hsrc ST_OK [] (modChan
      (destroyWork (e.handle % 4096) (mbxPending m (cmdOf s (.mbx m) e) s)) (e.handle % 4096) stripChan)
    beta_reduce
    rw [chanAt_finishAsync hsrc, chanAt_modChan_same, hmbx, mbxAt_modChan, mbxAt_destroyWork]
    exact ⟨rfl, rfl, rfl, rfl, mbxAt_mbxPending m _ s⟩
  case fenceAgain =>
    intro src e s h hf
    exact fenceChan_of_fenced hf ▸ ends_chanFence h
  case fence =>
    rintro src e s c h rfl hl hf
    exact fenceChan_of_live hl hf ▸ ends_chanFence h
  case unfence => exact fun src e s h => ends_chanUnfence h
  case reattach =>
    rintro m e s k h rfl hlock htoken hkeep hcmd hcpl
    exact ends_chanReattach_ok h hlock htoken hkeep hcmd hcpl
  case denied => exact fun m e s h hlock htoken => ends_chanReattach_of_wrongToken h hlock htoken

end Sys2Proof.Channels
end

section
/-! PROOF. The counters of the register table (R486, R488): what an event bit leaves of the registers, the shape of a counter's row,
one equation for each branch of an increment, and the statement assembled from them. -/

open Sys2Proof Sys2Proof.Machine

namespace Sys2Proof.Counters

/-! ### Registers that a write or an event bit leaves -/

theorem blkBase_add_ne (b : Blk) {off off' : Nat} (h : off' ≠ off) : blkBase b + off' ≠ blkBase b + off :=
  fun e => h (Nat.add_left_cancel e)

theorem rdAddr_wr_ne (s : State) {b : Blk} {off a : Nat} (w : Word) (h : a ≠ blkBase b + off) :
    rdAddr (wr s b off w) a = rdAddr s a := rdAddr_wrAddr_ne s w h

theorem rd_wr_ne (s : State) (b : Blk) {off off' : Nat} (w : Word) (h : off' ≠ off) :
    rd (wr s b off w) b off' = rd s b off' := rdAddr_wr_ne s w (blkBase_add_ne b h)

@[simp] theorem rdAddr_sendMsi (v : Nat) (s : State) (a : Nat) : rdAddr (sendMsi v s) a = rdAddr s a := by
  unfold sendMsi
  split <;> rfl

/-- An event bit changes no register but its own; an interrupt or a record that it causes changes none (R404, R425). -/
theorem rdAddr_setEv_ne {b : Blk} {ev a : Nat} (n : Nat) (s : State) (h : a ≠ blkBase b + ev) :
    rdAddr (setEv b ev n s) a = rdAddr s a := by
  have hw := rdAddr_wr_ne s (rd s b ev ||| word (2 ^ n)) h
  unfold setEv
  dsimp only
  split
  · rfl
  · split
    · split
      · exact hw
      · split
        · exact (rdAddr_sendMsi ..).trans hw
        · exact hw
      · exact (rdAddr_sendMsi ..).trans hw
    · exact hw

theorem rd_setEv_ne (b : Blk) {ev off : Nat} (n : Nat) (s : State) (h : off ≠ ev) : rd (setEv b ev n s) b off = rd s b off :=
  rdAddr_setEv_ne n s (blkBase_add_ne b h)

/-! ### Bits of a word -/

theorem toNat_word {n : Nat} (h : n < 2 ^ 64) : (word n).toNat = n := Nat.mod_eq_of_lt h

theorem bit_or_word_two_pow (w : Word) {n : Nat} (h : n < 64) : bit (w ||| word (2 ^ n)) n = true := by
  have hn : (word (2 ^ n)).toNat = 2 ^ n := toNat_word (Nat.pow_lt_pow_right (by decide) h)
  simp [bit, hn]

/-! ### The rows of counters in the register tables -/

/-- A counter's row: its width is one of R486's, its saturation bit lies in a word, and the counter, its saturation register and its
event register are three registers. -/
def CounterRow (r : RegDef) : Prop :=
  (r.cnt = 32 ∨ r.cnt = 64) ∧ r.satBit < 64 ∧ r.off ≠ r.satOff ∧ r.off ≠ r.evOff ∧ r.satOff ≠ r.evOff

/-- Every counter that a register table lists has such a row. -/
theorem counterRow_of_mem_blkRegs (b : Blk) : ∀ r ∈ blkRegs b, r.cnt ≠ 0 → CounterRow r := by
  cases b <;> (simp only [blkRegs, CounterRow]; decide)

theorem regDef_off {b : Blk} {off : Nat} {r : RegDef} (h : regDef b off = some r) : r.off = off := by
  simpa using List.find?_some h

theorem counterRow_of_regDef {b : Blk} {off : Nat} {r : RegDef} (h : regDef b off = some r) (hc : r.cnt ≠ 0) : CounterRow r :=
  counterRow_of_mem_blkRegs b r (List.mem_of_find?_eq_some h) hc

theorem CounterRow.allOnes_lt {r : RegDef} (h : CounterRow r) : 2 ^ r.cnt - 1 < 2 ^ 64 := by
  obtain ⟨h32 | h64, -⟩ := h
  · simp [h32]
  · simp [h64]

/-! ### The branches of an increment -/

/-- A counter left at all-ones. -/
def stopped (b : Blk) (r : RegDef) (s : State) : State := wr s b r.off (word (2 ^ r.cnt - 1))

/-- A saturation bit set, and CNT_SAT with it (R486, R488). -/
def markSaturated (b : Blk) (r : RegDef) (s : State) : State :=
  setEv b r.evOff r.evBit (wr s b r.satOff (rd s b r.satOff ||| word (2 ^ r.satBit)))

section
variable {b : Blk} {off n : Nat} {r : RegDef} {s : State}

theorem cntAdd_of_lt (h : regDef b off = some r) (hc : r.cnt ≠ 0) (hn : 0 < n) (hlt : (rd s b off).toNat + n < 2 ^ r.cnt - 1) :
    cntAdd b off n s = wr s b off (word ((rd s b off).toNat + n)) := by
  simp [cntAdd, h, hc, hn.ne', hlt]

theorem cntAdd_of_le (h : regDef b off = some r) (hc : r.cnt ≠ 0) (hn : 0 < n) (hle : 2 ^ r.cnt - 1 ≤ (rd s b off).toNat + n) :
    cntAdd b off n s =
      if bit (rd (stopped b r s) b r.satOff) r.satBit then stopped b r s else markSaturated b r (stopped b r s) := by
  simp [cntAdd, h, hc, hn.ne', Nat.not_lt.2 hle, stopped, markSaturated, regDef_off h]

/-! ### What a stop at all-ones leaves in the registers -/

theorem toNat_rd_stopped (hr : CounterRow r) : (rd (stopped b r s) b r.off).toNat = 2 ^ r.cnt - 1 := by
  rw [stopped, rd_wr_same, toNat_word hr.allOnes_lt]

theorem rd_markSaturated_off (hr : CounterRow r) : rd (markSaturated b r s) b r.off = rd s b r.off := by
  obtain ⟨-, -, hsat, hev, -⟩ := hr
  rw [markSaturated, rd_setEv_ne _ _ _ hev, rd_wr_ne _ _ _ hsat]

theorem bit_rd_markSaturated (hr : CounterRow r) : bit (rd (markSaturated b r s) b r.satOff) r.satBit = true := by
  obtain ⟨-, hbit, -, -, hne⟩ := hr
  rw [markSaturated, rd_setEv_ne _ _ _ hne, rd_wr_same, bit_or_word_two_pow _ hbit]

theorem rdAddr_markSaturated_ne {a : Nat} (hsat : a ≠ blkBase b + r.satOff) (hev : a ≠ blkBase b + r.evOff) :
    rdAddr (markSaturated b r s) a = rdAddr s a := by
  rw [markSaturated, rdAddr_setEv_ne _ _ hev, rdAddr_wr_ne _ _ hsat]

end

/-- Settles O9: below all-ones an increment is one write; otherwise the counter stops there, and its saturation bit was set already
or is set with CNT_SAT. -/
theorem countersStopAtAllOnes : Obligations.CountersStopAtAllOnes := by
  unfold Obligations.CountersStopAtAllOnes
  intro b off n r s h hc hn
  have hr : CounterRow r := counterRow_of_regDef h hc
  have hwidth : r.cnt = 32 ∨ r.cnt = 64 := hr.1
  refine ⟨hwidth, ?below, ?stops⟩
  case below =>
    intro hlt
    rw [cntAdd_of_lt h hc hn hlt, rd_wr_same]
    exact ⟨toNat_word (hlt.trans hr.allOnes_lt), fun a ha => rdAddr_wr_ne s _ ha⟩
  case stops =>
    intro hle
    rw [cntAdd_of_le h hc hn hle]
    obtain rfl := regDef_off h
    split
    · next hset => exact ⟨toNat_rd_stopped hr, hset, fun a ha _ _ => rdAddr_wr_ne s _ ha⟩
    · refine ⟨?_, bit_rd_markSaturated hr, fun a ha hsat hev => ?_⟩
      · rw [rd_markSaturated_off hr, toNat_rd_stopped hr]
      · rw [rdAddr_markSaturated_ne hsat hev, stopped, rdAddr_wr_ne _ _ ha]

end Sys2Proof.Counters
end

section
/-! PROOF. What every step keeps, what a step is, and what reset leaves: the statements that follow from what each command keeps
(`exec_keeps`), from the definition of a step, and from the state after reset. -/

open Sys2Proof Sys2Proof.Machine Sys2Proof.Claim

namespace Sys2Proof.Steps

/-! ### The two kinds of step -/

theorem step_of_empty {s : State} (h : s.pending = []) : step s = .next (tick s) := by
  simp only [step, h]

theorem step_of_cons {s : State} {i : Instr} {rest : List Instr} (h : s.pending = i :: rest) :
    step s = exec i { s with pending := rest } := by
  simp only [step, h]

/-- Settles O1: a step on a queue with a command at its front is that command's effect. -/
theorem stepTakesTheFront : Obligations.StepTakesTheFront := by
  unfold Obligations.StepTakesTheFront
  exact fun s c rest h => step_of_cons h

/-! ### What a step keeps -/

/-- What every step keeps, whether it takes a command or is a tick: the canonical form, the fuses, the order of free values. -/
structure StepKeeps (s t : State) : Prop where
  canon : s.Canonical → t.Canonical
  free : s.freeCtr ≤ t.freeCtr
  svn : s.boot.fuseSvn ≤ t.boot.fuseSvn
  serial : t.boot.serial = s.boot.serial

theorem StepKeeps.of_keeps {T : Touch} {s t : State} (h : Keeps T s t) : StepKeeps s t := ⟨h.canon, h.free, h.svn, h.serial⟩

/-- The queue is none of the parts that a step keeps, so a step may be followed from the state with its front command taken. -/
theorem StepKeeps.of_dequeued {s t : State} {rest : List Instr} (h : StepKeeps { s with pending := rest } t) : StepKeeps s t :=
  ⟨fun c => h.canon ⟨c.dram, c.poison, c.husk, c.huskBad, c.used, c.regs⟩, h.free, h.svn, h.serial⟩

/-- The parts of the machine that a tick may change. -/
def tickTouch : Touch := { us := true, regs := true, chans := true, cxl := true }

theorem keeps_tick (s : State) : Keeps tickTouch s (tick s) := tick_keeps s (Keeps.refl _ _) ⟨rfl, rfl, rfl, rfl⟩

theorem stepKeeps_of_next {s t : State} (h : step s = .next t) : StepKeeps s t := by
  cases hp : s.pending with
  | nil =>
    rw [step_of_empty hp] at h
    obtain rfl : tick s = t := by injection h
    exact .of_keeps (keeps_tick s)
  | cons i rest =>
    rw [step_of_cons hp] at h
    exact .of_dequeued (.of_keeps (exec_keeps_of_next h))

/-- Settles O5: a tick and every command keep the canonical form. -/
theorem stepKeepsCanonicalForm : Obligations.StepKeepsCanonicalForm := by
  unfold Obligations.StepKeepsCanonicalForm
  exact fun s t hc h => (stepKeeps_of_next h).canon hc

/-- Settles O8: a tick and every command keep the fuses, and draw free values forward only. -/
theorem fusesNeverGoBack : Obligations.FusesNeverGoBack := by
  unfold Obligations.FusesNeverGoBack
  intro s t h
  have hk := stepKeeps_of_next h
  exact ⟨hk.svn, hk.serial, hk.free⟩

/-- Settles O6: what a command keeps names its frame and the queue. -/
theorem commandsKeepTheirFrame : Obligations.CommandsKeepTheirFrame := by
  unfold Obligations.CommandsKeepTheirFrame
  intro i s t h
  have hk := exec_keeps_of_next h
  exact ⟨hk.frame, hk.pending⟩

/-! ### The idle step -/

/-- A tick with the clocks stopped changes nothing (R468). -/
theorem tick_of_stopped {s : State} (h : clocksRun s = false) : tick s = s := by
  simp [tick, h]

/-- The parts that a tick may change beside the uptime. -/
def countTouch : Touch := { regs := true, chans := true, cxl := true }

/-- A tick with the clocks running counts one microsecond, and else only counts cycles (R471, R486). -/
theorem keeps_tick_of_running {s : State} (h : clocksRun s = true) :
    Keeps countTouch { s with us := min (2 ^ 64 - 1) (s.us + 1) } (tick s) := by
  have hcount (b : Blk) (off n : Nat) (u : State) (hu : Keeps countTouch { s with us := min (2 ^ 64 - 1) (s.us + 1) } u) :
      Keeps countTouch { s with us := min (2 ^ 64 - 1) (s.us + 1) } (cntAdd b off n u) :=
    cntAdd_keeps b off n u hu ⟨rfl, rfl, rfl⟩
  simp only [tick, h, Bool.not_true, Bool.false_eq_true, if_false]
  refine countWaits_keeps _ _ (keeps_foldl (fun u x => hcount _ _ _ u) (keeps_foldl (fun u x => hcount _ _ _ u) ?_)) ⟨rfl, rfl, rfl⟩
  refine keeps_ite (fun _ => ?_) (fun _ => hcount _ _ _ _ ?_) <;>
  exact keeps_ite (fun _ => hcount _ _ _ _ (hcount _ _ _ _ (Keeps.refl _ _))) (fun _ => hcount _ _ _ _ (Keeps.refl _ _))

/-- Settles O2: with the clocks running a tick is one microsecond and counts; with the clocks stopped it is nothing. -/
theorem idleStepIsOneMicrosecond : Obligations.IdleStepIsOneMicrosecond := by
  unfold Obligations.IdleStepIsOneMicrosecond
  intro s hp
  have hk := keeps_tick s
  have hf := hk.frame
  refine ⟨tick s, step_of_empty hp, fun hr => ?uptime, tick_of_stopped, hk.pending.trans hp, hf.tillers rfl, hf.objs rfl, hf.mbxs rfl,
    fun a => by rw [hf.dram rfl]⟩
  case uptime => exact (keeps_tick_of_running hr).frame.us rfl

/-! ### Reset -/

theorem chanAt_reset (c : Nat) : chanAt State.reset c = {} := rfl

theorem objAt_reset (o : Nat) : objAt State.reset o = {} := rfl

/-- Settles O4: after reset every one of these maps is empty. -/
theorem resetIsCanonical : Obligations.ResetIsCanonical := by
  unfold Obligations.ResetIsCanonical
  exact ⟨smWf_nil _, smWf_nil _, smWf_nil _, smWf_nil _, smWf_nil _, smWf_nil _⟩

/-- Settles O3: every part named is as the state after reset lists it, or unlisted and so at its default. -/
theorem resetLeavesTheModuleEmpty : Obligations.ResetLeavesTheModuleEmpty := by
  unfold Obligations.ResetLeavesTheModuleEmpty
  exact ⟨rfl, fun c => by rw [chanAt_reset], fun o => by rw [objAt_reset], rfl, fun _ => rfl, rfl, rfl, fun _ _ => rfl⟩

/-! ### Words -/

/-- No row of the command table has bits, so no word decodes to a command. -/
theorem decodeTableWord_eq_none (n w : Nat) : decodeTableWord n w = none := rfl

/-- Settles O12: no word decodes, so none joins the queue. -/
theorem noWordSpellsACommand : Obligations.NoWordSpellsACommand := by
  unfold Obligations.NoWordSpellsACommand
  exact fun n w s => ⟨decodeTableWord_eq_none n w, by rw [State.withFetchWord, decodeTableWord_eq_none]⟩

end Sys2Proof.Steps
end

section
/-! PROOF. Event bits, the checks made of every command, the entries of a ring, its completion records and a channel's settings. -/

open Sys2Proof Sys2Proof.Machine Sys2Proof.Claim Sys2Proof.Channels Sys2Proof.Counters

namespace Sys2Proof.RingCmds

/-! ### Event bits (R404, R425) -/

theorem or_word_two_pow_of_bit {w : Word} {n : Nat} (h : bit w n = true) : w ||| word (2 ^ n) = w := by
  apply BitVec.eq_of_getLsbD_eq
  intro i hi
  have hw : (word (2 ^ n)).getLsbD i = decide (n = i) := by
    rw [word, BitVec.getLsbD_ofNat, Nat.testBit_two_pow]
    simp [hi]
  rw [BitVec.getLsbD_or, hw]
  by_cases hn : n = i
  · subst hn
    simpa [bit, BitVec.getLsbD] using h
  · simp [hn]

/-- A bit that is set already causes nothing further. -/
theorem setEv_of_set {b : Blk} {ev n : Nat} {s : State} (h : bit (rd s b ev) n = true) : setEv b ev n s = s := by
  simp [setEv, h]

/-- A bit newly set without being enabled is one write. -/
theorem setEv_of_disabled {b : Blk} {ev n : Nat} {s : State} (h : bit (rd s b ev) n = false) (he : bit (rd s b (ev + 8)) n = false) :
    setEv b ev n s = wr s b ev (rd s b ev ||| word (2 ^ n)) := by
  simp [setEv, h, he]

/-- A bit of a channel newly set and enabled owes an EVENT record (Table 12.6). -/
theorem setEv_chn_of_enabled {c ev n : Nat} {s : State} (h : bit (rd s (.chn c) ev) n = false)
    (he : bit (rd s (.chn c) (ev + 8)) n = true) :
    setEv (.chn c) ev n s = oweKind c 7 0 ev (2 ^ n) 0 (wr s (.chn c) ev (rd s (.chn c) ev ||| word (2 ^ n))) := by
  simp [setEv, h, he]

theorem rd_setEv_same (b : Blk) (ev n : Nat) (s : State) : rd (setEv b ev n s) b ev = rd s b ev ||| word (2 ^ n) := by
  by_cases h : bit (rd s b ev) n = true
  · rw [setEv_of_set h, or_word_two_pow_of_bit h]
  · have hw : rd (wr s b ev (rd s b ev ||| word (2 ^ n))) b ev = rd s b ev ||| word (2 ^ n) := rd_wr_same ..
    unfold setEv
    dsimp only
    rw [if_neg h]
    split
    · split
      · exact hw
      · split
        · exact (rdAddr_sendMsi ..).trans hw
        · exact hw
      · exact (rdAddr_sendMsi ..).trans hw
    · exact hw

/-- Settles O10: a bit set already changes nothing; a new one is one write, and what its interrupt causes changes no register. -/
theorem eventsInterruptOnce : Obligations.EventsInterruptOnce := by
  unfold Obligations.EventsInterruptOnce
  intro b ev n s hn
  refine ⟨rd_setEv_same b ev n s, fun a ha => rdAddr_setEv_ne n s ha, setEv_of_set, ?disabled, ?enabled⟩
  case disabled =>
    intro h he
    rw [setEv_of_disabled h he]
    exact ⟨rfl, rfl⟩
  case enabled =>
    rintro c rfl h he
    rw [setEv_chn_of_enabled h he, oweKind, owe, chanAt_modRings_same]
    rfl

/-! ### The checks made of every command (R406, R410, R422) -/

theorem serve_of_not_ready {op : Nat} {src : CmdSrc} {e : Entry} {s : State} (h : (cmdReady s src e && e.opcode == op) = false)
    (f : Cmd → State → State) : serve op src e s f = .next s := by
  simp [serve, h]

theorem serve_of_failed {op st : Nat} {src : CmdSrc} {e : Entry} {s : State} (hr : cmdReady s src e = true) (ho : e.opcode = op)
    (hc : cmdCheck s (cmdOf s src e) = some st) (f : Cmd → State → State) :
    serve op src e s f = .next (answer (cmdOf s src e) st [] (begun src e s)) := by
  simp [serve, hr, ho, hc, begun]

/-- The host commands that never wait are served, each under its opcode. -/
theorem exec_of_hostOp {i : Instr} {op : Nat} {src : CmdSrc} {e : Entry} (h : hostOp i = some (op, src, e)) (s : State) :
    ∃ f, exec i s = serve op src e s f := by
  unfold exec
  cases i <;> simp only [hostOp, Option.some.injEq, Prod.mk.injEq, reduceCtorEq] at h <;>
  (obtain ⟨rfl, rfl, rfl⟩ := h; exact ⟨_, rfl⟩)

/-- Settles O11: each of these commands is served, and serving makes the checks first. -/
theorem failedChecksOnlyAnswer : Obligations.FailedChecksOnlyAnswer := by
  unfold Obligations.FailedChecksOnlyAnswer
  intro i op src e s h
  obtain ⟨f, hf⟩ := exec_of_hostOp h s
  rw [hf]
  exact ⟨fun hr => serve_of_not_ready hr f, fun st hr ho hc => serve_of_failed hr ho hc f⟩

/-! ### The entries of a ring (R415, R416, R456) -/

/-- An entry that a channel which voids none accepts: it joins the fetched commands and the head passes it. -/
def entryJoined (e : Entry) (k : Chan) : Chan :=
  { k with
    rings := { k.rings with cmdHead := k.rings.cmdHead + 1, stale := 0, reread := false,
                            cmds := k.rings.cmds ++ [{ pos := k.rings.cmdHead, e := e, step := k.trn.stepFetch }] }
    trn := { k.trn with
      firsts := if k.trn.firsts.any (fun q => q.1 == k.trn.stepFetch) then k.trn.firsts
                else k.trn.firsts ++ [(k.trn.stepFetch, k.rings.cmdHead)]
      stepFetch := if e.opcode = 0x35 then k.trn.stepFetch + 1 else k.trn.stepFetch } }

theorem acceptEntry_of_idle {c : Nat} {e : Entry} {s : State} (h : (chanAt s c).rcv.st = 0) :
    ∃ m, acceptEntry c e s = { s with chans := m } ∧ chanAt (acceptEntry c e s) c = entryJoined e (chanAt s c) ∧
      ∀ d, d ≠ c → chanAt (acceptEntry c e s) d = chanAt s d := by
  have heq : acceptEntry c e s = modTrn (modRings s c (fun g => { g with
      cmdHead := (chanAt s c).rings.cmdHead + 1, stale := 0, reread := false,
      cmds := g.cmds ++ [{ pos := (chanAt s c).rings.cmdHead, e := e, step := (chanAt s c).trn.stepFetch }] })) c (fun t => { t with
        firsts := if t.firsts.any (fun q => q.1 == t.stepFetch) then t.firsts
                  else t.firsts ++ [(t.stepFetch, (chanAt s c).rings.cmdHead)]
        stepFetch := if e.opcode = 0x35 then t.stepFetch + 1 else t.stepFetch }) := by
    simp [acceptEntry, h]
  refine ⟨_, heq, ?_, fun d hd => ?_⟩
  · rw [heq, chanAt_modTrn_same, chanAt_modRings_same]
    rfl
  · rw [heq, chanAt_modTrn_ne _ _ hd, chanAt_modRings_ne _ _ hd]

section
variable {c : Nat} {e f : Entry} {es : List Entry} {s : State}

/-- A read of the ring that returns goes through its entries. -/
theorem exec_ringFetch (hc : c < 4096) (hf : mayFetch s c = true) (hr : (chanAt s c).rings.reread = false) :
    exec (.ringFetch c es) s = .next (acceptAll c (ringEntries s c es) s) := by
  change execRingFetch c es s = _
  rw [execRingFetch, atUnit_of_lt hc, onlyIf_of_true (by simp [hf, hr])]

theorem acceptAll_current (ht : (chanAt s c).rings.cmdHead < (chanAt s c).rings.cmdTail)
    (hp : e.phase = phaseOf (chanAt s c).rings.cmdHead (chanAt s c).rings.cmdN) : acceptAll c [e] s = acceptEntry c e s := by
  simp [acceptAll, Nat.not_le.2 ht, hp]

theorem acceptAll_stale (ht : (chanAt s c).rings.cmdHead < (chanAt s c).rings.cmdTail)
    (hp : e.phase = !phaseOf (chanAt s c).rings.cmdHead (chanAt s c).rings.cmdN) :
    acceptAll c [e] s = modRings s c (fun g => { g with reread := true, stale := 0 }) := by
  simp [acceptAll, Nat.not_le.2 ht, hp]

/-- An entry that is not current is read again (R416). -/
theorem exec_ringFetch_of_stale (hc : c < 4096) (hf : mayFetch s c = true) (hr : (chanAt s c).rings.reread = false)
    (hes : ringEntries s c es = [e]) (ht : (chanAt s c).rings.cmdHead < (chanAt s c).rings.cmdTail)
    (hp : e.phase = !phaseOf (chanAt s c).rings.cmdHead (chanAt s c).rings.cmdN) :
    exec (.ringFetch c es) s = .next (modRings s c (fun g => { g with reread := true, stale := 0 })) := by
  rw [exec_ringFetch hc hf hr, hes, acceptAll_stale ht hp]

/-- The distance from the head to the entry that CHN_RCV_RESUME names (R456). -/
def resumeDistance (w : Word) (g : Rings) : Nat := (bits w 31 0 + 2 ^ 32 - g.cmdHead % 2 ^ 32) % 2 ^ 32

theorem exec_chnRcvResume {w : Word} (hc : c < 4096) (hl : (chanAt s c).live = true) (hst : (chanAt s c).rcv.st = 1) :
    exec (.chnRcvResume c w) s = .next (
      if resumeDistance w (chanAt s c).rings = 0 ∨ 2 ^ 31 ≤ resumeDistance w (chanAt s c).rings then
        modChanRcv s c (fun r => { r with st := 0, resumed := true, resume := (chanAt s c).rings.cmdHead })
      else modChanRcv s c (fun r => { r with
        resumed := true, resume := (chanAt s c).rings.cmdHead + resumeDistance w (chanAt s c).rings })) := by
  change execChnRcvResume c w s = _
  rw [execChnRcvResume, atUnit_of_lt hc, onlyIf_of_true (by simp [hl, hst])]
  rfl

end

/-! ### Completion records (R394, R424, R425) -/

section
variable {c : Nat} {o : CplOwed} {rest : List CplOwed} {s : State}

theorem recordWritten_of_uncommanded (h : o.pos = none) (s : State) : recordWritten c o s = s := by
  simp [recordWritten, h]

/-- A record written to slot k of a ring in the host, as a write whose vector follows it (R424, R425). -/
def recordSent (c : Nat) (o : CplOwed) (rest : List CplOwed) (s : State) : State :=
  hostWrite 0 c (chanAt s c).rings.cplTail
    ((chanAt s c).rings.cplBase + 64 * ((chanAt s c).rings.cplTail % 2 ^ (chanAt s c).rings.cplN))
    (recBytes o.r (phaseOf (chanAt s c).rings.cplTail (chanAt s c).rings.cplN)) (recordMsg (chanAt s c).rings o.irq).1
    (modRings s c (fun g => { g with
      owed := rest, cplTail := (chanAt s c).rings.cplTail + 1, unsignalled := (recordMsg (chanAt s c).rings o.irq).2,
      written := smInsert ((chanAt s c).rings.cplTail % 2 ^ (chanAt s c).rings.cplN)
        (o.r, phaseOf (chanAt s c).rings.cplTail g.cplN) g.written }))

@[simp] theorem chanAt_hostWrite (who unit pos addr : Nat) (data : List Byte) (msi : Option Nat) (s : State) (d : Nat) :
    chanAt (hostWrite who unit pos addr data msi s) d = chanAt s d := rfl

theorem chanAt_recordSent_same : chanAt (recordSent c o rest s) c = { chanAt s c with rings := { (chanAt s c).rings with
    owed := rest, cplTail := (chanAt s c).rings.cplTail + 1, unsignalled := (recordMsg (chanAt s c).rings o.irq).2,
    written := smInsert ((chanAt s c).rings.cplTail % 2 ^ (chanAt s c).rings.cplN)
      (o.r, phaseOf (chanAt s c).rings.cplTail (chanAt s c).rings.cplN) (chanAt s c).rings.written } } := by
  rw [recordSent, chanAt_hostWrite, chanAt_modRings_same]

theorem chanAt_recordSent_ne {d : Nat} (h : d ≠ c) : chanAt (recordSent c o rest s) d = chanAt s d := by
  rw [recordSent, chanAt_hostWrite, chanAt_modRings_ne _ _ h]

theorem exec_cplRecordWrite_of_attached (hc : c < 4096) (hl : (chanAt s c).live = true) (hset : (chanAt s c).rings.set = true)
    (ha : (chanAt s c).attached = true) (hd : (chanAt s c).rings.cplDev = false) (hh : hostOpen s = true)
    (ho : (chanAt s c).rings.owed = o :: rest) (hp : o.pos = none) (hroom : cplRoom (chanAt s c).rings = true) :
    exec (.cplRecordWrite c) s = .next (recordSent c o rest s) := by
  change execCplRecordWrite c s = _
  rw [execCplRecordWrite, atUnit_of_lt hc]
  simp [ho, hl, hset, ha, hd, hh, hroom, recordWritten_of_uncommanded hp, recordSent]

theorem exec_cplRecordWrite_of_detached (hc : c < 4096) (hl : (chanAt s c).live = true) (hset : (chanAt s c).rings.set = true)
    (ha : (chanAt s c).attached = false) (hroom : (chanAt s c).logged < (chanAt s c).logRecs)
    (ho : (chanAt s c).rings.owed = o :: rest) (hp : o.pos = none) :
    exec (.cplRecordWrite c) s = .next (modChan
      (objStore {} (chanAt s c).detachLog ((chanAt s c).logged * 64) (recBytes o.r true) s) c
      (fun k => { k with logged := k.logged + 1, rings := { k.rings with owed := rest } })) := by
  change execCplRecordWrite c s = _
  rw [execCplRecordWrite, atUnit_of_lt hc]
  simp [ho, hl, hset, ha, hroom, recordWritten_of_uncommanded hp]

theorem exec_msixCoalesceTimer (hc : c < 4096) (hl : (chanAt s c).live = true) (hu : (chanAt s c).rings.coalUs ≠ 0)
    (hn : (chanAt s c).rings.unsignalled ≠ 0) (hi : (chanAt s c).rings.irqEn = true) :
    exec (.msixCoalesceTimer c) s =
      .next (sendMsi (chanAt s c).rings.vector (modRings s c (fun g => { g with unsignalled := 0 }))) := by
  change execMsixCoalesceTimer c s = _
  rw [execMsixCoalesceTimer, atUnit_of_lt hc, onlyIf_of_true (by simp [hl, hu, hn])]
  simp [hi]

end

/-- The vector of a record, as the statement writes it. -/
theorem recordMsg_vector (g : Rings) (irq : Bool) :
    (recordMsg g irq).1 = if irq = true ∨ (g.coalRecords ≠ 0 ∧ g.coalRecords ≤ g.unsignalled + 1) then
      (if g.irqEn then some g.vector else none) else none := by
  unfold recordMsg
  split <;> rfl

/-- Settles O15: the three branches of the writing of a record, each as the state that it leaves. -/
theorem recordsReachTheirRing : Obligations.RecordsReachTheirRing := by
  unfold Obligations.RecordsReachTheirRing
  refine ⟨?host, ?log, ?timer⟩
  case host =>
    intro c o rest s hc hl hset ha hd hh ho hp hroom
    refine ⟨_, exec_cplRecordWrite_of_attached hc hl hset ha hd hh ho hp (by simpa [cplRoom] using hroom), ?_⟩
    beta_reduce
    rw [chanAt_recordSent_same]
    refine ⟨rfl, rfl, ?_, fun d hd => chanAt_recordSent_ne hd, rfl⟩
    rw [← recordMsg_vector]
    rfl
  case log => exact fun c o rest s hc hl hset ha hroom ho hp => exec_cplRecordWrite_of_detached hc hl hset ha hroom ho hp
  case timer => exact fun c s hc hl hu hn hi => exec_msixCoalesceTimer hc hl hu hn hi

/-- A command that is taken completes when its own effect on the state in which it has started is its answer. -/
theorem serve_eq_answer {op st : Nat} {src : CmdSrc} {e : Entry} {s t : State} {rs : List Word} {f : Cmd → State → State}
    (h : Taken op src e s) (hf : f (cmdOf s src e) (begun src e s) = answer (cmdOf s src e) st rs t) :
    serve op src e s f = .next (answer (cmdOf s src e) st rs t) := by
  rw [serve_of_taken h, hf]

/-! ### The settings of a channel (R375, R412, R420, R422) -/

/-- An entry whose opcode the set lacks is answered with ST_BAD_COMMAND alone (R422). -/
theorem ends_unknownOpcode {src : CmdSrc} {e : Entry} {s : State} (hr : cmdReady s src e = true) (hs : cmdSpec e.opcode = none) :
    Ends (.unknownOpcode src e) src e s ST_BAD_COMMAND [] (begun src e s) := by
  change execUnknownOpcode src e s = _
  simp [execUnknownOpcode, hs, hr, begun]

/-- Settles O17: each clause is the branch of its command that the clause's hypotheses select. -/
theorem channelSettingsAreWritten : Obligations.ChannelSettingsAreWritten := by
  unfold Obligations.ChannelSettingsAreWritten
  refine ⟨?rings, ?busy, ?window, ?unset, ?query, ?hold, ?full, ?nop, ?unknown⟩
  case rings =>
    rintro src e s c h rfl hcmds hcmd hcpl
    change execRingSet src e s = _
    refine serve_eq_answer h ?_
    simp [chOf] at hcmds hcmd hcpl
    simp [hcmds, hcmd, hcpl, chOf]
  case busy =>
    rintro src e s c h rfl hcmds
    change execRingSet src e s = _
    refine serve_eq_answer h ?_
    simp [chOf] at hcmds
    simp [hcmds]
  case window =>
    intro src e s h hb h1 h2
    change execHostWindowSet src e s = _
    refine serve_eq_answer h ?_
    have hn : (!bit e.a0 4 && !bit e.a0 5) = false := by
      cases hb with
      | inl hb => simp [hb]
      | inr hb => simp [hb]
    simp [hn, h1, h2, chOf]
  case unset =>
    intro src e s h h4 h5
    change execHostWindowSet src e s = _
    refine serve_eq_answer h ?_
    simp [h4, h5, chOf]
  case query =>
    rintro src e s k h rfl
    change execChanQuery src e s = _
    exact serve_eq_answer h rfl
  case hold =>
    intro src e s h hlt
    change execTokenHold src e s = _
    refine serve_eq_answer h ?_
    exact if_neg (Nat.not_le.2 hlt)
  case full =>
    intro src e s h hle
    change execTokenHold src e s = _
    refine serve_eq_answer h ?_
    exact if_pos hle
  case nop =>
    intro src e s h
    change execNop src e s = _
    exact serve_eq_answer h rfl
  case unknown => exact fun src e s hr hs => ends_unknownOpcode hr hs

end Sys2Proof.RingCmds
end

section
/-! PROOF. No command is refused: every outcome is a next state, or the fault of an event at a unit that the module lacks. One lemma for
each of the shared forms in which commands are given their effects, and the statement by cases on the command. -/

open Sys2Proof Sys2Proof.Machine Sys2Proof.Claim

namespace Sys2Proof.Outcomes

/-- An outcome that goes on, or names a unit that the module lacks. -/
def Answers (o : Host.Outcome State Fault Refusal) : Prop := (∃ t, o = .next t) ∨ o = .fault .noSuchUnit

theorem answers_next (t : State) : Answers (.next t) := .inl ⟨t, rfl⟩

theorem answers_ite {c : Prop} [Decidable c] {o p : Host.Outcome State Fault Refusal} (ho : Answers o) (hp : Answers p) :
    Answers (if c then o else p) := by
  split
  · exact ho
  · exact hp

theorem answers_onlyIf (b : Bool) (s : State) (f : State → State) : Answers (onlyIf b s f) := answers_next _

theorem answers_atUnit {n k : Nat} {o : Host.Outcome State Fault Refusal} (h : Answers o) : Answers (atUnit n k o) :=
  answers_ite h (.inr rfl)

theorem answers_serve (op : Nat) (src : CmdSrc) (e : Entry) (s : State) (f : Cmd → State → State) : Answers (serve op src e s f) :=
  answers_ite (answers_next _) (answers_next _)

/-- A command whose accesses wait goes on as one that waits, or as one whose turn it is (R182, R183). -/
theorem answers_gatedBy {who req : Nat} {ch : Option Nat} {l : List Access} {s : State}
    {k : List Nat → State → Host.Outcome State Fault Refusal} (hk : ∀ dead u, Answers (k dead u)) :
    Answers (gatedBy .next who ch req l k s) := by
  unfold gatedBy gatedAt
  split
  · exact answers_next _
  · exact answers_ite (answers_next _) (answers_ite (answers_next _) (hk _ _))

theorem answers_collServe (op : Nat) (src : CmdSrc) (e : Entry) (s : State) (f : Cmd → Nat → State → State) :
    Answers (collServe op src e s f) := answers_ite (answers_next _) (answers_serve ..)

theorem answers_collP2p (op : Nat) (recv : Bool) (src : CmdSrc) (e : Entry) (s : State) : Answers (collP2p op recv src e s) :=
  answers_collServe ..

theorem answers_collBcast (src : CmdSrc) (e : Entry) (s : State) : Answers (execCollBcast src e s) :=
  answers_gatedBy fun _ _ => answers_collServe ..

theorem answers_onMsg (kind : Nat) (m : Msg) (s : State) (f : State → State) : Answers (onMsg kind m s f) := answers_onlyIf ..

theorem answers_instr (op : Nat) (reads : Word → List Nat) (t : Nat) (w : Word) (s : State) (f : Tiller → State → State) :
    Answers (instr op reads t w s f) := answers_atUnit (answers_onlyIf ..)

theorem answers_scalar (op t : Nat) (w : Word) (s : State) (f : Word → Word → Word → Word → Word) :
    Answers (scalar op t w s f) := answers_instr ..

theorem answers_vectorIssue (op t : Nat) (w : Word) (s : State) : Answers (vectorIssue op t w s) :=
  answers_atUnit (answers_onlyIf ..)

theorem answers_copyCommand (op : Nat) (d2h : Bool) (src : CmdSrc) (e : Entry) (s : State) :
    Answers (copyCommand op d2h src e s) := answers_ite (answers_next _) (answers_serve ..)

theorem answers_gather (src : CmdSrc) (e : Entry) (s : State) : Answers (execGather src e s) := by
  unfold execGather
  extract_lets
  exact answers_ite (answers_next _) (answers_gatedBy fun _ _ => answers_serve ..)

theorem answers_copyEngineStart (n : Nat) (s : State) : Answers (execCopyEngineStart n s) := by
  refine answers_atUnit ?_
  dsimp only
  split
  · exact answers_next _
  · split
    · exact answers_next _
    · exact answers_next _

theorem answers_hostReadReturn (id : Nat) (data : List Byte) (s : State) : Answers (execHostReadReturn id data s) := by
  unfold execHostReadReturn
  split
  · exact answers_next _
  · exact answers_next _

theorem answers_hostWriteGo (id : Nat) (s : State) : Answers (execHostWriteGo id s) := by
  unfold execHostWriteGo
  split
  · exact answers_next _
  · exact answers_next _

/-- A timeout is at a tiller, a copy engine, a link port or a granule that moves (R432). -/
theorem answers_tagTimeout (who unit rid : Nat) (s : State) : Answers (execTagTimeout who unit rid s) := by
  unfold execTagTimeout
  split
  · exact answers_atUnit (answers_next _)
  · exact answers_atUnit (answers_next _)
  · exact answers_atUnit (answers_next _)
  · exact answers_next _

theorem answers_unknownOpcode (src : CmdSrc) (e : Entry) (s : State) : Answers (execUnknownOpcode src e s) :=
  answers_ite (answers_next _) (answers_next _)

theorem answers_exec (i : Instr) (s : State) : Answers (exec i s) := by
  unfold exec
  cases i with
  | chanCreate _ _ | chanDestroy _ _ | chanGrant _ _ | chanFence _ _ | chanUnfence _ _ | chanReattach _ _ | ringSet _ _
    | hostWindowSet _ _ | chanQuery _ _ | torusSet _ _ | routeSet _ _ | tokenHold _ _ | nop _ _ | objCreate _ _
    | objFree _ _ | objSetMode _ _ | objShare _ _ | objUnshare _ _ | objQuery _ _ | objReplicate _ _ | objReplicaDrop _ _
    | objFlush _ _ | objMigrate _ _ | regionRegister _ _ | shardCreate _ _ | shardFree _ _ | hyperSet _ _ | commitAck _ _
    | variantSet _ _ | deltaSink _ _ | collGroupCreate _ _ | collGroupFree _ _ | linkFence _ _ | fwBegin _ _ | fwBlock _ _
    | fwVerify _ _ | fwActivate _ _ | fwAbort _ _ | fwStatus _ _ | settingsGet _ _ | settingsSet _ _ | keyLoad _ _
    | keyClear _ _ =>
    exact answers_serve ..
  | stageLoad _ _ _ | regionRelease _ _ | sheafRegister _ _ | stepClose _ _ | hostCommit _ _ | reshard _ _ =>
    exact answers_ite (answers_next _) (answers_serve ..)
  | collSend _ _ | collRecv _ _ =>
    exact answers_collP2p ..
  | collBarrier _ _ =>
    exact answers_collServe ..
  | smbTelemetry _ _ | smbHeartbeat _ | smbRecover _ _ | smbDetach _ | smbLogRead _ _ | cxlLinkUp _ _ _ _ _ | cxlLinkDown
    | perstAssert | cxlHotReset | cxlFlr | ideIntegrityFail | hostWdExpire | hostWdWrite _ | cxpAttach | cxpDetach
    | hdmCommit _ _ | bar0BadAccess _ | bar4Read _ _ _ _ _ | bar4Write _ _ _ _ _ | spdmRequest _ | heartbeatAdvance
    | rachisTakeover | standbyReloadDone _ | monRcvReq _ | fenceDrainTimeout _ | powerAverage _ _ | dieTempSample _ _
    | thermalShutdown _ | stretchEnd | dipHoldEnd | railResetOther _ _ | clockLoss | clockRestored | vcoreMinReset _
    | fwCommitCopy | handoverStandbyReady | handoverTimeout | rcvBegin _ | rcvBlock _ | rcvVerify _ | rcvStart _
    | modRstPulse _ | modRstLong _ | pwrEnRise _ | pwrEnFall | inputUndervolt | inputOvervolt | inputRestored | aonLoss
    | inputApplied | undervoltEnd | perstDeassert =>
    exact answers_onlyIf ..
  | mbxGo _ _ | dbCmdTail _ _ | dbTokenRelease _ _ | dbCplHead _ _ | ringFetch _ _ | staleReread _ _ | msixCoalesceTimer _
    | layerBarrierGo _ | lateSwap _ | deferredSwapResume _ | staleNotice _ _ | arraySync _ | contextSwitch _
    | bankSlow _ _ _ _ | bankTimeout _ _ _ _ | dtBankTimeout _ _ _ _ _ | accumReoffer _ _ _ | workNarrowStart _
    | dieAutoErase _ _ | scrubRead _ _ _ | refreshForce _ _ _ | stackTempSample _ _ | stackThermExit _ | dtThermExit _
    | xlatMissFill _ _ _ | trainingRecordRx _ _ | trainingStepTimeout _ | trainingRestart _ | laneFail _ _
    | portRetrainDone _ | cablePresent _ | flitRx _ _ | flitTx _ | stepCommit _ | deltaWaitTimeout _ | deltaHeadWrite _ _
    | rejoinWaitExpire _ | rejoinAckTimeout _ | progressTimeout _ _ | chnRcvResume _ _ | lsLoad _ _ | vcoreDip _ _
    | vcoreResetLevel _ _ | illegalOp _ _ | laneLock _ | trainingRecordSend _ =>
    exact answers_atUnit (answers_onlyIf ..)
  | mbxResultRecord _ | cplRecordWrite _ | admitWaveOpen _ | streamTileArrive _ _ _ | streamEndArrive _ _ _
    | streamCreditReturn _ _ _ | relayForward _ | relayStall _ | prefetchIssue _ _ _ _ _ _ _ _ | memRequestSend _ _
    | tileLand _ _ | writeAck _ _ | arrayPass _ | arrayBankFlush _ | vectorBeat _ | stackPartServe _ _ _ _ _
    | accumArrive _ _ _ | sheafComplete _ _ | updateItemStart _ | updatePhaseDone _ | scaleReport _ _ _ | bankRefresh _ _ _
    | dtPartServe _ _ _ _ | dtTempSample _ _ | portRetrainWrite _ | normStart _ | deltaExportStart _ | deltaSegmentWrite _
    | collTimeout _ _ | copyComplete _ | cmdWatchdog _ _ | watchdogReleaseTimeout _ _ | railOutOfBand _ _ =>
    exact answers_atUnit (answers_next _)
  | vadd _ _ | vsub _ _ | vmul _ _ | vfma _ _ | vmax _ _ | vmin _ _ | vabs _ _ | vneg _ _ | vcmp _ _ | vsel _ _ | vcpy _ _
    | vexp2 _ _ | vexp _ _ | vlog2 _ _ | vrcp _ _ | vrsqrt _ _ | vsqrt _ _ | vtanh _ _ | vsigm _ _ | verf _ _ | rsum _ _
    | rssq _ _ | rmax _ _ | rmin _ _ | ramax _ _ | rrowsum _ _ | rrowssq _ _ | rrowmax _ _ =>
    exact answers_vectorIssue ..
  | sadd _ _ | ssub _ _ | smul _ _ | sand _ _ | sor _ _ | sxor _ _ | sshl _ _ | sshr _ _ | slih _ _ | sfadd _ _ | sfmul _ _
    | sfma _ _ | scvtf _ _ | scvti _ _ =>
    exact answers_scalar ..
  | sld _ _ | sst _ _ | arr _ _ | waita _ _ | mreq _ _ | waitm _ _ | mwrite _ _ | send _ _ | waitin _ _ | relin _ _
    | waitw _ _ | relw _ _ | ftqWait _ _ | ftqPop _ _ | br _ _ | tileEnd _ _ | stageEnd _ _ | waitv _ _ | seqNop _ _ =>
    exact answers_instr ..
  | cxlMemRead _ | cxlMemWrite _ _ | migrateInvalidate _ _ _ | migrateCopyStart _ _ | migrateRecordWrite _ _
    | migrateFreeSource _ _ | migrateHoldTimeout _ _ | migrateRetry _ _ | tagProbeReturn _ _ _ | tagProbeTimeout _ _ _
    | resetStepDone _ _ | stookSaveDone _ | thermLevelStep | throttleApply | counterClear _ _ _ _ | registerWrite _ _ _
    | bootChain _ _ _ _ | flashOpDone =>
    exact answers_next _
  | fence _ | unfence _ | stepAbort _ | rejoin _ | rejoinAck _ | huskResend _ | plan _ | reshardReady _ | rdReq _ | wrReq _
    | rdResp _ | wrAck _ | err _ | chunk _ | cts _ | barrier _ =>
    exact answers_onMsg ..
  | copyH2d _ _ | copyD2h _ _ => exact answers_copyCommand ..
  | gather _ _ => exact answers_gather ..
  | collBcast _ _ => exact answers_collBcast ..
  | copyEngineStart _ => exact answers_copyEngineStart ..
  | hostReadReturn _ _ => exact answers_hostReadReturn ..
  | hostWriteGo _ => exact answers_hostWriteGo ..
  | tagTimeout _ _ _ => exact answers_tagTimeout ..
  | unknownOpcode _ _ => exact answers_unknownOpcode ..

/-- Settles O7: by cases on the command, in the form that gives it its effect. -/
theorem noCommandIsRefused : Obligations.NoCommandIsRefused := by
  unfold Obligations.NoCommandIsRefused
  exact answers_exec

end Sys2Proof.Outcomes
end

section
/-! PROOF. What goes over a link reads back: little-endian bytes and the bits of a word read back as the numbers put into them, and the
three images (Tables 10.2, 10.3 and 10.5) are made of such words. -/

open Sys2Proof Sys2Proof.Machine

namespace Sys2Proof.Images

/-! ### Little-endian bytes (R8) -/

@[simp] theorem length_leBytes (n v : Nat) : (leBytes n v).length = n := by
  induction n generalizing v with
  | zero => rfl
  | succ n ih => simp [leBytes, ih]

theorem leValue_leBytes (n v : Nat) : leValue (leBytes n v) = v % 256 ^ n := by
  induction n generalizing v with
  | zero => simp [leBytes, leValue, Nat.mod_one]
  | succ n ih =>
    rw [leBytes, leValue, ih, BitVec.toNat_ofNat, pow_succ' 256 n, Nat.mod_mul]

theorem leValue_leBytes_of_lt {n v : Nat} (h : v < 256 ^ n) : leValue (leBytes n v) = v := by
  rw [leValue_leBytes, Nat.mod_eq_of_lt h]

theorem take_leBytes {k n : Nat} (v : Nat) (h : k ≤ n) : (leBytes n v).take k = leBytes k v := by
  induction k generalizing n v with
  | zero => rfl
  | succ k ih =>
    obtain ⟨n, rfl⟩ : ∃ m, n = m + 1 := ⟨n - 1, by omega⟩
    rw [leBytes, List.take_succ_cons, ih _ (by omega), leBytes]

theorem drop_leBytes {k n : Nat} (v : Nat) (h : k ≤ n) : (leBytes n v).drop k = leBytes (n - k) (v / 256 ^ k) := by
  induction k generalizing n v with
  | zero => simp
  | succ k ih =>
    obtain ⟨n, rfl⟩ : ∃ m, n = m + 1 := ⟨n - 1, by omega⟩
    rw [leBytes, List.drop_succ_cons, ih _ (by omega), Nat.div_div_eq_div_mul, ← pow_succ', Nat.succ_sub_succ]

/-- A field of k bytes at byte j of a run of n bytes. -/
theorem leValue_take_drop_leBytes {j k n : Nat} (v : Nat) (h : j + k ≤ n) :
    leValue (((leBytes n v).drop j).take k) = v / 256 ^ j % 256 ^ k := by
  rw [drop_leBytes v (by omega), take_leBytes _ (by omega), leValue_leBytes]

/-! ### CRC-32C -/

theorem crcShift_lt (n : Nat) {c : Nat} (h : c < 2 ^ 32) : crcShift n c < 2 ^ 32 := by
  induction n generalizing c with
  | zero => exact h
  | succ n ih =>
    have hd : c / 2 < 2 ^ 32 := by omega
    refine ih ?_
    split
    · exact Nat.xor_lt_two_pow hd (by decide)
    · exact hd

theorem crcRun_lt {c : Nat} (bs : List Byte) (h : c < 2 ^ 32) : crcRun c bs < 2 ^ 32 := by
  induction bs generalizing c with
  | nil => exact h
  | cons b bs ih => exact ih (crcShift_lt 8 (Nat.xor_lt_two_pow h (b.isLt.trans (by decide))))

theorem crc32c_lt (bs : List Byte) : crc32c bs < 256 ^ 4 :=
  Nat.xor_lt_two_pow (n := 32) (crcRun_lt bs (by decide)) (by decide)

/-! ### Fields of a word -/

theorem put_of_lt {v hi lo : Nat} (h : v < 2 ^ (hi + 1 - lo)) : put v hi lo = v * 2 ^ lo := by
  rw [put, Nat.mod_eq_of_lt h, Nat.shiftLeft_eq]

theorem putB_eq (b : Bool) (n : Nat) : putB b n = b.toNat * 2 ^ n := by
  cases b <;> simp [putB]

theorem nbits_eq (w hi lo : Nat) : nbits w hi lo = w / 2 ^ lo % 2 ^ (hi + 1 - lo) := by
  rw [nbits, Nat.shiftRight_eq_div_pow]

theorem toNat_lt_two (b : Bool) : b.toNat < 2 := b.toNat_lt

/-- The bit at which a Bool was put. -/
theorem testBit_eq_of_toNat {w n : Nat} {b : Bool} (h : w / 2 ^ n % 2 = b.toNat) : w.testBit n = b := by
  rw [Nat.testBit_eq_decide_div_mod_eq, h]
  cases b <;> rfl

/-! ### Training records (Table 10.2) -/

/-- The first word of a training record. -/
def trainWord (r : TrainRec) : Nat := put r.format 7 0 + put r.port 10 8 + putB r.huskRx 11 + put r.lanes 19 12

/-- The three words of a training record that its CRC covers. -/
def trainBytes (r : TrainRec) : List Byte :=
  leBytes 4 (trainWord r) ++ leBytes 4 (put r.deviceId 15 0 + put r.gen 31 16) ++ leBytes 4 (put r.dims 15 0)

theorem trainImage_eq (r : TrainRec) : trainImage r = trainBytes r ++ leBytes 4 (crc32c (trainBytes r)) := rfl

theorem trainWord_eq {r : TrainRec} (hf : r.format < 256) (hp : r.port < 8) (hl : r.lanes < 256) :
    trainWord r = r.format + r.port * 2 ^ 8 + r.huskRx.toNat * 2 ^ 11 + r.lanes * 2 ^ 12 := by
  rw [trainWord, put_of_lt hf, put_of_lt hp, put_of_lt hl, putB_eq, pow_zero, mul_one]

theorem length_trainBytes (r : TrainRec) : (trainBytes r).length = 12 := by simp [trainBytes]

theorem length_trainImage (r : TrainRec) : (trainImage r).length = 16 := by simp [trainImage_eq, length_trainBytes]

theorem trainOf_trainImage {r : TrainRec} (hf : r.format < 256) (hp : r.port < 8) (hl : r.lanes < 256) (hd : r.deviceId < 65536)
    (hg : r.gen < 65536) (hm : r.dims < 65536) : trainOf (trainImage r) = some r := by
  have hb := toNat_lt_two r.huskRx
  have hw := trainWord_eq hf hp hl
  have hw0 : leValue (leBytes 4 (trainWord r)) = trainWord r := leValue_leBytes_of_lt (by omega)
  have hw1 : leValue (leBytes 4 (put r.deviceId 15 0 + put r.gen 31 16)) = r.deviceId + r.gen * 2 ^ 16 := by
    rw [put_of_lt hd, put_of_lt hg, leValue_leBytes_of_lt (by omega), pow_zero, mul_one]
  have hw2 : leValue (leBytes 4 (put r.dims 15 0)) = r.dims := by
    rw [put_of_lt hm, leValue_leBytes_of_lt (by omega), pow_zero, mul_one]
  have hcrc : leValue (leBytes 4 (crc32c (trainBytes r))) = crc32c (trainBytes r) := leValue_leBytes_of_lt (crc32c_lt _)
  have e0 : leValue (((trainImage r).drop (4 * 0)).take 4) = trainWord r := by
    simp [trainImage_eq, trainBytes, hw0]
  have e1 : leValue (((trainImage r).drop (4 * 1)).take 4) = r.deviceId + r.gen * 2 ^ 16 := by
    simp [trainImage_eq, trainBytes, hw1]
  have e2 : leValue (((trainImage r).drop (4 * 2)).take 4) = r.dims := by
    simp [trainImage_eq, trainBytes, List.drop_append, List.drop_of_length_le, hw2]
  have e3 : leValue (((trainImage r).drop (4 * 3)).take 4) = crc32c (trainBytes r) := by
    rw [trainImage_eq, List.drop_left' (length_trainBytes r), List.take_of_length_le (by simp), hcrc]
  have ec : (trainImage r).take 12 = trainBytes r := by rw [trainImage_eq, List.take_left' (length_trainBytes r)]
  have hlen := length_trainImage r
  have hformat : nbits (trainWord r) 7 0 = r.format := by rw [nbits_eq, hw]; omega
  have hport : nbits (trainWord r) 10 8 = r.port := by rw [nbits_eq, hw]; omega
  have hhusk : (trainWord r).testBit 11 = r.huskRx := testBit_eq_of_toNat (by rw [hw]; omega)
  have hlanes : nbits (trainWord r) 19 12 = r.lanes := by rw [nbits_eq, hw]; omega
  have hdev : nbits (r.deviceId + r.gen * 2 ^ 16) 15 0 = r.deviceId := by rw [nbits_eq]; omega
  have hgen : nbits (r.deviceId + r.gen * 2 ^ 16) 31 16 = r.gen := by rw [nbits_eq]; omega
  have hdims : nbits r.dims 15 0 = r.dims := by rw [nbits_eq]; omega
  simp only [trainOf, e0, e1, e2, e3, ec, hlen, ne_eq, not_true_eq_false, or_self, if_false, hformat, hport, hhusk, hlanes, hdev, hgen,
    hdims]

/-! ### Flits (Table 10.3) -/

/-- The first two words of a flit. -/
def flitWord (f : Flit) : Nat :=
  put f.vc 1 0 + put f.cls 2 2 + putB f.sof 3 + putB f.eof 4 + putB f.idle 5 + putB f.nak 6 + put f.seq 19 8 + put f.ack 31 20
def creditWord (f : Flit) : Nat := put f.crVc 2 0 + put f.crCount 15 4 + put f.len16 19 16

/-- The bytes of a flit that its CRC covers. -/
def flitBytes (f : Flit) : List Byte := leBytes 4 (flitWord f) ++ leBytes 4 (creditWord f) ++ fitTo 240 f.payload ++ [0, 0, 0, 0]

theorem flitImage_eq (f : Flit) : flitImage f = flitBytes f ++ leBytes 4 (crc32c (flitBytes f)) := rfl

theorem length_fitTo (n : Nat) (l : List Byte) : (fitTo n l).length = n := by
  simp only [fitTo, List.length_append, List.length_take, List.length_replicate]
  omega

theorem take_fitTo {n : Nat} {l : List Byte} (h : l.length ≤ n) : (fitTo n l).take l.length = l := by
  rw [fitTo, List.take_of_length_le h, List.take_left]

theorem length_flitBytes (f : Flit) : (flitBytes f).length = 252 := by simp [flitBytes, length_fitTo]

theorem length_flitImage (f : Flit) : (flitImage f).length = 256 := by simp [flitImage_eq, length_flitBytes]

theorem flitWord_eq {f : Flit} (hv : f.vc < 4) (hc : f.cls < 2) (hs : f.seq < 4096) (ha : f.ack < 4096) :
    flitWord f = f.vc + f.cls * 2 ^ 2 + f.sof.toNat * 2 ^ 3 + f.eof.toNat * 2 ^ 4 + f.idle.toNat * 2 ^ 5 + f.nak.toNat * 2 ^ 6 +
      f.seq * 2 ^ 8 + f.ack * 2 ^ 20 := by
  rw [flitWord, put_of_lt hv, put_of_lt hc, put_of_lt hs, put_of_lt ha, putB_eq, putB_eq, putB_eq, putB_eq, pow_zero, mul_one]

theorem creditWord_eq {f : Flit} (hv : f.crVc < 8) (hc : f.crCount < 4096) (hl : f.len16 < 16) :
    creditWord f = f.crVc + f.crCount * 2 ^ 4 + f.len16 * 2 ^ 16 := by
  rw [creditWord, put_of_lt hv, put_of_lt hc, put_of_lt hl, pow_zero, mul_one]

theorem flitOf_flitImage {f : Flit} (hvc : f.vc < 4) (hcls : f.cls < 2) (hseq : f.seq < 4096) (hack : f.ack < 4096) (hcv : f.crVc < 8)
    (hcc : f.crCount < 4096) (hlen : f.len16 ≤ 15) (hpay : f.payload.length = 16 * f.len16) : flitOf (flitImage f) = some f := by
  have hsof := toNat_lt_two f.sof
  have heof := toNat_lt_two f.eof
  have hidle := toNat_lt_two f.idle
  have hnak := toNat_lt_two f.nak
  have hw := flitWord_eq hvc hcls hseq hack
  have hc := creditWord_eq hcv hcc (Nat.lt_succ_of_le hlen)
  have e0 : leValue (((flitImage f).drop (4 * 0)).take 4) = flitWord f := by
    simp [flitImage_eq, flitBytes, leValue_leBytes_of_lt (show flitWord f < 256 ^ 4 by omega)]
  have e1 : leValue (((flitImage f).drop (4 * 1)).take 4) = creditWord f := by
    simp [flitImage_eq, flitBytes,
      leValue_leBytes_of_lt (show creditWord f < 256 ^ 4 by omega)]
  have ecrc : leValue (((flitImage f).drop (4 * 63)).take 4) = crc32c (flitBytes f) := by
    rw [flitImage_eq, List.drop_left' (length_flitBytes f), List.take_of_length_le (by simp), leValue_leBytes_of_lt (crc32c_lt _)]
  have ec : (flitImage f).take 252 = flitBytes f := by rw [flitImage_eq, List.take_left' (length_flitBytes f)]
  have hfit : ((flitImage f).drop 8).take 240 = fitTo 240 f.payload := by
    have hlen : (leBytes 4 (flitWord f) ++ leBytes 4 (creditWord f)).length = 8 := by simp
    rw [flitImage_eq, flitBytes, List.append_assoc, List.append_assoc, List.drop_left' hlen, List.take_left' (length_fitTo _ _)]
  have himage := length_flitImage f
  have epay : (((flitImage f).drop 8).take 240).take (16 * f.len16) = f.payload := by
    rw [hfit, ← hpay, take_fitTo (by omega)]
  have d0 : nbits (flitWord f) 1 0 = f.vc := by rw [nbits_eq, hw]; omega
  have d1 : nbits (flitWord f) 2 2 = f.cls := by rw [nbits_eq, hw]; omega
  have d2 : (flitWord f).testBit 3 = f.sof := testBit_eq_of_toNat (by rw [hw]; omega)
  have d3 : (flitWord f).testBit 4 = f.eof := testBit_eq_of_toNat (by rw [hw]; omega)
  have d4 : (flitWord f).testBit 5 = f.idle := testBit_eq_of_toNat (by rw [hw]; omega)
  have d5 : (flitWord f).testBit 6 = f.nak := testBit_eq_of_toNat (by rw [hw]; omega)
  have d6 : nbits (flitWord f) 19 8 = f.seq := by rw [nbits_eq, hw]; omega
  have d7 : nbits (flitWord f) 31 20 = f.ack := by rw [nbits_eq, hw]; omega
  have d8 : nbits (creditWord f) 2 0 = f.crVc := by rw [nbits_eq, hc]; omega
  have d9 : nbits (creditWord f) 15 4 = f.crCount := by rw [nbits_eq, hc]; omega
  have d10 : nbits (creditWord f) 19 16 = f.len16 := by rw [nbits_eq, hc]; omega
  simp only [flitOf, e0, e1, ecrc, ec, himage, ne_eq, not_true_eq_false, or_self, if_false, d0, d1, d2, d3, d4, d5, d6, d7, d8, d9, d10, epay]

/-! ### Messages (Table 10.5) -/

/-- The header of a message: eight words of 32 bits. -/
def msgHeader (m : Msg) (husk : Bool) : List Byte :=
  leBytes 4 (put m.dst 15 0 + put m.src 31 16) ++ leBytes 4 (put m.kind 7 0 + putB husk 8 + putB m.last 9 + put m.gen 31 16) ++
  leBytes 4 (put m.group 9 0 + put m.epoch 31 16) ++ leBytes 4 m.tag ++ leBytes 8 m.offset ++ leBytes 4 (put m.obj 16 0) ++
  leBytes 4 (put m.length 16 0)

theorem msgBytes_eq (m : Msg) (husk : Bool) (wire : List Byte) : msgBytes m husk wire = msgHeader m husk ++ wire := rfl

theorem length_msgHeader (m : Msg) (husk : Bool) : (msgHeader m husk).length = 32 := by simp [msgHeader]

/-- A field of a message's header, as its word has it. -/
theorem leValue_msgBytes {o n : Nat} (m : Msg) (husk : Bool) (wire : List Byte) (h : o + n ≤ 32) :
    leValue (((msgBytes m husk wire).drop o).take n) = leValue (((msgHeader m husk).drop o).take n) := by
  rw [msgBytes_eq, List.drop_append_of_le_length (by rw [length_msgHeader]; omega), List.take_append_of_le_length]
  rw [List.length_drop, length_msgHeader]
  omega

theorem msgOf_msgBytes {m : Msg} (husk : Bool) (wire : List Byte) (hdst : m.dst < 65536) (hsrc : m.src < 65536) (hkind : m.kind < 256)
    (hgen : m.gen < 65536) (hgroup : m.group < 1024) (hepoch : m.epoch < 65536) (htag : m.tag < 2 ^ 32) (hoff : m.offset < 2 ^ 64)
    (hobj : m.obj < 2 ^ 17) (hlen : m.length < 2 ^ 17) :
    msgOf (msgBytes m husk wire) = ({ m with husk := husk, data := [], fail := 0 }, wire) := by
  have hh := toNat_lt_two husk
  have hl := toNat_lt_two m.last
  have hw0 : put m.dst 15 0 + put m.src 31 16 = m.dst + m.src * 2 ^ 16 := by rw [put_of_lt hdst, put_of_lt hsrc, pow_zero, mul_one]
  have hw1 : put m.kind 7 0 + putB husk 8 + putB m.last 9 + put m.gen 31 16 =
      m.kind + husk.toNat * 2 ^ 8 + m.last.toNat * 2 ^ 9 + m.gen * 2 ^ 16 := by
    rw [put_of_lt hkind, put_of_lt hgen, putB_eq, putB_eq, pow_zero, mul_one]
  have hw2 : put m.group 9 0 + put m.epoch 31 16 = m.group + m.epoch * 2 ^ 16 := by
    rw [put_of_lt hgroup, put_of_lt hepoch, pow_zero, mul_one]
  have hobj' : put m.obj 16 0 = m.obj := by rw [put_of_lt hobj, pow_zero, mul_one]
  have hlen' : put m.length 16 0 = m.length := by rw [put_of_lt hlen, pow_zero, mul_one]
  have fields (o n : Nat) (h : o + n ≤ 32) := leValue_msgBytes m husk wire h
  have e_dst : leValue (((msgBytes m husk wire).drop 0).take 2) = m.dst := by
    rw [fields 0 2 (by decide), msgHeader, hw0]
    simp [List.drop_append, List.take_append, take_leBytes, leValue_leBytes]
    omega
  have e_src : leValue (((msgBytes m husk wire).drop 2).take 2) = m.src := by
    rw [fields 2 2 (by decide), msgHeader, hw0]
    simp [List.drop_append, drop_leBytes, leValue_leBytes]
    omega
  have e_kind : leValue (((msgBytes m husk wire).drop 4).take 1) = m.kind := by
    rw [fields 4 1 (by decide), msgHeader, hw1]
    simp [List.take_append, take_leBytes, leValue_leBytes]
    omega
  have e_flags : leValue (((msgBytes m husk wire).drop 4).take 2) = m.kind + husk.toNat * 2 ^ 8 + m.last.toNat * 2 ^ 9 := by
    rw [fields 4 2 (by decide), msgHeader, hw1]
    simp [List.take_append, take_leBytes, leValue_leBytes]
    omega
  have e_gen : leValue (((msgBytes m husk wire).drop 6).take 2) = m.gen := by
    rw [fields 6 2 (by decide), msgHeader, hw1]
    simp [List.drop_append, List.drop_of_length_le, drop_leBytes, leValue_leBytes]
    omega
  have e_group : leValue (((msgBytes m husk wire).drop 8).take 2) = m.group := by
    rw [fields 8 2 (by decide), msgHeader, hw2]
    simp [List.drop_append, List.take_append, List.drop_of_length_le, take_leBytes, leValue_leBytes]
    omega
  have e_epoch : leValue (((msgBytes m husk wire).drop 10).take 2) = m.epoch := by
    rw [fields 10 2 (by decide), msgHeader, hw2]
    simp [List.drop_append, List.drop_of_length_le, drop_leBytes, leValue_leBytes]
    omega
  have e_tag : leValue (((msgBytes m husk wire).drop 12).take 4) = m.tag := by
    rw [fields 12 4 (by decide), msgHeader]
    simp [List.drop_append, List.drop_of_length_le, leValue_leBytes]
    omega
  have e_offset : leValue (((msgBytes m husk wire).drop 16).take 8) = m.offset := by
    rw [fields 16 8 (by decide), msgHeader]
    simp [List.drop_append, List.drop_of_length_le, leValue_leBytes]
    omega
  have e_obj : leValue (((msgBytes m husk wire).drop 24).take 4) = m.obj := by
    rw [fields 24 4 (by decide), msgHeader, hobj']
    simp [List.drop_append, List.drop_of_length_le, leValue_leBytes]
    omega
  have e_length : leValue (((msgBytes m husk wire).drop 28).take 4) = m.length := by
    rw [fields 28 4 (by decide), msgHeader, hlen']
    simp [List.drop_append, List.drop_of_length_le, take_leBytes, leValue_leBytes]
    omega
  have hhusk : (m.kind + husk.toNat * 2 ^ 8 + m.last.toNat * 2 ^ 9).testBit 8 = husk := testBit_eq_of_toNat (by omega)
  have hlast : (m.kind + husk.toNat * 2 ^ 8 + m.last.toNat * 2 ^ 9).testBit 9 = m.last := testBit_eq_of_toNat (by omega)
  have ewire : (msgBytes m husk wire).drop 32 = wire := by rw [msgBytes_eq, List.drop_left' (length_msgHeader m husk)]
  have hmod : m.group % 1024 = m.group ∧ m.obj % 2 ^ 17 = m.obj ∧ m.length % 2 ^ 17 = m.length :=
    ⟨Nat.mod_eq_of_lt hgroup, Nat.mod_eq_of_lt hobj, Nat.mod_eq_of_lt hlen⟩
  obtain ⟨mgroup, mobj, mlen⟩ := hmod
  simp only [msgOf, e_dst, e_src, e_kind, e_flags, e_gen, e_group, e_epoch, e_tag, e_offset, e_obj, e_length, hhusk, hlast, ewire,
    mgroup, mobj, mlen]

/-- Settles O39: each image is made of words whose fields read back. -/
theorem linkImagesReadBack : Obligations.LinkImagesReadBack := by
  unfold Obligations.LinkImagesReadBack
  refine ⟨?train, ?flit, ?msg⟩
  case train => exact fun r hf hp hl hd hg hm => ⟨length_trainImage r, trainOf_trainImage hf hp hl hd hg hm⟩
  case flit =>
    exact fun f hvc hcls hseq hack hcv hcc hlen hpay =>
      ⟨length_flitImage f, flitOf_flitImage hvc hcls hseq hack hcv hcc hlen hpay⟩
  case msg =>
    exact fun m husk wire hdst hsrc hkind hgen hgroup hepoch htag hoff hobj hlen =>
      msgOf_msgBytes husk wire hdst hsrc hkind hgen hgroup hepoch htag hoff hobj hlen

end Sys2Proof.Images
end

section
/-! PROOF. Rules that the statements about memory share: an access of an engine that goes at once, what counters and event bits leave of
the host link, and the states that differ in a few parts only. -/

open Sys2Proof Sys2Proof.Machine Sys2Proof.Claim

namespace Sys2Proof.Accesses

/-! ### Accesses that go at once (R182, R183, R215, R237) -/

theorem gatedAt_of_no_wait {α : Type} {wait : State → α} {es : List (Nat × EngEntry)} {k : List Nat → State → α} {s : State}
    (h : ∀ e ∈ es, engineWaits s e.1 e.2 = false) :
    gatedAt wait es k s = k ((es.filter (fun e => (engineOf s e.1).any (fun x => sameEntry e.2 x && x.poison))).map (·.1))
      (es.foldl engineLeave s) := by
  have hany : ¬ (es.any (fun e => engineWaits s e.1 e.2) = true) := by
    simpa using h
  rw [gatedAt, if_neg hany]

/-- Accesses that none has to wait for go with the homes that answer poisoned, once their requests have left the queues. -/
theorem gatedBy_of_goNow {α : Type} {wait : State → α} {who req : Nat} {ch : Option Nat} {l : List Access} {k : List Nat → State → α}
    {s : State} (h : GoNow s who ch req l) :
    gatedBy wait who ch req l k s = k (silent s who ch l) (admitted s who ch l) := by
  obtain ⟨hacc, hwait⟩ := h
  have hstuck : l.findSome? (accessStuck s req) = none := List.findSome?_eq_none_iff.2 fun x hx => (hacc x hx).1
  have hbusy : l.any (fun x => x.write && rangeBusy s x.obj x.off x.n) = false := by
    simpa using fun x hx => (hacc x hx).2
  rw [gatedBy, hstuck]
  simp only [hbusy, Bool.false_and, Bool.false_eq_true, if_false]
  by_cases hb : s.heldBy.isEmpty = true
  · simp only [hb, if_true, admitted]
    exact gatedAt_of_no_wait hwait
  · simp only [hb, Bool.false_eq_true, if_false, admitted]
    exact gatedAt_of_no_wait hwait

/-! ### What interrupts leave of the host link -/

theorem cxl_sendMsi (v : Nat) (s : State) : ∃ m, (sendMsi v s).cxl = { s.cxl with msix := m } := by
  unfold sendMsi
  split
  · exact ⟨_, rfl⟩
  · exact ⟨_, rfl⟩

theorem cxl_setEv (b : Blk) (ev n : Nat) (s : State) : ∃ m, (setEv b ev n s).cxl = { s.cxl with msix := m } := by
  unfold setEv
  dsimp only
  split
  · exact ⟨_, rfl⟩
  · split
    · split
      · exact ⟨_, rfl⟩
      · split
        · exact cxl_sendMsi _ (wr s _ ev _)
        · exact ⟨_, rfl⟩
      · exact cxl_sendMsi _ (wr s _ ev _)
    · exact ⟨_, rfl⟩

theorem cxl_cntAdd (b : Blk) (off n : Nat) (s : State) : ∃ m, (cntAdd b off n s).cxl = { s.cxl with msix := m } := by
  unfold cntAdd
  split
  · exact ⟨_, rfl⟩
  · dsimp only
    split
    · exact ⟨_, rfl⟩
    · split
      · exact ⟨_, rfl⟩
      · split
        · exact ⟨_, rfl⟩
        · exact cxl_setEv _ _ _ _

theorem cxl_cntInc (b : Blk) (off : Nat) (s : State) : ∃ m, (cntInc b off s).cxl = { s.cxl with msix := m } := cxl_cntAdd b off 1 s

/-! ### What counters and event bits leave of the other parts -/

/-- The parts that a counter or an event bit may change. -/
def countTouch : Touch := { regs := true, chans := true, cxl := true }

theorem keeps_cntInc (b : Blk) (off : Nat) (s : State) : Keeps countTouch s (cntInc b off s) :=
  cntInc_keeps b off s (Keeps.refl _ _) ⟨rfl, rfl, rfl⟩

theorem keeps_cntAdd (b : Blk) (off n : Nat) (s : State) : Keeps countTouch s (cntAdd b off n s) :=
  cntAdd_keeps b off n s (Keeps.refl _ _) ⟨rfl, rfl, rfl⟩

theorem keeps_setEv (b : Blk) (ev n : Nat) (s : State) : Keeps countTouch s (setEv b ev n s) :=
  setEv_keeps b ev n s (Keeps.refl _ _) ⟨rfl, rfl, rfl⟩

/-- A state that counters and event bits have reached is the one that they left but for three parts. -/
theorem eq_of_keeps_count {s t : State} (h : Keeps countTouch s t) : t = { s with regs := t.regs, chans := t.chans, cxl := t.cxl } := by
  have hp := h.pending
  have hf := h.frame
  cases t
  simp only [State.mk.injEq]
  exact ⟨hp, hf.us rfl, hf.freeCtr rfl, trivial, hf.tillers rfl, hf.stackMap rfl, hf.deeps rfl, hf.dram rfl, hf.poison rfl, hf.husk rfl,
    hf.huskBad rfl, hf.objs rfl, hf.grans rfl, hf.shareGroups rfl, hf.used rfl, hf.migs rfl, hf.heldBy rfl, hf.xlat rfl, hf.mbxs rfl,
    trivial, hf.links rfl, trivial, hf.power rfl, hf.phys rfl, hf.boot rfl, hf.rcv rfl, hf.flights rfl, hf.notices rfl, hf.smbOut rfl⟩

end Sys2Proof.Accesses
end


section
/-! PROOF. What a read of device memory returns depends on: states that agree there read the same bytes (R204 to R208, R217). -/

open Sys2Proof Sys2Proof.Machine Sys2Proof.Claim Sys2Proof.Channels Sys2Proof.Counters Sys2Proof.Accesses

namespace Sys2Proof.DeviceReads

/-! ### States that read alike -/

/-- Two states agree on what a read of device memory by the rachis depends on: the cells of the homes and the dies erased there, the bytes
and their poison, the husk maps, the objects and their records, the keys, and which domains are down. -/
structure ReadAlike (s t : State) : Prop where
  stackMap : t.stackMap = s.stackMap
  deeps : t.deeps = s.deeps
  dram : t.dram = s.dram
  poison : t.poison = s.poison
  husk : t.husk = s.husk
  huskBad : t.huskBad = s.huskBad
  objs : t.objs = s.objs
  grans : t.grans = s.grans
  keys : t.boot.keys = s.boot.keys
  domains : t.rcv.domains = s.rcv.domains
  erased : ∀ h, h < 16 → rd t (.yst h) Reg.YST_DIE_ERASE = rd s (.yst h) Reg.YST_DIE_ERASE

theorem ReadAlike.refl (s : State) : ReadAlike s s := ⟨rfl, rfl, rfl, rfl, rfl, rfl, rfl, rfl, rfl, rfl, fun _ _ => rfl⟩

theorem ReadAlike.symm {s t : State} (h : ReadAlike s t) : ReadAlike t s :=
  ⟨h.stackMap.symm, h.deeps.symm, h.dram.symm, h.poison.symm, h.husk.symm, h.huskBad.symm, h.objs.symm, h.grans.symm, h.keys.symm,
    h.domains.symm, fun i hi => (h.erased i hi).symm⟩

theorem ReadAlike.trans {s t u : State} (h : ReadAlike s t) (h' : ReadAlike t u) : ReadAlike s u :=
  ⟨h'.stackMap.trans h.stackMap, h'.deeps.trans h.deeps, h'.dram.trans h.dram, h'.poison.trans h.poison, h'.husk.trans h.husk,
    h'.huskBad.trans h.huskBad, h'.objs.trans h.objs, h'.grans.trans h.grans, h'.keys.trans h.keys, h'.domains.trans h.domains,
    fun i hi => (h'.erased i hi).trans (h.erased i hi)⟩

/-- What changes nothing that a read depends on, on either side, leaves the states alike. -/
theorem ReadAlike.both {s t s' t' : State} (h : ReadAlike s t) (hs : ReadAlike s s') (ht : ReadAlike t t') : ReadAlike s' t' :=
  (hs.symm.trans h).trans ht

/-! ### Registers -/

/-- A register is none of those that tell which dies of a stack are erased. -/
def NoErase (b : Blk) (off : Nat) : Prop := ∀ h, h < 16 → blkBase (.yst h) + Reg.YST_DIE_ERASE ≠ blkBase b + off

/-- A counter and what its saturation sets are none of those registers. -/
def NoEraseCount (b : Blk) (off : Nat) : Prop :=
  ∀ r, regDef b off = some r → r.cnt ≠ 0 → NoErase b off ∧ NoErase b r.satOff ∧ NoErase b r.evOff

theorem readAlike_of_erased {s : State} {r : SMap Word} {k : SMap Chan} {x : Cxl}
    (h : ∀ i, i < 16 → rd { s with regs := r, chans := k, cxl := x } (.yst i) Reg.YST_DIE_ERASE = rd s (.yst i) Reg.YST_DIE_ERASE) :
    ReadAlike s { s with regs := r, chans := k, cxl := x } := ⟨rfl, rfl, rfl, rfl, rfl, rfl, rfl, rfl, rfl, rfl, h⟩

theorem readAlike_wr {b : Blk} {off : Nat} (s : State) (w : Word) (h : NoErase b off) : ReadAlike s (wr s b off w) :=
  ⟨rfl, rfl, rfl, rfl, rfl, rfl, rfl, rfl, rfl, rfl, fun i hi => rdAddr_wr_ne s w (h i hi)⟩

theorem readAlike_setEv {b : Blk} {ev : Nat} (n : Nat) (s : State) (h : NoErase b ev) : ReadAlike s (setEv b ev n s) := by
  have herased : ∀ i, i < 16 → rd (setEv b ev n s) (.yst i) Reg.YST_DIE_ERASE = rd s (.yst i) Reg.YST_DIE_ERASE := fun i hi =>
    rdAddr_setEv_ne n s (h i hi)
  rw [eq_of_keeps_count (keeps_setEv b ev n s)] at herased ⊢
  exact readAlike_of_erased herased

theorem readAlike_cntAdd {b : Blk} {off : Nat} (n : Nat) (s : State) (h : NoEraseCount b off) : ReadAlike s (cntAdd b off n s) := by
  unfold cntAdd
  split
  · exact .refl s
  · next r hr =>
    dsimp only
    split
    · exact .refl s
    · next hc =>
      obtain ⟨hoff, hsat, hev⟩ := h r hr (fun h0 => hc (.inl h0))
      split
      · exact readAlike_wr s _ hoff
      · split
        · exact readAlike_wr s _ hoff
        · exact ((readAlike_wr s _ hoff).trans (readAlike_wr _ _ hsat)).trans (readAlike_setEv _ _ hev)

theorem readAlike_cntInc {b : Blk} {off : Nat} (s : State) (h : NoEraseCount b off) : ReadAlike s (cntInc b off s) := readAlike_cntAdd 1 s h

theorem readAlike_logRec (r : LogRec) (s : State) : ReadAlike s (logRec r s) :=
  ⟨rfl, rfl, rfl, rfl, rfl, rfl, rfl, rfl, rfl, rfl, fun _ _ => rfl⟩

/-! #### The blocks that a read counts at -/

theorem noErase_dtr (d off : Nat) : NoErase (.dtr d) off := by
  intro h hh
  simp only [blkBase, Reg.YST_DIE_ERASE]
  omega

theorem noErase_chn (c off : Nat) : NoErase (.chn c) off := by
  intro h hh
  simp only [blkBase, Reg.YST_DIE_ERASE]
  omega

theorem noErase_yst {i off : Nat} (ho : off < 0x1000) (hne : off ≠ Reg.YST_DIE_ERASE) : NoErase (.yst i) off := by
  intro h hh
  simp only [blkBase, Reg.YST_DIE_ERASE] at hne ⊢
  omega

theorem noErase_hsk {e off : Nat} (he : e < 64) (ho : off < 0x100) : NoErase (.hsk e) off := by
  intro h hh
  simp only [blkBase, Reg.YST_DIE_ERASE]
  omega

theorem noEraseCount_dtr (d off : Nat) : NoEraseCount (.dtr d) off := fun _ _ _ => ⟨noErase_dtr _ _, noErase_dtr _ _, noErase_dtr _ _⟩

theorem noEraseCount_chn (c off : Nat) : NoEraseCount (.chn c) off := fun _ _ _ => ⟨noErase_chn _ _, noErase_chn _ _, noErase_chn _ _⟩

/-- The counters of a stack lie in its block, and none of their registers tells which dies are erased. -/
theorem ystRegs_counts : ∀ r ∈ ystRegs, r.cnt ≠ 0 → (r.off < 0x1000 ∧ r.off ≠ Reg.YST_DIE_ERASE) ∧
    (r.satOff < 0x1000 ∧ r.satOff ≠ Reg.YST_DIE_ERASE) ∧ (r.evOff < 0x1000 ∧ r.evOff ≠ Reg.YST_DIE_ERASE) := by decide

theorem hskRegs_counts : ∀ r ∈ hskRegs, r.cnt ≠ 0 → r.off < 0x100 ∧ r.satOff < 0x100 ∧ r.evOff < 0x100 := by decide

theorem noEraseCount_yst (i off : Nat) : NoEraseCount (.yst i) off := by
  intro r hr hc
  obtain ⟨hoff, hsat, hev⟩ := ystRegs_counts r (List.mem_of_find?_eq_some hr) hc
  rw [← regDef_off hr]
  exact ⟨noErase_yst hoff.1 hoff.2, noErase_yst hsat.1 hsat.2, noErase_yst hev.1 hev.2⟩

theorem noEraseCount_hsk {e : Nat} (he : e < 64) (off : Nat) : NoEraseCount (.hsk e) off := by
  intro r hr hc
  obtain ⟨hoff, hsat, hev⟩ := hskRegs_counts r (List.mem_of_find?_eq_some hr) hc
  rw [← regDef_off hr]
  exact ⟨noErase_hsk he hoff, noErase_hsk he hsat, noErase_hsk he hev⟩

/-! ### Cells corrected and lost (R204 to R206) -/

theorem stackAt_of_alike {s t : State} (h : ReadAlike s t) (i : Nat) : stackAt t i = stackAt s i := by rw [stackAt, h.stackMap, stackAt]

theorem deepAt_of_alike {s t : State} (h : ReadAlike s t) (d : Nat) : deepAt t d = deepAt s d := by rw [deepAt, h.deeps, deepAt]

theorem cellErrs_of_alike {s t : State} (h : ReadAlike s t) (cw : Nat) : cellErrs t cw = cellErrs s cw := by
  simp only [cellErrs, stackAt_of_alike h, deepAt_of_alike h]

theorem isPoison_of_alike {s t : State} (h : ReadAlike s t) (cw : Nat) : isPoison t cw = isPoison s cw := by rw [isPoison, h.poison, isPoison]

theorem erasedDies_of_alike {s t : State} (h : ReadAlike s t) {i : Nat} (hi : i < 16) (k : Nat) : erasedDies t i k = erasedDies s i k := by
  simp only [erasedDies, h.erased i hi]

theorem eccLost_of_alike {s t : State} (h : ReadAlike s t) (cw : Nat) : eccLost t cw = eccLost s cw := by
  unfold eccLost
  by_cases hi : cw / 2 ^ 31 < 16
  · rw [erasedDies_of_alike h hi]
  · rw [decide_eq_false hi, Bool.false_and, Bool.false_and]

theorem correctable_of_alike {s t : State} (h : ReadAlike s t) (i k : Nat) (es : List Nat) : correctable t i k es = correctable s i k es := by
  unfold correctable
  split
  · rfl
  · next hi =>
    rw [erasedDies_of_alike h (Nat.not_le.1 hi), h.erased i (Nat.not_le.1 hi)]

theorem ReadAlike.modStack {s t : State} (h : ReadAlike s t) (i : Nat) (f : Stack → Stack) : ReadAlike (modStack s i f) (modStack t i f) := by
  refine ⟨?_, h.deeps, h.dram, h.poison, h.husk, h.huskBad, h.objs, h.grans, h.keys, h.domains, h.erased⟩
  rw [Machine.modStack, setStack, h.stackMap, stackAt_of_alike h]
  rfl

theorem ReadAlike.modDeep {s t : State} (h : ReadAlike s t) (d : Nat) (f : Deep → Deep) : ReadAlike (modDeep s d f) (modDeep t d f) := by
  refine ⟨h.stackMap, ?_, h.dram, h.poison, h.husk, h.huskBad, h.objs, h.grans, h.keys, h.domains, h.erased⟩
  rw [Machine.modDeep, setDeep, h.deeps, deepAt_of_alike h]
  rfl

theorem ReadAlike.setCells {s t : State} (h : ReadAlike s t) (cw : Nat) (es : List (Nat × Nat)) :
    ReadAlike (setCells s cw es) (setCells t cw es) := by
  unfold Machine.setCells
  dsimp only
  split
  · exact h.modStack ..
  · exact h.modDeep ..

theorem ReadAlike.setPoison {s t : State} (h : ReadAlike s t) (cw : Nat) (b : Bool) : ReadAlike (setPoison s cw b) (setPoison t cw b) := by
  refine ⟨h.stackMap, h.deeps, h.dram, ?_, h.husk, h.huskBad, h.objs, h.grans, h.keys, h.domains, h.erased⟩
  rw [Machine.setPoison, h.poison]
  rfl

theorem ReadAlike.wr {s t : State} {b : Blk} {off : Nat} (h : ReadAlike s t) (w w' : Word) (hn : NoErase b off) :
    ReadAlike (wr s b off w) (wr t b off w') := h.both (readAlike_wr s w hn) (readAlike_wr t w' hn)

theorem ReadAlike.logRec {s t : State} (h : ReadAlike s t) (r r' : LogRec) : ReadAlike (logRec r s) (logRec r' t) :=
  h.both (readAlike_logRec r s) (readAlike_logRec r' t)

/-- An error found is noted and counted at its home, where neither register tells which dies are erased. -/
theorem ReadAlike.noted {s t : State} {b : Blk} (h : ReadAlike s t) (off ev n : Nat) (hev : NoErase b ev) (hoff : NoEraseCount b off) :
    ReadAlike (cntInc b off (setEv b ev n s)) (cntInc b off (setEv b ev n t)) :=
  h.both ((readAlike_setEv n s hev).trans (readAlike_cntInc _ hoff)) ((readAlike_setEv n t hev).trans (readAlike_cntInc _ hoff))

theorem ReadAlike.ite {s t s' t' : State} {p : Prop} [Decidable p] (h : p → ReadAlike s t) (h' : ¬ p → ReadAlike s' t') :
    ReadAlike (if p then s else s') (if p then t else t') := by
  split
  · next hp => exact h hp
  · next hp => exact h' hp

theorem noErase_eccLast (i : Nat) : NoErase (homeBlk i) (if i < 16 then Reg.YST_ECC_LAST else Reg.DTR_ECC_LAST) := by
  unfold homeBlk
  split
  · exact noErase_yst (by decide) (by decide)
  · exact noErase_dtr _ _

theorem ReadAlike.eccRead {s t : State} (h : ReadAlike s t) (i k : Nat) : ReadAlike (eccRead i k s) (eccRead i k t) := by
  have hlast := noErase_eccLast i
  unfold Machine.eccRead
  dsimp only
  rw [cellErrs_of_alike h, isPoison_of_alike h, correctable_of_alike h]
  refine .ite (fun _ => h) fun _ => .ite (fun _ => .ite (fun _ => h) fun _ => ?corrected) fun _ => ?lost
  case corrected =>
    have hcells := h.setCells (k / 64) []
    refine .ite (fun hi => ?_) fun hi => ?_
    · rw [if_pos hi, homeBlk, if_pos hi] at *
      exact ((hcells.wr _ _ hlast).modStack ..).noted _ _ _ (noErase_yst (by decide) (by decide)) (noEraseCount_yst _ _)
    · rw [if_neg hi, homeBlk, if_neg hi] at *
      exact (hcells.wr _ _ hlast).noted _ _ _ (noErase_dtr _ _) (noEraseCount_dtr _ _)
  case lost =>
    have hcells := ((h.setCells (k / 64) []).setPoison (k / 64) true).wr (word (eccPlace i k + 2 ^ 31)) (word (eccPlace i k + 2 ^ 31)) hlast
    refine ReadAlike.logRec (.ite (fun hi => ?_) fun hi => ?_) _ _
    · rw [if_pos hi, homeBlk, if_pos hi] at *
      exact hcells.noted _ _ _ (noErase_yst (by decide) (by decide)) (noEraseCount_yst _ _)
    · rw [if_neg hi, homeBlk, if_neg hi] at *
      exact hcells.noted _ _ _ (noErase_dtr _ _) (noEraseCount_dtr _ _)

theorem ReadAlike.foldl {α : Type} {f : State → α → State} (hf : ∀ {s t : State} (x : α), ReadAlike s t → ReadAlike (f s x) (f t x)) :
    ∀ (l : List α) {s t : State}, ReadAlike s t → ReadAlike (l.foldl f s) (l.foldl f t)
  | [], _, _, h => h
  | x :: l, _, _, h => ReadAlike.foldl hf l (hf x h)

theorem ReadAlike.eccScan {s t : State} (h : ReadAlike s t) (k n : Nat) : ReadAlike (eccScan k n s) (eccScan k n t) := by
  unfold Machine.eccScan
  simp only [cellErrs_of_alike h, eccLost_of_alike h]
  refine ReadAlike.foldl (fun cw hc => ?_) _ h
  exact hc.eccRead _ _

/-! ### Reads (R204, R217, R226 to R228) -/

/-- Two reads return the same, and leave states that read alike. -/
structure SameRead {β : Type} (r r' : State × β) : Prop where
  alike : ReadAlike r.1 r'.1
  same : r'.2 = r.2

theorem sameRead_readCells {s t : State} (h : ReadAlike s t) (k n : Nat) : SameRead (readCells k n s) (readCells k n t) := by
  have hscan := h.eccScan k n
  refine ⟨hscan, ?_⟩
  change readKeys (Machine.eccScan k n t) k n = readKeys (Machine.eccScan k n s) k n
  simp only [readKeys, hscan.dram, isPoison_of_alike hscan]

theorem sameRead_unitRead {s t : State} (h : ReadAlike s t) (key : Option (List Byte)) (unit k n : Nat) :
    SameRead (unitRead key unit k n s) (unitRead key unit k n t) := by
  unfold unitRead
  cases key with
  | none => exact sameRead_readCells h k n
  | some y =>
    obtain ⟨halike, hsame⟩ := sameRead_readCells h (k - k % 16) ((k + n + 15) / 16 * 16 - (k - k % 16))
    refine ⟨halike, ?_⟩
    dsimp only
    rw [hsame]

theorem ReadAlike.huskFail {s t : State} (h : ReadAlike s t) {e : Nat} (he : e < 64) (cause tag : Nat) (ch : Option Nat) :
    ReadAlike (huskFail e cause tag ch s) (huskFail e cause tag ch t) :=
  (h.wr _ _ (noErase_hsk he (by decide))).noted _ _ _ (noErase_hsk he (by decide)) (noEraseCount_hsk he _)

theorem readAlike_huskLog {e : Nat} (he : e < 64) (cause tag : Nat) (ch : Option Nat) (rec : Bool) (s : State) :
    ReadAlike s (huskLog e cause tag ch rec s) := by
  have hrefetch : ∀ w, ReadAlike s (cntInc (.hsk e) Reg.HSK_CNT_REFETCH
      (if rd s (.hsk e) Reg.HSK_EDGE_LAST = w then wr s (.hsk e) Reg.HSK_EDGE_LAST (word (huskWord cause tag ch true)) else s)) := by
    intro w
    split
    · exact (readAlike_wr s _ (noErase_hsk he (by decide))).trans (readAlike_cntInc _ (noEraseCount_hsk he _))
    · exact readAlike_cntInc _ (noEraseCount_hsk he _)
  cases rec with
  | false => exact readAlike_logRec _ s
  | true => exact (hrefetch _).trans (readAlike_logRec _ _)

theorem readAlike_huskRecord (a : Agent) (o : Obj) {off tier f : Nat} (hedge : edgeOfHome (frameBlock tier f (off % 65536 / 4096)).1 < 64)
    (cause : RdCause) (rec : Bool) (s : State) : ReadAlike s (huskRecord a o off tier f cause rec s) := by
  unfold huskRecord
  split
  · exact .refl s
  · exact readAlike_huskLog hedge ..

theorem slotBad_of_alike {s t : State} (h : ReadAlike s t) (i l : Nat) : slotBad t i l = slotBad s i l := by rw [slotBad, h.huskBad, slotBad]

theorem slotHusk_of_alike {s t : State} (h : ReadAlike s t) (i l : Nat) : slotHusk t i l = slotHusk s i l := by rw [slotHusk, h.husk, slotHusk]

/-- The counts of a block expanded at an edge. -/
theorem ReadAlike.expanded {s t : State} (h : ReadAlike s t) {e : Nat} (he : e < 64) (n m : Nat) :
    ReadAlike (cntAdd (.hsk e) Reg.HSK_CNT_EXP_OUT n (cntAdd (.hsk e) Reg.HSK_CNT_EXP_IN m s))
      (cntAdd (.hsk e) Reg.HSK_CNT_EXP_OUT n (cntAdd (.hsk e) Reg.HSK_CNT_EXP_IN m t)) :=
  h.both ((readAlike_cntAdd _ s (noEraseCount_hsk he _)).trans (readAlike_cntAdd _ _ (noEraseCount_hsk he _)))
    ((readAlike_cntAdd _ t (noEraseCount_hsk he _)).trans (readAlike_cntAdd _ _ (noEraseCount_hsk he _)))

theorem SameRead.ite {β : Type} {r r' q q' : State × β} {p : Prop} [Decidable p] (h : p → SameRead r r') (h' : ¬ p → SameRead q q') :
    SameRead (if p then r else q) (if p then r' else q') := by
  split
  · next hp => exact h hp
  · next hp => exact h' hp

theorem sameRead_slotRead {s t : State} (h : ReadAlike s t) (key : Option (List Byte)) {i : Nat} (hi : edgeOfHome i < 64) (l tag : Nat)
    (ch : Option Nat) : SameRead (slotRead key i l tag ch s) (slotRead key i l tag ch t) := by
  unfold slotRead
  rw [slotBad_of_alike h, slotHusk_of_alike h]
  refine .ite (fun _ => ⟨h.huskFail hi _ _ _, rfl⟩) fun _ => .ite (fun _ => ?husk) fun _ => ?plain
  case husk =>
    obtain ⟨hhead, hsame⟩ := sameRead_unitRead h key tag (physKey i l 0) 16
    dsimp only
    rw [hsame]
    generalize nbits (leValue ((((unitRead key tag (physKey i l 0) 16 s).2.1).drop 4).take 4)) 12 0 = plen
    obtain ⟨hbody, hsame'⟩ := sameRead_unitRead hhead key tag (physKey i l 0) (min 64 (ceilDiv (16 + plen) 64) * 64)
    rw [hsame']
    refine .ite (fun _ => ⟨hbody, rfl⟩) fun _ => .ite (fun _ => ⟨hbody.expanded hi _ _, rfl⟩) fun _ => ?_
    exact ⟨(hbody.expanded hi _ _).huskFail hi _ _ _, rfl⟩
  case plain =>
    obtain ⟨halike, hsame⟩ := sameRead_unitRead h key tag (physKey i l 0) 4096
    dsimp only
    rw [hsame]
    exact ⟨halike, rfl⟩

/-! #### Frames -/

/-- The home of a block of a frame is one of the 48. -/
theorem frameBlock_home_lt (tier f : Nat) {k : Nat} (hk : k < 16) : (frameBlock tier f k).1 < 48 := by
  have hswizzle : ∀ b, b % 16 ^^^ k < 16 := fun b => Nat.xor_lt_two_pow (n := 4) (Nat.mod_lt b (by decide)) hk
  have hfield : nbits f 26 25 < 4 := Nat.mod_lt _ (by decide)
  have hhalf : nbits f 24 24 < 2 := Nat.mod_lt _ (by decide)
  unfold frameBlock
  dsimp only
  split
  · split
    · dsimp only
      omega
    · have := hswizzle (nbits f 24 0)
      rw [Nat.xor_comm] at this
      dsimp only
      omega
  · split
    · dsimp only
      omega
    · have := hswizzle (nbits f 23 0)
      dsimp only
      omega

theorem edge_of_frameBlock (tier f : Nat) {k : Nat} (hk : k < 16) : edgeOfHome (frameBlock tier f k).1 < 64 := by
  have h := frameBlock_home_lt tier f hk
  unfold edgeOfHome
  omega

theorem homeDown_of_alike {s t : State} (h : ReadAlike s t) (i : Nat) : homeDown t i = homeDown s i := by
  simp only [homeDown, domainAt, h.domains]

theorem encKey_of_alike {s t : State} (h : ReadAlike s t) (o : Obj) (i : Nat) : encKey t o i = encKey s o i := by
  rw [encKey, h.keys, encKey]

theorem sameRead_runRead {s t : State} (h : ReadAlike s t) (a : Agent) (o : Obj) (off tier f : Nat) {b : Nat} (hb : b < 65536) (n : Nat) :
    SameRead (runRead a o off tier f b n s) (runRead a o off tier f b n t) := by
  have hedge := edge_of_frameBlock tier f (k := b / 4096) (by omega)
  unfold runRead
  dsimp only
  rw [homeDown_of_alike h, encKey_of_alike h]
  refine .ite (fun _ => ⟨h, rfl⟩) fun _ => .ite (fun _ => ⟨h, rfl⟩) fun _ => .ite (fun _ => ?_) fun _ => ?_
  · obtain ⟨halike, hsame⟩ := sameRead_slotRead h (encKey s o (frameBlock tier f (b / 4096)).1) hedge (frameBlock tier f (b / 4096)).2
      (slotTag o (off - off % 4096)) a.ch
    rw [hsame]
    exact ⟨halike, rfl⟩
  · obtain ⟨halike, hsame⟩ := sameRead_unitRead h (encKey s o (frameBlock tier f (b / 4096)).1) (slotTag o off)
      (physKey (frameBlock tier f (b / 4096)).1 (frameBlock tier f (b / 4096)).2 (b % 4096)) n
    rw [hsame]
    exact ⟨halike, rfl⟩

theorem granAt_of_alike {s t : State} (h : ReadAlike s t) (o : Obj) (g : Nat) : granAt t o g = granAt s o g := by rw [granAt, h.grans, granAt]

theorem ReadAlike.huskRecord {s t : State} (h : ReadAlike s t) (a : Agent) (o : Obj) (off tier f : Nat) (cause : RdCause) (rec : Bool) :
    ReadAlike (huskRecord a o off tier f cause rec s) (huskRecord a o off tier f cause rec t) := by
  have hedge := edge_of_frameBlock tier f (k := off % 65536 / 4096) (by omega)
  exact h.both (readAlike_huskRecord a o hedge cause rec s) (readAlike_huskRecord a o hedge cause rec t)

theorem sameRead_blkRead {s t : State} (h : ReadAlike s t) (a : Agent) (o : Obj) (off n : Nat) :
    SameRead (blkRead a o off n s) (blkRead a o off n t) := by
  have hb : off % 65536 < 65536 := Nat.mod_lt _ (by decide)
  unfold blkRead
  rw [granAt_of_alike h]
  dsimp only
  generalize granAt s o (off / 65536) = r
  generalize readCopy o r a.fld = c
  obtain ⟨halike, hsame⟩ := sameRead_runRead h a o off c.1 c.2.1 hb n
  rw [hsame]
  refine .ite (fun _ => ?replica) fun _ => ⟨halike.huskRecord .., rfl⟩
  generalize (if c.2.2 = true then (r.homeTier, r.home) else (r.replTier, r.repl)) = f
  obtain ⟨halike', hsame'⟩ := sameRead_runRead halike a o off f.1 f.2 hb n
  rw [hsame']
  exact .ite (fun _ => ⟨halike'.huskRecord .., rfl⟩) fun _ => ⟨(halike'.huskRecord ..).huskRecord .., rfl⟩

/-! #### Objects and device addresses -/

/-- The rachis keeps no records of granules (R221), so its reads touch none. -/
theorem xlatTouch_of_rachis {req : Nat} (h : 148 ≤ req) (i : Nat) (s : State) : xlatTouch req i s = s := if_pos h

theorem objAt_of_alike {s t : State} (h : ReadAlike s t) (oi : Nat) : objAt t oi = objAt s oi := by rw [objAt, h.objs, objAt]

theorem objOfDa_of_alike {s t : State} (h : ReadAlike s t) (da : Nat) : objOfDa t da = objOfDa s da := by rw [objOfDa, h.objs, objOfDa]

theorem SameRead.foldl {α β : Type} {f : State × β → α → State × β}
    (hf : ∀ {r r' : State × β} (x : α), SameRead r r' → SameRead (f r x) (f r' x)) :
    ∀ (l : List α) {r r' : State × β}, SameRead r r' → SameRead (l.foldl f r) (l.foldl f r')
  | [], _, _, h => h
  | x :: l, _, _, h => SameRead.foldl hf l (hf x h)

theorem sameRead_objRead {s t : State} (h : ReadAlike s t) {a : Agent} (ha : 148 ≤ a.req) (oi off n : Nat) :
    SameRead (objRead a oi off n s) (objRead a oi off n t) := by
  unfold objRead
  rw [objAt_of_alike h]
  refine .foldl (fun {r r'} p hr => ?_) _ ⟨h, rfl⟩
  obtain ⟨hacc, hsofar⟩ := hr
  dsimp only
  rw [xlatTouch_of_rachis ha, xlatTouch_of_rachis ha, hsofar]
  obtain ⟨halike, hsame⟩ := sameRead_blkRead hacc a (objAt s oi) p.1 p.2
  rw [hsame]
  exact ⟨halike, rfl⟩

theorem sameRead_daRead {s t : State} (h : ReadAlike s t) {a : Agent} (ha : 148 ≤ a.req) (da n : Nat) :
    SameRead (daRead a da n s) (daRead a da n t) := by
  unfold daRead
  rw [objOfDa_of_alike h]
  cases objOfDa s da with
  | none => exact ⟨h, rfl⟩
  | some p => exact sameRead_objRead h ha ..

end Sys2Proof.DeviceReads
end


section
/-! PROOF. The entries of a ring in the order in which they stand (R415, R416, R456). -/

open Sys2Proof Sys2Proof.Machine Sys2Proof.Claim Sys2Proof.Channels Sys2Proof.Counters Sys2Proof.DeviceReads

namespace Sys2Proof.RingCmds

/-! ### The count of a stale read (R416) -/

/-- A count leaves a channel as it was but for the records that it is owed. -/
theorem chanAt_cntAdd (b : Blk) (off n : Nat) (s : State) (c : Nat) :
    ∃ q, chanAt (cntAdd b off n s) c = { chanAt s c with rings := { (chanAt s c).rings with owed := q } } := by
  have hself : ∃ q, chanAt s c = { chanAt s c with rings := { (chanAt s c).rings with owed := q } } := ⟨_, rfl⟩
  unfold cntAdd
  split
  · exact hself
  · dsimp only
    split
    · exact hself
    · split
      · exact hself
      · split
        · exact hself
        · exact chanAt_setEv _ _ _ _ _

/-- A channel's state after one of its reads is counted as stale. -/
theorem rings_staleCounted (s : State) (c : Nat) :
    ∃ q, (chanAt (cntInc (.chn c) Reg.CHN_CNT_STALE_RETRY s) c).rings = { (chanAt s c).rings with owed := q } := by
  obtain ⟨q, hq⟩ := chanAt_cntAdd (.chn c) Reg.CHN_CNT_STALE_RETRY 1 s c
  exact ⟨q, congrArg Chan.rings hq⟩

/-- The ring's entries are the same after a stale read is counted, wherever the ring lies. -/
theorem ringEntries_staleCounted (s : State) (c : Nat) (es : List Entry) :
    ringEntries (cntInc (.chn c) Reg.CHN_CNT_STALE_RETRY s) c es = ringEntries s c es := by
  have halike : ReadAlike s (cntInc (.chn c) Reg.CHN_CNT_STALE_RETRY s) := readAlike_cntInc s (noEraseCount_chn _ _)
  have hread : ∀ da n, (daRead {} da n (cntInc (.chn c) Reg.CHN_CNT_STALE_RETRY s)).2 = (daRead {} da n s).2 := fun da n =>
    (sameRead_daRead halike (Nat.le_refl 148) da n).same
  obtain ⟨q, hq⟩ := rings_staleCounted s c
  simp only [ringEntries, hq, hread]

section
variable {c : Nat} {e f : Entry} {s : State}

/-- A read that is stale, and not for the 64th time, is counted (R416). -/
theorem exec_staleReread_of_stale (hc : c < 4096) (hf : mayFetch s c = true) (hr : (chanAt s c).rings.reread = true)
    (hes : ringEntries s c [e] = [f]) (hp : f.phase = !phaseOf (chanAt s c).rings.cmdHead (chanAt s c).rings.cmdN)
    (hn : (chanAt s c).rings.stale + 1 < 64) :
    exec (.staleReread c e) s = .next (modRings (cntInc (.chn c) Reg.CHN_CNT_STALE_RETRY s) c
      (fun g => { g with stale := g.stale + 1 })) := by
  have hstale : f.phase ≠ phaseOf (chanAt s c).rings.cmdHead (chanAt s c).rings.cmdN := by simp [hp]
  obtain ⟨q, hq⟩ := rings_staleCounted s c
  change execStaleReread c e s = _
  rw [execStaleReread, atUnit_of_lt hc, onlyIf_of_true (by simp [hf, hr])]
  dsimp only
  rw [ringEntries_staleCounted, hes, hq]
  exact congrArg Host.Outcome.next ((if_neg hstale).trans (if_pos hn))

end

/-- Settles O14: the first entry read is accepted or read again by its phase, a stale read only counts, and voiding ends at the entry
that CHN_RCV_RESUME names. -/
theorem ringEntriesAreFetchedInOrder : Obligations.RingEntriesAreFetchedInOrder := by
  unfold Obligations.RingEntriesAreFetchedInOrder
  refine ⟨?current, ?stale, ?again, ?passed, ?ahead⟩
  case current =>
    intro c es e s hc hf hr hst hes ht hp
    obtain ⟨m, hm, hsame, hne⟩ := acceptEntry_of_idle (e := e) hst
    have hexec := exec_ringFetch (es := es) hc hf hr
    rw [hes, acceptAll_current ht hp] at hexec
    refine ⟨_, hexec, ?_⟩
    beta_reduce
    rw [hsame]
    exact ⟨rfl, rfl, rfl, hne, by rw [hm]⟩
  case stale =>
    intro c es e s hc hf hr hes ht hp
    exact exec_ringFetch_of_stale hc hf hr hes ht hp
  case again =>
    intro c e f s hc hf hr hes hp hn
    exact exec_staleReread_of_stale hc hf hr hes hp hn
  case passed =>
    intro c w s d hc hl hst hd hpass
    subst hd
    rw [exec_chnRcvResume hc hl hst]
    exact congrArg Host.Outcome.next (if_pos hpass)
  case ahead =>
    intro c w s d hc hl hst hd hpos hlt
    subst hd
    rw [exec_chnRcvResume hc hl hst]
    exact congrArg Host.Outcome.next (if_neg (not_or.2 ⟨Nat.pos_iff_ne_zero.1 hpos, Nat.not_le.2 hlt⟩))

end Sys2Proof.RingCmds
end

section
/-! PROOF. The procedure of a move and the host's CXL.mem accesses (R237 to R239, R372): one equation for each event of a move. -/

open Sys2Proof Sys2Proof.Machine Sys2Proof.Claim Sys2Proof.Channels Sys2Proof.Accesses

namespace Sys2Proof.Granules

/-! ### Requests at homes with nothing before them -/

/-- Homes with no request of an engine, no part pending and no silent bank. -/
structure HomesIdle (s : State) : Prop where
  engine : ∀ h, engineOf s h = []
  parts : ∀ h, pendingParts s h = []
  stackSlow : ∀ i, (stackAt s i).slow = []
  deepSlow : ∀ d, (deepAt s d).slow = []

section
variable {s : State}

theorem endSilence_of_idle (hs : HomesIdle s) (h : Nat) (banks : List Nat) : endSilence h banks s = s := by
  simp [endSilence, hs.stackSlow, hs.deepSlow]

theorem engineLeave_of_idle (hs : HomesIdle s) (p : Nat × EngEntry) : engineLeave s p = s := by
  simp [engineLeave, endSilence_of_idle hs, hs.engine]

theorem foldl_engineLeave_of_idle (hs : HomesIdle s) (es : List (Nat × EngEntry)) : es.foldl engineLeave s = s := by
  induction es with
  | nil => rfl
  | cons e es ih => rw [List.foldl_cons, engineLeave_of_idle hs, ih]

theorem engineShare_pos (who : Nat) : 0 < engineShare who := by
  unfold engineShare
  split_ifs <;> decide

theorem engineWaits_of_idle (hs : HomesIdle s) {h : Nat} {e : EngEntry} (ha : e.ahead = []) : engineWaits s h e = false := by
  have hfull : engineFull s h e = false := by
    have hpos := engineShare_pos e.who
    simp only [engineFull, hs.engine, List.filter_nil, List.length_nil, Bool.or_eq_false_iff, decide_eq_false_iff_not]
    omega
  simp [engineWaits, hs.engine, ha, hfull]

theorem partsAhead_of_idle (hs : HomesIdle s) (h : Nat) (runs : List (Nat × Nat)) : partsAhead s h runs = [] := by
  simp [partsAhead, hs.parts]

theorem ahead_of_idle (hs : HomesIdle s) {who : Nat} {ch : Option Nat} {write : Bool} {acc : Nat × Nat × Nat} {rs : List (Nat × Nat)}
    {e : Nat × EngEntry} (he : e ∈ entriesOf s who ch write acc rs) : e.2.ahead = [] := by
  obtain ⟨h, -, rfl⟩ := List.mem_map.1 he
  exact partsAhead_of_idle hs _ _

/-- Requests with nothing before them go at once, and no home answers them poisoned. -/
theorem gatedAt_of_idle {α : Type} (hs : HomesIdle s) {wait : State → α} {es : List (Nat × EngEntry)} {k : List Nat → State → α}
    (ha : ∀ e ∈ es, e.2.ahead = []) : gatedAt wait es k s = k [] s := by
  rw [gatedAt_of_no_wait (fun e he => engineWaits_of_idle hs (ha e he)), foldl_engineLeave_of_idle hs]
  simp [hs.engine]

end

/-! ### The events of a move (R237 to R239) -/

section
variable {o g : Nat} {m : MigCmd} {v : Move} {s : State}

/-- A requester that has dropped the record and owes no write acknowledges its invalidation. -/
def acknowledged (o g w : Nat) (s : State) : State :=
  modMove { s with xlat := smModify (fun _ => []) s.xlat w (·.filter (· != (objAt s o).mapIndex + g)) } o g
    (fun v => { v with waiting := v.waiting.filter (· != w) })

theorem exec_migrateInvalidate {w : Nat} (hm : moveOf s o g = some (m, v)) (hw : w ∈ v.waiting)
    (hs : sentTo s w o g (v.phase == 0) = false) : exec (.migrateInvalidate o g w) s = .next (acknowledged o g w s) := by
  have hs' : sentTo { s with xlat := smModify (fun _ => []) s.xlat w (·.filter (· != (objAt s o).mapIndex + g)) } w o g
      (v.phase == 0) = false := hs
  change execMigrateInvalidate o g w s = _
  rw [execMigrateInvalidate, hm]
  simp [hw, hs', acknowledged]

theorem exec_migrateCopyStart_of_idle (hs : HomesIdle s) (hm : moveOf s o g = some (m, v)) (hp : v.phase = 0) (hw : v.waiting = []) :
    exec (.migrateCopyStart o g) s = .next (copyGranule m v [] s) := by
  change execMigrateCopyStart o g s = _
  rw [execMigrateCopyStart, hm]
  simp only [hp, hw, List.isEmpty_nil, ne_eq, not_true_eq_false, decide_false, Bool.not_true, Bool.or_self, Bool.false_eq_true, if_false]
  rw [gatedAt_of_idle hs]
  intro e he
  split at he
  · simp at he
  · rcases List.mem_append.1 he with he | he
    · exact ahead_of_idle hs he
    · exact ahead_of_idle hs he

theorem exec_migrateHoldTimeout (hm : moveOf s o g = some (m, v)) (hp : v.phase < 2) :
    exec (.migrateHoldTimeout o g) s = .next (copyPump (abandonMove m v s)) := by
  change execMigrateHoldTimeout o g s = _
  rw [execMigrateHoldTimeout, hm]
  simp [Nat.not_le.2 hp]

theorem exec_migrateFreeSource_of_migrate (hm : moveOf s o g = some (m, v)) (hp : v.phase = 2) (hw : v.waiting = []) (hk : v.kind = 0) :
    exec (.migrateFreeSource o g) s = .next (migPump 64 (modMig (cntInc .plc Reg.PLC_CNT_MIG_GRANULES
      (giveBack m v.targetTier v.target s)) m.ch m.pos (fun m => { m with moves := m.moves.filter (fun v => v.granule != g) }))) := by
  change execMigrateFreeSource o g s = _
  rw [execMigrateFreeSource, hm]
  simp [hp, hw, freeSource, hk]

theorem exec_migrateRetry_of_room {f : Nat} {u : State} (hm : moveOf s o g = some (m, v)) (hp : v.phase = 3) (hi : migInflight s < 8)
    (hk : v.kind ≤ 2) (hq : quotaOk s m.ch m.targetTier 1 = true)
    (ha : allocFrames s m.targetTier m.targetField m.targetLocal 1 = some ([f], u)) :
    exec (.migrateRetry o g) s = .next (startMove m g f v.aborts (modUsed u m.ch m.targetTier (· + 1))) := by
  change execMigrateRetry o g s = _
  rw [execMigrateRetry, hm]
  simp [hp, Nat.not_le.2 hi, Nat.not_lt.2 hk, hq, ha]

end

/-! ### Translation caches (R221) -/

theorem xlatTouch_of_miss {req idx : Nat} {s : State} (hr : req < 148) (hi : idx ∉ smGet (fun _ => []) s.xlat req) :
    ∃ u : State, u.xlat = s.xlat ∧
      xlatTouch req idx s = { u with xlat := smSet (fun _ => []) s.xlat req ((idx :: smGet (fun _ => []) s.xlat req).take 64) } := by
  refine ⟨cntInc .plc Reg.PLC_CNT_XLAT_MISS s, (keeps_cntInc _ _ s).frame.xlat rfl, ?_⟩
  have hfilter : (smGet (fun _ => []) s.xlat req).filter (· != idx) = smGet (fun _ => []) s.xlat req :=
    List.filter_eq_self.2 fun x hx => bne_iff_ne.2 (ne_of_mem_of_not_mem hx hi)
  rw [xlatTouch, if_neg (Nat.not_le.2 hr)]
  simp [hi, hfilter, (keeps_cntInc .plc Reg.PLC_CNT_XLAT_MISS s).frame.xlat rfl]

theorem exec_xlatMissFill {t o g : Nat} {s : State} (ht : t < 148) (hv : (objAt s o).valid = true) (hg : g < objGranules (objAt s o))
    (hd : homeDown s (recordStack ((objAt s o).mapIndex + g)) = false)
    (hx : (objAt s o).mapIndex + g ∉ smGet (fun _ => []) s.xlat t) :
    ∃ u : State, u.xlat = s.xlat ∧ exec (.xlatMissFill t o g) s = .next { u with
      xlat := smSet (fun _ => []) s.xlat t ((((objAt s o).mapIndex + g) :: smGet (fun _ => []) s.xlat t).take 64) } := by
  change ∃ u : State, _ ∧ execXlatMissFill t o g s = _
  rw [execXlatMissFill, atUnit_of_lt ht, onlyIf_of_true (by simp [hv, hg, hd, hx])]
  split
  · obtain ⟨u, hu, h⟩ := xlatTouch_of_miss (s := modStack s _ _) ht hx
    exact ⟨u, hu, congrArg _ h⟩
  · obtain ⟨u, hu, h⟩ := xlatTouch_of_miss ht hx
    exact ⟨u, hu, congrArg _ h⟩

/-! ### CXL.mem (R372) -/

section
variable {h da oi : Nat} {o : Obj} {s : State}

theorem exec_cxlMemRead (ho : cxlMemOpen s = true) (ha : hdmAddr s (h / 64 * 64) = some da) (hr : memRefuse s da false = none)
    (hobj : objOfDa s da = some (oi, o)) (hgo : GoNow s 19 none 141 [{ obj := oi, off := da - o.baseDa, n := 64 }]) :
    ∃ a r, a = { req := 141, dead := silent s 19 none [{ obj := oi, off := da - o.baseDa, n := 64 }] } ∧
      r = objRead a oi (da - o.baseDa) 64 (admitted s 19 none [{ obj := oi, off := da - o.baseDa, n := 64 }]) ∧
      exec (.cxlMemRead h) s = .next (modCxl (cntInc .cxp Reg.CXP_CNT_MEM_RD r.1)
        (fun x => { x with memOut := x.memOut ++ [if r.2.2 = 0 then some r.2.1 else none] })) := by
  refine ⟨_, _, rfl, rfl, ?_⟩
  change execCxlMemRead h s = _
  simp only [execCxlMemRead, ho, if_true, ha, hr, hobj, gated]
  rw [gatedBy_of_goNow hgo]

theorem exec_cxlMemWrite {data : List (Nat × Byte)} (ho : cxlMemOpen s = true) (hd : ∀ b ∈ data, b.1 < 64)
    (ha : hdmAddr s (h / 64 * 64) = some da) (hr : memRefuse s da true = none) (hobj : objOfDa s da = some (oi, o))
    (hh : s.cxl.held.length < 64) :
    exec (.cxlMemWrite h data) s = .next (
      if (granAt s o ((da - o.baseDa) / 65536)).busy then
        cntInc .plc Reg.PLC_CNT_HELD_WRITES
          (modCxl s (fun x => { x with held := x.held ++ [{ obj := oi, offset := da - o.baseDa, data := data }] }))
      else gated 19 none 141 [{ write := true, obj := oi, off := da - o.baseDa, n := 64 }] (fun dead s =>
        if data.length = 64 then
          objStore { engine := false, req := 141, dead := dead } oi (da - o.baseDa)
            ((List.range 64).map (fun i => ((data.find? (fun b => b.1 == i)).map (·.2)).getD 0)) (cntInc .cxp Reg.CXP_CNT_MEM_WR s)
        else data.foldl (fun s b => objStore { engine := false, req := 141, dead := dead } oi (da - o.baseDa + b.1) [b.2] s)
          (cntInc .cxp Reg.CXP_CNT_MEM_WR s)) s) := by
  change execCxlMemWrite h data s = _
  have hall : data.all (fun b => b.1 < 64) = true := by simpa using hd
  simp only [execCxlMemWrite, ho, hall, Bool.and_self, if_true, ha, hr, hobj, if_neg (Nat.not_le.2 hh)]

end

/-- Settles O20: each clause is the branch of its event that the clause's hypotheses select. -/
theorem granulesMoveStepByStep : Obligations.GranulesMoveStepByStep := by
  unfold Obligations.GranulesMoveStepByStep
  refine ⟨?invalidate, ?frame, ?copy, ?record, ?free, ?timeout, ?retry, ?fill, ?read, ?hold, ?write⟩
  case invalidate =>
    intro o g w m v s hm hw hs
    refine ⟨_, exec_migrateInvalidate hm hw hs, rfl, ?_, rfl⟩
    simp [acknowledged, modMove, smModify]
  case frame =>
    intro o g m v s hm hp hw
    have hf := (exec_keeps_of_next (i := .migrateCopyStart o g) (s := s) rfl).frame
    exact ⟨_, rfl, hf.grans rfl, hf.objs rfl, hf.used rfl, hf.xlat rfl⟩
  case copy =>
    exact fun o g m v s hm hp hw he hps hss hds => exec_migrateCopyStart_of_idle ⟨he, hps, hss, hds⟩ hm hp hw
  case record =>
    intro o g m v s hm hp
    have hexec : exec (.migrateRecordWrite o g) s = execMigrateRecordWrite o g s := rfl
    rw [Goes, hexec, execMigrateRecordWrite, hm]
    refine ⟨_, rfl, _, _, _, _, _, ?_, rfl, rfl, rfl, rfl, rfl⟩
    simp only [hp, ne_eq, not_true_eq_false, if_false, ite_or]
    rfl
  case free => exact fun o g m v s hm hp hw hk => exec_migrateFreeSource_of_migrate hm hp hw hk
  case timeout => exact fun o g m v s hm hp => exec_migrateHoldTimeout hm hp
  case retry => exact fun o g f m v s u hm hp hi hk hq ha => exec_migrateRetry_of_room hm hp hi hk hq ha
  case fill =>
    intro t o g s ht hv hg hd hx
    obtain ⟨u, hu, h⟩ := exec_xlatMissFill ht hv hg hd hx
    refine ⟨_, h, ?_, fun r hr => ?_⟩
    · dsimp only
      rw [smGet_set_same]
    · dsimp only
      rw [smGet_set_ne _ _ _ hr]
  case read =>
    intro h da oi o s ho ha hr hobj hgo
    obtain ⟨a, r, rfl, rfl, hexec⟩ := exec_cxlMemRead ho ha hr hobj hgo
    refine ⟨_, hexec, _, _, rfl, rfl, ?_⟩
    obtain ⟨q, hq⟩ := cxl_cntInc .cxp Reg.CXP_CNT_MEM_RD (objRead _ oi (da - o.baseDa) 64 _).1
    rw [modCxl, hq]
  case hold =>
    intro h da oi o data s ho hd ha hr hobj hb hh
    rw [exec_cxlMemWrite ho hd ha hr hobj hh, if_pos hb]
  case write =>
    intro h da oi o data s ho hd ha hr hobj hb hh hlen hgo
    rw [exec_cxlMemWrite ho hd ha hr hobj hh, if_neg (by simp [hb]), gated, gatedBy_of_goNow hgo, if_pos hlen]

end Sys2Proof.Granules
end


section
/-! PROOF. What every instruction of a tiller shares: the rule of its issue (R105), what it leaves of the rest of the machine, and the
running context and configuration of a tiller after an update. -/

open Sys2Proof Sys2Proof.Machine Sys2Proof.Claim Sys2Proof.Channels Sys2Proof.Accesses

namespace Sys2Proof.Tillers

/-! ### Issue -/

theorem instr_of_canIssue {op : Nat} {reads : Word → List Nat} {t : Nat} {w : Word} {s : State} {f : Tiller → State → State}
    (ht : t < 128) (hgo : canIssue s t w = true) (hop : bits w 7 0 = op) (hrsv : bits w 31 26 = 0)
    (hcond : op = 0x70 ∨ bits w 25 23 = 0) (hregs : ∀ r ∈ reads w, r ∉ pendingRegs (tillerAt s t)) :
    instr op reads t w s f = .next (f (tillerAt s t) s) := by
  have hany : (reads w).any (fun r => (pendingRegs (tillerAt s t)).contains r) = false := by
    simpa using hregs
  have hform : ¬ (bits w 31 26 ≠ 0 ∨ (op ≠ 0x70 ∧ bits w 25 23 ≠ 0)) := by
    rcases hcond with h | h <;> simp [hrsv, h]
  rw [instr, atUnit_of_lt ht, onlyIf_of_true (by simp [hgo, hop])]
  dsimp only
  rw [if_neg hform, if_neg (by rw [hany]; decide)]

/-- A scalar word that can issue does what its row says. -/
theorem instr_of_issues {op : Nat} {reads : Word → List Nat} {t : Nat} {w : Word} {s : State} {f : Tiller → State → State}
    (h : Issues op reads t w s) : instr op reads t w s f = .next (f (tillerAt s t) s) := by
  obtain ⟨ht, hgo, hop, hrsv, hcond, hregs⟩ := h
  exact instr_of_canIssue ht hgo hop hrsv (.inr hcond) hregs

/-! ### The running context and configuration -/

section
variable (u : Tiller) (x : Ctx) (g : Cfg)

@[simp] theorem setCtx_cur : (setCtx u x).cur = u.cur := by unfold setCtx; split <;> rfl
@[simp] theorem setCfg_cur : (setCfg u g).cur = u.cur := by unfold setCfg; split <;> rfl

@[simp] theorem curCtx_setCtx : curCtx (setCtx u x) = x := by
  by_cases h : u.cur = 0 <;> simp [setCtx, curCtx, h]

@[simp] theorem curCfg_setCfg : curCfg (setCfg u g) = g := by
  by_cases h : u.cur = 0 <;> simp [setCfg, curCfg, h]

@[simp] theorem curCfg_setCtx : curCfg (setCtx u x) = curCfg u := by
  by_cases h : u.cur = 0 <;> simp [setCtx, curCfg, h]

@[simp] theorem curCtx_setCfg : curCtx (setCfg u g) = curCtx u := by
  by_cases h : u.cur = 0 <;> simp [setCfg, curCtx, h]

end

/-! ### One tiller changed -/

/-- In v tiller t is u, and of s nothing else has changed but counts. -/
def Becomes (t : Nat) (u : Tiller) (s v : State) : Prop := tillerAt v t = u ∧ OnlyTillerAndCounts t s v

theorem becomes_refl (t : Nat) (s : State) : Becomes t (tillerAt s t) s s := ⟨rfl, fun _ _ => rfl, rfl⟩

theorem Becomes.trans {t : Nat} {u u' : Tiller} {s v x : State} (h : Becomes t u s v) (h' : Becomes t u' v x) : Becomes t u' s x := by
  obtain ⟨-, hothers, hrest⟩ := h
  obtain ⟨hu, hothers', hrest'⟩ := h'
  refine ⟨hu, fun r hr => (hothers' r hr).trans (hothers r hr), ?_⟩
  rw [hrest', hrest]

theorem becomes_modTiller (t : Nat) (f : Tiller → Tiller) (s : State) : Becomes t (f (tillerAt s t)) s (modTiller s t f) :=
  ⟨tillerAt_modTiller_same .., fun _ hr => tillerAt_modTiller_ne _ _ hr, rfl⟩

theorem Becomes.modTiller {t : Nat} {u : Tiller} {s v : State} (h : Becomes t u s v) (f : Tiller → Tiller) :
    Becomes t (f u) s (modTiller v t f) := by
  have h' := becomes_modTiller t f v
  rw [h.1] at h'
  exact h.trans h'

/-! ### Counts -/

theorem chans_sendMsi (v : Nat) (s : State) : (sendMsi v s).chans = s.chans := by
  unfold sendMsi
  split <;> rfl

/-- An event of a block other than a channel owes no channel a record. -/
theorem chans_setEv {b : Blk} (hb : ∀ c, b ≠ .chn c) (ev n : Nat) (s : State) : (setEv b ev n s).chans = s.chans := by
  unfold setEv
  dsimp only
  split
  · rfl
  · split
    · split
      · next => exact absurd rfl (hb _)
      · split
        · exact chans_sendMsi ..
        · rfl
      · exact chans_sendMsi ..
    · rfl

theorem chans_cntAdd {b : Blk} (hb : ∀ c, b ≠ .chn c) (off n : Nat) (s : State) : (cntAdd b off n s).chans = s.chans := by
  unfold cntAdd
  split
  · rfl
  · dsimp only
    split
    · rfl
    · split
      · rfl
      · split
        · rfl
        · exact chans_setEv hb ..

/-- A counter of a block other than a channel changes registers and, at its saturation, what the host link sends. -/
theorem cntAdd_eq {b : Blk} (hb : ∀ c, b ≠ .chn c) (off n : Nat) (s : State) :
    cntAdd b off n s = { s with regs := (cntAdd b off n s).regs, cxl := (cntAdd b off n s).cxl } := by
  have h := eq_of_keeps_count (keeps_cntAdd b off n s)
  rw [chans_cntAdd hb] at h
  exact h

theorem setEv_eq {b : Blk} (hb : ∀ c, b ≠ .chn c) (ev n : Nat) (s : State) :
    setEv b ev n s = { s with regs := (setEv b ev n s).regs, cxl := (setEv b ev n s).cxl } := by
  have h := eq_of_keeps_count (keeps_setEv b ev n s)
  rw [chans_setEv hb] at h
  exact h

theorem becomes_of_count {t : Nat} {s v : State} (h : v = { s with regs := v.regs, cxl := v.cxl }) : Becomes t (tillerAt s t) s v := by
  have hsame : ∀ r, tillerAt v r = tillerAt s r := fun r => by rw [h]; rfl
  exact ⟨hsame t, fun r _ => hsame r, by rw [h]⟩

theorem Becomes.cntInc {t k off : Nat} {u : Tiller} {s v : State} (h : Becomes t u s v) : Becomes t u s (cntInc (.tlr k) off v) := by
  have h' := becomes_of_count (t := t) (cntAdd_eq (b := .tlr k) (by simp) off 1 v)
  rw [h.1] at h'
  exact h.trans h'

/-! ### The next word -/

theorem gotoPc_of_lt {t : Nat} {pc : Nat} {s : State} (h : pc < (curCfg (tillerAt s t)).stage.progWords)
    (hw : (curCfg (tillerAt s t)).stage.progWords ≤ 16384) :
    gotoPc t pc s = modCtx t (fun x => { x with pc := pc, wait := 0 }) s := by
  have hin : ¬ ((pc : Int) < 0 ∨ ((curCfg (tillerAt s t)).stage.progWords : Int) ≤ pc) := by omega
  have hmod : ((pc : Int) % 16384).toNat = pc := by omega
  rw [gotoPc]
  dsimp only
  rw [if_neg hin, hmod]

/-- An instruction whose next word lies in the program goes on to it. -/
theorem Becomes.issued {t : Nat} {u : Tiller} {s v : State} (h : Becomes t u s v) (hnext : NextInProgram u) :
    Becomes t (atNext u) s (issued t v) := by
  obtain ⟨hlt, hwords⟩ := hnext
  have hcnt : Becomes t u s (Machine.cntInc (.tlr t) Reg.TLR_CNT_SEQ_INSTR v) := h.cntInc
  have hu := hcnt.1
  rw [Machine.issued, h.1, gotoPc_of_lt (by rwa [hu]) (by rwa [hu])]
  exact hcnt.modTiller _

theorem completes_of {i : Instr} {t : Nat} {s v : State} {f : Tiller → Tiller} (hexec : exec i s = .next (issued t v))
    (h : Becomes t (f (tillerAt s t)) s v) (hnext : NextInProgram (f (tillerAt s t))) : Completes i t s f :=
  ⟨_, hexec, h.issued hnext⟩

theorem nextInProgram_of_eq {u v : Tiller} (h : NextInProgram u) (hpc : (curCtx v).pc = (curCtx u).pc)
    (hstage : (curCfg v).stage = (curCfg u).stage) : NextInProgram v := by
  rwa [NextInProgram, hpc, hstage]

/-! ### Registers and configuration of the running context -/

@[simp] theorem curCfg_withSreg (n : Nat) (v : Word) (u : Tiller) : curCfg (withSreg n v u) = curCfg u := curCfg_setCtx ..

@[simp] theorem pc_withSreg (n : Nat) (v : Word) (u : Tiller) : (curCtx (withSreg n v u)).pc = (curCtx u).pc := by
  rw [withSreg, curCtx_setCtx]

theorem Becomes.setSreg {t : Nat} {u : Tiller} {s v : State} (h : Becomes t u s v) (n : Nat) (x : Word) :
    Becomes t (withSreg n x u) s (setSreg t n x v) := h.modTiller _

theorem Becomes.modCfg {t : Nat} {u : Tiller} {s v : State} (h : Becomes t u s v) (f : Cfg → Cfg) :
    Becomes t (setCfg u (f (curCfg u))) s (modCfg t f v) := h.modTiller _

end Sys2Proof.Tillers
end


section
/-! PROOF. The scalar instructions (Table 4.5). -/

open Sys2Proof Sys2Proof.Machine Sys2Proof.Claim Sys2Proof.Tillers

namespace Sys2Proof.Scalars

/-! ### A run written leaves the other keys -/

theorem smGet_append_of_left_ne {α : Type} (d : Nat → α) {a b : SMap α} {k : Nat} (h : ∀ p ∈ a, p.1 ≠ k) :
    smGet d (a ++ b) k = smGet d b k := by
  induction a with
  | nil => rfl
  | cons p r ih => rw [List.cons_append, smGet, if_neg (h p (by simp)), ih fun q hq => h q (by simp [hq])]

theorem smGet_append_of_right_ne {α : Type} (d : Nat → α) {a b : SMap α} {k : Nat} (h : ∀ p ∈ b, p.1 ≠ k) :
    smGet d (a ++ b) k = smGet d a k := by
  induction a with
  | nil => simpa using smGet_append_of_left_ne d (b := []) h
  | cons p r ih => rw [List.cons_append, smGet, smGet, ih]

theorem smGet_writeRun_of_outside {α : Type} [DecidableEq α] (d : Nat → α) (m : SMap α) {k b : Nat} {vs : List α}
    (h : b < k ∨ k + vs.length ≤ b) : smGet d (smWriteRun d m k vs) b = smGet d m b := by
  have hlow : smGet d (m.filter (fun p => decide (p.1 < k))) b = if b < k then smGet d m b else d b := by
    simpa using smGet_filter d m (fun i => decide (i < k)) b
  have hhigh : smGet d (m.filter (fun p => decide (k + vs.length ≤ p.1))) b = if k + vs.length ≤ b then smGet d m b else d b := by
    simpa using smGet_filter d m (fun i => decide (k + vs.length ≤ i)) b
  have hrun : ∀ p ∈ smRunEntries d k vs, p.1 ≠ b := fun p hp => by
    have := smRunEntries_range hp
    omega
  rcases h with h | h
  · have hright : ∀ p ∈ m.filter (fun p => decide (k + vs.length ≤ p.1)), p.1 ≠ b := fun p hp => by
      have := (List.mem_filter.1 hp).2
      simp at this
      omega
    rw [smWriteRun, smGet_append_of_right_ne d hright, smGet_append_of_right_ne d hrun, hlow, if_pos h]
  · have hleft : ∀ p ∈ m.filter (fun p => decide (p.1 < k)) ++ smRunEntries d k vs, p.1 ≠ b := fun p hp => by
      rcases List.mem_append.1 hp with hp | hp
      · have := (List.mem_filter.1 hp).2
        simp at this
        omega
      · exact hrun p hp
    rw [smWriteRun, smGet_append_of_left_ne d hleft, hhigh, if_pos h]

/-! ### Rows that write a scalar register -/

theorem exec_of_scalarRow {i : Instr} {op t : Nat} {w : Word} {s : State} {f : Word → Word → Word → Word → Word}
    (h : (i, op, f) ∈ ([
      (.sadd t w, 0x40, fun a b _ m => a + b + m), (.ssub t w, 0x41, fun a b _ _ => a - b), (.smul t w, 0x42, fun a b _ _ => a * b),
      (.sand t w, 0x43, fun a b _ _ => a &&& b), (.sor t w, 0x44, fun a b _ _ => a ||| b), (.sxor t w, 0x45, fun a b _ _ => a ^^^ b),
      (.sshl t w, 0x46, fun a b _ m => a <<< ((b + m).toNat % 64)), (.sshr t w, 0x47, fun a b _ m => a >>> ((b + m).toNat % 64)),
      (.slih t w, 0x48, fun a _ _ _ => word (a.toNat % 2 ^ 32 + bits w 63 32 * 2 ^ 32)),
      (.sfadd t w, 0x49, fun a b _ _ => ofLowF32 (fAdd (lowF32 a) (lowF32 b))),
      (.sfmul t w, 0x4A, fun a b _ _ => ofLowF32 (fMul (lowF32 a) (lowF32 b))),
      (.sfma t w, 0x4B, fun a b d _ => ofLowF32 (fFma (lowF32 a) (lowF32 b) (lowF32 d))),
      (.scvtf t w, 0x4C, fun a _ _ _ => ofLowF32 (f32OfInt a.toInt)),
      (.scvti t w, 0x4D, fun a _ _ _ => word (unsignedOf 64 (f32ToInt (lowF32 a))))] :
        List (Instr × Nat × (Word → Word → Word → Word → Word)))) :
    exec i s = scalar op t w s f := by
  simp only [List.mem_cons, List.not_mem_nil, or_false, Prod.mk.injEq] at h
  rcases h with ⟨rfl, rfl, rfl⟩ | ⟨rfl, rfl, rfl⟩ | ⟨rfl, rfl, rfl⟩ | ⟨rfl, rfl, rfl⟩ | ⟨rfl, rfl, rfl⟩ | ⟨rfl, rfl, rfl⟩ |
    ⟨rfl, rfl, rfl⟩ | ⟨rfl, rfl, rfl⟩ | ⟨rfl, rfl, rfl⟩ | ⟨rfl, rfl, rfl⟩ | ⟨rfl, rfl, rfl⟩ | ⟨rfl, rfl, rfl⟩ | ⟨rfl, rfl, rfl⟩ |
    ⟨rfl, rfl, rfl⟩ <;> rfl

theorem nextInProgram_withSreg {u : Tiller} (h : NextInProgram u) (n : Nat) (v : Word) : NextInProgram (withSreg n v u) :=
  nextInProgram_of_eq h (by simp) (by simp)

/-- A scalar register written, and the next word. -/
theorem completes_setSreg {i : Instr} {t n : Nat} {v : Word} {s : State} (hnext : NextInProgram (tillerAt s t))
    (hexec : exec i s = .next (issued t (setSreg t n v s))) : Completes i t s (withSreg n v) :=
  completes_of hexec ((becomes_refl t s).setSreg n v) (nextInProgram_withSreg hnext n v)

theorem sreg_withSreg {u : Tiller} {n : Nat} (m : Nat) (v : Word) (hn : n < 32) (hlen : (curCtx u).sregs.length = 32) :
    sreg (withSreg n v u) m = if m = n ∧ n ≠ 0 then v else sreg u m := by
  rw [sreg, withSreg, curCtx_setCtx]
  dsimp only
  unfold setSregs sregOf sreg
  by_cases hn0 : n = 0
  · simp [hn0, sregOf]
  · by_cases hm : m = n
    · subst hm
      simp [hn0, List.getD_eq_getElem?_getD, hlen, hn]
    · simp [hn0, hm, sregOf, List.getD_eq_getElem?_getD, List.getElem?_set_ne (Ne.symm hm)]

theorem sreg_zero (u : Tiller) : sreg u 0 = 0 := rfl

/-! ### Tile store read and written -/

/-- Bytes that no one writes late are read as they stand. -/
theorem tsRead_of_landed {t a n : Nat} {s : State} (h : ∀ x ∈ unwaited (tillerAt s t), overlap (a, a + n) x = false) :
    tsRead t a n s = (tsRaw (tillerAt s t) a n, s) := by
  have hnone : ((unwaited (tillerAt s t)).filter (overlap (a, a + n))).isEmpty = true := by
    rw [List.isEmpty_iff, List.filter_eq_nil_iff]
    exact fun x hx => by simp [h x hx]
  rw [tsRead]
  exact if_pos hnone

theorem becomes_tsWrite (t a : Nat) (bs : List Byte) (s : State) :
    Becomes t { tillerAt s t with ts := smWriteRun (tsDefault (tillerAt s t)) (tillerAt s t).ts a bs } s (tsWrite t a bs s) :=
  (becomes_refl t s).modTiller _

theorem ts_atNext (u : Tiller) : (atNext u).ts = u.ts := by
  unfold atNext setCtx
  split <;> rfl

/-- An instruction of tile store with a misaligned address, or with one outside the regions, faults whatever it would do. -/
theorem instr_of_badAddress {op t : Nat} {w : Word} {s : State} {rest : Tiller → State → State} (h : Issues op regsDAB t w s) :
    (ldAddr (tillerAt s t) w % 8 ≠ 0 →
      instr op regsDAB t w s (fun u s => if ldAddr u w % 8 ≠ 0 then faultAt t 4 ST_STAGE_FAULT s
        else if !inRegions (curCfg u).stage (ldAddr u w) 8 then faultAt t 3 ST_STAGE_FAULT s else rest u s) =
      .next (faultAt t 4 ST_STAGE_FAULT s)) ∧
    (ldAddr (tillerAt s t) w % 8 = 0 → inRegions (curCfg (tillerAt s t)).stage (ldAddr (tillerAt s t) w) 8 = false →
      instr op regsDAB t w s (fun u s => if ldAddr u w % 8 ≠ 0 then faultAt t 4 ST_STAGE_FAULT s
        else if !inRegions (curCfg u).stage (ldAddr u w) 8 then faultAt t 3 ST_STAGE_FAULT s else rest u s) =
      .next (faultAt t 3 ST_STAGE_FAULT s)) := by
  refine ⟨fun halign => ?_, fun halign hregion => ?_⟩
  · rw [instr_of_issues h, if_pos halign]
  · rw [instr_of_issues h, if_neg (by simp [halign]), if_pos (by simp [hregion])]

theorem exec_of_badAddress {i : Instr} {op t : Nat} {w : Word} {s : State} (hmem : (i, op) ∈ [(.sld t w, 0x4E), (.sst t w, 0x4F)])
    (h : Issues op regsDAB t w s) :
    (ldAddr (tillerAt s t) w % 8 ≠ 0 → exec i s = .next (faultAt t 4 ST_STAGE_FAULT s)) ∧
    (ldAddr (tillerAt s t) w % 8 = 0 → inRegions (curCfg (tillerAt s t)).stage (ldAddr (tillerAt s t) w) 8 = false →
      exec i s = .next (faultAt t 3 ST_STAGE_FAULT s)) := by
  simp only [List.mem_cons, List.not_mem_nil, or_false, Prod.mk.injEq] at hmem
  rcases hmem with ⟨rfl, rfl⟩ | ⟨rfl, rfl⟩
  · change (_ → execSld t w s = _) ∧ (_ → _ → execSld t w s = _)
    unfold execSld
    exact instr_of_badAddress h
  · change (_ → execSst t w s = _) ∧ (_ → _ → execSst t w s = _)
    unfold execSst
    exact instr_of_badAddress h

theorem exec_sld {t : Nat} {w : Word} {s : State} (h : Issues 0x4E regsDAB t w s) (halign : ldAddr (tillerAt s t) w % 8 = 0)
    (hregion : inRegions (curCfg (tillerAt s t)).stage (ldAddr (tillerAt s t) w) 8 = true)
    (hhazard : readHazard (tillerAt s t) [(ldAddr (tillerAt s t) w, ldAddr (tillerAt s t) w + 8)] = false)
    (hlanded : ∀ x ∈ unwaited (tillerAt s t), overlap (ldAddr (tillerAt s t) w, ldAddr (tillerAt s t) w + 8) x = false) :
    exec (.sld t w) s =
      .next (issued t (setSreg t (iSD w) (word (leValue (tsRaw (tillerAt s t) (ldAddr (tillerAt s t) w) 8))) s)) := by
  change execSld t w s = _
  rw [execSld, instr_of_issues h]
  simp [halign, hregion, hhazard, tsRead_of_landed hlanded]

theorem exec_sst {t : Nat} {w : Word} {s : State} (h : Issues 0x4F regsDAB t w s) (halign : ldAddr (tillerAt s t) w % 8 = 0)
    (hregion : inRegions (curCfg (tillerAt s t)).stage (ldAddr (tillerAt s t) w) 8 = true)
    (hhazard : writeHazard (tillerAt s t) [(ldAddr (tillerAt s t) w, ldAddr (tillerAt s t) w + 8)] = false) :
    exec (.sst t w) s =
      .next (issued t (tsWrite t (ldAddr (tillerAt s t) w) (leBytes 8 (sreg (tillerAt s t) (iSB w)).toNat) s)) := by
  change execSst t w s = _
  rw [execSst, instr_of_issues h]
  simp [halign, hregion, hhazard]

/-- Settles O27: each row writes SD and goes on, SLD and SST touch 8 bytes of tile store, and a bad address faults. -/
theorem scalarInstructionsCompute : Obligations.ScalarInstructionsCompute := by
  unfold Obligations.ScalarInstructionsCompute
  refine ⟨?_, ?_, ?_, ?_, ?_, ?_⟩
  · rintro i op t w s f u hrow hissue rfl hnext
    refine completes_setSreg hnext ?_
    rw [exec_of_scalarRow hrow, scalar, instr_of_issues hissue]
  · exact fun u n m v hn hlen => sreg_withSreg m v hn hlen
  · exact fun u n v => sreg_zero _
  · rintro t a w s u hissue rfl hnext rfl halign hregion hhazard hlanded
    exact completes_setSreg hnext (exec_sld hissue halign hregion hhazard hlanded)
  · rintro t a w s u hissue rfl hnext rfl halign hregion hhazard
    have hexec := exec_sst hissue halign hregion hhazard
    have hstored := (becomes_tsWrite t (ldAddr (tillerAt s t) w) (leBytes 8 (sreg (tillerAt s t) (iSB w)).toNat) s).issued hnext
    refine ⟨⟨_, hexec, hstored⟩, fun v hv b hb => ?_⟩
    obtain rfl := Host.Outcome.next.inj (hexec.symm.trans hv)
    rw [hstored.1, ts_atNext]
    exact smGet_writeRun_of_outside _ _ (by rwa [Images.length_leBytes])
  · exact fun i op t w s hmem hissue => exec_of_badAddress hmem hissue

end Sys2Proof.Scalars
end


section
/-! PROOF. The control instructions (Table 4.5): branches, waits, tile boundaries and the end of a stage. -/

open Sys2Proof Sys2Proof.Machine Sys2Proof.Claim Sys2Proof.Tillers Sys2Proof.Channels

namespace Sys2Proof.Control

/-! ### Branches -/

theorem exec_br {t : Nat} {w : Word} {s : State} (ht : t < 128) (hgo : canIssue s t w = true) (hop : bits w 7 0 = 0x70)
    (hrsv : bits w 31 26 = 0) (ha : iSA w ∉ pendingRegs (tillerAt s t)) (hb : iSB w ∉ pendingRegs (tillerAt s t))
    (hcond : bits w 25 23 ≠ 7) :
    exec (.br t w) s = .next (
      if brHolds (bits w 25 23) (sreg (tillerAt s t) (iSA w)) (sreg (tillerAt s t) (iSB w)) then
        gotoPc t ((curCtx (tillerAt s t)).pc + signedOf 32 (bits w 63 32)) (cntInc (.tlr t) Reg.TLR_CNT_SEQ_INSTR s)
      else issued t s) := by
  have hregs : ∀ r ∈ regsAB w, r ∉ pendingRegs (tillerAt s t) := by
    simp [regsAB, ha, hb]
  change execBr t w s = _
  rw [execBr, instr_of_canIssue ht hgo hop hrsv (.inl rfl) hregs]
  exact congrArg Host.Outcome.next (if_neg hcond)

/-- A branch within the program goes to its target. -/
theorem becomes_gotoPc {t : Nat} {u : Tiller} {s v : State} {d : Int} (h : Becomes t u s v) (h0 : 0 ≤ d)
    (hlt : d < (curCfg u).stage.progWords) (hw : (curCfg u).stage.progWords ≤ 16384) :
    Becomes t (setCtx u { curCtx u with pc := d.toNat, wait := 0 }) s (gotoPc t d v) := by
  obtain ⟨n, rfl⟩ := Int.eq_ofNat_of_zero_le h0
  have hu := h.1
  rw [gotoPc_of_lt (by rw [hu]; omega) (by rwa [hu])]
  exact h.modTiller _

/-- A branch out of the program faults with PC_RANGE. -/
theorem gotoPc_of_outside {t : Nat} {s : State} {d : Int} (h : d < 0 ∨ ((curCfg (tillerAt s t)).stage.progWords : Int) ≤ d) :
    gotoPc t d s =
      seqFault t (tillerAt s t).cur (d % 16384).toNat 6 (drawFree s).1 ST_STAGE_FAULT (drawFree s).2 := by
  rw [gotoPc]
  exact if_pos h

theorem brHolds_iff (a b : Word) : (brHolds 0 a b = true) ∧ (brHolds 1 a b = true ↔ a = b) ∧ (brHolds 2 a b = true ↔ a ≠ b) ∧
    (brHolds 3 a b = true ↔ a.toInt < b.toInt) ∧ (brHolds 4 a b = true ↔ b.toInt ≤ a.toInt) ∧
    (brHolds 5 a b = true ↔ a.toNat < b.toNat) ∧ (brHolds 6 a b = true ↔ b.toNat ≤ a.toNat) := by
  simp [brHolds]

/-! ### Waits and tile boundaries -/

theorem exec_waitv {t : Nat} {w : Word} {s : State} (h : Issues 0x73 regsNone t w s) :
    exec (.waitv t w) s = .next (if (tillerAt s t).vq.isEmpty then issued t s else waitAt t 11 s) := by
  change execWaitv t w s = _
  rw [execWaitv, instr_of_issues h]

/-- What TILE_END does once V4 to V7 are forgotten. -/
def endTile (t : Nat) (u : Tiller) (s : State) : State :=
  if wantsSwitch u && !(curCtx (tillerAt (issued t s) t)).ended then modTiller (issued t s) t (fun u => { u with switching := true })
  else issued t s

theorem exec_tileEnd {t : Nat} {w : Word} {s : State} (h : Issues 0x71 regsNone t w s) :
    exec (.tileEnd t w) s = .next (endTile t (tillerAt s t) (forgetVLater t s)) := by
  change execTileEnd t w s = _
  rw [execTileEnd, instr_of_issues h]
  rfl

theorem not_ended_of_canIssue {s : State} {t : Nat} {w : Word} (h : canIssue s t w = true) : (curCtx (tillerAt s t)).ended = false := by
  rw [canIssue] at h
  simp at h
  exact h.1.1.1.1.2

theorem becomes_endTile {t : Nat} {u u' : Tiller} {s v : State} (h : Becomes t u' s v) (hnext : NextInProgram u')
    (hopen : (curCtx u').ended = false) :
    Becomes t (atNext { u' with switching := if wantsSwitch u then true else u'.switching }) s (endTile t u v) := by
  have hissued := h.issued hnext
  have hend : (curCtx (tillerAt (issued t v) t)).ended = false := by
    rw [hissued.1, atNext, curCtx_setCtx]
    exact hopen
  by_cases hwant : wantsSwitch u = true
  · have hsame : atNext { u' with switching := true } = { atNext u' with switching := true } := by
      simp only [atNext, setCtx, curCtx]
      split <;> rfl
    have hgo : endTile t u v = modTiller (issued t v) t (fun u => { u with switching := true }) := if_pos (by rw [hwant, hend]; rfl)
    rw [if_pos hwant, hsame, hgo]
    exact hissued.modTiller _
  · have hgo : endTile t u v = issued t v := if_neg (by simp [hwant])
    rw [if_neg hwant, hgo]
    exact hissued

theorem forgetVLater_of_idle {t : Nat} {s : State} (h : (tillerAt s t).vq = []) :
    forgetVLater t s = modTiller { s with freeCtr := s.freeCtr + 1 } t (fun u => { u with
      vregs := smClearRun u.vregs 65536 65536, vFree := some s.freeCtr }) := by
  rw [forgetVLater, h]
  rfl

theorem forgetVLater_of_queued {t : Nat} {s : State} {es : List VqEntry} {e : VqEntry} (h : (tillerAt s t).vq = es ++ [e]) :
    forgetVLater t s = modTiller s t (fun u => { u with vq := es ++ [{ e with thenFree := true }] }) := by
  have hrev : (tillerAt s t).vq.reverse = e :: es.reverse := by rw [h]; simp
  rw [forgetVLater, hrev]
  simp

/-! ### The end of a stage (R44) -/

theorem exec_stageEnd {t : Nat} {w : Word} {s : State} (h : Issues 0x72 regsNone t w s) :
    exec (.stageEnd t w) s = .next (
      if !(arrayIdle (tillerAt s t) && (tillerAt s t).vq.isEmpty) then waitAt t 7 s
      else if !ftqEmpty (tillerAt s t) then faultAt t 7 ST_STAGE_FAULT s
      else if (tillerAt s t).cur = 1 then
        deferredEnd t (curCfg (tillerAt s t)).chan (sendEnd t (curCfg (tillerAt s t)) (modCtx t (fun x => { x with
          wait := 0, ended := true, endSent := true }) (cntInc (.tlr t) Reg.TLR_CNT_SEQ_INSTR s)))
      else setStateField t (sendEnd t (curCfg (tillerAt s t)) (modCtx t (fun x => { x with
        wait := 0, ended := true, endSent := true }) (cntInc (.tlr t) Reg.TLR_CNT_SEQ_INSTR s)))) := by
  change execStageEnd t w s = _
  rw [execStageEnd, instr_of_issues h]

@[simp] theorem tillerAt_sendEnd (t r : Nat) (g : Cfg) (s : State) : tillerAt (sendEnd t g s) r = tillerAt s r := by
  unfold sendEnd
  dsimp only
  split <;> rfl

theorem chanAt_sendEnd_of_last {t : Nat} {g : Cfg} {s : State} (h : (outEdges g).isEmpty = true) :
    (chanAt (sendEnd t g s) g.chan).barrier = (chanAt s g.chan).barrier ++ [t] := by
  unfold sendEnd
  dsimp only
  rw [if_pos h, chanAt_modChan_same]
  rfl

/-- The active stage of a tiller that sends END has ended. -/
theorem ended_of_modCtx {t : Nat} {s : State} (h : (tillerAt s t).cur = 0) :
    (tillerAt (modCtx t (fun x => { x with wait := 0, ended := true, endSent := true }) s) t).ctxA =
      { (tillerAt s t).ctxA with wait := 0, ended := true, endSent := true } := by
  simp [modCtx, setCtx, curCtx, h]

theorem ctxA_setStateField (t : Nat) (s : State) : (tillerAt (setStateField t s) t).ctxA = (tillerAt s t).ctxA := by
  simp [setStateField]

theorem stageEnd_ends {t : Nat} {s v : State} (hcur : (tillerAt s t).cur = 0)
    (hv : v = setStateField t (sendEnd t (curCfg (tillerAt s t)) (modCtx t (fun x => { x with
      wait := 0, ended := true, endSent := true }) (cntInc (.tlr t) Reg.TLR_CNT_SEQ_INSTR s)))) :
    (tillerAt v t).ctxA.ended = true ∧ (tillerAt v t).ctxA.endSent = true ∧
    ((outEdges (curCfg (tillerAt s t))).isEmpty = true → (chanAt v (curCfg (tillerAt s t)).chan).barrier =
      (chanAt s (curCfg (tillerAt s t)).chan).barrier ++ [t]) := by
  have hcnt : Becomes t (tillerAt s t) s (cntInc (.tlr t) Reg.TLR_CNT_SEQ_INSTR s) := (becomes_refl t s).cntInc
  have hctx : (tillerAt v t).ctxA = { (tillerAt s t).ctxA with wait := 0, ended := true, endSent := true } := by
    rw [hv, ctxA_setStateField, tillerAt_sendEnd, ended_of_modCtx (by rw [hcnt.1, hcur]), hcnt.1]
  have hchan : ∀ c, chanAt (cntInc (.tlr t) Reg.TLR_CNT_SEQ_INSTR s) c = chanAt s c := fun c => by
    unfold chanAt
    rw [cntInc, chans_cntAdd (by simp)]
  refine ⟨by rw [hctx], by rw [hctx], fun hlast => ?_⟩
  rw [hv, setStateField, chanAt_modTiller, chanAt_sendEnd_of_last hlast, modCtx, chanAt_modTiller, hchan]

/-- Settles O28: by the equation of each instruction at its issue. -/
theorem programsBranchAndEnd : Obligations.ProgramsBranchAndEnd := by
  unfold Obligations.ProgramsBranchAndEnd
  refine ⟨?_, ?_, ?_, brHolds_iff, ?_, ?_, ?_, ?_, ?_, ?_, ?_, ?_, ?_, ?_⟩
  · rintro t w s u d ht hgo hop hrsv ha hb rfl hcond hholds rfl h0 hlt hw
    refine ⟨_, (exec_br ht hgo hop hrsv ha hb hcond).trans (congrArg _ (if_pos hholds)), ?_⟩
    exact becomes_gotoPc (becomes_refl t s).cntInc h0 hlt hw
  · rintro t w s u ht hgo hop hrsv ha hb rfl hcond hholds hnext
    refine completes_of ((exec_br ht hgo hop hrsv ha hb hcond).trans (congrArg _ (if_neg (by simp [hholds])))) ?_ hnext
    exact becomes_refl t s
  · rintro t w s u d ht hgo hop hrsv ha hb rfl hcond hholds rfl hout
    have hcnt : Becomes t (tillerAt s t) s (cntInc (.tlr t) Reg.TLR_CNT_SEQ_INSTR s) := (becomes_refl t s).cntInc
    refine ⟨_, (exec_br ht hgo hop hrsv ha hb hcond).trans (congrArg _ (if_pos hholds)), _, ?_, rfl⟩
    rw [gotoPc_of_outside (by rwa [hcnt.1]), hcnt.1]
  · intro t w s hissue hnext
    have hexec : exec (.seqNop t w) s = .next (issued t s) := by
      change execSeqNop t w s = _
      rw [execSeqNop, instr_of_issues hissue]
    exact completes_of hexec (becomes_refl t s) hnext
  · intro t w s hissue hvq hnext
    exact completes_of ((exec_waitv hissue).trans (by rw [hvq]; rfl)) (becomes_refl t s) hnext
  · intro t w s hissue hvq
    exact (exec_waitv hissue).trans (congrArg _ (if_neg (by simpa using hvq)))
  · rintro t w s u hissue rfl hvq hnext
    have hopen := not_ended_of_canIssue hissue.2.1
    have hforget := becomes_modTiller t (fun u => { u with vregs := smClearRun u.vregs 65536 65536, vFree := some s.freeCtr })
      { s with freeCtr := s.freeCtr + 1 }
    obtain ⟨hu, hothers, hrest⟩ := becomes_endTile (u := tillerAt s t) hforget hnext hopen
    refine ⟨_, (exec_tileEnd hissue).trans (by rw [forgetVLater_of_idle hvq]), hu, ?_, hothers⟩
    rw [hrest]
  · rintro t w s u es e hissue rfl hvq hnext
    have hopen := not_ended_of_canIssue hissue.2.1
    have hforget := becomes_modTiller t (fun u => { u with vq := es ++ [{ e with thenFree := true }] }) s
    exact ⟨_, (exec_tileEnd hissue).trans (by rw [forgetVLater_of_queued hvq]), becomes_endTile hforget hnext hopen⟩
  · rintro t w s u hissue rfl hidle hvq hftq hcur
    refine ⟨_, (exec_stageEnd hissue).trans (by rw [hidle, hvq, hftq, hcur]; rfl), rfl, stageEnd_ends hcur rfl⟩
  · rintro t w s u hissue rfl hidle hvq hftq hcur
    exact (exec_stageEnd hissue).trans (by rw [hidle, hvq, hftq, hcur]; rfl)
  · rintro t w s u hissue rfl hidle hvq hftq
    exact (exec_stageEnd hissue).trans (by rw [hidle, hvq, hftq]; rfl)
  · intro t w s hissue hbusy
    refine (exec_stageEnd hissue).trans (congrArg _ (if_pos ?_))
    rcases hbusy with h | h
    · simp [h]
    · simp [h]
  · intro t w s ht hgo hop
    change execIllegalOp t w s = _
    rw [execIllegalOp, atUnit_of_lt ht, onlyIf_of_true (by simp [hgo, hop])]

end Sys2Proof.Control
end


section
/-! PROOF. Vector instructions: their issue, and the value of each elementwise row (Tables 4.4 and 4.8). -/

open Sys2Proof Sys2Proof.Machine Sys2Proof.Claim Sys2Proof.Tillers Sys2Proof.Channels

namespace Sys2Proof.Vectors

/-! ### Issue -/

theorem exec_of_vectorRow {i : Instr} {op t : Nat} {w : Word} {s : State} (h : (i, op) ∈ [
      (.vadd t w, 0x01), (.vsub t w, 0x02), (.vmul t w, 0x03), (.vfma t w, 0x04), (.vmax t w, 0x05), (.vmin t w, 0x06),
      (.vabs t w, 0x07), (.vneg t w, 0x08), (.vcmp t w, 0x09), (.vsel t w, 0x0A), (.vcpy t w, 0x0B), (.vexp2 t w, 0x10),
      (.vexp t w, 0x11), (.vlog2 t w, 0x12), (.vrcp t w, 0x13), (.vrsqrt t w, 0x14), (.vsqrt t w, 0x15), (.vtanh t w, 0x16),
      (.vsigm t w, 0x17), (.verf t w, 0x18), (.rsum t w, 0x20), (.rssq t w, 0x21), (.rmax t w, 0x22), (.rmin t w, 0x23),
      (.ramax t w, 0x24), (.rrowsum t w, 0x28), (.rrowssq t w, 0x29), (.rrowmax t w, 0x2A)]) :
    exec i s = vectorIssue op t w s := by
  simp only [List.mem_cons, List.not_mem_nil, or_false, Prod.mk.injEq] at h
  rcases h with ⟨rfl, rfl⟩ | ⟨rfl, rfl⟩ | ⟨rfl, rfl⟩ | ⟨rfl, rfl⟩ | ⟨rfl, rfl⟩ | ⟨rfl, rfl⟩ | ⟨rfl, rfl⟩ | ⟨rfl, rfl⟩ | ⟨rfl, rfl⟩ |
    ⟨rfl, rfl⟩ | ⟨rfl, rfl⟩ | ⟨rfl, rfl⟩ | ⟨rfl, rfl⟩ | ⟨rfl, rfl⟩ | ⟨rfl, rfl⟩ | ⟨rfl, rfl⟩ | ⟨rfl, rfl⟩ | ⟨rfl, rfl⟩ | ⟨rfl, rfl⟩ |
    ⟨rfl, rfl⟩ | ⟨rfl, rfl⟩ | ⟨rfl, rfl⟩ | ⟨rfl, rfl⟩ | ⟨rfl, rfl⟩ | ⟨rfl, rfl⟩ | ⟨rfl, rfl⟩ | ⟨rfl, rfl⟩ | ⟨rfl, rfl⟩ <;> rfl

/-- What a word whose operands are those of its row does at issue. -/
def issueSound (t : Nat) (w : Word) (s : State) : State :=
  let u := tillerAt s t
  let x := curCtx u
  if u.cur = 0 && !u.admitted then waitAt t 1 s
  else if 8 ≤ u.vq.length then waitAt t 2 s
  else if readsFtq w && (u.ftq.getD u.ftqHead {}).st != 2 then waitAt t 6 s
  else if (vWrites x.sregs w).any (fun r => meets r (arrReads u)) then waitAt t 11 s
  else issued t (modCtx t (fun x => { x with
      sregs := incSregs w x.sregs, vcpys := if narrowing w then x.vcpys + 1 else x.vcpys })
    (modTiller s t (fun u => { u with vq := u.vq ++ [{
      w := w, ctx := (tillerAt s t).cur, pc := x.pc, sregs := x.sregs, ftqOff := ftqOffNext (tillerAt s t),
      rid := (tillerAt s t).nextRid, lanes := if isReduction (vOp w) then List.replicate 128 none else [],
      sampled := narrowing w &&
        sampledAt (stepNum s (curCfg (tillerAt s t)).chan (curCfg (tillerAt s t)).step) x.vcpys (curCfg (tillerAt s t)).step }] })))

theorem vectorIssue_of_turn {op t : Nat} {w : Word} {s : State} (h : VectorTurn op t w s) :
    vectorIssue op t w s = .next (match vectorFault (tillerAt s t) w with
      | some c => faultAt t c ST_STAGE_FAULT s
      | none => issueSound t w s) := by
  obtain ⟨ht, hgo, rfl, hregs⟩ := h
  have hfree : (vectorRegs w).any (fun r => (pendingRegs (tillerAt s t)).contains r) = false := by
    simpa using hregs
  rw [vectorIssue, atUnit_of_lt ht, onlyIf_of_true (by simp [hgo])]
  exact congrArg _ (if_neg (by rw [hfree]; decide))

theorem issueSound_of_admitted {t : Nat} {w : Word} {s : State} (hadm : (tillerAt s t).cur = 1 ∨ (tillerAt s t).admitted = true)
    (hroom : (tillerAt s t).vq.length < 8)
    (hftq : readsFtq w = true → ((tillerAt s t).ftq.getD (tillerAt s t).ftqHead {}).st = 2)
    (hclear : ∀ r ∈ vWrites (curCtx (tillerAt s t)).sregs w, meets r (arrReads (tillerAt s t)) = false) :
    issueSound t w s = issued t (modCtx t (fun x => { x with
        sregs := incSregs w x.sregs, vcpys := if narrowing w then x.vcpys + 1 else x.vcpys })
      (modTiller s t (fun u => { u with vq := u.vq ++ [{
        w := w, ctx := (tillerAt s t).cur, pc := (curCtx (tillerAt s t)).pc, sregs := (curCtx (tillerAt s t)).sregs,
        ftqOff := ftqOffNext (tillerAt s t), rid := (tillerAt s t).nextRid,
        lanes := if isReduction (vOp w) then List.replicate 128 none else [],
        sampled := narrowing w && sampledAt (stepNum s (curCfg (tillerAt s t)).chan (curCfg (tillerAt s t)).step)
          (curCtx (tillerAt s t)).vcpys (curCfg (tillerAt s t)).step }] }))) := by
  have h1 : ¬ (((tillerAt s t).cur = 0 && !(tillerAt s t).admitted) = true) := by
    rcases hadm with h | h <;> simp [h]
  have h3 : ¬ ((readsFtq w && ((tillerAt s t).ftq.getD (tillerAt s t).ftqHead {}).st != 2) = true) := by
    simpa using hftq
  have h4 : ¬ ((vWrites (curCtx (tillerAt s t)).sregs w).any (fun r => meets r (arrReads (tillerAt s t))) = true) := by
    simpa using hclear
  rw [issueSound, if_neg h1, if_neg (Nat.not_le.2 hroom), if_neg h3, if_neg h4]

/-! ### Address registers with INC (R109) -/

theorem length_setSregs (l : List Word) (n : Nat) (v : Word) : (setSregs l n v).length = l.length := by
  unfold setSregs
  split <;> simp

theorem sregOf_setSregs_ne {l : List Word} {n m : Nat} {v : Word} (h : m ≠ n) : sregOf (setSregs l n v) m = sregOf l m := by
  unfold sregOf setSregs
  by_cases hn : n = 0
  · simp [hn]
  · simp [hn, List.getD_eq_getElem?_getD, List.getElem?_set_ne (Ne.symm h)]

/-- Only S16 to S31 are address registers: the others stay. -/
theorem sregOf_foldl_setSregs {f : List Word → Nat → List Word} {r : Nat}
    (hf : ∀ l i, i < 16 → sregOf (f l i) r = sregOf l r) :
    ∀ (is : List Nat) (l : List Word), (∀ i ∈ is, i < 16) → sregOf (is.foldl f l) r = sregOf l r
  | [], _, _ => rfl
  | i :: is, l, h => by
    rw [List.foldl_cons, sregOf_foldl_setSregs hf is _ fun j hj => h j (by simp [hj]), hf l i (h i (by simp))]

theorem sregOf_incSregs {w : Word} {sr : List Word} {r : Nat} (h : r < 16 ∨ 32 ≤ r ∨ vInc w = false) :
    sregOf (incSregs w sr) r = sregOf sr r := by
  unfold incSregs
  split
  · rfl
  · next hinc =>
    refine sregOf_foldl_setSregs (fun l i hi => ?_) _ _ (by simp)
    split
    · exact sregOf_setSregs_ne (by simp at hinc; simp [hinc] at h; omega)
    · rfl

/-! ### The value of each row (Tables 4.4 and 4.8, R119, R120) -/

theorem resultOf_of_row {w : Word} {a b c r : F32} (hpk : vPk w = false)
    (h : (vOp w, r) ∈ [(1, fAdd a b), (2, fSub a b), (3, fMul a b), (4, fFma a b c), (5, fMax a b), (6, fMin a b), (7, fAbs a),
      (8, fNeg a), (9, if vcmpHolds (vC w) a b then 0x3F800000 else 0), (10, if (ofF32 a).isZero then c else b), (11, a),
      (0x10, toF32 (ofF32 a).exp2), (0x11, toF32 (ofF32 a).exp), (0x12, toF32 (ofF32 a).log2), (0x13, toF32 (ofF32 a).rcp),
      (0x14, toF32 (ofF32 a).rsqrt), (0x15, toF32 (ofF32 a).sqrt), (0x16, toF32 (ofF32 a).tanh), (0x17, toF32 (ofF32 a).sigm),
      (0x18, toF32 (ofF32 a).erf)]) : resultOf w a b c = canon r := by
  have hplain : resultOf w a b c = elementOf w a b c := if_neg (by simp [hpk])
  rw [hplain, elementOf]
  simp only [List.mem_cons, List.not_mem_nil, or_false, Prod.mk.injEq] at h
  rcases h with ⟨hop, rfl⟩ | ⟨hop, rfl⟩ | ⟨hop, rfl⟩ | ⟨hop, rfl⟩ | ⟨hop, rfl⟩ | ⟨hop, rfl⟩ | ⟨hop, rfl⟩ | ⟨hop, rfl⟩ | ⟨hop, rfl⟩ |
    ⟨hop, rfl⟩ | ⟨hop, rfl⟩ | ⟨hop, rfl⟩ | ⟨hop, rfl⟩ | ⟨hop, rfl⟩ | ⟨hop, rfl⟩ | ⟨hop, rfl⟩ | ⟨hop, rfl⟩ | ⟨hop, rfl⟩ | ⟨hop, rfl⟩ |
    ⟨hop, rfl⟩ <;> rw [hop] <;> rfl

theorem becomes_issueSound {t : Nat} {w : Word} {s : State} {e : VqEntry} :
    Becomes t (setCtx { tillerAt s t with vq := (tillerAt s t).vq ++ [e] } { curCtx (tillerAt s t) with
        sregs := incSregs w (curCtx (tillerAt s t)).sregs,
        vcpys := if narrowing w then (curCtx (tillerAt s t)).vcpys + 1 else (curCtx (tillerAt s t)).vcpys }) s
      (modCtx t (fun x => { x with sregs := incSregs w x.sregs, vcpys := if narrowing w then x.vcpys + 1 else x.vcpys })
        (modTiller s t (fun u => { u with vq := u.vq ++ [e] }))) :=
  (becomes_modTiller ..).modTiller _

/-- Settles O26: a word issues in one way or waits, and each row has its value. -/
theorem vectorInstructionsIssueInOrder : Obligations.VectorInstructionsIssueInOrder := by
  unfold Obligations.VectorInstructionsIssueInOrder
  refine ⟨?_, ?_, ?_, ?_, ?_, ?_⟩
  · rintro i op t w s u x g hrow hturn hsound rfl rfl rfl hnext hadm hroom hftq hclear
    obtain rfl : vOp w = op := hturn.2.2.1
    refine ⟨completes_of ?_ becomes_issueSound ?_, fun r hr => sregOf_incSregs hr⟩
    · rw [exec_of_vectorRow hrow, vectorIssue_of_turn hturn, hsound]
      exact congrArg _ (issueSound_of_admitted hadm hroom hftq hclear)
    · exact nextInProgram_of_eq hnext (by rw [curCtx_setCtx]) (by rw [curCfg_setCtx]; rfl)
  · intro i op t c w s hrow hturn
    have hissue := (exec_of_vectorRow (s := s) hrow).trans (vectorIssue_of_turn hturn)
    refine ⟨fun hf => ?_, fun hf hcur hadm => ?_, fun hf hcur hfull => ?_⟩
    · rw [hissue, hf]
    · rw [Waits, hissue, hf]
      exact congrArg _ (if_pos (by simp [hcur, hadm]))
    · rw [Waits, hissue, hf]
      exact congrArg _ ((if_neg (by simp [hcur])).trans (if_pos hfull))
  · intro t e r s ht hvq hfence
    change execVectorBeat t s = _
    rw [execVectorBeat, atUnit_of_lt ht, hvq]
    exact congrArg _ (if_neg (by simp [hfence]))
  · exact fun w a b c r hpk hrow => resultOf_of_row hpk hrow
  · intro w a b c hpk hop
    exact (if_pos hpk).trans (if_neg hop)
  · intro w a b c hpk hop
    exact (if_pos hpk).trans (if_pos hop)

end Sys2Proof.Vectors
end


section
/-! PROOF. Tiles that travel between tillers: streams with their credits and ends (R36, R37), and weights with their relay (R39, R41). -/

open Sys2Proof Sys2Proof.Machine Sys2Proof.Claim Sys2Proof.Tillers Sys2Proof.Channels

namespace Sys2Proof.Travel

/-! ### Streams -/

/-- A SEND with no edge to memory reads its tile and puts the copies on their way. -/
theorem exec_send {t : Nat} {w : Word} {s : State} {e : Edge} {es : List Edge} (h : Issues 0x65 regsAB t w s)
    (hedges : (outEdges (curCfg (tillerAt s t))).filter (fun e => e.srcPort == bits (iImm w) 1 0) = e :: es)
    (hplain : ∀ x ∈ e :: es, x.dstStage ≠ 255)
    (hregion : inRegions (curCfg (tillerAt s t)).stage (bits (sreg (tillerAt s t) (iSA w)) 22 0) (tileSize e.fmt) = true)
    (hhazard : readHazard (tillerAt s t) [(bits (sreg (tillerAt s t) (iSA w)) 22 0,
      bits (sreg (tillerAt s t) (iSA w)) 22 0 + tileSize e.fmt)] = false) :
    exec (.send t w) s = .next (sendCopies t {
        port := bits (iImm w) 1 0, mb := bits (sreg (tillerAt s t) (iSB w)) 15 0, rb := bits (sreg (tillerAt s t) (iSB w)) 33 16,
        cb := bits (sreg (tillerAt s t) (iSB w)) 51 34, scale := tileByte e.fmt (bits (sreg (tillerAt s t) (iSB w)) 63 56),
        data := (tsRead t (bits (sreg (tillerAt s t) (iSA w)) 22 0) (tileSize e.fmt) s).1,
        targets := targetsOf (curCfg (tillerAt s t)) (bits (iImm w) 1 0) (bits (sreg (tillerAt s t) (iSB w)) 33 16)
          (bits (sreg (tillerAt s t) (iSB w)) 51 34) }
      (tsRead t (bits (sreg (tillerAt s t) (iSA w)) 22 0) (tileSize e.fmt) s).2) := by
  have hmems : (e :: es).filter (fun e => e.dstStage == 255) = [] := by
    rw [List.filter_eq_nil_iff]
    exact fun x hx => by simpa using hplain x hx
  change execSend t w s = _
  rw [execSend, instr_of_issues h]
  dsimp only
  rw [hedges]
  dsimp only
  rw [hmems]
  exact congrArg _ ((if_neg (by simp [hregion])).trans ((if_neg (by simp)).trans ((if_neg (by simp [hhazard])).trans
    (if_neg (by simp)))))

theorem modCfgBy_congr {who t : Nat} {f f' : Cfg → Cfg} {s : State}
    (h : f (cfgBy (tillerAt s t) who) = f' (cfgBy (tillerAt s t) who)) : modCfgBy who t f s = modCfgBy who t f' s := by
  unfold modCfgBy modTiller
  unfold cfgBy at h
  split at h
  · simp [*]
  · split at h <;> simp [*]

@[simp] theorem cfgBy_tsWrite (who t a : Nat) (bs : List Byte) (s : State) :
    cfgBy (tillerAt (tsWrite t a bs s) t) who = cfgBy (tillerAt s t) who := by
  rw [tsWrite, tillerAt_modTiller_same]
  rfl

theorem exec_streamTileArrive {dst src port who i : Nat} {f : Flight} {q : Slot} {s : State} (ht : dst < 128)
    (hflight : s.flights.find? (isFlight 0 dst src port) = some f) (hwho : takerOf (tillerAt s dst) f.ch f.tag = some who)
    (hslot : (cfgBy (tillerAt s dst) who).inSlots.zipIdx.find? (fun p =>
      p.1.st == 0 && p.1.port == port && p.1.producer == src && p.1.stage == f.stage) = some (q, i))
    (hfence : quadFenced s dst = false) (hhazard : writeHazard (tillerAt s dst) [(q.addr, q.addr + q.size)] = false) :
    exec (.streamTileArrive dst src port) s = .next (modCfgBy who dst (fun g => { g with
        inSlots := (cfgBy (tillerAt s dst) who).inSlots.set i { q with st := 2, mb := f.mb, rb := f.rb, cb := f.cb, scale := f.scale } })
      (tsWrite dst q.addr f.data { s with flights := removeFirst (isFlight 0 dst src port) s.flights })) := by
  change execStreamTileArrive dst src port s = _
  rw [execStreamTileArrive, atUnit_of_lt ht]
  simp only [hflight, hwho, hslot, hfence, hhazard, Bool.or_self, Bool.false_eq_true, if_false]
  refine congrArg _ (modCfgBy_congr ?_)
  rw [cfgBy_tsWrite]
  rfl

theorem exec_streamEndArrive {dst src port who : Nat} {f : Flight} {s : State} (ht : dst < 128)
    (hflight : s.flights.find? (isFlight 1 dst src port) = some f)
    (hlast : ∀ x ∈ s.flights, isFlight 0 dst src port x = true → x.stage ≠ f.stage) (hfence : quadFenced s dst = false)
    (hwho : takerOf (tillerAt s dst) f.ch f.tag = some who) :
    exec (.streamEndArrive dst src port) s = .next (modCfgBy who dst (fun g => { g with ends := g.ends ++ [(port, src, f.stage)] })
      { s with flights := removeFirst (isFlight 1 dst src port) s.flights }) := by
  have hnone : s.flights.any (fun x => isFlight 0 dst src port x && x.stage == f.stage) = false := by
    simpa using hlast
  have hwho' : takerOf (tillerAt { s with flights := removeFirst (isFlight 1 dst src port) s.flights } dst) f.ch f.tag = some who := hwho
  change execStreamEndArrive dst src port s = _
  rw [execStreamEndArrive, atUnit_of_lt ht]
  simp only [hflight, hnone, hfence, hwho', Bool.or_self, Bool.false_eq_true, if_false]

theorem send_modCfgBy (who t : Nat) (f : Cfg → Cfg) (s : State) :
    (tillerAt (modCfgBy who t f s) t).send = (tillerAt s t).send := by
  rw [modCfgBy, tillerAt_modTiller_same]
  split
  · rfl
  · split <;> rfl

theorem exec_streamCreditReturn {dst src port who : Nat} {f : Flight} {s : State} (ht : dst < 128)
    (hflight : s.flights.find? (isFlight 2 dst src port) = some f) (hfence : quadFenced s dst = false)
    (hwho : whoOf (tillerAt s dst) f.ch f.tag f.stage = some who) (hsend : (tillerAt s dst).send = none) :
    exec (.streamCreditReturn dst src port) s = .next (modCfgBy who dst (giveCredit (src, port))
      { s with flights := removeFirst (isFlight 2 dst src port) s.flights }) := by
  have hwho' : whoOf (tillerAt { s with flights := removeFirst (isFlight 2 dst src port) s.flights } dst) f.ch f.tag f.stage = some who :=
    hwho
  have hsend' : (tillerAt (modCfgBy who dst (giveCredit (src, port))
      { s with flights := removeFirst (isFlight 2 dst src port) s.flights }) dst).send = none := (send_modCfgBy ..).trans hsend
  change execStreamCreditReturn dst src port s = _
  rw [execStreamCreditReturn, atUnit_of_lt ht]
  simp only [hflight, hfence, hwho', hsend', Bool.false_eq_true, if_false]

/-! ### Tiles consumed -/

/-- A landed tile whose mark is passed, and which no request names, is consumed at once. -/
theorem consume_of_free {t kind idx mb wait : Nat} {s : State} {k : State → State}
    (hmark : markOf s (curCfg (tillerAt s t)) mb = none) (hreq : slotReq (tillerAt s t) (tillerAt s t).cur kind idx = none) :
    consume t kind idx mb wait s k = k s := by
  rw [consume, if_neg (by simp [hmark]), hreq]

/-- WAITIN on a port whose producers each have a tile or have ended. -/
theorem exec_waitin {t : Nat} {w : Word} {s : State} {e : Edge} (h : Issues 0x66 regsDAB t w s)
    (hedge : (inEdges (curCfg (tillerAt s t))).find? (fun e => e.dstPort == bits (iImm w) 1 0) = some e)
    (hready : ((producersOf (curCfg (tillerAt s t)) (bits (iImm w) 1 0)).map (fun p => (p.1, p.2.srcStage))).all
      (producerReady (curCfg (tillerAt s t)) (bits (iImm w) 1 0)) = true) :
    exec (.waitin t w) s = .next (match lowestTile (curCfg (tillerAt s t)) (bits (iImm w) 1 0) with
      | none => issued t (setSreg t (iSD w) (word (2 ^ 64 - 1)) s)
      | some (q, i) => if q.st = 1 then waitAt t 4 s else consume t 4 i q.mb 4 s fun s =>
          issued t (setSreg t (iSD w) (slotWord q e.fmt)
            (modCfg t (fun g => { g with inSlots := g.inSlots.set i { q with st := 3 } }) s))) := by
  change execWaitin t w s = _
  rw [execWaitin, instr_of_issues h]
  simp only [hedge, hready, Bool.not_true, Bool.false_eq_true, if_false] <;> rfl

theorem exec_waitw {t i : Nat} {w : Word} {s : State} {q : Slot} (h : Issues 0x68 regsDAB t w s)
    (hnext : nextWeight (curCfg (tillerAt s t)) = some (q, i)) (hst : q.st ≠ 1) :
    exec (.waitw t w) s = .next (consume t 5 i q.mb 5 s fun v =>
      issued t (setSreg t (iSD w) (slotWord q (curCfg (tillerAt s t)).stage.fmtW)
        (modCfg t (fun g => { g with wSlots := g.wSlots.modify i (fun q => { q with st := 3 }) }) v))) := by
  change execWaitw t w s = _
  rw [execWaitw, instr_of_issues h]
  simp only [hnext, if_neg hst]

theorem exec_relin {t i : Nat} {w : Word} {s : State} {q : Slot} (h : Issues 0x67 regsAB t w s)
    (hedge : (inEdges (curCfg (tillerAt s t))).any (fun e => e.dstPort == bits (iImm w) 1 0) = true)
    (hslot : (curCfg (tillerAt s t)).inSlots.zipIdx.find? (fun p => p.1.port == bits (iImm w) 1 0 &&
      p.1.addr == bits (sreg (tillerAt s t) (iSA w)) 22 0 && decide (2 ≤ p.1.st)) = some (q, i))
    (htiller : q.producer ≠ 255) (hreq : slotReq (tillerAt s t) (tillerAt s t).cur 4 i = none) :
    exec (.relin t w) s = .next (issued t {
      modCfg t (fun g => { g with inSlots := g.inSlots.set i { q with st := 0 } }) s with
      flights := s.flights ++ [{
        kind := 2, src := t, dst := q.producer, port := bits (iImm w) 1 0, ch := (curCfg (tillerAt s t)).chan,
        tag := (curCfg (tillerAt s t)).loadPos, stage := q.stage }] }) := by
  change execRelin t w s = _
  rw [execRelin, instr_of_issues h]
  simp only [hedge, hslot, hreq, if_neg htiller, Bool.not_true, Bool.false_eq_true, if_false]
  rfl

theorem exec_relw {t i : Nat} {w : Word} {s : State} {q : Slot} (h : Issues 0x69 regsAB t w s)
    (hslot : (curCfg (tillerAt s t)).wSlots.zipIdx.find? (fun p => p.1.addr == bits (sreg (tillerAt s t) (iSA w)) 22 0 &&
      (p.1.st == 2 || p.1.st == 3)) = some (q, i))
    (hreq : slotReq (tillerAt s t) (tillerAt s t).cur 5 i = none) :
    exec (.relw t w) s = .next (issued t (modCfg t (fun g => { g with
      wSlots := g.wSlots.set i { q with st := if (nextMember (curCfg (tillerAt s t)) t).isNone || q.forwarded then 0 else 4 } }) s)) := by
  change execRelw t w s = _
  rw [execRelw, instr_of_issues h]
  simp only [hslot, hreq]

/-! ### The relay of weights (R39, R41) -/

theorem exec_relayForward {t who i n k j : Nat} {q f : Slot} {s : State} (ht : t < 128)
    (h : (relaysOf s t).find? (relayOpen s t) = some (who, q, i, n, k, some (f, j))) :
    exec (.relayForward t) s = .next (modCfgBy who t (fun g => { g with
        wSlots := g.wSlots.set i { q with forwarded := true, st := if q.st = 4 then 0 else q.st } })
      (modCfgBy k n (fun g => { g with
        wSlots := g.wSlots.set j {
          f with
          st := 2, mb := q.mb, rb := q.rb, cb := q.cb, scale := q.scale, seq := g.wSeq, forwarded := false },
        wSeq := g.wSeq + 1 })
      (tsWrite n f.addr (tsRaw (tillerAt s t) q.addr (tileSize (cfgBy (tillerAt s t) who).stage.fmtW)) s))) := by
  change execRelayForward t s = _
  rw [execRelayForward, atUnit_of_lt ht, h]

theorem exec_relayStall {t : Nat} {s : State} (ht : t < 128) (h : (relaysOf s t).any (fun r => r.2.2.2.2.2.isNone) = true) :
    exec (.relayStall t) s = .next (setEv (.tlr t) Reg.TLR_EVENT Bit.TLR_EVENT_RELAY_STALL s) := by
  change execRelayStall t s = _
  rw [execRelayStall, atUnit_of_lt ht, if_pos h]

/-- Settles O23: by the equation of each instruction and event. -/
theorem tilesTravel : Obligations.TilesTravel := by
  unfold Obligations.TilesTravel
  refine ⟨?_, ?_, ?_, ?_, ?_, ?_, ?_, ?_, ?_, ?_, ?_⟩
  · rintro t a n w b s g e es hissue rfl hedges hplain rfl rfl rfl hregion hhazard
    exact exec_send hissue hedges hplain hregion hhazard
  · exact fun dst src port who i f q s ht hf hwho hslot hfence hhazard => exec_streamTileArrive ht hf hwho hslot hfence hhazard
  · exact fun dst src port who f s ht hf hlast hfence hwho => exec_streamEndArrive ht hf hlast hfence hwho
  · exact fun dst src port who f s ht hf hfence hwho hsend => exec_streamCreditReturn ht hf hfence hwho hsend
  · rintro t w s g e hissue rfl hnext hedge hready hnone
    refine completes_of ((exec_waitin hissue hedge hready).trans (by rw [hnone])) ((becomes_refl t s).setSreg ..) ?_
    exact nextInProgram_of_eq hnext (by simp) (by simp)
  · rintro t i w s g e q hissue rfl hnext hedge hready hlow hst hmark hreq
    refine completes_of ((exec_waitin hissue hedge hready).trans ?_)
      (((becomes_refl t s).modCfg (fun g => { g with inSlots := g.inSlots.set i { q with st := 3 } })).setSreg _ _) ?_
    · rw [hlow]
      exact congrArg _ ((if_neg hst).trans (consume_of_free hmark hreq))
    · exact nextInProgram_of_eq hnext (by simp) (by simp)
  · rintro t i w s g q hissue rfl hedge hslot htiller hreq
    exact exec_relin hissue hedge hslot htiller hreq
  · rintro t i w s g q hissue rfl hnext hweight hst hmark hreq
    refine completes_of ((exec_waitw hissue hweight hst).trans (congrArg _ (consume_of_free hmark hreq)))
      (((becomes_refl t s).modCfg (fun g => { g with wSlots := g.wSlots.modify i (fun q => { q with st := 3 }) })).setSreg _ _) ?_
    exact nextInProgram_of_eq hnext (by simp) (by simp)
  · rintro t i w s g q hissue rfl hnext hreq hslot
    refine completes_of (exec_relw hissue hslot hreq) ((becomes_refl t s).modCfg _) ?_
    exact nextInProgram_of_eq hnext (by simp) (by simp)
  · exact fun t who i n k j q f s ht h => exec_relayForward ht h
  · exact fun t who i n k q s ht h => exec_relayStall ht (List.any_eq_true.2 ⟨_, h, rfl⟩)

end Sys2Proof.Travel
end


section
/-! PROOF. Requests of a tiller (R52 to R60, R173 to R189): their issue, their parts, what lands and what is consumed. -/

open Sys2Proof Sys2Proof.Machine Sys2Proof.Claim Sys2Proof.Tillers Sys2Proof.Channels Sys2Proof.Accesses

namespace Sys2Proof.Requests

/-! ### Reads and writes at their issue -/

theorem exec_mreq {t : Nat} {w : Word} {s v : State} (h : Issues 0x62 regsAB t w s) {a : Nat} {d : Desc}
    (ha : a = bits (sreg (tillerAt s t) (iSA w)) 22 0) (hregion : inRegions (curCfg (tillerAt s t)).stage a 32 = true)
    (hhazard : readHazard (tillerAt s t) [(a, a + 32)] = false) (hd : d = descOf (tsRead t a 32 s).1)
    (hcheck : dCheck t d false (tsRead t a 32 s).2 = (none, v)) (hroom : queued (tillerAt s t) < 256)
    (htrack : trackerUsed (tillerAt s t) < 512) :
    exec (.mreq t w) s = .next (issued t (enqueue t
      (readReq (tillerAt s t) d (bits (sreg (tillerAt s t) (iSB w)) 15 0) w (objAt s (dObj d))) v)) := by
  subst ha hd
  have hfull : ¬ (256 ≤ queued (tillerAt s t) ∨ 512 ≤ trackerUsed (tillerAt s t)) := by omega
  change execMreq t w s = _
  rw [execMreq, instr_of_issues h]
  simp only [hregion, hhazard, hcheck, if_neg hfull, Bool.not_true, Bool.false_eq_true, if_false]

theorem exec_mreq_of_rejected {t status : Nat} {w : Word} {s v : State} (h : Issues 0x62 regsAB t w s) {a : Nat} {d : Desc}
    (ha : a = bits (sreg (tillerAt s t) (iSA w)) 22 0) (hregion : inRegions (curCfg (tillerAt s t)).stage a 32 = true)
    (hhazard : readHazard (tillerAt s t) [(a, a + 32)] = false) (hd : d = descOf (tsRead t a 32 s).1)
    (hcheck : dCheck t d false (tsRead t a 32 s).2 = (some status, v)) :
    exec (.mreq t w) s = .next (faultAt t 8 status v) := by
  subst ha hd
  change execMreq t w s = _
  rw [execMreq, instr_of_issues h]
  simp only [hregion, hhazard, hcheck, Bool.not_true, Bool.false_eq_true, if_false]

theorem exec_mwrite {t : Nat} {w : Word} {s v : State} (h : Issues 0x64 regsAB t w s) {a n : Nat} {d : Desc}
    (ha : a = bits (sreg (tillerAt s t) (iSA w)) 22 0) (hregion : inRegions (curCfg (tillerAt s t)).stage a 32 = true)
    (hhazard : readHazard (tillerAt s t) [(a, a + 32)] = false) (hd : d = descOf (tsRead t a 32 s).1)
    (hcheck : dCheck t d true (tsRead t a 32 s).2 = (none, v)) (hroom : queued (tillerAt s t) < 256) (hn : n = tileSize (dFmt d))
    (hscale : dScaleLand d = false) (htile : readHazard (tillerAt s t) [(dDst d, dDst d + n)] = false) :
    exec (.mwrite t w) s = .next (issued t (cntInc (.tlr t) Reg.TLR_CNT_TILES (enqueue t
      (writeReq (tillerAt s t) d (bits (sreg (tillerAt s t) (iSB w)) 15 0) w (objAt s (dObj d)) (tsRead t (dDst d) n v).1)
      (tsRead t (dDst d) n v).2))) := by
  subst ha hd hn
  change execMwrite t w s = _
  rw [execMwrite, instr_of_issues h]
  simp only [hregion, hhazard, hcheck, hscale, htile, if_neg (Nat.not_le.2 hroom), Bool.not_true, Bool.false_and, Bool.false_eq_true,
    if_false, List.append_nil]

/-! ### Consumption (R53, R54) -/

theorem exec_waitm {t : Nat} {w : Word} {s : State} {q : MemReq} (h : Issues 0x63 regsAB t w s)
    (hone : (tillerAt s t).reqs.filter (fun q => q.kind == 0 && q.who == (tillerAt s t).cur &&
      q.dst == bits (sreg (tillerAt s t) (iSA w)) 22 0) = [q])
    (hmark : markOf s (curCfg (tillerAt s t)) q.mb = none) (hland : q.landed = true) (hstale : q.stale = false)
    (hpoison : q.poisoned = false) :
    exec (.waitm t w) s = .next (issued t (dropReq t q.rid (dropReq t q.rid s))) := by
  change execWaitm t w s = _
  rw [execWaitm, instr_of_issues h]
  simp [hone, hmark, hland, hstale, hpoison]

theorem becomes_dropReq_twice (t rid : Nat) (s : State) :
    Becomes t { tillerAt s t with reqs := (tillerAt s t).reqs.filter (fun q => q.rid != rid) } s (dropReq t rid (dropReq t rid s)) := by
  have h : Becomes t _ s (dropReq t rid (dropReq t rid s)) := (becomes_modTiller t (fun u => { u with
    reqs := u.reqs.filter (fun q => q.rid != rid) }) s).modTiller (fun u => { u with reqs := u.reqs.filter (fun q => q.rid != rid) })
  simpa [List.filter_filter] using h

theorem exec_waitm_of_none {t : Nat} {w : Word} {s : State} (h : Issues 0x63 regsAB t w s)
    (hnone : ∀ q ∈ (tillerAt s t).reqs, q.kind = 0 → q.who = (tillerAt s t).cur → q.dst ≠ bits (sreg (tillerAt s t) (iSA w)) 22 0) :
    exec (.waitm t w) s = .next (faultAt t 9 ST_STAGE_FAULT s) := by
  have hempty : (tillerAt s t).reqs.filter (fun q => q.kind == 0 && q.who == (tillerAt s t).cur &&
      q.dst == bits (sreg (tillerAt s t) (iSA w)) 22 0) = [] := by
    rw [List.filter_eq_nil_iff]
    exact fun q hq => by simpa using hnone q hq
  change execWaitm t w s = _
  rw [execWaitm, instr_of_issues h]
  simp only [hempty]

/-! ### A request sent (R58, R180, R186) -/

/-- What looking up the granules of a read leaves alone. -/
def lookupTouch : Touch := { regs := true, xlat := true, chans := true, cxl := true }

theorem keeps_lookups {t : Nat} {o : Obj} (gs : List Nat) (s : State) :
    Keeps lookupTouch s (gs.foldl (fun s g => xlatTouch t (o.mapIndex + g) s) s) :=
  keeps_foldl (fun _ _ hv => xlatTouch_keeps _ _ _ hv ⟨rfl, rfl, rfl, rfl⟩) (Keeps.refl _ _)

/-- The parts of a request put in the pools of their homes: each stack has those of its own. -/
theorem pool_foldl_poolAdd {t rid h : Nat} (hh : h < 16) (ps : List Part) : ∀ s : State,
    (stackAt (ps.foldl (fun s p => poolAdd p.home t rid s) s) h).pool =
      (stackAt s h).pool ++ (ps.filter (fun p => p.home == h)).map (fun _ => (t, rid)) := by
  induction ps with
  | nil => simp
  | cons p ps ih =>
    intro s
    rw [List.foldl_cons, ih]
    by_cases hp : p.home = h
    · have hadd : (stackAt (poolAdd p.home t rid s) h).pool = (stackAt s h).pool ++ [(t, rid)] := by
        rw [poolAdd, if_pos (by omega), hp, stackAt_modStack_same]
      rw [hadd, List.filter_cons_of_pos (by simp [hp]), List.map_cons, List.append_assoc, List.singleton_append]
    · have hadd : stackAt (poolAdd p.home t rid s) h = stackAt s h := by
        unfold poolAdd
        split
        · exact stackAt_modStack_ne _ _ (Ne.symm hp)
        · rfl
      simp [hadd, hp]

theorem keeps_pools {t rid : Nat} (ps : List Part) (s : State) :
    Keeps { stackMap := true, deeps := true } s (ps.foldl (fun s p => poolAdd p.home t rid s) s) :=
  keeps_foldl (fun _ _ hv => poolAdd_keeps _ _ _ _ hv ⟨rfl, rfl⟩) (Keeps.refl _ _)

/-- A read's granules looked up. -/
def lookedUp (t : Nat) (q : MemReq) (s : State) : State :=
  (runGranules (reqRuns s q)).foldl (fun s g => xlatTouch t ((objAt s q.obj).mapIndex + g) s) s

/-- The parts of a request as they stand once it is sent: admitted, or answered poisoned by a home that is down. -/
def sentParts (t : Nat) (q : MemReq) (s : State) : List Part :=
  (sendParts s t q).map (fun p => if p.st ≠ 0 then p
    else if homeDown s p.home then { p with st := 2, poison := true, cause := 9 } else { p with st := 1 })

/-- The parts that homes take in. -/
def newParts (t : Nat) (q : MemReq) (s : State) : List Part := (sendParts s t q).filter (fun p => p.st == 0 && !homeDown s p.home)

/-- A request sent with its parts. -/
def withParts (ps : List Part) (y : MemReq) : MemReq :=
  { y with sent := true, landed := false, parts := ps, fetches := y.fetches + (if y.retried then 0 else 1) }

/-- The state in which a read has been sent. -/
def readSent (t rid : Nat) (q : MemReq) (s x : State) : State :=
  modTiller (modReq t rid (withParts (sentParts t q s))
    ((newParts t q s).foldl (fun s p => poolAdd p.home t rid s) x)) t starve

theorem homeDown_of_keeps {T : Touch} {s v : State} (h : Keeps T s v) (hT : T.rcv = false) (n : Nat) : homeDown v n = homeDown s n := by
  unfold homeDown domainAt
  rw [h.frame.rcv hT]

theorem exec_memRequestSend {t rid : Nat} {q : MemReq} {s : State} (ht : t < 128) (hnext : nextToSend s t = some q) (hrid : q.rid = rid)
    (hfence : quadFenced s t = false) (hread : reqWrites q = false) :
    ∃ x, Keeps lookupTouch s x ∧ exec (.memRequestSend t rid) s = .next (readSent t rid q s x) := by
  have hgo : ¬ (q.rid ≠ rid ∨ quadFenced s t = true) := by simp [hrid, hfence]
  refine ⟨_, keeps_lookups (t := t) (o := objAt s q.obj) (runGranules (reqRuns s q)) s, ?_⟩
  have hdown : homeDown ((runGranules (reqRuns s q)).foldl (fun v g => xlatTouch t ((objAt s q.obj).mapIndex + g) v) s) = homeDown s :=
    funext fun n => homeDown_of_keeps (keeps_lookups _ s) rfl n
  change execMemRequestSend t rid s = _
  rw [execMemRequestSend, atUnit_of_lt ht, hnext]
  simp only [if_neg hgo, hread, Bool.false_eq_true, if_false, hdown]
  rfl

/-- A request of a tiller whose queue is starved is one of before; one that had been sent is as it was. -/
theorem mem_reqs_starve {u : Tiller} {y : MemReq} (h : y ∈ (starve u).reqs) :
    ∃ z ∈ u.reqs, z.rid = y.rid ∧ (z.sent = true → y = z) := by
  unfold starve at h
  split at h
  · obtain ⟨z, hz, rfl⟩ := List.mem_map.1 h
    by_cases hsent : z.sent = true
    · exact ⟨z, hz, by simp [hsent], by simp [hsent]⟩
    · exact ⟨z, hz, by simp [hsent], fun h => absurd h hsent⟩
  · exact ⟨y, h, rfl, fun _ => rfl⟩

theorem mem_reqs_modReq {t rid : Nat} {f : MemReq → MemReq} {s : State} {y : MemReq}
    (h : y ∈ (tillerAt (modReq t rid f s) t).reqs) (hrid : y.rid = rid) : ∃ z, y = f z := by
  rw [modReq, tillerAt_modTiller_same] at h
  obtain ⟨z, hz, rfl⟩ := List.mem_map.1 h
  by_cases hz' : z.rid = rid
  · exact ⟨z, if_pos (by simp [hz'])⟩
  · rw [if_neg (by simp [hz'])] at hrid
    exact absurd hrid hz'

theorem reqs_readSent {t rid : Nat} {q y : MemReq} {s x : State} (hy : y ∈ (tillerAt (readSent t rid q s x) t).reqs)
    (hrid : y.rid = rid) : y.sent = true ∧ y.landed = false ∧ y.parts = sentParts t q s := by
  rw [readSent, tillerAt_modTiller_same] at hy
  obtain ⟨z, hz, hzrid, hsame⟩ := mem_reqs_starve hy
  obtain ⟨z', rfl⟩ := mem_reqs_modReq (f := withParts _) hz (hzrid.trans hrid)
  rw [hsame rfl]
  exact ⟨rfl, rfl, rfl⟩

theorem pool_readSent {t rid h : Nat} {q : MemReq} {s x : State} (hh : h < 16) (hx : Keeps lookupTouch s x) :
    (stackAt (readSent t rid q s x) h).pool = (stackAt s h).pool ++ ((newParts t q s).filter (fun p => p.home == h)).map
      (fun _ => (t, rid)) := by
  have hstack : stackAt x h = stackAt s h := by
    unfold stackAt
    rw [hx.frame.stackMap rfl]
  rw [readSent, stackAt_modTiller, modReq, stackAt_modTiller, pool_foldl_poolAdd hh, hstack]

theorem dram_readSent {t rid : Nat} {q : MemReq} {s x : State} (hx : Keeps lookupTouch s x) : (readSent t rid q s x).dram = s.dram := by
  rw [readSent, modTiller_dram, modReq, modTiller_dram, (keeps_pools (newParts t q s) x).frame.dram rfl, hx.frame.dram rfl]

/-! ### What lands, and what is acknowledged -/

theorem exec_staleNotice {t rid : Nat} {s : State} (ht : t < 128) (h : s.notices.contains (t, rid) = true) :
    exec (.staleNotice t rid) s = .next (modReq t rid (fun q => { q with stale := !q.ordered })
      { s with notices := s.notices.erase (t, rid) }) := by
  change execStaleNotice t rid s = _
  rw [execStaleNotice, atUnit_of_lt ht, onlyIf_of_true h]

theorem exec_tileLand {t rid : Nat} {q : MemReq} {s : State} (ht : t < 128)
    (hq : (tillerAt s t).reqs.find? (fun q => q.rid == rid) = some q) (hkind : q.kind = 0) (htrack : tracked q = true)
    (hsent : q.sent = true) (hland : q.landed = false) (hparts : q.parts.all answered = true) (hclean : ∀ p ∈ q.parts, p.poison = false)
    (hhazard : landHazard (tillerAt s t) rid (reqRanges q) = false) (hfence : quadFenced s t = false) (hscale : q.scaleDst = none) :
    exec (.tileLand t rid) s = .next (modReq t rid (fun q => { q with landed := true })
      (tsWrite t q.dst ((tileOf q (tileSize q.fmt + 1)).take (tileSize q.fmt)) (failsOver t q true s))) := by
  have hgo : (!(tracked q && q.sent && !q.landed && q.parts.all answered) || landHazard (tillerAt s t) rid (reqRanges q) ||
      quadFenced s t) = false := by
    simp [htrack, hsent, hland, hparts, hhazard, hfence]
  have hgood : q.parts.find? (·.poison) = none := by
    simpa using hclean
  change execTileLand t rid s = _
  rw [execTileLand, atUnit_of_lt ht]
  simp only [hq, hgo, hgood, hscale, hkind, Bool.false_eq_true, if_false]
  rfl

theorem exec_writeAck {t rid : Nat} {q : MemReq} {s : State} (ht : t < 128)
    (hq : (tillerAt s t).reqs.find? (fun q => q.rid == rid) = some q) (hwrite : reqWrites q = true) (hsent : q.sent = true)
    (hland : q.landed = false) (hparts : q.parts.all answered = true) :
    exec (.writeAck t rid) s = .next (match q.parts.find? (·.poison) with
      | some p => poisonFault t { q with cause := p.cause } (dropReq t rid s)
      | none => if q.parts.any (fun p => p.st == 3) then modReq t rid (fun q => { q with landed := true }) s else dropReq t rid s) := by
  change execWriteAck t rid s = _
  rw [execWriteAck, atUnit_of_lt ht]
  simp only [hq, hwrite, hsent, hland, hparts, Bool.and_self, Bool.not_false, Bool.not_true, Bool.false_eq_true, if_false] <;> rfl

theorem exec_writeAck_of_clean {t rid : Nat} {q : MemReq} {s : State} (ht : t < 128)
    (hq : (tillerAt s t).reqs.find? (fun q => q.rid == rid) = some q) (hwrite : reqWrites q = true) (hsent : q.sent = true)
    (hland : q.landed = false) (hparts : ∀ p ∈ q.parts, p.st = 2 ∧ p.poison = false) :
    exec (.writeAck t rid) s = .next (dropReq t rid s) := by
  have hanswered : q.parts.all answered = true := by
    rw [List.all_eq_true]
    exact fun p hp => by simp [answered, (hparts p hp).1]
  have hgood : q.parts.find? (·.poison) = none := by
    simpa using fun p hp => (hparts p hp).2
  have hnone : ¬ (q.parts.any (fun p => p.st == 3) = true) := by
    simp only [List.any_eq_true, not_exists, not_and]
    exact fun p hp => by simp [(hparts p hp).1]
  rw [exec_writeAck ht hq hwrite hsent hland hanswered, hgood]
  exact congrArg _ (if_neg hnone)

/-! ### Prefetch (R46, R52, R53) -/

/-- A list of slots in which one waits for a prefetched tile. -/
def awaitTile (idx mb rb cb seq : Nat) (l : List Slot) : List Slot :=
  l.zipIdx.map (fun p => if p.2 = idx then
    { p.1 with st := 1, mb := mb, rb := rb, cb := cb, scale := 0, seq := seq, forwarded := false } else p.1)

theorem getElem?_awaitTile {idx mb rb cb seq : Nat} {l : List Slot} {q : Slot} (h : l[idx]? = some q) :
    (awaitTile idx mb rb cb seq l)[idx]? =
      some { q with st := 1, mb := mb, rb := rb, cb := cb, scale := 0, seq := seq, forwarded := false } := by
  simp [awaitTile, List.getElem?_zipIdx, h]

/-- A configuration that has issued a prefetch. -/
def prefetched (port mb rb cb idx : Nat) (last : Bool) (g : Cfg) : Cfg :=
  { g with
    inSlots := if port = 4 then g.inSlots else awaitTile idx mb rb cb 0 g.inSlots
    wSlots := if port = 4 then awaitTile idx mb rb cb g.wSeq g.wSlots else g.wSlots
    wSeq := if port = 4 then g.wSeq + 1 else g.wSeq
    pfLast := (port, mb, rb, cb) :: g.pfLast.filter (fun p => p.1 != port)
    pfMark := none
    ends := if last then g.ends ++ [(port, 255, 255)] else g.ends }

theorem exec_prefetchIssue {t who port mb rb cb off oi base fmt idx : Nat} {slot : Slot} {last : Bool} {s : State}
    (h : PrefetchReady t who port mb rb cb off oi base fmt slot idx s) :
    exec (.prefetchIssue t who port mb rb cb off last) s = .next (match markOf s (cfgBy (tillerAt s t) who) mb with
      | some m => modCfgBy who t (fun g => { g with pfMark := some m }) s
      | none => enqueue t (prefetchReq who (if port = 4 then 5 else 4) (objAt s oi) oi fmt (base + off) mb slot idx)
          (modCfgBy who t (prefetched port mb rb cb idx last) s)) := by
  obtain ⟨u, g, rfl, rfl, ht, hwho, hport, hsrc, hslots, hrun, hfence, htrack, hqueue, hlimit, hends, hlast, hmb, hsize⟩ := h
  have hsource : (if port = 4 then (if fetchesWeights (cfgBy (tillerAt s t) who) t then
        some ((cfgBy (tillerAt s t) who).stage.weightObj, (cfgBy (tillerAt s t) who).stage.weightOffset,
          (cfgBy (tillerAt s t) who).stage.fmtW) else none)
      else (memEdge (cfgBy (tillerAt s t) who) port).map (fun e => (e.memObj, e.memOffset, e.fmt))) = some (oi, base, fmt) := by
    by_cases hp : port = 4
    · rw [if_pos hp] at hsrc ⊢
      obtain ⟨hw, rfl, rfl, rfl⟩ := hsrc
      rw [if_pos hw]
    · rw [if_neg hp] at hsrc ⊢
      obtain ⟨e, he, rfl, rfl, rfl⟩ := hsrc
      rw [he]
      rfl
  obtain ⟨rest, hfree⟩ := List.head?_eq_some_iff.1 hslots
  have hrunning : (if who = 0 then (cfgBy (tillerAt s t) who).valid && !(tillerAt s t).ctxA.ended
      else if who = 1 then (cfgBy (tillerAt s t) who).valid && !(tillerAt s t).ctxD.ended
      else (cfgBy (tillerAt s t) who).valid && (cfgBy (tillerAt s t) who).complete && earlyOk (tillerAt s t)) = true := by
    by_cases h0 : who = 0
    · rw [if_pos h0] at hrun ⊢
      simp [hrun]
    · rw [if_neg h0] at hrun ⊢
      by_cases h1 : who = 1
      · rw [if_pos h1] at hrun ⊢
        simp [hrun]
      · rw [if_neg h1] at hrun ⊢
        simp [hrun]
  have hordered : (match (cfgBy (tillerAt s t) who).pfLast.find? (fun p => p.1 == port) with
      | some p => coordLt p.2 (mb, rb, cb) || (port == 4 && !coordLt (mb, rb, cb) p.2) || port == 4
      | none => true) = true := by
    split
    · next p hp => rcases hlast p hp with h | h <;> simp [h]
    · rfl
  change execPrefetchIssue t who port mb rb cb off last s = _
  rw [execPrefetchIssue, atUnit_of_lt ht]
  simp only [hsource, hfree, hrunning]
  refine congrArg _ ((if_neg fun hbad => ?_).trans ?_)
  · simp only [Bool.or_eq_true, decide_eq_true_eq, hfence, Bool.not_true, Bool.false_eq_true, false_or] at hbad
    rcases hbad with (((((((h | h) | h) | h) | h) | h) | h) | h) | h
    · omega
    · omega
    · omega
    · omega
    · omega
    · exact absurd h (by rw [hends]; decide)
    · exact Bool.false_ne_true ((congrArg (!·) hordered).symm.trans h)
    · omega
    · omega
  · rfl

/-- The bank of a tiller that a change names, and the rest of the tiller. -/
def setCfgBy (who : Nat) (f : Cfg → Cfg) (u : Tiller) : Tiller :=
  if who = 0 then { u with act := f u.act } else if who = 1 then { u with dfr := f u.dfr } else { u with shadow := f u.shadow }

@[simp] theorem cfgBy_setCfgBy (who : Nat) (f : Cfg → Cfg) (u : Tiller) : cfgBy (setCfgBy who f u) who = f (cfgBy u who) := by
  unfold cfgBy setCfgBy
  by_cases h0 : who = 0
  · simp [h0]
  · by_cases h1 : who = 1 <;> simp [h0, h1]

@[simp] theorem reqs_setCfgBy (who : Nat) (f : Cfg → Cfg) (u : Tiller) :
    (setCfgBy who f u).reqs = u.reqs ∧ (setCfgBy who f u).nextRid = u.nextRid := by
  unfold setCfgBy
  split
  · exact ⟨rfl, rfl⟩
  · split <;> exact ⟨rfl, rfl⟩

/-- A tiller with a request at the end of its issue queue. -/
def withReq (q : MemReq) (u : Tiller) : Tiller :=
  { u with
    reqs := u.reqs ++ [{ q with
      rid := u.nextRid, limit := effTags (cfgBy u q.who).stage, ch := (cfgBy u q.who).chan, starved := noTag u }]
    nextRid := u.nextRid + 1 }

@[simp] theorem cfgBy_withReq (who : Nat) (q : MemReq) (u : Tiller) : cfgBy (withReq q u) who = cfgBy u who := rfl

theorem tillerAt_prefetch (t who : Nat) (q : MemReq) (f : Cfg → Cfg) (s : State) :
    tillerAt (enqueue t q (modCfgBy who t f s)) t = withReq q (setCfgBy who f (tillerAt s t)) := by
  rw [enqueue, modCfgBy, tillerAt_modTiller_same, tillerAt_modTiller_same]
  rfl

theorem onlyTiller_prefetch (t who : Nat) (q : MemReq) (f : Cfg → Cfg) (s : State) :
    OnlyTiller t s (enqueue t q (modCfgBy who t f s)) := by
  refine ⟨fun r hr => ?_, rfl⟩
  rw [enqueue, modCfgBy, tillerAt_modTiller_ne _ _ hr, tillerAt_modTiller_ne _ _ hr]

theorem slot_of_ready {t who port mb rb cb off oi base fmt idx : Nat} {slot : Slot} {s : State}
    (h : PrefetchReady t who port mb rb cb off oi base fmt slot idx s) :
    (if port = 4 then (cfgBy (tillerAt s t) who).wSlots else (cfgBy (tillerAt s t) who).inSlots)[idx]? = some slot := by
  obtain ⟨u, g, rfl, rfl, -, -, -, -, hslots, -⟩ := h
  have hmem := List.mem_of_mem_head? (Option.mem_def.2 hslots)
  have := List.mem_zipIdx_iff_getElem?.1 (List.mem_filter.1 hmem).1
  simpa using this

/-- Settles O24: by the equation of each instruction and event, and the parts of a request followed to their homes. -/
theorem requestsReachMemory : Obligations.RequestsReachMemory := by
  unfold Obligations.RequestsReachMemory
  refine ⟨?_, ?_, ?_, ?_, ?_, ?_, ?_, ?_, ?_, ?_, ?_, ?_⟩
  · exact fun t a w s v d hissue ha hregion hhazard hd hcheck hroom htrack =>
      exec_mreq hissue ha hregion hhazard hd hcheck hroom htrack
  · exact fun t a status w s v d hissue ha hregion hhazard hd hcheck => exec_mreq_of_rejected hissue ha hregion hhazard hd hcheck
  · exact fun t a n w s v d hissue ha hregion hhazard hd hcheck hroom hn hscale htile =>
      exec_mwrite hissue ha hregion hhazard hd hcheck hroom hn hscale htile
  · intro t w s q hissue hnext hone hmark hland hstale hpoison
    exact completes_of (exec_waitm hissue hone hmark hland hstale hpoison) (becomes_dropReq_twice t q.rid s) hnext
  · exact fun t w s hissue hnone => exec_waitm_of_none hissue hnone
  · intro t rid q s ht hnext hrid hfence hread
    obtain ⟨x, hx, hexec⟩ := exec_memRequestSend ht hnext hrid hfence hread
    refine ⟨_, hexec, fun y hy hyrid => reqs_readSent hy hyrid, fun h hh => ?_, dram_readSent hx⟩
    rw [pool_readSent hh hx, newParts, List.filter_filter]
    simp only [Bool.and_comm]
  · exact fun t rid s ht h => exec_staleNotice ht h
  · rintro t rid n q s ht hq hkind htrack hsent hland hparts hclean hhazard hfence rfl hscale
    exact exec_tileLand ht hq hkind htrack hsent hland hparts hclean hhazard hfence hscale
  · exact fun t rid q s ht hq hwrite hsent hland hparts => exec_writeAck_of_clean ht hq hwrite hsent hland hparts
  · intro t rid q p s ht hq hwrite hsent hland hparts hbad
    rw [exec_writeAck ht hq hwrite hsent hland hparts, hbad]
  · intro t who port mb rb cb off oi base fmt idx m slot last s hready hmark
    rw [exec_prefetchIssue hready, hmark]
  · rintro t who port mb rb cb off oi base fmt idx slot last s g hready rfl hmark
    refine ⟨_, (exec_prefetchIssue hready).trans (by rw [hmark]), onlyTiller_prefetch .., ?_, ?_, ?_, ?_, ?_⟩
    · rw [tillerAt_prefetch, withReq]
      obtain ⟨hreqs, hrid⟩ := reqs_setCfgBy who (prefetched port mb rb cb idx last) (tillerAt s t)
      have hcfg : cfgBy (setCfgBy who (prefetched port mb rb cb idx last) (tillerAt s t)) who =
          prefetched port mb rb cb idx last (cfgBy (tillerAt s t) who) := cfgBy_setCfgBy ..
      simp only [hreqs, hrid, prefetchReq, hcfg, noTag, tagsHeld]
      rfl
    · have hslot := slot_of_ready hready
      rw [tillerAt_prefetch, cfgBy_withReq, cfgBy_setCfgBy]
      by_cases hp : port = 4
      · simp only [prefetched, if_pos hp] at hslot ⊢
        exact getElem?_awaitTile hslot
      · simp only [prefetched, if_neg hp] at hslot ⊢
        exact getElem?_awaitTile hslot
    all_goals rw [tillerAt_prefetch, cfgBy_withReq, cfgBy_setCfgBy]; rfl

end Sys2Proof.Requests
end


section
/-! PROOF. The array and the finished-tile queue (R67 to R90, R122). -/

open Sys2Proof Sys2Proof.Machine Sys2Proof.Claim Sys2Proof.Tillers Sys2Proof.Channels

namespace Sys2Proof.Arrays

/-! ### Commands at their issue -/

/-- The array command that ARR issues. -/
def arrCmdOf (u : Tiller) (w : Word) : ArrCmd := { w := sreg u (iSA w), ctx := u.cur, s6 := sreg u 6, s7 := sreg u 7, rid := u.nextRid }

/-- The ranges that a command of a tiller reads, and writes, where it is a pass. -/
def cmdReads (u : Tiller) (c : ArrCmd) : List (Nat × Nat) :=
  if bits c.w 1 0 = 0 then passReads (ctxStage u c.ctx).1 (ctxStage u c.ctx).2 c false else []
def cmdWrites (u : Tiller) (c : ArrCmd) : List (Nat × Nat) := if bits c.w 1 0 = 0 then passWrites (ctxStage u c.ctx).2 c else []

theorem exec_arr {t : Nat} {w : Word} {s : State} (h : Issues 0x60 (fun w => [iSA w, 6, 7]) t w s) :
    exec (.arr t w) s = .next (
      if (tillerAt s t).cur = 0 && !(tillerAt s t).admitted then waitAt t 1 s
      else if arrFaulty (tillerAt s t) (arrCmdOf (tillerAt s t) w) then arrFault t s
      else if 8 ≤ (tillerAt s t).arr.queue.length then waitAt t 11 s
      else if readHazard (tillerAt s t) (cmdReads (tillerAt s t) (arrCmdOf (tillerAt s t) w)) ||
          (cmdWrites (tillerAt s t) (arrCmdOf (tillerAt s t) w)).any (fun r =>
            meets r (vqWrites (tillerAt s t)) || meets r (vqReads (tillerAt s t))) then waitAt t 11 s
      else issued t (modTiller (wr s (.tlr t) Reg.TLR_ARR_LAST_CMD (arrCmdOf (tillerAt s t) w).w) t (fun u => { u with
        arr := { u.arr with
          queue := u.arr.queue ++ [arrCmdOf (tillerAt s t) w]
          slabs := u.arr.slabs ++ cmdWrites (tillerAt s t) (arrCmdOf (tillerAt s t) w) } }))) := by
  change execArr t w s = _
  rw [execArr, instr_of_issues h]
  rfl

theorem admitted_of_or {u : Tiller} (h : u.cur = 1 ∨ u.admitted = true) : ¬ ((u.cur = 0 && !u.admitted) = true) := by
  rcases h with h | h <;> simp [h]

theorem becomes_wr (t k off : Nat) (x : Word) (s : State) : Becomes t (tillerAt s t) s (wr s (.tlr k) off x) :=
  becomes_of_count rfl

theorem becomes_arr (t : Nat) (c : ArrCmd) (wrs : List (Nat × Nat)) (s : State) :
    Becomes t { tillerAt s t with arr := { (tillerAt s t).arr with
        queue := (tillerAt s t).arr.queue ++ [c], slabs := (tillerAt s t).arr.slabs ++ wrs } } s
      (modTiller (wr s (.tlr t) Reg.TLR_ARR_LAST_CMD c.w) t (fun u => { u with
        arr := { u.arr with queue := u.arr.queue ++ [c], slabs := u.arr.slabs ++ wrs } })) :=
  (becomes_wr t t _ _ s).modTiller (fun u => { u with
    arr := { u.arr with queue := u.arr.queue ++ [c], slabs := u.arr.slabs ++ wrs } })

theorem exec_waita {t : Nat} {w : Word} {s : State} (h : Issues 0x61 regsNone t w s) (hqueue : (tillerAt s t).arr.queue = [])
    (hpass : (tillerAt s t).arr.pass = none) :
    exec (.waita t w) s = .next (issued t (modTiller s t (fun u => { u with arr := { u.arr with slabs := [] } }))) := by
  change execWaita t w s = _
  rw [execWaita, instr_of_issues h]
  exact congrArg _ (if_pos (by simp [hqueue, hpass]))

theorem exec_ftqWait {t : Nat} {w : Word} {s : State} (h : Issues 0x6A regsDAB t w s) :
    exec (.ftqWait t w) s = .next (if ((tillerAt s t).ftq.getD (tillerAt s t).ftqHead {}).st ≠ 2 then waitAt t 6 s
      else issued t (setSreg t (iSD w) (word ((tillerAt s t).ftq.getD (tillerAt s t).ftqHead {}).rows) s)) := by
  change execFtqWait t w s = _
  rw [execFtqWait, instr_of_issues h]

theorem exec_ftqPop {t : Nat} {w : Word} {s : State} (h : Issues 0x6B regsNone t w s) :
    exec (.ftqPop t w) s = .next (if ((tillerAt s t).ftq.getD (tillerAt s t).ftqHead {}).st ≠ 2 then waitAt t 6 s
      else if (tillerAt s t).vq.any (fun e => readsFtq e.w) then waitAt t 11 s
      else issued t (modTiller s t (fun u => { u with
        ftq := u.ftq.set u.ftqHead {}, ftqHead := (u.ftqHead + 1) % 8, ftqOff := 0 }))) := by
  change execFtqPop t w s = _
  rw [execFtqPop, instr_of_issues h]

/-! ### Passes -/

theorem modArr_congr {t : Nat} {f f' : ArrayUnit → ArrayUnit} {s : State} (h : f (tillerAt s t).arr = f' (tillerAt s t).arr) :
    modArr t f s = modArr t f' s := by
  rw [modArr, modArr, modTiller, modTiller, h]

/-- The pass of a tiller that goes on next, with its row block. -/
def nextBlock (u : Tiller) : Option (ArrCmd × Nat) :=
  match u.arr.pass with
  | some p => some p
  | none => match u.arr.queue with
    | c :: _ => if bits c.w 1 0 = 0 then some (c, 0) else none
    | [] => none

/-- The stationary operand of a tiller is one that a further pass of a stage may keep (R70). -/
def ownStat (u : Tiller) (c : ArrCmd) : Bool :=
  match u.arr.stat with
  | some x => x.ctx == c.ctx && x.stageId == (ctxStage u c.ctx).1.stageId
  | none => false

/-- What ARRAY_PASS does with row block i of a command. -/
def runBlock (t : Nat) (c : ArrCmd) (i : Nat) (keeps : Bool) (s : State) : State :=
  let u := tillerAt s t
  let p := ctxStage u c.ctx
  if operandMissing u c (blockReads p.1 p.2 c keeps i) then modArr t (fun a => { a with holdInput := true }) s
  else if (p.2 = 1 && bit c.w 3 && !ftqFree u) || (p.2 = 2 && u.arr.flush.any (fun f => f.bank == u.arr.wsBank)) then
    modArr t (fun a => { a with holdFtq := true, holdInput := false }) s
  else
    let s := modArr t (fun a => { a with
      queue := if a.pass.isSome then a.queue else a.queue.drop 1, pass := some (c, i), holdInput := false, holdFtq := false }) s
    if keeps then passBlock t c (u.arr.stat.getD {}) i s
    else
      let r := loadStat t p.1 p.2 c s
      passBlock t c r.1 i (cntAdd (.tlr t) Reg.TLR_CNT_ARR_LOAD (if p.2 = 2 then 16 else 64)
        (modArr t (fun a => { a with stat := some r.1 }) r.2))

theorem exec_arrayPass {t i : Nat} {c : ArrCmd} {s : State} (ht : t < 128) (hfence : quadFenced s t = false)
    (h : nextBlock (tillerAt s t) = some (c, i)) :
    exec (.arrayPass t) s = .next (runBlock t c i
      (((tillerAt s t).arr.pass.isSome && i != 0) || aKeeps c.w (ownStat (tillerAt s t) c)) s) := by
  change execArrayPass t s = _
  rw [execArrayPass, atUnit_of_lt ht]
  refine congrArg _ ((if_neg (by simp [hfence])).trans ?_)
  unfold nextBlock at h
  cases hpass : (tillerAt s t).arr.pass with
  | some p =>
    rw [hpass] at h
    obtain rfl := Option.some.inj h
    rfl
  | none =>
    rw [hpass] at h
    cases hqueue : (tillerAt s t).arr.queue with
    | nil => simp [hqueue] at h
    | cons c' r =>
      by_cases hop : bits c'.w 1 0 = 0
      · simp only [hqueue, if_pos hop, Option.some.injEq, Prod.mk.injEq] at h
        obtain ⟨rfl, rfl⟩ := h
        dsimp only
        rw [if_pos hop]
        rfl
      · simp [hqueue, hop] at h

/-- A row block whose operands are there, and whose place for sums is free, is run. -/
theorem runBlock_of_ready {t i : Nat} {c : ArrCmd} {keeps : Bool} {s : State} {d : StageDesc} {form : Nat}
    (hp : (d, form) = ctxStage (tillerAt s t) c.ctx)
    (hmissing : operandMissing (tillerAt s t) c (blockReads d form c keeps i) = false)
    (hftq : form = 1 → bit c.w 3 = true → ftqFree (tillerAt s t) = true)
    (hbank : form = 2 → ∀ f ∈ (tillerAt s t).arr.flush, f.bank ≠ (tillerAt s t).arr.wsBank) :
    runBlock t c i keeps s =
      let x := modArr t (fun a => { a with
        queue := if a.pass.isSome then a.queue else a.queue.drop 1, pass := some (c, i), holdInput := false, holdFtq := false }) s
      if keeps then passBlock t c ((tillerAt s t).arr.stat.getD {}) i x
      else passBlock t c (loadStat t d form c x).1 i (cntAdd (.tlr t) Reg.TLR_CNT_ARR_LOAD (if form = 2 then 16 else 64)
        (modArr t (fun a => { a with stat := some (loadStat t d form c x).1 }) (loadStat t d form c x).2)) := by
  have hplace : ¬ (((decide (form = 1) && bit c.w 3 && !ftqFree (tillerAt s t)) ||
      (decide (form = 2) && (tillerAt s t).arr.flush.any (fun f => f.bank == (tillerAt s t).arr.wsBank))) = true) := by
    simpa using ⟨hftq, hbank⟩
  rw [runBlock]
  dsimp only
  rw [← hp]
  dsimp only
  rw [if_neg (by simp [hmissing]), if_neg hplace]

theorem exec_arraySync {t : Nat} {c : ArrCmd} {r : List ArrCmd} {s : State} (ht : t < 128) (hfence : quadFenced s t = false)
    (hpass : (tillerAt s t).arr.pass = none) (hqueue : (tillerAt s t).arr.queue = c :: r) (hop : bits c.w 1 0 = 1) :
    exec (.arraySync t) s = .next (modArr t (fun a => { a with queue := r }) s) := by
  change execArraySync t s = _
  rw [execArraySync, atUnit_of_lt ht]
  refine (onlyIf_of_true (by simp [hpass, hqueue, hop, hfence]) _ _).trans (congrArg _ (modArr_congr ?_))
  simp [hqueue]

/-! ### The finished-tile queue -/

/-- The next slot of a tiller claimed where it is free. -/
def claimed (u : Tiller) : Tiller := if (u.ftq.getD u.ftqNext {}).st = 0 then ftqTake { st := 1 } u else u

/-- A finished tile taken into the next slot. -/
def pushed (h : Nat) (data : List F32) (u : Tiller) : Tiller :=
  { ftqTake { st := 2, rows := h, data := data } u with ftqNext := (u.ftqNext + 1) % 8 }

theorem claimed_keeps (u : Tiller) : (claimed u).ftqNext = u.ftqNext ∧ (claimed u).arr = u.arr ∧
    (claimed u).ftq.length = u.ftq.length ∧ ∀ i, i ≠ u.ftqNext → (claimed u).ftq.getD i {} = u.ftq.getD i {} := by
  unfold claimed
  split
  · refine ⟨rfl, rfl, by simp [ftqTake], fun i hi => ?_⟩
    simp [ftqTake, List.getD_eq_getElem?_getD, List.getElem?_set_ne (Ne.symm hi)]
  · exact ⟨rfl, rfl, rfl, fun _ _ => rfl⟩

theorem getD_pushed {h : Nat} {data : List F32} {u : Tiller} (hn : u.ftqNext < u.ftq.length) :
    (pushed h data u).ftq.getD u.ftqNext {} = { st := 2, rows := h, data := data } := by
  simp [pushed, ftqTake, List.getD_eq_getElem?_getD, hn]

/-- The tiller that has flushed one column tile of a bank, with what is still to flush. -/
def flushed (h : Nat) (data : List F32) (fl : List WsFlush) (u : Tiller) : Tiller :=
  let v := pushed h data (claimed u)
  let v := if fl.isEmpty then v else claimed v
  { v with arr := { v.arr with holdFtq := false, flush := fl } }

theorem flushed_spec {h : Nat} {data : List F32} {fl : List WsFlush} {u : Tiller} (hn : u.ftqNext < 8) (hlen : u.ftq.length = 8) :
    (flushed h data fl u).ftq.getD u.ftqNext {} = { st := 2, rows := h, data := data } ∧
    (flushed h data fl u).ftqNext = (u.ftqNext + 1) % 8 ∧ (flushed h data fl u).arr = { u.arr with holdFtq := false, flush := fl } := by
  obtain ⟨hnext, harr, hlen', -⟩ := claimed_keeps u
  have hslot : (pushed h data (claimed u)).ftq.getD u.ftqNext {} = { st := 2, rows := h, data := data } := by
    rw [← hnext]
    exact getD_pushed (by omega)
  have hpnext : (pushed h data (claimed u)).ftqNext = (u.ftqNext + 1) % 8 := by rw [← hnext]; rfl
  have hparr : (pushed h data (claimed u)).arr = u.arr := harr
  unfold flushed
  by_cases hfl : fl.isEmpty = true
  · simp only [hfl, if_true]
    exact ⟨hslot, hpnext, by rw [hparr]⟩
  · obtain ⟨hnext2, harr2, -, hothers⟩ := claimed_keeps (pushed h data (claimed u))
    have hne : u.ftqNext ≠ (pushed h data (claimed u)).ftqNext := by rw [hpnext]; omega
    simp only [hfl]
    exact ⟨(hothers _ hne).trans hslot, hnext2.trans hpnext, by rw [if_neg (by simp), harr2, hparr]⟩

theorem tillerAt_ftqClaim (t : Nat) (s : State) : tillerAt (ftqClaim t s) t = claimed (tillerAt s t) := tillerAt_modTiller_same ..

theorem tillerAt_ftqPush (t h : Nat) (data : List F32) (s : State) :
    tillerAt (ftqPush t h data s) t = pushed h data (claimed (tillerAt s t)) := by
  rw [ftqPush, tillerAt_modTiller_same, tillerAt_ftqClaim]
  rfl

theorem onlyTiller_trans {t : Nat} {s v x : State} (h : OnlyTiller t s v) (h' : OnlyTiller t v x) : OnlyTiller t s x := by
  obtain ⟨hothers, hrest⟩ := h
  obtain ⟨hothers', hrest'⟩ := h'
  refine ⟨fun r hr => (hothers' r hr).trans (hothers r hr), ?_⟩
  rw [hrest', hrest]

theorem onlyTiller_modTiller (t : Nat) (f : Tiller → Tiller) (s : State) : OnlyTiller t s (modTiller s t f) :=
  ⟨fun _ hr => tillerAt_modTiller_ne _ _ hr, rfl⟩

/-- What ARRAY_BANK_FLUSH leaves of a bank's tiles to flush. -/
def stillFlushing (f : WsFlush) (rest : List WsFlush) (left : Nat) : List WsFlush :=
  if f.tile < 3 ∧ 64 < left then { f with tile := f.tile + 1 } :: rest else rest

/-- The state after a column tile of a bank. -/
def bankFlushed (t h : Nat) (data : List F32) (fl : List WsFlush) (s : State) : State :=
  modArr t (fun a => { a with holdFtq := false, flush := fl })
    (if fl.isEmpty then ftqPush t h data s else ftqClaim t (ftqPush t h data s))

theorem tillerAt_bankFlushed (t h : Nat) (data : List F32) (fl : List WsFlush) (s : State) :
    tillerAt (bankFlushed t h data fl s) t = flushed h data fl (tillerAt s t) := by
  rw [bankFlushed, modArr, tillerAt_modTiller_same, flushed]
  split <;> simp only [tillerAt_ftqClaim, tillerAt_ftqPush]

theorem onlyTiller_bankFlushed (t h : Nat) (data : List F32) (fl : List WsFlush) (s : State) :
    OnlyTiller t s (bankFlushed t h data fl s) := by
  have hpush : OnlyTiller t s (ftqPush t h data s) :=
    onlyTiller_trans (onlyTiller_modTiller t _ s) (onlyTiller_modTiller t _ (ftqClaim t s))
  refine onlyTiller_trans ?_ (onlyTiller_modTiller t _ _)
  split
  · exact hpush
  · exact onlyTiller_trans hpush (onlyTiller_modTiller t _ _)

theorem exec_arrayBankFlush {t : Nat} {f : WsFlush} {rest : List WsFlush} {s : State} (ht : t < 128) (hfence : quadFenced s t = false)
    (hflush : (tillerAt s t).arr.flush = f :: rest) (hfree : ftqFree (tillerAt s t) = true) :
    exec (.arrayBankFlush t) s = .next (bankFlushed t f.rows
      (padTile ((List.range f.rows).map (fun r =>
        (List.range (min 64 ((ctxStage (tillerAt s t) f.ctx).1.cols - (f.n0 + 64 * f.tile)))).map (fun n =>
          smGet (accDefault (tillerAt s t).arr) (tillerAt s t).arr.acc (f.bank * 16384 + r * 256 + 64 * f.tile + n)))))
      (stillFlushing f rest ((ctxStage (tillerAt s t) f.ctx).1.cols - (f.n0 + 64 * f.tile))) s) := by
  change execArrayBankFlush t s = _
  rw [execArrayBankFlush, atUnit_of_lt ht]
  dsimp only
  rw [hflush]
  exact congrArg _ ((if_neg (by simp [hfence])).trans (if_neg (by simp [hfree])))

/-- Settles O25: by the equation of each command and event of the array, and the finished-tile queue followed slot by slot. -/
theorem theArrayRunsItsCommands : Obligations.TheArrayRunsItsCommands := by
  unfold Obligations.TheArrayRunsItsCommands
  refine ⟨?_, ?_, ?_, ?_, ?_, ?_, ?_, ?_, ?_, ?_, ?_, ?_⟩
  · rintro t w s c rds wrs hissue hnext hadm rfl hsound hroom rfl rfl hread hwrite
    refine completes_of ((exec_arr hissue).trans (congrArg _ ?_)) (becomes_arr t (arrCmdOf (tillerAt s t) w) _ s) hnext
    have hsound' : arrFaulty (tillerAt s t) (arrCmdOf (tillerAt s t) w) = false := hsound
    have hread' : readHazard (tillerAt s t) (cmdReads (tillerAt s t) (arrCmdOf (tillerAt s t) w)) = false := hread
    have hclear : ¬ ((readHazard (tillerAt s t) (cmdReads (tillerAt s t) (arrCmdOf (tillerAt s t) w)) ||
        (cmdWrites (tillerAt s t) (arrCmdOf (tillerAt s t) w)).any (fun r =>
          meets r (vqWrites (tillerAt s t)) || meets r (vqReads (tillerAt s t)))) = true) := by
      simp only [Bool.or_eq_true, List.any_eq_true, not_or, not_exists, not_and]
      exact ⟨by rw [hread']; decide, fun r hr => by simpa using hwrite r hr⟩
    exact (if_neg (admitted_of_or hadm)).trans ((if_neg (by rw [hsound']; decide)).trans ((if_neg (Nat.not_le.2 hroom)).trans
      (if_neg hclear)))
  · intro t w s hissue hcur hadm
    exact (exec_arr hissue).trans (congrArg _ (if_pos (by simp [hcur, hadm])))
  · intro t w s hissue hadm hfault
    exact (exec_arr hissue).trans (congrArg _ ((if_neg (admitted_of_or hadm)).trans (if_pos hfault)))
  · intro t w s hissue hnext hqueue hpass
    exact completes_of (exec_waita hissue hqueue hpass) (becomes_modTiller t _ s) hnext
  · intro t c r s d form ht hfence hpass hqueue hop hsame hp hmissing hftq hbank
    have hblock : nextBlock (tillerAt s t) = some (c, 0) := by simp [nextBlock, hpass, hqueue, hop]
    have hkeeps : (((tillerAt s t).arr.pass.isSome && (0 : Nat) != 0) || aKeeps c.w (ownStat (tillerAt s t) c)) = false := by
      simp [aKeeps, hsame]
    have hstart : modArr t (fun a => { a with
        queue := if a.pass.isSome then a.queue else a.queue.drop 1, pass := some (c, 0), holdInput := false, holdFtq := false }) s =
        modArr t (fun a => { a with queue := r, pass := some (c, 0), holdInput := false, holdFtq := false }) s :=
      modArr_congr (by simp [hpass, hqueue])
    refine ⟨_, exec_arrayPass ht hfence hblock, _, rfl, ?_⟩
    rw [hkeeps, runBlock_of_ready hp hmissing hftq hbank, hstart]
    rfl
  · intro t i c x s d form ht hfence hpass hstat hp hmissing hftq hbank
    have hblock : nextBlock (tillerAt s t) = some (c, i + 1) := by simp [nextBlock, hpass]
    have hkeeps : (((tillerAt s t).arr.pass.isSome && (i + 1) != 0) || aKeeps c.w (ownStat (tillerAt s t) c)) = true := by
      simp [hpass]
    have hstart : modArr t (fun a => { a with
        queue := if a.pass.isSome then a.queue else a.queue.drop 1, pass := some (c, i + 1), holdInput := false, holdFtq := false }) s =
        modArr t (fun a => { a with pass := some (c, i + 1), holdInput := false, holdFtq := false }) s :=
      modArr_congr (by simp [hpass])
    rw [exec_arrayPass ht hfence hblock, hkeeps, runBlock_of_ready hp hmissing hftq hbank, hstart, hstat,
      Option.getD_some]
    exact congrArg _ (if_pos rfl)
  · intro t c r s ht hfence hpass hqueue hop hsame hmissing
    have hblock : nextBlock (tillerAt s t) = some (c, 0) := by simp [nextBlock, hpass, hqueue, hop]
    have hkeeps : (((tillerAt s t).arr.pass.isSome && (0 : Nat) != 0) || aKeeps c.w (ownStat (tillerAt s t) c)) = false := by
      simp [aKeeps, hsame]
    rw [exec_arrayPass ht hfence hblock, hkeeps]
    exact congrArg _ (if_pos hmissing)
  · exact fun t c r s ht hfence hpass hqueue hop => exec_arraySync ht hfence hpass hqueue hop
  · rintro t left f rest s ht hfence hflush hn hlen hfree rfl
    refine ⟨_, exec_arrayBankFlush ht hfence hflush hfree, onlyTiller_bankFlushed .., ?_⟩
    rw [tillerAt_bankFlushed]
    obtain ⟨hslot, hnext, harr⟩ := flushed_spec (h := f.rows) (data := padTile ((List.range f.rows).map (fun r =>
        (List.range (min 64 ((ctxStage (tillerAt s t) f.ctx).1.cols - (f.n0 + 64 * f.tile)))).map (fun n =>
          smGet (accDefault (tillerAt s t).arr) (tillerAt s t).arr.acc (f.bank * 16384 + r * 256 + 64 * f.tile + n)))))
      (fl := stillFlushing f rest ((ctxStage (tillerAt s t) f.ctx).1.cols - (f.n0 + 64 * f.tile))) hn hlen
    exact ⟨hslot, hnext, by rw [harr], by rw [harr]; rfl⟩
  · intro t w s hissue hnext hready
    refine completes_of ((exec_ftqWait hissue).trans (congrArg _ (if_neg (not_not.2 hready)))) ((becomes_refl t s).setSreg _ _) ?_
    exact nextInProgram_of_eq hnext (by simp) (by simp)
  · intro t w s hissue hnext hready hread
    have hnone : ¬ ((tillerAt s t).vq.any (fun e => readsFtq e.w) = true) := by simpa using hread
    exact completes_of ((exec_ftqPop hissue).trans (congrArg _ ((if_neg (not_not.2 hready)).trans (if_neg hnone))))
      (becomes_modTiller t _ s) hnext
  · intro i op reads t w s hrow hissue hwait
    simp only [List.mem_cons, List.not_mem_nil, or_false, Prod.mk.injEq] at hrow
    rcases hrow with ⟨rfl, rfl, rfl⟩ | ⟨rfl, rfl, rfl⟩
    · exact (exec_ftqWait hissue).trans (congrArg _ (if_pos hwait))
    · exact (exec_ftqPop hissue).trans (congrArg _ (if_pos hwait))

end Sys2Proof.Arrays
end


section
/-! PROOF. Layers loaded and swapped (R31, R42 to R51), and the switch between contexts (R98). -/

open Sys2Proof Sys2Proof.Machine Sys2Proof.Claim Sys2Proof.Channels Sys2Proof.Arrays

namespace Sys2Proof.Layers

theorem exec_stageLoad {src : CmdSrc} {e : Entry} {late : List Nat} {s : State} {bs : List Byte} {ps : List (List Word)}
    (h : Taken 0x20 src e s) (hread : readGraph s (chOf s src e) (bits e.a0 16 0) e.a1.toNat = (bs, ST_OK)) (hok : graphOk bs = true)
    (hwait : graphWaits s (chOf s src e) (graphOf bs) = false)
    (hfit : graphRefusal (begun src e s) (chOf s src e) (stepAt (begun src e s) (chOf s src e) (cmdOf s src e).pos) (graphOf bs) = none)
    (hprogs : readPrograms (begun src e s) (chOf s src e) (graphOf bs).stages = .ok ps) :
    exec (.stageLoad src e late) s = .next (loadGraph (cmdOf s src e) (graphOf bs) ps late (begun src e s)) := by
  change execStageLoad src e late s = _
  simp only [chOf] at hread hwait hfit hprogs
  rw [execStageLoad, if_neg (by simp [hread, hwait]), serve_of_taken h]
  simp only [hread, hok, ne_eq, not_true_eq_false, if_false, Bool.not_true, Bool.false_eq_true]
  rw [hfit]
  dsimp only
  rw [hprogs]

theorem ends_stageLoad_of_invalid {src : CmdSrc} {e : Entry} {late : List Nat} {s : State} {bs : List Byte}
    (h : Taken 0x20 src e s) (hread : readGraph s (chOf s src e) (bits e.a0 16 0) e.a1.toNat = (bs, ST_OK)) (hbad : graphOk bs = false) :
    Ends (.stageLoad src e late) src e s ST_GRAPH_INVALID [] (rejectGraph bs (begun src e s)) := by
  change execStageLoad src e late s = _
  rw [chOf] at hread
  rw [execStageLoad, if_neg (by simp [hread, hbad]), serve_of_taken h]
  simp [hread, hbad]

theorem exec_lateSwap {t : Nat} {s : State} (ht : t < 128) (hvalid : (tillerAt s t).shadow.valid = true)
    (hlate : (tillerAt s t).shadow.complete = false) (hfence : quadFenced s t = false) :
    exec (.lateSwap t) s = .next (
      let x := modTiller s t (fun u => { u with shadow := { u.shadow with complete := true } })
      if !(tillerAt s t).goWait then x
      else failMarks (tillerAt s t).shadow.chan (loadsDone (tillerAt s t).shadow.chan (setStateField t (modTiller (swapTiller t x) t
        (fun u => { u with admitted := !(chanAt s (tillerAt s t).shadow.chan).waves.any (fun w => w.contains t) }))))) := by
  change execLateSwap t s = _
  rw [execLateSwap, atUnit_of_lt ht]
  exact onlyIf_of_true (by simp [hvalid, hlate, hfence]) _ _

theorem exec_contextSwitch {t : Nat} {s : State} (ht : t < 128) (hidle : arrayIdle (tillerAt s t) = true)
    (hvq : (tillerAt s t).vq = []) (hsend : (tillerAt s t).send = none) (hfence : quadFenced s t = false)
    (hasked : (tillerAt s t).switching = true) :
    exec (.contextSwitch t) s = .next (setStateField t (modTiller s t (fun u => { u with cur := 1 - u.cur, switching := false }))) := by
  change execContextSwitch t s = _
  rw [execContextSwitch, atUnit_of_lt ht]
  exact onlyIf_of_true (by simp [hidle, hvq, hsend, hfence, hasked]) _ _

theorem exec_admitWaveOpen {c : Nat} {w : List Nat} {rest : List (List Nat)} {s : State} (hc : c < 4096)
    (hwaves : (chanAt s c).waves = w :: rest) :
    exec (.admitWaveOpen c) s = .next (if s.power.admitPaused then s
      else w.foldl (fun s t => if (tillerAt s t).goWait then s
        else setStateField t (modTiller s t (fun u => { u with admitted := true }))) (modChan s c (fun k => { k with waves := rest }))) := by
  change execAdmitWaveOpen c s = _
  rw [execAdmitWaveOpen, atUnit_of_lt hc, hwaves]

/-- Settles O22: by the equation of each command and event. -/
theorem layersAreLoadedAndSwapped : Obligations.LayersAreLoadedAndSwapped := by
  unfold Obligations.LayersAreLoadedAndSwapped
  refine ⟨?_, ?_, ?_, ?_, ?_, ?_, ?_, ?_, ?_⟩
  · rintro src e late s b bs ps htaken rfl hread hok hwait hfit hprogs
    exact exec_stageLoad htaken hread hok hwait hfit hprogs
  · exact fun src e late s bs htaken hread hbad => ends_stageLoad_of_invalid htaken hread hbad
  · intro c s hc hdrained
    change execLayerBarrierGo c s = _
    rw [execLayerBarrierGo, atUnit_of_lt hc, onlyIf_of_true hdrained]
  · intro c s hc hheld hroom
    change execDeferredSwapResume c s = _
    rw [execDeferredSwapResume, atUnit_of_lt hc, onlyIf_of_true (by simp [hheld, hroom])]
  · intro t s ht hvalid hlate hfence hgo
    refine ⟨_, (exec_lateSwap ht hvalid hlate hfence).trans (congrArg _ (if_pos (by simp [hgo]))), onlyTiller_modTiller t _ s, ?_⟩
    rw [tillerAt_modTiller_same]
  · rintro t c s ht hvalid hlate hfence hgo rfl
    refine (exec_lateSwap ht hvalid hlate hfence).trans (congrArg _ ((if_neg (by simp [hgo])).trans ?_))
    rw [List.not_any_eq_all_not]
  · intro c w rest s hc hwaves hopen
    exact (exec_admitWaveOpen hc hwaves).trans (congrArg _ (if_neg (by simp [hopen])))
  · intro c s hc hpaused
    cases hwaves : (chanAt s c).waves with
    | nil =>
      change execAdmitWaveOpen c s = _
      rw [execAdmitWaveOpen, atUnit_of_lt hc, hwaves]
    | cons w rest => exact (exec_admitWaveOpen hc hwaves).trans (congrArg _ (if_pos hpaused))
  · rintro t s u ht rfl hidle hvq hsend hfence hasked
    refine ⟨_, exec_contextSwitch ht hidle hvq hsend hfence hasked,
      onlyTiller_trans (onlyTiller_modTiller t _ s) (onlyTiller_modTiller t _ _), ?_⟩
    rw [setStateField, tillerAt_modTiller_same, tillerAt_modTiller_same]

end Sys2Proof.Layers
end


section
/-! PROOF. Stacks and deep-tier controllers: parts served, banks watched, scrub, refresh and heat (R183 to R186, R204 to R211, R246 to
R248). -/

open Sys2Proof Sys2Proof.Machine Sys2Proof.Claim Sys2Proof.Channels Sys2Proof.Accesses Sys2Proof.Counters

namespace Sys2Proof.Homes

/-! ### Parts served -/

theorem exec_stackPartServe {i t rid sec : Nat} {errs : List (Nat × List (Nat × Nat))} {s : State} (hi : i < 16)
    (hserve : mayServe (plantErrs i errs (cntAdd (.yst i) Reg.YST_CNT_CE_DIE sec s)) i t rid = true)
    (hplain : isAccum (plantErrs i errs (cntAdd (.yst i) Reg.YST_CNT_CE_DIE sec s)) t rid = false) :
    exec (.stackPartServe i t rid sec errs) s =
      .next (copyPump (servePart i t rid (plantErrs i errs (cntAdd (.yst i) Reg.YST_CNT_CE_DIE sec s)))) := by
  change execStackPartServe i t rid sec errs s = _
  rw [execStackPartServe, atUnit_of_lt hi]
  exact congrArg _ (if_pos (by simp [hserve, hplain]))

theorem exec_dtPartServe {d t rid : Nat} {errs : PartErrs} {s u : State} (hd : d < 32)
    (hu : u = errs.map.foldl (fun s l => mapParity (16 + d) l s) (plantErrs (16 + d) errs.syms s))
    (hserve : mayServe u (16 + d) t rid = true) (hplain : isAccum u t rid = false) :
    exec (.dtPartServe d t rid errs) s = .next (copyPump (servePart (16 + d) t rid u)) := by
  subst hu
  change execDtPartServe d t rid errs s = _
  rw [execDtPartServe, atUnit_of_lt hd]
  exact congrArg _ (if_pos (by simp [hserve, hplain]))

/-! ### Banks watched -/

theorem exec_bankSlow {i ch bank us : Nat} {s : State} (hi : i < 48) (hwork : 0 < pendingCount s i (bankOf ch bank))
    (hcool : i < 16 → (stackAt s i).thermal = false) (hnew : slowRaised s i (bankOf ch bank) = false) :
    exec (.bankSlow i ch bank us) s = .next (setEv (if i < 16 then .yst i else .dtr (i - 16))
      (if i < 16 then Reg.YST_EVENT else Reg.DTR_EVENT) (if i < 16 then Bit.YST_EVENT_BANK_SLOW else Bit.DTR_EVENT_BANK_SLOW)
      (raiseSlow i (bankOf ch bank) (recordBank i ch bank (pendingCount s i (bankOf ch bank)) us s))) := by
  have htimers : timersRun s i = true := by
    unfold timersRun
    split
    · next h => simp [hcool h]
    · rfl
  change execBankSlow i ch bank us s = _
  rw [execBankSlow, atUnit_of_lt hi]
  refine (onlyIf_of_true (by simp [hwork, htimers, hnew]) _ _).trans (congrArg _ ?_)
  by_cases h : i < 16
  · simp only [if_pos h]
  · simp only [if_neg h]

theorem onlyIf_of_false {b : Bool} (h : b = false) (s : State) (f : State → State) : onlyIf b s f = .next s := by
  rw [onlyIf, h]
  rfl

theorem exec_bankSlow_of_raised {i ch bank us : Nat} {s : State} (hi : i < 48) (hold : slowRaised s i (bankOf ch bank) = true) :
    exec (.bankSlow i ch bank us) s = .next s := by
  change execBankSlow i ch bank us s = _
  rw [execBankSlow, atUnit_of_lt hi]
  exact onlyIf_of_false (by simp [hold]) _ _

theorem exec_bankTimeout {i ch bank us : Nat} {s : State} (hi : i < 16) (hwork : 0 < pendingCount s i (bankOf ch bank))
    (hcool : (stackAt s i).thermal = false) : exec (.bankTimeout i ch bank us) s = .next (copyPump (bankTimeout i ch bank us s)) := by
  change execBankTimeout i ch bank us s = _
  rw [execBankTimeout, atUnit_of_lt hi]
  exact onlyIf_of_true (by simp [hwork, timersRun, hi, hcool]) _ _

theorem exec_bankTimeout_of_thermal {i ch bank us : Nat} {s : State} (hi : i < 16) (hhot : (stackAt s i).thermal = true) :
    exec (.bankTimeout i ch bank us) s = .next s := by
  change execBankTimeout i ch bank us s = _
  rw [execBankTimeout, atUnit_of_lt hi]
  exact onlyIf_of_false (by simp [timersRun, hi, hhot]) _ _

theorem exec_dtBankTimeout {d sub rank bank us : Nat} {s : State} (hd : d < 32)
    (hwork : 0 < pendingCount s (16 + d) (bankOf sub (rank * 16 + bank))) :
    exec (.dtBankTimeout d sub rank bank us) s = .next (copyPump (bankTimeout (16 + d) sub (rank * 16 + bank) us s)) := by
  change execDtBankTimeout d sub rank bank us s = _
  rw [execDtBankTimeout, atUnit_of_lt hd]
  exact onlyIf_of_true (by simp [hwork]) _ _

/-! ### Erasure and scrub -/

theorem exec_dieAutoErase {i die : Nat} {s : State} (hi : i < 16) (hdie : die < 16) (hon : bit (rd s (.yst i) Reg.YST_CTRL) 12 = true)
    (hnew : bit (rd s (.yst i) Reg.YST_DIE_ERASE) die = false) :
    exec (.dieAutoErase i die) s = .next (if 4096 < smGet (fun _ => 0) (stackAt s i).dieCe die then
      setEv (.yst i) Reg.YST_EVENT Bit.YST_EVENT_DIE_ERASED
        (wr s (.yst i) Reg.YST_DIE_ERASE (rd s (.yst i) Reg.YST_DIE_ERASE ||| word (2 ^ die))) else s) := by
  change execDieAutoErase i die s = _
  rw [execDieAutoErase, atUnit_of_lt hi]
  simp [onlyIf, hdie, hon, hnew]

theorem exec_scrubRead_stack {i sec : Nat} {err : List (Nat × Nat)} {s : State} {n : Nat} (hi : i < 16)
    (hon : bits (rd s (.yst i) Reg.YST_CTRL) 7 0 ≠ 0) (hup : homeDown s i = false) (hn : n = (stackAt s i).scrubPos) {u : State}
    (hu : u = eccScan (physKey i (n / 64) (n % 64 * 64)) 64 (plantErrs i [(physKey i (n / 64) (n % 64 * 64) / 64, err)] s)) :
    exec (.scrubRead i sec err) s = .next (if n + 1 = homeCodewords i then cntInc (.yst i) Reg.YST_CNT_SCRUB_PASSES
        (modStack (cntAdd (.yst i) Reg.YST_CNT_CE_DIE sec u) i (fun x => { x with scrubPos := 0, dieCe := [] }))
      else modStack (cntAdd (.yst i) Reg.YST_CNT_CE_DIE sec u) i (fun x => { x with scrubPos := n + 1 })) := by
  subst hn hu
  change execScrubRead i sec err s = _
  rw [execScrubRead, atUnit_of_lt (by omega)]
  simp only [if_pos hi]
  refine (onlyIf_of_true (by simp [hon, hup]) _ _).trans (congrArg _ ?_)
  by_cases hdone : (stackAt s i).scrubPos + 1 = homeCodewords i
  · simp [hdone]
  · simp [hdone]

theorem exec_scrubRead_deep {d sec : Nat} {err : List (Nat × Nat)} {s : State} {n : Nat} (hd : d < 32)
    (hon : bits (rd s (.dtr d) Reg.DTR_CTRL) 7 0 ≠ 0) (hup : homeDown s (16 + d) = false) (hn : n = (deepAt s d).scrubPos) {u : State}
    (hu : u = eccScan (physKey (16 + d) (n / 64) (n % 64 * 64)) 64
      (plantErrs (16 + d) [(physKey (16 + d) (n / 64) (n % 64 * 64) / 64, err)] s)) :
    exec (.scrubRead (16 + d) sec err) s = .next (modDeep u d (fun x => { x with
      scrubPos := if n + 1 = homeCodewords (16 + d) then 0 else n + 1 })) := by
  subst hn hu
  have hnot : ¬ 16 + d < 16 := by omega
  change execScrubRead (16 + d) sec err s = _
  rw [execScrubRead, atUnit_of_lt (by omega)]
  simp only [if_neg hnot, Nat.add_sub_cancel_left]
  refine (onlyIf_of_true (by simp [hon, hup]) _ _).trans (congrArg _ ?_)
  simp

/-- Settles O36: by the equation of each event. -/
theorem homesServeTheirParts : Obligations.HomesServeTheirParts := by
  unfold Obligations.HomesServeTheirParts
  refine ⟨?_, ?_, ?_, ?_, ?_, ?_, ?_, ?_, ?_, ?_⟩
  · rintro i t rid sec errs s u hi rfl hserve hplain
    exact exec_stackPartServe hi hserve hplain
  · exact fun d t rid errs s u hd hu hserve hplain => exec_dtPartServe hd hu hserve hplain
  · exact fun i ch bank us s hi hwork hcool hnew => exec_bankSlow hi hwork hcool hnew
  · exact fun i ch bank us s hi hold => exec_bankSlow_of_raised hi hold
  · exact fun i ch bank us s hi hwork hcool => exec_bankTimeout hi hwork hcool
  · exact fun i ch bank us s hi hhot => exec_bankTimeout_of_thermal hi hhot
  · exact fun d sub rank bank us s hd hwork => exec_dtBankTimeout hd hwork
  · rintro i die n e s hi hdie hon rfl rfl hnew
    exact exec_dieAutoErase hi hdie hon hnew
  · exact fun i sec n err s u hi hon hup hn hu => exec_scrubRead_stack hi hon hup hn hu
  · exact fun d sec n err s u hd hon hup hn hu => exec_scrubRead_deep hd hon hup hn hu

end Sys2Proof.Homes
end


section
/-! PROOF. Refresh and heat of the homes (R210, R211, R248). -/

open Sys2Proof Sys2Proof.Machine Sys2Proof.Claim Sys2Proof.Channels Sys2Proof.Accesses Sys2Proof.Counters Sys2Proof.RingCmds

namespace Sys2Proof.Heat

/-! ### The hottest die -/

/-- The die of two that is hotter, the first of them when they are equal. -/
def hotter (b p : Nat × Nat) : Nat × Nat := if b.1 < p.1 then p else b

theorem foldl_hotter (ps : List (Nat × Nat)) : ∀ b, (ps.foldl hotter b = b ∨ ps.foldl hotter b ∈ ps) ∧
    b.1 ≤ (ps.foldl hotter b).1 ∧ ∀ p ∈ ps, p.1 ≤ (ps.foldl hotter b).1 := by
  induction ps with
  | nil => exact fun b => ⟨.inl rfl, Nat.le_refl _, by simp⟩
  | cons p ps ih =>
    intro b
    obtain ⟨hmem, hle, hall⟩ := ih (hotter b p)
    have hb : b.1 ≤ (hotter b p).1 ∧ p.1 ≤ (hotter b p).1 ∧ (hotter b p = b ∨ hotter b p = p) := by
      unfold hotter
      split <;> simp <;> omega
    obtain ⟨hb1, hp1, hone⟩ := hb
    rw [List.foldl_cons]
    refine ⟨?_, Nat.le_trans hb1 hle, fun q hq => ?_⟩
    · rcases hmem with h | h
      · rw [h]
        rcases hone with h' | h' <;> simp [h']
      · exact .inr (by simp [h])
    · rcases List.mem_cons.1 hq with rfl | hq
      · exact Nat.le_trans hp1 hle
      · exact hall q hq

/-- The die of a list of temperatures that is found hottest. -/
def hotOf (l : List Nat) : Nat × Nat := l.zipIdx.foldl hotter (l.headD 0, 0)

theorem hotOf_spec {l : List Nat} {m : Nat} (hm : m ∈ l) (hmax : ∀ x ∈ l, x ≤ m) : (hotOf l).1 = m ∧ l[(hotOf l).2]? = some m := by
  obtain ⟨hmem, -, hall⟩ := foldl_hotter l.zipIdx (l.headD 0, 0)
  have hat : l[(hotOf l).2]? = some (hotOf l).1 := by
    rcases hmem with h | h
    · rw [hotOf, h]
      cases l with
      | nil => simp at hm
      | cons x r => rfl
    · exact List.mem_zipIdx_iff_getElem?.1 h
  obtain ⟨i, hi, hli⟩ := List.mem_iff_getElem.1 hm
  have hle : m ≤ (hotOf l).1 := hall (m, i) (List.mem_zipIdx_iff_getElem?.2 (by simp [hi, hli]))
  have hge : (hotOf l).1 ≤ m := hmax _ (List.mem_of_getElem? hat)
  have heq : (hotOf l).1 = m := Nat.le_antisymm hge hle
  exact ⟨heq, heq ▸ hat⟩

/-! ### Events of two blocks -/

theorem stackAt_of_keeps {T : Touch} {s v : State} (h : Keeps T s v) (hT : T.stackMap = false) (n : Nat) : stackAt v n = stackAt s n := by
  unfold stackAt
  rw [h.frame.stackMap hT]

theorem deepAt_of_keeps {T : Touch} {s v : State} (h : Keeps T s v) (hT : T.deeps = false) (n : Nat) : deepAt v n = deepAt s n := by
  unfold deepAt
  rw [h.frame.deeps hT]

theorem bit_setEv_same (b : Blk) (ev : Nat) {n : Nat} (s : State) (hn : n < 64) : bit (rd (setEv b ev n s) b ev) n = true := by
  rw [rd_setEv_same]
  exact bit_or_word_two_pow _ hn

/-- An event bit stands after the event of another register. -/
theorem bit_setEv_other {b b' : Blk} {ev ev' n n' : Nat} {s : State} (h : blkBase b + ev ≠ blkBase b' + ev')
    (hset : bit (rd s b ev) n = true) : bit (rd (setEv b' ev' n' s) b ev) n = true := by
  unfold rd at hset ⊢
  rwa [rdAddr_setEv_ne _ _ h]

/-! ### The temperature of a stack (R211) -/

/-- A stack that has taken its hottest die. -/
def sampled (hot : Nat × Nat) (x : Stack) : Stack :=
  { x with tempMax := min hot.1 255, hotDie := hot.2, refresh2x := decide (85 < hot.1), thermal := x.thermal || decide (95 ≤ hot.1),
           st := if 95 ≤ hot.1 ∧ x.st = 0 then 1 else x.st }

/-- The state with a stack's sample taken, with the events of a stack that becomes THERMAL. -/
def stackSampled (i : Nat) (hot : Nat × Nat) (s : State) : State :=
  if decide (95 ≤ hot.1) && !(stackAt s i).thermal then
    setEv .pwr Reg.PWR_EVENT Bit.PWR_EVENT_STACK_HOT
      (setEv (.yst i) Reg.YST_EVENT Bit.YST_EVENT_THERM_LIMIT (modStack s i (sampled hot)))
  else modStack s i (sampled hot)

theorem exec_stackTempSample {i : Nat} {l : List Nat} {s : State} (hi : i < 16) (hl : l.length = 16) :
    exec (.stackTempSample i l) s = .next (
      if 100 ≤ (hotOf l).1 then
        flagDomain (0x20 + i) {
            source := 2, cause := 3, severity := 3,
            detail := homeDetail i (rd (stackSampled i (hotOf l) s) (.yst i) Reg.YST_BANK_HEALTH) }
          (setEv (.yst i) Reg.YST_EVENT Bit.YST_EVENT_THERM_TRIP (stackSampled i (hotOf l) s))
      else stackSampled i (hotOf l) s) := by
  change execStackTempSample i l s = _
  rw [execStackTempSample, atUnit_of_lt hi]
  exact onlyIf_of_true (by simp [hl]) _ _

theorem stackAt_stackSampled (i k : Nat) (hot : Nat × Nat) (s : State) :
    stackAt (stackSampled i hot s) k = stackAt (modStack s i (sampled hot)) k := by
  unfold stackSampled
  split
  · rw [stackAt_of_keeps (keeps_setEv ..) rfl, stackAt_of_keeps (keeps_setEv ..) rfl]
  · rfl

theorem events_stackSampled {i : Nat} {hot : Nat × Nat} {s : State} (hi : i < 16) (hhot : 95 ≤ hot.1)
    (hcool : (stackAt s i).thermal = false) :
    bit (rd (stackSampled i hot s) (.yst i) Reg.YST_EVENT) Bit.YST_EVENT_THERM_LIMIT = true ∧
    bit (rd (stackSampled i hot s) .pwr Reg.PWR_EVENT) Bit.PWR_EVENT_STACK_HOT = true := by
  have hne : blkBase (.yst i) + Reg.YST_EVENT ≠ blkBase .pwr + Reg.PWR_EVENT := by
    simp only [blkBase, Reg.YST_EVENT, Reg.PWR_EVENT]
    omega
  rw [stackSampled, if_pos (by simp [hhot, hcool])]
  exact ⟨bit_setEv_other hne (bit_setEv_same _ _ _ (by decide)), bit_setEv_same _ _ _ (by decide)⟩

/-! ### The temperature of a deep-tier controller (R248) -/

/-- A controller that has taken its package temperature. -/
def deepSample (m : Nat) (x : Deep) : Deep :=
  { x with temp := min m 255, thermal := x.thermal || decide (95 < m), st := if 95 < m ∧ x.st = 0 then 1 else x.st }

/-- The state with a controller's sample taken, with the events of a controller that becomes THERMAL. -/
def deepSampled (d m : Nat) (s : State) : State :=
  if decide (95 < m) && !(deepAt s d).thermal then
    setEv .pwr Reg.PWR_EVENT Bit.PWR_EVENT_DEEP_HOT
      (setEv (.dtr d) Reg.DTR_EVENT Bit.DTR_EVENT_THERM_LIMIT (modDeep s d (deepSample m)))
  else modDeep s d (deepSample m)

theorem exec_dtTempSample {d m : Nat} {s : State} (hd : d < 32) :
    exec (.dtTempSample d m) s = .next (
      if 105 ≤ m then
        flagDomain (0x30 + d / 8) {
            source := 3, cause := 3, severity := 3, detail := homeDetail (16 + d) (rd (deepSampled d m s) (.dtr d) Reg.DTR_BANK_HEALTH) }
          (setEv (.dtr d) Reg.DTR_EVENT Bit.DTR_EVENT_THERM_TRIP (deepSampled d m s))
      else deepSampled d m s) := by
  change execDtTempSample d m s = _
  rw [execDtTempSample, atUnit_of_lt hd]
  rfl

theorem deepAt_deepSampled (d m k : Nat) (s : State) : deepAt (deepSampled d m s) k = deepAt (modDeep s d (deepSample m)) k := by
  unfold deepSampled
  split
  · rw [deepAt_of_keeps (keeps_setEv ..) rfl, deepAt_of_keeps (keeps_setEv ..) rfl]
  · rfl

theorem events_deepSampled {d m : Nat} {s : State} (hd : d < 32) (hhot : 95 < m) (hcool : (deepAt s d).thermal = false) :
    bit (rd (deepSampled d m s) (.dtr d) Reg.DTR_EVENT) Bit.DTR_EVENT_THERM_LIMIT = true ∧
    bit (rd (deepSampled d m s) .pwr Reg.PWR_EVENT) Bit.PWR_EVENT_DEEP_HOT = true := by
  have hne : blkBase (.dtr d) + Reg.DTR_EVENT ≠ blkBase .pwr + Reg.PWR_EVENT := by
    simp only [blkBase, Reg.DTR_EVENT, Reg.PWR_EVENT]
    omega
  rw [deepSampled, if_pos (by simp [hhot, hcool])]
  exact ⟨bit_setEv_other hne (bit_setEv_same _ _ _ (by decide)), bit_setEv_same _ _ _ (by decide)⟩

/-- Settles O37: the hottest die found by one pass, and each event's state written out. -/
theorem homesRefreshAndCool : Obligations.HomesRefreshAndCool := by
  unfold Obligations.HomesRefreshAndCool
  refine ⟨?_, ?_, ?_, ?_, ?_, ?_, ?_, ?_⟩
  · rintro i ch bank n s hi rfl
    change execBankRefresh i ch bank s = _
    rw [execBankRefresh, atUnit_of_lt hi]
    by_cases h : 0 < pendingCount s i (bankOf ch bank) ∧ refreshDebt s i (bankOf ch bank) < 8
    · simp [h]
    · simp only [if_neg h]
      exact congrArg _ (if_neg (by simpa using h))
  · intro i ch bank s hi howed
    change execRefreshForce i ch bank s = _
    rw [execRefreshForce, atUnit_of_lt hi, onlyIf_of_true (by simp [howed])]
  · intro i m l s hi hl hm hmax hcool
    obtain ⟨hhot, hdie⟩ := hotOf_spec hm hmax
    refine ⟨_, (exec_stackTempSample hi hl).trans (congrArg _ (if_neg (by omega))), ?_⟩
    have hstack : stackAt (stackSampled i (hotOf l) s) i = sampled (hotOf l) (stackAt s i) := by
      rw [stackAt_stackSampled, stackAt_modStack_same]
    refine ⟨?_, ?_, ?_, ?_, fun k hk => ?_, fun h95 hnew => events_stackSampled hi (by omega) hnew⟩
    · rw [hstack]
      simp only [sampled, hhot]
      omega
    · rw [hstack]
      exact hdie
    · rw [hstack]
      simp only [sampled, hhot]
    · rw [hstack]
      simp only [sampled, hhot]
    · rw [stackAt_stackSampled, stackAt_modStack_ne _ _ hk]
  · intro i m l s hi hl hm hmax htrip
    obtain ⟨hhot, -⟩ := hotOf_spec hm hmax
    refine ⟨_, (exec_stackTempSample hi hl).trans (congrArg _ (if_pos (by omega))), _, ?_, rfl⟩
    rw [stackAt_stackSampled, stackAt_modStack_same]
    simp only [sampled, hhot, decide_eq_true (show 95 ≤ m by omega), Bool.or_true]
  · intro i s hi hhot hcool
    change execStackThermExit i s = _
    rw [execStackThermExit, atUnit_of_lt hi, onlyIf_of_true (by simp [hhot, hcool])]
  · intro d m s hd hcool
    refine ⟨_, (exec_dtTempSample hd).trans (congrArg _ (if_neg (by omega))), ?_⟩
    have hdeep : deepAt (deepSampled d m s) d = deepSample m (deepAt s d) := by
      rw [deepAt_deepSampled, deepAt_modDeep_same]
    refine ⟨?_, ?_, fun k hk => ?_, fun h95 hnew => events_deepSampled hd h95 hnew⟩
    · rw [hdeep]
      simp only [deepSample]
      omega
    · rw [hdeep]
      rfl
    · rw [deepAt_deepSampled, deepAt_modDeep_ne _ _ hk]
  · intro d m s hd htrip
    refine ⟨_, (exec_dtTempSample hd).trans (congrArg _ (if_pos htrip)), _, ?_, rfl⟩
    rw [deepAt_deepSampled, deepAt_modDeep_same]
    simp only [deepSample, decide_eq_true (show 95 < m by omega), Bool.or_true]
  · intro d s hd hhot hcool
    change execDtThermExit d s = _
    rw [execDtThermExit, atUnit_of_lt hd, onlyIf_of_true (by simp [hhot, hcool])]

end Sys2Proof.Heat
end


section
/-! PROOF. Accumulation into sheaves (R192 to R194) and the update units (R196 to R200, R275). -/

open Sys2Proof Sys2Proof.Machine Sys2Proof.Claim Sys2Proof.Channels

namespace Sys2Proof.Updates

/-! ### Contributions -/

/-- What ACCUM_ARRIVE does with a part that has a place in its sheaf. -/
def placeAccum (i t rid tile : Nat) (q : MemReq) (p : Part) (f : Sheaf) (s : State) : State :=
  if (chanAt s q.ch).det then
    if (q.mb - f.firstMb) * f.ns + q.source < cursorOf f tile i ∨
        (stackAt s i).holdBuf.any (fun x => x.ch == q.ch && x.sheaf == f.num && x.tile == tile && x.mb == q.mb && x.source == q.source) then
      extraAccum i t rid s
    else if (q.mb - f.firstMb) * f.ns + q.source = cursorOf f tile i then
      let r := applyAccum q.ch i f tile q.mb q.source (cursorOf f tile i == 0) p.runs (accumElems q) s
      drainHeld q.ch i f.num tile 512 (modSheaf q.ch f.num (bumpCursor tile i)
        (answerPart t rid i (fun p => { p with poison := r.2.1, cause := if r.2.1 then 8 else 0 }) r.1))
    else if (stackAt s i).holdBuf.length < 512 then
      answerPart t rid i (fun p => p) (modStack s i (fun x => { x with holdBuf := x.holdBuf ++ [{
        sheaf := f.num, tile := tile, ch := q.ch, mb := q.mb, source := q.source, tiller := t, rid := rid, runs := p.runs,
        src := accumElems q }] }))
    else modReq t rid (fun q => { q with parts := q.parts.map (fun p => if p.home = i then { p with st := 3 } else p) })
      (cntInc (.yst i) Reg.YST_CNT_ACC_RETURN (poolDrop i t rid s))
  else if f.applied.contains (tile * 16 + i, q.mb, q.source) then extraAccum i t rid s
  else
    let r := applyAccum q.ch i f tile q.mb q.source (cursorOf f tile i == 0) p.runs (accumElems q) s
    modSheaf q.ch f.num (fun f => { bumpCursor tile i f with applied := f.applied ++ [(tile * 16 + i, q.mb, q.source)] })
      (answerPart t rid i (fun p => { p with poison := r.2.1, cause := if r.2.1 then 8 else 0 }) r.1)

theorem exec_accumArrive {i t rid : Nat} {q : MemReq} {p : Part} {s : State} (hi : i < 16)
    (hq : (tillerAt s t).reqs.find? (fun q => q.rid == rid && q.kind == 3) = some q) (hp : partAt q i = some p) (hst : p.st = 1)
    (hserve : mayServe s i t rid = true) :
    exec (.accumArrive i t rid) s = .next (match sheafOf s q.ch q.sheaf with
      | none => extraAccum i t rid s
      | some f =>
        let off := dOffset (q.d0, q.d1, q.d2, q.d3)
        let tile := (off - f.accOffset) / sheafBytes f
        if q.obj ≠ f.accObj ∨ off < f.accOffset ∨ off % sheafBytes f ≠ 0 ∨ f.tiles ≤ tile ∨
            (groupTile ((chanAt s q.ch).trn.sets.getD f.set {}).tensors 0 (f.firstTile + tile)).isNone ∨ q.mb < f.firstMb ∨
            f.firstMb + f.mbCount ≤ q.mb ∨ f.ns ≤ q.source then
          extraAccum i t rid s
        else placeAccum i t rid tile q p f s) := by
  have hturn : ¬ ((decide (p.st ≠ 1) || !mayServe s i t rid) = true) := by simp [hst, hserve]
  change execAccumArrive i t rid s = _
  rw [execAccumArrive, atUnit_of_lt hi]
  simp only [hq, hp]
  exact congrArg _ (if_neg hturn)

/-- A part has a place in the sheaf that it names. -/
def HasPlace (q : MemReq) (f : Sheaf) (tile : Nat) (s : State) : Prop :=
  q.obj = f.accObj ∧ f.accOffset ≤ dOffset (q.d0, q.d1, q.d2, q.d3) ∧ dOffset (q.d0, q.d1, q.d2, q.d3) % sheafBytes f = 0 ∧
  tile < f.tiles ∧ (groupTile (setAt s q.ch f.set).tensors 0 (f.firstTile + tile)).isSome = true ∧ f.firstMb ≤ q.mb ∧
  q.mb < f.firstMb + f.mbCount ∧ q.source < f.ns

theorem exec_accumArrive_of_place {i t rid : Nat} {q : MemReq} {p : Part} {f : Sheaf} {s : State} (hi : i < 16)
    (hq : (tillerAt s t).reqs.find? (fun q => q.rid == rid && q.kind == 3) = some q) (hp : partAt q i = some p) (hst : p.st = 1)
    (hserve : mayServe s i t rid = true) (hf : sheafOf s q.ch q.sheaf = some f)
    (hplace : HasPlace q f ((dOffset (q.d0, q.d1, q.d2, q.d3) - f.accOffset) / sheafBytes f) s) :
    exec (.accumArrive i t rid) s =
      .next (placeAccum i t rid ((dOffset (q.d0, q.d1, q.d2, q.d3) - f.accOffset) / sheafBytes f) q p f s) := by
  obtain ⟨hobj, hoff, halign, htile, hgroup, hmb, hmbs, hsource⟩ := hplace
  rw [setAt] at hgroup
  rw [exec_accumArrive hi hq hp hst hserve, hf]
  refine congrArg _ (if_neg ?_)
  simp only [hobj, halign, Option.isNone_eq_false_iff.2 hgroup, ne_eq, not_true_eq_false, false_or, Bool.false_eq_true, not_or,
    Nat.not_lt, Nat.not_le]
  exact ⟨hoff, htile, hmb, hmbs, hsource⟩

theorem placeAccum_of_turn {i t rid tile : Nat} {q : MemReq} {p : Part} {f : Sheaf} {s : State} (hdet : (chanAt s q.ch).det = true)
    (hturn : (q.mb - f.firstMb) * f.ns + q.source = cursorOf f tile i)
    (hnew : (stackAt s i).holdBuf.any (fun x => x.ch == q.ch && x.sheaf == f.num && x.tile == tile && x.mb == q.mb &&
      x.source == q.source) = false) :
    ∃ r, r = applyAccum q.ch i f tile q.mb q.source (cursorOf f tile i == 0) p.runs (accumElems q) s ∧
      placeAccum i t rid tile q p f s = drainHeld q.ch i f.num tile 512 (modSheaf q.ch f.num (bumpCursor tile i)
        (answerPart t rid i (fun p => { p with poison := r.2.1, cause := if r.2.1 then 8 else 0 }) r.1)) :=
  ⟨_, rfl, (if_pos hdet).trans ((if_neg (by simp only [hnew, Bool.false_eq_true, or_false]; omega)).trans (if_pos hturn))⟩

theorem placeAccum_of_early {i t rid tile : Nat} {q : MemReq} {p : Part} {f : Sheaf} {s : State} (hdet : (chanAt s q.ch).det = true)
    (hearly : cursorOf f tile i < (q.mb - f.firstMb) * f.ns + q.source)
    (hnew : (stackAt s i).holdBuf.any (fun x => x.ch == q.ch && x.sheaf == f.num && x.tile == tile && x.mb == q.mb &&
      x.source == q.source) = false)
    (hroom : (stackAt s i).holdBuf.length < 512) :
    placeAccum i t rid tile q p f s =
      answerPart t rid i (fun p => p) (modStack s i (fun x => { x with holdBuf := x.holdBuf ++ [{
        sheaf := f.num, tile := tile, ch := q.ch, mb := q.mb, source := q.source, tiller := t, rid := rid, runs := p.runs,
        src := accumElems q }] })) :=
  (if_pos hdet).trans ((if_neg (by simp only [hnew, Bool.false_eq_true, or_false]; omega)).trans ((if_neg (by omega)).trans (if_pos hroom)))

theorem placeAccum_of_unordered {i t rid tile : Nat} {q : MemReq} {p : Part} {f : Sheaf} {s : State}
    (hdet : (chanAt s q.ch).det = false) (hnew : f.applied.contains (tile * 16 + i, q.mb, q.source) = false) :
    ∃ r, r = applyAccum q.ch i f tile q.mb q.source (cursorOf f tile i == 0) p.runs (accumElems q) s ∧
      placeAccum i t rid tile q p f s =
        modSheaf q.ch f.num (fun f => { bumpCursor tile i f with applied := f.applied ++ [(tile * 16 + i, q.mb, q.source)] })
          (answerPart t rid i (fun p => { p with poison := r.2.1, cause := if r.2.1 then 8 else 0 }) r.1) :=
  ⟨_, rfl, (if_neg (by simp [hdet])).trans (if_neg (by rw [hnew]; decide))⟩

theorem exec_accumReoffer {i t rid : Nat} {q : MemReq} {p : Part} {s : State} (hi : i < 16) (hq : q ∈ (tillerAt s t).reqs)
    (hrid : q.rid = rid) (hland : q.landed = true) (hp : p ∈ q.parts) (hhome : p.home = i) (hst : p.st = 3) :
    exec (.accumReoffer i t rid) s = .next (requeue t rid (fun q => { q with
      parts := q.parts.map (fun p => if p.st = 3 then { p with st := 0 } else p) }) s) := by
  have hany : (tillerAt s t).reqs.any (fun q => q.rid == rid && q.landed && q.parts.any (fun p => p.home == i && p.st == 3)) = true :=
    List.any_eq_true.2 ⟨q, hq, by
      simp only [hrid, hland, beq_self_eq_true, Bool.true_and]
      exact List.any_eq_true.2 ⟨p, hp, by simp [hhome, hst]⟩⟩
  change execAccumReoffer i t rid s = _
  rw [execAccumReoffer, atUnit_of_lt hi, onlyIf_of_true hany]

/-! ### The update unit -/

theorem exec_updateItemStart {i : Nat} {q : QueuedItem} {l : List QueuedItem} {s : State} (hi : i < 16)
    (hidle : (stackAt s i).run = none) (hqueue : (stackAt s i).updQueue = q :: l) (hruns : updRuns s i (itemRead q) = true) :
    exec (.updateItemStart i) s = .next (if itemOk (modStack s i takeItem) (itemRead q) (itemRsvOk q.bytes) = true then
        enterGranule i 257 (modStack (modStack s i takeItem) i (fun x => { x with run := some { item := itemRead q } }))
      else updReject i (itemRead q) (modStack s i takeItem)) := by
  change execUpdateItemStart i s = _
  rw [execUpdateItemStart, atUnit_of_lt hi]
  simp only [hidle, hqueue]
  refine congrArg _ ((if_neg (by simp [hruns])).trans ?_)
  by_cases hok : itemOk (modStack s i takeItem) (itemRead q) (itemRsvOk q.bytes) = true
  · rw [if_pos hok]
    exact if_neg (by simp [hok])
  · rw [if_neg hok]
    exact if_pos (by simpa using hok)

theorem exec_updatePhaseDone {i : Nat} {r : UpdRun} {s : State} (hi : i < 16) (hrun : (stackAt s i).run = some r)
    (hruns : updRuns s i r.item = true) : exec (.updatePhaseDone i) s = .next (updPhase i r s) := by
  change execUpdatePhaseDone i s = _
  rw [execUpdatePhaseDone, atUnit_of_lt hi, hrun]
  exact congrArg _ (if_pos hruns)

theorem exec_scaleReport {c set_ tensor st n : Nat} {r : UpdRun} {m a : F32} {s u v : State} {l : List (Nat × Nat × Nat × F32)}
    (hc : c < 4096) (hdue : (List.range 16).find? (fun st => (stackAt s st).run.any (fun r => r.item.ch == c && r.item.set == set_ &&
      r.item.idx == tensor && r.phase == 3 && !r.reported && updRuns s st r.item)) = some st)
    (hrun : (stackAt s st).run = some r) (hamax : itemAmax st r.item s = (u, true, a))
    (hv : v = modRun st (fun r => { r with reported := true }) u)
    (hl : l = (chanAt v c).trn.scaleReports.filter (fun e => !(e.1 == set_ && e.2.1 == tensor)))
    (hold : ((chanAt v c).trn.scaleReports.find? (fun e => e.1 == set_ && e.2.1 == tensor)).getD (set_, tensor, 0, 0) =
      (set_, tensor, n, m)) :
    exec (.scaleReport c set_ tensor) s = .next (if n + 1 = 16 then
        returnScale c set_ tensor (fMax m a) (modTrn v c (fun t => { t with scaleReports := l }))
      else modTrn v c (fun t => { t with scaleReports := l ++ [(set_, tensor, n + 1, fMax m a)] })) := by
  subst hv hl
  change execScaleReport c set_ tensor s = _
  rw [execScaleReport, atUnit_of_lt hc]
  simp only [hdue, hrun, hamax, Bool.not_true, Bool.false_eq_true, if_false]
  cases hfind : (chanAt (modRun st (fun r => { r with reported := true }) u) c).trn.scaleReports.find?
      (fun e => e.1 == set_ && e.2.1 == tensor) with
  | none =>
    rw [hfind] at hold
    obtain ⟨-, -, rfl, rfl⟩ : set_ = set_ ∧ tensor = tensor ∧ 0 = n ∧ 0 = m := by simpa using hold
    rfl
  | some e =>
    rw [hfind] at hold
    obtain rfl : e = (set_, tensor, n, m) := hold
    rfl

theorem exec_workNarrowStart {i : Nat} {r : UpdRun} {s : State} (hi : i < 16) (hrun : (stackAt s i).run = some r) (hphase : r.phase = 3)
    (hscale : r.scale.isSome = true) (hruns : updRuns s i r.item = true) :
    exec (.workNarrowStart i) s = .next (modRun i (fun r => { r with phase := 4, granule := 0 }) s) := by
  change execWorkNarrowStart i s = _
  rw [execWorkNarrowStart, atUnit_of_lt hi, onlyIf_of_true (by simp [hrun, hphase, hscale, hruns])]

/-- Settles O38: by the equation of each event. -/
theorem updatesAndSheavesProceed : Obligations.UpdatesAndSheavesProceed := by
  unfold Obligations.UpdatesAndSheavesProceed
  refine ⟨?_, ?_, ?_, ?_, ?_, ?_, ?_⟩
  · rintro i t rid tb tile off s q p f hi hq hp hst hserve hf rfl rfl rfl hobj hoff halign htile hgroup hmb hmbs hsource
    have hexec := exec_accumArrive_of_place hi hq hp hst hserve hf ⟨hobj, hoff, halign, htile, hgroup, hmb, hmbs, hsource⟩
    refine ⟨fun hdet hturn hnew => ?_, fun hdet hearly hnew hroom => ?_, fun hdet hnew => ?_⟩
    · exact ⟨_, hexec, placeAccum_of_turn hdet hturn hnew⟩
    · exact hexec.trans (congrArg _ (placeAccum_of_early hdet hearly hnew hroom))
    · exact ⟨_, hexec, placeAccum_of_unordered hdet hnew⟩
  · intro i t rid s q p hi hq hp hst hserve hf
    rw [exec_accumArrive hi hq hp hst hserve, hf]
    rfl
  · exact fun i t rid q p s hi hq hrid hland hp hhome hst => exec_accumReoffer hi hq hrid hland hp hhome hst
  · rintro i q l s u hi hidle hqueue hruns rfl
    exact exec_updateItemStart hi hidle hqueue hruns
  · exact fun i r s hi hrun hruns => exec_updatePhaseDone hi hrun hruns
  · exact fun c set_ tensor st n r m a s u v l hc hdue hrun hamax hv hl hold => exec_scaleReport hc hdue hrun hamax hv hl hold
  · exact fun i r s hi hrun hphase hscale hruns => exec_workNarrowStart hi hrun hphase hscale hruns

end Sys2Proof.Updates
end


section
/-! PROOF. The training of the link ports (R322 to R326, R329, R527): what messages on their way leave of a port, and each event of its
training. -/

open Sys2Proof Sys2Proof.Machine Sys2Proof.Claim Sys2Proof.Channels Sys2Proof.Accesses

namespace Sys2Proof.Ports

/-! ### A port changed -/

/-- A port that is not DOWN is one that the module has. -/
theorem port_lt_of_st {s : State} {p : Nat} (h : (portAt s p).st ≠ 0) : p < s.links.ports.length := by
  by_contra hge
  apply h
  rw [portAt, List.getD_eq_default _ _ (Nat.not_lt.1 hge)]

theorem modPort_congr {s : State} {p : Nat} {f g : Port → Port} (h : f (portAt s p) = g (portAt s p)) : modPort s p f = modPort s p g := by
  rw [modPort, modPort, h]

theorem modPort_modPort {s : State} {p : Nat} (f g : Port → Port) (hp : p < s.links.ports.length) :
    modPort (modPort s p f) p g = modPort s p (fun x => g (f x)) := by
  have h := portAt_modPort_same s f hp
  rw [modPort, h]
  simp [modPort, setPort, modLinks, List.set_set]

/-! ### What messages leave of the ports -/

/-- A port without what messages on their way change: its queues, and the credits that it owes. -/
def bare (x : Port) : Port := { x with owedCr := [], txq := [], huskWait := [] }

/-- The ports of v are those of s, but for what messages on their way change. -/
def SamePorts (s v : State) : Prop := v.links.ports.map bare = s.links.ports.map bare

theorem SamePorts.trans {s v x : State} (h : SamePorts s v) (h' : SamePorts v x) : SamePorts s x := Eq.trans h' h

theorem samePorts_of_ports {s v : State} (h : v.links.ports = s.links.ports) : SamePorts s v := congrArg _ h

theorem bare_portAt {s v : State} (h : SamePorts s v) (p : Nat) : bare (portAt v p) = bare (portAt s p) := by
  have hget : ∀ l : List Port, bare (l.getD p {}) = (l.map bare).getD p (bare {}) := fun l => (List.getD_map ..).symm
  unfold portAt
  rw [hget, hget, h]

theorem length_ports {s v : State} (h : SamePorts s v) : v.links.ports.length = s.links.ports.length := by
  simpa using congrArg List.length h

theorem SamePorts.modPort {s v : State} (h : SamePorts s v) {p : Nat} {f : Port → Port} (hf : ∀ x, bare (f x) = bare x) :
    SamePorts s (modPort v p f) := by
  refine SamePorts.trans h ?_
  change (v.links.ports.set p (f (v.links.ports.getD p {}))).map bare = _
  rw [List.map_set, hf]
  refine List.ext_getElem? fun i => ?_
  rw [List.getElem?_set]
  split
  · next hi =>
    subst hi
    by_cases hp : p < v.links.ports.length
    · simp [hp]
    · simp [hp]
  · rfl

theorem SamePorts.keeps {T : Touch} {s v x : State} (h : SamePorts s v) (hk : Keeps T v x) (hT : T.links = false) : SamePorts s x :=
  h.trans (samePorts_of_ports (by rw [hk.frame.links hT]))

theorem SamePorts.foldl {α : Type} {f : State → α → State} {l : List α} {s v : State}
    (hf : ∀ u x, SamePorts s u → SamePorts s (f u x)) (h : SamePorts s v) : SamePorts s (l.foldl f v) := by
  induction l generalizing v with
  | nil => exact h
  | cons x l ih => exact ih (hf v x h)

theorem SamePorts.setEv {s v : State} (h : SamePorts s v) (b : Blk) (ev n : Nat) : SamePorts s (setEv b ev n v) :=
  h.keeps (keeps_setEv b ev n v) rfl

theorem SamePorts.cntAdd {s v : State} (h : SamePorts s v) (b : Blk) (off n : Nat) : SamePorts s (cntAdd b off n v) :=
  h.keeps (keeps_cntAdd b off n v) rfl

theorem SamePorts.cntInc {s v : State} (h : SamePorts s v) (b : Blk) (off : Nat) : SamePorts s (cntInc b off v) := h.cntAdd b off 1

theorem SamePorts.logRec {s v : State} (h : SamePorts s v) (r : LogRec) : SamePorts s (logRec r v) := h

theorem SamePorts.leavePlace {s v : State} (h : SamePorts s v) (q : Option RxPlace) : SamePorts s (leavePlace q v) := by
  unfold Machine.leavePlace
  split
  · exact h
  · exact h.modPort fun _ => rfl

theorem SamePorts.routeOne {s v : State} (h : SamePorts s v) (inPort : Option Nat) (cls : Nat) (pl : Option RxPlace) (m : Msg) :
    SamePorts s (routeOne inPort cls pl m v) := by
  unfold Machine.routeOne
  split
  · exact h
  · exact h.modPort fun _ => rfl
  · exact SamePorts.leavePlace ((h.setEv ..).cntInc ..) pl

theorem SamePorts.routeMsg {s v : State} (h : SamePorts s v) (inPort : Option Nat) (cls : Nat) (pl : Option RxPlace) (m : Msg) :
    SamePorts s (routeMsg inPort cls pl m v) := by
  unfold Machine.routeMsg
  dsimp only
  split
  · exact (h.routeOne ..).routeOne ..
  · exact h.routeOne ..

theorem SamePorts.deliver {s v : State} (h : SamePorts s v) (p cls : Nat) (pl : Option RxPlace) (m : Msg) :
    SamePorts s (deliver p cls pl m v) := by
  unfold Machine.deliver
  split
  · exact h.leavePlace _
  · exact h.routeMsg ..

theorem SamePorts.releaseWaits {s v : State} (h : SamePorts s v) (p : Nat) : SamePorts s (releaseWaits p v) := by
  unfold Machine.releaseWaits
  exact SamePorts.foldl (fun _ _ hu => hu.deliver ..) (h.modPort fun _ => rfl)

theorem SamePorts.huskLog {s v : State} (h : SamePorts s v) (edge cause tag : Nat) (ch : Option Nat) (b : Bool) :
    SamePorts s (huskLog edge cause tag ch b v) :=
  h.keeps (T := { regs := true, chans := true, cxl := true, boot := true, rcv := true })
    (huskLog_keeps edge cause tag ch b v (Keeps.refl _ _) ⟨rfl, rfl, rfl, rfl, rfl⟩) rfl

theorem SamePorts.blocksOver {s v : State} (h : SamePorts s v) (p : Nat) (w : WaitMsg) (bs : List (Nat × Nat)) (b : Bool) :
    SamePorts s (blocksOver p w bs b v) := by
  unfold Machine.blocksOver
  exact SamePorts.foldl (fun _ _ hu => hu.huskLog ..) h

theorem SamePorts.failWaits {s v : State} (h : SamePorts s v) (p : Nat) : SamePorts s (failWaits p v) := by
  unfold Machine.failWaits
  refine SamePorts.releaseWaits (SamePorts.modPort ?_ ?_) p
  · exact SamePorts.foldl (fun _ _ hu => hu.blocksOver ..) h
  · exact fun _ => rfl

theorem SamePorts.loseQuads {s v : State} (h : SamePorts s v) (l : List TxMsg) (fs : List Retry) : SamePorts s (loseQuads l fs v) := by
  unfold Machine.loseQuads
  exact SamePorts.foldl (fun _ _ hu => hu) h

theorem SamePorts.rerouteAll {s v : State} (h : SamePorts s v) (p : Nat) : SamePorts s (rerouteAll p v) := by
  unfold Machine.rerouteAll
  refine SamePorts.foldl (fun _ _ hu => hu.routeMsg ..) (SamePorts.foldl (fun _ _ hu => hu.leavePlace _)
    (SamePorts.loseQuads (SamePorts.modPort h ?_) _ _))
  exact fun _ => rfl

theorem samePorts_cutLink (p : Nat) (s : State) : SamePorts s (cutLink p s) := by
  have hcut : SamePorts s (((portAt s p).txq.filter (fun t => t.sent != 0)).foldl (fun s t => leavePlace t.place s)
      (loseQuads ((portAt s p).txq.filter (fun t => t.sent != 0)) (portAt s p).retry s)) :=
    SamePorts.foldl (fun _ _ hu => hu.leavePlace _) (SamePorts.loseQuads rfl _ _)
  refine hcut.trans ?_
  unfold cutLink SamePorts
  exact (List.map_map ..).trans rfl

/-! ### A port whose link is cut -/

theorem samePorts_refl (s : State) : SamePorts s s := rfl

/-- The fields of a port that messages on their way leave, of those the training sets. -/
theorem fields_of_bare {x y : Port} (h : bare x = bare y) :
    x.st = y.st ∧ x.lanes = y.lanes ∧ x.degraded = y.degraded ∧ x.txSeq = y.txSeq ∧ x.rxSeq = y.rxSeq :=
  ⟨(congrArg Port.st h :), (congrArg Port.lanes h :), (congrArg Port.degraded h :), (congrArg Port.txSeq h :), (congrArg Port.rxSeq h :)⟩

/-- A port that the module has still has, after its link is cut and it is changed, the fields that it had before, changed. -/
theorem portAt_cut {s : State} {p : Nat} (f : Port → Port) (hp : p < s.links.ports.length) :
    ∃ y, portAt (modPort (cutLink p s) p f) p = f y ∧ bare y = bare (portAt s p) :=
  ⟨_, portAt_modPort_same _ f (by rw [length_ports (samePorts_cutLink p s)]; exact hp), bare_portAt (samePorts_cutLink p s) p⟩

/-- What is done once a port's flits are gone leaves the port as it is. -/
theorem samePorts_afterCut (p : Nat) (r : LogRec) (ev : Nat) (s : State) :
    SamePorts s (rerouteAll p (failWaits p (logRec r (setEv (.ablPort p) Reg.ABL_PORT_EVENT ev s)))) :=
  (((samePorts_refl s).setEv (.ablPort p) Reg.ABL_PORT_EVENT ev).logRec r).failWaits p |>.rerouteAll p

theorem portAt_portDown {s : State} {p : Nat} (hp : p < s.links.ports.length) :
    (portAt (portDown p s) p).st = 0 ∧ (portAt (portDown p s) p).lanes = 0 := by
  obtain ⟨y, hport, -⟩ := portAt_cut (fun x => { freshFlits x with st := 0, train := 0, retraining := false, lanes := 0 }) hp
  obtain ⟨hst, hlanes, -⟩ := fields_of_bare (bare_portAt (samePorts_afterCut p { source := 5, cause := 1, severity := 2, detail := put p 34 32 }
    Bit.ABL_PORT_EVENT_PORT_DOWN (modPort (cutLink p s) p
      (fun x => { freshFlits x with st := 0, train := 0, retraining := false, lanes := 0 }))) p)
  rw [hport] at hst hlanes
  exact ⟨hst, hlanes⟩

/-! ### The peer's record accepted -/

theorem acceptPeer_of_unassigned {u : State} {p : Nat} (hp : p < u.links.ports.length) (h : u.links.assigned = false) :
    (portAt (acceptPeer p u) p).st = 5 := by
  rw [acceptPeer, if_pos (by simp [h]), portAt_modPort_same _ _ hp]

/-- The peer's record names the neighbour that the torus gives the port. -/
def NamesNeighbour (u : State) (p : Nat) : Prop :=
  (portAt u p).rxRec.port = (if p % 2 = 0 then p + 1 else p - 1) ∧ (portAt u p).rxRec.deviceId = neighbour u p ∧
    (portAt u p).rxRec.dims = u.links.dims

theorem portAt_degrade {u : State} {p : Nat} (hp : p < u.links.ports.length) :
    bare (portAt (degrade p u) p) = bare { portAt u p with degraded := true } := by
  have h := bare_portAt ((samePorts_refl (modPort u p fun x => { x with degraded := true })).setEv (.ablPort p) Reg.ABL_PORT_EVENT
    Bit.ABL_PORT_EVENT_DEGRADED) p
  rwa [portAt_modPort_same _ _ hp] at h

theorem acceptPeer_of_neighbour {u : State} {p : Nat} (hp : p < u.links.ports.length) (h : u.links.assigned = true)
    (hname : NamesNeighbour u p) (hre : (portAt u p).retraining = false) :
    (portAt (acceptPeer p u) p).st = (if (portAt u p).lanes = 0xFF then 2 else 3) ∧
    (portAt (acceptPeer p u) p).degraded = ((portAt u p).degraded || decide ((portAt u p).lanes ≠ 0xFF)) ∧
    (portAt (acceptPeer p u) p).txSeq = 0 ∧ (portAt (acceptPeer p u) p).rxSeq = 0 := by
  obtain ⟨y, hport, hy⟩ := portAt_cut (fun x => { freshFlits x with st := if x.lanes = 0xFF then 2 else 3, train := 0 }) hp
  obtain ⟨-, hlanes, hdeg, -⟩ := fields_of_bare hy
  have hlen := length_ports (samePorts_cutLink p u)
  rw [acceptPeer, if_neg (by simp [h]), if_pos (by exact hname), if_neg (by simp [hre])]
  by_cases hl : (portAt u p).lanes = 0xFF
  · rw [if_pos hl, hport, if_pos hl]
    exact ⟨if_pos (hlanes.trans hl), hdeg.trans (by simp [hl]), rfl, rfl⟩
  · rw [if_neg hl, if_neg hl]
    obtain ⟨hst, -, hd, htx, hrx⟩ := fields_of_bare (portAt_degrade (u := modPort (cutLink p u) p
      (fun x => { freshFlits x with st := if x.lanes = 0xFF then 2 else 3, train := 0 })) (p := p) (by simpa [modPort, setPort, modLinks, hlen] using hp))
    rw [hport] at hst hd htx hrx
    exact ⟨hst.trans (if_neg (hlanes.trans_ne hl)), hd.trans (by simp [hl]), htx, hrx⟩

theorem acceptPeer_of_stranger {u : State} {p : Nat} (hp : p < u.links.ports.length) (h : u.links.assigned = true)
    (hname : ¬ NamesNeighbour u p) : (portAt (acceptPeer p u) p).st = 4 := by
  obtain ⟨y, hport, -⟩ := portAt_cut (fun x => { freshFlits x with st := 4, train := 0 }) hp
  rw [acceptPeer, if_neg (by simp [h]), if_neg (by exact hname)]
  obtain ⟨hst, -⟩ := fields_of_bare (bare_portAt (samePorts_afterCut p { source := 5, cause := 3, severity := 0, detail := put p 34 32 }
    Bit.ABL_PORT_EVENT_MISWIRED (modPort (modPort (cutLink p u) p (fun x => { freshFlits x with st := 4, train := 0 })) p
      (fun x => { x with retraining := false }))) p)
  rw [portAt_modPort_same _ _ (by simpa [modPort, setPort, modLinks, length_ports (samePorts_cutLink p u)] using hp), hport] at hst
  exact hst

/-! ### What each event of the training does -/

theorem exec_cablePresent {p : Nat} {s : State} (hp : p < 6) (hc : (portAt s p).cable = false) (hd : portDisabled s p = false) :
    exec (.cablePresent p) s = .next (modPort s p (fun x => { startTraining x with cable := true })) := by
  change execCablePresent p s = _
  rw [execCablePresent, atUnit_of_lt hp]
  refine (onlyIf_of_true (by simp [hc]) _ _).trans (congrArg _ (modPort_congr ?_))
  simp [hd]

theorem exec_trainingRestart {p : Nat} {s : State} (hp : p < 6) (hc : (portAt s p).cable = true)
    (hst : (portAt s p).st = 0 ∨ (portAt s p).st = 4) (hd : portDisabled s p = false) :
    exec (.trainingRestart p) s = .next (modPort s p startTraining) := by
  change execTrainingRestart p s = _
  rw [execTrainingRestart, atUnit_of_lt hp]
  exact onlyIf_of_true (by simp [hc, hd, hst]) _ _

theorem exec_laneLock_of_signal {p : Nat} {s : State} (hp : p < 6) (hst : (portAt s p).st = 1) (ht : (portAt s p).train = 1)
    (hl : lanesOf (portAt s p).good ≠ 0) :
    exec (.laneLock p) s = .next (modPort s p (fun x => { x with train := 2, lanes := lanesOf (portAt s p).good })) := by
  change execLaneLock p s = _
  rw [execLaneLock, atUnit_of_lt hp]
  refine (onlyIf_of_true (by simp [hst, ht]) _ _).trans (congrArg _ ((if_neg (by simp [hl])).trans (modPort_congr (if_pos ht))))

theorem exec_laneLock_of_no_lanes {p : Nat} {s : State} (hp : p < 6) (hst : (portAt s p).st = 1) (ht : (portAt s p).train = 1)
    (hl : lanesOf (portAt s p).good = 0) : exec (.laneLock p) s = .next (portDown p s) := by
  change execLaneLock p s = _
  rw [execLaneLock, atUnit_of_lt hp]
  exact (onlyIf_of_true (by simp [hst, ht]) _ _).trans (congrArg _ (if_pos ⟨ht, hl⟩))

theorem exec_laneLock_of_align {p : Nat} {s : State} (hp : p < 6) (hst : (portAt s p).st = 1) (ht : (portAt s p).train = 2) :
    exec (.laneLock p) s = .next (modPort s p (fun x => { x with train := 3, rxCopies := 0, recsSent := 0 })) := by
  change execLaneLock p s = _
  rw [execLaneLock, atUnit_of_lt hp]
  exact (onlyIf_of_true (by simp [hst, ht]) _ _).trans
    (congrArg _ ((if_neg (by simp [ht])).trans (modPort_congr (if_neg (by simp [ht])))))

theorem exec_trainingRecordSend {p : Nat} {s : State} (hp : p < 6) (hst : (portAt s p).st = 1) (ht : (portAt s p).train = 3) :
    exec (.trainingRecordSend p) s = .next (modPort s p (fun x => { x with
      recsSent := x.recsSent + 1, outRec := trainImage (trainRecOf s p) })) := by
  change execTrainingRecordSend p s = _
  rw [execTrainingRecordSend, atUnit_of_lt hp]
  exact onlyIf_of_true (by simp [hst, ht]) _ _

/-- The record that fills the count of three: the peer that it names is noted, and taken. -/
theorem exec_trainingRecordRx_of_third {p : Nat} {bs : List Byte} {r : TrainRec} {s : State} (hp : p < 6) (hst : (portAt s p).st = 1)
    (ht : (portAt s p).train = 3) (hr : trainOf bs = some r) (hf : r.format = 1) (hsame : (portAt s p).rxRec = r)
    (htwo : (portAt s p).rxCopies = 2) :
    exec (.trainingRecordRx p bs) s = .next (acceptPeer p (modPort s p (fun x => { x with
      rxCopies := 3, peerId := r.deviceId, peerValid := true, huskPeer := r.huskRx }))) := by
  have hgood : (trainOf bs).filter (fun r => r.format == 1) = some r := by simp [hr, hf]
  have hlen : p < s.links.ports.length := port_lt_of_st (by simp [hst])
  change execTrainingRecordRx p bs s = _
  rw [execTrainingRecordRx, atUnit_of_lt hp]
  refine (onlyIf_of_true (by simp [hst, ht]) _ _).trans (congrArg _ ?_)
  rw [hgood]
  refine (if_pos (by rw [if_pos hsame, htwo])).trans (congrArg (acceptPeer p) ?_)
  refine (modPort_modPort _ _ hlen).trans (modPort_congr ?_)
  simp [hsame, htwo]

theorem exec_trainingRecordRx_of_bad {p : Nat} {bs : List Byte} {s : State} (hp : p < 6) (hst : (portAt s p).st = 1)
    (ht : (portAt s p).train = 3) (hr : trainOf bs = none) :
    exec (.trainingRecordRx p bs) s = .next (modPort s p (fun x => { x with rxCopies := 0 })) := by
  have hbad : (trainOf bs).filter (fun r => r.format == 1) = none := by simp [hr]
  change execTrainingRecordRx p bs s = _
  rw [execTrainingRecordRx, atUnit_of_lt hp]
  refine (onlyIf_of_true (by simp [hst, ht]) _ _).trans (congrArg _ ?_)
  rw [hbad]

theorem exec_trainingStepTimeout {p : Nat} {s : State} (hp : p < 6) (hst : (portAt s p).st = 1) :
    exec (.trainingStepTimeout p) s = .next (portDown p s) := by
  change execTrainingStepTimeout p s = _
  rw [execTrainingStepTimeout, atUnit_of_lt hp]
  exact onlyIf_of_true (by simp [hst]) _ _

/-- A lane in use that fails while the port is ACTIVE: four good lanes keep the port, after a retrain. -/
theorem exec_laneFail_of_active {p lane good : Nat} {s u : State} (hp : p < 6) (hl : lane < 8)
    (hst : (portAt s p).st = 2 ∨ (portAt s p).st = 3) (hgood : (portAt s p).good.testBit lane = true)
    (huse : (portAt s p).lanes.testBit lane = true) (hg : good = (portAt s p).good - 2 ^ lane)
    (hu : u = setEv (.ablPort p) Reg.ABL_PORT_EVENT Bit.ABL_PORT_EVENT_LANE_FAIL (modPort s p (fun x => { x with good := good }))) :
    exec (.laneFail p lane) s = .next (if lanesOf good = 0 then portDown p u else retrain p (lanesOf good) (degrade p u)) := by
  have hne : (portAt s p).st ≠ 0 ∧ (portAt s p).st ≠ 1 ∧ (portAt s p).st ≠ 4 ∧ (portAt s p).st ≠ 5 := by omega
  obtain ⟨h0, h1, h4, h5⟩ := hne
  subst hu hg
  change execLaneFail p lane s = _
  rw [execLaneFail, atUnit_of_lt hp]
  refine (onlyIf_of_true (by simp [hl, h0]) _ _).trans (congrArg _ ?_)
  simp only [if_pos hgood]
  refine (if_neg (by simp [huse])).trans ?_
  by_cases hl0 : lanesOf ((portAt s p).good - 2 ^ lane) = 0
  · rw [if_pos hl0, if_pos hl0]
  · rw [if_neg hl0, if_neg hl0]
    exact (if_neg (by simp [h1])).trans ((if_neg h4).trans (if_neg h5))

theorem exec_laneFail_of_unused {p lane : Nat} {s : State} (hp : p < 6) (hl : lane < 8) (hst : (portAt s p).st ≠ 0)
    (hgood : (portAt s p).good.testBit lane = true) (huse : (portAt s p).lanes.testBit lane = false) :
    exec (.laneFail p lane) s = .next (setEv (.ablPort p) Reg.ABL_PORT_EVENT Bit.ABL_PORT_EVENT_LANE_FAIL
      (modPort s p (fun x => { x with good := x.good - 2 ^ lane }))) := by
  change execLaneFail p lane s = _
  rw [execLaneFail, atUnit_of_lt hp]
  refine (onlyIf_of_true (by simp [hl, hst]) _ _).trans (congrArg _ ?_)
  simp only [if_pos hgood]
  exact if_pos (by simp [huse])

theorem exec_portRetrainDone {p : Nat} {s : State} (hp : p < 6) (hst : (portAt s p).st = 1) (hre : (portAt s p).retraining = true)
    (ht : (portAt s p).train = 3) (hn : 3 ≤ (portAt s p).rxCopies) (hlast : (portAt s p).lastRetrain = false) :
    exec (.portRetrainDone p) s = .next (modPort s p (fun x => { x with
      st := if x.lanes = 0xFF then 2 else 3, train := 0, retraining := false, nakSent := false,
      retry := x.retry.map (fun r => { r with replays := 0 }), replayFrom := if x.retry.isEmpty then none else some 0 })) := by
  change execPortRetrainDone p s = _
  rw [execPortRetrainDone, atUnit_of_lt hp]
  exact (onlyIf_of_true (by simp [hst, hre, ht, hn]) _ _).trans (congrArg _ (if_neg (by simp [hlast])))

theorem exec_portRetrainDone_of_last {p : Nat} {s : State} (hp : p < 6) (hst : (portAt s p).st = 1)
    (hre : (portAt s p).retraining = true) (ht : (portAt s p).train = 3) (hn : 3 ≤ (portAt s p).rxCopies)
    (hlast : (portAt s p).lastRetrain = true) : exec (.portRetrainDone p) s = .next (portDown p s) := by
  change execPortRetrainDone p s = _
  rw [execPortRetrainDone, atUnit_of_lt hp]
  exact (onlyIf_of_true (by simp [hst, hre, ht, hn]) _ _).trans (congrArg _ (if_pos hlast))

theorem exec_portRetrainWrite {p : Nat} {s : State} (hp : p < 6) (hc : (portAt s p).cable = true) (hd : portDisabled s p = false) :
    exec (.portRetrainWrite p) s =
      .next (rerouteAll p (failWaits p (modPort (cutLink p s) p (fun x => startTraining (freshFlits x))))) := by
  change execPortRetrainWrite p s = _
  rw [execPortRetrainWrite, atUnit_of_lt hp]
  exact congrArg _ (if_pos (by simp [hc, hd]))

/-- Settles O40: an event of the training at a time, with what the peer's accepted record makes of the port. -/
theorem portsTrain : Obligations.PortsTrain := by
  unfold Obligations.PortsTrain
  refine ⟨fun p s => exec_cablePresent, fun p s => exec_trainingRestart, fun p s => exec_laneLock_of_signal,
    fun p s => exec_laneLock_of_no_lanes, fun p s => exec_laneLock_of_align, fun p s => exec_trainingRecordSend, ?_,
    fun p bs s => exec_trainingRecordRx_of_bad, ?_, fun p lane good s u => exec_laneFail_of_active,
    fun p lane s => exec_laneFail_of_unused, fun p s => exec_portRetrainDone, fun p s => exec_portRetrainDone_of_last,
    fun p s => exec_portRetrainWrite⟩
  · intro p bs r s u hp hst ht hr hf hsame htwo hu
    have hlen : p < s.links.ports.length := port_lt_of_st (by simp [hst])
    have hport : portAt u p = { portAt s p with rxCopies := 3, peerId := r.deviceId, peerValid := true, huskPeer := r.huskRx } := by
      rw [hu, portAt_modPort_same _ _ hlen]
    have hulen : p < u.links.ports.length := by rw [hu]; simpa [modPort, setPort, modLinks] using hlen
    have hname : NamesNeighbour u p ↔
        r.port = (if p % 2 = 0 then p + 1 else p - 1) ∧ r.deviceId = neighbour s p ∧ r.dims = s.links.dims := by
      rw [NamesNeighbour, hport]
      simp only [hsame]
      rw [hu]
      exact Iff.rfl
    have hassigned : u.links.assigned = s.links.assigned := by rw [hu]; rfl
    refine ⟨hu ▸ exec_trainingRecordRx_of_third hp hst ht hr hf hsame htwo, ?_, ?_, ?_⟩
    · exact fun ha => acceptPeer_of_unassigned hulen (hassigned.trans ha)
    · intro ha h1 h2 h3 hre
      have h := acceptPeer_of_neighbour hulen (hassigned.trans ha) (hname.2 ⟨h1, h2, h3⟩) (by rw [hport]; exact hre)
      rwa [hport] at h
    · intro ha hbad
      refine acceptPeer_of_stranger hulen (hassigned.trans ha) fun h => ?_
      obtain ⟨h1, h2, h3⟩ := hname.1 h
      rcases hbad with hb | hb | hb
      · exact hb h1
      · exact hb h2
      · exact hb h3
  · exact fun p s hp hst => ⟨_, exec_trainingStepTimeout hp hst, rfl, portAt_portDown (port_lt_of_st (by simp [hst]))⟩

end Sys2Proof.Ports
end


section
/-! PROOF. Flits received and sent (R327, R328, R331). -/

open Sys2Proof Sys2Proof.Machine Sys2Proof.Claim Sys2Proof.Channels Sys2Proof.Accesses Sys2Proof.Ports

namespace Sys2Proof.LinkFlits

theorem port_lt_of_active {s : State} {p : Nat} (h : portActive s p = true) : p < s.links.ports.length :=
  port_lt_of_st fun h0 => by simp [portActive, h0] at h

/-! ### Received -/

theorem links_fecCount (p corr uncorr : Nat) (s : State) : (fecCount p corr uncorr s).links = s.links :=
  ((keeps_cntAdd ..).frame.links rfl).trans ((keeps_cntAdd ..).frame.links rfl)

theorem portAt_fecCount (p corr uncorr q : Nat) (s : State) : portAt (fecCount p corr uncorr s) q = portAt s q := by
  rw [portAt, links_fecCount, portAt]

theorem exec_flitRx_of_next {p : Nat} {x : RxFlit} {f : Flit} {s u v : State} (hp : p < 6) (ha : portActive s p = true)
    (hf : flitOf x.bytes = some f) (hi : f.idle = false) (hseq : f.seq = (portAt (fecCount p x.corr x.uncorr s) p).rxSeq)
    (hu : u = takeFlit p f (flitReturns p f (fecCount p x.corr x.uncorr s)))
    (hv : v = (if f.nak = true ∧ portActive u p = true then nakReplay p u else u)) : exec (.flitRx p x) s = .next (readyAll v) := by
  change execFlitRx p x s = _
  rw [execFlitRx, atUnit_of_lt hp]
  refine (onlyIf_of_true ha _ _).trans (congrArg _ ?_)
  rw [hf, hv, hu]
  refine (if_neg (by simp [hseq])).trans ?_
  simp [hi]

theorem exec_flitRx_of_idle {p : Nat} {x : RxFlit} {f : Flit} {s u : State} (hp : p < 6) (ha : portActive s p = true)
    (hf : flitOf x.bytes = some f) (hi : f.idle = true) (hn : f.nak = false) (hu : u = flitReturns p f (fecCount p x.corr x.uncorr s)) :
    exec (.flitRx p x) s = .next (readyAll u) := by
  change execFlitRx p x s = _
  rw [execFlitRx, atUnit_of_lt hp]
  refine (onlyIf_of_true ha _ _).trans (congrArg _ ?_)
  rw [hf, hu]
  refine (if_neg (by simp [hi])).trans ?_
  simp [hi, hn]

theorem exec_flitRx_of_discarded {p : Nat} {x : RxFlit} {s : State} (hp : p < 6) (ha : portActive s p = true)
    (hbad : ∀ f, flitOf x.bytes = some f → f.idle = false ∧ f.seq ≠ (portAt s p).rxSeq) :
    exec (.flitRx p x) s = .next (nakGap p (fecCount p x.corr x.uncorr s)) := by
  change execFlitRx p x s = _
  rw [execFlitRx, atUnit_of_lt hp]
  refine (onlyIf_of_true ha _ _).trans (congrArg _ ?_)
  cases hf : flitOf x.bytes with
  | none => rfl
  | some f =>
    obtain ⟨hi, hseq⟩ := hbad f hf
    exact if_pos (by simp [hi, portAt_fecCount, hseq])

/-- A gap changes nothing of the port but the request for a replay. -/
theorem portAt_nakGap {u : State} {p : Nat} (hp : p < u.links.ports.length) :
    portAt (nakGap p u) p = { portAt u p with nakSent := true, nakDue := !(portAt u p).nakSent || (portAt u p).nakDue } := by
  unfold nakGap
  cases hn : (portAt u p).nakSent with
  | true => rw [if_pos rfl, Bool.not_true, Bool.false_or, ← hn]
  | false => simp [portAt_modPort_same _ _ hp]

theorem inbox_nakGap (p : Nat) (u : State) : (nakGap p u).links.inbox = u.links.inbox := by
  unfold nakGap
  split
  · rfl
  · rfl

/-! ### Sent -/

theorem exec_flitTx_of_replay {p i : Nat} {s : State} (hp : p < 6) (ha : portActive s p = true) (hr : (portAt s p).replayFrom = some i) :
    exec (.flitTx p) s = .next (cntInc (.ablPort p) Reg.ABL_CNT_REPLAY (modPort s p (fun x => { x with
      retry := x.retry.modify i (fun r => { r with replays := r.replays + 1 }), out := flitImage (x.retry.getD i {}).f,
      replayFrom := if i + 1 < x.retry.length then some (i + 1) else none }))) := by
  change execFlitTx p s = _
  rw [execFlitTx, atUnit_of_lt hp]
  refine (onlyIf_of_true ha _ _).trans (congrArg _ ?_)
  simp only [hr]

/-- What is put into a flit as it is sent changes neither its place in the message nor what the port holds. -/
theorem stamp_flit (s : State) (p : Nat) (f : Flit) :
    ∃ g x, stamp s p f = (g, x) ∧ (g.seq = f.seq ∧ g.vc = f.vc ∧ g.cls = f.cls ∧ g.sof = f.sof ∧ g.eof = f.eof ∧ g.idle = f.idle ∧
      g.payload = f.payload) ∧ x.retry = (portAt s p).retry ∧ x.txSeq = (portAt s p).txSeq ∧ x.txq = (portAt s p).txq ∧
      x.credits = (portAt s p).credits := by
  unfold stamp
  cases creditsDue s p with
  | none => exact ⟨_, _, rfl, ⟨rfl, rfl, rfl, rfl, rfl, rfl, rfl⟩, rfl, rfl, rfl, rfl⟩
  | some i => exact ⟨_, _, rfl, ⟨rfl, rfl, rfl, rfl, rfl, rfl, rfl⟩, rfl, rfl, rfl, rfl⟩

theorem flitLeaves_of_own {eof : Bool} {t : TxMsg} {s : State} (h : t.place = none) : flitLeaves eof t s = (s, t) := by
  rw [flitLeaves, h]

theorem portAt_cntInc (b : Blk) (off q : Nat) (s : State) : portAt (cntInc b off s) q = portAt s q := by
  rw [portAt, (keeps_cntInc b off s).frame.links rfl, portAt]

/-- The next flit of the message q, as it is before the acknowledgement and the credits are put in. -/
def nextFlit (x : Port) (i : Nat) (q : TxMsg) : Flit :=
  { vc := i / 2, cls := i % 2, sof := q.sent == 0, eof := decide (q.wire.length ≤ 240 * (q.sent + 1)), seq := x.txSeq,
    len16 := ceilDiv (flitAt q.wire q.sent).length 16, payload := flitAt q.wire q.sent }

/-- A port once the flit g of the message q is sent. -/
def sentPort (x : Port) (i : Nat) (turns : List Nat) (q : TxMsg) (g : Flit) (quad : Option Nat) : Port :=
  { x with
    txSeq := (x.txSeq + 1) % 4096, retry := x.retry ++ [{ f := g, quad := quad }], wrr := turns,
    txq := if decide (q.wire.length ≤ 240 * (q.sent + 1)) then x.txq.erase q
      else x.txq.map (fun r => if r = q then { q with sent := q.sent + 1, wire := q.wire } else r)
    out := flitImage g, credits := x.credits.set i (x.credits.getD i 0 - 1) }

theorem exec_flitTx_of_message {p i : Nat} {turns : List Nat} {q : TxMsg} {g : Flit} {x : Port} {s : State} (hp : p < 6)
    (ha : portActive s p = true) (hr : (portAt s p).replayFrom = none) (hlen : (portAt s p).retry.length < 1024)
    (harb : arbitrate (portAt s p) (weights s p) = some (i, turns)) (hq : headMsg (portAt s p) i = some q) (hs : q.sent ≠ 0)
    (hpl : q.place = none) (hstamp : stamp s p (nextFlit (portAt s p) i q) = (g, x)) :
    exec (.flitTx p) s = .next (cntInc (.ablPort p) Reg.ABL_CNT_TX_FLITS (setPort s p (sentPort x i turns q g (quadOf s q.m)))) := by
  rw [nextFlit] at hstamp
  change execFlitTx p s = _
  rw [execFlitTx, atUnit_of_lt hp]
  refine (onlyIf_of_true ha _ _).trans (congrArg _ ?_)
  simp only [hr, if_pos hlen, harb, hq, if_neg hs, flitLeaves_of_own hpl, hstamp]
  rfl

/-- The next flit of the message that arbitration chooses, and the port once it is sent. -/
theorem goes_flitTx_of_message {p i : Nat} {turns : List Nat} {q : TxMsg} {s : State} (hp : p < 6) (ha : portActive s p = true)
    (hr : (portAt s p).replayFrom = none) (hlen : (portAt s p).retry.length < 1024)
    (harb : arbitrate (portAt s p) (weights s p) = some (i, turns)) (hq : headMsg (portAt s p) i = some q) (hs : q.sent ≠ 0)
    (hpl : q.place = none) :
    Goes (.flitTx p) s (fun t => ∃ f, (portAt t p).retry = (portAt s p).retry ++ [{ f := f, quad := quadOf s q.m }] ∧
      (portAt t p).out = flitImage f ∧ f.seq = (portAt s p).txSeq ∧ f.vc = i / 2 ∧ f.cls = i % 2 ∧ f.sof = false ∧
      f.eof = decide (q.wire.length ≤ 240 * (q.sent + 1)) ∧ f.payload = (q.wire.drop (240 * q.sent)).take 240 ∧
      (portAt t p).txSeq = ((portAt s p).txSeq + 1) % 4096 ∧
      (portAt t p).credits = (portAt s p).credits.set i ((portAt s p).credits.getD i 0 - 1)) := by
  obtain ⟨g, x, hstamp, ⟨hseq, hvc, hcls, hsof, heof, -, hpay⟩, hretry, htx, -, hcr⟩ := stamp_flit s p (nextFlit (portAt s p) i q)
  refine ⟨_, exec_flitTx_of_message hp ha hr hlen harb hq hs hpl hstamp, g, ?_⟩
  rw [portAt_cntInc, portAt_setPort_same _ _ (port_lt_of_active ha)]
  exact ⟨congrArg (· ++ _) hretry, rfl, hseq, hvc, hcls, hsof.trans (beq_false_of_ne hs), heof, hpay,
    congrArg (fun n => (n + 1) % 4096) htx, congrArg (fun l : List Nat => l.set i (l.getD i 0 - 1)) hcr⟩

theorem goes_flitTx_of_idle {p : Nat} {s : State} (hp : p < 6) (ha : portActive s p = true) (hr : (portAt s p).replayFrom = none)
    (hnone : 1024 ≤ (portAt s p).retry.length ∨ arbitrate (portAt s p) (weights s p) = none) :
    Goes (.flitTx p) s (fun t => ∃ f, (portAt t p).out = flitImage f ∧ f.idle = true ∧ (portAt t p).txSeq = (portAt s p).txSeq ∧
      (portAt t p).txq = (portAt s p).txq ∧ (portAt t p).retry = (portAt s p).retry) := by
  obtain ⟨g, x, hstamp, ⟨-, -, -, -, -, hidle, -⟩, hretry, htx, htxq, -⟩ := stamp_flit s p { idle := true }
  have hport := port_lt_of_active ha
  have hno : (if (portAt s p).retry.length < 1024 then arbitrate (portAt s p) (weights s p) else none) = none := by
    rcases hnone with h | h
    · exact if_neg (Nat.not_lt.2 h)
    · rw [h, ite_self]
  refine ⟨setPort s p { x with out := flitImage g }, ?_, ?_⟩
  · change execFlitTx p s = _
    rw [execFlitTx, atUnit_of_lt hp]
    refine (onlyIf_of_true ha _ _).trans (congrArg _ ?_)
    simp only [hr, hno, hstamp]
  · beta_reduce
    rw [portAt_setPort_same _ _ hport]
    exact ⟨g, rfl, hidle, htx, htxq, hretry⟩

/-- Settles O41: the three ends of a flit received, and the three choices of a flit sent. -/
theorem flitsCrossTheLinks : Obligations.FlitsCrossTheLinks := by
  unfold Obligations.FlitsCrossTheLinks
  refine ⟨fun p x f s u v => exec_flitRx_of_next, fun p x f s u => exec_flitRx_of_idle, ?_, ?_,
    fun p i turns q s => goes_flitTx_of_message, fun p s => goes_flitTx_of_idle⟩
  · intro p x s u hp ha _ hbad
    have hlen : p < (fecCount p x.corr x.uncorr s).links.ports.length := by rw [links_fecCount]; exact port_lt_of_active ha
    refine ⟨_, exec_flitRx_of_discarded hp ha hbad, ?_⟩
    beta_reduce
    rw [portAt_nakGap hlen, portAt_fecCount, inbox_nakGap, links_fecCount]
    exact ⟨rfl, rfl, rfl, rfl, rfl, rfl, rfl⟩
  · intro p i r s hp ha hr hget
    refine ⟨_, exec_flitTx_of_replay hp ha hr, ?_⟩
    beta_reduce
    rw [portAt_cntInc, portAt_modPort_same _ _ (port_lt_of_active ha)]
    refine ⟨?_, ?_, rfl, rfl, rfl⟩
    · simp [List.getD_eq_getElem?_getD, hget]
    · simp [hget]

end Sys2Proof.LinkFlits
end


section
/-! PROOF. The host's link: training, attachment, detachment, resets, the decoder and accesses through BAR0 (R363, R368, R370, R391 to
R395). -/

open Sys2Proof Sys2Proof.Machine Sys2Proof.Claim Sys2Proof.Channels Sys2Proof.Accesses Sys2Proof.Tillers Sys2Proof.Heat

namespace Sys2Proof.HostLink

/-! ### The detachment -/

/-- The host's attachment is the same in two states: of the port with its last cause, and of every channel. -/
structure SameAttach (s v : State) : Prop where
  attach : v.cxl.attach = s.cxl.attach
  cause : v.cxl.detachCause = s.cxl.detachCause
  attached : ∀ c, (chanAt v c).attached = (chanAt s c).attached

theorem SameAttach.trans {s v x : State} (h : SameAttach s v) (h' : SameAttach v x) : SameAttach s x :=
  ⟨h'.attach.trans h.attach, h'.cause.trans h.cause, fun c => (h'.attached c).trans (h.attached c)⟩

theorem sameAttach_refl (s : State) : SameAttach s s := ⟨rfl, rfl, fun _ => rfl⟩

theorem sameAttach_modChan {s : State} {c : Nat} {f : Chan → Chan} (hf : ∀ k, (f k).attached = k.attached) : SameAttach s (modChan s c f) := by
  refine ⟨rfl, rfl, fun d => ?_⟩
  by_cases hd : d = c
  · subst hd
    rw [chanAt_modChan_same, hf]
  · rw [chanAt_modChan_ne _ _ hd]

theorem sameAttach_modRings (s : State) (c : Nat) (f : Rings → Rings) : SameAttach s (modRings s c f) := sameAttach_modChan fun _ => rfl

theorem sameAttach_setEv (b : Blk) (ev n : Nat) (s : State) : SameAttach s (setEv b ev n s) := by
  obtain ⟨m, hm⟩ := cxl_setEv b ev n s
  refine ⟨by rw [hm], by rw [hm], fun c => ?_⟩
  obtain ⟨q, hq⟩ := chanAt_setEv b ev n s c
  rw [hq]

theorem sameAttach_finishRing (c pos status : Nat) (rs : List Word) (s : State) : SameAttach s (finishRing c pos status rs s) := by
  unfold finishRing finishRingK
  cases ringCmd s c pos with
  | none => exact sameAttach_refl s
  | some y =>
    change SameAttach s (ringFinish c pos 0 status { src := .ring c, e := y.e, ch := c, pos := pos } rs s)
    unfold ringFinish
    dsimp only
    split
    · exact ((sameAttach_modRings ..).trans (sameAttach_modRings ..)).trans (sameAttach_setEv ..)
    · exact (sameAttach_modRings ..).trans (sameAttach_modRings ..)

theorem SameAttach.foldl {α : Type} {f : State → α → State} (hf : ∀ u x, SameAttach u (f u x)) :
    ∀ (l : List α) (s : State), SameAttach s (l.foldl f s)
  | [], s => sameAttach_refl s
  | x :: l, s => (hf s x).trans (SameAttach.foldl hf l (f s x))

/-- What is left of the copies in flight once the host is gone changes nothing of its attachment. -/
theorem sameAttach_detachCopies (s : State) : SameAttach s (detachCopies s) := by
  have hdrop : SameAttach s (modCxl (dropEngine (fun e => decide (e.who < 12)) s)
      (fun x => { x with engines := x.engines.map (fun e => { e with inflight := [] }) })) := ⟨rfl, rfl, fun _ => rfl⟩
  unfold detachCopies
  refine hdrop.trans (SameAttach.foldl (fun u y => ?_) _ _)
  split
  · exact sameAttach_finishRing ..
  · exact sameAttach_refl u

theorem attached_detachChan (c d : Nat) (s : State) :
    (chanAt (detachChan c s) d).attached = (if d = c then false else (chanAt s d).attached) := by
  unfold detachChan
  split
  · next h => rw [h, chanAt_modChan_same]
  · next h => rw [chanAt_modChan_ne _ _ h]

theorem attached_detachChans (d : Nat) : ∀ (l : List Nat) (s : State),
    (chanAt (l.foldl (fun s c => detachChan c s) s) d).attached = (if d ∈ l then false else (chanAt s d).attached)
  | [], s => by simp
  | c :: l, s => by
    rw [List.foldl_cons, attached_detachChans d l, attached_detachChan]
    by_cases h : d = c
    · simp [h]
    · simp [h]

theorem cxl_detachChans : ∀ (l : List Nat) (s : State), (l.foldl (fun s c => detachChan c s) s).cxl = s.cxl
  | [], _ => rfl
  | c :: l, s => cxl_detachChans l (detachChan c s)

theorem sameAttach_cntInc (b : Blk) (off : Nat) (s : State) (hb : ∀ c, b ≠ .chn c) : SameAttach s (cntInc b off s) := by
  obtain ⟨m, hm⟩ := cxl_cntInc b off s
  refine ⟨by rw [hm], by rw [hm], fun c => ?_⟩
  rw [chanAt, cntInc, chans_cntAdd hb, chanAt]

theorem cxp_ne_chn (c : Nat) : Blk.cxp ≠ .chn c := nofun

/-- A detachment as it is noted, before the channels leave their host. -/
def detachNoted (k : Nat) (s : State) : State :=
  logRec { source := 6, cause := 1, severity := 2, detail := k } (cntInc .cxp Reg.CXP_CNT_DETACH
    (setEv .cxp Reg.CXP_EVENT Bit.CXP_EVENT_DETACH
      (modCxl s (fun x => { x with attach := if s.cxl.mode = 0 then 1 else 2, detachCause := k }))))

theorem detach_eq_of_attached {k : Nat} {s : State} (h : s.cxl.attach = 0) :
    detach k s = detachCopies (modCxl ((liveChans (detachNoted k s)).foldl (fun s c => detachChan c s) (detachNoted k s))
      (fun x => { x with reads := [], writes := [] })) := by
  rw [detach, if_neg (by simp [h])]
  rfl

theorem chans_logRec (r : LogRec) (s : State) : (logRec r s).chans = s.chans := rfl

theorem sameAttach_logRec (r : LogRec) (s : State) : SameAttach s (logRec r s) := ⟨rfl, rfl, fun _ => rfl⟩

theorem liveChans_detachNoted (k : Nat) (s : State) : liveChans (detachNoted k s) = liveChans s := by
  have h : (detachNoted k s).chans = s.chans := by
    rw [detachNoted, chans_logRec, cntInc, chans_cntAdd cxp_ne_chn, chans_setEv cxp_ne_chn]
    rfl
  rw [liveChans, h, liveChans]

theorem sameAttach_detachNoted (k : Nat) (s : State) :
    SameAttach (modCxl s (fun x => { x with attach := if s.cxl.mode = 0 then 1 else 2, detachCause := k })) (detachNoted k s) := by
  unfold detachNoted
  exact ((sameAttach_setEv ..).trans (sameAttach_cntInc _ _ _ cxp_ne_chn)).trans (sameAttach_logRec ..)

theorem sameAttach_dropIo (s : State) : SameAttach s (modCxl s (fun x => { x with reads := [], writes := [] })) := ⟨rfl, rfl, fun _ => rfl⟩

/-- A detachment while the host is attached: where the port waits, with the cause, and the channels without their host. -/
theorem detach_of_attached {k : Nat} {s : State} (h : s.cxl.attach = 0) :
    (detach k s).cxl.attach = (if s.cxl.mode = 0 then 1 else 2) ∧ (detach k s).cxl.detachCause = k ∧
      ∀ c ∈ liveChans s, (chanAt (detach k s) c).attached = false := by
  have hlast := (sameAttach_dropIo ((liveChans (detachNoted k s)).foldl (fun s c => detachChan c s) (detachNoted k s))).trans
    (sameAttach_detachCopies _)
  have hnoted := sameAttach_detachNoted k s
  have hcxl := cxl_detachChans (liveChans (detachNoted k s)) (detachNoted k s)
  have hattach := congrArg Cxl.attach hcxl
  have hcause := congrArg Cxl.detachCause hcxl
  rw [detach_eq_of_attached h]
  refine ⟨hlast.attach.trans (hattach.trans hnoted.attach), hlast.cause.trans (hcause.trans hnoted.cause), fun c hc => ?_⟩
  exact (hlast.attached c).trans ((attached_detachChans c _ (detachNoted k s)).trans (if_pos (by rwa [liveChans_detachNoted])))

/-! ### What each event of the link does -/

theorem goes_bar0BadAccess {write : Bool} {s : State} (h : s.cxl.mode ≠ 0) :
    Goes (.bar0BadAccess write) s (fun t => bit (rd t .cxp Reg.CXP_EVENT) Bit.CXP_EVENT_BAR_SIZE = true ∧
      t.cxl.bar0Out = s.cxl.bar0Out ++ (if write = true then [] else [word (2 ^ 64 - 1)])) := by
  obtain ⟨m, hm⟩ := cxl_setEv .cxp Reg.CXP_EVENT Bit.CXP_EVENT_BAR_SIZE s
  have hbit := bit_setEv_same .cxp Reg.CXP_EVENT (n := Bit.CXP_EVENT_BAR_SIZE) s (by decide)
  have hexec : exec (.bar0BadAccess write) s = .next (if write then setEv .cxp Reg.CXP_EVENT Bit.CXP_EVENT_BAR_SIZE s
      else modCxl (setEv .cxp Reg.CXP_EVENT Bit.CXP_EVENT_BAR_SIZE s) (fun x => { x with bar0Out := x.bar0Out ++ [word (2 ^ 64 - 1)] })) := by
    change execBar0BadAccess write s = _
    rw [execBar0BadAccess]
    exact onlyIf_of_true (by simpa [bar0Open] using h) _ _
  refine ⟨_, hexec, ?_⟩
  cases write with
  | true => exact ⟨hbit, by simp [hm]⟩
  | false => exact ⟨hbit, by simp [hm]⟩

/-- Settles O42: the guard of each event met, and the detachment followed channel by channel. -/
theorem theHostLinkComesAndGoes : Obligations.TheHostLinkComesAndGoes := by
  unfold Obligations.TheHostLinkComesAndGoes
  refine ⟨?_, ?_, ?_, ?_, ?_, ?_, ?_, ?_, ?_, ?_, ?_, fun k s => detach_of_attached, fun k s h => if_pos h, ?_,
    fun write s => goes_bar0BadAccess⟩
  · intro mode width rate io cm s ht h0 hm hw hw' hr hr'
    change execCxlLinkUp mode width rate io cm s = _
    rw [execCxlLinkUp]
    exact onlyIf_of_true (by simp [*]) _ _
  · intro s hm
    change execCxlLinkDown s = _
    rw [execCxlLinkDown]
    exact onlyIf_of_true (by simp [hm]) _ _
  · intro s hp
    change execPerstAssert s = _
    rw [execPerstAssert]
    exact onlyIf_of_true (by simp [hp]) _ _
  · intro s hp
    change execPerstDeassert s = _
    rw [execPerstDeassert]
    exact onlyIf_of_true hp _ _
  · intro s hm
    change execCxlHotReset s = _
    rw [execCxlHotReset]
    exact onlyIf_of_true (by simp [hm]) _ _
  · intro s hm
    change execCxlFlr s = _
    rw [execCxlFlr]
    exact onlyIf_of_true (by simp [hm]) _ _
  · intro s hm hi
    change execIdeIntegrityFail s = _
    rw [execIdeIntegrityFail]
    exact onlyIf_of_true (by simp [hm, hi]) _ _
  · intro s ha hw
    change execHostWdExpire s = _
    rw [execHostWdExpire]
    exact onlyIf_of_true (by simp [ha, hw]) _ _
  · intro w s hm
    change execHostWdWrite w s = _
    rw [execHostWdWrite]
    exact onlyIf_of_true (by simp [bar0Open, hm]) _ _
  · intro s hm ha
    change execCxpAttach s = _
    rw [execCxpAttach]
    exact onlyIf_of_true (by simp [bar0Open, hm, ha]) _ _
  · intro s hm
    change execCxpDetach s = _
    rw [execCxpDetach]
    exact onlyIf_of_true (by simp [bar0Open, hm]) _ _
  · intro base size s hm
    change execHdmCommit base size s = _
    rw [execHdmCommit]
    refine (onlyIf_of_true (by simp [hm]) _ _).trans ?_
    simp [hdmOk, and_assoc]

end Sys2Proof.HostLink
end


section
/-! PROOF. Accesses through BAR4, and SPDM requests (R237, R384, R387, R516, R517). -/

open Sys2Proof Sys2Proof.Machine Sys2Proof.Claim Sys2Proof.Channels Sys2Proof.Accesses

namespace Sys2Proof.Bar4

/-! ### Reads -/

theorem exec_bar4Read_of_refused {off len reqId pasid cause : Nat} {hp : Bool} {s : State} (ho : bar4Open s off = true) (hlo : 0 < len)
    (hhi : len ≤ 4096) (hheld : ∀ h ∈ s.cxl.held, h.req ≠ some reqId)
    (hc : regionCause (regionAt s (off / 2 ^ 30)) false (off % 2 ^ 30) len reqId pasid hp = some cause) :
    exec (.bar4Read off len reqId pasid hp) s = .next (bar4Out 1 [] (regionDeny (off / 2 ^ 30) false cause reqId pasid hp s)) := by
  change execBar4Read off len reqId pasid hp s = _
  rw [execBar4Read]
  refine (onlyIf_of_true (by simpa [ho, hhi, Nat.pos_iff_ne_zero.1 hlo] using hheld) _ _).trans (congrArg _ ?_)
  simp only [hc]

theorem exec_bar4Read_of_served {off len reqId pasid : Nat} {hp : Bool} {g : Region} {l : List Access} {s t : State} {bs : List Byte}
    {c : RdCause} (ho : bar4Open s off = true) (hlo : 0 < len) (hhi : len ≤ 4096) (hheld : ∀ h ∈ s.cxl.held, h.req ≠ some reqId)
    (hg : g = regionAt s (off / 2 ^ 30)) (hc : regionCause g false (off % 2 ^ 30) len reqId pasid hp = none)
    (hl : l = [{ obj := g.obj, off := g.offset + off % 2 ^ 30, n := len }]) (hgo : GoNow s 19 none 141 l)
    (hr : objRead { req := 141, dead := silent s 19 none l } g.obj (g.offset + off % 2 ^ 30) len (admitted s 19 none l) = (t, bs, c)) :
    exec (.bar4Read off len reqId pasid hp) s = .next (if c = 0 then bar4Out 0 bs t else bar4Out 2 [] t) := by
  subst hl hg
  change execBar4Read off len reqId pasid hp s = _
  rw [execBar4Read]
  refine (onlyIf_of_true (by simpa [ho, hhi, Nat.pos_iff_ne_zero.1 hlo] using hheld) _ _).trans (congrArg _ ?_)
  simp only [hc]
  rw [gated, gatedBy_of_goNow hgo, hr]

/-! ### Writes -/

theorem exec_bar4Write_of_refused {off reqId pasid cause : Nat} {hp : Bool} {data : List Byte} {s : State} (ho : bar4Open s off = true)
    (hne : data ≠ []) (hhi : data.length ≤ 4096)
    (hc : regionCause (regionAt s (off / 2 ^ 30)) true (off % 2 ^ 30) data.length reqId pasid hp = some cause) :
    exec (.bar4Write off reqId pasid hp data) s = .next (regionDeny (off / 2 ^ 30) true cause reqId pasid hp s) := by
  change execBar4Write off reqId pasid hp data s = _
  rw [execBar4Write]
  refine (onlyIf_of_true (by simp [ho, hhi, hne]) _ _).trans (congrArg _ ?_)
  simp only [hc]

theorem exec_bar4Write_of_served {off reqId pasid : Nat} {hp : Bool} {data : List Byte} {g : Region} {l : List Access} {s : State}
    (ho : bar4Open s off = true) (hne : data ≠ []) (hhi : data.length ≤ 4096) (hg : g = regionAt s (off / 2 ^ 30))
    (hc : regionCause g true (off % 2 ^ 30) data.length reqId pasid hp = none)
    (hheld : ∀ h ∈ s.cxl.held, h.req = some reqId → h.obj ≠ g.obj)
    (hl : l = [{ write := true, obj := g.obj, off := g.offset + off % 2 ^ 30, n := data.length }]) (hgo : GoNow s 19 none 141 l) :
    exec (.bar4Write off reqId pasid hp data) s = .next (objStore { engine := false, req := 141, dead := silent s 19 none l } g.obj
      (g.offset + off % 2 ^ 30) data (admitted s 19 none l)) := by
  have hquiet : rangeBusy s g.obj (g.offset + off % 2 ^ 30) data.length = false := by
    obtain ⟨hacc, -⟩ := hgo
    obtain ⟨-, hbusy⟩ := hacc _ (hl ▸ List.mem_singleton_self _)
    exact hbusy rfl
  subst hl hg
  change execBar4Write off reqId pasid hp data s = _
  rw [execBar4Write]
  refine (onlyIf_of_true (by simp [ho, hhi, hne]) _ _).trans (congrArg _ ?_)
  simp only [hc]
  refine (if_neg (by rw [hquiet]; simpa using hheld)).trans ?_
  rw [gated, gatedBy_of_goNow hgo]

theorem exec_bar4Write_of_moving {off reqId pasid : Nat} {hp : Bool} {data : List Byte} {g : Region} {s : State}
    (ho : bar4Open s off = true) (hne : data ≠ []) (hhi : data.length ≤ 4096) (hg : g = regionAt s (off / 2 ^ 30))
    (hc : regionCause g true (off % 2 ^ 30) data.length reqId pasid hp = none)
    (hbusy : rangeBusy s g.obj (g.offset + off % 2 ^ 30) data.length = true) (hroom : s.cxl.held.length < 64) :
    exec (.bar4Write off reqId pasid hp data) s = .next (cntInc .plc Reg.PLC_CNT_HELD_WRITES (modCxl s (fun x => { x with
      held := x.held ++ [{
        obj := g.obj, offset := g.offset + off % 2 ^ 30, data := data.zipIdx.map (fun p => (p.2, p.1)), req := some reqId }] }))) := by
  subst hg
  change execBar4Write off reqId pasid hp data s = _
  rw [execBar4Write]
  refine (onlyIf_of_true (by simp [ho, hhi, hne]) _ _).trans (congrArg _ ?_)
  simp only [hc]
  exact (if_pos (by rw [hbusy]; rfl)).trans (if_pos hroom)

/-! ### SPDM requests -/

theorem exec_spdmRequest_of_unknown {msg : List Byte} {code : Nat} {s : State} (hm : s.cxl.mode ≠ 0) (hr : rachisServes s = true)
    (hl : 4 ≤ msg.length) (hcode : code = leValue ((msg.drop 1).take 1)) (hno : spdmCodes.contains code = false) :
    exec (.spdmRequest msg) s = .next (modCxl s (fun x => { x with
      doeOut := x.doeOut ++ [leBytes 1 0x12 ++ leBytes 1 0x7F ++ leBytes 1 0x07 ++ leBytes 1 0] })) := by
  subst hcode
  change execSpdmRequest msg s = _
  rw [execSpdmRequest]
  refine (onlyIf_of_true (by simp [hm, hr, hl]) _ _).trans (congrArg _ ?_)
  exact if_pos (by rw [hno]; rfl)

theorem exec_spdmRequest_of_known {msg bs : List Byte} {code p1 p2 : Nat} {s t : State} (hm : s.cxl.mode ≠ 0) (hr : rachisServes s = true)
    (hl : 4 ≤ msg.length) (hcode : code = leValue ((msg.drop 1).take 1)) (hp1 : p1 = leValue ((msg.drop 2).take 1))
    (hp2 : p2 = leValue ((msg.drop 3).take 1)) (hyes : spdmCodes.contains code = true) (hses : spdmSession code = false)
    (hid : spdmSigns code p1 = true → s.boot.identityOk = true) (hE4 : code ≠ 0xE4) (hEC : code ≠ 0xEC) (hFE : code ≠ 0xFE)
    (hbody : spdmBody code p2 s = (bs, t)) :
    exec (.spdmRequest msg) s = .next (modCxl t (fun x => { x with
      doeOut := x.doeOut ++ [leBytes 1 0x12 ++ leBytes 1 (code - 0x80) ++ leBytes 1 p1 ++ leBytes 1 p2 ++ bs] })) := by
  have hidentity : ((spdmSigns code p1 || spdmSession code) && !s.boot.identityOk) = false := by
    cases hs : spdmSigns code p1 with
    | false => simp [hses]
    | true => simp [hid hs]
  change execSpdmRequest msg s = _
  rw [execSpdmRequest]
  refine (onlyIf_of_true (by simp [hm, hr, hl]) _ _).trans (congrArg _ ?_)
  simp only [← hcode, ← hp1, ← hp2]
  refine (if_neg (by rw [hyes]; decide)).trans ((if_neg (by simp [hidentity])).trans ((if_neg (by simp [hses])).trans
    ((if_neg (by simp [hE4])).trans ?_)))
  simp only [if_neg hE4, if_neg hEC, if_neg (fun h => hFE (And.left h)), hbody]

/-- Settles O43: a request of BAR4 at a time, refused, served or held, and the two answers of SPDM. -/
theorem regionsServeTheHost : Obligations.RegionsServeTheHost := by
  unfold Obligations.RegionsServeTheHost
  exact ⟨fun off len reqId pasid cause hp s => exec_bar4Read_of_refused,
    fun off len reqId pasid hp g l s t bs c => exec_bar4Read_of_served,
    fun off reqId pasid cause hp data s => exec_bar4Write_of_refused,
    fun off reqId pasid hp data g l s => exec_bar4Write_of_served,
    fun off reqId pasid hp data g s => exec_bar4Write_of_moving,
    fun msg code s => exec_spdmRequest_of_unknown, fun msg bs code p1 p2 s t => exec_spdmRequest_of_known⟩

end Sys2Proof.Bar4
end


section
/-! PROOF. What the hang detectors find (R430 to R433, R437): commands, stages, and requests without an answer. -/

open Sys2Proof Sys2Proof.Machine Sys2Proof.Claim Sys2Proof.Channels

namespace Sys2Proof.Detection

/-! ### Commands beyond their watchdog -/

/-- A command beyond its watchdog, counted, with its record. -/
def watchdogSeen (c pos : Nat) (y : RingCmd) (s : State) : State :=
  let u := cntInc (.chn c) Reg.CHN_CNT_WATCHDOG (setEv (.chn c) Reg.CHN_RCV_EVENT Bit.CHN_RCV_EVENT_WATCHDOG s)
  logRec { source := 8, cause := 1, severity := 2, status := ST_WATCHDOG, channel := handleOf u c, step := attemptOf (chanAt u c),
           detail := put y.e.opcode 7 0 + put pos 39 8 } u

/-- A command beyond its watchdog fails with its attempt. -/
def watchdogFailed (c pos : Nat) (y : RingCmd) (s : State) : State :=
  abortAttempt c ST_WATCHDOG 0xFF (finishRing c pos ST_WATCHDOG [] (watchdogSeen c pos y s))

section
variable {c pos : Nat} {y : RingCmd} {s : State} (hc : c < 4096) (hy : ringCmd s c pos = some y)
  (hon : bits (rd s (.chn c) Reg.CHN_RCV_CTRL) 63 32 ≠ 0)
include hc hy hon

theorem exec_cmdWatchdog_of_migration (hd : engineDomain (watchdogSeen c pos y s) y.e = none) :
    exec (.cmdWatchdog c pos) s = .next (watchdogFailed c pos y s) := by
  change execCmdWatchdog c pos s = _
  rw [execCmdWatchdog, atUnit_of_lt hc, hy]
  refine congrArg _ ((if_neg hon).trans ?_)
  dsimp only
  split
  · rfl
  · next h => exact nomatch hd.symm.trans h
  · next h => exact nomatch hd.symm.trans h

theorem exec_cmdWatchdog_of_rachis (hd : engineDomain (watchdogSeen c pos y s) y.e = some 0x48) :
    exec (.cmdWatchdog c pos) s = .next (takeover 0x91 (watchdogFailed c pos y s)) := by
  change execCmdWatchdog c pos s = _
  rw [execCmdWatchdog, atUnit_of_lt hc, hy]
  refine congrArg _ ((if_neg hon).trans ?_)
  dsimp only
  split
  · next h => exact nomatch hd.symm.trans h
  · rfl
  · next d hne h => exact absurd (Option.some.inj (h.symm.trans hd)) hne

theorem exec_cmdWatchdog_of_engine {k : Nat} (hd : engineDomain (watchdogSeen c pos y s) y.e = some k) (hk : k ≠ 0x48) :
    exec (.cmdWatchdog c pos) s = .next (modRcv (watchdogFailed c pos y s)
      (fun r => { r with abandoned := r.abandoned ++ [(c, pos, k, (watchdogFailed c pos y s).us)] })) := by
  change execCmdWatchdog c pos s = _
  rw [execCmdWatchdog, atUnit_of_lt hc, hy]
  refine congrArg _ ((if_neg hon).trans ?_)
  dsimp only
  split
  · next h => exact nomatch hd.symm.trans h
  · next h => exact absurd (Option.some.inj (hd.symm.trans h)) hk
  · next d _ h =>
    obtain rfl : k = d := Option.some.inj (hd.symm.trans h)
    rfl

end

theorem exec_watchdogReleaseTimeout {c pos : Nat} {a : Nat × Nat × Nat × Nat} {s : State} (hc : c < 4096)
    (ha : s.rcv.abandoned.find? (fun a => a.1 == c && a.2.1 == pos) = some a) :
    exec (.watchdogReleaseTimeout c pos) s = .next (flagDomain a.2.2.1 {
        source := 8, cause := 1, severity := 2, status := ST_WATCHDOG, channel := handleOf s c, detail := put pos 39 8 }
      (modRcv s (fun r => { r with abandoned := r.abandoned.filter (fun x => !(x.1 == c && x.2.1 == pos)) }))) := by
  change execWatchdogReleaseTimeout c pos s = _
  rw [execWatchdogReleaseTimeout, atUnit_of_lt hc, ha]

/-! ### Stages without progress -/

theorem exec_progressTimeout {t ctx : Nat} {u : Tiller} {g : Cfg} {x : Ctx} {s v : State} (ht : t < 128) (hu : u = tillerAt s t)
    (hg : g = (if ctx = 0 then u.act else u.dfr)) (hx : x = (if ctx = 0 then u.ctxA else u.ctxD)) (hvalid : g.valid = true)
    (had : u.admitted = true) (hend : x.ended = false) (hin : stageHasInput u = true) (h1 : x.wait ≠ 1) (h3 : x.wait ≠ 3)
    (h9 : x.wait ≠ 9) (h10 : x.wait ≠ 10)
    (hv : v = cntInc (.chn g.chan) Reg.CHN_CNT_PROGRESS (setEv (.chn g.chan) Reg.CHN_RCV_EVENT Bit.CHN_RCV_EVENT_PROGRESS s)) :
    exec (.progressTimeout t ctx) s = .next (flagDomain (tillerQuad t) {
        source := 1, cause := 2, severity := 3, channel := handleOf v g.chan, step := attemptOf (chanAt v g.chan),
        detail := (rd v (.tlr t) Reg.TLR_SEQ_FAULT).toNat + (rd v (.tlr t) Reg.TLR_SEQ_FAULT_WORD).toNat * 2 ^ 64 + t * 2 ^ 128 } v) := by
  change execProgressTimeout t ctx s = _
  rw [execProgressTimeout, atUnit_of_lt ht]
  refine (onlyIf_of_true ?_ _ _).trans ?_
  · rw [← hu, ← hg, ← hx]
    simp [hvalid, had, hend, hin, h1, h3, h9, h10]
  · rw [hv, hg, hu]

/-! ### Requests without an answer -/

theorem exec_tagTimeout_of_tiller {t rid : Nat} {q : MemReq} {p : Part} {s : State} (ht : t < 128)
    (hq : (tillerAt s t).reqs.find? (fun q => q.rid == rid && holdsTag q) = some q) (hp : q.parts.find? (fun p => p.st ≤ 1) = some p) :
    exec (.tagTimeout 0 t rid) s = .next (sendProbe 0 t p.home (poisonReq t rid 10 s)) := by
  change atUnit t 128 _ = _
  rw [atUnit_of_lt ht, hq]
  dsimp only
  rw [hp, causeTagTimeout]

theorem exec_tagTimeout_of_copy {n rid : Nat} {y : Copy} {s : State} (hn : n < 12)
    (hy : (s.cxl.engines.getD n {}).inflight.find? (fun y => !y.ended) = some y) :
    exec (.tagTimeout 1 n rid) s = .next (sendProbe 1 n (homeOf s y.obj (y.offset + y.done)) (copyFail n y ST_MEM_POISON s)) := by
  change atUnit n 12 _ = _
  rw [atUnit_of_lt hn, hy]

theorem exec_tagTimeout_of_collective {p gn : Nat} {y : Coll} {l : List Coll} {s : State} (hp : p < 6) (hl : (groupAt s gn).colls = y :: l) :
    exec (.tagTimeout 2 p gn) s = .next (sendProbe 2 p (homeOf s y.obj y.offset) (abortAttempt y.ch ST_MEM_POISON 0xFF s)) := by
  change atUnit p 6 _ = _
  rw [atUnit_of_lt hp, hl]

theorem exec_tagTimeout_of_move {oi g : Nat} {m : MigCmd} {v : Move} {s : State} (hm : moveOf s oi g = some (m, v)) (hv : v.phase ≤ 1) :
    exec (.tagTimeout 3 oi g) s = .next (sendProbe 3 oi (homeOf s oi (g * 65536)) s) := by
  change execTagTimeout 3 oi g s = _
  rw [execTagTimeout, hm]
  · exact congrArg _ (if_pos (by omega))
  all_goals exact nofun

/-! ### Probes -/

theorem length_dropFirstProbe {who n h : Nat} : ∀ {l : List Probe}, (∃ p ∈ l, p.who = who ∧ p.unit = n ∧ p.home = h) →
    (takeProbe.dropFirstProbe who n h l).length + 1 = l.length
  | [], hl => by simp at hl
  | p :: r, hl => by
    rw [takeProbe.dropFirstProbe]
    split
    · rfl
    · next hp =>
      have hr : ∃ q ∈ r, q.who = who ∧ q.unit = n ∧ q.home = h := by
        obtain ⟨q, hq, hw⟩ := hl
        rcases List.mem_cons.1 hq with rfl | hq
        · exact absurd (by simpa [and_assoc] using hw) hp
        · exact ⟨q, hq, hw⟩
      rw [List.length_cons, length_dropFirstProbe hr, List.length_cons]

/-- A probe that is in the list is taken from it. -/
theorem takeProbe_of_sent {who n h : Nat} {s : State} (f : State → State) (hp : ∃ p ∈ s.rcv.probes, p.who = who ∧ p.unit = n ∧ p.home = h) :
    ∃ u, (∃ l, u = modRcv s (fun r => { r with probes := l }) ∧ l.length + 1 = s.rcv.probes.length) ∧ takeProbe who n h s f = f u := by
  refine ⟨_, ⟨_, rfl, length_dropFirstProbe hp⟩, ?_⟩
  exact if_pos (by simpa [and_assoc] using hp)

theorem goes_tagProbeReturn {who n h : Nat} {s : State} (hp : ∃ p ∈ s.rcv.probes, p.who = who ∧ p.unit = n ∧ p.home = h) (hw : who < 3) :
    Goes (.tagProbeReturn who n h) s (fun t => ∃ u, (∃ l, u = modRcv s (fun r => { r with probes := l }) ∧ l.length + 1 = s.rcv.probes.length) ∧
      t = flagDomain (if who = 0 then tillerQuad n else if who = 1 then 0x40 else 0x38 + n) (tagRec u who n 3) u) := by
  obtain rfl | rfl | rfl : who = 0 ∨ who = 1 ∨ who = 2 := by omega
  · obtain ⟨u, hu, ht⟩ := takeProbe_of_sent (fun s => flagDomain (tillerQuad n) (tagRec s 0 n 3) s) hp
    exact ⟨_, congrArg Host.Outcome.next ht, u, hu, rfl⟩
  · obtain ⟨u, hu, ht⟩ := takeProbe_of_sent (fun s => flagDomain 0x40 (tagRec s 1 n 3) s) hp
    exact ⟨_, congrArg Host.Outcome.next ht, u, hu, rfl⟩
  · obtain ⟨u, hu, ht⟩ := takeProbe_of_sent (fun s => flagDomain (0x38 + n) (tagRec s 2 n 3) s) hp
    exact ⟨_, congrArg Host.Outcome.next ht, u, hu, rfl⟩

theorem goes_tagProbeTimeout {who n h : Nat} {s : State} (hp : ∃ p ∈ s.rcv.probes, p.who = who ∧ p.unit = n ∧ p.home = h) :
    Goes (.tagProbeTimeout who n h) s (fun t => ∃ u, (∃ l, u = modRcv s (fun r => { r with probes := l }) ∧
      l.length + 1 = s.rcv.probes.length) ∧ t = flagDomain (homeDomain h) (tagRec u who n 3) u) := by
  obtain ⟨u, hu, ht⟩ := takeProbe_of_sent (fun s => flagDomain (homeDomain h) (tagRec s who n 3) s) hp
  exact ⟨_, congrArg Host.Outcome.next ht, u, hu, rfl⟩

/-- Settles O44: a detector at a time, and the probe taken from the list of probes sent. -/
theorem stuckWorkIsFound : Obligations.StuckWorkIsFound := by
  unfold Obligations.StuckWorkIsFound
  refine ⟨?_, fun c pos a s => exec_watchdogReleaseTimeout, fun t ctx u g x s v => exec_progressTimeout,
    fun t rid q p s => exec_tagTimeout_of_tiller, fun n rid y s => exec_tagTimeout_of_copy, fun p gn y l s => exec_tagTimeout_of_collective,
    fun oi g m v s => exec_tagTimeout_of_move, fun who n h s => goes_tagProbeReturn, fun who n h s => goes_tagProbeTimeout⟩
  intro c pos y d s u v hc hy hon hu hv hd
  have hseen : v = watchdogSeen c pos y s := by rw [hv, hu, watchdogSeen]
  rw [hseen] at hd ⊢
  refine ⟨fun h => ?_, fun h => ?_, fun k h hk => ?_⟩
  · exact exec_cmdWatchdog_of_migration hc hy hon (hd.symm.trans h)
  · exact exec_cmdWatchdog_of_rachis hc hy hon (hd.symm.trans h)
  · exact ⟨_, exec_cmdWatchdog_of_engine hc hy hon (hd.symm.trans h) hk, _, rfl, rfl⟩

end Sys2Proof.Detection
end


section
/-! PROOF. Recovery of domains and of the rachis, and the management bus (R391, R428, R434, R437 to R441, R446, R448, R466, R492). -/

open Sys2Proof Sys2Proof.Machine Sys2Proof.Claim Sys2Proof.Channels Sys2Proof.Accesses Sys2Proof.Counters Sys2Proof.RingCmds

namespace Sys2Proof.Recovery

/-! ### Event bits stand -/

theorem bit_or (v w : Word) (n : Nat) : bit (v ||| w) n = (bit v n || bit w n) := by
  simp [bit, BitVec.toNat_or, Nat.testBit_or]

/-- A bit set stands when another is set in the same register. -/
theorem bit_wr_or {a n : Nat} {s : State} (b : Blk) (off : Nat) (w : Word) (h : bit (rdAddr s a) n = true) :
    bit (rdAddr (wr s b off (rd s b off ||| w)) a) n = true := by
  by_cases ha : a = blkBase b + off
  · subst ha
    change bit (rd (wr s b off _) b off) n = true
    rw [rd_wr_same, bit_or]
    exact Bool.or_eq_true_iff.2 (.inl h)
  · rwa [rdAddr_wr_ne _ _ ha]

theorem bit_setEv {a n : Nat} {s : State} (b : Blk) (ev m : Nat) (h : bit (rdAddr s a) n = true) :
    bit (rdAddr (setEv b ev m s) a) n = true := by
  by_cases ha : a = blkBase b + ev
  · subst ha
    change bit (rd (setEv b ev m s) b ev) n = true
    rw [rd_setEv_same, bit_or]
    exact Bool.or_eq_true_iff.2 (.inl h)
  · rwa [rdAddr_setEv_ne _ _ ha]

theorem bit_cntAdd {a n off : Nat} {b : Blk} {s : State} (k : Nat) (ha : a ≠ blkBase b + off) (h : bit (rdAddr s a) n = true) :
    bit (rdAddr (cntAdd b off k s) a) n = true := by
  have hwr : ∀ w, bit (rdAddr (wr s b off w) a) n = true := fun w => by rwa [rdAddr_wr_ne _ _ ha]
  unfold cntAdd
  split
  · exact h
  · dsimp only
    split
    · exact h
    · split
      · exact hwr _
      · split
        · exact hwr _
        · exact bit_setEv _ _ _ (bit_wr_or _ _ _ (hwr _))

/-! ### A takeover -/

/-- The cores of the rachis and the generations of the domains are the same in two states. -/
structure SameCores (s v : State) : Prop where
  active : v.rcv.activeCore = s.rcv.activeCore
  standby : v.rcv.standby = s.rcv.standby
  stopped : v.rcv.stopped = s.rcv.stopped
  gen : ∀ d, (domainAt v d).gen = (domainAt s d).gen

theorem SameCores.trans {s v x : State} (h : SameCores s v) (h' : SameCores v x) : SameCores s x :=
  ⟨h'.active.trans h.active, h'.standby.trans h.standby, h'.stopped.trans h.stopped, fun d => (h'.gen d).trans (h.gen d)⟩

theorem sameCores_refl (s : State) : SameCores s s := ⟨rfl, rfl, rfl, fun _ => rfl⟩

theorem sameCores_of_keeps {T : Touch} {s v : State} (h : Keeps T s v) (hT : T.rcv = false) : SameCores s v := by
  have hr : v.rcv = s.rcv := h.frame.rcv hT
  exact ⟨by rw [hr], by rw [hr], by rw [hr], fun d => by rw [domainAt, hr, domainAt]⟩

theorem sameCores_logRec (r : LogRec) (s : State) : SameCores s (logRec r s) := ⟨rfl, rfl, rfl, fun _ => rfl⟩

theorem regs_logRec (r : LogRec) (s : State) : (logRec r s).regs = s.regs := rfl

theorem sameCores_modDomain {s : State} {d : Nat} {f : Domain → Domain} (hf : ∀ x, (f x).gen = x.gen) : SameCores s (modDomain s d f) := by
  refine ⟨rfl, rfl, rfl, fun e => ?_⟩
  by_cases he : e = d
  · subst he
    rw [domainAt_modDomain_same, hf]
  · rw [domainAt_modDomain_ne _ _ he]

/-- A capture leaves the cores and the generations as they are. -/
theorem sameCores_capture (d trig ch : Nat) (s : State) : SameCores s (capture d trig ch s) := by
  have hkept : ∀ l n, SameCores s (modRcv s (fun r => { r with stooks := l, nextStook := n })) := fun _ _ => ⟨rfl, rfl, rfl, fun _ => rfl⟩
  unfold capture
  dsimp only
  split
  · refine ((((hkept _ _).trans (sameCores_modDomain ?_)).trans (sameCores_of_keeps (keeps_setEv ..) rfl)).trans
      (sameCores_of_keeps (keeps_cntInc ..) rfl)).trans (sameCores_logRec ..)
    exact fun _ => rfl
  · refine (hkept _ _).trans (sameCores_modDomain ?_)
    exact fun _ => rfl

theorem keeps_resetMailboxes (s : State) : Keeps { regs := true, mbxs := true, chans := true, cxl := true, smbOut := true } s (resetMailboxes s) :=
  resetMailboxes_keeps s (Keeps.refl _ _) ⟨rfl, rfl, rfl, rfl, rfl⟩

theorem keeps_startSave (s : State) : Keeps { cxl := true, boot := true } s (startSave s) :=
  startSave_keeps s (Keeps.refl _ _) ⟨rfl, rfl⟩

/-- The takeover as far as the cores change. -/
def coresSwapped (trig : Nat) (s : State) : State :=
  let u := capture 0x48 trig 0 s
  modDomain (modRcv u (fun r => { r with activeCore := 1 - r.activeCore, standby := false, stopped := false, beatUs := u.us })) 0x48
    (fun x => { x with gen := (x.gen + 1) % 2 ^ 16 })

/-- The takeover once its event is counted. -/
def takeoverCounted (trig : Nat) (s : State) : State :=
  cntInc .mon Reg.MON_CNT_TAKEOVER (setEv .mon Reg.MON_RCV_EVENT Bit.MON_RCV_EVENT_TAKEOVER (resetMailboxes (coresSwapped trig s)))

/-- The record of a takeover. -/
def takeoverRec (s : State) : LogRec := { source := 9, cause := 1, severity := 2, domain := 0x48, detail := s.rcv.activeCore }

theorem takeover_of_standby {trig : Nat} {s : State} (h : s.rcv.standby = true) :
    takeover trig s = startSave (logRec (takeoverRec (takeoverCounted trig s)) (takeoverCounted trig s)) := by
  rw [takeover, if_neg (by simp [h])]
  rfl

theorem sameCores_takeover {trig : Nat} {s : State} (h : s.rcv.standby = true) : SameCores (coresSwapped trig s) (takeover trig s) := by
  rw [takeover_of_standby h]
  exact ((((sameCores_of_keeps (keeps_resetMailboxes _) rfl).trans (sameCores_of_keeps (keeps_setEv ..) rfl)).trans
    (sameCores_of_keeps (keeps_cntInc ..) rfl)).trans (sameCores_logRec ..)).trans (sameCores_of_keeps (keeps_startSave _) rfl)

theorem event_takeover {trig : Nat} {s : State} (h : s.rcv.standby = true) :
    bit (rd (takeover trig s) .mon Reg.MON_RCV_EVENT) Bit.MON_RCV_EVENT_TAKEOVER = true := by
  have hset : bit (rdAddr (takeoverCounted trig s) (blkBase .mon + Reg.MON_RCV_EVENT)) Bit.MON_RCV_EVENT_TAKEOVER = true := by
    have hne : blkBase .mon + Reg.MON_RCV_EVENT ≠ blkBase .mon + Reg.MON_CNT_TAKEOVER := by decide
    rw [takeoverCounted, cntInc]
    exact bit_cntAdd 1 hne (Heat.bit_setEv_same _ _ _ (by decide))
  rw [takeover_of_standby h, rd, rdAddr, (keeps_startSave _).frame.regs rfl, regs_logRec]
  exact hset

/-! ### The management bus -/

theorem exec_smbRecover (sq d : Nat) {s : State} (h : smbServed s = true) :
    exec (.smbRecover sq d) s = .next (if isDomain d = false then smbAnswer 6 sq ST_BAD_UNIT [] s
      else if d = 0x48 then takeover 0xB1 (smbAnswer 6 sq ST_OK [] s) else requestReset d (smbAnswer 6 sq ST_OK [] s)) := by
  change execSmbRecover sq d s = _
  rw [execSmbRecover]
  refine (onlyIf_of_true h _ _).trans (congrArg _ ?_)
  cases isDomain d with
  | false => rfl
  | true => rfl

theorem exec_smbLogRead_of_kept {sq i : Nat} {r : LogRec} {s : State} (h : smbServed s = true) (hr : logAt s i = some r) :
    exec (.smbLogRead sq i) s = .next (smbAnswer 9 sq ST_OK (logBytes i r) s) := by
  change execSmbLogRead sq i s = _
  rw [execSmbLogRead]
  refine (onlyIf_of_true h _ _).trans (congrArg _ ?_)
  rw [hr]

theorem exec_smbLogRead_of_gone {sq i : Nat} {s : State} (h : smbServed s = true) (hr : logAt s i = none) :
    exec (.smbLogRead sq i) s = .next (smbAnswer 9 sq ST_BAD_COMMAND [] s) := by
  change execSmbLogRead sq i s = _
  rw [execSmbLogRead]
  refine (onlyIf_of_true h _ _).trans (congrArg _ ?_)
  rw [hr]

/-! ### Reset requests and sequences -/

theorem exec_monRcvReq (w : Word) (s : State) : exec (.monRcvReq w) s = .next (if isDomain (bits w 7 0) = false then s
    else if bits w 7 0 = 0x48 then takeover 0xB1 s else requestReset (bits w 7 0) s) := by
  change execMonRcvReq w s = _
  rw [execMonRcvReq, onlyIf]
  cases isDomain (bits w 7 0) with
  | false => rfl
  | true => rfl

theorem exec_resetStepDone_of_due {d : Nat} {pass : Bool} {q : ResetSeq} {s : State} (hq : (domainAt s d).seq = some q)
    (hmay : stepMayEnd s d q pass = true) (hown : d = 0x7F ∨ (d = 0x7E ∧ (domainAt s 0x7F).seq = none) ∨ deviceReset s = false) :
    exec (.resetStepDone d pass) s = .next (stepEnd d q pass s) := by
  change execResetStepDone d pass s = _
  rw [execResetStepDone, hq]
  refine congrArg _ ((if_neg ?_).trans (if_pos hmay))
  by_cases h7F : d = 0x7F
  · simp [h7F]
  · rw [if_neg h7F]
    rcases hown with h | ⟨h7E, hnone⟩ | hno
    · exact absurd h h7F
    · simp [h7E, hnone]
    · have hnone : (domainAt s 0x7F).seq = none := by
        rw [deviceReset, Bool.or_eq_false_iff] at hno
        exact Option.isSome_eq_false_iff.1 hno.2 |> Option.isNone_iff_eq_none.1
      simp [hnone, hno]

theorem exec_resetStepDone_of_replaced {d : Nat} {pass : Bool} {q : ResetSeq} {s : State} (hq : (domainAt s d).seq = some q)
    (h7E : d ≠ 0x7E) (h7F : d ≠ 0x7F) (hdev : deviceReset s = true) :
    exec (.resetStepDone d pass) s = .next (modDomain s d (fun x => { x with seq := none })) := by
  change execResetStepDone d pass s = _
  rw [execResetStepDone, hq]
  exact congrArg _ (if_pos (by rw [if_neg h7F, if_neg h7E, hdev]))

theorem exec_fenceDrainTimeout {d : Nat} {s : State} (hd : isDomain d = true) (hf : (domainAt s d).fenced = true)
    (hq : ∀ q, (domainAt s d).seq = some q → q.step ≤ 3) : exec (.fenceDrainTimeout d) s = .next (drain d s) := by
  have hall : (domainAt s d).seq.all (fun q => decide (q.step ≤ 3)) = true := by
    cases h : (domainAt s d).seq with
    | none => rfl
    | some q => simpa using hq q h
  change execFenceDrainTimeout d s = _
  rw [execFenceDrainTimeout]
  exact onlyIf_of_true (by rw [hd, hf, hall]; rfl) _ _

theorem exec_stookSaveDone {id : Nat} {w : HostWrite} {s : State} (hw : w ∈ s.cxl.writes) (hwho : w.who = 4) (hpos : w.pos = id) :
    exec (.stookSaveDone id) s = .next (stookSaved id true (modCxl s (fun x => { x with
      writes := x.writes.filter (fun w => !(w.who == 4 && w.pos == id)) }))) := by
  change execStookSaveDone id s = _
  rw [execStookSaveDone]
  exact congrArg _ (if_pos (List.any_eq_true.2 ⟨w, hw, by simp [hwho, hpos]⟩))

/-- Settles O45: the takeover followed step by step, the requests and the ends of a sequence's steps each by their guard. -/
theorem domainsRecover : Obligations.DomainsRecover := by
  unfold Obligations.DomainsRecover
  refine ⟨?_, ?_, ?_, ?_, exec_monRcvReq, fun d pass q s => exec_resetStepDone_of_due, fun d pass q s => exec_resetStepDone_of_replaced,
    fun d s => exec_fenceDrainTimeout, fun id w s => exec_stookSaveDone, ?_, ?_, fun sq d s => exec_smbRecover sq d, ?_,
    fun sq i r s => exec_smbLogRead_of_kept, fun sq i s => exec_smbLogRead_of_gone⟩
  · intro s h
    change execHeartbeatAdvance s = _
    exact onlyIf_of_true h _ _
  · intro s hst hstandby
    have hcores := sameCores_takeover (trig := 0x91) hstandby
    have hcap := sameCores_capture 0x48 0x91 0 s
    have hexec : exec .rachisTakeover s = .next (takeover 0x91 s) := by
      change execRachisTakeover s = _
      exact onlyIf_of_true (by simp [hst]) _ _
    refine ⟨_, hexec, rfl, hcores.active.trans ?_, hcores.standby, hcores.stopped, (hcores.gen 0x48).trans ?_, event_takeover hstandby⟩
    · exact congrArg (1 - ·) hcap.active
    · rw [coresSwapped, domainAt_modDomain_same]
      exact congrArg (fun n => (n + 1) % 2 ^ 16) (hcap.gen 0x48)
  · intro s hst hno
    change execRachisTakeover s = _
    rw [execRachisTakeover]
    refine (onlyIf_of_true (by simp [hst]) _ _).trans (congrArg _ ?_)
    rw [takeover, if_pos (by simp [hno])]
  · intro s hst hno
    have hexec : ∀ ok, exec (.standbyReloadDone ok) s = .next (if ok then modRcv s (fun r => { r with standby := true })
        else logRec { source := 9, cause := 2, severity := 2, domain := 0x48, detail := s.rcv.activeCore }
          (setEv .mon Reg.MON_RCV_EVENT Bit.MON_RCV_EVENT_NO_STANDBY s)) := fun ok => by
      change execStandbyReloadDone ok s = _
      rw [execStandbyReloadDone]
      exact onlyIf_of_true (by simp [hst, hno]) _ _
    exact ⟨hexec true, hexec false⟩
  · intro sq page s h
    change execSmbTelemetry sq page s = _
    exact onlyIf_of_true h _ _
  · intro sq s h
    change execSmbHeartbeat sq s = _
    exact onlyIf_of_true h _ _
  · intro sq s h
    change execSmbDetach sq s = _
    exact onlyIf_of_true h _ _

end Sys2Proof.Recovery
end


section
/-! PROOF. Power capping, thermal levels, voltage dips, rails and the clock (R472, R475 to R477, R480 to R484). -/

open Sys2Proof Sys2Proof.Machine Sys2Proof.Claim Sys2Proof.Channels Sys2Proof.Accesses Sys2Proof.Counters Sys2Proof.Recovery

namespace Sys2Proof.PowerHeat

/-! ### The power state -/

theorem modPower_congr {s : State} {f g : Power → Power} (h : f s.power = g s.power) : modPower s f = modPower s g := by
  rw [modPower, modPower, h]

theorem power_setEv (b : Blk) (ev n : Nat) (s : State) : (setEv b ev n s).power = s.power := (keeps_setEv b ev n s).frame.power rfl

theorem power_cntAdd (b : Blk) (off n : Nat) (s : State) : (cntAdd b off n s).power = s.power := (keeps_cntAdd b off n s).frame.power rfl

theorem power_cntInc (b : Blk) (off : Nat) (s : State) : (cntInc b off s).power = s.power := power_cntAdd b off 1 s

theorem us_setEv (b : Blk) (ev n : Nat) (s : State) : (setEv b ev n s).us = s.us := (keeps_setEv b ev n s).frame.us rfl

theorem us_cntInc (b : Blk) (off : Nat) (s : State) : (cntInc b off s).us = s.us := (keeps_cntInc b off s).frame.us rfl

/-! ### Input power (R476) -/

theorem exec_powerAverage {mw mv cap : Nat} {s u : State} (hgood : s.phys.pwrGood = true)
    (hu : u = cntAdd .pwr Reg.PWR_CNT_ENERGY_MJ ((s.power.energyUj + mw) / 1000)
      (modPower s (fun p => { p with inputMw := mw, vinMv := mv, energyUj := (s.power.energyUj + mw) % 1000 })))
    (hcap : cap = rdField u .pwr Reg.PWR_CTRL 10 0) :
    exec (.powerAverage mw mv) s = .next (
      if cap * 1000 < mw then
        if s.power.capLevel < 4 then setEv .pwr Reg.PWR_EVENT Bit.PWR_EVENT_CAP
          (modPower u (fun p => { p with capLevel := s.power.capLevel + 1, capBelow := 0, capAbove := 0 }))
        else if s.power.capAbove + 1 = 100 then setEv .pwr Reg.PWR_EVENT Bit.PWR_EVENT_CAP_FAIL
          (modPower u (fun p => { p with capAbove := 100, capBelow := 0 }))
        else modPower u (fun p => { p with capAbove := min 100 (s.power.capAbove + 1), capBelow := 0 })
      else if mw < (cap - 50) * 1000 then
        if 10 ≤ s.power.capBelow + 1 then modPower u (fun p => { p with capLevel := s.power.capLevel - 1, capBelow := 0, capAbove := 0 })
        else modPower u (fun p => { p with capBelow := s.power.capBelow + 1, capAbove := 0 })
      else modPower u (fun p => { p with capBelow := 0, capAbove := 0 })) := by
  have hlevel : u.power.capLevel = s.power.capLevel := by rw [hu, power_cntAdd]; rfl
  have habove : u.power.capAbove = s.power.capAbove := by rw [hu, power_cntAdd]; rfl
  have hbelow : u.power.capBelow = s.power.capBelow := by rw [hu, power_cntAdd]; rfl
  change execPowerAverage mw mv s = _
  rw [execPowerAverage]
  refine (onlyIf_of_true hgood _ _).trans (congrArg _ ?_)
  simp only [← hu, ← hcap]
  by_cases h1 : cap * 1000 < mw
  · rw [if_pos h1, if_pos h1]
    by_cases h2 : s.power.capLevel < 4
    · rw [if_pos h2, if_pos h2]
      exact congrArg _ (modPower_congr (by rw [hlevel]))
    · rw [if_neg h2, if_neg h2]
      by_cases h3 : s.power.capAbove + 1 = 100
      · rw [if_pos h3, if_pos h3]
        exact congrArg _ (modPower_congr (by rw [habove, h3]; rfl))
      · rw [if_neg h3, if_neg h3]
        exact modPower_congr (by rw [habove])
  · rw [if_neg h1, if_neg h1]
    by_cases h2 : mw < (cap - 50) * 1000
    · rw [if_pos h2, if_pos h2]
      by_cases h3 : 10 ≤ s.power.capBelow + 1
      · rw [if_pos h3, if_pos h3]
        exact modPower_congr (by rw [hlevel])
      · rw [if_neg h3, if_neg h3]
        exact modPower_congr (by rw [hbelow])
    · rw [if_neg h2, if_neg h2]

/-! ### Die temperatures (R477) -/

/-- The greatest of a list is what is found by taking the greater of each pair. -/
theorem foldl_max_eq {m : Nat} : ∀ {l : List Nat} {b : Nat}, b ≤ m → (∀ x ∈ l, x ≤ m) → b = m ∨ m ∈ l → l.foldl max b = m
  | [], b, _, _, h => by simpa using h
  | x :: l, b, hb, hl, h => by
    have hx : x ≤ m := hl x (List.mem_cons_self ..)
    rw [List.foldl_cons]
    refine foldl_max_eq (max_le hb hx) (fun y hy => hl y (List.mem_cons_of_mem _ hy)) ?_
    rcases h with rfl | h
    · exact .inl (max_eq_left hx)
    · rcases List.mem_cons.1 h with rfl | h
      · exact .inl (max_eq_right hb)
      · exact .inr h

/-- What the die and regulator sensors leave in the power state, with the hottest die at m. -/
def sampled (l rs : List Nat) (m : Nat) (s : State) : State :=
  modPower s (fun p => { p with
    dieTemp := l, tjMax := m, regTemp := if rs.length = 8 then rs.map (min 255) else p.regTemp,
    held := if p.held = some 2 ∧ m ≤ 85 then none else p.held, thermLevel := if 110 ≤ m then 4 else p.thermLevel })

/-- The events of the hottest die at m. -/
def heatEvents (m : Nat) (s : State) : State :=
  let s := if 100 ≤ m then setEv .pwr Reg.PWR_EVENT Bit.PWR_EVENT_THERM s else s
  if 110 ≤ m then setEv .pwr Reg.PWR_EVENT Bit.PWR_EVENT_THERM_HI s else s

theorem exec_dieTempSample {l rs : List Nat} {m : Nat} {s : State} (hlen : l.length = 40) (hl : ∀ x ∈ l, x < 256 ∧ x ≤ m) (hm : m ∈ l) :
    exec (.dieTempSample l rs) s = .next (heatEvents m (sampled l rs m s)) := by
  have hmax : l.foldl max 0 = m := foldl_max_eq (Nat.zero_le m) (fun x hx => (hl x hx).2) (.inr hm)
  change execDieTempSample l rs s = _
  rw [execDieTempSample]
  refine (onlyIf_of_true (by simpa [hlen] using fun x hx => (hl x hx).1) _ _).trans ?_
  rw [hmax]
  rfl

theorem power_heatEvents (m : Nat) (s : State) : (heatEvents m s).power = s.power := by
  unfold heatEvents
  dsimp only
  split
  · split
    · rw [power_setEv, power_setEv]
    · rw [power_setEv]
  · split
    · rw [power_setEv]
    · rfl

theorem bit_heatEvents (m : Nat) (s : State) :
    (100 ≤ m → bit (rd (heatEvents m s) .pwr Reg.PWR_EVENT) Bit.PWR_EVENT_THERM = true) ∧
    (110 ≤ m → bit (rd (heatEvents m s) .pwr Reg.PWR_EVENT) Bit.PWR_EVENT_THERM_HI = true) := by
  have hthermHi : ∀ u, bit (rd (setEv .pwr Reg.PWR_EVENT Bit.PWR_EVENT_THERM_HI u) .pwr Reg.PWR_EVENT) Bit.PWR_EVENT_THERM_HI = true :=
    fun u => Heat.bit_setEv_same _ _ _ (by decide)
  have htherm : bit (rd (setEv .pwr Reg.PWR_EVENT Bit.PWR_EVENT_THERM s) .pwr Reg.PWR_EVENT) Bit.PWR_EVENT_THERM = true :=
    Heat.bit_setEv_same _ _ _ (by decide)
  unfold heatEvents
  refine ⟨fun h => ?_, fun h => ?_⟩
  · simp only [if_pos h]
    split
    · exact bit_setEv .pwr Reg.PWR_EVENT Bit.PWR_EVENT_THERM_HI htherm
    · exact htherm
  · simp only [if_pos h]
    exact hthermHi _

/-! ### Voltage dips (R480 to R482) -/

/-- A dip noted, before the stretch that it starts. -/
def dipNoted (mv : Nat) (s : State) : State := modPower s (fun p => { p with vcoreNow := mv, vcoreMin := min p.vcoreMin mv })

theorem dip_of_stretched {mv : Nat} {s : State} (h : s.power.stretch = true) : dip mv s = dipNoted mv s := by
  rw [dip]
  exact if_pos h

/-- The dips of the last second, with the one at hand. -/
def recentDips (s : State) : List Nat := s.power.dips.filter (fun k => decide (s.us < k + 1000000)) ++ [s.us]

/-- A dip that stretches the clock, counted. -/
def dipCounted (mv : Nat) (s : State) : State :=
  cntInc .pwr Reg.PWR_CNT_DIPS (setEv .pwr Reg.PWR_EVENT Bit.PWR_EVENT_DIP (modPower (dipNoted mv s)
    (fun p => { p with stretch := true, admitPaused := true, dips := recentDips s })))

theorem power_dipCounted (mv : Nat) (s : State) : (dipCounted mv s).power = { s.power with
    vcoreNow := mv, vcoreMin := min s.power.vcoreMin mv, stretch := true, admitPaused := true, dips := recentDips s } := by
  rw [dipCounted, power_cntInc, power_setEv]
  rfl

theorem us_dipCounted (mv : Nat) (s : State) : (dipCounted mv s).us = s.us := by
  rw [dipCounted, us_cntInc, us_setEv]
  rfl

theorem bit_dipCounted (mv : Nat) (s : State) : bit (rd (dipCounted mv s) .pwr Reg.PWR_EVENT) Bit.PWR_EVENT_DIP = true := by
  have hne : blkBase .pwr + Reg.PWR_EVENT ≠ blkBase .pwr + Reg.PWR_CNT_DIPS := by decide
  exact bit_cntAdd 1 hne (Heat.bit_setEv_same _ _ _ (by decide))

/-- The hold that a dip starts, with its event. -/
def holdStarted (s : State) : State :=
  cntInc .pwr Reg.PWR_CNT_HOLDS (setEv .pwr Reg.PWR_EVENT Bit.PWR_EVENT_HOLD
    (modPower s (fun p => { p with hold := true, holdEnd := s.us + 1000000 })))

theorem power_holdStarted (s : State) : (holdStarted s).power = { s.power with hold := true, holdEnd := s.us + 1000000 } := by
  rw [holdStarted, power_cntInc, power_setEv]
  rfl

theorem bit_holdStarted {s : State} (h : bit (rd s .pwr Reg.PWR_EVENT) Bit.PWR_EVENT_DIP = true) :
    bit (rd (holdStarted s) .pwr Reg.PWR_EVENT) Bit.PWR_EVENT_DIP = true := by
  have hne : blkBase .pwr + Reg.PWR_EVENT ≠ blkBase .pwr + Reg.PWR_CNT_HOLDS := by decide
  exact bit_cntAdd 1 hne (bit_setEv .pwr Reg.PWR_EVENT Bit.PWR_EVENT_HOLD h)

theorem dip_of_quiet {mv : Nat} {s : State} (h : s.power.stretch = false) :
    dip mv s = if (dipCounted mv s).power.hold then modPower (dipCounted mv s) (fun p => { p with holdEnd := (dipCounted mv s).us + 1000000 })
      else if 17 ≤ (recentDips s).length then holdStarted (dipCounted mv s) else dipCounted mv s := by
  rw [dip]
  exact if_neg (by simpa using h)

theorem dip_cases {mv : Nat} {s : State} (h : s.power.stretch = false) :
    (s.power.hold = true ∧ dip mv s = modPower (dipCounted mv s) (fun p => { p with holdEnd := s.us + 1000000 })) ∨
    (s.power.hold = false ∧ 17 ≤ (recentDips s).length ∧ dip mv s = holdStarted (dipCounted mv s)) ∨
    (s.power.hold = false ∧ (recentDips s).length < 17 ∧ dip mv s = dipCounted mv s) := by
  have hpower := power_dipCounted mv s
  have hus := us_dipCounted mv s
  rw [dip_of_quiet h, hpower, hus]
  cases hhold : s.power.hold with
  | true => exact .inl ⟨rfl, if_pos rfl⟩
  | false =>
    by_cases h17 : 17 ≤ (recentDips s).length
    · exact .inr (.inl ⟨rfl, h17, (if_neg Bool.false_ne_true).trans (if_pos h17)⟩)
    · exact .inr (.inr ⟨rfl, Nat.not_le.1 h17, (if_neg Bool.false_ne_true).trans (if_neg h17)⟩)

/-- A dip that stretches the clock: what it leaves in the power state. -/
theorem power_dip_of_quiet {mv : Nat} {s : State} (h : s.power.stretch = false) :
    ∃ e, (dip mv s).power = { s.power with
      vcoreNow := mv, vcoreMin := min s.power.vcoreMin mv, stretch := true, admitPaused := true, dips := recentDips s
      hold := s.power.hold || decide (17 ≤ (recentDips s).length), holdEnd := e } ∧
      ((s.power.hold || decide (17 ≤ (recentDips s).length)) = true → e = s.us + 1000000) := by
  have hpower := power_dipCounted mv s
  rcases dip_cases (mv := mv) h with ⟨hh, hd⟩ | ⟨hh, h17, hd⟩ | ⟨hh, h17, hd⟩
  · refine ⟨s.us + 1000000, ?_, fun _ => rfl⟩
    rw [hd, modPower, hpower, hh, Bool.true_or, ← hh]
  · refine ⟨s.us + 1000000, ?_, fun _ => rfl⟩
    rw [hd, power_holdStarted, hpower, us_dipCounted, hh, decide_eq_true h17, Bool.false_or]
  · refine ⟨s.power.holdEnd, ?_, ?_⟩
    · rw [hd, hpower, hh, decide_eq_false (Nat.not_le.2 h17), Bool.false_or, ← hh]
    · simp [hh, Nat.not_le.2 h17]

theorem bit_dip_of_quiet {mv : Nat} {s : State} (h : s.power.stretch = false) :
    bit (rd (dip mv s) .pwr Reg.PWR_EVENT) Bit.PWR_EVENT_DIP = true := by
  rcases dip_cases (mv := mv) h with ⟨-, hd⟩ | ⟨-, -, hd⟩ | ⟨-, -, hd⟩
  · rw [hd]
    exact bit_dipCounted mv s
  · rw [hd]
    exact bit_holdStarted (bit_dipCounted mv s)
  · rw [hd]
    exact bit_dipCounted mv s

theorem exec_vcoreDip {site mv : Nat} {s : State} (hsite : site < 42) (hmv : mv < 7125) (hgood : s.phys.pwrGood = true) :
    exec (.vcoreDip site mv) s = .next (dip mv s) := by
  change execVcoreDip site mv s = _
  rw [execVcoreDip, atUnit_of_lt hsite]
  exact onlyIf_of_true (by simp [hmv, powered, hgood]) _ _

theorem exec_vcoreResetLevel {site mv : Nat} {s u : State} (hsite : site < 42) (hmv : mv < 6750) (hgood : s.phys.pwrGood = true)
    (hu : u = dip mv s) :
    exec (.vcoreResetLevel site mv) s = .next ((siteDomains site).foldl (fun s d => if domainDown s d then s else fenceDomain d 0xA1 0 s)
      (setEv .pwr Reg.PWR_EVENT Bit.PWR_EVENT_RAIL_RESET (logRec {
        source := 0xA, cause := 1, severity := 3, domain := (siteDomains site).headD 0xFF, detail := railDetail 0 site mv u.power.tjMax } u))) := by
  subst hu
  change execVcoreResetLevel site mv s = _
  rw [execVcoreResetLevel, atUnit_of_lt hsite]
  exact onlyIf_of_true (by simp [hmv, powered, hgood]) _ _

/-! ### Resets -/

theorem exec_thermalShutdown {k : Nat} {s : State} (hk : k < 40) (hhot : 115 ≤ s.power.dieTemp.getD k 0) (hheld : s.power.held = none) :
    exec (.thermalShutdown k) s = .next (coldReset 0xA1 (modPower s (fun p => { p with
      held := some 2, railRec := some (railDetail 2 k 0 p.tjMax) }))) := by
  change execThermalShutdown k s = _
  rw [execThermalShutdown]
  exact onlyIf_of_true (by rw [decide_eq_true hk, decide_eq_true hhot, hheld]; rfl) _ _

theorem exec_railResetOther {rail mv : Nat} {s : State} (hlo : 1 ≤ rail) (hhi : rail ≤ 12) (hgood : s.phys.pwrGood = true) :
    exec (.railResetOther rail mv) s = .next (coldReset 0xA1 (modPower s (fun p => { p with
      railRec := some (railDetail 1 rail mv p.tjMax) }))) := by
  change execRailResetOther rail mv s = _
  rw [execRailResetOther]
  exact onlyIf_of_true (by simp [hlo, hhi, powered, hgood]) _ _

theorem exec_clockLoss {s : State} (h : s.power.held ≠ some 3) :
    exec .clockLoss s = .next (coldReset 0xA1 (modPower s (fun p => { p with
      held := some 3, railRec := some (railDetail 3 0 0 p.tjMax) }))) := by
  change execClockLoss s = _
  rw [execClockLoss]
  exact onlyIf_of_true (by simp [h]) _ _

/-- Settles O46: the power manager's choices as they are taken, and the power state after the sensors and after a dip. -/
theorem powerAndHeatAreManaged : Obligations.PowerAndHeatAreManaged := by
  unfold Obligations.PowerAndHeatAreManaged
  refine ⟨fun mw mv cap s u => exec_powerAverage, ?_, fun _ => rfl, fun k s => exec_thermalShutdown, fun _ => rfl, ?_, ?_, ?_, ?_,
    fun site mv s u => exec_vcoreResetLevel, fun rail mv s => exec_railResetOther, fun s => exec_clockLoss, ?_⟩
  · intro l rs m s hlen hl hm
    obtain ⟨htherm, hthermHi⟩ := bit_heatEvents m (sampled l rs m s)
    refine ⟨_, exec_dieTempSample hlen hl hm, ?_⟩
    beta_reduce
    rw [power_heatEvents]
    exact ⟨rfl, rfl, rfl, rfl, fun hheld hcool => if_pos ⟨hheld, hcool⟩, htherm, hthermHi⟩
  · intro site mv s hsite hmv hgood hquiet
    obtain ⟨e, hpower, he⟩ := power_dip_of_quiet (mv := mv) hquiet
    refine ⟨_, exec_vcoreDip hsite hmv hgood, ?_⟩
    beta_reduce
    rw [hpower]
    exact ⟨rfl, rfl, rfl, rfl, rfl, rfl, he, bit_dip_of_quiet hquiet⟩
  · exact fun site mv s hsite hmv hgood hst => (exec_vcoreDip hsite hmv hgood).trans (congrArg _ (dip_of_stretched hst))
  · intro s hst
    change execStretchEnd s = _
    exact onlyIf_of_true hst _ _
  · intro s hh
    change execDipHoldEnd s = _
    exact onlyIf_of_true hh _ _
  · intro s hh
    change execClockRestored s = _
    rw [execClockRestored]
    exact onlyIf_of_true (by simp [hh]) _ _

end Sys2Proof.PowerHeat
end


section
/-! PROOF. Writes of registers through BAR0, of counters, of MIN_RESET and of LS_LOAD (R10, R12, R164, R487, R489, R493). -/

open Sys2Proof Sys2Proof.Machine Sys2Proof.Claim Sys2Proof.Channels

namespace Sys2Proof.RegWrites

/-! ### Bits of what a write stores -/

theorem bit_word {v n : Nat} (hn : n < 64) : bit (word v) n = v.testBit n := by
  rw [bit, word, BitVec.toNat_ofNat, Nat.testBit_mod_two_pow, decide_eq_true hn, Bool.true_and]

theorem testBit_allBits_sub {m n : Nat} (hm : m < 2 ^ 64) (hn : n < 64) : (allBits - m).testBit n = !m.testBit n := by
  have h : allBits - m = 2 ^ 64 - (m + 1) := by
    rw [allBits]
    omega
  rw [h, Nat.testBit_two_pow_sub_succ hm, decide_eq_true hn, Bool.true_and]

/-- The stored bit of a write, of the bits that make it: the field's codes, the event, the data, the mask and the old bit. -/
theorem bitAfterWrite_eq : ∀ old rw mask data w1c ev : Bool,
    ((old && !(rw && mask) || data && (rw && mask)) && !((data && mask) && w1c) || ev && w1c) =
      (if w1c = true ∧ ev = true then true else if w1c = true ∧ data = true ∧ mask = true then false
        else if rw = true ∧ mask = true then data else old) := by
  decide

/-- A bit of a register after a write, by the access codes of its field and by the events of the cycle (R10, R12). -/
theorem bit_regWrite {b : Blk} {r : RegDef} {mask data ev n : Nat} {s : State} (hmask : mask < 2 ^ 64) (hn : n < 64)
    (hclamp : ∀ w, storeClamp b r.off w = w) :
    bit (rd (regWrite b r mask data ev s) b r.off) n =
      if r.w1c.testBit n = true ∧ ev.testBit n = true then true
      else if r.w1c.testBit n = true ∧ data.testBit n = true ∧ mask.testBit n = true then false
      else if r.rw.testBit n = true ∧ mask.testBit n = true then data.testBit n else bit (rd s b r.off) n := by
  have hm : r.rw &&& mask < 2 ^ 64 := Nat.and_lt_two_pow _ hmask
  have hc : data &&& mask &&& r.w1c < 2 ^ 64 := (Nat.and_le_left ..).trans_lt (Nat.and_lt_two_pow _ hmask)
  rw [regWrite, rd_wr_same, hclamp, bit_word hn]
  simp only [Nat.testBit_or, Nat.testBit_and, testBit_allBits_sub hm hn, testBit_allBits_sub hc hn]
  exact bitAfterWrite_eq ..

/-! ### Writes by address -/

theorem exec_registerWrite {addr size off data mask : Nat} {x : RegData} {b : Blk} {r : RegDef} {s : State} (hsize : size = 8 ∨ size = 4)
    (halign : addr % size = 0) (hmsix : ¬ (0x170000 ≤ addr ∧ addr < 0x178000)) (hb : blkOf (addr / 8 * 8) = some (b, off))
    (hr : regDef b off = some r) (hcnt : r.cnt = 0) (hspan : size = 8 ∨ spanning b r = false) (hfence : blkFenced s b = false)
    (hopen : bar0Writes s b = true) (hdl : ¬ (b = .boot ∧ 0x1000 ≤ off ∧ off < 0x2000))
    (hchn : ∀ c, b = .chn c → (chanAt s c).live = true ∧ off ≠ Reg.CHN_CPL_HEAD)
    (hdata : data = (if size = 8 then x.w.toNat else (x.w.toNat % 2 ^ 32) <<< (addr % 8 * 8)))
    (hmask : mask = (if size = 8 then 2 ^ 64 - 1 else (2 ^ 32 - 1) <<< (addr % 8 * 8))) :
    exec (.registerWrite addr size x) s = .next (regActs b off (data &&& mask) (regWrite b r mask data x.ev.toNat s)) := by
  have hwindow : ¬ (0x170000 ≤ addr / 8 * 8 ∧ addr / 8 * 8 < 0x178000) := by omega
  have hat : regWriteAt b off mask data size x.ev.toNat s = regWrite b r mask data x.ev.toNat s := by
    rw [regWriteAt, hr]
    exact if_neg (by rcases hspan with h | h <;> simp [hcnt, h])
  change execRegisterWrite addr size x s = _
  rw [execRegisterWrite, if_neg (by rcases hsize with rfl | rfl <;> simp [halign])]
  refine congrArg _ ?_
  simp only [allBits, ← hdata, ← hmask]
  rw [if_neg hwindow, hb]
  refine (if_neg (by simp [hfence, hopen])).trans ((if_neg (by simpa using hdl)).trans ?_)
  cases b with
  | chn c =>
    obtain ⟨hlive, hoff⟩ := hchn c rfl
    exact (if_neg (by simp [hlive])).trans ((if_neg hoff).trans (by rw [hat]))
  | _ => exact congrArg (regActs _ off (data &&& mask)) hat

theorem exec_counterClear {addr size off inc : Nat} {w : Word} {b : Blk} {r : RegDef} {s : State} (hb : blkOf addr = some (b, off))
    (hr : regDef b off = some r) (hcnt : r.cnt ≠ 0) (hsize : size = 8 ∨ (size = 4 ∧ r.cnt = 32)) (hfence : blkFenced s b = false)
    (hopen : bar0Writes s b = true) :
    exec (.counterClear addr size w inc) s = .next (if w = 0 then cntAdd b off inc (wr s b off 0) else s) := by
  have hok : (size == 8 || (size == 4 && r.cnt == 32)) = true := by simpa using hsize
  change execCounterClear addr size w inc s = _
  rw [execCounterClear, hb]
  dsimp only
  rw [hr]
  dsimp only
  rw [hok]
  by_cases hw : w = 0
  · rw [if_pos hw]
    exact congrArg _ (if_neg (by simp [hcnt, hw, hfence, hopen]))
  · rw [if_neg hw]
    exact congrArg _ (if_pos (by rw [bne_iff_ne.2 hw, Bool.or_true]; rfl))

theorem exec_lsLoad {c : Nat} {w : Word} {s : State} (hc : c < 4096) (hbit : bit w 24 = true) (hlive : (chanAt s c).live = true)
    (hopen : bar0Writes s (.chn c) = true) :
    exec (.lsLoad c w) s = .next (modTrn (regWriteAt (.chn c) Reg.CHN_NUM_CTRL allBits w.toNat 8 0 s) c (fun k => { k with lsLoad := true })) := by
  change execLsLoad c w s = _
  rw [execLsLoad, atUnit_of_lt hc]
  exact onlyIf_of_true (by simp [hbit, hlive, hopen]) _ _

/-- Settles O47: the guards of a write met one after another, and the stored word bit by bit. -/
theorem registerWritesFollowTheirCodes : Obligations.RegisterWritesFollowTheirCodes := by
  unfold Obligations.RegisterWritesFollowTheirCodes
  refine ⟨fun addr size off data mask x b r s => exec_registerWrite, fun b r mask data ev n s => bit_regWrite,
    fun addr size off inc w b r s => exec_counterClear, ?_, ?_⟩
  · intro w s hbit hopen
    change execVcoreMinReset w s = _
    rw [execVcoreMinReset]
    exact onlyIf_of_true (by rw [hbit, hopen]; rfl) _ _
  · intro c w s hc hbit hlive hopen
    refine ⟨_, exec_lsLoad hc hbit hlive hopen, ?_, rfl⟩
    rw [chanAt_modTrn_same]

end Sys2Proof.RegWrites
end


section
/-! PROOF. The module's supply: its pins, its input and its rails (R447, R466, R528 to R534). -/

open Sys2Proof Sys2Proof.Machine Sys2Proof.Claim Sys2Proof.Channels

namespace Sys2Proof.Supply

theorem pwrGood_setGood (s : State) :
    (setGood s).phys.pwrGood = (powerEnabled (setGood s).phys && (setGood s).phys.railsOut.isEmpty) := rfl

/-- Power down leaves the pins as they are. -/
theorem aon_supply (f : Physical → Physical) (s : State) : (supply f s).phys.aon = (f s.phys).aon := by
  unfold supply
  dsimp only
  split
  · rfl
  · split
    · rfl
    · rfl

/-- What the loss of the standby rails leaves of the log, the stooks and the flash. -/
def standbyLost (s : State) : State :=
  modBoot (modRcv s (fun r => { r with
    log := s.boot.logFlash, logTail := s.boot.logFlash.foldl (fun a p => max a (p.1 + 1)) 0, stooks := [] })) (fun b => { b with ops := [] })

/-- The standby rails lost: the log goes on from its flash copy, and no stook and no flash operation is left. -/
theorem exec_aonLoss {s : State} (h : s.phys.aon = true) :
    Goes .aonLoss s (fun t => t.rcv.log = (supply (fun p => { p with aon := false, undervolt := false, overvolt := false }) s).boot.logFlash ∧
      t.rcv.stooks = [] ∧ t.boot.ops = [] ∧ t.phys.aon = false ∧ t.phys.pwrGood = false) := by
  have haon := aon_supply (fun p => { p with aon := false, undervolt := false, overvolt := false }) s
  have hexec : exec .aonLoss s = .next (standbyLost (supply (fun p => { p with aon := false, undervolt := false, overvolt := false }) s)) := by
    change execAonLoss s = _
    rw [execAonLoss]
    exact onlyIf_of_true h _ _
  have hgood : (supply (fun p => { p with aon := false, undervolt := false, overvolt := false }) s).phys.pwrGood = false := by
    rw [supply, pwrGood_setGood, ← supply, powerEnabled, haon]
    simp
  exact ⟨_, hexec, rfl, rfl, rfl, haon, hgood⟩

theorem goes_railOutOfBand {rail : Nat} {out : Bool} {s : State} (h : rail < 13) :
    Goes (.railOutOfBand rail out) s (fun t => (rail ∈ t.phys.railsOut ↔ out = true) ∧
      (∀ k, k ≠ rail → (k ∈ t.phys.railsOut ↔ k ∈ s.phys.railsOut)) ∧
      t.phys.pwrGood = (powerEnabled s.phys && t.phys.railsOut.isEmpty) ∧ t = { s with phys := t.phys }) := by
  have hexec : exec (.railOutOfBand rail out) s = .next (setGood (modPhys s (fun p => { p with
      railsOut := p.railsOut.filter (· != rail) ++ (if out then [rail] else []) }))) := by
    change execRailOutOfBand rail out s = _
    rw [execRailOutOfBand, atUnit_of_lt h]
  refine ⟨_, hexec, ?_, ?_, rfl, rfl⟩
  · change rail ∈ s.phys.railsOut.filter (· != rail) ++ (if out then [rail] else []) ↔ _
    cases out with
    | false => simp
    | true => simp
  · intro k hk
    change k ∈ s.phys.railsOut.filter (· != rail) ++ (if out then [rail] else []) ↔ _
    cases out with
    | false => simp [hk]
    | true => simp [hk]

/-- Settles O48: the guard of each event met; PWR_GOOD is what a change of the pins or of the input leaves last. -/
theorem theSupplyRules : Obligations.TheSupplyRules := by
  unfold Obligations.TheSupplyRules
  refine ⟨?_, ?_, ?_, ?_, ?_, ?_, ?_, ?_, fun s => exec_aonLoss, ?_, fun rail out s => goes_railOutOfBand, fun f s => pwrGood_setGood _⟩
  · intro us s hen hlo hhi
    change execModRstPulse us s = _
    rw [execModRstPulse]
    exact onlyIf_of_true (by simp [hen, hlo, hhi]) _ _
  · intro s hen
    have hexec : ∀ released, exec (.modRstLong released) s = .next (if released then modPhys s (fun p => { p with modRstHeld := false })
        else coldReset 0xB1 (modPhys s (fun p => { p with modRstHeld := true }))) := fun released => by
      change execModRstLong released s = _
      exact onlyIf_of_true hen _ _
    exact ⟨hexec false, hexec true⟩
  · intro addr s h
    change execPwrEnRise addr s = _
    rw [execPwrEnRise]
    exact onlyIf_of_true (by simp [h]) _ _
  · intro s h
    change execPwrEnFall s = _
    exact onlyIf_of_true h _ _
  · intro s h
    change execInputUndervolt s = _
    exact onlyIf_of_true h _ _
  · intro s h hu
    change execUndervoltEnd s = _
    rw [execUndervoltEnd]
    exact onlyIf_of_true (by simp [h, hu]) _ _
  · intro s h
    change execInputOvervolt s = _
    exact onlyIf_of_true h _ _
  · intro s h
    change execInputRestored s = _
    exact onlyIf_of_true h _ _
  · intro s h
    change execInputApplied s = _
    rw [execInputApplied]
    exact onlyIf_of_true (by simp [h]) _ _

end Sys2Proof.Supply
end


section
/-! PROOF. Firmware downloads, settings and key slots: the host's commands (R502 to R505, R509, R512, R519). -/

open Sys2Proof Sys2Proof.Machine Sys2Proof.Claim Sys2Proof.Channels Sys2Proof.RingCmds

namespace Sys2Proof.Firmware

/-! ### Commands that stay pending -/

/-- A command with room to stay pending goes on from the state in which it is (R402). -/
theorem servePending_of_room {src : CmdSrc} {e : Entry} {s : State} (h : PendRoom src (begun src e s)) (f : State → State) :
    servePending (cmdOf s src e) (begun src e s) f = f (pendIn src e s) := by
  cases src with
  | mbx m => exact if_neg (by simp [h m rfl])
  | ring c => rfl
  | smb => rfl

theorem boot_pendIn (src : CmdSrc) (e : Entry) (s : State) : (pendIn src e s).boot = (begun src e s).boot := by
  cases src with
  | mbx m =>
    exact (mbxPending_keeps (T := { regs := true, mbxs := true, chans := true, cxl := true }) m _ _ (Keeps.refl _ _)
      ⟨rfl, rfl, rfl, rfl⟩).frame.boot rfl
  | ring c => rfl
  | smb => rfl

/-! ### Downloads (R502, R503) -/

section
variable {src : CmdSrc} {e : Entry} {s b : State}

theorem exec_fwBegin {n : Nat} (h : Taken 0x60 src e s) (hb : b = begun src e s) (hn : n = bits e.a0 31 0) (hok : imgBytesOk n = true)
    (hst : b.boot.stagingSt ≠ 3) (hact : b.boot.activeSt ≠ 2) (hroom : PendRoom src b) :
    exec (.fwBegin src e) s = .next (beginDownload n (pendIn src e s)) := by
  subst hn hb
  change execFwBegin src e s = _
  rw [execFwBegin, serve_of_taken h]
  refine congrArg _ ((if_neg (by simp [hok])).trans ((if_neg (by simp [hst, hact])).trans ?_))
  exact servePending_of_room hroom _

theorem ends_fwBegin_of_bytes (h : Taken 0x60 src e s) (hb : b = begun src e s) (hbad : imgBytesOk (bits e.a0 31 0) = false) :
    Ends (.fwBegin src e) src e s ST_BAD_COMMAND [] b := by
  subst hb
  change execFwBegin src e s = _
  exact serve_eq_answer h (if_pos (by simp [hbad]))

theorem ends_fwBegin_of_busy (h : Taken 0x60 src e s) (hb : b = begun src e s) (hok : imgBytesOk (bits e.a0 31 0) = true)
    (hbusy : b.boot.stagingSt = 3 ∨ b.boot.activeSt = 2) : Ends (.fwBegin src e) src e s ST_BUSY [] b := by
  subst hb
  change execFwBegin src e s = _
  exact serve_eq_answer h ((if_neg (by simp [hok])).trans (if_pos hbusy))

/-- A block of the program queue taken (R503). -/
theorem ends_fwBlock {r : Nat × State} (h : Taken 0x61 src e s) (hr : offerBlock e.a0.toNat (bits e.a1 31 0) (begun src e s) = r) :
    Ends (.fwBlock src e) src e s r.1 [] r.2 := by
  subst hr
  change execFwBlock src e s = _
  exact serve_eq_answer h rfl

theorem offerBlock_of_good {off crc : Nat} (hst : b.boot.stagingSt = 1) (hal : off % 4096 = 0) (hlt : off < b.boot.staging.len)
    (hcrc : crc32c b.boot.dlBuffer = crc) (hnew : b.boot.staging.blocks.contains (off / 4096) = false)
    (hroom : (b.boot.ops.filter (fun o => o.kind == 5)).length < 64) :
    offerBlock off crc b = (ST_OK, modBoot b (fun b => { b with
      staging := { b.staging with
        blocks := b.staging.blocks ++ [off / 4096], bytes := smWriteRun zeroByte b.staging.bytes off b.dlBuffer },
      ops := b.ops ++ [{ prio := 4, kind := 5, arg := off / 4096, pages := 1 }] })) := by
  rw [offerBlock]
  refine (if_neg (by simp [hst, hal, hcrc, hlt])).trans ((if_neg (by rw [hnew]; exact Bool.false_ne_true)).trans (if_neg (Nat.not_le.2 hroom)))

theorem offerBlock_of_bad {off crc : Nat}
    (hbad : b.boot.stagingSt ≠ 1 ∨ off % 4096 ≠ 0 ∨ b.boot.staging.len ≤ off ∨ crc32c b.boot.dlBuffer ≠ crc) :
    offerBlock off crc b = (ST_BAD_COMMAND, b) := by
  rw [offerBlock]
  exact if_pos hbad

/-! ### Staged images (R504, R505, R509) -/

theorem exec_fwVerify (h : Taken 0x62 src e s) (hroom : PendRoom src (begun src e s)) :
    exec (.fwVerify src e) s = .next (runVerify (pendIn src e s)) := by
  change execFwVerify src e s = _
  rw [execFwVerify, serve_of_taken h]
  exact congrArg _ (servePending_of_room hroom _)

theorem exec_fwActivate {r : Nat} {t : State} (h : Taken 0x63 src e s) (hb : b = pendIn src e s) (hroom : PendRoom src (begun src e s))
    (hst : b.boot.stagingSt = 2) (hv : verifyStaging b = (r, t)) (hlive : bit e.a0 0 = true → b.boot.settings.liveUpdate = true) :
    exec (.fwActivate src e) s = .next (if r ≠ 0 then finishAsync (cmdOf s src e) ST_NO_ACCESS [word r, word t.boot.fwVersion] t
      else if bit e.a0 0 then modRcv (modBoot (setStaging 3 b) (fun b => { b with handover := true })) (fun r => { r with standby := false })
      else finishAsync (cmdOf s src e) ST_OK [0, word (setStaging 3 b).boot.fwVersion] (setStaging 3 b)) := by
  have hst' : (begun src e s).boot.stagingSt = 2 := by rw [← boot_pendIn, ← hb, hst]
  change execFwActivate src e s = _
  rw [execFwActivate, serve_of_taken h]
  refine congrArg _ ((if_neg (by simp [hst'])).trans ((servePending_of_room hroom _).trans ?_))
  rw [← hb]
  simp only [hv]
  by_cases hr : r = 0
  · exact (if_neg (not_not.2 hr)).trans ((if_neg (by simpa using hlive)).trans (if_neg (not_not.2 hr)).symm)
  · rw [if_pos hr, if_pos hr]

theorem ends_fwActivate_of_unstaged (h : Taken 0x63 src e s) (hb : b = begun src e s) (hst : b.boot.stagingSt ≠ 2) :
    Ends (.fwActivate src e) src e s ST_BUSY [] b := by
  subst hb
  change execFwActivate src e s = _
  exact serve_eq_answer h (if_pos hst)

theorem ends_fwAbort (h : Taken 0x64 src e s) (hb : b = begun src e s) :
    (b.boot.stagingSt = 3 → Ends (.fwAbort src e) src e s ST_BUSY [] b) ∧ (b.boot.stagingSt = 0 → Ends (.fwAbort src e) src e s ST_OK [] b) ∧
    (b.boot.stagingSt ≠ 3 → b.boot.stagingSt ≠ 0 → Ends (.fwAbort src e) src e s ST_OK [] (runVerify (setStaging 0 (modBoot b (fun b => { b with
      staging := {}, stagingVersion := 0, stagingSvn := 0, ops := b.ops.filter (fun o => o.kind != 5) }))))) := by
  subst hb
  refine ⟨fun h3 => ?_, fun h0 => ?_, fun h3 h0 => ?_⟩
  · change execFwAbort src e s = _
    exact serve_eq_answer h (if_pos h3)
  · change execFwAbort src e s = _
    exact serve_eq_answer h ((if_neg (by simp [h0])).trans (if_pos h0))
  · change execFwAbort src e s = _
    exact serve_eq_answer h ((if_neg h3).trans (if_neg h0))

/-! ### Key slots (R519) -/

theorem ends_keyLoad (h : Taken 0x6C src e s) (hb : b = begun src e s) (hide : b.cxl.ideIo = true)
    (hfree : keyNamed b (bits e.a0 7 0) = false) :
    Ends (.keyLoad src e) src e s ST_OK [] (modBoot b (fun x => { x with
      keys := smInsert (bits e.a0 7 0) { filled := true, owner := e.handle, key := x.dlBuffer.take 64 } x.keys,
      dlBuffer := List.replicate 4096 0 })) := by
  subst hb
  change execKeyLoad src e s = _
  exact serve_eq_answer h ((if_neg (by simp [hide])).trans (if_neg (by simp [hfree])))

theorem ends_keyLoad_of_plain (h : Taken 0x6C src e s) (hb : b = begun src e s) (hide : b.cxl.ideIo = false) :
    Ends (.keyLoad src e) src e s ST_NO_ACCESS [] b := by
  subst hb
  change execKeyLoad src e s = _
  exact serve_eq_answer h (if_pos (by simp [hide]))

theorem ends_keyClear (h : Taken 0x6D src e s) (hb : b = begun src e s) : if keyNamed b (bits e.a0 7 0) = true then
      Ends (.keyClear src e) src e s ST_BUSY [] b
    else Ends (.keyClear src e) src e s ST_OK [] (modBoot b (fun x => { x with keys := smErase (bits e.a0 7 0) x.keys })) := by
  subst hb
  split
  · next hnamed =>
    change execKeyClear src e s = _
    exact serve_eq_answer h (if_pos hnamed)
  · next hfree =>
    change execKeyClear src e s = _
    exact serve_eq_answer h (if_neg hfree)

end

/-- Settles O49: the branch of each command that the clause's hypotheses select. -/
theorem firmwareCommandsAct : Obligations.FirmwareCommandsAct := by
  unfold Obligations.FirmwareCommandsAct
  refine ⟨fun src n e s b => exec_fwBegin, fun src e s b => ends_fwBegin_of_bytes, fun src e s b => ends_fwBegin_of_busy, ?_, ?_,
    fun src e s => exec_fwVerify, fun src r e s b t => exec_fwActivate, fun src e s b => ends_fwActivate_of_unstaged,
    fun src e s b => ends_fwAbort, ?_, ?_, ?_, fun src e s b => ends_keyLoad, fun src e s b => ends_keyLoad_of_plain,
    fun src e s b => ends_keyClear⟩
  · rintro src e s b off h rfl rfl hst hal hlt hcrc hnew hroom
    exact ends_fwBlock h (offerBlock_of_good hst hal hlt hcrc hnew hroom)
  · rintro src e s b h rfl hbad
    exact ends_fwBlock h (offerBlock_of_bad hbad)
  · rintro src e s b h rfl
    change execFwStatus src e s = _
    exact serve_eq_answer h rfl
  · rintro src e s b c h rfl rfl
    change execSettingsGet src e s = _
    exact serve_eq_answer h rfl
  · rintro src e s b c h rfl rfl
    change execSettingsSet src e s = _
    exact serve_eq_answer h rfl

end Sys2Proof.Firmware
end


section
/-! PROOF. Starts, flash operations, the commit, the handover and recovery mode (R496, R497, R500, R501, R506 to R510, R515). -/

open Sys2Proof Sys2Proof.Machine Sys2Proof.Claim Sys2Proof.Channels Sys2Proof.Accesses Sys2Proof.Recovery

namespace Sys2Proof.Starts

/-! ### The boot chain (R500, R501) -/

/-- The state with the slots as the directory in use says. -/
def withDirectory (s : State) : State :=
  modBoot s (fun b => { b with
    activeSt := (dirInUse s.boot).active, stagingSt := (dirInUse s.boot).staging, stagingVersion := (dirInUse s.boot).version,
    stagingSvn := (dirInUse s.boot).svn })

/-- The choice of the chain between the slots, as they are found. -/
def startFromSlots (d : Nat) (ib stagingOk activeOk : Bool) (u : State) : State :=
  if u.boot.stagingSt = 3 ∧ stagingOk then startImage u.boot.staging true ib d u
  else
    let s := if u.boot.stagingSt = 3 then verifyFailed u else u
    if activeOk then startImage u.boot.active false ib d s
    else
      let s := if u.boot.activeSt = 1 ∨ u.boot.activeSt = 2 then
          verifyFailed (setEv .boot Reg.BOOT_EVENT Bit.BOOT_EVENT_SLOT_FALLBACK s) else s
      if u.boot.stagingSt = 2 ∧ stagingOk then
        startImage u.boot.staging true ib d (modBoot s (fun b => { b with stagingSt := 3 }))
      else enterRecovery d s

section
variable {d : Nat} {ab sb ib strap : Bool} {s u : State} (h0 : s.boot.stage = 0) (hd : bootDomain s = some d) (hu : u = withDirectory s)
include h0 hd hu

theorem exec_bootChain_of_strap (hstrap : (strap && !s.boot.ignoreStrap) = true) :
    exec (.bootChain strap ab sb ib) s = .next (enterRecovery d u) := by
  subst hu
  change execBootChain strap ab sb ib s = _
  rw [execBootChain, if_pos h0, hd]
  exact congrArg _ (if_pos hstrap)

/-- Without the strap the chain tries the slots. -/
theorem exec_bootChain_of_slots (hstrap : (strap && !s.boot.ignoreStrap) = false) :
    exec (.bootChain strap ab sb ib) s = .next (startFromSlots d ib (!sb && verifyImage u u.boot.staging == 0)
      (u.boot.activeSt == 1 && !ab && verifyImage u u.boot.active == 0) u) := by
  subst hu
  change execBootChain strap ab sb ib s = _
  rw [execBootChain, if_pos h0, hd]
  exact congrArg _ (if_neg (ne_true_of_eq_false hstrap))

end

theorem startFromSlots_of_staged {d : Nat} {ib activeOk : Bool} {u : State} (hst : u.boot.stagingSt = 3) :
    startFromSlots d ib true activeOk u = startImage u.boot.staging true ib d u := if_pos ⟨hst, rfl⟩

theorem startFromSlots_of_active {d : Nat} {ib stagingOk : Bool} {u : State} (hst : u.boot.stagingSt ≠ 3) :
    startFromSlots d ib stagingOk true u = startImage u.boot.active false ib d u := by
  rw [startFromSlots, if_neg (fun h => hst h.1), if_neg hst]
  exact if_pos rfl

theorem startFromSlots_of_fallback {d : Nat} {ib : Bool} {u : State} (hst : u.boot.stagingSt = 2) (hact : u.boot.activeSt = 1) :
    startFromSlots d ib true false u = startImage u.boot.staging true ib d
      (modBoot (verifyFailed (setEv .boot Reg.BOOT_EVENT Bit.BOOT_EVENT_SLOT_FALLBACK u)) (fun b => { b with stagingSt := 3 })) := by
  simp [startFromSlots, hst, hact]

/-! ### Flash operations (R496, R497) -/

section
variable {o : FlashOp} {s u : State} (ho : nextFlashOp s.boot = some o)
  (hu : u = cntAdd .boot Reg.BOOT_CNT_FLASH_PAGES o.pages (modBoot s (fun b => { b with ops := eraseOp o b.ops })))
include ho hu

theorem exec_flashOpDone_of_copy (hk : o.kind = 0 ∨ o.kind = 1) : exec .flashOpDone s = .next u := by
  subst hu
  change execFlashOpDone s = _
  rw [execFlashOpDone, ho]
  rcases hk with hk | hk
  · simp only [hk]
  · simp only [hk]

theorem exec_flashOpDone_of_block (hk : o.kind = 5) : exec .flashOpDone s = .next (runVerify u) := by
  subst hu
  change execFlashOpDone s = _
  rw [execFlashOpDone, ho]
  simp only [hk]

theorem exec_flashOpDone_of_record {r : LogRec} (hk : o.kind = 2) (hr : s.rcv.log.find? (fun p => p.1 == o.arg) = some (o.arg, r)) :
    exec .flashOpDone s = .next (modBoot u (fun b => { b with
      logFlash := smInsert o.arg r (if 16384 ≤ o.arg then smErase (o.arg - 16384) b.logFlash else b.logFlash) })) := by
  have hlog : u.rcv.log.find? (fun p => p.1 == o.arg) = some (o.arg, r) := by
    rw [hu, (keeps_cntAdd ..).frame.rcv rfl]
    exact hr
  change execFlashOpDone s = _
  rw [execFlashOpDone, ho]
  simp only [hk, ← hu, hlog]

end

/-! ### The commit (R508, R510) -/

/-- A directory write changes the two copies and the flash operations only. -/
theorem boot_writeDir (s : State) : ∃ a b o, (writeDir s).boot = { s.boot with dirA := a, dirB := b, ops := o } := by
  simp only [writeDir, modBoot]
  split
  · exact ⟨_, _, _, rfl⟩
  · exact ⟨_, _, _, rfl⟩

theorem boot_cntAdd (b : Blk) (off n : Nat) (s : State) : (cntAdd b off n s).boot = s.boot := (keeps_cntAdd b off n s).frame.boot rfl

theorem boot_setEv (b : Blk) (ev n : Nat) (s : State) : (setEv b ev n s).boot = s.boot := (keeps_setEv b ev n s).frame.boot rfl

/-- The running image copied to the active slot, with its event. -/
def committed (s : State) : State :=
  setEv .boot Reg.BOOT_EVENT Bit.BOOT_EVENT_COMMIT_DONE (writeDir (modBoot (cntAdd .boot Reg.BOOT_CNT_FLASH_PAGES (s.boot.staging.len / 4096) s)
    (fun b => { b with active := b.staging, staging := {}, activeSt := 1, stagingSt := 0, stagingVersion := 0, stagingSvn := 0,
                       commitDue := false })))

theorem boot_committed (s : State) : ∃ a b o, (committed s).boot = { s.boot with
    active := s.boot.staging, staging := {}, activeSt := 1, stagingSt := 0, stagingVersion := 0, stagingSvn := 0, commitDue := false
    dirA := a, dirB := b, ops := o } := by
  obtain ⟨a, b, o, h⟩ := boot_writeDir (modBoot (cntAdd .boot Reg.BOOT_CNT_FLASH_PAGES (s.boot.staging.len / 4096) s)
    (fun b => { b with active := b.staging, staging := {}, activeSt := 1, stagingSt := 0, stagingVersion := 0, stagingSvn := 0,
                       commitDue := false }))
  refine ⟨a, b, o, ?_⟩
  rw [committed, boot_setEv, h, modBoot, boot_cntAdd]

/-- The fuse SVN advanced to that of the running image, when it is behind. -/
def svnAdvanced (s : State) : State :=
  if s.boot.fuseSvn < s.boot.imageSvn then
    setEv .boot Reg.BOOT_EVENT Bit.BOOT_EVENT_SVN_ADVANCED (modBoot s (fun b => { b with fuseSvn := b.imageSvn }))
  else s

theorem boot_svnAdvanced (s : State) : (svnAdvanced s).boot = { s.boot with fuseSvn := max s.boot.fuseSvn s.boot.imageSvn } := by
  unfold svnAdvanced
  split
  · next h => rw [boot_setEv, modBoot, max_eq_right h.le]
  · next h => rw [max_eq_left (Nat.not_lt.1 h)]

theorem bit_svnAdvanced {s : State} (h : bit (rd s .boot Reg.BOOT_EVENT) Bit.BOOT_EVENT_COMMIT_DONE = true) :
    bit (rd (svnAdvanced s) .boot Reg.BOOT_EVENT) Bit.BOOT_EVENT_COMMIT_DONE = true := by
  unfold svnAdvanced
  split
  · exact bit_setEv .boot Reg.BOOT_EVENT Bit.BOOT_EVENT_SVN_ADVANCED h
  · exact h

theorem exec_fwCommitCopy {s : State} (h3 : s.boot.stage = 3) (hdue : s.boot.commitDue = true) (hv : verifyImage s s.boot.staging = 0) :
    exec .fwCommitCopy s = .next (svnAdvanced (committed s)) := by
  change execFwCommitCopy s = _
  rw [execFwCommitCopy]
  exact onlyIf_of_true (by simp [h3, hdue, hv]) _ _

/-! ### The handover (R506, R507) -/

theorem boot_writeSettings (c : SetCopy) (s : State) :
    ∃ a b o, (writeSettings c s).boot = { s.boot with setA := a, setB := b, ops := o } := by
  unfold writeSettings
  split
  · exact ⟨_, _, _, rfl⟩
  · simp only [modBoot]
    split
    · exact ⟨_, _, _, rfl⟩
    · exact ⟨_, _, _, rfl⟩

theorem boot_migrated (c c' : SetCopy) (s : State) : ∃ k d a b o,
    (modBoot (writeSettings c' (modBoot s (fun b => { b with settings := c, settingsDefault := false }))) (fun b => { b with settings := c' })).boot =
      { s.boot with settings := k, settingsDefault := d, setA := a, setB := b, ops := o } := by
  obtain ⟨a, b, o, h⟩ := boot_writeSettings c' (modBoot s (fun b => { b with settings := c, settingsDefault := false }))
  rw [modBoot, h]
  exact ⟨_, _, a, b, o, rfl⟩

/-- Settings loaded change the settings, their copies and the flash operations only. -/
theorem boot_loadSettings (s : State) : ∃ c d a b o, (loadSettings s).boot =
    { s.boot with settings := c, settingsDefault := d, setA := a, setB := b, ops := o } := by
  unfold loadSettings
  split
  · rw [boot_setEv]
    exact ⟨_, _, _, _, _, rfl⟩
  · next c _ =>
    dsimp only
    split
    · rw [boot_setEv]
      exact boot_migrated ..
    · exact ⟨_, _, _, _, _, rfl⟩

theorem rcv_loadSettings (s : State) : (loadSettings s).rcv = s.rcv :=
  (loadSettings_keeps (T := { regs := true, chans := true, cxl := true, boot := true }) s (Keeps.refl _ _) ⟨rfl, rfl, rfl, rfl⟩).frame.rcv rfl

/-- The new image as the core that stood by runs it. -/
def newImage (s : State) : State :=
  let f := s.boot.staging
  modBoot s (fun b => { b with
    handover := false, mixed := true, fwVersion := imgVersion s f, imageSvn := imgSvn s f, fwFormat := imgSetFormat f,
    digests := (imgDigests f).take 1 ++ b.digests.drop 1 })

/-- The handover to the core that stood by, with its event. -/
def handedOver (s : State) : State :=
  let u := loadSettings (newImage s)
  cntInc .boot Reg.BOOT_CNT_HANDOVERS (setEv .boot Reg.BOOT_EVENT Bit.BOOT_EVENT_HANDOVER
    (modRcv u (fun r => { r with activeCore := 1 - r.activeCore, standby := false, beatUs := u.us })))

theorem exec_handoverStandbyReady {s : State} (hh : s.boot.handover = true) (hq : anyReset s = false) (hr : rachisServes s = true) :
    exec .handoverStandbyReady s = .next (mbxFinishOp 0x63 ST_OK [0, word (handedOver s).boot.fwVersion] (handedOver s)) := by
  change execHandoverStandbyReady s = _
  rw [execHandoverStandbyReady]
  exact onlyIf_of_true (by simp [hh, hq, hr]) _ _

theorem boot_handedOver (s : State) : (handedOver s).boot.handover = false ∧ (handedOver s).boot.mixed = true ∧
    (handedOver s).boot.fwVersion = imgVersion s s.boot.staging := by
  obtain ⟨c, d, a, b, o, h⟩ := boot_loadSettings (newImage s)
  have hboot : (handedOver s).boot = (loadSettings (newImage s)).boot := by
    rw [handedOver, cntInc, boot_cntAdd, boot_setEv]
    rfl
  rw [hboot, h]
  exact ⟨rfl, rfl, rfl⟩

theorem rcv_handedOver (s : State) : (handedOver s).rcv.activeCore = 1 - s.rcv.activeCore ∧ (handedOver s).rcv.standby = false := by
  have hrcv : (handedOver s).rcv = { (loadSettings (newImage s)).rcv with
      activeCore := 1 - (loadSettings (newImage s)).rcv.activeCore, standby := false, beatUs := (loadSettings (newImage s)).us } := by
    rw [handedOver, (keeps_cntInc ..).frame.rcv rfl, (keeps_setEv ..).frame.rcv rfl]
    rfl
  rw [hrcv, rcv_loadSettings]
  exact ⟨rfl, rfl⟩

theorem keeps_mbxFinishOp (op status : Nat) (rs : List Word) (s : State) : Keeps { mbxs := true } s (mbxFinishOp op status rs s) :=
  mbxFinishOp_keeps op status rs s (Keeps.refl _ _) rfl

/-! ### Recovery mode (R515) -/

theorem exec_rcvBegin {w : Word} {s : State} (ht : rcvTakes 1 w s = true) (hn : imgBytesOk (bits w 28 16 * 4096) = true)
    (hst : s.boot.stagingSt ≠ 3) (hact : s.boot.activeSt ≠ 2) :
    exec (.rcvBegin w) s = .next (beginDownload (bits w 28 16 * 4096) (modBoot s (fun b => { b with rcvState := 1, rcvReason := 0 }))) := by
  change execRcvBegin w s = _
  rw [execRcvBegin]
  exact (onlyIf_of_true ht _ _).trans (congrArg _ (if_neg (by simp [hn, hst, hact])))

theorem exec_rcvBlock {w : Word} {s : State} (ht : rcvTakes 2 w s = true) :
    exec (.rcvBlock w) s = .next (modBoot (offerBlock (bits w 28 16 * 4096) (bits w 63 32) s).2 (fun b => { b with
      rcvState := if (offerBlock (bits w 28 16 * 4096) (bits w 63 32) s).1 = ST_OK then 2 else 3, rcvReason := 0 })) := by
  change execRcvBlock w s = _
  rw [execRcvBlock]
  refine (onlyIf_of_true ht _ _).trans (congrArg _ ?_)
  simp only [rcvEnd, beq_iff_eq]

/-- What a start from recovery mode leaves. -/
def recoveryStarted (s : State) : State :=
  let u := modBoot (loseCold (setStaging 3 s)) (fun b => { b with stage := 0, ignoreStrap := true })
  modDomain u 0x7F (fun x => { x with seq := some { step := 6, trigger := 0xB4, startUs := u.us } })

theorem exec_rcvStart {w : Word} {s : State} (ht : rcvTakes 4 w s = true) (hst : s.boot.stagingSt = 2) :
    exec (.rcvStart w) s = .next (recoveryStarted s) := by
  change execRcvStart w s = _
  rw [execRcvStart]
  exact (onlyIf_of_true ht _ _).trans (congrArg _ (if_neg (by simp [hst])))

theorem fuseSvn_recoveryStarted (s : State) : (recoveryStarted s).boot.fuseSvn = s.boot.fuseSvn := by
  obtain ⟨a, b, o, h⟩ := boot_writeDir (modBoot s (fun b => { b with stagingSt := 3 }))
  change (setStaging 3 s).boot.fuseSvn = _
  rw [setStaging, h]
  rfl

/-- Settles O50: the chain's choice as one function of what it finds, and the boot state followed through the commit, the handover and
the start from recovery mode. -/
theorem imagesStartAndCommit : Obligations.ImagesStartAndCommit := by
  unfold Obligations.ImagesStartAndCommit
  refine ⟨?_, fun o s u ho hu => ⟨exec_flashOpDone_of_copy ho hu, exec_flashOpDone_of_block ho hu, fun r => exec_flashOpDone_of_record ho hu⟩,
    ?_, ?_, ?_, fun w s => exec_rcvBegin, fun w s => exec_rcvBlock, ?_, ?_⟩
  · intro d ab sb ib strap s u h0 hd hu
    refine ⟨exec_bootChain_of_strap h0 hd hu, ?_, ?_, ?_⟩
    · intro hstrap hst hsb hv
      rw [exec_bootChain_of_slots h0 hd hu hstrap, hsb, hv]
      exact congrArg _ (startFromSlots_of_staged hst)
    · intro hstrap hst hact hab hv
      rw [exec_bootChain_of_slots h0 hd hu hstrap, hab, hv, hact]
      exact congrArg _ (startFromSlots_of_active hst)
    · intro hstrap hst hsb hv hact hbad
      have hactive : (u.boot.activeSt == 1 && !ab && verifyImage u u.boot.active == 0) = false := by
        rcases hbad with h | h
        · simp [h]
        · simp [h]
      refine ⟨_, exec_bootChain_of_slots h0 hd hu hstrap, _, rfl, ?_⟩
      rw [hactive, hsb, hv]
      exact startFromSlots_of_fallback hst hact
  · intro s h3 hdue hv
    obtain ⟨a, b, o, h⟩ := boot_committed s
    have hbit : bit (rd (committed s) .boot Reg.BOOT_EVENT) Bit.BOOT_EVENT_COMMIT_DONE = true :=
      Heat.bit_setEv_same _ _ _ (by decide)
    refine ⟨_, exec_fwCommitCopy h3 hdue hv, ?_⟩
    beta_reduce
    rw [boot_svnAdvanced, h]
    exact ⟨rfl, rfl, rfl, rfl, rfl, rfl, bit_svnAdvanced hbit⟩
  · intro s hh hq hr
    obtain ⟨hhand, hmixed, hversion⟩ := boot_handedOver s
    obtain ⟨hactive, hstandby⟩ := rcv_handedOver s
    refine ⟨_, exec_handoverStandbyReady hh hq hr, ?_⟩
    beta_reduce
    rw [(keeps_mbxFinishOp ..).frame.boot rfl, (keeps_mbxFinishOp ..).frame.rcv rfl]
    exact ⟨hhand, hmixed, hversion, hactive, hstandby⟩
  · intro s hh
    change execHandoverTimeout s = _
    exact onlyIf_of_true hh _ _
  · intro w s ht
    change execRcvVerify w s = _
    exact onlyIf_of_true ht _ _
  · intro w s ht hst
    have hseq := congrArg Domain.seq (domainAt_modDomain_same (modBoot (loseCold (setStaging 3 s)) (fun b => { b with
      stage := 0, ignoreStrap := true })) 0x7F (fun x => { x with seq := some { step := 6, trigger := 0xB4, startUs := 0 } }))
    exact ⟨_, exec_rcvStart ht hst, rfl, rfl, rfl, rfl, ⟨_, hseq, rfl⟩, fuseSvn_recoveryStarted s⟩

end Sys2Proof.Starts
end


section
/-! PROOF. Objects: their creation, their release, their mode, and the share groups (R223, R230, R233 to R235, R539, R540). -/

open Sys2Proof Sys2Proof.Machine Sys2Proof.Claim Sys2Proof.Channels Sys2Proof.RingCmds

namespace Sys2Proof.Objects

/-! ### Entries and share groups -/

@[simp] theorem objAt_freeShare (g : Nat) (s : State) (oi : Nat) : objAt (freeShare g s) oi = objAt s oi := by
  unfold freeShare
  split
  · rfl
  · rfl

/-- An object released leaves a free entry (R234). -/
theorem objAt_releaseObj (s : State) (oi : Nat) : objAt (releaseObj s oi) oi = {} := by
  unfold releaseObj
  dsimp only
  split
  · rw [objAt_freeShare, objAt_setObj_same]
  · rw [objAt_setObj_same]

theorem shareAt_modShare_same (s : State) (g : Nat) (f : ShareGroup → ShareGroup) : shareAt (modShare s g f) g = f (shareAt s g) :=
  smGet_set_same ..

theorem shareAt_modShare_ne (s : State) {g k : Nat} (f : ShareGroup → ShareGroup) (h : k ≠ g) : shareAt (modShare s g f) k = shareAt s k :=
  smGet_set_ne _ _ _ h

theorem mem_insertIv (x y : Nat × Nat) : ∀ l, y ∈ insertIv x l ↔ y = x ∨ y ∈ l
  | [] => by simp [insertIv]
  | z :: l => by
    rw [insertIv]
    split
    · rw [List.mem_cons]
    · rw [List.mem_cons, mem_insertIv x y l, List.mem_cons]
      tauto

/-- The members of a group with one more. -/
def withMember (h : Nat) (ms : List Nat) : List Nat :=
  if ms.contains h then ms else (insertIv (h, 0) (ms.map (·, 0))).map (·.1)

theorem mem_withMember (h k : Nat) (ms : List Nat) : k ∈ withMember h ms ↔ k = h ∨ k ∈ ms := by
  unfold withMember
  split
  · next hin =>
    have hmem : h ∈ ms := by simpa using hin
    refine ⟨.inr, ?_⟩
    rintro (rfl | hk)
    · exact hmem
    · exact hk
  · simp [mem_insertIv, eq_comm]

/-! ### What each command does -/

/-- A command that starts changes channels only. -/
theorem keeps_begun (src : CmdSrc) (e : Entry) (s : State) : Keeps { chans := true } s (begun src e s) :=
  markStarted_keeps _ s (Keeps.refl _ _) rfl

section
variable {src : CmdSrc} {e : Entry} {s b : State} {oi : Nat}

theorem goes_objFree (h : Taken 0x11 src e s) (hb : b = begun src e s) (hoi : oi = bits e.a0 16 0)
    (hown : ownsObj (chOf s src e) (objAt b oi) = true) (harr : isArray b oi = false) (hbusy : objBusy b oi = false)
    (hreg : ∀ p ∈ b.cxl.regions, p.2.valid = true → p.2.obj ≠ oi) :
    Goes (.objFree src e) s (fun t => ∃ u, t = answer (cmdOf s src e) ST_OK [] u ∧ objAt u oi = {}) := by
  subst hb hoi
  have hregs : (begun src e s).cxl.regions.any (fun p => p.2.valid && p.2.obj == bits e.a0 16 0) = false := by
    simpa using fun a b hp hv => hreg (a, b) hp hv
  have hexec : Ends (.objFree src e) src e s ST_OK [] (sweepKeys (releaseObj
      (((begun src e s).migs.filter (fun m => m.obj == bits e.a0 16 0)).foldl (fun s m => finishRing m.ch m.pos ST_MIG_ABORTED [] (dropMig m s))
        (begun src e s)) (bits e.a0 16 0))) := by
    change execObjFree src e s = _
    refine serve_eq_answer h ((if_neg ?_).trans (if_neg ?_))
    · simpa [chOf] using hown
    · rw [harr, hbusy, hregs]
      decide
  exact ⟨_, hexec, _, rfl, objAt_releaseObj _ _⟩

theorem ends_objSetMode (h : Taken 0x12 src e s) (hb : b = begun src e s) (hoi : oi = bits e.a0 16 0)
    (hown : ownsObj (chOf s src e) (objAt b oi) = true) (harr : isArray b oi = false)
    (hshared : (objAt b oi).shared = true → bits e.a0 18 17 = 1) (hmode : modeOk (bits e.a0 18 17) (objAt b oi).replTier = true)
    (hclean : bits e.a0 18 17 = 2 ∨ (objAt b oi).dirtyCount = 0)
    (hreg : ∀ p ∈ b.cxl.regions, p.2.valid = true → p.2.obj = oi → p.2.wr = false) :
    Ends (.objSetMode src e) src e s ST_OK [] (setObj b oi { objAt b oi with
      mode := bits e.a0 18 17, version := min (2 ^ 32 - 1) ((objAt b oi).version + 1) }) := by
  subst hb hoi
  have hregs : (begun src e s).cxl.regions.any (fun p => p.2.valid && p.2.obj == bits e.a0 16 0 && p.2.wr) = false := by
    simpa using fun a b hp hv ho => hreg (a, b) hp hv ho
  have hback : (bits e.a0 18 17 != 2 && decide (0 < (objAt (begun src e s) (bits e.a0 16 0)).dirtyCount)) = false := by
    rcases hclean with h2 | h0
    · simp [h2]
    · simp [h0]
  change execObjSetMode src e s = _
  refine serve_eq_answer h ((if_neg ?_).trans ((if_neg ?_).trans ((if_neg ?_).trans ((if_neg ?_).trans (if_neg ?_)))))
  · simpa [chOf] using hown
  · rw [harr]
    exact Bool.false_ne_true
  · exact fun hn => hn.2 (hshared hn.1)
  · rw [hmode, hback]
    decide
  · rw [hregs]
    exact Bool.false_ne_true

section
variable {g : Nat} (hown : ownsObj (chOf s src e) (objAt b oi) = true)
  (hholder : ∀ h, (shareAt b g).holder = some h → h = chOf s src e)
include hown hholder

/-- The channel of a command may act on a share group for one of its objects. -/
theorem mayShare : ¬ ((!ownsObj (cmdOf s src e).ch (objAt b oi) || (shareAt b g).holder.any (fun c => c != (cmdOf s src e).ch)) = true) := by
  have hany : (shareAt b g).holder.any (fun c => c != (cmdOf s src e).ch) = false := by
    cases hh : (shareAt b g).holder with
    | none => rfl
    | some c => simpa [chOf] using hholder c hh
  rw [show ownsObj (cmdOf s src e).ch (objAt b oi) = true from hown, hany]
  decide

theorem ends_objShare (h : Taken 0x13 src e s) (hb : b = begun src e s) (hoi : oi = bits e.a0 16 0) (hg : g = bits e.a0 26 17)
    (hbit : bit e.a0 27 = false) (hmode : (objAt b oi).mode = 1) (hshared : (objAt b oi).shared = false) :
    Ends (.objShare src e) src e s ST_OK [] (setObj (modShare b g (fun r => { r with holder := some (chOf s src e) })) oi
      { objAt b oi with shared := true, group := g, version := min (2 ^ 32 - 1) ((objAt b oi).version + 1) }) := by
  have hmay := mayShare hown hholder
  subst hb hoi hg
  change execObjShare src e s = _
  refine serve_eq_answer h ((if_neg hmay).trans ((if_neg ?_).trans ((if_neg ?_).trans (if_neg ?_))))
  · rw [hbit]
    exact Bool.false_ne_true
  · exact not_not_intro hmode
  · rw [hshared]
    exact Bool.false_ne_true

theorem goes_objShare_of_member {k : Nat} (h : Taken 0x13 src e s) (hb : b = begun src e s) (hoi : oi = bits e.a0 16 0)
    (hg : g = bits e.a0 26 17) (hbit : bit e.a0 27 = true) (hshared : (objAt b oi).shared = true) (hgroup : (objAt b oi).group = g)
    (hk : k = bits e.a1 31 0 % 4096) (hlive : (chanAt b k).live = true) (hhandle : handleOf b k = bits e.a1 31 0)
    (hdes : (chanAt b k).destroying = false) :
    Goes (.objShare src e) s (fun t => ∃ u, t = answer (cmdOf s src e) ST_OK [] u ∧ u.objs = b.objs ∧
      (∀ j, j ∈ (shareAt u g).members ↔ j = k ∨ j ∈ (shareAt b g).members) ∧ (∀ j, j ≠ g → shareAt u j = shareAt b j)) := by
  have hmay := mayShare hown hholder
  have hexec : Ends (.objShare src e) src e s ST_OK [] (modShare b g (fun r => { r with members := withMember k r.members })) := by
    subst hb hoi hg hk
    change execObjShare src e s = _
    refine serve_eq_answer h ((if_neg hmay).trans ((if_pos hbit).trans ((if_neg ?_).trans (if_neg ?_))))
    · simp [hshared, hgroup]
    · simp [hlive, hhandle, hdes]
  refine ⟨_, hexec, _, rfl, rfl, fun j => ?_, fun j hj => shareAt_modShare_ne _ _ hj⟩
  rw [shareAt_modShare_same]
  exact mem_withMember ..

theorem goes_objUnshare (h : Taken 0x14 src e s) (hb : b = begun src e s) (hoi : oi = bits e.a0 16 0) (hg : g = bits e.a0 26 17)
    (hshared : (objAt b oi).shared = true) (hgroup : (objAt b oi).group = g) (hbit : bit e.a0 27 = false) :
    Goes (.objUnshare src e) s (fun t => ∃ u, t = answer (cmdOf s src e) ST_OK [] u ∧ objAt u oi =
      { objAt b oi with shared := false, version := min (2 ^ 32 - 1) ((objAt b oi).version + 1) }) := by
  have hmay := mayShare hown hholder
  have hexec : Ends (.objUnshare src e) src e s ST_OK [] (freeShare g (setObj b oi (bumpVersion { objAt b oi with shared := false }))) := by
    subst hb hoi hg
    change execObjUnshare src e s = _
    refine serve_eq_answer h ((if_neg ?_).trans (if_neg ?_))
    · rw [hshared, hgroup]
      simpa using hmay
    · rw [hbit]
      exact Bool.false_ne_true
  refine ⟨_, hexec, _, rfl, ?_⟩
  rw [objAt_freeShare, objAt_setObj_same]
  rfl

end

section
variable {o : Obj} (h : Taken 0x15 src e s) (hb : b = begun src e s) (ho : o = objAt b (bits e.a0 16 0))
  (hread : mayRead b (chOf s src e) o = true)
include h hb ho hread

theorem ends_objQuery (hbit : bit e.a0 17 = false) :
    Ends (.objQuery src e) src e s ST_OK [objWord o, word o.baseDa, word o.size, word o.dataBytes, word (put o.version 31 0)] b := by
  subst hb ho
  change execObjQuery src e s = _
  refine serve_eq_answer h ((if_neg ?_).trans ((if_neg ?_).trans ?_))
  · simpa [chOf] using hread
  · simp [hbit]
  · simp [hbit]

theorem ends_objQuery_of_granule (hbit : bit e.a0 17 = true) (hlt : e.a1.toNat < objGranules o) :
    Ends (.objQuery src e) src e s ST_OK [objWord o, word o.baseDa, word o.size, granWord (granAt b o e.a1.toNat),
      word (put o.version 31 0 + put (granBits (granAt b o e.a1.toNat)) 38 32)] b := by
  subst hb ho
  change execObjQuery src e s = _
  refine serve_eq_answer h ((if_neg ?_).trans ((if_neg ?_).trans ?_))
  · simpa [chOf] using hread
  · exact fun hn => absurd hn.2 (Nat.not_le.2 hlt)
  · simp [hbit]

end

end

/-- Settles O18: each command by the checks that it passes, and a share group by its one change. -/
theorem objectsArePlacedSharedAndFreed : Obligations.ObjectsArePlacedSharedAndFreed := by
  unfold Obligations.ObjectsArePlacedSharedAndFreed
  refine ⟨?_, fun src e s b oi => goes_objFree, fun src e s b oi => ends_objSetMode,
    fun src e s b oi g h hb hoi hg hown hh => ends_objShare hown hh h hb hoi hg,
    fun src e s b oi g k h hb hoi hg hown hh => goes_objShare_of_member hown hh h hb hoi hg,
    fun src e s b oi g h hb hoi hg hown hs hgr hh => goes_objUnshare hown hh h hb hoi hg hs hgr,
    fun src e s b o => ends_objQuery, fun src e s b o => ends_objQuery_of_granule⟩
  intro src e s h hal hpos hmax hdata hmode htier hslot hkey
  have hargs : ¬ (e.a0.toNat % 65536 ≠ 0 ∨ e.a0.toNat = 0 ∨ 2 ^ 36 < e.a0.toNat ∨ e.a0.toNat < e.a1.toNat ∨ bits e.a2 1 0 = 3 ∨
      bits e.a2 3 2 = 0 ∨ bits e.a2 3 2 = 3 ∨ (!bit e.a2 8) = true ∧ bits e.a2 16 9 ≠ 0) := by
    have hplain : ¬ ((!bit e.a2 8) = true ∧ bits e.a2 16 9 ≠ 0) := by simpa using hslot
    rintro (hn | hn | hn | hn | hn | hn | hn | hn)
    any_goals omega
    exact hplain hn
  have hok : ¬ (!modeOk (bits e.a2 1 0) 0) = true := by
    obtain h0 | h1 : bits e.a2 1 0 = 0 ∨ bits e.a2 1 0 = 1 := by omega
    · simp [h0, modeOk]
    · simp [h1, modeOk]
  rw [← (keeps_begun src e s).frame.boot rfl] at hkey
  have henc : ¬ ((bit e.a2 8 && !((smGet (fun _ => ({} : KeySlot)) (begun src e s).boot.keys (bits e.a2 16 9)).filled &&
      (smGet (fun _ => ({} : KeySlot)) (begun src e s).boot.keys (bits e.a2 16 9)).owner == handleOf (begun src e s) (cmdOf s src e).ch)) = true) := by
    cases hbit : bit e.a2 8 with
    | false => simp
    | true =>
      obtain ⟨hfilled, howner⟩ := hkey hbit
      simp [hfilled, howner, chOf]
  split
  · next oi da t hc =>
    change execObjCreate src e s = _
    refine serve_eq_answer h ((if_neg hargs).trans ((if_neg hok).trans ((if_neg henc).trans ?_)))
    rw [show createObj (begun src e s) (cmdOf s src e).ch _ = _ from hc]
  · next st hc =>
    change execObjCreate src e s = _
    refine serve_eq_answer h ((if_neg hargs).trans ((if_neg hok).trans ((if_neg henc).trans ?_)))
    rw [show createObj (begun src e s) (cmdOf s src e).ch _ = _ from hc]

end Sys2Proof.Objects
end


section
/-! PROOF. Placement commands take their place, and start (R235, R236). -/

open Sys2Proof Sys2Proof.Machine Sys2Proof.Claim Sys2Proof.Channels Sys2Proof.RingCmds

namespace Sys2Proof.MovesBegin

/-! ### Frames taken -/

theorem takeFrames_zero (tier field : Nat) (loc : Bool) (fuel c : Nat) (used : SMap Bool) :
    takeFrames tier field loc fuel 0 c used = some ([], used) := by
  cases fuel with
  | zero => rw [takeFrames]
  | succ n => rw [takeFrames]

theorem allocFrames_zero (s : State) (tier field : Nat) (loc : Bool) : allocFrames s tier field loc 0 = some ([], s) := by
  rw [allocFrames, takeFrames_zero]

/-- Frames are taken whatever commands wait, and nothing but their occupancy changes. -/
theorem allocFrames_queued {b s1 : State} {tier field n : Nat} {loc : Bool} {fs : List Nat} (l : List MigCmd)
    (h : allocFrames b tier field loc n = some (fs, s1)) :
    allocFrames { b with migs := l } tier field loc n = some (fs, { s1 with migs := l }) ∧ s1.migs = b.migs ∧ s1.objs = b.objs := by
  rw [allocFrames] at h ⊢
  cases ht : takeFrames tier field loc (2 ^ 26) n 0 b.used with
  | none => rw [ht] at h; exact nomatch h
  | some r =>
    rw [ht] at h
    obtain ⟨rfl, rfl⟩ := Prod.mk.inj (Option.some.inj h)
    exact ⟨rfl, rfl, rfl⟩

/-! ### A command joins those that wait -/

/-- A placement command behind those that wait. -/
def queued (b : State) (m : MigCmd) : State := { b with migs := b.migs ++ [m] }

theorem isMig_self (m : MigCmd) : isMig m.ch m.pos m = true := by simp [isMig]

theorem migFirst_queued_self {b : State} {m : MigCmd} (h : ∀ x ∈ b.migs, x.obj ≠ m.obj) : migFirst (queued b m) m = true := by
  have hfind : (b.migs ++ [m]).find? (fun x => x.obj == m.obj) = some m := by
    rw [List.find?_append, List.find?_eq_none.2 (fun x hx => by simpa using h x hx)]
    simp
  rw [migFirst, queued, hfind]
  exact isMig_self m

/-- With no command for its object before it, the one that joins starts. -/
theorem migPump_queued {b : State} {m : MigCmd} (n : Nat) (hm : m.started = false) (h : OnlyMove b m.ch m.pos m.obj) :
    migPump (n + 1) (queued b m) = migPump n (migStart m (queued b m)) := by
  have hfind : (b.migs ++ [m]).find? (fun x => migFirst (queued b m) x && !x.started) = some m := by
    rw [List.find?_append, List.find?_eq_none.2 (fun x hx => by simp [(h x hx).1])]
    simp [migFirst_queued_self fun x hx => (h x hx).2.1, hm]
  rw [migPump, show (queued b m).migs = b.migs ++ [m] from rfl, hfind]

/-- The entry of an object as a command that starts leaves it. -/
def startedEntry (m : MigCmd) (o : Obj) : Obj :=
  if m.kind = 2 then { o with replTier := m.targetTier, replLocal := m.targetLocal, replField := m.targetField, migrating := true }
  else { o with migrating := true }

theorem modMig_queued {b : State} {m : MigCmd} (f : MigCmd → MigCmd) (h : OnlyMove b m.ch m.pos m.obj) :
    (b.migs ++ [m]).map (fun x => if isMig m.ch m.pos x then f x else x) = b.migs ++ [f m] := by
  rw [List.map_append, List.map_cons, List.map_nil, if_pos (isMig_self m)]
  congr 1
  refine (List.map_congr_left fun x hx => ?_).trans (List.map_id _)
  simp [(h x hx).2.2]

/-- A command whose turn it is, with what it needs: the frames are its own, and its object's entry says that it moves. -/
theorem migStart_queued {b s1 : State} {m : MigCmd} {needs : Nat} {fs gs : List Nat} (h : OnlyMove b m.ch m.pos m.obj)
    (hmode : m.kind = 1 ∨ m.kind = 2 → modeOk (objAt b m.obj).mode m.targetTier = true)
    (hgs : gs = migGranules b (objAt b m.obj) m.kind m.first m.count) (hneeds : needs = if m.kind ≤ 2 then gs.length else 0)
    (hquota : quotaOk b m.ch m.targetTier needs = true)
    (halloc : allocFrames b m.targetTier m.targetField m.targetLocal needs = some (fs, s1)) :
    migStart m (queued b m) = joined (modUsed s1 m.ch m.targetTier (· + needs)) m.obj (startedEntry m (objAt b m.obj))
      { m with started := true, todo := if m.kind ≤ 2 then gs.zip fs else gs.map (·, 0) } := by
  obtain ⟨halloc', hmigs, hobjs⟩ := allocFrames_queued (b.migs ++ [m]) halloc
  have hm : ¬ (((m.kind == 1 || m.kind == 2) && !modeOk (objAt b m.obj).mode m.targetTier) = true) := by simpa using hmode
  have hq : ¬ ((!quotaOk b m.ch m.targetTier needs) = true) := by simpa using hquota
  have hgs' : migGranules (queued b m) (objAt (queued b m) m.obj) m.kind m.first m.count = gs := hgs.symm
  have hal : allocFrames (queued b m) m.targetTier m.targetField m.targetLocal needs = some (fs, { s1 with migs := b.migs ++ [m] }) := halloc'
  rw [migStart]
  simp only [hgs', ← hneeds]
  refine (if_neg hm).trans ((if_neg hq).trans ?_)
  rw [hal]
  simp only [modMig, modObj, joined, setObj, modUsed, modChan, setChan, objAt, hobjs, modMig_queued _ h, hmigs]
  rfl

/-- The command that a placement command asks for, before it starts. -/
def asked (x : Cmd) (kind oi tier : Nat) (loc : Bool) (fld first count : Nat) (s : State) : MigCmd :=
  { ch := x.ch, pos := x.pos, obj := oi, kind := kind, first := first, count := count, targetTier := tier, targetLocal := loc,
    targetField := fld, whole := first == 0 && count == objGranules (objAt s oi) }

theorem migBegin_eq (x : Cmd) (kind oi tier : Nat) (loc : Bool) (fld first count : Nat) (s : State) :
    migBegin x kind oi tier loc fld first count s = migPump 64 (queued s (asked x kind oi tier loc fld first count s)) := rfl

/-- A command that takes frames (kinds 0 to 2) starts with a frame for each granule it acts on. -/
theorem migBegin_taking {x : Cmd} {kind oi tier fld first count : Nat} {loc : Bool} {b s1 : State} {gs fs : List Nat}
    (honly : OnlyMove b x.ch x.pos oi) (hk : kind ≤ 2) (hmode : kind = 1 ∨ kind = 2 → modeOk (objAt b oi).mode tier = true)
    (hgs : gs = migGranules b (objAt b oi) kind first count) (hquota : quotaOk b x.ch tier gs.length = true)
    (halloc : allocFrames b tier fld loc gs.length = some (fs, s1)) :
    migBegin x kind oi tier loc fld first count b = migPump 63 (joined (modUsed s1 x.ch tier (· + gs.length)) oi
      (startedEntry (asked x kind oi tier loc fld first count b) (objAt b oi))
      { asked x kind oi tier loc fld first count b with started := true, todo := gs.zip fs }) := by
  have hstart := migStart_queued (m := asked x kind oi tier loc fld first count b) (needs := gs.length) honly hmode hgs
    (if_pos hk).symm hquota halloc
  rw [migBegin_eq, migPump_queued 63 rfl honly, hstart, if_pos (show (asked x kind oi tier loc fld first count b).kind ≤ 2 from hk)]
  rfl

/-- A flush or a replica drop takes no frame. -/
theorem migBegin_frameless {x : Cmd} {kind oi tier fld first count : Nat} {loc : Bool} {b : State}
    (honly : OnlyMove b x.ch x.pos oi) (hk : 2 < kind) (hquota : quotaOk b x.ch tier 0 = true) :
    migBegin x kind oi tier loc fld first count b = migPump 63 (joined (modUsed b x.ch tier id) oi { objAt b oi with migrating := true }
      { asked x kind oi tier loc fld first count b with
        started := true, todo := (migGranules b (objAt b oi) kind first count).map (·, 0) }) := by
  have hk' : ¬ (asked x kind oi tier loc fld first count b).kind ≤ 2 := Nat.not_le.2 hk
  have h12 : ¬ (kind = 1 ∨ kind = 2) := by omega
  have h2 : (asked x kind oi tier loc fld first count b).kind ≠ 2 := by
    change kind ≠ 2
    omega
  have hstart := migStart_queued (m := asked x kind oi tier loc fld first count b) (needs := 0) honly (fun h => (h12 h).elim) rfl
    (if_neg hk').symm hquota (allocFrames_zero ..)
  rw [migBegin_eq, migPump_queued 63 rfl honly, hstart, if_neg hk', startedEntry, if_neg h2]
  rfl

/-! ### A command that waits -/

theorem find?_append_of_mem {l : List MigCmd} {o : Nat} (m y : MigCmd) (hy : y ∈ l) (hyo : y.obj = o) :
    ∃ z ∈ l, l.find? (fun x => x.obj == o) = some z ∧ (l ++ [m]).find? (fun x => x.obj == o) = some z := by
  cases hf : l.find? (fun x => x.obj == o) with
  | none => exact absurd hyo (by simpa using List.find?_eq_none.1 hf y hy)
  | some z => exact ⟨z, List.mem_of_find?_eq_some hf, rfl, by rw [List.find?_append, hf]; rfl⟩

/-- A command that joins is not before one that waits. -/
theorem migFirst_queued_of_mem {b : State} (m : MigCmd) {x : MigCmd} (hx : x ∈ b.migs) : migFirst (queued b m) x = migFirst b x := by
  obtain ⟨z, -, hf, hf'⟩ := find?_append_of_mem m x hx rfl
  rw [migFirst, migFirst, hf, show (queued b m).migs = b.migs ++ [m] from rfl, hf']

theorem migFirst_queued_behind {b : State} {m y : MigCmd} (hy : y ∈ b.migs) (hyo : y.obj = m.obj)
    (hnew : ∀ x ∈ b.migs, isMig m.ch m.pos x = false) : migFirst (queued b m) m = false := by
  obtain ⟨z, hz, -, hf'⟩ := find?_append_of_mem m y hy hyo
  rw [migFirst, show (queued b m).migs = b.migs ++ [m] from rfl, hf']
  exact hnew z hz

/-- While the object has a command before it, and nothing else can go on, one that joins only waits. -/
theorem migPump_waits {b : State} {m y : MigCmd} (n : Nat) (hmoves : m.moves = []) (hy : y ∈ b.migs) (hyo : y.obj = m.obj)
    (hnew : ∀ x ∈ b.migs, isMig m.ch m.pos x = false) (hstarted : ∀ x ∈ b.migs, x.started = true ∨ migFirst b x = false)
    (hfull : 8 ≤ migInflight b) (hbusy : ∀ x ∈ b.migs, x.todo = [] → x.moves = [] → migFirst b x = false) :
    migPump (n + 1) (queued b m) = queued b m := by
  have hmem : ∀ x ∈ (queued b m).migs, x ∈ b.migs ∨ x = m := by
    intro x hx
    simpa [queued] using hx
  have hself := migFirst_queued_behind hy hyo hnew
  have hnostart : (queued b m).migs.find? (fun x => migFirst (queued b m) x && !x.started) = none := by
    refine List.find?_eq_none.2 fun x hx => ?_
    rcases hmem x hx with hx | rfl
    · rw [migFirst_queued_of_mem m hx]
      rcases hstarted x hx with h | h
      · simp [h]
      · simp [h]
    · simp [hself]
  have hnoend : (queued b m).migs.find? (fun x => migFirst (queued b m) x && x.todo.isEmpty && x.moves.isEmpty) = none := by
    refine List.find?_eq_none.2 fun x hx => ?_
    rcases hmem x hx with hx | rfl
    · rw [migFirst_queued_of_mem m hx]
      rw [Bool.and_eq_true, Bool.and_eq_true, List.isEmpty_iff, List.isEmpty_iff, not_and]
      rintro ⟨hf, htodo⟩ hmv
      exact Bool.noConfusion (hf.symm.trans (hbusy x hx htodo hmv))
    · simp [hself]
  have hfull' : 8 ≤ migInflight (queued b m) := by
    simpa [migInflight, queued, hmoves] using hfull
  rw [migPump, hnostart, hnoend]
  exact if_pos hfull'

/-! ### The obligation -/

theorem not_disowned {s : State} {src : CmdSrc} {e : Entry} {o : Obj} (h : ownsObj (chOf s src e) o = true) :
    ¬ (!ownsObj (cmdOf s src e).ch o) = true := by
  simpa [chOf] using h

theorem tier_ok {t : Nat} {r : Bool} (ht : t = 1 ∨ t = 2) (hr : r = true) : ¬ (t = 0 ∨ t = 3 ∨ (!r) = true) := by
  simp [hr]
  omega

/-- Settles O19: a placement command joins those that wait; with none for its object before it `migPump` starts it. -/
theorem movesOfGranulesBegin : Obligations.MovesOfGranulesBegin := by
  unfold Obligations.MovesOfGranulesBegin
  refine ⟨?_, ?_, ?_, ?_, ?_, ?_⟩
  · intro src e s b s1 oi o gs fs h hb hoi ho hown htier hrange harr hmode hgs hquota honly halloc
    subst hb hoi ho
    change execObjReplicate src e s = _
    rw [execObjReplicate, serve_of_taken h]
    refine congrArg _ ((if_neg (not_disowned hown)).trans ((if_neg (tier_ok htier hrange)).trans ((if_neg (by simpa using harr)).trans
      ((if_neg (by simpa using hmode)).trans ?_))))
    exact migBegin_taking honly (Nat.le_refl 2) (fun _ => hmode) hgs hquota halloc
  · intro src e s b oi o h hb hoi ho hown hquota honly
    subst hb hoi ho
    change execObjReplicaDrop src e s = _
    rw [execObjReplicaDrop, serve_of_taken h]
    refine congrArg _ ((if_neg (not_disowned hown)).trans ((migBegin_frameless honly (by decide) hquota).trans ?_))
    simp [asked, chOf]
  · intro src e s b oi o h hb hoi ho hown hrange hquota honly
    subst hb hoi ho
    change execObjFlush src e s = _
    rw [execObjFlush, serve_of_taken h]
    exact congrArg _ ((if_neg (not_disowned hown)).trans ((if_neg (by simpa using hrange)).trans
      (migBegin_frameless honly (by decide) hquota)))
  · intro src e s b s1 oi k o gs fs h hb hoi ho hown htier hk hrange harr hmode hgs hquota honly halloc
    subst hb hoi ho
    change execObjMigrate src e s = _
    rw [execObjMigrate, serve_of_taken h]
    have hk1 : k ≤ 1 := by
      rw [hk]
      split <;> decide
    have hk2 : k ≠ 2 := by omega
    have hmode' : ¬ (k = 1 ∧ (!modeOk (objAt (begun src e s) (bits e.a0 16 0)).mode (bits e.a0 19 18)) = true) := by
      simpa using hmode
    refine congrArg _ ((if_neg (not_disowned hown)).trans ((if_neg (tier_ok htier hrange)).trans ((if_neg (by simpa using harr)).trans ?_)))
    simp only [← hk]
    rw [if_neg hmode', migBegin_taking honly (by omega) (fun h => hmode (by omega)) hgs hquota halloc, startedEntry,
      if_neg (show (asked _ k _ _ _ _ _ _ _).kind ≠ 2 from hk2)]
    rfl
  · intro src e s b oi o x h hb hoi ho hown hrange hx hxo hnew hstarted hfull hbusy
    subst hb hoi ho
    change execObjFlush src e s = _
    rw [execObjFlush, serve_of_taken h]
    exact congrArg _ ((if_neg (not_disowned hown)).trans ((if_neg (by simpa using hrange)).trans
      (migPump_waits 63 rfl hx hxo hnew hstarted hfull hbusy)))
  · intro i op src e s hmem h hown
    have hnot : (!ownsObj (cmdOf s src e).ch (objAt (begun src e s) (bits e.a0 16 0))) = true := by
      simpa [chOf] using hown
    simp only [List.mem_cons, Prod.mk.injEq, List.not_mem_nil, or_false] at hmem
    obtain ⟨rfl, rfl⟩ | ⟨rfl, rfl⟩ | ⟨rfl, rfl⟩ | ⟨rfl, rfl⟩ | ⟨rfl, rfl⟩ := hmem
    · change execObjFree src e s = _
      rw [execObjFree]
      exact serve_eq_answer h (if_pos hnot)
    · change execObjReplicate src e s = _
      rw [execObjReplicate]
      exact serve_eq_answer h (if_pos hnot)
    · change execObjReplicaDrop src e s = _
      rw [execObjReplicaDrop]
      exact serve_eq_answer h (if_pos hnot)
    · change execObjFlush src e s = _
      rw [execObjFlush]
      exact serve_eq_answer h (if_pos hnot)
    · change execObjMigrate src e s = _
      rw [execObjMigrate]
      exact serve_eq_answer h (if_pos hnot)

end Sys2Proof.MovesBegin
end


section
/-! PROOF. The course of a step: the reduction of its sheaves, its norm, its commit, and its delta stream (R285, R286, R297, R314, R317). -/

open Sys2Proof Sys2Proof.Machine Sys2Proof.Claim Sys2Proof.Channels

namespace Sys2Proof.StepCourse

/-! ### What leaves the training state of every channel as it was -/

/-- The training state of every channel stays. -/
structure TrnKept (s t : State) : Prop where
  trn : ∀ d, (chanAt t d).trn = (chanAt s d).trn

theorem TrnKept.refl (s : State) : TrnKept s s := ⟨fun _ => rfl⟩

theorem TrnKept.trans {s t u : State} (h : TrnKept s t) (h' : TrnKept t u) : TrnKept s u := ⟨fun d => (h'.trn d).trans (h.trn d)⟩

theorem trnKept_of_chans {s t : State} (h : t.chans = s.chans) : TrnKept s t := ⟨fun d => by rw [chanAt, h, chanAt]⟩

theorem trnKept_modChan (s : State) (c : Nat) (f : Chan → Chan) (h : ∀ k, (f k).trn = k.trn) : TrnKept s (modChan s c f) := by
  refine ⟨fun d => ?_⟩
  by_cases hd : d = c
  · rw [hd, chanAt_modChan_same, h]
  · rw [chanAt_modChan_ne s f hd]

theorem trnKept_foldl {α : Type} {f : State → α → State} (h : ∀ s x, TrnKept s (f s x)) : ∀ (l : List α) (s : State), TrnKept s (l.foldl f s)
  | [], s => .refl s
  | x :: l, s => (h s x).trans (trnKept_foldl h l (f s x))

theorem trnKept_setEv (b : Blk) (ev n : Nat) (s : State) : TrnKept s (setEv b ev n s) := by
  refine ⟨fun d => ?_⟩
  obtain ⟨q, h⟩ := chanAt_setEv b ev n s d
  rw [h]

theorem trnKept_owe (c : Nat) (r : CplRec) (irq : Bool) (pos : Option Nat) (s : State) : TrnKept s (owe c r irq pos s) := by
  refine ⟨fun d => ?_⟩
  obtain ⟨q, h⟩ := chanAt_owe c r irq pos s d
  rw [h]

theorem trnKept_wr (s : State) (b : Blk) (off : Nat) (w : Word) : TrnKept s (wr s b off w) := trnKept_of_chans rfl

theorem trnKept_cntAdd (b : Blk) (off n : Nat) (s : State) : TrnKept s (cntAdd b off n s) := by
  unfold cntAdd
  split
  · exact .refl s
  · dsimp only
    split
    · exact .refl s
    · split
      · exact trnKept_of_chans rfl
      · split
        · exact trnKept_wr ..
        · exact ((trnKept_wr ..).trans (trnKept_wr ..)).trans (trnKept_setEv ..)

theorem trnKept_finishRingK (c pos kind status : Nat) (rs : List Word) (s : State) : TrnKept s (finishRingK c pos kind status rs s) := by
  unfold finishRingK
  split
  · exact .refl s
  · unfold ringFinish
    have hcmd := (trnKept_modChan s c (fun k => { k with rings := { k.rings with
      cmds := k.rings.cmds.map (fun y => if y.pos = pos then { y with st := 2 } else y) } }) fun _ => rfl)
    dsimp only
    split
    · exact (hcmd.trans (trnKept_owe ..)).trans (trnKept_setEv ..)
    · exact hcmd.trans (trnKept_owe ..)

theorem trnKept_normRecord (c : Nat) (s : State) : TrnKept s (normRecord c s) := by
  unfold normRecord
  dsimp only
  split
  · exact .refl s
  · exact trnKept_finishRingK ..

theorem trnKept_modUsed (s : State) (c tier : Nat) (f : Nat → Nat) : TrnKept s (modUsed s c tier f) :=
  trnKept_modChan s c _ fun _ => rfl

theorem trnKept_freeShare (g : Nat) (s : State) : TrnKept s (freeShare g s) := by
  unfold freeShare
  split
  · exact .refl s
  · exact trnKept_of_chans rfl

theorem trnKept_credit (o : Obj) (tier f : Nat) (s : State) :
    TrnKept s (if o.orphan then freeFrame s tier f else modUsed (freeFrame s tier f) o.owner tier (· - 1)) := by
  split
  · exact trnKept_of_chans rfl
  · exact (trnKept_of_chans (s := s) (t := freeFrame s tier f) rfl).trans (trnKept_modUsed ..)

theorem TrnKept.shareFreed {s t : State} (h : TrnKept s t) (b : Bool) (g : Nat) : TrnKept s (if b then freeShare g t else t) := by
  split
  · exact h.trans (trnKept_freeShare ..)
  · exact h

theorem trnKept_releaseObj (s : State) (oi : Nat) : TrnKept s (releaseObj s oi) := by
  unfold releaseObj
  extract_lets o n credit s1 s2
  have hframes : TrnKept s s1 := by
    refine trnKept_foldl (fun v g => ?_) _ s
    dsimp only
    split
    · exact (trnKept_credit ..).trans (trnKept_credit ..)
    · exact trnKept_credit ..
  have hentry : TrnKept s1 s2 := trnKept_of_chans rfl
  exact (hframes.trans hentry).shareFreed ..

theorem chans_of_allocFrames {s t : State} {tier field n : Nat} {loc : Bool} {fs : List Nat}
    (h : allocFrames s tier field loc n = some (fs, t)) : t.chans = s.chans := by
  unfold allocFrames at h
  split at h
  · exact nomatch h
  · obtain ⟨-, rfl⟩ := Prod.mk.inj (Option.some.inj h)
    rfl

theorem trnKept_removeMig (m : MigCmd) (s : State) : TrnKept s (removeMig m s) := trnKept_of_chans rfl

theorem trnKept_migStart (m : MigCmd) (s : State) : TrnKept s (migStart m s) := by
  have hfail : ∀ st, TrnKept s (finishRing m.ch m.pos st [] (removeMig m s)) := fun st =>
    (trnKept_removeMig m s).trans (trnKept_finishRingK ..)
  unfold migStart
  extract_lets o gs needs fail
  split
  · exact hfail _
  · split
    · exact hfail _
    · split
      · exact hfail _
      · next fs t halloc =>
        extract_lets u1 u2
        have hused : TrnKept s u1 := (trnKept_of_chans (chans_of_allocFrames halloc)).trans (trnKept_modUsed ..)
        exact hused.trans (trnKept_of_chans rfl)

theorem trnKept_migEnd (m : MigCmd) (s : State) : TrnKept s (migEnd m s) :=
  (trnKept_of_chans (s := s) (t := removeMig m (settleEntry m s)) rfl).trans (trnKept_finishRingK ..)

theorem trnKept_startMove (m : MigCmd) (g tgt aborts : Nat) (s : State) : TrnKept s (startMove m g tgt aborts s) := trnKept_of_chans rfl

theorem trnKept_migPump : ∀ (n : Nat) (s : State), TrnKept s (migPump n s)
  | 0, s => .refl s
  | n + 1, s => by
    rw [migPump]
    split
    · exact (trnKept_migStart ..).trans (trnKept_migPump n _)
    · split
      · exact (trnKept_migEnd ..).trans (trnKept_migPump n _)
      · split
        · exact .refl s
        · split
          · exact .refl s
          · exact (trnKept_startMove ..).trans (trnKept_migPump n _)

/-! ### The commit -/

/-- The record of a step ends its attempt: what the attempt kept is empty, and the rest of the training state goes on (R16, R150). -/
theorem trn_closeStep (c n : Nat) (skip : Bool) (ts : List (Nat × Nat × Bool × Bool)) (s : State) :
    (chanAt (closeStep c n skip ts s) c).trn.recorded = n ∧ (chanAt (closeStep c n skip ts s) c).trn.sheaves = [] ∧
    (chanAt (closeStep c n skip ts s) c).trn.close = none ∧
    (chanAt (closeStep c n skip ts s) c).trn.committed = (chanAt s c).trn.committed ∧
    (chanAt (closeStep c n skip ts s) c).trn.consecSkips = (chanAt s c).trn.consecSkips := by
  have hrec : TrnKept s (if (chanAt s c).rcv.st = 3 then modChanRcv (normRecord c s) c (fun r => { r with st := 0 }) else s) := by
    split
    · exact (trnKept_normRecord c s).trans (trnKept_modChan _ _ _ fun _ => rfl)
    · exact .refl s
  unfold closeStep
  extract_lets u
  rw [(trnKept_migPump 64 _).trn c, chanAt_modTrn_same]
  have hcom : (chanAt u c).trn.committed = (chanAt s c).trn.committed := by rw [hrec.trn c]
  have hskips : (chanAt u c).trn.consecSkips = (chanAt s c).trn.consecSkips := by rw [hrec.trn c]
  exact ⟨rfl, rfl, rfl, hcom, hskips⟩

/-- A commit's scale changes L and the clean count alone (R152, R153). -/
theorem trn_commitScale (c n : Nat) (s : State) :
    ∃ l k, (chanAt (commitScale c n s) c).trn = { (chanAt s c).trn with lsExp := l, clean := k } := by
  unfold commitScale
  extract_lets t ctrl k
  have hceil : TrnKept s (if 24 ≤ t.lsExp then setEv (.chn c) Reg.CHN_NUM_EVENT Bit.CHN_NUM_EVENT_LS_CEIL s else s) := by
    split
    · exact trnKept_setEv ..
    · exact .refl s
  split
  · rw [chanAt_modTrn_same, hceil.trn c]
    exact ⟨_, _, rfl⟩
  · rw [chanAt_modTrn_same]
    exact ⟨_, _, rfl⟩

/-- A commit makes its step the last recorded and the last committed one, and begins the count of skips anew (R297). -/
theorem trn_commitStep (c n : Nat) (s : State) :
    (chanAt (commitStep c n s) c).trn.committed = n ∧ (chanAt (commitStep c n s) c).trn.recorded = n ∧
    (chanAt (commitStep c n s) c).trn.sheaves = [] ∧ (chanAt (commitStep c n s) c).trn.close = none ∧
    (chanAt (commitStep c n s) c).trn.consecSkips = 0 := by
  unfold commitStep
  extract_lets k ex sets s1 s2 s3 s4 r1 s5
  have hs1 : (chanAt s1 c).trn.committed = n ∧ (chanAt s1 c).trn.consecSkips = 0 := by
    rw [chanAt_modTrn_same]
    exact ⟨rfl, rfl⟩
  have hs2 : TrnKept s1 (cntInc (.chn c) Reg.CHN_CNT_COMMITS s2) := (trnKept_foldl trnKept_releaseObj _ s1).trans (trnKept_cntAdd ..)
  obtain ⟨l, q, hs3⟩ := trn_commitScale c n (cntInc (.chn c) Reg.CHN_CNT_COMMITS s2)
  have hs4 : TrnKept s3 s4 := by
    dsimp only [s4]
    split
    · exact (trnKept_setEv ..).trans (trnKept_cntAdd ..)
    · exact .refl s3
  have hs5 : TrnKept s4 s5 := by
    dsimp only [s5]
    split
    · exact trnKept_finishRingK ..
    · exact trnKept_owe ..
  have htrn : (chanAt s5 c).trn = { (chanAt s1 c).trn with lsExp := l, clean := q } := by
    rw [(hs4.trans hs5).trn c, hs3, hs2.trn c]
  obtain ⟨hrec, hsh, hcl, hcom, hskips⟩ := trn_closeStep c n false ex s5
  exact ⟨hcom.trans ((congrArg Trn.committed htrn).trans hs1.1), hrec, hsh, hcl, hskips.trans ((congrArg Trn.consecSkips htrn).trans hs1.2)⟩

/-! ### A segment formed -/

theorem trnKept_foldl_fst {α β : Type} {f : State × β → α → State × β} (h : ∀ a x, TrnKept a.1 (f a x).1) :
    ∀ (l : List α) (a : State × β), TrnKept a.1 (l.foldl f a).1
  | [], a => .refl a.1
  | x :: l, a => (h a x).trans (trnKept_foldl_fst h l (f a x))

theorem trnKept_streamBlock (edge : Nat) (data : List Byte) (tag : Nat) (s : State) : TrnKept s (streamBlock edge data tag s).1 := by
  unfold streamBlock
  extract_lets b n r s1 s2
  have h1 : TrnKept s s1 := (trnKept_cntAdd ..).trans (trnKept_cntAdd ..)
  refine h1.trans ?_
  dsimp only [s2]
  split
  · exact trnKept_cntAdd ..
  · split
    · exact trnKept_cntAdd ..
    · exact .refl s1

theorem trnKept_edgeStream (edge : Nat) (data : List Byte) (tag : Nat) (s : State) : TrnKept s (edgeStream edge data tag s).1 := by
  unfold edgeStream
  refine trnKept_foldl_fst (fun _ _ => ?_) (List.range _) (s, [], [])
  exact trnKept_streamBlock ..

/-- Forming a segment counts what its edge compresses, and leaves the training state as it was. -/
theorem trnKept_segmentOf (c edge : Nat) (d : ExportDue) (resync : Bool) (s : State) : TrnKept s (segmentOf c edge d resync s).1 := by
  unfold segmentOf
  refine trnKept_foldl_fst (fun _ _ => ?_) (deltaEntries _ d) (s, [], [])
  exact trnKept_edgeStream edge _ d.step _

theorem modTrn_congr {s : State} {c : Nat} {f g : Trn → Trn} (h : f (chanAt s c).trn = g (chanAt s c).trn) : modTrn s c f = modTrn s c g := by
  unfold modTrn modChan
  beta_reduce
  rw [h]

/-! ### The obligation -/

theorem setAt_modSheaf (c n : Nat) (g : Sheaf → Sheaf) (s : State) (i : Nat) : setAt (modSheaf c n g s) c i = setAt s c i := by
  rw [setAt, setAt, modSheaf, chanAt_modTrn_same]

theorem roleGroup_modTrn (c : Nat) (f : Trn → Trn) (s : State) (d role : Nat) : roleGroup (modTrn s c f) d role = roleGroup s d role := rfl

/-- What a timeout abandons begins with the first segment that waits (R317). -/
theorem head?_abandoned_of_some {l : List DeltaSeg} {p : DeltaSeg → Bool} {g : DeltaSeg} (ns : List Nat) (h : l.find? p = some g) :
    ((l.filter p).map (·.step) ++ ns).head? = some g.step := by
  rw [← List.head?_filter] at h
  rw [List.head?_append, List.head?_map, h]
  rfl

theorem head?_abandoned_of_none {l : List DeltaSeg} {p : DeltaSeg → Bool} (ns : List Nat) (h : l.find? p = none) :
    ((l.filter p).map (·.step) ++ ns).head? = ns.head? := by
  rw [← List.head?_filter, List.head?_eq_none_iff] at h
  rw [h]
  rfl

/-- Settles O31: each event by the branches of its definition; a commit's records end its attempt. -/
theorem stepsReduceCommitAndExport : Obligations.StepsReduceCommitAndExport := by
  unfold Obligations.StepsReduceCommitAndExport
  refine ⟨?_, ?_, ?_, ?_, ?_, ?_, ?_, ?_, ?_, ?_⟩
  · intro c n f s hc hf hst hrcv hcomp hp
    have hno : ¬ (2 ≤ f.st ∨ (chanAt s c).rcv.st ≠ 0 ∨ (!sheafComplete s c f) = true ∨ (!canReduce s c f) = true) := by
      simp [hst, hrcv, hcomp, canReduce, hp]
    change execSheafComplete c n s = _
    rw [execSheafComplete, atUnit_of_lt hc, hf]
    refine congrArg _ ((if_neg hno).trans ((if_neg (by omega)).trans ?_))
    dsimp only
    rw [setAt_modSheaf]
    split
    · rw [if_pos hp]
    · rfl
  · intro c n gn f g s hc hf hst hrcv hcomp hp hrole hext hab hfen
    have hcan : canReduce s c f = true := by simp [canReduce, hrole, hext, hab, hfen]
    have hno : ¬ (2 ≤ f.st ∨ (chanAt s c).rcv.st ≠ 0 ∨ (!sheafComplete s c f) = true ∨ (!canReduce s c f) = true) := by
      simp [hst, hrcv, hcomp, hcan]
    have hrole' : roleGroup (modSheaf c n (fun f => { f with st := 1 }) s) c 0 = some (gn, g) := hrole
    change execSheafComplete c n s = _
    rw [execSheafComplete, atUnit_of_lt hc, hf]
    refine congrArg _ ((if_neg hno).trans ((if_neg (by omega)).trans ?_))
    dsimp only
    rw [hrole']
    dsimp only
    rw [setAt_modSheaf, if_neg hp]
  · intro c n m p x xs s hc hclose hready hrole hnums
    change execNormStart c s = _
    rw [execNormStart, atUnit_of_lt hc]
    dsimp only
    rw [hclose]
    refine congrArg _ ((if_neg (by simp [hready])).trans ?_)
    rw [hnums, roleGroup_modTrn, hrole]
  · intro c n m p gn g x xs y s u hc hclose hready hrole hrank hnums hu hy
    change execNormStart c s = _
    rw [execNormStart, atUnit_of_lt hc]
    dsimp only
    rw [hclose]
    refine congrArg _ ((if_neg (by simp [hready])).trans ?_)
    rw [hnums, roleGroup_modTrn, hrole]
    refine (if_pos hrank).trans ?_
    dsimp only
    rw [← hu, hy]
  · intro c n m p gn g x xs s hc hclose hready hrole hrank hnums
    change execNormStart c s = _
    rw [execNormStart, atUnit_of_lt hc]
    dsimp only
    rw [hclose]
    refine congrArg _ ((if_neg (by simp [hready])).trans ?_)
    rw [hnums, roleGroup_modTrn, hrole]
    exact if_neg hrank
  · intro c s hc hready
    refine ⟨_, ?_, rfl, trn_commitStep c _ s⟩
    change execStepCommit c s = _
    rw [execStepCommit, atUnit_of_lt hc]
    exact onlyIf_of_true hready s _
  · intro c d rest s u bs t hc hlive ht hex hset hseg hroom
    subst ht
    have hno : ¬ ((!(chanAt s c).live || !(chanAt s c).trn.sink.set) = true) := by simp [hlive, hset]
    change execDeltaExportStart c s = _
    rw [execDeltaExportStart, atUnit_of_lt hc]
    dsimp only
    rw [hex]
    refine congrArg _ ((if_neg hno).trans ?_)
    rw [hseg]
    refine (if_neg (Nat.not_lt.2 hroom)).trans (modTrn_congr ?_)
    have hu : (chanAt u c).trn = (chanAt s c).trn := by
      have hkept := trnKept_segmentOf c (sinkEdge s (chanAt s c).trn.sink) d (chanAt s c).trn.resync s
      rw [hseg] at hkept
      exact hkept.trn c
    rw [chanAt_modTrn_same, hu]
  · intro c off g s t hc ht hfind hat hplace hpeer hopen hset hlen
    subst ht
    have hroom : sinkRoom (chanAt s c).trn.sink = (chanAt s c).trn.sink.size := by simp [sinkRoom, hpeer]
    change execDeltaSegmentWrite c s = _
    rw [execDeltaSegmentWrite, atUnit_of_lt hc]
    dsimp only
    rw [hfind]
    dsimp only
    rw [hat, Option.filter_none]
    dsimp only
    rw [hplace]
    dsimp only
    refine congrArg _ ((if_neg ?_).trans ?_)
    · simp [hpeer, hopen, hset, hroom, hlen]
    · rw [hpeer]
      rfl
  · intro c n s t lost hc hlive ht hlost hfirst hwait
    subst ht hlost
    change execDeltaWaitTimeout c s = _
    rw [execDeltaWaitTimeout, atUnit_of_lt hc]
    dsimp only
    split
    · next g hg =>
      rw [head?_abandoned_of_some _ hg] at hfirst
      cases hfirst
      exact onlyIf_of_true (by simp [hlive, hwait]) s _
    · next hg =>
      rw [head?_abandoned_of_none _ hg] at hfirst
      rw [hfirst]
      exact onlyIf_of_true (by simp [hlive, hwait]) s _
  · intro c w s hc hlive hmode
    change execDeltaHeadWrite c w s = _
    rw [execDeltaHeadWrite, atUnit_of_lt hc]
    exact onlyIf_of_true (by simp [hlive, hmode]) s _

end Sys2Proof.StepCourse
end


section
/-! PROOF. The messages of other modules: requests and their answers, fences, and what collectives wait for (R261, R336, R338, R346, R350). -/

open Sys2Proof Sys2Proof.Machine Sys2Proof.Claim Sys2Proof.Channels Sys2Proof.Accesses

namespace Sys2Proof.Messages

/-! ### A message taken from the inbox, or kept there -/

/-- The inbox without the oldest copy of a message. -/
def without (m : Msg) (l : List InMsg) : List InMsg :=
  match l.find? (fun y => y.m == m) with
  | some y => l.erase y
  | none => l

theorem without_map (m : Msg) : ∀ l : List InMsg, (without m l).map (·.m) = (l.map (·.m)).erase m
  | [] => rfl
  | y :: l => by
    have ih := without_map m l
    unfold without at ih ⊢
    by_cases hy : y.m = m
    · simp [hy]
    · have hne : ∀ z, l.find? (fun y => y.m == m) = some z → y ≠ z := by
        intro z hz hyz
        have hzm : z.m = m := by simpa using List.find?_some hz
        exact hy (hyz ▸ hzm)
      cases hf : l.find? (fun y => y.m == m) with
      | none =>
        rw [hf] at ih
        simp [hy, hf, ← ih]
      | some z =>
        rw [hf] at ih
        simp [hy, hf, hne z hf, ← ih]

/-- A message taken leaves the rest of the inbox, and of the links all but the credits of the place it held. -/
theorem links_takeMsg (m : Msg) (s : State) :
    ∃ ps, takeMsg m s = { s with links := { s.links with inbox := without m s.links.inbox, ports := ps } } := by
  unfold takeMsg leavePlace
  split
  · exact ⟨_, rfl⟩
  · exact ⟨_, rfl⟩

@[simp] theorem groupAt_takeMsg (m : Msg) (s : State) (g : Nat) : groupAt (takeMsg m s) g = groupAt s g := by
  obtain ⟨ps, h⟩ := links_takeMsg m s
  rw [h]
  rfl

@[simp] theorem domainAt_takeMsg (m : Msg) (s : State) (d : Nat) : domainAt (takeMsg m s) d = domainAt s d := by
  obtain ⟨ps, h⟩ := links_takeMsg m s
  rw [h]
  rfl

@[simp] theorem sliceGen_takeMsg (m : Msg) (s : State) (p : Option Nat) : sliceGen (takeMsg m s) p = sliceGen s p := by
  simp only [sliceGen, domainAt_takeMsg]

@[simp] theorem remote_takeMsg (m : Msg) (s : State) : (takeMsg m s).links.remote = s.links.remote := by
  obtain ⟨ps, h⟩ := links_takeMsg m s
  rw [h]

@[simp] theorem inbox_takeMsg (m : Msg) (s : State) : (takeMsg m s).links.inbox = without m s.links.inbox := by
  obtain ⟨ps, h⟩ := links_takeMsg m s
  rw [h]

theorem takeMsg_eq (m : Msg) (s : State) : takeMsg m s = { s with links := (takeMsg m s).links } := by
  obtain ⟨ps, h⟩ := links_takeMsg m s
  rw [h]

/-- A port whose place is left goes on as it did: only its credits owed change. -/
theorem portAt_leavePlace (q : Option RxPlace) (s : State) (p : Nat) :
    ∃ l, portAt (leavePlace q s) p = { portAt s p with owedCr := l } := by
  unfold leavePlace
  split
  · exact ⟨_, rfl⟩
  · next r =>
    by_cases hp : p = r.port
    · by_cases hlen : p < s.links.ports.length
      · subst hp
        exact ⟨_, portAt_modPort_same s _ hlen⟩
      · have hout : s.links.ports.length ≤ r.port := hp ▸ Nat.le_of_not_lt hlen
        exact ⟨_, by rw [portAt, modPort, setPort, modLinks, List.set_eq_of_length_le hout, portAt]⟩
    · exact ⟨_, portAt_modPort_ne s _ hp⟩

@[simp] theorem portUsable_takeMsg (m : Msg) (s : State) (p : Nat) : portUsable (takeMsg m s) p = portUsable s p := by
  obtain ⟨l, h⟩ := portAt_leavePlace (placeOf s m) (modLinks s (fun l => { l with inbox := without m l.inbox })) p
  have hdis : portDisabled (takeMsg m s) p = portDisabled s p := by
    obtain ⟨ps, h⟩ := links_takeMsg m s
    rw [h]
    rfl
  have hport : portAt (takeMsg m s) p = { portAt s p with owedCr := l } := h
  rw [portUsable, portUsable, hport, hdis]

@[simp] theorem routeOf_takeMsg (m : Msg) (s : State) (dst : Nat) : routeOf (takeMsg m s) dst = routeOf s dst := by
  obtain ⟨ps, h⟩ := links_takeMsg m s
  have hdev : (takeMsg m s).links.deviceId = s.links.deviceId := by rw [h]
  have hroute : routeAt (takeMsg m s) dst = routeAt s dst := by
    rw [h]
    rfl
  rw [routeOf, routeOf, hdev, hroute]
  simp only [portUsable_takeMsg]

theorem portAgent_takeMsg (m q : Msg) (s : State) (dead : List Nat) : portAgent (takeMsg m s) q dead = portAgent s q dead := by
  rw [portAgent, portAgent, routeOf_takeMsg, groupAt_takeMsg]

/-! ### Whose turn a message is -/

theorem onMsg_of_turn {k : Nat} {m : Msg} {s : State} (hk : m.kind = k) (ht : msgTurn s m = true) (f : State → State) :
    onMsg k m s f = .next (f s) :=
  onlyIf_of_true (by simp [hk, ht]) s f

/-- A message of VC0 or VC3 is served as it arrives. -/
theorem msgTurn_of_unordered {m : Msg} (h : kindVc m.kind = 0 ∨ kindVc m.kind = 3) (s : State) : msgTurn s m = true := by
  unfold msgTurn
  obtain h | h := h
  · rw [h]
    rfl
  · rw [h]
    rfl

theorem onVc3_of_takes {m : Msg} {s : State} (h : GroupTakes (groupAt s m.group) m) (f : State → State) : onVc3 m f s = f s := by
  obtain ⟨hlive, hepoch, hrejoin, hfenced⟩ := h
  simp [onVc3, hlive, hepoch, hrejoin, hfenced]

/-! ### FENCE -/

/-- What a fence discards: the requests and the messages of the collectives of its group. -/
def fenceTakes (g : Nat) (q : Msg) : Bool := q.group == g && (kindVc q.kind == 1 || kindVc q.kind == 3)

/-- With no request among them, the messages that a fence discards only leave the inbox (R338). -/
theorem fence_discards : ∀ (l : List Msg) (s : State), (∀ q ∈ l, kindVc q.kind ≠ 1) →
    ∃ u, l.foldl (fun s q => let s := takeMsg q s; if kindVc q.kind = 1 then respond q 0x22 ST_FENCED [] s else s) s = u ∧
      u.links.inbox.map (·.m) = (s.links.inbox.map (·.m)).diff l ∧ (∀ g, groupAt u g = groupAt s g) ∧ u = { s with links := u.links }
  | [], s, _ => ⟨s, rfl, rfl, fun _ => rfl, rfl⟩
  | q :: l, s, h => by
    obtain ⟨u, hfold, hin, hgr, hu⟩ := fence_discards l (takeMsg q s) fun x hx => h x (List.mem_cons_of_mem _ hx)
    refine ⟨u, ?_, ?_, fun g => (hgr g).trans (groupAt_takeMsg q s g), ?_⟩
    · rw [List.foldl_cons]
      dsimp only
      rw [if_neg (h q (List.mem_cons_self ..))]
      exact hfold
    · rw [hin, inbox_takeMsg, without_map, List.diff_cons]
    · rw [hu, takeMsg_eq q s]

/-- A group as its FENCE leaves it, before what it waits to receive is discarded. -/
def fenced (m : Msg) (s : State) : State := modGroup (takeMsg m s) m.group (fun g => { g with fenced := true })

theorem inbox_fenced (m : Msg) (s : State) : (fenced m s).links.inbox.map (·.m) = (s.links.inbox.map (·.m)).erase m :=
  (congrArg (List.map (·.m)) (inbox_takeMsg m s)).trans (without_map ..)

theorem not_of_mem_diff_filter {p : Msg → Bool} {l : List Msg} {q : Msg} (h : q ∈ l.diff (l.filter p)) : p q = false := by
  by_contra hp
  have hp' : p q = true := by simpa using hp
  have hcount := List.count_pos_iff.2 h
  rw [List.count_diff, List.count_filter hp', Nat.sub_self] at hcount
  exact Nat.lt_irrefl 0 hcount

/-! ### Answers of a peer (R336, R337) -/

theorem peerAnswer_of_waiting {m : Msg} {r : Remote} {s : State} (hgen : m.gen = sliceGen s (some r.port))
    (hr : s.links.remote.find? (fun r => r.tag == m.tag) = some r) (f : Remote → State → State) :
    peerAnswer m f s = f r (modLinks (takeMsg m s) (fun l => { l with remote := l.remote.filter (fun q => q.tag != m.tag) })) := by
  unfold peerAnswer
  simp only [remote_takeMsg, hr, sliceGen_takeMsg]
  exact if_neg (not_not.2 hgen)

/-- A segment that its peer does not take is gone, with every request for it, and segments are missing from now on (R317). -/
theorem segLost_spec (r : Remote) (s : State) :
    (∀ q ∈ (segLost r s).links.remote, ¬ (q.ch = r.ch ∧ q.step = r.step)) ∧ (chanAt (segLost r s) r.ch).trn.deltaBroken = true ∧
    (chanAt (segLost r s) r.ch).trn.resync = true ∧ ∀ g ∈ (chanAt (segLost r s) r.ch).trn.segs, g.step ≠ r.step := by
  unfold segLost deltaBreak
  extract_lets u
  have hremote : ∀ v : State, v.links = u.links → ∀ q ∈ v.links.remote, ¬ (q.ch = r.ch ∧ q.step = r.step) := by
    intro v hv q hq
    rw [hv] at hq
    have hfar := (List.mem_filter.1 hq).2
    rintro ⟨hch, hstep⟩
    simp [hch, hstep] at hfar
  have hlinks : ∀ v : State, (setEv (.chn r.ch) Reg.CHN_TRN_EVENT Bit.CHN_TRN_EVENT_DELTA_BROKEN v).links = v.links := fun v => by
    rw [eq_of_keeps_count (keeps_setEv (.chn r.ch) Reg.CHN_TRN_EVENT Bit.CHN_TRN_EVENT_DELTA_BROKEN v)]
  refine ⟨hremote _ (hlinks _), ?_⟩
  obtain ⟨q, hq⟩ := chanAt_setEv (.chn r.ch) Reg.CHN_TRN_EVENT Bit.CHN_TRN_EVENT_DELTA_BROKEN (modTrn (modTrn u r.ch (fun t =>
    { t with segs := t.segs.filter (fun g => g.step != r.step) })) r.ch (fun t => { t with deltaBroken := true, resync := true })) r.ch
  rw [hq, chanAt_modTrn_same, chanAt_modTrn_same]
  refine ⟨rfl, rfl, fun g hg => ?_⟩
  simpa using (List.mem_filter.1 hg).2

/-! ### Accesses of a peer -/

theorem remoteGated_of_goes {m : Msg} {wrt : Bool} {n : Nat} {s : State} (h : PeerGoes s m wrt n) (k : List Nat → State → State) :
    remoteGated m wrt n k (keepMsg m s) = k (peerDead s m wrt n) (peerIn s m wrt n) := by
  obtain ⟨-, -, hgo⟩ := h
  exact gatedBy_of_goNow hgo

/-- A write to a granule that moves waits (R237). -/
theorem gatedBy_of_held {who req : Nat} {ch : Option Nat} {x : Access} {s : State} (hstuck : accessStuck s req x = none)
    (hnew : ∀ e ∈ requests s who ch [x], ∀ y ∈ engineOf s e.1, sameEntry e.2 y = false) (hw : x.write = true)
    (hbusy : rangeBusy s x.obj x.off x.n = true) (k : List Nat → State → State) :
    gatedBy id who ch req [x] k s = noteHeld who s x := by
  have hfirst : [x].findSome? (accessStuck s req) = none := by simp [hstuck]
  have hnone : ((requests s who ch [x]).any fun e => (engineOf s e.1).any (sameEntry e.2)) = false := by
    rw [List.any_eq_false]
    intro e he
    simpa using hnew e he
  rw [requests] at hnone
  rw [gatedBy, hfirst]
  dsimp only
  rw [hnone]
  refine (if_pos ?_).trans rfl
  simp [hw, hbusy]

/-! ### The obligation -/

/-- Settles O34: each message by the branches of its definition; `links_takeMsg` says what taking it leaves. -/
theorem messagesAreServed : Obligations.MessagesAreServed := by
  unfold Obligations.MessagesAreServed
  refine ⟨?_, ?_, ?_, ?_, ?_, ?_, ?_, ?_, ?_, ?_, ?_, ?_, ?_, ?_, ?_, ?_⟩
  · intro m s t u bs hk hgo hu hread
    subst hu
    obtain ⟨hturn, hstatus, -⟩ := id hgo
    change execRdReq m s = _
    rw [execRdReq, onMsg_of_turn hk hturn, hstatus]
    dsimp only
    rw [remoteGated_of_goes hgo]
    rw [hread]
    rfl
  · intro m st cause s hk hturn hstatus
    change execRdReq m s = _
    rw [execRdReq, onMsg_of_turn hk hturn, hstatus]
  · intro m s t u hk hfail hgo hu hup hwrite
    subst hu
    obtain ⟨hturn, hstatus, -⟩ := id hgo
    have hdown : (writeRuns (peerIn s m true m.data.length) (objAt (peerIn s m true m.data.length) m.obj) m.offset m.data.length).any
        (fun r => homeDown (peerIn s m true m.data.length) (keyHome r.1)) = false := by
      rw [List.any_eq_false]
      exact fun r hr => by simp [hup r hr]
    change execWrReq m s = _
    rw [execWrReq, onMsg_of_turn hk hturn, hstatus]
    refine congrArg _ ((if_neg (not_not.2 hfail)).trans ?_)
    rw [remoteGated_of_goes hgo]
    dsimp only
    rw [hdown, portAgent_takeMsg, hwrite]
    rfl
  · intro m s hk hfail hturn hstatus hstuck hnew hbusy
    change execWrReq m s = _
    rw [execWrReq, onMsg_of_turn hk hturn, hstatus]
    dsimp only
    exact congrArg _ ((if_neg (not_not.2 hfail)).trans (gatedBy_of_held hstuck hnew rfl hbusy _))
  · intro m st cause s hk hturn hstatus
    change execWrReq m s = _
    rw [execWrReq, onMsg_of_turn hk hturn, hstatus]
  · intro m s hk hlive hnone
    have hturn : msgTurn s m = true := msgTurn_of_unordered (.inl (by rw [hk]; rfl)) s
    have hexec : exec (.fence m) s = execFence m s := rfl
    rw [execFence, onMsg_of_turn hk hturn] at hexec
    dsimp only at hexec
    rw [groupAt_takeMsg, hlive, if_neg (by decide)] at hexec
    have hold : ∀ q ∈ (fenced m s).links.inbox.map (·.m), q.group = m.group → kindVc q.kind ≠ 1 := by
      intro q hq hg
      obtain ⟨y, hy, rfl⟩ := List.mem_map.1 (List.mem_of_mem_erase ((inbox_fenced m s) ▸ hq))
      exact hnone y hy hg
    obtain ⟨u, hfold, hin, hgr, hu⟩ := fence_discards (((fenced m s).links.inbox.map (·.m)).filter (fenceTakes m.group)) (fenced m s) (by
      intro q hq
      obtain ⟨hmem, htakes⟩ := List.mem_filter.1 hq
      simp only [fenceTakes, Bool.and_eq_true, beq_iff_eq] at htakes
      exact hold q hmem htakes.1)
    refine ⟨u, hexec.trans (congrArg _ hfold), ?_, fun q hq hg => ?_, ?_⟩
    · rw [hgr, fenced, groupAt_modGroup_same]
    · have hq' : q.m ∈ u.links.inbox.map (·.m) := List.mem_map_of_mem hq
      rw [hin] at hq'
      have hnot := not_of_mem_diff_filter hq'
      simpa [fenceTakes, hg] using hnot
    · rw [hu, fenced, takeMsg_eq m s]
      rfl
  · intro m s hk hlive
    have hturn : msgTurn s m = true := msgTurn_of_unordered (.inl (by rw [hk]; rfl)) s
    have hexec : exec (.unfence m) s = execUnfence m s := rfl
    rw [execUnfence, onMsg_of_turn hk hturn] at hexec
    refine ⟨_, hexec, ?_, fun g hg => ?_, ?_⟩
    · rw [groupAt_modGroup_same, groupAt_takeMsg, if_pos hlive]
    · rw [groupAt_modGroup_ne _ _ hg, groupAt_takeMsg]
    · rw [takeMsg_eq m s]
      rfl
  · intro m t p pos b s hk hpos hfind hb
    subst hpos hb
    have hturn : msgTurn s m = true := msgTurn_of_unordered (.inl (by rw [hk]; rfl)) s
    change execHuskResend m s = _
    rw [execHuskResend, onMsg_of_turn hk hturn]
    dsimp only
    rw [hfind]
  · intro m s hk hturn hgen
    change execRdResp m s = _
    rw [execRdResp, onMsg_of_turn hk hturn]
    exact congrArg _ (if_pos hgen)
  · intro m s hk hturn hgen
    change execRdResp m s = _
    rw [execRdResp, onMsg_of_turn hk hturn]
    exact congrArg _ (if_neg hgen)
  · intro m y s t u l bs hk htakes hfind hl hgo hu hread
    subst hl hu
    have hturn : msgTurn s m = true := msgTurn_of_unordered (.inr (by rw [hk]; rfl)) s
    change execCts m s = _
    rw [execCts, onMsg_of_turn hk hturn, onVc3_of_takes htakes]
    dsimp only
    rw [hfind]
    dsimp only
    rw [collGated, gated, gatedBy_of_goNow hgo]
    rw [hread]
    rfl
  · intro m i y s g hk hg htakes hi hfind
    subst hg
    have hturn : msgTurn s m = true := msgTurn_of_unordered (.inr (by rw [hk]; rfl)) s
    change execBarrier m s = _
    rw [execBarrier, onMsg_of_turn hk hturn, onVc3_of_takes htakes]
    dsimp only
    rw [hfind, hi]
  · intro i k m s g hmem hk hg hlive hepoch
    subst hg
    have hstale : ∀ f, onVc3 m f s =
        cntInc .abl Reg.ABL_CNT_STALE_DROP (setEv .abl Reg.ABL_EVENT Bit.ABL_EVENT_STALE_DROP (takeMsg m s)) := by
      intro f
      simp [onVc3, hlive, hepoch]
    simp only [List.mem_cons, Prod.mk.injEq, List.not_mem_nil, or_false] at hmem
    have hvc : kindVc m.kind = 3 := by
      obtain ⟨-, rfl⟩ | ⟨-, rfl⟩ | ⟨-, rfl⟩ := hmem
      · rw [hk]; rfl
      · rw [hk]; rfl
      · rw [hk]; rfl
    have hrun : ∀ f, onMsg k m s (onVc3 m f) = .next (cntInc .abl Reg.ABL_CNT_STALE_DROP
        (setEv .abl Reg.ABL_EVENT Bit.ABL_EVENT_STALE_DROP (takeMsg m s))) := fun f =>
      (onMsg_of_turn hk (msgTurn_of_unordered (.inr hvc) s) _).trans (congrArg _ (hstale f))
    obtain ⟨rfl, rfl⟩ | ⟨rfl, rfl⟩ | ⟨rfl, rfl⟩ := hmem
    · exact hrun _
    · exact hrun _
    · exact hrun _
  · intro m s g f hk hg htakes hmem
    subst hg
    have hturn : msgTurn s m = true := msgTurn_of_unordered (.inr (by rw [hk]; rfl)) s
    change execChunk m s = _
    rw [execChunk, onMsg_of_turn hk hturn, onVc3_of_takes htakes]
    simp only [List.mem_cons, Prod.mk.injEq, List.not_mem_nil, or_false] at hmem
    obtain ⟨ho, rfl⟩ | ⟨ho, rfl⟩ | ⟨ho, rfl⟩ | ⟨ho, rfl⟩ | ⟨ho, rfl⟩ | ⟨ho, rfl⟩ | ⟨ho, rfl⟩ := hmem
    · rw [ho]
      rfl
    · rw [ho]
      rfl
    · rw [ho]
      rfl
    · rw [ho]
      rfl
    · rw [ho]
      rfl
    · rw [ho]
      rfl
    · rw [ho]
      rfl
  · intro m r s t hk hturn hgen hr ht
    subst ht
    change execWrAck m s = _
    rw [execWrAck, onMsg_of_turn hk hturn, peerAnswer_of_waiting hgen hr]
  · intro m r s hk hturn hgen hr
    have hexec : exec (.err m) s = execErr m s := rfl
    rw [execErr, onMsg_of_turn hk hturn, peerAnswer_of_waiting hgen hr] at hexec
    exact ⟨_, hexec, segLost_spec r _⟩

end Sys2Proof.Messages
end


section
/-! PROOF. The torus, its routes, and the groups of collectives (R338 to R340, R343 to R345). -/

open Sys2Proof Sys2Proof.Machine Sys2Proof.Claim Sys2Proof.Channels Sys2Proof.RingCmds

namespace Sys2Proof.Groups

/-! ### The torus -/

/-- The links as TORUS_SET leaves them (R339). -/
def torusLinks (e : Entry) (l : Links) : Links :=
  { l with
    deviceId := bits e.a0 15 0, dims := bits e.a0 31 16, assigned := true,
    ports := l.ports.zipIdx.map (fun q => { q.1 with wrap := bit e.a0 (32 + q.2) }) }

/-- The torus gives a port its wrap bit alone. -/
theorem st_torusLinks (e : Entry) (s : State) (p : Nat) : (portAt (modLinks s (torusLinks e)) p).st = (portAt s p).st := by
  change ((s.links.ports.zipIdx.map (fun q : Port × Nat => { q.1 with wrap := bit e.a0 (32 + q.2) })).getD p {}).st = (s.links.ports.getD p {}).st
  rw [List.getD_eq_getElem?_getD, List.getD_eq_getElem?_getD, List.getElem?_map, List.getElem?_zipIdx]
  cases s.links.ports[p]? with
  | none => rfl
  | some x => rfl

theorem foldl_of_fixed {α β : Type} {f : β → α → β} {b : β} : ∀ {l : List α}, (∀ x ∈ l, f b x = b) → l.foldl f b = b
  | [], _ => rfl
  | x :: l, h => by
    rw [List.foldl_cons, h x (List.mem_cons_self ..)]
    exact foldl_of_fixed fun y hy => h y (List.mem_cons_of_mem _ hy)

/-- With no port HELD for its first assignment, none is taken up. -/
theorem foldl_acceptPeer {s : State} (h : ∀ p, p < 6 → (portAt s p).st ≠ 5) :
    (List.range 6).foldl (fun s p => if (portAt s p).st = 5 then acceptPeer p s else s) s = s :=
  foldl_of_fixed fun p hp => if_neg (h p (List.mem_range.1 hp))

/-! ### A table of routes -/

/-- An entry that a table of routes may hold: no bit outside its fields, and the other port of the axis as the alternate (R340). -/
theorem route_accepted {es : List Nat} (h : ∀ v ∈ es, v.testBit 7 = false ∧ nbits v 31 16 = 0 ∧ (v.testBit 6 = true → nbits v 2 0 < 6 →
      nbits v 5 3 = if nbits v 2 0 % 2 = 0 then nbits v 2 0 + 1 else nbits v 2 0 - 1)) :
    ¬ (es.any (fun v => v.testBit 7 || nbits v 31 16 != 0 || (v.testBit 6 && decide (nbits v 2 0 < 6) &&
      nbits v 5 3 != (if nbits v 2 0 % 2 = 0 then nbits v 2 0 + 1 else nbits v 2 0 - 1))) = true) := by
  rw [List.any_eq_true]
  rintro ⟨v, hv, hbad⟩
  obtain ⟨h7, hrsv, halt⟩ := h v hv
  rw [h7, hrsv] at hbad
  simp only [bne_self_eq_false, Bool.or_self, Bool.false_or, Bool.and_eq_true, decide_eq_true_eq, bne_iff_ne] at hbad
  obtain ⟨⟨h6, hlt⟩, hne⟩ := hbad
  exact hne (halt h6 hlt)

/-! ### The obligation -/

theorem not_torus_refused {id dims : Nat} (h : ∀ a, a < 3 → coord id a < dimOf dims a) :
    ¬ ((!((List.range 3).all (fun a => decide (coord id a < dimOf dims a)))) = true) := by
  simpa using h

/-- Settles O32: each command by the branches of its definition. -/
theorem groupsAreMade : Obligations.GroupsAreMade := by
  unfold Obligations.GroupsAreMade
  refine ⟨?_, ?_, ?_, ?_, ?_, ?_, ?_, ?_, ?_⟩
  · intro src e s b h hb hco hst
    subst hb
    have hheld : ∀ p, p < 6 → (portAt (modLinks (begun src e s) (torusLinks e)) p).st ≠ 5 := fun p hp =>
      (st_torusLinks e (begun src e s) p).symm ▸ hst p hp
    change execTorusSet src e s = _
    rw [execTorusSet]
    refine serve_eq_answer h ((if_neg (not_torus_refused hco)).trans ?_)
    exact congrArg (answer (cmdOf s src e) ST_OK []) (foldl_acceptPeer hheld)
  · intro src e s h hbad
    obtain ⟨a, ha, hle⟩ := hbad
    change execTorusSet src e s = _
    rw [execTorusSet]
    refine serve_eq_answer h (if_pos ?_)
    simp only [Bool.not_eq_true', List.all_eq_false, List.mem_range, decide_eq_true_eq]
    exact ⟨a, ha, Nat.not_lt.2 hle⟩
  · intro src e s h hbit
    change execRouteSet src e s = _
    rw [execRouteSet]
    exact serve_eq_answer h (if_pos (by simp [hbit]))
  · intro src e s b t o n bs es h hb hbit ho hn hpos hend hvalid hsize hread hes hok
    subst hb ho hn hes
    change execRouteSet src e s = _
    rw [execRouteSet]
    refine serve_eq_answer h ((if_neg (by simp [hbit])).trans ((if_neg (by omega)).trans ((if_neg ?_).trans ?_)))
    · simp [hvalid, hsize]
    · dsimp only
      rw [hread]
      exact (if_neg (not_not.2 rfl)).trans (if_neg (route_accepted hok))
  · intro src e s b bs g gn n o a h hb htab hdesc hrsv hok hrole
    subst hb
    rw [chOf] at htab hok
    change execCollGroupCreate src e s = _
    rw [execCollGroupCreate]
    refine serve_eq_answer h ?_
    dsimp only
    rw [htab]
    dsimp only
    rw [hdesc]
    exact (if_neg (by simp [hrsv, hok])).trans (if_pos hrole)
  · intro src e s b bs l g gn n o a ms h hb htab hdesc hrsv hok hrole htab' hms hself
    subst hb
    rw [chOf] at htab hok htab'
    change execCollGroupCreate src e s = _
    rw [execCollGroupCreate]
    refine serve_eq_answer h ?_
    dsimp only
    rw [htab]
    dsimp only
    rw [hdesc]
    refine (if_neg (by simp [hrsv, hok])).trans ((if_neg (not_not.2 hrole)).trans ?_)
    dsimp only
    rw [htab']
    dsimp only
    rw [hms]
    exact if_pos hself
  · intro src e s b h hb
    subst hb
    have hexec : exec (.collGroupFree src e) s = execCollGroupFree src e s := rfl
    rw [execCollGroupFree] at hexec
    split
    · next hown =>
      exact hexec.trans (serve_eq_answer h (if_pos (by simpa [chOf] using hown)))
    · next hown =>
      have howned : ¬ (!ownGroup (begun src e s) (cmdOf s src e).ch (bits e.a0 9 0)) = true := by simpa [chOf] using hown
      split
      · next hbusy =>
        exact hexec.trans (serve_eq_answer h ((if_neg howned).trans (if_pos (by simpa using hbusy))))
      · next hidle =>
        exact hexec.trans (serve_eq_answer h ((if_neg howned).trans (if_neg (by simpa using hidle))))
  · intro src e s b h hb hlive hring
    subst hb
    change execLinkFence src e s = _
    rw [execLinkFence]
    refine serve_eq_answer h (if_neg ?_)
    cases src with
    | ring c =>
      have hch : (groupAt (begun (.ring c) e s) (bits e.a0 9 0)).ch = c := hring c rfl
      simp [cmdOf, ownGroup, hlive, hch]
    | mbx m => simp [cmdOf, hlive]
    | smb => simp [cmdOf, hlive]
  · intro src e s b h hb hlive
    subst hb
    change execLinkFence src e s = _
    rw [execLinkFence]
    exact serve_eq_answer h (if_pos (by simp [hlive]))

end Sys2Proof.Groups
end


section
/-! PROOF. Commands whose accesses go before they are served: what an admitted access and a command that starts leave as they were. -/

open Sys2Proof Sys2Proof.Machine Sys2Proof.Claim Sys2Proof.Channels

namespace Sys2Proof.ServedCommands

/-- The parts that requests leaving the queues of their homes may change. -/
def admitTouch : Touch := { stackMap := true, deeps := true, heldBy := true }

theorem keeps_engineLeaves : ∀ (l : List (Nat × EngEntry)) {s v : State}, Keeps admitTouch s v → Keeps admitTouch s (l.foldl engineLeave v)
  | [], _, _, h => h
  | p :: l, _, v, h => keeps_engineLeaves l (engineLeave_keeps v p h ⟨rfl, rfl⟩)

/-- Accesses that go change the queues of their homes and the list of what is held alone. -/
theorem admitted_eq (s : State) (who : Nat) (ch : Option Nat) (l : List Access) :
    ∃ m d w, admitted s who ch l = { s with stackMap := m, deeps := d, heldBy := w } := by
  have hheld : ∃ w, (if s.heldBy.isEmpty then s else { s with heldBy := s.heldBy.filter (fun y => !(l.map (heldName who)).contains y) }) =
      { s with heldBy := w } := by
    split
    · exact ⟨s.heldBy, rfl⟩
    · exact ⟨_, rfl⟩
  obtain ⟨w, hw⟩ := hheld
  have h : Keeps admitTouch { s with heldBy := w } (admitted s who ch l) := by
    rw [admitted, hw]
    exact keeps_engineLeaves _ (Keeps.refl _ _)
  have hp := h.pending
  have hf := h.frame
  refine ⟨(admitted s who ch l).stackMap, (admitted s who ch l).deeps, (admitted s who ch l).heldBy, ?_⟩
  generalize admitted s who ch l = v at hp hf ⊢
  cases v
  simp only [State.mk.injEq]
  exact ⟨hp, hf.us rfl, hf.freeCtr rfl, hf.regs rfl, hf.tillers rfl, trivial, trivial, hf.dram rfl, hf.poison rfl, hf.husk rfl,
    hf.huskBad rfl, hf.objs rfl, hf.grans rfl, hf.shareGroups rfl, hf.used rfl, hf.migs rfl, trivial, hf.xlat rfl, hf.mbxs rfl,
    hf.chans rfl, hf.links rfl, hf.cxl rfl, hf.power rfl, hf.phys rfl, hf.boot rfl, hf.rcv rfl, hf.flights rfl, hf.notices rfl, hf.smbOut rfl⟩

/-- A command that starts changes its channel alone. -/
theorem begun_eq (src : CmdSrc) (e : Entry) (s : State) : ∃ k, begun src e s = { s with chans := k } := by
  have h : Keeps { chans := true } s (begun src e s) := markStarted_keeps _ s (Keeps.refl _ _) rfl
  have hp := h.pending
  have hf := h.frame
  refine ⟨(begun src e s).chans, ?_⟩
  generalize begun src e s = v at hp hf ⊢
  cases v
  simp only [State.mk.injEq]
  exact ⟨hp, hf.us rfl, hf.freeCtr rfl, hf.regs rfl, hf.tillers rfl, hf.stackMap rfl, hf.deeps rfl, hf.dram rfl, hf.poison rfl, hf.husk rfl,
    hf.huskBad rfl, hf.objs rfl, hf.grans rfl, hf.shareGroups rfl, hf.used rfl, hf.migs rfl, hf.heldBy rfl, hf.xlat rfl, hf.mbxs rfl,
    trivial, hf.links rfl, hf.cxl rfl, hf.power rfl, hf.phys rfl, hf.boot rfl, hf.rcv rfl, hf.flights rfl, hf.notices rfl, hf.smbOut rfl⟩

@[simp] theorem groupAt_begun (src : CmdSrc) (e : Entry) (s : State) (g : Nat) : groupAt (begun src e s) g = groupAt s g := by
  obtain ⟨k, h⟩ := begun_eq src e s
  rw [h]
  rfl

@[simp] theorem groupAt_admitted (s : State) (who : Nat) (ch : Option Nat) (l : List Access) (g : Nat) :
    groupAt (admitted s who ch l) g = groupAt s g := by
  obtain ⟨m, d, w, h⟩ := admitted_eq s who ch l
  rw [h]
  rfl

@[simp] theorem rangeStatus_begun (src : CmdSrc) (e : Entry) (s : State) (c : Nat) (wrt : Bool) (oi off n : Nat) :
    rangeStatus (begun src e s) c wrt oi off n = rangeStatus s c wrt oi off n := by
  obtain ⟨k, h⟩ := begun_eq src e s
  rw [h]
  rfl

@[simp] theorem rangeStatus_admitted (s : State) (who : Nat) (ch : Option Nat) (l : List Access) (c : Nat) (wrt : Bool) (oi off n : Nat) :
    rangeStatus (admitted s who ch l) c wrt oi off n = rangeStatus s c wrt oi off n := by
  obtain ⟨m, d, w, h⟩ := admitted_eq s who ch l
  rw [h]
  rfl

@[simp] theorem cmdOf_admitted (s : State) (who : Nat) (ch : Option Nat) (l : List Access) (src : CmdSrc) (e : Entry) :
    cmdOf (admitted s who ch l) src e = cmdOf s src e := by
  obtain ⟨m, d, w, h⟩ := admitted_eq s who ch l
  rw [h]
  rfl

/-- A command that can be served can be served when its accesses have gone. -/
theorem taken_admitted {op : Nat} {src : CmdSrc} {e : Entry} {s : State} (h : Taken op src e s) (who : Nat) (ch : Option Nat)
    (l : List Access) : Taken op src e (admitted s who ch l) := by
  obtain ⟨m, d, w, heq⟩ := admitted_eq s who ch l
  rw [heq]
  exact h

theorem served_of_taken {op : Nat} {src : CmdSrc} {e : Entry} {s : State} (h : Taken op src e s) : served op src e s = true := by
  obtain ⟨hready, hop, hcheck⟩ := h
  simp [served, hready, hop, hcheck]

end Sys2Proof.ServedCommands
end


section
/-! PROOF. The collective commands: broadcasts, transfers, barriers and re-shards begin (R346, R350, R356). -/

open Sys2Proof Sys2Proof.Machine Sys2Proof.Claim Sys2Proof.Channels Sys2Proof.RingCmds Sys2Proof.Accesses Sys2Proof.ServedCommands

namespace Sys2Proof.Collectives

/-! ### A command on a group -/

/-- A collective command is served on a group of its channel that is neither ABORTED nor fenced. -/
theorem collServe_of_serves {op : Nat} {src : CmdSrc} {e : Entry} {s : State} (h : Taken op src e s) (hg : GroupServes s src e)
    (f : Cmd → Nat → State → State) :
    collServe op src e s f = .next (f (cmdOf s src e) (bits e.a0 9 0) (begun src e s)) := by
  obtain ⟨hown, hab, hown', hfen⟩ := hg
  rw [chOf] at hown hown'
  have hwait : ¬ ((ownGroup s (cmdOf s src e).ch (bits e.a0 9 0) && (groupAt s (bits e.a0 9 0)).aborted) = true) := by simp [hab]
  rw [collServe]
  refine (if_neg hwait).trans ?_
  rw [serve_of_taken h]
  exact congrArg _ ((if_neg (by simp [hown'])).trans (if_neg (by rw [hfen]; decide)))

theorem groupServes_admitted {s : State} {src : CmdSrc} {e : Entry} (h : GroupServes s src e) (who : Nat) (ch : Option Nat) (l : List Access) :
    GroupServes (admitted s who ch l) src e := by
  obtain ⟨m, d, w, heq⟩ := admitted_eq s who ch l
  obtain ⟨hown, hab, hown', hfen⟩ := h
  simp only [GroupServes, ownGroup, chOf, cmdOf_admitted, groupAt_begun, groupAt_admitted] at hown hab hown' hfen ⊢
  exact ⟨hown, hab, hown', hfen⟩

/-- A collective command on a group that is not its channel's answers so (R343). -/
theorem collServe_of_foreign {op : Nat} {src : CmdSrc} {e : Entry} {s : State} (h : Taken op src e s)
    (hno : ownGroup s (chOf s src e) (bits e.a0 9 0) = false) (hno' : ownGroup (begun src e s) (chOf s src e) (bits e.a0 9 0) = false)
    (f : Cmd → Nat → State → State) : collServe op src e s f = .next (answer (cmdOf s src e) ST_COLL_INVALID [] (begun src e s)) := by
  rw [chOf] at hno hno'
  rw [collServe]
  refine (if_neg (by simp [hno])).trans ?_
  rw [serve_of_taken h]
  exact congrArg _ (if_pos (by simp [hno']))

/-- A collective command waits while its group is ABORTED. -/
theorem collServe_of_aborted {op : Nat} {src : CmdSrc} {e : Entry} {s : State} (hown : ownGroup s (chOf s src e) (bits e.a0 9 0) = true)
    (hab : (groupAt s (bits e.a0 9 0)).aborted = true) (f : Cmd → Nat → State → State) : collServe op src e s f = .next s := by
  rw [chOf] at hown
  rw [collServe]
  exact if_pos (by simp [hown, hab])

/-! ### Broadcasts -/

/-- A broadcast reads its range here: it can be served, on a group that serves it, at its root, and the range may be read. -/
def bcastReads (s : State) (src : CmdSrc) (e : Entry) : Bool :=
  served 0x42 src e s && ownGroup s (cmdOf s src e).ch (bits e.a0 9 0) && !(groupAt s (bits e.a0 9 0)).aborted &&
    !(groupAt s (bits e.a0 9 0)).fenced && bits e.a0 15 10 == selfIndex (groupAt s (bits e.a0 9 0)) &&
    decide (bits e.a0 15 10 < (groupAt s (bits e.a0 9 0)).members.length) && !(otherMembers (groupAt s (bits e.a0 9 0))).isEmpty &&
    (rangeStatus s (cmdOf s src e).ch false (bits e.a0 32 16) e.a1.toNat e.a2.toNat).isNone

theorem bcastReads_of_root {src : CmdSrc} {e : Entry} {s : State} {g : Group} (h : Taken 0x42 src e s) (hg : GroupServes s src e)
    (hgrp : groupAt s (bits e.a0 9 0) = g) (hroot : bits e.a0 15 10 = selfIndex g) (hlt : bits e.a0 15 10 < g.members.length)
    (hrange : rangeStatus s (chOf s src e) false (bits e.a0 32 16) e.a1.toNat e.a2.toNat = none) (hothers : otherMembers g ≠ []) :
    bcastReads s src e = true := by
  obtain ⟨hown, hab, -, hfen⟩ := hg
  rw [groupAt_begun, hgrp] at hfen
  rw [hgrp] at hab
  rw [chOf] at hown hrange
  rw [hroot] at hlt
  simp [bcastReads, served_of_taken h, hown, hgrp, hab, hfen, hroot, hlt, hothers, hrange]

/-- The root of a broadcast serves it once its read has gone. -/
theorem exec_collBcast_root {src : CmdSrc} {e : Entry} {s t : State} {dead : List Nat} {bs : List Byte} {b : State} {g : Group}
    (h : Taken 0x42 src e s) (hg : GroupServes s src e)
    (hgo : GoNow s (bcastWho s e) (some (chOf s src e)) 140 (bcastAccess e))
    (hb : b = begun src e (admitted s (bcastWho s e) (some (chOf s src e)) (bcastAccess e)))
    (hdead : dead = silent s (bcastWho s e) (some (chOf s src e)) (bcastAccess e))
    (hgrp : g = groupAt b (bits e.a0 9 0)) (hroot : bits e.a0 15 10 = selfIndex g) (hlt : bits e.a0 15 10 < g.members.length)
    (hrange : rangeStatus s (chOf s src e) false (bits e.a0 32 16) e.a1.toNat e.a2.toNat = none) (hn : 0 < e.a2.toNat)
    (hothers : otherMembers g ≠ [])
    (hread : objRead (collAgent (chOf s src e) dead) (bits e.a0 32 16) e.a1.toNat e.a2.toNat b = (t, bs, 0)) :
    exec (.collBcast src e) s = .next (answer (cmdOf s src e) ST_OK []
      ((otherMembers g).foldl (fun s i => sendChunks (bits e.a0 9 0) (memberId g i) 3 (tagTo 0 i) bs s) t)) := by
  have hbg : groupAt b (bits e.a0 9 0) = g := hgrp.symm
  have hg0 : groupAt s (bits e.a0 9 0) = g := by rw [hgrp, hb, groupAt_begun, groupAt_admitted]
  have hrange' : rangeStatus b (cmdOf s src e).ch false (bits e.a0 32 16) e.a1.toNat e.a2.toNat = none := by
    rw [hb, rangeStatus_begun, rangeStatus_admitted]
    exact hrange
  have hself : (bits e.a0 15 10 == selfIndex g) = true := by simp [hroot]
  have hcond := bcastReads_of_root h hg hg0 hroot hlt hrange hothers
  rw [bcastReads] at hcond
  change execCollBcast src e s = _
  rw [execCollBcast]
  dsimp only
  rw [if_pos hcond]
  refine (gatedBy_of_goNow hgo).trans ?_
  rw [collServe_of_serves (taken_admitted h _ _ _) (groupServes_admitted hg _ _ _), cmdOf_admitted]
  rw [chOf] at hb hdead hread
  rw [chOf, ← hb, ← hdead]
  rw [hbg, hself]
  refine congrArg _ ((if_neg (Nat.not_le.2 hlt)).trans ?_)
  simp only [Bool.not_true]
  rw [hrange']
  refine (if_neg ?_).trans ((if_pos trivial).trans ?_)
  · simp only [List.isEmpty_iff, not_or]
    exact ⟨Nat.pos_iff_ne_zero.1 hn, hothers⟩
  · rw [hread]
    rfl

theorem gatedBy_nil {α : Type} (wait : State → α) (who : Nat) (ch : Option Nat) (req : Nat) (k : List Nat → State → α) (s : State) :
    gatedBy wait who ch req [] k s = k [] s := by
  have hall : (s.heldBy.filter (fun y => !([].map (heldName who)).contains y)) = s.heldBy := List.filter_eq_self.2 fun _ _ => rfl
  rw [gatedBy]
  dsimp only [List.findSome?_nil]
  rw [hall]
  split
  · next hheld => exact absurd hheld (by simp)
  · split
    · rfl
    · rfl

/-- A broadcast that reads nothing here is served at once, and at a member it waits for the root's range (R346). -/
theorem exec_collBcast_of_no_read {src : CmdSrc} {e : Entry} {s : State} (hno : bcastReads s src e = false) :
    ∃ f, exec (.collBcast src e) s = collServe 0x42 src e s f ∧
      ∀ (x : Cmd) (gn : Nat) (v : State), bits e.a0 15 10 ≠ selfIndex (groupAt v gn) → bits e.a0 15 10 < (groupAt v gn).members.length →
        rangeStatus v x.ch true (bits e.a0 32 16) e.a1.toNat e.a2.toNat = none → 0 < e.a2.toNat → otherMembers (groupAt v gn) ≠ [] →
        f x gn v = addColl gn { kind := 3, ch := x.ch, pos := some x.pos, obj := bits e.a0 32 16, offset := e.a1.toNat,
                                len := e.a2.toNat, root := bits e.a0 15 10 } v := by
  have hexec : exec (.collBcast src e) s = execCollBcast src e s := rfl
  rw [bcastReads] at hno
  rw [execCollBcast] at hexec
  dsimp only at hexec
  rw [if_neg (by rw [hno]; decide), gatedBy_nil] at hexec
  refine ⟨_, hexec, fun x gn v hroot hlt hrange hn hothers => ?_⟩
  have hother : (bits e.a0 15 10 == selfIndex (groupAt v gn)) = false := by simpa using hroot
  rw [hother]
  refine (if_neg (Nat.not_le.2 hlt)).trans ?_
  simp only [Bool.not_false]
  rw [hrange]
  refine (if_neg ?_).trans (if_neg (by decide))
  simp only [List.isEmpty_iff, not_or]
  exact ⟨Nat.pos_iff_ne_zero.1 hn, hothers⟩

/-- A broadcast on a group that does not serve it reads nothing. -/
theorem not_bcastReads_of_group {src : CmdSrc} {e : Entry} {s : State} (h : ownGroup s (chOf s src e) (bits e.a0 9 0) = false ∨
    (groupAt s (bits e.a0 9 0)).aborted = true) : bcastReads s src e = false := by
  rw [chOf] at h
  obtain h | h := h
  · simp [bcastReads, h]
  · simp [bcastReads, h]

/-- Every collective command that reads nothing here is served on its group. -/
theorem exec_collective {i : Instr} {op : Nat} {src : CmdSrc} {e : Entry} {s : State}
    (hmem : (i, op) ∈ [(.collBcast src e, 0x42), (.collSend src e, 0x43), (.collRecv src e, 0x44), (.collBarrier src e, 0x45)])
    (hno : bcastReads s src e = false) : ∃ f, exec i s = collServe op src e s f := by
  simp only [List.mem_cons, Prod.mk.injEq, List.not_mem_nil, or_false] at hmem
  obtain ⟨rfl, rfl⟩ | ⟨rfl, rfl⟩ | ⟨rfl, rfl⟩ | ⟨rfl, rfl⟩ := hmem
  · obtain ⟨f, hexec, -⟩ := exec_collBcast_of_no_read hno
    exact ⟨f, hexec⟩
  · have hexec : exec (.collSend src e) s = collP2p 0x43 false src e s := rfl
    rw [collP2p] at hexec
    exact ⟨_, hexec⟩
  · have hexec : exec (.collRecv src e) s = collP2p 0x44 true src e s := rfl
    rw [collP2p] at hexec
    exact ⟨_, hexec⟩
  · have hexec : exec (.collBarrier src e) s = execCollBarrier src e s := rfl
    rw [execCollBarrier] at hexec
    exact ⟨_, hexec⟩

/-- A collective added leaves the members of its group as they were. -/
theorem memberId_addColl (gn : Nat) (y : Coll) (s : State) (i : Nat) : memberId (groupAt (addColl gn y s) gn) i = memberId (groupAt s gn) i := by
  rw [addColl, groupAt_modGroup_same]
  rfl

/-! ### Re-shards -/

theorem roleGroup_begun (src : CmdSrc) (e : Entry) (s : State) (c role : Nat) : roleGroup (begun src e s) c role = roleGroup s c role := by
  obtain ⟨k, h⟩ := begun_eq src e s
  rw [h]
  rfl

/-- A module that leaves makes no new arrays. -/
theorem reshAlloc_of_leave {c : Nat} {s : State} (h : (resh c s).leave = true) : reshAlloc c s = s := if_pos h

/-! ### The obligation -/

/-- Settles O33: each command by the branches of its definition, through `collServe`. -/
theorem collectivesBegin : Obligations.CollectivesBegin := by
  unfold Obligations.CollectivesBegin
  refine ⟨?_, ?_, ?_, ?_, ?_, ?_, ?_, ?_, ?_⟩
  · intro src e s b t g dead bs h hg hgo hb hdead hgrp hroot hlt hrange hn hothers hread
    exact exec_collBcast_root h hg hgo hb hdead hgrp hroot hlt hrange hn hothers hread
  · intro src e s b g h hb hg hgrp hroot hlt hrange hn hothers
    subst hb hgrp
    have hno : bcastReads s src e = false := by
      rw [groupAt_begun] at hroot
      simp [bcastReads, hroot]
    obtain ⟨f, hexec, hf⟩ := exec_collBcast_of_no_read hno
    rw [hexec, collServe_of_serves h hg, hf _ _ _ hroot hlt hrange hn hothers]
    rfl
  · intro src e s b g h hb hg hgrp hst hothers
    subst hb hgrp
    rw [chOf] at hst
    change collP2p 0x43 false src e s = _
    rw [collP2p, collServe_of_serves h hg]
    dsimp only
    rw [hst]
    refine congrArg _ ((if_neg (by simpa using hothers)).trans ?_)
    rfl
  · intro src e s b g h hb hg hgrp hst hothers
    subst hb hgrp
    rw [chOf] at hst
    change collP2p 0x44 true src e s = _
    rw [collP2p, collServe_of_serves h hg]
    dsimp only
    rw [hst]
    refine congrArg _ ((if_neg (by simpa using hothers)).trans ?_)
    rw [if_pos rfl, memberId_addColl]
    rfl
  · intro src e s b h hb hg hothers
    subst hb
    change execCollBarrier src e s = _
    rw [execCollBarrier, collServe_of_serves h hg]
    exact congrArg _ (if_neg (by simpa using hothers))
  · intro src e s b h hb hg hothers
    subst hb
    change execCollBarrier src e s = _
    rw [execCollBarrier, collServe_of_serves h hg]
    exact congrArg _ (if_pos (by rw [hothers]; rfl))
  · intro i op src e s hmem h
    refine ⟨fun hno hno' => ?_, fun hown hab => ?_⟩
    · obtain ⟨f, hexec⟩ := exec_collective hmem (not_bcastReads_of_group (.inl hno))
      exact hexec.trans (collServe_of_foreign h hno hno' f)
    · obtain ⟨f, hexec⟩ := exec_collective hmem (not_bcastReads_of_group (.inr hab))
      exact hexec.trans (collServe_of_aborted hown hab f)
  · intro src e s b g old ms ns gn h hb hstep hact hold hfree hgn hg hvalid hpin hleave hown hrole hms hns
    subst hb hgn hg
    rw [chOf] at *
    have hwait : ¬ ((decide ((chanAt s (cmdOf s src e).ch).trn.recorded + 1 < stepAt s (cmdOf s src e).ch (cmdOf s src e).pos) ||
        (resh (cmdOf s src e).ch s).active || old.any (fun g => g.2.aborted)) = true) := by
      have hab : old.any (fun g => g.2.aborted) = false := by
        rw [Option.any_eq_false]
        exact fun x hx => by simp [(hfree x hx).1]
      simp [Nat.not_lt.2 hstep, hact, hab]
    have hfen : old.any (fun g => g.2.fenced) = false := by
      rw [Option.any_eq_false]
      exact fun x hx => by simp [(hfree x hx).2]
    change execReshard src e s = _
    rw [execReshard]
    dsimp only
    rw [← hold]
    refine (if_neg hwait).trans ?_
    rw [serve_of_taken h]
    refine congrArg _ ?_
    rw [roleGroup_begun, ← hold]
    refine (if_neg (by simp [hvalid])).trans ((if_neg (by simp [hpin])).trans ((if_neg ?_).trans ((if_neg (by simp [hfen])).trans ?_)))
    · rw [groupAt_begun] at hrole
      obtain hr | hr := hrole
      · simp [hleave, hown, hr]
      · simp [hleave, hown, hr]
    · clear hwait hfen hfree hold
      subst hms hns
      cases old with
      | none =>
        simp only [hleave]
        rfl
      | some o =>
        simp only [hleave]
        rfl
  · intro src e s b g o on h hb hstep hact hrole hab hfen hvalid hpin hleave hg
    subst hb hg
    rw [chOf] at *
    have hwait : ¬ ((decide ((chanAt s (cmdOf s src e).ch).trn.recorded + 1 < stepAt s (cmdOf s src e).ch (cmdOf s src e).pos) ||
        (resh (cmdOf s src e).ch s).active || (some (on, o)).any (fun g => g.2.aborted)) = true) := by
      simp [Nat.not_lt.2 hstep, hact, hab]
    change execReshard src e s = _
    rw [execReshard]
    dsimp only
    rw [hrole]
    refine (if_neg hwait).trans ?_
    rw [serve_of_taken h]
    refine congrArg _ ?_
    rw [roleGroup_begun, hrole]
    refine (if_neg (by simp [hvalid])).trans ((if_neg (by simp [hpin])).trans ((if_neg (by simp [hleave])).trans
      ((if_neg (by simp [hfen])).trans ?_)))
    rw [reshAlloc_of_leave (by rw [resh_modResh_same]; exact hleave)]
    simp only [hleave, if_true, List.append_nil]
    rfl

end Sys2Proof.Collectives
end


section
/-! PROOF. Shard sets, what is kept for the step not yet started, the sink of the state delta stream, and COMMIT_ACK (R269 to R276, R289,
R304, R310, R314). -/

open Sys2Proof Sys2Proof.Machine Sys2Proof.Claim Sys2Proof.Channels Sys2Proof.RingCmds Sys2Proof.StepCourse

namespace Sys2Proof.Shards

/-! ### Sinks -/

/-- With no segment too large among those not yet written, a new sink abandons none. -/
theorem no_large {l : List DeltaSeg} {p : DeltaSeg → Bool} {n : Nat} (h : ∀ g ∈ l, p g = true → g.bytes.length ≤ n) :
    l.filter (fun g => p g && decide (n < g.bytes.length)) = [] := by
  rw [List.filter_eq_nil_iff]
  intro g hg
  simp only [Bool.and_eq_true, decide_eq_true_eq, not_and, Nat.not_lt]
  exact h g hg

theorem filter_not_mem_nil (l : List DeltaSeg) : l.filter (fun g => !([] : List DeltaSeg).contains g) = l :=
  List.filter_eq_self.2 fun _ _ => rfl

/-! ### The obligation -/

/-- Settles O29: each command by the branches of its definition. -/
theorem shardSetsAreKept : Obligations.ShardSetsAreKept := by
  unfold Obligations.ShardSetsAreKept
  refine ⟨?_, ?_, ?_, ?_, ?_, ?_, ?_, ?_, ?_⟩
  · intro src e s b t si n p c bs ts os h hb hsi hn hp hc hn0 hn1 hp1 hcp hcopy hfmt hhost htab hrows hts hgran hset hlen
    subst hb hn hp hc
    rw [chOf] at *
    have hlarge : (List.range (bits e.a0 27 17)).any (fun i => decide (256 < updGranules (portion ts (bits e.a0 34 28) (bits e.a0 40 35) i).2)) = false := by
      rw [List.any_eq_false]
      intro i hi
      simpa using hgran i (List.mem_range.1 hi)
    change execShardCreate src e s = _
    rw [execShardCreate]
    refine serve_eq_answer h ?_
    dsimp only
    rw [hsi]
    refine (if_neg ?_).trans ?_
    · simp only [hcopy, hfmt, Bool.not_true, ne_eq, not_true_eq_false, Bool.false_eq_true, or_false]
      omega
    · rw [htab]
      dsimp only
      rw [hrows, ← hts, hlarge]
      refine (if_neg (by decide)).trans ((if_neg ?_).trans ((if_neg ?_).trans ?_))
      · rintro ⟨hh, hlt⟩
        exact absurd hlt (Nat.not_lt.2 (hhost hh).1)
      · rintro ⟨hh, hw⟩
        rw [(hhost hh).2] at hw
        exact absurd hw (by decide)
      · rw [hset]
        simp only [createdSet, hlen]
  · intro src e s h hall
    have hnone : (chanAt (begun src e s) (chOf s src e)).trn.sets.findIdx? (fun q => !q.valid) = none := by
      rw [List.findIdx?_eq_none_iff]
      exact fun q hq => by simp [hall q hq]
    rw [chOf] at hnone
    change execShardCreate src e s = _
    rw [execShardCreate]
    refine serve_eq_answer h ?_
    dsimp only
    rw [hnone]
  · intro src e s h hvalid hbusy
    rw [chOf] at hvalid hbusy
    change execShardFree src e s = _
    rw [execShardFree]
    exact serve_eq_answer h ((if_neg (by simp [hvalid])).trans (if_neg (by simp [hbusy])))
  · intro src e s h hvalid hbusy
    rw [chOf] at hvalid hbusy
    change execShardFree src e s = _
    rw [execShardFree]
    exact serve_eq_answer h ((if_neg (by simp [hvalid])).trans (if_pos hbusy))
  · intro src e s b h hb hvalid hlo hhi
    subst hb
    rw [chOf] at hvalid hhi
    change execHyperSet src e s = _
    rw [execHyperSet]
    exact serve_eq_answer h (if_neg (by simp [runOk, hvalid, hlo, hhi]))
  · intro src e s b bs vs h hb hlo hhi htab hvs
    subst hb
    rw [chOf] at htab
    change execVariantSet src e s = _
    rw [execVariantSet]
    refine serve_eq_answer h ((if_neg (by omega)).trans ?_)
    rw [htab]
    dsimp only
    rw [hvs]
    rfl
  · intro src e s b h hb hpeer hpos hfit hsize hbase hwin
    subst hb
    rw [chOf] at *
    change execDeltaSink src e s = _
    rw [execDeltaSink]
    refine serve_eq_answer h ((if_neg ?_).trans ((if_neg ?_).trans ((if_neg ?_).trans ?_)))
    · simp [hpeer, hsize, hbase, Nat.pos_iff_ne_zero.1 hpos]
    · simp [hpeer, hwin]
    · simp [hpeer]
    · simp only [hpeer, Bool.false_eq_true, if_false, sinkRoom]
      rw [no_large hfit, List.foldl_nil]
      simp only [filter_not_mem_nil]
  · intro src e s b h hb hpeer hpos hfit hsize hbase hoff hlive hch
    subst hb
    rw [chOf] at *
    change execDeltaSink src e s = _
    rw [execDeltaSink]
    refine serve_eq_answer h ((if_neg ?_).trans ((if_neg ?_).trans ((if_neg ?_).trans ?_)))
    · simp only [hpeer, hsize, hoff, if_true, Bool.not_true, Bool.false_eq_true, false_and, false_or]
      omega
    · simp [hpeer]
    · rw [hlive, hch]
      simp
    · simp only [hpeer, if_true, sinkRoom]
      rw [no_large hfit, List.foldl_nil]
      simp only [filter_not_mem_nil]
  · intro src e s b t h hb ht
    subst hb ht
    have hexec : exec (.commitAck src e) s = execCommitAck src e s := rfl
    rw [execCommitAck] at hexec
    rw [chOf]
    split
    · next hok =>
      obtain ⟨hn, hlt, hhost⟩ := hok
      exact hexec.trans (serve_eq_answer h (if_neg (by simp [hn, hlt, hhost])))
    · next hno =>
      refine hexec.trans (serve_eq_answer h (if_pos ?_))
      by_contra hcon
      simp only [not_or, not_not, Nat.not_le, Bool.not_eq_true'] at hcon
      obtain ⟨hn, hlt, hhost⟩ := hcon
      exact hno ⟨hn, hlt, by simpa using hhost⟩

end Sys2Proof.Shards
end


section
/-! PROOF. The commands of a step: gathers, sheaves registered, STEP_CLOSE and HOST_COMMIT (R277 to R281, R286, R303). -/

open Sys2Proof Sys2Proof.Machine Sys2Proof.Claim Sys2Proof.Channels Sys2Proof.RingCmds Sys2Proof.Accesses Sys2Proof.ServedCommands
open Sys2Proof.Collectives

namespace Sys2Proof.GatherClose

/-! ### What a command that starts leaves of the training state -/

/-- A command that starts can begin a step: the step's number, its numbers and the scale that it takes change, and nothing else of the
training state. -/
theorem trn_begun (src : CmdSrc) (e : Entry) (s : State) (d : Nat) :
    ∃ n q l k ld, (chanAt (begun src e s) d).trn =
      { (chanAt s d).trn with stepCur := n, nums := q, lsExp := l, clean := k, lsLoad := ld } := by
  have hstart : ∀ (c n : Nat) (v : State), ∃ m q l k ld, (chanAt (startStep c n v) d).trn =
      { (chanAt v d).trn with stepCur := m, nums := q, lsExp := l, clean := k, lsLoad := ld } := by
    intro c n v
    unfold startStep
    dsimp only
    split
    · exact ⟨_, _, _, _, _, rfl⟩
    · by_cases hd : d = c
      · subst hd
        rw [chanAt_modTrn_same]
        exact ⟨_, _, _, _, _, rfl⟩
      · rw [chanAt_modTrn_ne _ _ hd]
        exact ⟨_, _, _, _, _, rfl⟩
  have hrings : ∀ (c : Nat) (f : Rings → Rings), (chanAt (modRings s c f) d).trn = (chanAt s d).trn := by
    intro c f
    by_cases hd : d = c
    · rw [hd, chanAt_modRings_same]
    · rw [chanAt_modRings_ne _ _ hd]
  cases src with
  | ring c =>
    unfold begun markStarted
    dsimp only [cmdOf]
    split
    · next y hy =>
      obtain ⟨m, q, l, k, ld, h⟩ := hstart c y.step (modRings s c _)
      rw [h, hrings]
      exact ⟨_, _, _, _, _, rfl⟩
    · rw [hrings]
      exact ⟨_, _, _, _, _, rfl⟩
  | mbx m => exact ⟨_, _, _, _, _, rfl⟩
  | smb => exact ⟨_, _, _, _, _, rfl⟩

@[simp] theorem setAt_begun (src : CmdSrc) (e : Entry) (s : State) (c i : Nat) : setAt (begun src e s) c i = setAt s c i := by
  obtain ⟨m, q, l, k, ld, h⟩ := trn_begun src e s c
  rw [setAt, setAt, h]

@[simp] theorem setAt_admitted (s : State) (who : Nat) (ch : Option Nat) (l : List Access) (c i : Nat) :
    setAt (admitted s who ch l) c i = setAt s c i := by
  obtain ⟨m, d, w, h⟩ := admitted_eq s who ch l
  rw [h]
  rfl

@[simp] theorem gatherStatus_begun (src : CmdSrc) (e : Entry) (s : State) (c : Nat) (x : ShardSet) (y : Coll) :
    gatherStatus (begun src e s) c x y = gatherStatus s c x y := by
  obtain ⟨k, h⟩ := begun_eq src e s
  rw [h]
  rfl

@[simp] theorem gatherStatus_admitted (s : State) (who : Nat) (ch : Option Nat) (l : List Access) (c : Nat) (x : ShardSet) (y : Coll) :
    gatherStatus (admitted s who ch l) c x y = gatherStatus s c x y := by
  obtain ⟨m, d, w, h⟩ := admitted_eq s who ch l
  rw [h]
  rfl

/-! ### Gathers -/

/-- What a gather sends to every other copy: the version part, then this copy's part (log entries 50, 83). -/
def gatherSent (s : State) (src : CmdSrc) (e : Entry) (gn : Nat) (g : Group) (own : List Byte) (t : State) : State :=
  let tag := (gatherOf s src e).id + 1024 * bits e.a0 35 35 + 2048 * bits e.a0 3 0
  (otherMembers g).foldl (fun s i => sendChunks gn (memberId g i) 0 (tagTo tag i) (own.drop 20) s)
    ((otherMembers g).foldl (fun s i => sendChunks gn (memberId g i) 5 (tagTo tag i) (own.take 20) s)
      (addColl gn { gatherOf s src e with data := [((setAt s (chOf s src e) (bits e.a0 3 0)).c, own)], root := tag } t))

/-- A gather whose accesses have gone reads this copy's part; a single copy puts its tensors together, and else every other copy is sent
the part (R277 to R280). -/
theorem exec_gather_moves {src : CmdSrc} {e : Entry} {s b t : State} {dead : List Nat} {own : List Byte}
    (hmoves : GatherMoves s src e)
    (hb : b = begun src e (admitted s (gatherWho s src e) (some (chOf s src e)) (gatherAccess s src e)))
    (hdead : dead = silent s (gatherWho s src e) (some (chOf s src e)) (gatherAccess s src e))
    (hown : gatherOwn (chOf s src e) dead (bits e.a0 3 0) (bits e.a0 13 4) (bits e.a0 24 14) (gatherOf s src e).step b = (t, own, 0)) :
    ∃ r, exec (.gather src e) s = .next r ∧
      ((setAt s (chOf s src e) (bits e.a0 3 0)).p = 1 → r = gatherAlone (cmdOf s src e) dead (gatherOf s src e) own t) ∧
      ∀ gn g, (setAt s (chOf s src e) (bits e.a0 3 0)).p ≠ 1 → roleGroup s (chOf s src e) 0 = some (gn, g) →
        g.extent = (setAt s (chOf s src e) (bits e.a0 3 0)).p → g.fenced = false → r = gatherSent s src e gn g own t := by
  obtain ⟨h, ⟨hrec, hresh, hfree⟩, hre, hrun, hst, hgo⟩ := hmoves
  have hset : setAt b (chOf s src e) (bits e.a0 3 0) = setAt s (chOf s src e) (bits e.a0 3 0) := by rw [hb, setAt_begun, setAt_admitted]
  have hst' : gatherStatus b (chOf s src e) (setAt s (chOf s src e) (bits e.a0 3 0)) (gatherOf s src e) = none := by
    rw [hb, gatherStatus_begun, gatherStatus_admitted]
    exact hst
  have hexec : exec (.gather src e) s = execGather src e s := rfl
  unfold execGather at hexec
  extract_lets x0 c si y v grp reuse moves peer f n whole at hexec
  have hreuse : reuse = false := by
    obtain hre | hre := hre
    · simp [reuse, hre]
    · simp [reuse, hre]
  have hab : (v.p != 1 && grp.any (fun g => g.2.aborted)) = false := by
    obtain hp | hg := hfree
    · have hv : v.p = 1 := hp
      simp [hv]
    · have hany : grp.any (fun g => g.2.aborted) = false := by
        rw [Option.any_eq_false]
        exact fun g hgr => by simp [hg g hgr]
      simp [hany]
  have hm : moves = true := by
    have hrun' : runOk v y.first y.count = true := hrun
    have hst0 : gatherStatus s c v y = none := hst
    simp [moves, served_of_taken h, hreuse, hrun', hst0]
  have hguard : ¬ ((!recordIn s c y.step || resharding s c || (!reuse && v.p != 1 && grp.any (fun g => g.2.aborted))) = true) := by
    have hrec' : recordIn s c y.step = true := hrec
    have hresh' : resharding s c = false := hresh
    rw [hrec', hresh', hreuse]
    simpa using hab
  have hgo' : GoNow s (sliceOf s peer) (some c) 140 (gatherReads v y ++ if v.p = 1 then whole else []) := hgo
  rw [if_neg hguard, hm, if_pos rfl, gatedBy_of_goNow hgo'] at hexec
  have hb' : begun src e (admitted s (sliceOf s peer) (some c) (gatherReads v y ++ if v.p = 1 then whole else [])) = b := hb.symm
  have hdead' : silent s (sliceOf s peer) (some c) (gatherReads v y ++ if v.p = 1 then whole else []) = dead := hdead.symm
  rw [serve_of_taken (taken_admitted h _ _ _), cmdOf_admitted, hb', hdead'] at hexec
  have hset' : setAt b (cmdOf s src e).ch si = v := hset
  have hrun' : runOk v y.first y.count = true := hrun
  have hst1 : gatherStatus b (cmdOf s src e).ch v y = none := hst'
  have hown' : gatherOwn (cmdOf s src e).ch dead si y.first y.count y.step b = (t, own, 0) := hown
  refine ⟨_, hexec, ?_⟩
  rw [hset', hreuse]
  refine ⟨fun hp => ?_, fun gn g hp hrole hext hfen => ?_⟩
  · refine (if_neg (by rw [hrun']; decide)).trans ((if_neg (by decide)).trans ?_)
    rw [hst1]
    dsimp only
    rw [hown']
    exact (if_neg (not_not.2 rfl)).trans (if_pos hp)
  · have hgrp : grp = some (gn, g) := hrole
    have hext' : ¬ g.extent ≠ v.p := not_not.2 hext
    refine (if_neg (by rw [hrun']; decide)).trans ((if_neg (by decide)).trans ?_)
    rw [hst1]
    dsimp only
    rw [hown']
    refine (if_neg (not_not.2 rfl)).trans ((if_neg hp).trans ?_)
    rw [hgrp]
    exact (if_neg hext').trans (if_neg (by simp [hfen]))

/-! ### Sheaves -/

/-- What the hold buffers of the stacks keep when a sheaf of a channel is registered anew. -/
def heldWithout (c num : Nat) (x : Stack) : Stack :=
  { x with holdBuf := x.holdBuf.filter (fun h => !(h.ch == c && h.sheaf == num)) }

theorem smGet_map {α : Type} (d : Nat → α) (f : α → α) (hd : ∀ k, f (d k) = d k) :
    ∀ (m : SMap α) (k : Nat), smGet d (m.map (fun p => (p.1, f p.2))) k = f (smGet d m k)
  | [], k => (hd k).symm
  | (k', v) :: m, k => by
    rw [List.map_cons, smGet, smGet]
    split
    · rfl
    · exact smGet_map d f hd m k

theorem sheaf_of_held {s : State} {c num i : Nat} {h : HeldAccum}
    (hh : h ∈ (stackAt { s with stackMap := s.stackMap.map (fun p => (p.1, heldWithout c num p.2)) } i).holdBuf) (hc : h.ch = c) :
    h.sheaf ≠ num := by
  rw [stackAt] at hh
  dsimp only at hh
  rw [smGet_map (fun _ => {}) (heldWithout c num) fun _ => rfl] at hh
  have hkeep := (List.mem_filter.1 hh).2
  intro hnum
  simp [hc, hnum] at hkeep

/-! ### The obligation -/

/-- Settles O30: each command by the branches of its definition. -/
theorem stepsGatherAndClose : Obligations.StepsGatherAndClose := by
  unfold Obligations.StepsGatherAndClose
  refine ⟨?_, ?_, ?_, ?_, ?_, ?_, ?_, ?_⟩
  · intro src e s b q h hb hrec hresh hrun hre hre' hver
    subst hb
    rw [chOf] at *
    have hstep : recordIn s (cmdOf s src e).ch (stepAt s (cmdOf s src e).ch (cmdOf s src e).pos) = true := hrec
    change execGather src e s = _
    rw [execGather]
    dsimp only
    refine (if_neg (by simp [hstep, hresh, hre, hre'])).trans ?_
    rw [if_neg (by simp [hre, hre']), gatedBy_nil, serve_of_taken h]
    refine congrArg _ ((if_neg (by rw [hrun]; decide)).trans ((if_pos (by simp [hre, hre'])).trans ?_))
    rw [hver]
  · intro src e s b t dead own y hgm hb hdead hy hown hp
    subst hy
    obtain ⟨r, hexec, halone, -⟩ := exec_gather_moves hgm hb hdead hown
    rw [hb, setAt_begun, setAt_admitted] at hp
    rw [hexec, halone hp]
  · intro src e s b t dead own y v gn tag g hgm hb hdead hy hv hown hp hrole hext hfen htag
    subst hy
    obtain ⟨r, hexec, -, hsend⟩ := exec_gather_moves hgm hb hdead hown
    rw [hb, setAt_begun, setAt_admitted] at hv
    subst hv htag
    rw [hexec, hsend gn g hp hrole hext hfen]
    rfl
  · intro src e s b bs n f h hb hn hrec htab hf hrsv hok
    subst hb hn hf
    rw [chOf] at *
    have hexec : exec (.sheafRegister src e) s = execSheafRegister src e s := rfl
    rw [execSheafRegister] at hexec
    rw [hrec, if_neg (by decide), serve_of_taken h] at hexec
    dsimp only at hexec
    rw [htab] at hexec
    dsimp only at hexec
    rw [if_neg (by simp [hrsv, hok])] at hexec
    exact ⟨_, hexec, _, rfl, fun i x hx hch => sheaf_of_held hx hch⟩
  · intro src e s b bs n h hb hn hrec htab hbad
    subst hb hn
    rw [chOf] at *
    change execSheafRegister src e s = _
    rw [execSheafRegister]
    refine (if_neg (by simp [hrec])).trans (serve_eq_answer h ?_)
    dsimp only
    rw [htab]
    refine if_pos ?_
    obtain hbad | hbad := hbad
    · simp [hbad]
    · simp [hbad]
  · intro src e s b bs n h hb hn hle htab
    subst hb hn
    rw [chOf] at *
    change execStepClose src e s = _
    rw [execStepClose]
    refine (if_neg (Nat.not_lt.2 hle)).trans ?_
    rw [serve_of_taken h, htab]
  · intro src e s b t ps h hb ht hnorm hgrad hn hhost hnone hps hlen hwin
    subst hb ht hps
    rw [chOf] at *
    change execHostCommit src e s = _
    rw [execHostCommit]
    refine (if_neg (by simp [hnorm, hgrad])).trans ?_
    rw [serve_of_taken h]
    refine congrArg _ ((if_neg ?_).trans ((if_neg (not_not.2 hlen)).trans (if_neg (by simp [hwin]))))
    simp [hn, hhost, hnone]
  · intro src e s b h hb hbad
    subst hb
    rw [chOf] at hbad
    obtain ⟨m, q, l, k, ld, htrn⟩ := trn_begun src e s (cmdOf s src e).ch
    change execHostCommit src e s = _
    rw [execHostCommit]
    refine (if_neg ?_).trans (serve_eq_answer h (if_pos ?_))
    · obtain hbad | hbad := hbad
      · simp [hbad]
      · simp [hbad]
    · rw [htrn]
      obtain hbad | hbad := hbad
      · exact .inl hbad
      · exact .inr (.inl (by simp [hbad]))

end Sys2Proof.GatherClose
end


section
/-! PROOF. Recovery among modules: collectives that time out, step aborts of peers, the rejoin, and the plans of a re-shard (R351 to R357,
R460, R462). -/

open Sys2Proof Sys2Proof.Machine Sys2Proof.Claim Sys2Proof.Channels Sys2Proof.Accesses Sys2Proof.Messages

namespace Sys2Proof.Rejoins

/-! ### What stays of a group -/

@[simp] theorem groupAt_setEv (b : Blk) (ev n : Nat) (s : State) (g : Nat) : groupAt (setEv b ev n s) g = groupAt s g := by
  rw [eq_of_keeps_count (keeps_setEv b ev n s)]
  rfl

@[simp] theorem groupAt_cntInc (b : Blk) (off : Nat) (s : State) (g : Nat) : groupAt (cntInc b off s) g = groupAt s g := by
  rw [eq_of_keeps_count (keeps_cntInc b off s)]
  rfl

theorem groupAt_finishRing (c pos status : Nat) (rs : List Word) (s : State) (g : Nat) :
    groupAt (finishRing c pos status rs s) g = groupAt s g := by
  have h : Keeps countTouch s (finishRing c pos status rs s) := finishRing_keeps c pos status rs s (Keeps.refl _ _) ⟨rfl, rfl, rfl⟩
  rw [eq_of_keeps_count h]
  rfl

/-- A collective that ends leaves the rest of its group. -/
theorem groupAt_endColl (gn : Nat) (y : Coll) (status : Nat) (rs : List Word) (s : State) :
    groupAt (endColl gn y status rs s) gn = { groupAt s gn with colls := (groupAt s gn).colls.erase y } := by
  unfold endColl
  dsimp only
  split
  · rw [groupAt_finishRing, groupAt_modGroup_same]
  · rw [groupAt_modGroup_same]

@[simp] theorem chanAt_offerEpoch (gn e : Nat) (s : State) (c : Nat) : chanAt (offerEpoch gn e s) c = chanAt s c := rfl

/-! ### The obligation -/

/-- Settles O35: each event by the branches of its definition. -/
theorem modulesRejoin : Obligations.ModulesRejoin := by
  unfold Obligations.ModulesRejoin
  refine ⟨?_, ?_, ?_, ?_, ?_, ?_, ?_, ?_, ?_, ?_, ?_, ?_, ?_⟩
  · intro gn i y s hgn hy hk
    have hend : endTimedOut gn i s = some (endColl gn y ST_COLL_TIMEOUT [] s) := by
      rw [endTimedOut]
      dsimp only
      rw [hy]
      exact congrArg some (if_pos hk)
    have hexec : exec (.collTimeout gn i) s = execCollTimeout gn i s := rfl
    rw [execCollTimeout, atUnit_of_lt hgn, hend] at hexec
    dsimp only at hexec
    rw [groupAt_endColl] at hexec
    exact ⟨_, hexec, _, _, rfl, rfl, rfl⟩
  · intro gn i r s hgn hnone hr
    have hend : endTimedOut gn i s = some (segLost r s) := by
      rw [endTimedOut]
      dsimp only
      rw [hnone, hr]
      rfl
    have hexec : exec (.collTimeout gn i) s = execCollTimeout gn i s := rfl
    rw [execCollTimeout, atUnit_of_lt hgn, hend] at hexec
    refine ⟨_, hexec, _, _, ?_, rfl, rfl⟩
    simp only [groupAt_setEv, groupAt_cntInc]
  · intro m s g hk hg hlive hrole hepoch hstep
    subst hg
    have hturn : msgTurn s m = true := msgTurn_of_unordered (.inl (by rw [hk]; rfl)) s
    have hexec : exec (.stepAbort m) s = execStepAbort m s := rfl
    rw [execStepAbort, onMsg_of_turn hk hturn] at hexec
    dsimp only at hexec
    rw [if_neg (by simp [hlive, hrole]), chanAt_offerEpoch, hstep, if_neg (Nat.lt_irrefl _), if_neg (Nat.lt_irrefl _)] at hexec
    exact ⟨_, hexec, _, rfl, rfl⟩
  · intro m s g hk hg hlive hrole hepoch hstep
    subst hg
    have hturn : msgTurn s m = true := msgTurn_of_unordered (.inl (by rw [hk]; rfl)) s
    change execStepAbort m s = _
    rw [execStepAbort, onMsg_of_turn hk hturn]
    refine congrArg _ ((if_neg (by simp [hlive, hrole])).trans ((if_neg ?_).trans (if_pos ?_)))
    · exact Nat.not_lt.2 (Nat.le_of_lt hstep)
    · exact hstep
  · intro m s u g hk hlive hu hg hepoch hdec hrole hnew
    subst hg
    have hturn : msgTurn s m = true := msgTurn_of_unordered (.inl (by rw [hk]; rfl)) s
    change execRejoin m s = _
    rw [execRejoin, onMsg_of_turn hk hturn]
    dsimp only
    rw [← hu]
    refine congrArg _ ((if_neg (by simp [hlive])).trans ((if_neg (not_not.2 hepoch)).trans ((if_pos hdec).trans (if_neg ?_))))
    simp [hrole, hnew]
  · intro m s u g hk hlive hu hg hepoch hdec hrole hold
    subst hg
    have hturn : msgTurn s m = true := msgTurn_of_unordered (.inl (by rw [hk]; rfl)) s
    change execRejoin m s = _
    rw [execRejoin, onMsg_of_turn hk hturn]
    dsimp only
    rw [← hu]
    exact congrArg _ ((if_neg (by simp [hlive])).trans ((if_neg (not_not.2 hepoch)).trans ((if_pos hdec).trans (if_pos (.inr hold)))))
  · intro m s u v g hk hlive hu hg hepoch hdec hblock hrole hv
    subst hg
    have hturn : msgTurn s m = true := msgTurn_of_unordered (.inl (by rw [hk]; rfl)) s
    change execRejoin m s = _
    rw [execRejoin, onMsg_of_turn hk hturn]
    dsimp only
    rw [← hu, ← hv]
    refine congrArg _ ((if_neg (by simp [hlive])).trans ((if_neg (not_not.2 hepoch)).trans ((if_neg (by simp [hdec])).trans
      ((if_neg (by simp [hblock])).trans (if_neg ?_)))))
    simp [endsByAcks, hrole]
  · intro m s g hk hg hlive hre hepoch
    subst hg
    have hturn : msgTurn s m = true := msgTurn_of_unordered (.inl (by rw [hk]; rfl)) s
    change execRejoinAck m s = _
    rw [execRejoinAck, onMsg_of_turn hk hturn]
    exact congrArg _ (if_neg (by simp [hlive, hre, hepoch]))
  · intro gn s hgn hlive hab hre
    change execRejoinWaitExpire gn s = _
    rw [execRejoinWaitExpire, atUnit_of_lt hgn]
    exact onlyIf_of_true (by simp [hlive, hab, hre]) s _
  · intro gn s hgn hlive hre
    change execRejoinAckTimeout gn s = _
    rw [execRejoinAckTimeout, atUnit_of_lt hgn]
    exact onlyIf_of_true (by simp [hlive, hre]) s _
  · intro m s hk hlive hmine
    have hturn : msgTurn s m = true := msgTurn_of_unordered (.inl (by rw [hk]; rfl)) s
    change execPlan m s = _
    rw [execPlan, onMsg_of_turn hk hturn]
    refine congrArg _ ((if_neg (by simp [hlive])).trans ((if_neg (by simp [hmine])).trans ?_))
    refine congrArg (fun f => tryPlans (groupAt s m.group).ch (sendPlan (groupAt s m.group).ch
      (modResh (groupAt s m.group).ch f (takeMsg m s)))) (funext fun r => ?_)
    cases hcut : r.cut with
    | none => rfl
    | some k => rfl
  · intro m s hk hlive hmine
    have hturn : msgTurn s m = true := msgTurn_of_unordered (.inl (by rw [hk]; rfl)) s
    change execReshardReady m s = _
    rw [execReshardReady, onMsg_of_turn hk hturn]
    exact congrArg _ ((if_neg (by simp [hlive])).trans (if_neg (by simp [hmine])))
  · intro i k m s hmem hk hlive hmine
    simp only [List.mem_cons, Prod.mk.injEq, List.not_mem_nil, or_false] at hmem
    obtain ⟨rfl, rfl⟩ | ⟨rfl, rfl⟩ := hmem
    · have hturn : msgTurn s m = true := msgTurn_of_unordered (.inl (by rw [hk]; rfl)) s
      change execPlan m s = _
      rw [execPlan, onMsg_of_turn hk hturn]
      exact congrArg _ ((if_neg (by simp [hlive])).trans (if_pos (by simp [hmine])))
    · have hturn : msgTurn s m = true := msgTurn_of_unordered (.inl (by rw [hk]; rfl)) s
      change execReshardReady m s = _
      rw [execReshardReady, onMsg_of_turn hk hturn]
      exact congrArg _ ((if_neg (by simp [hlive])).trans (if_pos (by simp [hmine])))

end Sys2Proof.Rejoins
end


section
/-! PROOF. Copies, regions, and what the host answers (R374, R376 to R378, R385, R386). -/

open Sys2Proof Sys2Proof.Machine Sys2Proof.Claim Sys2Proof.Channels Sys2Proof.RingCmds

namespace Sys2Proof.Copies

/-! ### Copies -/

/-- A copy that passes its checks is queued at its engine (R376 to R378). -/
theorem copyCommand_of_sound {op n : Nat} {d2h : Bool} {src : CmdSrc} {e : Entry} {s : State} (h : Taken op src e s)
    (hopen : copyOpen s (chOf s src e) = true) (hn : n = copyEngine s (bits e.a1 19 17) (if d2h then 6 else 0))
    (hroom : (s.cxl.engines.getD n {}).queue.length < 256)
    (hcheck : copyCheck (begun src e s) (copyOf (cmdOf s src e) d2h) (bits e.a1 19 17) d2h = none) :
    copyCommand op d2h src e s = .next (modCxl (begun src e s) (fun v => { v with engines := v.engines.modify n (fun g =>
      { g with queue := g.queue ++ [copyOf (cmdOf s src e) d2h] }) })) := by
  subst hn
  rw [chOf] at hopen
  rw [copyCommand]
  refine (if_neg (by simpa [hopen] using hroom)).trans ?_
  rw [serve_of_taken h]
  dsimp only
  rw [hcheck]

theorem copyOf_cmdOf (s : State) (src : CmdSrc) (e : Entry) (d2h : Bool) : copyOf (cmdOf s src e) d2h =
    { ch := chOf s src e, pos := some (cmdOf s src e).pos, host := e.a0.toNat, obj := bits e.a1 16 0, offset := e.a2.toNat,
      len := e.a3.toNat, husk := bit e.a1 20, capacity := if d2h then e.a4.toNat else 0 } := by
  rw [copyOf, cmdOf_e, chOf]

/-! ### Vectors -/

/-- A vector goes out while a host is attached. -/
theorem sendMsi_of_host {v : Nat} {s : State} (hstage : s.boot.stage ≠ 4) (hatt : s.cxl.attach = 0) :
    sendMsi v s = modCxl s (fun c => { c with msix := c.msix ++ [v] }) :=
  if_neg (by simp [hstage, hatt])

/-! ### The obligation -/

/-- Settles O21: each command and event by the branches of its definition. -/
theorem copiesAndRegionsAreServed : Obligations.CopiesAndRegionsAreServed := by
  unfold Obligations.CopiesAndRegionsAreServed
  refine ⟨?_, ?_, ?_, ?_, ?_, ?_, ?_⟩
  · intro i op base d2h src e s n hmem h hopen hn hroom hcheck
    rw [← copyOf_cmdOf]
    simp only [List.mem_cons, Prod.mk.injEq, List.not_mem_nil, or_false] at hmem
    obtain ⟨rfl, rfl, rfl, rfl⟩ | ⟨rfl, rfl, rfl, rfl⟩ := hmem
    · exact copyCommand_of_sound h hopen hn hroom hcheck
    · exact copyCommand_of_sound h hopen hn hroom hcheck
  · intro n c y s hn hroom hopen hnext hfind
    change execCopyEngineStart n s = _
    rw [execCopyEngineStart, atUnit_of_lt hn]
    dsimp only
    rw [if_pos (by simpa [hopen] using hroom), hnext]
    dsimp only
    rw [hfind]
  · intro n p y rest s hn hin hend hr hw hpos hhusk
    change execCopyComplete n s = _
    rw [execCopyComplete, atUnit_of_lt hn, hin]
    refine congrArg _ ((if_neg (by simp [hend, hr, hw])).trans ?_)
    dsimp only
    rw [hpos, if_neg (by simp [hhusk])]
  · intro src e s b r o h hb ho hoff hlen hlo hhi hgap hown hsize hwr henc
    subst hb ho
    rw [chOf] at *
    change execRegionRegister src e s = _
    rw [execRegionRegister]
    refine serve_eq_answer h ((if_neg ?_).trans ?_)
    · rintro (h | h | h | h)
      · exact h hoff
      · exact h hlen
      · exact absurd h (Nat.pos_iff_ne_zero.1 hlo)
      · exact absurd h (Nat.not_lt.2 hhi)
    · rw [hgap]
      refine if_neg ?_
      rintro (h | h | ⟨hbit, h⟩ | h)
      · simp [hown] at h
      · exact absurd h (Nat.not_lt.2 hsize)
      · simp [hwr hbit] at h
      · simp [henc] at h
  · intro src e s g h hg hvalid hch hheld
    subst hg
    rw [chOf] at *
    change execRegionRelease src e s = _
    rw [execRegionRelease]
    refine (if_neg ?_).trans (serve_eq_answer h (if_neg (by simp [hvalid, hch])))
    simpa [hvalid] using hheld
  · intro id data r s hfind hwho
    change execHostReadReturn id data s = _
    rw [execHostReadReturn, hfind]
    exact congrArg _ (if_pos hwho)
  · intro id w s hfind hwho hstage hatt
    change execHostWriteGo id s = _
    rw [execHostWriteGo, hfind]
    dsimp only
    rw [hwho]
    refine congrArg _ ?_
    cases w.msi with
    | none => simp
    | some v => exact sendMsi_of_host hstage hatt

end Sys2Proof.Copies
end
